-- ==== Sys2Proof/Word.lean ====
section
/-! DEFINITION. The bytes and words of the Octavo, little-endian fields (R5), and the one kind of finite map the model uses. -/

namespace Sys2Proof

/-- One byte. -/
abbrev Byte := BitVec 8

/-- A run of bytes, byte 0 first. -/
abbrev Bytes := List Byte

/-- A 64-bit counter or register word. -/
abbrev Word := BitVec 64

/-- A finite map from `Nat` keys: pairs with strictly rising keys. -/
abbrev NMap (α : Type) := List (Nat × α)

/-- The value at a key, if the map lists it. -/
def NMap.get? {α : Type} (m : NMap α) (k : Nat) : Option α :=
  (m.find? (fun p => p.1 == k)).map (·.2)

/-- The value at a key, or a default. -/
def NMap.getD {α : Type} (m : NMap α) (k : Nat) (d : α) : α :=
  (NMap.get? m k).getD d

/-- Set a key, keeping the keys strictly rising. -/
def NMap.set {α : Type} : NMap α → Nat → α → NMap α
  | [], k, v => [(k, v)]
  | (k', v') :: m, k, v =>
    if k < k' then (k, v) :: (k', v') :: m
    else if k = k' then (k, v) :: m
    else (k', v') :: NMap.set m k v

/-- Remove a key. -/
def NMap.erase {α : Type} (m : NMap α) (k : Nat) : NMap α :=
  m.filter (fun p => p.1 != k)

/-- Remove every key from `lo` up to, not including, `hi`. -/
def NMap.eraseRange {α : Type} (m : NMap α) (lo hi : Nat) : NMap α :=
  m.filter (fun p => !(decide (lo ≤ p.1) && decide (p.1 < hi)))

/-- Change the value at a key, if the map lists it. -/
def NMap.modify {α : Type} (m : NMap α) (k : Nat) (f : α → α) : NMap α :=
  m.map (fun p => if p.1 = k then (p.1, f p.2) else p)

/-- Whether the map lists a key. -/
def NMap.has {α : Type} (m : NMap α) (k : Nat) : Bool :=
  (NMap.get? m k).isSome

/-- The listed values, by rising key. -/
def NMap.values {α : Type} (m : NMap α) : List α := m.map (·.2)

/-- The little-endian number a run of bytes spells (R5). -/
def leNat : Bytes → Nat
  | [] => 0
  | b :: bs => b.toNat + 256 * leNat bs

/-- The `n` little-endian bytes of a number (R5). -/
def leBytes : Nat → Nat → Bytes
  | 0, _ => []
  | n + 1, v => BitVec.ofNat 8 v :: leBytes n (v / 256)

/-- Bits `h` down to `l` of a number, both ends included (R5). -/
def bitsOf (v h l : Nat) : Nat := v / 2 ^ l % 2 ^ (h + 1 - l)

/-- One bit of a number. -/
def bitOf (v i : Nat) : Bool := v.testBit i

/-- `⌈a / b⌉` on naturals. -/
def ceilDiv (a b : Nat) : Nat := (a + b - 1) / b

/-- A count that saturates at the largest value of a field of `w` bits (R62). -/
def satBits (w v : Nat) : Nat := min v (2 ^ w - 1)

/-- A two's complement reading of `w` bits. -/
def signedOf (w v : Nat) : Int :=
  if v < 2 ^ (w - 1) then (v : Int) else (v : Int) - (2 : Int) ^ w

/-- The two's complement field of `w` bits that holds an integer. -/
def fieldOfInt (w : Nat) (i : Int) : Nat := (i % (2 : Int) ^ w).toNat

/-- Bit 1 for true, for fields of one bit. -/
def b2n (b : Bool) : Nat := if b then 1 else 0

end Sys2Proof
end

