-- ==== Sys2Proof/Syntax.lean ====
section
/-! DEFINITION. The commands of the block, one constructor for each row of the command table, and the data they carry. -/

namespace Sys2Proof

/-- A message of an external link: the header fields of Table 17-6 that carry information, and the payload (R398). -/
structure Msg where
  type : Nat := 0
  final : Bool := false
  group : Nat := 0
  opSeq : Nat := 0
  attempt : Nat := 0
  srcRank : Nat := 0
  dstRank : Nat := 0
  segment : Nat := 0
  length : Nat := 0
  source : Nat := 0
  aux : Nat := 0
  payload : Bytes := []
  deriving DecidableEq, Repr

/-- A message of a spine stream: source and destination die, channel, sequence number (R377), and the kind (0 quire, 1 spine link, 2 the die's own sequencers), physical id and generation of the issuing unit (R384). `size`, when not 0, is its bytes in Table 16-2, of a message whose content the model does not form. -/
structure SpineMsg where
  src : Nat := 0
  dst : Nat := 0
  channel : Nat := 0
  seqNo : BitVec 32 := 0
  kind : Nat := 2
  unit : Nat := 0
  gen : Nat := 0
  payload : Bytes := []
  size : Nat := 0
  deriving DecidableEq, Repr

/-- What a unit's request carries beside its physical id: its generation (R384), and the number of its message in the stream from its die to the home die (R377). -/
structure Stamp where
  gen : Nat := 0
  seqNo : BitVec 32 := 0
  deriving DecidableEq, Repr

/-- The way of a LINE_ADD: from a die to the staging die, issued by a unit with its stamp (R377, R380, R384). -/
structure AddRoute where
  src : Nat := 0
  dst : Nat := 0
  kind : Nat := 2
  unit : Nat := 0
  stamp : Stamp := {}
  deriving DecidableEq, Repr

/-- The atomic operations of Table 14-4; `lineAdd` is the one on an HBM line at its home slice, LINE_ADD of collective staging being a row of its own. -/
inductive AtomicOp where
  | add | maxU | maxS | minU | minS | and | or | xor | swap | cas | lineAdd
  deriving DecidableEq, Repr

/-- What an atomic request asks for: an operation, and the old value or not (R332). -/
structure AtomicReq where
  op : AtomicOp
  wantOld : Bool
  deriving DecidableEq, Repr

/-- What the HBM line that an access or a patrol scrub reads holds: the part chooses its own pages, so the event says it (R340, R544). `off` is a byte offset in the slot space of the object's version, or in the frame. -/
inductive LineUse where
  | unused
  | object (part handle version off die : Nat)
  | frame (die frame off : Nat)
  | versionMap (part : Nat)
  | tablePage (part : Nat)
  | root (part : Nat)
  deriving DecidableEq, Repr

/-- What a report is about, beyond its record: the structure whose check failed (Tables 14-6, 23-1 and 23-5). -/
inductive Found where
  /-- Nothing but the record. -/
  | nothing
  /-- The CRC between compute die and base die failed on a request for a line of a stack, at first and on `failures - 1` retries (R336). -/
  | baseDie (stack line failures : Nat) (holds : LineUse)
  /-- A line of a stack that the line code cannot correct in a demand read (R337). -/
  | hbmLine (stack line : Nat) (holds : LineUse)
  /-- An uncorrectable word of a copy in the quire store of a logical quire (R337). -/
  | storeWord (die quire key version ingot word : Nat)
  /-- Uncorrectable data of a shared-cache line, by native line index (R337). -/
  | cacheData (line : Nat) (holds : LineUse)
  /-- An uncorrectable tag of a way of a shared-cache set, and what its line holds (R337). -/
  | cacheTag (die set way : Nat) (holds : LineUse)
  /-- An uncorrectable word of the system region, by byte offset: the partition and the command whose state it holds, and whether its line is dirty (R337, R544). -/
  | systemWord (die off part cmd : Nat) (dirty himon : Bool)
  deriving DecidableEq, Repr

/-- A report to an error concentrator (R537); `sev` is read for class SYSREG_UE only (R536); `found` says what failed. -/
structure Report where
  origin : Nat := 0
  cls : Nat := 0
  reporter : Nat := 0
  status : Nat := 0
  detail : Nat := 0
  info : Nat := 0
  partition : Nat := 0xFF
  sev : Nat := 0
  found : Found := .nothing
  deriving DecidableEq, Repr

/-- The samples of one clamp update: currents in 0.1 A, temperature in degrees, power in mW (R519). -/
structure ClampReading where
  sampleDa : Nat := 0
  mean1msDa : Nat := 0
  alert : Bool := false
  tj : Int := 0
  pkg1ms : Nat := 0
  pkg100ms : Nat := 0
  deriving DecidableEq, Repr

/-- The readings of one telemetry update: package power means, and for each die VCORE mV, VCORE 0.1 A, peak 0.1 A, VSRAM mV, VSRAM 0.1 A and hottest junction (Table 22-7). -/
structure TelemetryReading where
  pkg1ms : Nat := 0
  pkg100ms : Nat := 0
  vcoreMv : List Nat := []
  vcoreDa : List Nat := []
  peakDa : List Nat := []
  vsramMv : List Nat := []
  vsramDa : List Nat := []
  tj : List Int := []
  deriving DecidableEq, Repr

/-- The commands, in the order of the command table. -/
inductive Instr where
  /-- R142: Work-ring command that runs a planned matrix product, convolution or pooling over registered objects and commits its output. -/
  | tensorOp (cmd : Nat)
  /-- R176: Work-ring command with MODE 0x00 that computes softmax attention for query blocks over selected key blocks. -/
  | attend (cmd : Nat)
  /-- R183: ATTEND with MODE 0x01 that reads keys and values and writes every sketch entry and the header of the sketch object. -/
  | attendBuildSketches (cmd : Nat)
  /-- R284: SEQ_STEP OPEN that checks the step list, checks each entry and reserves frames for existing sequences and joins. -/
  | seqStepOpen (cmd : Nat)
  /-- R286: SEQ_STEP APPEND that quantises one layer's keys and values into the reserved leaves and rewrites the touched sketches. -/
  | seqStepAppend (cmd : Nat)
  /-- R288: SEQ_STEP CLOSE that advances committed lengths, retires leaving sequences, parks exhausted ones and releases the step. -/
  | seqStepClose (cmd : Nat)
  /-- R289: SEQ_STEP CANCEL that returns every reservation and written leaf, restores boundary sketches and frees the step's joins. -/
  | seqStepCancel (cmd : Nat)
  /-- R295: Creates a child sequence that shares the parent's leaves below LENGTH, copying the boundary leaf when needed. -/
  | seqFork (cmd : Nat)
  /-- R296: Retires an ACTIVE or PARKED sequence that no step holds, once earlier commands naming it have written their records. -/
  | seqFree (cmd : Nat)
  /-- R372: Copies ingots or bytes between two objects of the same kind into the inactive version of the destination. -/
  | moveCopy (cmd : Nat)
  /-- R372: Reads slots or bytes from host memory into an object, checking headers and finite values slot by slot. -/
  | moveImport (cmd : Nat)
  /-- R372: Writes a range of an object to host memory in ingot-slot layout. -/
  | moveExport (cmd : Nat)
  /-- R372: Writes the restore image of a sequence that is not held, or is PARKED, to host memory, with optional host hashes. -/
  | moveSeqExport (cmd : Nat)
  /-- R418: Streams an object range to a peer part over a named link, paired by TRANSFER_ID. -/
  | movePeerSend (cmd : Nat)
  /-- R418: Receives a peer transfer into the inactive version of its destination and commits once every byte has arrived. -/
  | movePeerRecv (cmd : Nat)
  /-- R372: Moves both versions of an object to a new home tier and placement, charging the new storage before releasing the old. -/
  | moveRetier (cmd : Nat)
  /-- R404: Exact sum or maximum of every member's sources, with each member receiving the whole result. -/
  | collectiveAllReduce (cmd : Nat)
  /-- R403: Exact reduction in which each member receives only its own chunk of the result. -/
  | collectiveReduceScatter (cmd : Nat)
  /-- R403: Gathers every member's source, in rank order, into every member's destination. -/
  | collectiveAllGather (cmd : Nat)
  /-- R403: Copies the root's source into every member's destination. -/
  | collectiveBroadcast (cmd : Nat)
  /-- R461: Opens a codec stream on an engine slot and reserves REF_SLOTS + 1 frame buffers. -/
  | codecOpen (cmd : Nat)
  /-- R465: Encodes one frame, as a key picture or an inter frame, and updates the stream's reference slots at commit. -/
  | codecEncode (cmd : Nat)
  /-- R474: Decodes one AV1 temporal unit or HEVC access unit into raw planar output. -/
  | codecDecode (cmd : Nat)
  /-- R464: Releases a stream's buffers and quota and frees its slot. -/
  | codecClose (cmd : Nat)
  /-- R467: Sets the stream's pending key request at commit. -/
  | codecKeyReq (cmd : Nat)
  /-- R266: Decodes, filters and suppresses detection boxes for each image on the pixel engines. -/
  | detectPost (cmd : Nat)
  /-- R54: Completes OK once every earlier command of its ring has written its record, and holds later commands until then. -/
  | barrier (cmd : Nat)
  /-- R54: SIGNAL with OP 0x00, which adds VALUE to a fence count. -/
  | signalAdd (cmd : Nat)
  /-- R54: SIGNAL with OP 0x01, which sets a fence count to VALUE and clears poison. -/
  | signalSet (cmd : Nat)
  /-- R54: SIGNAL with OP 0x02, which poisons a fence. -/
  | signalPoison (cmd : Nat)
  /-- R54: Holds its ring until a fence condition holds, failing if the fence is poisoned. -/
  | wait (cmd : Nat)
  /-- R453: Removes the target command of a ring by TAG, unless the target has passed its decision point. -/
  | abort (cmd : Nat)
  /-- R222: ROUTE in LENGTH_BUCKET mode, which writes the order list and bucket table of a ragged batch. -/
  | routeLengthBucket (cmd : Nat)
  /-- R229: ROUTE in EXPERT_DISPATCH mode: top-k expert selection, gates, capacity ranking and copying of dispatch rows. -/
  | routeExpertDispatch (cmd : Nat)
  /-- R225: ROUTE in LENGTH_PACK mode, which packs item rows to consecutive rows or unpacks them, and writes the row map. -/
  | routeLengthPack (cmd : Nat)
  /-- R233: ROUTE in EXPERT_COMBINE mode, which sums gated expert output rows per token in slot order. -/
  | routeExpertCombine (cmd : Nat)
  /-- R311: Brings a PARKED sequence back to ACTIVE by copying its demoted leaves into new frames. -/
  | seqRestoreUnpark (cmd : Nat)
  /-- R312: Loads an empty ACTIVE sequence from a restore image, sharing prefix-tree groups where hashes match. -/
  | seqRestoreImage (cmd : Nat)
  /-- R440: Creates a partition with its quire groups, serving function and admin ring pair. -/
  | partCreate (cmd : Nat)
  /-- R442: Kills a partition's commands and returns all of its rings, sequences, objects, models and settings. -/
  | partDestroy (cmd : Nat)
  /-- R39: Creates a work submission ring or a completion ring of the partition. -/
  | ringCreate (cmd : Nat)
  /-- R40: Destroys a ring, dropping unadmitted descriptors and waiting for admitted commands. -/
  | ringDestroy (cmd : Nat)
  /-- R57: Reads, checks and installs a plan image into the plan stores of the partition's dies. -/
  | planInstall (cmd : Nat)
  /-- R18: Retires a plan once the admitted commands that use it have finished. -/
  | planRetire (cmd : Nat)
  /-- R211: Loads a checked table image into a slot's inactive bank and makes that bank active at commit. -/
  | tableLoad (cmd : Nat)
  /-- R211: TABLE_LOAD with ACTION clear, which leaves the slot empty at commit. -/
  | tableClear (cmd : Nat)
  /-- R350: Registers a tensor or byte object with its placement and charges its storage to the quotas. -/
  | objectRegister (cmd : Nat)
  /-- R359: Frees both versions of an object once admitted commands naming it have finished. -/
  | objectRelease (cmd : Nat)
  /-- R428: Loads a signed model package from the host or by relay into REPLICATE model objects. -/
  | modelLoad (cmd : Nat)
  /-- R434: MODEL_LOAD with ACTION unload, which releases a model that no alloy binds. -/
  | modelUnload (cmd : Nat)
  /-- R436: Binds a base model and up to 16 adapter copies under the partition's handles. -/
  | alloyBind (cmd : Nat)
  /-- R437: Releases an alloy's copies and aliases once no admitted command names them. -/
  | alloyUnbind (cmd : Nat)
  /-- R509: POWER_SET ACTION 0x00, which moves the package between states PK0 to PK4. -/
  | powerSetPackageState (cmd : Nat)
  /-- R513: POWER_SET ACTION 0x01, which changes the arithmetic point of the selected dies. -/
  | powerSetArithPoint (cmd : Nat)
  /-- R516: POWER_SET ACTION 0x02, which switches quire groups off after their units end. -/
  | powerSetGroupsOff (cmd : Nat)
  /-- R516: POWER_SET ACTION 0x03, which switches quire groups on. -/
  | powerSetGroupsOn (cmd : Nat)
  /-- R516: POWER_SET ACTION 0x04, which switches quire groups off and then on again after 100 µs. -/
  | powerSetGroupsCycle (cmd : Nat)
  /-- R529: Package admin command that captures the part's state and writes the Colophon record. -/
  | colophon (cmd : Nat)
  /-- R494: Writes a signed measurement report of package or partition scope. -/
  | attest (cmd : Nat)
  /-- R400: GROUP_SET with ACTION set, which defines a collective group from a member list. -/
  | groupSet (cmd : Nat)
  /-- R400: GROUP_SET with ACTION clear, which frees a group entry. -/
  | groupClear (cmd : Nat)
  /-- R389: Power-cycles a fenced quire, or retrains a fenced link, and starts its self-test. -/
  | unitReturn (cmd : Nat)
  /-- R443: Checks a list of setting items in three passes and applies them together at commit. -/
  | quotaSet (cmd : Nat)
  /-- R499: KEY_IMPORT ACTION 0x00, which unwraps a content key into a slot. -/
  | keyImportContent (cmd : Nat)
  /-- R499: KEY_IMPORT ACTION 0x01, which sets a publisher key slot. -/
  | keySetPublisher (cmd : Nat)
  /-- R500: KEY_IMPORT ACTION 0x02, which clears a content key slot. -/
  | keyClearContent (cmd : Nat)
  /-- R500: KEY_IMPORT ACTION 0x03, which clears a publisher key slot. -/
  | keyClearPublisher (cmd : Nat)
  /-- R345: MEM_MARGIN KIND 0x00, a passive read-eye scan on live traffic. -/
  | memMarginReadScan (cmd : Nat)
  /-- R344: MEM_MARGIN KIND 0x01, a timing sweep of the selected channels. -/
  | memMarginTiming (cmd : Nat)
  /-- R344: MEM_MARGIN KIND 0x02, a voltage sweep of the selected channels. -/
  | memMarginVoltage (cmd : Nat)
  /-- R344: MEM_MARGIN KIND 0x03, a timing and voltage sweep of the selected channels. -/
  | memMarginTimingVoltage (cmd : Nat)
  /-- R489: Mailbox command that writes up to 64 KiB of image data into the slot that is not running. -/
  | fwWrite (stores : List Host.Cell)
  /-- R489: Mailbox command that verifies the written slot and sets it TRIAL. -/
  | fwActivate (stores : List Host.Cell)
  /-- R489: Mailbox command that sets the running trial slot GOOD and raises the rollback floor. -/
  | fwConfirm (stores : List Host.Cell)
  /-- R489: Mailbox command that returns both slots' states, the floor and the running slot. -/
  | fwStatus (stores : List Host.Cell)
  /-- R505: Mailbox command that stores a signed unlock token for the next cold boot. -/
  | debugUnlock (stores : List Host.Cell)
  /-- R496: SPDM GET_VERSION request answered by the responder. -/
  | spdmGetVersion (transport session : Nat) (req : Bytes)
  /-- R496: SPDM GET_CAPABILITIES request answered by the responder. -/
  | spdmGetCapabilities (transport session : Nat) (req : Bytes)
  /-- R496: SPDM NEGOTIATE_ALGORITHMS request answered by the responder. -/
  | spdmNegotiateAlgorithms (transport session : Nat) (req : Bytes)
  /-- R496: SPDM GET_DIGESTS request for certificate slot 0. -/
  | spdmGetDigests (transport session : Nat) (req : Bytes)
  /-- R491: SPDM GET_CERTIFICATE request, which returns the certificate chain of slot 0. -/
  | spdmGetCertificate (transport session : Nat) (req : Bytes)
  /-- R496: SPDM CHALLENGE request answered with a signature by the alias key. -/
  | spdmChallenge (transport session : Nat) (req : Bytes)
  /-- R496: SPDM GET_MEASUREMENTS request for package measurements 0x01 to 0x06. -/
  | spdmGetMeasurements (transport session : Nat) (req : Bytes)
  /-- R496: SPDM KEY_EXCHANGE that opens a session, or is answered BUSY when the session limit is reached. -/
  | spdmKeyExchange (transport session : Nat) (req : Bytes)
  /-- R496: SPDM FINISH request that completes session establishment. -/
  | spdmFinish (transport session : Nat) (req : Bytes)
  /-- R496: SPDM KEY_UPDATE request that rekeys a session. -/
  | spdmKeyUpdate (transport session : Nat) (req : Bytes)
  /-- R496: SPDM HEARTBEAT request within a session. -/
  | spdmHeartbeat (transport session : Nat) (req : Bytes)
  /-- R496: SPDM END_SESSION request that closes a session. -/
  | spdmEndSession (transport session : Nat) (req : Bytes)
  /-- R501: IDE_KM request over secured SPDM on DOE that delivers or activates IDE stream keys. -/
  | ideKmRequest (session stream : Nat) (activate : Bool)
  /-- R42: 32-bit write of a submission ring's tail doorbell, which sets the tail or is dropped. -/
  | submissionTailDoorbell (fn off width value : Nat) (stores : List Host.Cell)
  /-- R52: Tail doorbell write with RESUME set, which clears the ring's halt. -/
  | resume (fn off width value : Nat) (stores : List Host.Cell)
  /-- R51: Head doorbell write that returns completion slots, or is dropped when it runs past the written records. -/
  | completionHeadDoorbell (fn off width value : Nat)
  /-- R64: Head doorbell write with ARM set, which rearms the ring's interrupt and re-evaluates its conditions. -/
  | arm (fn off width value : Nat)
  /-- R325: Write of MEM_MAP_CTRL, which takes effect only while no partition exists. -/
  | memMapCtrlWrite (value : Nat)
  /-- R395: Write of a link's VC weights, which take effect at the start of the next round. -/
  | xlinkVcWeightWrite (link value : Nat)
  /-- R504: Write of XLINK_SEC, which sets encryption for the next session and ends the current one. -/
  | xlinkSecWrite (link value : Nat)
  /-- R548: Write of XLINK_TEST, which takes the link down for a test mode or returns it to retraining. -/
  | xlinkTestWrite (link value : Nat)
  /-- R553: Write of PART_ID, which takes effect only while no group is set or relay load admitted, and resends HELLO. -/
  | partIdWrite (value : Nat)
  /-- R554: ERR_CLEAR with ALL set, which clears every record of a concentrator. -/
  | errClearAll (die : Nat)
  /-- R554: ERR_CLEAR with PENDING_ONLY set, which clears PENDING and DEFERRED of one record. -/
  | errClearPendingOnly (die slot : Nat)
  /-- R554: ERR_CLEAR of one record slot, applied in the concentrator's order of handling. -/
  | errClearSlot (die slot : Nat)
  /-- R541: Writing 1 to a die's PENDING bit clears PENDING in every record of that die. -/
  | errSummaryPendingClear (mask : Nat)
  /-- R553: DEBUG_LOCK write that removes a stored debug unlock token. -/
  | discardToken
  /-- R531: Register-initiated Colophon capture for use when no ring is usable. -/
  | colophonReqGo (value : Nat)
  /-- R555: Writing ENABLE = 1 checks the package admin ring fields and starts the ring. -/
  | packageAdminEnable (value : Nat)
  /-- R555: Writing ENABLE = 0 stops fetching and drops unfetched descriptors of the package admin ring. -/
  | packageAdminDisable (value : Nat)
  /-- R561: SNAP_SEL GO that captures a descriptor, temper entry, accounting record or error record into SNAP_DATA. -/
  | snapCapture (pf : Bool) (part kind index : Nat)
  /-- R562: SNAP_SEL GO with CLEAR set, which captures and then clears the structure in one action. -/
  | snapCaptureClear (pf : Bool) (part kind index : Nat)
  /-- R588: W1C of a window's VF_ERR_PENDING bits, which leaves other windows and the records unchanged. -/
  | vfErrPendingClear (pf : Bool) (part mask : Nat)
  /-- R549: Aligned write to a BAR0 register that has no behaviour of its own, such as a W1C status bit or a configuration field. -/
  | registerWrite (fn off width value : Nat)
  /-- R549: A BAR0 access that is not naturally aligned or not 32/64 bits: reads return zero, writes are ignored, and the access is recorded once. -/
  | bar0BadAccess (fn off width : Nat) (isWrite : Bool) (value : Nat)
  /-- R44: The part fetches up to 32 descriptors of a submission ring behind a new tail. -/
  | descriptorFetch (owner ring : Nat)
  /-- R48: The dispatcher admits the next command of a ring once ordering, halt and completion-slot conditions allow. -/
  | commandAdmit (owner ring : Nat)
  /-- R445: An admitted command that waited for planes, Bindery reservation, staging or an engine takes its first unit or action. -/
  | commandStart (cmd : Nat)
  /-- R158: A free plane claims an output-tile group or query block at its die's head, or steals one from another die. -/
  | unitClaim (cmd die quire plane : Nat)
  /-- R189: The block selector completes a query block's selected set, which makes it claimable. -/
  | blockSelectionDone (cmd qb : Nat)
  /-- R167: The delta scan completes on every die and tile distribution begins with the skip decisions. -/
  | deltaScanDone (cmd : Nat)
  /-- R216: The statistics scan completes, the cells are converted to mean and factor, and tile distribution begins. -/
  | normScanDone (cmd : Nat)
  /-- R367: A staged operand ingot arrives in T0 and waiting uses proceed; a late one is kept for later uses. -/
  | ingotArrival (cmd operand ingot : Nat)
  /-- R369: A T3 fetch completes with a PCI Express error and is treated as never arriving, or fails a STALL command. -/
  | t3FetchError (cmd operand ingot : Nat)
  /-- R365: A use's deadline passes without its ingot, and the use takes the fallback class in force. -/
  | useDeadlineExpiry (cmd tile operand ingot : Nat) (t : Word)
  /-- R367: A STALL wait at one use exceeds STALL_LIMIT and the command fails E_TIER_DEADLINE. -/
  | stallLimitExpiry (cmd tile operand ingot : Nat) (t : Word)
  /-- R139: A plane finishes an output tile's contraction and reads out, applies the epilogue, converts and writes the ingot. -/
  | tileComplete (cmd tile quire : Nat) (residueOk : Bool)
  /-- R59: A command reaches its decision point and commits, or fails, and writes its single completion record. -/
  | commandCommit (cmd : Nat)
  /-- R379: A die receives COMMIT on CTL, performs its part of steps 1 to 4 and acknowledges. -/
  | commitMessage (die cmd : Nat)
  /-- R379: The home die receives a commit acknowledgement and writes the record when all have arrived. -/
  | commitAck (die cmd : Nat)
  /-- R378: A die receives an admitted descriptor over CTL and its sequencer cuts its own segment. -/
  | admittedDescriptorReceive (die cmd : Nat)
  /-- R290: The walk releasing a RETIRED sequence's leaves and pages ends and the index becomes FREE. -/
  | seqReleaseComplete (index : Nat)
  /-- R448: A high-priority command has waited PREEMPT_DELAY, and the dispatcher kills one victim. -/
  | preemptDelayExpiry (cmd : Nat) (t : Word)
  /-- R413: A deferred collective pre-emption reaches PREEMPT_GRACE: the member sends ABORT and is killed. -/
  | preemptGraceExpiry (cmd : Nat) (t : Word)
  /-- R54: A WAIT's TIMEOUT_US expires and it completes E_TIMEOUT. -/
  | waitTimeout (cmd : Nat) (t : Word)
  /-- R64: The oldest record beyond the head has waited MOD_TIME µs and the armed ring sends its vector. -/
  | modTimeExpiry (owner cq : Nat) (t : Word)
  /-- R446: Every 100,000 ticks a die halves every ring's SERVED count. -/
  | servedHalving (die : Nat) (t : Word)
  /-- R456: Every µs each bandwidth regulator's bucket is refilled by RATE up to BURST. -/
  | regulatorRefill (die : Nat) (t : Word)
  /-- R586: Every 100 ticks a die sends its segments' remaining counts to the partition's other dies. -/
  | segmentCountSend (die cmd : Nat) (t : Word)
  /-- R586: A die receives another die's remaining count for use in steals. -/
  | segmentCountReceive (dst src cmd count : Nat)
  /-- R330: A read or write of an HBM line arrives at its home slice and is performed in the line's total order. -/
  | farAccessRequest (die kind unit : Nat) (gen : Stamp) (addr : Nat) (isWrite : Bool) (data : Bytes)
  /-- R332: An atomic on an HBM line is performed at its home slice. -/
  | atomicRequest (die kind unit : Nat) (gen : Stamp) (addr : Nat) (req : AtomicReq) (width operand comparand : Nat)
  /-- R380: A LINE_ADD message is added by the collective engine into a line of its collective staging. -/
  | lineAdd (die : AddRoute) (line : Nat) (addends : List Nat)
  /-- R377: A spine message is accepted in stream order, dropped as a duplicate, or dropped by a fence port. -/
  | spineMessageReceive (m : SpineMsg)
  /-- R384: Every 100 µs Himon sends a heartbeat probe to each quire of its die. -/
  | quireProbe (die : Nat) (t : Word)
  /-- R384: A quire's responder answers a probe with its physical id and generation. -/
  | probeAnswer (die phys gen : Nat)
  /-- R384: Every 10 µs each end of a spine link sends a heartbeat flit on CTL. -/
  | spineHeartbeatSend (die far : Nat) (t : Word)
  /-- R384: A heartbeat flit arrives from the far end of a spine link. -/
  | spineHeartbeatReceive (die far gen : Nat)
  /-- R385: A heartbeat interval ends with no valid answer; after three misses Himon fences the unit. -/
  | heartbeatMiss (die kind unit : Nat) (t : Word)
  /-- R385: Every port has acknowledged a fence: a spare takes over the logical id and killed commands rerun. -/
  | fenceAcksComplete (die kind unit : Nat)
  /-- R390: A UNIT_RETURN self-test ends and the unit returns to service or stays fenced. -/
  | selfTestDone (cmd verdict : Nat)
  /-- R381: A spine lane reaches 16 CRC errors within 1 ms and is remapped, with the link moving its streams to a detour. -/
  | laneRemap (a b dir lane : Nat)
  /-- R381: A spine link finishes retraining and its streams return to the direct path. -/
  | spineRetrainDone (a b : Nat)
  /-- R393: A data frame of an external link is accepted in SEQ order, or discarded with a NAK. -/
  | linkDataFrame (link vc seqNo : Nat) (crcOk : Bool) (payload : Bytes)
  /-- R393: A control frame returns credits and acknowledges data frames. -/
  | linkControlFrame (link seqNo : Nat) (crcOk : Bool) (credits : List Nat) (ack : Nat)
  /-- R393: A control frame with NAK makes the transmitter resend every frame after the named SEQ. -/
  | linkNak (link seqNo : Nat) (credits : List Nat) (ack : Nat)
  /-- R393: A receiver sends a control frame at least every 500 ns while frames are unacknowledged. -/
  | linkControlTimer (link : Nat) (t : Word)
  /-- R397: A link retrain succeeds within 10 ms and its streams resume with no loss. -/
  | linkRetrainDone (link : Nat)
  /-- R397: A retrain does not succeed within 10 ms and the link is marked down. -/
  | linkRetrainTimeout (link : Nat) (t : Word)
  /-- R397: Himon retries training a down link every 1 s. -/
  | linkTrainingRetry (link : Nat) (ok : Bool) (t : Word)
  /-- R504: An encrypted session reaches 2^48 messages in one direction and ends. -/
  | linkSessionLimit (link : Nat)
  /-- R397: A HELLO message records the peer's PART_ID and link number. -/
  | hello (link : Nat) (m : Msg)
  /-- R416: A collective fingerprint arrives and is matched, or fails the member E_COLL_MISMATCH. -/
  | fprint (link : Nat) (m : Msg)
  /-- R409: An owner's GRANT raises the highest segment a member may contribute to. -/
  | grant (link : Nat) (m : Msg)
  /-- R404: A contribution of one source is added exactly into the owner's wide accumulators. -/
  | contrib (link : Nat) (m : Msg)
  /-- R409: A RESULT message's rounded elements are written into the destination. -/
  | result (link : Nat) (m : Msg)
  /-- R410: A DONE message arrives; the member commits when all N − 1 have arrived. -/
  | done (link : Nat) (m : Msg)
  /-- R412: ABORT without FINAL makes a member discard its attempt and restart the next one. -/
  | collAbort (link : Nat) (m : Msg)
  /-- R415: ABORT with FINAL fails an uncommitted member E_COLL_EPOCH_ABORT or E_COLL_MISMATCH. -/
  | collAbortFinal (link : Nat) (m : Msg)
  /-- R417: A member waits TIMEOUT_MS for a needed message and fails E_COLL_TIMEOUT. -/
  | collTimeout (cmd : Nat) (t : Word)
  /-- R401: A message addressed to another rank is forwarded unchanged on this part's link for that rank. -/
  | messageForward (link : Nat) (m : Msg)
  /-- R398: A message of unknown type, on the wrong VC, or for no matching group entry is dropped and recorded once. -/
  | messageDrop (link vc : Nat) (m : Msg)
  /-- R418: A receiver's PEER_READY is paired with a PEER_SEND, or waits, and the lengths are compared. -/
  | peerReady (link : Nat) (m : Msg)
  /-- R418: Peer data is written into the inactive version of the receiver's destination. -/
  | peerData (link : Nat) (m : Msg)
  /-- R418: PEER_DONE lets the sender commit. -/
  | peerDone (link : Nat) (m : Msg)
  /-- R419: PEER_ABORT restarts or fails a peer transfer as ABORT does for collectives. -/
  | peerAbort (link : Nat) (m : Msg)
  /-- R419: A peer transfer makes no progress for 1,000 ms and fails E_COLL_TIMEOUT. -/
  | peerTimeout (cmd : Nat) (t : Word)
  /-- R430: A downstream part's RELAY_READY allows the upstream part to send the manifest and shards. -/
  | relayReady (link : Nat) (m : Msg)
  /-- R430: Manifest bytes arrive from upstream for checking. -/
  | relayManifest (link : Nat) (m : Msg)
  /-- R424: Shard bytes arrive from upstream and are hashed as they come. -/
  | relayShard (link : Nat) (m : Msg)
  /-- R433: A downstream part acknowledges a verified shard. -/
  | relayAck (link : Nat) (m : Msg)
  /-- R430: A downstream part asks for a shard again, and it is resent ahead of unsent shards. -/
  | relayNak (link : Nat) (m : Msg)
  /-- R431: The peer's load has ended: remaining shards come from the host, or the commit wait ends. -/
  | relayAbort (link : Nat) (m : Msg)
  /-- R424: A shard's digest check completes 2 µs after its last byte, so it is decrypted, written and forwarded, or marked bad. -/
  | shardVerified (cmd shard : Nat)
  /-- R431: SHARD_TIMEOUT_MS pass for an incomplete shard, which is then requested again or read from the host. -/
  | shardMissingTimeout (cmd shard : Nat) (t : Word)
  /-- R430: A relay part has no manifest 1,000 ms after admission and reads it from MANIFEST_ADDR or fails. -/
  | relayManifestTimeout (cmd : Nat) (t : Word)
  /-- R433: SHARD_TIMEOUT_MS pass with no message from downstream and the load commits. -/
  | downstreamTimeout (cmd : Nat) (t : Word)
  /-- R476: A codec engine finishes a frame or image and picks the next item in the order of live, partition, priority and admission. -/
  | codecFrameBoundary (die : Nat)
  /-- R538: A concentrator handles one report, merging it into a record or creating or replacing one. -/
  | errorReport (rep : Report)
  /-- R540: A record with DEFERRED set is notified when NOTIFIED + 100,000 ticks arrives. -/
  | errorDeferredNotify (die slot : Nat) (t : Word)
  /-- R340: The base die reads a line, writes back corrected data, or poisons an uncorrectable line. -/
  | patrolScrub (stack line outcome : Nat) (holds : LineUse)
  /-- R547: Himon asks the security core to add a repair record for a failing HBM row. -/
  | repairRecordAdd (typ die macroId address : Nat)
  /-- R358: Dirty T3 content is written back to host memory when the link has been idle for 10 µs or T2 cache space is needed. -/
  | t3WriteBack (part handle ingot : Nat)
  /-- R519: Every µs each die samples current and its clamp conditions and moves its throttle level. -/
  | clampUpdate (die : Nat) (reading : ClampReading) (t : Word)
  /-- R341: Every 1 ms the base die reports its stack temperature and sets the refresh rate and the stack clamp. -/
  | stackTempReport (stack : Nat) (temp : Int) (t : Word)
  /-- R521: A junction reaches 115 °C or a stack exceeds 100 °C, so the part asserts THERM_TRIP_N and stops. -/
  | protectiveTrip (isStack : Bool) (unit : Nat) (temp : Int)
  /-- R519: Every 100 ms the current sensing is calibrated against READ_IOUT. -/
  | ioutCalibration (die iout sensed : Nat) (t : Word)
  /-- R522: Every 1 ms Himon updates the telemetry block under the SEQ protocol. -/
  | telemetryRefresh (reading : TelemetryReading) (t : Word)
  /-- R522: Every 10 ms the rails other than VCORE and VSRAM are read over PMBus. -/
  | railPoll (mw : List Nat) (t : Word)
  /-- R508: A PMB_ALERT_N assertion or an AVSBus status fault raises a regulator error record. -/
  | pmbAlert (kind die rail : Nat)
  /-- R513: The regulator settles at a raised set-point and the frequency change follows. -/
  | apSettleDone (die : Nat)
  /-- R515: 100 µs after a POWER_SET 0x04 switches groups off, they are switched on. -/
  | groupsCycleOnTimer (t : Word)
  /-- R516: 20 µs after being switched on, a quire group serves work. -/
  | quireGroupReady (group : Nat) (t : Word)
  /-- R530: The capture ends, the Colophon record is written and DONE, ERROR or the command record follows. -/
  | colophonCaptureDone
  /-- R545: A capture in the fatal state that cannot finish within 10 ms sets ERROR. -/
  | colophonFatalTimeout (t : Word)
  /-- R562: A snapshot capture ends within 2 or 4 µs, with its RESULT and DONE set. -/
  | snapCaptureDone (pf : Bool) (part : Nat)
  /-- R556: A security mailbox command ends, setting RESULT and DONE and clearing GO. -/
  | mailboxCommandDone (dmaOk : Bool)
  /-- R502: An IDE stream enters the insecure state: DMA on it stops and its commands fail E_IDE_STREAM. -/
  | ideStreamInsecure (stream : Nat)
  /-- R525: First application of V1P8_AUX starts a cold reset with cause 0x00. -/
  | v1p8AuxApplied
  /-- R577: Removal of V1P8_AUX turns the part off and ends a latched trip. -/
  | v1p8AuxRemoved
  /-- R577: PKG_RST_N asserted leads to a cold reset whatever else is happening. -/
  | pkgRstNAssert
  /-- R486: Himon reports ready after every die's start-up, which clears FAILS and sets READY. -/
  | himonReady
  /-- R486: Himon has not reported ready 5 s after hand-off and the security core resets the package. -/
  | himonWatchdogExpiry (t : Word)
  /-- R508: PWR_GOOD falls while PWR_REQ_N is asserted, stopping all units and causing a cold reset. -/
  | pwrGoodLoss
  /-- R526: PERST_N asserted in PK0 to PK2 after READY causes a warm reset. -/
  | perstNAssert
  /-- R528: PERST_N released runs a warm start-up, including from PK3. -/
  | perstNRelease
  /-- R34: A PF function-level reset performs the warm reset. -/
  | pfFlr
  /-- R33: A VF function-level reset kills the served partition's uncommitted commands, destroys its work rings and resets its fences. -/
  | vfFlr (vf : Nat)
  /-- R528: Release of PKG_RST_N with V1P8_AUX good starts step 1 of the cold start-up. -/
  | pkgRstNRelease
  /-- R507: The board asserts PWR_GOOD once every rail is within limits, letting start-up pass step 2. -/
  | pwrGoodAssert
  /-- R374: A spine flit fails its CRC and is replayed; its errors are attributed to lanes and count toward eight replays in a row. -/
  | spineFlitCrcError (a b dir lane : Nat) (t : Word)
  /-- R391: An external link codeword cannot be corrected; overlapping frames are discarded and ten in a row force a retrain. -/
  | uncorrectableCodeword (link : Nat)
  /-- R503: At the start of an encrypted link session the peer's signed X448 ephemeral key and certificate chain are received and checked. -/
  | linkKeyExchange (link : Nat) (peerEnabled chainOk : Bool) (peerSvn : Nat) (peerUnlocked : Bool)
  /-- R534: A die's PLL lock detector reports loss of lock and the die is fenced. -/
  | pllLossOfLock (die : Nat)
  /-- R545: Himon on a die raises an exception or its control-core storage fails uncorrectably, fencing the die or making the part fatal on die 0. -/
  | himonFailure (die : Nat)
  /-- R64: The host clears a function or vector mask and a pending MSI-X message is sent. -/
  | msixUnmask (fn : Nat) (vec : Option Nat)
  /-- R29: An ATS invalidation request from the host invalidates entries of the translation cache and is completed. -/
  | atsInvalidationRequest (fn page size : Nat)
  /-- R505: A JTAG instruction is loaded, and it is executed if it is boundary scan or debug is unlocked, or otherwise refused and counted in JTAG_REFUSED. -/
  | jtagInstruction (boundary : Bool)
  deriving DecidableEq, Repr

end Sys2Proof
end

