-- ==== Sys2Proof/Machine/Flags.lean ====
section
/-! DEFINITION. The status codes of completion records (R69, R373, Tables 2-11 and 2-12 and the chapters' own tables), and which of them report a committed command. -/

namespace Sys2Proof.Machine

def OK : Nat := 0x0000
def OK_NARROWED : Nat := 0x0001
def OK_DEGRADED : Nat := 0x0002
def OK_APPROX : Nat := 0x0003
def E_BAD_DESCRIPTOR : Nat := 0x0010
def E_BAD_PLAN : Nat := 0x0011
def E_BAD_OBJECT : Nat := 0x0012
def E_QUOTA : Nat := 0x0013
def E_ABORTED : Nat := 0x0014
def E_ALREADY_COMPLETE : Nat := 0x0015
def E_RERUN_LIMIT : Nat := 0x0016
def E_UNIT_FENCED : Nat := 0x0017
def E_NOT_PERMITTED : Nat := 0x0018
def E_FENCE_FAILED : Nat := 0x0019
def E_TIMEOUT : Nat := 0x001A
def E_RESIDUE : Nat := 0x0101
def E_PRECISION_STORM : Nat := 0x0102
def E_NONFINITE : Nat := 0x0103
def E_WINDOW_OVERFLOW : Nat := 0x0104
def E_SCALE_RANGE : Nat := 0x0105
def E_TEMPER_ORDER : Nat := 0x0106
def E_SPARSE_META : Nat := 0x0107
def E_CARRY_SIZE : Nat := 0x0108
def E_SKETCH_SIZE : Nat := 0x0109
def E_SKETCH_STALE : Nat := 0x010A
def E_BATCH_LIST : Nat := 0x010B
def E_TABLE_IMAGE : Nat := 0x010C
def E_TABLE_MISMATCH : Nat := 0x010D
def E_NORM_RANGE : Nat := 0x010E
def E_ROUTE_INPUT : Nat := 0x010F
def E_ROUTE_CAPACITY : Nat := 0x0110
def E_GRAD_MASK : Nat := 0x0111
def E_CONV_EXTENT : Nat := 0x0112
def E_LEAF_EXHAUSTED : Nat := 0x0201
def E_JOIN_DEFERRED : Nat := 0x0202
def E_SEQ_STALE : Nat := 0x0203
def E_SEQ_LIMIT : Nat := 0x0204
def E_SEQ_STATE : Nat := 0x0205
def E_STEP_STATE : Nat := 0x0206
def E_STEP_LIST : Nat := 0x0207
def E_RESTORE_IMAGE : Nat := 0x0208
def E_TIER_DEADLINE : Nat := 0x0301
def E_MEM_UNCORRECTABLE : Nat := 0x0302
def E_MARGIN_STATE : Nat := 0x0303
def E_OBJECT_POLICY : Nat := 0x0304
def E_COLL_MISMATCH : Nat := 0x0401
def E_COLL_TIMEOUT : Nat := 0x0402
def E_COLL_EPOCH_ABORT : Nat := 0x0403
def E_LINK_DOWN : Nat := 0x0404
def E_GROUP_STATE : Nat := 0x0405
def E_UNIT_STATE : Nat := 0x0420
def E_SELF_TEST : Nat := 0x0421
def E_SIGNATURE : Nat := 0x0501
def E_SHARD_CORRUPT : Nat := 0x0502
def E_LOAD_INCOMPLETE : Nat := 0x0503
def E_KEY : Nat := 0x0504
def E_MODEL_STATE : Nat := 0x0505
def E_ALLOY : Nat := 0x0506
def E_REPORT_SPACE : Nat := 0x0507
def E_IDE_STREAM : Nat := 0x0508
def E_DETECT_INPUT : Nat := 0x0601
def E_CODEC_STATE : Nat := 0x0602
def E_CODEC_POOL : Nat := 0x0603
def E_CODEC_SPACE : Nat := 0x0604
def E_BITSTREAM : Nat := 0x0605
def E_PART_STATE : Nat := 0x0701
def E_QUOTA_ITEM : Nat := 0x0702
def E_POWER_STATE : Nat := 0x0703
def E_COLOPHON_SPACE : Nat := 0x0704
def E_PARTITION_FAULT : Nat := 0x0705

/-- R66: a status below 0x0010 reports a committed command. -/
def committed (status : Nat) : Bool := decide (status < 0x0010)

/-- R52: an error status other than E_ABORTED halts the ring. -/
def halts (status : Nat) : Bool := decide (0x0010 ≤ status) && (status != E_ABORTED)

end Sys2Proof.Machine
end

