-- ==== Sys2Proof/Machine/Number.lean ====
section
/-! DEFINITION. Exact numbers and binary32: the element formats of Table 3-1, rounding, the block quantiser and stochastic rounding (R70 to R82), the sums of the three arithmetic paths (R87 to R95). Reals are rationals. -/

namespace Sys2Proof.Machine

/-- The magnitude of a rational. -/
def ratAbs (q : Rat) : Rat := if q < 0 then -q else q

/-- 2^e for a signed exponent. -/
def pow2 (e : Int) : Rat := if 0 ≤ e then ((2 ^ e.toNat : Nat) : Rat) else 1 / ((2 ^ (-e).toNat : Nat) : Rat)

/-- ⌊log2 q⌋ of a positive rational. -/
def floorLog2 (q : Rat) : Int :=
  let e : Int := (Nat.log2 q.num.natAbs : Int) - (Nat.log2 q.den : Int)
  if pow2 e ≤ q then (if pow2 (e + 1) ≤ q then e + 1 else e) else e - 1

/-- The integer nearest to a non-negative rational, ties to even. -/
def nearestEven (q : Rat) : Nat :=
  let n := q.floor.toNat
  let f := q - (n : Rat)
  if f < 1 / 2 then n else if 1 / 2 < f then n + 1 else if n % 2 = 0 then n else n + 1

/-- A value of IEEE 754 kind: a signed finite magnitude, an infinity or a NaN. -/
inductive Fp where
  | fin (neg : Bool) (mag : Rat)
  | inf (neg : Bool)
  | nan
  deriving DecidableEq, Repr

/-- The rational of a value; a non-finite value has none. -/
def Fp.rat? : Fp → Option Rat
  | .fin neg m => some (if neg then -m else m)
  | _ => none

/-- The rational of a value, zero for a non-finite one. -/
def Fp.rat (x : Fp) : Rat := x.rat?.getD 0

/-- A rational as a finite value: zero is positive. -/
def Fp.ofRat (q : Rat) : Fp := .fin (decide (q < 0)) (ratAbs q)

/-- Positive zero. -/
def Fp.zero : Fp := .fin false 0

/-- Whether a value is a zero of either sign. -/
def Fp.isZero : Fp → Bool
  | .fin _ m => m == 0
  | _ => false

/-- Whether a value is finite. -/
def Fp.finite : Fp → Bool
  | .fin _ _ => true
  | _ => false

/-! ### Floating-point formats (R71) -/

/-- A floating-point layout: exponent bits, mantissa bits, bias, the code of the largest magnitude, and whether the next code is an infinity. -/
structure Layout where
  eb : Nat
  mb : Nat
  bias : Int
  top : Nat
  hasInf : Bool
  deriving DecidableEq, Repr

def e2m1 : Layout := { eb := 2, mb := 1, bias := 1, top := 7, hasInf := false }
def e2m3 : Layout := { eb := 2, mb := 3, bias := 1, top := 31, hasInf := false }
def e3m2 : Layout := { eb := 3, mb := 2, bias := 3, top := 31, hasInf := false }
def e4m3 : Layout := { eb := 4, mb := 3, bias := 7, top := 0x7E, hasInf := false }
def e5m2 : Layout := { eb := 5, mb := 2, bias := 15, top := 0x7B, hasInf := true }
def bf16 : Layout := { eb := 8, mb := 7, bias := 127, top := 0x7F7F, hasInf := true }
def fp16 : Layout := { eb := 5, mb := 10, bias := 15, top := 0x7BFF, hasInf := true }
def fp32 : Layout := { eb := 8, mb := 23, bias := 127, top := 0x7F7FFFFF, hasInf := true }

/-- The value of a magnitude code (R71). -/
def Layout.magnitude (f : Layout) (n : Nat) : Rat :=
  let e := n / 2 ^ f.mb
  let m := n % 2 ^ f.mb
  if e = 0 then (m : Rat) * pow2 (1 - f.bias - f.mb) else ((2 ^ f.mb + m : Nat) : Rat) * pow2 ((e : Int) - f.bias - f.mb)

/-- The value of a code with its sign bit. -/
def Layout.decode (f : Layout) (code : Nat) : Fp :=
  let neg := bitOf code (f.eb + f.mb)
  let n := code % 2 ^ (f.eb + f.mb)
  if n ≤ f.top then .fin neg (f.magnitude n)
  else if f.hasInf && decide (n = f.top + 1) then .inf neg
  else .nan

/-- The exponent of the grid step at a positive magnitude. -/
def Layout.stepExp (f : Layout) (q : Rat) : Int := max (floorLog2 q) (1 - f.bias) - f.mb

/-- The code whose magnitude is `n` grid steps of exponent `e`. -/
def Layout.codeAt (f : Layout) (e : Int) (n : Nat) : Nat := (e + f.mb + f.bias - 1).toNat * 2 ^ f.mb + n

/-- The magnitude code nearest to a non-negative rational, ties to an even code; it may pass `top`. -/
def Layout.nearest (f : Layout) (q : Rat) : Nat :=
  if q ≤ 0 then 0 else let e := f.stepExp q; f.codeAt e (nearestEven (q / pow2 e))

/-- The largest magnitude code not above a non-negative rational. -/
def Layout.below (f : Layout) (q : Rat) : Nat :=
  if q ≤ 0 then 0 else let e := f.stepExp q; f.codeAt e (q / pow2 e).floor.toNat

/-- The smallest magnitude code not below a non-negative rational. -/
def Layout.above (f : Layout) (q : Rat) : Nat :=
  if q ≤ 0 then 0 else let e := f.stepExp q; f.codeAt e (q / pow2 e).ceil.toNat

/-- Round a rational to a layout by round-to-nearest-even; a zero result keeps the sign given. -/
def Layout.round (f : Layout) (neg : Bool) (mag : Rat) : Fp :=
  let n := f.nearest mag
  if n ≤ f.top then .fin neg (f.magnitude n) else .inf neg

/-- The code of a value that stands on the grid of a layout; NaN is the canonical quiet one. -/
def Layout.encode (f : Layout) (x : Fp) : Nat :=
  let sign := fun (neg : Bool) => if neg then 2 ^ (f.eb + f.mb) else 0
  match x with
  | .fin neg m => sign neg + f.nearest m
  | .inf neg => sign neg + f.top + 1
  | .nan => f.top + 1 + 2 ^ (f.mb - 1)

/-! ### Binary32 arithmetic (R95, IEEE 754 round-to-nearest-even) -/

/-- A binary32 code as a value. -/
def f32 (code : Nat) : Fp := fp32.decode code

/-- The binary32 code of a value. -/
def f32code (x : Fp) : Nat := fp32.encode x

/-- Round an exact value to binary32. -/
def rn32 (q : Rat) : Fp := fp32.round (decide (q < 0)) (ratAbs q)

/-- The sum of two exact signed terms, with the sign that IEEE 754 gives an exact zero, rounded to binary32. -/
def sum32 (pn : Bool) (pm : Rat) (cn : Bool) (cm : Rat) : Fp :=
  let s := (if pn then -pm else pm) + (if cn then -cm else cm)
  if s = 0 then .fin (pn && cn) 0 else fp32.round (decide (s < 0)) (ratAbs s)

/-- One fused multiply-add. -/
def fma32 (a b c : Fp) : Fp :=
  match a, b, c with
  | .nan, _, _ => .nan
  | _, .nan, _ => .nan
  | _, _, .nan => .nan
  | .fin an am, .fin bn bm, .fin cn cm => sum32 (an != bn) (am * bm) cn cm
  | .fin _ _, .fin _ _, .inf n => .inf n
  | .inf an, .fin bn bm, c => infTimes (an != bn) bm c
  | .fin an am, .inf bn, c => infTimes (an != bn) am c
  | .inf an, .inf bn, c => infTimes (an != bn) 1 c
where
  /-- An infinite product of sign `n` with a finite factor of magnitude `m`, added to `c`. -/
  infTimes (n : Bool) (m : Rat) (c : Fp) : Fp :=
    if m = 0 then .nan
    else match c with
      | .inf k => if k = n then .inf n else .nan
      | _ => .inf n

/-- Binary32 addition. -/
def add32 (a b : Fp) : Fp := fma32 a (.fin false 1) b

/-- Binary32 subtraction. -/
def sub32 (a b : Fp) : Fp :=
  add32 a (match b with | .fin n m => .fin (!n) m | .inf n => .inf (!n) | .nan => .nan)

/-- Binary32 multiplication. -/
def mul32 (a b : Fp) : Fp :=
  match a, b with
  | .nan, _ => .nan
  | _, .nan => .nan
  | .fin an am, .fin bn bm => if am * bm = 0 then .fin (an != bn) 0 else fp32.round (an != bn) (am * bm)
  | .inf an, .fin bn bm => if bm = 0 then .nan else .inf (an != bn)
  | .fin an am, .inf bn => if am = 0 then .nan else .inf (an != bn)
  | .inf an, .inf bn => .inf (an != bn)

/-- The order of two values: of the reals, and of an infinity against the rest; a NaN stands below nothing and above nothing. -/
def ltFp (a b : Fp) : Bool :=
  match a, b with
  | .fin _ _, .fin _ _ => decide (a.rat < b.rat)
  | .inf true, .inf true => false
  | .inf true, .fin _ _ => true
  | .inf true, .inf false => true
  | .fin _ _, .inf false => true
  | _, _ => false

/-- Whether a real `r` with `r ^ k = v` is below `q`, both positive: the comparison of R200 and R216 without a root. -/
def rootBelow (k : Nat) (v q : Rat) : Bool := decide (v < q ^ k)

/-- The binary32 value nearest to the positive k-th root of `v`, found among the codes `n` and `n + 1`: half way goes to the even code. -/
def nearestRoot (k : Nat) (v : Rat) (n : Nat) : Nat :=
  let mid := (fp32.magnitude n + fp32.magnitude (n + 1)) / 2
  if rootBelow k v mid then n else if v = mid ^ k then (if n % 2 = 0 then n else n + 1) else n + 1

/-- The largest magnitude code whose value is at most the k-th root of a positive `v`, by bisection over 31 bits. -/
def rootFloor (k : Nat) (v : Rat) : Nat :=
  ((List.range 31).reverse).foldl (fun n i =>
    let c := n + 2 ^ i
    if decide (c ≤ fp32.top) && decide ((fp32.magnitude c) ^ k ≤ v) then c else n) 0

/-- The correctly rounded reciprocal square root of a positive binary32 value; zero gives zero (R216). -/
def rsqrt32 (x : Rat) : Rat :=
  if x ≤ 0 then 0 else let v := 1 / x; fp32.magnitude (nearestRoot 2 v (rootFloor 2 v))

/-- 2^x of a finite binary32 value, rounded to binary32 (R200). `x` is `m / 2^k`: an exact power of two when k is 0; otherwise the rounded 2^k-th root of 2^m is decided by comparing powers, after the integer part is split off. A magnitude of x below 2^-25 rounds to 1, and x outside -150 to 128 to zero or infinity. -/
def exp2fin (x : Rat) : Fp :=
  if ratAbs x < pow2 (-25) then .fin false 1
  else if 128 ≤ x then .inf false
  else if x < -150 then .fin false 0
  else
    let n := x.floor
    let f := x - (n : Rat)
    if f = 0 then fp32.round false (pow2 n)
    else
      let k := f.den
      let v := ((2 ^ f.num.natAbs : Nat) : Rat)
      -- 2^x = 2^n * v^(1/k), so a grid value g lies at or below it when (g / 2^n)^k ≤ v
      let le := fun (g : Rat) => decide ((g / pow2 n) ^ k ≤ v)
      let lo := ((List.range 31).reverse).foldl (fun c i =>
        let d := c + 2 ^ i
        if decide (d ≤ fp32.top) && le (fp32.magnitude d) then d else c) 0
      let mid := (fp32.magnitude lo + fp32.magnitude (lo + 1)) / 2
      let c := if le mid then lo + 1 else lo
      if c ≤ fp32.top then .fin false (fp32.magnitude c) else .inf false

/-- The built-in base-2 exponential of slot 0xFF (R200): -∞ gives +0. -/
def exp2t (x : Fp) : Fp :=
  match x with
  | .fin neg m => exp2fin (if neg then -m else m)
  | .inf true => .fin false 0
  | .inf false => .inf false
  | .nan => .nan

/-! ### Block formats (Table 3-1) -/

/-- Element width in bits. -/
def fmtBits (fmt : Nat) : Nat :=
  match fmt with
  | 0x01 => 4 | 0x02 => 4 | 0x03 => 4 | 0x04 => 4 | 0x0A => 4
  | 0x05 => 6 | 0x06 => 6
  | 0x10 => 16 | 0x11 => 16 | 0x12 => 32
  | _ => 8

/-- Block size: 16 or 32 for block-scaled formats, 0 where no block scale applies. -/
def fmtBlock (fmt : Nat) : Nat :=
  match fmt with
  | 0x01 => 16 | 0x02 => 16 | 0x04 => 16 | 0x05 => 16 | 0x06 => 16
  | 0x07 => 32 | 0x08 => 32 | 0x09 => 32 | 0x0A => 32 | 0x0B => 32 | 0x0C => 32
  | _ => 0

/-- The floating-point layout of a format's element code, if it has one. -/
def fmtLayout (fmt : Nat) : Option Layout :=
  match fmt with
  | 0x01 => some e2m1 | 0x0A => some e2m1 | 0x05 => some e2m3 | 0x06 => some e3m2
  | 0x07 => some e4m3 | 0x0B => some e4m3 | 0x08 => some e5m2 | 0x0C => some e5m2
  | 0x10 => some bf16 | 0x11 => some fp16 | 0x12 => some fp32
  | _ => none

/-- Whether a format is one of the three without block scale that store IEEE values. -/
def fmtWide (fmt : Nat) : Bool := fmt == 0x10 || fmt == 0x11 || fmt == 0x12

/-- Whether a format is an OCP MX input. -/
def fmtMx (fmt : Nat) : Bool := fmt == 0x0A || fmt == 0x0B || fmt == 0x0C

/-- F of R78. -/
def fmtLargest (fmt : Nat) : Rat :=
  match fmt with
  | 0x01 => 6 | 0x02 => 7 | 0x05 => 15 / 2 | 0x06 => 28 | 0x07 => 448 | 0x08 => 57344 | 0x09 => 127
  | _ => 1

/-- The value of an element code, before any scale. -/
def codeValue (fmt code : Nat) : Fp :=
  match fmtLayout fmt with
  | some f => f.decode code
  | none => if fmt = 0x02 then Fp.ofRat (signedOf 4 code) else if fmt = 0x09 then Fp.ofRat (signedOf 8 code) else Fp.ofRat code

/-- The value of a scale byte with sign bit 0 other than 0x7F. -/
def scaleValue (code : Nat) : Rat := e4m3.magnitude (code % 128)

/-- The E4M3 scale of a block: the smallest value not below `r`, or 448 with the degraded mark (R78 step 2, R80). -/
def scaleFor (r : Rat) : Nat × Bool := if 448 < r then (0x7E, true) else (e4m3.above r, false)

/-! ### Seeded stochastic rounding (R82) -/

def mix (x0 : Word) : Word :=
  let x1 := x0 ^^^ (x0 >>> 31)
  let x2 := x1 * 0xBF58476D1CE4E5B9#64
  let x3 := x2 ^^^ (x2 >>> 29)
  let x4 := x3 * 0x94D049BB133111EB#64
  x4 ^^^ (x4 >>> 32)

/-- The 24-bit uniform of a seed, stream and index. -/
def srUniform (seed stream index : Nat) : Nat :=
  let x := mix (BitVec.ofNat 64 seed ^^^ (BitVec.ofNat 64 stream * 0x9E3779B97F4A7C15#64))
  (mix (x + BitVec.ofNat 64 index) >>> 40).toNat

/-- The magnitude, in grid codes, that an element of magnitude `t` at most F is rounded to: nearest, or by the draw of `sr`. Integer formats have the integers as grid. -/
def roundCode (fmt : Nat) (t : Rat) (sr : Option (Nat × Nat × Nat)) : Nat :=
  match sr with
  | none => match fmtLayout fmt with | some f => f.nearest t | none => nearestEven t
  | some (seed, stream, index) =>
    let lo := match fmtLayout fmt with | some f => f.below t | none => t.floor.toNat
    let val := fun (n : Nat) => match fmtLayout fmt with | some f => f.magnitude n | none => (n : Rat)
    if val lo = t then lo
    else
      let d := ((t - val lo) / (val (lo + 1) - val lo) * ((2 ^ 24 : Nat) : Rat)).floor.toNat
      if srUniform seed stream index < d then lo + 1 else lo

/-- The element code of a scaled value, limited to ±F; a zero result is code 0 (R76, R78 step 3, R80, R82). -/
def elementCode (fmt : Nat) (t : Rat) (sr : Option (Nat × Nat × Nat)) : Nat :=
  let n := roundCode fmt (min (ratAbs t) (fmtLargest fmt)) sr
  if n = 0 then 0
  else if 0 ≤ t then n
  else match fmtLayout fmt with
    | some f => n + 2 ^ (f.eb + f.mb)
    | none => 2 ^ fmtBits fmt - n

/-- A quantised block: its scale byte, its codes, whether it is a zero block and whether it met R80. -/
structure QBlock where
  scale : Nat
  codes : List Nat
  zero : Bool
  degraded : Bool
  deriving DecidableEq, Repr

/-- amax over the real elements of a block (R78, R81). -/
def blockMax (ys : List (Option Rat)) : Rat := ys.foldl (fun m y => match y with | some v => max m (ratAbs v) | none => m) 0

/-- The block quantiser (R78 to R82). `none` is a missing or masked element; `sr` gives seed, stream and the index of the block's first element. -/
def quantBlock (fmt : Nat) (ys : List (Option Rat)) (sr : Option (Nat × Nat × Nat)) : QBlock :=
  let (sc, deg) := scaleFor (blockMax ys / fmtLargest fmt)
  let s := scaleValue sc
  let codes := ys.zipIdx.map (fun (y : Option Rat × Nat) =>
    match y.1 with
    | none => 0
    | some v => if s = 0 then 0 else elementCode fmt (v / s) (sr.map (fun k => (k.1, k.2.1, k.2.2 + y.2))))
  if codes.all (· == 0) then { scale := 0, codes := codes, zero := true, degraded := false }
  else { scale := sc, codes := codes, zero := false, degraded := deg }

/-- Whether a block meets the condition of R80 for a format. -/
def overScale (fmt : Nat) (ys : List (Option Rat)) : Bool := decide (448 < blockMax ys / fmtLargest fmt)

/-- The lost count q of a block against FP4 (R102, Table 4-3): real non-zero elements with |y / scale| ≤ 1/4. -/
def lostCount (ys : List (Option Rat)) : Nat :=
  let s := scaleValue (scaleFor (blockMax ys / 6)).1
  ys.countP (fun y => match y with | some v => decide (v ≠ 0) && decide (s = 0 ∨ ratAbs v / s ≤ 1 / 4) | none => false)

/-! ### The sums of the three paths -/

/-- The exact sum of products (R87). -/
def dotExact (a b : List Rat) : Rat := (List.zipWith (· * ·) a b).foldl (· + ·) 0

/-- The windowed sum in units of 2^(A - 95), or none when a truncated product or the sum leaves the window (R91, R93). -/
def dotWindow (anchor : Int) (a b : List Rat) : Option Int :=
  let u := pow2 (anchor - 95)
  let ts := List.zipWith (fun x y => ((x * y) / u).floor) a b
  let inside := fun (t : Int) => decide (-(2 : Int) ^ 95 ≤ t) && decide (t ≤ (2 : Int) ^ 95 - 1)
  let w := ts.foldl (· + ·) 0
  if ts.all inside && inside w then some w else none

/-- The strict-mode chain of fused multiply-adds, ascending k (R95). -/
def dotStrict (a b : List Fp) : Fp := (List.zip a b).foldl (fun acc p => fma32 p.1 p.2 acc) Fp.zero

/-- The smallest e with |q| < 2^e over values; -32,768 when all are zero (Table 4-3). -/
def expAbove (qs : List Rat) : Int :=
  let m := qs.foldl (fun a q => max a (ratAbs q)) 0
  if m = 0 then -32768 else floorLog2 m + 1

/-- PROD_EXP over the products of one dot (Table 4-3). -/
def prodExp (a b : List Rat) : Int := expAbove (List.zipWith (· * ·) a b)

end Sys2Proof.Machine
end

