-- ==== Sys2Proof/Config.lean ====
section
/-! DEFINITION. The values the spec leaves open, as constants without a body: no proof can see them, so a claim holds whatever they are. -/

namespace Sys2Proof

/-- FREE VALUE: the ACLK cycles of a finished engine command, by the free-value number of its completion (timing, log entry 5). -/
opaque Config.aclkCycles : Nat → Nat

/-- FREE VALUE: the ticks from the claim of a unit of work until its plane reaches a use, by command, item and k-step or key block: less than half the range of the counter they are measured on (timing; R365, log entry 107). -/
opaque Config.reachTicks : Nat → Nat → Nat → BitVec 63

/-- FREE VALUE: what a physical measurement of the part answers, by free-value number and a selector (margin eyes, R344; log entry 6). -/
opaque Config.measured : Nat → Nat → Nat

/-- FREE VALUE: `n` bytes of SHAKE256 of the input; the function is defined by a standard outside the spec (log entry 7). -/
opaque Config.shake256 : Nat → Bytes → Bytes

/-- FREE VALUE: SHA3-512 (log entry 7). -/
opaque Config.sha3 : Bytes → Bytes

/-- FREE VALUE: whether an Ed448 signature over a digest verifies under a key (log entry 7). -/
opaque Config.ed448Verify : Bytes → Bytes → Bytes → Bool

/-- FREE VALUE: the Ed448 signature by the alias key of a boot, named by the digest of the running image, its SVN and the debug state (R490; log entry 7). -/
opaque Config.aliasSign : Bytes → Nat → Bool → Bytes → Bytes

/-- FREE VALUE: whether 57 bytes are a valid Ed448 point (R499; log entry 7). -/
opaque Config.ed448Point : Bytes → Bool

/-- FREE VALUE: the X448 public import key of a boot, named in the same way (R490; log entry 7). -/
opaque Config.importPublic : Bytes → Nat → Bool → Bytes

/-- FREE VALUE: X448 of the import private key of a boot with a public key (R499; log entry 7). -/
opaque Config.importShared : Bytes → Nat → Bool → Bytes → Bytes

/-- FREE VALUE: AES-256-GCM opening by key, nonce, additional data, ciphertext and tag; none when the tag fails (R425, R499; log entry 7). -/
opaque Config.gcmOpen : Bytes → Bytes → Bytes → Bytes → Bytes → Option Bytes

/-- FREE VALUE: AES-256-GCM sealing by key, nonce and plain bytes, without additional data: the ciphertext and the 16-byte tag (R504; log entry 7). -/
opaque Config.gcmSeal : Bytes → Bytes → Bytes → Bytes

/-- FREE VALUE: the plain bytes of an AES-256-GCM ciphertext by key, nonce and ciphertext, before its tag is checked (R504; log entry 7). -/
opaque Config.gcmPlain : Bytes → Bytes → Bytes → Bytes

/-- FREE VALUE: the X448 ephemeral public key that the part sends at the start of a link session, and the secret it shares with the peer's key, by the run's count of free values (R503; log entry 7). -/
opaque Config.linkEphemeral : Nat → Bytes
opaque Config.linkShared : Nat → Bytes

/-- FREE VALUE: the key that IDE_KM delivers for a stream, by the run's count of free values: the request carries it over secured SPDM (R501; log entry 11). -/
opaque Config.ideKey : Nat → Bytes

/-- FREE VALUES: what manufacture writes to slot A of the flash: the signing key, the signature and the payload of an image (R484; log entry 20). -/
opaque Config.factoryKey : Bytes
opaque Config.factorySignature : Bytes
opaque Config.factoryPayload : Bytes

/-- FREE VALUE: the boot ROM bytes (R492; log entry 7). -/
opaque Config.rom : Bytes

/-- FREE VALUE: the SPDM response to a supported request, by request code, transport, request and the facts it conveys; the message formats are of a standard outside the spec (R496; log entry 8). -/
opaque Config.spdmReply : Nat → Nat → Bytes → Bytes → Bytes

/-- FREE VALUE: what a signed SPDM response signs, by request code, transport, request and response (log entry 8). -/
opaque Config.spdmTranscript : Nat → Nat → Bytes → Bytes

/-- FREE VALUE: the DMTF measurement value type of an index (Table 21-7; log entry 8). -/
opaque Config.dmtfType : Nat → Nat

/-- FREE VALUE: the response bytes of an SPDM request about certificates, by request code, transport, request and the certificates of its slot (R491; log entry 8). -/
opaque Config.certReply : Nat → Nat → Bytes → List Bytes → Bytes

/-- FREE VALUE: the error response to an SPDM request, by code, transport and request (log entry 8). -/
opaque Config.spdmError : Nat → Nat → Bytes → Bytes

/-- FREE VALUE: whether physical quire `phys` of a die passes the self-repair of a cold start-up, by boot, die and quire (R546; log entry 101). -/
opaque Config.quirePasses : Nat → Nat → Nat → Bool

/-- FREE VALUE: the shared-cache ways of a die that self-repair cannot repair, as set and way, by boot and die (R546; log entry 101). -/
opaque Config.waysFailed : Nat → Nat → List (Nat × Nat)

/-- FREE VALUE: whether the system region of a die cannot be repaired, by boot and die (R546; log entry 101). -/
opaque Config.systemFails : Nat → Nat → Bool

/-- FREE VALUE: how many lanes of a direction of a spine link fail at the training of a cold boot or of a link's return, by the run's count of free values, lower die, higher die and direction (R381, R390; log entry 101). -/
opaque Config.lanesFailed : Nat → Nat → Nat → Nat → Nat

/-- FREE VALUE: whether a repair record finds a spare row or column of its bank left, by type, die, macro and address (R547; log entry 101). -/
opaque Config.spareLeft : Nat → Nat → Nat → Nat → Bool

/-- FREE VALUE: the data rate of the stacks selected at a cold boot, 0 for 9.6, 1 for 8.0 and 2 for 6.4 Gb/s, by boot (R335; log entry 101). -/
opaque Config.hbmRate : Nat → Nat

/-- The coding tools that Table 20-1 names, of either standard; `outsideProfile` stands for every tool of a profile the table does not list. -/
inductive CodecTool where
  | superblock64 | partition8 | intraModes | palette | intraBlockCopy | singleInter | compoundInter | quarterVectors | eighthVectors
  | cdef | loopRestoration | superres | filmGrain | uniformTiles
  | ctu64 | cu8 | tu32 | deblocking | sao | oneSlice | amp | wpp | scalingLists | rangeExtensions | screenContent
  | otherOfProfile | outsideProfile
  deriving DecidableEq, Repr

/-- The tools an encoder uses, and no others (Table 20-1). -/
def encoderTools (hevc : Bool) : List CodecTool :=
  if hevc then [.ctu64, .cu8, .tu32, .deblocking, .sao, .oneSlice, .uniformTiles, .intraModes, .singleInter, .compoundInter, .quarterVectors]
  else [.superblock64, .partition8, .intraModes, .singleInter, .compoundInter, .quarterVectors, .cdef, .uniformTiles]

/-- The tools that fail a decode: those outside the profiles of Table 20-1. -/
def foreignTools (hevc : Bool) : List CodecTool := if hevc then [.rangeExtensions, .screenContent, .outsideProfile] else [.outsideProfile]

/-- What the syntax of one coded unit says (R474): FRAME_TYPE, the tools it uses, its level, of AV1 the slots it predicts from, refresh_frame_flags and the slot it shows, of HEVC the picture order counts it predicts from and those its reference picture set keeps, whether it is output, film grain parameters, the order hint or picture order count, and the quantiser. -/
structure CodedUnit where
  kind : Nat
  tools : List CodecTool
  level : Nat
  refs : Nat
  refresh : Nat
  existing : Nat
  used : List Nat
  kept : List Nat
  shown : Bool
  grain : Bool
  display : Nat
  qp : Nat
  deriving DecidableEq, Repr

/-- FREE VALUE: the vector that an encoder's search chooses, columns and rows in luma samples, by plan section, frame controls, input, the searched reference and the superblock (R468; log entry 9). -/
opaque Config.searchVector : Bytes → Bytes → Bytes → Bytes → Nat → Int × Int

/-- FREE VALUE: the coded frame and the content of its buffer, samples and then motion field, by the tools that code it, plan section, frame controls (key, masks, DISPLAY_INDEX as order hint or picture order count, quantiser), input, the vectors searched, and the references: those searched, then those that serve through inherited vectors only (R459, R465, R468, R470; log entry 9). -/
opaque Config.codeFrame : List CodecTool → Bytes → Bytes → Bytes → List (Int × Int) → List (List Bytes) → Bytes × Bytes

/-- FREE VALUE: the payload of an AV1 sequence header OBU of a plan, or of an HEVC VPS (0), SPS (1) or PPS (2) (R465; log entry 9). -/
opaque Config.parameterSet : Bytes → Nat → Bytes

/-- FREE VALUE: what the syntax of a coded unit says, by plan section, unit and the buffers of the slots; none when it breaks the syntax (R474; log entry 9). -/
opaque Config.parseUnit : Bytes → Bytes → List Bytes → Option CodedUnit

/-- FREE VALUE: the buffer content of a decoded unit, samples and then motion field, by plan section, unit and the buffers of the slots (R474; log entry 9). -/
opaque Config.decodeFrame : Bytes → Bytes → List Bytes → Bytes

/-- FREE VALUE: the coded bits of a frame, by its bitstream: the spec names the count (Table 20-5, R469) and does not say which bits it counts (log entry 9). -/
opaque Config.codedBits : Bytes → Nat

/-- FREE VALUE: the hash of Olnos firmware key `i` that the boot ROM holds (R484; log entry 7). -/
opaque Config.firmwareKeyHash : Nat → Bytes

/-- FREE VALUE: the device-certificate serial an unlock token names; its layout is not given (R505; log entry 7). -/
opaque Config.tokenSerial : Bytes → Nat

/-- FREE VALUE: whether an unlock token verifies under an Olnos firmware key (R505; log entry 7). -/
opaque Config.tokenVerifies : Bytes → Bool

/-- FREE VALUE: the product CA certificate and the device certificate of the part, as manufacture writes them to the flash (R491; log entry 95). -/
opaque Config.productCa : Bytes
opaque Config.deviceCert : Bytes

/-- FREE VALUE: the alias certificate that the ROM signs for a boot, by the digest of the running image, its SVN and the debug state (R490; log entry 95). -/
opaque Config.aliasCert : Bytes → Nat → Bool → Bytes

/-- FREE VALUE: the functions that the host has associated with an IDE stream in its extended capability (R501; log entry 11). -/
opaque Config.ideFunctions : Nat → List Nat

/-- FREE VALUE: a number the spec leaves open, by free-value number: the INFO of a MEM_UE record of a read (log entry 12). -/
opaque Config.freeNat : Nat → Nat

/-- FREE VALUE: the degraded blocks among the kept rows of an ingot, of which the header gives the degraded rows and the count over all rows, between the bounds these set (Table 4-2; log entry 97). -/
opaque Config.keptDegraded : Nat → Nat → Nat

/-- FREE VALUE: the codebook index of a row moved into an ingot whose rows use more than 16 entries, by the entry's byte (R225; log entry 52). -/
opaque Config.codebookCode : Nat → Nat

/-- FREE VALUE: the maximum picture size in luma samples at a level number that the coding standard does not define, by codec and level (R479; log entry 9). -/
opaque Config.maxPicture : Nat → Nat → Nat

/-- FREE VALUE: whether PCI Express fails a read of host memory that a load makes (R431). It happens outside the part: by the run's count of free values (log entry 113). -/
opaque Config.readFails : Nat → Bool

end Sys2Proof
end

