-- ==== Sys2Proof/Machine/State.lean ====
section
/-! DEFINITION. The state of the Octavo as plain data: every register, ring, object, table, counter, queue and pin the spec gives the part, the ways a step can stop, and the state after reset. -/

namespace Sys2Proof.Machine

/-- Sparse bytes by address: addresses strictly rising, no listed byte zero; an unlisted address reads 0x00. -/
abbrev Mem := List Host.Cell

/-- Why the machine stops with a fault. -/
inductive Fault where
  /-- An access to a device physical address outside the populated windows: R324 says no unit forms one. Raised by FAR_ACCESS_REQUEST and ATOMIC_REQUEST. Safe: the machine stops. -/
  | unpopulatedAddress
  deriving DecidableEq, Repr

/-- Why a command has no meaning in the model. -/
inductive Refusal where
  /-- A command whose meaning is not written. Raised by a refused arm of exec only. Safe: the machine stops. -/
  | notModelled (mnemonic : String)
  deriving DecidableEq, Repr

/-! ### Rings, fences, commands -/

/-- An accounting record (Table 19-6). -/
structure Acct where
  records : BitVec 64 := 0
  failed : BitVec 32 := 0
  aborted : BitVec 32 := 0
  preemptKills : BitVec 32 := 0
  otherKills : BitVec 32 := 0
  waitQueue : BitVec 64 := 0
  waitStart : BitVec 64 := 0
  run : BitVec 64 := 0
  aclk256 : BitVec 64 := 0
  lastCounter : BitVec 64 := 0
  deriving DecidableEq, Repr

/-- A fetched descriptor that has not been admitted: its order number in the ring, its 128 bytes, and the home counter at the fetch (R44, R454). -/
structure Fetched where
  order : Nat
  desc : Bytes
  at_ : Word
  deriving DecidableEq, Repr

/-- A submission ring (R35 to R40, Table 24-10). `order` numbers the next descriptor fetched. -/
structure SubRing where
  log2 : Nat := 6
  concurrent : Bool := false
  home : Nat := 0
  defaultCq : Nat := 0
  base : Nat := 0
  headWb : Nat := 0
  head : Nat := 0
  tail : Nat := 0
  halted : Bool := false
  stopped : Bool := false
  order : Nat := 0
  fetched : List Fetched := []
  acct : Acct := {}
  served : List Nat := List.replicate 8 0
  lastTag : Nat := 0
  lastCounter : Word := 0
  deriving DecidableEq, Repr

/-- A completion ring (R37, R50, R51, R64). `recs` holds, oldest first, the NOTIFY flag and counter of each record written and not returned by the host: its length is W of R51. -/
structure CompRing where
  log2 : Nat := 6
  home : Nat := 0
  base : Nat := 0
  vector : Nat := 0
  modCount : Nat := 1
  modTime : Nat := 0
  head : Nat := 0
  next : Nat := 0
  phase : Bool := true
  recs : List (Bool × Word) := []
  reserved : Nat := 0
  armed : Bool := false
  stopped : Bool := false
  deriving DecidableEq, Repr

/-- A fence: a 64-bit count and the poison flag (R53). -/
structure Fence where
  count : Word := 0
  poison : Bool := false
  deriving DecidableEq, Repr

/-- Where an admitted command stands (R445, R453). -/
inductive CmdPhase where
  /-- Admitted, waiting for the resources it needs. -/
  | admitted
  /-- It has taken its first unit of work or begun its first action. -/
  | started
  /-- Its body has ended; the decision point is next. -/
  | ready
  /-- Its effect has been judged and it waits before its decision point (a retire waiting for the plan's users). -/
  | executed
  /-- Past its decision point: COMMIT messages are out (R379). -/
  | committing
  deriving DecidableEq, Repr

/-- The version map of an object as a command captured it: the object's key, the ingots whose current slot is 1, and the commit count (R60). -/
structure View where
  key : Nat
  vmap : List Nat
  commits : BitVec 32
  deriving DecidableEq, Repr

/-- The slots of an object that a command has written in the inactive version (R356). -/
structure Written where
  key : Nat
  ingots : List Nat
  deriving DecidableEq, Repr

/-- One die's segment of a plane command: order positions `head` to `tail - 1` are unclaimed; `counts` holds the remaining counts last received from the other dies, `sentAt` when the die last sent its own count, and `sentZero` that it has sent a count of zero (R157, R158, R586). -/
structure Seg where
  head : Nat := 0
  tail : Nat := 0
  counts : List Nat := List.replicate 8 0
  sentAt : Option Word := none
  sentZero : Bool := false
  deriving DecidableEq, Repr

/-- A unit of work held on a plane (R158). `items` are tiles or query blocks not yet finished; `at_` is the die's counter when its group was claimed (R365). -/
structure Held where
  die : Nat
  quire : Nat
  plane : Nat
  items : List Nat
  at_ : Word := 0
  deriving DecidableEq, Repr

/-- The statistics of Table 4-3, of one command or summed in a layer's pending record for a step. -/
structure Stats where
  amax : Int := -32768
  prod : Int := -32768
  lost : Nat := 0
  nonzero : Nat := 0
  degraded : Nat := 0
  promoted : Nat := 0
  deriving DecidableEq, Repr

/-- The progress of a run of a plane command: its segments and shares, what is finished, what its scans found (`cells` by cell: binary32 codes of mean and factor, R216), the ingots that have arrived for the units of a quire as (96 × die + quire, operand, ingot), the uses that read a zero ingot as (tile, operand, ingot, k-step), and of an ATTEND the key blocks read late as (query block, how, key block, 0), the uses that wait for their ingot with the counter at which each wait began (R367), and the counts of its record. -/
structure Run where
  total : Nat := 0
  segs : List Seg := []
  held : List Held := []
  done : List Nat := []
  scanned : Bool := false
  normed : Bool := false
  cells : NMap (Nat × Nat) := []
  skipRows : List Nat := []
  selections : NMap (List Nat) := []
  arrived : List (Nat × Nat × Nat) := []
  failedFetch : List (Nat × Nat) := []
  zeroUses : List (Nat × Nat × Nat × Nat) := []
  waits : List ((Nat × Nat × Nat) × Word) := []
  skipped : Nat := 0
  promoted : Nat := 0
  degraded : Nat := 0
  readIngots : List (Nat × Nat) := []
  stats : Stats := {}
  fails : List (Nat × Nat) := []
  deriving DecidableEq, Repr

/-- A running collective (R404 to R417): what has arrived from each rank; of its own chunk, by element, the residue of the accumulator and its contributions, by segment the place in staging that holds its accumulators, contributions seen and counted, and segments fired; and the elements of OBJ_DST formed so far (`out`). `granted` holds, by owner's rank, the highest segment granted plus 1; `everSent` says that some attempt has sent FPRINT, `mismatch` that a residue has just failed (R406). -/
structure Coll where
  attempt : Nat := 0
  sentFprint : Bool := false
  sentDone : Bool := false
  fprints : List (Nat × Nat) := []
  granted : List (Nat × Nat) := []
  accs : NMap (Nat × Nat) := []
  slots : NMap Nat := []
  counts : NMap Nat := []
  seen : List (Nat × Nat × Nat) := []
  fired : List Nat := []
  out : NMap Nat := []
  dones : List Nat := []
  lastMsg : Word := 0
  residueRestart : Bool := false
  everSent : Bool := false
  mismatch : Bool := false
  grace : Option Word := none
  deriving DecidableEq, Repr

/-- A running peer transfer (R418, R419). -/
structure Peer where
  attempt : Nat := 0
  total : Nat := 0
  moved : Nat := 0
  paired : Bool := false
  sentAll : Bool := false
  everSent : Bool := false
  lastMsg : Word := 0
  deriving DecidableEq, Repr

/-- The state of one shard of a load (R424, R431). -/
structure Shard where
  bytes : Bytes := []
  got : Nat := 0
  complete : Bool := false
  verified : Bool := false
  bad : Bool := false
  naks : Nat := 0
  rereads : Nat := 0
  forwarded : Bool := false
  acked : Bool := false
  gone : Bool := false
  doneAt : Word := 0
  askedAt : Word := 0
  deriving DecidableEq, Repr

/-- A model load in progress (R423 to R433). -/
structure Load where
  manifest : Bytes := []
  sigOk : Bool := false
  manifestOk : Bool := false
  key : Option Bytes := none
  shards : NMap Shard := []
  upDown : Bool := false
  downReady : Bool := false
  downGone : Bool := false
  downSilent : Bool := false
  lastUp : Word := 0
  lastDown : Word := 0
  manifestSent : Bool := false
  deriving DecidableEq, Repr

/-- A leaf-table entry (Table 12-4): a frame of a die, or with `t3` a demotion slot, with the poison that its leaf keeps there (R338). -/
structure LeafEntry where
  frame : Nat
  die : Nat
  t3 : Bool := false
  poison : List (Nat × Nat) := []
  deriving DecidableEq, Repr

/-- One entry of a step record (R282): the step entry, its outcome, the frames it reserved, the leaves and table pages reserved for it, and the window leaves written so far (`used`). -/
structure StepEntry where
  seqId : Nat
  tokens : Nat := 0
  row : Nat := 0
  join : Bool := false
  leave : Bool := false
  priority : Nat := 0
  fallback : Nat := 0
  maxLen : Nat := 0
  modelId : Nat := 0
  status : Nat := 0
  detail : Nat := 0
  reserved : List Nat := []
  newLeaves : NMap LeafEntry := []
  newPages : NMap Nat := []
  used : List Nat := []
  granted : Nat := 0
  deriving DecidableEq, Repr

/-- An open step: its entries and the layers appended (R280 to R288). -/
structure Step where
  entries : List StepEntry := []
  appended : List Nat := []
  layers : Nat := 0
  kvHeads : Nat := 0
  kvFmt : Nat := 0
  deriving DecidableEq, Repr

/-- States of a sequence (Table 12-8). -/
inductive SeqState where
  | free | active | parked | restoring | retired
  deriving DecidableEq, Repr

/-- A sequence descriptor (Table 12-1) with its leaf table by window leaf and its table pages by root entry. -/
structure Seq where
  gen : Nat := 0
  state : SeqState := .free
  kvFmt : Nat := 0
  kvHeads : Nat := 0
  fallback : Nat := 0
  layers : Nat := 0
  part : Nat := 0
  priority : Nat := 0
  step : Nat := 0
  c : Nat := 0
  maxLen : Nat := 0
  modelId : Nat := 0
  parent : Nat := 0xFFFFFFFF
  prefixHash : Nat := 0
  joinCounter : Word := 0
  lastStatus : Nat := 0
  lastDetail : Nat := 0
  leaves : NMap LeafEntry := []
  pages : NMap Nat := []
  deriving DecidableEq, Repr

/-- An admitted command (R46 to R62). Fields are used by the opcodes that need them; `target` is the command an ABORT waits for, the sequence a SEQ_RESTORE took to RESTORING, or the stream slot a CODEC_FRAME OPEN took; `child` is the sequence that a fork which has run will make (R295); `captured` holds the table banks captured at admission, by slot and bank (R210); `commitAt` is the home counter at its commit while COMMIT messages are out (R62, R379); `quires` the active quires its partition held on each die at its admission (R157, R386); `afterFence` the quire, as (die, physical id), whose fence killed it (R385). -/
structure Cmd where
  owner : Nat := 0
  ring : Nat := 0
  order : Nat := 0
  desc : Bytes := []
  cq : Nat := 0
  home : Nat := 0
  phase : CmdPhase := .admitted
  admitAt : Word := 0
  waitFrom : Word := 0
  startAt : Word := 0
  commitAt : Option Word := none
  waitQ : Word := 0
  waitS : Word := 0
  reruns : Nat := 0
  victimKills : Nat := 0
  preemptAt : Word := 0
  target : Option Nat := none
  residueRerun : Bool := false
  status : Nat := 0
  detail : Nat := 0
  aclk : Nat := 0
  skipped : Nat := 0
  promoted : Nat := 0
  degraded : Nat := 0
  views : List View := []
  written : List Written := []
  captured : List (Nat × Bool × Bytes) := []
  lens : NMap Nat := []
  fmtOut : Nat := 0
  anchor : Int := 0
  draws : List (Nat × Nat) := []
  drawLayer : Nat := 0
  refused : Bool := false
  frames : List (Nat × Nat) := []
  leaves : List (Nat × Nat × Nat × Nat) := []
  results : List (List Nat) := []
  image : Bytes := []
  waitDies : List Nat := []
  ackDies : List Nat := []
  seenDies : List Nat := []
  run : Run := {}
  coll : Option Coll := none
  peer : Option Peer := none
  load : Option Load := none
  stepDraft : Option Step := none
  child : Option Seq := none
  quires : List Nat := []
  afterFence : Option (Nat × Nat) := none
  deriving DecidableEq, Repr

/-! ### Plans, tables, temper -/

/-- An installed plan: its image, the output-tile group in force, and whether a retire has executed (R18, R55, R57). -/
structure Plan where
  kind : Nat := 0
  image : Bytes := []
  groupM : Nat := 0
  groupN : Nat := 0
  stamp : Word := 0
  retiring : Bool := false
  deriving DecidableEq, Repr

/-- A special-function table slot: two banks and the active one, if any (R199). -/
structure TableSlot where
  bank0 : Option Bytes := none
  bank1 : Option Bytes := none
  active : Option Bool := none
  deriving DecidableEq, Repr

/-- A temper table entry in the fields of Table 4-4, with its pending record (R111). `decided` says that some step has been decided; `overflowed` that a command of the decided step met E_WINDOW_OVERFLOW (R116). -/
structure Temper where
  decided : Bool := false
  step : Nat := 0
  state : Nat := 0
  curFmt : Nat := 1
  clean : Nat := 0
  hist : List Int := []
  prodExp : Int := 0
  anchor : Int := 0
  bump : Nat := 0
  overflowed : Bool := false
  degraded : Nat := 0
  promoted : Nat := 0
  lost : Nat := 0
  nonzero : Nat := 0
  events : Nat := 0
  reserveKib : Nat := 0
  pending : Option (Nat × Stats) := none
  deriving DecidableEq, Repr

/-! ### Objects -/

/-- A poisoned line of an object: version slot, byte offset of the line in the object's flat slot space, the die of the copy, and the origin id of the memory that found the error (R338). -/
structure Poison where
  version : Nat
  off : Nat
  die : Nat
  origin : Nat
  deriving DecidableEq, Repr

/-- A registered object (R350 to R363). Slot `n` of version `v` begins at byte `n * S` of `mem0` or `mem1`, its extension at `n * 6144` of `ext0` or `ext1`. `vmap` lists the ingots or chunks whose current slot is 1; `draw` the precision reserve it holds, by layer and bytes (R120, R121); `pages` the runs of 64 KiB units it is mapped to, by stack, first unit and count, and `dv` the first byte of its device-virtual pages (R324, R353). -/
structure Obj where
  kind : Nat := 0
  fmt : Nat := 0
  sparse : Bool := false
  axis : Nat := 0
  tier : Nat := 2
  placement : Nat := 0
  die : Nat := 0
  fallback : Nat := 0
  rows : Nat := 0
  cols : Nat := 0
  batch : Nat := 0
  bytes : Nat := 0
  gradMask : Nat := 0
  slack : Nat := 0
  stallLimit : Nat := 0
  hostBase : Nat := 0
  model : Bool := false
  dies : List Nat := []
  mem0 : Mem := []
  mem1 : Mem := []
  ext0 : Mem := []
  ext1 : Mem := []
  extended : List (Nat × Nat) := []
  vmap : List Nat := []
  commits : BitVec 32 := 0
  dirty : List Nat := []
  poison : List Poison := []
  draw : List (Nat × Nat) := []
  pages : List (Nat × Nat × Nat) := []
  dv : Nat := 0
  deriving DecidableEq, Repr

/-! ### The Bindery -/

/-- A frame in use on a die: its owner, reference count, and the bytes of its body and margin (R273, R275, R293). -/
structure Frame where
  part : Nat
  refs : Nat := 0
  page : Bool := false
  body : Mem := []
  margin : Mem := []
  poison : List (Nat × Nat) := []
  deriving DecidableEq, Repr

/-- A node of a prefix tree (R316). -/
structure PrefixNode where
  part : Nat
  hash : Nat
  donor : Nat
  group : Nat
  deriving DecidableEq, Repr

/-! ### Memory system and spine -/

/-- One HBM stack: temperature, refresh rate, clamp, self-refresh, scrub position, the listed bytes of its lines and its poisoned lines with the origin that found the error (R338 to R342). -/
structure Stack where
  temp : Int := 0
  doubleRefresh : Bool := false
  clamped : Bool := false
  selfRefresh : Bool := false
  scrubLine : Nat := 0
  lines : Mem := []
  poison : List (Nat × Nat) := []
  deriving DecidableEq, Repr

/-- One element of a long accumulator: the 96-bit word, the carry count and the residue modulo 15 (R124). -/
structure Acc where
  w : BitVec 96 := 0
  carry : BitVec 24 := 0
  residue : BitVec 4 := 0
  deriving DecidableEq, Repr

/-- An accumulator tile of 128 × 128 elements by 128 r + c: the command and output tile whose sums it holds (R124, R129). -/
structure AccTile where
  cmd : Nat
  tile : Nat
  elems : NMap Acc := []
  deriving DecidableEq, Repr

/-- A copy of an ingot in a quire store: the object, version and ingot it was taken from, its bytes, and its poisoned 8-byte words with the origin that found each error (R329, R337, R349). -/
structure T0Copy where
  key : Nat
  version : Nat
  ingot : Nat
  bytes : Bytes
  bad : List (Nat × Nat) := []
  deriving DecidableEq, Repr

/-- A line in a shared cache: its way, dirty, pinned (R327, R328). The value of a line is held once, with the memory it belongs to. -/
structure CacheLine where
  way : Nat
  dirty : Bool := false
  pinned : Bool := false
  deriving DecidableEq, Repr

/-- A quire by physical id: generation, fenced, failed at self-repair, misses in a row, an answer since the last probe, fence acknowledgements due (R384 to R390, R546), and its twelve accumulator tiles, four for each plane in turn (R124, R129). -/
structure Quire where
  gen : BitVec 8 := 0
  fenced : Bool := false
  failed : Bool := false
  misses : Nat := 0
  answered : Bool := true
  probedAt : Word := 0
  acksDue : Bool := false
  tiles : List (Option AccTile) := List.replicate 12 none
  deriving DecidableEq, Repr

/-- A die: the fence of the die (R383), its physical quires and the map of its logical ids (R385), collective staging (R321), the store of each logical quire, oldest copy first (R322), and its shared cache: the lines by line index, the pseudo-LRU bits of each set, and the disabled ways as (set, way) (R327, R337). -/
structure DieState where
  fenced : Bool := false
  quires : List Quire := List.replicate 100 {}
  logical : List (Option Nat) := (List.range 96).map some
  staging : NMap Nat := []
  stores : List (List T0Copy) := List.replicate 96 []
  cache : NMap CacheLine := []
  plru : NMap Nat := []
  deadWays : List (Nat × Nat) := []
  deriving DecidableEq, Repr

/-- One direction of a spine link (R374, R375): for each channel, 0 CTL, 1 RSP, 2 REQ, 3 COLL, the messages that wait and the buffers free at the receiver; the REQ messages sent since the last COLL one while both waited; the replay buffer of flits not yet acknowledged, 512 at most; and the messages of a detour in the buffers reserved for forwarding. 512 buffers at reset: DESIGN CHOICE (log entry 104). -/
structure SpineDir where
  queues : List (List SpineMsg) := List.replicate 4 []
  credits : List Nat := List.replicate 4 512
  reqRun : Nat := 0
  replay : List SpineMsg := []
  fwd : List SpineMsg := []
  deriving DecidableEq, Repr

/-- A spine link Sab (R374, R381, R382, R384). Index 0 of a pair is the direction from a to b; `fencedAt` is the lower die's counter at its last fence (R383). -/
structure SpineLink where
  gen : BitVec 8 := 0
  fenced : Bool := false
  fencedAt : Word := 0
  misses : List Nat := [0, 0]
  heard : List Bool := [true, true]
  since : List Word := [0, 0]
  spares : List Nat := [0, 0]
  width : List Nat := [512, 512]
  laneErrs : List (NMap (List Word)) := [[], []]
  replays : List Nat := [0, 0]
  retraining : Bool := false
  acksDue : Bool := false
  dirs : List SpineDir := [{}, {}]
  deriving DecidableEq, Repr

/-- A spine stream (R377): the next number to send, the next to accept, and what is sent and not acknowledged. -/
structure Stream where
  nextSend : BitVec 32 := 0
  expect : BitVec 32 := 0
  unacked : List SpineMsg := []
  deriving DecidableEq, Repr

/-! ### External links, groups, models -/

/-- A frame that a link sends (Table 17-2, R393): a data frame of a VC, or a control frame with its credit returns, acknowledgement and NAK flag. -/
structure LinkFrame where
  link : Nat
  control : Bool
  vc : Nat := 0
  seqNo : Nat := 0
  payload : Bytes := []
  credits : List Nat := []
  ack : Nat := 0
  nak : Bool := false
  deriving DecidableEq, Repr

/-- An external link (R391 to R397, R503, R504, R548, Tables 17-4, 21-10, 23-7, 24-7). -/
structure Link where
  trained : Bool := false
  helloSeen : Bool := false
  everHello : Bool := false
  down : Bool := false
  retraining : Bool := false
  retrainAt : Word := 0
  peerPart : Nat := 0
  peerLink : Nat := 0
  retrains : BitVec 32 := 0
  txSeq : Nat := 0
  rxExpect : Nat := 0
  lastGood : Nat := 4095
  acked : Nat := 4095
  tx : List Bytes := [[], [], [], []]
  replay : List LinkFrame := []
  replayFails : Nat := 0
  credits : List Nat := [512, 512, 512, 512]
  freed : List Nat := [0, 0, 0, 0]
  accepted : Nat := 0
  lastControl : Word := 0
  rx : List Bytes := [[], [], [], []]
  badCodewords : Nat := 0
  badAt : Word := 0
  fecCorrected : BitVec 32 := 0
  fecUncorrectable : BitVec 32 := 0
  weights : List Nat := [0x02, 0x10, 0x08, 0x04]
  nextWeights : List Nat := [0x02, 0x10, 0x08, 0x04]
  secEnable : Bool := false
  secActive : Bool := false
  secFail : Nat := 0
  peerSvn : Nat := 0
  minPeerSvn : Nat := 0
  sessionMsgs : List Nat := [0, 0]
  keys : Bytes × Bytes := ([], [])
  tagFails : Nat := 0
  testRun : Bool := false
  testMode : Nat := 0
  testLock : Nat := 0
  testErrors : BitVec 16 := 0
  waitingReady : List (Nat × Nat × Nat) := []
  relayReady : List Nat := []
  deriving DecidableEq, Repr

/-- A collective group entry (R399): members as (PART_ID, LINK). -/
structure Group where
  part : Nat
  rank : Nat
  gen : Nat
  members : List (Nat × Nat)
  deriving DecidableEq, Repr

/-- A tensor of a loaded model (Table 18-2). -/
structure ModelTensor where
  fmt : Nat
  sparse : Bool
  axis : Nat
  rows : Nat
  cols : Nat
  batch : Nat
  deriving DecidableEq, Repr

/-- A loaded model (R428). `owner` is a partition, or 255 for a shared model. -/
structure Model where
  owner : Nat
  layers : Nat
  kvHeads : Nat
  handleBase : Nat
  tensors : List ModelTensor
  publisher : Bytes
  manifest : Bytes
  deriving DecidableEq, Repr

/-- An alloy (R436), named by its partition and HANDLE_BASE. -/
structure Alloy where
  modelId : Nat
  shared : Bool
  owner : Nat
  tensors : Nat
  adapters : List (Nat × Nat)
  deriving DecidableEq, Repr

/-- A resource that requests of several partitions wait at (R457): the bytes of each waiting request of a partition, oldest first, the deficit of each partition, and the partition served last. -/
structure ResQueue where
  waiting : NMap (List Nat) := []
  deficit : NMap Nat := []
  last : Nat := 0
  deriving DecidableEq, Repr

/-! ### Partitions -/

/-- A snapshot unit (R561, R562). -/
structure Snap where
  go : Bool := false
  done : Bool := false
  result : Nat := 0
  clear : Bool := false
  kind : Nat := 0
  index : Nat := 0
  data : Bytes := []
  deriving DecidableEq, Repr

/-- A partition (R439 to R444). `sets` lists the settings that differ from their defaults, by key * 256 + instance; `storm` counts the promotion decisions by step number, and `stormSeen` lists the steps whose storm record has been raised (R123). -/
structure Part where
  function : Nat := 0
  groups : BitVec 96 := 0
  sets : NMap Nat := []
  lengthBank : Bool := false
  quarantine : Option Nat := none
  acct : Acct := {}
  buckets : NMap Int := []
  contentKeys : NMap Bytes := []
  publisherKeys : NMap Bytes := []
  storm : NMap Nat := []
  stormSeen : List Nat := []
  deriving DecidableEq, Repr

/-- The two views of a partition window that outlive a partition: VF_ERR_PENDING and the snapshot unit of the PF window and of the VF's BAR0 (R561, R588). -/
structure Window where
  pfPending : BitVec 8 := 0
  vfPending : BitVec 8 := 0
  pfSnap : Snap := {}
  vfSnap : Snap := {}
  deriving DecidableEq, Repr

/-! ### Codec -/

/-- The double-versioned state of a codec stream (R462, R463). -/
structure CodecState where
  slots : List (Option Nat) := List.replicate 8 none
  slotIndex : List Nat := List.replicate 8 0
  q : Nat := 0
  sinceKey : Nat := 0
  coded : Bool := false
  keyRequest : Bool := false
  lastKeyIndex : Nat := 0
  lastIndex : Nat := 0
  content : NMap Bytes := []
  deriving DecidableEq, Repr

/-- A codec stream context (R460, R461). -/
structure CodecStream where
  part : Nat
  plan : Nat
  ring : Nat
  live : Bool
  livePriority : Nat
  buffers : List Nat
  bufferBytes : Nat
  state : CodecState := {}
  deriving DecidableEq, Repr

/-- A codec and pixel engine (R459, R476): stream contexts, the command whose item it is working on, and the partition last served. -/
structure Engine where
  streams : NMap CodecStream := []
  current : Option Nat := none
  lastLive : Nat := 15
  lastPart : Nat := 15
  deriving DecidableEq, Repr

/-! ### Security -/

/-- The state of an image slot in the boot control record (R483). -/
inductive SlotState where
  | empty | trial | good | bad
  deriving DecidableEq, Repr

/-- The boot control fields of a slot (R483). -/
structure SlotCtl where
  state : SlotState := .empty
  tried : Bool := false
  fails : Nat := 0
  deriving DecidableEq, Repr

/-- A copy of the boot control record: its SEQ, whether its check passes, and the fields of slots A and B (R482, R483). -/
structure BootRecord where
  seqNo : BitVec 32 := 0
  ok : Bool := false
  a : SlotCtl := {}
  b : SlotCtl := {}
  deriving DecidableEq, Repr

/-- An image in a slot: its header values, whether it verified, and its bytes (R484). -/
structure HimonImage where
  svn : Nat := 0
  version : Nat := 0
  verifies : Bool := false
  image : Mem := []
  deriving DecidableEq, Repr

/-- A Himon image slot as the ROM and the mailbox see it: the boot control fields of the record in use, and the image (R483 to R485). -/
structure HimonSlot where
  state : SlotState := .empty
  tried : Bool := false
  fails : Nat := 0
  svn : Nat := 0
  version : Nat := 0
  verifies : Bool := false
  image : Mem := []
  deriving DecidableEq, Repr

/-- A repair record of the package flash (R547). -/
structure Repair where
  typ : Nat
  die : Nat
  macroId : Nat
  address : Nat
  svn : Nat
  deriving DecidableEq, Repr

/-- The package flash (R482, R483, R512, R547): both copies of the boot control record, the two images, the rollback floor, the operating-point table with its validity, repair records, a stored unlock token, and the product CA and device certificates (R491). -/
structure Flash where
  copyA : BootRecord := {}
  copyB : BootRecord := {}
  imageA : HimonImage := {}
  imageB : HimonImage := {}
  floor : Nat := 0
  points : List (List Nat) := []
  pointsValid : Bool := false
  repairs : List Repair := []
  token : Option Bytes := none
  tokenOk : Bool := false
  productCa : Bytes := []
  deviceCert : Bytes := []
  deriving DecidableEq, Repr

/-- An SPDM session (R496). -/
structure Session where
  established : Bool := false
  keyGen : Nat := 0
  deriving DecidableEq, Repr

/-- An IDE stream (R501, R502): the key delivered and not yet activated, the key in use, whether the stream is insecure, and the functions associated with it when its key set came into use. -/
structure IdeStream where
  next : Option Bytes := none
  key : Option Bytes := none
  insecure : Bool := false
  fns : List Nat := []
  deriving DecidableEq, Repr

/-- What the part sends at the start of an encrypted link session: its X448 ephemeral public key, the alias key's signature over it, and its certificate chain (R503). -/
structure LinkKey where
  link : Nat
  ephemeral : Bytes
  signature : Bytes
  chain : List Bytes
  deriving DecidableEq, Repr

/-- A DMA write that a stopped IDE stream holds back (R502, log entry 114). -/
structure Stalled where
  fn : Nat
  addr : Nat
  bytes : Bytes
  deriving DecidableEq, Repr

/-- The security core and its mailbox (R485 to R505, Table 24-6). -/
structure Sec where
  running : Option Bool := none
  trialBoot : Bool := false
  recovery : Bool := false
  unlocked : Bool := false
  jtagRefused : Nat := 0
  handOff : Option Word := none
  aliasCert : Option Bytes := none
  doe : NMap Session := []
  mctp : NMap Session := []
  ide : NMap IdeStream := []
  mbGo : Bool := false
  mbDone : Bool := false
  mbCmd : Nat := 0
  mbResult : Nat := 0
  mbTarget : Bool := false
  mbOffset : Nat := 0
  mbAddr : Nat := 0
  mbLen : Nat := 0
  lastWritten : Option Bool := none
  statusRegs : List Nat := List.replicate 7 0
  deriving DecidableEq, Repr

/-! ### Power and reset -/

/-- Where the part stands between power-on and service (Table 22-10). -/
inductive Boot where
  /-- V1P8_AUX is removed. -/
  | off
  /-- PKG_RST_N holds the part in reset. -/
  | held
  /-- Steps 1 and 2: PWR_REQ_N asserted, waiting for PWR_GOOD. -/
  | waitPower
  /-- Steps 3 to 8 of a cold start-up, until Himon reports ready. -/
  | cold
  /-- A warm start-up in progress, until Himon reports ready. -/
  | warm
  /-- Step 9 has been reached. -/
  | ready
  /-- No Himon slot could be booted (R487). -/
  | recovery
  /-- A protective trip holds the part (R521). -/
  | tripped
  deriving DecidableEq, Repr

/-- The pins the part reads and drives (R570, R576). `true` means asserted (for an active-low pin, driven low). -/
structure Pins where
  aux : Bool := false
  pkgRst : Bool := true
  perst : Bool := true
  pwrGood : Bool := false
  pwrReq : Bool := false
  thermTrip : Bool := false
  svcAttn : Bool := false
  ilim : List Bool := List.replicate 8 false
  pmbAlert : Bool := false
  deriving DecidableEq, Repr

/-- The power state of one die (R511 to R520). -/
structure DiePower where
  ap : Nat := 0
  apNext : Option Nat := none
  mv : Nat := 720
  level : Nat := 0
  lift : Nat := 0
  cause : Nat := 0
  avsFault : Bool := false
  setPointStuck : Bool := false
  cal : Int := 0
  deriving DecidableEq, Repr

/-- Package power (R506 to R522, Table 22-6, Table 22-7). -/
structure Power where
  pk : Nat := 0
  dies : List DiePower := List.replicate 8 {}
  gated : BitVec 96 := 0
  turningOn : List (Nat × Word) := []
  cycle : Option (Nat × Word) := none
  clampSeen : BitVec 8 := 0
  pkgPower : Bool := false
  thermal : Bool := false
  ilim : Bool := false
  current : Bool := false
  regFault : Bool := false
  telCounter : Word := 0
  telSeq : BitVec 32 := 0
  tel : TelemetryReading := {}
  rails : List Nat := [0, 0, 0, 0]
  deriving DecidableEq, Repr

/-- An error record (R535, Table 23-2). -/
structure ErrRec where
  origin : Nat
  cls : Nat
  severity : Nat
  status : Nat := 0
  detail : Nat := 0
  reporters : BitVec 32 := 1
  partition : Nat := 0xFF
  pending : Bool := false
  deferred : Bool := false
  firstReporter : Nat := 0
  firstSeen : Word := 0
  lastSeen : Word := 0
  info : Nat := 0
  notified : Word := 0
  deriving DecidableEq, Repr

/-- A pre-reset entry of the Colophon (R533), in the fields of Table 22-13. -/
structure PreReset where
  partition : Nat
  kind : Nat
  ringId : Nat
  log2 : Nat
  halted : Bool
  armed : Bool
  phase : Bool
  head : Nat
  tail : Nat
  lastTag : Nat
  unrecorded : Nat
  lastCounter : Word
  deriving DecidableEq, Repr

/-- The Colophon registers and captures (R529 to R533, Table 22-11). `captures` are the taken captures, oldest first: `none` for the register, a command id for the command; `since` is the home counter at which GO was written (R545). -/
structure Colo where
  go : Bool := false
  done : Bool := false
  error : Bool := false
  sections : Nat := 0x1FFF
  addr : Nat := 0
  len : Nat := 0
  captures : List (Option Nat × Bytes × Nat) := []
  since : Word := 0
  pre : List PreReset := []
  cancelledSteps : List (Nat × Nat × Nat × Nat) := []
  deriving DecidableEq, Repr

/-- The package admin ring registers that hold their last written value (Table 24-5). -/
structure AdminRegs where
  sqBase : Nat := 0
  cqBase : Nat := 0
  headWb : Nat := 0
  enable : Bool := false
  cfgError : Bool := false
  sqLog2 : Nat := 0
  cqLog2 : Nat := 0
  vector : Nat := 0
  modCountM1 : Nat := 0
  modTime : Nat := 0
  deriving DecidableEq, Repr

/-- The MSI-X state of a function (Table 2-1, R64): the table by vector as (address, data), the vectors whose mask is clear, the function mask, and the pending bits. -/
structure Msix where
  table : NMap (Nat × Nat) := []
  unmasked : List Nat := []
  funcMasked : Bool := true
  pendingBits : List Nat := []
  deriving DecidableEq, Repr

/-- A DMA request the part makes: the requester's function (0 the PF), its direction, its bus address and its length (R32, R556). -/
structure Dma where
  fn : Nat
  write : Bool
  addr : Nat
  len : Nat
  deriving DecidableEq, Repr

/-- The whole machine. The queue `pending` is first in, first out; `fresh` numbers the free values of a run and is the model's own. `lastDma` is die 0's counter at the last DMA request; `t2cache` lists the ingots and chunks of T3-home objects in T2 caches as (object, version, ingot), oldest use first (R358); `queues` holds what waits at each shared resource (R457); `unitOut` lists what has been returned to issuing units, as (die, kind, unit, bytes), oldest first (R332); `hbmRate` is the data rate in Mb/s per pin (R335); `repaired` the repair records in force (R547). -/
structure State where
  pending : List Instr := []
  fresh : Nat := 0
  counters : List Word := List.replicate 8 0
  boot : Boot := .off
  pins : Pins := {}
  resetCause : Nat := 0
  warmResets : BitVec 32 := 0
  fatal : Bool := false
  host : Mem := []
  half : NMap Nat := []
  msix : NMap Msix := []
  msixOut : List (Nat × Nat) := []
  atc : List (Nat × Nat) := []
  dma : List Dma := []
  stalled : List Stalled := []
  lastDma : Word := 0
  queues : NMap ResQueue := []
  t2cache : List (Nat × Nat × Nat) := []
  admin : AdminRegs := {}
  subs : NMap SubRing := []
  comps : NMap CompRing := []
  fences : NMap Fence := []
  cmds : NMap Cmd := []
  nextCmd : Nat := 0
  parts : NMap Part := []
  windows : NMap Window := []
  plans : NMap Plan := []
  tables : NMap TableSlot := []
  tempers : NMap Temper := []
  objects : NMap Obj := []
  seqs : NMap Seq := []
  frames : List (NMap Frame) := List.replicate 8 []
  pool : List Nat := List.replicate 8 0
  steps : NMap Step := []
  trees : List (List PrefixNode) := List.replicate 8 []
  mitusEn : Bool := false
  nearGib : Nat := 0
  hbm : List Stack := List.replicate 24 {}
  hbmRate : Nat := 9600
  repaired : List Repair := []
  dies : List DieState := List.replicate 8 {}
  spine : NMap SpineLink := []
  streams : NMap Stream := []
  spineOut : List SpineMsg := []
  unitOut : List (Nat × Nat × Nat × Bytes) := []
  links : List Link := List.replicate 8 {}
  linkOut : List (Nat × Msg) := []
  frameOut : List LinkFrame := []
  linkIn : List (Nat × Nat × Msg) := []
  partId : Nat := 0
  groups : NMap Group := []
  fprintWait : List Msg := []
  models : NMap Model := []
  alloys : NMap Alloy := []
  engines : List Engine := List.replicate 8 {}
  flash : Flash := {}
  sec : Sec := {}
  serial : Nat := 0
  spdmOut : List Bytes := []
  keyOut : List LinkKey := []
  pldmOut : List Nat := []
  power : Power := {}
  errs : List (NMap ErrRec) := List.replicate 8 []
  dropped : Nat := 0
  ceLog2 : Nat := 0x0C
  colo : Colo := {}
  deriving DecidableEq, Repr

/-- The image that manufacture writes to slot A: the header of Table 21-2 with SVN 1 and VERSION 1, under a key, a signature and a payload that nothing constrains (log entry 20). -/
def HimonImage.factory : HimonImage :=
  let b := leBytes 4 0x4E4F4D48 ++ leBytes 2 1 ++ leBytes 2 0 ++ leBytes 4 1 ++ leBytes 4 1 ++ leBytes 4 Config.factoryPayload.length ++ leBytes 4 0
    ++ (Config.factoryKey ++ List.replicate 57 0).take 57 ++ List.replicate 47 0 ++ (Config.factorySignature ++ List.replicate 114 0).take 114 ++ List.replicate 14 0 ++ Config.factoryPayload
  { svn := 1, version := 1, verifies := true, image := (b.zipIdx.filter (fun e => e.1 != 0)).map (fun e => (e.2, e.1)) }

/-- The package flash a part leaves manufacture with in this model: slot A GOOD with an image of SVN 1 that verifies, slot B EMPTY, floor 0, and a valid operating-point table of the typical set-points of Table 22-3. -/
def Flash.manufactured : Flash :=
  { copyA := { seqNo := 1, ok := true, a := { state := .good } }
    imageA := HimonImage.factory
    points := List.replicate 8 [720, 690, 660, 640, 620, 600, 580, 580]
    pointsValid := true
    productCa := Config.productCa
    deviceCert := Config.deviceCert }

/-- The state after reset: V1P8_AUX has just been applied (cause 0x00, R525), PKG_RST_N and PERST_N are asserted, and nothing else has happened. -/
def State.reset : State :=
  { boot := .held
    pins := { aux := true }
    flash := Flash.manufactured }

end Sys2Proof.Machine
end

