-- ==== Sys2Proof/Machine/Ops.lean ====
section
/-! DEFINITION. The named operations over memory, host memory, counters, interrupts and the per-die lists. -/

namespace Sys2Proof.Machine

/-! ### Sparse byte memory -/

/-- The byte at an address. -/
def Mem.read (m : Mem) (a : Nat) : Byte := ((m.find? (fun c => c.1 == a)).map (·.2)).getD 0

/-- The cells a run of bytes makes from an address on, zero bytes left out. -/
def Mem.cellsOf : Nat → Bytes → Mem
  | _, [] => []
  | a, b :: bs => if b = 0 then Mem.cellsOf (a + 1) bs else (a, b) :: Mem.cellsOf (a + 1) bs

/-- Write a run of bytes. -/
def Mem.writeRange (m : Mem) (a : Nat) (bs : Bytes) : Mem :=
  m.filter (fun c => decide (c.1 < a)) ++ Mem.cellsOf a bs ++ m.filter (fun c => decide (a + bs.length ≤ c.1))

/-- Read a run of bytes. -/
def Mem.readRange (m : Mem) (a n : Nat) : Bytes :=
  let w := m.filter (fun c => decide (a ≤ c.1) && decide (c.1 < a + n))
  (List.range n).map (fun i => Mem.read w (a + i))

/-- Clear a run of bytes to zero. -/
def Mem.clearRange (m : Mem) (a n : Nat) : Mem :=
  m.filter (fun c => decide (c.1 < a) || decide (a + n ≤ c.1))

/-- The canonical form: addresses strictly rising and no listed byte zero. -/
def Mem.wf : Mem → Bool
  | [] => true
  | [c] => c.2 != 0
  | c :: d :: m => c.2 != 0 && decide (c.1 < d.1) && Mem.wf (d :: m)

/-- Store cells one by one, in list order. -/
def Mem.stores (m : Mem) : List Host.Cell → Mem
  | [] => m
  | c :: cs => Mem.stores (Mem.writeRange m c.1 [c.2]) cs

/-- The little-endian number of `n` bytes at an address. -/
def Mem.nat (m : Mem) (a n : Nat) : Nat := leNat (Mem.readRange m a n)

/-! ### Host memory -/

/-- Bytes of host memory as the part reads them by DMA. -/
def State.hostRead (s : State) (a n : Nat) : Bytes := Mem.readRange s.host a n

/-- Keep the translation of one page for a function: at most 4,096 entries, the page first used dropped (Table 2-1). That a page used again keeps its place is a DESIGN CHOICE (log entry 84). -/
def touchPage (fn : Nat) (atc : List (Nat × Nat)) (page : Nat) : List (Nat × Nat) :=
  if atc.contains (fn, page) then atc else (atc ++ [(fn, page)]).drop (atc.length + 1 - 4096)

/-- Keep the translations of a run of addresses; of a longer run, the last 4,096 pages stay. -/
def touchPages (fn : Nat) (atc : List (Nat × Nat)) (a n : Nat) : List (Nat × Nat) :=
  let last := (a + n - 1) / 4096
  let k := min 4096 (last + 1 - a / 4096)
  if n = 0 then atc else ((List.range k).map (fun i => last + 1 - k + i)).foldl (touchPage fn) atc

/-- The insecure IDE stream that stops DMA of a function, if any (R502). -/
def State.dmaStop (s : State) (fn : Nat) : Option Nat :=
  (s.sec.ide.find? (fun e => e.2.insecure && e.2.fns.contains fn)).map (·.1)

/-- Make a DMA request of a function: it carries the function's requester id (R32), and its translations stay in the ATC (R29). A stopped stream makes none (R502). -/
def State.asDma (s : State) (fn : Nat) (write : Bool) (a n : Nat) : State :=
  let on := decide (n ≠ 0) && (s.dmaStop fn).isNone
  { s with atc := if on then touchPages fn s.atc a n else s.atc, dma := if on then s.dma ++ [{ fn := fn, write := write, addr := a, len := n }] else s.dma,
           lastDma := if on then s.counters.getD 0 0 else s.lastDma }

/-- Write host memory by DMA of a function; a write on a stopped stream is held back (R502, log entry 114). -/
def State.hostWrite (s : State) (fn a : Nat) (bs : Bytes) : State :=
  let on := (s.dmaStop fn).isNone
  { s.asDma fn true a bs.length with host := if on then Mem.writeRange s.host a bs else s.host,
                                     stalled := if on then s.stalled else s.stalled ++ [{ fn := fn, addr := a, bytes := bs }] }

/-- Make the writes held back for streams that run again, in order (R502). -/
def State.releaseWrites (s : State) : State :=
  s.stalled.foldl (fun (a : State) w => a.hostWrite w.fn w.addr w.bytes) { s with stalled := [] }

/-- The host's own stores, which a doorbell or mailbox write makes visible (R43). -/
def State.hostStores (s : State) (cs : List Host.Cell) : State := { s with host := Mem.stores s.host cs }

/-! ### Counters -/

/-- The counter of a die (R26). -/
def State.counter (s : State) (d : Nat) : Word := s.counters.getD d 0

/-- A timed event at counter value `t` of a die: the counter has reached `t` (R26, R27). -/
def State.reach (s : State) (d : Nat) (t : Word) : State :=
  { s with counters := s.counters.modify d (fun c => if c < t then t else c) }

/-- One tick of every die's counter. -/
def State.tick (s : State) : State := { s with counters := s.counters.map (· + 1) }

/-- The number of the next free value. -/
def State.takeFresh (s : State) : State := { s with fresh := s.fresh + 1 }

/-! ### Per-die and per-link lists -/

def State.dieAt (s : State) (d : Nat) : DieState := s.dies.getD d {}
def State.setDie (s : State) (d : Nat) (x : DieState) : State := { s with dies := s.dies.set d x }
def State.linkAt (s : State) (l : Nat) : Link := s.links.getD l {}
def State.setLink (s : State) (l : Nat) (x : Link) : State := { s with links := s.links.set l x }
def State.stackAt (s : State) (h : Nat) : Stack := s.hbm.getD h {}
def State.setStack (s : State) (h : Nat) (x : Stack) : State := { s with hbm := s.hbm.set h x }
def State.engineAt (s : State) (d : Nat) : Engine := s.engines.getD d {}
def State.setEngine (s : State) (d : Nat) (x : Engine) : State := { s with engines := s.engines.set d x }
def State.diePower (s : State) (d : Nat) : DiePower := s.power.dies.getD d {}
def State.setDiePower (s : State) (d : Nat) (x : DiePower) : State :=
  { s with power := { s.power with dies := s.power.dies.set d x } }
def State.framesOf (s : State) (d : Nat) : NMap Frame := s.frames.getD d []
def State.setFrames (s : State) (d : Nat) (x : NMap Frame) : State := { s with frames := s.frames.set d x }

/-! ### Keys of the maps -/

/-- The owner number of the package admin ring. -/
def packageOwner : Nat := 255

def ringKey (owner ring : Nat) : Nat := owner * 1024 + ring
def fenceKey (part f : Nat) : Nat := part * 4096 + f
def planKey (part id : Nat) : Nat := part * 65536 + id
def objKey (part handle : Nat) : Nat := part * 2 ^ 32 + handle
def tableKey (part slot : Nat) : Nat := part * 128 + slot
def layerKey (part layer : Nat) : Nat := part * 4096 + layer
def stepKey (part handle : Nat) : Nat := part * 2 ^ 32 + handle
/-- The key of tensor `t` of a shared model, which has no handle (R428). -/
def sharedKey (modelId t : Nat) : Nat := 2 ^ 44 + modelId * 4096 + t

/-- The key of an alloy's base in the model table: a partition's own model, or a shared one (R434, R436). -/
def Alloy.base (a : Alloy) : Nat := objKey (if a.shared then packageOwner else a.owner) a.modelId

/-- The model of an id that a partition reaches: its own, else the shared one (R434, R436). -/
def State.reachModel (s : State) (part id : Nat) : Option (Nat × Model) :=
  match NMap.get? s.models (objKey part id) with
  | some m => some (objKey part id, m)
  | none => (NMap.get? s.models (objKey packageOwner id)).map (fun m => (objKey packageOwner id, m))

/-! ### Partitions and dies -/

/-- Whether a partition owns quire group `g` (R439). -/
def Part.hasGroup (p : Part) (g : Nat) : Bool := p.groups.getLsbD g

/-- Whether a partition holds a quire group on a die. -/
def Part.onDie (p : Part) (d : Nat) : Bool := (List.range 12).any (fun k => p.hasGroup (12 * d + k))

/-- L of R353: the ascending dies that hold quire groups of the partition. -/
def Part.dieList (p : Part) : List Nat := (List.range 8).filter p.onDie

/-- Quires that serve a logical id of a quire group on a die (R386). -/
def State.groupQuires (s : State) (g : Nat) : Nat :=
  ((List.range 8).filter (fun i => ((s.dieAt (g / 12)).logical.getD (8 * (g % 12) + i) none).isSome)).length

/-- Active quires of a die: logical ids that some physical quire serves (R386, R552). -/
def State.activeQuires (s : State) (d : Nat) : Nat :=
  if (s.dieAt d).fenced then 0 else ((s.dieAt d).logical.filter Option.isSome).length

/-- Active quires that a partition holds on a die (R157, R386). -/
def State.partQuires (s : State) (p : Part) (d : Nat) : Nat :=
  if (s.dieAt d).fenced then 0
  else ((List.range 12).map (fun k => if p.hasGroup (12 * d + k) then s.groupQuires (12 * d + k) else 0)).sum

/-- Serving function of an owner: the PF for the package admin ring (R32). -/
def State.functionOf (s : State) (owner : Nat) : Nat :=
  match NMap.get? s.parts owner with
  | some p => p.function
  | none => 0

/-- Defaults of Table 19-4. -/
def settingDefault (key : Nat) : Nat :=
  match key with
  | 0x0005 => 524288
  | 0x000C => 100
  | 0x000E => 8
  | 0x0010 => 8
  | 0x0011 => 2000
  | 0x0012 => 6
  | 0x0013 => 50
  | 0x0028 => 16
  | 0x0029 => 16
  | 0x002A => 16
  | 0x002B => 16
  | _ => 0

/-- A setting of a partition (Table 19-4). -/
def Part.setting (p : Part) (key inst : Nat) : Nat := NMap.getD p.sets (key * 256 + inst) (settingDefault key)

/-- A setting of a partition by its number; the default where it does not exist. -/
def State.setting (s : State) (part key inst : Nat) : Nat :=
  match NMap.get? s.parts part with
  | some p => p.setting key inst
  | none => settingDefault key

/-! ### MSI-X (R64, R541) -/

/-- Send a vector of a function: into the outbox, or held pending while the function or the vector is masked. -/
def State.sendMsix (s : State) (fn vec : Nat) : State :=
  let m := NMap.getD s.msix fn {}
  if m.funcMasked || !(m.unmasked.contains vec) then
    let held := if m.pendingBits.contains vec then m.pendingBits else m.pendingBits ++ [vec]
    { s with msix := NMap.set s.msix fn { m with pendingBits := held } }
  else { s with msixOut := s.msixOut ++ [(fn, vec)] }

/-- Send what is pending and no longer masked. -/
def State.flushMsix (s : State) (fn : Nat) : State :=
  let m := NMap.getD s.msix fn {}
  if m.funcMasked then s
  else
    let due := m.pendingBits.filter (fun v => m.unmasked.contains v)
    let kept := m.pendingBits.filter (fun v => !(m.unmasked.contains v))
    { s with msix := NMap.set s.msix fn { m with pendingBits := kept }, msixOut := s.msixOut ++ due.map (fun v => (fn, v)) }

/-! ### Outboxes -/

/-- Send a message on an external link. -/
def State.sendLink (s : State) (l : Nat) (m : Msg) : State := { s with linkOut := s.linkOut ++ [(l, m)] }

/-! ### Service -/

/-- Whether the PCI Express link carries DMA: PK0 to PK2 with PERST_N released. -/
def State.linkUp (s : State) : Bool := !s.pins.perst && decide (s.power.pk ≤ 2) && decide (s.boot = .ready)

/-- Whether commands run: the part is ready and not in the fatal state (R545, R551). -/
def State.serving (s : State) : Bool := decide (s.boot = .ready) && !s.fatal

/-- Whether every register of BAR0 serves (R551). -/
def State.barAll (s : State) : Bool := decide (s.boot = .ready) && !s.fatal && !s.pins.perst && decide (s.power.pk ≤ 2)

/-- Whether the registers that the fatal state keeps serve (R551). -/
def State.barErr (s : State) : Bool := decide (s.boot = .ready) && !s.pins.perst && decide (s.power.pk ≤ 2)

/-- Whether the security mailbox serves: in normal service and in recovery (R551, R556). -/
def State.barMailbox (s : State) : Bool := s.barAll || (decide (s.boot = .recovery) && !s.pins.perst)

/-- Whether the rings of an owner are fetched and admitted in this package state (R509). -/
def State.ringServed (s : State) (owner : Nat) : Bool :=
  s.serving && (decide (s.power.pk = 0) || (decide (s.power.pk ≤ 2) && decide (owner = packageOwner)))

end Sys2Proof.Machine
end

