-- ==== Sys2Proof/Machine/Operands.lean ====
section
/-! DEFINITION. The operand forms: descriptor fields (Table 2-6 and the payload tables), host lists, and the doorbell and register addresses that commands name. -/

namespace Sys2Proof.Machine

/-- The little-endian field of `n` bytes at byte `off` of a structure. -/
def fld (b : Bytes) (off n : Nat) : Nat := leNat ((b.drop off).take n)

/-- Whether bytes `lo` up to, not including, `hi` are zero. -/
def zeros (b : Bytes) (lo hi : Nat) : Bool := ((b.drop lo).take (hi - lo)).all (· == 0)

/-- Replace the bytes at an offset, the length unchanged. -/
def putBytes (b : Bytes) (off : Nat) (x : Bytes) : Bytes := b.take off ++ x ++ b.drop (off + x.length)

/-- Replace the little-endian field of `n` bytes at an offset. -/
def putFld (b : Bytes) (off n v : Nat) : Bytes := putBytes b off (leBytes n v)

/-- Bring a byte string to a length, zeros filling it. -/
def fixLen (n : Nat) (b : Bytes) : Bytes := b.take n ++ List.replicate (n - b.length) 0

/-- The first of several findings. -/
def firstSome {α : Type} : List (Option α) → Option α
  | [] => none
  | some x :: _ => some x
  | none :: xs => firstSome xs

def dOpcode (d : Bytes) : Nat := fld d 0 1
def dNotify (d : Bytes) : Bool := bitOf (fld d 1 1) 0
def dFenceOnError (d : Bytes) : Bool := bitOf (fld d 1 1) 1
def dPriority (d : Bytes) : Nat := fld d 3 1
def dTag (d : Bytes) : Nat := fld d 4 4
def dPlan (d : Bytes) : Nat := fld d 8 4
def dCq (d : Bytes) : Nat := fld d 12 2
def dFence (d : Bytes) : Nat := fld d 14 2

/-- The ring an owner's doorbell offset names, in the function's BAR2 (R563): owner, ring id and whether it is a head doorbell. -/
def doorbellAt (s : State) (fn off : Nat) : Option (Nat × Nat × Bool) :=
  let inWindow (p o : Nat) : Option (Nat × Nat × Bool) :=
    if o < 0x4000 ∧ o % 0x10 = 0 then some (p, o / 0x10, false)
    else if 0x4000 ≤ o ∧ o < 0x8000 ∧ o % 0x10 = 0 then some (p, (o - 0x4000) / 0x10, true)
    else none
  if fn = 0 then
    if off = 0x8000 then (if s.admin.enable then some (packageOwner, 0, false) else none)
    else if off = 0x8010 then (if s.admin.enable then some (packageOwner, 0, true) else none)
    else
      let p := off / 0x10000
      match NMap.get? s.parts p with
      | some q => if p < 16 ∧ q.function = 0 then inWindow p (off % 0x10000) else none
      | none => none
  else
    match s.parts.find? (fun q => q.2.function == fn) with
    | some (p, _) => if off < 0x10000 then inWindow p off else none
    | none => none

/-- The lowest-numbered die that holds a quire group of a partition (Table 2-3). -/
def Part.firstDie (p : Part) : Nat := p.dieList.headD 0

/-- The home die that a HOME_DIE field names. -/
def homeDie (p : Part) (v : Nat) : Nat := if v = 0xFF then p.firstDie else v

/-- The last MSI-X vector of a function (Table 2-1). -/
def lastVector (fn : Nat) : Nat := if fn = 0 then 2047 else 1024

end Sys2Proof.Machine
end

