-- ==== Sys2Proof/Machine/Share.lean ====
section
/-! DEFINITION. Shared resources: the regulators of a partition, the deficit round-robin between partitions that wait at one resource, and the shared caches of the dies (R327 to R329, R455 to R458). -/

namespace Sys2Proof.Machine

/-! ### Regulators (R455, R456) -/

/-- RATE and BURST of a partition's regulator (Table 19-4). -/
def Part.rate (p : Part) (res inst : Nat) : Nat × Nat :=
  let v := p.setting (0x0020 + res) inst
  (v % 2 ^ 32, v / 2 ^ 32)

/-- The bucket of a regulator; it starts at BURST (R456). -/
def Part.bucket (p : Part) (res inst : Nat) : Int := NMap.getD p.buckets (res * 8 + inst) ((p.rate res inst).2 : Int)

/-- Whether a partition's request passes its regulator: RATE 0 holds none, and a bucket below zero holds all (R456). The package admin ring belongs to no partition and is not regulated (R455). -/
def State.passes (s : State) (part res inst : Nat) : Bool :=
  match NMap.get? s.parts part with
  | some p => decide ((p.rate res inst).1 = 0) || decide (0 ≤ p.bucket res inst)
  | none => true

/-- What a partition's regulator of a resource has in its bucket; none where nothing regulates it (R456). -/
def State.budget (s : State) (part res inst : Nat) : Option Int :=
  match NMap.get? s.parts part with
  | some p => if (p.rate res inst).1 = 0 then none else some (p.bucket res inst)
  | none => none

/-- Take `n` bytes of a request from a partition's regulator (R456). -/
def State.meter (s : State) (part res inst n : Nat) : State :=
  { s with parts := NMap.modify s.parts part (fun p =>
      if (p.rate res inst).1 = 0 then p else { p with buckets := NMap.set p.buckets (res * 8 + inst) (p.bucket res inst - n) }) }

/-! ### Deficit round-robin (R457) -/

/-- The queue of a stack, of a spine direction and channel, of a link VC, and of the PCIe DMA engine. -/
def stackQueue (h : Nat) : Nat := h
def spineQueue (src dst ch : Nat) : Nat := 100 + (src * 8 + dst) * 4 + ch
def linkQueue (link vc : Nat) : Nat := 400 + link * 4 + vc
def pcieQueue : Nat := 500

/-- The metered resource and instance of a queue (Table 19-7): 0 HBM of a die, 1 spine of the sending die, 2 link, 3 PCIe. -/
def regulatorOf (q : Nat) : Nat × Nat :=
  if q < 24 then (0, q / 3) else if q < 400 then (1, (q - 100) / 32) else if q < 500 then (2, (q - 400) / 4) else (3, 0)

/-- SHARE of a partition at a queue; the package admin ring has 16 (R455). -/
def State.shareAt (s : State) (q part : Nat) : Nat :=
  match NMap.get? s.parts part with
  | some p => p.setting (0x0028 + (regulatorOf q).1) (regulatorOf q).2
  | none => 16

/-- The waiting requests of a queue that a deficit covers, taken from the front while the bucket of the regulator, if there is one, is not negative (R456, R457); with the deficit that is left. -/
def takeCovered : Option Int → List Nat → Nat → List Nat × List Nat × Nat
  | _, [], d => ([], [], d)
  | b, n :: ns, d =>
    if n ≤ d ∧ b.all (fun x => decide (0 ≤ x)) = true then let r := takeCovered (b.map (fun x => x - n)) ns (d - n); (n :: r.1, r.2.1, r.2.2)
    else ([], n :: ns, d)

/-- The partition that a queue serves next: the first after the last served, in cyclic order, that waits and passes its regulator. -/
def State.nextAt (s : State) (q : Nat) (x : ResQueue) : Option Nat :=
  let r := regulatorOf q
  let ready := (x.waiting.filter (fun w => !w.2.isEmpty && s.passes w.1 r.1 r.2)).map (·.1)
  match ready.find? (fun p => decide (x.last < p)) with
  | some p => some p
  | none => ready.head?

/-- One visit of the round: the deficit grows by SHARE × 256 and pays for requests from the front, each of which finds the bucket not negative (R456, R457); an emptied partition keeps no deficit. -/
def State.visit (s : State) (q part : Nat) (x : ResQueue) : State :=
  let r := regulatorOf q
  let t := takeCovered (s.budget part r.1 r.2) (NMap.getD x.waiting part []) (NMap.getD x.deficit part 0 + 256 * s.shareAt q part)
  let x1 : ResQueue :=
    if t.2.1.isEmpty then { waiting := NMap.erase x.waiting part, deficit := NMap.erase x.deficit part, last := part }
    else { waiting := NMap.set x.waiting part t.2.1, deficit := NMap.set x.deficit part t.2.2, last := part }
  let s1 := t.1.foldl (fun (a : State) n => a.meter part r.1 r.2 n) s
  { s1 with queues := NMap.set s1.queues q x1 }

/-- Serve a queue while a partition that waits there passes its regulator; `fuel` bounds the visits. -/
def State.serveQueue : Nat → Nat → State → State
  | 0, _, s => s
  | fuel + 1, q, s =>
    match NMap.get? s.queues q with
    | none => s
    | some x =>
      match s.nextAt q x with
      | some part => State.serveQueue fuel q (s.visit q part x)
      | none => s

/-- Visits that serve everything a queue holds. -/
def ResQueue.work (x : ResQueue) : Nat := (x.waiting.map (fun w => w.2.sum / 256 + w.2.length)).sum

/-- Serve a queue. -/
def State.drain (s : State) (q : Nat) : State :=
  match NMap.get? s.queues q with
  | some x => State.serveQueue x.work q s
  | none => s

/-- Serve every queue: after a change of rates, and when a partition leaves. -/
def State.drainAll (s : State) : State := s.queues.foldl (fun (a : State) q => a.drain q.1) s

/-- What a partition had waiting at every resource is dropped. -/
def State.unqueue (s : State) (part : Nat) : State :=
  { s with queues := s.queues.map (fun q => (q.1, { q.2 with waiting := NMap.erase q.2.waiting part, deficit := NMap.erase q.2.deficit part })) }

/-- A request of `n` bytes of a partition at a resource: it waits its turn there (R456, R457). What it moves takes effect with its command: a hold changes timing only (R458). -/
def State.request (s : State) (q part n : Nat) : State :=
  if n = 0 then s
  else
    let x := NMap.getD s.queues q {}
    ({ s with queues := NMap.set s.queues q { x with waiting := NMap.set x.waiting part (NMap.getD x.waiting part [] ++ [n]) } }).drain q

/-- DMA payload of a partition for objects, T3, demotion, MOVE or loads: a DMA request that is metered (R455). -/
def State.bulkDma (s : State) (part : Nat) (write : Bool) (a n : Nat) : State :=
  (s.asDma (s.functionOf part) write a n).request pcieQueue part n

/-- Metered DMA that writes host memory. -/
def State.bulkWrite (s : State) (part a : Nat) (bs : Bytes) : State :=
  (s.hostWrite (s.functionOf part) a bs).request pcieQueue part bs.length

/-! ### The spine's transport (R374, R375, R377, R382) -/

/-- The key of link Sab. -/
def linkKey (a b : Nat) : Nat := if a < b then a * 8 + b else b * 8 + a

def State.spineAt (s : State) (a b : Nat) : SpineLink := NMap.getD s.spine (linkKey a b) {}
def State.setSpine (s : State) (a b : Nat) (x : SpineLink) : State := { s with spine := NMap.set s.spine (linkKey a b) x }

/-- The active lanes of a direction with `k` lanes failed: 512 while the 16 spares last, else 256 (R381). -/
def laneWidth (k : Nat) : Nat := if k ≤ 16 then 512 else 256

/-- The die a fenced or retraining link's traffic runs through (R382). -/
def State.detour (s : State) (a b : Nat) : Option Nat :=
  (List.range 8).find? (fun c => c != a && c != b && !(s.dieAt c).fenced && !(s.spineAt a c).fenced && !(s.spineAt c b).fenced)

/-- The end of a link that a die is: 0 the lower-numbered die, 1 the higher. -/
def endOf (die far : Nat) : Nat := if die < far then 0 else 1

/-- Whether two dies can reach each other. -/
def State.path (s : State) (a b : Nat) : Bool := !(s.spineAt a b).fenced || (s.detour a b).isSome

/-- Flits a message takes: 250 bytes of payload each, with 16 bytes of message header (R374, Table 16-2; log entry 70). -/
def flitsOf (m : SpineMsg) : Nat := ceilDiv (if m.size = 0 then 16 + m.payload.length else m.size) 250

/-- Whether a channel of a direction can send: a message waits, a buffer is free at the receiver, and the replay buffer of 512 flits has room (R374, R375). -/
def SpineDir.canSend (x : SpineDir) (ch : Nat) : Bool :=
  match (x.queues.getD ch []).head? with
  | some m => decide (0 < x.credits.getD ch 0) && decide ((x.replay.map flitsOf).sum + flitsOf m ≤ 512)
  | none => false

/-- The channel a transmitter serves next: CTL, then RSP, then REQ and COLL in the ratio 3 : 1 when both wait (R375). -/
def SpineDir.choose (x : SpineDir) : Option Nat :=
  if x.canSend 0 then some 0
  else if x.canSend 1 then some 1
  else if x.canSend 2 && x.canSend 3 then some (if x.reqRun < 3 then 2 else 3)
  else if x.canSend 2 then some 2
  else if x.canSend 3 then some 3
  else none

/-- Send the front message of a channel: it takes a buffer of the receiver and stays in the replay buffer until the flits are acknowledged. -/
def SpineDir.transmit (x : SpineDir) (ch : Nat) (m : SpineMsg) : SpineDir :=
  { x with queues := x.queues.modify ch List.tail, credits := x.credits.modify ch (· - 1),
           reqRun := if ch = 3 then 0 else if ch = 2 && !(x.queues.getD 3 []).isEmpty then x.reqRun + 1 else x.reqRun,
           replay := x.replay ++ [m] }

/-- Drain a direction as far as its buffers allow: the direction after, and the messages sent in order. -/
def SpineDir.pump : Nat → SpineDir → SpineDir × List SpineMsg
  | 0, x => (x, [])
  | fuel + 1, x =>
    match x.choose with
    | none => (x, [])
    | some ch =>
      match (x.queues.getD ch []).head? with
      | some m => let r := SpineDir.pump fuel (x.transmit ch m); (r.1, m :: r.2)
      | none => (x, [])

/-- Change one direction of a link, the one from `a` to its neighbour `b`. -/
def State.modDir (s : State) (a b : Nat) (f : SpineDir → SpineDir) : State :=
  let l := s.spineAt a b
  s.setSpine a b { l with dirs := l.dirs.modify (endOf a b) f }

/-- Let the transmitter from die `a` to its neighbour `b` send what it can. -/
def State.pumpSpine (s : State) (a b : Nat) : State :=
  let l := s.spineAt a b
  let e := endOf a b
  let x := l.dirs.getD e {}
  let r := SpineDir.pump ((x.queues.map List.length).sum) x
  { (s.setSpine a b { l with dirs := l.dirs.set e r.1 }) with spineOut := s.spineOut ++ r.2 }

/-- Whether the direct link between two dies carries their streams. -/
def SpineLink.direct (x : SpineLink) : Bool := !x.fenced && !x.retraining

/-- The neighbour a message goes to first: the far die, or the die of the detour (R381, R382). -/
def State.hop (s : State) (a b : Nat) : Nat := if (s.spineAt a b).direct then b else (s.detour a b).getD b

/-- Queue a message on the first link of its path and let the link send (R375, R382). -/
def State.launch (s : State) (m : SpineMsg) : State :=
  let n := s.hop m.src m.dst
  (s.modDir m.src n (fun x => { x with queues := x.queues.modify m.channel (· ++ [m]) })).pumpSpine m.src n

/-- The place of a stream: source die, destination die, channel. -/
def streamKey (src dst ch : Nat) : Nat := (src * 8 + dst) * 4 + ch

/-- Send a message on its spine stream: it takes the stream's next number, is kept until acknowledged (R377), and waits its turn on the link (R375). -/
def State.sendMsg (s : State) (m0 : SpineMsg) : State :=
  let k := streamKey m0.src m0.dst m0.channel
  let x := NMap.getD s.streams k {}
  let m := { m0 with seqNo := x.nextSend }
  ({ s with streams := NMap.set s.streams k { x with nextSend := x.nextSend + 1, unacked := x.unacked ++ [m] } }).launch m

/-- Send a message of a die's own sequencers. -/
def State.sendSpine (s : State) (src dst ch : Nat) (p : Bytes) : State := s.sendMsg { src := src, dst := dst, channel := ch, payload := p }

/-- Send `n` messages of a size, one for each line of a far access or each LINE_ADD (Table 16-2). -/
def State.sendSized (s : State) (src dst ch size n : Nat) : State :=
  (List.range n).foldl (fun (a : State) _ => a.sendMsg { src := src, dst := dst, channel := ch, size := size }) s

/-- Whether a stream's destination accepts number `n` now: it takes numbers in order and drops any it has taken (R377). A message that is not of another die has no stream. -/
def State.takeNumber (s : State) (src dst ch : Nat) (n : BitVec 32) : Option State :=
  if src = dst then some s
  else
    let k := streamKey src dst ch
    let x := NMap.getD s.streams k {}
    if n = x.expect then
      some { s with streams := NMap.set s.streams k { x with expect := n + 1, nextSend := if x.nextSend = n then n + 1 else x.nextSend,
                                                             unacked := x.unacked.filter (fun y => y.seqNo != n) } }
    else none

/-- Send a message for a partition: its flit payload is metered on the sending die's regulator of the direction and channel (R455). -/
def State.sendSpineFor (s : State) (part src dst ch : Nat) (p : Bytes) : State :=
  (s.request (spineQueue src dst ch) part p.length).sendSpine src dst ch p

/-- Bytes of `n` lines read from, or written to, a die by another: requests on REQ and replies or acknowledgements on RSP, each metered where it is sent (R375, R455, Table 16-2). Like every hold at a regulator, theirs changes timing only (R458). -/
def State.farLines (s : State) (part die home n : Nat) (write : Bool) : State :=
  if die = home then s
  else
    let out := if write then 144 else 16
    let back := if write then 8 else 144
    let s1 := (s.request (spineQueue die home 2) part (out * n)).request (spineQueue home die 1) part (back * n)
    (s1.sendSized die home 2 out n).sendSized home die 1 back n

/-- The LINE_ADD messages that carry `len` 128-bit additions from a die to a staging die on COLL (R375, R380). -/
def State.farAdds (s : State) (part die home len : Nat) : State :=
  if die = home then s
  else (s.request (spineQueue die home 3) part (144 * ceilDiv len 8)).sendSized die home 3 144 (ceilDiv len 8)

/-- A change of path resends every unacknowledged message of the streams between two dies over the new path (R377): what still waits or stands in a replay buffer of the old path is taken back first. -/
def State.resend (s : State) (a b : Nat) : State :=
  let un := fun x y => (List.range 4).flatMap (fun ch => (NMap.getD s.streams (streamKey x y ch) {}).unacked)
  let mine := fun (m : SpineMsg) => (m.src == a && m.dst == b) || (m.src == b && m.dst == a)
  let strip := fun (x : SpineDir) =>
    { x with queues := x.queues.map (fun q => q.filter (fun m => !(mine m))), replay := x.replay.filter (fun m => !(mine m)),
             fwd := x.fwd.filter (fun m => !(mine m)),
             credits := x.credits.zipIdx.map (fun c => c.1 + (x.replay.filter (fun m => mine m && m.channel == c.2)).length) }
  let s1 : State := { s with spine := s.spine.map (fun l => (l.1, { l.2 with dirs := l.2.dirs.map strip })) }
  (un a b ++ un b a).foldl (fun (z : State) m => z.launch m) s1

/-- Whether two messages are the same one of a stream. -/
def sameMsg (a b : SpineMsg) : Bool := a.src == b.src && a.dst == b.dst && a.channel == b.channel && a.seqNo == b.seqNo

/-- A message has crossed the link from die `a` to die `b` and its flits are acknowledged: it leaves the replay buffer and the forwarding buffer there, its buffer at the receiver is free again, the row of replays ends, and the link sends on (R374, R375). -/
def State.crossed (s : State) (m : SpineMsg) (a b : Nat) : State :=
  let drop := fun (q : List SpineMsg) => q.filter (fun y => !(sameMsg m y))
  let l := s.spineAt a b
  ((s.setSpine a b { l with replays := l.replays.set (endOf a b) 0 }).modDir a b (fun x =>
    { x with replay := drop x.replay, fwd := drop x.fwd, credits := x.credits.modify m.channel (· + x.replay.countP (sameMsg m)) })).pumpSpine a b

/-- The die that a message comes from on its last link. -/
def State.lastLeg (s : State) (m : SpineMsg) : Nat := if s.hop m.src m.dst = m.dst then m.src else s.hop m.src m.dst

/-- A message has arrived at its destination. -/
def State.landed (s : State) (m : SpineMsg) : State := s.crossed m (s.lastLeg m) m.dst

/-- Whether a message is on the first of the two links of a detour. -/
def State.onFirstLeg (s : State) (m : SpineMsg) : Bool :=
  let n := s.hop m.src m.dst
  decide (n ≠ m.dst) && (((s.spineAt m.src n).dirs.getD (endOf m.src n) {}).replay.any (sameMsg m))

/-- A message has arrived at the die of its detour, which sends it on over the second link from a buffer reserved for forwarding on the same channel (R375, R382). -/
def State.forward (s : State) (m : SpineMsg) : State :=
  let n := s.hop m.src m.dst
  ((s.crossed m m.src n).modDir n m.dst (fun x =>
    { x with fwd := x.fwd ++ [m], queues := x.queues.modify m.channel (· ++ [m]) })).pumpSpine n m.dst

/-- The pairs of dies, each with the lower-numbered first. -/
def diePairs : List (Nat × Nat) := (List.range 8).flatMap (fun a => ((List.range 8).filter (fun b => decide (a < b))).map (fun b => (a, b)))

/-- Every stream whose path is another than in `old` resends what is unacknowledged over its new path (R377, R382). -/
def State.rerouted (s old : State) : State :=
  diePairs.foldl (fun (a : State) p => if s.hop p.1 p.2 = old.hop p.1 p.2 then a else a.resend p.1 p.2) s

/-! ### Shared caches (R327 to R329) -/

/-- The slice of a line's home die (R327). -/
def sliceOf (x : Nat) : Nat :=
  let l := x / 128
  (Nat.xor (Nat.xor l (l / 2 ^ 5)) (Nat.xor (l / 2 ^ 10) (l / 2 ^ 15))) % 32

/-- The home die of a native address (R329). -/
def homeOf (x : Nat) : Nat := x / 2 ^ 36 / 3

/-- The set of a line: a slice of 7 MiB holds 3,584 sets of 16 ways. DESIGN CHOICE (log entry 45): the spec names the slice of a line and not its set, which the model takes from the line index above the slice bits. -/
def setOf (line : Nat) : Nat := sliceOf (line * 128) * 3584 + line / 32 % 3584

/-- The victim of a 4-level tree of pseudo-LRU bits among the ways that may go: at each node the side its bit names, or the other when that side has none. `node` and `lo` are the subtree and its first way. -/
def plruVictim (bits : Nat) (ok : Nat → Bool) : Nat → Nat → Nat → Option Nat
  | 0, _, lo => if ok lo then some lo else none
  | d + 1, node, lo =>
    let half := 2 ^ d
    let left := (List.range half).any (fun i => ok (lo + i))
    let right := (List.range half).any (fun i => ok (lo + half + i))
    if right && (bits.testBit node || !left) then plruVictim bits ok d (2 * node + 2) (lo + half)
    else plruVictim bits ok d (2 * node + 1) lo

/-- The bits after a use of a way: every node on its path points away from it. -/
def plruTouch : Nat → Nat → Nat → Nat → Nat → Nat
  | 0, _, _, _, bits => bits
  | d + 1, node, lo, way, bits =>
    let half := 2 ^ d
    let clear := if bits.testBit node then bits - 2 ^ node else bits
    if way < lo + half then plruTouch d (2 * node + 1) lo way (clear + 2 ^ node)
    else plruTouch d (2 * node + 2) (lo + half) way clear

/-- Bring a line into its home die's shared cache, or use it there: a write makes it dirty, and a pin holds while fewer than 12 ways of the set are pinned (R327, R328). The victim is one of the unpinned ways, a dirty one being written back; with none, the line is not cached. -/
def DieState.touch (x : DieState) (line : Nat) (write pin : Bool) : DieState :=
  let set := setOf line
  let here := x.cache.filter (fun e => setOf e.1 == set)
  let mayPin := pin && decide (here.countP (fun e => e.2.pinned) < 12)
  let bits := NMap.getD x.plru set 0
  let fill := fun (m : NMap CacheLine) (w : Nat) (c : CacheLine) =>
    { x with cache := NMap.set m line c, plru := NMap.set x.plru set (plruTouch 4 0 0 w bits) }
  match NMap.get? x.cache line with
  | some c => fill x.cache c.way { c with dirty := c.dirty || write, pinned := c.pinned || mayPin }
  | none =>
    let alive := fun (w : Nat) => !(x.deadWays.contains (set, w))
    let new := fun (w : Nat) => ({ way := w, dirty := write, pinned := mayPin } : CacheLine)
    match (List.range 16).find? (fun w => alive w && !(here.any (fun e => e.2.way == w))) with
    | some w => fill x.cache w (new w)
    | none =>
      match plruVictim bits (fun w => alive w && here.any (fun e => e.2.way == w && !e.2.pinned)) 4 0 0 with
      | some w => fill (x.cache.filter (fun e => !(setOf e.1 == set && e.2.way == w))) w (new w)
      | none => x

/-- An access to a line for a partition: the home die's cache serves it, and a fill and a write-back are requests at the stacks (R329, R455). -/
def State.touchLine (s : State) (part line : Nat) (write pin : Bool) : State :=
  let d := homeOf (line * 128)
  let x := s.dieAt d
  let y := x.touch line write pin
  let filled := !(NMap.has x.cache line)
  let gone := x.cache.filter (fun e => e.2.dirty && !(NMap.has y.cache e.1))
  let s1 := s.setDie d y
  let s2 := if filled then s1.request (stackQueue (line / 2 ^ 29)) part 128 else s1
  gone.foldl (fun (a : State) e => a.request (stackQueue (e.1 / 2 ^ 29)) part 128) s2

/-- Pins of a die are returned with the object that held them: the lines stay, unpinned (R328). -/
def DieState.unpin (x : DieState) (mine : Nat → Bool) : DieState :=
  { x with cache := x.cache.map (fun e => (e.1, if mine e.1 then { e.2 with pinned := false } else e.2)) }

/-- Everything a shared cache and the quire stores of a die hold is discarded; the disabled ways stay (R342, R526). -/
def DieState.discard (x : DieState) : DieState := { x with cache := [], plru := [], stores := List.replicate 96 [] }

/-! ### Accumulator tiles (R124, R129, R131) -/

/-- Change a physical quire of a die. -/
def State.modQuire (s : State) (d p : Nat) (f : Quire → Quire) : State :=
  s.setDie d { s.dieAt d with quires := (s.dieAt d).quires.modify p f }

/-- Open a plane's accumulator tiles, four of its own, for the output tiles of a unit: their sums start at zero. -/
def State.openTiles (s : State) (d p plane cmd : Nat) (tiles : List Nat) : State :=
  s.modQuire d p (fun q => { q with tiles := (tiles.take 4).zipIdx.foldl (fun (ts : List (Option AccTile)) (t : Nat × Nat) =>
    ts.set (4 * plane + t.2) (some { cmd := cmd, tile := t.1 })) q.tiles })

/-- The sums of a finished output tile stand in the tile its plane holds for it; they stay there after readout until the plane opens the tile anew. -/
def State.fillTile (s : State) (d p cmd tile : Nat) (elems : NMap Acc) : State :=
  s.modQuire d p (fun q => { q with tiles := q.tiles.map (fun t =>
    match t with
    | some a => if a.cmd = cmd ∧ a.tile = tile then some { a with elems := elems } else t
    | none => none) })

/-- Discard every accumulator tile that a command holds, without readout (R131). -/
def State.discardTiles (s : State) (cmd : Nat) : State :=
  { s with dies := s.dies.map (fun d => { d with quires := d.quires.map (fun q => { q with tiles := q.tiles.map (fun t =>
      match t with
      | some a => if a.cmd = cmd then none else t
      | none => none) }) }) }

/-! ### Quire stores (R322, R349) -/

/-- Bytes that the copies of a store take. -/
def storeUsed (cs : List T0Copy) : Nat := (cs.map (fun c => c.bytes.length)).sum

/-- Free the least recently used copies until `n` more bytes fit in 8 MiB: every copy is clean (R349). -/
def makeRoom (n : Nat) : List T0Copy → List T0Copy
  | [] => []
  | c :: cs => if storeUsed (c :: cs) + n ≤ 8388608 then c :: cs else makeRoom n cs

/-- Put a copy into a store as the latest used, in place of an older copy of the same ingot. -/
def stage (cs : List T0Copy) (c : T0Copy) : List T0Copy :=
  let rest := cs.filter (fun x => !(x.key == c.key && x.version == c.version && x.ingot == c.ingot))
  makeRoom c.bytes.length rest ++ [c]

/-- The copy of an ingot in a store, if one is there. -/
def copyIn (cs : List T0Copy) (key version ingot : Nat) : Option T0Copy :=
  cs.find? (fun x => x.key == key && x.version == version && x.ingot == ingot)

def DieState.store (x : DieState) (q : Nat) : List T0Copy := x.stores.getD q []

/-- Copies of a slot that is written anew are invalid: they go (R329). -/
def State.dropCopies (s : State) (key version ingot : Nat) : State :=
  { s with dies := s.dies.map (fun d => { d with stores := d.stores.map (fun cs =>
      cs.filter (fun c => !(c.key == key && c.version == version && c.ingot == ingot))) }) }

/-- Copies of everything under a key go. -/
def State.dropKey (s : State) (key : Nat) : State :=
  { s with dies := s.dies.map (fun d => { d with stores := d.stores.map (fun cs => cs.filter (fun c => c.key != key)) }) }

/-- Stage a copy into the store of a logical quire. -/
def State.stageAt (s : State) (d q : Nat) (c : T0Copy) : State :=
  s.setDie d { s.dieAt d with stores := (s.dieAt d).stores.modify q (fun cs => stage cs c) }

/-! ### Frames in memory (R273, R327, R338) -/

/-- The stack that holds the body of a frame (R273). -/
def frameStack (d n : Nat) : Nat := 3 * d + n % 3

/-- The byte of its stack at which frame `n` begins: frames, a body and its margin each, lie from the top of the stack down. DESIGN CHOICE (log entry 96): the spec fixes the stack and no place within it. -/
def frameBase (n : Nat) : Nat := 2 ^ 36 - (n / 3 + 1) * 151552

/-- The die, frame and byte of the frame that a native address falls in. -/
def frameAt (x : Nat) : Nat × Nat × Nat :=
  let h := x / 2 ^ 36
  let n := 3 * ((2 ^ 36 - 1 - x % 2 ^ 36) / 151552) + h % 3
  (h / 3, n, x % 2 ^ 36 - frameBase n)

/-- The frame in use that a native address falls in. -/
def State.frameOf? (s : State) (x : Nat) : Option ((Nat × Nat × Nat) × Frame) :=
  (NMap.get? (s.framesOf (frameAt x).1) (frameAt x).2.1).map (fun f => (frameAt x, f))

/-- Bytes of a frame pass through the shared cache of its die (R327, Table 12-5 step 7). -/
def State.touchFrame (s : State) (d n off len : Nat) (write : Bool) : State :=
  match NMap.get? (s.framesOf d) n with
  | some f =>
    let a := frameStack d n * 2 ^ 36 + frameBase n + off
    (List.range (ceilDiv (a % 128 + len) 128)).foldl (fun (b : State) i => b.touchLine f.part (a / 128 + i) write false) s
  | none => s

/-- The key under which quire stores hold copies of the leaf in frame `n` of die `d`; bit 46 keeps it apart from objects. -/
def frameKey (d n : Nat) : Nat := 2 ^ 46 + d * 2 ^ 26 + n

/-- The poisoned lines of a stack that lie in a frame. -/
def State.framePoisonAt (s : State) (d n : Nat) : List (Nat × Nat) :=
  (s.stackAt (frameStack d n)).poison.filterMap (fun p =>
    if frameBase n ≤ p.1 ∧ p.1 < frameBase n + 151552 then some (p.1 - frameBase n, p.2) else none)

/-- A frame goes back to its die's pool: its poisoned lines stay poisoned in the stack (R338), and copies of its leaf are invalid (R329). -/
def State.freeFrame (s : State) (d n : Nat) : State :=
  match NMap.get? (s.framesOf d) n with
  | some f =>
    let h := frameStack d n
    let x := s.stackAt h
    let rest := x.poison.filter (fun p => !(decide (frameBase n ≤ p.1) && decide (p.1 < frameBase n + 151552)))
    let s1 := s.setStack h { x with poison := rest ++ f.poison.map (fun p => (frameBase n + p.1, p.2)) }
    (s1.setFrames d (NMap.erase (s1.framesOf d) n)).dropKey (frameKey d n)
  | none => s

end Sys2Proof.Machine
end

