-- ==== Sys2Proof/Machine/Errors.lean ====
section
/-! DEFINITION. Error records: reports and their merging (R537, R538), host clears (R539), notification (R540, R541), the fatal state (R545). -/

namespace Sys2Proof.Machine

/-- The origin id of a unit (R11). -/
def originId (die subsystem inst : Nat) : Nat := die * 8192 + subsystem * 256 + inst

/-- Severity of a class (Table 23-3); class 0x0E carries its region's severity, class 0x0F is fatal on die 0 (R536). -/
def severityOf (cls sev die : Nat) : Nat :=
  match cls with
  | 0x01 => 0 | 0x02 => 2 | 0x03 => 0 | 0x04 => 1 | 0x05 => 4 | 0x06 => 2 | 0x07 => 4 | 0x08 => 1
  | 0x09 => 1 | 0x0A => 1 | 0x0B => 1 | 0x0C => 1 | 0x0D => 3 | 0x0E => sev
  | 0x0F => if die = 0 then 6 else 5
  | 0x10 => 5 | 0x11 => 5 | 0x12 => 6
  | _ => 1

/-- The records of a concentrator. -/
def State.errsOf (s : State) (d : Nat) : NMap ErrRec := s.errs.getD d []

def State.setErrs (s : State) (d : Nat) (m : NMap ErrRec) : State := { s with errs := s.errs.set d m }

/-- ERR_SUMMARY.PENDING: bit d is set while die d holds a record with PENDING set (Table 23-6, R554). -/
def State.errPending (s : State) : Nat :=
  ((List.range 8).map (fun d => if (s.errsOf d).any (fun r => r.2.pending) then 2 ^ d else 0)).sum

/-- SVC_ATTN_N is asserted while a record of severity DIE or FATAL has PENDING set, and in the fatal state (R541, R545). -/
def State.refreshAttn (s : State) : State :=
  let on := s.fatal || s.errs.any (fun m => m.any (fun r => r.2.pending && decide (5 ≤ r.2.severity)))
  { s with pins := { s.pins with svcAttn := on } }

/-- Notify a record (R541). -/
def State.notifyErr (s : State) (d slot : Nat) : State :=
  match NMap.get? (s.errsOf d) slot with
  | none => s
  | some r =>
    let was := s.errPending
    let s1 := s.setErrs d (NMap.set (s.errsOf d) slot { r with pending := true, deferred := false, notified := s.counter d })
    let s2 := if was = 0 then s1.sendMsix 0 0 else s1
    let s3 :=
      match NMap.get? s2.parts r.partition with
      | some p =>
        if r.severity = 2 ∨ r.severity = 3 then
          let w := NMap.getD s2.windows r.partition {}
          let bit := BitVec.ofNat 8 (2 ^ d)
          let w1 := { w with pfPending := w.pfPending ||| bit }
          if p.function = 0 then { s2 with windows := NMap.set s2.windows r.partition w1 }
          else
            let s' := { s2 with windows := NMap.set s2.windows r.partition { w1 with vfPending := w.vfPending ||| bit } }
            if w.vfPending = 0 then s'.sendMsix p.function 0 else s'
        else s2
      | none => s2
    let s4 := if 5 ≤ r.severity then { s3 with pldmOut := s3.pldmOut ++ [r.origin] } else s3
    s4.refreshAttn

/-- The lowest free slot from `lo` up to, not including, `hi`. -/
def freeSlot (m : NMap ErrRec) (lo hi : Nat) : Option Nat :=
  ((List.range (hi - lo)).map (· + lo)).find? (fun k => !(NMap.has m k))

/-- The better of two candidates for replacement: lower severity, then older LAST_SEEN (R538). -/
def olderErr (a b : Nat × ErrRec) : Nat × ErrRec :=
  if b.2.severity < a.2.severity ∨ (b.2.severity = a.2.severity ∧ b.2.lastSeen < a.2.lastSeen) then b else a

/-- The record to replace among candidates. -/
def oldestErr (m : NMap ErrRec) : Option (Nat × ErrRec) :=
  match m with
  | [] => none
  | x :: xs => some (xs.foldl olderErr x)

/-- The slot a new record takes, and whether a record replaced there was pending (R538); none when the report is discarded. -/
def placeErr (m : NMap ErrRec) (sev : Nat) : Option (Nat × Bool) :=
  if sev < 5 then
    match freeSlot m 0 1008 with
    | some k => some (k, false)
    | none =>
      let cand := m.filter (fun r => decide (r.1 < 1008) && decide (r.2.severity ≤ 1) && !r.2.pending)
      match cand with
      | [] => none
      | x :: xs => some ((xs.foldl (fun a b => if b.2.lastSeen < a.2.lastSeen then b else a) x).1, false)
  else
    match freeSlot m 1008 1024 with
    | some k => some (k, false)
    | none =>
      match freeSlot m 0 1008 with
      | some k => some (k, false)
      | none =>
        match oldestErr (m.filter (fun r => decide (r.2.severity < sev))) with
        | some (k, r) => some (k, r.pending)
        | none =>
          if sev = 6 then
            match oldestErr m with
            | some (k, _) => some (k, true)
            | none => none
          else none

/-- ERR_SUMMARY.DROPPED counts up, saturating (Table 23-6). -/
def State.countDropped (s : State) : State := { s with dropped := min (s.dropped + 1) 0xFFFF }

/-- Handle one report at its concentrator: that of its origin's die, or of die 0 when that die is fenced or the reporter has no path to it (R537, R538, R540). -/
def State.report (s : State) (r : Report) : State :=
  let d0 := r.origin / 8192
  let d := if d0 < 8 ∧ !(s.dieAt d0).fenced ∧ s.path (r.reporter / 8192) d0 then d0 else 0
  let m := s.errsOf d
  let now := s.counter d
  let sev := severityOf r.cls r.sev d0
  match m.find? (fun e => e.2.origin == r.origin && e.2.cls == r.cls) with
  | some (k, e) =>
    let n := if e.reporters = BitVec.allOnes 32 then e.reporters else e.reporters + 1
    let e1 := { e with reporters := n, lastSeen := now, detail := r.detail, info := r.info, severity := max e.severity sev }
    let due := if e1.severity = 0 then decide (n.toNat % 2 ^ (min s.ceLog2 20) = 0) && decide (n ≠ e.reporters) else true
    let s1 := s.setErrs d (NMap.set m k e1)
    if !due then s1
    else if 100000 ≤ (now - e.notified).toNat then s1.notifyErr d k
    else s1.setErrs d (NMap.set m k { e1 with deferred := true })
  | none =>
    match placeErr m sev with
    | none => s.countDropped
    | some (k, wasPending) =>
      let e : ErrRec :=
        { origin := r.origin, cls := r.cls, severity := sev, status := r.status, detail := r.detail,
          partition := r.partition, firstReporter := r.reporter, firstSeen := now, lastSeen := now, info := r.info }
      let s1 := s.setErrs d (NMap.set m k e)
      let s2 := if wasPending then s1.countDropped else s1
      s2.notifyErr d k

/-- A report of class PROTOCOL, origin HS of die 0 (R42, R549). -/
def State.protocolHs (s : State) (info : Nat) : State :=
  s.report { origin := originId 0 0x0B 0, cls := 0x0B, reporter := originId 0 0x0B 0, info := info }

/-- Clear one record (R539, R554). -/
def State.clearErr (s : State) (d slot : Nat) : State :=
  (s.setErrs d (NMap.erase (s.errsOf d) slot)).refreshAttn

/-- Clear every record of a concentrator. -/
def State.clearErrs (s : State) (d : Nat) : State := (s.setErrs d []).refreshAttn

/-- Clear PENDING and DEFERRED of one record. -/
def State.clearErrPending (s : State) (d slot : Nat) : State :=
  (s.setErrs d (NMap.modify (s.errsOf d) slot (fun r => { r with pending := false, deferred := false }))).refreshAttn

/-- Writing 1 to a die's bit of ERR_SUMMARY.PENDING clears PENDING in every record of the die (Table 23-6). -/
def State.clearDiePending (s : State) (d : Nat) : State :=
  (s.setErrs d ((s.errsOf d).map (fun r => (r.1, { r.2 with pending := false })))).refreshAttn

/-- Enter the fatal state (R545): ERR_SUMMARY.FATAL and SVC_ATTN_N are set, and a FATAL record is raised. -/
def State.enterFatal (s : State) (origin : Nat) : State :=
  if s.fatal then s
  else (({ s with fatal := true }).report { origin := origin, cls := 0x12, reporter := origin }).refreshAttn

/-- ERROR_DEFERRED_NOTIFY (R540): a record with DEFERRED set is notified at NOTIFIED + 100,000. -/
def execErrorDeferredNotify (die slot : Nat) (t : Word) (s : State) : Host.Outcome State Fault Refusal :=
  let s1 := s.reach die t
  match NMap.get? (s1.errsOf die) slot with
  | some r => if r.deferred && decide (100000 ≤ (s1.counter die - r.notified).toNat) then .next (s1.notifyErr die slot) else .next s1
  | none => .next s1

/-- ERR_CLEAR with ALL set (R554). -/
def execErrClearAll (die : Nat) (s : State) : Host.Outcome State Fault Refusal :=
  if s.barErr then .next (s.clearErrs die) else .next s

/-- ERR_CLEAR with PENDING_ONLY set (R554). -/
def execErrClearPendingOnly (die slot : Nat) (s : State) : Host.Outcome State Fault Refusal :=
  if s.barErr then .next (s.clearErrPending die slot) else .next s

/-- ERR_CLEAR of one slot (R554). -/
def execErrClearSlot (die slot : Nat) (s : State) : Host.Outcome State Fault Refusal :=
  if s.barErr then .next (s.clearErr die slot) else .next s

/-- W1C of ERR_SUMMARY.PENDING (R541, Table 23-6). -/
def execErrSummaryPendingClear (mask : Nat) (s : State) : Host.Outcome State Fault Refusal :=
  if s.barErr then .next (((List.range 8).filter (fun d => bitOf mask d)).foldl (fun a d => a.clearDiePending d) s)
  else .next s

/-- W1C of VF_ERR_PENDING in one window (R588): the other window and the records are unchanged. -/
def execVfErrPendingClear (pf : Bool) (part mask : Nat) (s : State) : Host.Outcome State Fault Refusal :=
  if s.barAll && NMap.has s.parts part then
    let w := NMap.getD s.windows part {}
    let keep := ~~~ (BitVec.ofNat 8 mask)
    let w1 := if pf then { w with pfPending := w.pfPending &&& keep } else { w with vfPending := w.vfPending &&& keep }
    .next { s with windows := NMap.set s.windows part w1 }
  else .next s

end Sys2Proof.Machine
end

