-- ==== Sys2Proof/Machine/Rings.lean ====
section
/-! DEFINITION. Rings, doorbells, fences, completion records, interrupts of completion rings, and what a command's end does to them (R35 to R64, R453, R454). -/

namespace Sys2Proof.Machine

/-- A submission ring of an owner; ids run from 0 to 1,023 (R35). -/
def State.sub? (s : State) (owner ring : Nat) : Option SubRing := if ring < 1024 then NMap.get? s.subs (ringKey owner ring) else none
/-- A completion ring of an owner; ids run from 0 to 1,023 (R35). -/
def State.comp? (s : State) (owner cq : Nat) : Option CompRing := if cq < 1024 then NMap.get? s.comps (ringKey owner cq) else none
def State.setSub (s : State) (owner ring : Nat) (r : SubRing) : State := { s with subs := NMap.set s.subs (ringKey owner ring) r }
def State.setComp (s : State) (owner cq : Nat) (r : CompRing) : State := { s with comps := NMap.set s.comps (ringKey owner cq) r }
def State.cmd? (s : State) (id : Nat) : Option Cmd := NMap.get? s.cmds id
def State.setCmd (s : State) (id : Nat) (c : Cmd) : State := { s with cmds := NMap.set s.cmds id c }
def Cmd.opcode (c : Cmd) : Nat := dOpcode c.desc
def Cmd.priority (c : Cmd) : Nat := dPriority c.desc
/-- A payload field of a command. -/
def Cmd.f (c : Cmd) (off n : Nat) : Nat := fld c.desc off n

/-- Whether a command has not yet reached its decision point (R453). -/
def Cmd.uncommitted (c : Cmd) : Bool := match c.phase with | .committing => false | _ => true

/-- Admitted commands of a ring without a record. -/
def State.ringCmds (s : State) (owner ring : Nat) : List (Nat × Cmd) :=
  s.cmds.filter (fun c => c.2.owner == owner && c.2.ring == ring)

/-- Admitted commands of an owner without a record (R445). -/
def State.ownerCmds (s : State) (owner : Nat) : List (Nat × Cmd) := s.cmds.filter (fun c => c.2.owner == owner)

/-! ### Completion rings (R37, R50, R51, R64) -/

/-- Number of records a completion ring holds. -/
def CompRing.size (r : CompRing) : Nat := 2 ^ r.log2

/-- Slots neither reserved nor holding a record that the host has not returned (R50). -/
def CompRing.free (r : CompRing) : Nat := r.size - r.recs.length - r.reserved

/-- Whether any condition of R64 holds. -/
def CompRing.due (r : CompRing) (now : Word) : Bool :=
  decide (r.modCount ≤ r.recs.length) || r.recs.any (·.1) ||
    (decide (r.modTime ≠ 0) && (match r.recs with | [] => false | x :: _ => decide (r.modTime * 100 ≤ (now - x.2).toNat)))

/-- Send the vector of an armed ring whose conditions hold; sending disarms it (R64). -/
def State.fireCq (s : State) (owner cq : Nat) : State :=
  match s.comp? owner cq with
  | none => s
  | some r =>
    if r.armed && r.due (s.counter r.home) then
      (s.setComp owner cq { r with armed := false }).sendMsix (s.functionOf owner) r.vector
    else s

/-- The 32 bytes of a completion record (Table 2-9); counts saturate (R62). -/
def recordBytes (tag status detail : Nat) (counter : Word) (aclk skipped promoted degraded reruns die : Nat) (phase : Bool) : Bytes :=
  leBytes 4 tag ++ leBytes 2 status ++ leBytes 2 (satBits 16 detail) ++ leBytes 8 counter.toNat ++ leBytes 4 (satBits 32 aclk)
    ++ leBytes 4 (satBits 32 skipped) ++ leBytes 2 (satBits 16 promoted) ++ leBytes 2 (satBits 16 degraded)
    ++ leBytes 2 (satBits 16 reruns) ++ leBytes 1 die ++ leBytes 1 (b2n phase)

/-- Write a record into the next slot of a completion ring, and send the vector when it is due (R38, R59 steps 5 and 6). What the record waits (R64) is timed by the counter of the ring's home die (R27, log entry 88). -/
def State.pushRecord (s : State) (owner cq : Nat) (notify : Bool) (rec : Bool → Bytes) (reserved : Bool) : State :=
  match s.comp? owner cq with
  | none => s
  | some r =>
    let s1 := s.hostWrite (s.functionOf owner) (r.base + 32 * r.next) (rec r.phase)
    let wrap := decide (r.next + 1 = r.size)
    let r1 := { r with next := if wrap then 0 else r.next + 1, phase := if wrap then !r.phase else r.phase,
                       recs := r.recs ++ [(notify, s.counter r.home)], reserved := if reserved then r.reserved - 1 else r.reserved }
    (s1.setComp owner cq r1).fireCq owner cq

/-! ### Fences (R53, R54) -/

/-- A fence of a partition. -/
def State.fence (s : State) (part f : Nat) : Fence := NMap.getD s.fences (fenceKey part f) {}

/-- Judge a WAIT's condition and poison together (Table 2-7). -/
def waitJudge (x : Fence) (desc : Bytes) : Option (Nat × Nat) :=
  let v := fld desc 24 8
  let holds := if fld desc 18 1 = 0 then decide (v ≤ x.count.toNat) else decide (x.count.toNat = v)
  if x.poison then some (E_FENCE_FAILED, fld desc 16 2) else if holds then some (OK, 0) else none

/-- Judge the admitted WAITs on a fence: one whose outcome is known stands ready to write its record. -/
def judgeWaits (cmds : NMap Cmd) (part f : Nat) (x : Fence) : NMap Cmd :=
  cmds.map (fun c =>
    if c.2.owner = part ∧ c.2.opcode = 0x0C ∧ c.2.phase = .started ∧ fld c.2.desc 16 2 = f then
      match waitJudge x c.2.desc with
      | some (st, dt) => (c.1, { c.2 with phase := .ready, status := st, detail := dt })
      | none => c
    else c)

/-- Change a fence, and judge the WAITs on it at the change. -/
def State.setFence (s : State) (part f : Nat) (x : Fence) : State :=
  { s with fences := NMap.set s.fences (fenceKey part f) x, cmds := judgeWaits s.cmds part f x }

/-- R53: the change of a command's fence when it writes its record. A FENCE_ID above 4,095, of a descriptor that Table 2-10 refuses, names no fence. -/
def State.recordFence (s : State) (owner : Nat) (desc : Bytes) (status : Nat) : State :=
  let f := dFence desc
  if f = 0 ∨ 4095 < f ∨ owner = packageOwner then s
  else
    let x := s.fence owner f
    if committed status || dFenceOnError desc then s.setFence owner f { x with count := x.count + 1 }
    else s.setFence owner f { x with poison := true }

/-! ### Accounting (R454) -/

/-- Update the accounting records of a ring and of its partition together. -/
def State.account (s : State) (owner ring home : Nat) (f : Acct → Acct) : State :=
  let g := fun a => { f a with lastCounter := s.counter home }
  let s1 := { s with subs := NMap.modify s.subs (ringKey owner ring) (fun r => { r with acct := g r.acct }) }
  { s1 with parts := NMap.modify s1.parts owner (fun p => { p with acct := g p.acct }) }

/-- What one record adds to an accounting record. -/
def acctRecord (status aclk : Nat) (waitQ waitS run : Word) (a : Acct) : Acct :=
  { a with records := a.records + 1,
           failed := if halts status then a.failed + 1 else a.failed,
           aborted := if status = E_ABORTED then a.aborted + 1 else a.aborted,
           waitQueue := a.waitQueue + waitQ, waitStart := a.waitStart + waitS, run := a.run + run,
           aclk256 := a.aclk256 + BitVec.ofNat 64 aclk }

/-! ### The end of a command -/

/-- Write the single record of an admitted command and release it: fence, record, MSI-X (R59 steps 4 to 6), halt (R52), accounting (R454). COUNTER is the home-die counter at the commit, or now for a command that does not commit (Table 2-9); the fence of a commit that had COMMIT messages out was updated with it (R379). -/
def State.writeEnd (s : State) (id : Nat) (c : Cmd) (status detail : Nat) : State :=
  let now := s.counter c.home
  let run := if c.phase = .admitted then 0 else now - c.startAt
  let s1 := { s with cmds := NMap.erase s.cmds id }
  let s2 := if c.commitAt.isSome then s1 else s1.recordFence c.owner c.desc status
  let s3 := s2.account c.owner c.ring c.home (acctRecord status c.aclk c.waitQ c.waitS run)
  let s4 := { s3 with subs := NMap.modify s3.subs (ringKey c.owner c.ring) (fun r =>
      { r with halted := r.halted || halts status, lastTag := dTag c.desc, lastCounter := now }) }
  s4.pushRecord c.owner c.cq (dNotify c.desc)
    (recordBytes (dTag c.desc) status detail (c.commitAt.getD now) c.aclk c.skipped c.promoted c.degraded c.reruns c.home) true

/-- Take away the extension marks of an object's inactive version, when the draw behind them is returned (R120, R121). -/
def Obj.dropExtensions (o : Obj) : Obj :=
  { o with extended := o.extended.filter (fun e => e.1 == (if o.vmap.contains e.2 then 1 else 0)) }

/-- The lanes of a place in staging: 4,096 accumulators of five limbs (R404, R407). -/
def stagingLanes : Nat := 20480

/-- The places in staging that a collective's segments hold are free again (R410, R412). -/
def State.dropStaging (s : State) (c : Cmd) : State :=
  match c.coll with
  | some k => k.slots.foldl (fun (a : State) e =>
      a.setDie (e.1 % 8) { a.dieAt (e.1 % 8) with staging := NMap.eraseRange (a.dieAt (e.1 % 8)).staging (e.2 * stagingLanes) ((e.2 + 1) * stagingLanes) }) s
  | none => s

/-- Undo what a command holds when it ends without effect: collective staging, reserved frames, shared counts, precision draws (R121), a RESTORING sequence to PARKED (R284, R297, R317), a codec stream being opened (R461), a waiting retire (R589) or ring destroy. -/
def State.undo (s : State) (c : Cmd) : State :=
  let s1 := c.frames.foldl (fun (a : State) (p : Nat × Nat) => a.freeFrame p.1 p.2) (s.dropStaging c)
  let unshare := fun (a : State) (p : Nat × Nat × Nat × Nat) =>
    match NMap.get? (a.framesOf p.2.1) p.2.2.1 with
    | some x =>
      if x.refs ≤ 1 then a.freeFrame p.2.1 p.2.2.1
      else a.setFrames p.2.1 (NMap.set (a.framesOf p.2.1) p.2.2.1 { x with refs := x.refs - 1 })
    | none => a
  let s2a := (c.leaves.filter (fun p => p.2.2.2 == 1)).foldl unshare s1
  let s2 :=
    if c.draws.isEmpty then s2a
    else { s2a with tempers := NMap.modify s2a.tempers (layerKey c.owner c.drawLayer) (fun t =>
      { t with reserveKib := t.reserveKib - (c.draws.map (·.2)).sum / 1024 }),
                    objects := c.draws.foldl (fun m d => NMap.modify m d.1 Obj.dropExtensions) s2a.objects }
  if c.opcode = 0x45 ∧ c.phase = .executed then
    { s2 with plans := NMap.modify s2.plans (planKey c.owner (dPlan c.desc)) (fun p => { p with retiring := false }) }
  else if c.opcode = 0x43 ∧ c.phase = .executed then
    if fld c.desc 18 1 = 0 then { s2 with subs := NMap.modify s2.subs (ringKey c.owner (fld c.desc 16 2)) (fun r => { r with stopped := false }) }
    else { s2 with comps := NMap.modify s2.comps (ringKey c.owner (fld c.desc 16 2)) (fun r => { r with stopped := false }) }
  else if c.opcode = 0x08 ∧ c.target.isSome then
    let e := s2.engineAt (fld c.desc 17 1)
    s2.setEngine (fld c.desc 17 1) { e with streams := NMap.erase e.streams (fld c.desc 18 1) }
  else if c.opcode = 0x0F ∧ c.target.isSome then
    { s2 with seqs := NMap.modify s2.seqs (fld c.desc 16 4 % 2 ^ 18) (fun q => if q.state = .restoring then { q with state := .parked } else q) }
  else s2

/-- The load report of R432: the count of unverified shards and their indices, as many as fit. -/
def loadReport (k : Load) (len : Nat) : Bytes :=
  let un := (k.shards.filter (fun x => !x.2.verified)).map (·.1)
  if len < 4 then [] else leBytes 4 un.length ++ (un.take ((len - 4) / 4)).flatMap (leBytes 4)

/-- Messages that a failing or killed member owes the other members or parts: ABORT with FINAL (R415), PEER_ABORT (R419), the load report and RELAY_ABORT both ways (R432, R433). -/
def State.farewell (s : State) (c : Cmd) (status detail : Nat) : State :=
  let aux := status + 65536 * (detail % 65536)
  let s1 :=
    match c.coll with
    | some k =>
      if k.everSent then
        match NMap.get? s.groups (fld c.desc 16 2) with
        | some g =>
          (g.members.zipIdx).foldl (fun a m =>
            if m.2 = g.rank then a
            else a.sendLink m.1.2 { type := 0x07, final := true, group := fld c.desc 16 2, opSeq := fld c.desc 24 4, attempt := k.attempt, srcRank := g.rank, dstRank := m.2, aux := aux }) s
        | none => s
      else s
    | none => s
  let s2 :=
    match c.peer with
    | some k => if !k.everSent then s1 else s1.sendLink (fld c.desc 80 1) { type := 0x13, final := true, opSeq := fld c.desc 84 4, attempt := k.attempt, aux := aux }
    | none => s1
  match c.load with
  | some k =>
    let s3 := if fld c.desc 64 8 = 0 then s2 else s2.hostWrite (s2.functionOf c.owner) (fld c.desc 64 8) (loadReport k (fld c.desc 72 4))
    let up := if fld c.desc 17 1 = 1 then s3.sendLink (fld c.desc 18 1) { type := 0x25, opSeq := fld c.desc 28 4 } else s3
    if fld c.desc 19 1 = 0xFF then up else up.sendLink (fld c.desc 19 1) { type := 0x25, opSeq := fld c.desc 28 4 }
  | none => s2

/-- Reading poisoned data raises a MEM_UE record of the memory that first found the error (R338, Table 23-3); INFO is a free value (log entry 12). -/
def State.reportPoison (s : State) (owner status detail : Nat) : State :=
  if status = E_MEM_UNCORRECTABLE then
    s.takeFresh.report { origin := detail, cls := 0x02, reporter := detail, status := status, detail := detail,
                         info := Config.freeNat s.fresh % 2 ^ 64, partition := if owner = packageOwner then 0xFF else owner }
  else s

/-- Opcodes whose records count the work of a run: data commands but MOVE, COLLECTIVE and the ordering commands (R62, R372, R410). -/
def countsRun (op : Nat) : Bool := [0x01, 0x02, 0x03, 0x04, 0x05, 0x08, 0x09, 0x0E, 0x0F].contains op

/-- A command that ends in the middle of a run, with what the run has counted: its cycles are a free value (R62, R67, R144; log entry 5). -/
def Cmd.cutShort (c : Cmd) (fresh : Nat) : Cmd :=
  if c.phase = .started ∧ countsRun c.opcode then
    { c with aclk := Config.aclkCycles fresh / 256, skipped := c.run.skipped, promoted := c.run.promoted, degraded := c.run.degraded }
  else c

/-- Fail an admitted command before its decision point: no step of R59 but the fence, then its record (R61), with the counts of a run that it cuts short. -/
def State.failCmd (s : State) (id status detail : Nat) : State :=
  match s.cmd? id with
  | none => s
  | some c =>
    let s1 := ((s.takeFresh).reportPoison c.owner status detail).farewell c status detail
    ((s1.undo c).discardTiles id).writeEnd id (c.cutShort s.fresh) status detail

/-- The order in which statuses found while a command runs are carried (R99, R146). -/
def runOrder : List Nat :=
  [E_MEM_UNCORRECTABLE, E_UNIT_FENCED, E_NONFINITE, E_SCALE_RANGE, E_NORM_RANGE, E_SPARSE_META, E_WINDOW_OVERFLOW, E_RESIDUE, E_TIER_DEADLINE]

/-- The status and smallest detail carried among failures. -/
def pickFail (order : List Nat) (fails : List (Nat × Nat)) : Option (Nat × Nat) :=
  match order.find? (fun st => fails.any (fun f => f.1 == st)) with
  | some st =>
    match (fails.filter (fun f => f.1 == st)).map (·.2) with
    | d :: ds => some (st, ds.foldl min d)
    | [] => none
  | none => none

/-- Fail a command while it runs: of what its run has met and this failure, the first of the order is carried, with its smallest detail (R145, R146). -/
def State.failRun (s : State) (id : Nat) (c : Cmd) (f : Nat × Nat) : State :=
  match pickFail runOrder (c.run.fails ++ [f]) with
  | some (st, dt) => s.failCmd id st dt
  | none => s

/-- End an admitted command whose effect has been applied. -/
def State.finish (s : State) (id status detail : Nat) : State :=
  match s.cmd? id with
  | none => s
  | some c => s.writeEnd id c status detail

/-- Kill a command for good without a record: its slot and what it holds return (R33, R442, R526). -/
def State.dropCmd (s : State) (id : Nat) : State :=
  match s.cmd? id with
  | none => s
  | some c =>
    let s1 := ((s.farewell c E_ABORTED 0).undo c).discardTiles id
    let s2 := { s1 with cmds := NMap.erase s1.cmds id }
    { s2 with comps := NMap.modify s2.comps (ringKey c.owner c.cq) (fun r => { r with reserved := r.reserved - 1 }) }

/-- A unit of work of a command taken on a die adds its plane-cycles to SERVED, divided by 256 (R446): the cycles are a free value. -/
def State.serve (s : State) (c : Cmd) (die : Nat) : State :=
  { s.takeFresh with subs := NMap.modify s.subs (ringKey c.owner c.ring) (fun r =>
      { r with served := r.served.modify die (· + Config.aclkCycles s.fresh / 256) }) }

/-- Kill a command for a rerun: it stays admitted, keeps its slot, tables, formats, draws and reservations, its accumulator tiles are discarded, and it starts afresh (R61, R131, R449); units taken count in SERVED (R446), and one killed before its start goes on waiting for it (R454). `preempt` says which accounting field the kill adds to. -/
def State.killCmd (s : State) (id : Nat) (preempt : Bool) : State :=
  match s.cmd? id with
  | none => s
  | some c =>
    let now := s.counter c.home
    let used := Config.aclkCycles s.fresh / 256
    let run := if c.phase = .admitted then 0 else now - c.startAt
    let s1 := s.takeFresh.account c.owner c.ring c.home (fun a =>
      { a with preemptKills := if preempt then a.preemptKills + 1 else a.preemptKills,
               otherKills := if preempt then a.otherKills else a.otherKills + 1,
               run := a.run + run, aclk256 := a.aclk256 + BitVec.ofNat 64 used })
    let s2 := (c.run.held.filter (fun h => h.plane != 255)).foldl (fun (a : State) h => a.serve c h.die) ((s1.dropStaging c).discardTiles id)
    s2.setCmd id { c with phase := .admitted, waitFrom := if c.phase = .admitted then c.waitFrom else now, reruns := c.reruns + 1,
                          victimKills := if preempt then c.victimKills + 1 else c.victimKills,
                          written := [], views := [], run := {}, status := 0, detail := 0,
                          skipped := 0, promoted := 0, degraded := 0 }

/-- Apply a step to the command as it stands. -/
def State.withCmd (s : State) (id : Nat) (f : State → Nat → Cmd → State) : State :=
  match s.cmd? id with
  | some c => f s id c
  | none => s

/-- Mark a command started: the time it waited adds to WAIT_START (R445, R454). -/
def State.startCmd (s : State) (id : Nat) : State :=
  match s.cmd? id with
  | none => s
  | some c =>
    if c.phase = .admitted then
      let now := s.counter c.home
      s.setCmd id { c with phase := .started, startAt := now, waitS := c.waitS + (now - c.waitFrom) }
    else s

/-- Quarantine a partition (R543, R544): commands before their decision point complete E_PARTITION_FAULT with the record's origin. -/
def State.quarantinePart (s : State) (part origin : Nat) : State :=
  match NMap.get? s.parts part with
  | none => s
  | some p =>
    if p.quarantine.isSome then s
    else
      let s1 := { s with parts := NMap.set s.parts part { p with quarantine := some origin } }
      ((s1.ownerCmds part).filter (fun c => c.2.uncommitted)).foldl (fun a c => a.failCmd c.1 E_PARTITION_FAULT origin) s1

/-! ### Doorbells -/

/-- A submission tail doorbell write: dropped and recorded, or the tail and the resume take effect (R42, R52, R564). -/
def tailDoorbell (fn off width value : Nat) (stores : List Host.Cell) (s : State) : State :=
  let s1 := s.hostStores stores
  if !s1.serving then s1
  else
    match doorbellAt s1 fn off with
    | some (owner, ring, false) =>
      match s1.sub? owner ring with
      | some r =>
        let tail := value % 65536
        if width = 32 ∧ tail < 2 ^ r.log2 then
          s1.setSub owner ring { r with tail := tail, halted := if value.testBit 31 then false else r.halted }
        else s1.protocolHs off
      | none => s1.protocolHs off
    | _ => s1.protocolHs off

/-- A completion head doorbell write: dropped whole and recorded, or slots return and the arming follows (R42, R51, R64). -/
def headDoorbell (fn off width value : Nat) (s : State) : State :=
  if !s.serving then s
  else
    match doorbellAt s fn off with
    | some (owner, cq, true) =>
      match s.comp? owner cq with
      | some r =>
        let head := value % 2 ^ 18
        let n := r.size
        let ahead := (head + n - r.head) % n
        if width = 32 ∧ head < n ∧ ahead ≤ r.recs.length then
          let r1 := { r with head := head, recs := r.recs.drop ahead, armed := r.armed || value.testBit 31 }
          let s1 := s.setComp owner cq r1
          if value.testBit 31 then s1.fireCq owner cq else s1
        else s.protocolHs off
      | none => s.protocolHs off
    | _ => s.protocolHs off

/-- SUBMISSION_TAIL_DOORBELL (R42). -/
def execSubmissionTailDoorbell (fn off width value : Nat) (stores : List Host.Cell) (s : State) : Host.Outcome State Fault Refusal :=
  .next (tailDoorbell fn off width (value % 2 ^ 31) stores s)

/-- RESUME: the tail doorbell written with RESUME set (R52). -/
def execResume (fn off width value : Nat) (stores : List Host.Cell) (s : State) : Host.Outcome State Fault Refusal :=
  .next (tailDoorbell fn off width (value % 2 ^ 31 + 2 ^ 31) stores s)

/-- COMPLETION_HEAD_DOORBELL (R51). -/
def execCompletionHeadDoorbell (fn off width value : Nat) (s : State) : Host.Outcome State Fault Refusal :=
  .next (headDoorbell fn off width (value % 2 ^ 31) s)

/-- ARM: the head doorbell written with ARM set (R64). -/
def execArm (fn off width value : Nat) (s : State) : Host.Outcome State Fault Refusal :=
  .next (headDoorbell fn off width (value % 2 ^ 31 + 2 ^ 31) s)

/-- MOD_TIME_EXPIRY (R64). -/
def execModTimeExpiry (owner cq : Nat) (t : Word) (s : State) : Host.Outcome State Fault Refusal :=
  match s.comp? owner cq with
  | some r => .next ((s.reach r.home t).fireCq owner cq)
  | none => .next s

/-- MSIX_UNMASK: the function mask (`none`) or one vector's mask is cleared, and what was held is sent (R64). -/
def execMsixUnmask (fn : Nat) (vec : Option Nat) (s : State) : Host.Outcome State Fault Refusal :=
  let m := NMap.getD s.msix fn {}
  let m1 : Msix :=
    match vec with
    | none => { m with funcMasked := false }
    | some v => { m with unmasked := if m.unmasked.contains v then m.unmasked else m.unmasked ++ [v] }
  .next (({ s with msix := NMap.set s.msix fn m1 }).flushMsix fn)

/-- ATS_INVALIDATION_REQUEST: the translations of a function in a run of 4 KiB pages are dropped (R29). -/
def execAtsInvalidationRequest (fn page size : Nat) (s : State) : Host.Outcome State Fault Refusal :=
  .next { s with atc := s.atc.filter (fun e => !(e.1 == fn && decide (page ≤ e.2) && decide (e.2 < page + size))) }

/-! ### Fetch -/

/-- One descriptor of a ring at the part's head, moved to the fetched list. -/
def fetchOne (s : State) (r : SubRing) : SubRing :=
  let d := s.hostRead (r.base + 128 * r.head) 128
  { r with head := (r.head + 1) % 2 ^ r.log2, order := r.order + 1,
           fetched := r.fetched ++ [{ order := r.order, desc := d, at_ := s.counter r.home }] }

/-- Fetch up to `n` descriptors up to the tail. -/
def fetchUpTo (s : State) : Nat → SubRing → SubRing
  | 0, r => r
  | n + 1, r => if r.head = r.tail then r else fetchUpTo s n (fetchOne s r)

/-- The DMA reads of a fetch of `n` descriptors: up to the ring's end, and on from its base. -/
def fetchDma (fn n : Nat) (r : SubRing) (s : State) : State :=
  let k := min n (2 ^ r.log2 - r.head)
  (s.asDma fn false (r.base + 128 * r.head) (128 * k)).asDma fn false r.base (128 * (n - k))

/-- Fetch from a ring and write the new head back (R44). -/
def State.fetchRing (s : State) (owner ring n : Nat) : State :=
  match s.sub? owner ring with
  | none => s
  | some r =>
    if r.stopped || decide (r.head = r.tail) || (s.dmaStop (s.functionOf owner)).isSome then s
    else
      let r1 := fetchUpTo s n r
      let s1 := fetchDma (s.functionOf owner) (r1.order - r.order) r (s.setSub owner ring r1)
      if r.headWb = 0 then s1 else s1.hostWrite (s.functionOf owner) r.headWb (leBytes 8 r1.head)

/-- Fetch `n` times 32 descriptors of a ring, with a head write-back after each fetch (R44). -/
def State.fetchTimes (owner ring : Nat) : Nat → State → State
  | 0, s => s
  | n + 1, s => State.fetchTimes owner ring n (s.fetchRing owner ring 32)

/-- Fetch every descriptor that a ring still holds, 32 at most per read (R44). -/
def State.fetchRest (s : State) (owner ring : Nat) : State :=
  match s.sub? owner ring with
  | some r => State.fetchTimes owner ring (ceilDiv ((r.tail + 2 ^ r.log2 - r.head) % 2 ^ r.log2) 32) s
  | none => s

/-- DESCRIPTOR_FETCH (R44): up to 32 descriptors of a ring whose tail lies beyond its head. -/
def execDescriptorFetch (owner ring : Nat) (s : State) : Host.Outcome State Fault Refusal :=
  if s.ringServed owner then .next (s.fetchRing owner ring 32) else .next s

/-! ### The ordering commands (Table 2-7) -/

/-- Whether a command's effect reads or writes host memory: the host forms of MOVE, PLAN_INSTALL, a TABLE_LOAD that loads, a MODEL_LOAD from the host, an ALLOY_BIND with adapters, the capture, ATTEST, a GROUP_SET that sets, QUOTA_SET and MEM_MARGIN (R502). -/
def Cmd.usesHost (c : Cmd) : Bool :=
  match c.opcode with
  | 0x06 => [1, 2, 3].contains (c.f 16 1)
  | 0x46 => c.f 17 1 == 0
  | 0x49 => c.f 16 1 == 0 && c.f 17 1 == 0
  | 0x4A => c.f 16 1 == 0 && c.f 17 1 != 0
  | 0x4E => c.f 18 1 == 0
  | op => [0x44, 0x4C, 0x4D, 0x50, 0x52].contains op

/-- The insecure IDE stream that stops a command's access to host memory, if it makes one (R502). -/
def State.ideStop (s : State) (c : Cmd) : Option Nat := if c.usesHost then s.dmaStop (s.functionOf c.owner) else none

/-- Run the effect of a control command on an admitted command of its opcode and kind that is before its decision point. -/
def control (op : Nat) (sel : Cmd → Bool) (f : Cmd → State → State) (cmd : Nat) (s : State) : State :=
  match s.cmd? cmd with
  | some c =>
    if s.serving && decide (c.opcode = op) && sel c && c.uncommitted then
      match s.ideStop c with
      | some stream => s.failCmd cmd E_IDE_STREAM stream
      | none => f c s
    else s
  | none => s

/-- End a control command with its outcome: the effect when the status is a success, its failure otherwise. -/
def State.settle (s : State) (id : Nat) (r : Except (Nat × Nat) (State × Nat × Nat)) : State :=
  match r with
  | .error (st, dt) => (s.startCmd id).failCmd id st dt
  | .ok (s', st, dt) => (s'.startCmd id).finish id st dt

/-- The first field, by ascending byte, that fails its range: the detail 0x0100 + n of Table 2-10. -/
def firstBad : List (Nat × Bool) → Option Nat
  | [] => none
  | (n, bad) :: rest => if bad then some (0x0100 + n) else firstBad rest

/-- BARRIER (R54): OK once every earlier command of the ring has written its record. -/
def execBarrier (cmd : Nat) (s : State) : Host.Outcome State Fault Refusal :=
  match s.cmd? cmd with
  | some c =>
    if s.serving && decide (c.opcode = 0x0A) && (s.ringCmds c.owner c.ring).all (fun x => decide (c.order ≤ x.2.order)) then
      .next (s.finish cmd OK 0)
    else .next s
  | none => .next s

/-- A SIGNAL of one OP: the fence changes, then the record is written. -/
def signal (op : Nat) (f : Fence → Word → Fence) (cmd : Nat) (s : State) : State :=
  match s.cmd? cmd with
  | some c =>
    if s.serving ∧ c.opcode = 0x0B ∧ c.f 18 1 = op ∧ c.uncommitted then
      (s.setFence c.owner (c.f 16 2) (f (s.fence c.owner (c.f 16 2)) (BitVec.ofNat 64 (c.f 24 8)))).finish cmd OK 0
    else s
  | none => s

/-- SIGNAL OP 0x00 adds VALUE to the count, modulo 2^64. -/
def execSignalAdd (cmd : Nat) (s : State) : Host.Outcome State Fault Refusal :=
  .next (signal 0 (fun x v => { x with count := x.count + v }) cmd s)

/-- SIGNAL OP 0x01 sets the count to VALUE and clears poison. -/
def execSignalSet (cmd : Nat) (s : State) : Host.Outcome State Fault Refusal :=
  .next (signal 1 (fun _ v => { count := v, poison := false }) cmd s)

/-- SIGNAL OP 0x02 sets poison. -/
def execSignalPoison (cmd : Nat) (s : State) : Host.Outcome State Fault Refusal :=
  .next (signal 2 (fun x _ => { x with poison := true }) cmd s)

/-- WAIT (R54): writes its record once its condition and poison have been judged, at admission or at a change of the fence. -/
def execWait (cmd : Nat) (s : State) : Host.Outcome State Fault Refusal :=
  match s.cmd? cmd with
  | some c =>
    if s.serving ∧ c.opcode = 0x0C then
      match c.phase with
      | .ready => .next (s.finish cmd c.status c.detail)
      | .admitted =>
        match waitJudge (s.fence c.owner (c.f 16 2)) c.desc with
        | some (st, dt) => .next (s.finish cmd st dt)
        | none => .next (s.startCmd cmd)
      | .started =>
        match waitJudge (s.fence c.owner (c.f 16 2)) c.desc with
        | some (st, dt) => .next (s.finish cmd st dt)
        | none => .next s
      | _ => .next s
    else .next s
  | none => .next s

/-- WAIT_TIMEOUT (R54): TIMEOUT_US of the home die's counter after admission, a WAIT not yet judged completes E_TIMEOUT with detail FENCE; 0 waits without limit. -/
def execWaitTimeout (cmd : Nat) (t : Word) (s : State) : Host.Outcome State Fault Refusal :=
  match s.cmd? cmd with
  | some c =>
    let s1 := s.reach c.home t
    if s1.serving ∧ c.opcode = 0x0C ∧ (c.phase = .started ∨ c.phase = .admitted) ∧ c.f 20 4 ≠ 0
        ∧ c.f 20 4 * 100 ≤ (s1.counter c.home - c.admitAt).toNat then .next (s1.finish cmd E_TIMEOUT (c.f 16 2))
    else .next s1
  | none => .next s

end Sys2Proof.Machine
end

