-- ==== Sys2Proof/Machine/Slots.lean ====
section
/-! DEFINITION. The regions of an ingot slot and its header (Table 15-4, Table 15-5, Table 4-2), and what a fetch takes of it (R263, R351). -/

namespace Sys2Proof.Machine

/-- Where the scales of a format begin in a slot (Table 15-4). -/
def scaleBase (fmt : Nat) : Nat :=
  match fmt with
  | 0x05 => 12352 | 0x06 => 12352
  | 0x07 => 16448 | 0x08 => 16448 | 0x09 => 16448 | 0x0B => 16448 | 0x0C => 16448
  | _ => 8256

/-- Where the zero-block bitmap of a format begins. -/
def bitmapBase (fmt : Nat) : Nat :=
  match fmt with
  | 0x05 => 13376 | 0x06 => 13376
  | 0x07 => 16960 | 0x08 => 16960 | 0x09 => 16960 | 0x0B => 16960 | 0x0C => 16960
  | _ => 9280

/-- The header fields of an ingot (Table 15-5, Table 4-2). -/
structure Header where
  fmt : Nat
  sparse : Bool := false
  axis : Nat := 0
  zero : Bool := false
  extended : Bool := false
  object : Nat := 0
  index : Nat := 0
  commit : Nat := 0
  promoted : Nat := 0
  degraded : Nat := 0
  rows : Nat := 0
  deriving DecidableEq, Repr

/-- The 64 bytes of a header. -/
def Header.bytes (h : Header) : Bytes :=
  leBytes 1 h.fmt ++ leBytes 1 (b2n h.sparse + 2 * h.axis + 4 * b2n h.zero + 8 * b2n h.extended) ++ leBytes 2 1
    ++ leBytes 4 h.object ++ leBytes 4 h.index ++ leBytes 4 h.commit ++ List.replicate 24 0
    ++ leBytes 2 h.promoted ++ leBytes 2 h.degraded ++ List.replicate 4 0 ++ leBytes 16 h.rows

/-- The header that 64 bytes spell. -/
def headerOf (b : Bytes) : Header :=
  { fmt := fld b 0 1, sparse := bitOf (fld b 1 1) 0, axis := b2n (bitOf (fld b 1 1) 1), zero := bitOf (fld b 1 1) 2,
    extended := bitOf (fld b 1 1) 3, object := fld b 4 4, index := fld b 8 4, commit := fld b 12 4,
    promoted := fld b 40 2, degraded := fld b 42 2, rows := fld b 48 16 }

/-- Whether no command has written the slot: it reads as a zero ingot (R351). -/
def unwritten (b : Bytes) : Bool := fld b 2 1 == 0

/-- Bytes of the zero-block bitmap of a format; 0 where it has none. -/
def bitmapBytes (fmt : Nat) : Nat := if fmtBlock fmt = 0 then 0 else 16 * (128 / fmtBlock fmt)

/-- Whether every bit of an ingot's zero-block bitmap is set: its element bytes are not read (R263). -/
def bitmapFull (fmt : Nat) (b : Bytes) : Bool :=
  decide (fmtBlock fmt ≠ 0) && ((b.drop (bitmapBase fmt)).take (bitmapBytes fmt)).all (· == 0xFF)

/-- Whether a fetch takes the header, scale array and bitmap only: ZERO_INGOT, or a bitmap of all ones (R263, R351). -/
def elementless (h : Header) (b : Bytes) : Bool := h.zero || bitmapFull h.fmt b

/-- Bytes of the scale array of a format (Table 15-4). -/
def scaleBytes (fmt : Nat) : Nat := if fmt = 0x0A then 512 else if fmtBlock fmt = 0 then 0 else 128 * (128 / fmtBlock fmt)

/-- Whether a fetch of an ingot takes byte `off` of its slot: all of it, or the header, scale array and bitmap alone when no element byte is read (R263). -/
def fetchedByte (b : Bytes) (off : Nat) : Bool :=
  let h := headerOf b
  let inside := fun (lo n : Nat) => decide (lo ≤ off) && decide (off < lo + n)
  !(elementless h b) || inside 0 64 || inside (scaleBase h.fmt) (scaleBytes h.fmt) || inside (bitmapBase h.fmt) (bitmapBytes h.fmt)

end Sys2Proof.Machine
end

