-- ==== Sys2Proof/Machine/Objects.lean ====
section
/-! DEFINITION. Objects: placement, slots, versions, poison, reading and writing, charges against quotas, registration and release (R348 to R364, R587). -/

namespace Sys2Proof.Machine

/-! ### Geometry -/

/-- The slot size of an ingot by format (Table 15-4). -/
def slotSize (fmt : Nat) : Nat :=
  if fmt = 0x01 ∨ fmt = 0x02 ∨ fmt = 0x03 ∨ fmt = 0x04 ∨ fmt = 0x0A then 12288
  else if fmt = 0x05 ∨ fmt = 0x06 then 14336
  else if fmt = 0x07 ∨ fmt = 0x08 ∨ fmt = 0x09 ∨ fmt = 0x0B ∨ fmt = 0x0C then 18432
  else if fmt = 0x10 ∨ fmt = 0x11 then 33792
  else 66560

/-- S: slot or chunk size (R352, Table 15-4). -/
def Obj.slot (o : Obj) : Nat := if o.kind = 0 then slotSize o.fmt else 65536

/-- N: ingots or chunks of an object (R352). -/
def Obj.count (o : Obj) : Nat :=
  if o.kind = 0 then o.batch * ceilDiv o.rows 128 * ceilDiv o.cols 128 else ceilDiv o.bytes 65536

/-- The index n of ingot (b, i, j) (R352). -/
def Obj.index (o : Obj) (b i j : Nat) : Nat := (b * ceilDiv o.rows 128 + i) * ceilDiv o.cols 128 + j

/-- The dies that home ingot or chunk n: every die of L for a REPLICATE object (Table 15-3); the caching die L[n mod D] of a T3-home object, whatever its PLACEMENT (R353). -/
def Obj.diesOf (o : Obj) (n : Nat) : List Nat :=
  if o.placement = 0 ∨ o.tier = 3 then [o.dies.getD (n % o.dies.length) 0]
  else if o.placement = 1 then [o.die]
  else o.dies

/-- The home die of ingot or chunk n for a reader on die `d`: its own copy of a REPLICATE object (R353). -/
def Obj.readDie (o : Obj) (n d : Nat) : Nat :=
  if o.placement = 2 ∧ o.tier ≠ 3 then (if o.dies.contains d then d else o.dies.headD 0) else (o.diesOf n).headD 0

/-- The stack of ingot or chunk n on a die (Table 15-3). A T3-home object is cached as INTERLEAVE places it: DESIGN CHOICE, since R353 names the die of its T2 cache and no stack (log entry 93). -/
def Obj.stackOf (o : Obj) (n die : Nat) : Nat :=
  if o.placement = 0 ∨ o.tier = 3 then 3 * die + (n / o.dies.length) % 3 else 3 * die + n % 3

/-- How many ingots or chunks die `d` homes or, for a T3-home object, caches (R353, R587). -/
def Obj.homed (o : Obj) (d : Nat) : Nat :=
  if o.placement = 2 ∧ o.tier ≠ 3 then (if o.dies.contains d then o.count else 0)
  else if o.placement = 1 ∧ o.tier ≠ 3 then (if o.die = d then o.count else 0)
  else
    match o.dies.findIdx? (· == d) with
    | some i => ceilDiv (o.count - i) o.dies.length
    | none => 0

/-- The lists of Table 15-6: T1 bytes charged on a die. -/
def Obj.t1 (o : Obj) (d : Nat) : Nat := if o.tier = 1 then 2 * o.homed d * o.slot else 0

/-- T2 bytes charged on a die: both versions of a T2-home object (one of a model object, R428), and the version map (R587). -/
def Obj.t2 (o : Obj) (d : Nat) : Nat :=
  if o.model then o.homed d * o.slot
  else (if o.tier = 2 then 2 * o.homed d * o.slot else 0) + ceilDiv (o.homed d) 8

/-- T3 bytes charged (Table 15-6). -/
def Obj.t3 (o : Obj) : Nat := if o.tier = 3 then 2 * o.count * o.slot else 0

/-! ### Device pages (R324, R353) -/

/-- Slots that each ingot has: a model object has one version (R428). -/
def Obj.versions (o : Obj) : Nat := if o.model then 1 else 2

/-- Ingots or chunks of an object with a copy on stack `h` (Table 15-3). -/
def Obj.onStack (o : Obj) (h : Nat) : Nat := ceilDiv (o.homed (h / 3) - h % 3) 3

/-- 64 KiB units of a page: 2 MiB, or one unit for a byte object below 2 MiB (R353). -/
def Obj.pageUnits (o : Obj) : Nat := if o.kind = 1 ∧ o.bytes < 2097152 then 1 else 32

/-- Units of the pages an object takes on a stack. A T3-home object takes none: its home is host memory. -/
def Obj.stackUnits (o : Obj) (h : Nat) : Nat :=
  if o.tier = 3 then 0 else ceilDiv (o.versions * o.onStack h * o.slot) (65536 * o.pageUnits) * o.pageUnits

/-- The lowest free page-aligned runs of a stack of 2^20 units that hold `need` units; `busy` lists the runs in use, rising. -/
def takeUnits (page : Nat) : List (Nat × Nat) → Nat → Nat → List (Nat × Nat)
  | [], lo, need => if need = 0 ∨ 2 ^ 20 ≤ lo then [] else [(lo, min need (2 ^ 20 - lo))]
  | (b, n) :: rest, lo, need =>
    let room := min need ((b - lo) / page * page)
    let next := max lo (ceilDiv (b + n) page * page)
    if room = 0 then takeUnits page rest next need else (lo, room) :: takeUnits page rest next (need - room)

/-- The runs of units in use on a stack. -/
def State.busyOn (s : State) (h : Nat) : NMap Nat :=
  s.objects.foldl (fun m x => x.2.pages.foldl (fun k r => if r.1 = h then NMap.set k r.2.1 r.2.2 else k) m) []

/-- The end of an object's device-virtual pages, a multiple of 2 MiB. -/
def Obj.dvEnd (o : Obj) : Nat := o.dv + ceilDiv (o.versions * o.count * o.slot) 2097152 * 2097152

/-- An object with its pages mapped, inside the populated native windows only (R324): the lowest free units of each stack and the next free device-virtual pages of its partition. DESIGN CHOICE (log entry 96): the spec fixes die and stack, and no place within a stack. -/
def State.mapped (s : State) (part : Nat) (o : Obj) : Obj :=
  { o with pages := (List.range 24).flatMap (fun h => (takeUnits o.pageUnits (s.busyOn h) 0 (o.stackUnits h)).map (fun r => (h, r.1, r.2))),
           dv := ((s.objects.filter (fun x => x.1 / 2 ^ 32 == part)).map (fun x => x.2.dvEnd)).foldl max 0 }

/-- The native address of byte `off` of an object's runs on a stack. -/
def addrIn (h : Nat) : List (Nat × Nat × Nat) → Nat → Option Nat
  | [], _ => none
  | (g, u, n) :: rest, off =>
    if g ≠ h then addrIn h rest off
    else if off < n * 65536 then some (h * 2 ^ 36 + u * 65536 + off)
    else addrIn h rest (off - n * 65536)

/-- The byte of an object's runs on a stack that a byte `y` of the stack is. -/
def offsetIn (h y : Nat) : List (Nat × Nat × Nat) → Nat → Option Nat
  | [], _ => none
  | (g, u, n) :: rest, seen =>
    if g ≠ h then offsetIn h y rest seen
    else if u * 65536 ≤ y ∧ y < (u + n) * 65536 then some (seen + (y - u * 65536))
    else offsetIn h y rest (seen + n * 65536)

/-- The place of ingot or chunk n among those of its stack (Table 15-3). -/
def Obj.placeOf (o : Obj) (n : Nat) : Nat := (if o.placement = 0 then n / o.dies.length else n) / 3

/-- The native address of byte `b` of slot n of a version, in the copy of a die. -/
def Obj.addrOf (o : Obj) (v n d b : Nat) : Option Nat :=
  let h := o.stackOf n d
  addrIn h o.pages ((v * o.onStack h + o.placeOf n) * o.slot + b)

/-- The version and the byte of the object's flat slot space that a native address holds, if it is one of the object's. -/
def Obj.byteOf (o : Obj) (x : Nat) : Option (Nat × Nat) :=
  let h := x / 2 ^ 36
  match offsetIn h (x % 2 ^ 36) o.pages 0 with
  | none => none
  | some off =>
    let m := o.onStack h
    let q := off / o.slot
    let k := 3 * (q % m) + h % 3
    let n := if o.placement = 0 then o.dies.length * k + (o.dies.findIdx? (· == h / 3)).getD 0 else k
    if m = 0 ∨ o.versions ≤ q / m then none else some (q / m, n * o.slot + off % o.slot)

/-- The poisoned lines of the stacks that lie in an object's pages (R338). -/
def State.foundPoison (s : State) (o : Obj) : List Poison :=
  (List.range 24).flatMap (fun h => (s.stackAt h).poison.filterMap (fun p =>
    (o.byteOf (h * 2 ^ 36 + p.1)).map (fun y => { version := y.1, off := y.2 / 128 * 128, die := h / 3, origin := p.2 })))

/-- The line of a stack that a poisoned line of an object is. -/
def Obj.poisonLineOn (o : Obj) (h : Nat) (p : Poison) : Option (Nat × Nat) :=
  let n := p.off / o.slot
  let d := if o.placement = 2 then p.die else (o.diesOf n).headD 0
  if o.stackOf n d = h then (o.addrOf p.version n d (p.off % o.slot)).map (fun y => (y % 2 ^ 36, p.origin)) else none

/-- An object's pages are given up: their poisoned lines stay poisoned in the stacks (R338). -/
def State.leavePages (s : State) (o : Obj) : State :=
  (List.range 24).foldl (fun (a : State) h =>
    if o.pages.any (fun r => r.1 == h) then
      let x := a.stackAt h
      a.setStack h { x with poison := x.poison.filter (fun p => (o.byteOf (h * 2 ^ 36 + p.1)).isNone) ++ o.poison.filterMap (o.poisonLineOn h) }
    else a) s

/-- The object that a native address belongs to, with the version and byte. -/
def State.backing (s : State) (x : Nat) : Option (Nat × Nat × Nat) :=
  s.objects.findSome? (fun e => (e.2.byteOf x).map (fun y => (e.1, y)))

/-! ### Versions -/

/-- The slot, 0 or 1, that the version map of a view names for ingot n (R356). -/
def slotIn (vmap : List Nat) (n : Nat) : Nat := if vmap.contains n then 1 else 0

def Obj.mem (o : Obj) (v : Nat) : Mem := if v = 0 then o.mem0 else o.mem1
def Obj.ext (o : Obj) (v : Nat) : Mem := if v = 0 then o.ext0 else o.ext1

/-- The bytes of a slot. -/
def Obj.readSlot (o : Obj) (v n : Nat) : Bytes := Mem.readRange (o.mem v) (n * o.slot) o.slot

/-- The extension bytes of a slot (R363). A byte object keeps the extension of a reference slot at the slot's byte offset (R169). -/
def Obj.readExt (o : Obj) (v n : Nat) : Bytes := Mem.readRange (o.ext v) (n * 6144) 6144

/-- The header bytes of a slot. -/
def Obj.header (o : Obj) (v n : Nat) : Bytes := Mem.readRange (o.mem v) (n * o.slot) 64

/-- Bytes of a byte object in the versions a map names (R352, R356). -/
def Obj.readBytes (o : Obj) (vmap : List Nat) (off len : Nat) : Bytes :=
  (List.range len).map (fun i => Mem.read (o.mem (slotIn vmap ((off + i) / 65536))) (off + i))

/-- A little-endian field of a byte object. -/
def Obj.readNat (o : Obj) (vmap : List Nat) (off n : Nat) : Nat := leNat (o.readBytes vmap off n)

/-- The origin id that poisons bytes `lo` to `hi - 1` of version v for a reader of die `d`, if any (R338). -/
def Obj.poisonAt (o : Obj) (v lo hi d : Nat) : Option Nat :=
  (o.poison.find? (fun p => p.version == v && decide (p.off < hi) && decide (lo < p.off + 128) &&
    (decide (o.placement ≠ 2) || decide (o.tier = 3) || p.die == d))).map (·.origin)

/-- Poison met by reading a run of a byte object. -/
def Obj.poisonBytes (o : Obj) (vmap : List Nat) (off len d : Nat) : Option Nat :=
  ((List.range (len / 65536 + 2)).map (fun k => off / 65536 + k)).findSome? (fun n =>
    let lo := max off (n * 65536)
    let hi := min (off + len) ((n + 1) * 65536)
    if lo < hi then o.poisonAt (slotIn vmap n) lo hi (o.readDie n d) else none)

/-- Clear the poison of every line that lies wholly inside a written run (R338). -/
def Obj.cleanse (o : Obj) (v lo hi : Nat) : List Poison :=
  o.poison.filter (fun p => !(p.version == v && decide (lo ≤ p.off) && decide (p.off + 128 ≤ hi)))

/-- Write the whole slot n of version v. -/
def Obj.putSlot (o : Obj) (v n : Nat) (b : Bytes) : Obj :=
  let m := Mem.writeRange (o.mem v) (n * o.slot) (fixLen o.slot b)
  let p := o.cleanse v (n * o.slot) ((n + 1) * o.slot)
  if v = 0 then { o with mem0 := m, poison := p } else { o with mem1 := m, poison := p }

/-- Write the extension of slot n of version v (R363). -/
def Obj.putExt (o : Obj) (v n : Nat) (b : Bytes) : Obj :=
  let m := Mem.writeRange (o.ext v) (n * 6144) (fixLen 6144 b)
  let e := if o.extended.contains (v, n) then o.extended else o.extended ++ [(v, n)]
  if v = 0 then { o with ext0 := m, extended := e } else { o with ext1 := m, extended := e }

/-- Write bytes inside chunks of version v. -/
def Obj.putBytes (o : Obj) (v off : Nat) (b : Bytes) : Obj :=
  let m := Mem.writeRange (o.mem v) off b
  let p := o.cleanse v off (off + b.length)
  if v = 0 then { o with mem0 := m, poison := p } else { o with mem1 := m, poison := p }

/-- Write the extension of the reference slot at byte `off` of a byte object, in version v; none takes it away. -/
def Obj.putRefExt (o : Obj) (v off : Nat) (b : Option Bytes) : Obj :=
  let rest := o.extended.filter (fun e => e != (v, off))
  match b with
  | none => { o with extended := rest }
  | some x =>
    let m := Mem.writeRange (o.ext v) off (fixLen 6144 x)
    if v = 0 then { o with ext0 := m, extended := rest ++ [(v, off)] } else { o with ext1 := m, extended := rest ++ [(v, off)] }

/-- Copy a slot's content and poison from one version to the other, and of a chunk of a byte object the extensions of its reference slots. -/
def Obj.copySlot (o : Obj) (src dst n : Nat) : Obj :=
  let o1 := o.putSlot dst n (o.readSlot src n)
  let moved := (o.poison.filter (fun p => p.version == src && p.off / o.slot == n)).map (fun p => { p with version := dst })
  let o2 := { o1 with poison := o1.poison ++ moved }
  if o.kind = 0 then o2
  else
    let here := fun (e : Nat × Nat) => e.2 / 65536 == n
    let gone := (o.extended.filter (fun e => e.1 == dst && here e)).foldl (fun (a : Obj) e => a.putRefExt dst e.2 none) o2
    (o.extended.filter (fun e => e.1 == src && here e)).foldl (fun (a : Obj) e =>
      a.putRefExt dst e.2 (some (Mem.readRange (o.ext src) e.2 6144))) gone

/-! ### Handles -/

/-- The object a handle of a partition names: a registered object, or the base tensor that an alloy's alias names (R436). -/
def State.resolve (s : State) (part h : Nat) : Option Nat :=
  if NMap.has s.objects (objKey part h) then some (objKey part h)
  else
    (s.alloys.find? (fun a => a.1 / 2 ^ 32 == part && decide (a.1 % 2 ^ 32 ≤ h) && decide (h < a.1 % 2 ^ 32 + a.2.tensors))).bind
      (fun a =>
        let t := h - a.1 % 2 ^ 32
        match NMap.get? s.models a.2.base with
        | some m => some (if m.owner = packageOwner then sharedKey a.2.modelId t else objKey m.owner (m.handleBase + t))
        | none => none)

/-- The object a non-zero handle names. -/
def State.obj? (s : State) (part h : Nat) : Option (Nat × Obj) :=
  match s.resolve part h with
  | some k => (NMap.get? s.objects k).map (fun o => (k, o))
  | none => none

def State.setObj (s : State) (key : Nat) (o : Obj) : State := { s with objects := NMap.set s.objects key o }

/-! ### Which ingots a command wrote -/

/-- Whether a command has written an ingot or chunk. -/
def Cmd.wrote (c : Cmd) (key n : Nat) : Bool := c.written.any (fun w => w.key == key && w.ingots.contains n)

/-- Note that a command has written an ingot or chunk. -/
def Cmd.note (c : Cmd) (key n : Nat) : Cmd :=
  if c.wrote key n then c
  else if c.written.any (fun w => w.key == key) then
    { c with written := c.written.map (fun w => if w.key = key then { w with ingots := w.ingots ++ [n] } else w) }
  else { c with written := c.written ++ [{ key := key, ingots := [n] }] }

/-- Note that a command writes an object, though no ingot of it yet. -/
def Cmd.noteObj (c : Cmd) (key : Nat) : Cmd :=
  if c.written.any (fun w => w.key == key) then c else { c with written := c.written ++ [{ key := key, ingots := [] }] }

/-- The ingot of `ns` that die `d` homes, for an object's commit on that die (R379). -/
def Obj.homedOn (o : Obj) (ns : List Nat) (d : Nat) : List Nat := ns.filter (fun n => (o.diesOf n).headD 0 == d)

/-- Flip the version bits of ingots (R356): a T3-home object's content is dirty until written back (R358). -/
def Obj.flip (o : Obj) (ns : List Nat) : Obj :=
  { o with vmap := (o.vmap.filter (fun n => !(ns.contains n))) ++ ns.filter (fun n => !(o.vmap.contains n)),
           dirty := if o.tier = 3 then o.dirty ++ ns.filter (fun n => !(o.dirty.contains n)) else o.dirty }

/-- Count one commit (R163, R356). -/
def Obj.bump (o : Obj) : Obj := { o with commits := o.commits + 1 }

/-- The COMMIT value an ingot written for the next commit carries (Table 15-5). -/
def Obj.nextCommit (o : Obj) : Nat := (o.commits + 1).toNat

/-- Byte offsets of the handles that a command of an opcode names (the payload tables). -/
def handleFields (d : Bytes) : List Nat :=
  match dOpcode d with
  | 0x01 => [16, 20, 24, 28, 32, 36]
  | 0x02 => [16, 20, 24, 28, 32, 36]
  | 0x03 => [24, 28, 36, 40, 48, 52]
  | 0x06 => if fld d 16 1 = 3 then [] else [20, 24]
  | 0x07 => [28, 32, 36, 40, 44, 48, 52, 56, 60]
  | 0x08 => [24, 44]
  | 0x09 => [16, 20, 24, 28]
  | 0x0E => [16, 20, 24, 28, 32]
  | 0x0F => [24]
  | 0x48 => [16]
  | _ => []

/-- Byte offsets of the handles that a command writes. -/
def outputFields (d : Bytes) : List Nat :=
  match dOpcode d with
  | 0x01 => [24, 36]
  | 0x02 => if fld d 66 1 = 1 then [32] else [28]
  | 0x03 => [28, 48, 52]
  | 0x06 => if fld d 16 1 = 6 then [20] else [24]
  | 0x07 => [28]
  | 0x08 => [44]
  | 0x09 => [28]
  | 0x0E => [24, 28, 32]
  | _ => []

/-- The objects that the handles at some payload bytes name. -/
def State.keysAt (s : State) (part : Nat) (d : Bytes) (offs : List Nat) : List Nat :=
  offs.filterMap (fun o => let h := fld d o 4; if h = 0 then none else s.resolve part h)

/-- The objects a command writes. -/
def State.writes (s : State) (c : Cmd) : List Nat := s.keysAt c.owner c.desc (outputFields c.desc)

/-- Whether a command's commit flips the versions of its objects: a RETIER moves both and flips none (R163, R372). -/
def Cmd.flips (c : Cmd) : Bool := !(c.opcode == 0x06 && c.f 16 1 == 6)

/-- What a command commits, object by object: the ingots it wrote, and with none the objects its descriptor writes, whose version flips all the same (R59 step 1, R163). -/
def State.commits (s : State) (c : Cmd) : List Written := ((s.writes c).foldl Cmd.noteObj c).written

/-- Step 1 of R59 for every object a command writes, on every die at once. -/
def State.commitObjects (s : State) (c : Cmd) : State :=
  (s.commits c).foldl (fun a w =>
    match NMap.get? a.objects w.key with
    | some o => a.setObj w.key (if c.flips then (o.flip w.ingots).bump else o)
    | none => a) s

/-- Step 1 of R59 for the ingots one die homes (R379). -/
def State.commitDie (s : State) (c : Cmd) (d : Nat) : State :=
  c.written.foldl (fun a w =>
    match NMap.get? a.objects w.key with
    | some o => a.setObj w.key (o.flip (o.homedOn w.ingots d))
    | none => a) s

/-- The commit counts of every object a command wrote. -/
def State.commitCounts (s : State) (c : Cmd) : State :=
  (s.commits c).foldl (fun a w =>
    match NMap.get? a.objects w.key with
    | some o => if c.flips then a.setObj w.key o.bump else a
    | none => a) s

/-- Dies other than the home die that hold version bits of an object the command writes, whichever of its ingots it wrote (R379, R587). A fenced die holds none. -/
def State.commitDies (s : State) (c : Cmd) : List Nat :=
  (List.range 8).filter (fun d => d != c.home && !(s.dieAt d).fenced && (s.commits c).any (fun w =>
    match NMap.get? s.objects w.key with
    | some o => decide (o.homed d ≠ 0)
    | none => false))

/-- A command past its decision point completes its commit: the version bits flip that no die had flipped yet; its record is written when the link is up, and otherwise it counts as unrecorded. -/
def State.completeCommit (s : State) (link : Bool) (id : Nat) (c : Cmd) : State :=
  let s1 := c.waitDies.foldl (fun (a : State) d => a.commitDie c d) s
  if link then s1.finish id c.status c.detail
  else
    let s2 := { s1 with cmds := NMap.erase s1.cmds id }
    { s2 with subs := NMap.modify s2.subs (ringKey c.owner c.ring) (fun r => { r with lastTag := dTag c.desc, lastCounter := s.counter c.home }) }

/-! ### Which objects a command names -/

/-- The objects a command names, gradient masks of its outputs included (R249). -/
def State.named (s : State) (c : Cmd) : List Nat :=
  let ks := s.keysAt c.owner c.desc (handleFields c.desc)
  let masks := (s.keysAt c.owner c.desc (outputFields c.desc)).filterMap (fun k =>
    match NMap.get? s.objects k with
    | some o => if o.gradMask = 0 then none else s.resolve c.owner o.gradMask
    | none => none)
  ks ++ masks

/-- Whether the fence that killed a command has been acknowledged by every port (R385 step 2). -/
def State.fenceDone (s : State) (c : Cmd) : Bool :=
  match c.afterFence with
  | some u => !((s.dieAt u.1).quires.getD u.2 {}).acksDue
  | none => true

/-- R60: whether a command that writes objects may start: no other uncommitted command writes one of them, and none still reads the version it would overwrite; R379: no committing command wrote an object it names. -/
def State.mayStart (s : State) (id : Nat) (c : Cmd) : Bool :=
  let outs := s.writes c
  let others := s.cmds.filter (fun x => x.1 != id)
  let stale := fun (k : Nat) (v : View) => v.key == k && (match NMap.get? s.objects k with | some o => v.vmap != o.vmap | none => false)
  s.fenceDone c && others.all (fun x =>
    (if x.2.phase = .started ∨ x.2.phase = .ready then
      outs.all (fun k => !((s.writes x.2).contains k) && !(x.2.views.any (stale k))) else true)
    && (if x.2.phase = .committing then (s.named c).all (fun k => !(x.2.written.any (fun w => w.key == k))) else true))

/-- Capture the versions a command reads (R60). -/
def State.capture (s : State) (id : Nat) : State :=
  match s.cmd? id with
  | some c =>
    let vs := (s.named c).filterMap (fun k => (NMap.get? s.objects k).map (fun o => { key := k, vmap := o.vmap, commits := o.commits : View }))
    s.setCmd id { c with views := vs }
  | none => s

/-- The version map by which a command reads an object. -/
def Cmd.viewOf (c : Cmd) (key : Nat) (o : Obj) : List Nat :=
  match c.views.find? (fun v => v.key == key) with
  | some v => v.vmap
  | none => o.vmap

/-! ### Charges (R364) -/

/-- The object as RETIER would home it: a T3 home holds both versions in host memory, so nothing is dirty; each new copy keeps the poison of the copy it is made from, the one a reader of its die reads (R338, R353). -/
def retiered (o : Obj) (d : Bytes) : Obj :=
  let new := { o with tier := fld d 88 1, placement := fld d 89 1, die := fld d 90 1, dirty := [] }
  { new with poison := o.poison.flatMap (fun p =>
      ((new.diesOf (p.off / o.slot)).filter (fun e => decide (o.placement ≠ 2) || decide (o.tier = 3) || p.die == o.readDie (p.off / o.slot) e)).map (fun e =>
        { p with die := e })) }

/-- The objects that a partition's RETIERs which have run will make: their new storage is charged beside the old (R372). -/
def State.retiers (s : State) (part : Nat) : List Obj :=
  s.cmds.filterMap (fun x =>
    if x.2.owner = part ∧ x.2.opcode = 0x06 ∧ x.2.f 16 1 = 6 ∧ x.2.phase = .ready ∧ x.2.status = OK then
      (s.obj? part (x.2.f 20 4)).map (fun o => retiered o.2 x.2.desc)
    else none)

/-- Objects whose storage a partition is charged for. -/
def State.partObjs (s : State) (part : Nat) : List Obj :=
  (s.objects.filter (fun o => o.1 / 2 ^ 32 == part)).map (·.2)

/-! ### Model tensors (R421, R428) -/

/-- The tensor entries of a manifest (Table 18-2). -/
def manifestTensors (m : Bytes) : List ModelTensor :=
  (List.range (fld m 16 4)).map (fun t =>
    let e := 128 + 32 * t
    { fmt := fld m e 1, sparse := bitOf (fld m (e + 1) 1) 0, axis := b2n (bitOf (fld m (e + 1) 1) 1),
      rows := fld m (e + 4) 4, cols := fld m (e + 8) 4, batch := fld m (e + 12) 4 })

/-- The object a tensor becomes: REPLICATE and T2-home on the dies of its owner, one version. -/
def ModelTensor.obj (x : ModelTensor) (dies : List Nat) : Obj :=
  { kind := 0, fmt := x.fmt, sparse := x.sparse, axis := x.axis, tier := 2, placement := 2, rows := x.rows, cols := x.cols,
    batch := x.batch, model := true, dies := dies }

/-- T2 bytes that a load in progress of an owner holds on a die. -/
def State.loadUse (s : State) (owner d : Nat) : Nat :=
  let dies := match NMap.get? s.parts owner with | some p => p.dieList | none => List.range 8
  ((s.ownerCmds owner).map (fun c =>
    match c.2.load with
    | some k => if k.manifestOk then ((manifestTensors k.manifest).map (fun x => (x.obj dies).t2 d)).sum else 0
    | none => 0)).sum

/-- Whether a handle belongs to the tensors of a load in progress of the partition (R428). -/
def State.loadingHandle (s : State) (owner h : Nat) : Bool :=
  (s.ownerCmds owner).any (fun c =>
    match c.2.load with
    | some k => k.manifestOk && decide (fld c.2.desc 24 4 ≤ h) && decide (h < fld c.2.desc 24 4 + fld k.manifest 16 4)
    | none => false)

/-- Whether a handle is taken: it names an object or an alias, or a load will create it. -/
def State.handleUsed (s : State) (owner h : Nat) : Bool := (s.resolve owner h).isSome || s.loadingHandle owner h

/-- Bytes of the extensions a tensor object holds on a die: each lies with its ingot, on every die that has a copy (R363, R444). -/
def Obj.extensionsOn (o : Obj) (d : Nat) : Nat :=
  if o.kind = 0 then 6144 * o.extended.countP (fun e => (o.diesOf e.2).contains d) else 0

/-- T2 bytes of a partition in use on a die: objects, maps and extensions, table banks (R199), step records of held and of running OPENs (R282, on the partition's lowest die), codec buffers (R461), normalisation scratch (R218). -/
def State.t2Use (s : State) (part d : Nat) : Nat :=
  let onDie := match NMap.get? s.parts part with | some p => p.onDie d | none => false
  let first := match NMap.get? s.parts part with | some p => p.firstDie | none => 0
  let held := fun (slot : Nat) (b : Bool) => (s.ownerCmds part).any (fun c => c.2.captured.any (fun k => k.1 == slot && k.2.1 == b))
  let bank := fun (t : Nat × TableSlot) (b : Bool) =>
    match (if b then t.2.bank1 else t.2.bank0) with
    | some x => if t.2.active = some b || held (t.1 % 128) b then x.length else 0
    | none => 0
  let tabs := ((s.tables.filter (fun t => t.1 / 128 == part)).map (fun t => bank t false + bank t true)).sum
  let recs := ((s.steps.filter (fun t => t.1 / 2 ^ 32 == part)).map (fun t => 32 * t.2.entries.length)).sum
    + ((s.ownerCmds part).map (fun c => match c.2.stepDraft with | some t => 32 * t.entries.length | none => 0)).sum
  let bufs := (((s.engineAt d).streams.filter (fun t => t.2.part == part)).map (fun t => t.2.buffers.length * t.2.bufferBytes)).sum
  let scratch := ((s.ownerCmds part).map (fun c => NMap.getD c.2.lens (2 ^ 40 + d) 0)).sum
  ((s.partObjs part ++ s.retiers part).map (fun o => o.t2 d + o.extensionsOn d)).sum + (if onDie then tabs else 0) + (if first = d then recs else 0) + bufs + scratch
    + s.loadUse part d

def State.t1Use (s : State) (part d : Nat) : Nat := ((s.partObjs part ++ s.retiers part).map (fun o => o.t1 d)).sum
def State.t3Use (s : State) (part : Nat) : Nat := ((s.partObjs part ++ s.retiers part).map (fun o => o.t3)).sum

/-- Precision reserve bytes in use: the draws that objects hold and those that admitted commands hold (R120, R121). -/
def State.reserveUse (s : State) (part : Nat) : Nat :=
  ((s.partObjs part).map (fun o => (o.draw.map (·.2)).sum)).sum
    + ((s.ownerCmds part).map (fun c => (c.2.draws.map (·.2)).sum)).sum

/-- Whether new charges of an object fit the partition's quotas on every die (R350, R364). -/
def State.fits (s : State) (part : Nat) (o : Obj) : Bool :=
  (List.range 8).all (fun d =>
    (decide (o.t2 d = 0) || decide (s.t2Use part d + o.t2 d ≤ s.setting part 0x0002 d)) &&
    (decide (o.t1 d = 0) || decide (s.t1Use part d + o.t1 d ≤ s.setting part 0x0001 d))) &&
  (decide (o.t3 = 0) || decide (s.t3Use part + o.t3 ≤ s.setting part 0x0004 0))

/-! ### The T2 cache of T3-home objects (R353, R358, R364) -/

/-- The host address of a slot of a T3-home object (R353). -/
def Obj.hostSlot (o : Obj) (v n : Nat) : Nat := o.hostBase + (v * o.count + n) * o.slot

/-- Whether a cached slot belongs to a partition and to the caching die `d`. -/
def State.cachedOn (s : State) (part d : Nat) (e : Nat × Nat × Nat) : Bool :=
  decide (e.1 / 2 ^ 32 = part) &&
    (match NMap.get? s.objects e.1 with | some o => (o.diesOf e.2.2).headD 0 == d | none => false)

/-- T2_CACHE: bytes that cached slots of a partition take on a die (Table 15-6). -/
def State.cacheUse (s : State) (part d : Nat) : Nat :=
  ((s.t2cache.filter (s.cachedOn part d)).map (fun e => match NMap.get? s.objects e.1 with | some o => o.slot | none => 0)).sum

/-- The cache's space on a die: what the partition's T2 quota leaves there. -/
def State.cacheRoom (s : State) (part d : Nat) : Nat := s.setting part 0x0002 d - s.t2Use part d

/-- Write one dirty ingot or chunk of a T3-home object back to host memory, into the slot of its current version (R358). -/
def State.writeBack (s : State) (key n : Nat) : State :=
  match NMap.get? s.objects key with
  | some o =>
    if o.dirty.contains n then
      let v := slotIn o.vmap n
      ((s.request (stackQueue (o.stackOf n ((o.diesOf n).headD 0))) (key / 2 ^ 32) o.slot).bulkWrite (key / 2 ^ 32) (o.hostSlot v n) (o.readSlot v n)).setObj key { o with dirty := o.dirty.filter (· != n) }
    else s
  | none => s

/-- Whether a cached slot is one that a command has written and not committed. -/
def State.inFlight (s : State) (e : Nat × Nat × Nat) : Bool :=
  s.cmds.any (fun c => c.2.wrote e.1 e.2.2) &&
    (match NMap.get? s.objects e.1 with | some o => slotIn o.vmap e.2.2 != e.2.1 | none => false)

/-- Free the space of a cached slot: dirty content goes to host memory first. -/
def State.evict (s : State) (e : Nat × Nat × Nat) : State :=
  let s1 := match NMap.get? s.objects e.1 with
    | some o => if slotIn o.vmap e.2.2 = e.2.1 then s.writeBack e.1 e.2.2 else s
    | none => s
  { s1 with t2cache := s1.t2cache.filter (· != e) }

/-- Evict slots of a partition on a die, least recently used first, until the cache fits its space; one that a command is writing stays (R358). -/
def State.shrinkCache (s : State) (part d : Nat) : State :=
  (s.t2cache.filter (s.cachedOn part d)).foldl (fun (a : State) e =>
    if a.cacheUse part d ≤ a.cacheRoom part d ∨ a.inFlight e then a else a.evict e) s

/-- The runs of bytes that a read of an ingot or chunk moves: none of an ingot never written (R351), the header, scale array and bitmap of one without element bytes (R263), else the whole slot. -/
def Obj.fetchRuns (o : Obj) (v n : Nat) : List (Nat × Nat) :=
  if o.kind ≠ 0 then [(0, o.slot)]
  else
    let b := o.readSlot v n
    let h := headerOf b
    if unwritten b then []
    else if elementless h b then
      [(0, 64), (scaleBase h.fmt, scaleBytes h.fmt), (bitmapBase h.fmt, bitmapBytes h.fmt)].filter (fun r => decide (0 < r.2))
    else [(0, o.slot)]

/-- Use `len` bytes of a slot of a T3-home object in its T2 cache, where it becomes the latest used; `runs` of one that is not there are fetched from host memory for a read (R353). Its bytes in the cache are requests of its stack (R455). -/
def State.cacheT3 (s : State) (key v n len : Nat) (runs : List (Nat × Nat)) : State :=
  match NMap.get? s.objects key with
  | some o =>
    let e := (key, v, n)
    let q := stackQueue (o.stackOf n ((o.diesOf n).headD 0))
    let s0 := s.request q (key / 2 ^ 32) len
    let s1 := if s.t2cache.contains e then s0
      else runs.foldl (fun (a : State) r => (a.bulkDma (key / 2 ^ 32) false (o.hostSlot v n + r.1) r.2).request q (key / 2 ^ 32) r.2) s0
    ({ s1 with t2cache := s1.t2cache.filter (· != e) ++ [e] }).shrinkCache (key / 2 ^ 32) ((o.diesOf n).headD 0)
  | none => s

/-- Lines of a slot pass through the shared cache of every die that homes a copy (R327, R349); those of a T1-home object are pinned (R328). -/
def State.touchSlot (s : State) (part : Nat) (o : Obj) (v n off len : Nat) (write : Bool) : State :=
  if o.pages.isEmpty then s
  else
    (o.diesOf n).foldl (fun (a : State) d => (List.range (ceilDiv (off % 128 + len) 128)).foldl (fun (b : State) i =>
      match o.addrOf v n d (off / 128 * 128 + 128 * i) with
      | some x => b.touchLine part (x / 128) write (decide (o.tier = 1))
      | none => b) a) s

/-- Bytes written to a slot pass through the memory of the object's tier, and copies of the slot are invalid (R329, R349). -/
def State.moved (s : State) (key v n off len : Nat) : State :=
  match NMap.get? s.objects key with
  | some o =>
    let s1 := s.dropCopies key v n
    if o.tier = 3 then s1.cacheT3 key v n len [] else s1.touchSlot (key / 2 ^ 32) o v n off len true
  | none => s

/-- A new object whose slots have all been written: its lines pass through the caches (R327), pinned for a T1 home (R328). -/
def State.filled (s : State) (key : Nat) : State :=
  match NMap.get? s.objects key with
  | some o =>
    (List.range o.versions).foldl (fun (a : State) v => (List.range o.count).foldl (fun (b : State) n => b.moved key v n 0 o.slot) a) s
  | none => s

/-- A read of an ingot or chunk passes through the memory of the object's tier: the runs of bytes that it moves, if any (R263, R349, R351). -/
def State.readMoved (s : State) (key v n : Nat) : State :=
  match NMap.get? s.objects key with
  | some o =>
    let runs := o.fetchRuns v n
    if runs.isEmpty then s
    else if o.tier = 3 then s.cacheT3 key v n (runs.map (·.2)).sum runs
    else runs.foldl (fun (a : State) r => a.touchSlot (key / 2 ^ 32) o v n r.1 r.2 false) s
  | none => s

/-! ### Writes of a command -/

/-- Write a whole ingot into the inactive version of an object for a command (R356, R357). -/
def State.putIngot (s : State) (id key n : Nat) (slot : Bytes) (ext : Option Bytes) : State :=
  match NMap.get? s.objects key, s.cmd? id with
  | some o, some c =>
    let v := 1 - slotIn o.vmap n
    let o1 := { (o.putSlot v n slot) with extended := o.extended.filter (fun e => e != (v, n)) }
    let o2 := match ext with | some e => o1.putExt v n e | none => o1
    ((s.setObj key o2).setCmd id (c.note key n)).moved key v n 0 o.slot
  | _, _ => s

/-- Write bytes of one chunk of a byte object for a command: a chunk not yet written is first copied into the inactive slot (R357). -/
def State.putChunk (s : State) (id key n off : Nat) (b : Bytes) : State :=
  match NMap.get? s.objects key, s.cmd? id with
  | some o, some c =>
    let cur := slotIn o.vmap n
    let o1 := if c.wrote key n then o else o.copySlot cur (1 - cur) n
    ((s.setObj key (o1.putBytes (1 - cur) off b)).setCmd id (c.note key n)).moved key (1 - cur) n (off % 65536) b.length
  | _, _ => s

/-- Write a run of bytes into a byte object for a command, chunk by chunk. -/
def State.putObjBytes (s : State) (id key : Nat) : Nat → Nat → Bytes → State
  | 0, _, _ => s
  | fuel + 1, off, b =>
    match b with
    | [] => s
    | _ =>
      let n := off / 65536
      let room := (n + 1) * 65536 - off
      (s.putChunk id key n off (b.take room)).putObjBytes id key fuel (off + room) (b.drop room)

/-- Write a run of bytes into a byte object for a command. -/
def State.putObj (s : State) (id key off : Nat) (b : Bytes) : State := s.putObjBytes id key (b.length / 65536 + 2) off b

/-- Write a reference slot of a byte object for a command: its bytes, and its extension when it has one (R169). -/
def State.putRef (s : State) (id key off : Nat) (b : Bytes) (ext : Option Bytes) : State :=
  let s1 := s.putObj id key off b
  match NMap.get? s1.objects key with
  | some o => s1.setObj key (o.putRefExt (1 - slotIn o.vmap (off / 65536)) off ext)
  | none => s1

/-! ### OBJECT_REGISTER and OBJECT_RELEASE -/

/-- Whether a format is one of Table 3-1. -/
def fmtKnown (f : Nat) : Bool := (decide (0x01 ≤ f) && decide (f ≤ 0x0C)) || (decide (0x10 ≤ f) && decide (f ≤ 0x12))

/-- Formats that SPARSE allows (R350). -/
def sparseFmt (f : Nat) : Bool := f == 1 || f == 2 || (decide (5 ≤ f) && decide (f ≤ 9)) || f == 0x10 || f == 0x11

/-- Range checks of OBJECT_REGISTER (Table 15-2). -/
def registerRange (s : State) (owner : Nat) (d : Bytes) : Option Nat :=
  let kind := fld d 20 1
  let fmt := fld d 21 1
  let tensor := decide (kind = 0)
  let tier := fld d 23 1
  let pl := fld d 24 1
  let die := fld d 25 1
  let onDie := match NMap.get? s.parts owner with | some p => p.onDie die | none => false
  let rows := fld d 28 4
  let cols := fld d 32 4
  let batch := fld d 36 4
  firstBad
    [ (16, decide (fld d 16 4 = 0)), (20, decide (1 < kind)),
      (21, if tensor then !(fmtKnown fmt) else decide (fmt ≠ 0)),
      (22, decide (4 ≤ fld d 22 1) || (if tensor then bitOf (fld d 22 1) 0 && !(sparseFmt fmt) else decide (fld d 22 1 ≠ 0))),
      (23, decide (tier = 0) || decide (3 < tier)), (24, decide (2 < pl) || (decide (tier = 1) && decide (pl = 2))),
      (25, if pl = 1 then !onDie else decide (die ≠ 0)), (26, decide (2 < fld d 26 1)), (27, decide (fld d 27 1 ≠ 0)),
      (28, if tensor then decide (rows = 0) || decide (2 ^ 27 < rows) else decide (rows ≠ 0)),
      (32, if tensor then decide (cols = 0) || decide (2 ^ 27 < cols) else decide (cols ≠ 0)),
      (36, if tensor then decide (batch = 0) || decide (65536 < batch)
             || decide (2 ^ 32 - 1 < batch * ceilDiv rows 128 * ceilDiv cols 128) else decide (batch ≠ 0)),
      (40, if tensor then decide (fld d 40 8 ≠ 0) else decide (fld d 40 8 = 0) || decide (2 ^ 40 < fld d 40 8)),
      (56, if tier = 3 then decide (fld d 56 8 % 4096 ≠ 0) else decide (fld d 56 8 ≠ 0)), (64, !(zeros d 64 128)) ]

/-- The object a registration makes. -/
def registerObj (p : Part) (d : Bytes) : Obj :=
  { kind := fld d 20 1, fmt := fld d 21 1, sparse := bitOf (fld d 22 1) 0, axis := b2n (bitOf (fld d 22 1) 1), tier := fld d 23 1,
    placement := fld d 24 1, die := fld d 25 1, fallback := fld d 26 1, rows := fld d 28 4, cols := fld d 32 4, batch := fld d 36 4,
    bytes := fld d 40 8, gradMask := fld d 48 4, slack := fld d 52 2, stallLimit := fld d 54 2, hostBase := fld d 56 8,
    dies := p.dieList }

/-- OBJECT_REGISTER (R350, R351): lines of the new pages that were poisoned stay so (R338); a mask that names no byte object of the partition fails E_BAD_OBJECT; a handle in use E_OBJECT_POLICY 0x0003; storage that does not fit E_QUOTA. -/
def execObjectRegister (cmd : Nat) (s : State) : Host.Outcome State Fault Refusal :=
  .next (control 0x47 (fun _ => true) (fun c s =>
    s.settle cmd (
      match NMap.get? s.parts c.owner with
      | none => .error (E_BAD_OBJECT, 0)
      | some p =>
        let o := registerObj p c.desc
        let h := c.f 16 4
        if o.gradMask ≠ 0 ∧ (s.resolve c.owner o.gradMask).isNone then .error (E_BAD_OBJECT, 0)
        else if s.handleUsed c.owner h then .error (E_OBJECT_POLICY, 3)
        else if !(s.fits c.owner o) then .error (E_QUOTA, 0)
        else
          let m := s.mapped c.owner o
          .ok (s.setObj (objKey c.owner h) { m with poison := s.foundPoison m }, OK, 0))) cmd s)

/-- Whether a native line lies in an object's pages. -/
def Obj.holdsLine (o : Obj) (line : Nat) : Bool := (offsetIn (line * 128 / 2 ^ 36) (line * 128 % 2 ^ 36) o.pages 0).isSome

/-- What caches hold of objects that go away: their T2 cache slots, their pins and their copies in quire stores are freed (R328, R349, R358), and the poison of their pages stays with the stacks (R338). -/
def State.forget (s : State) (gone : Nat → Bool) : State :=
  let os := s.objects.filter (fun o => gone o.1)
  let s1 := os.foldl (fun (a : State) o => a.leavePages o.2) s
  { s1 with t2cache := s1.t2cache.filter (fun e => !(gone e.1)),
            dies := s1.dies.map (fun d =>
             let x := os.foldl (fun (y : DieState) o => y.unpin o.2.holdsLine) d
             { x with stores := x.stores.map (fun cs => cs.filter (fun c => !(gone c.key))) }) }

/-- OBJECT_RELEASE (R359, R434): held until no other admitted command names the object; a bound mask fails E_OBJECT_POLICY 0x0002, a model object E_MODEL_STATE 0x0005; the precision reserve it holds leaves its layers' entries (R117). -/
def execObjectRelease (cmd : Nat) (s : State) : Host.Outcome State Fault Refusal :=
  .next (control 0x48 (fun _ => true) (fun c s =>
    match s.obj? c.owner (c.f 16 4) with
    | none => s.settle cmd (.error (E_BAD_OBJECT, 0))
    | some (k, o) =>
      if s.cmds.any (fun x => x.1 != cmd && (s.named x.2).contains k) then s
      else if o.model || decide (k ≠ objKey c.owner (c.f 16 4)) then s.settle cmd (.error (E_MODEL_STATE, 5))
      else if s.objects.any (fun x => x.1 / 2 ^ 32 == c.owner && x.2.gradMask == c.f 16 4) then s.settle cmd (.error (E_OBJECT_POLICY, 2))
      else
        let freed := o.draw.foldl (fun (m : NMap Temper) (d : Nat × Nat) =>
          NMap.modify m (layerKey c.owner d.1) (fun t => { t with reserveKib := t.reserveKib - d.2 / 1024 })) s.tempers
        s.settle cmd (.ok ({ s.forget (fun x => x == k) with objects := NMap.erase s.objects k, tempers := freed }, OK, 0))) cmd s)

/-- Whether the T2 cache needs the space of a cached slot: the cache exceeds its space, and no dirty slot of it was used less recently (R358). -/
def State.spaceNeeds (s : State) (key n : Nat) : Bool :=
  match NMap.get? s.objects key with
  | some o =>
    let part := key / 2 ^ 32
    let d := (o.diesOf n).headD 0
    let dirtyAt := fun (e : Nat × Nat × Nat) =>
      match NMap.get? s.objects e.1 with | some x => x.dirty.contains e.2.2 && slotIn x.vmap e.2.2 == e.2.1 | none => false
    decide (s.cacheRoom part d < s.cacheUse part d) &&
      ((s.t2cache.filter (fun e => s.cachedOn part d e && dirtyAt e)).head? == some (key, slotIn o.vmap n, n))
  | none => false

/-- T3_WRITE_BACK (R358): one dirty ingot or chunk of a T3-home object goes to host memory, when the PCI Express link has been idle for 10 µs, 1,000 ticks of die 0, or when the T2 cache needs its space, which is then free. -/
def execT3WriteBack (part handle ingot : Nat) (s : State) : Host.Outcome State Fault Refusal :=
  let key := objKey part handle
  match NMap.get? s.objects key with
  | some o =>
    if s.linkUp && decide (o.tier = 3) && o.dirty.contains ingot then
      if s.spaceNeeds key ingot then .next (s.evict (key, slotIn o.vmap ingot, ingot))
      else if decide (1000 ≤ (s.counter 0 - s.lastDma).toNat) then .next (s.writeBack key ingot)
      else .next s
    else .next s
  | none => .next s

/-- Write back every dirty ingot of every T3-home object (R358, R526 step 3). -/
def State.writeBackAll (s : State) : State :=
  s.objects.foldl (fun a x => if x.2.tier = 3 then x.2.dirty.foldl (fun (b : State) n => b.writeBack x.1 n) a else a) s

end Sys2Proof.Machine
end

