-- ==== Sys2Proof/Machine/Ingot.lean ====
section
/-! DEFINITION. Ingots: the slot regions of Table 15-4, reading elements of every format (R72, R83 to R86, R105, R132, R360 to R363), and writing an output ingot with its promoted and degraded blocks (R102 to R108, R161). -/

namespace Sys2Proof.Machine

/-- Why an element of an operand cannot be used (R86, R97, R133). -/
inductive Bad where
  | element | scale | mxNan | mxRange | nibble
  deriving DecidableEq, Repr

/-- The element code at a linear position of `w` bits from byte `base` on (R72). -/
def codeAt (b : Bytes) (base w pos : Nat) : Nat :=
  let bit := w * pos
  let n := fld b (base + bit / 8) (if w = 6 then 2 else (w + 7) / 8)
  n / 2 ^ (bit % 8) % 2 ^ w

/-- The block index of an element (R105, R360). -/
def blockIndex (fmt r c : Nat) : Nat := r * (128 / fmtBlock fmt) + c / fmtBlock fmt

/-- The side-table slot of a promoted block of an FP4 ingot, if the block is promoted (R105). -/
def sideSlot (b : Bytes) (blk : Nat) : Option Nat :=
  (List.range 64).find? (fun j => let e := fld b (9408 + 2 * j) 2; bitOf e 15 && decide (e % 1024 = blk))

/-- The code of a stored element, dense or 2:4; none for a pruned position, an error for a bad nibble (R132, R133, R361). -/
def storedCode (h : Header) (b : Bytes) (r c : Nat) : Except Bad (Option Nat) :=
  let w := fmtBits h.fmt
  if !h.sparse then .ok (some (codeAt b 64 w (128 * r + c)))
  else
    let g := if h.axis = 0 then 32 * r + c / 4 else 128 * (r / 4) + c
    let p := if h.axis = 0 then c % 4 else r % 4
    let nib := codeAt b (64 + 1024 * w) 4 g
    let p1 := nib % 4
    let p2 := nib / 4
    if p2 ≤ p1 then .error .nibble
    else if p = p1 then .ok (some (codeAt b 64 w (2 * g)))
    else if p = p2 then .ok (some (codeAt b 64 w (2 * g + 1)))
    else .ok none

/-- The scale byte of an element's block. -/
def scaleOf (h : Header) (b : Bytes) (r c : Nat) : Nat := fld b (scaleBase h.fmt + blockIndex h.fmt r c) 1

/-- k of R86: the exponent an E8M0 scale byte stands for. -/
def mxExp (mxOff : Int) (sc : Nat) : Int := (sc : Int) - 127 - mxOff

/-- Why a block scale cannot be used (R86, R97). Strict mode lets an E4M3 scale pass whatever its code. -/
def scaleBad (h : Header) (mxOff : Int) (strict : Bool) (sc : Nat) : Option Bad :=
  if fmtBlock h.fmt = 0 then none
  else if fmtMx h.fmt then
    if sc = 0xFF then some .mxNan else if mxExp mxOff sc < -9 ∨ 8 < mxExp mxOff sc then some .mxRange else none
  else if decide (0x7F ≤ sc) && !strict then some .scale
  else none

/-- A value times a scale: exact when both are finite, else what strict mode propagates (R97). -/
def scaledBy (v sc : Fp) : Fp := if v.finite && sc.finite then Fp.ofRat (v.rat * sc.rat) else mul32 v sc

/-- The scaled value of a stored element of a block format. Strict mode reads a scale byte R97 does not fail there as an E4M3 code, sign and NaN included: DESIGN CHOICE (log entry 89). -/
def blockElement (h : Header) (b : Bytes) (mxOff : Int) (strict : Bool) (r c : Nat) (code : Option Nat) : Except Bad Fp :=
  let blk := blockIndex h.fmt r c
  let sc := scaleOf h b r c
  let zeroed := bitOf (fld b (bitmapBase h.fmt + blk / 8) 1) (blk % 8)
  let stored := match code with | some k => codeValue h.fmt k | none => Fp.zero
  let v := match (if h.fmt = 0x01 then sideSlot b blk else none) with
    | some j => e4m3.decode (fld b (9536 + 16 * j + c % 16) 1)
    | none => if h.fmt = 0x04 then (match code with | some k => Fp.ofRat ((k : Rat) - (fld b (9408 + blk) 1 : Nat)) | none => Fp.zero) else stored
  if !v.finite && !strict then .error .element
  else
    match scaleBad h mxOff strict sc with
    | some e => .error e
    | none =>
      if zeroed then .ok Fp.zero
      else .ok (scaledBy v (if fmtMx h.fmt then Fp.ofRat (pow2 (mxExp mxOff sc)) else e4m3.decode sc))

/-- A value without the sign of zero: negative zero is read as zero in every format (R76). -/
def Fp.unsigned0 (v : Fp) : Fp := match v with | .fin _ m => if m = 0 then Fp.zero else v | _ => v

/-- Whether one of the two stored codes of a 2:4 group is no finite value: a fetch of the group reads both, whatever its nibble holds (R97, R145). -/
def groupBad (h : Header) (b : Bytes) (r c : Nat) : Bool :=
  let g := if h.axis = 0 then 32 * r + c / 4 else 128 * (r / 4) + c
  [2 * g, 2 * g + 1].any (fun k =>
    let code := codeAt b 64 (fmtBits h.fmt) k
    !(if h.fmt = 0x03 then e4m3.decode (fld b (9408 + code) 1) else codeValue h.fmt code).finite)

/-- One element of a slot that holds element bytes, whatever its bitmap. `strict` keeps infinities and NaNs (R95, R97). A bad scale is carried before a bad nibble (R145). -/
def storedElement (b : Bytes) (mxOff : Int) (strict : Bool) (r c : Nat) : Except Bad Fp :=
  let h := headerOf b
  match storedCode h b r c with
  | .error e =>
    if !strict && groupBad h b r c then .error .element else .error ((scaleBad h mxOff strict (scaleOf h b r c)).getD e)
  | .ok code =>
    if fmtWide h.fmt then
      let v := match code with | some k => codeValue h.fmt k | none => Fp.zero
      if strict || v.finite then .ok v.unsigned0 else .error .element
    else if h.fmt = 0x03 then
      let v := match code with | some k => e4m3.decode (fld b (9408 + k) 1) | none => Fp.zero
      if strict || v.finite then .ok v.unsigned0 else .error .element
    else blockElement h b mxOff strict r c code

/-- One element of an ingot as the quire expands it. An unwritten or zero ingot holds zeros; so does an ingot whose bitmap is all ones, of which the scales alone are judged (R97, R263). That the scale bytes of a written ingot with ZERO_INGOT are not judged is a DESIGN CHOICE (log entry 115). -/
def element (b : Bytes) (mxOff : Int) (strict : Bool) (r c : Nat) : Except Bad Fp :=
  let h := headerOf b
  if unwritten b || h.zero then .ok Fp.zero
  else if bitmapFull h.fmt b then (match scaleBad h mxOff strict (scaleOf h b r c) with | some e => .error e | none => .ok Fp.zero)
  else storedElement b mxOff strict r c

/-- Whether a 2:4 ingot holds a nibble whose first position is not lower than its second: every nibble of a fetched ingot is fetched with its header, so padding groups count too (R133, R139, R160). -/
def badNibble (b : Bytes) : Bool :=
  let h := headerOf b
  h.sparse && !(unwritten b) && !(elementless h b) &&
    (List.range 4096).any (fun g => let nib := codeAt b (64 + 1024 * fmtBits h.fmt) 4 g; decide (nib / 4 ≤ nib % 4))

/-- The number of promoted blocks an ingot holds. -/
def promotedBlocks (b : Bytes) : Nat := if unwritten b then 0 else (headerOf b).promoted

/-- The bytes of an object's ingot as a reader sees them: slot, and extension when the header names one (R363). -/
def Obj.ingot (o : Obj) (v n : Nat) : Bytes :=
  let b := o.readSlot v n
  if (headerOf b).extended then b ++ o.readExt v n else b

/-! ### Packing (R72) -/

/-- The bytes of an ingot that a fetch takes, the others zero (R263). -/
def Obj.fetchBytes (o : Obj) (v n : Nat) : Bytes :=
  let b := o.ingot v n
  if o.kind ≠ 0 ∨ !(elementless (headerOf b) b) then b
  else (o.fetchRuns v n).foldl (fun (a : Bytes) r => Machine.putBytes a r.1 ((b.drop r.1).take r.2)) (List.replicate b.length 0)

/-- Pack codes of `w` bits from the least significant bit. -/
def packCodes (w : Nat) : List Nat → Bytes
  | [] => []
  | [a] => leBytes ((w + 7) / 8) a
  | [a, b] => if w = 4 then leBytes 1 (a + 16 * b) else leBytes ((2 * w + 7) / 8) (a + 2 ^ w * b)
  | [a, b, c] => if w = 4 then leBytes 1 (a + 16 * b) ++ leBytes 1 c else leBytes ((3 * w + 7) / 8) (a + 2 ^ w * b + 2 ^ (2 * w) * c)
  | a :: b :: c :: d :: rest =>
    leBytes (4 * w / 8) (a + 2 ^ w * b + 2 ^ (2 * w) * c + 2 ^ (3 * w) * d) ++ packCodes w rest

/-- Pack flags, eight to a byte. -/
def packBits (n : Nat) (f : Nat → Bool) : Bytes :=
  (List.range n).map (fun k => BitVec.ofNat 8 (((List.range 8).map (fun i => if f (8 * k + i) then 2 ^ i else 0)).sum))

/-- Cut a row into blocks of B. -/
def blocksOf {α : Type} (B : Nat) (row : List α) : List (List α) :=
  (List.range (128 / B)).map (fun k => (row.drop (k * B)).take B)

/-! ### Writing an ingot -/

/-- A promotion candidate: block index, whether it meets R80, its lost count and amax. -/
structure Candidate where
  blk : Nat
  tooBig : Bool
  lost : Nat
  amax : Rat
  deriving DecidableEq, Repr

/-- Whether candidate `a` ranks before `b` (R103). -/
def Candidate.before (a b : Candidate) : Bool :=
  if a.tooBig != b.tooBig then a.tooBig
  else if a.lost ≠ b.lost then decide (b.lost < a.lost)
  else if a.amax ≠ b.amax then decide (b.amax < a.amax)
  else decide (a.blk < b.blk)

/-- Insert a candidate by rank. -/
def rankIn (c : Candidate) : List Candidate → List Candidate
  | [] => [c]
  | d :: ds => if c.before d then c :: d :: ds else d :: rankIn c ds

/-- The promoted and the excess blocks of an FP4 ingot (R102, R103, R108). -/
def promotion (minLost maxBlocks : Nat) (blocks : List (List (Option Rat))) : List Nat × List Nat :=
  let cands := blocks.zipIdx.filterMap (fun (b : List (Option Rat) × Nat) =>
    let q := lostCount b.1
    let tooBig := overScale 0x01 b.1
    if tooBig || (decide (minLost ≠ 0) && decide (minLost ≤ q)) then
      some { blk := b.2, tooBig := tooBig, lost := q, amax := blockMax b.1 : Candidate }
    else none)
  let ranked := (cands.foldl (fun acc c => rankIn c acc) []).map (·.blk)
  let n := min maxBlocks 64
  (ranked.take n, ranked.drop n)

/-- What an output ingot is written with, and its counts. -/
structure Output where
  slot : Bytes
  ext : Option Bytes
  promoted : Nat
  degraded : Nat
  finite : Bool
  deriving DecidableEq, Repr

/-- An output ingot of a wide format (R87, R95, R98): `rows` holds the values, `none` masked. -/
def writeWide (h : Header) (rows : List (List (Option Fp))) (strict : Bool) : Output :=
  let lay := (fmtLayout h.fmt).getD fp32
  let one := fun (x : Option Fp) =>
    match x with
    | none => some 0
    | some v =>
      match v with
      | .fin neg m =>
        let n := lay.nearest m
        if lay.top < n then none
        else some (n + (if neg && (decide (n ≠ 0) || strict) then 2 ^ (lay.eb + lay.mb) else 0))
      | _ => none
  let codes := rows.flatten.map one
  { slot := fixLen (slotSize h.fmt) (h.bytes ++ packCodes (fmtBits h.fmt) (codes.map (·.getD 0)))
    ext := none, promoted := 0, degraded := 0, finite := codes.all Option.isSome }

/-- An output ingot of a block-scaled format: promotion for FP4, the scale array, bitmap and header (R78 to R82, R102 to R106, R161). `sr` gives the draw of element (r, 0) of a row. `fp4Slot` says the object's slot is an FP4 one, so an FP8 ingot takes an extension (R363). A promoted block whose codes all round to 0 gets scale 0x00 (R79) with its zero bit clear: DEDUCED (log entry 117). -/
def writeBlocks (h : Header) (minLost maxBlocks : Nat) (rows : List (List (Option Rat))) (sr : Nat → Option (Nat × Nat × Nat)) (fp4Slot : Bool) : Output :=
  let B := fmtBlock h.fmt
  let per := 128 / B
  let blocks := (rows.map (blocksOf B)).flatten
  let (prom, excess) := if h.fmt = 0x01 then promotion minLost maxBlocks blocks else ([], [])
  let srOf := fun (blk : Nat) => (sr (blk / per)).map (fun k => (k.1, k.2.1, k.2.2 + blk % per * B))
  let main := blocks.zipIdx.map (fun (b : List (Option Rat) × Nat) =>
    if prom.contains b.2 then
      let q := quantBlock 0x07 b.1 (srOf b.2)
      { q with codes := List.replicate B 0, zero := false }
    else quantBlock h.fmt b.1 (srOf b.2))
  let side := blocks.zipIdx.filterMap (fun (b : List (Option Rat) × Nat) =>
    if prom.contains b.2 then some (b.2, (quantBlock 0x07 b.1 (srOf b.2)).codes) else none)
  let deg := main.zipIdx.filterMap (fun (q : QBlock × Nat) => if q.1.degraded || excess.contains q.2 then some q.2 else none)
  let allZero := main.all (·.zero)
  let ext := decide (h.fmt = 0x07) && fp4Slot
  let hdr : Header :=
    { h with zero := allZero, extended := ext, promoted := prom.length, degraded := deg.length,
             rows := ((List.range 128).map (fun r => if deg.any (fun k => k / per == r) then 2 ^ r else 0)).sum }
  let zs := main.map (·.zero)
  let body := hdr.bytes ++ packCodes (fmtBits h.fmt) (main.map (·.codes)).flatten
    ++ main.map (fun q => BitVec.ofNat 8 q.scale) ++ packBits (16 * per) (fun k => zs.getD k false)
  let full :=
    if h.fmt = 0x01 then
      body ++ (side.map (fun e => leBytes 2 (e.1 + 0x8000))).flatten ++ List.replicate (2 * (64 - side.length)) 0
        ++ (side.map (fun e => e.2.map (fun c => BitVec.ofNat 8 c))).flatten
    else body
  let out := fixLen (slotSize h.fmt) full
  { slot := if ext then out.take 12288 else out, ext := if ext then some (out.drop 12288) else none,
    promoted := prom.length, degraded := deg.length, finite := true }

/-- A zero ingot of a format: header with ZERO_INGOT and every zero-block bit set (R351, R372). -/
def zeroIngot (h : Header) : Bytes :=
  let n := bitmapBytes h.fmt
  let b := fixLen (slotSize h.fmt) ({ h with zero := true }).bytes
  if n = 0 then b else putBytes b (bitmapBase h.fmt) (List.replicate n 0xFF)

/-! ### Ingots of which some rows are kept -/

/-- The promotion entries of an FP4 ingot in the rows a test picks: block and its 16 bytes (R105). -/
def sideEntries (b : Bytes) (pick : Nat → Bool) : List (Nat × Bytes) :=
  (List.range 64).filterMap (fun j =>
    let e := fld b (9408 + 2 * j) 2
    if bitOf e 15 && pick (e % 1024 / 8) then some (e % 1024, (b.drop (9536 + 16 * j)).take 16) else none)

/-- The degraded blocks of the rows of an ingot that are kept. The header counts blocks over the whole ingot (Table 4-2): where both kept and other rows are degraded, the spec gives the share of neither, and it is a free value between its bounds (log entry 97). -/
def keptDegraded (h : Header) (keep : Nat → Bool) : Nat :=
  let rows := fun (b : Bool) => (List.range 128).countP (fun r => bitOf h.rows r && keep r == b)
  if rows true = 0 then 0
  else if rows false = 0 then h.degraded
  else
    let per := 128 / fmtBlock h.fmt
    let lo := max (rows true) (h.degraded - per * rows false)
    let hi := min (per * rows true) (h.degraded - rows false)
    lo + Config.keptDegraded h.rows h.degraded % (hi - lo + 1)

/-- Keep some rows of an old dense ingot in a new one of the same format, bit for bit: their elements, scales, zero-block bits, promoted blocks and degraded marks. -/
def keepRows (fmt : Nat) (old new : Bytes) (keep : Nat → Bool) : Bytes :=
  let rowLen := 16 * fmtBits fmt
  let pick := fun (base len : Nat) => (List.range 128).flatMap (fun r => ((if keep r then old else new).drop (base + r * len)).take len)
  let elems := putBytes new 64 (pick 64 rowLen)
  if fmtBlock fmt = 0 then elems
  else
    let per := 128 / fmtBlock fmt
    let b1 := putBytes elems (scaleBase fmt) (pick (scaleBase fmt) per)
    let bit := fun (k : Nat) => bitOf (fld (if keep (k / per) then old else new) (bitmapBase fmt + k / 8) 1) (k % 8)
    let b2 := putBytes b1 (bitmapBase fmt) (packBits (16 * per) bit)
    let ho := headerOf old
    let hn := headerOf new
    let rows := ((List.range 128).map (fun r => if (if keep r then bitOf ho.rows r else bitOf hn.rows r) then 2 ^ r else 0)).sum
    let prom := if fmt = 0x01 then sideEntries old keep ++ sideEntries new (fun r => !(keep r)) else []
    let sorted := prom.foldl (fun (m : NMap Bytes) p => NMap.set m p.1 p.2) []
    let b3 := if fmt = 0x01 then
        putBytes b2 9408 ((sorted.map (fun e => leBytes 2 (e.1 + 0x8000))).flatten ++ List.replicate (2 * (64 - sorted.length)) 0
          ++ (sorted.map (·.2)).flatten ++ List.replicate (16 * (64 - sorted.length)) 0)
      else b2
    putBytes b3 0 (({ hn with zero := (List.range (128 * per)).all bit, promoted := sorted.length,
                              degraded := keptDegraded ho keep + hn.degraded, rows := rows } : Header).bytes)

end Sys2Proof.Machine
end

