-- ==== Sys2Proof/Machine/Partitions.lean ====
section
/-! DEFINITION. Rings, partitions and settings as the admin commands change them; ABORT; function-level reset of a VF; shares and regulators (R33, R39, R40, R439 to R458). -/

namespace Sys2Proof.Machine

/-! ### RING_CREATE and RING_DESTROY -/

/-- Range checks of RING_CREATE (Table 2-3), the RING_ID in use included (R39). -/
def ringCreateRange (s : State) (owner : Nat) (d : Bytes) : Option Nat :=
  let id := fld d 16 2
  let kind := fld d 18 1
  let sub := decide (kind = 0)
  let log2 := fld d 19 1
  let die := fld d 21 1
  let used := if kind = 0 then (s.sub? owner id).isSome else (s.comp? owner id).isSome
  firstBad
    [ (16, decide (id = 0) || decide (1023 < id) || (decide (kind ≤ 1) && used)), (18, decide (1 < kind)),
      (19, decide (log2 < 6) || decide ((if sub then 16 else 18) < log2)),
      (20, if sub then decide (1 < fld d 20 1) else decide (fld d 20 1 ≠ 0)),
      (21, if sub then decide (7 < die) && decide (die ≠ 0xFF) else decide (die ≠ 0)),
      (22, if sub then (s.comp? owner (fld d 22 2)).isNone || decide (1023 < fld d 22 2) else decide (fld d 22 2 ≠ 0)),
      (24, decide (fld d 24 8 % 4096 ≠ 0)),
      (32, if sub then decide (fld d 32 8 % 8 ≠ 0) else decide (fld d 32 8 ≠ 0)),
      (40, if sub then decide (fld d 40 2 ≠ 0) else decide (fld d 40 2 = 0) || decide (lastVector (s.functionOf owner) < fld d 40 2)),
      (42, if sub then decide (fld d 42 2 ≠ 0) else decide (fld d 42 2 = 0) || decide (256 < fld d 42 2)),
      (44, if sub then decide (fld d 44 2 ≠ 0) else false), (46, !(zeros d 46 128)) ]

/-- Create a ring (R39). A completion ring counts on the counter of the partition's lowest die. -/
def State.createRing (s : State) (owner : Nat) (p : Part) (d : Bytes) : State :=
  let id := fld d 16 2
  if fld d 18 1 = 0 then
    s.setSub owner id { log2 := fld d 19 1, concurrent := decide (fld d 20 1 = 1), home := homeDie p (fld d 21 1),
                        defaultCq := fld d 22 2, base := fld d 24 8, headWb := fld d 32 8 }
  else
    s.setComp owner id { log2 := fld d 19 1, home := p.firstDie, base := fld d 24 8, vector := fld d 40 2,
                         modCount := fld d 42 2, modTime := fld d 44 2 }

/-- RING_CREATE (R39). -/
def execRingCreate (cmd : Nat) (s : State) : Host.Outcome State Fault Refusal :=
  .next (control 0x42 (fun _ => true) (fun c s =>
    s.settle cmd (
      match ringCreateRange s c.owner c.desc, NMap.get? s.parts c.owner with
      | some n, _ => .error (E_BAD_DESCRIPTOR, n)
      | none, some p => .ok (s.createRing c.owner p c.desc, OK, 0)
      | none, none => .error (E_PART_STATE, 5))) cmd s)

/-- Range checks of RING_DESTROY (R40). That bytes 19 to 127, which R40 gives to no field, have to be zero is DEDUCED (log entry 22). -/
def ringDestroyRange (s : State) (owner : Nat) (d : Bytes) : Option Nat :=
  let id := fld d 16 2
  let kind := fld d 18 1
  let isDefault := (s.subs.filter (fun r => r.1 / 1024 == owner)).any (fun r => r.2.defaultCq == id)
  firstBad
    [ (16, decide (id = 0) || decide (1023 < id) ||
        (if kind = 0 then (s.sub? owner id).isNone else decide (kind = 1) && ((s.comp? owner id).isNone || isDefault))),
      (18, decide (1 < kind)), (19, !(zeros d 19 128)) ]

/-- RING_DESTROY (R40): the ring stops at once; the destroy completes after every admitted command of a submission ring has its record, or no admitted command holds a slot of a completion ring. -/
def execRingDestroy (cmd : Nat) (s : State) : Host.Outcome State Fault Refusal :=
  .next (control 0x43 (fun _ => true) (fun c s =>
    match (if c.phase = .executed then none else ringDestroyRange s c.owner c.desc) with
    | some n => s.settle cmd (.error (E_BAD_DESCRIPTOR, n))
    | none =>
      let id := c.f 16 2
      let key := ringKey c.owner id
      let s1 := s.setCmd cmd { c with phase := .executed }
      if c.f 18 1 = 0 then
        let s2 := { s1 with subs := NMap.modify s1.subs key (fun r => { r with stopped := true }) }
        if (s2.ringCmds c.owner id).isEmpty then ({ s2 with subs := NMap.erase s2.subs key }).finish cmd OK 0 else s2
      else
        let s2 := { s1 with comps := NMap.modify s1.comps key (fun r => { r with stopped := true }) }
        match s2.comp? c.owner id with
        | some r => if r.reserved = 0 then ({ s2 with comps := NMap.erase s2.comps key }).finish cmd OK 0 else s2
        | none => s2) cmd s)

/-! ### Commands that end without having been admitted -/

/-- The completion ring of a descriptor: CQ, or the DEFAULT_CQ where CQ is 0xFFFF or names no ring (Table 2-6, R46). -/
def State.cqOf (s : State) (owner : Nat) (r : SubRing) (d : Bytes) : Nat :=
  if dCq d ≠ 0xFFFF ∧ (s.comp? owner (dCq d)).isSome then dCq d else r.defaultCq

/-- Whether a completion ring has a slot for one more command (R50). -/
def State.slotFree (s : State) (owner cq : Nat) : Bool :=
  match s.comp? owner cq with
  | some r => decide (0 < r.free) && !r.stopped
  | none => false

/-- Take a fetched descriptor into the admitted commands and reserve its slot (R50). -/
def State.admitCmd (s : State) (owner ring : Nat) (r : SubRing) (x : Fetched) : State :=
  let cq := s.cqOf owner r x.desc
  let now := s.counter r.home
  let c : Cmd := { owner := owner, ring := ring, order := x.order, desc := x.desc, cq := cq, home := r.home, admitAt := now,
                   waitFrom := now, waitQ := now - x.at_ }
  let s1 := s.setSub owner ring { r with fetched := r.fetched.filter (fun y => y.order != x.order) }
  let s2 := { s1 with comps := NMap.modify s1.comps (ringKey owner cq) (fun q => { q with reserved := q.reserved + 1 }) }
  { s2 with cmds := NMap.set s2.cmds s2.nextCmd c, nextCmd := s2.nextCmd + 1 }

/-- Take a fetched descriptor and complete it at once with an error (R46, R453). -/
def State.failFetched (s : State) (owner ring : Nat) (r : SubRing) (x : Fetched) (status detail : Nat) : State :=
  (s.admitCmd owner ring r x).failCmd s.nextCmd status detail

/-! ### ABORT -/

/-- The earliest command of a ring, in ring order, that carries a TAG and has no record: an admitted one, or a fetched one; ABORTs are never targets (R452). -/
def State.abortTarget (s : State) (owner ring tag : Nat) : Option (Nat ⊕ Fetched) :=
  let adm := (s.ringCmds owner ring).filter (fun x => dTag x.2.desc == tag && x.2.opcode != 0x0D)
  let best := adm.foldl (fun (a : Option (Nat × Cmd)) x =>
    match a with | none => some x | some y => if x.2.order < y.2.order then some x else a) none
  match best, s.sub? owner ring with
  | some x, _ => some (.inl x.1)
  | none, some r =>
    if r.stopped then none
    else (r.fetched.find? (fun y => dTag y.desc == tag && dOpcode y.desc != 0x0D)).map .inr
  | none, none => none

/-- ABORT (R452, R453, Table 19-5). A target past its decision point, or a COLLECTIVE that has sent DONE (R414), holds the ABORT until its record is written. -/
def execAbort (cmd : Nat) (s : State) : Host.Outcome State Fault Refusal :=
  .next (control 0x0D (fun _ => true) (fun c s =>
    let ring := c.f 16 2
    match c.target with
    | some t => if NMap.has s.cmds t then s else s.settle cmd (.error (E_ALREADY_COMPLETE, 1))
    | none =>
      match s.sub? c.owner ring with
      | none => s.settle cmd (.error (E_BAD_DESCRIPTOR, 0x0110))
      | some _ =>
        let s1 := s.fetchRest c.owner ring
        match s1.abortTarget c.owner ring (c.f 20 4) with
        | none => s1.settle cmd (.error (E_ALREADY_COMPLETE, 0))
        | some (.inl t) =>
          match s1.cmd? t with
          | none => s1
          | some x =>
            let sentDone := match x.coll with | some k => k.sentDone | none => false
            if !x.uncommitted || sentDone then s1.setCmd cmd { c with target := some t }
            else (s1.failCmd t E_ABORTED 0).finish cmd OK 0
        | some (.inr y) =>
          match s1.sub? c.owner ring with
          | none => s1
          | some r =>
            if s1.slotFree c.owner (s1.cqOf c.owner r y.desc) then
              (s1.failFetched c.owner ring r y E_ABORTED 0).finish cmd OK 0
            else s1) cmd s)

/-! ### PART_CREATE -/

/-- Range checks of PART_CREATE (Table 19-1). -/
def partCreateRange (d : Bytes) : Option Nat :=
  let die := fld d 34 1
  firstBad
    [ (16, decide (15 < fld d 16 1)), (17, decide (16 < fld d 17 1)), (18, !(zeros d 18 20)), (20, decide (fld d 20 12 = 0)),
      (32, decide (fld d 32 1 < 6) || decide (16 < fld d 32 1)), (33, decide (fld d 33 1 < 6) || decide (18 < fld d 33 1)),
      (34, decide (7 < die) && decide (die ≠ 0xFF)), (35, !(zeros d 35 36)),
      (36, decide (fld d 36 2 = 0) || decide (lastVector (fld d 17 1) < fld d 36 2)),
      (38, decide (fld d 38 2 = 0) || decide (256 < fld d 38 2)), (42, !(zeros d 42 48)),
      (48, decide (fld d 48 8 % 4096 ≠ 0)), (56, decide (fld d 56 8 % 4096 ≠ 0)), (64, decide (fld d 64 8 % 8 ≠ 0)), (72, !(zeros d 72 128)) ]

/-- R441: why PART_CREATE fails, if it does. -/
def partCreateFail (s : State) (d : Bytes) : Option Nat :=
  let groups := BitVec.ofNat 96 (fld d 20 12)
  if NMap.has s.parts (fld d 16 1) then some 1
  else if s.parts.any (fun p => p.2.groups &&& groups != 0) then some 2
  else if fld d 17 1 ≠ 0 ∧ s.parts.any (fun p => p.2.function == fld d 17 1) then some 3
  else if (List.range 96).any (fun g => groups.getLsbD g && (s.dieAt (g / 12)).fenced) then some 6
  else none

/-- Clear everything kept by partition number: fences, plans, tables, tempers, objects, steps, alloys. -/
def State.clearPart (s : State) (p : Nat) : State :=
  { s.forget (fun k => k / 2 ^ 32 == p) with
           fences := NMap.eraseRange s.fences (fenceKey p 0) (fenceKey (p + 1) 0),
           plans := NMap.eraseRange s.plans (planKey p 0) (planKey (p + 1) 0),
           tables := NMap.eraseRange s.tables (tableKey p 0) (tableKey (p + 1) 0),
           tempers := NMap.eraseRange s.tempers (layerKey p 0) (layerKey (p + 1) 0),
           objects := NMap.eraseRange s.objects (objKey p 0) (objKey (p + 1) 0),
           steps := NMap.eraseRange s.steps (stepKey p 0) (stepKey (p + 1) 0),
           alloys := NMap.eraseRange s.alloys (objKey p 0) (objKey (p + 1) 0) }

/-- The state PART_CREATE leaves: the partition, its admin pair (MODE ORDERED, DEFAULT_CQ 0), everything else initial (R440, R441). -/
def State.createPart (s : State) (d : Bytes) : State :=
  let n := fld d 16 1
  let p : Part := { function := fld d 17 1, groups := BitVec.ofNat 96 (fld d 20 12) }
  let s1 := s.clearPart n
  let s2 := { s1 with parts := NMap.set s1.parts n p }
  let s3 := s2.setSub n 0 { log2 := fld d 32 1, home := homeDie p (fld d 34 1), defaultCq := 0, base := fld d 48 8, headWb := fld d 64 8 }
  s3.setComp n 0 { log2 := fld d 33 1, home := homeDie p (fld d 34 1), base := fld d 56 8, vector := fld d 36 2, modCount := fld d 38 2, modTime := fld d 40 2 }

/-- PART_CREATE (R440, R441). -/
def execPartCreate (cmd : Nat) (s : State) : Host.Outcome State Fault Refusal :=
  .next (control 0x40 (fun _ => true) (fun c s =>
    s.settle cmd (
      match partCreateFail s c.desc with
      | some n => .error (E_PART_STATE, n)
      | none => .ok (s.createPart c.desc, OK, 0))) cmd s)

/-- The links an admitted command needs. -/
def State.linksOf (s : State) (c : Cmd) : List Nat :=
  match c.opcode with
  | 0x06 => if c.f 16 1 = 4 ∨ c.f 16 1 = 5 then [c.f 80 1] else []
  | 0x07 =>
    match NMap.get? s.groups (c.f 16 2) with
    | some g => (g.members.map (·.2)).filter (fun l => decide (l < 8))
    | none => []
  | 0x49 =>
    if c.f 16 1 ≠ 0 then []
    else
      let ended := fun (f : Load → Bool) => match c.load with | some k => f k | none => false
      (if c.f 17 1 = 1 ∧ !(ended (fun k => k.upDown)) then [c.f 18 1] else [])
        ++ (if c.f 19 1 ≠ 0xFF ∧ !(ended (fun k => k.downGone)) then [c.f 19 1] else [])
  | _ => []

/-! ### PART_DESTROY -/

/-- Return a sequence index to FREE with the next generation (R271, R290). -/
def freeSeq (q : Seq) : Seq := { gen := (q.gen + 1) % 2 ^ 14 }

/-- Release every sequence and every frame of a partition (R442 step 3). -/
def State.releasePartSeqs (s : State) (p : Nat) : State :=
  let s1 := (List.range 8).foldl (fun (a : State) d => ((a.framesOf d).filter (fun f => f.2.part == p)).foldl (fun (b : State) f => b.freeFrame d f.1) a) s
  { s1 with seqs := s1.seqs.map (fun q => if q.2.part = p ∧ q.2.state ≠ .free then (q.1, freeSeq q.2) else q) }

/-- Close every codec stream of a partition (R464). -/
def State.closeStreams (s : State) (p : Nat) : State :=
  { s with engines := s.engines.map (fun e => { e with streams := e.streams.filter (fun t => t.2.part != p) }) }

/-- Steps 1 to 5 of R442. -/
def State.destroyPart (s : State) (p : Nat) : State :=
  let s1 := (s.ownerCmds p).foldl (fun a c => if c.2.uncommitted then a.dropCmd c.1 else a.completeCommit true c.1 c.2) s
  let s2 := { s1 with subs := NMap.eraseRange s1.subs (ringKey p 0) (ringKey (p + 1) 0),
                      comps := NMap.eraseRange s1.comps (ringKey p 0) (ringKey (p + 1) 0) }
  let s3 := (((s2.releasePartSeqs p).closeStreams p).clearPart p).unqueue p
  { s3 with models := s3.models.filter (fun m => m.2.owner != p), groups := s3.groups.filter (fun g => g.2.part != p),
            fprintWait := s3.fprintWait.filter (fun m => s3.groups.any (fun g => g.1 == m.group && g.2.part != p)),
            parts := NMap.erase s3.parts p, windows := NMap.erase s3.windows p,
            colo := { s3.colo with pre := s3.colo.pre.filter (fun e => e.partition != p) } }

/-- PART_DESTROY (R442): a partition that does not exist fails E_PART_STATE 0x0005. -/
def execPartDestroy (cmd : Nat) (s : State) : Host.Outcome State Fault Refusal :=
  .next (control 0x41 (fun _ => true) (fun c s =>
    s.settle cmd (
      if NMap.has s.parts (c.f 16 1) then .ok (s.destroyPart (c.f 16 1), OK, 0) else .error (E_PART_STATE, 5))) cmd s)

/-! ### QUOTA_SET -/

/-- A setting item (Table 19-3). -/
structure Item where
  key : Nat
  inst : Nat
  rsv : Bool
  value : Nat
  deriving DecidableEq, Repr

/-- Read the list of a QUOTA_SET from host memory. -/
def readItems (s : State) (addr : Nat) (n : Nat) : List Item :=
  (List.range n).map (fun i =>
    let b := s.hostRead (addr + 16 * i) 16
    { key := fld b 0 2, inst := fld b 2 1, rsv := zeros b 3 8, value := fld b 8 8 })

def dieKeys : List Nat := [0x0001, 0x0002, 0x0005, 0x0006, 0x0007, 0x0020, 0x0021, 0x0028, 0x0029]
def linkKeys : List Nat := [0x0022, 0x002A]
def partKeys : List Nat :=
  [0x0003, 0x0004, 0x0008, 0x0009, 0x000A, 0x000B, 0x000C, 0x000D, 0x000E, 0x000F, 0x0010, 0x0011, 0x0012, 0x0013, 0x0023, 0x002B]

/-- Whether a value is in the range Table 19-4 gives its key. -/
def valueOk (key v : Nat) : Bool :=
  let mib2 := decide (v % 2097152 = 0)
  let rate := decide (v % 2 ^ 32 = 0) || decide (4096 ≤ v / 2 ^ 32)
  match key with
  | 0x0001 => mib2 | 0x0002 => mib2 | 0x0003 => mib2
  | 0x0004 => true
  | 0x0005 => decide (v % 65536 = 0)
  | 0x0006 => true | 0x0007 => true
  | 0x0008 => decide (v ≤ 262144)
  | 0x0009 => decide (v ≤ 1)
  | 0x000A => decide (v % 4096 = 0)
  | 0x000B => decide (v % 8 = 0) && decide (v ≤ 2 ^ 26)
  | 0x000C => decide (v ≤ 65535)
  | 0x000D => true
  | 0x000E => decide (1 ≤ v) && decide (v ≤ 4096)
  | 0x000F => decide (v ≤ 1)
  | 0x0010 => decide (v ≤ 255)
  | 0x0011 => decide (v ≤ 100000)
  | 0x0012 => decide (v ≤ 8)
  | 0x0013 => decide (1 ≤ v) && decide (v ≤ 100000)
  | 0x0020 => rate | 0x0021 => rate | 0x0022 => rate | 0x0023 => rate
  | 0x0028 => decide (1 ≤ v) && decide (v ≤ 255)
  | 0x0029 => decide (1 ≤ v) && decide (v ≤ 255)
  | 0x002A => decide (1 ≤ v) && decide (v ≤ 255)
  | 0x002B => decide (1 ≤ v) && decide (v ≤ 255)
  | 0x0100 => true
  | _ => false

/-- Whether an item is inside Table 19-4 for its PARTITION field (pass 2 of R443). -/
def itemOk (s : State) (part : Nat) (i : Item) : Bool :=
  i.rsv && valueOk i.key i.value &&
  (if part = 0xFF then decide (i.key = 0x0100) && (decide (i.inst < 8) || decide (i.inst = 0xFF))
   else if dieKeys.contains i.key then
     (match NMap.get? s.parts part with
      | some p => decide (i.inst = 0xFF) || (decide (i.inst < 8) && p.onDie i.inst)
      | none => false)
   else if linkKeys.contains i.key then decide (i.inst < 8)
   else partKeys.contains i.key && decide (i.inst = 0))

/-- The instances an item sets: every die of the partition (of the part, for a package key) for 0xFF. -/
def itemInsts (s : State) (part : Nat) (i : Item) : List Nat :=
  if i.inst = 0xFF then
    (match NMap.get? s.parts part with
     | some p => p.dieList
     | none => List.range 8)
  else [i.inst]

/-- The regulator resource of a rate key (Table 19-7). -/
def rateResource (key : Nat) : Option Nat :=
  match key with | 0x0020 => some 0 | 0x0021 => some 1 | 0x0022 => some 2 | 0x0023 => some 3 | _ => none

/-- Apply one item to the settings (pass 3 of R443); a rate key starts its bucket at BURST (R456). -/
def applyItem (part : Nat) (s : State) (i : Item) : State :=
  if part = 0xFF then { s with pool := (itemInsts s part i).foldl (fun l d => l.set d i.value) s.pool }
  else
    match NMap.get? s.parts part with
    | none => s
    | some p =>
      let sets := (itemInsts s part i).foldl (fun m d => NMap.set m (i.key * 256 + d) i.value) p.sets
      let bk := match rateResource i.key with
        | some r => (itemInsts s part i).foldl (fun m d => NMap.set m (r * 8 + d) ((i.value / 2 ^ 32 : Nat) : Int)) p.buckets
        | none => p.buckets
      let bank := if i.key = 0x000F then decide (i.value = 1) else p.lengthBank
      { s with parts := NMap.set s.parts part { p with sets := sets, buckets := bk, lengthBank := bank } }

/-- Frames of a die that a partition holds: U of R303. -/
def State.frameUse (s : State) (part d : Nat) : Nat := ((s.framesOf d).filter (fun f => f.2.part == part)).length

/-- Non-FREE sequences of a partition. -/
def State.seqUse (s : State) (part : Nat) : Nat := (s.seqs.filter (fun q => q.2.part == part && q.2.state != .free)).length

/-- Plan-store bytes of a partition: its images, on every die that holds one of its groups (R57). -/
def State.planUse (s : State) (part : Nat) : Nat :=
  ((s.plans.filter (fun p => p.1 / 65536 == part)).map (fun p => p.2.image.length)).sum

/-- T2 bytes that shared models take on a die (R428, R444). -/
def State.sharedUse (s : State) (d : Nat) : Nat :=
  ((s.objects.filter (fun o => decide (2 ^ 44 ≤ o.1))).map (fun o => o.2.t2 d)).sum

/-- Whether a plan of a partition names collation mode 0x03 (R224): byte 0 of its section 0x0006. -/
def planPack (p : Plan) : Bool :=
  (List.range (fld p.image 6 2)).any (fun k =>
    let e := 64 + 16 * k
    fld p.image e 2 == 6 && fld p.image (fld p.image (e + 4) 4) 1 == 3)

/-- The checks of pass 3 of R443 and R444 on the settings of `s`: whether each fails, and the keys and die of the items that enter it (`none`: any die). -/
def quotaChecks (s : State) (part : Nat) : List (Bool × List Nat × Option Nat) :=
  let onDie := fun d => s.parts.filter (fun p => p.2.onDie d)
  let total := fun key d => ((onDie d).map (fun p => p.2.setting key d)).sum
  let perDie := (List.range 8).flatMap (fun d =>
    let pool := s.pool.getD d 0
    [ (decide (192 * 2 ^ 30 < total 0x0002 d + pool * 151552 + 164 * 2 ^ 20 + s.sharedUse d), [0x0002, 0x0100], some d),
      (decide (168 * 2 ^ 20 < total 0x0001 d), [0x0001], some d),
      (decide (8 * 2 ^ 20 < total 0x0005 d), [0x0005], some d),
      (decide (pool < total 0x0006 d), [0x0006, 0x0100], some d),
      (decide (pool < (s.framesOf d).length), [0x0100], some d),
      (decide (s.setting part 0x0002 d < s.t2Use part d), [0x0002], some d),
      (decide (s.setting part 0x0001 d < s.t1Use part d), [0x0001], some d),
      (decide (s.setting part 0x0005 d < s.planUse part) && decide (part < 16), [0x0005], some d),
      (decide (s.setting part 0x0006 d + s.setting part 0x0007 d < s.frameUse part d), [0x0006, 0x0007], some d) ])
  let t2sum := ((List.range 8).map (fun d => s.setting part 0x0002 d)).sum
  let banks := (s.parts.filter (fun p => p.2.lengthBank)).length
  let packs := (s.plans.filter (fun p => p.1 / 65536 == part)).any (fun p => planPack p.2)
  let slotsUsed := (s.seqs.filter (fun q => q.2.part == part)).any (fun q =>
    q.2.leaves.any (fun l => l.2.t3 && decide (s.setting part 0x000B 0 ≤ l.2.frame)))
  perDie ++
    [ (decide (t2sum < s.setting part 0x0003 0), [0x0003, 0x0002], none),
      (decide (s.setting part 0x0003 0 < s.reserveUse part), [0x0003], none),
      (decide (s.setting part 0x0004 0 < s.t3Use part), [0x0004], none),
      (decide (s.setting part 0x0008 0 < s.seqUse part), [0x0008], none),
      (slotsUsed, [0x000B], none),
      (decide (4 < banks), [0x000F], none),
      (packs && (match NMap.get? s.parts part with | some p => !p.lengthBank | none => false), [0x000F], none) ]

/-- The lowest index of an item that sets a value entering a failed check of pass 3 (R443): one that a later item replaces sets none. -/
def quotaFail (s0 s : State) (part : Nat) (items : List Item) : Option Nat :=
  let failed := (quotaChecks s part).filter (·.1)
  let sets := fun (k : Nat) (i : Item) (d : Nat) => !((items.drop (k + 1)).any (fun j => j.key == i.key && (itemInsts s0 part j).contains d))
  (items.zipIdx.find? (fun i => failed.any (fun c => c.2.1.contains i.1.key &&
    (itemInsts s0 part i.1).any (fun d => (match c.2.2 with | none => true | some e => d == e) && sets i.2 i.1 d)))).map (·.2)

/-- Range checks of QUOTA_SET (Table 19-2). -/
def quotaRange (d : Bytes) : Option Nat :=
  firstBad
    [ (16, decide (15 < fld d 16 1) && decide (fld d 16 1 ≠ 0xFF)), (17, !(zeros d 17 18)),
      (18, decide (fld d 18 2 = 0) || decide (256 < fld d 18 2)), (20, !(zeros d 20 24)), (24, decide (fld d 24 8 % 16 ≠ 0)), (32, !(zeros d 32 128)) ]

/-- QUOTA_SET (R443, R444): three passes, the first failure reported, everything applied together. -/
def execQuotaSet (cmd : Nat) (s : State) : Host.Outcome State Fault Refusal :=
  .next (control 0x50 (fun _ => true) (fun c s =>
    let part := c.f 16 1
    let items := readItems s (c.f 24 8) (c.f 18 2)
    let s := s.asDma (s.functionOf c.owner) false (c.f 24 8) (16 * c.f 18 2)
    s.settle cmd (
      if part < 16 ∧ !(NMap.has s.parts part) then .error (E_PART_STATE, 5)
      else
        match items.findIdx? (fun i => !(itemOk s part i)) with
        | some k => .error (E_QUOTA_ITEM, k)
        | none =>
          let s1 := items.foldl (applyItem part) s
          match quotaFail s s1 part items with
          | some k => .error (E_QUOTA, k)
          | none => .ok (s1.drainAll, OK, 0))) cmd s)

/-! ### Function-level reset of a VF (R33) -/

/-- An admin pair returned to empty at the same addresses: head and tail 0, phase 1, disarmed, no halt (R33, Table 22-9). -/
def SubRing.emptied (r : SubRing) : SubRing :=
  { r with head := 0, tail := 0, halted := false, stopped := false, fetched := [] }
def CompRing.emptied (r : CompRing) : CompRing :=
  { r with head := 0, next := 0, phase := true, recs := [], reserved := 0, armed := false, stopped := false }

/-- Destroy every work ring of a partition and empty its admin pair; fences to count 0 without poison (R33, R527). -/
def State.resetRings (s : State) (p : Nat) : State :=
  let keep := fun {α : Type} (m : NMap α) (f : α → α) =>
    (m.filter (fun r => !(r.1 / 1024 == p && r.1 % 1024 != 0))).map (fun r => if r.1 = ringKey p 0 then (r.1, f r.2) else r)
  { s with subs := keep s.subs SubRing.emptied, comps := keep s.comps CompRing.emptied,
           fences := NMap.eraseRange s.fences (fenceKey p 0) (fenceKey (p + 1) 0) }

/-- VF_FLR (R33, R464): uncommitted commands of the served partition are killed without a record, its work rings are destroyed, its admin pair is emptied, its fences are reset, its codec streams are closed; a command past its decision point completes its commit and writes its record first; the function's MSI-X returns to its reset state. -/
def execVfFlr (vf : Nat) (s : State) : Host.Outcome State Fault Refusal :=
  match s.parts.find? (fun p => p.2.function == vf && decide (vf ≠ 0)) with
  | none => .next { s with msix := NMap.erase s.msix vf }
  | some (p, _) =>
    let s1 := (s.ownerCmds p).foldl (fun a c => if c.2.uncommitted then a.dropCmd c.1 else a.completeCommit true c.1 c.2) s
    .next { (s1.resetRings p).closeStreams p with msix := NMap.erase s1.msix vf }

/-! ### Shares and regulators -/

/-- SERVED_HALVING (R446): at a multiple of 100,000 ticks of a die, its SERVED count of every ring is halved. -/
def execServedHalving (die : Nat) (t : Word) (s : State) : Host.Outcome State Fault Refusal :=
  let s1 := s.reach die t
  if (s1.counter die).toNat % 100000 = 0 then
    .next { s1 with subs := s1.subs.map (fun r => (r.1, { r.2 with served := r.2.served.modify die (· / 2) })) }
  else .next s1

/-- The resource instances metered on a die's counter (Table 19-7). -/
def meteredAt (die : Nat) : List (Nat × Nat) := [(0, die), (1, die), (2, die)] ++ (if die = 0 then [(3, 0)] else [])

/-- Refill one regulator (R456). -/
def Part.refill (p : Part) (x : Nat × Nat) : Part :=
  let (rate, burst) := p.rate x.1 x.2
  if rate = 0 then p
  else
    let k := x.1 * 8 + x.2
    { p with buckets := NMap.set p.buckets k (min (burst : Int) (p.bucket x.1 x.2 + rate)) }

/-- REGULATOR_REFILL (R456): every 100 ticks of a die, each regulator metered there is refilled up to BURST, and the requests it held are served in their turn (R457). -/
def execRegulatorRefill (die : Nat) (t : Word) (s : State) : Host.Outcome State Fault Refusal :=
  let s1 := s.reach die t
  if (s1.counter die).toNat % 100 = 0 then
    let s2 : State := { s1 with parts := s1.parts.map (fun p => (p.1, (meteredAt die).foldl Part.refill p.2)) }
    .next ((s2.queues.filter (fun q => (meteredAt die).contains (regulatorOf q.1))).foldl (fun (a : State) q => a.drain q.1) s2)
  else .next s1

end Sys2Proof.Machine
end

