-- ==== Sys2Proof/Machine/Bindery.lean ====
section
/-! DEFINITION. The Bindery's storage: frames, leaves, margins and sketches, sequence views, frame sources and their order, demotion, release (R271 to R279, R285, R290, R293, R302 to R308). -/

namespace Sys2Proof.Machine

/-! ### Layout (R274, R275, R277) -/

/-- Bytes of a key or value row. -/
def rowBytes (fmt : Nat) : Nat := if fmt = 0x07 then 128 else 64
/-- TPL of Table 12-2. -/
def tplOf (kvHeads fmt : Nat) : Nat := 65536 / (kvHeads * rowBytes fmt)
/-- NB: scale bytes of a row. -/
def scaleCount (fmt : Nat) : Nat := if fmt = 0x07 then 4 else 8
/-- SB of Table 12-3. -/
def sketchSlots (tpl : Nat) : Nat := max 1 (tpl / 128)
def Seq.tpl (q : Seq) : Nat := tplOf q.kvHeads q.kvFmt
/-- Window leaf of position `pos` of layer l (R277). -/
def Seq.win (q : Seq) (pos l : Nat) : Nat := pos / q.tpl * q.layers + l
/-- The largest MAX_LEN of a join (R277). -/
def maxLenLimit (layers tpl : Nat) : Nat := min 16777216 (2 ^ 25 / layers * tpl)

/-- The sequence-space address of a byte of a window leaf (R277). -/
def seqAddress (idx w off : Nat) : Nat := 2 ^ 63 + idx * 2 ^ 42 + w * 131072 + off

/-- The key under which quire stores hold copies of a leaf: its frame's, or its demotion slot's. -/
def leafKey (part : Nat) (e : LeafEntry) : Nat := if e.t3 then 2 ^ 47 + part * 2 ^ 32 + e.frame else frameKey e.die e.frame

/-- The sequence of an index; an unlisted index is FREE with generation 0. -/
def State.seqAt (s : State) (idx : Nat) : Seq := NMap.getD s.seqs idx {}
def State.setSeq (s : State) (idx : Nat) (q : Seq) : State := { s with seqs := NMap.set s.seqs idx q }
/-- The index, generation and home die of a sequence id (R271). -/
def seqIndex (id : Nat) : Nat := id % 2 ^ 18
def seqGen (id : Nat) : Nat := id / 2 ^ 18
def seqDie (idx : Nat) : Nat := idx / 32768
/-- The full id of an index. -/
def Seq.idOf (q : Seq) (idx : Nat) : Nat := idx + 2 ^ 18 * q.gen
/-- LEAVES, TABLE_PAGES and DEMOTED of a descriptor (Table 12-1). -/
def Seq.leafCount (q : Seq) : Nat := q.leaves.length
def Seq.demoted (q : Seq) : Nat := (q.leaves.filter (fun e => e.2.t3)).length

/-- Body offset of the row of head h at position p of its group; a value row lies 65,536 further on. -/
def rowOffset (kvHeads fmt h p : Nat) (isV : Bool) : Nat := h * 65536 / kvHeads + p * rowBytes fmt + (if isV then 65536 else 0)
/-- Margin offset, from the start of the body, of a row's scales. -/
def scaleOffset (tpl fmt h p : Nat) (isV : Bool) : Nat := 131072 + (if isV then 8192 else 0) + (h * tpl + p) * scaleCount fmt
/-- Offset of the sketch of key block j of head h. -/
def sketchOffset (tpl kvHeads j h : Nat) : Nat := 131072 + 16384 + (j % sketchSlots tpl * kvHeads + h) * 512

/-- Bytes of a leaf, its body then its margin: in its frame, or in its demotion slot in host memory (R306). -/
def State.leafBytes (s : State) (part : Nat) (e : LeafEntry) (off n : Nat) : Bytes :=
  if e.t3 then s.hostRead (s.setting part 0x000A 0 + e.frame * 151552 + off) n
  else
    let f := NMap.getD (s.framesOf e.die) e.frame { part := part }
    if off < 131072 then Mem.readRange f.body off n else Mem.readRange f.margin (off - 131072) n

/-- The DMA reads of the demoted leaves among some leaves (R306). -/
def State.leafDma (s : State) (part : Nat) (ls : NMap LeafEntry) : State :=
  (ls.filter (fun e => e.2.t3)).foldl (fun (a : State) e =>
    a.bulkDma part false (s.setting part 0x000A 0 + e.2.frame * 151552) 151552) s

/-- Poison met in a leaf's bytes, by the origin that found it (R338). -/
def State.leafPoison (s : State) (e : LeafEntry) (off n : Nat) : Option Nat :=
  let marks := if e.t3 then e.poison else match NMap.get? (s.framesOf e.die) e.frame with | some f => f.poison | none => []
  (marks.find? (fun p => decide (p.1 < off + n) && decide (off < p.1 + 128))).map (·.2)

/-- Poison met in the key and value rows and scales of positions p0 to p1 - 1 of a group (R338). -/
def State.rowsPoison (s : State) (e : LeafEntry) (kvHeads fmt p0 p1 : Nat) : Option Nat :=
  let n := p1 - p0
  if n = 0 then none
  else
    (List.range kvHeads).findSome? (fun h => [false, true].findSome? (fun v =>
      match s.leafPoison e (rowOffset kvHeads fmt h p0 v) (n * rowBytes fmt) with
      | some k => some k
      | none => s.leafPoison e (scaleOffset (tplOf kvHeads fmt) fmt h p0 v) (n * scaleCount fmt)))

/-- Bytes of a leaf that a reader takes pass through the cache of the frame's die, or come from host memory (R306, R327); `die` is the reader's. -/
def State.readLeaf (s : State) (part die : Nat) (e : LeafEntry) (off n : Nat) : State :=
  if e.t3 then s.bulkDma part false (s.setting part 0x000A 0 + e.frame * 151552 + off) n
  else (s.touchFrame e.die e.frame off n false).farLines part die e.die (ceilDiv n 128) false

/-- A frame with bytes written into it; poison clears where whole lines are written (R338). -/
def Frame.write (f : Frame) (off : Nat) (b : Bytes) : Frame :=
  let p := f.poison.filter (fun q => !(decide (off ≤ q.1) && decide (q.1 + 128 ≤ off + b.length)))
  if off < 131072 then { f with body := Mem.writeRange f.body off b, poison := p }
  else { f with margin := Mem.writeRange f.margin (off - 131072) b, poison := p }

/-- Write bytes of a leaf in its frame, through the cache of its die; staged copies of the leaf are invalid (R329). -/
def State.writeLeaf (s : State) (e : LeafEntry) (off : Nat) (b : Bytes) : State :=
  ((s.setFrames e.die (NMap.modify (s.framesOf e.die) e.frame (fun f => f.write off b))).dropKey (frameKey e.die e.frame)).touchFrame e.die e.frame
    off b.length true

/-- Set the poison of a leaf's frame: that of the leaf copied into it (R338). -/
def State.markLeaf (s : State) (e : LeafEntry) (p : List (Nat × Nat)) : State :=
  s.setFrames e.die (NMap.modify (s.framesOf e.die) e.frame (fun f => { f with poison := p }))

/-- The 128 elements of a key or value row of a leaf, in their scale; a block of scale byte 0x00 is a zero block whose codes are not read (R276). -/
def State.kvRow (s : State) (part : Nat) (e : LeafEntry) (kvHeads fmt h p : Nat) (isV : Bool) : List (Except Bad Rat) :=
  let body := s.leafBytes part e (rowOffset kvHeads fmt h p isV) (rowBytes fmt)
  let sc := s.leafBytes part e (scaleOffset (tplOf kvHeads fmt) fmt h p isV) (scaleCount fmt)
  (List.range 128).map (fun c =>
    let code := codeAt body 0 (fmtBits fmt) c
    let scale := fld sc (c / fmtBlock fmt) 1
    let v := codeValue fmt code
    if scale = 0 then .ok 0
    else if !v.finite then .error .element
    else if 0x7F ≤ scale then .error .scale
    else .ok (v.rat * scaleValue scale))

/-- Write one quantised row: its packed codes and its scales (R286). -/
def State.putRow (s : State) (e : LeafEntry) (kvHeads fmt h p : Nat) (isV : Bool) (qs : List QBlock) : State :=
  (s.writeLeaf e (rowOffset kvHeads fmt h p isV) (packCodes (fmtBits fmt) (qs.map (·.codes)).flatten)).writeLeaf e
    (scaleOffset (tplOf kvHeads fmt) fmt h p isV) (qs.map (fun q => BitVec.ofNat 8 q.scale))

/-! ### Views of a sequence (R281, R285) -/

/-- What a reader sees of a sequence for a layer: its table with the step's leaves over it, and the visible length. -/
structure SeqView where
  idx : Nat
  q : Seq
  leaves : NMap LeafEntry
  v : Nat
  deriving DecidableEq, Repr

/-- The entry of a step for an index. -/
def Step.entryOf (x : Step) (idx : Nat) : Option StepEntry := x.entries.find? (fun e => seqIndex e.seqId == idx)

def State.step? (s : State) (part handle : Nat) : Option Step := NMap.get? s.steps (stepKey part handle)

/-- Leaves of a step entry laid over a sequence's table: those written so far. -/
def overlay (q : Seq) (e : StepEntry) : NMap LeafEntry :=
  e.newLeaves.foldl (fun (m : NMap LeafEntry) (p : Nat × LeafEntry) => if e.used.contains p.1 then NMap.set m p.1 p.2 else m) q.leaves

/-- The view of a sequence for a layer, by a command that names a step (0 for none). -/
def State.seqView (s : State) (part idx handle layer : Nat) : SeqView :=
  let q := s.seqAt idx
  match (if handle = 0 then none else s.step? part handle) with
  | some x =>
    match x.entryOf idx with
    | some e =>
      if x.appended.contains layer && decide (e.status = OK) then { idx := idx, q := q, leaves := overlay q e, v := q.c + e.tokens }
      else { idx := idx, q := q, leaves := q.leaves, v := q.c }
    | none => { idx := idx, q := q, leaves := q.leaves, v := q.c }
  | none => { idx := idx, q := q, leaves := q.leaves, v := q.c }

/-- The leaf that holds a position of a layer in a view. -/
def SeqView.leaf (x : SeqView) (pos l : Nat) : Option LeafEntry := NMap.get? x.leaves (x.q.win pos l)

/-- The row of a head at a position of a view. -/
def State.viewRow (s : State) (x : SeqView) (l h pos : Nat) (isV : Bool) : List (Except Bad Rat) :=
  match x.leaf pos l with
  | some e => s.kvRow x.q.part e x.q.kvHeads x.q.kvFmt h (pos % x.q.tpl) isV
  | none => List.replicate 128 (.ok 0)

/-! ### Sketches (R181, R275) -/

/-- The BF16 mean of columns over rows: each the exact sum divided by the count, rounded once; zero for no rows. -/
def meanBf16 (rows : List (List Rat)) : List Nat :=
  (List.range 128).map (fun c =>
    if rows.isEmpty then 0
    else
      let q := ((rows.map (fun r => r.getD c 0)).foldl (· + ·) 0) / (rows.length : Rat)
      let v := bf16.nearest (ratAbs q)
      v + (if q < 0 then 2 ^ 15 else 0))

/-- The rational of a read element, zero for one that cannot be used. -/
def okRat (x : Except Bad Rat) : Rat := match x with | .ok q => q | .error _ => 0

/-- The 512 bytes of a sketch of key block j of a head over the live positions below v. -/
def State.sketchOf (s : State) (x : SeqView) (l h j v : Nat) : Bytes :=
  let ps := (List.range 128).filterMap (fun k => if 128 * j + k < v then some (128 * j + k) else none)
  let m := fun (isV : Bool) => meanBf16 (ps.map (fun p => (s.viewRow x l h p isV).map okRat))
  ((m false).map (leBytes 2)).flatten ++ ((m true).map (leBytes 2)).flatten

/-- Write the sketches of key blocks `j0` to `j1 - 1` of every head for length v, into the leaves that hold their last live positions. -/
def State.writeSketches (s : State) (x : SeqView) (l v j0 j1 : Nat) : State :=
  ((List.range (j1 - j0)).map (· + j0)).foldl (fun (a : State) j =>
    if v ≤ 128 * j then a
    else
      let last := min v (128 * j + 128) - 1
      match x.leaf last l with
      | some e => (List.range x.q.kvHeads).foldl (fun (b : State) h =>
          b.writeLeaf e (sketchOffset x.q.tpl x.q.kvHeads j h) (s.sketchOf x l h j v)) a
      | none => a) s

/-- The stored sketch of key block j of a head for visible length v: mean key, mean value as BF16 codes. -/
def State.readSketch (s : State) (x : SeqView) (l h j v : Nat) : List Nat × List Nat :=
  match x.leaf (min v (128 * j + 128) - 1) l with
  | some e =>
    let b := s.leafBytes x.q.part e (sketchOffset x.q.tpl x.q.kvHeads j h) 512
    ((List.range 128).map (fun k => fld b (2 * k) 2), (List.range 128).map (fun k => fld b (256 + 2 * k) 2))
  | none => (List.replicate 128 0, List.replicate 128 0)

/-! ### Frames (R273, R303, R304) -/

/-- The lowest free frame numbers of a die. -/
def State.freeFrames (s : State) (d n : Nat) : List Nat :=
  ((List.range (s.pool.getD d 0)).filter (fun k => !(NMap.has (s.framesOf d) k))).take n

/-- Frames a partition may take from the free list, and from the overdraft, on a die; never more than are free (R304). -/
def State.frameSources (s : State) (part d : Nat) : Nat × Nat :=
  let quota := fun (p : Nat) => s.setting p 0x0006 d
  let on := (s.parts.map (·.1)).filter (fun p => match NMap.get? s.parts p with | some x => x.onDie d | none => false)
  let borrowed := fun (p : Nat) => s.frameUse p d - quota p
  let reserve := s.pool.getD d 0 - (on.map quota).sum
  let shared := reserve - (on.map borrowed).sum
  let free := s.pool.getD d 0 - ((s.framesOf d).filter (fun f => decide (f.1 < s.pool.getD d 0))).length
  let own := min (quota part - s.frameUse part d) free
  (own, min (min (s.setting part 0x0007 d - borrowed part) shared) (free - own))

/-- Take frames for a partition: they are held with no reference yet, and a line poisoned before stays poisoned (R338). -/
def State.takeFrames (s : State) (part d n : Nat) (page : Bool) : State × List Nat :=
  let fs := s.freeFrames d n
  (s.setFrames d (fs.foldl (fun (m : NMap Frame) k => NMap.set m k { part := part, page := page, poison := s.framePoisonAt d k }) (s.framesOf d)), fs)

/-- The lines of table-page entries that are read or written, of some window leaves of a sequence (R278, R327). -/
def State.touchEntries (s : State) (idx : Nat) (pages : NMap Nat) (ws : List Nat) (write : Bool) : State :=
  ws.foldl (fun (a : State) w =>
    match NMap.get? pages (w / 32768) with
    | some n => a.touchFrame (seqDie idx) n (w % 32768 * 4) 4 write
    | none => a) s

/-- Change the reference count of a leaf's frame, freeing it at 0 (R290, R293). -/
def State.unref (s : State) (e : LeafEntry) : State :=
  if e.t3 then s
  else
    match NMap.get? (s.framesOf e.die) e.frame with
    | some f => if f.refs ≤ 1 then s.freeFrame e.die e.frame else s.setFrames e.die (NMap.set (s.framesOf e.die) e.frame { f with refs := f.refs - 1 })
    | none => s

def State.addRef (s : State) (e : LeafEntry) : State :=
  if e.t3 then s else s.setFrames e.die (NMap.modify (s.framesOf e.die) e.frame (fun f => { f with refs := f.refs + 1 }))

def State.refsOf (s : State) (e : LeafEntry) : Nat :=
  if e.t3 then 1 else match NMap.get? (s.framesOf e.die) e.frame with | some f => f.refs | none => 0

/-! ### Which sequences a command names -/

/-- Indices of sequences that an admitted command names. -/
def State.cmdSeqs (s : State) (c : Cmd) : List Nat :=
  match c.opcode with
  | 0x04 => [seqIndex (c.f 16 4), seqIndex (c.f 20 4)]
  | 0x05 => [seqIndex (c.f 16 4)]
  | 0x0F => [seqIndex (c.f 16 4)]
  | 0x06 => if c.f 16 1 = 3 then [seqIndex (c.f 20 4)] else []
  | 0x03 =>
    if c.f 16 1 = 0 then
      match s.obj? c.owner (c.f 24 4) with
      | some (k, o) => (List.range (c.f 32 4)).map (fun i => seqIndex (o.readNat (c.viewOf k o) (32 * i) 4))
      | none => []
    else
      match s.step? c.owner (c.f 20 4) with
      | some x => x.entries.map (fun e => seqIndex e.seqId)
      | none => []
  | 0x02 =>
    match s.obj? c.owner (c.f 36 4) with
    | some (k, o) => if c.f 36 4 = 0 then [] else (List.range (c.f 40 4)).map (fun i => seqIndex (o.readNat (c.viewOf k o) (16 * i) 4))
    | none => []
  | _ => []

/-! ### Demotion (R305, R306) -/

/-- Slot numbers of the demotion area that a partition's leaves occupy. -/
def State.slotsUsed (s : State) (part : Nat) : List Nat :=
  s.seqs.flatMap (fun q => if q.2.part = part then (q.2.leaves.filter (fun e => e.2.t3)).map (fun e => e.2.frame) else [])

/-- Free slots of a die's eighth of the demotion area, lowest first. -/
def State.freeSlots (s : State) (part d n : Nat) : List Nat :=
  let each := s.setting part 0x000B 0 / 8
  let used := s.slotsUsed part
  (((List.range each).map (fun k => d * each + k)).filter (fun k => !(used.contains k))).take n

/-- Insert a victim by ascending priority, join counter and index. -/
def victimIn (v : Nat × Seq) : List (Nat × Seq) → List (Nat × Seq)
  | [] => [v]
  | w :: ws =>
    if v.2.priority < w.2.priority ∨ (v.2.priority = w.2.priority ∧ (v.2.joinCounter < w.2.joinCounter ∨ (v.2.joinCounter = w.2.joinCounter ∧ v.1 < w.1)))
    then v :: w :: ws else w :: victimIn v ws

/-- Victim leaves for an entry of priority π on a die, in order: sequence index and window leaf (R305). A leaf that a fork shares from another die's frames (R295) frees none here and is no candidate. -/
def State.victims (s : State) (part d π : Nat) : List (Nat × Nat) :=
  let busy := s.cmds.flatMap (fun c => if c.2.uncommitted then s.cmdSeqs c.2 else [])
  let vs := (s.seqs.filter (fun q => q.2.part == part && q.2.state == .parked && seqDie q.1 == d && decide (q.2.priority < π)
    && !(busy.contains q.1))).foldl (fun acc v => victimIn v acc) []
  vs.flatMap (fun v => (v.2.leaves.filter (fun e => !e.2.t3 && e.2.die == d && decide (s.refsOf e.2 = 1))).map (fun e => (v.1, e.1)))

/-- Demote one leaf into a slot (R306); its poison stays with it (R338). -/
def State.demote (s : State) (part d : Nat) (x : (Nat × Nat) × Nat) : State :=
  let q := s.seqAt x.1.1
  match NMap.get? q.leaves x.1.2 with
  | some e =>
    let marks := match NMap.get? (s.framesOf e.die) e.frame with | some f => f.poison | none => []
    let new : LeafEntry := { frame := x.2, die := d, t3 := true, poison := marks }
    let s1 := ((s.readLeaf part d e 0 151552).bulkWrite part (s.setting part 0x000A 0 + x.2 * 151552)
      (s.leafBytes part e 0 131072 ++ s.leafBytes part e 131072 20480)).dropKey (leafKey part new)
    ((s1.setSeq x.1.1 { q with leaves := NMap.set q.leaves x.1.2 new }).touchEntries x.1.1 q.pages [x.1.2] true).freeFrame e.die e.frame
  | none => s

/-- Draw n frames of a die for an entry: free list, overdraft, then demotion for a step entry; none when the sources do not cover n (R304). -/
def State.draw (s : State) (part d n : Nat) (demoteFor : Option Nat) : Option (State × List Nat) :=
  let src := s.frameSources part d
  let base := src.1 + src.2
  if n ≤ base then some (s.takeFrames part d n false)
  else
    match demoteFor with
    | none => none
    | some π =>
      if s.setting part 0x0009 0 = 0 then none
      else
        let need := n - base
        let vs := (s.victims part d π).take need
        let slots := s.freeSlots part d need
        if vs.length < need ∨ slots.length < need then none
        else some (((vs.zip slots).foldl (fun (a : State) x => a.demote part d x) s).takeFrames part d n false)

/-! ### Sequences that commands which have run will change -/

/-- Whether an entry is held by the step after its OPEN's commit. -/
def StepEntry.holds (e : StepEntry) : Bool := e.status == OK || (!e.join && e.status == E_LEAF_EXHAUSTED)

/-- The entries of the OPENs of a partition that have run and not committed, command `id` apart. -/
def State.draftEntries (s : State) (id : Nat) : List StepEntry :=
  s.cmds.flatMap (fun x => if x.1 = id then [] else match x.2.stepDraft with | some t => t.entries | none => [])

/-- The children of forks that have run and not committed, command `id` apart, with their partitions. -/
def State.draftChildren (s : State) (id : Nat) : List (Nat × Nat) :=
  s.cmds.filterMap (fun x => if x.1 = id ∨ x.2.child.isNone then none else some (x.2.f 20 4, x.2.owner))

/-- Whether a step holds a sequence: an open step, or the step of another OPEN that has run and not committed. R280 lets one step hold a sequence and does not say how two uncommitted OPENs meet: DESIGN CHOICE (log entry 99). -/
def State.heldSeq (s : State) (id idx : Nat) : Bool :=
  decide ((s.seqAt idx).step ≠ 0) || (s.draftEntries id).any (fun e => seqIndex e.seqId == idx && e.holds)

/-- Whether an index is FREE, and no command that has run will take it (log entry 99). -/
def State.freeIndex (s : State) (id idx : Nat) : Bool :=
  (s.seqAt idx).state == .free && !((s.draftEntries id).any (fun e => seqIndex e.seqId == idx && e.join && e.holds))
    && !((s.draftChildren id).any (fun c => c.1 == idx))

/-- Non-FREE sequences of a partition, and those that commands which have run will make (log entry 99). -/
def State.seqTaken (s : State) (id part : Nat) : Nat :=
  s.seqUse part + (s.draftChildren id).countP (fun c => c.2 == part)
    + (s.cmds.filter (fun x => x.1 != id && x.2.owner == part)).foldl (fun n x =>
        n + (match x.2.stepDraft with | some t => t.entries.countP (fun e => e.join && e.holds) | none => 0)) 0

/-! ### Release (R290) -/

/-- Free a sequence's leaves and table pages and return its index to FREE with the next generation. -/
def State.releaseSeq (s : State) (idx : Nat) : State :=
  let q := s.seqAt idx
  let s0 := s.touchEntries idx q.pages (q.leaves.map (·.1)) false
  let s1 := q.leaves.foldl (fun (a : State) (e : Nat × LeafEntry) => a.unref e.2) s0
  let s2 := q.pages.foldl (fun (a : State) (p : Nat × Nat) => a.freeFrame (seqDie idx) p.2) s1
  s2.setSeq idx (freeSeq q)

/-- SEQ_RELEASE_COMPLETE (R290): a RETIRED sequence's table is walked and its index becomes FREE. -/
def execSeqReleaseComplete (index : Nat) (s : State) : Host.Outcome State Fault Refusal :=
  if s.serving && decide ((s.seqAt index).state = .retired) then .next (s.releaseSeq index) else .next s

end Sys2Proof.Machine
end

