-- ==== Sys2Proof/Machine/Tables.lean ====
section
/-! DEFINITION. Special functions: table images and their checks, evaluation in both formats, the built-in exponential, and TABLE_LOAD (R199 to R214). -/

namespace Sys2Proof.Machine

/-! ### The fields of an image (Tables 8-1 and 8-2) -/

def tSign (t : Bytes) : Nat := fld t 5 1
def tMono (t : Bytes) : Nat := fld t 6 1
def tLo (t : Bytes) : Int := signedOf 16 (fld t 8 2)
def tHi (t : Bytes) : Int := signedOf 16 (fld t 10 2)
def tId (t : Bytes) : Nat := fld t 12 4
def tCount (t : Bytes) : Nat := fld t 16 4
/-- Segments of one half. -/
def tHalf (t : Bytes) : Nat := if tSign t = 0 then tCount t / 2 else tCount t
/-- A tail field of half h: 0 low slope, 1 low intercept, 2 high slope, 3 high intercept. -/
def tTail (t : Bytes) (h k : Nat) : Fp := f32 (fld t (20 + 16 * h + 4 * k) 4)
/-- A field of segment g: 0 to 2 the coefficients, 3 Y_LO, 4 Y_HI. -/
def tSeg (t : Bytes) (g k : Nat) : Fp := f32 (fld t (64 + 24 * g + 4 * k) 4)

/-! ### Evaluation (R203, R204, R206) -/

/-- The larger and smaller of two values that are no NaN. -/
def maxFp (a b : Fp) : Fp := if ltFp a b then b else a
def minFp (a b : Fp) : Fp := if ltFp b a then b else a

/-- A value with the sign turned. -/
def negFp (a : Fp) : Fp := match a with | .fin n m => .fin (!n) m | .inf n => .inf (!n) | .nan => .nan

/-- A FORMAT 0x01 table at a finite input (R203). -/
def sfEval (t : Bytes) (neg : Bool) (mag : Rat) : Fp :=
  let h := if neg && decide (tSign t = 0) then 1 else 0
  let v := if tSign t = 0 then Fp.fin neg mag else Fp.fin false mag
  let y :=
    if mag < pow2 (tLo t) then fma32 (tTail t h 0) v (tTail t h 1)
    else if pow2 (tHi t + 1) ≤ mag then fma32 (tTail t h 2) v (tTail t h 3)
    else
      let e := floorLog2 mag
      let m := ((mag / pow2 e - 1) * ((2 ^ 23 : Nat) : Rat)).floor.toNat
      let u := Fp.fin false (((m % 2 ^ 18 : Nat) : Rat) / ((2 ^ 18 : Nat) : Rat))
      let g := h * tHalf t + (e - tLo t).toNat * 32 + m / 2 ^ 18
      let y0 := fma32 (fma32 (tSeg t g 2) u (tSeg t g 1)) u (tSeg t g 0)
      if tMono t = 0 then y0
      else
        let y1 := maxFp y0 (minFp (tSeg t g 3) (tSeg t g 4))
        minFp y1 (maxFp (tSeg t g 3) (tSeg t g 4))
  if tSign t = 2 && neg then negFp y else y

/-- A FORMAT 0x02 table at a finite input (R206); none when the rounded input is infinite. -/
def mitusEval (t : Bytes) (neg : Bool) (mag : Rat) : Option Fp :=
  match bf16.round neg mag with
  | .fin n m =>
    let h := if n && decide (tSign t = 0) then 1 else 0
    let v := if tSign t = 0 then Fp.fin n m else Fp.fin false m
    let y :=
      if m < pow2 (tLo t) then add32 (mul32 (tTail t h 0) v) (tTail t h 1)
      else if pow2 (tHi t + 1) ≤ m then add32 (mul32 (tTail t h 2) v) (tTail t h 3)
      else
        let e := floorLog2 m
        let f := ((m / pow2 e - 1) * 128).floor.toNat
        let u := Fp.fin false (((f % 8 : Nat) : Rat) / 8)
        let g := h * tHalf t + (e - tLo t).toNat * 16 + f / 8
        add32 (mul32 (add32 (mul32 (tSeg t g 2) u) (tSeg t g 1)) u) (tSeg t g 0)
    match y with
    | .fin yn ym => some (bf16.round (if tSign t = 2 && n then !yn else yn) ym)
    | other => some other
  | _ => none

/-- A table at an input: none when the command fails E_NONFINITE with detail 0x0010 (R204). -/
def tableEval (t : Bytes) (x : Fp) : Option Fp :=
  match x with
  | .fin neg m =>
    let y := if fld t 4 1 = 2 then mitusEval t neg m else some (sfEval t neg m)
    match y with
    | some v => if v.finite then some v else none
    | none => none
  | _ => none

/-- The function of a slot for a command: the built-in exponential of 0xFF (R200) or the captured bank (R210). -/
def Cmd.sf (c : Cmd) (slot : Nat) (x : Fp) : Option Fp :=
  if slot = 0xFF then
    match x with
    | .fin neg m => let y := exp2fin (if neg then -m else m); if y.finite then some y else none
    | .inf true => some Fp.zero
    | _ => none
  else
    match c.captured.find? (fun k => k.1 == slot) with
    | some k => tableEval k.2.2 x
    | none => none

/-! ### Checks of an image (R208, R209) -/

/-- An order key that places infinities outside every finite value. -/
def orderKey (x : Fp) : Rat :=
  match x with
  | .fin n m => if n then -m else m
  | .inf n => if n then -(pow2 300) else pow2 300
  | .nan => 0

/-- fma32(A, ±2^e, B) with the product exact (R209). -/
def boundaryValue (a : Fp) (neg : Bool) (e : Int) (b : Fp) : Fp :=
  match a, b with
  | .fin an am, .fin bn bm => sum32 (an != neg) (am * pow2 e) bn bm
  | _, _ => .nan

/-- The segments of a half in storage order, each value with its segment. -/
def segValues (t : Bytes) (h : Nat) : List (Fp × Option Nat) :=
  ((List.range (tHalf t)).map (fun k => let g := h * tHalf t + k; [(tSeg t g 3, some g), (tSeg t g 4, some g)])).flatten

/-- Entries 4 to 6 of the value sequence: the positive half ascending. -/
def positiveValues (t : Bytes) : List (Fp × Option Nat) :=
  [(tTail t 0 1, none), (boundaryValue (tTail t 0 0) false (tLo t) (tTail t 0 1), none)] ++ segValues t 0
    ++ [(boundaryValue (tTail t 0 2) false (tHi t + 1) (tTail t 0 3), none)]

/-- The value sequence in ascending x, each value with its segment, none for a tail value (R209). -/
def valueSequence (t : Bytes) : List (Fp × Option Nat) :=
  if tSign t = 2 then ((positiveValues t).reverse.map (fun p => (negFp p.1, p.2))) ++ positiveValues t
  else
    [(boundaryValue (tTail t 1 2) true (tHi t + 1) (tTail t 1 3), none)] ++ (segValues t 1).reverse
      ++ [(boundaryValue (tTail t 1 0) true (tLo t) (tTail t 1 1), none), (tTail t 1 1, none)] ++ positiveValues t

/-- The details of the failing pairs of the sequence. -/
def monotoneFaults (t : Bytes) : List Nat :=
  let up := decide (tMono t = 1)
  let vs := valueSequence t
  let bad := (vs.zip (vs.drop 1)).filter (fun (p : (Fp × Option Nat) × (Fp × Option Nat)) =>
    if up then decide (orderKey p.2.1 < orderKey p.1.1) else decide (orderKey p.1.1 < orderKey p.2.1))
  let pairs := bad.map (fun (p : (Fp × Option Nat) × (Fp × Option Nat)) =>
    match p.1.2, p.2.2 with
    | some g, some _ => 0x8000 + g
    | _, _ => 0x9000)
  let slopes := (if tSign t = 0 then [0, 1] else [0]).flatMap (fun h => [tTail t h 0, tTail t h 2])
  let badSlope := slopes.any (fun a => if up then decide (a.rat < 0) else decide (0 < a.rat))
  if badSlope then pairs ++ [0x9000] else pairs

/-- The detail of E_TABLE_IMAGE of an image of a stated length, if a check fails (Table 8-4, in its order; the lowest failing segment first). -/
def tableFault (t : Bytes) (len : Nat) : Option Nat :=
  let fm := fld t 4 1
  let segs := if fm = 1 then 32 else 16
  let halves := if tSign t = 0 then 2 else 1
  let codes := (List.range 8).map (fun k => fld t (20 + 4 * k) 4)
  let segCodes := ((List.range (tCount t)).map (fun g => (List.range 5).map (fun k => fld t (64 + 24 * g + 4 * k) 4))).flatten
  if fld t 0 4 ≠ 0x4C424154 then some 0x0001
  else if fm ≠ 1 ∧ fm ≠ 2 then some 0x0002
  else if 2 < tSign t ∨ 2 < tMono t ∨ (tMono t ≠ 0 ∧ (tSign t = 1 ∨ fm = 2)) then some 0x0003
  else if tLo t < -126 ∨ 127 < tLo t ∨ tHi t < tLo t ∨ 127 < tHi t then some 0x0004
  else if (tCount t : Int) ≠ halves * (tHi t - tLo t + 1) * segs ∨ 4096 < tCount t ∨ len ≠ 64 + 24 * tCount t then some 0x0005
  else if tId t = 0 then some 0x0006
  else if (codes ++ segCodes).any (fun c => !(f32 c).finite) then some 0x0007
  else if (fm = 2 ∧ (List.range (tCount t)).any (fun g => fld t (64 + 24 * g + 12) 4 != 0 || fld t (64 + 24 * g + 16) 4 != 0))
      ∨ (tSign t ≠ 0 ∧ !(zeros t 36 52)) ∨ fld t 7 1 ≠ 0 ∨ !(zeros t 52 64)
      ∨ (List.range (tCount t)).any (fun g => fld t (64 + 24 * g + 20) 4 != 0) then some 0x0008
  else if tMono t = 0 then none
  else
    match monotoneFaults t with
    | [] => none
    | x :: xs => some (xs.foldl min x)

/-! ### Slots -/

/-- The active image of a slot. -/
def TableSlot.image (x : TableSlot) : Option Bytes :=
  match x.active with
  | some true => x.bank1
  | some false => x.bank0
  | none => none

/-- A slot of a partition; unlisted, it is empty. -/
def State.table (s : State) (part slot : Nat) : TableSlot := NMap.getD s.tables (tableKey part slot) {}

/-- Whether a command holds a bank of a slot captured. -/
def State.bankHeld (s : State) (part slot : Nat) (b : Bool) : Bool :=
  (s.ownerCmds part).any (fun c => c.2.captured.any (fun k => k.1 == slot && k.2.1 == b))

/-- The bank that a load writes: the one not active; with none active, one that no command holds captured. -/
def State.inactiveBank (s : State) (part slot : Nat) : Bool :=
  match (s.table part slot).active with
  | some b => !b
  | none => s.bankHeld part slot false

/-- Range checks of TABLE_LOAD (Table 8-3). -/
def tableRange (d : Bytes) : Option Nat :=
  let load := decide (fld d 17 1 = 0)
  let len := fld d 20 4
  firstBad
    [ (16, decide (127 < fld d 16 1)), (17, decide (1 < fld d 17 1)), (18, !(zeros d 18 20)),
      (20, if load then decide (98368 < len) || decide (len < 64) || decide ((len - 64) % 24 ≠ 0) else decide (len ≠ 0)),
      (24, if load then decide (fld d 24 8 % 64 ≠ 0) else decide (fld d 24 8 ≠ 0)), (32, !(zeros d 32 128)) ]

/-- Whether a load or clear of a slot must wait: the inactive bank is captured, or an earlier command of the slot is not done (R211). -/
def State.tableWaits (s : State) (id part slot : Nat) : Bool :=
  s.bankHeld part slot (s.inactiveBank part slot) ||
    (s.ownerCmds part).any (fun c => decide (c.1 < id) && decide (c.2.opcode = 0x46) && decide (c.2.f 16 1 = slot))

/-- TABLE_LOAD (R208, R211): a checked image goes into the inactive bank, which becomes active at commit. -/
def execTableLoad (cmd : Nat) (s : State) : Host.Outcome State Fault Refusal :=
  .next (control 0x46 (fun c => decide (c.f 17 1 = 0)) (fun c s =>
    let slot := c.f 16 1
    let img := s.hostRead (c.f 24 8) (c.f 20 4)
    let dma := fun (a : State) => a.asDma (s.functionOf c.owner) false (c.f 24 8) (c.f 20 4)
    match tableFault img (c.f 20 4) with
    | some dt => (dma s).settle cmd (.error (E_TABLE_IMAGE, dt))
    | none =>
      if s.tableWaits cmd c.owner slot then s
      else
        let s := dma s
        let fits := match NMap.get? s.parts c.owner with
          | some p => p.dieList.all (fun d => decide (s.t2Use c.owner d + img.length ≤ s.setting c.owner 0x0002 d))
          | none => false
        if !fits then s.settle cmd (.error (E_QUOTA, 0))
        else
          let b := s.inactiveBank c.owner slot
          let x := s.table c.owner slot
          let x1 : TableSlot := if b then { x with bank1 := some img, active := some b } else { x with bank0 := some img, active := some b }
          s.settle cmd (.ok ({ s with tables := NMap.set s.tables (tableKey c.owner slot) x1 }, OK, 0))) cmd s)

/-- TABLE_LOAD with ACTION clear (R211): the slot has no active bank from the commit on. -/
def execTableClear (cmd : Nat) (s : State) : Host.Outcome State Fault Refusal :=
  .next (control 0x46 (fun c => decide (c.f 17 1 = 1)) (fun c s =>
    let slot := c.f 16 1
    if s.tableWaits cmd c.owner slot then s
    else
      s.settle cmd (.ok ({ s with tables := NMap.set s.tables (tableKey c.owner slot) { s.table c.owner slot with active := none } }, OK, 0))) cmd s)

end Sys2Proof.Machine
end

