-- ==== Sys2Proof/Machine/Temper.lean ====
section
/-! DEFINITION. Plan sections, and the temper monitor: folds, precision events, format and anchor decisions, the precision reserve and the storm count (R109 to R123). -/

namespace Sys2Proof.Machine

/-! ### Sections of a plan image (R55, R56) -/

/-- The directory of an image: type, offset, length by index. -/
def planDir (img : Bytes) : List (Nat × Nat × Nat) :=
  (List.range (fld img 6 2)).map (fun i => (fld img (64 + 16 * i) 2, fld img (64 + 16 * i + 4) 4, fld img (64 + 16 * i + 8) 4))

/-- The bytes of a section, if the image has one of the type. -/
def planSection (img : Bytes) (type : Nat) : Option Bytes :=
  ((planDir img).find? (fun e => e.1 == type)).map (fun e => (img.drop e.2.1).take e.2.2)

/-- The bytes of a section, empty when absent: its fields then read zero. -/
def Plan.sec (p : Plan) (type : Nat) : Bytes := (planSection p.image type).getD []

def State.plan? (s : State) (part id : Nat) : Option Plan := NMap.get? s.plans (planKey part id)
/-- The plan a command names. -/
def State.planOf (s : State) (c : Cmd) : Plan := (s.plan? c.owner (dPlan c.desc)).getD {}

/-- A signed field. -/
def sfld (b : Bytes) (off n : Nat) : Int := signedOf (8 * n) (fld b off n)

/-! ### The formats section (Tables 3-7 and 4-5) -/

def fsA (f : Bytes) : Nat := fld f 0 1
def fsB (f : Bytes) : Nat := fld f 1 1
def fsOut (f : Bytes) : Nat := fld f 2 1
def fsAcc (f : Bytes) : Nat := fld f 3 1
def fsRound (f : Bytes) : Nat := fld f 4 1
def fsMxA (f : Bytes) : Int := sfld f 5 1
def fsMxB (f : Bytes) : Int := sfld f 6 1
def fsAnchor (f : Bytes) : Nat := fld f 8 2
def fsScale (f : Bytes) : Fp := f32 (fld f 12 4)
def fsMinLost (f : Bytes) : Nat := fld f 32 1
def fsMaxProm (f : Bytes) : Nat := fld f 33 1
def fsTrack (f : Bytes) : Bool := bitOf (fld f 34 1) 0
def fsAllow (f : Bytes) : Bool := bitOf (fld f 34 1) 1
def fsJump (f : Bytes) : Nat := fld f 35 1
def fsLayer (f : Bytes) : Nat := fld f 36 2
def fsLoss (f : Bytes) : Nat := fld f 38 1
def fsDemote (f : Bytes) : Nat := fld f 39 1
def fsInit (f : Bytes) : Int := sfld f 40 2
def fsHead (f : Bytes) : Nat := fld f 42 1

/-! ### Layer entries -/

def State.temper (s : State) (part layer : Nat) : Temper := NMap.getD s.tempers (layerKey part layer) {}
def State.setTemper (s : State) (part layer : Nat) (x : Temper) : State :=
  { s with tempers := NMap.set s.tempers (layerKey part layer) x }

/-- Insert into a rising list. -/
def insertInt (a : Int) : List Int → List Int
  | [] => [a]
  | b :: bs => if a ≤ b then a :: b :: bs else b :: insertInt a bs

/-- The lower median: the ⌈n/2⌉-th smallest (R113). -/
def lowerMedian (xs : List Int) : Int := ((xs.foldl (fun acc a => insertInt a acc) []).getD ((xs.length + 1) / 2 - 1) 0)

/-- An exponent limited to the anchor range (R116). -/
def clampAnchor (a : Int) : Int := max (-300) (min 300 a)

/-- Whether a fold of statistics raises a precision event (R113). -/
def precisionEvent (f : Bytes) (hist : List Int) (x : Stats) : Bool :=
  (decide (4 ≤ hist.length) && decide (lowerMedian hist + (fsJump f : Int) ≤ x.amax)) ||
  decide (x.degraded ≠ 0) ||
  (decide (fsLoss f ≠ 0) && decide (x.nonzero < x.lost * 2 ^ fsLoss f))

/-- Fold a layer's pending record: the newest history entry, the event, the state the layer enters (R112 step 2, R113, R114), and the anchor bump reset (R116). -/
def foldTemper (f : Bytes) (t : Temper) (x : Stats) : Temper :=
  let ev := precisionEvent f t.hist x
  let base := decide (t.state ≠ 1)
  let clean := if ev then 0 else if base then t.clean else min (t.clean + 1) 255
  let state := if base then (if ev && fsAllow f then 1 else 0) else if !ev && decide (fsDemote f ≤ clean) then 0 else 1
  { t with hist := (x.amax :: t.hist).take 8, prodExp := x.prod, degraded := satBits 32 x.degraded, promoted := satBits 32 x.promoted,
           lost := satBits 64 x.lost, nonzero := satBits 64 x.nonzero, events := if ev then satBits 32 (t.events + 1) else t.events,
           state := state, clean := clean, bump := if t.overflowed then t.bump else 0, pending := none }

/-- Whether a layer went from BASE or REFUSED to a promotion decision. -/
def newlyPromoted (before after : Temper) : Bool := decide (before.state ≠ 1) && decide (after.state = 1)

/-- The anchor that a step is decided with when the plan or descriptor asks for the temper anchor (R116). R116 states the clamp with a history only; without one the model clamps ANCHOR_INIT plus ANCHOR_BUMP to the same range: its choice (log entry 33). -/
def temperAnchor (f : Bytes) (t : Temper) : Int :=
  match t.hist with
  | [] => clampAnchor (fsInit f + (t.bump : Int))
  | a :: _ => clampAnchor (max a t.prodExp + (fsHead f : Int) + (t.bump : Int))

/-- Decide a step: fold a record of a lower step, then fix format and anchor (R112 step 2). Where commands of one layer run different plans, the fold uses the fields of the plan of the command being admitted: the model's choice (log entry 33). -/
def decideStep (f : Bytes) (t : Temper) (step : Nat) : Temper :=
  let t1 :=
    match t.pending with
    | some (p, x) => if p < step then foldTemper f t x else t
    | none => if t.state = 2 then { t with state := 0 } else t
  { t1 with decided := true, step := step, anchor := temperAnchor f t1, overflowed := false,
            curFmt := if t1.state = 1 then 0x07 else if fsOut f = 0x07 then 0x07 else 0x01 }

/-- R123: count a promotion decision of a step; the first excess over the threshold raises one record of origin IS on a die. -/
def State.countStorm (s : State) (part step home : Nat) : State :=
  match NMap.get? s.parts part with
  | none => s
  | some p =>
    let n := NMap.getD p.storm step 0 + 1
    let hit := decide (p.setting 0x000E 0 < n) && !(p.stormSeen.contains step)
    let p1 := { p with storm := NMap.set p.storm step n, stormSeen := if hit then p.stormSeen ++ [step] else p.stormSeen }
    let s1 := { s with parts := NMap.set s.parts part p1 }
    if hit then
      s1.report { origin := originId home 2 0, cls := 0x0C, reporter := originId home 2 0, status := E_PRECISION_STORM,
                  detail := step % 65536, partition := part }
    else s1

/-- What admission decides for a tracked command: the format written, whether the layer is refused, the anchor and the reserve drawn by object (R112, R114, R116, R120). -/
structure Decision where
  fmt : Nat
  refused : Bool := false
  anchor : Int := 0
  draws : List (Nat × Nat) := []
  deriving DecidableEq, Repr

/-- The reserve an object's FP8 content needs, when its inactive version is not already held in FP8 (R120). -/
def Obj.drawNeed (o : Obj) : Nat :=
  if o.extended.any (fun e => e.1 == 1 - slotIn o.vmap e.2) then 0 else 6144 * o.count

/-- Draw the reserve for the objects a promoted command writes: all of it, or nothing and the layer is REFUSED (R120). -/
def State.drawReserve (s : State) (part layer : Nat) (outs : List Nat) : State × Decision :=
  let t := s.temper part layer
  let needs := outs.filterMap (fun k => (NMap.get? s.objects k).bind (fun o =>
    if o.drawNeed = 0 then none else some (k, o.drawNeed)))
  let total := (needs.map (·.2)).sum
  if s.reserveUse part + total ≤ s.setting part 0x0003 0 then
    (s.setTemper part layer { t with reserveKib := satBits 32 (t.reserveKib + total / 1024) },
      { fmt := 0x07, anchor := t.anchor, draws := needs })
  else (s.setTemper part layer { t with state := 2, curFmt := 0x01 }, { fmt := 0x01, refused := true, anchor := t.anchor })

/-- R112 for a command that names a layer and a step, after the hold of its first case: none is E_TEMPER_ORDER. `outs` are the objects the command writes. -/
def State.temperAdmit (s : State) (f : Bytes) (part step home : Nat) (outs : List Nat) : Option (State × Decision) :=
  let layer := fsLayer f
  let t := s.temper part layer
  if t.decided && decide (step < t.step) then none
  else
    let fresh := !(t.decided && decide (step = t.step))
    let t1 := if fresh then decideStep f t step else t
    let s1 := s.setTemper part layer t1
    let s2 := if fresh && newlyPromoted t t1 then s1.countStorm part step home else s1
    if fsOut f ≠ 0x01 then some (s2, { fmt := fsOut f, anchor := t1.anchor })
    else if t1.state = 1 then some (s2.drawReserve part layer outs)
    else some (s2, { fmt := 0x01, refused := decide (t1.state = 2), anchor := t1.anchor })

/-- Sum two records of statistics (R111): maxima and additions. -/
def Stats.merge (a b : Stats) : Stats :=
  { amax := max a.amax b.amax, prod := max a.prod b.prod, lost := a.lost + b.lost, nonzero := a.nonzero + b.nonzero,
    degraded := a.degraded + b.degraded, promoted := a.promoted + b.promoted }

/-- R111: merge a committing command's statistics into its layer's pending record for the step. -/
def State.mergeStats (s : State) (part layer step : Nat) (x : Stats) : State :=
  let t := s.temper part layer
  let y :=
    match t.pending with
    | some (p, old) => if p = step then (p, old.merge x) else (step, x)
    | none => (step, x)
  s.setTemper part layer { t with pending := some y }

/-- R116: a command of the layer's temper anchor failed E_WINDOW_OVERFLOW. -/
def State.raiseAnchor (s : State) (part layer : Nat) : State :=
  let t := s.temper part layer
  let b := min (t.bump + 16) 64
  s.setTemper part layer { t with bump := b, overflowed := true, anchor := clampAnchor (t.anchor + ((b - t.bump : Nat) : Int)) }

/-- Give reserve back to a layer's entry. -/
def State.unreserve (s : State) (part layer bytes : Nat) : State :=
  let t := s.temper part layer
  s.setTemper part layer { t with reserveKib := t.reserveKib - bytes / 1024 }

/-- R121: after a commit, the command's draws pass to the objects it drew them for, and an object neither version of which is FP8 gives its draws back. -/
def State.settleDraws (s : State) (part : Nat) (c : Cmd) : State :=
  let s1 := c.draws.foldl (fun (a : State) (d : Nat × Nat) =>
    match NMap.get? a.objects d.1 with
    | some o => a.setObj d.1 { o with draw := o.draw ++ [(c.drawLayer, d.2)] }
    | none => a) s
  (s.commits c).foldl (fun (a : State) (w : Written) =>
    match NMap.get? a.objects w.key with
    | some o =>
      if o.extended.isEmpty && !o.draw.isEmpty then
        o.draw.foldl (fun (b : State) (d : Nat × Nat) => b.unreserve part d.1 d.2) (a.setObj w.key { o with draw := [] })
      else a
    | none => a) s1

end Sys2Proof.Machine
end

