-- ==== Sys2Proof/Machine/Tensor.lean ====
section
/-! DEFINITION. What a TENSOR_OP computes: live regions, operand tiles, gathered convolution rows, normalisation on fetch, the three arithmetic paths, pooling, epilogue, conversion and the written ingot (R83 to R98, R130 to R162, R215 to R218, R249, R256 to R262, R585). -/

namespace Sys2Proof.Machine

/-! ### The sections (Tables 6-1, 11-1, 5-6, 8-5) -/

def opKind (t : Bytes) : Nat := fld t 0 1
def opM (t : Bytes) : Nat := fld t 8 4
def opN (t : Bytes) : Nat := fld t 12 4
def opK (t : Bytes) : Nat := fld t 16 4
def opBatch (t : Bytes) : Nat := fld t 20 4
def bcastA (t : Bytes) : Bool := bitOf (fld t 4 1) 0
def bcastB (t : Bytes) : Bool := bitOf (fld t 4 1) 1
def deltaOn (t : Bytes) : Bool := fld t 5 1 == 1
def transA (e : Bytes) : Bool := bitOf (fld e 1 1) 0
def transB (e : Bytes) : Bool := bitOf (fld e 1 1) 1
def sparseSel (e : Bytes) : Nat := fld e 2 1
/-- Epilogue entry i: operation, table slot, immediate. -/
def epiEntry (e : Bytes) (i : Nat) : Nat × Nat × Nat := (fld e (16 + 8 * i) 1, fld e (17 + 8 * i) 1, fld e (20 + 8 * i) 4)
def epilogue (e : Bytes) : List (Nat × Nat × Nat) := (List.range (fld e 3 1)).map (epiEntry e)
def usesAux (e : Bytes) : Bool := (epilogue e).any (fun x => x.1 == 2 || x.1 == 3 || x.1 == 7)
def usesBias (e : Bytes) : Bool := (epilogue e).any (fun x => x.1 == 1)
def normMode (n : Bytes) : Nat := fld n 1 1
def normFmt (n : Bytes) : Nat := fld n 2 1
def normGroup (n : Bytes) : Nat := fld n 4 4
def normSpan (n : Bytes) : Nat := fld n 8 4
/-- Convolution or transposed convolution. -/
def isConv (t : Bytes) : Bool := opKind t == 1 || opKind t == 2
def isPool (t : Bytes) : Bool := opKind t == 3

/-- One dimension of a convolution: 0 time, 1 height, 2 width (Table 11-1). -/
structure Dim where
  inp : Nat
  out : Nat
  k : Nat
  s : Nat
  d : Nat
  before : Nat
  after : Nat
  fin : Nat
  fout : Nat
  deriving DecidableEq, Repr

/-- The fields of a dimension, with the padding of R259. -/
def convDim (t : Bytes) (x : Nat) : Dim :=
  let p := fld t (98 + 2 * x) 2
  let causal := decide (x = 0) && bitOf (fld t 87 1) 0
  { inp := fld t (68 + 2 * x) 2, out := fld t (76 + 2 * x) 2, k := fld t (84 + x) 1, s := fld t (88 + x) 1,
    d := fld t (92 + 2 * x) 2, before := if causal then 2 * p else p, after := if causal then 0 else p,
    fin := fld t (104 + x) 1, fout := fld t (108 + x) 1 }

def convCin (t : Bytes) : Nat := fld t 74 2
/-- CP of R258. -/
def convCp (t : Bytes) : Nat := ceilDiv (convCin t) 128 * 128
def convTaps (t : Bytes) : Nat := (convDim t 0).k * (convDim t 1).k * (convDim t 2).k

/-- The row of a position in a planar map of extents and phase factors (R256). -/
def planarRow (ph : Bool) (ext fac : Nat × Nat × Nat) (p : Nat × Nat × Nat) : Nat :=
  let raster := fun (e q : Nat × Nat × Nat) => (q.1 * e.2.1 + q.2.1) * e.2.2 + q.2.2
  if !ph then raster ext p
  else
    let small := (ext.1 / fac.1, ext.2.1 / fac.2.1, ext.2.2 / fac.2.2)
    let phase := (p.1 % fac.1 * fac.2.1 + p.2.1 % fac.2.1) * fac.2.2 + p.2.2 % fac.2.2
    phase * (small.1 * small.2.1 * small.2.2) + raster small (p.1 / fac.1, p.2.1 / fac.2.1, p.2.2 / fac.2.2)

/-- The position of a row, the inverse of `planarRow`. -/
def planarPos (ph : Bool) (ext fac : Nat × Nat × Nat) (row : Nat) : Nat × Nat × Nat :=
  let raster := fun (e : Nat × Nat × Nat) (r : Nat) => (r / (e.2.1 * e.2.2), r / e.2.2 % e.2.1, r % e.2.2)
  if !ph then raster ext row
  else
    let small := (ext.1 / fac.1, ext.2.1 / fac.2.1, ext.2.2 / fac.2.2)
    let n := small.1 * small.2.1 * small.2.2
    let phase := row / n
    let q := raster small (row % n)
    (q.1 * fac.1 + phase / (fac.2.1 * fac.2.2), q.2.1 * fac.2.1 + phase / fac.2.2 % fac.2.1, q.2.2 * fac.2.2 + phase % fac.2.2)

/-- The input position that an output position reads through one tap index of a dimension (R259). -/
def sourcePos (kind : Nat) (x : Dim) (o tap : Nat) : Option Nat :=
  if kind = 2 then
    let n : Int := (o : Int) + x.before - tap * x.d
    if n < 0 ∨ n % (x.s : Int) ≠ 0 then none
    else let i := (n / (x.s : Int)).toNat; if i < x.inp then some i else none
  else
    let i : Int := (o : Int) * x.s - x.before + tap * x.d
    if 0 ≤ i ∧ i < (x.inp : Int) then some i.toNat else none

/-- The stored input row that output row r reads through tap τ, if it lies inside the input (R259, R260). -/
def sourceRow (t : Bytes) (r tap : Nat) : Option Nat :=
  let a := convDim t 0
  let b := convDim t 1
  let c := convDim t 2
  let o := planarPos (fld t 66 1 == 1) (a.out, b.out, c.out) (a.fout, b.fout, c.fout) r
  match sourcePos (opKind t) a o.1 (tap / (b.k * c.k)), sourcePos (opKind t) b o.2.1 (tap / c.k % b.k), sourcePos (opKind t) c o.2.2 (tap % c.k) with
  | some x, some y, some z => some (planarRow (fld t 65 1 == 1) (a.inp, b.inp, c.inp) (a.fin, b.fin, c.fin) (x, y, z))
  | _, _, _ => none

/-! ### Operands -/

/-- An operand as a command reads it: its role (1 A, 2 B, 3 aux, 4 bias), object, version map, and live extents in stored coordinates (R149). -/
structure Operand where
  role : Nat
  key : Nat
  o : Obj
  vmap : List Nat
  rows : Nat
  cols : Nat
  batch : Nat
  bcast : Bool := false
  mx : Int := 0
  strict : Bool := false
  sparse : Option Bool := none
  deriving DecidableEq, Repr

/-- The failure that a bad element of a role raises (Table 3-6, Table 5-10). The spec gives no detail for two cases, and the model uses operand A's: an E8M0 scale of an aux object out of range (log entry 90), and a bad nibble of a 2:4 aux or bias object (log entry 91). DESIGN CHOICE both. -/
def badFail (role : Nat) (b : Bad) : Nat × Nat :=
  match b with
  | .element => (E_NONFINITE, if role = 3 then 6 else if role = 4 then 8 else role)
  | .scale => (E_NONFINITE, if role = 3 then 7 else if role = 4 then 8 else role + 2)
  | .mxNan => (E_NONFINITE, 5)
  | .mxRange => (E_SCALE_RANGE, if role = 2 then 2 else 1)
  | .nibble => (E_SPARSE_META, if role = 2 then 2 else 1)

/-- Values with the failures met in reading them. -/
abbrev Got := List Fp × List (Nat × Nat)

/-- Join pieces. -/
def Got.join (xs : List Got) : Got := ((xs.map (·.1)).flatten, (xs.map (·.2)).flatten)

/-- An ingot that an operand's fetch names: its batch, ingot row and ingot column in the stored object. -/
def Operand.ingotOf (x : Operand) (b i j : Nat) : Nat := x.o.index (if x.bcast then 0 else b) i j

/-- Poison that a fetch of an ingot meets in the bytes it takes (R263, R338, R351). -/
def Operand.poison (x : Operand) (n die : Nat) : Option Nat :=
  let v := slotIn x.vmap n
  let lo := n * x.o.slot
  firstSome ((x.o.fetchRuns v n).map (fun r => x.o.poisonAt v (lo + r.1) (lo + r.1 + r.2) (x.o.readDie n die)))

/-- What a fetch of an ingot fails with apart from its elements: poison (R338), a bad nibble anywhere in it, and a 2:4 setting that differs from the plan's (R133). DEDUCED: an ingot never written is read as a zero ingot of its object, with the object's SPARSE (R351; log entry 13). A header whose SPARSE_AXIS does not run along the contraction fails nothing, since R133 compares SPARSE alone; such an ingot is read by its header's axis: DESIGN CHOICE (log entry 92). -/
def Operand.fetchFails (x : Operand) (n die : Nat) : List (Nat × Nat) :=
  let p := match x.poison n die with | some k => [(E_MEM_UNCORRECTABLE, k)] | none => []
  let b := x.o.header (slotIn x.vmap n) n
  let nib := if (headerOf b).sparse && badNibble (x.o.ingot (slotIn x.vmap n) n) then [badFail x.role .nibble] else []
  let q := p ++ nib
  match x.sparse with
  | some want => if (if unwritten b then x.o.sparse else (headerOf b).sparse) != want then q ++ [(E_SPARSE_META, if x.role = 2 then 4 else 3)] else q
  | none => q

/-- The run of stored elements (row, col), (row + dr, col + dc), … of an operand, padding read as zero (R160). `zero` says which ingots this use reads as zero (R367). -/
def Operand.run (x : Operand) (die b row col : Nat) (dr dc : Nat) (n : Nat) (zero : Nat → Bool) : Got :=
  let ing := x.ingotOf b (row / 128) (col / 128)
  let inBatch := decide ((if x.bcast then 0 else b) < x.batch)
  let live := fun (k : Nat) => inBatch && decide (row + k * dr < x.rows) && decide (col + k * dc < x.cols)
  if !((List.range n).any live) || zero ing then (List.replicate n Fp.zero, [])
  else
    let bytes := x.o.ingot (slotIn x.vmap ing) ing
    let vals := (List.range n).map (fun k =>
      if live k then element bytes x.mx x.strict ((row + k * dr) % 128) ((col + k * dc) % 128) else .ok Fp.zero)
    (vals.map (fun v => match v with | .ok q => q | .error _ => Fp.zero),
      x.fetchFails ing die ++ vals.filterMap (fun v => match v with | .ok _ => none | .error e => some (badFail x.role e)))

/-- The ingot that holds a stored element, when a live element of the operand stands there. -/
def Operand.reads (x : Operand) (b row col : Nat) : List (Nat × Nat) :=
  if (if x.bcast then 0 else b) < x.batch ∧ row < x.rows ∧ col < x.cols then [(x.key, x.ingotOf b (row / 128) (col / 128))] else []

/-! ### A command's context -/

/-- Everything a run of a TENSOR_OP reads: sections, descriptor, operands, output, mask and the results of its scans. -/
structure TCtx where
  t : Bytes
  f : Bytes
  e : Bytes
  n : Bytes
  c : Cmd
  a : Operand
  b : Option Operand
  aux : Option Operand
  bias : Option Operand
  outKey : Nat
  out : Obj
  mask : Option (Obj × List Nat)
  deriving DecidableEq, Repr

def TCtx.strict (x : TCtx) : Bool := fsAcc x.f == 2
def TCtx.mAct (x : TCtx) : Nat := x.c.f 40 4
def TCtx.nAct (x : TCtx) : Nat := x.c.f 44 4
def TCtx.kAct (x : TCtx) : Nat := x.c.f 48 4
def TCtx.bAct (x : TCtx) : Nat := x.c.f 52 4
/-- Live extents of the output (R149). -/
def TCtx.mLive (x : TCtx) : Nat := min x.mAct x.out.rows
def TCtx.nLive (x : TCtx) : Nat := min x.nAct x.out.cols
def TCtx.bLive (x : TCtx) : Nat := min x.bAct x.out.batch

/-- K_live: the contraction length of operand A's live region (R151). -/
def TCtx.kLive (x : TCtx) : Nat :=
  if isConv x.t || isPool x.t then x.kAct else if transA x.e then x.a.rows else x.a.cols

/-- The k-steps of a tile (R151). -/
def TCtx.kSteps (x : TCtx) : Nat := ceilDiv x.kLive 128

/-- An operand of a command by its handle, as captured at its start. -/
def operandOf (s : State) (c : Cmd) (role off rows cols batch : Nat) (bcast : Bool) (mx : Int) (strict : Bool) (sparse : Option Bool) : Option Operand :=
  (s.obj? c.owner (c.f off 4)).map (fun p =>
    { role := role, key := p.1, o := p.2, vmap := c.viewOf p.1 p.2, rows := min rows p.2.rows, cols := min cols p.2.cols,
      batch := if bcast then 1 else min batch p.2.batch, bcast := bcast, mx := mx, strict := strict, sparse := sparse })

/-- The context of an admitted TENSOR_OP. -/
def State.tctx (s : State) (c : Cmd) : Option TCtx :=
  let p := s.planOf c
  let t := p.sec 1
  let f := p.sec 2
  let e := p.sec 3
  let m := c.f 40 4
  let n := c.f 44 4
  let k := c.f 48 4
  let bt := c.f 52 4
  let strict := fsAcc f == 2
  let conv := isConv t || isPool t
  let big := 2 ^ 33
  let a := operandOf s c 1 16 (if conv then (convDim t 0).inp * (convDim t 1).inp * (convDim t 2).inp else if transA e then k else m)
    (if conv then convCin t else if transA e then m else k) bt (bcastA t) (fsMxA f) strict (some (sparseSel e == 1))
  match a, s.obj? c.owner (c.f 24 4) with
  | some a, some (ok, out) =>
    some
      { t := t, f := f, e := e, n := p.sec 5, c := c, a := a,
        b := operandOf s c 2 20 (if transB e then n else k) (if transB e then k else n) bt (bcastB t) (fsMxB f) strict (some (sparseSel e == 2)),
        aux := operandOf s c 3 28 m n bt false 0 strict none,
        bias := operandOf s c 4 32 1 n big false 0 strict none,
        outKey := ok, out := out,
        mask := if out.gradMask = 0 then none else (s.obj? c.owner out.gradMask).map (fun q => (q.2, c.viewOf q.1 q.2)) }
  | _, _ => none

/-! ### The computed grid (R148 to R150, R250) -/

/-- Whether a row of the gradient object is trained (R249). -/
def TCtx.rowTrained (x : TCtx) (r : Nat) : Bool :=
  match x.mask with
  | none => true
  | some (o, v) =>
    let fl := o.readNat v 8 1
    let tiles := ceilDiv x.out.rows 128 * ceilDiv x.out.cols 128
    let base := if bitOf fl 0 then 64 + 64 * ceilDiv (ceilDiv tiles 8) 64 else 64
    if bitOf fl 1 then bitOf (o.readNat v (base + r / 8) 1) (r % 8) else true

/-- Whether the mask leaves tile (i, j) in the computed grid (R250). -/
def TCtx.tileTrained (x : TCtx) (i j : Nat) : Bool :=
  match x.mask with
  | none => true
  | some (o, v) =>
    let k := i * ceilDiv x.out.cols 128 + j
    (!(bitOf (o.readNat v 8 1) 0) || bitOf (o.readNat v (64 + k / 8) 1) (k % 8)) &&
      (List.range 128).any (fun r => decide (128 * i + r < x.mLive) && x.rowTrained (128 * i + r))

/-- Tile rows and columns of the computed grid before the mask and the delta scan remove any. -/
def TCtx.tileRows (x : TCtx) : Nat := ceilDiv x.mLive 128
def TCtx.tileCols (x : TCtx) : Nat := ceilDiv x.nLive 128

/-- Whether output tile (b, i, j) is computed: live, trained, and its row group not skipped (R150, R168, R250). -/
def TCtx.computes (x : TCtx) (b i j : Nat) : Bool :=
  decide (b < x.bLive) && decide (i < x.tileRows) && decide (j < x.tileCols) && x.tileTrained i j && !(x.c.run.skipRows.contains i)

/-- The coordinates of the output ingot n. -/
def TCtx.coords (x : TCtx) (n : Nat) : Nat × Nat × Nat :=
  let rc := ceilDiv x.out.cols 128
  let rr := ceilDiv x.out.rows 128
  (n / (rr * rc), n / rc % rr, n % rc)

/-! ### Normalisation (R215 to R217) -/

/-- Cells of A's live region: columns per cell, cells in a row, rows of cells. -/
def TCtx.cellCols (x : TCtx) : Nat := if normGroup x.n = 0 then max x.a.cols 1 else normGroup x.n
def TCtx.cellsAcross (x : TCtx) : Nat := ceilDiv x.a.cols x.cellCols
def TCtx.cellOf (x : TCtx) (row col : Nat) : Nat := row / normSpan x.n * x.cellsAcross + col / x.cellCols
def TCtx.cellCount (x : TCtx) : Nat := ceilDiv x.a.rows (normSpan x.n) * x.cellsAcross

/-- The conversion of a cell's exact sums to mean and factor, as binary32 codes (R216). -/
def cellResult (mode : Nat) (n : Nat) (s1 s2 : Rat) (eps : Rat) : Nat × Nat :=
  let mu := if mode = 2 then rn32 (s1 / (n : Rat)) else Fp.zero
  let var := if mode = 2 then ((n : Rat) * s2 - s1 * s1) / ((n : Rat) * (n : Rat)) else s2 / (n : Rat)
  let v := (rn32 var).rat
  let w := (rn32 (v + eps)).rat
  (f32code mu, f32code (Fp.ofRat (rsqrt32 w)))

/-- The live elements of one cell (R215). -/
def TCtx.cellElements (x : TCtx) (dieOf : Nat → Nat) (cell : Nat) : Got :=
  let r0 := cell / x.cellsAcross * normSpan x.n
  let c0 := cell % x.cellsAcross * x.cellCols
  let nr := min (normSpan x.n) (x.a.rows - r0)
  let nc := min x.cellCols (x.a.cols - c0)
  Got.join ((List.range nr).map (fun r =>
    Got.join ((List.range (ceilDiv (c0 + nc) 128 - c0 / 128)).map (fun k =>
      let lo := max c0 ((c0 / 128 + k) * 128)
      let hi := min (c0 + nc) ((c0 / 128 + k + 1) * 128)
      x.a.run (dieOf ((r0 + r) / 128)) 0 (r0 + r) lo 0 1 (hi - lo) (fun _ => false)))))

/-- The statistics scan of every cell: the mean and factor of each, and what the reads failed with. `dieOf` says which die scans a row group of A (R215). -/
def TCtx.normScan (x : TCtx) (dieOf : Nat → Nat) : NMap (Nat × Nat) × List (Nat × Nat) :=
  let eps := (f32 (fld x.n 12 4)).rat
  let cells := (List.range x.cellCount).map (fun k =>
    let g := x.cellElements dieOf k
    let vs := g.1.map Fp.rat
    (k, cellResult (normMode x.n) vs.length (vs.foldl (· + ·) 0) (vs.foldl (fun a v => a + v * v) 0) eps, g.2))
  (cells.map (fun c => (c.1, c.2.1)), (cells.map (fun c => c.2.2)).flatten)

/-- Normalise a run of a stored row at columns `col` onward and quantise it to NORM_FMT (R217); a block that passes R80 fails E_NORM_RANGE with its row group, 128 stored rows of A (R218). -/
def TCtx.normRow (x : TCtx) (row col : Nat) (vs : List Fp) : Got :=
  let live := fun (k : Nat) => decide (row < x.a.rows) && decide (col + k < x.a.cols)
  let ys := vs.zipIdx.map (fun (v : Fp × Nat) =>
    if live v.2 then
      let p := NMap.getD x.c.run.cells (x.cellOf row (col + v.2)) (0, 0)
      some ((v.1.rat - (f32 p.1).rat) * (f32 p.2).rat)
    else none)
  let fm := normFmt x.n
  let bs := blocksOf (fmtBlock fm) ys
  ((bs.map (fun b => let q := quantBlock fm b none; q.codes.map (fun k => Fp.ofRat ((codeValue fm k).rat * scaleValue q.scale)))).flatten,
    if bs.any (overScale fm) then [(E_NORM_RANGE, min (row / 128) 0xFFFF)] else [])

/-! ### Vectors of a tile -/

/-- Whether a use reads a zero ingot: an ingot of an operand at one k-step of a tile, each use being judged on its own (R365, R367). -/
def TCtx.zeroUse (x : TCtx) (tile role k n : Nat) : Bool := x.c.run.zeroUses.contains (tile, role, n, k)

/-- Whether tap τ is dead for tile row i: no live row of the tile has a source (R261). Strict mode marks none. -/
def TCtx.deadTap (x : TCtx) (i tap : Nat) : Bool :=
  !x.strict && (List.range 128).all (fun r => decide (x.mLive ≤ 128 * i + r) || (sourceRow x.t (128 * i + r) tap).isNone)

/-- A run of stored row `row` of A as the operand router passes it on: normalised at fetch when the plan normalises (R217). A use that takes ZERO reads a zero ingot whose products are skipped, so it stays zero (R367). -/
def TCtx.aRun (x : TCtx) (die tile b row col k : Nat) : Got :=
  let z := x.zeroUse tile 1 k
  let g := x.a.run die b row col 0 1 128 z
  if normMode x.n = 0 || z (x.a.ingotOf b (row / 128) (col / 128)) then g else let y := x.normRow row col g.1; (y.1, g.2 ++ y.2)

/-- The 128 contraction elements that output row `row` takes from operand A at k-step k. -/
def TCtx.aPiece (x : TCtx) (die tile b i row k : Nat) : Got :=
  if isConv x.t then
    let tap := 128 * k / convCp x.t
    let ch := 128 * k % convCp x.t
    if x.deadTap i tap then (List.replicate 128 Fp.zero, [])
    else
      match (if row < x.mLive then sourceRow x.t row tap else none) with
      | none => (List.replicate 128 Fp.zero, [])
      | some r => x.aRun die tile b r ch k
  else if transA x.e then x.a.run die b (128 * k) row 1 0 128 (x.zeroUse tile 1 k)
  else x.aRun die tile b row (128 * k) k

/-- The 128 contraction elements that output column `col` takes from operand B at k-step k; a dead tap's weights are not read. -/
def TCtx.bPiece (x : TCtx) (die tile b i col k : Nat) : Got :=
  match x.b with
  | none => (List.replicate 128 Fp.zero, [])
  | some w =>
    if isConv x.t && x.deadTap i (128 * k / convCp x.t) then (List.replicate 128 Fp.zero, [])
    else if transB x.e then w.run die b col (128 * k) 0 1 128 (x.zeroUse tile 2 k)
    else w.run die b (128 * k) col 1 0 128 (x.zeroUse tile 2 k)

/-- A row of A, and a column of B, over the whole contraction. -/
def TCtx.aRow (x : TCtx) (die tile b i row : Nat) : Got :=
  let g := Got.join ((List.range x.kSteps).map (x.aPiece die tile b i row))
  (g.1.take x.kLive, g.2)
def TCtx.bCol (x : TCtx) (die tile b i col : Nat) : Got :=
  let g := Got.join ((List.range x.kSteps).map (x.bPiece die tile b i col))
  (g.1.take x.kLive, g.2)

/-- The element of A at a stored row and column as a pooling tap reads it: normalised with its block when the plan normalises (R217, R262). -/
def TCtx.tapValue (x : TCtx) (die tile b row col tap : Nat) : Got :=
  if normMode x.n = 0 then x.a.run die b row col 0 1 1 (x.zeroUse tile 1 tap)
  else let g := x.aRun die tile b row (col / 128 * 128) tap; ([g.1.getD (col % 128) Fp.zero], g.2)

/-- The pooled value of output (row, col): maximum or mean over its live taps (R262). -/
def TCtx.pooled (x : TCtx) (die tile b row col : Nat) : Rat × List (Nat × Nat) :=
  let gs := (List.range (convTaps x.t)).filterMap (fun tap => (sourceRow x.t row tap).map (fun r => x.tapValue die tile b r col tap))
  let vs := gs.map (fun g => (g.1.headD Fp.zero).rat)
  let n := match fld x.t 67 1 with
    | 1 => vs.length
    | _ => convTaps x.t
  let y := match vs with
    | [] => 0
    | v :: rest => if fld x.t 67 1 = 0 then rest.foldl max v else (vs.foldl (· + ·) 0) / (n : Rat)
  (y * pow2 (fsMxA x.f), (gs.map (·.2)).flatten)

/-! ### Values and conversion -/

/-- OUT_SCALE with the MX factors (R86, R87). -/
def TCtx.scale (x : TCtx) : Rat := (fsScale x.f).rat * pow2 (fsMxA x.f) * pow2 (fsMxB x.f)

/-- The output value before conversion of one sum, or a window overflow (R87, R91, R95). -/
def TCtx.value (x : TCtx) (a b : List Fp) : Option Fp :=
  match fsAcc x.f with
  | 0 => some (Fp.ofRat (dotExact (a.map Fp.rat) (b.map Fp.rat) * x.scale))
  | 1 => (dotWindow x.c.anchor (a.map Fp.rat) (b.map Fp.rat)).map (fun w => Fp.ofRat ((w : Rat) * pow2 (x.c.anchor - 95) * x.scale))
  | _ =>
    match dotStrict a b with
    | .fin n m => let q := x.scale; some (.fin (n != decide (q < 0)) (m * ratAbs q))
    | other => some other

/-- One epilogue operation on a binary32 value (Table 5-4). -/
def epiOp (c : Cmd) (op : Nat × Nat × Nat) (bias aux v : Fp) : Option Fp :=
  match op.1 with
  | 0 => some v
  | 1 => some (add32 v bias)
  | 2 => some (add32 v aux)
  | 3 => some (mul32 v aux)
  | 4 => some (add32 v (f32 op.2.2))
  | 5 => some (mul32 v (f32 op.2.2))
  | 6 => c.sf op.2.1 v
  | 7 => (c.sf op.2.1 aux).map (fun y => mul32 v y)
  | _ => let m := f32 op.2.2; some (if ltFp m v then m else if ltFp v (negFp m) then negFp m else v)

/-- Run the epilogue from binary32 on; a non-finite value at any step ends it (R135). -/
def epiRun (c : Cmd) (bias aux : Fp) : List (Nat × Nat × Nat) → Fp → Option Fp
  | [], v => if v.finite then some v else none
  | op :: ops, v =>
    if !v.finite then none
    else match epiOp c op bias aux v with
      | some w => epiRun c bias aux ops w
      | none => none

/-- The value that enters conversion (R135): the sum itself with no epilogue, else the binary32 result of the epilogue. -/
def TCtx.final (x : TCtx) (y bias aux : Fp) : Option Fp :=
  if fld x.e 3 1 = 0 then (if y.finite then some y else none)
  else
    match y with
    | .fin n m => epiRun x.c bias aux (epilogue x.e) (fp32.round n m)
    | _ => none

/-- bias[n] of a batch index (R585). -/
def TCtx.biasAt (x : TCtx) (die tile b col : Nat) : Fp × List (Nat × Nat) :=
  match x.bias with
  | some w =>
    if usesBias x.e then
      let g := w.run die (if w.o.batch = 1 then 0 else b) 0 col 0 1 1 (x.zeroUse tile 4 0)
      (g.1.headD Fp.zero, g.2)
    else (Fp.zero, [])
  | none => (Fp.zero, [])

/-- aux[m, n] of a batch index, widened to binary32. -/
def TCtx.auxAt (x : TCtx) (die tile b row col : Nat) : Fp × List (Nat × Nat) :=
  match x.aux with
  | some w =>
    if usesAux x.e then let g := w.run die b row col 0 1 1 (x.zeroUse tile 3 0); (g.1.headD Fp.zero, g.2) else (Fp.zero, [])
  | none => (Fp.zero, [])

/-- The long accumulator of an exact sum T in its unit: the low 96 bits, the carries that left them, and the residue (R93, R124, R130). -/
def accOf (t : Int) : Acc :=
  let w := BitVec.ofInt 96 t
  { w := w, carry := BitVec.ofInt 24 ((t - w.toInt) / 2 ^ 96), residue := BitVec.ofInt 4 (t % 15) }

/-- The sum an accumulator holds for one output element: in units of 2^-36 on the exact path (R87), of 2^(A - 95) on the windowed one (R91). Strict mode uses none. -/
def TCtx.accSum (x : TCtx) (a b : List Fp) : Int :=
  let ps := List.zipWith (fun (p q : Fp) => p.rat * q.rat) a b
  if fsAcc x.f = 1 then (ps.map (fun p => (p / pow2 (x.c.anchor - 95)).floor)).foldl (· + ·) 0
  else (ps.foldl (· + ·) 0 * pow2 36).floor

/-- What one output tile gives: the ingot to write, what it failed with, its statistics, the operand ingots it read and the accumulators at the end of its contraction. -/
structure TileOut where
  out : Output
  fails : List (Nat × Nat)
  stats : Stats
  reads : List (Nat × Nat)
  accs : NMap Acc
  deriving DecidableEq, Repr

/-- Distinct entries, first occurrence kept. -/
def dedup {α : Type} [BEq α] (xs : List α) : List α :=
  (xs.foldl (fun acc p => if acc.contains p then acc else p :: acc) []).reverse

/-- The uses of operands A and B in a tile: role, object key, ingot and k-step, a pooling tap being one (R160, R261, R365). -/
def TCtx.productUses (x : TCtx) (b i j : Nat) : List (Nat × Nat × Nat × Nat) :=
  let rowsOf := (List.range 128).filter (fun r => decide (128 * i + r < x.mLive))
  let at_ := fun (role k : Nat) (ps : List (Nat × Nat)) => ps.map (fun p => (role, p.1, p.2, k))
  let taps := fun (tap : Nat) (col : Nat) => rowsOf.flatMap (fun r =>
    match sourceRow x.t (128 * i + r) tap with | some q => x.a.reads b q col | none => [])
  let aUses :=
    if isPool x.t then (List.range (convTaps x.t)).flatMap (fun tap => at_ 1 tap (taps tap (128 * j)))
    else (List.range x.kSteps).flatMap (fun k => at_ 1 k
      (if isConv x.t then taps (128 * k / convCp x.t) (128 * k % convCp x.t)
       else if transA x.e then x.a.reads b (128 * k) (128 * i) else x.a.reads b (128 * i) (128 * k)))
  let bUses := match x.b with
    | none => []
    | some w => (List.range x.kSteps).flatMap (fun k => at_ 2 k
        (if isConv x.t && x.deadTap i (128 * k / convCp x.t) then []
         else if transB x.e then w.reads b (128 * j) (128 * k) else w.reads b (128 * k) (128 * j)))
  dedup (aUses ++ bUses)

/-- Every use of a tile: the products' ones, and the aux and bias ingots of its epilogue (R135, R365). -/
def TCtx.tileUses (x : TCtx) (b i j : Nat) : List (Nat × Nat × Nat × Nat) :=
  x.productUses b i j
    ++ (match x.aux with | some w => if usesAux x.e then (w.reads b (128 * i) (128 * j)).map (fun p => (3, p.1, p.2, 0)) else [] | none => [])
    ++ (match x.bias with
        | some w => if usesBias x.e then (w.reads (if w.o.batch = 1 then 0 else b) 0 (128 * j)).map (fun p => (4, p.1, p.2, 0)) else []
        | none => [])

/-- The operand ingots that the products of a tile name and do not read as zero at every use (R144). -/
def TCtx.tileReads (x : TCtx) (tile b i j : Nat) : List (Nat × Nat) :=
  dedup (((x.productUses b i j).filter (fun u => !(x.zeroUse tile u.1 u.2.2.2 u.2.2.1))).map (fun u => (u.2.1, u.2.2.1)))

/-- The uses of an ingot of a role in a tile that have not fallen back: their k-steps in order (R365). -/
def TCtx.stepsLeft (x : TCtx) (tile role n : Nat) : List Nat :=
  let q := x.coords tile
  ((x.tileUses q.1 q.2.1 q.2.2).filter (fun u => u.1 == role && u.2.2.1 == n && !(x.zeroUse tile role u.2.2.2 n))).map (·.2.2.2)

/-- Compute one output tile on a die (R139, R161). -/
def TCtx.tile (x : TCtx) (die b i j : Nat) : TileOut :=
  let n := x.out.index b i j
  let live := fun (r c : Nat) => decide (128 * i + r < x.mLive) && decide (128 * j + c < x.nLive) && x.rowTrained (128 * i + r)
  let rows := if isPool x.t then [] else (List.range 128).map (fun r => x.aRow die n b i (128 * i + r))
  let cols := if isPool x.t then [] else (List.range 128).map (fun c => x.bCol die n b i (128 * j + c))
  let cell := fun (r c : Nat) =>
    let y : Option Fp × List (Nat × Nat) :=
      if isPool x.t then let p := x.pooled die n b (128 * i + r) (128 * j + c); (some (Fp.ofRat p.1), p.2)
      else (x.value (rows.getD r ([], [])).1 (cols.getD c ([], [])).1, [])
    let bi := x.biasAt die n b (128 * j + c)
    let au := x.auxAt die n b (128 * i + r) (128 * j + c)
    match y.1 with
    | none => (none, (E_WINDOW_OVERFLOW, min n 0xFFFF) :: (y.2 ++ bi.2 ++ au.2))
    | some v =>
      match x.final v bi.1 au.1 with
      | some w => (some w, y.2 ++ bi.2 ++ au.2)
      | none => (some Fp.zero, (E_NONFINITE, 0x0010) :: (y.2 ++ bi.2 ++ au.2))
  let grid := (List.range 128).map (fun r => (List.range 128).map (fun c => if live r c then cell r c else (none, [])))
  let vals := grid.map (fun r => r.map (·.1))
  let rats := vals.map (fun r => r.map (fun v => v.map Fp.rat))
  let h : Header := { fmt := x.c.fmtOut, object := x.c.f 24 4, index := n, commit := x.out.nextCommit }
  let sr := fun (r : Nat) => if fsRound x.f = 1 then some (x.c.f 56 8, x.c.f 24 4, (b * x.out.rows + 128 * i + r) * x.out.cols + 128 * j) else none
  let w := if fmtWide x.c.fmtOut then writeWide h vals x.strict
    else writeBlocks h (fsMinLost x.f) (fsMaxProm x.f) rats sr (decide (x.out.slot = 12288))
  let fails := (rows.map (·.2)).flatten ++ (cols.map (·.2)).flatten ++ (grid.flatten.map (·.2)).flatten
    ++ (if w.finite then [] else [(E_NONFINITE, 0x0010)])
  let all := rats.flatten.filterMap (fun v => v)
  let prod := if fsAcc x.f = 1 then
      (rows.zipIdx.map (fun (a : Got × Nat) => (cols.zipIdx.map (fun (c : Got × Nat) =>
        if live a.2 c.2 then prodExp (a.1.1.map Fp.rat) (c.1.1.map Fp.rat) else -32768)).foldl max (-32768))).foldl max (-32768)
    else -32768
  { out := w, fails := fails, reads := x.tileReads n b i j,
    accs := if isPool x.t || x.strict then []
      else (List.range 128).flatMap (fun r => (List.range 128).filterMap (fun c =>
        if live r c then some (128 * r + c, accOf (x.accSum (rows.getD r ([], [])).1 (cols.getD c ([], [])).1)) else none)),
    stats := { amax := expAbove all, prod := prod, lost := ((rats.map (fun r => ((blocksOf 16 r).map lostCount).sum)).sum),
               nonzero := all.countP (fun q => decide (q ≠ 0)), degraded := w.degraded, promoted := w.promoted } }

end Sys2Proof.Machine
end

