-- ==== Sys2Proof/Machine/Imposition.lean ====
section
/-! DEFINITION. The imposition sequencer for TENSOR_OP: admission checks, groups and their order, segments, shares, delta-refinement skipping and the carry object, and the end of a run (R142 to R171, R218, R251, R264). -/

namespace Sys2Proof.Machine

/-! ### Admission (R143, R146, R165, R171, R218, R251, R264, R585) -/

/-- Range checks of TENSOR_OP (Table 5-8). Those that need the plan apply when it is installed. -/
def tensorRange (p : Option Plan) (d : Bytes) : Option Nat :=
  let q := p.getD {}
  let known := p.isSome
  let t := q.sec 1
  let f := q.sec 2
  let e := q.sec 3
  let need := fun (off : Nat) (want : Bool) => known && ((fld d off 4 != 0) != want)
  let len := fun (off hi : Nat) => decide (fld d off 4 = 0) || (known && decide (hi < fld d off 4))
  let anc := fld d 64 2
  let legal := decide (anc = 0x8000) || decide (anc = 0x7FFF) || (decide (-300 ≤ signedOf 16 anc) && decide (signedOf 16 anc ≤ 300))
  let carry := fld d 36 4
  let same := [16, 20, 24, 28, 32].any (fun o => fld d o 4 == carry)
  firstBad
    [ (16, decide (fld d 16 4 = 0)), (20, need 20 (!(isPool t))), (24, decide (fld d 24 4 = 0)),
      (28, need 28 (usesAux e)), (32, need 32 (usesBias e)),
      (36, known && decide (carry ≠ 0) && (!(deltaOn t) || same || (decide (fld d 28 4 ≠ 0) && decide (fld d 28 4 = fld d 24 4)))),
      (40, len 40 (opM t)), (44, len 44 (opN t)), (48, len 48 (opK t)), (52, len 52 (opBatch t)),
      (56, known && decide (fsRound f ≠ 1) && decide (fld d 56 8 ≠ 0)),
      (64, !legal || (known && ((decide (anc ≠ 0x8000) && decide (fsAcc f ≠ 1)) || (decide (anc = 0x7FFF) && !(fsTrack f))))),
      (66, !(zeros d 66 68)), (68, known && !(fsTrack f) && decide (fld d 68 4 ≠ 0)), (72, !(zeros d 72 128)) ]

/-- The anchor field in force: the descriptor's, or the plan's for 0x8000 (R94). -/
def anchorField (f : Bytes) (v : Nat) : Nat := if v = 0x8000 then fsAnchor f else v

/-- The layout of a carry object: row groups, k-tiles, base of the A reference and of the aux reference, and its whole size (R165). -/
structure CarryLayout where
  rg : Nat
  kt : Nat
  nt : Nat
  sa : Nat
  sx : Nat
  refA : Nat
  refX : Nat
  size : Nat
  deriving DecidableEq, Repr

def carryLayout (p : Plan) (auxFmt : Option Nat) : CarryLayout :=
  let t := p.sec 1
  let rg := ceilDiv (opM t) 128
  let kt := ceilDiv (opK t) 128
  let nt := ceilDiv (opN t) 128
  let sa := slotSize (fsA (p.sec 2))
  let refA := ceilDiv (128 + 8 * rg) 4096 * 4096
  let refX := refA + rg * kt * sa
  let sx := match auxFmt with | some f => slotSize f | none => 0
  { rg := rg, kt := kt, nt := nt, sa := sa, sx := sx, refA := refA, refX := refX, size := refX + rg * nt * sx }

/-- The layout for a command: an aux reference exists when the epilogue uses OBJ_AUX. -/
def State.carryOf (s : State) (c : Cmd) : CarryLayout :=
  let p := s.planOf c
  carryLayout p (if usesAux (p.sec 3) then (s.obj? c.owner (c.f 28 4)).map (fun x => x.2.fmt) else none)

/-- E_CARRY_SIZE (R165). -/
def State.carryFail (s : State) (c : Cmd) : Option (Nat × Nat) :=
  if c.f 36 4 = 0 then none
  else match s.obj? c.owner (c.f 36 4) with
    | some (_, o) => if o.kind = 1 ∧ o.bytes < (s.carryOf c).size then some (E_CARRY_SIZE, 0) else none
    | none => none

/-- E_GRAD_MASK of a TENSOR_OP (R251). -/
def State.maskFail (s : State) (c : Cmd) : Option (Nat × Nat) :=
  match s.obj? c.owner (c.f 24 4) with
  | some (_, g) =>
    if g.gradMask = 0 then none
    else match s.obj? c.owner g.gradMask with
      | some (_, m) =>
        let fl := m.readNat m.vmap 8 1
        let tiles := ceilDiv g.rows 128 * ceilDiv g.cols 128
        let a := if bitOf fl 0 then 64 + 64 * ceilDiv (ceilDiv tiles 8) 64 else 64
        let b := if bitOf fl 1 then a + 64 * ceilDiv (ceilDiv g.rows 8) 64 else a
        if m.bytes < b then some (E_GRAD_MASK, 1)
        else if m.readNat m.vmap 0 4 ≠ g.rows ∨ m.readNat m.vmap 4 4 ≠ g.cols then some (E_GRAD_MASK, 2)
        else none
      | none => none
  | none => none

/-- E_CONV_EXTENT (R264). -/
def State.convFail (s : State) (c : Cmd) : Option (Nat × Nat) :=
  let t := (s.planOf c).sec 1
  if !(isConv t || isPool t) then none
  else
    let rows := fun (off : Nat) => (s.obj? c.owner (c.f off 4)).map (fun x => x.2.rows)
    let short := fun (off n : Nat) => match rows off with | some r => decide (r < n) | none => false
    if short 16 ((convDim t 0).inp * (convDim t 1).inp * (convDim t 2).inp) then some (E_CONV_EXTENT, 1)
    else if short 20 (opK t) then some (E_CONV_EXTENT, 2)
    else if short 24 (opM t) then some (E_CONV_EXTENT, 3)
    else none

/-- E_OBJECT_POLICY of a TENSOR_OP: kinds, registered formats, a REPLICATE output, the bias object (R143, R354, R585). Of the details, 0x0001 of a REPLICATE output comes first: DESIGN CHOICE (log entry 119). -/
def State.tensorPolicy (s : State) (c : Cmd) : Option (Nat × Nat) :=
  let f := (s.planOf c).sec 2
  let at_ := fun (off : Nat) => (s.obj? c.owner (c.f off 4)).map (fun x => x.2)
  let bad := fun (off : Nat) (p : Obj → Bool) => match at_ off with | some o => p o | none => false
  let wrong := fun (off fmt : Nat) => bad off (fun o => decide (o.kind ≠ 0) || decide (o.fmt ≠ fmt))
  let bt := c.f 52 4
  if bad 24 (fun o => o.placement == 2) || bad 36 (fun o => o.placement == 2) then some (E_OBJECT_POLICY, 1)
  else if wrong 16 (fsA f) || wrong 20 (fsB f) || wrong 24 (fsOut f) || bad 28 (fun o => decide (o.kind ≠ 0))
      || bad 36 (fun o => decide (o.kind ≠ 1))
      || bad 32 (fun o => decide (o.kind ≠ 0) || (decide (o.fmt ≠ 0x10) && decide (o.fmt ≠ 0x12)) || decide (o.rows ≠ 1)
          || (decide (2 ≤ o.batch) && decide (o.batch < bt))) then some (E_OBJECT_POLICY, 4)
  else none

/-- Scratch bytes of a command's normalisation cells on each die: 32 bytes a cell, cell n on die L[n mod D] (R218). -/
def State.normScratch (s : State) (c : Cmd) (d : Nat) : Nat :=
  match s.tctx c, NMap.get? s.parts c.owner with
  | some x, some p =>
    if normMode x.n = 0 then 0
    else
      let l := p.dieList
      match l.findIdx? (· == d) with
      | some i => 32 * ceilDiv (x.cellCount - i) l.length
      | none => 0
  | _, _ => 0

/-- E_QUOTA of the scratch (R218). -/
def State.normFail (s : State) (c : Cmd) : Option (Nat × Nat) :=
  if (List.range 8).all (fun d => decide (s.normScratch c d = 0) || decide (s.t2Use c.owner d + s.normScratch c d ≤ s.setting c.owner 0x0002 d)) then none
  else some (E_QUOTA, 0)

/-! ### Groups in visiting order (R152, R155, R156) -/

/-- The hilbert walk of R155: `k` doublings of q from 1 on. -/
def hilbertStep : Nat → Nat → Nat → Nat → Nat → Nat × Nat
  | 0, _, _, x, y => (x, y)
  | k + 1, q, t, x, y =>
    let rx := t / 2 % 2
    let ry := (t ^^^ rx) % 2
    let p := if ry = 0 then (if rx = 1 then (q - 1 - y, q - 1 - x) else (y, x)) else (x, y)
    hilbertStep k (2 * q) (t / 4) (p.1 + q * rx) (p.2 + q * ry)

/-- Column x and row y of step d in a panel of side 2^k. -/
def hilbert (k d : Nat) : Nat × Nat := hilbertStep k 1 d 0 0

/-- Group coordinates (row, column) of one batch index in visiting order over a grid of gr by gc groups. -/
def groupOrder (order gr gc : Nat) : List (Nat × Nat) :=
  if order = 1 then (List.range gr).flatMap (fun i => (List.range gc).map (fun j => (i, j)))
  else if gr = 0 ∨ gc = 0 then []
  else
    let k := min (Nat.log2 (min gr gc)) 6
    let sd := 2 ^ k
    let pr := ceilDiv gr sd
    let pc := ceilDiv gc sd
    let across := fun (n i : Nat) => if i % 2 = 0 then List.range n else (List.range n).reverse
    let panels := if gc ≤ gr then (List.range pr).flatMap (fun i => (across pc i).map (fun j => (i, j)))
      else (List.range pc).flatMap (fun j => (across pr j).map (fun i => (i, j)))
    panels.flatMap (fun (p : Nat × Nat) => (List.range (sd * sd)).filterMap (fun d =>
      let h := hilbert k d
      let g := (p.1 * sd + h.2, p.2 * sd + h.1)
      if g.1 < gr ∧ g.2 < gc then some g else none))

/-- The tiles of a group, as output ingot numbers in row-major order (R152, R153). -/
def TCtx.groupTiles (x : TCtx) (p : Plan) (b : Nat) (g : Nat × Nat) : List Nat :=
  (List.range p.groupM).flatMap (fun r => (List.range p.groupN).filterMap (fun c =>
    let i := g.1 * p.groupM + r
    let j := g.2 * p.groupN + c
    if x.computes b i j then some (x.out.index b i j) else none))

/-- The group sequence of a command, batch outermost (R156). DESIGN CHOICE (log entry 94): the grid of groups is that of the computed grid before the delta scan and the gradient mask remove tiles, and a group they leave empty takes no number in the sequence. -/
def TCtx.groups (x : TCtx) (p : Plan) : List (List Nat) :=
  let seq := groupOrder (fld x.t 1 1) (ceilDiv x.tileRows (max p.groupM 1)) (ceilDiv x.tileCols (max p.groupN 1))
  ((List.range x.bLive).flatMap (fun b => seq.map (x.groupTiles p b))).filter (fun g => !g.isEmpty)

/-! ### Segments and shares (R153, R157) -/

/-- Split G positions among the dies of a partition by active quires: begin and end of each die's segment. -/
def segments (quires : List Nat) (G : Nat) : List Seg :=
  let q := quires.sum
  (List.range 8).map (fun d =>
    if q = 0 then {}
    else
      let before := (quires.take d).sum
      { head := G * before / q, tail := G * (before + quires.getD d 0) / q })

/-- The active quires that an owner's partition holds on each die, as a command's segments use them: those of its admission (R157, R386). -/
def State.quiresOf (s : State) (owner : Nat) : List Nat :=
  match NMap.get? s.parts owner with
  | some p => (List.range 8).map (s.partQuires p)
  | none => []

/-- The die whose segment of a command holds position k of a sequence of G positions (R157). -/
def Cmd.dieOfPos (c : Cmd) (G k : Nat) : Nat :=
  ((segments c.quires G).findIdx? (fun sg => decide (sg.head ≤ k) && decide (k < sg.tail))).getD c.home

/-- E: the planes a plan may use, by ENGINE_MODE and transposition (R129, R153). -/
def engineMode (e : Bytes) : Nat := if transA e || transB e then 2 else fld e 0 1
def planeCount (mode : Nat) : Nat := if mode = 1 then 1 else if mode = 2 then 2 else 3

/-- Whether a plane (0 F, 1 G0, 2 G1) may take work of an engine mode (Table 5-3). -/
def planeAllowed (mode plane : Nat) : Bool :=
  if plane = 0 then mode != 2 else if plane ≤ 2 then mode != 1 else false

/-- Share t mod E of a group's tiles (R153). -/
def sharesOf (E : Nat) (tiles : List Nat) : List (List Nat) :=
  ((List.range E).map (fun k => (tiles.zipIdx.filter (fun (x : Nat × Nat) => x.2 % E == k)).map (·.1))).filter (fun x => !x.isEmpty)

/-- Set a command's run. -/
def State.setRun (s : State) (id : Nat) (f : Run → Run) : State :=
  match s.cmd? id with
  | some c => s.setCmd id { c with run := f c.run }
  | none => s

/-! ### Starting -/

/-- Every output tile of a plan's maxima (R150). -/
def allTiles (t : Bytes) : Nat := opBatch t * ceilDiv (opM t) 128 * ceilDiv (opN t) 128

/-- Start an admitted data command when R60 and R379 allow it: it captures its object versions (R60). -/
def State.ensureStart (s : State) (id : Nat) : State :=
  match s.cmd? id with
  | some c =>
    if decide (c.phase = .admitted) && s.mayStart id c then
      let s1 := (s.capture id).startCmd id
      if c.opcode = 0x01 then s1.setRun id (fun r => { r with skipped := allTiles ((s.planOf c).sec 1) }) else s1
    else s
  | none => s

/-! ### Units other than planes (R308, R447) -/

/-- The unit other than a plane or an engine that serves a command: 1 the Bindery, 2 the collation unit, 3 collective staging; 0 for none. -/
def unitOf (c : Cmd) : Nat :=
  match c.opcode with
  | 0x03 | 0x04 | 0x05 | 0x0F => 1
  | 0x0E => 2
  | 0x07 => 3
  | _ => 0

/-- Whether a command reserves frames when it runs: an OPEN or a fork. -/
def Cmd.reserves (c : Cmd) : Bool := c.opcode == 0x04 || (c.opcode == 0x03 && c.f 16 1 == 0)

/-- Whether an OPEN or a fork has reserved. -/
def Cmd.reserved (c : Cmd) : Bool := if c.opcode = 0x04 then c.child.isSome else c.stepDraft.isSome

/-- R308: within a partition an OPEN or fork reserves only after every earlier admitted one has, started or not. -/
def State.reserveTurn (s : State) (id owner : Nat) : Bool :=
  !(s.cmds.any (fun x => decide (x.1 < id) && x.2.owner == owner && (x.2.phase == .admitted || x.2.phase == .started)
    && x.2.reserves && !x.2.reserved))

/-- Whether a GROUP_SET admitted earlier holds a COLLECTIVE (R400). -/
def State.groupSetAhead (s : State) (id : Nat) (c : Cmd) : Bool :=
  c.opcode == 0x07 && s.cmds.any (fun x => decide (x.1 < id) && x.2.opcode == 0x4E && x.2.f 16 2 == c.f 16 2)

/-- Whether a waiting command could begin at its unit now. -/
def State.eligible (s : State) (id : Nat) (c : Cmd) : Bool :=
  decide (c.phase = .admitted) && s.mayStart id c && (!c.reserves || s.reserveTurn id c.owner) && !(s.groupSetAhead id c)

/-- Whether another command of the partition that could begin at the same unit goes first: higher PRIORITY, then earlier admission (R447). -/
def State.unitAhead (s : State) (id : Nat) (c : Cmd) : Bool :=
  unitOf c != 0 && s.cmds.any (fun x => x.1 != id && x.2.owner == c.owner && unitOf x.2 == unitOf c
    && (decide (c.priority < x.2.priority) || (x.2.priority == c.priority && decide (x.1 < id))) && s.eligible x.1 x.2)

/-- Start a command when its unit turns to it (R445, R447). -/
def State.unitStart (s : State) (id : Nat) : State :=
  match s.cmd? id with
  | some c => if s.unitAhead id c then s else s.ensureStart id
  | none => s

/-- Whether a TENSOR_OP has a delta scan to run: a carry is named and valid (R164, R166). -/
def State.carryValid (s : State) (c : Cmd) : Bool :=
  match s.obj? c.owner (c.f 36 4) with
  | some (k, o) =>
    let v := c.viewOf k o
    let r := fun (off n : Nat) => o.readNat v off n
    let commits := fun (off : Nat) => match s.obj? c.owner (c.f off 4) with
      | some (k2, o2) => (match c.views.find? (fun w => w.key == k2) with | some w => w.commits.toNat | none => o2.commits.toNat)
      | none => 0
    decide (c.f 36 4 ≠ 0) && bitOf (r 57 1) 0 && decide (r 0 4 = c.f 16 4) && decide (r 4 4 = c.f 24 4) && decide (r 8 4 = c.f 20 4)
      && decide (r 12 4 = c.f 32 4) && decide (r 16 4 = c.f 28 4) && decide (r 20 4 = dPlan c.desc)
      && decide (r 24 8 = (s.planOf c).stamp.toNat) && decide (r 32 4 = c.f 40 4) && decide (r 36 4 = c.f 44 4) && decide (r 40 4 = c.f 48 4)
      && decide (r 44 4 = commits 24) && decide (r 48 4 = commits 20) && decide (r 52 4 = (if c.f 32 4 = 0 then 0 else commits 32))
      && decide (r 56 1 = c.fmtOut)
  | none => false

/-- The largest magnitude of a run of values. -/
def maxMag (vs : List Rat) : Rat := vs.foldl (fun m v => max m (ratAbs v)) 0

/-- The reference slot at byte `off` of a carry: its bytes, and the extension it has when the ingot it holds had one (R169). -/
def Obj.refSlot (o : Obj) (v : List Nat) (off slot : Nat) : Bytes :=
  let b := o.readBytes v off slot
  if (headerOf b).extended then b ++ Mem.readRange (o.ext (slotIn v (off / 65536))) off 6144 else b

/-- One operand's part of the comparison of row group r with its reference slots at `base` in the carry: Dmax, Rmax and what the reads failed with. A non-finite value of the operand or of its reference fails the command (R167). A non-finite element or scale of a reference has the detail of the operand compared with it, and the values of an MX operand enter without the factor 2^MX_EXP_OFFSET: DESIGN CHOICE (log entry 120). -/
def scanGroup (w0 : Operand) (o : Obj) (v : List Nat) (die r base tiles slot : Nat) : Rat × Rat × List (Nat × Nat) :=
  let w := { w0 with strict := false }
  let n := ceilDiv w.cols 128
  let parts := (List.range (min n tiles)).map (fun k =>
    let ref := o.refSlot v (base + (r * tiles + k) * slot) slot
    (List.range 128).map (fun q =>
      let g := w.run die 0 (128 * r + q) (128 * k) 0 1 128 (fun _ => false)
      let es := (List.range 128).map (fun c =>
        if 128 * r + q < w.rows ∧ 128 * k + c < w.cols then element ref w.mx false q c else .ok Fp.zero)
      let rv := es.map (fun e => match e with | .ok y => y.rat | .error _ => 0)
      let bad := es.filterMap (fun e => match e with | .ok _ => none | .error x => some (badFail w.role x))
      (maxMag (List.zipWith (fun a b => a.rat - b) g.1 rv), maxMag rv, g.2 ++ bad)))
  let flat := parts.flatten
  ((flat.map (·.1)).foldl max 0, (flat.map (·.2.1)).foldl max 0, (flat.map (·.2.2)).flatten)

/-- The delta scan: the skipped row groups and the failures met. Row group r is scanned on the die whose segment of the row groups holds it (R157, R167). -/
def State.deltaScan (s : State) (c : Cmd) (x : TCtx) : List Nat × List (Nat × Nat) :=
  let lay := s.carryOf c
  match s.obj? c.owner (c.f 36 4) with
  | some (k, o) =>
    let v := c.viewOf k o
    let thr := (f32 (fld x.t 24 4)).rat
    let res := (List.range x.tileRows).map (fun r =>
      let d := c.dieOfPos x.tileRows r
      let a := scanGroup x.a o v d r lay.refA lay.kt lay.sa
      let b := match x.aux with
        | some w => if lay.sx = 0 then (0, 0, []) else scanGroup w o v d r lay.refX lay.nt lay.sx
        | none => (0, 0, [])
      let st := o.readNat v (128 + 8 * r) 2
      let skip := bitOf st 0 && decide (st / 256 < fld x.t 6 1) && decide (max a.1 b.1 ≤ thr * max a.2.1 b.2.1)
      (r, skip, a.2.2 ++ b.2.2))
    ((res.filter (fun q => q.2.1)).map (·.1), (res.map (fun q => q.2.2)).flatten)
  | none => ([], [])

/-- Whether a die holds a command's admitted descriptor: its home die, or one that has received it (R378). -/
def Cmd.heard (c : Cmd) (die : Nat) : Bool := die == c.home || c.seenDies.contains die

/-- Every die holds a command's descriptor: its row stands for the messages still under way (R378; log entry 108). -/
def State.deliverAll (s : State) (id : Nat) : State :=
  match s.cmd? id with
  | some c => s.setCmd id { c with seenDies := (List.range 8).filter (· != c.home) }
  | none => s

/-- Distribute a command's groups once its scans are complete (R157, R167, R215): every die that holds the descriptor cuts its own segment, and another when it receives it (R378). -/
def State.distribute (s : State) (id : Nat) (G : Nat) : State :=
  match s.cmd? id with
  | some c =>
    s.setCmd id { c with run := { c.run with total := G, segs := (segments c.quires G).zipIdx.map (fun x => if c.heard x.2 then x.1 else {}) } }
  | none => s

/-- Distinct promoted blocks in operand ingots read (R144). -/
def State.promotedIn (s : State) (c : Cmd) (reads : List (Nat × Nat)) : Nat :=
  (reads.map (fun r =>
    match NMap.get? s.objects r.1 with
    | some o => promotedBlocks (o.header (slotIn (c.viewOf r.1 o) r.2) r.2)
    | none => 0)).sum

/-- An ingot that a command reads on a die passes through the caches of its tier, and over the spine from another die, in the bytes that its fetch takes (R263, R349, R351, R353, R455). -/
def State.fetchOne (s : State) (c : Cmd) (die : Nat) (r : Nat × Nat) : State :=
  match NMap.get? s.objects r.1 with
  | some o =>
    let v := slotIn (c.viewOf r.1 o) r.2
    (s.readMoved r.1 v r.2).farLines c.owner die (o.readDie r.2 die) ((o.fetchRuns v r.2).map (fun q => ceilDiv q.2 128)).sum false
  | none => s

/-- Operand ingots that a command reads on a die for the first time. -/
def State.fetchAll (s : State) (c : Cmd) (die : Nat) (reads : List (Nat × Nat)) : State := reads.foldl (fun (a : State) r => a.fetchOne c die r) s

/-- The operand ingots of batch index 0 that a scan of operand A reads in row group r: all of its row, in A and, in a delta scan, in the aux object (R167, R215). -/
def TCtx.scanReads (x : TCtx) (aux : Bool) (r : Nat) : List (Nat × Nat) :=
  let row := fun (w : Operand) => (List.range (ceilDiv w.cols 128)).flatMap (fun k => w.reads 0 (128 * r) (128 * k))
  row x.a ++ (if aux then (match x.aux with | some w => row w | none => []) else [])

/-- What a scan reads, each row group on the die whose segment of the row groups holds it: the ingots pass through the caches, and their promoted blocks count (R107, R144, R167, R215). -/
def State.scanFetch (s : State) (id : Nat) (c : Cmd) (x : TCtx) (aux : Bool) (groups : Nat) : State :=
  (List.range groups).foldl (fun (a : State) r =>
    match a.cmd? id with
    | some d =>
      let fresh := (dedup (x.scanReads aux r)).filter (fun i => !(d.run.readIngots.contains i))
      (a.fetchAll d (c.dieOfPos groups r) fresh).setRun id (fun q =>
        { q with promoted := q.promoted + a.promotedIn d fresh, readIngots := q.readIngots ++ fresh })
    | none => a) s

/-- Run a TENSOR_OP's delta scan if it is due, or note that none is. -/
def State.runDelta (s : State) (id : Nat) : State :=
  match s.cmd? id with
  | some c =>
    if c.run.scanned then s
    else
      match s.tctx c with
      | some x =>
        if deltaOn x.t && s.carryValid c then
          let r := s.deltaScan c x
          (s.scanFetch id c x true x.tileRows).setRun id (fun q => { q with scanned := true, skipRows := r.1, fails := q.fails ++ r.2 })
        else s.setRun id (fun q => { q with scanned := true })
      | none => s
  | none => s

/-- Run a TENSOR_OP's statistics scan if it is due, or note that none is. -/
def State.runNorm (s : State) (id : Nat) : State :=
  match s.cmd? id with
  | some c =>
    if c.run.normed then s
    else
      match s.tctx c with
      | some x =>
        if normMode x.n = 0 then s.setRun id (fun q => { q with normed := true })
        else
          let n := ceilDiv x.a.rows 128
          let r := x.normScan (c.dieOfPos n)
          (s.scanFetch id c x false n).setRun id (fun q => { q with normed := true, cells := r.1, fails := q.fails ++ r.2 })
      | none => s
  | none => s

/-- Distribute when both scans are done and no distribution stands. -/
def State.openTensor (s : State) (id : Nat) : State :=
  match s.cmd? id with
  | some c =>
    if c.run.scanned && c.run.normed && c.run.segs.isEmpty then
      match s.tctx c with
      | some x => s.distribute id (x.groups (s.planOf c)).length
      | none => s
    else s
  | none => s

/-! ### Finishing tiles -/

/-- The context of a tile: an operand ingot whose fetch failed never arrives, so every use of it reads as zero, its class being ZERO (R369). -/
def TCtx.withLost (x : TCtx) (tile : Nat) : TCtx :=
  let q := x.coords tile
  let lost := ((x.tileUses q.1 q.2.1 q.2.2).filter (fun u => x.c.run.failedFetch.contains (u.1, u.2.2.1) && !(x.zeroUse tile u.1 u.2.2.2 u.2.2.1))).map
    (fun u => (tile, u.1, u.2.2.1, u.2.2.2))
  { x with c := { x.c with run := { x.c.run with zeroUses := x.c.run.zeroUses ++ lost } } }

/-- Record one finished tile of a TENSOR_OP, computed on a die: the ingot goes to the inactive version, the counts to the run (R139). -/
def State.doneTile (s : State) (id die tile : Nat) : State :=
  match s.cmd? id with
  | some c =>
    match s.tctx c with
    | some x0 =>
      let x := x0.withLost tile
      let q := x.coords tile
      let o := x.tile die q.1 q.2.1 q.2.2
      let fresh := o.reads.filter (fun i => !(c.run.readIngots.contains i))
      let s1 := s.fetchAll c die fresh
      let s2 := if o.fails.isEmpty then
          (s1.putIngot id x.outKey tile o.out.slot o.out.ext).farLines c.owner die ((x.out.diesOf tile).headD 0) (ceilDiv x.out.slot 128) true
        else s1
      s2.setRun id (fun r => { r with done := r.done ++ [tile], fails := r.fails ++ o.fails, stats := r.stats.merge o.stats,
                                      zeroUses := x.c.run.zeroUses,
                                      skipped := r.skipped - 1, promoted := r.promoted + s.promotedIn c fresh,
                                      degraded := r.degraded + o.out.degraded, readIngots := r.readIngots ++ fresh })
    | none => s
  | none => s

/-- Bring a command whose body has ended to its decision point with a status, or with the failure it carries. A MOVE or COLLECTIVE record holds no cycles (R372, R410). -/
def State.toReady (s : State) (id : Nat) (f : Cmd → Cmd) : State :=
  match s.cmd? id with
  | some c => s.takeFresh.setCmd id { f c with phase := .ready, aclk := if c.opcode = 0x06 ∨ c.opcode = 0x07 then 0 else Config.aclkCycles s.fresh / 256 }
  | none => s

/-- The row-state and reference updates of R169, written to the carry's inactive version. A row group of which the gradient mask leaves no tile is not computed (R250). -/
def State.updateCarry (s : State) (id : Nat) : State :=
  match s.cmd? id with
  | none => s
  | some c =>
    match s.tctx c, s.obj? c.owner (c.f 36 4) with
    | some x, some (ck, co) =>
      if !(deltaOn x.t) || decide (c.f 36 4 = 0) then s
      else
        let lay := s.carryOf c
        let valid := s.carryValid c
        let v := c.viewOf ck co
        let inGrid := fun (r : Nat) => (List.range x.bLive).any (fun b => (List.range x.tileCols).any (fun j => x.computes b r j))
        let slots := fun (a : State) (w : Operand) (base tiles slot r n : Nat) =>
          (List.range n).foldl (fun (b : State) k =>
            let g := w.ingotOf 0 r k
            let v := slotIn w.vmap g
            b.putRef id ck (base + (r * tiles + k) * slot) (fixLen slot (w.o.readSlot v g))
              (if (headerOf (w.o.header v g)).extended then some (w.o.readExt v g) else none)) a
        let row := fun (a : State) (r : Nat) =>
          let off := 128 + 8 * r
          if inGrid r then
            let a1 := slots a x.a lay.refA lay.kt lay.sa r (min x.kSteps lay.kt)
            let a2 := match x.aux with
              | some w => if lay.sx = 0 then a1 else slots a1 w lay.refX lay.nt lay.sx r (min x.tileCols lay.nt)
              | none => a1
            a2.putObj id ck off (leBytes 1 1 ++ leBytes 1 0)
          else if x.c.run.skipRows.contains r then a.putObj id ck (off + 1) (leBytes 1 (min 255 (co.readNat v (off + 1) 1 + 1)))
          else if valid then a
          else a.putObj id ck off (leBytes 1 0)
        let s1 := (List.range lay.rg).foldl row s
        let cnt := fun (off : Nat) => match s.obj? c.owner (c.f off 4) with
          | some (k2, o2) => (match c.views.find? (fun w => w.key == k2) with | some w => w.commits.toNat | none => o2.commits.toNat)
          | none => 0
        s1.putObj id ck 0 (leBytes 4 (c.f 16 4) ++ leBytes 4 (c.f 24 4) ++ leBytes 4 (c.f 20 4) ++ leBytes 4 (c.f 32 4) ++ leBytes 4 (c.f 28 4)
          ++ leBytes 4 (dPlan c.desc) ++ leBytes 8 (s.planOf c).stamp.toNat ++ leBytes 4 (c.f 40 4) ++ leBytes 4 (c.f 44 4) ++ leBytes 4 (c.f 48 4)
          ++ leBytes 4 x.out.nextCommit ++ leBytes 4 (cnt 20) ++ leBytes 4 (if c.f 32 4 = 0 then 0 else cnt 32) ++ leBytes 1 c.fmtOut ++ leBytes 1 1)
    | _, _ => s

/-- The status a body ends with, and the counts of its run, whatever the status (R67, R144). -/
def Cmd.withCounts (c : Cmd) (status detail : Nat) : Cmd :=
  { c with status := status, detail := detail, skipped := c.run.skipped, promoted := c.run.promoted, degraded := c.run.degraded }

/-- The object that an operand role names. -/
def TCtx.roleKey (x : TCtx) (role : Nat) : Option Nat :=
  if role = 1 then some x.a.key else if role = 2 then x.b.map (·.key) else if role = 3 then x.aux.map (·.key) else x.bias.map (·.key)

/-- End the body of a TENSOR_OP: its failure, or its success status; its counts (R66, R67, R122, R144). DETAIL of OK_APPROX counts distinct ingots of objects, whatever the operand (R368). -/
def State.endTensor (s : State) (id : Nat) : State :=
  match s.cmd? id with
  | none => s
  | some c =>
    match s.tctx c with
    | none => s
    | some x =>
      match pickFail runOrder c.run.fails with
      | some (st, dt) => s.toReady id (fun c => c.withCounts st dt)
      | none =>
        let s1 := s.updateCarry id
        let approx := (dedup (c.run.zeroUses.filterMap (fun u => (x.roleKey u.2.1).map (fun k => (k, u.2.2.1))))).length
        let st := if approx ≠ 0 then OK_APPROX else if c.run.degraded ≠ 0 ∨ c.refused then OK_DEGRADED else OK
        let dt := if approx ≠ 0 then min approx 0xFFFF else b2n c.refused
        s1.toReady id (fun c => c.withCounts st dt)

/-- The tiles of a command that are not finished, each with the die whose segment holds its group. -/
def State.tilesLeft (s : State) (c : Cmd) (x : TCtx) : List (Nat × Nat) :=
  let gs := x.groups (s.planOf c)
  (gs.zipIdx.flatMap (fun (g : List Nat × Nat) => g.1.map (fun t => (c.dieOfPos gs.length g.2, t)))).filter (fun t => !(c.run.done.contains t.2))

/-- End the body when every tile of the computed grid is finished. -/
def State.closeTensor (s : State) (id : Nat) : State :=
  match s.cmd? id with
  | some c =>
    match s.tctx c with
    | some x => if decide (c.phase = .started) && !c.run.segs.isEmpty && (s.tilesLeft c x).isEmpty then s.endTensor id else s
    | none => s
  | none => s

/-- Run the whole body of a started TENSOR_OP: scans, then every tile not yet finished. -/
def State.runTensor (s : State) (id : Nat) : State :=
  let s1 := ((((s.deliverAll id).runDelta id).runNorm id).openTensor id).setRun id (fun r => { r with held := [] })
  match s1.cmd? id with
  | some c =>
    match s1.tctx c with
    | some x => ((s1.tilesLeft c x).foldl (fun (a : State) (t : Nat × Nat) => (a.serve c t.1).doneTile id t.1 t.2) s1).endTensor id
    | none => s1
  | none => s1

/-- TENSOR_OP (R142): started when it may be, it runs its body to its decision point. -/
def execTensorOp (cmd : Nat) (s : State) : Host.Outcome State Fault Refusal :=
  .next (control 0x01 (fun _ => true) (fun _ s =>
    let s1 := s.ensureStart cmd
    match s1.cmd? cmd with
    | some c => if c.phase = .started then s1.runTensor cmd else s1
    | none => s1) cmd s)

/-- DELTA_SCAN_DONE (R167): the scan ends on every die, and distribution begins with its decisions. -/
def execDeltaScanDone (cmd : Nat) (s : State) : Host.Outcome State Fault Refusal :=
  .next (control 0x01 (fun c => decide (c.phase = .started)) (fun _ s => ((s.runDelta cmd).openTensor cmd).closeTensor cmd) cmd s)

/-- NORM_SCAN_DONE (R216): every cell is converted and distribution begins. -/
def execNormScanDone (cmd : Nat) (s : State) : Host.Outcome State Fault Refusal :=
  .next (control 0x01 (fun c => decide (c.phase = .started)) (fun _ s => ((s.runNorm cmd).openTensor cmd).closeTensor cmd) cmd s)

end Sys2Proof.Machine
end

