-- ==== Sys2Proof/Machine/Rows.lean ====
section
/-! DEFINITION. Rows of an ingot in stored form: moved bit for bit between ingots, and kept beside rows that a command writes (R105, R108, R162, R196, R225, R231, R233, R361). -/

namespace Sys2Proof.Machine

/-! ### Moving rows bit for bit (R225) -/

/-- One row of an ingot in stored form: the format it is held in, element codes, 2:4 nibbles, scales, zero-block bits, zero points, promoted blocks of the row with their FP8 bytes, blocks newly degraded, the codebook it was coded under, and of a 2:4 row along the rows which of its positions are stored ones. `blank` is a row of zeros that no source row gives. -/
structure Piece where
  fmt : Nat
  blank : Bool := false
  codes : List Nat := []
  nibs : List Nat := []
  scales : List Nat := []
  zeros : List Bool := []
  points : List Nat := []
  prom : List (Nat × Bytes) := []
  degraded : Nat := 0
  book : Bytes := []
  live : List Bool := []
  deriving DecidableEq, Repr

/-- Blocks in a row of a format; none for the formats without scales. -/
def rowBlocks (fmt : Nat) : Nat := if fmtBlock fmt = 0 then 0 else 128 / fmtBlock fmt

/-- A row of zero blocks with scale 0x00. -/
def zeroPiece (fmt : Nat) (sparse : Bool) : Piece :=
  { fmt := fmt, blank := true, codes := List.replicate (if sparse then 64 else 128) 0, nibs := if sparse then List.replicate 32 4 else [],
    scales := List.replicate (rowBlocks fmt) 0, zeros := List.replicate (rowBlocks fmt) true,
    points := if fmt = 0x04 then List.replicate 8 0 else [] }

/-- Row r of an ingot as its header describes it. A 2:4 row along the columns keeps its nibbles; one along the rows is taken apart into its 128 codes. -/
def storedPiece (b : Bytes) (r : Nat) : Piece :=
  let h := headerOf b
  let w := fmtBits h.fmt
  let packed := h.sparse && h.axis == 0
  let nb := rowBlocks h.fmt
  { fmt := h.fmt,
    codes :=
      if packed then (List.range 64).map (fun k => codeAt b 64 w (64 * r + k))
      else (List.range 128).map (fun k => match storedCode h b r k with | .ok (some x) => x | _ => 0),
    nibs := if packed then (List.range 32).map (fun k => codeAt b (64 + 1024 * w) 4 (32 * r + k)) else [],
    scales := (List.range nb).map (fun k => fld b (scaleBase h.fmt + nb * r + k) 1),
    zeros := (List.range nb).map (fun k => bitOf (fld b (bitmapBase h.fmt + (nb * r + k) / 8) 1) ((nb * r + k) % 8)),
    points := if h.fmt = 0x04 then (List.range 8).map (fun k => fld b (9408 + 8 * r + k) 1) else [],
    prom := if h.fmt = 0x01 then (sideEntries b (fun q => q == r)).map (fun e => (e.1 % 8, e.2)) else [],
    book := if h.fmt = 0x03 then (b.drop 9408).take 16 else [],
    live := if h.sparse && h.axis == 1 then
        (List.range 128).map (fun k => match storedCode h b r k with | .ok (some _) => true | _ => false)
      else [] }

/-- Row r of an ingot as it moves; rows of an ingot that holds zeros are zero blocks of its object's format. -/
def pieceOf (fmt : Nat) (sparse : Bool) (b : Bytes) (r : Nat) : Piece :=
  if unwritten b || (headerOf b).zero then zeroPiece fmt sparse else storedPiece b r

/-- A 2:4 row with its pruned elements written out. -/
def Piece.dense (p : Piece) : Piece :=
  if p.nibs.isEmpty then p
  else
    let code := fun (c : Nat) =>
      let n := p.nibs.getD (c / 4) 4
      if c % 4 = n % 4 then p.codes.getD (2 * (c / 4)) 0 else if c % 4 = n / 4 then p.codes.getD (2 * (c / 4) + 1) 0 else 0
    { p with codes := (List.range 128).map code, nibs := [] }

/-- A row held in FP8 as an FP4 ingot can hold it bit for bit: every non-zero block becomes two promoted blocks of the same scale (R105). -/
def Piece.promoted8 (p : Piece) : Piece :=
  if p.fmt ≠ 0x07 then p
  else
    let zero := fun (k : Nat) => p.zeros.getD (k / 2) true
    { p with fmt := 0x01, codes := List.replicate 128 0, scales := (List.range 8).map (fun k => p.scales.getD (k / 2) 0),
             zeros := (List.range 8).map zero,
             prom := (List.range 8).filterMap (fun k => if zero k then none else
               some (k, ((p.codes.drop (16 * k)).take 16).map (fun c => BitVec.ofNat 8 c))) }

/-- A promoted block brought back to FP4 by R78: what an excess block of a full ingot becomes (R108). -/
def excessBlock (p : Piece) (k : Nat) (side : Bytes) : QBlock :=
  quantBlock 0x01 (side.map (fun c => some ((e4m3.decode c.toNat).rat * scaleValue (p.scales.getD k 0)))) none

/-- Put excess promoted blocks of a row into its FP4 codes. -/
def Piece.demoted (p : Piece) (drop : List Nat) : Piece :=
  (p.prom.filter (fun e => drop.contains e.1)).foldl (fun (q : Piece) (e : Nat × Bytes) =>
    let x := excessBlock p e.1 e.2
    { q with codes := q.codes.take (16 * e.1) ++ x.codes ++ q.codes.drop (16 * e.1 + 16), scales := q.scales.set e.1 x.scale,
             zeros := q.zeros.set e.1 x.zero, prom := q.prom.filter (fun y => y.1 != e.1), degraded := q.degraded + 1 }) p

/-- The codebook of an ingot built from rows of several: the first row's when it holds every entry the rows use, else the entries in use. A row's code of an entry that no longer fits 16 is a free value (log entry 52). -/
def bookOf (rows : List Piece) : Bytes :=
  let books := (rows.filter (fun p => !p.blank)).map (·.book)
  let used := (rows.flatMap (fun p => if p.blank then [0] else p.codes.map (fun k => p.book.getD k 0))).eraseDups
  let first := books.headD []
  if used.all (fun x => first.contains x) then first else fixLen 16 (used.take 16)

/-- A row coded under the codebook of the ingot it moves to. -/
def Piece.recoded (p : Piece) (book : Bytes) : Piece :=
  if p.fmt ≠ 0x03 ∨ p.book = book then p
  else
    { p with book := book, codes := p.codes.map (fun k =>
        let x := if p.blank then 0 else p.book.getD k 0
        (book.findIdx? (fun y => y == x)).getD (Config.codebookCode x.toNat % 16)) }

/-- The rows of an ingot brought to one form: 2:4 only when every moved row is, FP8 only when every moved row is held in FP8, one codebook. -/
def alignRows (fmt : Nat) (rows : List Piece) : Nat × Bool × List Piece :=
  let moved := rows.filter (fun p => !p.blank)
  let fp8 := decide (fmt = 0x01) && !moved.isEmpty && moved.all (fun p => p.fmt == 0x07)
  let sparse := rows.all (fun p => (p.blank && !fp8) || !p.nibs.isEmpty) && rows.any (fun p => !p.nibs.isEmpty)
  let f := if fp8 then 0x07 else fmt
  let one := fun (p : Piece) => if p.blank then zeroPiece f sparse else if sparse then p else if fp8 then p.dense else p.dense.promoted8
  let ps := rows.map one
  (f, sparse, if f = 0x03 then ps.map (fun p => p.recoded (bookOf ps)) else ps)

/-- Whether a position of a row that moves is a stored one. -/
def Piece.liveAt (p : Piece) (c : Nat) : Bool := !p.blank && (p.live.isEmpty || p.live.getD c true)

/-- Whether rows can stand as 2:4 groups along the rows: no group of four rows has more than two stored positions in a column (R361). -/
def alongRows (rows : List Piece) : Bool :=
  (List.range 32).all (fun i => (List.range 128).all (fun c => decide (((rows.drop (4 * i)).take 4).countP (fun p => p.liveAt c) ≤ 2)))

/-- The codes and nibbles of 128 rows stored as 2:4 groups along the rows, a group with fewer than two stored positions taking the lowest others (R361). -/
def packAlong (rows : List Piece) : List Nat × List Nat :=
  let gs := (List.range 32).flatMap (fun i => (List.range 128).map (fun c =>
    let four := (rows.drop (4 * i)).take 4
    let at_ := fun (k : Nat) => (four.getD k { fmt := 0 }).liveAt c
    let pick := (((List.range 4).filter at_) ++ ((List.range 4).filter (fun k => !(at_ k)))).take 2
    let lo := pick.foldl min 3
    let hi := pick.foldl max 0
    ([lo, hi].map (fun k => (four.getD k { fmt := 0 }).codes.getD c 0), lo + 4 * hi)))
  (gs.flatMap (·.1), gs.map (·.2))

/-- An ingot built from 128 rows, of which `kept` blocks were degraded before: promoted blocks are re-indexed (R105), those beyond 64 are written in FP4 and marked degraded (R108). `marks` says which rows were marked degraded. An ingot all of whose moved rows are held in FP8 stays FP8, with an extension (R363). One of a 2:4 object along the rows is stored in groups of four rows where its rows leave two stored positions in each (log entry 52). -/
def buildIngot (h : Header) (rows0 : List Piece) (kept : Nat) (marks : Nat → Bool) : Output :=
  let al := alignRows h.fmt rows0
  let fmt := al.1
  let rows := al.2.2
  let all := rows.zipIdx.flatMap (fun (p : Piece × Nat) => p.1.prom.map (fun e => 8 * p.2 + e.1))
  let excess := all.drop 64
  let ps := rows.zipIdx.map (fun (p : Piece × Nat) => p.1.demoted ((excess.filter (fun k => k / 8 == p.2)).map (· % 8)))
  let side := ps.zipIdx.flatMap (fun (p : Piece × Nat) => p.1.prom.map (fun (e : Nat × Bytes) => (8 * p.2 + e.1, e.2)))
  let bits := (ps.map (·.zeros)).flatten
  let fresh := (ps.map (·.degraded)).sum
  let ext := decide (fmt ≠ h.fmt)
  let along := h.sparse && h.axis == 1 && !ext && alongRows ps
  let elems := if along then packAlong ps else ((ps.map (·.codes)).flatten, (ps.map (·.nibs)).flatten)
  let hdr : Header := { h with fmt := fmt, sparse := al.2.1 || along, zero := !bits.isEmpty && bits.all (fun z => z), extended := ext,
                               promoted := side.length, degraded := kept + fresh,
                               rows := ((List.range 128).map (fun r => if marks r || decide (0 < (ps.getD r (zeroPiece fmt false)).degraded) then 2 ^ r else 0)).sum }
  let b0 := fixLen (slotSize fmt) (hdr.bytes ++ packCodes (fmtBits fmt) elems.1 ++ packCodes 4 elems.2)
  let bytes := fun (l : List Nat) => l.map (fun x => BitVec.ofNat 8 x)
  let b1 := if fmtBlock fmt = 0 then b0
    else putBytes (putBytes b0 (scaleBase fmt) (bytes (ps.map (·.scales)).flatten)) (bitmapBase fmt)
      (packBits (16 * rowBlocks fmt) (fun k => bits.getD k false))
  let out :=
    if fmt = 0x01 then putBytes (putBytes b1 9408 (side.map (fun e => leBytes 2 (e.1 + 0x8000))).flatten) 9536 (side.map (·.2)).flatten
    else if fmt = 0x03 then putBytes b1 9408 (bookOf rows)
    else if fmt = 0x04 then putBytes b1 9408 (bytes (ps.map (·.points)).flatten)
    else b1
  { slot := if ext then out.take 12288 else out, ext := if ext then some (out.drop 12288) else none,
    promoted := side.length, degraded := fresh, finite := true }

/-! ### Ingots of which rows are kept (R196, R233) -/

/-- Write an output ingot in which the rows that `keep` picks stay as an old ingot has them, and no command names them. A dense old ingot of the same format keeps them bit for bit, and its promoted blocks leave the rest of min(PROMOTE_MAX, 64) to the written rows (R103, R108); rows of another old ingot keep their values in the form that moved rows take (R225, log entry 52). Where an ingot of an FP4 object is written in FP8 they are quantised with the written ones: DESIGN CHOICE (log entry 97). -/
def writeKept (h : Header) (minLost maxBlocks : Nat) (old : Bytes) (keep : Nat → Bool) (vals : List (List (Option Fp)))
    (sr : Nat → Option (Nat × Nat × Nat)) (fp4Slot : Bool) : Output :=
  let ho := headerOf old
  let whole := fun (vs : List (List (Option Fp))) (cap : Nat) =>
    if fmtWide h.fmt then writeWide h vs false
    else writeBlocks h minLost cap (vs.map (fun r => r.map (fun v => v.map Fp.rat))) sr fp4Slot
  if !((List.range 128).any keep) || unwritten old || elementless ho old then whole vals maxBlocks
  else if ho.fmt = h.fmt ∧ !ho.sparse then
    let used := if h.fmt = 0x01 then (sideEntries old keep).length else 0
    let w := whole vals (min maxBlocks 64 - used)
    let full := keepRows h.fmt old (match w.ext with | some e => w.slot ++ e | none => w.slot) keep
    { w with slot := if w.ext.isSome then full.take 12288 else full, ext := w.ext.map (fun _ => full.drop 12288) }
  else if h.fmt = 0x07 ∧ fp4Slot then
    whole ((List.range 128).map (fun r =>
      if keep r then (List.range 128).map (fun c => some (match element old 0 false r c with | .ok v => v | .error _ => Fp.zero))
      else vals.getD r (List.replicate 128 none))) maxBlocks
  else
    let mine := fun (r : Nat) => pieceOf ho.fmt ho.sparse old r
    let used := if h.fmt = 0x01 then (((List.range 128).filter keep).map (fun r => (mine r).dense.promoted8.prom.length)).sum else 0
    let w := whole vals (min maxBlocks 64 - used)
    let hw := headerOf w.slot
    let out := buildIngot { h with sparse := false } ((List.range 128).map (fun r => if keep r then mine r else pieceOf h.fmt false w.slot r))
      (keptDegraded ho keep + w.degraded) (fun r => bitOf (if keep r then ho.rows else hw.rows) r)
    { out with promoted := w.promoted, degraded := w.degraded + out.degraded, finite := w.finite }

end Sys2Proof.Machine
end

