-- ==== Sys2Proof/Machine/Attention.lean ====
section
/-! DEFINITION. ATTEND: query blocks, masks, sketches and block selection, the recurrence in binary32, late key blocks, and building sketches (R173 to R198, R301). -/

namespace Sys2Proof.Machine

/-! ### The attention section (Table 7-4) -/

def atMask (a : Bytes) : Nat := fld a 0 1
def atSparse (a : Bytes) : Bool := fld a 1 1 == 1
def atSeq (a : Bytes) : Bool := fld a 2 1 == 1
def atExp (a : Bytes) : Nat := fld a 3 1
def atHeads (a : Bytes) : Nat := fld a 4 2
def atKv (a : Bytes) : Nat := fld a 6 2
def atScale (a : Bytes) : Rat := (f32 (fld a 16 4)).rat

/-- An entry of the batch list (R196). -/
structure BatchEntry where
  seqId : Nat
  row : Nat
  tokens : Nat
  deriving DecidableEq, Repr

/-- A query block: its key/value head, its rows as (row of OBJ_Q, query head, position), none for padding, and its batch entry in sequence mode. -/
structure QBlk where
  kv : Nat
  rows : List (Option (Nat × Nat × Nat))
  entry : Nat
  deriving DecidableEq, Repr

/-- What a run of ATTEND reads. -/
structure ACtx where
  a : Bytes
  f : Bytes
  c : Cmd
  q : Operand
  k : Option Operand
  v : Option Operand
  sketch : Option (Nat × Obj × List Nat)
  entries : List BatchEntry
  views : List SeqView
  outKey : Nat
  out : Obj
  deriving DecidableEq, Repr

/-- The batch list of a command (R196). -/
def State.batchList (s : State) (c : Cmd) : List BatchEntry :=
  match s.obj? c.owner (c.f 36 4) with
  | some (k, o) => (List.range (c.f 40 4)).map (fun i =>
      let v := c.viewOf k o
      { seqId := o.readNat v (16 * i) 4, row := o.readNat v (16 * i + 4) 4, tokens := o.readNat v (16 * i + 8) 4 })
  | none => []

/-- The visible lengths that admission fixes: of each batch entry of an ATTEND, and of the sequence of a MOVE SEQ_EXPORT, which names no step (R174, R285, R372). -/
def State.visibleLens (s : State) (c : Cmd) : NMap Nat :=
  if c.opcode = 0x02 ∧ atSeq ((s.planOf c).sec 4) = true then
    (s.batchList c).zipIdx.map (fun e => (e.2, (s.seqView c.owner (seqIndex e.1.seqId) (c.f 52 4) (c.f 64 2)).v))
  else if c.opcode = 0x06 ∧ c.f 16 1 = 3 then [(0, (s.seqAt (seqIndex (c.f 20 4))).c)]
  else []

/-- The context of an ATTEND with MODE 0x00, with the visible lengths of its admission (R285). -/
def State.actx (s : State) (c : Cmd) : Option ACtx :=
  let p := s.planOf c
  let a := p.sec 4
  let es := if atSeq a then s.batchList c else []
  match operandOf s c 1 16 (if atSeq a then 2 ^ 32 else c.f 40 4) (atHeads a * 128) 1 false 0 false none, s.obj? c.owner (c.f 28 4) with
  | some q, some (ok, o) =>
    some
      { a := a, f := p.sec 2, c := c, q := q,
        k := operandOf s c 2 20 (c.f 44 4) (atKv a * 128) 1 false 0 false none,
        v := operandOf s c 2 24 (c.f 44 4) (atKv a * 128) 1 false 0 false none,
        sketch := (s.obj? c.owner (c.f 32 4)).map (fun k => (k.1, k.2, c.viewOf k.1 k.2)),
        entries := es, views := es.zipIdx.map (fun e => let w := s.seqView c.owner (seqIndex e.1.seqId) (c.f 52 4) (c.f 64 2)
                                                 { w with v := NMap.getD c.lens e.2 w.v }),
        outKey := ok, out := o }
  | _, _ => none

/-- Key positions of a query block: KV_ACT, or the visible length (R175). -/
def ACtx.len (x : ACtx) (b : QBlk) : Nat :=
  if atSeq x.a then (match x.views[b.entry]? with | some v => v.v | none => 0) else x.c.f 44 4

/-- The query blocks in their order (R173, R174, R177). -/
def ACtx.blocks (x : ACtx) : List QBlk :=
  let G := atHeads x.a / atKv x.a
  if atSeq x.a then
    x.entries.zipIdx.flatMap (fun (e : BatchEntry × Nat) =>
      let per := 128 / G
      let v := match x.views[e.2]? with | some w => w.v | none => 0
      (List.range (atKv x.a)).flatMap (fun kv => (List.range (ceilDiv e.1.tokens per)).map (fun i =>
        { kv := kv, entry := e.2, rows := (List.range 128).map (fun r =>
            let t := i * per + r / G
            if r / G < per ∧ t < e.1.tokens then some (e.1.row + t, kv * G + r % G, v - e.1.tokens + t) else none) })))
  else
    (List.range (atHeads x.a)).flatMap (fun h => (List.range (ceilDiv (min x.q.rows x.out.rows) 128)).map (fun i =>
      { kv := h * atKv x.a / atHeads x.a, entry := 0, rows := (List.range 128).map (fun r =>
          let t := 128 * i + r
          if t < min x.q.rows x.out.rows then some (t, h, x.c.f 48 4 + t) else none) }))

/-- Whether MASK lets a query at position pq see a key at position pk (Table 7-1). -/
def maskSees (a : Bytes) (pq pk : Nat) : Bool :=
  match atMask a with
  | 0 => true
  | 1 => decide (pk ≤ pq)
  | _ =>
    let w := fld a 24 2
    let wh := w * fld a 26 2
    let far := fun (x y lim : Nat) => decide (x - y ≤ lim) && decide (y - x ≤ lim)
    far (pq / wh) (pk / wh) (fld a 28 2) && far (pq % wh / w) (pk % wh / w) (fld a 30 2) && far (pq % w) (pk % w) (fld a 32 2)

/-- Whether row r of a block sees key c of key block j (R175). -/
def ACtx.sees (x : ACtx) (b : QBlk) (j : Nat) (row : Option (Nat × Nat × Nat)) (c : Nat) : Bool :=
  match row with
  | some (_, _, pq) => decide (128 * j + c < x.len b) && maskSees x.a pq (128 * j + c)
  | none => false

/-- Whether key block j holds a live key and is not wholly masked for a query block. -/
def ACtx.open_ (x : ACtx) (b : QBlk) (j : Nat) : Bool := b.rows.any (fun r => (List.range 128).any (x.sees b j r))

/-- Whether key block j is partly masked: some live row does not see some live key. -/
def ACtx.partly (x : ACtx) (b : QBlk) (j : Nat) : Bool :=
  x.open_ b j && b.rows.any (fun r => r.isSome && (List.range 128).any (fun c => decide (128 * j + c < x.len b) && !(x.sees b j r c)))

/-! ### Reading queries, keys and values -/

/-- One query row: its 128 scaled elements. -/
def ACtx.query (x : ACtx) (die : Nat) (row : Option (Nat × Nat × Nat)) : Got :=
  match row with
  | some (r, h, _) => x.q.run die 0 r (h * 128) 0 1 128 (fun _ => false)
  | none => (List.replicate 128 Fp.zero, [])

/-- One key or value row of a query block at position pos; positions at or beyond the length are padding (R160, R276). -/
def State.kvAt (s : State) (x : ACtx) (die : Nat) (b : QBlk) (pos : Nat) (isV : Bool) : Got :=
  if x.len b ≤ pos then (List.replicate 128 Fp.zero, [])
  else if atSeq x.a then
    match x.views[b.entry]? with
    | some w =>
      let l := x.c.f 64 2
      let vals := s.viewRow w l b.kv pos isV
      let po := match w.leaf pos l with
        | some e => (match s.leafPoison e (rowOffset w.q.kvHeads w.q.kvFmt b.kv (pos % w.q.tpl) isV) (rowBytes w.q.kvFmt) with
            | some k => [(E_MEM_UNCORRECTABLE, k)] | none => [])
        | none => []
      (vals.map (fun e => Fp.ofRat (okRat e)), po ++ vals.filterMap (fun e => match e with | .ok _ => none | .error k => some (badFail 2 k)))
    | none => (List.replicate 128 Fp.zero, [])
  else
    match (if isV then x.v else x.k) with
    | some w => w.run die 0 pos (b.kv * 128) 0 1 128 (fun _ => false)
    | none => (List.replicate 128 Fp.zero, [])

/-- The sketch of key block j for a query block: means as BF16 codes and COUNT. -/
def State.sketchAt (s : State) (x : ACtx) (b : QBlk) (j : Nat) : List Nat × List Nat × Nat :=
  if atSeq x.a then
    match x.views[b.entry]? with
    | some w => let m := s.readSketch w (x.c.f 64 2) b.kv j w.v; (m.1, m.2, min 128 (w.v - 128 * j))
    | none => ([], [], 0)
  else
    match x.sketch with
    | some (_, o, v) =>
      let off := 64 + 528 * (b.kv * ceilDiv (fld x.a 12 4) 128 + j)
      let e := o.readBytes v off 528
      ((List.range 128).map (fun k => fld e (2 * k) 2), (List.range 128).map (fun k => fld e (256 + 2 * k) 2), fld e 512 4)
    | none => ([], [], 0)

/-! ### Selection (R186 to R188) -/

/-- One level of the pairwise sum of R187. -/
def pairSum : List Fp → List Fp
  | a :: b :: rest => add32 a b :: pairSum rest
  | xs => xs

/-- dot32 (R187): 128 products, then seven levels of pairwise sums. -/
def dot32 (u v : List Fp) : Fp := ((List.range 7).foldl (fun t _ => pairSum t) (List.zipWith mul32 u v)).headD Fp.zero

/-- The mean query of a block: exact column sums over live rows, divided and rounded to BF16. -/
def ACtx.meanQuery (x : ACtx) (die : Nat) (b : QBlk) : List Fp :=
  let live := b.rows.filter Option.isSome
  (meanBf16 (live.map (fun r => (x.query die r).1.map Fp.rat))).map bf16.decode

/-- Whether a candidate ranks before another: higher score, NaN last, then the lower index (R188). -/
def ranksBefore (a b : Nat × Fp) : Bool :=
  match a.2, b.2 with
  | .nan, .nan => decide (a.1 < b.1)
  | .nan, _ => false
  | _, .nan => true
  | p, q => if orderKey p = orderKey q then decide (a.1 < b.1) else decide (orderKey q < orderKey p)

/-- Insert a candidate by rank. -/
def candIn (a : Nat × Fp) : List (Nat × Fp) → List (Nat × Fp)
  | [] => [a]
  | b :: bs => if ranksBefore a b then a :: b :: bs else b :: candIn a bs

/-- The key blocks that a query block visits, ascending (R186). -/
def State.selected (s : State) (x : ACtx) (die : Nat) (b : QBlk) : List Nat :=
  let n := ceilDiv (x.len b) 128
  let openBlocks := (List.range n).filter (x.open_ b)
  if !(atSparse x.a) then openBlocks
  else
    let lastPos := ((b.rows.filterMap (fun r => r.map (fun p => p.2.2))).getLastD 0)
    let d := lastPos / 128
    let loc := fld x.a 22 1
    let after := if atMask x.a = 1 then 0 else loc
    let globals := (List.range (x.c.f 67 1)).map (fun i => x.c.f (72 + 4 * i) 4)
    let listed := fun (j : Nat) => (decide (d ≤ j + loc) && decide (j ≤ d + after)) || decide (j < fld x.a 23 1) || globals.contains j
    let fixed := openBlocks.filter listed
    let cands := openBlocks.filter (fun j => !(listed j))
    let k := fld x.a 20 2
    let top :=
      if cands.length ≤ k then cands
      else
        let mq := x.meanQuery die b
        let scored := cands.map (fun j => (j, dot32 mq ((s.sketchAt x b j).1.map bf16.decode)))
        ((scored.foldl (fun acc c => candIn c acc) []).take k).map (·.1)
    openBlocks.filter (fun j => fixed.contains j || top.contains j)

/-! ### The recurrence (R176, R190) -/

/-- The running values of one row: maximum, sum, output, and whether a table evaluation failed. -/
structure RowAcc where
  m : Fp := .inf true
  l : Fp := Fp.zero
  o : List Fp := List.replicate 128 Fp.zero
  bad : Bool := false
  deriving DecidableEq, Repr

/-- exp2t with the command's slot: -∞ gives 0 without a lookup. -/
def ACtx.exp2 (x : ACtx) (v : Fp) : Option Fp :=
  match v with
  | .inf true => some Fp.zero
  | _ => x.c.sf (atExp x.a) v

/-- The larger of two values, infinities in order. -/
def maxOrd (a b : Fp) : Fp := if orderKey a < orderKey b then b else a

/-- One key block's step on a row, its scores and the values of the block's rows given (R176). -/
def ACtx.rowStep (x : ACtx) (z : List Fp) (vals : List (List Rat)) (r : RowAcc) : RowAcc :=
  if z.all (fun y => y == .inf true) then r
  else
    let mn := z.foldl maxOrd r.m
    let a := x.exp2 (sub32 r.m mn)
    let ps := z.map (fun y => x.exp2 (sub32 y mn))
    match a with
    | none => { r with bad := true }
    | some a =>
      if ps.any Option.isNone then { r with bad := true }
      else
        let qs := (blocksOf 32 (ps.map (fun p => p.map Fp.rat))).map (fun b => quantBlock 0x07 b none)
        let pq := (qs.map (fun q => q.codes.map (fun k => (e4m3.decode k).rat * scaleValue q.scale))).flatten
        let sum := rn32 (pq.foldl (· + ·) 0)
        let pv := (List.range 128).map (fun d => rn32 ((List.zipWith (fun p v => p * v.getD d 0) pq vals).foldl (· + ·) 0))
        { r with m := mn, l := add32 (mul32 r.l a) sum, o := List.zipWith (fun o p => add32 (mul32 o a) p) r.o pv }

/-- The pseudo-key step on a row (R190). -/
def ACtx.pseudoStep (x : ACtx) (q : List Fp) (mk mv : List Fp) (count : Nat) (r : RowAcc) : RowAcc :=
  let zs := mul32 (dot32 q mk) (Fp.ofRat (atScale x.a))
  let mn := maxOrd r.m zs
  match x.exp2 (sub32 r.m mn), x.exp2 (sub32 zs mn) with
  | some a, some e =>
    let w := mul32 (Fp.ofRat (count : Rat)) e
    { r with m := mn, l := add32 (mul32 r.l a) w, o := List.zipWith (fun o v => add32 (mul32 o a) (mul32 w v)) r.o mv }
  | _, _ => { r with bad := true }

/-- How a key block was read for a query block: 1 sketch, 2 zero, 0 in full (R190). -/
def ACtx.lateKind (x : ACtx) (qb j : Nat) : Nat :=
  match x.c.run.zeroUses.find? (fun u => u.1 == qb && u.2.2.1 == j) with
  | some u => u.2.1
  | none => 0

/-- What one query block gives: for each row the values before conversion, and the failures met. A row with l = 0 gives 0, whatever o has become. The final division is that of binary32, with its signs and infinities: a non-finite y, here NaN, fails the command (R176, R178). -/
def State.attendBlock (s : State) (x : ACtx) (die qb : Nat) (b : QBlk) (sel : List Nat) : List (Option (List Fp)) × List (Nat × Nat) :=
  let queries := b.rows.map (x.query die)
  let step := fun (acc : List RowAcc × List (Nat × Nat)) (j : Nat) =>
    let kind := x.lateKind qb j
    if kind = 1 then
      let sk := s.sketchAt x b j
      let rows := (acc.1.zip (b.rows.zip queries)).map (fun (t : RowAcc × Option (Nat × Nat × Nat) × Got) =>
        if (List.range 128).any (x.sees b j t.2.1) then x.pseudoStep t.2.2.1 (sk.1.map bf16.decode) (sk.2.1.map bf16.decode) sk.2.2 t.1 else t.1)
      (rows, acc.2)
    else
      let ks := (List.range 128).map (fun c => if kind = 2 then (List.replicate 128 Fp.zero, []) else s.kvAt x die b (128 * j + c) false)
      let vs := (List.range 128).map (fun c => if kind = 2 then (List.replicate 128 Fp.zero, []) else s.kvAt x die b (128 * j + c) true)
      let vals := vs.map (fun v => v.1.map Fp.rat)
      let rows := (acc.1.zip (b.rows.zip queries)).map (fun (t : RowAcc × Option (Nat × Nat × Nat) × Got) =>
        let z := ks.zipIdx.map (fun (k : Got × Nat) =>
          if x.sees b j t.2.1 k.2 then rn32 (dotExact (t.2.2.1.map Fp.rat) (k.1.1.map Fp.rat) * atScale x.a) else .inf true)
        x.rowStep z vals t.1)
      (rows, acc.2 ++ (ks.map (·.2)).flatten ++ (vs.map (·.2)).flatten)
  let out := sel.foldl step (List.replicate 128 {}, [])
  let sc := (fsScale x.f).rat
  let fin := (out.1.zip b.rows).map (fun (t : RowAcc × Option (Nat × Nat × Nat)) =>
    t.2.map (fun _ => t.1.o.map (fun o =>
      if t.1.bad then Fp.nan
      else if t.1.l.isZero then Fp.zero
      else match t.1.l, o with
        | .fin ln lm, .fin n om =>
          match fp32.round (n != ln) (om / lm) with
          | .fin yn ym => Fp.fin (yn != decide (sc < 0)) (ym * ratAbs sc)
          | _ => Fp.nan
        | .inf _, .fin _ _ => Fp.zero
        | _, _ => Fp.nan)))
  (fin, (queries.map (·.2)).flatten ++ out.2)

/-! ### Writing rows of an output ingot -/

/-- The output ingots of a command from its rows: (row of OBJ_OUT, head) with 128 values each. Rows past the object's extent are not written (R161, R162); in sequence mode rows of an ingot that no entry names stay as they are (R196). The statistics are taken on the values before conversion, as Table 4-3 has them: DEDUCED (log entry 118). -/
def State.writeAttend (s : State) (id : Nat) (x : ACtx) (all : List ((Nat × Nat) × List Fp)) : State :=
  let rows := all.filter (fun r => decide (r.1.1 < x.out.rows))
  let keys := dedup (rows.map (fun r => (r.1.1 / 128, r.1.2)))
  keys.foldl (fun (a : State) (k : Nat × Nat) =>
    let mine := rows.filter (fun r => r.1.1 / 128 == k.1 && r.1.2 == k.2)
    let rowVal := fun (r : Nat) => (mine.find? (fun m => m.1.1 == 128 * k.1 + r)).map (·.2)
    let n := x.out.index 0 k.1 k.2
    let vals := (List.range 128).map (fun r => match rowVal r with | some v => v.map some | none => List.replicate 128 none)
    let rats := vals.map (fun r => r.map (fun v => v.map Fp.rat))
    let h : Header := { fmt := x.c.fmtOut, object := x.c.f 28 4, index := n, commit := x.out.nextCommit }
    let sr := fun (r : Nat) => if fsRound x.f = 1 then some (x.c.f 56 8, x.c.f 28 4, (128 * k.1 + r) * x.out.cols + 128 * k.2) else none
    let old := x.out.ingot (slotIn (x.c.viewOf x.outKey x.out) n) n
    let keep := fun (r : Nat) => atSeq x.a && decide (128 * k.1 + r < x.out.rows) && (rowVal r).isNone
    let w := writeKept h (fsMinLost x.f) (fsMaxProm x.f) old keep vals sr (decide (x.out.slot = 12288))
    let flat := rats.flatten.filterMap (fun v => v)
    let st : Stats := { amax := expAbove flat, lost := ((rats.map (fun r => ((blocksOf 16 r).map lostCount).sum)).sum),
                        nonzero := flat.countP (fun q => decide (q ≠ 0)), degraded := w.degraded, promoted := w.promoted }
    let bad := !w.finite || vals.flatten.any (fun v => match v with | some q => !q.finite | none => false)
    let a1 := if bad then a else a.putIngot id x.outKey n w.slot w.ext
    a1.setRun id (fun r => { r with fails := if bad then r.fails ++ [(E_NONFINITE, 0x0010)] else r.fails,
                                    stats := r.stats.merge st, degraded := r.degraded + w.degraded })) s

/-- The operand ingots a query block reads: queries, and the visited key and value ingots (R197). -/
def ACtx.reads (x : ACtx) (qb : Nat) (b : QBlk) (sel : List Nat) : List (Nat × Nat) :=
  let qs := b.rows.flatMap (fun r => match r with | some (t, h, _) => x.q.reads 0 t (h * 128) | none => [])
  let kv := fun (w : Option Operand) => match w with
    | some o => (sel.filter (fun j => x.lateKind qb j == 0)).flatMap (fun j => o.reads 0 (128 * j) (b.kv * 128))
    | none => []
  dedup (qs ++ (if atSeq x.a then [] else kv x.k ++ kv x.v))

/-- The selected set in force of a query block: the selector's, or computed here. -/
def State.selectionOf (s : State) (x : ACtx) (die qb : Nat) (b : QBlk) : List Nat :=
  match NMap.get? x.c.run.selections qb with
  | some l => l
  | none => s.selected x die b

/-- Why a sketch object is not current for a command, if it is not (R184, Table 7-8). -/
def State.sketchStale (s : State) (c : Cmd) : Option Nat :=
  let a := (s.planOf c).sec 4
  let commits := fun (off : Nat) => match s.obj? c.owner (c.f off 4) with
    | some (k, o) => (match c.views.find? (fun w => w.key == k) with | some w => w.commits.toNat | none => o.commits.toNat)
    | none => 0
  match s.obj? c.owner (c.f 32 4) with
  | some (k, o) =>
    let r := fun (off n : Nat) => o.readNat (c.viewOf k o) off n
    if !(bitOf (r 22 1) 0) then some 1
    else if r 0 4 ≠ c.f 20 4 ∨ r 4 4 ≠ c.f 24 4 then some 2
    else if r 8 4 ≠ commits 20 ∨ r 12 4 ≠ commits 24 then some 3
    else if r 16 4 ≠ c.f 44 4 ∨ r 20 2 ≠ atKv a then some 4
    else none
  | none => some 1

/-! ### Uses and their fallback classes (R190, R365 to R370) -/

/-- The object of an operand role of a plane command: 1 A or Q, 2 B or K, 3 aux or V, 4 bias. -/
def roleOffset (c : Cmd) (role : Nat) : Nat :=
  if c.opcode = 0x01 then (match role with | 1 => 16 | 2 => 20 | 3 => 28 | _ => 32)
  else (match role with | 1 => 16 | 2 => 20 | _ => 24)

/-- The byte of the plan's fallback section that overrides a role: A, B, aux and bias, attention keys and values (R370). -/
def overrideByte (c : Cmd) (role : Nat) : Nat :=
  if c.opcode = 0x01 then (match role with | 1 => 0 | 2 => 1 | _ => 2) else (if role = 1 then 0 else 3)

/-- Whether the plan forces STALL for a role. -/
def State.forcedStall (s : State) (c : Cmd) (role : Nat) : Bool :=
  match planSection (s.planOf c).image 7 with
  | some b => fld b (overrideByte c role) 1 == 0
  | none => false

/-- The fallback class in force for a use, 0 STALL, 1 SKETCH, 2 ZERO (R366): of the object, or of the sequence in sequence mode; `item` is the tile or query block. -/
def State.classOf (s : State) (c : Cmd) (item role : Nat) : Nat :=
  if s.forcedStall c role then 0
  else
    let obj := match s.obj? c.owner (c.f (roleOffset c role) 4) with | some (_, o) => o.fallback | none => 0
    if c.opcode = 0x01 then (if obj = 2 then 2 else 0)
    else if role = 1 then 0
    else
      match s.actx c with
      | some x =>
        if atSeq x.a then
          match x.blocks[item]? with
          | some b => (match x.views[b.entry]? with | some v => v.q.fallback | none => 0)
          | none => 0
        else obj
      | none => 0

/-- The number by which arrivals and deadlines name key block j of a query block: its key ingot (role 2) or value ingot (role 3) of the block's head in object mode; in sequence mode, where a leaf holds both for every head, the key block of the block's batch entry (R190). -/
def ACtx.keyUse (x : ACtx) (role : Nat) (b : QBlk) (j : Nat) : Nat :=
  if atSeq x.a then b.entry * 2 ^ 24 + j
  else match (if role = 2 then x.k else x.v) with | some w => w.ingotOf 0 j b.kv | none => j

/-- The uses of key block j of a query block, as (role, number). -/
def ACtx.keyUses (x : ACtx) (b : QBlk) (j : Nat) : List (Nat × Nat) :=
  if atSeq x.a then [(2, x.keyUse 2 b j)] else [(2, x.keyUse 2 b j), (3, x.keyUse 3 b j)]

/-- Whether the sketch of key block j can stand in for it in a query block: an entry that is current, in a block not partly masked; of a demoted leaf, once its margin has arrived, which role 4 names (R190, R306, R367). -/
def State.sketchUsable (s : State) (x : ACtx) (b : QBlk) (j : Nat) : Bool :=
  !(x.partly b j) &&
  (if atSeq x.a then
     match x.views[b.entry]? with
     | some w =>
       (match w.leaf (min w.v (128 * j + 128) - 1) (x.c.f 64 2) with
        | some e => !e.t3 || x.c.run.arrived.any (fun u => u.2 == (4, x.keyUse 2 b j))
        | none => false)
     | none => false
   else x.sketch.isSome && (s.sketchStale x.c).isNone)

/-- How a key block is read whose key ingot (role 2) or value ingot (role 3) is late, under the class in force for that operand: 1 its sketch, 2 as zero, none when the plane waits (R190). -/
def State.lateAs (s : State) (x : ACtx) (qb : Nat) (b : QBlk) (j role : Nat) : Option Nat :=
  match s.classOf x.c qb role with
  | 0 => none
  | 1 => if s.sketchUsable x b j then some 1 else none
  | _ => some 2

/-- How a key block with an ingot whose fetch failed is read: as a late one, by the class of an operand that it lost; none when the plane waits (R369). -/
def State.lostAs (s : State) (x : ACtx) (qb : Nat) (b : QBlk) (j : Nat) : Option Nat :=
  ((x.keyUses b j).filter x.c.run.failedFetch.contains).findSome? (fun u => s.lateAs x qb b j u.1)

/-- Key blocks of a query block whose fetch failed and that stand recorded as nothing else. -/
def ACtx.lostBlocks (x : ACtx) (qb : Nat) (b : QBlk) (sel : List Nat) : List Nat :=
  sel.filter (fun j => x.lateKind qb j == 0 && (x.keyUses b j).any x.c.run.failedFetch.contains)

/-- Those of them that are read as late ones (R369). -/
def State.lostUses (s : State) (x : ACtx) (qb : Nat) (b : QBlk) (sel : List Nat) : List (Nat × Nat × Nat × Nat) :=
  (x.lostBlocks qb b sel).filterMap (fun j => (s.lostAs x qb b j).map (fun k => (qb, k, j, 0)))

/-- Whether some query block waits for an ingot that never arrives: no class lets its key block be read without it (R367, R369). -/
def State.attendStuck (s : State) (c : Cmd) : Bool :=
  match s.actx c with
  | some x => x.blocks.zipIdx.any (fun b =>
      (x.lostBlocks b.2 b.1 (s.selectionOf x (c.dieOfPos x.blocks.length b.2) b.2 b.1)).any (fun j => (s.lostAs x b.2 b.1 j).isNone))
  | none => false

/-- The rows and scales of the leaves that a query block reads pass through the memory that holds them (R276, R306, R327). -/
def State.readBlockLeaves (s : State) (x : ACtx) (die qb : Nat) (b : QBlk) (sel : List Nat) : State :=
  match (if atSeq x.a then x.views[b.entry]? else none) with
  | some w =>
    let n := min w.q.tpl 128
    (sel.filter (fun j => x.lateKind qb j == 0)).foldl (fun (a : State) j => (List.range (128 / n)).foldl (fun (a1 : State) i =>
      match w.leaf (128 * j + n * i) (x.c.f 64 2) with
      | some e =>
        let p := (128 * j + n * i) % w.q.tpl
        [false, true].foldl (fun (a2 : State) v =>
          (a2.readLeaf w.q.part die e (rowOffset w.q.kvHeads w.q.kvFmt b.kv p v) (n * rowBytes w.q.kvFmt)).readLeaf w.q.part die e
            (scaleOffset w.q.tpl w.q.kvFmt b.kv p v) (n * scaleCount w.q.kvFmt)) a1
      | none => a1) a) s
  | none => s

/-- End the body of an ATTEND: every query block in order, each on the die of its segment, the output ingots, then the status and counts, which the record holds whatever the status (R67, R157, R191, R197). -/
def State.endAttend (s : State) (id : Nat) : State :=
  match s.cmd? id with
  | none => s
  | some c =>
    match s.actx c with
    | some x0 =>
      let bs := x0.blocks.zipIdx.map (fun (b : QBlk × Nat) =>
        let die := c.dieOfPos x0.blocks.length b.2
        (b.1, b.2, die, s.selectionOf x0 die b.2 b.1))
      let lost := bs.flatMap (fun t => s.lostUses x0 t.2.1 t.1 t.2.2.2)
      let x := { x0 with c := { c with run := { c.run with zeroUses := c.run.zeroUses ++ lost } } }
      let res := bs.map (fun t => (t, s.attendBlock x t.2.2.1 t.2.1 t.1 t.2.2.2))
      let rows := res.flatMap (fun t => (t.1.1.rows.zip t.2.1).filterMap (fun (q : Option (Nat × Nat × Nat) × Option (List Fp)) =>
        match q.1, q.2 with
        | some (r, h, _), some v => some ((r, h), v)
        | _, _ => none))
      let skipped := (bs.map (fun t => ceilDiv (x.len t.1) 128 - t.2.2.2.length)).sum
      let reads := dedup (bs.flatMap (fun t => x.reads t.2.1 t.1 t.2.2.2))
      let s0 := bs.foldl (fun (a : State) t => a.fetchAll c t.2.2.1 ((x.reads t.2.1 t.1 t.2.2.2).filter (fun i => !(c.run.readIngots.contains i)))) s
      let s0 := (bs.filter (fun t => !(c.run.done.contains t.2.1))).foldl (fun (a : State) t => (a.serve c t.2.2.1).readBlockLeaves x t.2.2.1 t.2.1 t.1 t.2.2.2) s0
      let s1 := (s0.setRun id (fun r => { r with fails := r.fails ++ (res.map (fun t => t.2.2)).flatten, zeroUses := x.c.run.zeroUses,
                                                 skipped := skipped, promoted := s.promotedIn c reads })).writeAttend id x rows
      match s1.cmd? id with
      | none => s1
      | some c1 =>
        match pickFail runOrder c1.run.fails with
        | some (st, dt) => s1.toReady id (fun c => c.withCounts st dt)
        | none =>
          let pairs := dedup (c1.run.zeroUses.filterMap (fun u => (x.blocks[u.1]?).map (fun b => ((if atSeq x.a then b.entry * 256 else 0) + b.kv, u.2.2.1))))
          let st := if !pairs.isEmpty then OK_APPROX else if c1.run.degraded ≠ 0 ∨ c1.refused then OK_DEGRADED else OK
          s1.toReady id (fun c => c.withCounts st (if !pairs.isEmpty then min pairs.length 0xFFFF else b2n c1.refused))
    | none => s

/-! ### Admission -/

/-- Range checks of ATTEND (Table 7-6). A sequence is named by a SEQ_ID of its generation, in any state but FREE, a RETIRED one keeping its generation until it is freed (R297): a LAYER beyond its layer count is out of range (R195). -/
def attendRange (s : State) (owner : Nat) (p : Option Plan) (d : Bytes) : Option Nat :=
  let q := p.getD {}
  let known := p.isSome
  let a := q.sec 4
  let f := q.sec 2
  let build := decide (fld d 66 1 = 1)
  let sq := atSeq a
  let obj := known && !sq
  let seqm := known && sq
  let nz := fun (off n : Nat) => decide (fld d off n ≠ 0)
  let must := fun (off n : Nat) (want : Bool) => known && (nz off n != want)
  let gc := fld d 67 1
  let layers := ((s.obj? owner (fld d 36 4)).map (fun o => (List.range (fld d 40 4)).map (fun i => o.2.readNat o.2.vmap (16 * i) 4))).getD []
  let short := fun (n : Nat) => let y := s.seqAt (seqIndex n)
    decide (y.gen = seqGen n) && y.state != .free && decide (y.layers ≤ fld d 64 2)
  firstBad
    [ (16, must 16 4 (!build)), (20, must 20 4 (!sq)), (24, must 24 4 (!sq)), (28, must 28 4 (!build)),
      (32, (seqm && nz 32 4) || (obj && (atSparse a || build) && !(nz 32 4))), (36, must 36 4 sq),
      (40, if build then nz 40 4 else !(nz 40 4) || (known && decide (fld a 8 4 < fld d 40 4))),
      (44, if sq then seqm && nz 44 4 else known && (!(nz 44 4) || decide (fld a 12 4 < fld d 44 4))),
      (48, seqm && nz 48 4), (52, obj && nz 52 4), (56, known && decide (fsRound f ≠ 1) && nz 56 8),
      (64, (obj && nz 64 2) || (seqm && layers.any short)),
      (66, decide (1 < fld d 66 1) || (build && seqm)), (67, decide (8 < gc) || (known && !(atSparse a) && decide (gc ≠ 0))),
      (68, known && !(fsTrack f) && nz 68 4) ]
    |>.orElse (fun _ => firstBad ((List.range 8).map (fun i =>
        (72 + 4 * i, if i < gc then decide (2 ^ 17 ≤ fld d (72 + 4 * i) 4) else nz (72 + 4 * i) 4)) ++ [(104, !(zeros d 104 128))]))

/-- E_BAD_OBJECT of ATTEND: column extents below the layout (R173). R173 gives the columns of OBJ_Q and OBJ_OUT and this check for object mode; in sequence mode the spec names no columns, and the model uses the same HEADS × 128 layout and check there: DESIGN CHOICE (log entry 98). -/
def State.attendExtent (s : State) (c : Cmd) : Option (Nat × Nat) :=
  let a := (s.planOf c).sec 4
  let short := fun (off n : Nat) => match s.obj? c.owner (c.f off 4) with | some (_, o) => decide (o.kind = 0) && decide (o.cols < n) | none => false
  if short 16 (atHeads a * 128) || short 28 (atHeads a * 128) || short 20 (atKv a * 128) || short 24 (atKv a * 128) then some (E_BAD_OBJECT, 0) else none

/-- E_SKETCH_SIZE (R182). -/
def State.sketchSize (s : State) (c : Cmd) : Option (Nat × Nat) :=
  let a := (s.planOf c).sec 4
  match s.obj? c.owner (c.f 32 4) with
  | some (_, o) => if o.kind = 1 ∧ o.bytes < 64 + 528 * (atKv a * ceilDiv (fld a 12 4) 128) then some (E_SKETCH_SIZE, 0) else none
  | none => none

/-- Whether two runs of rows meet: an entry without tokens has no rows. -/
def rowsMeet (a b : BatchEntry) : Bool :=
  decide (0 < a.tokens) && decide (0 < b.tokens) && decide (a.row < b.row + b.tokens) && decide (b.row < a.row + a.tokens)

/-- The first failing entry of a list by a test, saturated. -/
def firstEntry (es : List BatchEntry) (f : BatchEntry × Nat → Bool) : Option Nat := ((es.zipIdx.find? f).map (fun e => min e.2 0xFFFF))

/-- E_SEQ_STALE and E_BATCH_LIST of ATTEND (R196). -/
def State.batchFail (s : State) (c : Cmd) : Option (Nat × Nat) :=
  if !(atSeq ((s.planOf c).sec 4)) then none
  else
    let es := s.batchList c
    let rows := match s.obj? c.owner (c.f 16 4) with | some (_, o) => o.rows | none => 0
    let stale := fun (e : BatchEntry × Nat) => let q := s.seqAt (seqIndex e.1.seqId); decide (q.gen ≠ seqGen e.1.seqId)
    let bad := fun (e : BatchEntry × Nat) =>
      decide (e.1.tokens = 0) || decide ((s.seqView c.owner (seqIndex e.1.seqId) (c.f 52 4) (c.f 64 2)).v < e.1.tokens)
        || decide (rows < e.1.row + e.1.tokens) || es.zipIdx.any (fun o => decide (o.2 ≠ e.2) && rowsMeet o.1 e.1)
    match firstEntry es stale with
    | some i => some (E_SEQ_STALE, i)
    | none => (firstEntry es bad).map (fun i => (E_BATCH_LIST, i))

/-- E_SKETCH_STALE of a sparse ATTEND in object mode (R184). -/
def State.sketchFail (s : State) (c : Cmd) : Option (Nat × Nat) :=
  let a := (s.planOf c).sec 4
  if atSparse a && !(atSeq a) && decide (c.f 66 1 = 0) then (s.sketchStale c).map (fun d => (E_SKETCH_STALE, d)) else none

/-- E_STEP_STATE and E_SEQ_STATE of ATTEND (R301). -/
def State.attendSeqState (s : State) (c : Cmd) : Option (Nat × Nat) :=
  if !(atSeq ((s.planOf c).sec 4)) then none
  else
    let h := c.f 52 4
    if h ≠ 0 ∧ (s.step? c.owner h).isNone then some (E_STEP_STATE, 1)
    else
      (firstEntry (s.batchList c) (fun e =>
        let q := s.seqAt (seqIndex e.1.seqId)
        !(q.state == .active) || decide (q.part ≠ c.owner) || (decide (q.step ≠ 0) && decide (q.step ≠ h)))).map (fun i => (E_SEQ_STATE, i))

/-- E_OBJECT_POLICY of ATTEND (R354; kinds and the output's format). -/
def State.attendPolicy (s : State) (c : Cmd) : Option (Nat × Nat) :=
  let f := (s.planOf c).sec 2
  let bad := fun (off : Nat) (p : Obj → Bool) => match s.obj? c.owner (c.f off 4) with | some (_, o) => p o | none => false
  let build := decide (c.f 66 1 = 1)
  if bad (if build then 32 else 28) (fun o => o.placement == 2) then some (E_OBJECT_POLICY, 1)
  else if bad 16 (fun o => decide (o.kind ≠ 0)) || bad 20 (fun o => decide (o.kind ≠ 0)) || bad 24 (fun o => decide (o.kind ≠ 0))
      || bad 28 (fun o => decide (o.kind ≠ 0) || decide (o.fmt ≠ fsOut f)) || bad 32 (fun o => decide (o.kind ≠ 1))
      || bad 36 (fun o => decide (o.kind ≠ 1)) then some (E_OBJECT_POLICY, 4)
  else none

/-! ### Rows -/

/-- Distribute an ATTEND's query blocks (R177). -/
def State.openAttend (s : State) (id : Nat) : State :=
  match s.cmd? id with
  | some c =>
    if c.run.segs.isEmpty then
      match s.actx c with
      | some x => s.distribute id x.blocks.length
      | none => s
    else s
  | none => s

/-- ATTEND with MODE 0x00 (R176): started when it may be, it runs its body to its decision point. -/
def execAttend (cmd : Nat) (s : State) : Host.Outcome State Fault Refusal :=
  .next (control 0x02 (fun c => decide (c.f 66 1 = 0)) (fun _ s =>
    let s1 := s.ensureStart cmd
    match s1.cmd? cmd with
    | some c =>
      if c.phase ≠ .started then s1
      else if s1.attendStuck c then s1.openAttend cmd
      else (((s1.deliverAll cmd).openAttend cmd).setRun cmd (fun r => { r with held := [] })).endAttend cmd
    | none => s1) cmd s)

/-- BLOCK_SELECTION_DONE (R189): the selector completes a query block's selected set. -/
def execBlockSelectionDone (cmd qb : Nat) (s : State) : Host.Outcome State Fault Refusal :=
  .next (control 0x02 (fun c => decide (c.phase = .started) && decide (c.f 66 1 = 0)) (fun c s =>
    match s.actx c with
    | some x =>
      match x.blocks[qb]? with
      | some b => (s.openAttend cmd).setRun cmd (fun r => { r with selections := NMap.set r.selections qb (s.selected x (c.dieOfPos x.blocks.length qb) b) })
      | none => s
    | none => s) cmd s)

/-- Read one row of a build's key or value object. -/
def buildRow (o : Option Operand) (die kv pos : Nat) : Got :=
  match o with
  | some w => w.run die 0 pos (kv * 128) 0 1 128 (fun _ => false)
  | none => (List.replicate 128 Fp.zero, [])

/-- ATTEND with MODE 0x01 (R183): every sketch entry and the header go to the inactive version of OBJ_SKETCH. -/
def execAttendBuildSketches (cmd : Nat) (s : State) : Host.Outcome State Fault Refusal :=
  .next (control 0x02 (fun c => decide (c.f 66 1 = 1)) (fun _ s0 =>
    let s := s0.ensureStart cmd
    match s.cmd? cmd with
    | none => s
    | some c =>
      let a := (s.planOf c).sec 4
      match s.obj? c.owner (c.f 32 4), NMap.get? s.parts c.owner with
      | some (k, _), some p =>
        if c.phase ≠ .started then s
        else
          let kv := c.f 44 4
          let ko := operandOf s c 2 20 kv (atKv a * 128) 1 false 0 false none
          let vo := operandOf s c 2 24 kv (atKv a * 128) 1 false 0 false none
          let nb := ceilDiv (fld a 12 4) 128
          let entry := fun (h j : Nat) =>
            let n := min 128 (kv - 128 * j)
            let ks := (List.range n).map (fun r => buildRow ko p.firstDie h (128 * j + r))
            let vs := (List.range n).map (fun r => buildRow vo p.firstDie h (128 * j + r))
            let m := fun (g : List Got) => ((meanBf16 (g.map (fun r => r.1.map Fp.rat))).map (leBytes 2)).flatten
            (64 + 528 * (h * nb + j), m ks ++ m vs ++ leBytes 4 n ++ List.replicate 12 0, (ks.map (·.2)).flatten ++ (vs.map (·.2)).flatten)
          let es := (List.range (atKv a)).flatMap (fun h => (List.range nb).map (entry h))
          let rd := fun (o : Option Operand) => match o with
            | some w => (List.range (atKv a)).flatMap (fun h => (List.range (ceilDiv kv 128)).flatMap (fun j => w.reads 0 (128 * j) (h * 128)))
            | none => []
          let read := s.promotedIn c (dedup (rd ko ++ rd vo))
          match pickFail runOrder (es.map (fun e => e.2.2)).flatten with
          | some (st, dt) => s.toReady cmd (fun c => { c with status := st, detail := dt, promoted := read })
          | none =>
            let commits := fun (off : Nat) => match s.obj? c.owner (c.f off 4) with
              | some (k2, o2) => (match c.views.find? (fun w => w.key == k2) with | some w => w.commits.toNat | none => o2.commits.toNat)
              | none => 0
            let hdr := leBytes 4 (c.f 20 4) ++ leBytes 4 (c.f 24 4) ++ leBytes 4 (commits 20) ++ leBytes 4 (commits 24) ++ leBytes 4 kv
              ++ leBytes 2 (atKv a) ++ leBytes 1 1 ++ List.replicate 41 0
            let s1 := es.foldl (fun (b : State) e => b.putObj cmd k e.1 e.2.1) (s.putObj cmd k 0 hdr)
            s1.toReady cmd (fun c => { c with status := OK, detail := 0, promoted := read })
      | _, _ => s) cmd s)

end Sys2Proof.Machine
end

