-- ==== Sys2Proof/Machine/Collation.lean ====
section
/-! DEFINITION. The collation unit: length buckets, packing, expert dispatch and combine, and the rows they move (R220 to R240). -/

namespace Sys2Proof.Machine

/-! ### The collation section (Table 9-4) -/

def coMode (b : Bytes) : Nat := fld b 0 1
def coScoreFmt (b : Bytes) : Nat := fld b 1 1
def coTopk (b : Bytes) : Nat := fld b 2 1
def coSoftmax (b : Bytes) : Bool := fld b 3 1 == 1
def coFail (b : Bytes) : Bool := fld b 4 1 == 1
def coBuckets (b : Bytes) : Nat := fld b 5 1
def coUnpack (b : Bytes) : Bool := bitOf (fld b 6 1) 0
def coOutFmt (b : Bytes) : Nat := fld b 7 1
def coExperts (b : Bytes) : Nat := fld b 8 2
def coCapacity (b : Bytes) : Nat := fld b 12 4
def coScale (b : Bytes) : Fp := f32 (fld b 16 4)
def coMax (b : Bytes) : Nat := fld b 20 4
def coWidth (b : Bytes) : Nat := fld b 24 4
def coBound (b : Bytes) (k : Nat) : Nat := fld b (32 + 4 * k) 4
/-- CAP_ROWS (R231). -/
def coCapRows (b : Bytes) : Nat := ceilDiv (coCapacity b) 128 * 128

/-! ### Length buckets (R222, R223) -/

/-- The bucket of an item: the lowest whose bound covers its length; the last has no bound. -/
def bucketOf (sec : Bytes) (len : Nat) : Nat :=
  ((List.range (coBuckets sec - 1)).find? (fun k => decide (len ≤ coBound sec k))).getD (coBuckets sec - 1)

/-- An item placed in a bucket. -/
structure Placed where
  bucket : Nat
  len : Nat
  item : Nat
  deriving DecidableEq, Repr

/-- Ascending bucket, then descending length, then ascending item. -/
def Placed.before (a b : Placed) : Bool :=
  if a.bucket ≠ b.bucket then decide (a.bucket < b.bucket)
  else if a.len ≠ b.len then decide (b.len < a.len)
  else decide (a.item < b.item)

def placeIn (a : Placed) : List Placed → List Placed
  | [] => [a]
  | b :: bs => if a.before b then a :: b :: bs else b :: placeIn a bs

/-- The placed items of a batch, in order; items of length 0 are in no bucket. -/
def placeItems (sec : Bytes) (lens : List Nat) : List Placed :=
  (lens.zipIdx.filter (fun (l : Nat × Nat) => decide (l.1 ≠ 0))).foldl
    (fun acc (l : Nat × Nat) => placeIn { bucket := bucketOf sec l.1, len := l.1, item := l.2 } acc) []

/-- The order list. -/
def orderList (ps : List Placed) : Bytes := (ps.map (fun p => leBytes 4 p.item)).flatten

/-- The bucket table. -/
def bucketTable (sec : Bytes) (ps : List Placed) : Bytes :=
  ((List.range (coBuckets sec)).map (fun k =>
    let mine := ps.filter (fun p => p.bucket == k)
    let first := (ps.filter (fun p => decide (p.bucket < k))).length
    leBytes 4 first ++ leBytes 4 mine.length ++ leBytes 4 ((mine.map (·.len)).foldl max 0) ++ leBytes 4 (satBits 32 (mine.map (·.len)).sum))).flatten

/-- START_ROW of each item (R225). -/
def startRows (lens : List Nat) : List Nat := (List.range lens.length).map (fun i => (lens.take i).sum)

/-- The row map: START_ROW and LENGTH of each item. -/
def rowMap (lens : List Nat) : Bytes := ((startRows lens).zip lens).flatMap (fun p => leBytes 4 p.1 ++ leBytes 4 p.2)

/-! ### Rows of an object taken as one run (R231) -/

/-- Ingot rows of an object, its batch indices one after another. -/
def Obj.ingotRows (o : Obj) : Nat := o.batch * ceilDiv o.rows 128

/-- Rows of an object taken as one run: its ROWS, or those of every batch index, each padded to whole ingots. -/
def Obj.runRows (o : Obj) : Nat := if o.batch ≤ 1 then o.rows else o.ingotRows * 128

/-- The ingot that holds row `row` of ingot column j of a source, if the source has that row. -/
def Operand.pieceAt (x : Operand) (row j : Nat) : Option Nat :=
  if row < x.o.runRows ∧ 128 * j < x.o.cols then some (row / 128 * ceilDiv x.o.cols 128 + j) else none

/-- Row `row` of ingot column j of a source; zeros beyond it. -/
def Operand.piece (x : Operand) (row j : Nat) : Piece :=
  match x.pieceAt row j with
  | some n => pieceOf x.o.fmt x.o.sparse (x.o.ingot (slotIn x.vmap n) n) (row % 128)
  | none => zeroPiece x.o.fmt x.o.sparse

/-- Column ingot j of an output built of rows of a source, and what their reads fail on (R338). `src` gives the source row of each of the 128 rows and the die that moves it (R221). -/
def Operand.movedIngot (x : Operand) (h : Header) (src : Nat → Option (Nat × Nat)) (j : Nat) : Output × List (Nat × Nat) :=
  let from_ := fun (r : Nat) => (src r).bind (fun q => (x.pieceAt q.1 j).map (fun n => (n, q.1 % 128, q.2)))
  let reads := ((List.range 128).filterMap from_)
  let ingots := (reads.map (·.1)).eraseDups
  let hdr := fun (n : Nat) => headerOf (x.o.header (slotIn x.vmap n) n)
  let kept := (ingots.map (fun n => keptDegraded (hdr n) (fun r => reads.any (fun q => q.1 == n && q.2.1 == r)))).sum
  let marks := fun (r : Nat) => match from_ r with | some q => bitOf (hdr q.1).rows q.2.1 | none => false
  let rows := (List.range 128).map (fun r => match src r with | some q => x.piece q.1 j | none => zeroPiece x.o.fmt x.o.sparse)
  (buildIngot h rows kept marks, ((reads.map (fun q => (q.1, q.2.2))).eraseDups).flatMap (fun q => x.fetchFails q.1 q.2))

/-- Write rows of ingot row i of an output: every ingot column below WIDTH, each row the source row `src` names or zeros. -/
def State.moveRows (s : State) (id key : Nat) (handle : Nat) (x : Operand) (width i : Nat) (src : Nat → Option (Nat × Nat)) : State :=
  match NMap.get? s.objects key, s.cmd? id with
  | some o, some c =>
    (List.range (min (width / 128) (ceilDiv o.cols 128))).foldl (fun (a : State) j =>
      let n := i * ceilDiv o.cols 128 + j
      let h : Header := { fmt := o.fmt, sparse := o.sparse, axis := o.axis, object := handle, index := n, commit := o.nextCommit }
      let m := x.movedIngot h src j
      let reads := ((List.range 128).filterMap (fun r => (src r).bind (fun q => (x.pieceAt q.1 j).map (fun n => (q.2, n))))).eraseDups
      ((reads.foldl (fun (b : State) q => b.fetchOne c q.1 (x.key, q.2)) a).putIngot id key n m.1.slot m.1.ext).setRun id (fun r => { r with fails := r.fails ++ m.2 })) s
  | _, _ => s

/-! ### Reading and writing lists -/

/-- Words of 4 bytes from a byte object as a command reads it. -/
def State.wordsOf (s : State) (c : Cmd) (off n : Nat) : List Nat :=
  match s.obj? c.owner (c.f off 4) with
  | some (k, o) => let v := c.viewOf k o; (List.range n).map (fun i => o.readNat v (4 * i) 4)
  | none => []

/-- Poison in the first `n` entries of `size` bytes of a byte object that a command reads, each on the die whose segment holds it (R221, R338). -/
def State.listPoison (s : State) (c : Cmd) (off size n : Nat) (dieOf : Nat → Nat) : List (Nat × Nat) :=
  match s.obj? c.owner (c.f off 4) with
  | some (k, o) => (List.range n).filterMap (fun i =>
      (o.poisonBytes (c.viewOf k o) (size * i) (min (size * (i + 1)) o.bytes - size * i) (dieOf i)).map (fun p => (E_MEM_UNCORRECTABLE, p)))
  | none => []

/-- Write a list into a byte object from its first byte, within its registered extent (log entry 53). -/
def State.putList (s : State) (id owner handle : Nat) (b : Bytes) : State :=
  if handle = 0 then s
  else
    match s.obj? owner handle with
    | some (k, o) => s.putObj id k 0 (b.take o.bytes)
    | none => s

/-- The failures of a ROUTE in the order of R240, after poison (R338). -/
def routeOrder : List Nat := [E_MEM_UNCORRECTABLE, E_UNIT_FENCED, E_ROUTE_INPUT, E_NONFINITE, E_SCALE_RANGE, E_SPARSE_META, E_ROUTE_CAPACITY, E_TIER_DEADLINE]

/-- Bring a ROUTE to its decision point. -/
def State.endRoute (s : State) (id detail : Nat) : State :=
  match s.cmd? id with
  | some c =>
    match pickFail routeOrder c.run.fails with
    | some (st, dt) => s.toReady id (fun c => { c with status := st, detail := dt })
    | none => s.toReady id (fun c => { c with status := OK, detail := min detail 0xFFFF })
  | none => s

/-- Fail the running body of a ROUTE. -/
def State.noteFails (s : State) (id : Nat) (fs : List (Nat × Nat)) : State := s.setRun id (fun r => { r with fails := r.fails ++ fs })

/-- Run a ROUTE of one mode that may start. Its body is given the die that handles each item or token: the die whose segment of the N_ACT items holds it (R221). -/
def route (mode : Nat) (body : Cmd → Bytes → (Nat → Nat) → State → State) (cmd : Nat) (s : State) : State :=
  control 0x0E (fun _ => true) (fun c0 s =>
    if coMode ((s.planOf c0).sec 6) ≠ mode then s
    else
      let s1 := s.unitStart cmd
      match s1.cmd? cmd with
      | some c =>
        if c.phase = .started then
          let dieOf := c.dieOfPos (c.f 36 4)
          body c ((s1.planOf c).sec 6) dieOf s1
        else s1
      | none => s1) cmd s

/-- The dies of a partition exchange the counts of their segments as REQ traffic (R221, R375): each sends its own to every other. A die's entries stand at the prefix sums of the lower segments' counts, which are the positions that the placement rules give over all items (R24, R221). -/
def State.exchangeCounts (s : State) (owner : Nat) (counts : Nat → List Nat) : State :=
  match NMap.get? s.parts owner with
  | some p => p.dieList.foldl (fun (a : State) d => (p.dieList.filter (· != d)).foldl (fun (b : State) e =>
      b.sendSpineFor owner d e 2 ((counts d).flatMap (leBytes 4))) a) s
  | none => s

/-! ### LENGTH_BUCKET -/

/-- The items whose length is above 2^24 (R222). -/
def tooLong (lens : List Nat) (lim : Nat) : List (Nat × Nat) :=
  (lens.zipIdx.filter (fun (l : Nat × Nat) => decide (lim < l.1))).map (fun l => (E_ROUTE_INPUT, min l.2 0xFFFF))

/-- ROUTE in LENGTH_BUCKET mode (R222, R223). -/
def execRouteLengthBucket (cmd : Nat) (s : State) : Host.Outcome State Fault Refusal :=
  .next (route 1 (fun c sec dieOf s =>
    let lens := s.wordsOf c 16 (c.f 36 4)
    let ps := placeItems sec lens
    let s0 := s.exchangeCounts c.owner (fun d => (List.range (coBuckets sec)).map (fun k => ps.countP (fun q => q.bucket == k && dieOf q.item == d)))
    let s1 := s0.noteFails cmd (s.listPoison c 16 4 (c.f 36 4) dieOf ++ tooLong lens (2 ^ 24))
    let s2 := (s1.putList cmd c.owner (c.f 28 4) (orderList ps)).putList cmd c.owner (c.f 32 4) (bucketTable sec ps)
    s2.endRoute cmd (lens.length - ps.length)) cmd s)

/-! ### LENGTH_PACK -/

/-- The items that fail R226: a length above ROW_STRIDE, a running total above 2^27, rows to be written beyond the output's extent. -/
def packFails (unpack : Bool) (stride rows : Nat) (lens : List Nat) : List (Nat × Nat) :=
  let st := startRows lens
  (lens.zipIdx.filter (fun (l : Nat × Nat) =>
    let at_ := st.getD l.2 0
    let last := if unpack then (l.2 + 1) * stride else at_ + l.1
    decide (stride < l.1) || decide (2 ^ 27 < at_ + l.1) || (decide (rows < last) && (unpack || decide (l.1 ≠ 0))))).map
      (fun l => (E_ROUTE_INPUT, min l.2 0xFFFF))

/-- The source row that output row r takes, and the item it belongs to (R225). -/
def packSource (unpack : Bool) (stride : Nat) (lens : List Nat) (r : Nat) : Option (Nat × Nat) :=
  let st := startRows lens
  if unpack then
    let i := r / stride
    if i < lens.length ∧ r % stride < lens.getD i 0 then some (st.getD i 0 + r % stride, i) else none
  else
    ((List.range lens.length).find? (fun i => decide (st.getD i 0 ≤ r) && decide (r < st.getD i 0 + lens.getD i 0))).map
      (fun i => (i * stride + (r - st.getD i 0), i))

/-- ROUTE in LENGTH_PACK mode (R225, R226). -/
def execRouteLengthPack (cmd : Nat) (s : State) : Host.Outcome State Fault Refusal :=
  .next (route 3 (fun c sec dieOf s =>
    let lens := s.wordsOf c 16 (c.f 36 4)
    let stride := c.f 40 4
    let unpack := coUnpack sec
    match s.obj? c.owner (c.f 24 4), operandOf s c 1 20 (2 ^ 40) (2 ^ 40) (2 ^ 40) false 0 false none with
    | some (k, o), some x =>
      let fails := s.listPoison c 16 4 (c.f 36 4) dieOf ++ packFails unpack stride o.runRows lens
      let s0 := s.exchangeCounts c.owner (fun d => [((lens.zipIdx.filter (fun (l : Nat × Nat) => dieOf l.2 == d)).map (·.1)).sum % 2 ^ 32])
      let s1 := s0.noteFails cmd fails
      let last := if unpack then lens.length * stride else lens.sum
      let s2 := if fails.isEmpty then
          (List.range (ceilDiv last 128)).foldl (fun (a : State) i =>
            a.moveRows cmd k (c.f 24 4) x (coWidth sec) i (fun r => (packSource unpack stride lens (128 * i + r)).map (fun q => (q.1, dieOf q.2)))) s1
        else s1
      (s2.putList cmd c.owner (c.f 32 4) (rowMap lens)).endRoute cmd 0
    | _, _ => s) cmd s)

/-! ### EXPERT_DISPATCH -/

/-- Whether expert a with score x ranks before expert b with score y (R227). -/
def scoreBefore (a b : Nat × Fp) : Bool :=
  let p := a.2.rat
  let q := b.2.rat
  if p = q then decide (a.1 < b.1) else decide (q < p)

def scoreIn (a : Nat × Fp) : List (Nat × Fp) → List (Nat × Fp)
  | [] => [a]
  | b :: bs => if scoreBefore a b then a :: b :: bs else b :: scoreIn a bs

/-- The TOPK experts of a token in rank order. -/
def topExperts (k : Nat) (scores : List Fp) : List (Nat × Fp) :=
  ((scores.zipIdx.foldl (fun acc (x : Fp × Nat) => scoreIn (x.2, x.1) acc) [])).take k

/-- Binary32 division. -/
def div32 (a b : Fp) : Fp :=
  match a, b with
  | .fin n x, .fin m y => if y = 0 then .nan else fp32.round (n != m) (x / y)
  | _, _ => .nan

/-- The gates of a token's slots (R228). -/
def gatesOf (sec : Bytes) (picks : List (Nat × Fp)) : List Fp :=
  if !(coSoftmax sec) then picks.map (fun p => match p.2 with | .fin n m => fp32.round n m | y => y)
  else
    let top := match picks with | p :: _ => p.2 | [] => Fp.zero
    let es := picks.map (fun p => exp2t (mul32 (sub32 p.2 top) (coScale sec)))
    let sum := es.foldl add32 Fp.zero
    es.map (fun e => div32 e sum)

/-- An entry of a dispatch: token, slot, expert, gate. -/
structure Entry where
  token : Nat
  slot : Nat
  expert : Nat
  gate : Fp
  deriving DecidableEq, Repr

/-- The position of an entry among those of its expert: ascending slot, then ascending token (R229). -/
def Entry.position (es : List Entry) (e : Entry) : Nat :=
  es.countP (fun x => x.expert == e.expert && (decide (x.slot < e.slot) || (x.slot == e.slot && decide (x.token < e.token))))

/-- The EXPERTS scores of a token. -/
def scoresOf (x : Option Operand) (die experts t : Nat) : Got :=
  match x with
  | some w =>
    let g := Got.join ((List.range (ceilDiv experts 128)).map (fun k => w.run die 0 t (128 * k) 0 1 128 (fun _ => false)))
    (g.1.take experts, g.2)
  | none => (List.replicate experts Fp.zero, [])

/-- ROUTE in EXPERT_DISPATCH mode (R227 to R232). -/
def execRouteExpertDispatch (cmd : Nat) (s : State) : Host.Outcome State Fault Refusal :=
  .next (route 2 (fun c sec dieOf s =>
    let n := c.f 36 4
    let x := operandOf s c 1 16 n (coExperts sec) 1 false 0 false none
    let got := (List.range n).map (fun t => scoresOf x (dieOf t) (coExperts sec) t)
    let es := got.zipIdx.flatMap (fun (g : Got × Nat) =>
      let picks := topExperts (coTopk sec) g.1.1
      (picks.zip (gatesOf sec picks)).zipIdx.map (fun (p : ((Nat × Fp) × Fp) × Nat) => { token := g.2, slot := p.2, expert := p.1.1.1, gate := p.1.2 : Entry }))
    let pos := es.map (Entry.position es)
    let kept := fun (p : Nat) => decide (p < coCapacity sec)
    let list := (es.zip pos).flatMap (fun (e : Entry × Nat) =>
      leBytes 2 e.1.expert ++ leBytes 1 e.1.slot ++ leBytes 1 (b2n (!(kept e.2)))
        ++ leBytes 4 (if kept e.2 then e.1.expert * coCapRows sec + e.2 else 0xFFFFFFFF) ++ leBytes 4 (f32code e.1.gate) ++ List.replicate 4 0)
    let table := (List.range (coExperts sec)).flatMap (fun k =>
      let d := es.countP (fun e => e.expert == k)
      leBytes 4 d ++ leBytes 4 (min d (coCapacity sec)) ++ leBytes 4 (k * coCapRows sec) ++ List.replicate 4 0)
    let dropped := pos.countP (fun p => !(kept p))
    let tooMany := if coFail sec then
        (es.zip pos).filterMap (fun (e : Entry × Nat) => if kept e.2 then none else some (E_ROUTE_CAPACITY, e.1.expert))
      else []
    let s0 := s.exchangeCounts c.owner (fun d => (List.range (coTopk sec)).flatMap (fun k => (List.range (coExperts sec)).map (fun x =>
      es.countP (fun e => e.slot == k && e.expert == x && dieOf e.token == d))))
    let s1 := s0.noteFails cmd ((got.map (·.2)).flatten ++ tooMany)
    let s2 :=
      match s.obj? c.owner (c.f 24 4), operandOf s c 1 20 (2 ^ 40) (2 ^ 40) (2 ^ 40) false 0 false none with
      | some (k, o), some w =>
        let src := fun (r : Nat) => ((es.zip pos).find? (fun (e : Entry × Nat) => kept e.2 && e.1.expert * coCapRows sec + e.2 == r)).map (fun (e : Entry × Nat) => (e.1.token, dieOf e.1.token))
        (List.range (min (coExperts sec * coCapRows sec / 128) o.ingotRows)).foldl (fun (a : State) i =>
          a.moveRows cmd k (c.f 24 4) w (coWidth sec) i (fun r => src (128 * i + r))) s1
      | _, _ => s1
    ((s2.putList cmd c.owner (c.f 28 4) list).putList cmd c.owner (c.f 32 4) table).endRoute cmd dropped) cmd s)

/-! ### EXPERT_COMBINE -/

/-- An entry of a combine list as read. -/
structure Combine where
  expert : Nat
  dropped : Bool
  row : Nat
  gate : Fp
  deriving DecidableEq, Repr

/-- Rows of one expert in the object of expert outputs (log entry 54). -/
def expertRows (o : Obj) (experts : Nat) : Nat := if experts = 0 then 0 else o.runRows / experts

/-- The entries that fail R234. -/
def combineFails (o : Obj) (experts : Nat) (es : List Combine) : List (Nat × Nat) :=
  let per := expertRows o experts
  (es.zipIdx.filter (fun (e : Combine × Nat) =>
    decide (experts ≤ e.1.expert) || (!e.1.dropped && (decide (o.runRows ≤ e.1.row) || decide (per = 0) || decide (e.1.row / per ≠ e.1.expert))))).map
      (fun e => (E_ROUTE_INPUT, min e.2 0xFFFF))

/-- The 128 values of columns 128j on of a run row of the source. -/
def Operand.runRow (x : Operand) (die row j : Nat) : Got :=
  let pad := ceilDiv x.o.rows 128 * 128
  if x.o.batch ≤ 1 then x.run die 0 row (128 * j) 0 1 128 (fun _ => false)
  else x.run die (row / pad) (row % pad) (128 * j) 0 1 128 (fun _ => false)

/-- One token row of a combine over a column ingot (R233). -/
def combineRow (x : Operand) (die j : Nat) (es : List Combine) : Got :=
  es.foldl (fun (acc : Got) e =>
    if e.dropped then acc
    else
      let g := x.runRow die e.row j
      (List.zipWith (fun a y => add32 a (mul32 e.gate y)) acc.1 g.1, acc.2 ++ g.2)) (List.replicate 128 Fp.zero, [])

/-- ROUTE in EXPERT_COMBINE mode (R233, R234): OBJ_OUT rows at and beyond N_ACT keep what they hold. A non-finite element makes acc non-finite, which fails with detail 0x0010. -/
def execRouteExpertCombine (cmd : Nat) (s : State) : Host.Outcome State Fault Refusal :=
  .next (route 4 (fun c sec dieOf s =>
    let n := c.f 36 4
    let k := coTopk sec
    match s.obj? c.owner (c.f 16 4), s.obj? c.owner (c.f 24 4), operandOf s c 1 20 (2 ^ 40) (2 ^ 40) (2 ^ 40) false 0 false none with
    | some (lk, lo), some (ok, o), some x =>
      let v := c.viewOf lk lo
      let es := (List.range (n * k)).map (fun i =>
        { expert := lo.readNat v (16 * i) 2, dropped := bitOf (lo.readNat v (16 * i + 3) 1) 0, row := lo.readNat v (16 * i + 4) 4,
          gate := f32 (lo.readNat v (16 * i + 8) 4) : Combine })
      let fails := s.listPoison c 16 (16 * k) n dieOf ++ combineFails x.o (coExperts sec) es
      let s1 := s.noteFails cmd fails
      let live := min n o.rows
      let s2 := if !fails.isEmpty then s1 else
        (List.range (ceilDiv live 128)).foldl (fun (a : State) i =>
          (List.range (min (coWidth sec / 128) (ceilDiv o.cols 128))).foldl (fun (b : State) j =>
            let rows := (List.range 128).map (fun r =>
              let t := 128 * i + r
              if t < live then some (combineRow x (dieOf t) j ((es.drop (t * k)).take k)) else none)
            let vals := rows.map (fun r => match r with | some g => g.1.map some | none => List.replicate 128 none)
            let at_ := o.index 0 i j
            let h : Header := { fmt := coOutFmt sec, object := c.f 24 4, index := at_, commit := o.nextCommit }
            let w := writeKept h 0 0 (o.ingot (slotIn (c.viewOf ok o) at_) at_) (fun r => decide (live ≤ 128 * i + r)) vals (fun _ => none) false
            let bad := !w.finite || vals.flatten.any (fun y => match y with | some q => !q.finite | none => false)
            let fs := ((rows.filterMap (fun r => r.map (·.2))).flatten).map (fun f => if f.1 = E_NONFINITE then (E_NONFINITE, 0x0010) else f)
            (b.putIngot cmd ok at_ w.slot w.ext).noteFails cmd (fs ++ (if bad then [(E_NONFINITE, 0x0010)] else []))) a) s1
      s2.endRoute cmd 0
    | _, _, _ => s) cmd s)

/-! ### Admission -/

/-- Range checks of ROUTE (Tables 9-1 and 9-6): the handles its mode uses, distinct, and its lengths. -/
def routeRange (p : Option Plan) (d : Bytes) : Option Nat :=
  let known := p.isSome
  let sec := (p.getD {}).sec 6
  let m := coMode sec
  let h := fun (o : Nat) => fld d o 4
  let must := fun (o : Nat) (want : Bool) => known && ((h o != 0) != want)
  let twice := fun (o : Nat) => decide (h o ≠ 0) && ([16, 20, 24, 28, 32].filter (fun q => decide (q < o))).any (fun q => h q == h o)
  let pair := known && decide (m = 2) && ((h 20 == 0) != (h 24 == 0))
  firstBad
    [ (16, must 16 true), (20, (must 20 (m == 3 || m == 4) && !(m == 2)) || twice 20),
      (24, (must 24 (m == 3 || m == 4) && !(m == 2)) || pair || twice 24), (28, must 28 (m == 1 || m == 2) || twice 28),
      (32, must 32 (m != 4) || twice 32), (36, decide (h 36 = 0) || (known && decide (coMax sec < h 36))),
      (40, known && (if m = 3 then decide (h 40 = 0) || decide (2 ^ 24 < h 40) else decide (h 40 ≠ 0))), (44, !(zeros d 44 128)) ]

/-- E_OBJECT_POLICY of ROUTE: a REPLICATE output (R354), kinds, and the formats of rows that move bit for bit or in the plan's format (log entry 55). -/
def State.routePolicy (s : State) (c : Cmd) : Option (Nat × Nat) :=
  let sec := (s.planOf c).sec 6
  let m := coMode sec
  let at_ := fun (off : Nat) => (s.obj? c.owner (c.f off 4)).map (fun x => x.2)
  let bad := fun (off : Nat) (p : Obj → Bool) => match at_ off with | some o => p o | none => false
  let kind := fun (off k : Nat) => bad off (fun o => decide (o.kind ≠ k))
  let differ := match at_ 20, at_ 24 with
    | some a, some b => decide (a.fmt ≠ b.fmt) || a.sparse != b.sparse || (a.sparse && decide (a.axis ≠ b.axis))
    | _, _ => false
  if bad 24 (fun o => o.placement == 2) || bad 28 (fun o => o.placement == 2) || bad 32 (fun o => o.placement == 2) then some (E_OBJECT_POLICY, 1)
  else if kind 16 (if m = 2 then 0 else 1) || kind 20 0 || kind 24 0 || kind 28 1 || kind 32 1
      || (decide (m = 2) && bad 16 (fun o => decide (o.fmt ≠ coScoreFmt sec)))
      || (decide (m = 4) && bad 24 (fun o => decide (o.fmt ≠ coOutFmt sec))) || ((decide (m = 2) || decide (m = 3)) && differ) then some (E_OBJECT_POLICY, 4)
  else none

end Sys2Proof.Machine
end

