-- ==== Sys2Proof/Machine/Steps.lean ====
section
/-! DEFINITION. Decode steps, forks, frees and restores of sequences: list and entry checks, reservation in the fixed order, quantised appends with copy on write, close and cancel (R280 to R301, R310 to R318). -/

namespace Sys2Proof.Machine

/-! ### Models a partition may join (R436) -/

/-- The model of an id that a join of a partition may name: a private model, or the base of an alloy bound in it. -/
def State.joinable (s : State) (part modelId : Nat) : Option Model :=
  match s.reachModel part modelId with
  | some m =>
    if m.2.owner = part ∨ s.alloys.any (fun a => a.1 / 2 ^ 32 == part && a.2.base == m.1) then some m.2 else none
  | none => none

/-! ### Step entries (Table 12-6) -/

/-- The step entries of an OPEN's list, as the command reads it. -/
def State.stepEntries (s : State) (c : Cmd) : List StepEntry :=
  match s.obj? c.owner (c.f 24 4) with
  | some (k, o) => (List.range (c.f 32 4)).map (fun i =>
      let r := fun (off n : Nat) => o.readNat (c.viewOf k o) (32 * i + off) n
      { seqId := r 0 4, tokens := r 4 4, row := r 8 4, join := bitOf (r 12 1) 0, leave := bitOf (r 12 1) 1, priority := r 13 1,
        fallback := r 14 1, maxLen := r 16 4, modelId := r 20 4 })
  | none => []

/-- Whether the reserved fields of entry i of an OPEN's list are zero. -/
def State.stepRsv (s : State) (c : Cmd) (i : Nat) : Bool :=
  match s.obj? c.owner (c.f 24 4) with
  | some (k, o) =>
    let r := fun (off n : Nat) => o.readNat (c.viewOf k o) (32 * i + off) n
    decide (r 12 1 < 4) && decide (r 15 1 = 0) && decide (r 24 8 = 0)
  | none => true

/-- Whether an entry names an existing sequence of the partition with its current generation (R283). -/
def State.ownsSeq (s : State) (part : Nat) (e : StepEntry) : Bool :=
  let q := s.seqAt (seqIndex e.seqId)
  !e.join && !(q.state == .free) && decide (q.part = part) && decide (q.gen = seqGen e.seqId)

/-- LAYERS and KV_HEADS that an entry brings: those of its sequence, or of a model it may join; none where the entry checks judge it. -/
def State.entryLayout (s : State) (part : Nat) (e : StepEntry) : Option (Nat × Nat) :=
  if e.join then (s.joinable part e.modelId).map (fun m => (m.layers, m.kvHeads))
  else if s.ownsSeq part e then let q := s.seqAt (seqIndex e.seqId); some (q.layers, q.kvHeads)
  else none

/-- LAYERS and KV_HEADS of a step: the first existing sequence's, else the first join's (R292). -/
def State.stepLayout (s : State) (part : Nat) (es : List StepEntry) : Option (Nat × Nat) :=
  match (es.filter (fun e => !e.join)).findSome? (s.entryLayout part) with
  | some x => some x
  | none => es.findSome? (s.entryLayout part)

/-- The first entry that fails the list checks (R284 step 1). -/
def State.stepListFail (s : State) (c : Cmd) (es : List StepEntry) : Option Nat :=
  let ref := s.stepLayout c.owner es
  (es.zipIdx.find? (fun (e : StepEntry × Nat) =>
    let x := e.1
    (es.take e.2).any (fun y => seqIndex y.seqId == seqIndex x.seqId) || (x.join && x.leave) || (x.leave && decide (x.tokens ≠ 0))
      || !(s.stepRsv c e.2)
      || (x.join && (decide (2 ^ 18 ≤ x.seqId) || decide (7 < x.priority) || decide (2 < x.fallback) || decide (x.maxLen = 0)))
      || (!x.join && (decide (x.priority ≠ 0) || decide (x.fallback ≠ 0) || decide (x.maxLen ≠ 0) || decide (x.modelId ≠ 0)))
      || (match s.entryLayout c.owner x with | some l => decide (some l ≠ ref) | none => false))).map (fun e => min e.2 0xFFFF)

/-- The outcome of the entry checks on one entry, `taken` joins having passed before it (R284 step 2). -/
def State.entryCheck (s : State) (id part taken kvFmt : Nat) (e : StepEntry) : Nat × Nat :=
  let idx := seqIndex e.seqId
  let q := s.seqAt idx
  let here := match NMap.get? s.parts part with | some p => p.onDie (seqDie idx) | none => false
  if e.join then
    if !(s.freeIndex id idx) then (E_SEQ_STATE, 3)
    else if !here then (E_SEQ_STATE, 4)
    else
      match s.joinable part e.modelId with
      | none => (E_SEQ_STATE, 5)
      | some m =>
        if e.maxLen < e.tokens then (E_SEQ_LIMIT, 1)
        else if s.setting part 0x0008 0 ≤ s.seqTaken id part + taken then (E_SEQ_LIMIT, 2)
        else if maxLenLimit m.layers (tplOf m.kvHeads kvFmt) < e.maxLen then (E_SEQ_LIMIT, 4)
        else (OK, 0)
  else if q.gen ≠ seqGen e.seqId then (E_SEQ_STALE, 0)
  else if q.state ≠ .active then (E_SEQ_STATE, 1)
  else if s.heldSeq id idx then (E_SEQ_STATE, 2)
  else if !here || decide (q.part ≠ part) then (E_SEQ_STATE, 4)
  else if q.maxLen < q.c + e.tokens then (E_SEQ_LIMIT, 1)
  else (OK, 0)

/-- The entry checks of a whole list, in ascending order. -/
def State.checkEntries (s : State) (id part kvFmt : Nat) (es : List StepEntry) : List StepEntry :=
  (es.foldl (fun (acc : List StepEntry × Nat) e =>
    let r := s.entryCheck id part acc.2 kvFmt e
    (acc.1 ++ [{ e with status := r.1, detail := r.2 }], if e.join && decide (r.1 = OK) then acc.2 + 1 else acc.2)) ([], 0)).1

/-! ### Reservation (R284 step 3, R304) -/

/-- The window leaves of groups `g0` to `g1 - 1` of every layer. -/
def winRange (layers g0 g1 : Nat) : List Nat := (List.range ((g1 - g0) * layers)).map (· + g0 * layers)

/-- The window leaves an entry needs: new ones, and one copy a layer of a shared boundary leaf. -/
def State.needLeaves (s : State) (q : Seq) (T : Nat) : List Nat × List Nat :=
  let tpl := q.tpl
  let new := winRange q.layers (ceilDiv q.c tpl) (ceilDiv (q.c + T) tpl)
  let cow := if T = 0 ∨ q.c % tpl = 0 then [] else
    (winRange q.layers (q.c / tpl) (q.c / tpl + 1)).filter (fun w => match NMap.get? q.leaves w with | some e => decide (1 < s.refsOf e) | none => false)
  (new, cow)

/-- The root entries that window leaves need beyond those held. -/
def needPages (q : Seq) (ws : List Nat) : List Nat :=
  (ws.foldl (fun (acc : List Nat) w => if NMap.has q.pages (w / 32768) || acc.contains (w / 32768) then acc else acc ++ [w / 32768]) [])

/-- Mark frames as table pages. -/
def State.markPages (s : State) (d : Nat) (fs : List Nat) : State :=
  fs.foldl (fun (a : State) f => a.setFrames d (NMap.modify (a.framesOf d) f (fun x => { x with page := true }))) s

/-- Reserve for one entry that passed its checks; the status when the sources do not cover it. -/
def State.reserveEntry (s : State) (part kvFmt : Nat) (lay : Nat × Nat) (e : StepEntry) : State × StepEntry :=
  let idx := seqIndex e.seqId
  let d := seqDie idx
  let q : Seq := if e.join then { kvFmt := kvFmt, kvHeads := lay.2, layers := lay.1 } else s.seqAt idx
  let (new, cow) := s.needLeaves q e.tokens
  let ws := cow ++ new
  let pages := needPages q new
  let prio := if e.join then e.priority else q.priority
  match s.draw part d (ws.length + pages.length) (some prio) with
  | none => (s, { e with status := if e.join then E_JOIN_DEFERRED else E_LEAF_EXHAUSTED, detail := 0 })
  | some (s1, fs) =>
    let leaves := (ws.zip fs).foldl (fun (m : NMap LeafEntry) (p : Nat × Nat) => NMap.set m p.1 { frame := p.2, die := d }) []
    let pg := (pages.zip (fs.drop ws.length)).foldl (fun (m : NMap Nat) (p : Nat × Nat) => NMap.set m p.1 p.2) []
    (s1.markPages d (fs.drop ws.length), { e with reserved := fs, newLeaves := leaves, newPages := pg, granted := fs.length })

/-- Reserve for the entries of one kind, in ascending order. -/
def State.reserveSome (s : State) (part kvFmt : Nat) (lay : Nat × Nat) (joins : Bool) (es : List StepEntry) : State × List StepEntry :=
  es.foldl (fun (acc : State × List StepEntry) e =>
    if e.join = joins ∧ e.status = OK then
      let r := acc.1.reserveEntry part kvFmt lay e
      (r.1, acc.2 ++ [r.2])
    else (acc.1, acc.2 ++ [e])) (s, [])

/-! ### Results (R283) -/

/-- One result entry. -/
def resultEntry (id status detail c frames : Nat) : Bytes :=
  leBytes 4 id ++ leBytes 2 status ++ leBytes 2 detail ++ leBytes 4 c ++ leBytes 4 frames

/-- The result entries of an OPEN. -/
def State.openResults (s : State) (part : Nat) (es : List StepEntry) : Bytes :=
  (es.map (fun e =>
    let q := s.seqAt (seqIndex e.seqId)
    if e.join then
      if e.status = OK then resultEntry (q.idOf (seqIndex e.seqId)) OK 0 0 e.granted
      else resultEntry 0xFFFFFFFF e.status e.detail 0 0
    else resultEntry e.seqId e.status e.detail (if s.ownsSeq part e then q.c else 0) e.granted)).flatten

/-- Entries of a step whose status is not OK. -/
def notOk (es : List StepEntry) : Nat := es.countP (fun e => decide (e.status ≠ OK))

/-! ### OPEN -/

/-- The failures met by a SEQ_STEP while it runs, in the order of R300. -/
def stepOrder : List Nat := [E_MEM_UNCORRECTABLE, E_UNIT_FENCED, E_NONFINITE, E_SPARSE_META, E_TIER_DEADLINE]

/-- E_STEP_STATE of a SEQ_STEP (Table 12-9). -/
def State.stepState (s : State) (c : Cmd) : Option (Nat × Nat) :=
  let h := c.f 20 4
  let open_ := s.step? c.owner h
  if c.f 16 1 = 0 then
    if h = 0 ∨ open_.isSome then some (E_STEP_STATE, 2)
    else if 256 ≤ (s.steps.filter (fun t => t.1 / 2 ^ 32 == c.owner)).length then some (E_STEP_STATE, 3)
    else none
  else
    match open_ with
    | none => some (E_STEP_STATE, 1)
    | some x => if c.f 16 1 = 1 ∧ x.appended.contains (c.f 44 2) then some (E_STEP_STATE, 4) else none

/-- The collation a SEQ_STEP OPEN runs over its entries: lengths T for OK entries, 0 for others (R292). -/
def State.stepCollation (s : State) (id : Nat) (c : Cmd) (es : List StepEntry) : State :=
  let sec := (s.planOf c).sec 6
  let lens := es.map (fun e => if e.status = OK then e.tokens else 0)
  if coMode sec = 1 then
    let ps := placeItems sec lens
    (s.putList id c.owner (c.f 48 4) (orderList ps)).putList id c.owner (c.f 52 4) (bucketTable sec ps)
  else if coMode sec = 3 then s.putList id c.owner (c.f 52 4) (rowMap lens)
  else s

/-- The body of an OPEN that may start: list checks, then the entry checks and reservation of its first run, then its outputs. A handle that another OPEN which has run names counts as open (log entry 99). -/
def State.runOpen (s : State) (id : Nat) (c : Cmd) : State :=
  let die := match NMap.get? s.parts c.owner with | some p => p.firstDie | none => 0
  let kvFmt := fsOut ((s.planOf c).sec 2)
  let es0 := s.stepEntries c
  let fail := fun (st dt : Nat) => s.toReady id (fun x => { x with status := st, detail := dt })
  let drafts := s.cmds.filter (fun x => x.1 != id && x.2.owner == c.owner && x.2.stepDraft.isSome)
  let twice := drafts.any (fun x => x.2.f 20 4 == c.f 20 4)
  let full := decide (256 ≤ (s.steps.filter (fun t => t.1 / 2 ^ 32 == c.owner)).length + drafts.length)
  match (if c.stepDraft.isSome then none else if twice then some (E_STEP_STATE, 2) else if (s.stepState c).isNone && full then some (E_STEP_STATE, 3)
    else s.stepState c) with
  | some (st, dt) => fail st dt
  | none =>
    match s.stepListFail c es0 with
    | some i => fail E_STEP_LIST i
    | none =>
      if s.setting c.owner 0x0002 die < s.t2Use c.owner die + 32 * es0.length ∧ c.stepDraft.isNone then fail E_QUOTA 0
      else
        match s.listPoison c 24 32 (c.f 32 4) (fun _ => die) with
        | p :: _ => fail p.1 p.2
        | [] =>
          let lay := (s.stepLayout c.owner es0).getD (0, 0)
          let r :=
            match c.stepDraft with
            | some x => (s, x.entries)
            | none =>
              let es := s.checkEntries id c.owner kvFmt es0
              let a := s.reserveSome c.owner kvFmt lay false es
              a.1.reserveSome c.owner kvFmt lay true a.2
          let x : Step := { entries := r.2, layers := lay.1, kvHeads := lay.2, kvFmt := kvFmt }
          let held := r.2.flatMap (fun e => e.reserved.map (fun f => (seqDie (seqIndex e.seqId), f)))
          let s1 := r.1.setCmd id { c with stepDraft := some x, frames := held }
          let s2 := s1.putList id c.owner (c.f 28 4) (s1.openResults c.owner r.2)
          (s2.stepCollation id c r.2).toReady id (fun y => { y with status := OK, detail := min (notOk r.2) 0xFFFF })

/-- The commit of an OPEN (R284): held sequences, and successful joins ACTIVE with C = 0. -/
def State.commitOpen (s : State) (c : Cmd) : State :=
  match c.stepDraft with
  | none => s
  | some x =>
    let h := c.f 20 4
    let s1 := { s with steps := NMap.set s.steps (stepKey c.owner h) x }
    x.entries.foldl (fun (a : State) e =>
      let idx := seqIndex e.seqId
      let q := a.seqAt idx
      if e.join then
        if e.status = OK then
          a.setSeq idx { gen := q.gen, state := .active, kvFmt := x.kvFmt, kvHeads := x.kvHeads, fallback := e.fallback, layers := x.layers,
                         part := c.owner, priority := e.priority, step := h, maxLen := e.maxLen, modelId := e.modelId, joinCounter := a.counter (seqDie idx) }
        else a
      else if e.holds then a.setSeq idx { q with step := h } else a) s1

/-! ### APPEND -/

/-- The entries of a step that an APPEND covers (R286). -/
def Step.live (x : Step) : List StepEntry := x.entries.filter (fun e => decide (e.status = OK) && decide (e.tokens ≠ 0))

/-- The quantised head rows of an entry: by token and head, key then value (R286). -/
def appendRows (ko vo : Option Operand) (die kvHeads kvFmt : Nat) (e : StepEntry) : List (Nat × Nat × Bool × List QBlock) × List (Nat × Nat) :=
  let one := fun (o : Option Operand) (t h : Nat) => match o with
    | some w => w.run die 0 (e.row + t) (128 * h) 0 1 128 (fun _ => false)
    | none => (List.replicate 128 Fp.zero, [])
  let q := fun (g : Got) => (blocksOf (fmtBlock kvFmt) (g.1.map (fun v => some v.rat))).map (fun b => quantBlock kvFmt b none)
  let all := (List.range e.tokens).flatMap (fun t => (List.range kvHeads).flatMap (fun h =>
    let k := one ko t h
    let v := one vo t h
    [((t, h, false, q k), k.2), ((t, h, true, q v), v.2)]))
  (all.map (·.1), (all.map (·.2)).flatten)

/-- Operands OBJ_K and OBJ_V of an APPEND. -/
def appendOperand (s : State) (c : Cmd) (role off : Nat) : Option Operand := operandOf s c role off (2 ^ 40) (2 ^ 40) 1 false 0 false none

/-- Poison that an APPEND meets in the stored rows it reads: those it copies of a shared boundary leaf, and those of the boundary key block whose sketch it writes again (R286, R294, R338). -/
def State.boundaryPoison (s : State) (e : StepEntry) (layer : Nat) : List (Nat × Nat) :=
  let q := s.seqAt (seqIndex e.seqId)
  if q.c % q.tpl = 0 then []
  else
    match NMap.get? q.leaves (q.win (q.c - 1) layer) with
    | none => []
    | some l =>
      let n := q.c % q.tpl
      let p0 := if 1 < s.refsOf l then 0 else q.c / 128 * 128 - q.c / q.tpl * q.tpl
      match s.rowsPoison l q.kvHeads q.kvFmt p0 n with
      | some k => [(E_MEM_UNCORRECTABLE, k)]
      | none => []

/-- The body of an APPEND: its checks, the failures of its reads and its degraded blocks; the rows go to the leaves at commit. -/
def State.runAppend (s : State) (id : Nat) (c : Cmd) : State :=
  let fail := fun (st dt : Nat) => s.toReady id (fun x => { x with status := st, detail := dt })
  match s.stepState c, s.step? c.owner (c.f 20 4) with
  | some (st, dt), _ => fail st dt
  | none, none => s
  | none, some x =>
    let rowsOf := fun (off : Nat) => match s.obj? c.owner (c.f off 4) with | some (_, o) => o.rows | none => 0
    match x.entries.findIdx? (fun e => decide (e.status = OK) && decide (e.tokens ≠ 0) && decide (min (rowsOf 36) (rowsOf 40) < e.row + e.tokens)) with
    | some i => fail E_STEP_LIST (min i 0xFFFF)
    | none =>
      let got := x.live.map (fun e => appendRows (appendOperand s c 1 36) (appendOperand s c 2 40) (seqDie (seqIndex e.seqId)) x.kvHeads ((s.seqAt (seqIndex e.seqId)).kvFmt) e)
      let deg := ((got.map (·.1)).flatten.map (fun r => r.2.2.2.countP (·.degraded))).sum
      match pickFail stepOrder ((got.map (·.2)).flatten ++ x.live.flatMap (fun e => s.boundaryPoison e (c.f 44 2))) with
      | some (st, dt) => s.toReady id (fun y => { y with status := st, detail := dt, degraded := deg })
      | none => s.toReady id (fun y => { y with status := OK, detail := 0, degraded := deg })

/-- Copy a leaf's rows and scales at positions below `n` of its group, and the sketches of complete blocks below position `upto` that its margin holds (R294). -/
def State.copyLeaf (s : State) (q : Seq) (g n upto : Nat) (src dst : LeafEntry) : State :=
  let cp := fun (a : State) (off len : Nat) => (a.readLeaf q.part dst.die src off len).writeLeaf dst off (s.leafBytes q.part src off len)
  let s1 := (List.range q.kvHeads).foldl (fun (a : State) h => (List.range n).foldl (fun (b : State) p =>
    [false, true].foldl (fun (d : State) v =>
      cp (cp d (rowOffset q.kvHeads q.kvFmt h p v) (rowBytes q.kvFmt)) (scaleOffset q.tpl q.kvFmt h p v) (scaleCount q.kvFmt)) b) a) s
  let blocks := (List.range (upto / 128)).filter (fun j => (128 * j + 127) / q.tpl == g)
  blocks.foldl (fun (a : State) j => (List.range q.kvHeads).foldl (fun (b : State) h => cp b (sketchOffset q.tpl q.kvHeads j h) 512) a) s1

/-- Use the reserved leaf of a window leaf of an entry: a shared boundary leaf is copied first (R294). -/
def State.useLeaf (s : State) (q : Seq) (e : StepEntry) (w : Nat) : State × StepEntry :=
  match NMap.get? e.newLeaves w with
  | none => (s, e)
  | some dst =>
    match NMap.get? q.leaves w with
    | some src => if 1 < s.refsOf src then (s.copyLeaf q (q.c / q.tpl) (q.c % q.tpl) q.c src dst, { e with used := e.used ++ [w] }) else (s, e)
    | none => (s, { e with used := e.used ++ [w] })

/-- Write one entry's rows and sketches of a layer at the commit of its APPEND (R286). -/
def State.appendEntry (s : State) (layer : Nat) (ko vo : Option Operand) (e : StepEntry) : State × StepEntry :=
  let idx := seqIndex e.seqId
  let q := s.seqAt idx
  let groups := (List.range (ceilDiv (q.c + e.tokens) q.tpl - q.c / q.tpl)).map (fun k => (q.c / q.tpl + k) * q.layers + layer)
  let (s1, e1) := groups.foldl (fun (a : State × StepEntry) w => a.1.useLeaf q a.2 w) (s, e)
  let view : SeqView := { idx := idx, q := q, leaves := overlay q e1, v := q.c + e.tokens }
  let rows := (appendRows ko vo (seqDie idx) q.kvHeads q.kvFmt e).1
  let s2 := rows.foldl (fun (a : State) (r : Nat × Nat × Bool × List QBlock) =>
    match view.leaf (q.c + r.1) layer with
    | some l => a.putRow l q.kvHeads q.kvFmt r.2.1 ((q.c + r.1) % q.tpl) r.2.2.1 r.2.2.2
    | none => a) s1
  (s2.writeSketches view layer (q.c + e.tokens) (q.c / 128) (ceilDiv (q.c + e.tokens) 128), e1)

/-- The commit of an APPEND. -/
def State.commitAppend (s : State) (c : Cmd) : State :=
  match s.step? c.owner (c.f 20 4) with
  | none => s
  | some x =>
    let ko := appendOperand s c 1 36
    let vo := appendOperand s c 2 40
    let r := x.entries.foldl (fun (a : State × List StepEntry) e =>
      if e.status = OK ∧ e.tokens ≠ 0 then
        let t := a.1.appendEntry (c.f 44 2) ko vo e
        (t.1, a.2 ++ [t.2])
      else (a.1, a.2 ++ [e])) (s, [])
    { r.1 with steps := NMap.set r.1.steps (stepKey c.owner (c.f 20 4)) { x with entries := r.2, appended := x.appended ++ [c.f 44 2] } }

/-! ### CLOSE and CANCEL -/

/-- Return reserved frames of an entry: the leaves that a test picks, and every table page that no kept leaf needs. -/
def State.returnFrames (s : State) (e : StepEntry) (keep : Nat → Bool) : State :=
  let d := seqDie (seqIndex e.seqId)
  let kept := (e.newLeaves.filter (fun p => keep p.1)).map (·.1)
  let s1 := (e.newLeaves.filter (fun p => !(keep p.1))).foldl (fun (a : State) (p : Nat × LeafEntry) => a.freeFrame p.2.die p.2.frame) s
  (e.newPages.filter (fun p => !(kept.any (fun w => w / 32768 == p.1)))).foldl (fun (a : State) (p : Nat × Nat) => a.freeFrame d p.2) s1

/-- Close one entry: it commits, or its sequence is parked (R288, R309). -/
def State.closeEntry (s : State) (e : StepEntry) : State :=
  if !e.holds then s
  else
    let idx := seqIndex e.seqId
    let q := s.seqAt idx
    if e.status = OK then
      let used := e.newLeaves.filter (fun p => e.used.contains p.1)
      let s1 := used.foldl (fun (a : State) (p : Nat × LeafEntry) =>
        let b := match NMap.get? q.leaves p.1 with | some o => a.unref o | none => a
        b.addRef p.2) (s.returnFrames e (fun w => e.used.contains w))
      let pages := (e.newPages.filter (fun p => used.any (fun w => w.1 / 32768 == p.1))).foldl (fun (m : NMap Nat) p => NMap.set m p.1 p.2) q.pages
      let s2 := s1.touchEntries idx pages (used.map (·.1)) true
      s2.setSeq idx { q with c := q.c + e.tokens, leaves := overlay q e, pages := pages, step := 0, lastStatus := OK, lastDetail := 0,
                             state := if e.leave then .retired else .active }
    else s.setSeq idx { q with state := .parked, step := 0, lastStatus := e.status, lastDetail := e.detail }

/-- The result entries of a CLOSE. -/
def State.closeResults (s : State) (part : Nat) (es : List StepEntry) : Bytes :=
  (es.map (fun e =>
    let q := s.seqAt (seqIndex e.seqId)
    if e.join && decide (e.status ≠ OK) then resultEntry 0xFFFFFFFF e.status e.detail 0 0
    else if e.status = OK then resultEntry (q.idOf (seqIndex e.seqId)) OK 0 (q.c + e.tokens) (overlay q e).length
    else resultEntry e.seqId e.status e.detail (if s.ownsSeq part e then q.c else 0) (if s.ownsSeq part e then q.leaves.length else 0))).flatten

/-- E_STEP_STATE 0x0005: an entry with status OK and T > 0 lacks an APPEND of some layer (R288). -/
def Step.missing (x : Step) : Bool := !x.live.isEmpty && (List.range x.layers).any (fun l => !(x.appended.contains l))

/-- The body of a CLOSE. -/
def State.runClose (s : State) (id : Nat) (c : Cmd) : State :=
  match s.stepState c, s.step? c.owner (c.f 20 4) with
  | some (st, dt), _ => s.toReady id (fun x => { x with status := st, detail := dt })
  | none, none => s
  | none, some x =>
    if x.missing then s.toReady id (fun y => { y with status := E_STEP_STATE, detail := 5 })
    else (s.putList id c.owner (c.f 28 4) (s.closeResults c.owner x.entries)).toReady id (fun y => { y with status := OK, detail := min (notOk x.entries) 0xFFFF })

/-- The commit of a CLOSE: every entry closed, the step record released. -/
def State.commitClose (s : State) (c : Cmd) : State :=
  match s.step? c.owner (c.f 20 4) with
  | none => s
  | some x => x.entries.foldl (fun (a : State) e => a.closeEntry e) { s with steps := NMap.erase s.steps (stepKey c.owner (c.f 20 4)) }

/-- Cancel one entry (R289): its leaves and pages return, boundary sketches of appended layers describe C again, a join becomes FREE. -/
def State.cancelEntry (s : State) (x : Step) (e : StepEntry) : State :=
  if !e.holds then s
  else
    let idx := seqIndex e.seqId
    let q := s.seqAt idx
    let s1 := s.returnFrames e (fun _ => false)
    if e.join then s1.setSeq idx (freeSeq q)
    else
      let view : SeqView := { idx := idx, q := q, leaves := q.leaves, v := q.c }
      let again := fun (l : Nat) => match view.leaf (q.c - 1) l with | some o => decide (s1.refsOf o ≤ 1) | none => false
      let s2 := if e.status = OK ∧ e.tokens ≠ 0 ∧ q.c % 128 ≠ 0 then
          x.appended.foldl (fun (a : State) l => if again l then a.writeSketches view l q.c (q.c / 128) (q.c / 128 + 1) else a) s1
        else s1
      s2.setSeq idx { q with step := 0 }

/-- Cancel an open step of a partition. -/
def State.cancelStep (s : State) (part h : Nat) : State :=
  match s.step? part h with
  | none => s
  | some x => x.entries.foldl (fun (a : State) e => a.cancelEntry x e) { s with steps := NMap.erase s.steps (stepKey part h) }

/-- Run a data command of the Bindery, or a MOVE, that may start. -/
def bindery (op : Nat) (sel : Cmd → Bool) (body : Nat → Cmd → State → State) (cmd : Nat) (s : State) : State :=
  control op sel (fun _ s =>
    let s1 := s.unitStart cmd
    match s1.cmd? cmd with
    | some c => if c.phase = .started then body cmd c s1 else s1
    | none => s1) cmd s

/-- SEQ_STEP OPEN (R284, R308). -/
def execSeqStepOpen (cmd : Nat) (s : State) : Host.Outcome State Fault Refusal :=
  .next (match s.cmd? cmd with
    | some c => if s.reserveTurn cmd c.owner then bindery 0x03 (fun c => c.f 16 1 == 0) (fun id c s => s.runOpen id c) cmd s else s
    | none => s)

/-- SEQ_STEP APPEND (R286). -/
def execSeqStepAppend (cmd : Nat) (s : State) : Host.Outcome State Fault Refusal :=
  .next (bindery 0x03 (fun c => c.f 16 1 == 1) (fun id c s => s.runAppend id c) cmd s)

/-- SEQ_STEP CLOSE (R288). -/
def execSeqStepClose (cmd : Nat) (s : State) : Host.Outcome State Fault Refusal :=
  .next (bindery 0x03 (fun c => c.f 16 1 == 2) (fun id c s => s.runClose id c) cmd s)

/-- SEQ_STEP CANCEL (R289): judged here, its effect at its commit. -/
def execSeqStepCancel (cmd : Nat) (s : State) : Host.Outcome State Fault Refusal :=
  .next (bindery 0x03 (fun c => c.f 16 1 == 3) (fun id c s =>
    match s.stepState c with
    | some (st, dt) => s.toReady id (fun x => { x with status := st, detail := dt })
    | none => s.toReady id (fun x => { x with status := OK, detail := 0 })) cmd s)

/-! ### SEQ_FORK and SEQ_FREE (R295, R296) -/

/-- E_SEQ_STALE and E_SEQ_STATE of a fork, then its limits. -/
def State.forkFail (s : State) (id : Nat) (c : Cmd) : Option (Nat × Nat) :=
  let pid := c.f 16 4
  let child := c.f 20 4
  let q := s.seqAt (seqIndex pid)
  let here := match NMap.get? s.parts c.owner with | some p => p.onDie (seqDie child) | none => false
  if q.gen ≠ seqGen pid then some (E_SEQ_STALE, 0)
  else if q.state ≠ .active then some (E_SEQ_STATE, 1)
  else if s.heldSeq id (seqIndex pid) then some (E_SEQ_STATE, 2)
  else if !(s.freeIndex id child) then some (E_SEQ_STATE, 3)
  else if !here || decide (q.part ≠ c.owner) then some (E_SEQ_STATE, 4)
  else if s.setting c.owner 0x0008 0 ≤ s.seqTaken id c.owner then some (E_SEQ_LIMIT, 2)
  else none

/-- What a fork names: the parent's leaves below LENGTH, and the window leaves copied at once. -/
def forkLeaves (q : Seq) (len : Nat) : NMap LeafEntry × List Nat :=
  let below := q.leaves.filter (fun e => decide (e.1 < ceilDiv len q.tpl * q.layers))
  let copied := if len % 128 ≠ 0 ∧ len < q.c then winRange q.layers ((len - 1) / q.tpl) ((len - 1) / q.tpl + 1) else []
  (below, copied)

/-- The body of a fork: its checks, the frames of its pages and copies, the copies with their boundary sketches, and the counts of the leaves it shares, which the child will name. A rerun finds them made (R284, R295). -/
def State.runFork (s : State) (id : Nat) (c : Cmd) : State :=
  let fail := fun (st dt : Nat) => s.toReady id (fun x => { x with status := st, detail := dt })
  let ok := fun (a : State) => a.toReady id (fun x => { x with status := OK, detail := 0 })
  if c.child.isSome then ok s
  else
    match s.forkFail id c with
    | some (st, dt) => fail st dt
    | none =>
      let idx := seqIndex (c.f 16 4)
      let q := s.seqAt idx
      let d := seqDie (c.f 20 4)
      let len := c.f 24 4
      let (below, copied) := forkLeaves q len
      let shared := below.filter (fun e => !(copied.contains e.1))
      let need := needPages {} (below.map (·.1))
      let g := (len - 1) / q.tpl
      if shared.any (fun e => decide (65535 ≤ s.refsOf e.2)) then fail E_SEQ_LIMIT 3
      else
        match s.draw c.owner d (copied.length + need.length) none,
              copied.findSome? (fun w => (NMap.get? q.leaves w).bind (fun e => s.rowsPoison e q.kvHeads q.kvFmt 0 (len - g * q.tpl))) with
        | none, _ => fail E_LEAF_EXHAUSTED 0
        | some _, some k => fail E_MEM_UNCORRECTABLE k
        | some (s1, fs), none =>
          let copies := (copied.zip fs).foldl (fun (m : NMap LeafEntry) (p : Nat × Nat) => NMap.set m p.1 { frame := p.2, die := d }) []
          let pages := (need.zip (fs.drop copied.length)).foldl (fun (m : NMap Nat) (p : Nat × Nat) => NMap.set m p.1 p.2) []
          let leaves := below.map (fun e => (e.1, (NMap.get? copies e.1).getD e.2))
          let s2 := below.foldl (fun (a : State) (e : Nat × LeafEntry) =>
            match NMap.get? copies e.1 with
            | some dst => a.copyLeaf q g (len - g * q.tpl) len e.2 dst
            | none => a.addRef e.2) (s1.markPages d (fs.drop copied.length))
          let k : Seq := { q with c := len, leaves := leaves, pages := pages, parent := q.idOf idx, step := 0 }
          let view : SeqView := { idx := c.f 20 4, q := k, leaves := leaves, v := len }
          let s3 := if copied.isEmpty then s2
            else (List.range q.layers).foldl (fun (a : State) l => a.writeSketches view l len ((len - 1) / 128) ((len - 1) / 128 + 1)) s2
          ok (s3.setCmd id { c with frames := fs.map (fun f => (d, f)), leaves := shared.map (fun e => (e.1, e.2.die, e.2.frame, 1)), child := some k })

/-- The commit of a fork (R295): the child is ACTIVE, and its copies are counted. -/
def State.commitFork (s : State) (c : Cmd) : State :=
  match c.child with
  | none => s
  | some k =>
    let child := c.f 20 4
    let s1 := (k.leaves.filter (fun e => c.frames.contains (e.2.die, e.2.frame))).foldl (fun (a : State) (e : Nat × LeafEntry) => a.addRef e.2) s
    (s1.touchEntries child k.pages (k.leaves.map (·.1)) true).setSeq child { k with gen := (s.seqAt child).gen, state := .active }

/-- SEQ_FORK (R295, R308). -/
def execSeqFork (cmd : Nat) (s : State) : Host.Outcome State Fault Refusal :=
  .next (match s.cmd? cmd with
    | some c => if s.reserveTurn cmd c.owner then bindery 0x04 (fun _ => true) (fun id c s => s.runFork id c) cmd s else s
    | none => s)

/-- E_SEQ_STALE and E_SEQ_STATE of SEQ_FREE. -/
def State.freeFail (s : State) (c : Cmd) : Option (Nat × Nat) :=
  let q := s.seqAt (seqIndex (c.f 16 4))
  if q.gen ≠ seqGen (c.f 16 4) then some (E_SEQ_STALE, 0)
  else if q.state ≠ .active ∧ q.state ≠ .parked then some (E_SEQ_STATE, 1)
  else if q.step ≠ 0 then some (E_SEQ_STATE, 2)
  else if q.part ≠ c.owner then some (E_SEQ_STATE, 4)
  else none

/-- SEQ_FREE (R296): judged here; the sequence becomes RETIRED at its commit. -/
def execSeqFree (cmd : Nat) (s : State) : Host.Outcome State Fault Refusal :=
  .next (bindery 0x05 (fun _ => true) (fun id c s =>
    match s.freeFail c with
    | some (st, dt) => s.toReady id (fun x => { x with status := st, detail := dt })
    | none => s.toReady id (fun x => { x with status := OK, detail := 0 })) cmd s)

/-- The commit of SEQ_FREE. -/
def State.commitFree (s : State) (c : Cmd) : State :=
  let idx := seqIndex (c.f 16 4)
  s.setSeq idx { s.seqAt idx with state := .retired }

/-! ### SEQ_RESTORE (R310 to R318) -/

/-- E_SEQ_STALE and E_SEQ_STATE of a restore at admission. -/
def State.restoreFail (s : State) (c : Cmd) : Option (Nat × Nat) :=
  let q := s.seqAt (seqIndex (c.f 16 4))
  if q.gen ≠ seqGen (c.f 16 4) then some (E_SEQ_STALE, 0)
  else if c.f 20 1 = 0 then
    if q.state ≠ .parked then some (E_SEQ_STATE, 1) else if q.part ≠ c.owner then some (E_SEQ_STATE, 4) else none
  else if q.state ≠ .active ∨ q.c ≠ 0 then some (E_SEQ_STATE, 1)
  else if q.step ≠ 0 then some (E_SEQ_STATE, 2)
  else if q.part ≠ c.owner then some (E_SEQ_STATE, 4)
  else none

/-- The body of an UNPARK: one frame for each demoted leaf, and the copies. -/
def State.runUnpark (s : State) (id : Nat) (c : Cmd) : State :=
  let idx := seqIndex (c.f 16 4)
  let q := s.seqAt idx
  let d := seqDie idx
  let demoted := q.leaves.filter (fun e => e.2.t3)
  let got := if !c.frames.isEmpty then some (s, c.frames.map (·.2)) else s.draw c.owner d demoted.length none
  match got with
  | none => s.toReady id (fun x => { x with status := E_LEAF_EXHAUSTED, detail := 0 })
  | some (s1, fs) =>
    let s2 := (demoted.zip fs).foldl (fun (a : State) (p : (Nat × LeafEntry) × Nat) =>
      let dst : LeafEntry := { frame := p.2, die := d }
      ((a.writeLeaf dst 0 (s.leafBytes q.part p.1.2 0 131072)).writeLeaf dst 131072 (s.leafBytes q.part p.1.2 131072 20480)).markLeaf dst p.1.2.poison) (s1.leafDma q.part demoted)
    (s2.setCmd id { c with frames := fs.map (fun f => (d, f)) }).toReady id (fun x => { x with status := OK, detail := 0 })

/-- The commit of an UNPARK: the entries name frames, the slots are free, the sequence is ACTIVE. -/
def State.commitUnpark (s : State) (c : Cmd) : State :=
  let idx := seqIndex (c.f 16 4)
  let q := s.seqAt idx
  let demoted := q.leaves.filter (fun e => e.2.t3)
  let new := (demoted.zip c.frames).foldl (fun (m : NMap LeafEntry) (p : (Nat × LeafEntry) × (Nat × Nat)) =>
    NMap.set m p.1.1 { frame := p.2.2, die := p.2.1 }) q.leaves
  let s1 := c.frames.foldl (fun (a : State) (f : Nat × Nat) => a.addRef { frame := f.2, die := f.1 }) s
  (s1.touchEntries idx q.pages (demoted.map (·.1)) true).setSeq idx { q with leaves := new, state := .active }

/-- Fields of a restore image (Table 13-3). -/
def imLength (b : Bytes) : Nat := fld b 12 4
def imHashed (b : Bytes) : Bool := bitOf (fld b 16 1) 0
/-- LEAF_BASE (R313). -/
def imBase (length tpl : Nat) : Nat := ceilDiv (64 + 8 * (length / tpl)) 4096 * 4096

/-- The bytes of OBJ_IMAGE in the version a command reads. -/
def State.imageObj (s : State) (c : Cmd) : Option (Obj × List Nat) :=
  (s.obj? c.owner (c.f 24 4)).map (fun x => (x.2, c.viewOf x.1 x.2))

/-- Whether a scale byte of a live position of a leaf of an image is not finite. -/
def badScales (o : Obj) (v : List Nat) (q : Seq) (at_ n : Nat) : Bool :=
  (List.range q.kvHeads).any (fun h => (List.range n).any (fun p => [false, true].any (fun isV =>
    (o.readBytes v (at_ + scaleOffset q.tpl q.kvFmt h p isV) (scaleCount q.kvFmt)).any (fun x => decide (0x7F ≤ x.toNat)))))

/-- Positions of a group that lie below a length. -/
def groupLive (len tpl g : Nat) : Nat := min tpl (len - g * tpl)

/-- E_RESTORE_IMAGE (R314). -/
def State.imageFail (s : State) (c : Cmd) : Option Nat :=
  let q := s.seqAt (seqIndex (c.f 16 4))
  match s.imageObj c with
  | none => some 1
  | some (o, v) =>
    let h := o.readBytes v 0 64
    let len := imLength h
    if fld h 0 4 ≠ 0x53514B4C then some 1
    else if fld h 4 1 ≠ q.kvFmt ∨ fld h 5 1 ≠ q.kvHeads ∨ fld h 6 2 ≠ q.layers ∨ fld h 8 4 ≠ q.modelId then some 2
    else if len = 0 ∨ q.maxLen < len ∨ o.bytes < imBase len q.tpl + ceilDiv len q.tpl * q.layers * 151552 then some 3
    else if (List.range (ceilDiv len q.tpl)).any (fun g => (List.range q.layers).any (fun l =>
        badScales o v q (imBase len q.tpl + (g * q.layers + l) * 151552) (groupLive len q.tpl g))) then some 4
    else if 2 ≤ fld h 16 1 ∨ !(zeros h 17 64) then some 5
    else none

/-- Whether a node of a die's prefix tree is live for a restoring sequence (R316). -/
def State.nodeLive (s : State) (q : Seq) (x : PrefixNode) : Bool :=
  let d := s.seqAt (seqIndex x.donor)
  decide (d.gen = seqGen x.donor) && (d.state == .active || d.state == .parked) && decide ((x.group + 1) * d.tpl ≤ d.c)
    && decide (d.kvFmt = q.kvFmt) && decide (d.kvHeads = q.kvHeads) && decide (d.layers = q.layers)
    && (List.range d.layers).all (fun l => match NMap.get? d.leaves (x.group * d.layers + l) with | some e => !e.t3 | none => false)

/-- The live node that matches a complete group, when every leaf of it can take one more count. -/
def State.matchNode (s : State) (d part : Nat) (q : Seq) (g hash : Nat) : Option PrefixNode :=
  match (s.trees.getD d []).find? (fun x => x.part == part && x.group == g && x.hash == hash && s.nodeLive q x) with
  | some x =>
    let donor := s.seqAt (seqIndex x.donor)
    if (List.range q.layers).all (fun l => match NMap.get? donor.leaves (g * q.layers + l) with | some e => decide (s.refsOf e < 65535) | none => false)
    then some x else none
  | none => none

/-- The hash of a complete group of an image. -/
def imHash (o : Obj) (v : List Nat) (g : Nat) : Nat := o.readNat v (64 + 8 * g) 8

/-- What an IMAGE restore shares: window leaf and the donor's entry. -/
def State.imageShares (s : State) (c : Cmd) (o : Obj) (v : List Nat) : List (Nat × LeafEntry) :=
  let idx := seqIndex (c.f 16 4)
  let q := s.seqAt idx
  let h := o.readBytes v 0 64
  if !(imHashed h) then []
  else (List.range (imLength h / q.tpl)).flatMap (fun g =>
    match s.matchNode (seqDie idx) c.owner q g (imHash o v g) with
    | some x =>
      let donor := s.seqAt (seqIndex x.donor)
      (List.range q.layers).filterMap (fun l => (NMap.get? donor.leaves (g * q.layers + l)).map (fun e => (g * q.layers + l, e)))
    | none => [])

/-- Every window leaf of a length. -/
def allWins (q : Seq) (len : Nat) : List Nat := List.range (ceilDiv len q.tpl * q.layers)

/-- The body of an IMAGE restore: the checks of the image again, which an earlier command may have written since admission (R60, R314; log entry 100), the shares and frames of its first run, and the copies. -/
def State.runImage (s : State) (id : Nat) (c : Cmd) : State :=
  let idx := seqIndex (c.f 16 4)
  let q := s.seqAt idx
  let d := seqDie idx
  let fail := fun (st dt : Nat) => s.toReady id (fun x => { x with status := st, detail := dt })
  match s.imageFail c, s.imageObj c with
  | some k, _ => fail E_RESTORE_IMAGE k
  | none, none => s
  | none, some (o, v) =>
    let len := imLength (o.readBytes v 0 64)
    let shares := if c.frames.isEmpty then s.imageShares c o v
      else c.leaves.map (fun x => (x.1, ({ frame := x.2.2.1, die := x.2.1 } : LeafEntry)))
    let copies := (allWins q len).filter (fun w => !(shares.any (fun x => x.1 == w)))
    let leafAt := fun (w : Nat) => imBase len q.tpl + w * 151552
    match firstSome [ o.poisonBytes v 0 (64 + 8 * (len / q.tpl)) d, copies.findSome? (fun w => o.poisonBytes v (leafAt w) 151552 d) ] with
    | some p => fail E_MEM_UNCORRECTABLE p
    | none =>
      let pages := needPages {} (allWins q len)
      let got := if c.frames.isEmpty then
          (s.draw c.owner d (copies.length + pages.length) none).map (fun r =>
            (shares.foldl (fun (a : State) (x : Nat × LeafEntry) => a.addRef x.2) (r.1.markPages d (r.2.drop copies.length)), r.2))
        else some (s, c.frames.map (·.2))
      match got with
      | none => fail E_LEAF_EXHAUSTED 0
      | some (s1, fs) =>
        let s2 := (copies.zip fs).foldl (fun (a : State) (p : Nat × Nat) =>
          let off := leafAt p.1
          let dst : LeafEntry := { frame := p.2, die := d }
          (a.writeLeaf dst 0 (o.readBytes v off 131072)).writeLeaf dst 131072 (o.readBytes v (off + 131072) 20480)) s1
        let s3 := s2.setCmd id { c with frames := fs.map (fun f => (d, f)), leaves := shares.map (fun x => (x.1, x.2.die, x.2.frame, 1)) }
        s3.toReady id (fun x => { x with status := OK, detail := min (shares.length / max q.layers 1) 0xFFFF })

/-- Insert a node into a die's prefix tree: a new place, else that of a node no longer live, else not at all (R317). -/
def State.insertNode (s : State) (d : Nat) (q : Seq) (x : PrefixNode) : State :=
  let t := s.trees.getD d []
  if t.length < 1048576 then { s with trees := s.trees.set d (t ++ [x]) }
  else
    match t.findIdx? (fun y => !(s.nodeLive q y)) with
    | some i => { s with trees := s.trees.set d (t.set i x) }
    | none => s

/-- The commit of an IMAGE restore (R312, R317). -/
def State.commitImage (s : State) (c : Cmd) : State :=
  let idx := seqIndex (c.f 16 4)
  let q := s.seqAt idx
  let d := seqDie idx
  match s.imageObj c with
  | none => s
  | some (o, v) =>
    let h := o.readBytes v 0 64
    let len := imLength h
    let shared : NMap LeafEntry := c.leaves.foldl (fun (m : NMap LeafEntry) x => NMap.set m x.1 { frame := x.2.2.1, die := x.2.1 }) []
    let copies := (allWins q len).filter (fun w => !(NMap.has shared w))
    let fs := c.frames.map (·.2)
    let leaves := (copies.zip fs).foldl (fun (m : NMap LeafEntry) (p : Nat × Nat) => NMap.set m p.1 { frame := p.2, die := d }) shared
    let pages := ((needPages {} (allWins q len)).zip (fs.drop copies.length)).foldl (fun (m : NMap Nat) (p : Nat × Nat) => NMap.set m p.1 p.2) []
    let s1 := (copies.zip fs).foldl (fun (a : State) (p : Nat × Nat) => a.addRef { frame := p.2, die := d }) s
    let full := len / q.tpl
    let hash := if imHashed h && decide (full ≠ 0) then imHash o v (full - 1) else 0
    let s2 := (s1.touchEntries idx pages (leaves.map (·.1)) true).setSeq idx { q with c := len, leaves := leaves, pages := pages, prefixHash := hash, lastStatus := OK, lastDetail := 0 }
    if imHashed h then
      (List.range full).foldl (fun (a : State) g =>
        if copies.contains (g * q.layers) then a.insertNode d q { part := c.owner, hash := imHash o v g, donor := q.idOf idx, group := g } else a) s2
    else s2

/-- SEQ_RESTORE UNPARK (R311). -/
def execSeqRestoreUnpark (cmd : Nat) (s : State) : Host.Outcome State Fault Refusal :=
  .next (bindery 0x0F (fun c => c.f 20 1 == 0) (fun id c s => s.runUnpark id c) cmd s)

/-- SEQ_RESTORE IMAGE (R312 to R317). -/
def execSeqRestoreImage (cmd : Nat) (s : State) : Host.Outcome State Fault Refusal :=
  .next (bindery 0x0F (fun c => c.f 20 1 == 1) (fun id c s => s.runImage id c) cmd s)

/-! ### Commit of the Bindery's commands (R59 step 2) -/

/-- The Bindery's part of a commit. -/
def State.commitBindery (s : State) (c : Cmd) : State :=
  match c.opcode with
  | 0x03 =>
    if c.f 16 1 = 0 then s.commitOpen c else if c.f 16 1 = 1 then s.commitAppend c
    else if c.f 16 1 = 2 then s.commitClose c else s.cancelStep c.owner (c.f 20 4)
  | 0x04 => s.commitFork c
  | 0x05 => s.commitFree c
  | 0x0F => if c.f 20 1 = 0 then s.commitUnpark c else s.commitImage c
  | _ => s

/-! ### Admission -/

/-- Range checks of SEQ_STEP (Table 12-7); LAYER is judged against the open step, the collation handles against the plan. -/
def stepRange (s : State) (owner : Nat) (p : Option Plan) (d : Bytes) : Option Nat :=
  let op := fld d 16 1
  let known := p.isSome
  let m := coMode ((p.getD {}).sec 6)
  let nz := fun (off : Nat) => decide (fld d off 4 ≠ 0)
  let only := fun (off : Nat) (want : Bool) => nz off != want
  let layers := match s.step? owner (fld d 20 4) with | some x => x.layers | none => 65536
  firstBad
    [ (16, decide (3 < op)), (17, !(zeros d 17 20)), (24, only 24 (op == 0)), (28, only 28 (op == 0 || op == 2)),
      (32, if op = 0 then decide (fld d 32 4 = 0) || decide (262144 < fld d 32 4) else nz 32),
      (36, only 36 (op == 1)), (40, only 40 (op == 1)),
      (44, if op = 1 then decide (layers ≤ fld d 44 2) else decide (fld d 44 2 ≠ 0)), (46, !(zeros d 46 48)),
      (48, (known || op != 0) && only 48 (op == 0 && m == 1)), (52, (known || op != 0) && only 52 (op == 0 && (m == 1 || m == 3))), (56, !(zeros d 56 128)) ]

/-- Range checks of SEQ_FORK: LENGTH is at most the C of the parent it names, when the id is that of a sequence of the partition (R295). -/
def forkRange (s : State) (owner : Nat) (d : Bytes) : Option Nat :=
  let q := s.seqAt (seqIndex (fld d 16 4))
  let named := decide (q.gen = seqGen (fld d 16 4)) && !(q.state == .free) && decide (q.part = owner)
  firstBad [ (20, decide (2 ^ 18 ≤ fld d 20 4)), (24, decide (fld d 24 4 = 0) || (named && decide (q.c < fld d 24 4))), (28, !(zeros d 28 128)) ]
/-- Range checks of SEQ_FREE and SEQ_RESTORE. -/
def freeRange (d : Bytes) : Option Nat := firstBad [ (20, !(zeros d 20 128)) ]
def restoreRange (d : Bytes) : Option Nat :=
  firstBad [ (20, decide (1 < fld d 20 1)), (21, !(zeros d 21 24)), (24, (fld d 24 4 != 0) != (fld d 20 1 == 1)), (28, !(zeros d 28 128)) ]

/-- E_OBJECT_POLICY of SEQ_STEP: a REPLICATE output (R354), kinds, and keys or values in another format than FMT_A (log entry 56). -/
def State.stepPolicy (s : State) (c : Cmd) : Option (Nat × Nat) :=
  let bad := fun (off : Nat) (p : Obj → Bool) => match s.obj? c.owner (c.f off 4) with | some (_, o) => p o | none => false
  let f := (s.planOf c).sec 2
  let row := fun (off : Nat) => bad off (fun o => decide (o.kind ≠ 0) || decide (o.fmt ≠ fsA f))
  let list := fun (off : Nat) => bad off (fun o => decide (o.kind ≠ 1))
  if [28, 48, 52].any (fun off => bad off (fun o => o.placement == 2)) then some (E_OBJECT_POLICY, 1)
  else if row 36 || row 40 || list 24 || list 28 || list 48 || list 52 then some (E_OBJECT_POLICY, 4)
  else none

end Sys2Proof.Machine
end

