-- ==== Sys2Proof/Machine/Move.lean ====
section
/-! DEFINITION. MOVE: copies, imports, exports, sequence exports and tier changes (R371, R372, R584). -/

namespace Sys2Proof.Machine

/-- A model object, or an alias of one, which no command writes (R434, R436). -/
def State.isModel (s : State) (part handle : Nat) : Bool :=
  match s.obj? part handle with
  | some (k, o) => o.model || decide (k ≠ objKey part handle)
  | none => false

/-- Extent of an object in ingots or bytes, and the bytes of one unit. -/
def Obj.extent (o : Obj) : Nat := if o.kind = 0 then o.count else o.bytes
def Obj.unit (o : Obj) : Nat := if o.kind = 0 then o.slot else 1

/-- The size of a sequence's restore image (R313). -/
def imageSize (q : Seq) (len : Nat) : Nat := imBase len q.tpl + ceilDiv len q.tpl * q.layers * 151552

/-- Range checks of MOVE (Tables 15-7 and 15-7a, R372): a range that does not fit fails on the field concerned. -/
def moveRange (s : State) (owner : Nat) (d : Bytes) : Option Nat :=
  let op := fld d 16 1
  let z := fun (off n : Nat) => decide (fld d off n ≠ 0)
  let uses := fun (ops : List Nat) => ops.contains op
  let src := if uses [0, 2, 4] then (s.obj? owner (fld d 20 4)).map (·.2) else none
  let dst := if uses [0, 1, 5] then (s.obj? owner (fld d 24 4)).map (·.2) else none
  let so := fld d 32 8
  let dO := fld d 40 8
  let n := fld d 48 8
  let past := fun (o : Option Obj) (off : Nat) => match o with | some x => decide (x.extent ≤ off) | none => false
  let short := fun (o : Option Obj) (off : Nat) => match o with | some x => decide (x.extent < off + n) | none => false
  let need := if op = 3 then
      (let q := s.seqAt (seqIndex (fld d 20 4)); if q.state == .free || q.gen != seqGen (fld d 20 4) then 0 else imageSize q q.c)
    else match (if op = 2 then src else dst) with | some x => n * x.unit | none => 0
  let tier := fld d 88 1
  let pl := fld d 89 1
  let onDie := match NMap.get? s.parts owner with | some p => p.onDie (fld d 90 1) | none => false
  firstBad
    [ (16, decide (6 < op)), (17, !(zeros d 17 20)),
      (20, if uses [1, 5] then z 20 4 else if op = 3 then false else !(z 20 4)),
      (24, if uses [0, 1, 5] then !(z 24 4) else z 24 4), (28, z 28 4),
      (32, if uses [0, 2, 4] then past src so else z 32 8), (40, if uses [0, 1, 5] then past dst dO else z 40 8),
      (48, if uses [0, 1, 2, 4, 5] then !(z 48 8) || short src so || short dst dO else z 48 8),
      (56, if uses [1, 2, 3] then decide (fld d 56 8 % 4096 ≠ 0) else z 56 8),
      (64, if uses [1, 2, 3] then decide (fld d 64 8 < need) else z 64 8),
      (72, if op = 3 then false else z 72 8),
      (80, if uses [4, 5] then decide (7 < fld d 80 1) else z 80 1), (81, !(zeros d 81 84)),
      (84, if uses [4, 5] then !(z 84 4) else z 84 4),
      (88, if op = 6 then decide (tier = 0) || decide (3 < tier) else z 88 1),
      (89, if op = 6 then decide (2 < pl) || (decide (tier = 1) && decide (pl = 2)) else z 89 1),
      (90, if op = 6 ∧ pl = 1 then !onDie else z 90 1), (91, !(zeros d 91 128)) ]

/-- E_OBJECT_POLICY 0x0004 of COPY: kinds, or formats and sparsity that differ. -/
def State.movePolicy (s : State) (c : Cmd) : Option (Nat × Nat) :=
  if c.f 16 1 ≠ 0 then none
  else match s.obj? c.owner (c.f 20 4), s.obj? c.owner (c.f 24 4) with
    | some (_, a), some (_, b) =>
      if decide (a.kind ≠ b.kind) || (decide (a.kind = 0) && (decide (a.fmt ≠ b.fmt) || a.sparse != b.sparse || decide (a.axis ≠ b.axis)))
      then some (E_OBJECT_POLICY, 4) else none
    | _, _ => none

/-- The failures a MOVE meets while it runs. -/
def moveOrder : List Nat := [E_MEM_UNCORRECTABLE, E_UNIT_FENCED, E_OBJECT_POLICY, E_NONFINITE, E_TIER_DEADLINE]

/-- Run a MOVE of one OP that may start. -/
def move (op : Nat) (body : Nat → Cmd → State → State) (cmd : Nat) (s : State) : State :=
  bindery 0x06 (fun c => c.f 16 1 == op) body cmd s

/-- End the body of a MOVE. -/
def State.endMove (s : State) (id : Nat) (fail : Option (Nat × Nat)) : State :=
  match fail with
  | some (st, dt) => s.toReady id (fun c => { c with status := st, detail := dt })
  | none => s.toReady id (fun c => { c with status := OK, detail := 0 })

/-- Poison in the bytes that reading a range of ingots of a tensor object moves (R338). -/
def slotPoison (o : Obj) (v : List Nat) (n0 n die : Nat) : Option Nat :=
  ((List.range n).map (· + n0)).findSome? (fun k => (o.fetchRuns (slotIn v k) k).findSome? (fun r =>
    o.poisonAt (slotIn v k) (k * o.slot + r.1) (k * o.slot + r.1 + r.2) (o.readDie k die)))

/-- The header rewritten with the object, index and commit of its new place. -/
def rehead (b : Bytes) (handle index commit : Nat) : Bytes := putFld (putFld (putFld (putFld b 2 1 1) 4 4 handle) 8 4 index) 12 4 commit

/-- One ingot of a COPY: slot and extension. -/
def copyIngot (o : Obj) (v : Nat) (k : Nat) (dst : Obj) (handle n : Nat) : Bytes × Option Bytes :=
  let b := o.readSlot v k
  if unwritten b then (zeroIngot { fmt := dst.fmt, sparse := dst.sparse, axis := dst.axis, object := handle, index := n, commit := dst.nextCommit }, none)
  else (rehead b handle n dst.nextCommit, if (headerOf b).extended then some (o.readExt v k) else none)

/-- MOVE COPY (R372). -/
def execMoveCopy (cmd : Nat) (s : State) : Host.Outcome State Fault Refusal :=
  .next (move 0 (fun id c s =>
    let die := c.home
    match s.obj? c.owner (c.f 20 4), s.obj? c.owner (c.f 24 4) with
    | some (sk, a), some (dk, b) =>
      let v := c.viewOf sk a
      let so := c.f 32 8
      let d0 := c.f 40 8
      let n := c.f 48 8
      if a.kind = 1 then
        match a.poisonBytes v so n die with
        | some p => s.endMove id (some (E_MEM_UNCORRECTABLE, p))
        | none => (s.putObj id dk d0 (a.readBytes v so n)).endMove id none
      else
        match slotPoison a v so n die with
        | some p => s.endMove id (some (E_MEM_UNCORRECTABLE, p))
        | none =>
          ((List.range n).foldl (fun (x : State) k =>
            let g := copyIngot a (slotIn v (so + k)) (so + k) b (c.f 24 4) (d0 + k)
            x.putIngot id dk (d0 + k) g.1 g.2) s).endMove id none
    | _, _ => s) cmd s)

/-- The smallest E_NONFINITE detail of an imported slot, if any: element 0x0001, scale 0x0003, E8M0 scale 0x0005 (R372). -/
def slotNonfinite (b : Bytes) : Option Nat :=
  if (headerOf b).zero then none
  else
    let bad := (List.range 128).flatMap (fun r => (List.range 128).filterMap (fun c =>
      match storedElement b 0 false r c with
      | .ok _ => none
      | .error e => match e with | .element => some 1 | .scale => some 3 | .mxNan => some 5 | _ => none))
    match bad with | [] => none | x :: xs => some (xs.foldl min x)

/-- What an imported slot fails with: its header before its values. -/
def slotFault (o : Obj) (b : Bytes) : Option (Nat × Nat) :=
  let h := headerOf b
  if h.fmt ≠ o.fmt ∨ h.sparse ≠ o.sparse ∨ h.axis ≠ o.axis then some (E_OBJECT_POLICY, 4)
  else (slotNonfinite b).map (fun d => (E_NONFINITE, d))

/-- MOVE IMPORT (R372): slots in ascending order, the first faulty one failing the command. -/
def execMoveImport (cmd : Nat) (s : State) : Host.Outcome State Fault Refusal :=
  .next (move 1 (fun id c s =>
    match s.obj? c.owner (c.f 24 4) with
    | some (dk, b) =>
      let n := c.f 48 8
      let d0 := c.f 40 8
      let s := s.bulkDma c.owner false (c.f 56 8) (n * b.unit)
      if b.kind = 1 then (s.putObj id dk d0 (s.hostRead (c.f 56 8) n)).endMove id none
      else
        let slots := (List.range n).map (fun k => s.hostRead (c.f 56 8 + k * b.slot) b.slot)
        match slots.findSome? (slotFault b) with
        | some f => s.endMove id (some f)
        | none =>
          (slots.zipIdx.foldl (fun (x : State) (k : Bytes × Nat) => x.putIngot id dk (d0 + k.2) (rehead k.1 (c.f 24 4) (d0 + k.2) b.nextCommit) none) s).endMove id none
    | none => s) cmd s)

/-- The bytes an EXPORT writes for one ingot: a zero ingot has ZERO_INGOT set and zero element bytes. -/
def exportSlot (o : Obj) (v k : Nat) (handle : Nat) : Bytes :=
  let b := o.readSlot v k
  if unwritten b then zeroIngot { fmt := o.fmt, sparse := o.sparse, axis := o.axis, object := handle, index := k }
  else if (headerOf b).zero then putBytes b 64 (List.replicate (if o.sparse then 1024 * fmtBits o.fmt else 2048 * fmtBits o.fmt) 0)
  else b

/-- MOVE EXPORT (R372): the range is held for host memory, which it reaches at commit. -/
def execMoveExport (cmd : Nat) (s : State) : Host.Outcome State Fault Refusal :=
  .next (move 2 (fun id c s =>
    match s.obj? c.owner (c.f 20 4) with
    | some (sk, a) =>
      let v := c.viewOf sk a
      let so := c.f 32 8
      let n := c.f 48 8
      let bad := if a.kind = 1 then a.poisonBytes v so n c.home else slotPoison a v so n c.home
      match bad with
      | some p => s.endMove id (some (E_MEM_UNCORRECTABLE, p))
      | none =>
        let out := if a.kind = 1 then a.readBytes v so n
          else (List.range n).flatMap (fun k => exportSlot a (slotIn v (so + k)) (so + k) (c.f 20 4))
        (s.setCmd id { c with image := out }).endMove id none
    | none => s) cmd s)

/-- One leaf of a restore image: rows and scales at positions at or beyond the length are zero (R313). -/
def State.leafImage (s : State) (q : Seq) (e : LeafEntry) (n : Nat) : Bytes :=
  let all := s.leafBytes q.part e 0 131072 ++ s.leafBytes q.part e 131072 20480
  if q.tpl ≤ n then all
  else
    (List.range q.kvHeads).foldl (fun (b : Bytes) h => [false, true].foldl (fun (x : Bytes) v =>
      putBytes (putBytes x (rowOffset q.kvHeads q.kvFmt h n v) (List.replicate ((q.tpl - n) * rowBytes q.kvFmt) 0))
        (scaleOffset q.tpl q.kvFmt h n v) (List.replicate ((q.tpl - n) * scaleCount q.kvFmt) 0)) b) all

/-- The restore image of a sequence, with the host's hashes when they are given (R313, R372). -/
def State.seqImage (s : State) (q : Seq) (hashAddr : Nat) : Bytes :=
  let full := q.c / q.tpl
  let hdr := leBytes 4 0x53514B4C ++ leBytes 1 q.kvFmt ++ leBytes 1 q.kvHeads ++ leBytes 2 q.layers ++ leBytes 4 q.modelId ++ leBytes 4 q.c
    ++ leBytes 1 (b2n (decide (hashAddr ≠ 0))) ++ List.replicate 47 0
  let hashes := if hashAddr = 0 then List.replicate (8 * full) 0 else s.hostRead hashAddr (8 * full)
  let leaves := (allWins q q.c).flatMap (fun w =>
    match NMap.get? q.leaves w with
    | some e => s.leafImage q e (groupLive q.c q.tpl (w / q.layers))
    | none => List.replicate 151552 0)
  fixLen (imBase q.c q.tpl) (hdr ++ hashes) ++ leaves

/-- E_SEQ_STALE and E_SEQ_STATE of SEQ_EXPORT. -/
def State.seqExportFail (s : State) (c : Cmd) : Option (Nat × Nat) :=
  let q := s.seqAt (seqIndex (c.f 20 4))
  if q.gen ≠ seqGen (c.f 20 4) then some (E_SEQ_STALE, 0)
  else if q.state ≠ .active ∧ q.state ≠ .parked then some (E_SEQ_STATE, 1)
  else if q.step ≠ 0 then some (E_SEQ_STATE, 2)
  else if q.part ≠ c.owner then some (E_SEQ_STATE, 4)
  else none

/-- MOVE SEQ_EXPORT (R372). -/
def execMoveSeqExport (cmd : Nat) (s : State) : Host.Outcome State Fault Refusal :=
  .next (move 3 (fun id c s =>
    let q0 := s.seqAt (seqIndex (c.f 20 4))
    let q := { q0 with c := NMap.getD c.lens 0 q0.c }
    match s.seqExportFail c with
    | some f => s.endMove id (some f)
    | none =>
      let ls := (allWins q q.c).filterMap (fun w => (NMap.get? q.leaves w).map (fun e => (w, e)))
      match (ls.filterMap (fun e => s.leafPoison e.2 0 151552)).head? with
      | some p => s.endMove id (some (E_MEM_UNCORRECTABLE, p))
      | none =>
        let reads := if c.f 72 8 = 0 then s else s.bulkDma c.owner false (c.f 72 8) (8 * (q.c / q.tpl))
        ((reads.leafDma c.owner ls).setCmd id { c with image := s.seqImage q (c.f 72 8) }).endMove id none) cmd s)

/-- MOVE RETIER (R372): held until no other admitted command names the object; E_QUOTA when the new storage does not fit beside the old. -/
def execMoveRetier (cmd : Nat) (s : State) : Host.Outcome State Fault Refusal :=
  .next (match s.cmd? cmd with
    | none => s
    | some c0 =>
      match s.obj? c0.owner (c0.f 20 4) with
      | none => s
      | some (k, o) =>
        if s.cmds.any (fun x => x.1 != cmd && (s.named x.2).contains k) then s
        else move 6 (fun id c s =>
          if s.isModel c.owner (c.f 20 4) then s.endMove id (some (E_MODEL_STATE, 5))
          else if s.fits c.owner (retiered o c.desc) then s.endMove id none
          else s.endMove id (some (E_QUOTA, 0))) cmd s)

/-- The commit of RETIER: dirty content is written back first, and both versions reach a T3 home (R358); the old pages, pins and cached slots go, and new pages are mapped. -/
def State.commitRetier (s : State) (c : Cmd) : State :=
  match s.obj? c.owner (c.f 20 4) with
  | none => s
  | some (k, o) =>
    let back := fun (a : State) (x : Obj) (v n : Nat) => a.bulkWrite c.owner (x.hostSlot v n) (x.readSlot v n)
    let s1 := o.dirty.foldl (fun (a : State) n => a.writeBack k n) s
    let new := { retiered o c.desc with pages := [] }
    let s2 := if new.tier = 3 ∧ o.tier ≠ 3 then
        (List.range o.count).foldl (fun (a : State) n => back (back a new 0 n) new 1 n) s1
      else if new.tier ≠ 3 ∧ o.tier = 3 then s1.bulkDma c.owner false o.hostBase (2 * o.count * o.slot)
      else s1
    let read := if o.tier = 3 then s2
      else (List.range o.versions).foldl (fun (a : State) v => (List.range o.count).foldl (fun (b : State) n => b.readMoved k v n) a) s2
    let s3 : State := { read.leavePages o with t2cache := read.t2cache.filter (fun e => e.1 != k), dies := (read.leavePages o).dies.map (DieState.unpin · o.holdsLine) }
    let put := s3.setObj k ((s3.setObj k new).mapped c.owner new)
    if new.tier = 3 then put else put.filled k

/-- The part of a MOVE's commit that is no object version: host memory of the exports, and RETIER's move. -/
def State.commitMove (s : State) (c : Cmd) : State :=
  if c.opcode ≠ 0x06 then s
  else if c.f 16 1 = 2 ∨ c.f 16 1 = 3 then s.bulkWrite c.owner (c.f 56 8) c.image
  else if c.f 16 1 = 6 then s.commitRetier c
  else s

end Sys2Proof.Machine
end

