-- ==== Sys2Proof/Machine/Codec.lean ====
section
/-! DEFINITION. The codec and pixel engines: streams and their frame buffers, key pictures and rate control, colour conversion, encode and decode, and the choice of the next item (R459 to R481). What the AV1 and HEVC standards define (entropy-coded payloads, the search's choices, the reading of a unit) is a free value (log entry 9). -/

namespace Sys2Proof.Machine

/-! ### The codec section (Table 20-4) -/

def cxHevc (b : Bytes) : Bool := fld b 0 1 == 1
def cxDepth (b : Bytes) : Nat := fld b 1 1
def cxDecode (b : Bytes) : Bool := fld b 3 1 == 1
def cxWidth (b : Bytes) : Nat := fld b 4 2
def cxHeight (b : Bytes) : Nat := fld b 6 2
def cxEffort (b : Bytes) : Nat := fld b 8 1
def cxSlots (b : Bytes) : Nat := fld b 10 1
def cxTarget (b : Bytes) : Bool := fld b 11 1 == 1
def cxRaw (b : Bytes) : Bool := fld b 21 1 == 1
def cxSearch (b : Bytes) : Nat := fld b 9 1
def cxDts (b : Bytes) : Nat := fld b 22 1
def cxKeyEvery (b : Bytes) : Nat := fld b 32 4
/-- d: bytes of a sample. -/
def cxBytes (b : Bytes) : Nat := if cxDepth b = 8 then 1 else 2
/-- Bytes of a raw planar frame (R473). -/
def cxFrame (b : Bytes) : Nat := cxWidth b * cxHeight b * 3 / 2 * cxBytes b
/-- B of R461. -/
def cxBuffer (b : Bytes) : Nat :=
  let wa := ceilDiv (cxWidth b) 64 * 64
  let ha := ceilDiv (cxHeight b) 64 * 64
  ceilDiv (wa * ha * cxBytes b * 3 / 2 + wa * ha / 2) (2 ^ 21) * 2 ^ 21
/-- 64 × 64 superblocks of a frame. -/
def cxBlocks (b : Bytes) : Nat := ceilDiv (cxWidth b) 64 * ceilDiv (cxHeight b) 64
/-- Busy VCLK cycles of a frame (Table 20-2), by IN_LEN for a decode. -/
def cxCycles (b : Bytes) (inLen : Nat) : Nat :=
  if cxDecode b then 2000 + max (1024 * cxBlocks b) (inLen * 8 / 16) else 2000 + cxBlocks b * 1024 * 2 ^ cxEffort b

/-! ### Streams -/

def cdOp (c : Cmd) : Nat := c.f 16 1
/-- The plan section of a CODEC_FRAME. -/
def State.codecSec (s : State) (c : Cmd) : Bytes := (s.planOf c).sec 8
/-- The stream a command names. -/
def State.stream? (s : State) (c : Cmd) : Option CodecStream := NMap.get? (s.engineAt (c.f 17 1)).streams (c.f 18 1)
def State.setStream (s : State) (c : Cmd) (x : CodecStream) : State :=
  let e := s.engineAt (c.f 17 1)
  s.setEngine (c.f 17 1) { e with streams := NMap.set e.streams (c.f 18 1) x }

/-- REF_SLOTS of an open stream. -/
def CodecStream.refSlots (x : CodecStream) : Nat := x.buffers.length - 1
/-- The set of usable slots, as a mask. -/
def CodecStream.usable (x : CodecStream) : Nat := 2 ^ x.refSlots - 1
/-- The slots of a mask. -/
def maskSlots (m : Nat) : List Nat := (List.range 8).filter (fun i => m.testBit i)

/-- Whether an ENCODE codes a key picture (R465). -/
def CodecStream.isKey (x : CodecStream) (sec : Bytes) (force : Bool) : Bool :=
  !x.state.coded || force || x.state.keyRequest || (decide (cxKeyEvery sec ≠ 0) && decide (cxKeyEvery sec ≤ x.state.sinceKey))

/-- Earlier admitted commands of the same stream without a decision (R463). -/
def State.streamBusy (s : State) (id : Nat) (c : Cmd) : Bool :=
  s.cmds.any (fun x => decide (x.1 < id) && x.2.uncommitted && decide (x.2.opcode = 0x08) && decide (x.2.f 17 1 = c.f 17 1)
    && decide (x.2.f 18 1 = c.f 18 1))

/-- E_CODEC_STATE of a command against its stream, but for the references of an ENCODE (Table 20-7). -/
def State.codecBound (s : State) (c : Cmd) : Option (Nat × Nat) :=
  let sec := s.codecSec c
  let here := match NMap.get? s.parts c.owner with | some p => p.onDie (c.f 17 1) | none => false
  match s.stream? c with
  | none => if cdOp c = 0 then (if here then none else some (E_CODEC_STATE, 7)) else some (E_CODEC_STATE, 1)
  | some x =>
    if cdOp c = 0 ∨ x.part ≠ c.owner then some (E_CODEC_STATE, 1)
    else if x.plan ≠ dPlan c.desc then some (E_CODEC_STATE, 2)
    else if (cdOp c = 2) ≠ cxDecode sec ∧ cdOp c ≠ 3 then some (E_CODEC_STATE, 3)
    else if x.ring ≠ c.ring then some (E_CODEC_STATE, 4)
    else none

/-- E_CODEC_STATE of a non-key ENCODE's references (R466). -/
def State.codecRefs (s : State) (c : Cmd) : Option (Nat × Nat) :=
  match s.stream? c with
  | none => none
  | some x =>
    let m := c.f 21 1
    if cdOp c ≠ 1 ∨ x.isKey (s.codecSec c) (bitOf (c.f 19 1) 0) then none
    else if m = 0 ∨ x.usable < m ∨ (maskSlots m).any (fun i => (x.state.slots.getD i none).isNone) then some (E_CODEC_STATE, 5)
    else if c.f 60 4 ≤ x.state.lastKeyIndex ∨ (maskSlots m).any (fun i => decide (x.state.slotIndex.getD i 0 = c.f 60 4)) then some (E_CODEC_STATE, 6)
    else none

/-- What fails a CODEC_FRAME with E_CODEC_STATE: the references are judged once no earlier command of the stream is undecided. -/
def State.codecState (s : State) (id : Nat) (c : Cmd) : Option (Nat × Nat) :=
  match s.codecBound c with
  | some f => some f
  | none => if s.streamBusy id c then none else s.codecRefs c

/-- Numbers of the free frame buffers of an engine's pool of 128. -/
def Engine.free (e : Engine) : List Nat :=
  let used := e.streams.flatMap (fun t => t.2.buffers)
  (List.range 128).filter (fun b => !(used.contains b))

/-- OPEN at admission: E_CODEC_POOL, E_QUOTA, or the stream with its reserve (R461). -/
def State.openStream (s : State) (c : Cmd) : Except (Nat × Nat) State :=
  let sec := s.codecSec c
  let die := c.f 17 1
  let free := (s.engineAt die).free
  let n := cxSlots sec + 1
  if free.length < n then .error (E_CODEC_POOL, free.length)
  else if s.setting c.owner 0x0002 die < s.t2Use c.owner die + n * cxBuffer sec then .error (E_QUOTA, 0)
  else
    let x : CodecStream := { part := c.owner, plan := dPlan c.desc, ring := c.ring, live := bitOf (c.f 19 1) 1, livePriority := c.f 20 1,
                             buffers := free.take n, bufferBytes := cxBuffer sec, state := { q := fld sec 14 1 } }
    .ok (s.setStream c x)

/-! ### The engine's choice of work (R476) -/

/-- The images of a DETECT_POST that one die's pixel engine handles (R157). -/
def Cmd.dieImages (c : Cmd) (d : Nat) : List Nat :=
  match (segments c.quires (c.f 32 4))[d]? with
  | some g => (List.range (g.tail - g.head)).map (· + g.head)
  | none => []

/-- Whether a command has an item for an engine that is not finished. -/
def State.hasItem (s : State) (d : Nat) (c : Cmd) : Bool :=
  if c.opcode = 0x08 then (cdOp c == 1 || cdOp c == 2) && decide (c.f 17 1 = d)
  else decide (c.opcode = 0x09) && (c.dieImages d).any (fun i => !(c.run.done.contains i))

/-- Whether an item waits at an engine and may start. -/
def State.waitsAt (s : State) (d : Nat) (x : Nat × Cmd) : Bool :=
  s.hasItem d x.2 && (if x.2.phase = .admitted then s.mayStart x.1 x.2 else decide (x.2.phase = .started))
    && !(decide (x.2.opcode = 0x08) && s.streamBusy x.1 x.2)

/-- LIVE_PRIORITY of a frame of a LIVE stream. -/
def State.liveOf (s : State) (c : Cmd) : Option Nat :=
  if c.opcode = 0x08 then (s.stream? c).bind (fun t => if t.live then some t.livePriority else none) else none

/-- The rank of a waiting item: class, turn of its partition in the round-robin of its class, priority (descending), admission. -/
def State.itemRank (s : State) (d : Nat) (x : Nat × Cmd) : List Nat :=
  let e := s.engineAt d
  match s.liveOf x.2 with
  | some p => [0, (x.2.owner + 15 - e.lastLive) % 16, 255 - p, x.1]
  | none => [1, (x.2.owner + 15 - e.lastPart) % 16, 255 - x.2.priority, x.1]

/-- Lexicographic order of ranks. -/
def rankLt : List Nat → List Nat → Bool
  | a :: as, b :: bs => if a = b then rankLt as bs else decide (a < b)
  | _, _ => false

/-- The next item an engine chooses. -/
def State.nextItem (s : State) (d : Nat) : Option Nat :=
  ((s.cmds.filter (s.waitsAt d)).foldl (fun (a : Option (Nat × Cmd)) x =>
    match a with
    | none => some x
    | some y => if rankLt (s.itemRank d x) (s.itemRank d y) then some x else a) none).map (·.1)

/-- Whether an engine's item in progress is unfinished. -/
def State.engineWorking (s : State) (d : Nat) : Option Nat :=
  match (s.engineAt d).current with
  | some id => match s.cmd? id with | some c => if c.phase = .started ∧ s.hasItem d c then some id else none | none => none
  | none => none

/-- Whether an engine works for a command now: its item is in progress, or the engine is between items and chooses it. -/
def State.engineTurn (s : State) (d id : Nat) : Bool :=
  match s.engineWorking d with
  | some x => x == id
  | none => s.nextItem d == some id

/-- Give an engine's turn to a command. -/
def State.takeTurn (s : State) (d id : Nat) : State :=
  match s.cmd? id with
  | some c =>
    let e := s.engineAt d
    (s.ensureStart id).setEngine d
      (if (s.liveOf c).isSome then { e with current := some id, lastLive := c.owner } else { e with current := some id, lastPart := c.owner })
  | none => s

/-- CODEC_FRAME_BOUNDARY (R476): an engine whose item has finished takes the next one. -/
def execCodecFrameBoundary (die : Nat) (s : State) : Host.Outcome State Fault Refusal :=
  .next (if s.serving && (s.engineWorking die).isNone then
    match s.nextItem die with
    | some id => s.takeTurn die id
    | none => let e := s.engineAt die; s.setEngine die { e with current := none }
  else s)

/-! ### Rows of tensor objects -/

/-- The ingots of a tensor object that hold the first `act` rows of image `img`, each with its first row read and the row after the last. -/
def rowSpans (o : Obj) (per width img act : Nat) : List (Nat × Nat × Nat) :=
  let (b, r) := if o.batch ≤ 1 then (0, img * per) else (img, 0)
  let top := min (r + act) o.rows
  if o.kind = 0 ∧ b < o.batch then
    (List.range (ceilDiv top 128 - r / 128)).flatMap (fun i =>
      let q := r / 128 + i
      (List.range (ceilDiv (min width o.cols) 128)).map (fun j => (o.index b q j, max r (128 * q) - 128 * q, min top (128 * q + 128) - 128 * q)))
  else []

/-- Those ingots. -/
def rowIngots (o : Obj) (per width img act : Nat) : List Nat := (rowSpans o per width img act).map (·.1)

/-- Poison in the header of a dense ingot of a format without scales, and in its rows `r0` to `r1 - 1`. -/
def Operand.rowPoison (x : Operand) (n r0 r1 die : Nat) : Option Nat :=
  let v := slotIn x.vmap n
  let lo := n * x.o.slot
  let len := 16 * fmtBits x.o.fmt
  let d := x.o.readDie n die
  firstSome [x.o.poisonAt v lo (lo + 64) d, x.o.poisonAt v (lo + 64 + len * r0) (lo + 64 + len * r1) d]

/-- What the reads of the first `act` rows of image `img` fail with on a die: anchors from ANCHORS_ACT on are not read (R267, R338). An ingot stored in 2:4 groups is read whole. -/
def rowFails (o : Obj) (v : List Nat) (fmt per width img act die : Nat) : List (Nat × Nat) :=
  if o.kind = 1 then
    let n := width * (fmtBits fmt / 8)
    match o.poisonBytes v (img * per * n) (act * n) die with | some q => [(E_MEM_UNCORRECTABLE, q)] | none => []
  else
    let x : Operand := { role := 1, key := 0, o := o, vmap := v, rows := o.rows, cols := o.cols, batch := o.batch }
    (rowSpans o per width img act).flatMap (fun q =>
      let b := o.header (slotIn v q.1) q.1
      if unwritten b then []
      else if (headerOf b).sparse || elementless (headerOf b) b || decide (fmtBlock (headerOf b).fmt ≠ 0) then x.fetchFails q.1 die
      else match x.rowPoison q.1 q.2.1 q.2.2 die with | some k => [(E_MEM_UNCORRECTABLE, k)] | none => [])

/-! ### Input samples (R471 to R473) -/

/-- An element of a tensor frame. -/
def frameElement (o : Obj) (v : List Nat) (b r c : Nat) : Fp :=
  let n := o.index b (r / 128) (c / 128)
  match element (o.ingot (slotIn v n) n) 0 false (r % 128) (c % 128) with | .ok x => x | .error _ => .nan

/-- Colour `k` of pixel (y, x) of a tensor frame (R471). -/
def pixelAt (sec : Bytes) (o : Obj) (v : List Nat) (b y x k : Nat) : Fp :=
  let t := cxDts sec
  frameElement o v b ((y / t) * (cxWidth sec / t) + x / t) ((k * t + y % t) * t + x % t)

/-- The binary32 constants kr, kg, kb, kcb and kcr (Table 20-3). -/
def matrixConsts (m : Nat) : List Fp :=
  let kr : Rat := if m = 0 then 2126 / 10000 else 2627 / 10000
  let kg : Rat := if m = 0 then 7152 / 10000 else 6780 / 10000
  let kb : Rat := if m = 0 then 722 / 10000 else 593 / 10000
  [rn32 kr, rn32 kg, rn32 kb, rn32 (1 / (2 * (1 - kb))), rn32 (1 / (2 * (1 - kr)))]

/-- clamp(rne(x), 0, 2^bits - 1). -/
def sampleCode (bits : Nat) (x : Fp) : Nat := if x.rat < 0 then 0 else min (nearestEven x.rat) (2 ^ bits - 1)

/-- y, cb and cr of a pixel (R472). -/
def convertPixel (sec : Bytes) (rgb : Fp × Fp × Fp) : Fp × Fp × Fp :=
  let k := fun (i : Nat) => (matrixConsts (fld sec 23 1)).getD i Fp.zero
  let prep := fun (v : Fp) => minFp (maxFp (add32 (mul32 v (f32 (fld sec 24 4))) (f32 (fld sec 28 4))) Fp.zero) (Fp.ofRat 1)
  let r := prep rgb.1
  let g := prep rgb.2.1
  let b := prep rgb.2.2
  let y := add32 (add32 (mul32 (k 0) r) (mul32 (k 1) g)) (mul32 (k 2) b)
  (y, mul32 (sub32 b y) (k 3), mul32 (sub32 r y) (k 4))

/-- The luma code of a pixel. -/
def lumaCode (bits : Nat) (y : Fp) : Nat :=
  let s : Rat := ((2 ^ (bits - 8) : Nat) : Rat)
  sampleCode bits (add32 (Fp.ofRat (16 * s)) (rn32 (219 * s * y.rat)))

/-- The chroma code of a 2 × 2 group, in the order (0,0), (0,1), (1,0), (1,1). -/
def chromaCode (bits : Nat) (c00 c01 c10 c11 : Fp) : Nat :=
  let s : Rat := ((2 ^ (bits - 8) : Nat) : Rat)
  let c := (add32 (add32 (add32 c00 c01) c10) c11).rat / 4
  sampleCode bits (add32 (Fp.ofRat (128 * s)) (rn32 (224 * s * c)))

/-- The planar samples of a converted tensor frame. -/
def convertFrame (sec : Bytes) (px : Nat → Nat → Fp × Fp × Fp) : Bytes :=
  let w := cxWidth sec
  let h := cxHeight sec
  let n := cxDepth sec
  let put := leBytes (cxBytes sec)
  let conv := fun (y x : Nat) => convertPixel sec (px y x)
  let luma := (List.range (w * h)).flatMap (fun i => put (lumaCode n (conv (i / w) (i % w)).1))
  let plane := fun (sel : Fp × Fp × Fp → Fp) => (List.range (w / 2 * (h / 2))).flatMap (fun i =>
    let y := 2 * (i / (w / 2))
    let x := 2 * (i % (w / 2))
    put (chromaCode n (sel (conv y x)) (sel (conv y (x + 1))) (sel (conv (y + 1) x)) (sel (conv (y + 1) (x + 1)))))
  luma ++ plane (fun p => p.2.1) ++ plane (fun p => p.2.2)

/-- The samples of a raw planar frame: of a 10-bit word, bits [9:0] (R473). -/
def rawFrame (sec : Bytes) (b : Bytes) : Bytes :=
  if cxDepth sec = 8 then b else (List.range (b.length / 2)).flatMap (fun i => leBytes 2 (fld b (2 * i) 2 % 1024))

/-- The input of an ENCODE: its samples, and whether an element is not finite. -/
def encodeInput (sec : Bytes) (o : Obj) (v : List Nat) (c : Cmd) : Bytes × Bool :=
  if cxRaw sec then (rawFrame sec (o.readBytes v (c.f 32 8 + c.f 28 4 * cxFrame sec) (cxFrame sec)), false)
  else
    let px := fun (y x k : Nat) => pixelAt sec o v (c.f 28 4) y x k
    let bad := (List.range (cxHeight sec)).any (fun y => (List.range (cxWidth sec)).any (fun x => (List.range 3).any (fun k => !(px y x k).finite)))
    if bad then ([], true) else (convertFrame sec (fun y x => (px y x 0, px y x 1, px y x 2)), false)

/-! ### Frames -/

/-- A frame result (Table 20-5): bytes after it, FRAME_TYPE, masks, flags, DISPLAY_INDEX, QP, BITS. -/
def frameResult (n kind refs refresh flags display qp bits : Nat) : Bytes :=
  leBytes 4 n ++ leBytes 1 kind ++ leBytes 1 refs ++ leBytes 1 refresh ++ leBytes 1 flags ++ leBytes 4 display ++ leBytes 2 qp
    ++ List.replicate 2 0 ++ leBytes 4 bits ++ List.replicate 44 0

/-- The quantiser of a frame (R469). -/
def CodecStream.quantiser (x : CodecStream) (sec : Bytes) (key : Bool) (qp : Nat) : Nat :=
  if cxTarget sec then (if key then max (fld sec 12 1) (min (fld sec 13 1) (x.state.q - fld sec 15 1)) else x.state.q) else qp

/-- The buffers of a set of slots, by slot. -/
def CodecStream.refBytes (x : CodecStream) (m : Nat) : List Bytes :=
  (List.range 8).map (fun i =>
    if m.testBit i then match x.state.slots.getD i none with | some b => NMap.getD x.state.content b [] | none => [] else [])

/-- The failures met by a CODEC_FRAME while it runs, in the order of R481. -/
def codecOrder : List Nat := [E_MEM_UNCORRECTABLE, E_NONFINITE, E_BITSTREAM, E_CODEC_SPACE]

/-- 4 KiB units of a result, saturating (R475). -/
def spaceUnits (n : Nat) : Nat := satBits 16 (ceilDiv n 4096)

/-- Change a command in flight. -/
def State.modCmd (s : State) (id : Nat) (f : Cmd → Cmd) : State :=
  match s.cmd? id with
  | some c => s.setCmd id (f c)
  | none => s

/-- End a frame: the result and its bytes go to OBJ_OUT, and what its commit needs stays with the command; or its failure. A frame that runs every step reports its busy cycles, one that does not fit included (R477). -/
def State.endFrame (s : State) (id : Nat) (c : Cmd) (fails : List (Nat × Nat)) (out rec : Bytes) (result : List Nat) : State :=
  let all := fails ++ (if c.f 56 4 < out.length then [(E_CODEC_SPACE, spaceUnits out.length)] else [])
  let busy := fun (x : Cmd) => { x with aclk := cxCycles (s.codecSec c) (c.f 40 4) / 256 }
  match pickFail codecOrder (if fails.isEmpty then all else fails) with
  | some (st, dt) =>
    let s1 := s.toReady id (fun x => { x with status := st, detail := dt })
    if st = E_CODEC_SPACE then s1.modCmd id busy else s1
  | none =>
    match s.obj? c.owner (c.f 44 4) with
    | none => s
    | some (k, _) => ((s.putObj id k (c.f 48 8) out).toReady id (fun x => { x with status := OK, detail := 0, image := rec, results := [result] })).modCmd id busy

/-- Poison of the bytes or rows a frame reads; of a tensor, in the rows and columns that hold its pixels (R338, R471). -/
def framePoison (sec : Bytes) (o : Obj) (v : List Nat) (c : Cmd) (die : Nat) : List (Nat × Nat) :=
  let bytes := fun (p : Option Nat) => match p with | some q => [(E_MEM_UNCORRECTABLE, q)] | none => []
  if cdOp c = 2 then bytes (o.poisonBytes v (c.f 32 8) (c.f 40 4) die)
  else if cxRaw sec then bytes (o.poisonBytes v (c.f 32 8 + c.f 28 4 * cxFrame sec) (cxFrame sec) die)
  else
    let t := cxDts sec
    let rows := cxHeight sec / t * (cxWidth sec / t)
    (rowFails o v 0 rows (3 * t * t) (c.f 28 4) rows die).filter (fun f => f.1 == E_MEM_UNCORRECTABLE)

/-- A size in leb128. -/
def leb128 : Nat → Nat → Bytes
  | 0, _ => []
  | fuel + 1, n => if n < 128 then [n] else (n % 128 + 128) :: leb128 fuel (n / 128)

/-- An AV1 OBU of a type in the low-overhead format, with its size field. PRESUMED from the AV1 standard (log entry 9). -/
def obu (type : Nat) (b : Bytes) : Bytes := leBytes 1 (type * 8 + 2) ++ leb128 8 b.length ++ b

/-- An HEVC NAL unit of a type in an Annex B byte stream. PRESUMED from the HEVC standard (log entry 9). -/
def nalUnit (type : Nat) (b : Bytes) : Bytes := leBytes 3 0 ++ leBytes 1 1 ++ leBytes 1 (type * 2) ++ leBytes 1 1 ++ b

/-- One AV1 temporal unit or HEVC access unit of a coded frame (Table 20-1): a key picture comes after its sequence header OBU, or as IDR_W_RADL after VPS, SPS and PPS (R465). -/
def packUnit (sec : Bytes) (key : Bool) (refresh : Nat) (b : Bytes) : Bytes :=
  if cxHevc sec then
    (if key then nalUnit 32 (Config.parameterSet sec 0) ++ nalUnit 33 (Config.parameterSet sec 1) ++ nalUnit 34 (Config.parameterSet sec 2) else [])
      ++ nalUnit (if key then 19 else if refresh = 0 then 0 else 1) b
  else obu 2 [] ++ (if key then obu 1 (Config.parameterSet sec 0) else []) ++ obu 6 b

/-- A chosen vector, within 512 luma columns and 256 luma rows of its superblock (R468). -/
def boundVector (v : Int × Int) : Int × Int := (max (-512) (min 512 v.1), max (-256) (min 256 v.2))

/-- The vectors of the motion search: for each searched slot and each superblock (R468). -/
def CodecStream.vectors (x : CodecStream) (sec control input : Bytes) (slots : List Nat) : List (Int × Int) :=
  slots.flatMap (fun i => (List.range (cxBlocks sec)).map (fun b => boundVector (Config.searchVector sec control input ((x.refBytes (2 ^ i)).getD i []) b)))

/-- The body of an ENCODE (R465 to R475): the search covers the lowest SEARCH_REFS slots of REF_MASK (R468). -/
def State.encodeBody (s : State) (id : Nat) (c : Cmd) (x : CodecStream) (ik : Nat) (o : Obj) : State :=
  let sec := s.codecSec c
  let v := c.viewOf ik o
  let key := x.isKey sec (bitOf (c.f 19 1) 0)
  let refs := if key then 0 else c.f 21 1
  let refresh := if key then x.usable else c.f 22 1
  let q := x.quantiser sec key (c.f 64 2)
  let inp := encodeInput sec o v c
  let control := leBytes 1 (b2n key) ++ leBytes 1 refs ++ leBytes 1 refresh ++ leBytes 4 (c.f 60 4) ++ leBytes 2 q
  let searched := (maskSlots refs).take (cxSearch sec)
  let mask := (searched.map (fun i => 2 ^ i)).sum
  let e := Config.codeFrame (encoderTools (cxHevc sec)) sec control inp.1 (x.vectors sec control inp.1 searched) [x.refBytes mask, x.refBytes (refs - mask)]
  let unit := packUnit sec key refresh e.1
  let bits := Config.codedBits unit
  let fails := framePoison sec o v c (c.f 17 1) ++ (if inp.2 then [(E_NONFINITE, 1)] else [])
  s.endFrame id c fails (frameResult unit.length (if key then 0 else 1) refs refresh 1 (c.f 60 4) q bits ++ unit) e.2
    [b2n key, refresh, c.f 60 4, bits, 0, 0]

/-- What a decoded unit does to a stream's slots: those it predicts from, those it refreshes, those that become empty, and 1 more than the slot it shows, or 0. -/
structure SlotUse where
  refs : Nat
  refresh : Nat
  drop : Nat
  existing : Nat
  deriving DecidableEq, Repr

/-- The slots that hold one of some picture order counts. -/
def CodecStream.holding (x : CodecStream) (pocs : List Nat) : List Nat :=
  (List.range 8).filter (fun i => (x.state.slots.getD i none).isSome && pocs.contains (x.state.slotIndex.getD i 0))

/-- Reference slots follow the bitstream (R474): AV1 refresh_frame_flags directly, on the usable slots; HEVC pictures that the reference picture set does not keep leave their slots, and the new one takes the lowest empty slot. The answer is the detail of E_BITSTREAM where the unit needs more than REF_SLOTS buffers (3) or a reference that is not there (4). -/
def CodecStream.place (x : CodecStream) (hevc : Bool) (u : CodedUnit) : Except Nat SlotUse :=
  if hevc then
    let kept := if u.kind = 0 then [] else x.holding u.kept
    let filled := (List.range 8).filter (fun i => (x.state.slots.getD i none).isSome)
    let mask := fun (l : List Nat) => (l.map (fun i => 2 ^ i)).sum
    match (List.range x.refSlots).find? (fun i => !(kept.contains i)) with
    | none => .error 3
    | some new =>
      if u.kind ≠ 0 ∧ u.used.any (fun p => (x.holding [p]).isEmpty) then .error 4
      else .ok { refs := if u.kind = 0 then 0 else mask (x.holding u.used), refresh := 2 ^ new, drop := mask (filled.filter (fun i => !(kept.contains i))), existing := 0 }
  else
    let refs := if u.kind = 2 then 2 ^ (u.existing % 8) else u.refs % 256
    if x.usable < refs then .error 3
    else if (maskSlots refs).any (fun i => (x.state.slots.getD i none).isNone) then .error 4
    else .ok { refs := if u.kind = 2 then 0 else refs, refresh := u.refresh &&& x.usable, drop := 0, existing := if u.kind = 2 then u.existing % 8 + 1 else 0 }

/-- Why a unit that keeps the syntax fails E_BITSTREAM, or what it does to the slots: an unsupported tool, the level, then the slots (R474, Table 20-7). -/
def CodecStream.judge (x : CodecStream) (sec : Bytes) (u : CodedUnit) : Except Nat SlotUse :=
  if u.tools.any (foreignTools (cxHevc sec)).contains then .error 2
  else if fld sec 2 1 < u.level then .error 3
  else x.place (cxHevc sec) u

/-- The body of a DECODE (R474, R475): the samples of a frame are the first bytes of its buffer. -/
def State.decodeBody (s : State) (id : Nat) (c : Cmd) (x : CodecStream) (ik : Nat) (o : Obj) : State :=
  let sec := s.codecSec c
  let v := c.viewOf ik o
  let unit := o.readBytes v (c.f 32 8) (c.f 40 4)
  let poison := framePoison sec o v c (c.f 17 1)
  let bufs := x.refBytes x.usable
  let bad := fun (d : Nat) => s.endFrame id c (poison ++ [(E_BITSTREAM, d)]) [] [] []
  match Config.parseUnit sec unit bufs with
  | none => bad 1
  | some u =>
    match x.judge sec u with
    | .error d => bad d
    | .ok p =>
      let content := if p.existing = 0 then Config.decodeFrame sec unit bufs else bufs.getD (p.existing - 1) []
      let out := fixLen (cxFrame sec) content
      let kind := if cxHevc sec then min u.kind 1 else min u.kind 2
      let display := u.display % 2 ^ 32
      let head := frameResult out.length kind p.refs p.refresh (b2n u.shown + 2 * b2n u.grain) display (u.qp % 2 ^ 16) (Config.codedBits unit)
      s.endFrame id c poison (head ++ out) content [b2n (decide (kind = 0)), p.refresh, display, 0, p.drop, p.existing]

/-- A frame command: it waits for its engine's turn, is judged against its stream, and runs. -/
def codecFrame (op : Nat) (body : State → Nat → Cmd → CodecStream → Nat → Obj → State) (cmd : Nat) (s : State) : State :=
  control 0x08 (fun c => cdOp c == op) (fun c s =>
    if (c.phase = .admitted ∨ c.phase = .started) ∧ s.engineTurn (c.f 17 1) cmd then
      let s1 := s.takeTurn (c.f 17 1) cmd
      match s1.cmd? cmd with
      | none => s1
      | some c1 =>
        match s1.codecState cmd c1 with
        | some (st, dt) => s1.failCmd cmd st dt
        | none =>
          match s1.stream? c1, s1.obj? c1.owner (c1.f 24 4) with
          | some x, some (k, o) => body s1 cmd c1 x k o
          | _, _ => s1
    else if c.phase = .admitted ∧ (s.stream? c).isNone then s.failCmd cmd E_CODEC_STATE 1
    else s) cmd s

/-- CODEC_ENCODE (R465). -/
def execCodecEncode (cmd : Nat) (s : State) : Host.Outcome State Fault Refusal := .next (codecFrame 1 State.encodeBody cmd s)

/-- CODEC_DECODE (R474). -/
def execCodecDecode (cmd : Nat) (s : State) : Host.Outcome State Fault Refusal := .next (codecFrame 2 State.decodeBody cmd s)

/-! ### OPEN, CLOSE, KEY_REQ -/

/-- A stream command with no engine time: it waits for the stream's earlier commands (R463). -/
def streamOp (op : Nat) (f : Cmd → State → State) (cmd : Nat) (s : State) : State :=
  control 0x08 (fun c => cdOp c == op) (fun c s =>
    if s.streamBusy cmd c then s
    else
      match s.codecBound c with
      | some (st, dt) => s.failCmd cmd st dt
      | none => (f c s).finish cmd OK 0) cmd s

/-- CODEC_OPEN (R460, R461): its admission took the stream's slot and buffers; the record follows. -/
def execCodecOpen (cmd : Nat) (s : State) : Host.Outcome State Fault Refusal :=
  .next (control 0x08 (fun c => cdOp c == 0) (fun c s =>
    if c.target.isSome then s.finish cmd OK 0
    else
      match s.codecBound c with
      | some (st, dt) => s.failCmd cmd st dt
      | none =>
        match s.openStream c with
        | .error (st, dt) => s.failCmd cmd st dt
        | .ok s1 => s1.finish cmd OK 0) cmd s)

/-- CODEC_CLOSE (R464). -/
def execCodecClose (cmd : Nat) (s : State) : Host.Outcome State Fault Refusal :=
  .next (streamOp 3 (fun c s =>
    let e := s.engineAt (c.f 17 1)
    s.setEngine (c.f 17 1) { e with streams := NMap.erase e.streams (c.f 18 1) }) cmd s)

/-- CODEC_KEY_REQ (R467). -/
def execCodecKeyReq (cmd : Nat) (s : State) : Host.Outcome State Fault Refusal :=
  .next (streamOp 4 (fun c s =>
    match s.stream? c with
    | some x => s.setStream c { x with state := { x.state with keyRequest := true } }
    | none => s) cmd s)

/-! ### Commit (R462, R463, R469) -/

/-- q after a committed non-key frame of b bits against target t (R469). -/
def nextQ (lo hi q b t : Nat) : Nat :=
  let q1 := if 5 * t < 4 * b then q + 2 else if 11 * t < 10 * b then q + 1 else if 5 * b < 3 * t then q - 2 else if 5 * b < 4 * t then q - 1 else q
  max lo (min hi q1)

/-- The state of a stream after a frame commits: the refreshed slots name its buffer, which is an unmarked one, or that of the slot it shows (R462). -/
def CodecStream.after (x : CodecStream) (sec : Bytes) (encode key : Bool) (refresh display bits drop existing : Nat) (frame : Bytes) : CodecStream :=
  let st := x.state
  let marked := st.slots.filterMap id
  let spare := ((x.buffers.filter (fun b => !(marked.contains b))).head?).getD 0
  let buf := if existing = 0 then spare else (st.slots.getD (existing - 1) none).getD spare
  let slots := st.slots.zipIdx.map (fun p => if refresh.testBit p.2 then some buf else if drop.testBit p.2 then none else p.1)
  let content := (NMap.set st.content buf frame).filter (fun e => slots.contains (some e.1))
  let st1 : CodecState :=
    { slots := slots, slotIndex := st.slotIndex.zipIdx.map (fun p => if refresh.testBit p.2 then display else p.1),
      q := if encode && cxTarget sec && !key then nextQ (fld sec 12 1) (fld sec 13 1) st.q bits (fld sec 16 4) else st.q,
      sinceKey := if key then 0 else st.sinceKey + 1, coded := true, keyRequest := if key then false else st.keyRequest,
      lastKeyIndex := if key then display else st.lastKeyIndex, lastIndex := display, content := content }
  { x with state := st1 }

/-- The codec's part of a commit. -/
def State.commitCodec (s : State) (c : Cmd) : State :=
  if c.opcode = 0x08 ∧ (cdOp c = 1 ∨ cdOp c = 2) then
    match s.stream? c, c.results with
    | some x, [[key, refresh, display, bits, drop, existing]] =>
      s.setStream c (x.after (s.codecSec c) (decide (cdOp c = 1)) (decide (key = 1)) refresh display bits drop existing c.image)
    | _, _ => s
  else s

/-! ### Admission (R480) -/

/-- Range checks of CODEC_FRAME (Table 20-6); those that need the plan or an object wait until it is known. -/
def codecRange (s : State) (owner : Nat) (p : Option Plan) (d : Bytes) : Option Nat :=
  let sec := (p.getD {}).sec 8
  let known := p.isSome
  let op := fld d 16 1
  let enc := op == 1
  let frame := op == 1 || op == 2
  let raw := known && cxRaw sec
  let flags := fld d 19 1
  let nz := fun (off n : Nat) => decide (fld d off n ≠ 0)
  let inObj := s.obj? owner (fld d 24 4)
  let outObj := s.obj? owner (fld d 44 4)
  let outBytes := match outObj with | some (_, o) => o.bytes | none => 2 ^ 65
  let badBatch := known && !raw && (match inObj with | some (_, o) => decide (o.kind = 0) && decide (o.batch ≤ fld d 28 4) | none => false)
  let t := cxDts sec
  let small := known && enc && !raw && (match inObj with
    | some (_, o) => decide (o.kind = 0) && (decide (o.rows < cxWidth sec / t * (cxHeight sec / t)) || decide (o.cols < 3 * t * t))
    | none => false)
  let past := fun (n : Nat) => match inObj with | some (_, o) => decide (o.kind = 1) && decide (o.bytes < n) | none => false
  firstBad
    [ (16, decide (4 < op)), (17, decide (7 < fld d 17 1)), (18, decide (63 < fld d 18 1)),
      (19, decide (3 < flags) || (bitOf flags 0 && !enc) || (bitOf flags 1 && op != 0)),
      (20, if op = 0 ∧ bitOf flags 1 then decide (7 < fld d 20 1) else nz 20 1),
      (21, !enc && nz 21 1), (22, (!enc && nz 22 1) || (known && enc && decide (2 ^ cxSlots sec ≤ fld d 22 1))), (23, nz 23 1),
      (24, (frame != nz 24 4) || small), (28, (!enc && nz 28 4) || (enc && badBatch)),
      (32, if op = 2 then false else if enc && raw then past (fld d 32 8 + (fld d 28 4 + 1) * cxFrame sec) else ((!enc || known) && nz 32 8)),
      (40, if op = 2 then decide (fld d 40 4 = 0) || past (fld d 32 8 + fld d 40 4) else nz 40 4),
      (44, frame != nz 44 4), (48, if frame then decide (fld d 48 8 % 64 ≠ 0) else nz 48 8),
      (56, if frame then decide (fld d 56 4 < 64) || decide (outBytes < fld d 48 8 + fld d 56 4) else nz 56 4),
      (60, !enc && nz 60 4),
      (64, if enc then known && (if cxTarget sec then nz 64 2 else decide ((if cxHevc sec then 51 else 255) < fld d 64 2)) else nz 64 2),
      (66, !(zeros d 66 128)) ]

/-- E_OBJECT_POLICY of CODEC_FRAME: a REPLICATE output (R354), kinds and formats (R471, R473, R475). -/
def State.codecPolicy (s : State) (c : Cmd) : Option (Nat × Nat) :=
  let sec := s.codecSec c
  let bad := fun (off : Nat) (p : Obj → Bool) => match s.obj? c.owner (c.f off 4) with | some (_, o) => p o | none => false
  if !(cdOp c == 1 || cdOp c == 2) then none
  else if bad 44 (fun o => o.placement == 2) then some (E_OBJECT_POLICY, 1)
  else if bad 44 (fun o => decide (o.kind ≠ 1))
      || bad 24 (fun o => if cdOp c = 2 ∨ cxRaw sec then decide (o.kind ≠ 1) else decide (o.kind ≠ 0) || !([0x07, 0x10, 0x11, 0x12].contains o.fmt)) then
    some (E_OBJECT_POLICY, 4)
  else none

end Sys2Proof.Machine
end

