-- ==== Sys2Proof/Machine/Detect.lean ====
section
/-! DEFINITION. DETECT_POST: decoding, filtering and suppression of detection boxes (R265 to R269). -/

namespace Sys2Proof.Machine

/-! ### The detection section (Table 11-3) -/

def deScoreFmt (b : Bytes) : Nat := fld b 0 1
def deAcross (b : Bytes) : Bool := fld b 1 1 == 1
def deClip (b : Bytes) : Bool := fld b 2 1 == 1
def deClasses (b : Bytes) : Nat := fld b 4 2
def deMax (b : Bytes) : Nat := fld b 6 2
def deAnchors (b : Bytes) : Nat := fld b 8 4
def deTopk (b : Bytes) : Nat := fld b 12 2
def deImages (b : Bytes) : Nat := fld b 14 2
def deF (b : Bytes) (off : Nat) : Fp := f32 (fld b off 4)
/-- Bytes of an image's region of OBJ_OUT (Table 11-5). -/
def deRegion (b : Bytes) : Nat := 64 + 32 * deMax b

/-! ### Reading rows -/

/-- Element c of row `row` of image `img` (`per` rows an image): of a tensor object, by batch index or as one run of rows; of a byte object, packed row after row (log entry 57). -/
def rowElement (o : Obj) (v : List Nat) (fmt per width img row c : Nat) : Fp :=
  if o.kind = 1 then
    let n := fmtBits fmt / 8
    codeValue fmt (o.readNat v (((img * per + row) * width + c) * n) n)
  else
    let (b, r) := if o.batch ≤ 1 then (0, img * per + row) else (img, row)
    if b < o.batch ∧ r < o.rows ∧ c < o.cols then
      let n := o.index b (r / 128) (c / 128)
      match element (o.ingot (slotIn v n) n) 0 false (r % 128) (c % 128) with | .ok x => x | .error .nibble => Fp.zero | .error _ => .nan
    else Fp.zero

/-- Whether an object is large enough for image `img` of `per` rows of `width` elements. -/
def covers (o : Obj) (fmt per width img : Nat) : Bool :=
  if o.kind = 1 then decide ((img + 1) * per * width * (fmtBits fmt / 8) ≤ o.bytes)
  else decide (width ≤ o.cols) && (if o.batch ≤ 1 then decide ((img + 1) * per ≤ o.rows) else decide (img < o.batch) && decide (per ≤ o.rows))

/-- A decoded candidate: score, anchor, class and its corners. -/
structure Box where
  score : Fp
  anchor : Nat
  cls : Nat
  x0 : Fp
  y0 : Fp
  x1 : Fp
  y1 : Fp
  deriving DecidableEq, Repr

/-- Descending score, then lower anchor, then lower class. -/
def Box.before (a b : Box) : Bool :=
  let p := a.score.rat
  let q := b.score.rat
  if p = q then (if a.anchor = b.anchor then decide (a.cls < b.cls) else decide (a.anchor < b.anchor)) else decide (q < p)

def boxIn (a : Box) : List Box → List Box
  | [] => [a]
  | b :: bs => if a.before b then a :: b :: bs else b :: boxIn a bs

/-- One axis of a decode: the two corners, clipped to 0 … lim when asked. An exponential that overflows fails the command whatever the clip (R200): the corners are then NaN. -/
def decodeAxis (sec : Bytes) (a size dc ds lim : Fp) : Fp × Fp :=
  let half := Fp.ofRat (1 / 2)
  let ctr := add32 a (mul32 (mul32 dc (deF sec 24)) size)
  let e := exp2t (mul32 ds (deF sec 28))
  let w := mul32 size e
  let lo := sub32 ctr (mul32 w half)
  let hi := add32 ctr (mul32 w half)
  let clip := fun (x : Fp) => if deClip sec then minFp (maxFp x Fp.zero) lim else x
  if e.finite then (clip lo, clip hi) else (Fp.nan, Fp.nan)

/-- Decode a candidate from its delta and anchor rows. -/
def decodeBox (sec : Bytes) (score : Fp) (anchor cls : Nat) (delta anc : Nat → Fp) : Box :=
  let x := decodeAxis sec (anc 0) (anc 2) (delta 0) (delta 2) (deF sec 32)
  let y := decodeAxis sec (anc 1) (anc 3) (delta 1) (delta 3) (deF sec 36)
  { score := score, anchor := anchor, cls := cls, x0 := x.1, y0 := y.1, x1 := x.2, y1 := y.2 }

/-- Whether a box is suppressed by a kept one: inter > rn32(iou_thresh × union) (R266). -/
def overlaps (sec : Bytes) (k b : Box) : Bool :=
  let span := fun (a0 a1 b0 b1 : Fp) => maxOrd Fp.zero (sub32 (minFp a1 b1) (maxFp a0 b0))
  let area := fun (x : Box) => mul32 (sub32 x.x1 x.x0) (sub32 x.y1 x.y0)
  let inter := mul32 (span k.x0 k.x1 b.x0 b.x1) (span k.y0 k.y1 b.y0 b.y1)
  let union := sub32 (add32 (area k) (area b)) inter
  let bound := mul32 (deF sec 20) union
  bound != .nan && inter != .nan && decide (orderKey bound < orderKey inter)

/-- The kept boxes of a group, in order. -/
def suppress (sec : Bytes) (bs : List Box) : List Box :=
  bs.foldl (fun (kept : List Box) b => if kept.any (fun k => overlaps sec k b) then kept else kept ++ [b]) []

/-- What one image gives: its region of OBJ_OUT, whether a cut flag is set, and its failures. The scores, deltas and anchors of every anchor read are judged, candidates or not (R269). -/
def detectImage (sec : Bytes) (anchors : Nat) (score : Nat → Nat → Fp) (delta anc : Nat → Nat → Fp) : Bytes × Bool × List (Nat × Nat) :=
  let pairs := (List.range anchors).flatMap (fun a => (List.range (deClasses sec)).map (fun c => (a, c, score a c)))
  let bad1 := pairs.any (fun p => !p.2.2.finite)
  let cands := pairs.filter (fun p => decide ((deF sec 16).rat ≤ p.2.2.rat))
  let bad2 := (List.range anchors).any (fun a => (List.range 4).any (fun k => !(delta a k).finite || !(anc a k).finite))
  let boxes := (cands.map (fun p => decodeBox sec p.2.2 p.1 p.2.1 (delta p.1) (anc p.1)))
  let bad3 := boxes.any (fun b => !b.x0.finite || !b.x1.finite || !b.y0.finite || !b.y1.finite)
  let fails := (if bad1 then [(E_NONFINITE, 1)] else []) ++ (if bad2 then [(E_NONFINITE, 2)] else [])
    ++ (if !bad1 && !bad2 && bad3 then [(E_NONFINITE, 0x0010)] else [])
  if !fails.isEmpty then ([], false, fails)
  else
    let order := boxes.foldl (fun acc b => boxIn b acc) []
    let groups := if deAcross sec then [order] else (List.range (deClasses sec)).map (fun c => order.filter (fun b => b.cls == c))
    let cutK := groups.any (fun g => decide (deTopk sec < g.length))
    let kept := groups.flatMap (fun g => suppress sec (g.take (deTopk sec)))
    let all := order.filter (fun b => kept.contains b)
    let out := all.take (deMax sec)
    let cutM := decide (deMax sec < all.length)
    let entry := fun (b : Box) => leBytes 4 (f32code b.x0) ++ leBytes 4 (f32code b.y0) ++ leBytes 4 (f32code b.x1) ++ leBytes 4 (f32code b.y1)
      ++ leBytes 4 (f32code b.score) ++ leBytes 4 b.anchor ++ leBytes 2 b.cls ++ List.replicate 6 0
    (fixLen (deRegion sec) (leBytes 4 out.length ++ leBytes 4 (satBits 32 cands.length) ++ leBytes 1 (b2n cutK + 2 * b2n cutM)
      ++ List.replicate 55 0 ++ (out.map entry).flatten), cutK || cutM, [])

/-! ### Admission (R267, R269) -/

/-- Range checks of DETECT_POST (Table 11-4). -/
def detectRange (p : Option Plan) (d : Bytes) : Option Nat :=
  let sec := (p.getD {}).sec 8
  let n := fun (off hi : Nat) => decide (fld d off 4 = 0) || (p.isSome && decide (hi < fld d off 4))
  firstBad
    [ (16, decide (fld d 16 4 = 0)), (20, decide (fld d 20 4 = 0)), (24, decide (fld d 24 4 = 0)), (28, decide (fld d 28 4 = 0)),
      (32, n 32 (deImages sec)), (36, n 36 (deAnchors sec)), (40, !(zeros d 40 128)) ]

/-- E_DETECT_INPUT: an object smaller than its layout, or an anchor whose width or height is not positive (R269). -/
def State.detectFail (s : State) (c : Cmd) : Option (Nat × Nat) :=
  let sec := (s.planOf c).sec 8
  match s.obj? c.owner (c.f 16 4), s.obj? c.owner (c.f 20 4), s.obj? c.owner (c.f 24 4), s.obj? c.owner (c.f 28 4) with
  | some (_, sc), some (_, de), some (ak, an), some (_, out) =>
    let img := (List.range (c.f 32 4)).find? (fun i => !(covers sc (deScoreFmt sec) (deAnchors sec) (deClasses sec) i)
      || !(covers de 0x12 (deAnchors sec) 4 i) || decide (out.bytes < (i + 1) * deRegion sec))
    match img with
    | some i => some (E_DETECT_INPUT, min i 0xFFFF)
    | none =>
      let v := c.viewOf ak an
      let bad := (List.range (deAnchors sec)).find? (fun a => !(covers an 0x12 (a + 1) 4 0)
        || (decide (a < c.f 36 4) && [2, 3].any (fun k => match rowElement an v 0x12 (deAnchors sec) 4 0 a k with
            | .fin n m => n || decide (m = 0) | .inf n => n | .nan => false)))
      bad.map (fun a => (E_DETECT_INPUT, min a 0xFFFF))
  | _, _, _, _ => none

/-- E_OBJECT_POLICY of DETECT_POST: a REPLICATE output (R354), an output that is no byte object, inputs in another format. -/
def State.detectPolicy (s : State) (c : Cmd) : Option (Nat × Nat) :=
  let sec := (s.planOf c).sec 8
  let bad := fun (off : Nat) (p : Obj → Bool) => match s.obj? c.owner (c.f off 4) with | some (_, o) => p o | none => false
  let fmt := fun (off f : Nat) => bad off (fun o => decide (o.kind = 0) && decide (o.fmt ≠ f))
  if bad 28 (fun o => o.placement == 2) then some (E_OBJECT_POLICY, 1)
  else if bad 28 (fun o => decide (o.kind ≠ 1)) || fmt 16 (deScoreFmt sec) || fmt 20 0x12 || fmt 24 0x12 then some (E_OBJECT_POLICY, 4)
  else none

/-- A die's pixel engine handles images of a command, one a turn, while it chooses the command at each boundary (R476). -/
def State.serveDie (cmd d : Nat) : Nat → State → State
  | 0, s => s
  | fuel + 1, s =>
    match s.cmd? cmd with
    | some c =>
      if (c.phase = .admitted ∨ c.phase = .started) ∧ s.engineTurn d cmd then
        match (c.dieImages d).find? (fun i => !(c.run.done.contains i)) with
        | some i =>
          let s1 := (s.takeTurn d cmd).setRun cmd (fun r => { r with done := r.done ++ [i] })
          State.serveDie cmd d fuel (s1.setEngine d { s1.engineAt d with current := none })
        | none => s
      else s
    | none => s

/-- The images whose pixel engine gives the command its turn are handled (R476). -/
def State.serveImages (s : State) (cmd : Nat) : State :=
  (List.range 8).foldl (fun (a : State) d =>
    match a.cmd? cmd with
    | some c => State.serveDie cmd d (c.dieImages d).length a
    | none => a) s

/-- DETECT_POST (R266, R268, R476): once every die's pixel engine has handled its images, each image's region goes to the inactive version of OBJ_OUT. -/
def execDetectPost (cmd : Nat) (s : State) : Host.Outcome State Fault Refusal :=
  .next (control 0x09 (fun _ => true) (fun _ s0 =>
    let s := s0.serveImages cmd
    match s.cmd? cmd with
    | none => s
    | some c =>
      if c.phase ≠ .started ∨ (List.range 8).any (fun d => s.hasItem d c) then s
      else
        let sec := (s.planOf c).sec 8
        match s.obj? c.owner (c.f 16 4), s.obj? c.owner (c.f 20 4), s.obj? c.owner (c.f 24 4), s.obj? c.owner (c.f 28 4) with
        | some (sk, sc), some (dk, de), some (ak, an), some (ok, _) =>
          let vs := c.viewOf sk sc
          let vd := c.viewOf dk de
          let va := c.viewOf ak an
          let per := deAnchors sec
          let act := c.f 36 4
          let images := (List.range 8).flatMap (fun d => (c.dieImages d).map (fun i => (i, d)))
          let fails := images.flatMap (fun (q : Nat × Nat) =>
            rowFails sc vs (deScoreFmt sec) per (deClasses sec) q.1 act q.2 ++ rowFails de vd 0x12 per 4 q.1 act q.2 ++ rowFails an va 0x12 per 4 0 act q.2)
          let reads := (images.flatMap (fun (q : Nat × Nat) =>
            (rowIngots sc per (deClasses sec) q.1 act).map (fun n => (q.2, sk, n)) ++ (rowIngots de per 4 q.1 act).map (fun n => (q.2, dk, n))
              ++ (rowIngots an per 4 0 act).map (fun n => (q.2, ak, n)))).eraseDups
          let fetched := reads.foldl (fun (a : State) q => a.fetchOne c q.1 q.2) s
          let res := (List.range (c.f 32 4)).map (fun i => detectImage sec (c.f 36 4)
            (fun a k => rowElement sc vs (deScoreFmt sec) (deAnchors sec) (deClasses sec) i a k)
            (fun a k => rowElement de vd 0x12 (deAnchors sec) 4 i a k)
            (fun a k => rowElement an va 0x12 (deAnchors sec) 4 0 a k))
          match pickFail runOrder (fails ++ (res.map (fun r => r.2.2)).flatten) with
          | some (st, dt) => fetched.toReady cmd (fun x => { x with status := st, detail := dt })
          | none =>
            let s1 := res.zipIdx.foldl (fun (a : State) (r : (Bytes × Bool × List (Nat × Nat)) × Nat) => a.putObj cmd ok (r.2 * deRegion sec) r.1.1) fetched
            s1.toReady cmd (fun x => { x with status := OK, detail := min (res.countP (fun r => r.2.1)) 0xFFFF })
        | _, _, _, _ => s) cmd s)

end Sys2Proof.Machine
end

