-- ==== Sys2Proof/Machine/Keys.lean ====
section
/-! DEFINITION. The image slots of the flash as the record in use gives them (R483, R484), the keys of a boot and its certificates (R490, R491), HKDF over SHAKE256 (R499), and the keys and nonces of a link session (R503, R504). -/

namespace Sys2Proof.Machine

/-- Whether the ROM uses copy B of the boot control record: of the copies whose check passes, the one with the higher SEQ (R483). -/
def Flash.usesB (f : Flash) : Bool := f.copyB.ok && (!f.copyA.ok || decide (f.copyA.seqNo < f.copyB.seqNo))

/-- The boot control record in use; with no copy whose check passes, both slots are EMPTY. -/
def Flash.record (f : Flash) : BootRecord := if f.usesB then f.copyB else if f.copyA.ok then f.copyA else {}

/-- A slot by name: `false` A, `true` B. -/
def Flash.slot (f : Flash) (b : Bool) : HimonSlot :=
  let c := if b then f.record.b else f.record.a
  let i := if b then f.imageB else f.imageA
  { state := c.state, tried := c.tried, fails := c.fails, svn := i.svn, version := i.version, verifies := i.verifies, image := i.image }

/-- An update of a slot: the boot control record goes to the copy that is not in use, which has the lower SEQ, with SEQ + 1 of the other copy (R483). -/
def Flash.putSlot (f : Flash) (b : Bool) (x : HimonSlot) : Flash :=
  let c : SlotCtl := { state := x.state, tried := x.tried, fails := x.fails }
  let i : HimonImage := { svn := x.svn, version := x.version, verifies := x.verifies, image := x.image }
  let r := f.record
  let r1 : BootRecord := { seqNo := r.seqNo + 1, ok := true, a := if b then r.a else c, b := if b then c else r.b }
  let g := if f.usesB then { f with copyA := r1 } else { f with copyB := r1 }
  if b then { g with imageB := i } else { g with imageA := i }

/-- The running slot; none in recovery. -/
def State.runningSlot (s : State) : HimonSlot := match s.sec.running with | some b => s.flash.slot b | none => {}

/-- The digest of a Himon image, header and payload (R490, Table 21-5). -/
def HimonSlot.digest (x : HimonSlot) : Bytes := fixLen 64 (Config.sha3 (Mem.readRange x.image 0 (256 + Mem.nat x.image 16 4)))

/-- The inputs of the boot's derived keys: the digest of the running image, its SVN, the debug state (R490). -/
def State.bootKey (s : State) : Bytes × Nat × Bool := ((s.runningSlot).digest, (s.runningSlot).svn, s.sec.unlocked)

/-- The part's certificates in the order of R491: product CA, device, alias. The root certificate is held by the verifier alone, and the alias certificate exists once the ROM has signed it. -/
def State.certChain (s : State) : Option (List Bytes) := s.sec.aliasCert.map (fun a => [s.flash.productCa, s.flash.deviceCert, a])

/-- A key padded to the 136-byte block of HMAC, combined with a pad byte. -/
def padKey (key : Bytes) (pad : Byte) : Bytes := (fixLen 136 (if 136 < key.length then Config.shake256 64 key else key)).map (fun b => b ^^^ pad)

/-- HMAC over SHAKE256 with a 136-byte block and 64-byte output (R499). -/
def hmac (key msg : Bytes) : Bytes := Config.shake256 64 (padKey key 0x5C ++ Config.shake256 64 (padKey key 0x36 ++ msg))

/-- The blocks of HKDF's expansion after the block `prev`, numbered from `i`. -/
def hkdfBlocks (prk info : Bytes) : Nat → Nat → Bytes → Bytes
  | 0, _, _ => []
  | n + 1, i, prev =>
    let t := hmac prk (prev ++ info ++ leBytes 1 i)
    t ++ hkdfBlocks prk info n (i + 1) t

/-- `n` bytes of HKDF (RFC 5869) of a secret, with a salt of 64 zero bytes (R499). -/
def hkdf (n : Nat) (secret info : Bytes) : Bytes := fixLen n (hkdfBlocks (hmac (List.replicate 64 0) secret) info (ceilDiv n 64) 1 [])

/-- The keys of a link session, from the lower PART_ID and from the higher (R503). That the first 32 bytes of the output are the lower one's is DEDUCED (log entry 112). -/
def sessionKeys (secret : Bytes) (a b : Nat) : Bytes × Bytes :=
  let okm := hkdf 64 secret (leBytes 1 0x58 ++ leBytes 1 0x4C ++ leBytes 2 (min a b) ++ leBytes 2 (max a b))
  (okm.take 32, okm.drop 32)

/-- The nonce of message `n` of a direction: 0 from the lower PART_ID, 1 from the higher, then the count (R504). -/
def linkNonce (dir n : Nat) : Bytes := leBytes 4 dir ++ leBytes 8 n

/-- The direction of the messages that part `a` sends to part `b`. -/
def linkDir (a b : Nat) : Nat := if a < b then 0 else 1

/-- The key of a direction. -/
def Link.dirKey (x : Link) (dir : Nat) : Bytes := if dir = 0 then x.keys.1 else x.keys.2

end Sys2Proof.Machine
end

