-- ==== Sys2Proof/Machine/Links.lean ====
section
/-! DEFINITION. External links: frames, credits and replay (R391 to R394), weights and rounds (R395), training, HELLO and link-down (R397), encrypted sessions (R503, R504), link tests (R548), messages (R398), groups and forwarding (R399 to R401). -/

namespace Sys2Proof.Machine

/-! ### Messages as bytes (Tables 17-6 and 17-7) -/

/-- The virtual channel of a message type, if the type is known. -/
def vcOf (type : Nat) : Option Nat :=
  if type = 0x01 ∨ type = 0x02 ∨ type = 0x03 ∨ type = 0x06 ∨ type = 0x07 ∨ type = 0x10 ∨ type = 0x12 ∨ type = 0x13 then some 0
  else if type = 0x04 ∨ type = 0x05 then some 1
  else if 0x20 ≤ type ∧ type ≤ 0x25 then some 2
  else if type = 0x11 then some 3
  else none

/-- The bytes of a message: header and payload. -/
def msgBytes (m : Msg) : Bytes :=
  leBytes 1 m.type ++ leBytes 1 (b2n m.final) ++ leBytes 2 m.group ++ leBytes 4 m.opSeq ++ leBytes 2 m.attempt ++ leBytes 1 m.srcRank
    ++ leBytes 1 m.dstRank ++ leBytes 4 m.segment ++ leBytes 4 m.payload.length ++ leBytes 1 m.source ++ leBytes 3 0 ++ leBytes 8 m.aux ++ m.payload

/-- The message whose header begins a run of bytes. -/
def msgOf (b : Bytes) : Msg :=
  { type := fld b 0 1, final := bitOf (fld b 1 1) 0, group := fld b 2 2, opSeq := fld b 4 4, attempt := fld b 8 2, srcRank := fld b 10 1,
    dstRank := fld b 11 1, segment := fld b 12 4, length := fld b 16 4, source := fld b 20 1, aux := fld b 24 8, payload := (b.drop 32).take (fld b 16 4) }

/-- One bit of the CRC-16 of Table 17-2: polynomial 0x1021. -/
def crcBit (crc : Nat) : Nat := if 0x8000 ≤ crc then Nat.xor (crc * 2 % 65536) 0x1021 else crc * 2

/-- CRC-16 with initial value 0xFFFF. -/
def crc16 (b : Bytes) : Nat := b.foldl (fun crc x => (List.range 8).foldl (fun c _ => crcBit c) (Nat.xor crc (x.toNat * 256))) 0xFFFF

/-- The 232 bytes of a frame on the wire (Table 17-2, R393). -/
def LinkFrame.bytes (f : LinkFrame) : Bytes :=
  let head := f.vc + (if f.control then 4 else 0) + f.seqNo * 16
  let body := if f.control then
      f.credits.flatMap (leBytes 2) ++ leBytes 2 (f.ack + if f.nak then 32768 else 0)
    else f.payload
  let b := leBytes 2 head ++ fixLen 228 body
  b ++ leBytes 2 (crc16 b)

/-! ### The transmitter -/

/-- Whether messages other than HELLO may cross: an enabled link has its session keys (R503). -/
def Link.session (x : Link) : Bool := !x.secEnable || x.secActive

/-- Whether frames cross the link. -/
def Link.flows (x : Link) : Bool := x.trained && !x.retraining && !x.down && decide (x.testMode = 0)

/-- UP of Table 24-7: trained, and HELLO received. -/
def Link.up (x : Link) : Bool := x.trained && x.helloSeen && !x.down

/-- Queue a message's bytes on its VC, sealed in an encrypted session (R504). -/
def Link.queueMsg (own : Nat) (x : Link) (m : Msg) : Link :=
  let vc := (vcOf m.type).getD 0
  let n := x.sessionMsgs.getD 0 0
  let dir := linkDir own x.peerPart
  let b := if x.secActive then Config.gcmSeal (x.dirKey dir) (linkNonce dir n) (msgBytes m) else msgBytes m
  { x with tx := x.tx.modify vc (fun t => t ++ b), sessionMsgs := x.sessionMsgs.set 0 (n + 1) }

/-- Send the next data frame of a VC: it takes a SEQ, a credit and a place in the replay buffer of 2,048 frames (R393, R394). -/
def Link.sendData (l : Nat) (x : Link) (vc : Nat) : Option (Link × LinkFrame) :=
  let t := x.tx.getD vc []
  if t.isEmpty ∨ x.credits.getD vc 0 = 0 ∨ 2048 ≤ (x.replay.filter (fun f => !f.control)).length then none
  else
    let f : LinkFrame := { link := l, control := false, vc := vc, seqNo := x.txSeq, payload := fixLen 228 t }
    some ({ x with tx := x.tx.set vc (t.drop 228), txSeq := (x.txSeq + 1) % 4096, replay := x.replay ++ [f],
                   credits := x.credits.modify vc (· - 1) }, f)

/-- Send up to `n` data frames of a VC. -/
def Link.serveVc (l vc : Nat) : Nat → Link × List LinkFrame → Link × List LinkFrame
  | 0, p => p
  | n + 1, p =>
    match p.1.sendData l vc with
    | some q => Link.serveVc l vc n (q.1, p.2 ++ [q.2])
    | none => p

/-- One round of the deficit round-robin, starting with CTL, by the weights written before the round (R395). -/
def Link.round (l : Nat) (x : Link) : Link × List LinkFrame :=
  let x1 := { x with weights := x.nextWeights }
  (List.range 4).foldl (fun p vc => Link.serveVc l vc (max 1 (x1.weights.getD vc 0)) p) (x1, [])

/-- Send a control frame of a link: it returns the credits of freed buffers and acknowledges (R393). -/
def State.sendControl (s : State) (l : Nat) (nak : Bool) : State :=
  let x := s.linkAt l
  let f : LinkFrame := { link := l, control := true, seqNo := x.txSeq, credits := x.freed, ack := x.lastGood, nak := nak }
  { s.setLink l { x with txSeq := (x.txSeq + 1) % 4096, freed := [0, 0, 0, 0], accepted := 0, lastControl := s.counter l, replay := x.replay ++ [f] } with
    frameOut := s.frameOut ++ [f] }

/-- Send a message for a partition: the data frames it takes on COLL, RELAY or BULK are metered at the link (R455); CTL is not. -/
def State.sendLinkFor (s : State) (part l : Nat) (m : Msg) : State :=
  match vcOf m.type with
  | some vc => if vc = 0 then s.sendLink l m else (s.request (linkQueue l vc) part (232 * ceilDiv (32 + m.payload.length) 228)).sendLink l m
  | none => s.sendLink l m

/-- Whether a queued message may be framed now: HELLO always, others in a session. -/
def State.mayFrame (s : State) (l : Nat) (m : Msg) : Bool := (s.linkAt l).flows && (decide (m.type = 0x01) || (s.linkAt l).session)

/-- One round of one link: queued messages join their VC's stream, and frames leave. A test that runs counts its bit errors (R548). -/
def State.linkRound (s : State) (l : Nat) : State :=
  let x := s.linkAt l
  if x.testRun ∧ x.testMode ≠ 0 then
    s.takeFresh.setLink l { x with testErrors := BitVec.ofNat 16 (min (x.testErrors.toNat + Config.measured s.fresh 2) 0xFFFF) }
  else if !x.flows then s
  else
    let mine := s.linkOut.filter (fun p => p.1 == l && s.mayFrame l p.2)
    let rest := s.linkOut.filter (fun p => !(p.1 == l && s.mayFrame l p.2))
    let r := (mine.foldl (fun y p => y.queueMsg s.partId p.2) x).round l
    { s.setLink l r.1 with linkOut := rest, frameOut := s.frameOut ++ r.2 }

/-- What passes in one tick with nothing commanded: a tick of every die and one round of every link. -/
def State.idle (s : State) : State :=
  if !s.pins.aux || s.pins.pkgRst then s
  else if s.serving && decide (s.power.pk ≤ 1) then (List.range 8).foldl State.linkRound s.tick
  else s.tick

/-! ### Link down (R397) -/

/-- The lowest link that a command needs and that is down. -/
def State.downLink (s : State) (c : Cmd) : Option Nat :=
  (List.range 8).find? (fun l => (s.linksOf c).contains l && (s.linkAt l).down)

/-- End a link's session (R504). -/
def Link.endSession (x : Link) : Link := { x with secActive := false, sessionMsgs := [0, 0], tagFails := 0, keys := ([], []) }

/-- A link with nothing in flight, as before its first training. -/
def Link.fresh (x : Link) : Link :=
  { x.endSession with trained := false, helloSeen := false, retraining := false, txSeq := 0, rxExpect := 0, lastGood := 4095, acked := 4095,
                      tx := [[], [], [], []], replay := [], replayFails := 0, credits := [512, 512, 512, 512], freed := [0, 0, 0, 0], accepted := 0,
                      rx := [[], [], [], []], badCodewords := 0, waitingReady := [], relayReady := [] }

/-- Mark a link down: its streams are lost, a LINK_DOWN record is raised, and every uncommitted command that needs it fails (R397). -/
def State.markDown (s : State) (l : Nat) : State :=
  let s1 := s.setLink l { (s.linkAt l).fresh with down := true, retrainAt := s.counter l }
  let s2 := s1.report { origin := originId l 0x09 0, cls := 0x05, reporter := originId l 0x09 0, status := E_LINK_DOWN, detail := l }
  let s3 := (s2.cmds.filter (fun c => c.2.uncommitted && (s2.linksOf c.2).contains l)).foldl (fun a c => a.failCmd c.1 E_LINK_DOWN l) s2
  { s3 with linkOut := s3.linkOut.filter (fun p => p.1 != l) }

/-- Begin a retrain (R393, R397). -/
def State.startRetrain (s : State) (l : Nat) : State :=
  let x := s.linkAt l
  s.setLink l { x with retraining := true, retrainAt := s.counter l, replayFails := 0, badCodewords := 0,
                       retrains := if x.retrains = BitVec.allOnes 32 then x.retrains else x.retrains + 1 }

/-- HELLO of this part on a link (R397). -/
def State.sendHello (s : State) (l : Nat) : State :=
  s.sendLink l { type := 0x01, length := 3, payload := leBytes 2 s.partId ++ leBytes 1 l }

/-! ### The receiver (R393) -/

/-- Take a frame by its SEQ: `none` where it is discarded. -/
def Link.takeSeq (x : Link) (seqNo : Nat) (ok : Bool) : Option Link :=
  if ok ∧ seqNo = x.rxExpect then some { x with rxExpect := (seqNo + 1) % 4096, lastGood := seqNo, badCodewords := 0 } else none

/-- Discard a frame and answer with a NAK that names the last good SEQ. -/
def State.refuseFrame (s : State) (l : Nat) (crcOk : Bool) : State :=
  (s.setLink l { s.linkAt l with badCodewords := if crcOk then 0 else (s.linkAt l).badCodewords }).sendControl l true

/-- Cut the complete messages off a VC's stream: the messages, what is left, and whether a tag failed. A zero byte where a header would begin is padding to the end of the frame (R392), in an encrypted session too (DEDUCED, log entry 112). -/
def cutMsgs (own : Nat) (x : Link) : Nat → Nat → Bytes → List Msg × Bytes × Bool
  | 0, _, b => ([], b, false)
  | fuel + 1, n, b =>
    if b.isEmpty ∨ fld b 0 1 = 0 then ([], [], false)
    else
      let dir := linkDir x.peerPart own
      let p := if x.secActive then Config.gcmPlain (x.dirKey dir) (linkNonce dir n) b else b
      let body := 32 + fld p 16 4
      let len := body + (if x.secActive then 16 else 0)
      if b.length < 32 ∨ b.length < len then ([], b, false)
      else
        match (if x.secActive then Config.gcmOpen (x.dirKey dir) (linkNonce dir n) [] (b.take body) ((b.drop body).take 16) else some b) with
        | none => ([], b, true)
        | some m =>
          let r := cutMsgs own x fuel (n + 1) (b.drop len)
          (msgOf m :: r.1, r.2)

/-- Accept the payload of a data frame that is in order. On an enabled link no message but HELLO is taken before the session has its keys (R503). -/
def State.acceptData (s : State) (l vc : Nat) (x : Link) (payload : Bytes) : State :=
  let n := x.sessionMsgs.getD 1 0
  let r := cutMsgs s.partId x ((x.rx.getD vc []).length / 32 + 9) n (x.rx.getD vc [] ++ fixLen 228 payload)
  if r.2.2 then
    let old := s.linkAt l
    if 8 ≤ old.tagFails + 1 then s.markDown l
    else (s.setLink l { old with tagFails := old.tagFails + 1 }).refuseFrame l true
  else
    let x1 := { x with rx := x.rx.set vc r.2.1, freed := x.freed.modify vc (· + 1), accepted := x.accepted + 1,
                       sessionMsgs := x.sessionMsgs.set 1 (n + r.1.length), tagFails := if r.1.isEmpty then x.tagFails else 0 }
    let s1 := { s.setLink l x1 with linkIn := s.linkIn ++ (r.1.filter (fun m => x1.session || m.type == 0x01)).map (fun m => (l, vc, m)) }
    if 64 ≤ x1.accepted then s1.sendControl l false else s1

/-- LINK_DATA_FRAME (R393, R394): accepted in SEQ order, or discarded with a NAK. The frame buffer is freed as its bytes join the stream. -/
def execLinkDataFrame (link vc seqNo : Nat) (crcOk : Bool) (payload : Bytes) (s : State) : Host.Outcome State Fault Refusal :=
  let x := s.linkAt link
  if !(x.flows && decide (link < 8) && decide (vc < 4)) then .next s
  else
    match x.takeSeq seqNo crcOk with
    | some y => .next (s.acceptData link vc y payload)
    | none => .next (s.refuseFrame link crcOk)

/-- Drop acknowledged frames from the replay buffer: everything through the acknowledged SEQ. -/
def ackFrames (ack : Nat) (fs : List LinkFrame) : List LinkFrame :=
  match fs.findIdx? (fun f => f.seqNo == ack) with
  | some i => fs.drop (i + 1)
  | none => fs

/-- Take the credits and the acknowledgement of a control frame (R393, R394). -/
def Link.takeControl (x : Link) (credits : List Nat) (ack : Nat) : Link :=
  let c := x.credits.zipIdx.map (fun e => e.1 + credits.getD e.2 0 % 65536)
  { x with credits := c, acked := ack % 4096, replay := ackFrames (ack % 4096) x.replay,
           replayFails := if ack % 4096 = x.acked then x.replayFails else 0 }

/-- LINK_CONTROL_FRAME (R393): credits return and frames are acknowledged. -/
def execLinkControlFrame (link seqNo : Nat) (crcOk : Bool) (credits : List Nat) (ack : Nat) (s : State) : Host.Outcome State Fault Refusal :=
  let x := s.linkAt link
  if !(x.flows && decide (link < 8)) then .next s
  else
    match x.takeSeq seqNo crcOk with
    | some y => .next (s.setLink link (y.takeControl credits ack))
    | none => .next (s.refuseFrame link crcOk)

/-- LINK_NAK (R393): every frame after the named SEQ is sent again; a replay that fails 8 times in a row retrains the link. `replayFails` counts the replays of the frame, the outstanding one included. -/
def execLinkNak (link seqNo : Nat) (credits : List Nat) (ack : Nat) (s : State) : Host.Outcome State Fault Refusal :=
  let x := s.linkAt link
  if !(x.flows && decide (link < 8)) then .next s
  else
    match x.takeSeq seqNo true with
    | none => .next (s.refuseFrame link true)
    | some y =>
      let z := y.takeControl credits ack
      if 8 ≤ z.replayFails then .next ((s.setLink link z).startRetrain link)
      else .next { s.setLink link { z with replayFails := z.replayFails + 1 } with frameOut := s.frameOut ++ z.replay }

/-- LINK_CONTROL_TIMER (R393): 500 ns after the last control frame, accepted frames are acknowledged. -/
def execLinkControlTimer (link : Nat) (t : Word) (s : State) : Host.Outcome State Fault Refusal :=
  let s1 := s.reach link t
  let x := s1.linkAt link
  if x.flows && decide (link < 8) && decide (0 < x.accepted) && decide (50 ≤ (s1.counter link - x.lastControl).toNat) then .next (s1.sendControl link false)
  else .next s1

/-- UNCORRECTABLE_CODEWORD (R391, R393): the frames it overlaps are lost; ten in a row retrain the link. A codeword lasts 5,440 bits at 637.5 Gb/s (Table 17-1), less than a tick of the die counter, so two that are more than one tick apart have a good one between them (DEDUCED, log entry 110). -/
def execUncorrectableCodeword (link : Nat) (s : State) : Host.Outcome State Fault Refusal :=
  let x := s.linkAt link
  if !(x.flows && decide (link < 8)) then .next s
  else
    let u := if x.fecUncorrectable = BitVec.allOnes 32 then x.fecUncorrectable else x.fecUncorrectable + 1
    let now := s.counter link
    let n := if 1 < (now - x.badAt).toNat then 1 else x.badCodewords + 1
    let s1 := s.setLink link { x with fecUncorrectable := u, badCodewords := n, badAt := now }
    if 10 ≤ n then .next (s1.startRetrain link) else .next s1

/-! ### Training and HELLO (R397) -/

/-- LINK_RETRAIN_DONE (R397): a retrain keeps the replay buffer and sends every unacknowledged frame again; a first training, or one after a test, ends with HELLO. -/
def execLinkRetrainDone (link : Nat) (s : State) : Host.Outcome State Fault Refusal :=
  let x := s.linkAt link
  if !(x.retraining && decide (link < 8) && decide (x.testMode = 0)) then .next s
  else if x.trained then
    .next { s.setLink link { x with retraining := false } with frameOut := s.frameOut ++ x.replay }
  else .next ((s.setLink link { x with retraining := false, trained := true, down := false }).sendHello link)

/-- LINK_RETRAIN_TIMEOUT (R397): 10 ms without success mark the link down. -/
def execLinkRetrainTimeout (link : Nat) (t : Word) (s : State) : Host.Outcome State Fault Refusal :=
  let s1 := s.reach link t
  let x := s1.linkAt link
  if x.retraining && decide (link < 8) && decide (1000000 ≤ (s1.counter link - x.retrainAt).toNat) then .next (s1.markDown link) else .next s1

/-- LINK_TRAINING_RETRY (R397): 1 s after the last try, a down link trains again. -/
def execLinkTrainingRetry (link : Nat) (ok : Bool) (t : Word) (s : State) : Host.Outcome State Fault Refusal :=
  let s1 := s.reach link t
  let x := s1.linkAt link
  if x.down && decide (link < 8) && !x.retraining && decide (x.testMode = 0) && decide (100000000 ≤ (s1.counter link - x.retrainAt).toNat) then
    let s2 := s1.setLink link { x with retrainAt := s1.counter link, trained := ok, down := !ok }
    .next (if ok then s2.sendHello link else s2)
  else .next s1

/-- Remove a delivered message from the reassembled ones, if frames brought it. -/
def State.deliver (s : State) (link : Nat) (m : Msg) : State :=
  { s with linkIn := s.linkIn.eraseP (fun e => e.1 == link && e.2.2 == m) }

/-- The start of an encrypted session: the part sends its ephemeral key, signed by its alias key, and its chain (R503). -/
def State.sendKey (s : State) (l : Nat) : State :=
  if (s.linkAt l).secEnable ∧ !(s.linkAt l).secActive then
    let e := Config.linkEphemeral s.fresh
    let k := s.bootKey
    { s.takeFresh with keyOut := s.keyOut ++ [{ link := l, ephemeral := e, signature := fixLen 114 (Config.aliasSign k.1 k.2.1 k.2.2 e), chain := s.certChain.getD [] }] }
  else s

/-- HELLO (R397): the peer's PART_ID and link number; on an enabled link the exchange of keys follows it (R503). -/
def execHello (link : Nat) (m : Msg) (s : State) : Host.Outcome State Fault Refusal :=
  let s1 := s.deliver link m
  let x := s1.linkAt link
  if x.flows && decide (link < 8) && decide (m.type = 0x01) then
    .next ((s1.setLink link { x with helloSeen := true, everHello := true, peerPart := fld m.payload 0 2, peerLink := fld m.payload 2 1 % 8 }).sendKey link)
  else .next s1

/-- Write of PART_ID (R553): ignored and recorded while a group is set or a MODEL_LOAD that names a link is admitted; otherwise HELLO goes out on every link that is up. -/
def execPartIdWrite (value : Nat) (s : State) : Host.Outcome State Fault Refusal :=
  if !s.barAll then .next s
  else if !s.groups.isEmpty || s.cmds.any (fun c => decide (c.2.opcode = 0x49) && decide (c.2.f 16 1 = 0) && (decide (c.2.f 17 1 = 1) || decide (c.2.f 19 1 ≠ 0xFF))) then
    .next (s.protocolHs 0x1000)
  else
    let s1 := { s with partId := value % 65536 }
    .next (((List.range 8).filter (fun l => (s1.linkAt l).up)).foldl (fun a l => a.sendHello l) s1)

/-! ### Link registers -/

/-- Write of XLINK_VC_WEIGHT (R395): the weights of the next round. -/
def execXlinkVcWeightWrite (link value : Nat) (s : State) : Host.Outcome State Fault Refusal :=
  if s.barAll && decide (link < 8) then
    .next (s.setLink link { s.linkAt link with nextWeights := (List.range 4).map (fun v => value / 256 ^ v % 256) })
  else .next s

/-- Write of XLINK_SEC (R503, R504): ENABLE and MIN_PEER_SVN; the session ends. -/
def execXlinkSecWrite (link value : Nat) (s : State) : Host.Outcome State Fault Refusal :=
  if s.barAll && decide (link < 8) then
    .next (s.setLink link { (s.linkAt link).endSession with secEnable := value.testBit 31, minPeerSvn := value % 256 })
  else .next s

/-- Write of XLINK_TEST (R548): a mode takes the link down, MODE 0 after one lets it retrain, RUN clears ERRORS. The lanes' lock is measured (log entry 6). -/
def execXlinkTestWrite (link value : Nat) (s : State) : Host.Outcome State Fault Refusal :=
  if s.barAll && decide (link < 8) then
    let x := s.linkAt link
    let mode := bitsOf value 30 28
    let run := value.testBit 31
    let s0 := if mode ≠ 0 ∧ x.testMode = 0 then s.markDown link else s
    let y := s0.linkAt link
    let s1 := s0.takeFresh.setLink link
      { y with testMode := mode, testRun := run, testErrors := if run then 0 else y.testErrors,
               testLock := if run ∧ mode ≠ 0 then Config.measured s0.fresh 1 % 8 else 0 }
    .next (if mode = 0 ∧ x.testMode ≠ 0 then s1.startRetrain link else s1)
  else .next s

/-- Why a session cannot be established: FAIL of Table 21-10. -/
def sessionFail (x : Link) (peerEnabled chainOk : Bool) (peerSvn : Nat) (peerUnlocked : Bool) : Option Nat :=
  if !x.secEnable then (if peerEnabled then some 0 else none)
  else if !peerEnabled then some 1
  else if !chainOk then some 2
  else if peerSvn < x.minPeerSvn then some 3
  else if peerUnlocked then some 4
  else none

/-- LINK_KEY_EXCHANGE (R503, R504): the peer's key and chain are checked; a session that cannot be established marks the link down, with FAIL giving the cause. One key per direction is derived by R499's HKDF. -/
def execLinkKeyExchange (link : Nat) (peerEnabled chainOk : Bool) (peerSvn : Nat) (peerUnlocked : Bool) (s : State) : Host.Outcome State Fault Refusal :=
  let x := s.linkAt link
  if !(x.flows && decide (link < 8)) || x.secActive then .next s
  else
    match sessionFail x peerEnabled chainOk peerSvn peerUnlocked with
    | some f => .next ((s.setLink link { x with secFail := f, peerSvn := peerSvn % 256 }).markDown link)
    | none =>
      if x.secEnable then
        .next (s.takeFresh.setLink link { x with secActive := true, secFail := 0, peerSvn := peerSvn % 256, sessionMsgs := [0, 0], tagFails := 0,
                                                 keys := sessionKeys (Config.linkShared s.fresh) s.partId x.peerPart })
      else .next s

/-- LINK_SESSION_LIMIT (R504): a session ends after 2^48 messages in one direction. -/
def execLinkSessionLimit (link : Nat) (s : State) : Host.Outcome State Fault Refusal :=
  let x := s.linkAt link
  if x.secActive && x.sessionMsgs.any (fun n => decide (2 ^ 48 ≤ n)) then .next (s.setLink link x.endSession) else .next s

/-! ### Forwarding and dropping (R398, R401) -/

/-- The group entry that serves a collective message, if there is one. -/
def State.groupOf (s : State) (m : Msg) : Option Group := NMap.get? s.groups m.group

/-- Whether a message type is a collective's (Table 17-7). -/
def collType (t : Nat) : Bool := decide (2 ≤ t) && decide (t ≤ 7)

/-- Record a dropped message once: origin LC, instance 0x01 of the link's die. -/
def State.dropMsg (s : State) (link type : Nat) : State :=
  s.report { origin := originId link 0x09 1, cls := 0x0B, reporter := originId link 0x09 1, info := type }

/-- The link a message for another rank leaves on; `none` when no entry routes it. -/
def State.routeOf (s : State) (m : Msg) : Option Nat :=
  match s.groupOf m with
  | some g => (g.members[m.dstRank]?).bind (fun e => if e.2 < 8 then some e.2 else none)
  | none => none

/-- MESSAGE_FORWARD (R401): a collective message for another rank leaves on this part's link for that rank, its header unchanged; without an entry it is dropped. -/
def execMessageForward (link : Nat) (m : Msg) (s : State) : Host.Outcome State Fault Refusal :=
  let s1 := s.deliver link m
  if !((s1.linkAt link).flows && decide (link < 8) && collType m.type) then .next s1
  else
    match s1.groupOf m with
    | none => .next (s1.dropMsg link m.type)
    | some g =>
      if m.dstRank = g.rank then .next s1
      else
        match s1.routeOf m with
        | some out => .next (s1.sendLinkFor g.part out m)
        | none => .next (s1.dropMsg link m.type)

/-- MESSAGE_DROP (R398, R401): an unknown type, the wrong VC, or a collective message without a group entry is dropped and recorded once. -/
def execMessageDrop (link vc : Nat) (m : Msg) (s : State) : Host.Outcome State Fault Refusal :=
  let s1 := s.deliver link m
  let bad := decide (vcOf m.type ≠ some vc) || (collType m.type && (s1.groupOf m).isNone)
  if (s1.linkAt link).flows && decide (link < 8) && bad then .next (s1.dropMsg link m.type) else .next s1

/-! ### GROUP_SET (R399, R400) -/

/-- Range checks of GROUP_SET (Table 17-8). -/
def groupRange (d : Bytes) : Option Nat :=
  let on := decide (fld d 18 1 = 0)
  let n := fld d 19 1
  firstBad
    [ (16, decide (4095 < fld d 16 2)), (18, decide (1 < fld d 18 1)), (19, if on then decide (n = 0) || decide (64 < n) else decide (n ≠ 0)),
      (20, if on then decide (n ≤ fld d 20 1) else decide (fld d 20 1 ≠ 0)), (21, !(zeros d 21 22)),
      (22, if on then false else decide (fld d 22 2 ≠ 0)), (24, if on then decide (fld d 24 8 % 4 ≠ 0) else decide (fld d 24 8 ≠ 0)), (32, !(zeros d 32 128)) ]

/-- The member list of a GROUP_SET: PART_ID and LINK of each entry. -/
def readMembers (s : State) (addr n : Nat) : List (Nat × Nat) :=
  (List.range n).map (fun i => let b := s.hostRead (addr + 4 * i) 4; (fld b 0 2, fld b 2 1))

/-- Why a GROUP_SET fails E_GROUP_STATE. -/
def State.groupFail (s : State) (owner group rank : Nat) (ms : List (Nat × Nat)) : Option Nat :=
  let other := match NMap.get? s.groups group with | some g => decide (g.part ≠ owner) | none => false
  let entry := ms.zipIdx.any (fun e => if e.2 = rank then e.1 != (s.partId, 0xFF) else decide (7 < e.1.2))
  if other then some 2
  else if entry || !(decide (ms.map (·.1)).Nodup) then some 3
  else if ms.any (fun e => decide (e.2 < 8) && !((s.linkAt e.2).everHello)) then some 4
  else none

/-- Whether a GROUP_SET is held: an uncommitted COLLECTIVE admitted before it names the group (R400). -/
def State.groupHeld (s : State) (id group : Nat) : Bool :=
  s.cmds.any (fun c => decide (c.1 < id) && c.2.uncommitted && decide (c.2.opcode = 0x07) && decide (c.2.f 16 2 = group))

/-- GROUP_SET with ACTION set (R399, R400). -/
def execGroupSet (cmd : Nat) (s : State) : Host.Outcome State Fault Refusal :=
  .next (control 0x4E (fun c => c.f 18 1 == 0) (fun c s =>
    let g := c.f 16 2
    if s.groupHeld cmd g then s
    else
      let ms := readMembers s (c.f 24 8) (c.f 19 1)
      let s1 := s.asDma (s.functionOf c.owner) false (c.f 24 8) (4 * c.f 19 1)
      s1.settle cmd (
        match s1.groupFail c.owner g (c.f 20 1) ms with
        | some n => .error (E_GROUP_STATE, n)
        | none => .ok ({ s1 with groups := NMap.set s1.groups g { part := c.owner, rank := c.f 20 1, gen := c.f 22 2, members := ms } }, OK, 0))) cmd s)

/-- GROUP_SET with ACTION clear (R400). -/
def execGroupClear (cmd : Nat) (s : State) : Host.Outcome State Fault Refusal :=
  .next (control 0x4E (fun c => c.f 18 1 == 1) (fun c s =>
    let g := c.f 16 2
    if s.groupHeld cmd g then s
    else
      s.settle cmd (
        match NMap.get? s.groups g with
        | some x => if x.part ≠ c.owner then .error (E_GROUP_STATE, 2) else .ok ({ s with groups := NMap.erase s.groups g, fprintWait := s.fprintWait.filter (fun m => m.group != g) }, OK, 0)
        | none => .ok (s, OK, 0))) cmd s)

end Sys2Proof.Machine
end

