-- ==== Sys2Proof/Machine/Collective.lean ====
section
/-! DEFINITION. COLLECTIVE: fingerprints, grants, exact reduction, results, completion, restarts and failures (R402 to R417), and its pre-emption grace (R413). -/

namespace Sys2Proof.Machine

/-! ### Fields, chunks and elements -/

def clOp (c : Cmd) : Nat := c.f 18 1
def clMax (c : Cmd) : Bool := c.f 19 1 == 1
def clElem (c : Cmd) : Nat := c.f 20 1
def clSources (c : Cmd) : Nat := c.f 21 1
def clRoot (c : Cmd) : Nat := c.f 22 1
def clSeq (c : Cmd) : Nat := c.f 24 4
def clCount (c : Cmd) : Nat := c.f 64 8
/-- Whether the operation reduces. -/
def clReduces (c : Cmd) : Bool := decide (clOp c ≤ 1)
/-- Bytes of an element. -/
def elemWidth (fmt : Nat) : Nat := fmtBits fmt / 8

/-- The first element of the chunk of rank r (R403). -/
def chunkStart (count n r : Nat) : Nat := count * r / n
/-- Elements of the chunk of rank r. -/
def chunkLen (count n r : Nat) : Nat := chunkStart count n (r + 1) - chunkStart count n r
/-- Segments of a run of elements (R407). -/
def segCount (len : Nat) : Nat := ceilDiv len 4096
/-- Elements of segment s of a run. -/
def segLen (len s : Nat) : Nat := min 4096 (len - 4096 * s)

/-- The elements that the source of a segment covers: chunk of the owner for a reduction, the whole source otherwise. -/
def clRun (c : Cmd) (n owner : Nat) : Nat × Nat :=
  if clReduces c then (chunkStart (clCount c) n owner, chunkLen (clCount c) n owner) else (0, clCount c)

/-- Where a segment of an owner lies in OBJ_DST (Table 17-10). -/
def clDest (c : Cmd) (n owner s : Nat) : Nat :=
  match clOp c with
  | 0 => chunkStart (clCount c) n owner + 4096 * s
  | 2 => owner * clCount c + 4096 * s
  | _ => 4096 * s

/-- Elements that OBJ_DST of rank r receives. -/
def clTotal (c : Cmd) (n r : Nat) : Nat :=
  match clOp c with
  | 1 => chunkLen (clCount c) n r
  | 2 => n * clCount c
  | _ => clCount c

/-- The place of element e of a tensor object: ingot, row and column within it (R403). -/
def elemPlace (o : Obj) (e : Nat) : Nat × Nat × Nat :=
  let b := e / (max o.rows 1 * max o.cols 1)
  let r := e / max o.cols 1 % max o.rows 1
  let k := e % max o.cols 1
  (o.index b (r / 128) (k / 128), r % 128, k % 128)

/-- The code of element e of an object in the versions of a map (R403); a pruned or unwritten element is zero. -/
def elemCode (o : Obj) (vmap : List Nat) (fmt e : Nat) : Nat :=
  if o.kind = 1 then o.readNat vmap (e * elemWidth fmt) (elemWidth fmt)
  else
    let p := elemPlace o e
    let b := o.readSlot (slotIn vmap p.1) p.1
    let h := headerOf b
    if unwritten b || h.zero then 0
    else match storedCode h b p.2.1 p.2.2 with | .ok (some k) => k | _ => 0

/-- Poison met by reading elements 0 to `n` - 1. -/
def elemPoison (o : Obj) (vmap : List Nat) (fmt n die : Nat) : Option Nat :=
  if o.kind = 1 then o.poisonBytes vmap 0 (n * elemWidth fmt) die
  else
    (List.range o.count).findSome? (fun k =>
      let across := ceilDiv o.cols 128
      let down := ceilDiv o.rows 128
      let first := (k / (down * across) * o.rows + k / across % down * 128) * o.cols + k % across * 128
      if first < n then (o.fetchRuns (slotIn vmap k) k).findSome? (fun r =>
        o.poisonAt (slotIn vmap k) (k * o.slot + r.1) (k * o.slot + r.1 + r.2) (o.readDie k die)) else none)

/-- How many of a run of elements of an object lie on each die (R380). -/
def elemDies (o : Obj) (fmt base len : Nat) : List Nat :=
  (List.range 8).map (fun d => (List.range len).countP (fun e =>
    (o.diesOf (if o.kind = 1 then (base + e) * elemWidth fmt / 65536 else (elemPlace o (base + e)).1)).headD 0 == d))

/-- A finite element as an integer multiple of 2^−149 (R404). -/
def elemInt (fmt code : Nat) : Option Int :=
  match codeValue fmt code with
  | .fin n m => let i := (m * pow2 149).num; some (if n then -i else i)
  | _ => none

/-- Round T × 2^−149 once to a format; none when it passes the format's range (R404). -/
def roundSum (fmt : Nat) (t : Int) : Option Nat :=
  let lay := (fmtLayout fmt).getD fp32
  let n := lay.nearest ((t.natAbs : Rat) / pow2 149)
  if lay.top < n then none else some (n + (if t < 0 ∧ n ≠ 0 then 2 ^ (lay.eb + lay.mb) else 0))

/-! ### Admission (R402) -/

/-- Whether an object holds `n` elements of ELEM: a byte object of enough bytes, or a tensor object of that format and enough elements. -/
def elemFits (o : Obj) (fmt n : Nat) : Bool :=
  if o.kind = 1 then decide (n * elemWidth fmt ≤ o.bytes) else decide (o.fmt = fmt) && decide (n ≤ o.batch * o.rows * o.cols)

/-- Range checks of COLLECTIVE (Table 17-9, R402). With the group not set, the elements that OBJ_DST must hold are those of Table 17-10 for the fewest members, and of a chunk none. -/
def collRange (s : State) (owner : Nat) (d : Bytes) : Option Nat :=
  let op := fld d 18 1
  let elem := fld d 20 1
  let n := fld d 21 1
  let count := fld d 64 8
  let g := NMap.get? s.groups (fld d 16 2)
  let members := match g with | some x => x.members.length | none => 1
  let rank := match g with | some x => x.rank | none => 0
  let reduces := decide (op ≤ 1)
  let elemOk := elem == 0x10 || elem == 0x11 || elem == 0x12
  let want := if op = 1 then (if g.isSome then chunkLen count members rank else 0) else if op = 2 then members * count else count
  let small := fun (off k : Nat) => match s.obj? owner (fld d off 4) with | some (_, o) => elemOk && !(elemFits o elem k) | none => false
  firstBad (
    [ (16, decide (4095 < fld d 16 2)), (18, decide (3 < op)), (19, if reduces then decide (1 < fld d 19 1) else decide (fld d 19 1 ≠ 0)),
      (20, !elemOk),
      (21, if reduces then decide (n = 0) || decide (8 < n) else if op = 2 then decide (n ≠ 1)
        else if g.isSome then decide (n ≠ if fld d 22 1 = rank then 1 else 0) else decide (1 < n)),
      (22, if op = 3 then g.isSome && decide (members ≤ fld d 22 1) else decide (fld d 22 1 ≠ 0)), (23, !(zeros d 23 24)),
      (24, decide (fld d 24 4 = 0)), (28, decide (fld d 28 4 = 0) || small 28 want) ]
    ++ (List.range 8).map (fun i => (32 + 4 * i, if i < n then decide (fld d (32 + 4 * i) 4 = 0) || small (32 + 4 * i) count else decide (fld d (32 + 4 * i) 4 ≠ 0)))
    ++ [ (64, decide (count = 0) || decide (2 ^ 36 < count)), (72, decide (fld d 72 4 = 0) || decide (60000 < fld d 72 4)), (76, !(zeros d 76 128)) ])

/-- E_GROUP_STATE at admission. -/
def State.collGroup (s : State) (c : Cmd) : Option (Nat × Nat) :=
  match NMap.get? s.groups (c.f 16 2) with
  | none => some (E_GROUP_STATE, 1)
  | some g => if g.part ≠ c.owner then some (E_GROUP_STATE, 2) else none

/-- E_OBJECT_POLICY of a COLLECTIVE: a REPLICATE OBJ_DST (R354). -/
def State.collPolicy (s : State) (c : Cmd) : Option (Nat × Nat) :=
  match s.obj? c.owner (c.f 28 4) with
  | some (_, o) => if o.placement = 2 then some (E_OBJECT_POLICY, 1) else none
  | none => none

/-! ### Sending -/

def State.setColl (s : State) (id : Nat) (f : Coll → Coll) : State :=
  match s.cmd? id with
  | some c => s.setCmd id { c with coll := c.coll.map f }
  | none => s

/-- The ranks other than this part's. -/
def Group.others (g : Group) : List Nat := (List.range g.members.length).filter (fun q => q != g.rank)

/-- Send a message of a collective to a rank (R401, R412). -/
def State.sendRank (s : State) (c : Cmd) (k : Coll) (g : Group) (q : Nat) (m : Msg) : State :=
  match g.members[q]? with
  | some e => s.sendLinkFor c.owner e.2 { m with group := c.f 16 2, opSeq := clSeq c, attempt := k.attempt, srcRank := g.rank, dstRank := q, length := m.payload.length }
  | none => s

/-- The 24-byte fingerprint input (R408). -/
def fprintInput (c : Cmd) (g : Group) (attempt : Nat) : Bytes :=
  leBytes 1 (clOp c) ++ leBytes 1 (c.f 19 1) ++ leBytes 1 (clElem c) ++ leBytes 1 g.members.length ++ leBytes 8 (clCount c)
    ++ leBytes 2 (c.f 16 2) ++ leBytes 2 g.gen ++ leBytes 4 (clSeq c) ++ leBytes 2 attempt ++ leBytes 1 (clRoot c) ++ leBytes 1 0

/-- The fingerprint of an input. -/
def fprintOf (input : Bytes) : Nat := leNat (Config.shake256 8 input)

/-- The first differing clear field of two fingerprint inputs (R416). -/
def fprintDiff (a b : Bytes) : Nat :=
  let ne := fun (off n : Nat) => fld a off n != fld b off n
  if ne 0 1 || ne 1 1 || ne 22 1 then 1
  else if ne 2 1 then 2
  else if ne 4 8 then 3
  else if ne 12 2 then 4
  else if ne 14 2 then 5
  else if ne 3 1 then 6
  else 0

/-- Codes as a message payload. -/
def codeBytes (fmt : Nat) (codes : List Nat) : Bytes := codes.flatMap (leBytes (elemWidth fmt))
/-- The codes of a message payload. -/
def codesOf (fmt : Nat) (b : Bytes) : List Nat := (List.range (b.length / elemWidth fmt)).map (fun i => fld b (i * elemWidth fmt) (elemWidth fmt))

/-- The codes of a segment of source i of this member. -/
def State.segCodes (s : State) (c : Cmd) (n owner i sg : Nat) : List Nat :=
  match s.obj? c.owner (c.f (32 + 4 * i) 4) with
  | some (key, o) =>
    let r := clRun c n owner
    (List.range (segLen r.2 sg)).map (fun e => elemCode o (c.viewOf key o) (clElem c) (r.1 + 4096 * sg + e))
  | none => []

/-- Store result codes of a segment in the elements formed so far. -/
def putOut (k : Coll) (base : Nat) (codes : List Nat) : Coll :=
  { k with out := codes.zipIdx.foldl (fun m e => NMap.set m (base + e.2) e.1) k.out }

/-- Send every segment of this member's source as RESULT to a rank: ALL_GATHER, or the root of a BROADCAST (R409). -/
def State.sendSource (s : State) (c : Cmd) (k : Coll) (g : Group) (q : Nat) : State :=
  if clOp c = 2 ∨ (clOp c = 3 ∧ clRoot c = g.rank) then
    (List.range (segCount (clCount c))).foldl (fun (a : State) sg =>
      a.sendRank c k g q { type := 0x05, segment := sg, payload := codeBytes (clElem c) (s.segCodes c g.members.length g.rank 0 sg) }) s
  else s

/-! ### Reduction at the owner (R404 to R407, R409) -/

/-- The lane of limb k of accumulator e of a place in staging (R404). -/
def limbLane (slot e k : Nat) : Nat := slot * stagingLanes + 5 * e + k

/-- What an element adds to limb k, as a 128-bit word: its digit, or the digit's negative (R404). -/
def limbAddend (i : Int) (k : Nat) : Nat :=
  let d := i.natAbs / 2 ^ (64 * k) % 2 ^ 64
  if i < 0 then (2 ^ 128 - d) % 2 ^ 128 else d

/-- A limb as a signed number. -/
def limbInt (x : Nat) : Int := if x < 2 ^ 127 then (x : Int) else (x : Int) - 2 ^ 128

/-- T of an accumulator: the sum of its limbs, each times 2^(64k) (R404). -/
def accValue (m : NMap Nat) (slot e : Nat) : Int :=
  (List.range 5).foldl (fun t k => t + limbInt (NMap.getD m (limbLane slot e k) 0) * 2 ^ (64 * k)) 0

/-- Add an element to the five limbs of an accumulator (R404): additions of the collective engine to its staging lines (R332). -/
def addLimbs (m : NMap Nat) (slot e : Nat) (i : Int) : NMap Nat :=
  (List.range 5).foldl (fun x k => NMap.set x (limbLane slot e k) ((NMap.getD x (limbLane slot e k) 0 + limbAddend i k) % 2 ^ 128)) m

/-- Set an accumulator to an integer. -/
def setLimbs (m : NMap Nat) (slot e : Nat) (i : Int) : NMap Nat :=
  (List.range 5).foldl (fun x k => NMap.set x (limbLane slot e k) (limbAddend i k)) m

/-- Take one element of a contribution into an accumulator: added, or kept when it is the largest (R404, R405). -/
def addAcc (max_ first : Bool) (m : NMap Nat) (slot e : Nat) (i : Int) : NMap Nat :=
  if max_ then setLimbs m slot e (if first then i else max (accValue m slot e) i) else addLimbs m slot e i

/-- The residue of T modulo 255 after an element, computed apart from the limbs, and the count (R406). `old` is T before. -/
def addResidue (max_ : Bool) (a : Nat × Nat) (old i : Int) : Nat × Nat :=
  (if max_ then (if a.2 = 0 ∨ old < i then (i % 255).toNat else a.1) else (a.1 + (i % 255).toNat) % 255, a.2 + 1)

/-- A contribution is counted once, and its elements enter the residues of a segment. -/
def countContrib (c : Cmd) (k : Coll) (old : Nat → Int) (q sg src : Nat) (vals : List Int) : Coll :=
  { k with
    accs := vals.zipIdx.foldl (fun m e => NMap.set m (4096 * sg + e.2) (addResidue (clMax c) (NMap.getD m (4096 * sg + e.2) (0, 0)) (old e.2) e.1)) k.accs
    counts := NMap.set k.counts sg (NMap.getD k.counts sg 0 + 1)
    seen := k.seen ++ [(q, sg, src)] }

/-- Add a contribution to the accumulators of a segment, which stand in the staging of die sg mod 8 (R404 to R407). -/
def State.addContrib (s : State) (id q sg src : Nat) (vals : List Int) : State :=
  match s.cmd? id with
  | none => s
  | some c =>
    match c.coll with
    | none => s
    | some k =>
      let d := sg % 8
      let p := NMap.getD k.slots sg 0
      let m := (s.dieAt d).staging
      let fresh := fun (e : Nat) => decide ((NMap.getD k.accs (4096 * sg + e) (0, 0)).2 = 0)
      let s1 := s.setDie d { s.dieAt d with staging := vals.zipIdx.foldl (fun x e => addAcc (clMax c) (fresh e.2) x p e.2 e.1) m }
      s1.setCmd id { c with coll := some (countContrib c k (accValue m p) q sg src vals) }

/-- Contributions a segment waits for: the sources of every member, once every FPRINT has arrived (R409). -/
def contribTotal (c : Cmd) (k : Coll) (g : Group) : Option Nat :=
  if g.others.all (fun q => k.fprints.any (fun p => p.1 == q)) then some (clSources c + (k.fprints.map (·.2)).sum) else none

/-- Fail a collective, or kill and restart it once, for a residue mismatch (R406). -/
inductive Fire where
  | wait | fired (codes : List Nat) | range | residue
  deriving DecidableEq, Repr

/-- Judge a segment's trigger: residues compared, sums rounded (R404 to R406). -/
def State.judgeSegment (s : State) (c : Cmd) (k : Coll) (g : Group) (sg : Nat) : Fire :=
  match contribTotal c k g with
  | none => .wait
  | some total =>
    if k.mismatch ∨ k.fired.contains sg ∨ NMap.getD k.counts sg 0 < total then .wait
    else
      let len := segLen (chunkLen (clCount c) g.members.length g.rank) sg
      let as_ := (List.range len).map (fun e =>
        (accValue (s.dieAt (sg % 8)).staging (NMap.getD k.slots sg 0) e, (NMap.getD k.accs (4096 * sg + e) (0, 0)).1))
      if as_.any (fun a => decide ((a.1 % 255).toNat ≠ a.2)) then .residue
      else
        let codes := as_.map (fun a => roundSum (clElem c) a.1)
        if codes.all Option.isSome then .fired (codes.map (·.getD 0)) else .range

/-- The die of each segment of a COLLECTIVE's own chunk that is granted and not fired: its accumulators stand in that die's staging (R407). -/
def stagingDies (c : Cmd) : List Nat := match c.coll with | some k => k.slots.map (fun e => e.1 % 8) | none => []

/-- The lowest place in a die's staging that no segment holds. -/
def State.stageSlot (s : State) (die : Nat) : Nat :=
  let used := s.cmds.flatMap (fun c => match c.2.coll with | some k => (k.slots.filter (fun e => e.1 % 8 == die)).map (·.2) | none => [])
  ((List.range 48).find? (fun p => !(used.contains p))).getD 0

/-- The dies whose staging the segments of a COLLECTIVE's own chunk need. -/
def State.stagingNeeds (s : State) (c : Cmd) : List Nat :=
  match NMap.get? s.groups (c.f 16 2) with
  | some g => List.range (min 8 (segCount (chunkLen (clCount c) g.members.length g.rank)))
  | none => []

/-- Segments in flight on a die: granted by an owner and not fired, over every collective (R407). -/
def State.segmentsInFlight (s : State) (die : Nat) : Nat := (s.cmds.map (fun c => (stagingDies c.2).countP (· == die))).sum

/-- The highest segment plus 1 that an owner's rank has granted. -/
def Coll.grantOf (k : Coll) (q : Nat) : Nat := ((k.granted.find? (fun e => e.1 == q)).map (·.2)).getD 0

/-- Set the highest segment granted by a rank. -/
def Coll.setGrant (k : Coll) (q v : Nat) : Coll := { k with granted := (k.granted.filter (fun e => e.1 != q)) ++ [(q, v)] }

/-! ### Restarts and failures (R406, R412, R413, R450) -/

/-- Send ABORT without FINAL for the running attempt to every other member. -/
def State.sendAborts (s : State) (c : Cmd) (k : Coll) (g : Group) : State :=
  if k.sentFprint then g.others.foldl (fun (a : State) q => a.sendRank c k g q { type := 0x07 }) s else s

/-- Kill a collective and leave it to run a later attempt; the restart counts against RERUN_LIMIT, and one beyond it fails the command (R450). -/
def State.collKill (s : State) (id next : Nat) (preempt : Bool) : State :=
  match s.cmd? id with
  | none => s
  | some c =>
    let old := c.coll.getD {}
    let fresh : Coll := { attempt := next, residueRestart := old.residueRestart, everSent := old.everSent }
    if !preempt && decide (s.setting c.owner 0x0010 0 ≤ c.victimKills) then s.failCmd id E_RERUN_LIMIT 0
    else
      let s1 := s.killCmd id preempt
      match s1.cmd? id with
      | some d => s1.setCmd id { d with victimKills := c.victimKills + 1, coll := some fresh }
      | none => s1

/-- Pre-empt a collective: ABORT without FINAL, then the kill (R413). -/
def State.collPreempt (s : State) (id : Nat) : State :=
  match s.cmd? id with
  | none => s
  | some c =>
    match c.coll, NMap.get? s.groups (c.f 16 2) with
    | some k, some g => (s.sendAborts c k g).collKill id (k.attempt + 1) true
    | _, _ => s.killCmd id true

/-! ### Writing OBJ_DST and finishing (R410) -/

/-- Write the elements formed into the inactive version of OBJ_DST. Ingots and bytes that hold none keep their content. -/
def State.writeDst (s : State) (id : Nat) (c : Cmd) (k : Coll) : State :=
  match s.obj? c.owner (c.f 28 4) with
  | none => s
  | some (key, o) =>
    let fmt := clElem c
    if o.kind = 1 then
      s.putObj id key 0 (codeBytes fmt (k.out.map (·.2)))
    else
      let n := k.out.length
      let vmap := c.viewOf key o
      let touched := (List.range o.count).filter (fun m =>
        (List.range 128).any (fun r => (List.range 128).any (fun x =>
          let across := ceilDiv o.cols 128
          let down := ceilDiv o.rows 128
          let row := m / across % down * 128 + r
          let col := m % across * 128 + x
          decide (row < o.rows) && decide (col < o.cols) && decide ((m / (down * across) * o.rows + row) * o.cols + col < n))))
      touched.foldl (fun (a : State) m =>
        let across := ceilDiv o.cols 128
        let down := ceilDiv o.rows 128
        let at_ := fun (r x : Nat) =>
          let row := m / across % down * 128 + r
          let col := m % across * 128 + x
          let e := (m / (down * across) * o.rows + row) * o.cols + col
          if row < o.rows ∧ col < o.cols then (if e < n then NMap.getD k.out e 0 else elemCode o vmap fmt e) else 0
        let h : Header := { fmt := fmt, object := c.f 28 4, index := m, commit := o.nextCommit }
        let b := fixLen (slotSize fmt) (h.bytes ++ packCodes (fmtBits fmt) ((List.range 128).flatMap (fun r => (List.range 128).map (at_ r))))
        a.putIngot id key m b none) s

/-- Whether a member has written every element and sent every message it owes (R410). -/
def collDone (c : Cmd) (k : Coll) (g : Group) : Bool :=
  let n := g.members.length
  let all := g.others.all (fun q => k.fprints.any (fun p => p.1 == q))
  let owed := !(clReduces c) ||
    (g.others.all (fun q => decide (segCount (chunkLen (clCount c) n q) ≤ k.grantOf q))
      && (List.range (segCount (chunkLen (clCount c) n g.rank))).all (fun sg => k.fired.contains sg))
  all && owed && decide (clTotal c n g.rank ≤ k.out.length)

/-- Send DONE when everything is written and sent; reach the decision point when every other member's DONE has arrived (R410). -/
def State.collFinish (s : State) (id : Nat) : State :=
  match s.cmd? id with
  | none => s
  | some c =>
    match c.coll, NMap.get? s.groups (c.f 16 2) with
    | some k, some g =>
      if c.phase ≠ .started ∨ k.mismatch then s
      else
        let s1 := if !k.sentDone && collDone c k g then
            (g.others.foldl (fun (a : State) q => a.sendRank c k g q { type := 0x06 }) s).setColl id (fun x => { x with sentDone := true, grace := none })
          else s
        let sent := k.sentDone || collDone c k g
        if sent && g.others.all (fun q => k.dones.contains q) then
          (s1.writeDst id c k).toReady id (fun x => { x with status := OK, detail := 0 })
        else s1
    | _, _ => s

/-! ### The owner's chain -/

/-- The rounded elements of a segment cross the spine from its staging die to the dies that home them in OBJ_DST (R380). -/
def State.spreadResult (s : State) (c : Cmd) (sg base len : Nat) : State :=
  match s.obj? c.owner (c.f 28 4) with
  | some (_, o) => (elemDies o (clElem c) base len).zipIdx.foldl (fun (a : State) d =>
      a.farLines c.owner (sg % 8) d.2 (ceilDiv (d.1 * elemWidth (clElem c)) 128) true) s
  | none => s

/-- Fire a segment whose trigger has counted out: its elements are formed, its place in staging is free, ALL_REDUCE sends them on (R409). A first residue mismatch of the command is noted, with ABORT to the other members, and a second fails it (R406). -/
def State.fireSegment (s : State) (id sg : Nat) : State :=
  match s.cmd? id with
  | none => s
  | some c =>
    match c.coll, NMap.get? s.groups (c.f 16 2) with
    | some k, some g =>
      match s.judgeSegment c k g sg with
      | .wait => s
      | .range => s.failCmd id E_NONFINITE 0x0010
      | .residue =>
        if k.residueRestart then s.failCmd id E_RESIDUE (originId c.home 0x09 1)
        else (s.sendAborts c k g).setColl id (fun x => { x with residueRestart := true, mismatch := true })
      | .fired codes =>
        let n := g.members.length
        let s0 := (s.dropStaging { c with coll := some { k with slots := k.slots.filter (fun e => e.1 == sg) } }).spreadResult c sg (clDest c n g.rank sg) codes.length
        let s1 := s0.setColl id (fun x =>
          putOut { x with fired := x.fired ++ [sg], accs := x.accs.filter (fun e => !(e.1 / 4096 == sg)), slots := NMap.erase x.slots sg }
            (clDest c n g.rank sg) codes)
        if clOp c = 0 then
          g.others.foldl (fun (a : State) q => a.sendRank c k g q { type := 0x05, segment := sg, payload := codeBytes (clElem c) codes }) s1
        else s1
    | _, _ => s

/-- A local source of a segment: each die adds the elements that it homes, by LINE_ADD into the staging die's lines, five limbs an element (R380, R407). -/
def State.addLocal (s : State) (id : Nat) (c : Cmd) (g : Group) (sg i : Nat) : State :=
  let n := g.members.length
  let r := clRun c n g.rank
  let s1 := match s.obj? c.owner (c.f (32 + 4 * i) 4) with
    | some (_, o) => (elemDies o (clElem c) (r.1 + 4096 * sg) (segLen r.2 sg)).zipIdx.foldl (fun (a : State) (d : Nat × Nat) =>
        a.farAdds c.owner d.2 (sg % 8) (5 * d.1)) s
    | none => s
  s1.addContrib id g.rank sg i ((s.segCodes c n g.rank i sg).map (fun v => (elemInt (clElem c) v).getD 0))

/-- Grant segments while their accumulators can be staged: each gets this member's own sources, and fires when its count is full (R407, R409). -/
def State.grantSome (s : State) (id : Nat) : Nat → State
  | 0 => s
  | fuel + 1 =>
    match s.cmd? id with
    | none => s
    | some c =>
      match c.coll, NMap.get? s.groups (c.f 16 2) with
      | some k, some g =>
        let sg := k.grantOf g.rank
        if c.phase ≠ .started ∨ !k.sentFprint ∨ k.mismatch ∨ segCount (chunkLen (clCount c) g.members.length g.rank) ≤ sg
            ∨ 48 ≤ s.segmentsInFlight (sg % 8) then s
        else
          let s1 := s.setColl id (fun x => { x.setGrant g.rank (sg + 1) with slots := NMap.set x.slots sg (s.stageSlot (sg % 8)) })
          (((List.range (clSources c)).foldl (fun (a : State) i => a.addLocal id c g sg i) s1).fireSegment id sg).grantSome id fuel
      | _, _ => s

/-- Grant what staging allows, and send GRANT when the highest granted segment has risen (R409). -/
def State.advance (s : State) (id : Nat) : State :=
  match s.cmd? id with
  | none => s
  | some c =>
    match c.coll, NMap.get? s.groups (c.f 16 2) with
    | some k, some g =>
      if !(clReduces c) then s
      else
        let s1 := s.grantSome id (segCount (chunkLen (clCount c) g.members.length g.rank) + 1)
        match s1.cmd? id with
        | none => s1
        | some d =>
          match d.coll with
          | some k1 =>
            if d.phase = .started ∧ k.attempt = k1.attempt ∧ k.grantOf g.rank < k1.grantOf g.rank then
              (g.others.filter (fun q => k1.fprints.any (fun p => p.1 == q))).foldl (fun (a : State) q =>
                a.sendRank d k1 g q { type := 0x03, aux := k1.grantOf g.rank }) s1
            else s1
          | none => s1
    | _, _ => s

/-- A member's own part of ALL_GATHER, or of a BROADCAST at its root. -/
def State.ownPart (s : State) (id : Nat) (c : Cmd) (g : Group) : State :=
  if clOp c = 2 ∨ (clOp c = 3 ∧ clRoot c = g.rank) then
    (List.range (segCount (clCount c))).foldl (fun (a : State) sg =>
      a.setColl id (fun x => putOut x (clDest c g.members.length g.rank sg) (s.segCodes c g.members.length g.rank 0 sg))) s
  else s

/-- What a member's sources fail with: poison, then a non-finite element (R405, R420). -/
def State.sourceFail (s : State) (c : Cmd) : Option (Nat × Nat) :=
  let srcs := (List.range (clSources c)).filterMap (fun i => s.obj? c.owner (c.f (32 + 4 * i) 4))
  match srcs.findSome? (fun x => elemPoison x.2 (c.viewOf x.1 x.2) (clElem c) (clCount c) c.home) with
  | some p => some (E_MEM_UNCORRECTABLE, p)
  | none =>
    if srcs.any (fun x => (List.range (clCount c)).any (fun e => (elemInt (clElem c) (elemCode x.2 (c.viewOf x.1 x.2) (clElem c) e)).isNone)) then
      some (E_NONFINITE, 1)
    else none

/-- A mismatching FPRINT that waits for the attempt a collective begins: its sender's rank and the field (R416). -/
def State.waitingMismatch (s : State) (c : Cmd) (k : Coll) (g : Group) : Option Nat :=
  let own := fprintInput c g k.attempt
  (s.fprintWait.find? (fun m => decide (m.group = c.f 16 2) && decide (m.opSeq = clSeq c) && decide (m.attempt = k.attempt) && decide (m.aux ≠ fprintOf own))).map
    (fun m => m.srcRank * 256 + fprintDiff own (m.payload.take 24))

/-- The order in which failures of a collective are carried (R420). -/
def collOrder : List Nat :=
  [E_MEM_UNCORRECTABLE, E_COLL_MISMATCH, E_NONFINITE, E_RESIDUE, E_LINK_DOWN, E_RERUN_LIMIT, E_COLL_EPOCH_ABORT, E_COLL_TIMEOUT]

/-- What an attempt fails with as it begins: the first of R420 among its sources' poison or non-finite elements, a mismatching FPRINT that waits, and a link that is down. -/
def State.openFail (s : State) (c : Cmd) (k : Coll) (g : Group) : Option (Nat × Nat) :=
  let fs := (s.sourceFail c).toList ++ ((s.waitingMismatch c k g).map (fun d => (E_COLL_MISMATCH, d))).toList ++ ((s.downLink c).map (fun l => (E_LINK_DOWN, l))).toList
  pickFail collOrder fs

/-- Begin an attempt of a started collective: FPRINT to every other member, then the owner's grants (R408, R409). -/
def State.beginAttempt (s : State) (id : Nat) : State :=
  match s.cmd? id with
  | none => s
  | some c =>
    match NMap.get? s.groups (c.f 16 2) with
    | none => s.failCmd id E_GROUP_STATE 1
    | some g =>
      let k := c.coll.getD {}
      if c.phase ≠ .started ∨ k.sentFprint then s
      else
        let input := fprintInput c g k.attempt
        let s1 := g.others.foldl (fun (a : State) q =>
          a.sendRank c k g q { type := 0x02, aux := fprintOf input, payload := input ++ leBytes 1 (clSources c) }) s
        let s2 := s1.setCmd id { c with coll := some { k with sentFprint := true, everSent := true, grace := none, lastMsg := s.counter c.home } }
        match s.openFail c k g with
        | some f => s2.failCmd id f.1 f.2
        | none => ((s2.ownPart id c g).advance id).collFinish id

/-- Restart a collective at a later attempt (R412). -/
def State.collRestart (s : State) (id next : Nat) : State := ((s.collKill id next false).ensureStart id).beginAttempt id

/-- A residue mismatch just noted restarts the collective (R406, R412). -/
def State.mendColl (s : State) (id : Nat) : State :=
  match s.cmd? id with
  | some c => match c.coll with | some k => if k.mismatch then s.collRestart id (k.attempt + 1) else s | none => s
  | none => s

/-- Begin an attempt of a started collective. -/
def State.collOpen (s : State) (id : Nat) : State := (s.beginAttempt id).mendColl id

/-- Insert a collective by partition, higher PRIORITY, then earlier admission (R447). -/
def collIn (v : Nat × Cmd) : List (Nat × Cmd) → List (Nat × Cmd)
  | [] => [v]
  | w :: ws => if [v.2.owner, 255 - v.2.priority, v.1] < [w.2.owner, 255 - w.2.priority, w.1] then v :: w :: ws else w :: collIn v ws

/-- Collective staging serves the running collectives that wait for it, of a partition by higher PRIORITY, then by earlier admission (R409, R447). PRIORITY does not reach across partitions; their order there is a DESIGN CHOICE (log entry 109). -/
def State.advanceAll (s : State) : State :=
  ((s.cmds.filter (fun c => decide (c.2.opcode = 0x07) && decide (c.2.phase = .started))).foldl (fun l c => collIn c l) []).foldl
    (fun (a : State) c => ((a.advance c.1).collFinish c.1).mendColl c.1) s

/-! ### Messages (R401, R408 to R416) -/

/-- The uncommitted COLLECTIVE that a message is for. -/
def State.collFor (s : State) (m : Msg) : Option (Nat × Cmd) :=
  s.cmds.find? (fun c => decide (c.2.opcode = 0x07) && c.2.uncommitted && decide (c.2.f 16 2 = m.group) && decide (clSeq c.2 = m.opSeq))

/-- The uncommitted COLLECTIVE that a FPRINT is compared with: that of its group and OP_SEQ, else one with an equal OP_SEQ, whose group then differs (R416). -/
def State.fprintFor (s : State) (m : Msg) : Option (Nat × Cmd) :=
  match s.collFor m with
  | some x => some x
  | none => s.cmds.find? (fun c => decide (c.2.opcode = 0x07) && c.2.uncommitted && decide (clSeq c.2 = m.opSeq))

/-- After a needed message: the wait for messages starts anew, and a deferred pre-emption proceeds at the next wait (R413, R417). -/
def State.collHeard (s : State) (id : Nat) : State :=
  match s.cmd? id with
  | none => s
  | some c =>
    match c.coll with
    | some k =>
      let s1 := s.setColl id (fun x => { x with lastMsg := s.counter c.home })
      if c.phase = .started ∧ k.grace.isSome ∧ !k.sentDone then s1.collPreempt id else s1
    | none => s

/-- Restart a running member, attempt by attempt, until it has reached attempt `top`, or cannot run now (R412). -/
def State.catchUp : Nat → State → Nat → Nat → State
  | 0, s, _, _ => s
  | fuel + 1, s, id, top =>
    match s.cmd? id with
    | some c =>
      match c.coll with
      | some k => if k.attempt < top ∧ c.phase = .started then State.catchUp fuel (s.collRestart id (k.attempt + 1)) id top else s
      | none => s
    | none => s

/-- A FPRINT for a running member: an older attempt is dropped, a different fingerprint fails the member, a newer attempt restarts it (R412, R416, R420). -/
def State.takeFprint (s : State) (id : Nat) (m : Msg) : State :=
  match s.cmd? id with
  | none => s
  | some c0 =>
    match NMap.get? s.groups (c0.f 16 2) with
    | none => s
    | some g =>
      let old := (c0.coll.getD {}).attempt
      let own := fprintInput c0 g m.attempt
      if c0.phase ≠ .started ∨ m.attempt < old then s
      else if m.aux ≠ fprintOf own then s.failCmd id E_COLL_MISMATCH (m.srcRank * 256 + fprintDiff own (m.payload.take 24))
      else
        let s0 := s.catchUp (m.attempt - old) id m.attempt
        match s0.cmd? id with
        | none => s0
        | some c =>
          match c.coll with
          | none => s0
          | some k =>
            if c.phase = .admitted then { s0 with fprintWait := s0.fprintWait ++ [m] }
            else if m.attempt ≠ k.attempt ∨ k.fprints.any (fun p => p.1 == m.srcRank) then s0
            else
              let s1 := s0.setColl id (fun x => { x with fprints := x.fprints ++ [(m.srcRank, fld m.payload 24 1)] })
              let s2 := if clReduces c ∧ 0 < k.grantOf g.rank then s1.sendRank c k g m.srcRank { type := 0x03, aux := k.grantOf g.rank } else s1
              let s3 := s2.sendSource c k g m.srcRank
              let s4 := (List.range (k.grantOf g.rank)).foldl (fun (a : State) sg => a.fireSegment id sg) s3
              (((s4.advance id).collFinish id).mendColl id).collHeard id

/-- Run a collective that may start, or that has been started, and take the FPRINTs that came before it (R408). When it runs already, it goes on with the staging that is free now (R409). -/
def State.collStart (s : State) (id : Nat) : State :=
  match s.cmd? id with
  | none => s
  | some c =>
    if (c.coll.getD {}).sentFprint then s.advanceAll
    else
      let s1 := (s.unitStart id).collOpen id
      match s1.cmd? id with
      | some d =>
        if d.phase = .started then
          let mine := s1.fprintWait.filter (fun m => (s1.fprintFor m).map (·.1) == some id)
          let rest := s1.fprintWait.filter (fun m => !((s1.fprintFor m).map (·.1) == some id))
          (mine.foldl (fun (a : State) m => a.takeFprint id m) { s1 with fprintWait := rest }).advanceAll
        else s1
      | none => s1

/-- The rows of COLLECTIVE: one that a GROUP_SET admitted earlier acts on is held (R400). -/
def collective (op : Nat) (cmd : Nat) (s : State) : State :=
  control 0x07 (fun c => clOp c == op) (fun c s =>
    if s.groupSetAhead cmd c then s else s.collStart cmd) cmd s

/-- COLLECTIVE with OP ALL_REDUCE (R403, R404). -/
def execCollectiveAllReduce (cmd : Nat) (s : State) : Host.Outcome State Fault Refusal := .next (collective 0 cmd s)
/-- COLLECTIVE with OP REDUCE_SCATTER (R403). -/
def execCollectiveReduceScatter (cmd : Nat) (s : State) : Host.Outcome State Fault Refusal := .next (collective 1 cmd s)
/-- COLLECTIVE with OP ALL_GATHER (R403). -/
def execCollectiveAllGather (cmd : Nat) (s : State) : Host.Outcome State Fault Refusal := .next (collective 2 cmd s)
/-- COLLECTIVE with OP BROADCAST (R403). -/
def execCollectiveBroadcast (cmd : Nat) (s : State) : Host.Outcome State Fault Refusal := .next (collective 3 cmd s)

/-- What a collective message of a type does at the member it is for: without a group entry it is dropped (R401), for another rank nothing happens here. -/
def collMsg (type link : Nat) (m : Msg) (f : Nat → Cmd → Coll → Group → State → State) (s : State) : State :=
  let s1 := s.deliver link m
  if !((s1.linkAt link).flows && decide (link < 8) && decide (m.type = type)) then s1
  else
    match s1.groupOf m with
    | none => s1.dropMsg link m.type
    | some g =>
      if m.dstRank ≠ g.rank then s1
      else
        match s1.collFor m with
        | some (id, c) =>
          let k := c.coll.getD {}
          if m.attempt < k.attempt then s1 else f id c k g s1
        | none => s1

/-- FPRINT (R408, R416): one that finds no running member waits for it. -/
def execFprint (link : Nat) (m : Msg) (s : State) : Host.Outcome State Fault Refusal :=
  let s1 := s.deliver link m
  if !((s1.linkAt link).flows && decide (link < 8) && decide (m.type = 0x02)) then .next s1
  else
    match s1.groupOf m with
    | none => .next (s1.dropMsg link m.type)
    | some g =>
      if m.dstRank ≠ g.rank then .next s1
      else
        match s1.fprintFor m with
        | some (id, c) =>
          if c.phase = .admitted then .next { s1 with fprintWait := s1.fprintWait ++ [m] } else .next (s1.takeFprint id m).advanceAll
        | none => .next { s1 with fprintWait := s1.fprintWait ++ [m] }

/-- GRANT (R409): CONTRIB goes out for every newly granted segment, source by source, to an owner whose FPRINT has matched (R408). -/
def execGrant (link : Nat) (m : Msg) (s : State) : Host.Outcome State Fault Refusal :=
  .next (collMsg 0x03 link m (fun id c k g s =>
    let q := m.srcRank
    let n := g.members.length
    let top := min m.aux (segCount (chunkLen (clCount c) n q))
    if c.phase ≠ .started ∨ m.attempt ≠ k.attempt ∨ q = g.rank ∨ !(clReduces c) ∨ top ≤ k.grantOf q ∨ !(k.fprints.any (fun p => p.1 == q)) then s
    else
      let old := k.grantOf q
      let s1 := (List.range (top - old)).foldl (fun (a : State) j =>
        (List.range (clSources c)).foldl (fun (b : State) i =>
          b.sendRank c k g q { type := 0x04, segment := old + j, source := i, payload := codeBytes (clElem c) (s.segCodes c n q i (old + j)) }) a) s
      ((s1.setColl id (fun x => x.setGrant q top)).collFinish id).collHeard id) s)

/-- CONTRIB (R404 to R406, R409): added once into the owner's accumulators, across the spine when its staging die is not the link's (R407); a full count fires the segment. -/
def execContrib (link : Nat) (m : Msg) (s : State) : Host.Outcome State Fault Refusal :=
  .next (collMsg 0x04 link m (fun id c k g s =>
    let q := m.srcRank
    let sg := m.segment
    let codes := codesOf (clElem c) m.payload
    let vals := codes.map (elemInt (clElem c))
    let known := k.fprints.any (fun p => p.1 == q && decide (m.source < p.2))
    if c.phase ≠ .started ∨ m.attempt ≠ k.attempt ∨ !(clReduces c) ∨ k.grantOf g.rank ≤ sg ∨ !known ∨ k.seen.contains (q, sg, m.source)
        ∨ codes.length ≠ segLen (chunkLen (clCount c) g.members.length g.rank) sg then s
    else if !(vals.all Option.isSome) then s.failCmd id E_NONFINITE 1
    else
      let s1 := (s.farAdds c.owner link (sg % 8) (5 * codes.length)).addContrib id q sg m.source (vals.map (·.getD 0))
      ((s1.fireSegment id sg).advanceAll).collHeard id) s)

/-- RESULT (R409): the rounded elements of a segment, or the holder's own elements, go to OBJ_DST. -/
def execResult (link : Nat) (m : Msg) (s : State) : Host.Outcome State Fault Refusal :=
  .next (collMsg 0x05 link m (fun id c k g s =>
    let q := m.srcRank
    let n := g.members.length
    let codes := codesOf (clElem c) m.payload
    let due := clOp c == 0 || clOp c == 2 || (clOp c == 3 && q == clRoot c)
    if c.phase ≠ .started ∨ m.attempt ≠ k.attempt ∨ q = g.rank ∨ n ≤ q ∨ !due ∨ codes.length ≠ segLen (clRun c n q).2 m.segment then s
    else if !(codes.all (fun v => (elemInt (clElem c) v).isSome)) then s.failCmd id E_NONFINITE 1
    else ((s.setColl id (fun x => putOut x (clDest c n q m.segment) codes)).collFinish id).collHeard id) s)

/-- DONE (R410). -/
def execDone (link : Nat) (m : Msg) (s : State) : Host.Outcome State Fault Refusal :=
  .next (collMsg 0x06 link m (fun id (c : Cmd) (k : Coll) _ s =>
    if c.phase ≠ .started ∨ m.attempt ≠ k.attempt ∨ k.dones.contains m.srcRank then s
    else ((s.setColl id (fun x => { x with dones := x.dones ++ [m.srcRank] })).collFinish id).collHeard id) s)

/-- ABORT without FINAL (R412): the member restarts at the next attempt; one that waits to run will run that attempt. -/
def execCollAbort (link : Nat) (m : Msg) (s : State) : Host.Outcome State Fault Refusal :=
  .next (if m.final then s.deliver link m else
    collMsg 0x07 link m (fun id (c : Cmd) (k : Coll) _ s =>
      if m.attempt ≠ k.attempt then s
      else if c.phase = .started then (s.collRestart id (k.attempt + 1)).advanceAll
      else if c.phase = .admitted then s.collKill id (k.attempt + 1) false
      else s) s)

/-- ABORT with FINAL (R415, R416): an uncommitted member fails with the sender's rank, or with the same mismatch. -/
def execCollAbortFinal (link : Nat) (m : Msg) (s : State) : Host.Outcome State Fault Refusal :=
  .next (if !m.final then s.deliver link m else
    collMsg 0x07 link m (fun id _ _ _ s =>
      if m.aux % 65536 = E_COLL_MISMATCH then (s.failCmd id E_COLL_MISMATCH (m.aux / 65536 % 65536)).advanceAll
      else (s.failCmd id E_COLL_EPOCH_ABORT m.srcRank).advanceAll) s)

/-- Whether a message that a member needs is missing from rank q: its FPRINT, a GRANT of its chunk, a CONTRIB of a granted segment, a RESULT, or DONE (R408 to R410). -/
def missingFrom (c : Cmd) (k : Coll) (g : Group) (q : Nat) : Bool :=
  let n := g.members.length
  let count := ((k.fprints.find? (fun p => p.1 == q)).map (·.2)).getD 0
  let results := clOp c == 0 || clOp c == 2 || (clOp c == 3 && q == clRoot c)
  !(k.fprints.any (fun p => p.1 == q)) || !(k.dones.contains q)
    || (clReduces c && (decide (k.grantOf q < segCount (chunkLen (clCount c) n q))
      || (List.range (k.grantOf g.rank)).any (fun sg => (List.range count).any (fun i => !(k.seen.contains (q, sg, i))))))
    || (results && (List.range (segCount (clRun c n q).2)).any (fun sg => !(NMap.has k.out (clDest c n q sg))))

/-- COLL_TIMEOUT (R417): TIMEOUT_MS without a needed message; DETAIL names the lowest rank that owes one. -/
def execCollTimeout (cmd : Nat) (t : Word) (s : State) : Host.Outcome State Fault Refusal :=
  match s.cmd? cmd with
  | some c =>
    let s1 := s.reach c.home t
    match c.coll, NMap.get? s1.groups (c.f 16 2) with
    | some k, some g =>
      match g.others.find? (missingFrom c k g) with
      | some q =>
        if s1.serving && decide (c.opcode = 0x07) && decide (c.phase = .started)
            && decide (c.f 72 4 * 100000 ≤ (s1.counter c.home - k.lastMsg).toNat) then
          .next (s1.failCmd cmd E_COLL_TIMEOUT (q + if k.sentDone then 0x8000 else 0)).advanceAll
        else .next s1
      | none => .next s1
    | _, _ => .next s1
  | none => .next s

/-- PREEMPT_GRACE_EXPIRY (R413): a deferred pre-emption reaches PREEMPT_GRACE microseconds; the member sends ABORT and is killed. -/
def execPreemptGraceExpiry (cmd : Nat) (t : Word) (s : State) : Host.Outcome State Fault Refusal :=
  match s.cmd? cmd with
  | some c =>
    let s1 := s.reach c.home t
    match c.coll with
    | some k =>
      match k.grace with
      | some g0 =>
        if s1.serving && decide (c.opcode = 0x07) && decide (c.phase = .started) && !k.sentDone
            && decide (s1.setting c.owner 0x0011 0 * 100 ≤ (s1.counter c.home - g0).toNat) then .next (s1.collPreempt cmd).advanceAll
        else .next s1
      | none => .next s1
    | none => .next s1
  | none => .next s

end Sys2Proof.Machine
end

