-- ==== Sys2Proof/Machine/Peers.lean ====
section
/-! DEFINITION. Peer transfers: MOVE PEER_SEND and PEER_RECV, pairing, data, completion, restarts and timeouts (R418, R419). -/

namespace Sys2Proof.Machine

/-- Bytes of a peer transfer. -/
def State.peerBytes (s : State) (c : Cmd) : Nat :=
  match s.obj? c.owner (if c.f 16 1 = 4 then c.f 20 4 else c.f 24 4) with
  | some (_, o) => c.f 48 8 * o.unit
  | none => 0

def State.setPeer (s : State) (id : Nat) (f : Peer → Peer) : State :=
  match s.cmd? id with
  | some c => s.setCmd id { c with peer := c.peer.map f }
  | none => s

/-- Send a peer message of a command on its link. -/
def State.sendPeer (s : State) (c : Cmd) (k : Peer) (m : Msg) : State :=
  s.sendLinkFor c.owner (c.f 80 1) { m with opSeq := c.f 84 4, attempt := k.attempt, length := m.payload.length }

/-- The bytes a sender streams: the range in the layout of EXPORT (R372). -/
def State.peerSource (s : State) (c : Cmd) : Bytes :=
  match s.obj? c.owner (c.f 20 4) with
  | some (key, a) =>
    let v := c.viewOf key a
    let so := c.f 32 8
    if a.kind = 1 then a.readBytes v so (c.f 48 8)
    else (List.range (c.f 48 8)).flatMap (fun k => exportSlot a (slotIn v (so + k)) (so + k) (c.f 20 4))
  | none => []

/-- Poison in a sender's range. -/
def State.peerPoison (s : State) (c : Cmd) : Option Nat :=
  match s.obj? c.owner (c.f 20 4) with
  | some (key, a) =>
    let v := c.viewOf key a
    if a.kind = 1 then a.poisonBytes v (c.f 32 8) (c.f 48 8) c.home else slotPoison a v (c.f 32 8) (c.f 48 8) c.home
  | none => none

/-- Stream every PEER_DATA message in ascending offset order (R418 step 4); poison in what is read fails the sender (R338). -/
def State.streamPeer (s : State) (id : Nat) : State :=
  match s.cmd? id with
  | none => s
  | some c =>
    match c.peer with
    | some k =>
      match s.peerPoison c with
      | some p => s.failCmd id E_MEM_UNCORRECTABLE p
      | none =>
        let b := s.peerSource c
        let s1 := (List.range (ceilDiv b.length 16384)).foldl (fun (a : State) j =>
          a.sendPeer c k { type := 0x11, segment := j, payload := (b.drop (16384 * j)).take 16384 }) s
        s1.setPeer id (fun x => { x with paired := true, sentAll := true, moved := x.total, lastMsg := s.counter c.home })
    | none => s

/-- Kill a transfer and leave it to run a later attempt (R412, R419). -/
def State.peerKill (s : State) (id next : Nat) : State :=
  match s.cmd? id with
  | none => s
  | some c =>
    if s.setting c.owner 0x0010 0 ≤ c.victimKills then s.failCmd id E_RERUN_LIMIT 0
    else
      let s1 := s.killCmd id false
      match s1.cmd? id with
      | some d => s1.setCmd id { d with victimKills := c.victimKills + 1, image := [], peer := some { attempt := next, everSent := (c.peer.getD {}).everSent } }
      | none => s1

/-- A sender that starts waits for the PEER_READY of its attempt. -/
def State.waitReady (s : State) (id : Nat) : State :=
  match s.cmd? id with
  | some c => if c.phase = .started then s.setPeer id (fun x => { x with total := s.peerBytes c, lastMsg := s.counter c.home }) else s
  | none => s

/-- Restart a sender, attempt by attempt, until it has reached attempt `top`, or cannot run now (R412). -/
def State.sendCatchUp : Nat → State → Nat → Nat → State
  | 0, s, _, _ => s
  | fuel + 1, s, id, top =>
    match s.cmd? id with
    | some c =>
      let at_ := (c.peer.getD {}).attempt
      if at_ < top ∧ c.phase = .started then State.sendCatchUp fuel (((s.peerKill id (at_ + 1)).ensureStart id).waitReady id) id top else s
    | none => s

/-- A PEER_READY waits at the sending part; beyond 256 on a link the oldest is dropped (R418 step 2). -/
def State.keepReady (s : State) (link : Nat) (w : Nat × Nat × Nat) : State :=
  let x := s.linkAt link
  s.setLink link { x with waitingReady := (x.waitingReady ++ [w]).drop (x.waitingReady.length + 1 - 256) }

/-- Pair a sender with a PEER_READY: the lengths are compared, and data follows (R418 step 3). A READY of a later attempt restarts the sender, and waits if the sender cannot run that attempt now. -/
def State.pairPeer (s : State) (id attempt len : Nat) : State :=
  match s.cmd? id with
  | none => s
  | some c =>
    match c.peer with
    | none => s
    | some k =>
      if c.phase ≠ .started ∨ attempt < k.attempt ∨ (attempt = k.attempt ∧ k.paired) then s
      else
        let s1 := s.sendCatchUp (attempt - k.attempt) id attempt
        match s1.cmd? id with
        | none => s1
        | some d =>
          if d.phase ≠ .started then s1.keepReady (d.f 80 1) (d.f 84 4, attempt, len)
          else
            let s2 := s1.setCmd id { d with peer := some { attempt := attempt, total := s1.peerBytes d, paired := true, everSent := true, lastMsg := s1.counter d.home } }
            if len ≠ s1.peerBytes d then s2.failCmd id E_COLL_MISMATCH 3 else s2.streamPeer id

/-- What a sender fails with as it begins: the first of R420 among poison in its source, a waiting PEER_READY of another length, and a link that is down. -/
def State.sendFail (s : State) (c : Cmd) (k : Peer) (ready : List (Nat × Nat × Nat)) : Option (Nat × Nat) :=
  match s.peerPoison c with
  | some p => some (E_MEM_UNCORRECTABLE, p)
  | none =>
    if ready.any (fun w => decide (w.2.1 = k.attempt) && decide (w.2.2 ≠ k.total)) then some (E_COLL_MISMATCH, 3)
    else (s.downLink c).map (fun l => (E_LINK_DOWN, l))

/-- MOVE PEER_SEND (R418): starts, and takes the PEER_READYs that wait for it. -/
def execMovePeerSend (cmd : Nat) (s : State) : Host.Outcome State Fault Refusal :=
  .next (move 4 (fun id c s =>
    let old := c.peer.getD {}
    if old.total ≠ 0 then s
    else
      let l := c.f 80 1
      let x := s.linkAt l
      let ready := x.waitingReady.filter (fun w => w.1 == c.f 84 4)
      let k : Peer := { old with total := s.peerBytes c, lastMsg := s.counter c.home }
      match s.sendFail c k ready with
      | some f => (s.setCmd id { c with peer := some { k with everSent := k.everSent || decide (f.1 = E_COLL_MISMATCH) } }).failCmd id f.1 f.2
      | none =>
        ready.foldl (fun (a : State) w => a.pairPeer id w.2.1 w.2.2)
          ((s.setCmd id { c with peer := some k }).setLink l { x with waitingReady := x.waitingReady.filter (fun w => w.1 != c.f 84 4) })) cmd s)

/-- Begin an attempt of a receiver: PEER_READY with the transfer, the attempt and the length (R418 step 1). -/
def State.openRecv (s : State) (id : Nat) : State :=
  match s.cmd? id with
  | none => s
  | some c =>
    if c.phase ≠ .started then s
    else
      match s.downLink c with
      | some l => s.failCmd id E_LINK_DOWN l
      | none =>
        let k : Peer := { attempt := (c.peer.getD {}).attempt, total := s.peerBytes c, paired := true, everSent := true, lastMsg := s.counter c.home }
        (s.setCmd id { c with peer := some k, image := [] }).sendPeer c k { type := 0x10, payload := leBytes 8 (s.peerBytes c) }

/-- MOVE PEER_RECV (R418): held while an earlier one of the same link and TRANSFER_ID is open. -/
def execMovePeerRecv (cmd : Nat) (s : State) : Host.Outcome State Fault Refusal :=
  .next (match s.cmd? cmd with
    | none => s
    | some c0 =>
      if s.cmds.any (fun x => decide (x.1 < cmd) && decide (x.2.opcode = 0x06) && decide (x.2.f 16 1 = 5) && decide (x.2.f 80 1 = c0.f 80 1) && decide (x.2.f 84 4 = c0.f 84 4)) then s
      else move 5 (fun id c s =>
        if (c.peer.getD {}).total ≠ 0 then s else s.openRecv id) cmd s)

/-- The uncommitted MOVE of an OP that a peer message on a link is for. -/
def State.peerFor (s : State) (op link : Nat) (m : Msg) : Option (Nat × Cmd) :=
  s.cmds.find? (fun c => decide (c.2.opcode = 0x06) && decide (c.2.f 16 1 = op) && c.2.uncommitted && decide (c.2.f 80 1 = link) && decide (c.2.f 84 4 = m.opSeq))

/-- PEER_READY (R418 steps 2 and 3): paired with its sender, or kept; beyond 256 the oldest is dropped. -/
def execPeerReady (link : Nat) (m : Msg) (s : State) : Host.Outcome State Fault Refusal :=
  let s1 := s.deliver link m
  let x := s1.linkAt link
  if !(x.flows && decide (link < 8) && decide (m.type = 0x10)) then .next s1
  else
    match s1.peerFor 4 link m with
    | some (id, c) =>
      if c.phase = .started then .next (s1.pairPeer id m.attempt (fld m.payload 0 8))
      else .next (s1.keepReady link (m.opSeq, m.attempt, fld m.payload 0 8))
    | none => .next (s1.keepReady link (m.opSeq, m.attempt, fld m.payload 0 8))

/-- Write what a receiver has gathered into its destination, as IMPORT does (R372, R418 step 5). -/
def State.storePeer (s : State) (id : Nat) (c : Cmd) (b : Bytes) : State ⊕ (Nat × Nat) :=
  match s.obj? c.owner (c.f 24 4) with
  | none => .inl s
  | some (key, o) =>
    let d0 := c.f 40 8
    if o.kind = 1 then .inl (s.putObj id key d0 b)
    else
      let slots := (List.range (c.f 48 8)).map (fun k => (b.drop (k * o.slot)).take o.slot)
      match slots.findSome? (slotFault o) with
      | some f => .inr f
      | none => .inl (slots.zipIdx.foldl (fun (x : State) (k : Bytes × Nat) => x.putIngot id key (d0 + k.2) (rehead k.1 (c.f 24 4) (d0 + k.2) o.nextCommit) none) s)

/-- PEER_DATA (R418 step 5): the next bytes join what has arrived; the last ones bring PEER_DONE and the receiver's decision point. -/
def execPeerData (link : Nat) (m : Msg) (s : State) : Host.Outcome State Fault Refusal :=
  let s1 := s.deliver link m
  if !((s1.linkAt link).flows && decide (link < 8) && decide (m.type = 0x11)) then .next s1
  else
    match s1.peerFor 5 link m with
    | some (id, c) =>
      match c.peer with
      | some k =>
        if c.phase ≠ .started ∨ m.attempt ≠ k.attempt ∨ m.segment * 16384 ≠ k.moved ∨ k.total < k.moved + m.payload.length then .next s1
        else
          let b := c.image ++ m.payload
          let k1 := { k with moved := k.moved + m.payload.length, lastMsg := s1.counter c.home }
          let s2 := s1.setCmd id { c with peer := some k1, image := b }
          if k1.moved < k1.total then .next s2
          else
            match s2.storePeer id c b with
            | .inr f => .next (s2.failCmd id f.1 f.2)
            | .inl s3 => .next ((s3.sendPeer c k1 { type := 0x12 }).toReady id (fun x => { x with status := OK, detail := 0, image := [], peer := none }))
      | none => .next s1
    | none => .next s1

/-- PEER_DONE (R418 step 6): the sender may commit. -/
def execPeerDone (link : Nat) (m : Msg) (s : State) : Host.Outcome State Fault Refusal :=
  let s1 := s.deliver link m
  if !((s1.linkAt link).flows && decide (link < 8) && decide (m.type = 0x12)) then .next s1
  else
    match s1.peerFor 4 link m with
    | some (id, c) =>
      match c.peer with
      | some k =>
        if c.phase = .started ∧ m.attempt = k.attempt ∧ k.sentAll then
          .next (s1.toReady id (fun x => { x with status := OK, detail := 0, peer := none }))
        else .next s1
      | none => .next s1
    | none => .next s1

/-- PEER_ABORT (R419): with FINAL the transfer fails E_COLL_EPOCH_ABORT, or with the same mismatch; without it a running attempt restarts, and one that waits to run will run the next attempt. -/
def execPeerAbort (link : Nat) (m : Msg) (s : State) : Host.Outcome State Fault Refusal :=
  let s1 := s.deliver link m
  if !((s1.linkAt link).flows && decide (link < 8) && decide (m.type = 0x13)) then .next s1
  else
    match (s1.peerFor 4 link m).orElse (fun _ => s1.peerFor 5 link m) with
    | some (id, c) =>
      let k := c.peer.getD {}
      if m.attempt < k.attempt then .next s1
      else if m.final then
        .next (if m.aux % 65536 = E_COLL_MISMATCH then s1.failCmd id E_COLL_MISMATCH (m.aux / 65536 % 65536) else s1.failCmd id E_COLL_EPOCH_ABORT 0)
      else if m.attempt = k.attempt ∧ c.phase = .started then
        let s2 := (s1.peerKill id (k.attempt + 1)).ensureStart id
        .next (if c.f 16 1 = 5 then s2.openRecv id else s2.waitReady id)
      else if m.attempt = k.attempt ∧ c.phase = .admitted then .next (s1.peerKill id (k.attempt + 1))
      else .next s1
    | none => .next s1

/-- PEER_TIMEOUT (R419): 1,000 ms without progress; bit 15 of the detail on a sender that had sent every byte. -/
def execPeerTimeout (cmd : Nat) (t : Word) (s : State) : Host.Outcome State Fault Refusal :=
  match s.cmd? cmd with
  | some c =>
    let s1 := s.reach c.home t
    match c.peer with
    | some k =>
      if s1.serving && decide (c.opcode = 0x06) && decide (c.phase = .started) && decide (100000000 ≤ (s1.counter c.home - k.lastMsg).toNat) then
        .next (s1.failCmd cmd E_COLL_TIMEOUT (if k.sentAll then 0x8000 else 0))
      else .next s1
    | none => .next s1
  | none => .next s

end Sys2Proof.Machine
end

