-- ==== Sys2Proof/Machine/Models.lean ====
section
/-! DEFINITION. Model packages: the manifest and its checks (R421 to R423), shards, decryption and record checks (R424 to R426), MODEL_LOAD and its relay along a chain (R427 to R434), unload (R434), alloys (R435 to R438). -/

namespace Sys2Proof.Machine

/-! ### The manifest (Tables 18-1 to 18-3) -/

def mfEncrypted (m : Bytes) : Bool := bitOf (fld m 6 1) 0
def mfModel (m : Bytes) : Nat := fld m 8 4
def mfTensors (m : Bytes) : Nat := fld m 16 4
def mfShards (m : Bytes) : Nat := fld m 20 4
def mfTimeout (m : Bytes) : Nat := fld m 24 4
def mfKey (m : Bytes) : Bytes := (m.drop 40).take 57
/-- The length of a manifest, from its header. -/
def mfLen (m : Bytes) : Nat := 128 + 32 * mfTensors m + 64 * mfShards m + 114
/-- The byte where shard i's entry begins. -/
def shardAt (m : Bytes) (i : Nat) : Nat := 128 + 32 * mfTensors m + 64 * i
def shTensor (m : Bytes) (i : Nat) : Nat := fld m (shardAt m i) 4
def shFirst (m : Bytes) (i : Nat) : Nat := fld m (shardAt m i + 4) 4
def shIngots (m : Bytes) (i : Nat) : Nat := fld m (shardAt m i + 8) 4
def shOffset (m : Bytes) (i : Nat) : Nat := fld m (shardAt m i + 16) 8
def shLen (m : Bytes) (i : Nat) : Nat := fld m (shardAt m i + 24) 4
def shDigest (m : Bytes) (i : Nat) : Bytes := (m.drop (shardAt m i + 32)).take 32

/-- P of R422: the end of a slot's last region other than the promotion index and side table. -/
def recordLen (fmt : Nat) : Nat :=
  match fmt with
  | 0x01 => 9408 | 0x02 => 9408
  | 0x03 => 9424
  | 0x04 => 10432
  | 0x05 => 13504 | 0x06 => 13504
  | 0x07 => 17024 | 0x08 => 17024 | 0x09 => 17024
  | 0x10 => 32832 | 0x11 => 32832
  | _ => 65600

/-- Whether a tensor entry is in range. -/
def tensorOk (m : Bytes) (t : Nat) (x : ModelTensor) : Bool :=
  let e := 128 + 32 * t
  ((decide (0x01 ≤ x.fmt) && decide (x.fmt ≤ 0x09)) || fmtWide x.fmt) && (!x.sparse || sparseFmt x.fmt) && decide (fld m (e + 1) 1 < 4)
    && zeros m (e + 2) (e + 4) && zeros m (e + 24) (e + 32)
    && decide (1 ≤ x.rows) && decide (x.rows ≤ 2 ^ 27) && decide (1 ≤ x.cols) && decide (x.cols ≤ 2 ^ 27)
    && decide (1 ≤ x.batch) && decide (x.batch ≤ 65536) && decide (x.batch * ceilDiv x.rows 128 * ceilDiv x.cols 128 ≤ 2 ^ 32 - 1)

/-- Whether the shards of a tensor are consecutive and cover each of its ingots once. -/
def shardsCover (m : Bytes) (t : Nat) (x : ModelTensor) : Bool :=
  let first := fld m (128 + 32 * t + 16) 4
  let n := fld m (128 + 32 * t + 20) 4
  let run := (List.range n).foldl (fun (a : Nat × Bool) i =>
    let k := first + i
    (a.1 + shIngots m k, a.2 && decide (shTensor m k = t) && decide (shFirst m k = a.1) && decide (1 ≤ shIngots m k) && decide (shIngots m k ≤ 65536)
      && decide (shLen m k = shIngots m k * recordLen x.fmt + if mfEncrypted m then 16 else 0) && decide (shLen m k ≤ 64 * 2 ^ 20)
      && zeros m (shardAt m k + 12) (shardAt m k + 16) && zeros m (shardAt m k + 28) (shardAt m k + 32))) (0, true)
  decide (first + n ≤ mfShards m) && run.2 && decide (run.1 = (x.obj [0]).count)

/-- Whether a manifest obeys R422 and the ranges of its tables. -/
def manifestWf (m : Bytes) (len : Nat) : Bool :=
  let ts := manifestTensors m
  decide (fld m 0 4 = 0x464E414D) && decide (fld m 4 2 = 1) && decide (fld m 6 1 < 2) && zeros m 7 8 && decide (mfModel m ≠ 0)
    && decide (1 ≤ fld m 12 2) && decide (fld m 12 2 ≤ 256) && [1, 2, 4, 8].contains (fld m 14 1) && zeros m 15 16
    && decide (1 ≤ mfTensors m) && decide (mfTensors m ≤ 4096) && decide (1 ≤ mfShards m) && decide (mfShards m ≤ 65536)
    && decide (1 ≤ mfTimeout m) && decide (mfTimeout m ≤ 60000) && (mfEncrypted m || decide (fld m 28 8 = 0)) && zeros m 36 40 && zeros m 97 128
    && decide (len = mfLen m) && (ts.zipIdx.all (fun e => tensorOk m e.2 e.1 && shardsCover m e.2 e.1))
    && (List.range (mfShards m)).all (fun i =>
      let t := shTensor m i
      decide (t < mfTensors m) && decide (fld m (128 + 32 * t + 16) 4 ≤ i) && decide (i < fld m (128 + 32 * t + 16) 4 + fld m (128 + 32 * t + 20) 4))

/-- The dies that hold the objects of an owner's models. -/
def State.modelDies (s : State) (owner : Nat) : List Nat :=
  match NMap.get? s.parts owner with | some p => p.dieList | none => List.range 8

/-- Whether the storage of new model objects fits: the partition's T2 quota, or for the package HBM outside every partition's quota (R428, R444). -/
def State.modelFits (s : State) (owner : Nat) (os : List Obj) : Bool :=
  (List.range 8).all (fun d =>
    let need := (os.map (fun o => o.t2 d)).sum
    if owner = packageOwner then
      decide (((s.parts.filter (fun p => p.2.onDie d)).map (fun p => p.2.setting 0x0002 d)).sum + s.pool.getD d 0 * 151552 + 164 * 2 ^ 20
        + s.sharedUse d + s.loadUse packageOwner d + need ≤ 192 * 2 ^ 30)
    else decide (need = 0) || decide (s.t2Use owner d + need ≤ s.setting owner 0x0002 d))

/-- Whether a manifest's signature is good for the key it carries (R421, R423). -/
def manifestSigned (m : Bytes) : Bool := Config.ed448Verify (mfKey m) (Config.shake256 64 (m.take (m.length - 114))) (m.drop (m.length - 114))

/-- Whether the handles of a load on a partition ring pass 0xFFFF_FFFF (R428). -/
def handlesPass (owner base tensors : Nat) : Bool := decide (owner ≠ packageOwner) && decide (2 ^ 32 < base + tensors)

/-- The first failure of a manifest (R423, R425, R428, R438): the handle range, handles in use, the quota, then the signature, the model, R422, the publisher key and the content key. -/
def State.manifestFail (s : State) (c : Cmd) (k : Load) (m : Bytes) : Option (Nat × Nat) :=
  let base := c.f 24 4
  let pkg := decide (c.owner = packageOwner)
  let os := (manifestTensors m).map (fun x => x.obj (s.modelDies c.owner))
  let trusted := match NMap.get? s.parts c.owner with | some p => (NMap.values p.publisherKeys).contains (mfKey m) | none => false
  if handlesPass c.owner base (mfTensors m) then some (E_BAD_DESCRIPTOR, 0x0118)
  else if !pkg && (List.range (mfTensors m)).any (fun t => s.handleUsed c.owner (base + t)) then some (E_OBJECT_POLICY, 3)
  else if !(s.modelFits c.owner os) then some (E_QUOTA, 0)
  else if !(manifestSigned m) then some (E_SIGNATURE, 1)
  else if mfModel m ≠ c.f 20 4 then some (E_SIGNATURE, 2)
  else if !(manifestWf m m.length) then some (E_SIGNATURE, 3)
  else if !pkg && !trusted then some (E_KEY, 1)
  else if mfEncrypted m && (pkg || k.key.isNone) then some (E_KEY, 3)
  else none

/-! ### Shards and records (R424 to R426) -/

/-- The decrypted bytes of a shard; none when the tag fails (R425). -/
def shardPlain (k : Load) (i : Nat) (b : Bytes) : Option Bytes :=
  let m := k.manifest
  if mfEncrypted m then
    let n := b.length - 16
    Config.gcmOpen (k.key.getD []) (leBytes 8 (fld m 28 8) ++ leBytes 4 i) (leBytes 4 (mfModel m) ++ leBytes 4 i) (b.take n) (b.drop n)
  else some b

/-- What one ingot record fails with (R426), the codes in the order of R438. -/
def recordFault (x : ModelTensor) (r : Bytes) : Option (Nat × Nat) :=
  let h := headerOf r
  if h.fmt ≠ x.fmt ∨ h.sparse ≠ x.sparse ∨ h.axis ≠ x.axis ∨ fld r 2 1 ≠ 1 ∨ h.extended then some (E_OBJECT_POLICY, 4)
  else if h.zero then none
  else
    let bads := (List.range 128).flatMap (fun i => (List.range 128).filterMap (fun j =>
      match storedElement r 0 false i j with | .ok _ => none | .error e => some e))
    let book := decide (x.fmt = 0x03) && (List.range 16).any (fun k => !((e4m3.decode (fld r (9408 + k) 1)).finite))
    if bads.contains .element || book then some (E_NONFINITE, 1)
    else if bads.contains .scale then some (E_NONFINITE, 3)
    else if decide (x.fmt = 0x04) && (List.range 1024).any (fun k => decide (15 < fld r (9408 + k) 1)) then some (E_BAD_OBJECT, 0)
    else if bads.contains .nibble then some (E_SPARSE_META, 1)
    else none

/-- The tensor a shard belongs to. -/
def shardTensor (m : Bytes) (i : Nat) : ModelTensor :=
  (manifestTensors m).getD (shTensor m i) { fmt := 0, sparse := false, axis := 0, rows := 0, cols := 0, batch := 0 }

/-- The records of a shard's plain bytes. -/
def shardRecords (m : Bytes) (i : Nat) (plain : Bytes) : List Bytes :=
  let p := recordLen (shardTensor m i).fmt
  (List.range (shIngots m i)).map (fun j => (plain.drop (j * p)).take p)

/-- What a verified shard fails with, over all its records. -/
def shardFaults (k : Load) (i : Nat) (b : Bytes) : List (Nat × Nat) :=
  match shardPlain k i b with
  | none => [(E_KEY, 2)]
  | some plain => (shardRecords k.manifest i plain).filterMap (recordFault (shardTensor k.manifest i))

/-- The codes found after admission, in the order of R438; lost shards rank after them. -/
def loadOrder : List Nat := [E_KEY, E_OBJECT_POLICY, E_NONFINITE, E_BAD_OBJECT, E_SPARSE_META]

/-- The first failure, by R438, of the records of every verified shard. -/
def Load.recordFail (k : Load) : Option (Nat × Nat) :=
  pickFail loadOrder (k.shards.flatMap (fun e => if e.2.verified then shardFaults k e.1 e.2.bytes else []))

/-! ### A load in progress -/

def State.setLoad (s : State) (id : Nat) (f : Load → Load) : State :=
  match s.cmd? id with
  | some c => s.setCmd id { c with load := c.load.map f }
  | none => s

def Load.modShard (k : Load) (i : Nat) (f : Shard → Shard) : Load := { k with shards := NMap.set k.shards i (f (NMap.getD k.shards i {})) }

def mlRelay (c : Cmd) : Bool := c.f 17 1 == 1
def mlDown (c : Cmd) : Bool := c.f 19 1 != 0xFF

/-- Send a relay message upstream or downstream (R429). -/
def State.sendUp (s : State) (c : Cmd) (m : Msg) : State :=
  if mlRelay c then s.sendLinkFor c.owner (c.f 18 1) { m with opSeq := c.f 28 4, length := m.payload.length } else s
def State.sendDown (s : State) (c : Cmd) (m : Msg) : State :=
  if mlDown c then s.sendLinkFor c.owner (c.f 19 1) { m with opSeq := c.f 28 4, length := m.payload.length } else s

/-- Forward a shard's bytes downstream (R429, R430). -/
def State.forwardShard (s : State) (id : Nat) (c : Cmd) (i : Nat) (b : Bytes) : State :=
  let s1 := (List.range (ceilDiv b.length 16384)).foldl (fun (a : State) j =>
    a.sendDown c { type := 0x22, segment := i, aux := 16384 * j, payload := (b.drop (16384 * j)).take 16384 }) s
  s1.setLoad id (fun k => k.modShard i (fun x => { x with forwarded := true }))

/-- Send downstream what is due: the manifest once its signature has checked, then the verified shards not yet sent, in ascending order (R430). -/
def State.feedDown (s : State) (id : Nat) : State :=
  match s.cmd? id with
  | none => s
  | some c =>
    match c.load with
    | none => s
    | some k =>
      if !(mlDown c) || !k.downReady || !k.sigOk || k.downGone then s
      else
        let s1 := if k.manifestSent then s else
          ((List.range (ceilDiv k.manifest.length 16384)).foldl (fun (a : State) j =>
            a.sendDown c { type := 0x21, segment := j, payload := (k.manifest.drop (16384 * j)).take 16384 }) s).setLoad id (fun x => { x with manifestSent := true })
        (k.shards.filter (fun e => e.2.verified && !e.2.forwarded)).foldl (fun (a : State) e => a.forwardShard id c e.1 e.2.bytes) s1

/-- Whether the host copy of a shard can be read. -/
def hostHas (c : Cmd) (m : Bytes) (i : Nat) : Bool := decide (c.f 48 8 ≠ 0) && decide (shOffset m i + shLen m i ≤ c.f 56 8)

/-- How often a shard is read from the host: a load from the host reads it once and re-reads it three times, a relayed one reads it once (R431). -/
def hostReads (c : Cmd) : Nat := if mlRelay c then 1 else 4

/-- Read a shard from the host, again while PCI Express fails the read and tries are left; one that is not there, or that no try brings, is lost (R431). A stopped stream fails the load (R502). -/
def State.tryShard : Nat → State → Nat → Nat → State
  | 0, s, id, i => s.setLoad id (fun k => k.modShard i (fun x => { x with gone := true }))
  | fuel + 1, s, id, i =>
    match s.cmd? id with
    | none => s
    | some c =>
      match c.load with
      | none => s
      | some k =>
        if hostHas c k.manifest i then
          match s.dmaStop (s.functionOf c.owner) with
          | some stream => s.failCmd id E_IDE_STREAM stream
          | none =>
          let at_ := c.f 48 8 + shOffset k.manifest i
          let n := shLen k.manifest i
          let s1 := ((s.takeFresh).bulkDma c.owner false at_ n).setLoad id (fun y => y.modShard i (fun x => { x with rereads := x.rereads + 1 }))
          if Config.readFails s.fresh then State.tryShard fuel s1 id i
          else s1.setLoad id (fun y => y.modShard i (fun x => { x with bytes := s.hostRead at_ n, got := n, complete := true, doneAt := s.counter c.home }))
        else s.setLoad id (fun y => y.modShard i (fun x => { x with gone := true }))

/-- Read a shard from the host with the tries it has left (R431 step 2). -/
def State.readShard (s : State) (id i : Nat) : State :=
  match s.cmd? id with
  | some c => match c.load with | some k => State.tryShard (hostReads c - (NMap.getD k.shards i {}).rereads) s id i | none => s
  | none => s

/-- End a load when every shard is verified or lost: its failure by the order of R438, or its decision point when the downstream part needs no more (R432, R433). -/
def State.loadCheck (s : State) (id : Nat) : State :=
  match s.cmd? id with
  | none => s
  | some c =>
    match c.load with
    | none => s
    | some k =>
      if c.phase ≠ .started ∨ !k.manifestOk ∨ k.shards.any (fun e => !e.2.verified && !e.2.gone) then s
      else
        let lost := k.shards.filter (fun e => !e.2.verified)
        let unacked := (k.shards.filter (fun e => !e.2.acked)).length
        match k.recordFail with
        | some f => s.failCmd id f.1 f.2
        | none =>
        if !lost.isEmpty then
          s.failCmd id (if lost.any (fun e => !e.2.bad) then E_LOAD_INCOMPLETE else E_SHARD_CORRUPT) (satBits 16 lost.length)
        else if mlDown c && !k.downGone && !k.downSilent && decide (0 < unacked) then s
        else s.setCmd id { c with phase := .ready, status := OK, detail := if mlDown c then satBits 16 unacked else 0 }

/-- Recover a bad or missing shard (R431): upstream three times, then the host; a load from the host re-reads three times. -/
def State.recoverShard (s : State) (id i : Nat) : State :=
  match s.cmd? id with
  | none => s
  | some c =>
    match c.load with
    | none => s
    | some k =>
      let x := NMap.getD k.shards i {}
      if mlRelay c ∧ !k.upDown ∧ x.naks < 3 then
        (s.sendUp c { type := 0x24, segment := i }).setLoad id (fun y => y.modShard i (fun z =>
          { z with bytes := [], got := 0, complete := false, naks := z.naks + 1, askedAt := s.counter c.home }))
      else ((s.setLoad id (fun y => y.modShard i (fun z => { z with complete := false }))).readShard id i).loadCheck id

/-- The shards of a manifest, none of them here yet. -/
def awaited (m : Bytes) : NMap Shard := (List.range (mfShards m)).map (fun i => (i, ({} : Shard)))

/-- Judge a manifest that has been read: once its signature has checked it goes downstream (R430); its failure, or its shards become awaited, and a load from the host reads them all (R423, R428). The report of a load whose manifest was sound counts every shard (R432). -/
def State.takeManifest (s : State) (id : Nat) (m : Bytes) : State :=
  match s.cmd? id with
  | none => s
  | some c =>
    match c.load with
    | none => s
    | some k =>
      let s0 := if manifestSigned m then (s.setLoad id (fun x => { x with manifest := m, sigOk := true })).feedDown id else s
      match s.manifestFail c k m with
      | some f => (s0.setLoad id (fun x => if f.1 = E_KEY then { x with shards := awaited m } else x)).failCmd id f.1 f.2
      | none =>
        let s1 := s0.setLoad id (fun x => { x with manifest := m, manifestOk := true, shards := awaited m })
        let s2 := if mlRelay c ∧ !k.upDown then s1 else (List.range (mfShards m)).foldl (fun (a : State) i => a.readShard id i) s1
        (s2.feedDown id).loadCheck id

/-- The DMA read of a manifest (R423). -/
def State.manifestDma (s : State) (c : Cmd) : State := s.bulkDma c.owner false (c.f 32 8) (c.f 40 4)

/-- MODEL_LOAD, ACTION load (R427 to R430): a load from the host reads its manifest and shards; a relay part announces itself upstream. -/
def execModelLoad (cmd : Nat) (s : State) : Host.Outcome State Fault Refusal :=
  .next (control 0x49 (fun c => c.f 16 1 == 0) (fun c s =>
    if c.phase ≠ .admitted then s
    else
      match s.downLink c with
      | some l => s.failCmd cmd E_LINK_DOWN l
      | none =>
        let now := s.counter c.home
        let key := match c.load with | some k => k.key | none => none
        let early := mlDown c && (s.linkAt (c.f 19 1)).relayReady.contains (c.f 28 4)
        let s0 := if early then
            (let x := s.linkAt (c.f 19 1); s.setLink (c.f 19 1) { x with relayReady := x.relayReady.filter (fun r => r != c.f 28 4) })
          else s
        let s1 := (s0.setCmd cmd { c with load := some { key := key, lastUp := now, lastDown := now, downReady := early } }).startCmd cmd
        if mlRelay c then s1.sendUp c { type := 0x20, aux := c.f 20 4 }
        else (s1.manifestDma c).takeManifest cmd (s1.hostRead (c.f 32 8) (c.f 40 4))) cmd s)

/-- The uncommitted load of a RELAY_ID that receives on a link (`up`) or forwards on it. -/
def State.loadFor (s : State) (up : Bool) (link : Nat) (m : Msg) : Option (Nat × Cmd) :=
  s.cmds.find? (fun c => decide (c.2.opcode = 0x49) && decide (c.2.f 16 1 = 0) && c.2.uncommitted && decide (c.2.phase ≠ .admitted)
    && decide (c.2.f 28 4 = m.opSeq) && (if up then mlRelay c.2 && decide (c.2.f 18 1 = link) else mlDown c.2 && decide (c.2.f 19 1 = link)))

/-- What a relay message of a type does at the load it is for. -/
def relayMsg (type : Nat) (up : Bool) (link : Nat) (m : Msg) (f : Nat → Cmd → Load → State → State) (s : State) : State :=
  let s1 := s.deliver link m
  if !((s1.linkAt link).flows && decide (link < 8) && decide (m.type = type)) then s1
  else
    match s1.loadFor up link m with
    | some (id, c) =>
      match c.load with
      | some k => f id c k (s1.setLoad id (fun x => if up then { x with lastUp := s1.counter c.home } else { x with lastDown := s1.counter c.home, downSilent := false }))
      | none => s1
    | none => s1

/-- RELAY_READY (R430): one that comes before the load it is for is kept for it. -/
def execRelayReady (link : Nat) (m : Msg) (s : State) : Host.Outcome State Fault Refusal :=
  let s1 := s.deliver link m
  let x := s1.linkAt link
  if !(x.flows && decide (link < 8) && decide (m.type = 0x20)) then .next s1
  else
    match s1.loadFor false link m with
    | some (id, c) => .next ((s1.setLoad id (fun k => { k with downReady := true, lastDown := s1.counter c.home, downSilent := false })).feedDown id)
    | none => .next (s1.setLink link { x with relayReady := x.relayReady.filter (fun r => r != m.opSeq) ++ [m.opSeq] })

/-- RELAY_MANIFEST (R423, R430): the next bytes of the manifest; whole, it is judged. -/
def execRelayManifest (link : Nat) (m : Msg) (s : State) : Host.Outcome State Fault Refusal :=
  .next (relayMsg 0x21 true link m (fun id _ k s =>
    if k.manifestOk ∨ m.segment * 16384 ≠ k.manifest.length then s
    else
      let b := k.manifest ++ m.payload
      let s1 := s.setLoad id (fun x => { x with manifest := b })
      if 128 ≤ b.length ∧ mfLen b ≤ b.length then s1.takeManifest id b else s1) s)

/-- RELAY_SHARD (R424, R429, R431): the next bytes of a shard; a copy of one that has verified is dropped. -/
def execRelayShard (link : Nat) (m : Msg) (s : State) : Host.Outcome State Fault Refusal :=
  .next (relayMsg 0x22 true link m (fun id c k s =>
    match NMap.get? k.shards m.segment with
    | none => s
    | some x =>
      let at_ := if m.aux = 0 then 0 else x.got
      if x.verified ∨ x.complete ∨ x.gone ∨ m.aux ≠ at_ ∨ shLen k.manifest m.segment < at_ + m.payload.length then s
      else
        let got := at_ + m.payload.length
        s.setLoad id (fun y => y.modShard m.segment (fun z =>
          { z with bytes := z.bytes.take at_ ++ m.payload, got := got, complete := decide (got = shLen k.manifest m.segment), doneAt := s.counter c.home }))) s)

/-- RELAY_ACK (R433). -/
def execRelayAck (link : Nat) (m : Msg) (s : State) : Host.Outcome State Fault Refusal :=
  .next (relayMsg 0x23 false link m (fun id _ k s =>
    if NMap.has k.shards m.segment then (s.setLoad id (fun y => y.modShard m.segment (fun z => { z with acked := true }))).loadCheck id else s) s)

/-- Send a shard again, ahead of the shards of its link that are still unsent (R430). -/
def State.resendShard (s : State) (id : Nat) (c : Cmd) (i : Nat) (b : Bytes) : State :=
  let unsent := fun (p : Nat × Msg) => p.1 == c.f 19 1 && decide (p.2.type = 0x22)
  let s1 := { s with linkOut := s.linkOut.filter (fun p => !(unsent p)) }.forwardShard id c i b
  { s1 with linkOut := s1.linkOut ++ s.linkOut.filter unsent }

/-- RELAY_NAK (R430): the part's own verified copy is sent again. -/
def execRelayNak (link : Nat) (m : Msg) (s : State) : Host.Outcome State Fault Refusal :=
  .next (relayMsg 0x24 false link m (fun id c k s =>
    match NMap.get? k.shards m.segment with
    | some x => if x.verified then s.resendShard id c m.segment x.bytes else s
    | none => s) s)

/-- RELAY_ABORT (R431, R433): from upstream, every shard still lacking comes from the host; from downstream, nothing more is awaited. -/
def execRelayAbort (link : Nat) (m : Msg) (s : State) : Host.Outcome State Fault Refusal :=
  let s1 := s.deliver link m
  if !((s1.linkAt link).flows && decide (link < 8) && decide (m.type = 0x25)) then .next s1
  else
    let s2 := match s1.loadFor false link m with
      | some (id, _) => (s1.setLoad id (fun k => { k with downGone := true })).loadCheck id
      | none => s1
    match s2.loadFor true link m with
    | some (id, c) =>
      let lacking : List Nat := match c.load with | some k => (k.shards.filter (fun (e : Nat × Shard) => !e.2.verified && !e.2.complete && !e.2.gone)).map (·.1) | none => []
      .next ((lacking.foldl (fun (a : State) i => a.readShard id i) (s2.setLoad id (fun k => { k with upDown := true }))).loadCheck id)
    | none => .next s2

/-- SHARD_VERIFIED (R424 to R426, R430, R431): a complete shard's digest is judged; a good one is acknowledged and forwarded, a bad one is recovered; records are judged together once every shard is verified or lost, so that the code of R438 does not depend on arrival (log entry 14). -/
def execShardVerified (cmd shard : Nat) (s : State) : Host.Outcome State Fault Refusal :=
  match s.cmd? cmd with
  | some c =>
    match c.load with
    | some k =>
      match NMap.get? k.shards shard with
      | some x =>
        if !(s.serving && decide (c.opcode = 0x49) && decide (c.phase = .started) && k.manifestOk && x.complete && !x.verified) then .next s
        else if (Config.shake256 64 x.bytes).take 32 = shDigest k.manifest shard then
          let s1 := s.setLoad cmd (fun y => y.modShard shard (fun z => { z with verified := true }))
          .next (((s1.sendUp c { type := 0x23, segment := shard }).feedDown cmd).loadCheck cmd)
        else .next ((s.setLoad cmd (fun y => y.modShard shard (fun z => { z with bad := true }))).recoverShard cmd shard)
      | none => .next s
    | none => .next s
  | none => .next s

/-- SHARD_MISSING_TIMEOUT (R431): an incomplete shard is missing SHARD_TIMEOUT_MS after a higher one completed, or after the last relay byte. -/
def execShardMissingTimeout (cmd shard : Nat) (t : Word) (s : State) : Host.Outcome State Fault Refusal :=
  match s.cmd? cmd with
  | some c =>
    let s1 := s.reach c.home t
    match c.load with
    | some k =>
      match NMap.get? k.shards shard with
      | some x =>
        let now := s1.counter c.home
        let late := fun (from_ : Word) => decide (mfTimeout k.manifest * 100000 ≤ (now - from_).toNat)
        let higher := k.shards.any (fun e => decide (shard < e.1) && (e.2.complete || e.2.verified) && late e.2.doneAt)
        if s1.serving && decide (c.opcode = 0x49) && decide (c.phase = .started) && k.manifestOk && !x.complete && !x.verified && !x.gone
            && (decide (x.naks = 0) || late x.askedAt) && (higher || late k.lastUp) then .next (s1.recoverShard cmd shard)
        else .next s1
      | none => .next s1
    | none => .next s1
  | none => .next s

/-- RELAY_MANIFEST_TIMEOUT (R430): 1,000 ms after admission a relay part without a manifest reads it from MANIFEST_ADDR, or fails. -/
def execRelayManifestTimeout (cmd : Nat) (t : Word) (s : State) : Host.Outcome State Fault Refusal :=
  match s.cmd? cmd with
  | some c =>
    let s1 := s.reach c.home t
    match c.load with
    | some k =>
      if s1.serving && decide (c.opcode = 0x49) && decide (c.phase = .started) && mlRelay c && !k.manifestOk
          && decide (100000000 ≤ (s1.counter c.home - c.admitAt).toNat) then
        if c.f 32 8 = 0 then .next (s1.failCmd cmd E_LOAD_INCOMPLETE 0xFFFF)
        else if (s1.dmaStop (s1.functionOf c.owner)).isSome then .next (s1.failCmd cmd E_IDE_STREAM ((s1.dmaStop (s1.functionOf c.owner)).getD 0))
        else .next ((s1.manifestDma c).takeManifest cmd (s1.hostRead (c.f 32 8) (c.f 40 4)))
      else .next s1
    | none => .next s1
  | none => .next s

/-- DOWNSTREAM_TIMEOUT (R433): SHARD_TIMEOUT_MS without a message from downstream end the wait for it, until it is heard again; forwarding goes on. -/
def execDownstreamTimeout (cmd : Nat) (t : Word) (s : State) : Host.Outcome State Fault Refusal :=
  match s.cmd? cmd with
  | some c =>
    let s1 := s.reach c.home t
    match c.load with
    | some k =>
      if s1.serving && decide (c.opcode = 0x49) && decide (c.phase = .started) && mlDown c && k.manifestOk
          && decide (mfTimeout k.manifest * 100000 ≤ (s1.counter c.home - k.lastDown).toNat) then
        .next ((s1.setLoad cmd (fun x => { x with downSilent := true })).loadCheck cmd)
      else .next s1
    | none => .next s1
  | none => .next s

/-! ### Commit and unload (R428, R432, R434) -/

/-- The slot an ingot record becomes: the part writes OBJECT, INGOT_INDEX and COMMIT (R426). DEDUCED: the load's commit gives its objects commit count 1 (log entry 15). -/
def recordSlot (x : ModelTensor) (handle n : Nat) (r : Bytes) : Bytes :=
  if (headerOf r).zero then zeroIngot { fmt := x.fmt, sparse := x.sparse, axis := x.axis, object := handle, index := n, commit := 1 }
  else rehead (fixLen (slotSize x.fmt) r) handle n 1

/-- The objects of a load whose shards have all verified, by tensor. -/
def loadObjs (k : Load) (base : Nat) (dies : List Nat) : List Obj :=
  (manifestTensors k.manifest).zipIdx.map (fun e =>
    (k.shards.filter (fun x => shTensor k.manifest x.1 == e.2)).foldl (fun (o : Obj) x =>
      ((shardRecords k.manifest x.1 ((shardPlain k x.1 x.2.bytes).getD [])).zipIdx).foldl (fun (p : Obj) r =>
        p.putSlot 0 (shFirst k.manifest x.1 + r.2) (recordSlot e.1 (if base = 0 then 0 else base + e.2) (shFirst k.manifest x.1 + r.2) r.1)) o) { e.1.obj dies with commits := 1 })

/-- The commit of a MODEL_LOAD: the model and its objects appear, the report is written, and both neighbours hear RELAY_ABORT (R428, R432). -/
def State.commitModel (s : State) (c : Cmd) : State :=
  match c.opcode, c.load with
  | 0x49, some k =>
    let base := c.f 24 4
    let id := mfModel k.manifest
    let os := loadObjs k base (s.modelDies c.owner)
    let s1 := os.zipIdx.foldl (fun (a : State) e => a.setObj (if c.owner = packageOwner then sharedKey id e.2 else objKey c.owner (base + e.2)) (a.mapped c.owner e.1)) s
    let s1 := (List.range os.length).foldl (fun (a : State) t => a.filled (if c.owner = packageOwner then sharedKey id t else objKey c.owner (base + t))) s1
    let m : Model := { owner := c.owner, layers := fld k.manifest 12 2, kvHeads := fld k.manifest 14 1, handleBase := base,
                       tensors := manifestTensors k.manifest, publisher := mfKey k.manifest, manifest := k.manifest }
    let s2 := { s1 with models := NMap.set s1.models (objKey c.owner id) m }
    let s3 := if c.f 64 8 = 0 then s2 else s2.hostWrite (s2.functionOf c.owner) (c.f 64 8) (loadReport k (c.f 72 4))
    (s3.sendUp c { type := 0x25 }).sendDown c { type := 0x25 }
  | _, _ => s

/-- The keys of a model's objects. -/
def modelKeys (id : Nat) (m : Model) : List Nat :=
  (List.range m.tensors.length).map (fun t => if m.owner = packageOwner then sharedKey id t else objKey m.owner (m.handleBase + t))

/-- Whether another admitted command names a model or one of its objects (R434). -/
def State.modelNamed (s : State) (cmd id : Nat) (m : Model) : Bool :=
  let keys := modelKeys id m
  let names := fun (owner : Nat) => match s.reachModel owner id with | some x => x.1 == objKey m.owner id | none => false
  s.cmds.any (fun x => x.1 != cmd && ((s.named x.2).any keys.contains
    || (decide (x.2.opcode = 0x4A) && decide (x.2.f 16 1 = 0) && decide (x.2.f 20 4 = id) && names x.2.owner)
    || (match x.2.stepDraft with | some d => names x.2.owner && d.entries.any (fun e => e.join && decide (e.modelId = id)) | none => false)))

/-- MODEL_LOAD, ACTION unload (R434). -/
def execModelUnload (cmd : Nat) (s : State) : Host.Outcome State Fault Refusal :=
  .next (control 0x49 (fun c => c.f 16 1 == 1) (fun c s =>
    let id := c.f 20 4
    match NMap.get? s.models (objKey c.owner id) with
    | none => s.settle cmd (.error (E_MODEL_STATE, 3))
    | some m =>
      if s.modelNamed cmd id m then s
      else if s.alloys.any (fun a => a.2.base == objKey c.owner id) then s.settle cmd (.error (E_MODEL_STATE, 2))
      else
        s.settle cmd (.ok ({ s.forget (fun k => (modelKeys id m).contains k) with
                                    models := NMap.erase s.models (objKey c.owner id),
                                    objects := s.objects.filter (fun o => !((modelKeys id m).contains o.1)) }, OK, 0))) cmd s)

/-- Models loaded or loading (R428). -/
def State.modelCount (s : State) : Nat :=
  s.models.length + (s.cmds.filter (fun c => decide (c.2.opcode = 0x49) && decide (c.2.f 16 1 = 0))).length

/-- Range checks of MODEL_LOAD (Table 18-4, R428). An unload uses no link and no handle; its other fields have the ranges of the table (log entry 111). -/
def loadRange (owner : Nat) (d : Bytes) : Option Nat :=
  let un := decide (fld d 16 1 = 1)
  let relay := decide (fld d 17 1 = 1)
  let pkg := decide (owner = packageOwner)
  let linked := !un && (relay || decide (fld d 19 1 ≠ 0xFF))
  let z := fun (off n : Nat) => decide (fld d off n ≠ 0)
  firstBad
    [ (16, decide (1 < fld d 16 1)), (17, decide (1 < fld d 17 1)), (18, if relay then decide (7 < fld d 18 1) else z 18 1),
      (19, decide (7 < fld d 19 1) && decide (fld d 19 1 ≠ 0xFF)), (20, !(z 20 4)),
      (24, if pkg then z 24 4 else !un && !(z 24 4)), (28, if linked then !(z 28 4) else z 28 4),
      (32, !un && !relay && !(z 32 8)),
      (40, if z 32 8 then !un && !(z 40 4) else z 40 4), (44, decide (255 < fld d 44 2) && decide (fld d 44 2 ≠ 0xFFFF)),
      (46, z 46 2), (48, decide (fld d 48 8 % 4096 ≠ 0)), (64, decide (fld d 64 8 % 64 ≠ 0)), (76, !(zeros d 76 128)) ]

/-- The manifest of a load whose source is the host, as host memory holds it at admission; none when its counts are out of range. -/
def State.hostManifest (s : State) (c : Cmd) : Option Bytes :=
  let m := s.hostRead (c.f 32 8) (c.f 40 4)
  if mlRelay c || decide (c.f 40 4 < 128) || !(manifestWf m m.length) then none else some m

/-- The codes of a load at admission in the order of R438: the handle range, a handle in use, E_MODEL_STATE (R434) and E_QUOTA. Handles and storage come from the manifest in host memory; of a relayed load they are judged when its manifest has come (log entry 14). -/
def State.loadState (s : State) (c : Cmd) : Option (Nat × Nat) :=
  let m := s.hostManifest c
  let taken := match m with
    | some m => decide (c.owner ≠ packageOwner) && (List.range (mfTensors m)).any (fun t => s.handleUsed c.owner (c.f 24 4 + t))
    | none => false
  let fits := match m with
    | some m => s.modelFits c.owner ((manifestTensors m).map (fun x => x.obj (s.modelDies c.owner)))
    | none => true
  let header := s.hostRead (c.f 32 8) (min 128 (c.f 40 4))
  if c.f 16 1 ≠ 0 then none
  else if !(mlRelay c) && decide (header.length = 128) && handlesPass c.owner (c.f 24 4) (mfTensors header) then some (E_BAD_DESCRIPTOR, 0x0118)
  else if taken then some (E_OBJECT_POLICY, 3)
  else if NMap.has s.models (objKey c.owner (c.f 20 4)) || s.cmds.any (fun x => decide (x.2.owner = c.owner) && decide (x.2.opcode = 0x49) && decide (x.2.f 16 1 = 0) && decide (x.2.f 20 4 = c.f 20 4)) then some (E_MODEL_STATE, 1)
  else if 256 ≤ s.modelCount then some (E_MODEL_STATE, 4)
  else if !fits then some (E_QUOTA, 0)
  else none

/-! ### Alloys (R435 to R437) -/

/-- One adapter entry of an ALLOY_BIND list: target, rank, the two objects, and whether its reserved word is zero. -/
structure AdapterItem where
  target : Nat
  rank : Nat
  a : Nat
  b : Nat
  rsv : Bool
  deriving DecidableEq, Repr

/-- Read the list of an ALLOY_BIND. -/
def readAdapters (s : State) (addr n : Nat) : List AdapterItem :=
  (List.range n).map (fun i =>
    let b := s.hostRead (addr + 16 * i) 16
    { target := fld b 0 2, rank := fld b 2 2, a := fld b 4 4, b := fld b 8 4, rsv := zeros b 12 16 })

/-- Range checks of ALLOY_BIND (Table 18-6, R436). -/
def alloyRange (d : Bytes) : Option Nat :=
  let bind_ := decide (fld d 16 1 = 0)
  let z := fun (off n : Nat) => decide (fld d off n ≠ 0)
  firstBad
    [ (16, decide (1 < fld d 16 1)), (17, if bind_ then decide (16 < fld d 17 1) else z 17 1), (18, z 18 2),
      (20, if bind_ then false else z 20 4), (24, !(z 24 4)), (28, z 28 4),
      (32, if bind_ && z 17 1 then decide (fld d 32 8 % 16 ≠ 0) || !(z 32 8) else z 32 8), (40, !(zeros d 40 128)) ]

/-- The shape an adapter's copies must have: OBJ_A is ROWS × RANK, OBJ_B is RANK × COLS, with the target's BATCH (R436). -/
def adapterFits (t : ModelTensor) (i : AdapterItem) (a b : Obj) : Bool :=
  decide (a.kind = 0) && decide (b.kind = 0) && decide (a.rows = t.rows) && decide (a.cols = i.rank) && decide (b.rows = i.rank) && decide (b.cols = t.cols)
    && decide (a.batch = t.batch) && decide (b.batch = t.batch)

/-- An adapter copy: a REPLICATE T2 object filled from the source's current version. -/
def adapterCopy (o : Obj) (dies : List Nat) (handle : Nat) : Obj :=
  let new : Obj := { kind := 0, fmt := o.fmt, sparse := o.sparse, axis := o.axis, tier := 2, placement := 2, rows := o.rows, cols := o.cols, batch := o.batch, dies := dies }
  (List.range o.count).foldl (fun (x : Obj) n =>
    let g := copyIngot o (slotIn o.vmap n) n new handle n
    let y := x.putSlot 0 n (putFld g.1 12 4 0)
    match g.2 with | some e => y.putExt 0 n e | none => y) new

/-- The failures of a bind in the order of R438. -/
def State.bindFail (s : State) (c : Cmd) (items : List AdapterItem) : Option (Nat × Nat) :=
  let base := c.f 24 4
  let objs := items.map (fun i => (i, s.obj? c.owner i.a, s.obj? c.owner i.b))
  let bad := items.any (fun i => decide (i.rank = 0) || decide (256 < i.rank) || !i.rsv)
  match (s.reachModel c.owner (c.f 20 4)).map (·.2) with
  | none =>
    if bad then some (E_BAD_DESCRIPTOR, 0x0120)
    else if objs.any (fun x => x.2.1.isNone || x.2.2.isNone) then some (E_BAD_OBJECT, 0) else some (E_MODEL_STATE, 3)
  | some m =>
    let n := m.tensors.length
    let top := base + n + 2 * items.length
    let p := NMap.getD s.parts c.owner {}
    let dies := p.dieList
    let copies := objs.flatMap (fun x => (x.2.1.toList ++ x.2.2.toList).map (fun o => adapterCopy o.2 dies 0))
    if 2 ^ 32 ≤ top - 1 then some (E_BAD_DESCRIPTOR, 0x0118)
    else if bad || items.any (fun i => decide (n ≤ i.target)) then some (E_BAD_DESCRIPTOR, 0x0120)
    else if objs.any (fun x => x.2.1.isNone || x.2.2.isNone) then some (E_BAD_OBJECT, 0)
    else if (List.range (top - base)).any (fun h => s.handleUsed c.owner (base + h)) then some (E_ALLOY, 1)
    else if objs.any (fun x =>
        match x.2.1, x.2.2, m.tensors[x.1.target]? with
        | some a, some b, some t => !(adapterFits t x.1 a.2 b.2)
        | _, _, _ => true) then some (E_ALLOY, 2)
    else if 64 ≤ (s.alloys.filter (fun a => a.1 / 2 ^ 32 == c.owner)).length then some (E_ALLOY, 3)
    else if !(s.modelFits c.owner copies) then some (E_QUOTA, 0)
    else if m.owner = packageOwner ∧ !((NMap.values p.publisherKeys).contains m.publisher) then some (E_KEY, 1)
    else objs.findSome? (fun x => (x.2.1.toList ++ x.2.2.toList).findSome? (fun o =>
      (slotPoison o.2 o.2.vmap 0 o.2.count c.home).map (fun q => (E_MEM_UNCORRECTABLE, q))))

/-- ALLOY_BIND, ACTION bind (R435, R436). -/
def execAlloyBind (cmd : Nat) (s : State) : Host.Outcome State Fault Refusal :=
  .next (control 0x4A (fun c => c.f 16 1 == 0) (fun c s =>
    let items := readAdapters s (c.f 32 8) (c.f 17 1)
    let s := s.asDma (s.functionOf c.owner) false (c.f 32 8) (16 * c.f 17 1)
    s.settle cmd (
      match s.bindFail c items with
      | some f => .error f
      | none =>
        let base := c.f 24 4
        let n := match s.reachModel c.owner (c.f 20 4) with | some m => m.2.tensors.length | none => 0
        let shared := match s.reachModel c.owner (c.f 20 4) with | some m => m.2.owner == packageOwner | none => false
        let dies := s.modelDies c.owner
        let put := fun (a : State) (h src : Nat) =>
          match s.obj? c.owner src with
          | some (k, o) =>
            let r := (List.range o.count).foldl (fun (b : State) n => b.readMoved k (slotIn o.vmap n) n) a
            (r.setObj (objKey c.owner h) (r.mapped c.owner (adapterCopy o dies h))).filled (objKey c.owner h)
          | none => a
        let s1 := items.zipIdx.foldl (fun (a : State) e => put (put a (base + n + 2 * e.2) e.1.a) (base + n + 2 * e.2 + 1) e.1.b) s
        let al : Alloy := { modelId := c.f 20 4, shared := shared, owner := c.owner, tensors := n, adapters := items.map (fun i => (i.target, i.rank)) }
        .ok ({ s1 with alloys := NMap.set s1.alloys (objKey c.owner base) al }, OK, 0))) cmd s)

/-- Whether another admitted command names a handle of a range. -/
def State.rangeNamed (s : State) (cmd owner lo hi : Nat) : Bool :=
  s.cmds.any (fun x => x.1 != cmd && decide (x.2.owner = owner) &&
    (handleFields x.2.desc).any (fun f => decide (lo ≤ x.2.f f 4) && decide (x.2.f f 4 < hi)))

/-- ALLOY_BIND, ACTION unbind (R437). -/
def execAlloyUnbind (cmd : Nat) (s : State) : Host.Outcome State Fault Refusal :=
  .next (control 0x4A (fun c => c.f 16 1 == 1) (fun c s =>
    let base := c.f 24 4
    match NMap.get? s.alloys (objKey c.owner base) with
    | none => s.settle cmd (.error (E_BAD_OBJECT, 0))
    | some a =>
      let copies := base + a.tensors
      let top := copies + 2 * a.adapters.length
      if s.rangeNamed cmd c.owner base top then s
      else
        s.settle cmd (.ok ({ s.forget (fun k => decide (objKey c.owner copies ≤ k) && decide (k < objKey c.owner top)) with
                                    alloys := NMap.erase s.alloys (objKey c.owner base),
                                    objects := NMap.eraseRange s.objects (objKey c.owner copies) (objKey c.owner top) }, OK, 0))) cmd s)

end Sys2Proof.Machine
end

