-- ==== Sys2Proof/Machine/Power.lean ====
section
/-! DEFINITION. Arithmetic points, quire-group gating, the protective clamp and trip, telemetry and regulator faults (R506 to R522, R341). -/

namespace Sys2Proof.Machine

/-- A report of class CLAMP or REGULATOR, origin CS instance 0x05 of a die (R508, R520). -/
def State.reportCs (s : State) (d cls : Nat) : State :=
  s.report { origin := originId d 0x0C 0x05, cls := cls, reporter := originId d 0x0C 0x05 }

/-! ### POWER_SET -/

/-- Range checks of POWER_SET (Table 22-4). -/
def powerRange (d : Bytes) : Option Nat :=
  let act := fld d 16 1
  firstBad
    [ (16, decide (4 < act)),
      (17, if act = 0 then decide (4 < fld d 17 1) else if act = 1 then decide (7 < fld d 17 1) else decide (fld d 17 1 ≠ 0)),
      (18, if act = 1 then decide (fld d 18 1 = 0) else decide (fld d 18 1 ≠ 0)), (19, !(zeros d 19 20)),
      (20, if 2 ≤ act then decide (fld d 20 12 = 0) else !(zeros d 20 32)), (32, !(zeros d 32 128)) ]

/-- R516: POWER_SETs take effect one at a time, in admission order. -/
def State.powerTurn (s : State) (cmd : Nat) : Bool :=
  s.cmds.all (fun x => decide (cmd ≤ x.1) || x.2.opcode != 0x4B)

/-- The set-point of a die for a point in mV: the table's, or the boot voltage with an invalid table (R511, R512). -/
def State.setPoint (s : State) (d ap : Nat) : Nat :=
  if s.flash.pointsValid then (s.flash.points.getD d []).getD ap 720 else 720

/-- R518: why an arithmetic-point change fails. -/
def apFail (s : State) (mask ap : Nat) : Option Nat :=
  let ds := (List.range 8).filter (fun d => bitOf mask d)
  if ds.any (fun d => (s.dieAt d).fenced) then some 2
  else if ds.any (fun d => (s.diePower d).setPointStuck && decide (s.setPoint d ap ≠ (s.diePower d).mv)) then some 3
  else if ap ≤ 2 ∧ !s.flash.pointsValid then some 4
  else none

/-- Start one die's change of point (R513): a lower point changes frequency first; a higher one sets the voltage and waits to settle. -/
def DiePower.change (x : DiePower) (ap mv : Nat) : DiePower :=
  if x.ap ≤ ap then { x with ap := ap, mv := mv, apNext := none } else { x with mv := mv, apNext := some ap }

/-- POWER_SET ACTION 0x01 (R513, R516, R518): past its checks it is past its decision point; its record follows the last frequency change. -/
def execPowerSetArithPoint (cmd : Nat) (s : State) : Host.Outcome State Fault Refusal :=
  .next (control 0x4B (fun c => decide (c.f 16 1 = 1)) (fun c s =>
    if !(s.powerTurn cmd) then s
    else
      let ds := (List.range 8).filter (fun d => bitOf (c.f 18 1) d)
      match apFail s (c.f 18 1) (c.f 17 1) with
      | some n => s.settle cmd (.error (E_POWER_STATE, n))
      | none =>
        let s1 := ds.foldl (fun a d => a.setDiePower d ((a.diePower d).change (c.f 17 1) (a.setPoint d (c.f 17 1)))) s
        if ds.all (fun d => (s1.diePower d).apNext.isNone) then s1.finish cmd OK 0
        else s1.setCmd cmd { c with phase := .committing }) cmd s)

/-- Complete the POWER_SETs of arithmetic points whose dies have all settled. -/
def State.settledPoints (s : State) : State :=
  (s.cmds.filter (fun x => x.2.opcode == 0x4B && x.2.f 16 1 == 1 && !x.2.uncommitted)).foldl (fun a x =>
    if (List.range 8).all (fun d => !(bitOf (x.2.f 18 1) d) || (a.diePower d).apNext.isNone) then a.finish x.1 OK 0 else a) s

/-- AP_SETTLE_DONE (R513): the regulator has settled at a raised set-point and the frequency changes. -/
def execApSettleDone (die : Nat) (s : State) : Host.Outcome State Fault Refusal :=
  match (s.diePower die).apNext with
  | some ap => .next ((s.setDiePower die { s.diePower die with ap := ap, apNext := none }).settledPoints)
  | none => .next s

/-- Groups named by bits 95:0 of a payload. -/
def groupBits (d : Bytes) : BitVec 96 := BitVec.ofNat 96 (fld d 20 12)

/-- R518 detail 0x0002: a named quire group lies on a fenced die. -/
def groupsFenced (s : State) (g : BitVec 96) : Bool := (List.range 96).any (fun k => g.getLsbD k && (s.dieAt (k / 12)).fenced)

/-- Whether a unit of work is held on a plane of a named group (R516). -/
def State.groupsBusy (s : State) (g : BitVec 96) : Bool :=
  s.cmds.any (fun c => c.2.run.held.any (fun h => g.getLsbD (12 * h.die + h.quire / 8)))

/-- Gate groups: their quires' accumulator tiles and stores are discarded (R516), whose T0 copies are always clean. -/
def State.gateGroups (s : State) (g : BitVec 96) : State :=
  let named := fun (d l : Nat) => g.getLsbD (12 * d + l / 8)
  let off := fun (x : DieState) (d : Nat) =>
    let gone := (List.range 96).filterMap (fun l => if named d l then x.logical.getD l none else none)
    { x with stores := x.stores.zipIdx.map (fun (c : List T0Copy × Nat) => if named d c.2 then [] else c.1),
             quires := x.quires.zipIdx.map (fun (q : Quire × Nat) => if gone.contains q.2 then { q.1 with tiles := List.replicate 12 none } else q.1) }
  { s with dies := s.dies.zipIdx.map (fun (x : DieState × Nat) => off x.1 x.2), power := { s.power with gated := s.power.gated ||| g } }

/-- POWER_SET ACTION 0x02 (R516): held until every unit held on the groups' planes has ended. -/
def execPowerSetGroupsOff (cmd : Nat) (s : State) : Host.Outcome State Fault Refusal :=
  .next (control 0x4B (fun c => decide (c.f 16 1 = 2)) (fun c s =>
    let g := groupBits c.desc
    if !(s.powerTurn cmd) then s
    else if groupsFenced s g then s.settle cmd (.error (E_POWER_STATE, 2))
    else if s.groupsBusy g then s
    else (s.gateGroups g).finish cmd OK 0) cmd s)

/-- Switch groups on: each serves work 20 µs of its die's counter later (R516). -/
def State.groupsOn (s : State) (g : BitVec 96) : State :=
  let new := ((List.range 96).filter (fun k => g.getLsbD k && s.power.gated.getLsbD k)).map (fun k => (k, s.counter (k / 12) + 2000))
  { s with power := { s.power with gated := s.power.gated &&& ~~~g, turningOn := s.power.turningOn ++ new } }

/-- POWER_SET ACTION 0x03 (R516). -/
def execPowerSetGroupsOn (cmd : Nat) (s : State) : Host.Outcome State Fault Refusal :=
  .next (control 0x4B (fun c => decide (c.f 16 1 = 3)) (fun c s =>
    if !(s.powerTurn cmd) then s
    else if groupsFenced s (groupBits c.desc) then s.settle cmd (.error (E_POWER_STATE, 2))
    else (s.groupsOn (groupBits c.desc)).finish cmd OK 0) cmd s)

/-- POWER_SET ACTION 0x04 (R515, R516): the groups go off as under ACTION 0x02; the record follows their switching on 100 µs of die 0's counter later. -/
def execPowerSetGroupsCycle (cmd : Nat) (s : State) : Host.Outcome State Fault Refusal :=
  .next (control 0x4B (fun c => decide (c.f 16 1 = 4)) (fun c s =>
    let g := groupBits c.desc
    if !(s.powerTurn cmd) then s
    else if groupsFenced s g then s.settle cmd (.error (E_POWER_STATE, 2))
    else if s.groupsBusy g then s
    else
      let s1 := s.gateGroups g
      { s1 with power := { s1.power with cycle := some (g.toNat, s.counter 0 + 10000) } }.setCmd cmd { c with phase := .committing }) cmd s)

/-- GROUPS_CYCLE_ON_TIMER (R515): 100 µs after they went off, the groups are switched on and the POWER_SET writes its record. -/
def execGroupsCycleOnTimer (t : Word) (s : State) : Host.Outcome State Fault Refusal :=
  let s1 := s.reach 0 t
  match s1.power.cycle with
  | some (g, at_) =>
    if at_ ≤ s1.counter 0 then
      let s2 := ({ s1 with power := { s1.power with cycle := none } }).groupsOn (BitVec.ofNat 96 g)
      .next ((s2.cmds.filter (fun x => x.2.opcode == 0x4B && x.2.f 16 1 == 4 && !x.2.uncommitted)).foldl (fun a x => a.finish x.1 OK 0) s2)
    else .next s1
  | none => .next s1

/-- QUIRE_GROUP_READY (R516): 20 µs after being switched on, a group serves work. -/
def execQuireGroupReady (group : Nat) (t : Word) (s : State) : Host.Outcome State Fault Refusal :=
  let s1 := s.reach (group / 12) t
  .next { s1 with power := { s1.power with turningOn := s1.power.turningOn.filter (fun x => !(x.1 == group && decide (x.2 ≤ s1.counter (group / 12)))) } }

/-- Whether a quire group takes units of work: powered, not gated, past its switch-on time, on a die in PK0 below AP7 (R509, R514, R516). -/
def State.groupServes (s : State) (g : Nat) : Bool :=
  decide (s.power.pk = 0) && !(s.power.gated.getLsbD g) && !(s.power.turningOn.any (fun x => x.1 == g)) && decide ((s.diePower (g / 12)).ap ≠ 7)

/-! ### Clamp -/

/-- The triggers of Table 22-5 that engage, bits 0 to 3: current, alert, junction, package power. -/
def clampEngage (r : ClampReading) : Nat :=
  (if 7200 < r.sampleDa ∨ 5600 < r.mean1msDa then 1 else 0) + (if r.alert then 2 else 0) + (if 105 ≤ r.tj then 4 else 0)
    + (if 5600000 < r.pkg1ms ∨ 4600000 < r.pkg100ms then 8 else 0)

/-- Whether every lift condition of Table 22-5 holds. -/
def clampLifts (r : ClampReading) : Bool :=
  decide (r.sampleDa < 6840) && decide (r.mean1msDa < 5320) && !r.alert && decide (r.tj < 100)
    && decide (r.pkg1ms < 5320000) && decide (r.pkg100ms < 4370000)

/-- The throttle level's update of one µs (R519). -/
def DiePower.clamp (x : DiePower) (r : ClampReading) : DiePower :=
  if clampEngage r ≠ 0 then
    let l := min (x.level + 2) 15
    { x with level := if 7200 < r.sampleDa then max l 8 else l, lift := 0, cause := clampEngage r }
  else
    let n := if clampLifts r then x.lift + 1 else 0
    { x with level := if 100 ≤ n then x.level - 1 else x.level, lift := min n 100, cause := 0 }

/-- CLAMP_UPDATE (R519, R520, Table 22-6): the current sample is the part's own sensing corrected by its calibration; an ILIM_ALERT_N while PWR_GOOD is low is ignored (R577). -/
def execClampUpdate (die : Nat) (reading : ClampReading) (t : Word) (s : State) : Host.Outcome State Fault Refusal :=
  let s1 := s.reach die t
  if s1.boot ≠ .ready then .next s1
  else
    let x := s1.diePower die
    let r := { reading with sampleDa := ((reading.sampleDa : Int) + x.cal).toNat, mean1msDa := ((reading.mean1msDa : Int) + x.cal).toNat,
                             alert := reading.alert && s1.pins.pwrGood }
    let y := x.clamp r
    let s2 := s1.setDiePower die y
    let p := s2.power
    let s3 := { s2 with
      pins := { s2.pins with ilim := s2.pins.ilim.set die r.alert },
      power := { p with clampSeen := if y.level = 0 then p.clampSeen else p.clampSeen ||| BitVec.ofNat 8 (2 ^ die),
                        current := p.current || bitOf (clampEngage r) 0, ilim := p.ilim || bitOf (clampEngage r) 1,
                        thermal := p.thermal || bitOf (clampEngage r) 2, pkgPower := p.pkgPower || bitOf (clampEngage r) 3 } }
    if x.level = 0 ∧ y.level ≠ 0 then .next (s3.reportCs die 0x09) else .next s3

/-- The protective trip (R521): THERM_TRIP_N is asserted, every unit stops, PWR_REQ_N is released. -/
def State.trip (s : State) : State := { s with boot := .tripped, pins := { s.pins with thermTrip := true, pwrReq := false } }

/-- PROTECTIVE_TRIP (R521): a junction at 115 °C or a stack above 100 °C, while the main rails are up. -/
def execProtectiveTrip (isStack : Bool) (_unit : Nat) (temp : Int) (s : State) : Host.Outcome State Fault Refusal :=
  if s.pins.pwrReq && (if isStack then decide (100 < temp) else decide (115 ≤ temp)) then .next s.trip else .next s

/-- STACK_TEMP_REPORT (R341): refresh doubles above 85 °C; above 95 °C the clamp halves the stack's access rate until below 90 °C; above 100 °C the protective trip is raised. -/
def execStackTempReport (stack : Nat) (temp : Int) (t : Word) (s : State) : Host.Outcome State Fault Refusal :=
  let s1 := s.reach (stack / 3) t
  if s1.boot ≠ .ready then .next s1
  else
    let x := s1.stackAt stack
    let on := if 95 < temp then true else if temp < 90 then false else x.clamped
    let s2 := s1.setStack stack { x with temp := temp, doubleRefresh := decide (85 < temp), clamped := on }
    let s3 := if on && !x.clamped then s2.reportCs (stack / 3) 0x09 else s2
    if 100 < temp then .next s3.trip else .next s3

/-- IOUT_CALIBRATION (R519): the sensing is corrected to the regulator's READ_IOUT, every 100 ms. -/
def execIoutCalibration (die iout sensed : Nat) (t : Word) (s : State) : Host.Outcome State Fault Refusal :=
  let s1 := s.reach die t
  .next (s1.setDiePower die { s1.diePower die with cal := (iout : Int) - (sensed : Int) })

/-! ### Telemetry and regulator faults -/

/-- TELEMETRY_REFRESH (R522): the block takes the readings and die 0's counter; SEQ passes an odd value and is even again. -/
def execTelemetryRefresh (reading : TelemetryReading) (t : Word) (s : State) : Host.Outcome State Fault Refusal :=
  let s1 := s.reach 0 t
  if s1.boot = .ready ∧ !s1.fatal ∧ s1.power.pk ≤ 2 then
    .next { s1 with power := { s1.power with tel := reading, telCounter := s1.counter 0, telSeq := s1.power.telSeq + 2 } }
  else .next s1

/-- RAIL_POLL (R522): VIO, VHBM_CORE, VHBM_IO and VHBM_PP are read over PMBus every 10 ms. -/
def execRailPoll (mw : List Nat) (t : Word) (s : State) : Host.Outcome State Fault Refusal :=
  let s1 := s.reach 0 t
  .next { s1 with power := { s1.power with rails := (List.range 4).map (fun i => mw.getD i 0) } }

/-- PMB_ALERT (R508): kind 0 PMB_ALERT_N, 1 an AVSBus status fault of a die, 2 an AVSBus transaction failed three times in a row, after which the set-point stays. -/
def execPmbAlert (kind die rail : Nat) (s : State) : Host.Outcome State Fault Refusal :=
  let s1 := { s with power := { s.power with regFault := true } }
  let x := s1.diePower die
  let s2 :=
    if kind = 0 then { s1 with pins := { s1.pins with pmbAlert := true } }
    else if kind = 1 then s1.setDiePower die { x with avsFault := true }
    else s1.setDiePower die { x with avsFault := true, setPointStuck := x.setPointStuck || decide (rail = 0) }
  .next (s2.reportCs (if kind = 0 then 0 else die) 0x0A)

/-- A signed byte. -/
def signedByte (i : Int) : Nat := fieldOfInt 8 i

/-- The telemetry block (Table 22-7). -/
def State.telemetry (s : State) : Bytes :=
  let p := s.power
  let die := fun d =>
    leBytes 2 (satBits 16 (p.tel.vcoreMv.getD d 0)) ++ leBytes 2 (satBits 16 (p.tel.vcoreDa.getD d 0)) ++ leBytes 2 (satBits 16 (p.tel.peakDa.getD d 0))
      ++ leBytes 2 (satBits 16 (p.tel.vsramMv.getD d 0)) ++ leBytes 2 (satBits 16 (p.tel.vsramDa.getD d 0)) ++ leBytes 1 (signedByte (p.tel.tj.getD d 0))
      ++ leBytes 1 (s.diePower d).ap ++ leBytes 1 (s.diePower d).level ++ leBytes 1 (s.diePower d).cause ++ leBytes 2 0
      ++ leBytes 1 (signedByte (s.stackAt (3 * d)).temp) ++ leBytes 1 (signedByte (s.stackAt (3 * d + 1)).temp)
      ++ leBytes 1 (signedByte (s.stackAt (3 * d + 2)).temp) ++ leBytes 13 0
  leBytes 8 p.telCounter.toNat ++ leBytes 4 p.tel.pkg1ms ++ leBytes 4 p.tel.pkg100ms ++ leBytes 4 p.telSeq.toNat ++ leBytes 12 0
    ++ (List.range 8).flatMap die ++ p.rails.flatMap (leBytes 4) ++ leBytes 16 0

/-- POWER_STATUS (Table 22-6). -/
def State.powerStatus (s : State) : Nat :=
  let p := s.power
  let now := ((List.range 8).map (fun d => if (s.diePower d).level ≠ 0 then 2 ^ d else 0)).sum
  b2n (decide (s.boot = .ready)) * 2 ^ 31 + p.pk * 2 ^ 28 + p.clampSeen.toNat * 2 ^ 16 + now * 2 ^ 8 + b2n p.pkgPower * 128 + b2n p.thermal * 64
    + b2n p.ilim * 32 + b2n p.current * 16 + b2n p.regFault * 8

end Sys2Proof.Machine
end

