-- ==== Sys2Proof/Machine/Spine.lean ====
section
/-! DEFINITION. The spine: streams, lanes, detours, heartbeats, fencing and UNIT_RETURN (R374 to R390), loss of a die (R383, R534, R545). -/

namespace Sys2Proof.Machine

def State.quireAt (s : State) (d p : Nat) : Quire := (s.dieAt d).quires.getD p {}
def State.setQuire (s : State) (d p : Nat) (q : Quire) : State :=
  s.setDie d { s.dieAt d with quires := (s.dieAt d).quires.set p q }

/-- The origin id of a quire (kind 0) or of a spine link at a die, by its far die (kind 1). -/
def unitOrigin (d kind unit : Nat) : Nat := originId d (if kind = 0 then 0x01 else 0x08) unit

/-! ### Fencing -/

/-- R387: whether a port drops what a unit issues: fenced, or stamped with another generation. -/
def State.drops (s : State) (d kind unit gen : Nat) : Bool :=
  (s.dieAt d).fenced ||
  (if kind = 0 then (s.quireAt d unit).fenced || decide ((s.quireAt d unit).gen.toNat ≠ gen)
   else if kind = 1 then (s.spineAt d unit).fenced || decide ((s.spineAt d unit).gen.toNat ≠ gen)
   else false)

/-- A drop at a port: one error record by the unit's origin id, whose reporters count later drops (R387). -/
def State.reportDrop (s : State) (d kind unit reporter : Nat) : State :=
  s.report { origin := unitOrigin d kind unit, cls := 0x08, reporter := reporter, status := E_UNIT_FENCED }

/-- R544: quarantine the partitions that hold a quire group, an ingot of a non-REPLICATE object, or a Bindery frame on a fenced die. -/
def State.quarantineDie (s : State) (d origin : Nat) : State :=
  (s.parts.filter (fun p =>
    p.2.onDie d || (s.partObjs p.1).any (fun o => decide (o.placement ≠ 2) && decide (o.homed d ≠ 0)) || (s.framesOf d).any (fun f => f.2.part == p.1))).foldl
    (fun a p => a.quarantinePart p.1 origin) s

/-- Whether a command runs on a die or uses a unit of it (R383): UNIT_RETURN its unit, MEM_MARGIN its stack, a collective, a peer transfer or a load the die's external link. The commands of partitions that hold quires, ingots or frames there are quarantined with their partition (R544). -/
def State.onDie (s : State) (c : Cmd) (d : Nat) : Bool :=
  c.home == d
    || (s.linksOf c).contains d
    || (c.opcode == 0x4F && (c.f 16 1 == d || (c.f 17 1 == 1 && c.f 18 1 == d)))
    || (c.opcode == 0x52 && c.f 16 1 / 3 == d)

/-- The dies that commits in progress wait for no longer include a die that is fenced: its version bits are gone with its memory; with no die left to wait for, the record is written. -/
def State.commitWithout (s : State) (d : Nat) : State :=
  (s.cmds.filter (fun c => decide (c.2.phase = .committing) && c.2.ackDies.contains d)).foldl (fun (a : State) c =>
    let c1 := { c.2 with waitDies := c.2.waitDies.filter (· != d), ackDies := c.2.ackDies.filter (· != d) }
    if c1.ackDies.isEmpty then (a.setCmd c.1 c1).finish c.1 c1.status c1.detail else a.setCmd c.1 c1) s

/-- Fence a die (R383, R542): die 0 makes the part fatal. The die's link goes down, REPLICATE objects lose its copy, partitions on it are quarantined, and other commands admitted there complete E_UNIT_FENCED. -/
def State.fenceDie (s : State) (d origin : Nat) : State :=
  if d = 0 then s.enterFatal (originId 0 0x0C 0)
  else if (s.dieAt d).fenced then s
  else
    let s1 := s.setDie d { s.dieAt d with fenced := true }
    let s2 := s1.report { origin := originId d 0x0C 0, cls := 0x11, reporter := originId 0 0x0C 0 }
    let s3 := s2.setLink d { s2.linkAt d with trained := false, down := true }
    let s4 : State := { s3 with objects := s3.objects.map (fun (o : Nat × Obj) =>
      if o.2.placement = 2 then (o.1, { o.2 with dies := o.2.dies.filter (· != d) }) else o) }
    let s5 := s4.quarantineDie d (originId d 0x0C 0)
    let s6 := s5.commitWithout d
    (s6.cmds.filter (fun (c : Nat × Cmd) => c.2.uncommitted && s6.onDie c.2 d)).foldl (fun a c => a.failRun c.1 c.2 (E_UNIT_FENCED, origin)) s6

/-- The origin id of the link of a die that was fenced first, by the counter at the fence, the lowest far die on a tie (log entry 103). `far` is the far die of one that is fenced. -/
def State.firstFenced (s : State) (d far : Nat) : Nat :=
  let at_ := fun y => (s.spineAt d y).fencedAt
  let y := ((List.range 8).filter (fun y => y != d && (s.spineAt d y).fenced)).foldl
    (fun b y => if at_ y < at_ b ∨ (at_ y = at_ b ∧ y < b) then y else b) far
  unitOrigin (min d y) 1 (max d y)

/-- R383: a pair of dies with no path costs the die with more fenced links, the higher-numbered on a tie. -/
def State.checkPair (s : State) (a b : Nat) : State :=
  if (s.dieAt a).fenced ∨ (s.dieAt b).fenced ∨ s.path a b then s
  else
    let n := fun x => ((List.range 8).filter (fun y => y != x && (s.spineAt x y).fenced)).length
    let lo := min a b
    let hi := max a b
    let d := if n hi < n lo then lo else hi
    s.fenceDie d (s.firstFenced d (if d = lo then hi else lo))

/-- Every pair of dies that has no path costs a die (R383), one pair after another, `fuel` of them at most: seven dies can be lost beside die 0. -/
def State.settlePaths : Nat → State → State
  | 0, s => s
  | fuel + 1, s =>
    match diePairs.find? (fun p => !s.fatal && !(s.dieAt p.1).fenced && !(s.dieAt p.2).fenced && !(s.path p.1 p.2)) with
    | some p => State.settlePaths fuel (s.checkPair p.1 p.2)
    | none => s

/-- A die is lost: it is fenced, pairs that ran through it move to other paths, and one with none costs a die more (R382, R383). -/
def State.loseDie (s : State) (d origin : Nat) : State := ((s.fenceDie d origin).settlePaths 8).rerouted s

/-- Fence a spine link (R382, R383, R385): every stream that ran over it moves to a detour, and a pair left with no path costs a die. -/
def State.fenceLink (s : State) (a b : Nat) : State :=
  let x := s.spineAt a b
  if x.fenced then s
  else
    let s1 := s.setSpine a b { x with fenced := true, fencedAt := s.counter (min a b), gen := x.gen + 1, acksDue := true, misses := [0, 0], replays := [0, 0] }
    let s2 := s1.report { origin := unitOrigin (min a b) 1 (max a b), cls := 0x07, reporter := originId (min a b) 0x0C 0 }
    (s2.settlePaths 8).rerouted s

/-- Whether a command holds a unit of work on a physical quire. -/
def State.holdsOn (s : State) (c : Cmd) (d phys : Nat) : Bool :=
  c.run.held.any (fun h => h.die == d && (s.dieAt d).logical.getD h.quire none == some phys)

/-- Fence a quire (R385 step 1): generation up, marked fenced, every uncommitted command holding a unit on it killed for a rerun, which starts after step 2. -/
def State.fenceQuire (s : State) (d phys : Nat) : State :=
  let q := s.quireAt d phys
  if q.fenced then s
  else
    let victims := s.cmds.filter (fun c => c.2.uncommitted && s.holdsOn c.2 d phys)
    let s1 := s.setQuire d phys { q with fenced := true, gen := q.gen + 1, misses := 0, acksDue := true }
    let s2 := s1.report { origin := unitOrigin d 0 phys, cls := 0x07, reporter := originId d 0x0C 0 }
    victims.foldl (fun a c => (a.killCmd c.1 false).withCmd c.1 (fun b i x => b.setCmd i { x with afterFence := some (d, phys) })) s2

/-- The free spares of a die: physical quires that are whole and serve no logical id. -/
def DieState.spares (x : DieState) : List Nat :=
  (List.range 100).filter (fun p => !(x.quires.getD p {}).fenced && !(x.quires.getD p {}).failed && !(x.logical.contains (some p)))

/-- R385 step 3, R386: the lowest free spare takes the logical id of a fenced quire; with none free the id stays unassigned. -/
def DieState.reassign (x : DieState) (phys : Nat) : DieState :=
  { x with logical := x.logical.map (fun l => if l = some phys then x.spares.head? else l) }

/-- FENCE_ACKS_COMPLETE (R385 steps 2 and 3). -/
def execFenceAcksComplete (die kind unit : Nat) (s : State) : Host.Outcome State Fault Refusal :=
  if kind = 0 then
    let q := s.quireAt die unit
    if q.acksDue then
      let s1 := s.setQuire die unit { q with acksDue := false }
      .next (s1.setDie die ((s1.dieAt die).reassign unit))
    else .next s
  else .next (s.setSpine die unit { s.spineAt die unit with acksDue := false })

/-! ### Heartbeats (R384) -/

/-- Whether Himon probes a physical quire: whole, not fenced, and not of a gated group (R387, R517). -/
def State.probed (s : State) (d phys : Nat) : Bool :=
  !(s.quireAt d phys).fenced && !(s.quireAt d phys).failed &&
    (match (s.dieAt d).logical.findIdx? (· == some phys) with | some l => !(s.power.gated.getLsbD (12 * d + l / 8)) | none => true)

/-- QUIRE_PROBE (R384): at every multiple of 10,000 ticks, 100 µs, an interval opens for every probed quire of the die that has answered; one that has not is due a miss, with which its next interval opens. -/
def execQuireProbe (die : Nat) (t : Word) (s : State) : Host.Outcome State Fault Refusal :=
  let s1 := s.reach die t
  let now := s1.counter die
  if s1.boot ≠ .ready ∨ (s1.dieAt die).fenced ∨ now.toNat % 10000 ≠ 0 then .next s1
  else
    .next (s1.setDie die { s1.dieAt die with
      quires := ((s1.dieAt die).quires.zipIdx).map (fun x =>
        if s1.probed die x.2 && x.1.answered then { x.1 with answered := false, probedAt := now } else x.1) })

/-- PROBE_ANSWER (R384): a valid answer carries the physical id and the generation of the fence table. -/
def execProbeAnswer (die phys gen : Nat) (s : State) : Host.Outcome State Fault Refusal :=
  let q := s.quireAt die phys
  if !q.fenced && decide (q.gen.toNat = gen) && decide (phys < 100) then
    .next (s.setQuire die phys { q with answered := true, misses := 0 })
  else .next s

/-- SPINE_HEARTBEAT_SEND (R384): at every multiple of 1,000 ticks, 10 µs, a heartbeat flit on CTL with the link's id and generation, over the link itself. -/
def execSpineHeartbeatSend (die far : Nat) (t : Word) (s : State) : Host.Outcome State Fault Refusal :=
  let s1 := s.reach die t
  if (s1.dieAt die).fenced ∨ !(s1.spineAt die far).direct ∨ die = far ∨ (s1.counter die).toNat % 1000 ≠ 0 then .next s1
  else .next (s1.sendMsg { src := die, dst := far, channel := 0, kind := 1, unit := far, gen := (s1.spineAt die far).gen.toNat, size := 32 })

/-- SPINE_HEARTBEAT_RECEIVE (R384): a valid flit at one end of a link. -/
def execSpineHeartbeatReceive (die far gen : Nat) (s : State) : Host.Outcome State Fault Refusal :=
  let x := s.spineAt die far
  if !x.fenced && decide (x.gen.toNat = gen) && decide (die ≠ far) then
    .next (s.setSpine die far { x with heard := x.heard.set (endOf die far) true, since := x.since.set (endOf die far) (s.counter die), misses := x.misses.set (endOf die far) 0 })
  else .next s

/-- HEARTBEAT_MISS (R384, R385): an interval of 100 µs of a probe, or of 10 µs at an end of a link, ends with no valid answer or flit, and the next begins; the third miss in a row fences the unit. -/
def execHeartbeatMiss (die kind unit : Nat) (t : Word) (s : State) : Host.Outcome State Fault Refusal :=
  let s1 := s.reach die t
  if kind = 0 then
    let q := s1.quireAt die unit
    let now := s1.counter die
    if q.fenced || q.answered || !(s1.probed die unit) || decide ((now - q.probedAt).toNat < 10000) then .next s1
    else if 3 ≤ q.misses + 1 then .next (s1.fenceQuire die unit)
    else .next (s1.setQuire die unit { q with misses := q.misses + 1, probedAt := now })
  else
    let x := s1.spineAt die unit
    let e := endOf die unit
    let now := s1.counter die
    let y := { x with since := x.since.set e now }
    if x.fenced ∨ x.retraining ∨ die = unit ∨ (now - x.since.getD e 0).toNat < 1000 then .next s1
    else if x.heard.getD e true then .next (s1.setSpine die unit { y with heard := x.heard.set e false })
    else if 3 ≤ x.misses.getD e 0 + 1 then .next (s1.fenceLink die unit)
    else .next (s1.setSpine die unit { y with misses := x.misses.modify e (· + 1) })

/-! ### Streams and lanes -/

/-- SPINE_MESSAGE_RECEIVE (R377, R382, R387): dropped by a fence port, sent on by the die of a detour, accepted in stream order and acknowledged, or dropped as a number already accepted. -/
def execSpineMessageReceive (m : SpineMsg) (s : State) : Host.Outcome State Fault Refusal :=
  if s.drops m.src m.kind m.unit m.gen then .next (s.reportDrop m.src m.kind m.unit (originId m.dst 0x08 m.src))
  else if !(s.path m.src m.dst) then .next s
  else if s.onFirstLeg m then .next (s.forward m)
  else .next (((s.takeNumber m.src m.dst m.channel m.seqNo).getD s).landed m)

/-- SPINE_FLIT_CRC_ERROR (R374, R381, R384): the oldest flits not acknowledged are replayed, and the error counts for its lane within 1 ms. The first error of a row is of the flit itself and each later one of a replay: when the eighth replay in a row has failed, the link counts as having missed three heartbeats. -/
def execSpineFlitCrcError (a b dir lane : Nat) (t : Word) (s : State) : Host.Outcome State Fault Refusal :=
  let rx := if dir = 0 then b else a
  let s1 := s.reach rx t
  let x := s1.spineAt a b
  if x.fenced then .next s1
  else
    let errs := x.laneErrs.getD dir []
    let now := s1.counter rx
    let new := ((NMap.getD errs lane []).filter (fun w => decide ((now - w).toNat < 100000)) ++ [now])
    let n := x.replays.getD dir 0 + 1
    let s2 := s1.setSpine a b { x with laneErrs := x.laneErrs.set dir (NMap.set errs lane new), replays := x.replays.set dir n }
    let s3 := s2.report { origin := originId rx 0x08 (if dir = 0 then a else b), cls := 0x03, reporter := originId rx 0x08 (if dir = 0 then a else b), info := lane }
    let again := ((x.dirs.getD dir {}).replay.take 1)
    if 9 ≤ n then .next (s3.fenceLink a b) else .next { s3 with spineOut := s3.spineOut ++ again }

/-- LANE_REMAP (R381): a lane with 16 errors within 1 ms moves to a spare and the link retrains; with no spare left the link runs on 256 lanes; a further failure fences it. -/
def execLaneRemap (a b dir lane : Nat) (s : State) : Host.Outcome State Fault Refusal :=
  let x := s.spineAt a b
  let errs := x.laneErrs.getD dir []
  if x.fenced || decide ((NMap.getD errs lane []).length < 16) then .next s
  else
    let rx := if dir = 0 then b else a
    let far := if dir = 0 then a else b
    let x1 := { x with laneErrs := x.laneErrs.set dir (NMap.erase errs lane), retraining := true }
    let note := fun (z : State) => z.report { origin := originId rx 0x08 far, cls := 0x04, reporter := originId rx 0x08 far, info := lane }
    if x.spares.getD dir 0 < 16 then
      .next (note ((s.setSpine a b { x1 with spares := x.spares.modify dir (· + 1) }).rerouted s))
    else if x.width.getD dir 512 = 512 then
      .next (note ((s.setSpine a b { x1 with width := x.width.set dir 256 }).rerouted s))
    else .next (s.fenceLink a b)

/-- SPINE_RETRAIN_DONE (R381): the streams return to the direct path. -/
def execSpineRetrainDone (a b : Nat) (s : State) : Host.Outcome State Fault Refusal :=
  let x := s.spineAt a b
  if x.retraining && !x.fenced then .next ((s.setSpine a b { x with retraining := false }).rerouted s) else .next s

/-! ### UNIT_RETURN -/

/-- Range checks of UNIT_RETURN (Table 16-4). -/
def unitRange (d : Bytes) : Option Nat :=
  let kind := fld d 17 1
  firstBad
    [ (16, decide (7 < fld d 16 1)), (17, decide (1 < kind)),
      (18, if kind = 0 then decide (99 < fld d 18 1) else decide (7 < fld d 18 1) || decide (fld d 18 1 = fld d 16 1)),
      (19, decide (1 < fld d 19 1)), (20, !(zeros d 20 128)) ]

/-- Whether a unit is fenced. -/
def State.unitFenced (s : State) (d kind unit : Nat) : Bool := if kind = 0 then (s.quireAt d unit).fenced else (s.spineAt d unit).fenced

/-- The unit a UNIT_RETURN names: a quire of a die, or a spine link whichever end is DIE (R389). -/
def Cmd.returnUnit (x : Cmd) : Nat × Nat × Nat :=
  if x.f 17 1 = 0 then (0, x.f 16 1, x.f 18 1) else (1, min (x.f 16 1) (x.f 18 1), max (x.f 16 1) (x.f 18 1))

/-- UNIT_RETURN (R389): the unit must be fenced and its die not; a second one for the same unit, a link named from either end, is held; the self-test then runs, which for a quire begins by removing its power: what its planes hold is lost. -/
def execUnitReturn (cmd : Nat) (s : State) : Host.Outcome State Fault Refusal :=
  .next (control 0x4F (fun c => decide (c.phase = .admitted)) (fun c s =>
    if s.cmds.any (fun x => decide (x.1 < cmd) && x.2.opcode == 0x4F && x.2.returnUnit == c.returnUnit) then s
    else if !(s.unitFenced (c.f 16 1) (c.f 17 1) (c.f 18 1)) then s.settle cmd (.error (E_UNIT_STATE, 1))
    else if (s.dieAt (c.f 16 1)).fenced then s.settle cmd (.error (E_UNIT_STATE, 2))
    else
      let s1 := s.startCmd cmd
      if c.f 17 1 = 0 then s1.setQuire (c.f 16 1) (c.f 18 1) { s1.quireAt (c.f 16 1) (c.f 18 1) with tiles := List.replicate 12 none } else s1) cmd s)

/-- A quire that passed its test: a free spare, or the lowest unassigned logical id's server (R390). -/
def DieState.restore (x : DieState) (phys : Nat) : DieState :=
  match x.logical.findIdx? (· == none) with
  | some l => { x with logical := x.logical.set l (some phys) }
  | none => x

/-- SELF_TEST_DONE (R390): verdict 0 passes and gives the unit a new generation, and a link the spares and the width that its lanes allow after the test's lane repair, how many have failed being a free value as at a cold boot (R381); any other verdict is the failing test of Table 16-6. -/
def execSelfTestDone (cmd verdict : Nat) (s : State) : Host.Outcome State Fault Refusal :=
  .next (control 0x4F (fun c => decide (c.phase = .started)) (fun c s =>
    let d := c.f 16 1
    let u := c.f 18 1
    if verdict ≠ 0 then s.failCmd cmd E_SELF_TEST verdict
    else if c.f 17 1 = 0 then
      let q := s.quireAt d u
      let s1 := s.setQuire d u { q with fenced := false, gen := q.gen + 1, misses := 0, answered := true }
      (s1.setDie d ((s1.dieAt d).restore u)).finish cmd OK (q.gen + 1).toNat
    else
      let x := s.spineAt d u
      let bad := [0, 1].map (Config.lanesFailed s.fresh (min d u) (max d u))
      let s1 := s.takeFresh.setSpine d u { x with fenced := false, gen := x.gen + 1, misses := [0, 0], heard := [true, true],
                                                  since := [s.counter (min d u), s.counter (max d u)], replays := [0, 0], laneErrs := [[], []],
                                                  retraining := false, spares := bad.map (min 16), width := bad.map laneWidth }
      (s1.rerouted s).finish cmd OK (x.gen + 1).toNat) cmd s)

/-! ### Loss of a die -/

/-- PLL_LOSS_OF_LOCK (R534): the die is fenced. -/
def execPllLossOfLock (die : Nat) (s : State) : Host.Outcome State Fault Refusal :=
  .next ((s.report { origin := originId die 0x0C 0x05, cls := 0x10, reporter := originId die 0x0C 0x05 }).loseDie die (originId die 0x0C 0x05))

/-- HIMON_FAILURE (R545, Table 23-3): the die is fenced, or the part is fatal on die 0. -/
def execHimonFailure (die : Nat) (s : State) : Host.Outcome State Fault Refusal :=
  .next ((s.report { origin := originId die 0x0C 0, cls := 0x0F, reporter := originId die 0x0C 0 }).loseDie die (originId die 0x0C 0))

end Sys2Proof.Machine
end

