-- ==== Sys2Proof/Machine/Work.lean ====
section
/-! DEFINITION. Units of work on planes: claims and steals, segment counts, staged ingots and their deadlines, finished tiles and query blocks (R128 to R131, R153, R157, R158, R189, R365 to R369, R446, R586). -/

namespace Sys2Proof.Machine

/-! ### Which command a free plane takes (R128, R446, Table 5-3) -/

/-- The engine mode of a plane command; an attention plan has no engine section and allows every plane. -/
def State.modeOf (s : State) (c : Cmd) : Nat := engineMode ((s.planOf c).sec 3)

/-- Whether a command is cut into units of work that planes claim: TENSOR_OP, or ATTEND with MODE 0x00. -/
def planeCmd (c : Cmd) : Bool := c.opcode == 0x01 || (c.opcode == 0x02 && c.f 66 1 == 0)

/-- Whether a plane of a quire is free: no command holds a unit on it. -/
def State.planeFree (s : State) (die quire plane : Nat) : Bool :=
  !(s.cmds.any (fun c => c.2.run.held.any (fun h => h.die == die && h.quire == quire && h.plane == plane)))

/-- Start a command that a plane turns to, and open its distribution when no scan stands before it (R60, R157, R167, R215). -/
def State.openWork (s : State) (id : Nat) : State :=
  let s1 := s.ensureStart id
  match s1.cmd? id with
  | some c =>
    if c.phase ≠ .started then s
    else if c.opcode = 0x02 then s1.openAttend id
    else
      match s1.tctx c with
      | some x =>
        let s2 := if deltaOn x.t && s1.carryValid c then s1 else s1.runDelta id
        let s3 := if normMode x.n = 0 then s2.runNorm id else s2
        s3.openTensor id
      | none => s1
  | none => s

/-- The units a claimed group gives: the shares of a group's tiles, or one query block. -/
def State.unitsOf (s : State) (c : Cmd) (g : Nat) : List (List Nat) :=
  if c.opcode = 0x02 then [[g]]
  else
    match s.tctx c with
    | some x => sharesOf (planeCount (s.modeOf c)) ((x.groups (s.planOf c)).getD g [])
    | none => []

/-- Whether a query block may be claimed: its selected set is complete, or the plan visits every block (R189). -/
def State.selectable (s : State) (c : Cmd) (g : Nat) : Bool :=
  c.opcode != 0x02 || !(atSparse ((s.planOf c).sec 4)) || NMap.has c.run.selections g

/-- The die to steal from: the largest count last received, ties to the lower die (R158). -/
def stealFrom (counts : List Nat) (own : Nat) : Option Nat :=
  let best := (List.range 8).foldl (fun (b : Option Nat) d =>
    if d = own ∨ counts.getD d 0 = 0 then b
    else match b with
      | none => some d
      | some e => if counts.getD e 0 < counts.getD d 0 then some d else b) none
  best

/-- The group that a quire of a die claims next, and the segments after the claim (R158). -/
def claimGroup (segs : List Seg) (die : Nat) : Option (Nat × List Seg) :=
  let own := segs.getD die {}
  if own.head < own.tail then some (own.head, segs.set die { own with head := own.head + 1 })
  else
    match stealFrom own.counts die with
    | some v =>
      let x := segs.getD v {}
      if x.head < x.tail then some (x.tail - 1, segs.set v { x with tail := x.tail - 1 }) else none
    | none => none

/-- A plane takes a unit: its accumulator tiles open, one for each output tile, or three for a query block (R129, R180). -/
def State.openUnit (s : State) (c : Cmd) (id die quire plane : Nat) (items : List Nat) : State :=
  match (s.dieAt die).logical.getD quire none with
  | some p => s.openTiles die p plane id (if c.opcode = 0x02 then List.replicate 3 (items.headD 0) else items)
  | none => s

/-- The claim of a command by a free plane: an untaken share of a group its quire holds, else the next group; none when nothing can be claimed (R153). The unit holds the counter of its die at the claim (R365). -/
def State.claim (s : State) (id die quire plane : Nat) : Option State :=
  match s.cmd? id with
  | none => none
  | some c =>
    if c.phase ≠ .started ∨ !(planeAllowed (s.modeOf c) plane) then none
    else
      match c.run.held.findIdx? (fun h => h.die == die && h.quire == quire && h.plane == 255) with
      | some i =>
        let items := (c.run.held[i]?.map (·.items)).getD []
        some ((s.setRun id (fun r => { r with held := r.held.modify i (fun h => { h with plane := plane, at_ := s.counter die }) })).openUnit c id die quire plane items)
      | none =>
        match claimGroup c.run.segs die with
        | none => none
        | some (g, segs) =>
          if s.selectable c g then
            let units := (s.unitsOf c g).zipIdx.map (fun (u : List Nat × Nat) =>
              ({ die := die, quire := quire, plane := if u.2 = 0 then plane else 255, items := u.1, at_ := s.counter die } : Held))
            some ((s.setRun id (fun r => { r with segs := segs, held := r.held ++ units })).openUnit c id die quire plane ((s.unitsOf c g).headD []))
          else none

/-- Whether a plane prefers one command to another: rank of Table 5-3, PRIORITY, SERVED of the ring on the die, ring id, earlier admission (R446). -/
def State.prefers (s : State) (die plane : Nat) (a b : Nat × Cmd) : Bool :=
  let rank := fun (c : Cmd) => if s.modeOf c = 0 then 1 else if planeAllowed (s.modeOf c) plane then 0 else 2
  let srv := fun (c : Cmd) => match s.sub? c.owner c.ring with | some r => r.served.getD die 0 | none => 0
  let key := fun (x : Nat × Cmd) => [rank x.2, 255 - x.2.priority, srv x.2, x.2.ring, x.1]
  decide (key a < key b)

/-- The part of a partition's commands that a quire serves: those whose partition owns its group. -/
def State.onQuire (s : State) (c : Cmd) (die quire : Nat) : Bool :=
  match NMap.get? s.parts c.owner with
  | some p => p.hasGroup (12 * die + quire / 8)
  | none => false

/-- Whether a physical quire that is not fenced serves a logical id (R385, R387: a fenced unit receives no work). -/
def State.quireServes (s : State) (die quire : Nat) : Bool :=
  match (s.dieAt die).logical.getD quire none with
  | some p => !(s.quireAt die p).fenced
  | none => false

/-- UNIT_CLAIM (R158): a free plane of a serving quire, on a die that holds the admitted descriptor (R378), claims a unit of the command, when it is the one the plane chooses. -/
def execUnitClaim (cmd die quire plane : Nat) (s : State) : Host.Outcome State Fault Refusal :=
  match s.cmd? cmd with
  | some c =>
    if s.serving && planeCmd c && c.uncommitted && c.heard die && s.planeFree die quire plane && decide (plane < 3) && s.onQuire c die quire
        && s.groupServes (12 * die + quire / 8) && s.quireServes die quire && !(s.dieAt die).fenced then
      let s1 := s.openWork cmd
      match s1.claim cmd die quire plane with
      | none => .next s1
      | some s2 =>
        let better := s1.cmds.any (fun x => x.1 != cmd && planeCmd x.2 && x.2.heard die && s1.onQuire x.2 die quire && s1.prefers die plane x (cmd, c)
          && ((s1.openWork x.1).claim x.1 die quire plane).isSome)
        .next (if better then s else s2)
    else .next s
  | none => .next s

/-! ### Uses and what is in T0 (R349, R365) -/

/-- The operand of a role. -/
def TCtx.operandOf (x : TCtx) (role : Nat) : Option Operand :=
  match role with | 1 => some x.a | 2 => x.b | 3 => x.aux | 4 => x.bias | _ => none
def ACtx.operandOf (x : ACtx) (role : Nat) : Option Operand :=
  match role with | 1 => some x.q | 2 => x.k | 3 => x.v | _ => none

/-- The query ingots of a query block. -/
def ACtx.queryUses (x : ACtx) (b : QBlk) : List (Nat × Nat) :=
  (dedup (b.rows.flatMap (fun r => match r with | some (t, h, _) => x.q.reads 0 t (h * 128) | none => []))).map (fun u => (1, u.2))

/-- The uses of a tile or query block, as (role, ingot number) (R365). -/
def State.itemUses (s : State) (c : Cmd) (item : Nat) : List (Nat × Nat) :=
  if c.opcode = 0x01 then
    match s.tctx c with
    | some x => let q := x.coords item; dedup ((x.tileUses q.1 q.2.1 q.2.2).map (fun u => (u.1, u.2.2.1)))
    | none => []
  else
    match s.actx c with
    | some x =>
      match x.blocks[item]? with
      | some b => x.queryUses b ++ (s.selectionOf x (c.dieOfPos x.blocks.length item) item b).flatMap (x.keyUses b)
      | none => []
    | none => []

/-- The object operand that a use of a command names, when it is no leaf. -/
def State.useOperand (s : State) (c : Cmd) (role : Nat) : Option Operand :=
  if c.opcode = 0x01 then (s.tctx c).bind (fun x => x.operandOf role)
  else (s.actx c).bind (fun x => if atSeq x.a && decide (role ≠ 1) then none else x.operandOf role)

/-- The leaf that a use in sequence mode names: the one that holds the last live position of its key block. -/
def State.useLeafEntry (s : State) (c : Cmd) (n : Nat) : Option (SeqView × LeafEntry) :=
  (s.actx c).bind (fun x =>
    if !(atSeq x.a) then none
    else (x.views[n / 2 ^ 24]?).bind (fun w => (w.leaf (min w.v (128 * (n % 2 ^ 24) + 128) - 1) (c.f 64 2)).map (fun e => (w, e))))

/-- The place of a quire's store among those of the part. -/
def storePlace (die quire : Nat) : Nat := 96 * die + quire

/-- The copy of a use's ingot that stands in the store of a unit's quire, of an object or of a leaf. -/
def State.copyFor (s : State) (c : Cmd) (h : Held) (role n : Nat) : Option T0Copy :=
  let st := (s.dieAt h.die).store h.quire
  match s.useOperand c role with
  | some w => copyIn st w.key (slotIn w.vmap n) n
  | none => (s.useLeafEntry c n).bind (fun w => copyIn st (leafKey w.1.q.part w.2) (c.f 64 2) (n % 2 ^ 24))

/-- Whether a use by a unit finds its ingot: one never written costs no read; of any other a copy stands in the quire's store, and one that the store has freed must arrive again (R349, R351, R365). -/
def State.inT0 (s : State) (c : Cmd) (h : Held) (role n : Nat) : Bool :=
  (s.copyFor c h role n).isSome ||
  (match s.useOperand c role with
   | some w => unwritten (w.o.header (slotIn w.vmap n) n)
   | none => false)

/-- The k-steps of a tile that use an ingot and have not fallen back. -/
def State.stepsLeft (s : State) (c : Cmd) (item role n : Nat) : List Nat :=
  match s.tctx c with
  | some x => x.stepsLeft item role n
  | none => []

/-- The key block of a query block that a use names. -/
def State.keyBlockOf (s : State) (x : ACtx) (item : Nat) (b : QBlk) (role n : Nat) : Option Nat :=
  if role = 1 then none
  else (s.selectionOf x (x.c.dieOfPos x.blocks.length item) item b).find? (fun j => (x.keyUses b j).contains (role, n))

/-- Whether every use of an ingot in a tile or query block has fallen back. -/
def State.readsLate (s : State) (c : Cmd) (item role n : Nat) : Bool :=
  if c.opcode = 0x01 then (s.stepsLeft c item role n).isEmpty
  else match s.actx c with
    | some x =>
      (match x.blocks[item]? with
       | some b => c.run.zeroUses.any (fun u => u.1 == item && (x.keyUses b u.2.2.1).contains (role, n))
       | none => false)
    | none => false

/-- Whether a use that has not been judged late can go on: in T0, or lost in a class that reads it as late (R369). -/
def State.useReady (s : State) (c : Cmd) (h : Held) (item role n : Nat) : Bool :=
  s.inT0 c h role n ||
  s.readsLate c item role n ||
  (if c.opcode = 0x01 then c.run.failedFetch.contains (role, n)
   else match s.actx c with
    | some x =>
      (match x.blocks[item]? with
       | some b => (match s.keyBlockOf x item b role n with | some j => (s.lostAs x item b j).isSome | none => false)
       | none => false)
    | none => false)

/-- The unit on a plane that holds a tile or query block. -/
def Run.holder (r : Run) (item : Nat) : Option Held := r.held.find? (fun h => h.plane != 255 && h.items.contains item)

/-- Poisoned words that a unit's tile meets in the copies of its uses: of an object's ingot those of its fetched bytes, of a leaf's copy every one (R337, R338). -/
def State.storeFails (s : State) (c : Cmd) (h : Held) (item : Nat) : List (Nat × Nat) :=
  (s.itemUses c item).flatMap (fun u =>
    match s.copyFor c h u.1 u.2 with
    | some t =>
      if s.readsLate c item u.1 u.2 then []
      else
        let leaf := (s.useOperand c u.1).isNone
        (t.bad.filter (fun b => leaf || (List.range 8).any (fun i => fetchedByte t.bytes (8 * b.1 + i)))).map (fun b => (E_MEM_UNCORRECTABLE, b.2))
    | none => [])

/-- A finished item's uses are the latest ones of their copies, in order: the store frees the least recently used first (R349). -/
def State.useCopies (s : State) (c : Cmd) (h : Held) (item : Nat) : State :=
  (s.itemUses c item).foldl (fun (a : State) u =>
    match s.copyFor c h u.1 u.2 with
    | some t => a.stageAt h.die h.quire t
    | none => a) s

/-! ### Finished units (R130, R139) -/

/-- Take a finished item off the plane that held it; a unit with none left ends. -/
def dropItem (held : List Held) (i item : Nat) : List Held :=
  (held.modify i (fun h => { h with items := h.items.filter (· != item) })).filter (fun h => !h.items.isEmpty)

/-- What a finished item leaves of a run's units; when its quire holds no unit more, what arrived there is held only as copies of its store. -/
def Run.release (r : Run) (i item : Nat) (h : Held) : Run :=
  let held := dropItem r.held i item
  { r with held := held,
           arrived := if held.any (fun g => g.die == h.die && g.quire == h.quire) then r.arrived
             else r.arrived.filter (fun a => a.1 != storePlace h.die h.quire) }

/-- A residue mismatch at readout (R130): one record of origin QA; the command is killed and rerun once, and fails in the rerun, with E_RESIDUE unless its run, or the item itself (`own`), has met a failure of higher rank (R145, R146). -/
def State.residueMiss (s : State) (id : Nat) (c : Cmd) (die phys : Nat) (own : List (Nat × Nat)) : State :=
  let o := originId die 0x01 phys
  let s1 := s.report { origin := o, cls := 0x06, reporter := o, status := E_RESIDUE, detail := o, partition := c.owner }
  if c.residueRerun then s1.failRun id { c with run := { c.run with fails := c.run.fails ++ own } } (E_RESIDUE, o)
  else (s1.setCmd id { c with residueRerun := true }).killCmd id false

/-- End the body of a plane command when everything distributed is finished. -/
def State.closeWork (s : State) (id : Nat) : State :=
  match s.cmd? id with
  | some c =>
    if c.opcode = 0x01 then s.closeTensor id
    else if c.run.done.length = c.run.total && !c.run.segs.isEmpty && decide (c.phase = .started) then s.endAttend id else s
  | none => s

/-- The accumulators of a finished tile (R124). -/
def State.tileAccs (s : State) (c : Cmd) (die tile : Nat) : NMap Acc :=
  match s.tctx c with
  | some x => let q := x.coords tile; ((x.withLost tile).tile die q.1 q.2.1 q.2.2).accs
  | none => []

/-- What a tile or query block itself fails with (R146). -/
def State.itemFails (s : State) (c : Cmd) (die item : Nat) : List (Nat × Nat) :=
  if c.opcode = 0x01 then
    match s.tctx c with
    | some x => let q := x.coords item; ((x.withLost item).tile die q.1 q.2.1 q.2.2).fails
    | none => []
  else
    match s.actx c with
    | some x =>
      (match x.blocks[item]? with
       | some b => (s.attendBlock x die item b (s.selectionOf x die item b)).2
       | none => [])
    | none => []

/-- A finished output tile stands in its quire's store too, a clean copy of what the cache of its home die holds (R139 step 10, R349). -/
def State.stageOutput (s : State) (id die quire tile : Nat) : State :=
  match s.cmd? id with
  | some c =>
    match (s.tctx c).map (·.outKey) with
    | some k =>
      (match NMap.get? s.objects k with
       | some o =>
         if c.wrote k tile then
           let v := 1 - slotIn o.vmap tile
           s.stageAt die quire { key := k, version := v, ingot := tile, bytes := o.ingot v tile }
         else s
       | none => s)
    | none => s
  | none => s

/-- A finished query block: what it read passes through the caches, and the counts of the run grow by its own (R67, R197). -/
def State.doneBlock (s : State) (id die item : Nat) : State :=
  match s.cmd? id with
  | some c =>
    match s.actx c with
    | some x =>
      match x.blocks[item]? with
      | some b =>
        let sel := s.selectionOf x die item b
        let fresh := (x.reads item b sel).filter (fun i => !(c.run.readIngots.contains i))
        (s.fetchAll c die fresh).setRun id (fun r =>
          { r with done := r.done ++ [item], skipped := r.skipped + (ceilDiv (x.len b) 128 - sel.length),
                   promoted := r.promoted + s.promotedIn c fresh, readIngots := r.readIngots ++ fresh })
      | none => s
    | none => s
  | none => s

/-- TILE_COMPLETE (R139): the plane of physical quire `quire % 256` on die `quire / 256` that holds the tile or query block finishes it, once every use has found its ingot or fallen back (R138, R365). -/
def execTileComplete (cmd tile quire : Nat) (residueOk : Bool) (s : State) : Host.Outcome State Fault Refusal :=
  match s.cmd? cmd with
  | some c =>
    let die := quire / 256
    let phys := quire % 256
    let mine := fun (h : Held) => h.die == die && h.plane != 255 && h.items.contains tile && (s.dieAt die).logical.getD h.quire none == some phys
    match c.run.held.findIdx? mine, c.run.held.find? mine with
    | some i, some h =>
      if !(s.serving && decide (c.phase = .started) && (s.itemUses c tile).all (fun u => s.useReady c h tile u.1 u.2)) then .next s
      else if !residueOk then .next (s.residueMiss cmd c die phys (s.storeFails c h tile ++ s.itemFails c die tile))
      else
        let bad := s.storeFails c h tile
        let s1 := ((s.useCopies c h tile).serve c die).setRun cmd (fun r => { r.release i tile h with fails := r.fails ++ bad })
        let s2 := if c.opcode = 0x01 then ((s1.doneTile cmd die tile).stageOutput cmd die h.quire tile).fillTile die phys cmd tile (s.tileAccs c die tile)
          else s1.doneBlock cmd die tile
        .next (s2.closeWork cmd)
    | _, _ => .next s
  | none => .next s

/-! ### Segment counts (R586) -/

/-- The remaining count of a die's segment. -/
def Seg.left (x : Seg) : Nat := x.tail - x.head

/-- Whether a segment's count is due: 100 ticks after the last one while it is not zero, and once more, at once, when it has reached zero (R586). -/
def Seg.countDue (x : Seg) (now : Word) : Bool :=
  if x.left = 0 then !x.sentZero
  else match x.sentAt with | some t => decide (100 ≤ (now - t).toNat) | none => true

/-- SEGMENT_COUNT_SEND (R586): every 100 ticks a die sends the remaining count of its segment on CTL to the other dies of the partition. -/
def execSegmentCountSend (die cmd : Nat) (t : Word) (s : State) : Host.Outcome State Fault Refusal :=
  let s1 := s.reach die t
  match s1.cmd? cmd with
  | some c =>
    match NMap.get? s1.parts c.owner with
    | some p =>
      let x := c.run.segs.getD die {}
      if s1.serving && decide (c.phase = .started) && !c.run.segs.isEmpty && p.onDie die && c.heard die && x.countDue (s1.counter die) then
        let s2 := s1.setRun cmd (fun r => { r with segs := r.segs.set die { x with sentAt := some (s1.counter die), sentZero := decide (x.left = 0) } })
        .next ((p.dieList.filter (· != die)).foldl (fun (a : State) d => a.sendSpine die d 0 (leBytes 4 cmd ++ leBytes 4 x.left)) s2)
      else .next s1
    | none => .next s1
  | none => .next s1

/-- SEGMENT_COUNT_RECEIVE (R586): a die keeps another die's remaining count for its steals. -/
def execSegmentCountReceive (dst src cmd count : Nat) (s : State) : Host.Outcome State Fault Refusal :=
  match s.cmd? cmd with
  | some c =>
    if s.serving && decide (c.phase = .started) && !c.run.segs.isEmpty && decide (src ≠ dst) then
      .next (s.setRun cmd (fun r => { r with segs := r.segs.modify dst (fun x => { x with counts := x.counts.set src count }) }))
    else .next s
  | none => .next s

/-! ### Staging and deadlines (R365 to R369) -/

/-- STALL_LIMIT in ms of a use: of the object, or LEAF_STALL_LIMIT of the partition in sequence mode. -/
def State.stallLimit (s : State) (c : Cmd) (role : Nat) : Nat :=
  if c.opcode = 0x02 && atSeq ((s.planOf c).sec 4) && decide (role ≠ 1) then s.setting c.owner 0x000D 0
  else match s.obj? c.owner (c.f (roleOffset c role) 4) with | some (_, o) => o.stallLimit | none => 0

/-- FETCH_SLACK of a use in units of 100 ns: of the object, or LEAF_SLACK of the partition in sequence mode (R365, R366). -/
def State.fetchSlack (s : State) (c : Cmd) (role : Nat) : Nat :=
  if c.opcode = 0x02 && atSeq ((s.planOf c).sec 4) && decide (role ≠ 1) then s.setting c.owner 0x000C 0
  else match s.obj? c.owner (c.f (roleOffset c role) 4) with | some (_, o) => o.slack | none => 0

/-- The claimed units of a command that use an ingot; role 4 of an ATTEND names the margin of a demoted leaf, which the units using the leaf await (R306, R367). -/
def State.users (s : State) (c : Cmd) (role n : Nat) : List Held :=
  let u := (if c.opcode = 0x02 ∧ role = 4 then 2 else role, n)
  c.run.held.filter (fun h => h.plane != 255 && h.items.any (fun t => (s.itemUses c t).contains u))

/-- Fetch the ingot of a use: through its tier's cache, or for a demoted leaf from host memory; with the copy to stage. -/
def State.fetchUse (s : State) (c : Cmd) (role n : Nat) : State × Option T0Copy :=
  match s.useOperand c role with
  | some w =>
    let v := slotIn w.vmap n
    let die := match s.users c role n with | h :: _ => h.die | [] => c.home
    (s.fetchOne c die (w.key, n), some { key := w.key, version := v, ingot := n, bytes := w.o.fetchBytes v n })
  | none =>
    match s.useLeafEntry c n with
    | some (w, e) =>
      let t : T0Copy := { key := leafKey w.q.part e, version := c.f 64 2, ingot := n % 2 ^ 24, bytes := s.leafBytes w.q.part e 0 131072 }
      let die := match s.users c role n with | h :: _ => h.die | [] => c.home
      if role = 4 then (s.readLeaf w.q.part die e 131072 20480, none) else (s.readLeaf w.q.part die e 0 131072, some t)
    | none => (s, none)

/-- INGOT_ARRIVAL (R365, R367): an operand ingot that claimed units of the command use arrives in their quire stores, where uses not yet judged find it; uses that fell back before stay as judged. One whose fetch failed never arrives (R369). -/
def execIngotArrival (cmd operand ingot : Nat) (s : State) : Host.Outcome State Fault Refusal :=
  match s.cmd? cmd with
  | some c =>
    let us := s.users c operand ingot
    if s.serving && planeCmd c && decide (c.phase = .started) && !us.isEmpty && !(c.run.failedFetch.contains (operand, ingot)) then
      let f := s.fetchUse c operand ingot
      let s1 := match f.2 with
        | some t => us.foldl (fun (a : State) (h : Held) => a.stageAt h.die h.quire t) f.1
        | none => f.1
      let new := (dedup (us.map (fun (h : Held) => (storePlace h.die h.quire, 0)))).map (fun p => (p.1, operand, ingot))
      .next (s1.setRun cmd (fun r => { r with arrived := r.arrived ++ new.filter (fun a => !(r.arrived.contains a)) }))
    else .next s
  | none => .next s

/-- Whether a use of a command is fetched from host memory: of a T3-home object, or of a demoted leaf. -/
def State.fromT3 (s : State) (c : Cmd) (role n : Nat) : Bool :=
  match s.useOperand c role with
  | some w => decide (w.o.tier = 3)
  | none => match s.useLeafEntry c n with | some (_, e) => e.t3 | none => false

/-- T3_FETCH_ERROR (R369): never retried; under STALL the command fails E_TIER_DEADLINE, detail 0x0002, and under ZERO and SKETCH the ingot never arrives. Of a command with no planes, `operand` is the handle of the T3-home object that it reads, and every class is STALL (R366). -/
def execT3FetchError (cmd operand ingot : Nat) (s : State) : Host.Outcome State Fault Refusal :=
  match s.cmd? cmd with
  | some c =>
    if !(s.serving && c.uncommitted && decide (c.phase = .started)) then .next s
    else if planeCmd c then
      match s.users c operand ingot with
      | h :: _ =>
        if !(s.fromT3 c operand ingot) || c.run.arrived.any (fun a => a.2 == (operand, ingot)) then .next s
        else if s.classOf c (h.items.headD 0) operand = 0 then .next (s.failRun cmd c (E_TIER_DEADLINE, 2))
        else .next (s.setRun cmd (fun r => { r with failedFetch := r.failedFetch ++ [(operand, ingot)] }))
      | [] => .next s
    else
      match s.obj? c.owner operand with
      | some (k, o) => if (s.named c).contains k && decide (o.tier = 3) && decide (ingot < o.count) then .next (s.failCmd cmd E_TIER_DEADLINE 2) else .next s
      | none => .next s
  | none => .next s

/-- How a late use is read, if its class lets it: the entry for the run's zero uses. Of a TENSOR_OP the first k-step that has not fallen back reads a zero ingot under ZERO; a key block takes its sketch or is read as zero (R190, R367). -/
def State.fallBack (s : State) (c : Cmd) (item role n : Nat) : Option (Nat × Nat × Nat × Nat) :=
  if c.opcode = 0x01 then
    if s.classOf c item role = 2 then ((s.stepsLeft c item role n).head?).map (fun k => (item, role, n, k)) else none
  else
    match s.actx c with
    | some x =>
      (x.blocks[item]?).bind (fun b => (s.keyBlockOf x item b role n).bind (fun j => (s.lateAs x item b j role).map (fun k => (item, k, j, 0))))
    | none => none

/-- Ticks from the claim of a unit to the plane's reaching a use: a free value, by the command, the item, and the k-step of the first use of the ingot still to be judged, or the key block (R365, log entry 107). -/
def State.reachedAt (s : State) (id : Nat) (c : Cmd) (item role n : Nat) : Nat :=
  (Config.reachTicks id item (if c.opcode = 0x01 then (s.stepsLeft c item role n).headD 0 else n)).toNat

/-- USE_DEADLINE_EXPIRY (R365, R367, R190): a use by a held tile or query block whose ingot is not in T0, FETCH_SLACK × 10 ticks or more after the plane reaches it, takes the class in force; under STALL, and where no sketch can serve, the plane waits. Each use is judged once. -/
def execUseDeadlineExpiry (cmd tile operand ingot : Nat) (t : Word) (s : State) : Host.Outcome State Fault Refusal :=
  match s.cmd? cmd with
  | some c =>
    match c.run.holder tile with
    | some h =>
      let s1 := s.reach h.die t
      let now := s1.counter h.die
      let u := (tile, operand, ingot)
      if s1.serving && planeCmd c && decide (c.phase = .started) && (s1.itemUses c tile).contains (operand, ingot)
          && !(s1.useReady c h tile operand ingot) && decide (s1.reachedAt cmd c tile operand ingot + 10 * s1.fetchSlack c operand ≤ (now - h.at_).toNat) && !(c.run.waits.any (fun w => w.1 == u)) then
        match s1.fallBack c tile operand ingot with
        | some z => .next (s1.setRun cmd (fun r => { r with zeroUses := r.zeroUses ++ [z] }))
        | none => .next (s1.setRun cmd (fun r => { r with waits := r.waits ++ [(u, now)] }))
      else .next s1
    | none => .next s
  | none => .next s

/-- STALL_LIMIT_EXPIRY (R367): a wait at one use longer than a non-zero STALL_LIMIT, 100,000 ticks a millisecond, fails the command E_TIER_DEADLINE, detail 0x0001. A command with no planes treats every class as STALL (R366): `operand` is then the handle of an object it names, and its wait is counted from its start. -/
def execStallLimitExpiry (cmd tile operand ingot : Nat) (t : Word) (s : State) : Host.Outcome State Fault Refusal :=
  match s.cmd? cmd with
  | some c =>
    if planeCmd c then
      match c.run.holder tile with
      | some h =>
        let s1 := s.reach h.die t
        let late := match c.run.waits.find? (fun w => w.1 == (tile, operand, ingot)) with
          | some w => decide (s1.stallLimit c operand ≠ 0) && decide (100000 * s1.stallLimit c operand < (s1.counter h.die - w.2).toNat)
          | none => false
        if s1.serving && decide (c.phase = .started) && late && !(s1.inT0 c h operand ingot) then .next (s1.failRun cmd c (E_TIER_DEADLINE, 1)) else .next s1
      | none => .next s
    else
      let s1 := s.reach c.home t
      let late := match s1.obj? c.owner operand with
        | some (k, o) => (s1.named c).contains k && decide (o.stallLimit ≠ 0) && decide (100000 * o.stallLimit < (s1.counter c.home - c.startAt).toNat)
        | none => false
      if s1.serving && decide (c.phase = .started) && late then .next (s1.failCmd cmd E_TIER_DEADLINE 1) else .next s1
  | none => .next s

end Sys2Proof.Machine
end

