-- ==== Sys2Proof/Machine/Commit.lean ====
section
/-! DEFINITION. The decision point of a command: commit on every die and its single record, or its failure (R59 to R63, R379), and the descriptor's arrival on the other dies (R378). -/

namespace Sys2Proof.Machine

/-- Whether a command names a layer and a step (R110): a TENSOR_OP or an ATTEND of either MODE whose plan sets TRACK. One that builds sketches writes no output element, and its statistics are empty. -/
def State.tracked (s : State) (c : Cmd) : Bool := (c.opcode == 0x01 || c.opcode == 0x02) && fsTrack ((s.planOf c).sec 2)

/-- Steps 1 to 3 of R59 but for the version bits, which flip on the dies that hold them: the statistics and draws, the Bindery, host memory, models and streams. -/
def State.commitRest (s : State) (c : Cmd) : State :=
  let s1 := if s.tracked c then s.mergeStats c.owner (fsLayer ((s.planOf c).sec 2)) (c.f 68 4) { c.run.stats with degraded := c.degraded } else s
  ((((s1.settleDraws c.owner c).commitBindery c).commitMove c).commitModel c).commitCodec c

/-- A command that fails at its decision point; a window overflow under the temper anchor raises the layer's anchor (R61, R116). -/
def State.failAt (s : State) (id : Nat) (c : Cmd) : State :=
  let f := (s.planOf c).sec 2
  let raised := s.tracked c && decide (c.status = E_WINDOW_OVERFLOW)
    && decide (anchorField f (if c.opcode = 0x01 then c.f 64 2 else 0x8000) = 0x7FFF)
  let s1 := if raised then s.raiseAnchor c.owner (fsLayer f) else s
  s1.failCmd id c.status c.detail

/-- COMMAND_COMMIT (R59, R379): a command whose body has ended fails, for its own reason or because its stream's DMA has stopped (R502), commits at once when every version bit is on its home die, or performs its home part and sends COMMIT to the other dies: the version bits of the home die flip in one action with the commit counts, the statistics (R111) and the rest of steps 1 to 4; the record follows the last acknowledgement. -/
def execCommandCommit (cmd : Nat) (s : State) : Host.Outcome State Fault Refusal :=
  match s.cmd? cmd with
  | some c =>
    if s.serving && decide (c.phase = .ready) && decide (c.opcode ≠ 0x0C) then
      if !(committed c.status) then .next (s.failAt cmd c)
      else if (s.ideStop c).isSome then .next (s.failCmd cmd E_IDE_STREAM ((s.ideStop c).getD 0))
      else
        let dies := s.commitDies c
        if dies.isEmpty then .next (((s.commitObjects c).commitRest c).finish cmd c.status c.detail)
        else
          let c1 := { c with phase := .committing, waitDies := dies, ackDies := dies, commitAt := some (s.counter c.home) }
          let s1 := ((((s.commitDie c c.home).commitCounts c).commitRest c).recordFence c.owner c.desc c.status).setCmd cmd c1
          .next (dies.foldl (fun (a : State) d => a.sendSpine c.home d 0 (leBytes 1 0x01 ++ leBytes 4 cmd)) s1)
    else .next s
  | none => .next s

/-- COMMIT_MESSAGE (R379): a die performs its part of the commit and acknowledges. -/
def execCommitMessage (die cmd : Nat) (s : State) : Host.Outcome State Fault Refusal :=
  match s.cmd? cmd with
  | some c =>
    if s.serving && decide (c.phase = .committing) && c.waitDies.contains die then
      let s1 := (s.commitDie c die).setCmd cmd { c with waitDies := c.waitDies.filter (· != die) }
      .next (s1.sendSpine die c.home 0 (leBytes 1 0x02 ++ leBytes 4 cmd))
    else .next s
  | none => .next s

/-- COMMIT_ACK (R379): when the last acknowledgement has arrived, the home die writes the record. -/
def execCommitAck (die cmd : Nat) (s : State) : Host.Outcome State Fault Refusal :=
  match s.cmd? cmd with
  | some c =>
    if s.serving && decide (c.phase = .committing) && c.ackDies.contains die && !(c.waitDies.contains die) then
      let left := c.ackDies.filter (· != die)
      let c1 := { c with ackDies := left }
      if left.isEmpty then .next ((s.setCmd cmd c1).finish cmd c.status c.detail)
      else .next (s.setCmd cmd c1)
    else .next s
  | none => .next s

/-- ADMITTED_DESCRIPTOR_RECEIVE (R378): a die of the partition other than the home die learns of an admitted command, and its sequencer cuts its own segment (R157). -/
def execAdmittedDescriptorReceive (die cmd : Nat) (s : State) : Host.Outcome State Fault Refusal :=
  match s.cmd? cmd with
  | some c =>
    let here := match NMap.get? s.parts c.owner with | some p => p.onDie die | none => false
    if s.serving && here && decide (die ≠ c.home) && !(c.seenDies.contains die) then
      .next (s.setCmd cmd { c with seenDies := c.seenDies ++ [die],
                                   run := if c.run.segs.isEmpty then c.run
                                     else { c.run with segs := c.run.segs.set die ((segments c.quires c.run.total).getD die {}) } })
    else .next s
  | none => .next s

end Sys2Proof.Machine
end

