-- ==== Sys2Proof/Machine/MemSys.lean ====
section
/-! DEFINITION. HBM and device physical addresses, atomics, LINE_ADD, patrol scrub, repair records and margining (R324 to R347, R547). -/

namespace Sys2Proof.Machine

/-! ### Addresses -/

/-- Near addresses of the Mitus map (R326). -/
def mitusNear (d a : Nat) : Nat :=
  let line := a / 256
  (3 * d + line % 3) * 2 ^ 36 + (line / 3) * 256 + a % 256

/-- Far addresses of the Mitus map (R326). -/
def mitusFar (n a : Nat) : Nat :=
  let page := a / 4096
  (page % 24) * 2 ^ 36 + n * 2 ^ 30 + (page / 24) * 4096 + a % 4096

/-- NEAR_GIB as it acts: a value above 64 is treated as 64 (Table 14-2). -/
def State.near (s : State) : Nat := min s.nearGib 64

/-- The native address of a device physical address issued on die `d`; none outside the populated windows (R324, R325), so none reaches the stacked SRAM (R323). -/
def State.native (s : State) (d a : Nat) : Option Nat :=
  if a < 24 * 2 ^ 36 then some a
  else if s.mitusEn && decide (0x040000000000 ≤ a) && decide (a < 0x040000000000 + 3 * s.near * 2 ^ 30) then some (mitusNear d (a - 0x040000000000))
  else if s.mitusEn && decide (0x080000000000 ≤ a) && decide (a < 0x080000000000 + 24 * (64 - s.near) * 2 ^ 30) then
    some (mitusFar s.near (a - 0x080000000000))
  else none

/-- MEM_MAP_CTRL_WRITE (R325): takes effect only while no partition exists; otherwise recorded once, origin MS instance 0x04. -/
def execMemMapCtrlWrite (value : Nat) (s : State) : Host.Outcome State Fault Refusal :=
  if !s.barAll then .next s
  else if s.parts.isEmpty then .next { s with mitusEn := value.testBit 31, nearGib := value % 128 }
  else .next (s.report { origin := originId 0 0x06 0x04, cls := 0x0B, reporter := originId 0 0x06 0x04 })

/-! ### Accesses at the home slice -/

/-- Write bytes into a stack: poison clears only on lines written whole (R338). -/
def Stack.write (x : Stack) (off : Nat) (b : Bytes) : Stack :=
  { x with lines := Mem.writeRange x.lines off b,
           poison := x.poison.filter (fun p => !(decide (off ≤ p.1) && decide (p.1 + 128 ≤ off + b.length))) }

/-- Bytes at a native address: those of the object whose pages lie there, of the frame that lies there, else of the stack (R273, R324, R353). -/
def State.lineRead (s : State) (x n : Nat) : Bytes :=
  match s.backing x with
  | some (k, v, off) => match NMap.get? s.objects k with | some o => Mem.readRange (o.mem v) off n | none => []
  | none =>
    match s.frameOf? x with
    | some ((_, _, off), f) => if off < 131072 then Mem.readRange f.body off n else Mem.readRange f.margin (off - 131072) n
    | none => Mem.readRange (s.stackAt (x / 2 ^ 36)).lines (x % 2 ^ 36) n

/-- The origin that poisoned the line of a native address, if it is poisoned (R338). -/
def State.linePoison (s : State) (x : Nat) : Option Nat :=
  match s.backing x with
  | some (k, v, off) => match NMap.get? s.objects k with | some o => o.poisonAt v (off / 128 * 128) (off / 128 * 128 + 128) (homeOf x) | none => none
  | none =>
    match s.frameOf? x with
    | some ((_, _, off), f) => (f.poison.find? (fun p => p.1 == off / 128 * 128)).map (·.2)
    | none => ((s.stackAt (x / 2 ^ 36)).poison.find? (fun p => p.1 == x % 2 ^ 36 / 128 * 128)).map (·.2)

/-- Write bytes at a native address; poison clears where a line is written whole (R338), and staged copies of what was written are invalid (R329). -/
def State.lineWrite (s : State) (x : Nat) (b : Bytes) : State :=
  match s.backing x with
  | some (k, v, off) =>
    let n := match NMap.get? s.objects k with | some o => off / o.slot | none => 0
    ({ s with objects := NMap.modify s.objects k (fun o => o.putBytes v off b) }).dropCopies k v n
  | none =>
    match s.frameOf? x with
    | some ((d, n, off), f) => (s.setFrames d (NMap.set (s.framesOf d) n (f.write off b))).dropKey (frameKey d n)
    | none => s.setStack (x / 2 ^ 36) ((s.stackAt (x / 2 ^ 36)).write (x % 2 ^ 36) b)

/-- The partition whose object's or frame's line a native address is; the package's for any other. -/
def State.lineOwner (s : State) (x : Nat) : Nat :=
  match s.backing x with
  | some (k, _) => if k / 2 ^ 32 < 16 then k / 2 ^ 32 else packageOwner
  | none => match s.frameOf? x with | some (_, f) => f.part | none => packageOwner

/-- Return bytes to the unit that issued a request: on RSP when it is on another die, else at once (R330, R332). -/
def State.reply (s : State) (x die kind unit : Nat) (b : Bytes) : State :=
  if homeOf x = die then { s with unitOut := s.unitOut ++ [(die, kind, unit, b)] }
  else s.sendSpineFor (s.lineOwner x) (homeOf x) die 1 b

/-- A unit's request arrives at the home slice of a native address: not on a fenced die, and from another die only as the next message of its REQ stream, so that none is performed twice (R330, R377). -/
def State.arrives (s : State) (die x : Nat) (stamp : Stamp) : Option State :=
  if (s.dieAt (homeOf x)).fenced then none else s.takeNumber die (homeOf x) 2 stamp.seqNo

/-- FAR_ACCESS_REQUEST (R330, R387): dropped by a fence port, or performed at the line's home slice, in whose cache the line is then; a read's line returns on RSP (channel 1) with its tag byte, bit 0 of which is POISON (R337). The form of the reply is DESIGN CHOICE (log entry 102). -/
def execFarAccessRequest (die kind unit : Nat) (gen : Stamp) (addr : Nat) (isWrite : Bool) (data : Bytes) (s : State) :
    Host.Outcome State Fault Refusal :=
  if s.drops die kind unit gen.gen then .next (s.reportDrop die kind unit (originId die 0x06 0x04))
  else
    match s.native die addr with
    | none => .fault .unpopulatedAddress
    | some x =>
      match s.arrives die x gen with
      | none => .next s
      | some s0 =>
        let s1 := s0.touchLine (s.lineOwner x) (x / 128) isWrite false
        if isWrite then .next (s1.lineWrite x (data.take (128 - x % 128)))
        else .next (s1.reply x die kind unit (s.lineRead (x / 128 * 128) 128 ++ leBytes 1 (b2n (s.linePoison x).isSome)))

/-- The new value of an atomic operation on an old value of a width in bits (Table 14-4). -/
def atomicNew (op : AtomicOp) (w old operand comparand : Nat) : Nat :=
  let m := 2 ^ w
  match op with
  | .add => (old + operand) % m
  | .maxU => max old (operand % m)
  | .minU => min old (operand % m)
  | .maxS => if signedOf w old < signedOf w (operand % m) then operand % m else old
  | .minS => if signedOf w (operand % m) < signedOf w old then operand % m else old
  | .and => Nat.land old (operand % m)
  | .or => Nat.lor old (operand % m)
  | .xor => Nat.xor old (operand % m)
  | .swap => operand % m
  | .cas => if old = comparand % m then operand % m else old
  | .lineAdd => ((List.range 8).map (fun i => (old / 2 ^ (128 * i) + operand / 2 ^ (128 * i)) % 2 ^ 128 * 2 ^ (128 * i))).sum

/-- Whether an atomic is one of Table 14-4: 64 bits, 128 bits for ADD, a line of 1,024 bits for LINE_ADD; naturally aligned, so within one line (R332). -/
def atomicOk (op : AtomicOp) (width x : Nat) : Bool :=
  (if op = .lineAdd then decide (width = 1024) else decide (width = 64) || (decide (width = 128) && decide (op = .add))) && decide (x % (width / 8) = 0)

/-- ATOMIC_REQUEST (R332): performed only at the home slice of its line, which allocates the line; the old value returns on RSP when the issuing unit asks for it. Units issue no other width or alignment, and such a request does nothing. A poisoned line keeps its poison, since the new value comes of the poisoned one: DESIGN CHOICE (log entry 102). -/
def execAtomicRequest (die kind unit : Nat) (gen : Stamp) (addr : Nat) (req : AtomicReq) (width operand comparand : Nat) (s : State) :
    Host.Outcome State Fault Refusal :=
  if s.drops die kind unit gen.gen then .next (s.reportDrop die kind unit (originId die 0x06 0x04))
  else
    match s.native die addr with
    | none => .fault .unpopulatedAddress
    | some x =>
      match (if atomicOk req.op width x then s.arrives die x gen else none) with
      | none => .next s
      | some s0 =>
        let n := width / 8
        let old := s.lineRead x n
        let s1 := s0.touchLine (s.lineOwner x) (x / 128) true false
        let s2 := if (s.linePoison x).isSome then s1 else s1.lineWrite x (leBytes n (atomicNew req.op width (leNat old) operand comparand))
        if req.wantOld then .next (s2.reply x die kind unit old) else .next s2

/-- The eight 128-bit lanes of a staging line after one LINE_ADD (Table 14-4). -/
def addLanes (m : NMap Nat) (line : Nat) (addends : List Nat) : NMap Nat :=
  (List.range 8).foldl (fun m i =>
    NMap.set m (line * 8 + i) ((NMap.getD m (line * 8 + i) 0 + addends.getD i 0) % 2 ^ 128)) m

/-- LINE_ADD (R332, R377, R380, R387): eight 128-bit additions into a line of a die's collective staging (16 MiB, 131,072 lines); dropped by a fence port, and from another die performed only as the next message of its COLL stream. -/
def execLineAdd (die : AddRoute) (line : Nat) (addends : List Nat) (s : State) : Host.Outcome State Fault Refusal :=
  if s.drops die.src die.kind die.unit die.stamp.gen then .next (s.reportDrop die.src die.kind die.unit (originId die.dst 0x09 0x01))
  else
    match (if decide (line < 131072) && !(s.dieAt die.dst).fenced then s.takeNumber die.src die.dst 3 die.stamp.seqNo else none) with
    | some s1 => .next (s1.setDie die.dst { s1.dieAt die.dst with staging := addLanes (s1.dieAt die.dst).staging line addends })
    | none => .next s

/-! ### Scrub and repair -/

/-- The partition whose state a line holds; 0xFF for none. -/
def LineUse.partition (x : LineUse) : Nat :=
  match x with
  | .object part _ _ _ _ => if part < 16 then part else 0xFF
  | .versionMap part => part
  | .tablePage part => part
  | .root part => part
  | .unused => 0xFF
  | .frame _ _ _ => 0xFF

/-- What a line of a stack holds: the object whose pages lie there, or the frame; else what is said of it, as far as its place allows: the cached content of a T3-home object in its stack (R353), a version map, a root. -/
def State.useOf (s : State) (stack line : Nat) (said : LineUse) : LineUse :=
  match s.backing (stack * 2 ^ 36 + line * 128) with
  | some (k, v, off) => .object (k / 2 ^ 32) (k % 2 ^ 32) v off (stack / 3)
  | none =>
    match s.frameOf? (stack * 2 ^ 36 + line * 128), said with
    | some (f, _), _ => .frame f.1 f.2.1 f.2.2
    | none, .object part handle v off die =>
      match NMap.get? s.objects (objKey part handle) with
      | some o =>
        if o.tier = 3 ∧ s.t2cache.contains (objKey part handle, v, off / o.slot) ∧ o.stackOf (off / o.slot) ((o.diesOf (off / o.slot)).headD 0) = stack
        then .object part handle v off die else .unused
      | none => .unused
    | none, .frame _ _ _ => .unused
    | none, x => x

/-- What a line found uncorrectable does to the structure it holds: poison of an object's or a leaf's line, quarantine for a version map, table page or root (R338, R340, R544). -/
def State.poisonUse (s : State) (holds : LineUse) (origin : Nat) : State :=
  match holds with
  | .unused => s
  | .object part handle version off die =>
    { s with objects := NMap.modify s.objects (objKey part handle) (fun o =>
        { o with poison := o.poison ++ [{ version := version, off := off / 128 * 128, die := die, origin := origin }] }) }
  | .frame die frame off =>
    match NMap.get? (s.framesOf die) frame with
    | some f =>
      if f.page then s.quarantinePart f.part origin
      else s.setFrames die (NMap.set (s.framesOf die) frame { f with poison := f.poison ++ [(off / 128 * 128, origin)] })
    | none => s
  | .versionMap part => s.quarantinePart part origin
  | .tablePage part => s.quarantinePart part origin
  | .root part => s.quarantinePart part origin

/-- A line of a stack is poisoned, by the memory of an origin: its tag bit is set, and what it holds is poisoned (R337, R338). -/
def State.markLine (s : State) (stack line : Nat) (holds : LineUse) (origin : Nat) : State :=
  let x := s.stackAt stack
  (s.setStack stack { x with poison := x.poison ++ [(line * 128, origin)] }).poisonUse holds origin

/-- A line of a stack is uncorrectable: it is poisoned, and one record of origin MS is raised (R336, R338, R340). -/
def State.poisonLine (s : State) (stack line : Nat) (said : LineUse) : State :=
  let o := originId (stack / 3) 0x06 (stack % 3)
  let holds := s.useOf stack line said
  (s.report { origin := o, cls := 0x02, reporter := o, status := E_MEM_UNCORRECTABLE, detail := o, info := line * 128,
              partition := LineUse.partition holds }).markLine stack line holds o

/-- PATROL_SCRUB (R340): the lines of a stack in turn, from where the scrub stopped; outcome 0 good, 1 corrected and written back, 2 uncorrectable and poisoned. It fails no command, and pauses in self-refresh. -/
def execPatrolScrub (stack line outcome : Nat) (holds : LineUse) (s : State) : Host.Outcome State Fault Refusal :=
  let x := s.stackAt stack
  if x.selfRefresh ∨ 24 ≤ stack ∨ line ≠ x.scrubLine then .next s
  else
    let o := originId (stack / 3) 0x06 (stack % 3)
    let s1 := s.setStack stack { x with scrubLine := (line + 1) % 2 ^ 29 }
    if outcome = 0 then .next s1
    else if outcome = 1 then .next (s1.report { origin := o, cls := 0x01, reporter := o, info := line * 128 })
    else .next (s1.poisonLine stack line holds)

/-- REPAIR_RECORD_ADD (R547): a record equal to an existing one is not added; the region holds 65,536. -/
def execRepairRecordAdd (typ die macroId address : Nat) (s : State) : Host.Outcome State Fault Refusal :=
  let r : Repair := { typ := typ, die := die, macroId := macroId, address := address, svn := s.runningSlot.svn }
  if s.flash.repairs.contains r || decide (65536 ≤ s.flash.repairs.length) || decide (s.boot ≠ .ready) then .next s
  else .next { s with flash := { s.flash with repairs := s.flash.repairs ++ [r] } }

/-! ### MEM_MARGIN -/

/-- The selected channels, ascending. -/
def channels (mask : Nat) : List Nat := (List.range 32).filter (fun c => bitOf mask c)

/-- Range checks of MEM_MARGIN (Table 14-8). -/
def marginRange (d : Bytes) : Option Nat :=
  firstBad
    [ (16, decide (23 < fld d 16 1)), (17, decide (3 < fld d 17 1)), (18, decide (fld d 18 1 < 16) || decide (30 < fld d 18 1)),
      (19, !(zeros d 19 20)), (20, decide (fld d 20 4 = 0)), (24, decide (fld d 24 8 % 64 ≠ 0)),
      (32, decide (fld d 32 4 < 64 + 64 * (channels (fld d 20 4)).length)), (36, !(zeros d 36 128)) ]

/-- Whether an entry's timing or voltage is measured: reads only for KIND 0x00 (R345). -/
def testedT (kind dir : Nat) : Bool := (decide (kind = 0) && decide (dir = 0)) || decide (kind = 1) || decide (kind = 3)
def testedV (kind : Nat) : Bool := decide (2 ≤ kind)

/-- Whether the trained centre of an entry failed: a free value (R344). -/
def centreFails (fresh kind ch pc dir : Nat) : Bool :=
  (testedT kind dir || testedV kind) && decide (Config.measured fresh (ch * 64 + pc * 32 + dir * 16) % 2 = 1)

/-- One result entry (Table 14-10): what was measured is a free value inside the step limits of R344. -/
def marginEntry (fresh kind ch pc dir : Nat) : Bytes :=
  let m := fun i lim => Config.measured fresh (ch * 64 + pc * 32 + dir * 16 + i) % (lim + 1)
  let tt := testedT kind dir
  let tv := testedV kind
  let bad := centreFails fresh kind ch pc dir
  let on := fun (b : Bool) (v : Nat) => if b && !bad then v else 0
  let tl := on tt (m 1 32)
  let tr := on tt (m 2 32)
  let vl := on tv (m 3 63)
  let vh := on tv (m 4 63)
  let clipped := !bad && ((tt && (decide (tl = 32) || decide (tr = 32))) || (tv && (decide (vl = 63) || decide (vh = 63))))
  let flags := pc + 2 * dir + 4 * b2n tt + 8 * b2n tv + 16 * b2n bad + 32 * b2n clipped
  leBytes 1 ch ++ leBytes 1 flags ++ leBytes 2 (fieldOfInt 16 (-(tl : Int))) ++ leBytes 2 tr ++ leBytes 2 (fieldOfInt 16 (-(vl : Int))) ++ leBytes 2 vh
    ++ leBytes 1 (if tt then m 5 31 else 0) ++ leBytes 1 (if tv then m 6 31 else 0)
    ++ leBytes 4 (if tt || tv then m 7 (2 ^ 32 - 1) else 0)

/-- The whole result (R347, Table 14-9). -/
def marginResult (s : State) (c : Cmd) : Bytes :=
  let st := c.f 16 1
  let kind := c.f 17 1
  let chs := channels (c.f 20 4)
  let now := (s.counter (st / 3)).toNat
  let temp := signedByte (s.stackAt st).temp
  leBytes 4 0x4752414D ++ leBytes 1 st ++ leBytes 1 kind ++ leBytes 1 (c.f 18 1) ++ leBytes 1 0 ++ leBytes 4 (c.f 20 4) ++ leBytes 2 (4 * chs.length)
    ++ leBytes 1 temp ++ leBytes 1 temp ++ leBytes 8 now ++ leBytes 8 now ++ leBytes 4 s.hbmRate ++ leBytes 2 700 ++ leBytes 26 0
    ++ chs.flatMap (fun ch => marginEntry s.fresh kind ch 0 0 ++ marginEntry s.fresh kind ch 0 1 ++ marginEntry s.fresh kind ch 1 0 ++ marginEntry s.fresh kind ch 1 1)

/-- Entries whose trained centre failed (R346). -/
def marginFails (s : State) (c : Cmd) : Nat :=
  ((channels (c.f 20 4)).flatMap (fun ch => [(ch, 0, 0), (ch, 0, 1), (ch, 1, 0), (ch, 1, 1)])).countP (fun x =>
    centreFails s.fresh (c.f 17 1) x.1 x.2.1 x.2.2)

/-- A MEM_MARGIN of one KIND (R343 to R347): held while the stack is being margined, E_MARGIN_STATE in self-refresh; DIE of the record is the stack's home die. -/
def memMargin (kind cmd : Nat) (s : State) : State :=
  control 0x52 (fun c => decide (c.f 17 1 = kind)) (fun c s =>
    let home := c.f 16 1 / 3
    if s.cmds.any (fun x => decide (x.1 < cmd) && x.2.opcode == 0x52 && x.2.f 16 1 == c.f 16 1) then s
    else if (s.stackAt (c.f 16 1)).selfRefresh then s.settle cmd (.error (E_MARGIN_STATE, 1))
    else
      let s1 := s.hostWrite (s.functionOf c.owner) (c.f 24 8) (marginResult s c)
      ((s1.takeFresh).setCmd cmd { c with home := home }).finish cmd OK (marginFails s c)) cmd s

/-- MEM_MARGIN KIND 0x00 (R345). -/
def execMemMarginReadScan (cmd : Nat) (s : State) : Host.Outcome State Fault Refusal := .next (memMargin 0 cmd s)
/-- MEM_MARGIN KIND 0x01 (R344). -/
def execMemMarginTiming (cmd : Nat) (s : State) : Host.Outcome State Fault Refusal := .next (memMargin 1 cmd s)
/-- MEM_MARGIN KIND 0x02 (R344). -/
def execMemMarginVoltage (cmd : Nat) (s : State) : Host.Outcome State Fault Refusal := .next (memMargin 2 cmd s)
/-- MEM_MARGIN KIND 0x03 (R344). -/
def execMemMarginTimingVoltage (cmd : Nat) (s : State) : Host.Outcome State Fault Refusal := .next (memMargin 3 cmd s)

end Sys2Proof.Machine
end

