-- ==== Sys2Proof/Machine/Security.lean ====
section
/-! DEFINITION. The security core: firmware slots and the mailbox, measurements and ATTEST, SPDM, keys, IDE and debug access (R482 to R505, R556). -/

namespace Sys2Proof.Machine

/-! ### Firmware slots -/

/-- Whether an image verifies (R484, Table 21-2). -/
def imageVerifies (m : Mem) : Bool :=
  let h := Mem.readRange m 0 256
  let key := (h.drop 24).take 57
  decide (fld h 0 4 = 0x4E4F4D48) && decide (fld h 4 2 = 1) && decide (fld h 6 1 < 4)
    && decide (fixLen 32 (Config.shake256 32 key) = fixLen 32 (Config.firmwareKeyHash (fld h 6 1)))
    && Config.ed448Verify key ((h.drop 128).take 114) (Config.shake256 64 (h.take 128 ++ Mem.readRange m 256 (fld h 16 4)))

/-- The slot FW_WRITE writes: the one not running, or TARGET in recovery (Table 21-4). -/
def Sec.writeSlot (x : Sec) : Bool := match x.running with | some r => !r | none => x.mbTarget

/-- The result of FW_WRITE, and its effect (Table 21-4, R556): 0x01 refused, 0x02 argument out of range, 0x03 DMA error. -/
def State.fwWrite (s : State) (dmaOk : Bool) : State × Nat :=
  let x := s.sec
  if !x.recovery && x.mbTarget then (s, 1)
  else if x.mbOffset % 4096 ≠ 0 ∨ x.mbLen < 4 ∨ 65536 < x.mbLen ∨ 33554432 < x.mbOffset + x.mbLen ∨ x.mbAddr % 4096 ≠ 0 then (s, 2)
  else if !dmaOk || (s.dmaStop 0).isSome then (s, 3)
  else
    let b := x.writeSlot
    let m := Mem.writeRange (s.flash.slot b).image x.mbOffset (s.hostRead x.mbAddr x.mbLen)
    let slot : HimonSlot := { state := .empty, svn := Mem.nat m 8 4, version := Mem.nat m 12 4, verifies := imageVerifies m, image := m }
    ({ s.asDma 0 false x.mbAddr x.mbLen with flash := s.flash.putSlot b slot, sec := { x with lastWritten := some b } }, 0)

/-- FW_ACTIVATE: the written slot becomes TRIAL with TRIED clear, unless it does not verify or lies below the floor. After a cold reset it is the slot that FW_WRITE would write. -/
def State.fwActivate (s : State) : State × Nat :=
  let b := s.sec.lastWritten.getD s.sec.writeSlot
  let x := s.flash.slot b
  if x.verifies && decide (s.flash.floor ≤ x.svn) then
    ({ s with flash := s.flash.putSlot b { x with state := .trial, tried := false } }, 0)
  else (s, 1)

/-- FW_CONFIRM: the running slot, booted as TRIAL, becomes GOOD and raises the floor. -/
def State.fwConfirm (s : State) : State × Nat :=
  match s.sec.running with
  | none => (s, 1)
  | some b =>
    if s.sec.trialBoot then
      let x := s.flash.slot b
      let f := s.flash.putSlot b { x with state := .good, fails := 0 }
      ({ s with flash := { f with floor := max f.floor x.svn } }, 0)
    else (s, 1)

/-- SLOT_A and SLOT_B as FW_STATUS returns them (Table 24-6). -/
def slotWord (x : HimonSlot) : Nat :=
  (match x.state with | .empty => 0 | .trial => 1 | .good => 2 | .bad => 3) + 4 * b2n x.tried + 8 * (x.fails % 4)

/-- FW_STATUS: never refused. -/
def State.fwStatus (s : State) : State × Nat :=
  let a := s.flash.slot false
  let b := s.flash.slot true
  ({ s with sec := { s.sec with statusRegs := [slotWord a, slotWord b, a.svn, b.svn, a.version, b.version, s.flash.floor] } }, 0)

/-- DEBUG_UNLOCK: the token is stored for the next cold boot unless it names another part's serial. -/
def State.debugUnlock (s : State) (dmaOk : Bool) : State × Nat :=
  if s.sec.mbAddr % 4096 ≠ 0 then (s, 2)
  else if !dmaOk || (s.dmaStop 0).isSome then (s, 3)
  else
    let t := s.hostRead s.sec.mbAddr s.sec.mbLen
    if Config.tokenSerial t ≠ s.serial then (s.asDma 0 false s.sec.mbAddr s.sec.mbLen, 1)
    else ({ s.asDma 0 false s.sec.mbAddr s.sec.mbLen with flash := { s.flash with token := some t, tokenOk := Config.tokenVerifies t } }, 0)

/-- GO written with a command: ignored while GO reads 1 or where the mailbox is not served (R551, R556). -/
def State.mailboxGo (s : State) (code : Nat) (stores : List Host.Cell) : State :=
  let s1 := s.hostStores stores
  if s1.barMailbox && !s1.sec.mbGo then { s1 with sec := { s1.sec with mbGo := true, mbCmd := code } } else s1

/-- FW_WRITE started by GO (Table 21-4). -/
def execFwWrite (stores : List Host.Cell) (s : State) : Host.Outcome State Fault Refusal := .next (s.mailboxGo 1 stores)
/-- FW_ACTIVATE started by GO. -/
def execFwActivate (stores : List Host.Cell) (s : State) : Host.Outcome State Fault Refusal := .next (s.mailboxGo 2 stores)
/-- FW_CONFIRM started by GO. -/
def execFwConfirm (stores : List Host.Cell) (s : State) : Host.Outcome State Fault Refusal := .next (s.mailboxGo 3 stores)
/-- FW_STATUS started by GO. -/
def execFwStatus (stores : List Host.Cell) (s : State) : Host.Outcome State Fault Refusal := .next (s.mailboxGo 4 stores)
/-- DEBUG_UNLOCK started by GO. -/
def execDebugUnlock (stores : List Host.Cell) (s : State) : Host.Outcome State Fault Refusal := .next (s.mailboxGo 5 stores)

/-- MAILBOX_COMMAND_DONE (R556): the started command has its effect; RESULT and DONE are set and GO clears. -/
def execMailboxCommandDone (dmaOk : Bool) (s : State) : Host.Outcome State Fault Refusal :=
  if !s.sec.mbGo then .next s
  else
    let (s1, r) :=
      match s.sec.mbCmd with
      | 1 => s.fwWrite dmaOk
      | 2 => s.fwActivate
      | 3 => s.fwConfirm
      | 4 => s.fwStatus
      | 5 => s.debugUnlock dmaOk
      | _ => (s, 2)
    .next { s1 with sec := { s1.sec with mbGo := false, mbDone := true, mbResult := r } }

/-! ### Measurements (R492) -/

/-- The identity bytes of a partition: PARTITION, FUNCTION, QUIRE_GROUPS (Table 21-5). -/
def partIdentity (n : Nat) (p : Part) : Bytes := leBytes 1 n ++ leBytes 1 p.function ++ leBytes 12 p.groups.toNat

/-- Ascending order of byte strings. -/
def bytesLe : Bytes → Bytes → Bool
  | [], _ => true
  | _ :: _, [] => false
  | a :: as, b :: bs => if a < b then true else if b < a then false else bytesLe as bs

/-- Insert into a list that a relation orders. -/
def insertBy {α : Type} (le : α → α → Bool) (x : α) : List α → List α
  | [] => [x]
  | y :: ys => if le x y then x :: y :: ys else y :: insertBy le x ys

/-- Stable insertion sort. -/
def sortBy {α : Type} (le : α → α → Bool) (l : List α) : List α := l.foldr (insertBy le) []

/-- The models a partition reaches: its own, and the shared bases of its alloys, by ascending MODEL_ID (R492). -/
def State.reachable (s : State) (p : Nat) : List (Nat × Model) :=
  (sortBy (fun a b => decide (a.1 % 2 ^ 32 ≤ b.1 % 2 ^ 32))
    (s.models.filter (fun m => m.2.owner == p || (m.2.owner == packageOwner && s.alloys.any (fun a => a.1 / 2 ^ 32 == p && a.2.base == m.1)))))

/-- The measurements of a report: index, kind, AUX, and the 64-byte field (R492, R494). -/
def measurements (s : State) (scope part : Nat) : List (Nat × Nat × Nat × Bytes) :=
  let dig := fun (b : Bytes) => fixLen 64 (Config.sha3 b)
  let val := fun (v : Nat) => fixLen 64 (leBytes 8 v)
  let r := s.runningSlot
  let pkg := [ (1, 0, 0, dig Config.rom), (2, 0, 0, r.digest),
               (3, 1, 0, val (r.svn + 2 ^ 32 * s.flash.floor)), (4, 1, 0, val (b2n s.sec.unlocked)), (5, 1, 0, val 0xA1),
               (6, 0, 0, dig (s.parts.flatMap (fun p => partIdentity p.1 p.2))) ]
  match (if scope = 0 then none else NMap.get? s.parts part) with
  | none => pkg
  | some p =>
    pkg ++ [ (0x10, 0, 0, dig (partIdentity part p)),
             (0x11, 0, 0, dig (sortBy bytesLe (NMap.values p.publisherKeys)).flatten) ]
        ++ ((s.reachable part).zipIdx).map (fun m => (0x100 + m.2, 0, m.1.1 % 2 ^ 32, dig m.1.2.manifest))

/-! ### SPDM (R496) -/

/-- Whether the security core answers. -/
def State.secUp (s : State) : Bool :=
  match s.boot with | .off => false | .held => false | .waitPower => false | .tripped => false | _ => true

/-- Send an SPDM response. -/
def State.spdmSend (s : State) (b : Bytes) : State := if s.secUp then { s with spdmOut := s.spdmOut ++ [b] } else s

/-- A request of code `code` is answered with the facts its response conveys; the message format is free (log entry 8). -/
def State.spdm (s : State) (code transport : Nat) (req facts : Bytes) : State := s.spdmSend (Config.spdmReply code transport req facts)

/-- An answer signed by the alias key (R496). -/
def State.spdmSigned (s : State) (code transport : Nat) (req facts : Bytes) : State :=
  let b := Config.spdmReply code transport req facts
  let k := s.bootKey
  s.spdmSend (b ++ fixLen 114 (Config.aliasSign k.1 k.2.1 k.2.2 (Config.spdmTranscript code transport (req ++ b))))

/-- The request codes supported (Table 21-7): GET_VERSION, GET_CAPABILITIES, NEGOTIATE_ALGORITHMS, GET_DIGESTS, GET_CERTIFICATE, CHALLENGE, GET_MEASUREMENTS, KEY_EXCHANGE, FINISH, KEY_UPDATE, HEARTBEAT, END_SESSION. PRESUMED: the numbers are those of the SPDM standard (log entry 8). -/
def spdmRequests : Bytes := [0x84, 0xE1, 0xE3, 0x81, 0x82, 0x83, 0xE0, 0xE4, 0xE5, 0xE9, 0xE8, 0xEC]

/-- The algorithms of Table 21-7, the only ones the part selects: Ed448, SHA3-512 for both hashes, secp384r1, AES-256-GCM. PRESUMED: the bits are those of the SPDM standard (log entry 8). -/
def spdmAlgorithms : Bytes := leBytes 4 (2 ^ 11) ++ leBytes 4 (2 ^ 5) ++ leBytes 4 (2 ^ 6) ++ leBytes 2 (2 ^ 4) ++ leBytes 2 (2 ^ 1)

/-- Indices 0x01 to 0x06 in DMTF measurement block format (Table 21-7). -/
def measurementBlocks (s : State) : Bytes :=
  (measurements s 0 0).flatMap (fun m => leBytes 1 m.1 ++ leBytes 1 1 ++ leBytes 2 67 ++ leBytes 1 (Config.dmtfType m.1) ++ leBytes 2 64 ++ m.2.2.2)

def Sec.sessions (x : Sec) (transport : Nat) : NMap Session := if transport = 0 then x.doe else x.mctp
def Sec.setSessions (x : Sec) (transport : Nat) (m : NMap Session) : Sec := if transport = 0 then { x with doe := m } else { x with mctp := m }

/-- Sessions a transport allows at once: 4 over DOE, 2 over MCTP. -/
def sessionLimit (transport : Nat) : Nat := if transport = 0 then 4 else 2

/-- SPDM GET_VERSION. -/
def execSpdmGetVersion (transport _session : Nat) (req : Bytes) (s : State) : Host.Outcome State Fault Refusal := .next (s.spdm 0x84 transport req (leBytes 1 0x13))
/-- SPDM GET_CAPABILITIES. -/
def execSpdmGetCapabilities (transport _session : Nat) (req : Bytes) (s : State) : Host.Outcome State Fault Refusal := .next (s.spdm 0xE1 transport req spdmRequests)
/-- SPDM NEGOTIATE_ALGORITHMS. -/
def execSpdmNegotiateAlgorithms (transport _session : Nat) (req : Bytes) (s : State) : Host.Outcome State Fault Refusal := .next (s.spdm 0xE3 transport req spdmAlgorithms)
/-- The certificates of an SPDM slot: slot 0 alone is populated (R491). -/
def State.certSlot (s : State) (slot : Nat) : Option (List Bytes) := if slot = 0 then s.certChain else none

/-- A request about the certificates of a slot is answered from them, and with an error when the slot holds none; the bytes of both are free (log entry 8). -/
def State.spdmCerts (s : State) (code transport slot : Nat) (req : Bytes) : State :=
  s.spdmSend (match s.certSlot slot with
    | some chain => Config.certReply code transport req chain
    | none => Config.spdmError code transport req)

/-- A request within a session: its effect on the session and its answer, or an error where there is no such session. -/
def State.inSession (s : State) (code transport session : Nat) (req : Bytes) (f : NMap Session → NMap Session) : State :=
  let m := s.sec.sessions transport
  if NMap.has m session then { s with sec := s.sec.setSessions transport (f m) }.spdm code transport req []
  else s.spdmSend (Config.spdmError code transport req)

/-- SPDM GET_DIGESTS: the digests of the chain of slot 0, the only one populated (R491). -/
def execSpdmGetDigests (transport _session : Nat) (req : Bytes) (s : State) : Host.Outcome State Fault Refusal := .next (s.spdmCerts 0x81 transport 0 req)
/-- SPDM GET_CERTIFICATE of the slot that the request's PARAM1 names in its low four bits; slot 0 alone holds a chain (R491). PRESUMED: the byte's place is that of the SPDM standard (log entry 8). -/
def execSpdmGetCertificate (transport _session : Nat) (req : Bytes) (s : State) : Host.Outcome State Fault Refusal :=
  .next (s.spdmCerts 0x82 transport (fld req 2 1 % 16) req)
/-- SPDM CHALLENGE, signed by the alias key. -/
def execSpdmChallenge (transport _session : Nat) (req : Bytes) (s : State) : Host.Outcome State Fault Refusal := .next (s.spdmSigned 0x83 transport req ((s.certChain.getD []).flatten ++ measurementBlocks s))
/-- SPDM GET_MEASUREMENTS. -/
def execSpdmGetMeasurements (transport _session : Nat) (req : Bytes) (s : State) : Host.Outcome State Fault Refusal := .next (s.spdmSigned 0xE0 transport req (measurementBlocks s))

/-- SPDM KEY_EXCHANGE: opens a session, or is answered BUSY at the session limit. The reply code 0x7F stands for the BUSY error. -/
def execSpdmKeyExchange (transport session : Nat) (req : Bytes) (s : State) : Host.Outcome State Fault Refusal :=
  let m := s.sec.sessions transport
  if !s.secUp then .next s
  else if sessionLimit transport ≤ m.length ∧ !(NMap.has m session) then .next (s.spdm 0x7F transport req [])
  else .next ({ s with sec := s.sec.setSessions transport (NMap.set m session {}) }.spdmSigned 0xE4 transport req ((s.certChain.getD []).flatten ++ measurementBlocks s))

/-- SPDM FINISH: completes the establishment of an open session. -/
def execSpdmFinish (transport session : Nat) (req : Bytes) (s : State) : Host.Outcome State Fault Refusal :=
  .next (s.inSession 0xE5 transport session req (fun m => NMap.modify m session (fun x => { x with established := true })))

/-- SPDM KEY_UPDATE: rekeys an established session. -/
def execSpdmKeyUpdate (transport session : Nat) (req : Bytes) (s : State) : Host.Outcome State Fault Refusal :=
  .next (s.inSession 0xE9 transport session req (fun m => NMap.modify m session (fun x => if x.established then { x with keyGen := x.keyGen + 1 } else x)))

/-- SPDM HEARTBEAT within a session. -/
def execSpdmHeartbeat (transport session : Nat) (req : Bytes) (s : State) : Host.Outcome State Fault Refusal :=
  .next (s.inSession 0xE8 transport session req (fun m => m))

/-- SPDM END_SESSION: closes the session. -/
def execSpdmEndSession (transport session : Nat) (req : Bytes) (s : State) : Host.Outcome State Fault Refusal :=
  .next (s.inSession 0xEC transport session req (fun m => NMap.erase m session))

/-- IDE_KM over an established secured session on DOE (R501): the keys of a stream are delivered, or activated; an insecure stream resumes only after a new key set, and the writes held back for it go out (R502). -/
def execIdeKmRequest (session stream : Nat) (activate : Bool) (s : State) : Host.Outcome State Fault Refusal :=
  match NMap.get? s.sec.doe session with
  | some x =>
    if x.established && decide (stream ≤ 8) && s.secUp then
      let e := NMap.getD s.sec.ide stream {}
      let put := fun (a : State) (e1 : IdeStream) => { a with sec := { a.sec with ide := NMap.set a.sec.ide stream e1 } }
      if activate then
        match e.next with
        | some k => .next (put s { next := none, key := some k, insecure := false, fns := Config.ideFunctions stream }).releaseWrites
        | none => .next s
      else .next (put s.takeFresh { e with next := some (Config.ideKey s.fresh) })
    else .next s
  | none => .next s

/-- IDE_STREAM_INSECURE (R502, R544): a keyed stream loses its keys and DMA on it stops; one error of origin HS is recorded, the commands whose access to host memory fails complete E_IDE_STREAM, and the partitions of its functions are quarantined. -/
def execIdeStreamInsecure (stream : Nat) (s : State) : Host.Outcome State Fault Refusal :=
  let e := NMap.getD s.sec.ide stream {}
  if e.key.isNone then .next s
  else
    let o := originId 0 0x0B 0
    let s1 := { s with sec := { s.sec with ide := NMap.set s.sec.ide stream { e with key := none, insecure := true } } }
    let hit := s1.parts.filter (fun p => e.fns.contains p.2.function)
    let s2 := s1.report { origin := o, cls := 0x0D, reporter := o, status := E_IDE_STREAM, detail := stream, partition := match hit with | [] => 0xFF | p :: _ => p.1 }
    let s3 := (s2.cmds.filter (fun c => c.2.uncommitted && (s2.ideStop c.2).isSome)).foldl (fun (a : State) c => a.failCmd c.1 E_IDE_STREAM stream) s2
    .next (hit.foldl (fun a p => a.quarantinePart p.1 o) s3)

/-! ### KEY_IMPORT -/

/-- Range checks of KEY_IMPORT (Table 21-9): a field that the ACTION does not use is zero; of WRAPPED, ACTION 0x01 uses byte 76 as the last of PUBLISHER. -/
def keyRange (d : Bytes) : Option Nat :=
  let act := fld d 18 1
  firstBad
    [ (16, decide (act ≤ 3) && decide ((if act % 2 = 0 then 255 else 63) < fld d 16 2)), (18, decide (3 < act)), (19, !(zeros d 19 20)),
      (20, decide (2 ≤ act) && !(zeros d 20 77)), (76, decide (act ≠ 0) && !(zeros d 77 108)), (108, decide (act ≠ 0) && !(zeros d 108 124)), (124, !(zeros d 124 128)) ]

/-- Unwrap a content key (R499). -/
def unwrapKey (s : State) (part : Nat) (d : Bytes) : Option Bytes :=
  let k := s.bootKey
  let z := Config.importShared k.1 k.2.1 k.2.2 ((d.drop 20).take 56)
  if z.all (· == 0) then none
  else
    let info := [0x52, 0x42, 0x4F, 0x4B] ++ leBytes 1 part ++ leBytes 2 (fld d 16 2) ++ leBytes 1 (fld d 18 1)
    let okm := hkdf 44 z info
    (Config.gcmOpen (okm.take 32) (okm.drop 32) (leBytes 1 part ++ leBytes 2 (fld d 16 2)) ((d.drop 76).take 32) ((d.drop 108).take 16)).map (fixLen 32)

/-- Change a partition. -/
def State.modPart (s : State) (p : Nat) (f : Part → Part) : State := { s with parts := NMap.modify s.parts p f }

/-- KEY_IMPORT ACTION 0x00 (R499, R500). -/
def execKeyImportContent (cmd : Nat) (s : State) : Host.Outcome State Fault Refusal :=
  .next (control 0x51 (fun c => decide (c.f 18 1 = 0)) (fun c s =>
    s.settle cmd (
      match unwrapKey s c.owner c.desc with
      | none => .error (E_KEY, 4)
      | some k => .ok (s.modPart c.owner (fun p => { p with contentKeys := NMap.set p.contentKeys (c.f 16 2) k }), OK, 0))) cmd s)

/-- KEY_IMPORT ACTION 0x01 (R499). -/
def execKeySetPublisher (cmd : Nat) (s : State) : Host.Outcome State Fault Refusal :=
  .next (control 0x51 (fun c => decide (c.f 18 1 = 1)) (fun c s =>
    let k := (c.desc.drop 20).take 57
    s.settle cmd (
      if Config.ed448Point k then .ok (s.modPart c.owner (fun p => { p with publisherKeys := NMap.set p.publisherKeys (c.f 16 2) k }), OK, 0)
      else .error (E_KEY, 5))) cmd s)

/-- KEY_IMPORT ACTION 0x02: clearing an empty slot commits OK (R499). -/
def execKeyClearContent (cmd : Nat) (s : State) : Host.Outcome State Fault Refusal :=
  .next (control 0x51 (fun c => decide (c.f 18 1 = 2)) (fun c s =>
    (s.modPart c.owner (fun p => { p with contentKeys := NMap.erase p.contentKeys (c.f 16 2) })).finish cmd OK 0) cmd s)

/-- KEY_IMPORT ACTION 0x03. -/
def execKeyClearPublisher (cmd : Nat) (s : State) : Host.Outcome State Fault Refusal :=
  .next (control 0x51 (fun c => decide (c.f 18 1 = 3)) (fun c s =>
    (s.modPart c.owner (fun p => { p with publisherKeys := NMap.erase p.publisherKeys (c.f 16 2) })).finish cmd OK 0) cmd s)

/-! ### ATTEST -/

/-- Range checks of ATTEST (R493). -/
def attestRange (owner : Nat) (d : Bytes) : Option Nat :=
  let scope := fld d 16 1
  firstBad
    [ (16, decide (1 < scope) || (decide (scope = 0) && decide (owner ≠ packageOwner))),
      (17, if scope = 0 then decide (fld d 17 1 ≠ 0) else if owner = packageOwner then decide (15 < fld d 17 1) else decide (fld d 17 1 ≠ owner)),
      (18, !(zeros d 18 24)), (56, decide (fld d 56 8 % 64 ≠ 0)), (68, !(zeros d 68 128)) ]

/-- The attestation report (Table 21-6). -/
def attestReport (s : State) (d : Bytes) : Bytes :=
  let ms := measurements s (fld d 16 1) (fld d 17 1)
  let k := s.bootKey
  let body := leBytes 4 0x54535441 ++ leBytes 2 1 ++ leBytes 1 (fld d 16 1) ++ leBytes 1 (fld d 17 1) ++ leBytes 2 ms.length ++ leBytes 2 0
    ++ leBytes 4 (128 + 80 * ms.length + 114) ++ leBytes 8 (s.counter 0).toNat ++ (d.drop 24).take 32 ++ leBytes 8 0
    ++ fixLen 56 (Config.importPublic k.1 k.2.1 k.2.2) ++ leBytes 8 0
    ++ ms.flatMap (fun m => leBytes 2 m.1 ++ leBytes 1 m.2.1 ++ leBytes 1 0 ++ leBytes 4 m.2.2.1 ++ leBytes 8 0 ++ m.2.2.2)
  body ++ fixLen 114 (Config.aliasSign k.1 k.2.1 k.2.2 (Config.shake256 64 body))

/-- ATTEST (R494, R495): a report longer than REPORT_LEN fails E_REPORT_SPACE with the length in 64-byte units and no write. -/
def execAttest (cmd : Nat) (s : State) : Host.Outcome State Fault Refusal :=
  .next (control 0x4D (fun _ => true) (fun c s =>
    s.settle cmd (
      if c.f 16 1 = 1 ∧ !(NMap.has s.parts (c.f 17 1)) then .error (E_PART_STATE, 5)
      else
        let n := (measurements s (c.f 16 1) (c.f 17 1)).length
        let len := 128 + 80 * n + 114
        if c.f 64 4 < len then .error (E_REPORT_SPACE, ceilDiv len 64)
        else .ok (s.hostWrite (s.functionOf c.owner) (c.f 56 8) (attestReport s c.desc), OK, n))) cmd s)

/-! ### Debug access (R505, R553) -/

/-- DISCARD_TOKEN (Table 24-4). -/
def execDiscardToken (s : State) : Host.Outcome State Fault Refusal :=
  if s.barAll then .next { s with flash := { s.flash with token := none, tokenOk := false } } else .next s

/-- JTAG_INSTRUCTION (R505): boundary scan is always available; any other instruction is refused and counted while debug is locked. -/
def execJtagInstruction (boundary : Bool) (s : State) : Host.Outcome State Fault Refusal :=
  if boundary || s.sec.unlocked then .next s
  else .next { s with sec := { s.sec with jtagRefused := min (s.sec.jtagRefused + 1) 0xFFFF } }

end Sys2Proof.Machine
end

