-- ==== Sys2Proof/Machine/Reset.lean ====
section
/-! DEFINITION. Resets, the boot chain, start-up and package states (R34, R485 to R488, R507 to R510, R525 to R528, R533, R577). -/

namespace Sys2Proof.Machine

/-! ### The boot chain (R485, R486) -/

/-- TRIAL slots found with TRIED set become BAD. -/
def Flash.judge (f : Flash) : Flash :=
  [false, true].foldl (fun (g : Flash) b =>
    let x := g.slot b
    if x.state = .trial ∧ x.tried then g.putSlot b { x with state := .bad } else g) f

/-- The slots the ROM considers, in order. -/
def Flash.order (f : Flash) : List Bool :=
  let trial := [false, true].filter (fun b => decide ((f.slot b).state = .trial) && !(f.slot b).tried)
  let good := [false, true].filter (fun b => decide ((f.slot b).state = .good) && decide ((f.slot b).fails < 3))
  trial ++ (if good = [false, true] ∧ (f.slot false).svn < (f.slot true).svn then [true, false] else good)

/-- The slot that boots: the first that verifies with its SVN at or above the floor. -/
def Flash.choose (f : Flash) : Option Bool := f.order.find? (fun b => (f.slot b).verifies && decide (f.floor ≤ (f.slot b).svn))

/-! ### Self-repair (R335, R546, R547) -/

/-- The stack that an HBM repair record names. -/
def Repair.origin (r : Repair) : Nat := if r.typ = 3 ∨ r.typ = 4 then originId (r.macroId % 256 / 3) 0x06 (r.macroId % 256 % 3) else originId r.die 0x0C 0

/-- Apply the repair records that find a spare; each other one is kept and raises a MEM_CE record with DETAIL 0xFFFF (R547). -/
def State.applyRepairs (s : State) : State :=
  let fits := fun (r : Repair) => Config.spareLeft r.typ r.die r.macroId r.address
  let s1 := { s with repaired := s.flash.repairs.filter fits }
  (s.flash.repairs.filter (fun r => !(fits r))).foldl (fun (a : State) r =>
    a.report { origin := r.origin, cls := 0x01, reporter := r.origin, detail := 0xFFFF }) s1

/-- A die after logic self-test on its 100 quires: logical id nn is served by physical nn if it passed, else by the lowest passing spare left, else by none (R546). -/
def DieState.selfTest (x : DieState) (passes : Nat → Bool) (ways : List (Nat × Nat)) : DieState :=
  let good := (List.range 4).map (· + 96) |>.filter passes
  let place := (List.range 96).foldl (fun (m : List (Option Nat) × List Nat) n =>
    if passes n then (m.1 ++ [some n], m.2) else (m.1 ++ [m.2.head?], m.2.tail)) ([], good)
  { x with quires := x.quires.zipIdx.map (fun q => { q.1 with failed := !(passes q.2) }), logical := place.1, deadWays := ways }

/-- Training at cold boot (R381): failing lanes of each direction move to its 16 spares; with more of them the link runs on 256 lanes. -/
def State.trainSpine (s : State) (n : Nat) : State :=
  ((List.range 8).flatMap (fun b => (List.range b).map (fun a => (a, b)))).foldl (fun (z : State) l =>
    let bad := [0, 1].map (Config.lanesFailed n l.1 l.2)
    z.setSpine l.1 l.2 { z.spineAt l.1 l.2 with spares := bad.map (min 16), width := bad.map laneWidth }) s

/-- Step 3 of a cold start-up on every die; a system region that cannot be repaired fences the die, and stops start-up in the fatal state on die 0. The outcomes of the tests, the spares and the data rate of the stacks are free values (log entry 101). -/
def State.selfRepair (s : State) : State :=
  let n := s.fresh
  let s1 := s.takeFresh.applyRepairs
  let s2 : State := { s1 with hbmRate := [9600, 8000, 6400].getD (Config.hbmRate n % 3) 9600,
                              dies := s1.dies.zipIdx.map (fun d => d.1.selfTest (Config.quirePasses n d.2) (Config.waysFailed n d.2)) }
  ((List.range 8).filter (Config.systemFails n)).foldl (fun (a : State) d => a.loseDie d (originId d 0x0C 0)) (s2.trainSpine n)

/-- Steps 3 to 6 of a cold start-up: self-repair; the ROM chooses a slot and hands off to Himon, or the part enters recovery (R485 to R487); a stored token that verifies unlocks debug for this power cycle (R505); with an invalid operating-point table one record is raised (R512). -/
def State.bootChain (s0 : State) : State :=
  let s := s0.selfRepair
  let f := s.flash.judge
  match f.choose with
  | none => { s with flash := f, boot := .recovery, sec := { recovery := true, unlocked := f.tokenOk } }
  | some b =>
    let x := f.slot b
    let trial := decide (x.state = .trial)
    let f1 := f.putSlot b (if trial then { x with tried := true } else { x with fails := x.fails + 1 })
    let s1 := { s with flash := f1, boot := .cold,
                       sec := { running := some b, trialBoot := trial, unlocked := f.tokenOk, handOff := some (s.counter 0),
                                aliasCert := some (Config.aliasCert x.digest x.svn f.tokenOk) } }
    let s2 := { s1 with power := { s1.power with dies := (List.range 8).map (fun d => { s1.diePower d with mv := s1.setPoint d 0 }) } }
    if f.pointsValid then s2 else s2.report { origin := originId 0 0x0C 0x06, cls := 0x0A, reporter := originId 0 0x0C 0x06 }

/-! ### Cold resets (R525) -/

/-- A cold reset keeps the package flash and the cause code; what lies outside the part (host memory, its pins, what has left it) stays. -/
def State.coldReset (s : State) (cause : Nat) (boot : Boot) (pins : Pins) : State :=
  { pending := s.pending, fresh := s.fresh, host := s.host, flash := s.flash, serial := s.serial, boot := boot, pins := pins, resetCause := cause,
    msixOut := s.msixOut, spineOut := s.spineOut, frameOut := s.frameOut, spdmOut := s.spdmOut, keyOut := s.keyOut, pldmOut := s.pldmOut }

/-- Step 2 of a cold start-up: PWR_REQ_N is asserted; the chain runs at once when PWR_GOOD is already up. -/
def State.powerUp (s : State) : State :=
  let s1 := { s with boot := .waitPower, pins := { s.pins with pwrReq := true } }
  if s1.pins.pwrGood then s1.bootChain else s1

/-- V1P8_AUX_APPLIED (R525): a cold reset with cause 0x00, or 0x04 when a trip was latched as the supply went (R521). -/
def execV1p8AuxApplied (s : State) : Host.Outcome State Fault Refusal :=
  if s.pins.aux then .next s
  else
    let s1 := s.coldReset s.resetCause .held { s.pins with aux := true }
    .next (if s1.pins.pkgRst then s1 else s1.powerUp)

/-- V1P8_AUX_REMOVED (R577): the part is off; a latched trip ends. -/
def execV1p8AuxRemoved (s : State) : Host.Outcome State Fault Refusal :=
  .next (s.coldReset (if s.boot = .tripped then 4 else 0) .off
    { s.pins with aux := false, pwrReq := false, pwrGood := false, thermTrip := false, svcAttn := false })

/-- PKG_RST_N_ASSERT (R577): a cold reset whatever else is happening; cause 0x01, or 0x04 out of a trip. -/
def execPkgRstNAssert (s : State) : Host.Outcome State Fault Refusal :=
  if !s.pins.aux then .next { s with pins := { s.pins with pkgRst := true } }
  else .next (s.coldReset (if s.boot = .tripped then 4 else 1) .held
    { s.pins with pkgRst := true, pwrReq := false, pwrGood := false, thermTrip := false, svcAttn := false })

/-- PKG_RST_N_RELEASE (R528): with V1P8_AUX good, step 1 of the cold start-up. -/
def execPkgRstNRelease (s : State) : Host.Outcome State Fault Refusal :=
  let s1 := { s with pins := { s.pins with pkgRst := false } }
  .next (if s.pins.aux ∧ s.pins.pkgRst ∧ s.boot = .held then s1.powerUp else s1)

/-- PWR_GOOD_ASSERT (R507): start-up passes step 2. -/
def execPwrGoodAssert (s : State) : Host.Outcome State Fault Refusal :=
  let s1 := { s with pins := { s.pins with pwrGood := true } }
  .next (if s.boot = .waitPower then s1.bootChain else s1)

/-- PWR_GOOD_LOSS (R508): while PWR_REQ_N is asserted, a cold reset with cause 0x03; otherwise no effect (R577). The fatal state outlives it, as R545 lets only PKG_RST_N and V1P8_AUX end that (DEDUCED, log entry 16), and so does a trip (R577). -/
def execPwrGoodLoss (s : State) : Host.Outcome State Fault Refusal :=
  if s.pins.pwrReq && s.pins.pwrGood && !s.pins.pkgRst && s.pins.aux && !s.fatal && decide (s.boot ≠ .tripped) then
    .next (s.coldReset 3 .waitPower { s.pins with pwrGood := false, svcAttn := false })
  else .next { s with pins := { s.pins with pwrGood := false } }

/-- HIMON_WATCHDOG_EXPIRY (R486): 5 s after hand-off without Himon ready, the security core resets the package, cause 0x02. -/
def execHimonWatchdogExpiry (t : Word) (s : State) : Host.Outcome State Fault Refusal :=
  let s1 := s.reach 0 t
  match s1.sec.handOff with
  | some h =>
    if s1.boot = .cold ∧ !s1.fatal ∧ 500000000 ≤ (s1.counter 0 - h).toNat then .next ((s1.coldReset 2 .waitPower { s1.pins with svcAttn := false }).powerUp)
    else .next s1
  | none => .next s1

/-! ### Warm resets (R526, R527, R533) -/

/-- The pre-reset entries of every ring (R533): fields as they stand, with the unrecorded commands of each submission ring. -/
def State.preResets (s : State) (unrecorded : List Cmd) : List PreReset :=
  let sub := s.subs.map (fun r =>
    ({ partition := r.1 / 1024, kind := 0, ringId := r.1 % 1024, log2 := r.2.log2, halted := r.2.halted, armed := false, phase := false,
       head := r.2.head, tail := r.2.tail, lastTag := r.2.lastTag, lastCounter := r.2.lastCounter,
       unrecorded := unrecorded.countP (fun c => decide (ringKey c.owner c.ring = r.1)) } : PreReset))
  let comp := s.comps.map (fun r =>
    ({ partition := r.1 / 1024, kind := 1, ringId := r.1 % 1024, log2 := r.2.log2, halted := false, armed := r.2.armed, phase := r.2.phase,
       head := r.2.head, tail := r.2.next, lastTag := 0, lastCounter := 0, unrecorded := 0 } : PreReset))
  (sub ++ comp).map (fun e => if e.partition = packageOwner then { e with partition := 0xFF } else e)

/-- The open steps a warm reset cancels: partition, handle, entries and layers appended. -/
def State.openSteps (s : State) : List (Nat × Nat × Nat × Nat) :=
  s.steps.map (fun t => (t.1 / 2 ^ 32, t.1 % 2 ^ 32, t.2.entries.length, t.2.appended.length))

/-- The frames of a die as the sequences' tables give them: a leaf's count is the number of entries that name it, a table page is held by its sequence, and any other frame is free (R319). -/
def State.rebuiltFrames (s : State) (d : Nat) : NMap Frame :=
  (s.framesOf d).filterMap (fun (f : Nat × Frame) =>
    let refs := (s.seqs.map (fun q => q.2.leaves.countP (fun e => !e.2.t3 && e.2.die == d && e.2.frame == f.1))).sum
    let page := s.seqs.any (fun q => decide (seqDie q.1 = d) && q.2.pages.any (fun p => p.2 == f.1))
    if page ∨ refs ≠ 0 then some (f.1, { f.2 with refs := refs, page := page }) else none)

/-- The Bindery at a warm reset (R319): open steps are cancelled, pending releases complete, and counts, free lists and usage are rebuilt from the tables. -/
def State.settleBindery (s : State) : State :=
  let s1 := s.steps.foldl (fun (a : State) t => a.cancelStep (t.1 / 2 ^ 32) (t.1 % 2 ^ 32)) s
  let s2 := (s1.seqs.filter (fun q => decide (q.2.state = .retired))).foldl (fun (a : State) q => a.releaseSeq q.1) s1
  (List.range 8).foldl (fun (a : State) d =>
    let keep := s2.rebuiltFrames d
    (((s2.framesOf d).filter (fun f => !(NMap.has keep f.1))).foldl (fun (b : State) f => b.freeFrame d f.1) a).setFrames d keep) s2

/-- What a warm reset loses (Table 22-9), the rings apart. -/
def State.loseWarm (s : State) : State :=
  { s with admin := { s.admin with enable := false }, half := [], atc := [], msix := [], fprintWait := [], linkIn := [],
           parts := s.parts.map (fun p => (p.1, { p.2 with contentKeys := [], publisherKeys := [] })),
           windows := s.windows.map (fun w => (w.1, { w.2 with pfSnap := {}, vfSnap := {} })),
           queues := [],
           dies := s.dies.map (fun d => { d.discard with staging := [], quires := d.quires.map (fun (q : Quire) => { q with tiles := List.replicate 12 none }) }),
           hbm := s.hbm.map (fun (h : Stack) => { h with selfRefresh := true }),
           links := s.links.map Link.endSession,
           engines := List.replicate 8 {},
           sec := { s.sec with ide := [] },
           power := { s.power with dies := s.power.dies.map (fun d => { d with level := 0, lift := 0, cause := 0 }) } }

/-- A warm reset up to the stacks' self-refresh (R526): uncommitted commands are killed without a record, commands past their decision point complete, pre-reset entries are kept, dirty content is written back while the link is up, and rings, fences and keys are lost. -/
def State.warmReset (s : State) (link : Bool) : State :=
  let s1 := (s.cmds.filter (fun c => c.2.uncommitted)).foldl (fun (a : State) c => a.dropCmd c.1) s
  let owed := s1.cmds
  let s2 := owed.foldl (fun (a : State) c => a.completeCommit link c.1 c.2) s1
  let pre := s2.preResets (if link then [] else owed.map (·.2))
  let cancelled := s2.openSteps
  let s3 := if link then s2.writeBackAll else s2
  let s4 := s3.settleBindery
  let s5 := s4.parts.foldl (fun (a : State) p => a.resetRings p.1) s4
  let s6 := { s5 with subs := NMap.eraseRange s5.subs (ringKey packageOwner 0) (ringKey (packageOwner + 1) 0),
                      comps := NMap.eraseRange s5.comps (ringKey packageOwner 0) (ringKey (packageOwner + 1) 0) }
  let s7 := s6.loseWarm
  { s7 with boot := .warm, colo := { s7.colo with go := false, captures := [], pre := pre, cancelledSteps := cancelled } }

/-- A counted warm reset with its cause (Table 22-8). The package state becomes PK0: Table 22-9 lists it neither as kept nor as lost, and the return to PK0 from PK1 and PK2 is the model's choice (log entry 72). -/
def State.warmWith (s : State) (cause : Nat) (link : Bool) : State :=
  let s1 := s.warmReset link
  { s1 with resetCause := cause, warmResets := s1.warmResets + 1, power := { s1.power with pk := 0 } }

/-- PF_FLR (R34): the warm reset with cause 0x10; in the fatal state only the endpoint is reset (R545). -/
def execPfFlr (s : State) : Host.Outcome State Fault Refusal :=
  if s.fatal then .next { s with msix := [] }
  else if s.boot = .ready ∧ s.power.pk ≤ 2 then .next (s.warmWith 0x10 s.linkUp)
  else .next s

/-- PERST_N_ASSERT (R526, R577): after READY in PK0 to PK2, a warm reset with cause 0x11 and the link down; before READY it only holds the endpoint. -/
def execPerstNAssert (s : State) : Host.Outcome State Fault Refusal :=
  let s1 := { s with pins := { s.pins with perst := true } }
  if s.pins.perst then .next s
  else if s.fatal then .next { s1 with msix := [] }
  else if s.boot = .ready ∧ s.power.pk ≤ 2 then .next (s1.warmWith 0x11 false)
  else .next s1

/-- PERST_N_RELEASE (R528): a warm start-up, from PK3 with cause 0x12; from PK4 a cold start-up with cause 0x05. In the fatal state only the endpoint leaves its reset (R545). -/
def execPerstNRelease (s : State) : Host.Outcome State Fault Refusal :=
  let s1 := { s with pins := { s.pins with perst := false } }
  if s.fatal then .next s1
  else if s.power.pk = 3 then .next { s1 with resetCause := 0x12, power := { s1.power with pk := 0 } }
  else if s.power.pk = 4 ∧ s.boot ≠ .tripped then .next ((s1.coldReset 5 .waitPower s1.pins).powerUp)
  else .next s1

/-! ### Ready (R486, R528) -/

/-- External link training of step 8: a link that holds streams retrains, any other trains afresh. -/
def State.trainLinks (s : State) : State :=
  (List.range 8).foldl (fun (a : State) l =>
    let x := a.linkAt l
    if x.down then a else if x.trained then a.startRetrain l else a.setLink l { x with retraining := true, retrainAt := a.counter l }) s

/-- HIMON_READY (R486): the start-up of every die has completed; FAILS of the running slot is cleared, stacks leave self-refresh, deferred write-backs take place, and the package admin ring is accepted. -/
def execHimonReady (s : State) : Host.Outcome State Fault Refusal :=
  let warm := decide (s.boot = .warm) && decide (s.power.pk = 0) && !s.pins.perst
  if (s.boot = .cold ∧ !s.fatal) ∨ warm then
    let f := match (if s.boot = .cold then s.sec.running else none) with
      | some b => s.flash.putSlot b { s.flash.slot b with fails := 0 }
      | none => s.flash
    let s1 := { s with flash := f, boot := .ready, sec := { s.sec with handOff := none }, hbm := s.hbm.map (fun (h : Stack) => { h with selfRefresh := false }) }
    .next ((if warm then s1.writeBackAll else s1).trainLinks)
  else .next s

/-! ### Package states (R509, R510) -/

/-- Whether a transition is one of R509. -/
def pkAllowed (now next : Nat) : Bool :=
  match now with
  | 0 => decide (1 ≤ next) && decide (next ≤ 4)
  | 1 => [0, 2, 3, 4].contains next
  | 2 => [0, 3, 4].contains next
  | _ => false

/-- Power-gated quires lose their accumulator tiles, and their stores are discarded (Table 22-2). -/
def DieState.gate (x : DieState) : DieState :=
  { x with stores := List.replicate 96 [], quires := x.quires.map (fun (q : Quire) => { q with tiles := List.replicate 12 none }) }

/-- Enter a package state. -/
def State.enterPk (s : State) (n : Nat) : State :=
  match n with
  | 0 => { s with power := { s.power with pk := 0 }, hbm := s.hbm.map (fun (h : Stack) => { h with selfRefresh := false }) }
  | 1 => { s with power := { s.power with pk := 1 } }
  | 2 => { s with dies := s.dies.map DieState.gate, power := { s.power with pk := 2 }, hbm := s.hbm.map (fun (h : Stack) => { h with selfRefresh := true }) }
  | 3 =>
    let s1 := s.warmReset s.linkUp
    { s1 with power := { s1.power with pk := 3 }, links := s1.links.map (fun (l : Link) => { l.fresh with down := false }) }
  | _ => { s with power := { s.power with pk := 4 }, boot := .held, pins := { s.pins with pwrReq := false }, links := s.links.map (fun (l : Link) => { l.fresh with down := false }) }

/-- POWER_SET ACTION 0x00 (R509, R510): a transition not allowed fails; leaving writes the record first, a return to PK0 enters first. One that puts the stacks into self-refresh waits for every MEM_MARGIN (R346). -/
def execPowerSetPackageState (cmd : Nat) (s : State) : Host.Outcome State Fault Refusal :=
  .next (control 0x4B (fun c => decide (c.f 16 1 = 0)) (fun c s =>
    let n := c.f 17 1
    if !(s.powerTurn cmd) then s
    else if !(pkAllowed s.power.pk n) then s.settle cmd (.error (E_POWER_STATE, 1))
    else if n = 0 then (s.enterPk 0).finish cmd OK 0
    else if s.power.pk = 0 ∧ s.cmds.any (fun x => x.1 != cmd) then s
    else if 2 ≤ n ∧ s.cmds.any (fun x => x.2.opcode == 0x52) then s
    else (s.finish cmd OK 0).enterPk n) cmd s)

end Sys2Proof.Machine
end

