-- ==== Sys2Proof/Machine/Views.lean ====
section
/-! DEFINITION. The structures of state as the bytes that snapshots and the Colophon record show: sequence descriptors, temper entries, accounting records and error records (Tables 12-1, 4-4, 19-6, 23-2). -/

namespace Sys2Proof.Machine

/-- The STATE code of a sequence (Table 12-1). -/
def SeqState.code (x : SeqState) : Nat :=
  match x with
  | .free => 0
  | .active => 1
  | .parked => 2
  | .restoring => 3
  | .retired => 4

/-- A sequence descriptor (Table 12-1). -/
def seqBytes (idx : Nat) (q : Seq) : Bytes :=
  leBytes 4 (q.idOf idx) ++ leBytes 1 q.state.code ++ leBytes 1 q.kvFmt ++ leBytes 1 q.kvHeads ++ leBytes 1 q.fallback
    ++ leBytes 2 q.layers ++ leBytes 1 q.part ++ leBytes 1 q.priority ++ leBytes 4 q.step ++ leBytes 4 q.c ++ leBytes 4 q.maxLen
    ++ leBytes 4 q.leafCount ++ leBytes 2 q.pages.length ++ leBytes 2 0 ++ leBytes 4 q.modelId ++ leBytes 4 q.parent
    ++ leBytes 8 q.prefixHash ++ leBytes 8 q.joinCounter.toNat ++ leBytes 2 q.lastStatus ++ leBytes 2 q.lastDetail
    ++ leBytes 4 q.demoted ++ List.replicate 64 0

/-- A layer entry of the temper table (Table 4-4). -/
def temperBytes (t : Temper) : Bytes :=
  leBytes 4 t.step ++ leBytes 1 t.state ++ leBytes 1 t.curFmt ++ leBytes 1 (min t.clean 255) ++ leBytes 1 t.hist.length
    ++ fixLen 16 (t.hist.flatMap (fun a => leBytes 2 (fieldOfInt 16 a))) ++ leBytes 2 (fieldOfInt 16 t.prodExp)
    ++ leBytes 2 (fieldOfInt 16 t.anchor) ++ leBytes 1 t.bump ++ leBytes 3 0 ++ leBytes 4 (satBits 32 t.degraded)
    ++ leBytes 4 (satBits 32 t.promoted) ++ leBytes 8 t.lost ++ leBytes 8 t.nonzero ++ leBytes 4 (satBits 32 t.events)
    ++ leBytes 4 t.reserveKib

/-- An accounting record (Table 19-6). -/
def acctBytes (a : Acct) : Bytes :=
  leBytes 8 a.records.toNat ++ leBytes 4 a.failed.toNat ++ leBytes 4 a.aborted.toNat ++ leBytes 4 a.preemptKills.toNat
    ++ leBytes 4 a.otherKills.toNat ++ leBytes 8 a.waitQueue.toNat ++ leBytes 8 a.waitStart.toNat ++ leBytes 8 a.run.toNat
    ++ leBytes 8 a.aclk256.toNat ++ leBytes 8 a.lastCounter.toNat

/-- An error record (Table 23-2). -/
def errBytes (e : ErrRec) : Bytes :=
  leBytes 2 e.origin ++ leBytes 1 e.cls ++ leBytes 1 e.severity ++ leBytes 2 e.status ++ leBytes 2 e.detail
    ++ leBytes 4 e.reporters.toNat ++ leBytes 1 e.partition ++ leBytes 1 (1 + 2 * b2n e.pending + 4 * b2n e.deferred)
    ++ leBytes 2 e.firstReporter ++ leBytes 8 e.firstSeen.toNat ++ leBytes 8 e.lastSeen.toNat ++ leBytes 8 e.info
    ++ leBytes 8 e.notified.toNat ++ List.replicate 16 0

/-- GATED_GROUPS and the active quires of every die, as the identification registers and the Colophon show them. -/
def State.activeByDie (s : State) : List Nat := (List.range 8).map s.activeQuires

end Sys2Proof.Machine
end

