-- ==== Sys2Proof/Machine/Colophon.lean ====
section
/-! DEFINITION. The Colophon record: its sections, the captures of the command and of the register, and the end of a capture (R529 to R533, R545). -/

namespace Sys2Proof.Machine

/-- The range checks of COLOPHON's payload (R529). -/
def colophonRange (d : Bytes) : Option Nat :=
  firstBad
    [ (16, decide (fld d 16 8 % 4096 ≠ 0)), (32, decide (0x1FFF < fld d 32 2)),
      (34, decide (15 < fld d 34 1) && decide (fld d 34 1 ≠ 0xFF)), (35, !(zeros d 35 128)) ]

/-- Whether an entry of a partition, or of the package (0xFF), belongs to a record limited to `only` (R529). -/
def inRecord (only part : Nat) : Bool := only == 0xFF || part == only || part == 0xFF

/-- The Capabilities entry (Table 22-12, R552). -/
def State.capabilities (s : State) : Bytes :=
  leBytes 1 8 ++ leBytes 1 8 ++ leBytes 2 28 ++ leBytes 4 262144 ++ leBytes 2 24 ++ leBytes 2 1536 ++ leBytes 2 8192
    ++ leBytes 2 s.activeByDie.sum ++ List.replicate 48 0

/-- The Partitions entries. -/
def State.partEntries (s : State) (only : Nat) : List Bytes :=
  (s.parts.filter (fun p => inRecord only p.1)).map (fun p =>
    fixLen 64 (leBytes 1 p.1 ++ leBytes 1 p.2.function ++ leBytes 12 p.2.groups.toNat ++ leBytes 4 (s.partObjs p.1).length
      ++ leBytes 4 (s.plans.filter (fun x => x.1 / 65536 == p.1)).length ++ leBytes 4 (s.seqUse p.1)
      ++ leBytes 4 (s.steps.filter (fun x => x.1 / 2 ^ 32 == p.1)).length ++ leBytes 4 (s.ownerCmds p.1).length))

/-- A ring entry (Table 22-13). -/
def PreReset.bytes (e : PreReset) (lost : Bool) : Bytes :=
  leBytes 1 e.partition ++ leBytes 1 e.kind ++ leBytes 2 e.ringId ++ leBytes 1 e.log2
    ++ leBytes 1 (b2n e.halted + 2 * b2n e.armed + 4 * b2n e.phase + 8 * b2n lost) ++ leBytes 2 0
    ++ leBytes 4 e.head ++ leBytes 4 e.tail ++ leBytes 4 e.lastTag ++ leBytes 4 e.unrecorded ++ leBytes 8 e.lastCounter.toNat

/-- The Rings entries: the rings that exist, UNRECORDED counting their admitted commands, then the pre-reset entries (R533). -/
def State.ringEntries (s : State) (only : Nat) : List Bytes :=
  let now := (s.preResets (s.cmds.map (·.2))).filter (fun e => inRecord only e.partition)
  let pre := s.colo.pre.filter (fun e => inRecord only e.partition)
  now.map (fun e => e.bytes false) ++ pre.map (fun e => e.bytes true)

/-- The Fences entries: fences with a count or poison. -/
def State.fenceEntries (s : State) (only : Nat) : List Bytes :=
  (s.fences.filter (fun f => inRecord only (f.1 / 4096) && (f.2.poison || f.2.count != 0))).map (fun f =>
    leBytes 1 (f.1 / 4096) ++ leBytes 1 (b2n f.2.poison) ++ leBytes 2 (f.1 % 4096) ++ leBytes 4 0 ++ leBytes 8 f.2.count.toNat)

/-- The Steps entries: open steps, and those the last warm reset cancelled. -/
def State.stepEntriesOut (s : State) (only : Nat) : List Bytes :=
  let entry := fun (st : Nat) (x : Nat × Nat × Nat × Nat) =>
    leBytes 1 x.1 ++ leBytes 1 st ++ leBytes 2 0 ++ leBytes 4 x.2.1 ++ leBytes 4 x.2.2.1 ++ leBytes 4 x.2.2.2
  (s.openSteps.filter (fun x => inRecord only x.1)).map (entry 0)
    ++ (s.colo.cancelledSteps.filter (fun x => inRecord only x.1)).map (entry 1)

/-- The Sequences entries: every sequence that is not FREE. -/
def State.seqEntries (s : State) (only : Nat) : List Bytes :=
  (s.seqs.filter (fun q => q.2.state != .free && inRecord only q.2.part)).map (fun q => seqBytes q.1 q.2)

/-- The Objects entries. Shared models have no handle and no entry. -/
def State.objectEntries (s : State) (only : Nat) : List Bytes :=
  (s.objects.filter (fun o => decide (o.1 < 2 ^ 44) && inRecord only (o.1 / 2 ^ 32))).map (fun o =>
    let charged := ((List.range 8).map (fun d => o.2.t1 d + o.2.t2 d)).sum + o.2.t3
    leBytes 4 (o.1 % 2 ^ 32) ++ leBytes 1 (o.1 / 2 ^ 32) ++ leBytes 1 o.2.kind ++ leBytes 1 o.2.fmt ++ leBytes 1 o.2.tier
      ++ leBytes 4 o.2.commits.toNat ++ leBytes 4 0 ++ leBytes 8 charged ++ leBytes 8 (o.2.dirty.length * o.2.slot))

/-- The Models and alloys entries. -/
def State.modelEntries (s : State) (only : Nat) : List Bytes :=
  let own := fun (o : Nat) => if o = packageOwner then 0xFF else o
  (s.models.filter (fun m => inRecord only (own m.2.owner))).map (fun m =>
    fixLen 32 (leBytes 4 (m.1 % 2 ^ 32) ++ leBytes 1 (own m.2.owner) ++ leBytes 3 0 ++ leBytes 4 m.2.handleBase ++ leBytes 4 m.2.tensors.length
      ++ leBytes 4 (s.alloys.countP (fun a => a.2.base == m.1))))
  ++ (s.alloys.filter (fun a => inRecord only (a.1 / 2 ^ 32))).map (fun a =>
    fixLen 32 (leBytes 4 a.2.modelId ++ leBytes 1 (a.1 / 2 ^ 32) ++ leBytes 3 1 ++ leBytes 4 (a.1 % 2 ^ 32) ++ leBytes 4 a.2.adapters.length))

/-- The Groups entries. -/
def State.groupEntries (s : State) (only : Nat) : List Bytes :=
  (s.groups.filter (fun g => inRecord only g.2.part)).map (fun g =>
    fixLen 16 (leBytes 2 g.1 ++ leBytes 1 g.2.part ++ leBytes 1 g.2.members.length ++ leBytes 1 g.2.rank ++ leBytes 1 0 ++ leBytes 2 g.2.gen))

/-- The Streams entries. -/
def State.streamEntries (s : State) (only : Nat) : List Bytes :=
  (List.range 8).flatMap (fun e => ((s.engineAt e).streams.filter (fun x => inRecord only x.2.part)).map (fun x =>
    fixLen 16 (leBytes 1 e ++ leBytes 1 x.1 ++ leBytes 1 x.2.part ++ leBytes 1 (b2n x.2.live) ++ leBytes 4 x.2.plan ++ leBytes 4 x.2.state.lastIndex)))

/-- The Units entries: the quires of every die by physical id, then the spine links. -/
def State.unitEntries (s : State) : List Bytes :=
  let quires := (List.range 8).flatMap (fun d => (List.range 100).map (fun p =>
    let q := s.quireAt d p
    let spare := (s.dieAt d).spares.contains p
    let lid := ((List.range 96).find? (fun l => (s.dieAt d).logical.getD l none == some p)).getD 0xFF
    leBytes 1 d ++ leBytes 1 0 ++ leBytes 1 p ++ leBytes 1 (b2n q.fenced + 2 * b2n spare) ++ leBytes 1 q.gen.toNat ++ leBytes 1 lid ++ leBytes 2 0))
  let links := (List.range 8).flatMap (fun a => ((List.range 8).filter (fun b => decide (a < b))).map (fun b =>
    let x := s.spineAt a b
    leBytes 1 a ++ leBytes 1 1 ++ leBytes 1 b ++ leBytes 1 (b2n x.fenced) ++ leBytes 1 x.gen.toNat ++ leBytes 1 0xFF ++ leBytes 2 0))
  quires ++ links

/-- The Power entries. -/
def State.powerEntries (s : State) : List Bytes :=
  (List.range 8).map (fun d =>
    let x := s.diePower d
    fixLen 16 (leBytes 1 x.ap ++ leBytes 1 x.level ++ leBytes 1 x.cause ++ leBytes 1 (b2n x.avsFault)))

/-- Entry size and entries of a section type (Table 22-12). -/
def State.section (s : State) (only t : Nat) : Nat × List Bytes :=
  match t with
  | 1 => (64, [s.capabilities])
  | 2 => (320, [s.telemetry])
  | 3 => (64, s.partEntries only)
  | 4 => (32, s.ringEntries only)
  | 5 => (16, s.fenceEntries only)
  | 6 => (16, s.stepEntriesOut only)
  | 7 => (128, s.seqEntries only)
  | 8 => (32, s.objectEntries only)
  | 9 => (32, s.modelEntries only)
  | 10 => (16, s.groupEntries only)
  | 11 => (16, s.streamEntries only)
  | 12 => (8, s.unitEntries)
  | _ => (16, s.powerEntries)

/-- Pad to a multiple of 64 bytes. -/
def pad64 (b : Bytes) : Bytes := b ++ List.replicate (ceilDiv b.length 64 * 64 - b.length) 0

/-- Append the selected sections to the record: its directory so far and its body. -/
def putSections (base : Nat) (xs : List (Nat × Nat × List Bytes)) : Bytes × Bytes :=
  xs.foldl (fun (a : Bytes × Bytes) (x : Nat × Nat × List Bytes) =>
    let body := pad64 a.2
    (a.1 ++ (leBytes 2 x.1 ++ leBytes 2 0 ++ leBytes 4 x.2.1 ++ leBytes 4 (base + body.length) ++ leBytes 4 x.2.2.length), body ++ x.2.2.flatten)) ([], [])

/-- The Colophon record as the part stands, and its SECTION_COUNT (R532). -/
def State.colophonRecord (s : State) (reg : Bool) (sections only : Nat) : Bytes × Nat :=
  let types := ((List.range 13).map (· + 1)).filter (fun t => sections.testBit (t - 1))
  let n := types.length
  let base := ceilDiv (128 + 16 * n) 64 * 64
  let put := putSections base (types.map (fun t => (t, s.section only t)))
  let total := if n = 0 then 128 else base + put.2.length
  let img := s.runningSlot
  let header := leBytes 4 0x4E4F4C43 ++ leBytes 2 1 ++ leBytes 2 n ++ leBytes 4 total ++ leBytes 1 0xA1 ++ leBytes 1 s.resetCause
    ++ leBytes 1 s.power.pk ++ leBytes 1 (b2n reg) ++ leBytes 4 s.warmResets.toNat ++ leBytes 4 0
    ++ (List.range 8).flatMap (fun d => leBytes 8 (s.counter d).toNat) ++ (List.range 8).flatMap (fun d => leBytes 1 (s.diePower d).ap)
    ++ leBytes 12 s.power.gated.toNat ++ s.activeByDie.flatMap (leBytes 1) ++ leBytes 4 img.version ++ leBytes 4 img.svn ++ leBytes 4 0
  (fixLen total (fixLen base (header ++ put.1) ++ put.2), n)

/-- Take the capture of the request at the head of the line, if it is not taken yet (R530, R531). -/
def State.takeCapture (s : State) : State :=
  match s.colo.captures with
  | (none, [], _) :: rest =>
    let r := s.colophonRecord true s.colo.sections 0xFF
    { s with colo := { s.colo with captures := (none, r.1, r.2) :: rest } }
  | (some id, [], _) :: rest =>
    let d := ((s.cmd? id).getD {}).desc
    let r := s.colophonRecord false (fld d 32 2) (fld d 34 1)
    { s with colo := { s.colo with captures := (some id, r.1, r.2) :: rest } }
  | _ => s

/-- A new request joins the line. -/
def State.requestCapture (s : State) (who : Option Nat) : State :=
  ({ s with colo := { s.colo with captures := s.colo.captures ++ [(who, [], 0)] } }).takeCapture

/-- COLOPHON (R529, R530): the capture is requested, and the command waits for its end. -/
def execColophon (cmd : Nat) (s : State) : Host.Outcome State Fault Refusal :=
  .next (control 0x4C (fun c => c.phase == .admitted) (fun _ (s : State) => (s.startCmd cmd).requestCapture (some cmd)) cmd s)

/-- COLOPHON_REQ_GO: a write of COLOPHON_REQ with GO set (R531, Table 22-11). GO while a capture of the register runs is ignored. -/
def execColophonReqGo (value : Nat) (s : State) : Host.Outcome State Fault Refusal :=
  if s.barErr then
    let x := s.colo
    let k : Colo := { x with done := x.done && !(value.testBit 30), error := x.error && !(value.testBit 29), sections := value % 65536 }
    if x.go then .next { s with colo := k }
    else .next (({ s with colo := { k with go := true, since := s.counter 0 } }).requestCapture none)
  else .next s

/-- Remove the capture at the head of the line and take the next. -/
def State.nextCapture (s : State) : State :=
  ({ s with colo := { s.colo with captures := s.colo.captures.drop 1 } }).takeCapture

/-- COLOPHON_CAPTURE_DONE (R530, R531): the record is written and DONE, ERROR or the command's record follows. In the fatal state no completion record is written (R545). -/
def execColophonCaptureDone (s : State) : Host.Outcome State Fault Refusal :=
  if s.boot = .ready then
    match s.colo.captures with
    | [] => .next s
    | (none, b, _) :: _ =>
      let x := s.colo
      if s.linkUp && decide (x.addr % 4096 = 0) && decide (b.length ≤ x.len) then
        let s1 : State := { s.hostWrite 0 x.addr b with colo := { x with go := false, done := true } }
        .next (s1.sendMsix 0 0).nextCapture
      else .next { s with colo := { x with go := false, error := true } }.nextCapture
    | (some id, b, n) :: _ =>
      let s1 := s.nextCapture
      match s.cmd? id with
      | none => .next s1
      | some c =>
        if s.fatal then .next s1
        else if c.f 24 8 < b.length then .next (s1.failCmd id E_COLOPHON_SPACE (satBits 16 (ceilDiv b.length 65536)))
        else .next ((s1.hostWrite (s1.functionOf c.owner) (c.f 16 8) b).finish id OK n)
  else .next s

/-- COLOPHON_FATAL_TIMEOUT (R545): in the fatal state, a capture of the register still running 10 ms after its GO sets ERROR. -/
def execColophonFatalTimeout (t : Word) (s : State) : Host.Outcome State Fault Refusal :=
  let s1 := s.reach 0 t
  let x := s1.colo
  if s1.fatal && x.go && decide (1000000 ≤ (s1.counter 0 - x.since).toNat) then
    let rest := x.captures.filter (fun (c : Option Nat × Bytes × Nat) => c.1.isSome)
    .next ({ s1 with colo := { x with go := false, error := true, captures := rest } }).takeCapture
  else .next s1

end Sys2Proof.Machine
end

