-- ==== Sys2Proof/Machine/Plans.lean ====
section
/-! DEFINITION. Plan images: the checks of the header and directory (R55, R582, R583), the checks of each section's contents, narrowing (R154), PLAN_INSTALL and PLAN_RETIRE (R15, R18, R57, R589). -/

namespace Sys2Proof.Machine

/-! ### Sections by plan kind (Table 2-8c) -/

/-- PLAN_KIND of an image. -/
def planKind (img : Bytes) : Nat := fld img 12 1

/-- The kinds of plan (Table 2-8a). -/
def planKinds : List Nat := [0x01, 0x02, 0x03, 0x08, 0x09, 0x0E]

/-- The sections a kind requires: section 0x0005 in an ATTEND plan when EXP_SLOT is not 0xFF. -/
def planRequired (img : Bytes) : List Nat :=
  match planKind img with
  | 0x01 => [1, 2, 3]
  | 0x02 =>
    match planSection img 4 with
    | some a => if atExp a = 0xFF then [2, 4] else [2, 4, 5]
    | none => [2, 4]
  | 0x03 => [2]
  | 0x08 => [8]
  | 0x09 => [8]
  | 0x0E => [6]
  | _ => []

/-- The sections a kind allows. -/
def planAllowed (kind : Nat) : List Nat :=
  match kind with
  | 0x01 => [1, 2, 3, 5, 7]
  | 0x02 => [2, 4, 5, 7]
  | 0x03 => [2, 6]
  | 0x08 => [8]
  | 0x09 => [8]
  | 0x0E => [6]
  | _ => []

/-- The code for a section that a kind does not allow. -/
def planRefusal (kind type : Nat) : Nat :=
  if type = 7 then 0x90 else if kind = 0x03 then 0x81 else if kind = 0x08 then 0xA3 else 0x0E

/-! ### Header and directory (R55, R583) -/

/-- The lowest directory index whose entry fails a test. -/
def dirFind (img : Bytes) (bad : Nat → Nat × Nat × Nat → Bool) : Option Nat :=
  ((planDir img).zipIdx.find? (fun e => bad e.2 e.1)).map (·.2)

/-- Whether an entry lies outside the image or overlaps an earlier one. A section that lies inside the header or the directory counts as outside, and one of LENGTH 0 whose OFFSET lies strictly inside another section overlaps it: DESIGN CHOICE (log entry 47). -/
def entryOutside (img : Bytes) (i : Nat) (e : Nat × Nat × Nat) : Bool :=
  decide (e.2.1 < 64 + 16 * (planDir img).length) || decide (img.length < e.2.1 + e.2.2) ||
    ((planDir img).take i).any (fun x => decide (x.2.1 < e.2.1 + e.2.2) && decide (e.2.1 < x.2.1 + x.2.2))

/-- The detail of the first header or directory check that fails, by ascending code and index; a directory that runs past the image ends the checks (code 0x03). Of two reserved fields, code 0x0D, the header's is reported before a directory entry's: the model's choice (log entry 47). Sections whose kind gives them another code than 0x0E are judged with the contents. -/
def planHeader (s : State) (owner id : Nat) (img : Bytes) : Option Nat :=
  let n := fld img 6 2
  let kind := planKind img
  let at_ := fun (code : Nat) (o : Option Nat) => o.map (fun i => i * 256 + code)
  let types := (planDir img).map (·.1)
  if fld img 0 4 ≠ 0x4E414C50 then some 0xFF01
  else if fld img 4 2 ≠ 1 then some 0xFF02
  else if fld img 8 4 ≠ img.length ∨ n = 0 ∨ 32 < n ∨ img.length < 64 + 16 * n then some 0xFF03
  else
    let steps : List (Option Nat) :=
      [ at_ 0x04 (dirFind img (entryOutside img)),
        at_ 0x05 (dirFind img (fun _ e => decide (e.1 = 0) || decide (8 < e.1))),
        at_ 0x06 (dirFind img (fun i e => (types.take i).contains e.1)),
        (if (planRequired img).all types.contains then none else some 0xFF07),
        (if planKinds.contains kind then none else some 0xFF08),
        (if (s.plan? owner id).isSome then some 0xFF09 else none),
        (if 0xFFFF < id then some 0xFF0A else none),
        (if zeros img 13 64 then none else some 0xFF0D),
        at_ 0x0D (dirFind img (fun i _ => !(zeros img (64 + 16 * i + 2) (64 + 16 * i + 4) && zeros img (64 + 16 * i + 12) (64 + 16 * i + 16)))),
        at_ 0x0E (dirFind img (fun _ e => !((planAllowed kind).contains e.1) && planRefusal kind e.1 == 0x0E)) ]
    steps.findSome? (fun x => x)

/-! ### Section contents -/

/-- The formats of an exact pair (R87). -/
def exactFmt (f : Nat) : Bool := [0x01, 0x02, 0x03, 0x04, 0x05, 0x06, 0x07, 0x09, 0x0A, 0x0B].contains f
/-- The formats of R90. -/
def windowFmt (f : Nat) : Bool := [0x08, 0x0C, 0x10, 0x11].contains f
/-- Input-only formats (Table 3-8, 0x12), which take no 2:4 operand either (Table 5-7, 0x23). -/
def inputOnly (f : Nat) : Bool := [0x03, 0x04, 0x0A, 0x0B, 0x0C].contains f
/-- Formats with a block scale (Table 3-1). -/
def blockScaled (f : Nat) : Bool := fmtKnown f && f != 0x03 && !(fmtWide f)

/-- Whether an ACC_MODE fits its operands (Table 3-8, 0x11). -/
def accFits (acc a b : Nat) : Bool :=
  match acc with
  | 0 => exactFmt a && exactFmt b
  | 1 => (windowFmt a || windowFmt b) && a != 0x12 && b != 0x12
  | 2 => (a == 0x10 || a == 0x12) && (b == 0x10 || b == 0x12)
  | _ => false

/-- A finite binary32 code. -/
def finite32 (v : Nat) : Bool := (f32 v).finite
/-- A finite, positive binary32 code. -/
def positive32 (v : Nat) : Bool := finite32 v && decide (0 < (f32 v).rat)
/-- A finite binary32 code from 0 to 1. -/
def unit32 (v : Nat) : Bool := finite32 v && decide (0 ≤ (f32 v).rat) && decide ((f32 v).rat ≤ 1)
/-- A normal binary32 code: not zero, subnormal, infinite or NaN. -/
def normal32 (v : Nat) : Bool := decide (v / 2 ^ 23 % 256 ≠ 0) && decide (v / 2 ^ 23 % 256 ≠ 255)

/-- A value inside a range of naturals. -/
def within (lo hi v : Nat) : Bool := decide (lo ≤ v) && decide (v ≤ hi)

/-- The first code of a list of (code, failed). -/
def firstCode (xs : List (Nat × Bool)) : Option Nat := (xs.find? (·.2)).map (·.1)

/-- The sections of an image as its checks read them. -/
structure Secs where
  kind : Nat
  op : Bytes
  fmts : Bytes
  eng : Bytes
  att : Bytes
  refs : Bytes
  hasRefs : Bool
  deriving DecidableEq, Repr

/-- The sections of an image; an absent one reads as zeros. -/
def secsOf (img : Bytes) : Secs :=
  let g := fun (t : Nat) => (planSection img t).getD []
  { kind := planKind img, op := g 1, fmts := g 2, eng := g 3, att := g 4, refs := g 5, hasRefs := (planSection img 5).isSome }

/-- The slots a table references section lists. -/
def refSlots (n : Bytes) : List Nat := (List.range (min (fld n 0 1) 16)).map (fun i => fld n (32 + 8 * i) 1)

/-- Whether a table slot may be used: listed, or the built-in slot 0xFF (R200). -/
def Secs.hasSlot (x : Secs) (t : Nat) : Bool := t == 0xFF || (refSlots x.refs).contains t

/-- One dimension of Table 11-1 with its fields in range. -/
def dimOk (t : Bytes) (x : Nat) : Bool :=
  let d := convDim t x
  decide (1 ≤ d.inp) && within 1 15 d.k && within 1 8 d.s && within 1 4096 d.d && decide (fld t (98 + 2 * x) 2 ≤ 4096)
    && within 1 8 d.fin && within 1 8 d.fout

/-- The output extent of a dimension (R259). -/
def extentOk (kind : Nat) (d : Dim) : Bool :=
  let span : Int := (d.d : Int) * ((d.k : Int) - 1)
  if kind = 2 then
    let lo : Int := ((d.inp : Int) - 1) * d.s - d.before - d.after + span + 1
    decide (lo ≤ (d.out : Int)) && decide ((d.out : Int) ≤ lo + d.s - 1)
  else decide ((d.out : Int) = ((d.inp : Int) + d.before + d.after - span - 1) / (d.s : Int) + 1)

/-- Section 0x0001: Table 6-4 (R172), and Table 11-2 for convolution and pooling. -/
def opFault (x : Secs) (len : Nat) : Option Nat :=
  let t := x.op
  let k := opKind t
  let lim := 2 ^ 27
  let delta := fld t 5 1
  let conv := decide (1 ≤ k)
  let ds := (List.range 3).map (convDim t)
  let tm := convDim t 0
  let neutral := decide (tm.inp = 1) && decide (tm.out = 1) && decide (tm.k = 1) && decide (tm.s = 1) && decide (tm.d = 1)
    && decide (fld t 98 2 = 0) && !(bitOf (fld t 87 1) 0) && decide (tm.fin = 1) && decide (tm.fout = 1)
  let outs := (ds.map (fun d => d.out)).foldl (· * ·) 1
  let factors := fun (raster : Bool) (f e : Dim → Nat) => ds.any (fun d => (raster && decide (f d ≠ 1)) || decide (e d % max (f d) 1 ≠ 0))
  firstCode
    [ (0x30, decide (3 < k) || decide (len ≠ if k = 0 then 64 else 128)),
      (0x31, !(within 1 lim (opM t) && within 1 lim (opN t) && within 1 lim (opK t) && within 1 65536 (opBatch t))),
      (0x32, decide (2 ^ 32 - 1 < opBatch t * ceilDiv (opM t) 128 * ceilDiv (opN t) 128)),
      (0x33, !(within 1 12 (fld t 2 1) && within 1 12 (fld t 3 1)) || decide (1 < fld t 1 1)),
      (0x34, decide (1 < delta)
        || (decide (delta = 1) && (!(unit32 (fld t 24 4)) || decide (fld t 6 1 = 0) || decide (opBatch t ≠ 1) || transA x.eng))
        || (decide (delta = 0) && (decide (fld t 24 4 ≠ 0) || decide (fld t 6 1 ≠ 0)))),
      (0x35, decide (4 ≤ fld t 4 1) || decide (fld t 7 1 ≠ 0) || !(zeros t 28 64)
        || (conv && (!(zeros t 82 84) || decide (2 ≤ fld t 87 1) || !(zeros t 91 92) || !(zeros t 107 108) || !(zeros t 111 128)))),
      (0x70, conv && (!(within 2 3 (fld t 64 1)) || decide (1 < fld t 65 1) || decide (1 < fld t 66 1)
        || (if k = 3 then decide (2 < fld t 67 1) else decide (fld t 67 1 ≠ 0)) || decide (convCin t = 0)
        || !((List.range 3).all (dimOk t)) || (decide (fld t 64 1 = 2) && !neutral))),
      (0x71, conv && (decide (opM t ≠ outs) || (decide (k = 3) && decide (opN t ≠ convCin t))
        || decide (opK t ≠ if k = 3 then convTaps t else convTaps t * convCp t)
        || !(ds.all (extentOk k)) || decide (delta = 1) || transA x.eng || decide (sparseSel x.eng = 1))),
      (0x72, conv && (factors (fld t 65 1 == 0) (fun d => d.fin) (fun d => d.inp) || factors (fld t 66 1 == 0) (fun d => d.fout) (fun d => d.out))),
      (0x73, decide (k = 3) && (decide (fsB x.fmts ≠ 0) || decide (fsAcc x.fmts ≠ 0) || decide (sparseSel x.eng ≠ 0) || !(blockScaled (fsA x.fmts)))) ]

/-- Whether a reserved field of the formats section is non-zero. -/
def fmtsReserved (f : Bytes) : Bool :=
  !(zeros f 7 8 && zeros f 10 12 && zeros f 16 32 && zeros f 43 64) || decide (4 ≤ fld f 34 1)

/-- Section 0x0002: Tables 3-8 and 4-6 (R100), R192 for ATTEND, R262 for pooling, R292 for SEQ_STEP. That a SEQ_STEP plan with a non-zero MX offset gives 0x80 and not 0x17 is DEDUCED (log entry 116). -/
def fmtsFault (x : Secs) (len : Nat) : Option Nat :=
  let f := x.fmts
  let a := fsA f
  let b := fsB f
  let o := fsOut f
  let acc := fsAcc f
  let anc := fsAnchor f
  let rsv := fmtsReserved f
  let scale := fld f 12 4
  let layer := fsLayer f
  let pool := decide (x.kind = 1) && isPool x.op
  if len ≠ 64 then some 0x17
  else if x.kind = 3 then
    firstCode
      [ (0x17, rsv),
        (0x80, !([0x01, 0x07, 0x10, 0x11, 0x12].contains a) || !(o == 0x01 || o == 0x07) || decide (b ≠ 0) || decide (acc ≠ 0)
          || decide (fsRound f ≠ 0) || !(zeros f 5 7) || decide (anc ≠ 0) || !(scale == 0 || scale == 0x3F800000)
          || !(zeros f 32 36) || !(layer == 0 || layer == 0xFFFF) || !(zeros f 38 43)) ]
  else
    firstCode
      [ (0x10, !(fmtKnown a) || (!pool && !(fmtKnown b)) || !(fmtKnown o)),
        (0x11, !pool && !(accFits acc a b)),
        (0x12, inputOnly o),
        (0x13, (decide (anc ≠ 0x7FFF) && (decide (sfld f 8 2 < -300) || decide (300 < sfld f 8 2))) || (decide (anc ≠ 0) && decide (acc ≠ 1))),
        (0x14, decide (acc = 0) && decide (2 ^ 20 < opK x.op)),
        (0x15, !(normal32 scale)),
        (0x16, decide (1 < fsRound f) || (decide (fsRound f = 1) && (fmtWide o || decide (acc = 2)))),
        (0x17, (decide (fsMxA f ≠ 0) && !(fmtMx a)) || (decide (fsMxB f ≠ 0) && !(fmtMx b)) || rsv),
        (0x18, decide (16 < fsMinLost f) || decide (64 < fsMaxProm f) || ((decide (fsMinLost f ≠ 0) || decide (fsMaxProm f ≠ 0)) && decide (o ≠ 1))),
        (0x19, ((fsTrack f || fsAllow f) && decide (layer = 0xFFFF)) || (fsAllow f && (decide (o ≠ 1) || !(fsTrack f)))
          || (decide (anc = 0x7FFF) && !(fsTrack f))),
        (0x1A, (decide (4095 < layer) && decide (layer ≠ 0xFFFF)) || (fsTrack f && (!(within 1 15 (fsJump f)) || decide (30 < fsLoss f)))
          || (fsAllow f && decide (fsDemote f = 0))),
        (0x1B, decide (fsInit f < -300) || decide (300 < fsInit f) || (decide (fsInit f ≠ 0) && decide (anc ≠ 0x7FFF)) || decide (15 < fsHead f)) ]

/-- Section 0x0003: Table 5-7. -/
def engFault (x : Secs) (len : Nat) : Option Nat :=
  let e := x.eng
  let mode := fld e 0 1
  let sp := sparseSel e
  let n := fld e 3 1
  let live := (List.range (min n 8)).map (epiEntry e)
  let beyond := decide (n < 8) && !(zeros e (16 + 8 * n) 80)
  let table := fun (o : Nat) => o == 6 || o == 7
  let imm := fun (o : Nat) => o == 4 || o == 5 || o == 8
  let rsv := decide (4 ≤ fld e 1 1) || !(zeros e 4 16) || (List.range 8).any (fun i => !(zeros e (18 + 8 * i) (20 + 8 * i)))
  firstCode
    [ (0x20, decide (2 < mode) || decide (len ≠ 80)),
      (0x21, (transA e || transB e) && decide (mode = 1)),
      (0x22, decide (2 < sp) || (decide (sp = 1) && transA e) || (decide (sp = 2) && transB e)),
      (0x23, (decide (sp = 1) && inputOnly (fsA x.fmts)) || (decide (sp = 2) && inputOnly (fsB x.fmts))),
      (0x24, decide (8 < n) || live.any (fun (o : Nat × Nat × Nat) => decide (8 < o.1)) || beyond
        || live.any (fun (o : Nat × Nat × Nat) => (decide (o.2.1 ≠ 0) && !(table o.1)) || (decide (o.2.2 ≠ 0) && !(imm o.1))) || rsv),
      (0x25, live.any (fun (o : Nat × Nat × Nat) => (imm o.1 && !(finite32 o.2.2)) || (decide (o.1 = 8) && !(positive32 o.2.2))
        || (table o.1 && !(x.hasSlot o.2.1)))),
      (0x26, decide (fsAcc x.fmts = 1) && decide (2 ^ 24 < opK x.op)) ]

/-- Section 0x0004: Table 7-5. -/
def attFault (x : Secs) (len : Nat) : Option Nat :=
  let a := x.att
  let m := atMask a
  let o := fsOut x.fmts
  firstCode
    [ (0x17, !(zeros a 34 64)),
      (0x40, decide (len ≠ 64) || decide (2 < m) || decide (1 < fld a 1 1) || decide (1 < fld a 2 1)),
      (0x41, !(within 1 256 (atHeads a)) || decide (atKv a = 0) || decide (atHeads a % max (atKv a) 1 ≠ 0)),
      (0x42, !(within 1 (2 ^ 24) (fld a 8 4)) || (if atSeq a then decide (fld a 12 4 ≠ 0) else !(within 1 (2 ^ 24) (fld a 12 4)))),
      (0x43, !(positive32 (fld a 16 4)) || !(x.hasSlot (atExp a))),
      (0x44, decide (2048 < fld a 20 2) || decide (63 < fld a 22 1) || decide (63 < fld a 23 1)
        || (!(atSparse a) && !(zeros a 20 24))),
      (0x45, if m = 2 then decide (fld a 24 2 = 0) || decide (fld a 26 2 = 0) else !(zeros a 24 34)),
      (0x46, !(fsA x.fmts == 1 || fsA x.fmts == 7) || !(fsB x.fmts == 1 || fsB x.fmts == 7) || !([0x01, 0x07, 0x10, 0x12].contains o)
        || decide (fsAcc x.fmts ≠ 0)) ]

/-- Section 0x0005: Table 8-6. -/
def refsFault (s : State) (owner : Nat) (x : Secs) (len : Nat) : Option Nat :=
  let n := x.refs
  let count := fld n 0 1
  let slots := refSlots n
  let mode := normMode n
  let span := normSpan n
  let group := normGroup n
  let eps := fld n 12 4
  let img := fun (t : Nat) => (s.table owner t).image
  let idOf := fun (i : Nat) => fld n (36 + 8 * i) 4
  let rsv := !(zeros n 3 4) || !(zeros n 16 32) || (List.range 16).any (fun i => !(zeros n (33 + 8 * i) (36 + 8 * i)))
  firstCode
    [ (0x17, rsv),
      (0x50, decide (len ≠ 160) || decide (16 < count) || slots.any (fun t => decide (127 < t)) || !(decide slots.Nodup)
        || (decide (count < 16) && !(zeros n (32 + 8 * count) 160))),
      (0x51, slots.any (fun t => (img t).isNone)),
      (0x52, slots.zipIdx.any (fun e => decide (idOf e.2 ≠ 0) && (match img e.1 with | some b => decide (tId b ≠ idOf e.2) | none => false))),
      (0x53, decide (2 < mode) || (decide (mode ≠ 0) && decide (x.kind ≠ 1)) || (decide (mode ≠ 0) && !(normFmt n == 1 || normFmt n == 7))
        || (decide (mode = 0) && (decide (normFmt n ≠ 0) || !(zeros n 4 16)))),
      (0x54, decide (mode ≠ 0) &&
        ((decide (group ≠ 0) && (decide (group % 16 ≠ 0) || decide (opK x.op < group))) || !(within 1 (2 ^ 24) span)
          || !(finite32 eps) || decide ((f32 eps).rat < 0)
          || decide (2 ^ 32 < span * (if group = 0 then opK x.op else group)) || transA x.eng || decide (sparseSel x.eng = 1)
          || decide (opBatch x.op ≠ 1) || decide (fsAcc x.fmts ≠ 0))) ]

/-- Section 0x0006: Table 9-5; a SEQ_STEP plan takes modes 0x01 and 0x03 only (R236). -/
def collFault (s : State) (owner kind : Nat) (b : Bytes) (len : Nat) : Option Nat :=
  let m := coMode b
  let only := fun (on : Bool) (ok v : Bool) => if on then !ok else v
  let bank := match NMap.get? s.parts owner with | some p => p.lengthBank | none => false
  let e := coExperts b
  let routed := m == 2 || m == 4
  let bounds := (List.range (coBuckets b - 1)).map (coBound b)
  let rising := (bounds.zip (bounds.drop 1)).all (fun (p : Nat × Nat) => decide (p.1 < p.2))
  let w := coWidth b
  let wOk := w % 128 == 0 && within 128 65536 w
  firstCode
    [ (0x17, decide (2 ≤ fld b 6 1) || (decide (m ≠ 3) && decide (fld b 6 1 ≠ 0)) || !(zeros b 10 12) || !(zeros b 28 32)),
      (0x60, decide (len ≠ 96) || !(if kind = 3 then m == 1 || m == 3 else within 1 4 m)),
      (0x61, only (m == 2) (coScoreFmt b == 0x10 || coScoreFmt b == 0x12) (decide (coScoreFmt b ≠ 0))
        || only routed (within 1 8 (coTopk b) && decide (coTopk b ≤ e)) (decide (coTopk b ≠ 0))
        || only (m == 2) (decide (fld b 3 1 ≤ 1)) (decide (fld b 3 1 ≠ 0))
        || only (m == 2) (decide (fld b 4 1 ≤ 1)) (decide (fld b 4 1 ≠ 0))
        || only routed (within 1 256 e) (decide (e ≠ 0))
        || only (m == 2) (within 1 (2 ^ 20) (coCapacity b)) (decide (coCapacity b ≠ 0))),
      (0x62, only (m == 1) (within 1 16 (coBuckets b)) (decide (coBuckets b ≠ 0)) || !rising
        || !(zeros b (32 + 4 * (if m = 1 then coBuckets b - 1 else 0)) 96)),
      (0x63, only (m == 2 && coSoftmax b) (positive32 (fld b 16 4)) (decide (fld b 16 4 ≠ 0))
        || only (m == 4) ([0x01, 0x07, 0x10, 0x12].contains (coOutFmt b)) (decide (coOutFmt b ≠ 0))
        || (if m = 1 || (m = 3 && kind = 3) then decide (w ≠ 0) else if m = 3 || m = 4 then !wOk else decide (w ≠ 0) && !wOk)
        || !(within 1 (if m = 3 then 65536 else 2 ^ 24) (coMax b))
        || decide (2 ^ 27 < e * coCapRows b)),
      (0x64, decide (m = 3) && !bank) ]

/-- Section 0x0007 (R370). -/
def lateFault (b : Bytes) (len : Nat) : Option Nat :=
  firstCode
    [ (0x17, !(zeros b 4 16)),
      (0x90, decide (len ≠ 16) || (List.range 4).any (fun i => !(fld b i 1 == 0 || fld b i 1 == 0xFF))) ]

/-- The maximum picture size in luma samples of a level: MaxPicSize of AV1's seq_level_idx, MaxLumaPs of HEVC's general_level_idc. PRESUMED from the two standards that Table 20-1 names (log entry 9). -/
def maxPicture (codec level : Nat) : Nat :=
  let rows := if codec = 1 then
      [(30, 36864), (60, 122880), (63, 245760), (90, 552960), (93, 983040), (120, 2228224), (123, 2228224), (150, 8912896), (153, 8912896),
       (156, 8912896), (180, 35651584), (183, 35651584)]
    else
      [(0, 147456), (1, 278784), (4, 665856), (5, 1065024), (8, 2359296), (9, 2359296), (12, 8912896), (13, 8912896), (14, 8912896),
       (15, 8912896), (16, 35651584), (17, 35651584)]
  match rows.find? (fun r => r.1 == level) with
  | some r => r.2
  | none => Config.maxPicture codec level

/-- Section 0x0008 of a codec plan (Table 20-4, R479). -/
def codecFault (b : Bytes) (len : Nat) : Option Nat :=
  let enc := fld b 3 1 == 0
  let tensor := enc && fld b 21 1 == 0
  let target := enc && fld b 11 1 == 1
  let hevc := fld b 0 1 == 1
  let only := fun (on : Bool) (ok v : Bool) => if on then !ok else v
  let refs := fld b 9 1
  let qp := fun (o : Nat) => if hevc then decide (fld b o 1 ≤ 51) else true
  let w := fld b 4 2
  let h := fld b 6 2
  firstCode
    [ (0x17, !(zeros b 36 64)),
      (0xA0, decide (len ≠ 64) || decide (1 < fld b 0 1) || !(fld b 1 1 == 8 || fld b 1 1 == 10)
        || decide ((if hevc then 183 else 17) < fld b 2 1) || decide (1 < fld b 3 1)
        || !(within 128 8192 w && decide (w % 8 = 0) && within 128 4352 h && decide (h % 8 = 0))
        || only enc (decide (fld b 8 1 ≤ 3)) (decide (fld b 8 1 ≠ 0)) || only enc (decide (refs ≤ fld b 10 1)) (decide (refs ≠ 0)) || !(within 1 8 (fld b 10 1))
        || only enc (decide (fld b 11 1 ≤ 1)) (decide (fld b 11 1 ≠ 0))
        || only target (qp 12 && qp 13 && qp 14 && qp 15) (!(zeros b 12 16))
        || only target (decide (fld b 16 4 ≠ 0)) (decide (fld b 16 4 ≠ 0))
        || only enc ([1, 2, 4].contains (fld b 20 1)) (decide (fld b 20 1 ≠ 0))
        || only enc (decide (fld b 21 1 ≤ 1)) (decide (fld b 21 1 ≠ 0))
        || only tensor ([1, 2, 4, 8].contains (fld b 22 1)) (decide (fld b 22 1 ≠ 0))
        || only tensor (decide (fld b 23 1 ≤ 1)) (decide (fld b 23 1 ≠ 0))
        || only tensor (finite32 (fld b 24 4) && finite32 (fld b 28 4)) (!(zeros b 24 32))
        || (!enc && decide (fld b 32 4 ≠ 0))),
      (0xA1, decide (maxPicture (fld b 0 1) (fld b 2 1) < w * h)),
      (0xA2, enc && !(within 1 (if fld b 1 1 = 8 then 6 else 3) refs)) ]

/-- Section 0x0008 of a detection plan (Table 11-3, R270). -/
def detectionFault (b : Bytes) (len : Nat) : Option Nat :=
  firstCode
    [ (0x74, decide (len ≠ 64) || !(deScoreFmt b == 0x10 || deScoreFmt b == 0x12) || decide (1 < fld b 1 1) || decide (1 < fld b 2 1)
        || !(zeros b 3 4) || !(within 1 1024 (deClasses b)) || !(within 1 1024 (deMax b)) || !(within 1 (2 ^ 20) (deAnchors b))
        || !(within 1 4096 (deTopk b)) || !(within 1 256 (deImages b)) || !(finite32 (fld b 16 4)) || !(unit32 (fld b 20 4))
        || !(finite32 (fld b 24 4)) || !(finite32 (fld b 28 4)) || !(positive32 (fld b 32 4)) || !(positive32 (fld b 36 4)) || !(zeros b 40 64)) ]

/-- The first failed check of one section. -/
def sectionFault (s : State) (owner : Nat) (img : Bytes) (type len : Nat) : Option Nat :=
  let x := secsOf img
  let b := (planSection img type).getD []
  match type with
  | 1 => opFault x len
  | 2 => fmtsFault x len
  | 3 => engFault x len
  | 4 => attFault x len
  | 5 => refsFault s owner x len
  | 6 => collFault s owner x.kind b len
  | 7 => lateFault b len
  | 8 => if x.kind = 8 then codecFault b len else detectionFault b len
  | _ => none

/-- The detail of the first check that a plan image fails: the header and directory first (R583), then the sections in directory order; a section that the kind does not allow fails with the code of Table 2-8c. -/
def planFault (s : State) (owner id : Nat) (img : Bytes) : Option Nat :=
  match planHeader s owner id img with
  | some d => some d
  | none =>
    (planDir img).zipIdx.findSome? (fun e =>
      (if (planAllowed (planKind img)).contains e.1.1 then sectionFault s owner img e.1.1 e.1.2.2 else some (planRefusal (planKind img) e.1.1)).map
        (fun c => e.2 * 256 + c))

/-! ### Narrowing (R154) -/

/-- One narrowing pass of R154 for each unit of fuel. -/
def narrow (t : Nat) : Nat → Nat × Nat → Nat × Nat
  | 0, g => g
  | n + 1, g => if g.1 * g.2 ≤ t then g else if g.1 ≤ g.2 then narrow t n (g.1, g.2 - 1) else narrow t n (g.1 - 1, g.2)

/-- The effective output-tile group of an image: T is four tiles for each plane its mode allows (R129). -/
def planGroup (img : Bytes) : Nat × Nat :=
  let x := secsOf img
  let g := (fld x.op 2 1, fld x.op 3 1)
  if x.kind = 1 then narrow (4 * planeCount (engineMode x.eng)) 24 g else (0, 0)

/-! ### PLAN_INSTALL and PLAN_RETIRE -/

/-- Range checks of PLAN_INSTALL (R55). That bytes 28 to 127, which R55 gives to no field, have to be zero is DEDUCED (log entry 22). -/
def planRange (d : Bytes) : Option Nat :=
  firstBad
    [ (16, decide (fld d 16 8 % 64 ≠ 0)), (24, decide (fld d 24 4 < 128) || decide (2 ^ 20 < fld d 24 4)), (28, !(zeros d 28 128)) ]

/-- Plan-store bytes in use on a die (R57). -/
def State.storeUse (s : State) (d : Nat) : Nat :=
  ((s.parts.filter (fun p => p.2.onDie d)).map (fun p => s.planUse p.1)).sum

/-- Whether an image fits the partition's share and the 8 MiB plan store of each of its dies. -/
def State.planFits (s : State) (owner n : Nat) : Bool :=
  match NMap.get? s.parts owner with
  | none => false
  | some p => p.dieList.all (fun d => decide (s.planUse owner + n ≤ s.setting owner 0x0005 d) && decide (s.storeUse d + n ≤ 8 * 2 ^ 20))

/-- PLAN_INSTALL (R15, R57): the image is read, checked and stored with its effective group; its stamp is the counter of the record. -/
def execPlanInstall (cmd : Nat) (s : State) : Host.Outcome State Fault Refusal :=
  .next (control 0x44 (fun _ => true) (fun c s0 =>
    let s := s0.asDma (s0.functionOf c.owner) false (c.f 16 8) (c.f 24 4)
    let img := s.hostRead (c.f 16 8) (c.f 24 4)
    let id := dPlan c.desc
    s.settle cmd (
      match planFault s c.owner id img with
      | some dt => .error (E_BAD_PLAN, dt)
      | none =>
        if !(s.planFits c.owner img.length) then .error (E_QUOTA, 0)
        else
          let g := planGroup img
          let x := secsOf img
          let narrowed := decide (x.kind = 1) && decide (g ≠ (fld x.op 2 1, fld x.op 3 1))
          let p : Plan := { kind := x.kind, image := img, groupM := g.1, groupN := g.2, stamp := s.counter c.home }
          let s1 := { s with plans := NMap.set s.plans (planKey c.owner id) p }
          if narrowed then .ok (s1, OK_NARROWED, g.1 * 256 + g.2) else .ok (s1, OK, 0))) cmd s)

/-- Whether a command runs a plan (the Plan column of Table 2-10a). -/
def runsPlan (op : Nat) : Bool := planKinds.contains op

/-- PLAN_RETIRE (R18, R589): the plan is refused to later commands at once, and the retire completes after the last admitted command that uses it. -/
def execPlanRetire (cmd : Nat) (s : State) : Host.Outcome State Fault Refusal :=
  .next (control 0x45 (fun _ => true) (fun c s =>
    let id := dPlan c.desc
    let key := planKey c.owner id
    match s.plan? c.owner id with
    | none => s.settle cmd (.error (E_BAD_PLAN, 0xFF0B))
    | some p =>
      if p.retiring ∧ c.phase ≠ .executed then s.settle cmd (.error (E_BAD_PLAN, 0xFF0C))
      else
        let s1 := { s with plans := NMap.set s.plans key { p with retiring := true } }
        let s2 := s1.setCmd cmd { c with phase := .executed }
        if (s2.ownerCmds c.owner).any (fun x => runsPlan x.2.opcode && decide (dPlan x.2.desc = id)) then s2
        else ({ s2 with plans := NMap.erase s2.plans key }).finish cmd OK 0) cmd s)

end Sys2Proof.Machine
end

