-- ==== Sys2Proof/Machine/Admit.lean ====
section
/-! DEFINITION. Admission of the next command of a ring: the conditions that stall it, the header and payload checks, the holds, the admission codes of every opcode in their order, and what admission captures (R46 to R50, R65, R68, R112, R146, R210, R378, R543). -/

namespace Sys2Proof.Machine

/-! ### Opcodes and rings (R65) -/

/-- Opcodes that work rings, partition admin rings and the package admin ring accept (Table 2-10a). -/
def workOps : List Nat := [0x01, 0x02, 0x03, 0x04, 0x05, 0x06, 0x07, 0x08, 0x09, 0x0A, 0x0B, 0x0C, 0x0D, 0x0E, 0x0F]
def adminOps : List Nat := [0x0A, 0x0B, 0x0C, 0x0D, 0x42, 0x43, 0x44, 0x45, 0x46, 0x47, 0x48, 0x49, 0x4A, 0x4D, 0x4E, 0x51]
def packageOps : List Nat := [0x0A, 0x40, 0x41, 0x49, 0x4B, 0x4C, 0x4D, 0x4F, 0x50, 0x52]

/-- The opcodes of the kind of ring. -/
def ringOps (owner ring : Nat) : List Nat := if owner = packageOwner then packageOps else if ring = 0 then adminOps else workOps

/-! ### Checks before admission (R46, R68) -/

/-- A finding when a condition holds. -/
def failIf (b : Bool) (st dt : Nat) : Option (Nat × Nat) := if b then some (st, dt) else none

/-- The header checks (Table 2-10), and the ring's opcodes (R65). -/
def State.headerFail (s : State) (owner ring : Nat) (d : Bytes) : Option (Nat × Nat) :=
  let op := dOpcode d
  let bad := fun (b : Bool) (n : Nat) => failIf b E_BAD_DESCRIPTOR n
  let planned := runsPlan op || op == 0x44 || op == 0x45
  firstSome
    [ bad (!((workOps ++ adminOps ++ packageOps).contains op)) 0x0001,
      failIf (!((ringOps owner ring).contains op)) E_NOT_PERMITTED op,
      bad (decide (fld d 2 1 ≠ 1)) 0x0002, bad (decide (7 < dPriority d)) 0x0003,
      bad (decide (dCq d ≠ 0xFFFF) && (s.comp? owner (dCq d)).isNone) 0x0004, bad (decide (3 < fld d 1 1)) 0x0005,
      bad (decide (4095 < dFence d) || (decide (owner = packageOwner) && decide (dFence d ≠ 0))) 0x0006,
      bad (if planned then decide (0xFFFF < dPlan d) else decide (dPlan d ≠ 0)) 0x0007 ]

/-- Range checks of SIGNAL and WAIT (Table 2-7), and of ABORT (R452). That byte 19 and bytes 32 to 127 of SIGNAL and WAIT, which Table 2-7 gives to no field, have to be zero is DEDUCED (log entry 22). -/
def fenceOutside (d : Bytes) : Bool := decide (fld d 16 2 = 0) || decide (4095 < fld d 16 2)
def signalRange (d : Bytes) : Option Nat :=
  firstBad [ (16, fenceOutside d), (18, decide (2 < fld d 18 1)), (19, !(zeros d 19 24)), (32, !(zeros d 32 128)) ]
def waitRange (d : Bytes) : Option Nat :=
  firstBad [ (16, fenceOutside d), (18, decide (1 < fld d 18 1)), (19, !(zeros d 19 20)), (32, !(zeros d 32 128)) ]
def abortRange (s : State) (owner : Nat) (d : Bytes) : Option Nat :=
  firstBad [ (16, (s.sub? owner (fld d 16 2)).isNone), (18, !(zeros d 18 20)), (24, !(zeros d 24 128)) ]

/-- The plan a data command runs, when it is installed, in service and of the command's kind. -/
def State.runPlan (s : State) (owner : Nat) (d : Bytes) : Option Plan :=
  match s.plan? owner (dPlan d) with
  | some p => if p.retiring || decide (p.kind ≠ dOpcode d) then none else some p
  | none => none

/-- The range checks of an opcode's payload: the detail 0x0100 + n of the first field that fails. -/
def State.payloadFail (s : State) (owner : Nat) (d : Bytes) : Option Nat :=
  let p := s.runPlan owner d
  match dOpcode d with
  | 0x01 => tensorRange p d
  | 0x02 => attendRange s owner p d
  | 0x03 => stepRange s owner p d
  | 0x04 => forkRange s owner d
  | 0x05 => freeRange d
  | 0x06 => moveRange s owner d
  | 0x07 => collRange s owner d
  | 0x08 => codecRange s owner p d
  | 0x09 => detectRange p d
  | 0x0A => firstBad [ (16, !(zeros d 16 128)) ]
  | 0x0B => signalRange d
  | 0x0C => waitRange d
  | 0x0D => abortRange s owner d
  | 0x0E => routeRange p d
  | 0x0F => restoreRange d
  | 0x40 => partCreateRange d
  | 0x41 => firstBad [ (17, !(zeros d 17 128)) ]
  | 0x42 => ringCreateRange s owner d
  | 0x43 => ringDestroyRange s owner d
  | 0x44 => planRange d
  | 0x45 => firstBad [ (16, !(zeros d 16 128)) ]
  | 0x46 => tableRange d
  | 0x47 => registerRange s owner d
  | 0x48 => firstBad [ (20, !(zeros d 20 128)) ]
  | 0x49 => loadRange owner d
  | 0x4A => alloyRange d
  | 0x4B => powerRange d
  | 0x4C => colophonRange d
  | 0x4D => attestRange owner d
  | 0x4E => groupRange d
  | 0x4F => unitRange d
  | 0x50 => quotaRange d
  | 0x51 => keyRange d
  | 0x52 => marginRange d
  | _ => none

/-- Whether a quarantined partition's command is still served: BARRIER, OBJECT_RELEASE, and MOVE EXPORT or SEQ_EXPORT (R543). -/
def salvage (d : Bytes) : Bool :=
  dOpcode d == 0x0A || dOpcode d == 0x48 || (dOpcode d == 0x06 && (fld d 16 1 == 2 || fld d 16 1 == 3))

/-- E_PARTITION_FAULT of a quarantined partition. -/
def State.faultOf (s : State) (owner : Nat) (d : Bytes) : Option (Nat × Nat) :=
  match NMap.get? s.parts owner with
  | some p =>
    match p.quarantine with
    | some origin => if salvage d then none else some (E_PARTITION_FAULT, origin)
    | none => none
  | none => none

/-- Why a command is not admitted at all, if so. -/
def State.refuses (s : State) (owner ring : Nat) (d : Bytes) : Option (Nat × Nat) :=
  firstSome [ s.faultOf owner d, s.headerFail owner ring d, (s.payloadFail owner d).map (fun n => (E_BAD_DESCRIPTOR, n)) ]

/-! ### Holds -/

/-- Uncommitted commands of an owner. -/
def State.waitingOn (s : State) (owner : Nat) : List (Nat × Cmd) := (s.ownerCmds owner).filter (fun x => x.2.uncommitted)

/-- R112 step 1: a command of the same layer with a lower step is uncommitted. -/
def State.layerHeld (s : State) (c : Cmd) : Bool :=
  s.tracked c && (s.waitingOn c.owner).any (fun x =>
    s.tracked x.2 && fsLayer ((s.planOf x.2).sec 2) == fsLayer ((s.planOf c).sec 2) && decide (x.2.f 68 4 < c.f 68 4))

/-- The step a command names, 0 for none. -/
def Cmd.stepOf (c : Cmd) : Nat := if c.opcode = 0x03 then c.f 20 4 else if c.opcode = 0x02 then c.f 52 4 else 0

/-- R287: an APPEND against the readers of its layer, and a reader against the APPEND. -/
def Cmd.appends (c : Cmd) (h l : Nat) : Bool := c.opcode == 0x03 && c.f 16 1 == 1 && c.f 20 4 == h && c.f 44 2 == l
def Cmd.readsLayer (c : Cmd) (h l : Nat) : Bool := c.opcode == 0x02 && h != 0 && c.f 52 4 == h && c.f 64 2 == l
def State.appendHeld (s : State) (c : Cmd) : Bool :=
  (s.waitingOn c.owner).any (fun x =>
    (c.appends (c.f 20 4) (c.f 44 2) && x.2.readsLayer (c.f 20 4) (c.f 44 2))
      || (c.readsLayer (c.f 52 4) (c.f 64 2) && x.2.appends (c.f 52 4) (c.f 64 2)))

/-- Commands that free a sequence or restore into it: others that name it are held (R296, R313). -/
def Cmd.claimsSeq (c : Cmd) : Bool := c.opcode == 0x05 || (c.opcode == 0x0F && c.f 20 1 == 1)

/-- R296: a command and an admitted one name the same sequence, and one of them frees or restores it. -/
def State.seqHeld (s : State) (c : Cmd) : Bool :=
  (s.ownerCmds c.owner).any (fun x =>
    (c.claimsSeq || x.2.claimsSeq) && (s.cmdSeqs c).any (fun i => (s.cmdSeqs x.2).contains i))

/-- Commands that need an object to themselves: a RETIER, and an OBJECT_RELEASE. Each is held until no admitted command names the object (R359, R372), and later commands that name it are held until its record is written (R372; for a release, the time between its admission and its record). -/
def Cmd.ownsObject (c : Cmd) : Bool := c.opcode == 0x48 || (c.opcode == 0x06 && c.f 16 1 == 6)

/-- Whether an ATTEST is held: an admitted MODEL_LOAD, ALLOY_BIND, KEY_IMPORT, PART_CREATE or PART_DESTROY within its scope has not written its record (R494). -/
def State.attestHeld (s : State) (c : Cmd) : Bool :=
  c.opcode == 0x4D && s.cmds.any (fun x => [0x49, 0x4A, 0x51, 0x40, 0x41].contains x.2.opcode &&
    (decide (c.f 16 1 = 0) || x.2.owner == c.f 17 1 || x.2.owner == packageOwner))

/-- The holds at admission (R112, R287 to R290, R296, R359, R372, R400). -/
def State.held (s : State) (c : Cmd) : Bool :=
  let opens := c.opcode == 0x04 || (c.opcode == 0x03 && c.f 16 1 == 0)
  let closes := c.opcode == 0x03 && (c.f 16 1 == 2 || c.f 16 1 == 3)
  s.layerHeld c
    || s.attestHeld c
    || (opens && s.seqs.any (fun q => q.2.part == c.owner && q.2.state == .retired))
    || s.appendHeld c
    || (closes && (s.ownerCmds c.owner).any (fun x => x.2.stepOf == c.f 20 4))
    || s.seqHeld c
    || (s.ownerCmds c.owner).any (fun x => (c.ownsObject || x.2.ownsObject) && (s.named c).any (fun k => (s.named x.2).contains k))
    || (c.opcode == 0x07 && s.cmds.any (fun x => x.2.opcode == 0x4E && x.2.f 16 2 == c.f 16 2))

/-! ### Admission codes -/

/-- E_BAD_PLAN of a data command (R58, Table 2-10). -/
def State.planFail (s : State) (c : Cmd) : Option (Nat × Nat) :=
  if !(runsPlan c.opcode) then none
  else match s.plan? c.owner (dPlan c.desc) with
    | none => some (E_BAD_PLAN, 0xFF0B)
    | some p => if p.retiring then some (E_BAD_PLAN, 0xFF0C) else if p.kind ≠ c.opcode then some (E_BAD_PLAN, 0xFF08) else none

/-- E_BAD_OBJECT: a non-zero handle of a data command names no object of the partition. -/
def State.handleFail (s : State) (c : Cmd) : Option (Nat × Nat) :=
  if 0x40 ≤ c.opcode then none
  else failIf ((handleFields c.desc).any (fun o => c.f o 4 != 0 && (s.resolve c.owner (c.f o 4)).isNone)) E_BAD_OBJECT 0

/-- E_TABLE_MISMATCH (R214). -/
def State.tableFail (s : State) (c : Cmd) : Option (Nat × Nat) :=
  if !(runsPlan c.opcode) then none
  else
    let n := (s.planOf c).sec 5
    firstSome ((refSlots n).zipIdx.map (fun (e : Nat × Nat) =>
      let want := fld n (36 + 8 * e.2) 4
      match (s.table c.owner e.1).image with
      | none => some (E_TABLE_MISMATCH, e.1 + 0x100)
      | some t => failIf (decide (want ≠ 0) && decide (tId t ≠ want)) E_TABLE_MISMATCH e.1))

/-- E_GRAD_MASK 0x0003: a command other than TENSOR_OP or MOVE writes a masked object (R251). -/
def State.gradFail (s : State) (c : Cmd) : Option (Nat × Nat) :=
  failIf ((s.writes c).any (fun k => match NMap.get? s.objects k with | some o => o.gradMask != 0 | none => false)) E_GRAD_MASK 3

/-- R112 for a tracked command: none is E_TEMPER_ORDER. -/
def State.decision (s : State) (c : Cmd) : Option (State × Decision) :=
  s.temperAdmit ((s.planOf c).sec 2) c.owner (c.f 68 4) c.home (s.keysAt c.owner c.desc [if c.opcode = 0x01 then 24 else 28])

def State.orderFail (s : State) (c : Cmd) : Option (Nat × Nat) := failIf (s.tracked c && (s.decision c).isNone) E_TEMPER_ORDER 0

/-- The admission codes of each opcode in the order of its chapter (R146, R219, R240, R251, R264, R300, R318, R420, R438, R481); the first is carried. -/
def State.opFail (s : State) (id : Nat) (c : Cmd) : Option (Nat × Nat) :=
  match c.opcode with
  | 0x01 => firstSome [ s.orderFail c, s.carryFail c, s.tableFail c, s.maskFail c, s.convFail c, s.tensorPolicy c, s.normFail c ]
  | 0x02 =>
    firstSome [ s.attendExtent c, s.orderFail c, s.sketchSize c, s.batchFail c, s.sketchFail c, s.tableFail c, s.gradFail c,
                s.attendSeqState c, s.attendPolicy c ]
  | 0x03 => firstSome [ s.tableFail c, s.gradFail c, s.stepState c, s.stepPolicy c ]
  | 0x06 =>
    firstSome [ s.movePolicy c, failIf ([0, 1, 5].contains (c.f 16 1) && s.isModel c.owner (c.f 24 4)) E_MODEL_STATE 5 ]
  | 0x07 => firstSome [ s.collGroup c, s.gradFail c, s.collPolicy c ]
  | 0x08 =>
    firstSome [ s.tableFail c, s.gradFail c, s.codecState id c,
                if cdOp c = 0 then (match s.openStream c with | .error e => some e | .ok _ => none) else none, s.codecPolicy c ]
  | 0x09 => firstSome [ s.tableFail c, s.gradFail c, s.detectFail c, s.detectPolicy c ]
  | 0x0E => firstSome [ s.tableFail c, s.gradFail c, s.routePolicy c ]
  | 0x0F => firstSome [ s.restoreFail c, if c.f 20 1 = 1 then (s.imageFail c).map (fun k => (E_RESTORE_IMAGE, k)) else none ]
  | 0x49 => s.loadState c
  | _ => none

/-- The admission code of a command, if one applies: E_BAD_PLAN and E_BAD_OBJECT come first. -/
def State.admitFail (s : State) (id : Nat) (c : Cmd) : Option (Nat × Nat) :=
  firstSome [ s.planFail c, s.handleFail c, s.opFail id c ]

/-! ### What admission captures -/

/-- The table banks of a command's plan (R210). -/
def State.banks (s : State) (c : Cmd) : List (Nat × Bool × Bytes) :=
  if !(runsPlan c.opcode) then []
  else (refSlots ((s.planOf c).sec 5)).filterMap (fun n =>
    let t := s.table c.owner n
    match t.active, t.image with
    | some b, some img => some (n, b, img)
    | _, _ => none)

/-- The scratch of a TENSOR_OP's normalisation cells on each die, kept beside its captured lengths (R218). -/
def State.scratchOf (s : State) (c : Cmd) : NMap Nat :=
  if c.opcode = 0x01 then
    ((List.range 8).map (fun d => (2 ^ 40 + d, s.normScratch c d))).filter (fun (e : Nat × Nat) => e.2 != 0)
  else []

/-- Formats, anchor and draws that the temper decision or the plan fixes for a command that writes quantised output (R112, R94). -/
def State.setFormats (s : State) (id : Nat) (c : Cmd) : State :=
  if c.opcode ≠ 0x01 ∧ c.opcode ≠ 0x02 then s
  else
    let f := (s.planOf c).sec 2
    let anc := anchorField f (if c.opcode = 0x01 then c.f 64 2 else 0x8000)
    let plain := { c with fmtOut := fsOut f, anchor := signedOf 16 anc }
    match (if s.tracked c then s.decision c else none) with
    | some (s1, x) =>
      s1.setCmd id { plain with fmtOut := x.fmt, anchor := if anc = 0x7FFF then x.anchor else signedOf 16 anc, draws := x.draws,
                                drawLayer := fsLayer f, refused := x.refused }
    | none => s.setCmd id plain

/-- What the opcode itself does at admission: an UNPARK takes its sequence to RESTORING (R317), an OPEN its stream (R461), a load its content key (R500), and a WAIT is judged (R54). -/
def State.admitOwn (s : State) (id : Nat) (c : Cmd) : State :=
  match c.opcode with
  | 0x08 =>
    if cdOp c = 0 then (match s.openStream c with | .ok s1 => s1.setCmd id { c with target := some (c.f 18 1) } | .error _ => s) else s
  | 0x0C =>
    match waitJudge (s.fence c.owner (c.f 16 2)) c.desc with
    | some (st, dt) => s.setCmd id { c with phase := .ready, status := st, detail := dt }
    | none => s.startCmd id
  | 0x0F =>
    let i := seqIndex (c.f 16 4)
    if c.f 20 1 = 0 then (s.setSeq i { s.seqAt i with state := .restoring }).setCmd id { c with target := some i } else s
  | 0x49 =>
    let k : Load := { key := (NMap.get? s.parts c.owner).bind (fun (p : Part) => NMap.get? p.contentKeys (c.f 44 2)) }
    if c.f 16 1 = 0 then s.setCmd id { c with load := some k } else s
  | _ => s

/-- Send the admitted descriptor to the partition's other dies (R378). -/
def State.announce (s : State) (id : Nat) (c : Cmd) : State :=
  match NMap.get? s.parts c.owner with
  | some p => (p.dieList.filter (fun d => d != c.home)).foldl (fun (a : State) d => a.sendSpine c.home d 0 (leBytes 1 0x00 ++ leBytes 4 id)) s
  | none => s

/-- Admit the command at the head of a ring (R48, R50, R210, R378). -/
def State.admitHead (s : State) (owner ring : Nat) (r : SubRing) (x : Fetched) : State :=
  let id := s.nextCmd
  ((((s.admitCmd owner ring r x).withCmd id (fun (a : State) i (c : Cmd) => a.setCmd i { c with captured := a.banks c, lens := a.scratchOf c ++ a.visibleLens c, quires := a.quiresOf c.owner })).withCmd id
    State.setFormats).withCmd id State.admitOwn).withCmd id State.announce

/-! ### COMMAND_ADMIT -/

/-- A POWER_SET that leaves PK0 stands at the head of the package admin ring (R510). -/
def State.leavingPk0 (s : State) : Bool :=
  match s.sub? packageOwner 0 with
  | some r =>
    !r.halted && decide (s.power.pk = 0) &&
      (match r.fetched with
       | x :: _ => dOpcode x.desc == 0x4B && fld x.desc 16 1 == 0 && fld x.desc 17 1 != 0 && (s.refuses packageOwner 0 x.desc).isNone
       | [] => false)
  | none => false

/-- What stalls admission of a ring whatever its next command is: a halt or stop, an ORDERED ring's command without a record, a BARRIER or WAIT, 4,096 commands of the partition, a full completion ring, a POWER_SET that leaves PK0 (R48, R50, R52, R54, R445, R510). -/
def State.stalls (s : State) (owner ring : Nat) (r : SubRing) (x : Fetched) : Bool :=
  let live := s.ringCmds owner ring
  r.halted || r.stopped || (!r.concurrent && !live.isEmpty) || live.any (fun c => c.2.opcode == 0x0A || c.2.opcode == 0x0C)
    || (decide (owner ≠ packageOwner) && decide (4096 ≤ (s.ownerCmds owner).length))
    || !(s.slotFree owner (s.cqOf owner r x.desc))
    || (s.leavingPk0 && (decide (owner ≠ packageOwner) || !s.cmds.isEmpty))

/-- COMMAND_ADMIT (R46 to R50): the next fetched command of a ring is held, refused with its record, or admitted. -/
def execCommandAdmit (owner ring : Nat) (s : State) : Host.Outcome State Fault Refusal :=
  match s.sub? owner ring with
  | none => .next s
  | some r =>
    match r.fetched with
    | [] => .next s
    | x :: _ =>
      if !(s.ringServed owner) || s.stalls owner ring r x then .next s
      else
        match s.refuses owner ring x.desc with
        | some (st, dt) => .next (s.failFetched owner ring r x st dt)
        | none =>
          let c : Cmd := { owner := owner, ring := ring, order := x.order, desc := x.desc, home := r.home }
          if s.held c then .next s
          else
            match s.admitFail s.nextCmd c with
            | some (st, dt) => .next (s.failFetched owner ring r x st dt)
            | none => .next (s.admitHead owner ring r x)

end Sys2Proof.Machine
end

