-- ==== Sys2Proof/Machine/Findings.lean ====
section
/-! DEFINITION. What a report is about: a failed transfer to a base die (R336), uncorrectable words of quire stores, shared caches and system regions (R321, R337, R544). -/

namespace Sys2Proof.Machine

/-! ### The system region (R321) -/

/-- The parts of a system region, in order from its base, with their sizes. -/
inductive SysPart where
  | bindery | plans | staging | misc
  deriving DecidableEq, Repr

/-- Bytes of a part of a system region. -/
def SysPart.size (p : SysPart) : Nat :=
  match p with
  | .bindery => 4 * 2 ^ 20
  | .plans => 8 * 2 ^ 20
  | .staging => 16 * 2 ^ 20
  | .misc => 4 * 2 ^ 20

/-- The part that holds a byte of the 32 MiB of a system region. -/
def sysPartOf (off : Nat) : Option SysPart :=
  if off < SysPart.size .bindery then some .bindery
  else if off < SysPart.size .bindery + SysPart.size .plans then some .plans
  else if off < SysPart.size .bindery + SysPart.size .plans + SysPart.size .staging then some .staging
  else if off < 32 * 2 ^ 20 then some .misc
  else none

/-- The severity of an uncorrectable word (Table 23-5). -/
def SysPart.severity (p : SysPart) (dirty himon : Bool) (die : Nat) : Nat :=
  match p with
  | .bindery => if dirty then 3 else 0
  | .plans => 1
  | .staging => 2
  | .misc => if himon then (if die = 0 then 6 else 5) else 2

/-- Kill a command and rerun it once; a second time it fails E_MEM_UNCORRECTABLE (Table 23-5, counted as R130 counts). -/
def State.restage (s : State) (cmd origin : Nat) : State :=
  match s.cmd? cmd with
  | some c =>
    if !c.uncommitted then s
    else if c.residueRerun then s.failRun cmd c (E_MEM_UNCORRECTABLE, origin)
    else (s.setCmd cmd { c with residueRerun := true }).killCmd cmd false
  | none => s

/-- What an uncorrectable word of a part of a system region does (Table 23-5). A clean Bindery line is fetched again and a plan reloaded from Himon's copy, which changes nothing. -/
def State.sysWord (s : State) (p : SysPart) (die part cmd origin : Nat) (dirty himon : Bool) : State :=
  match p with
  | .bindery => if dirty then s.quarantinePart part origin else s
  | .plans => s
  | .staging => match s.cmd? cmd with | some c => if c.uncommitted ∧ c.opcode = 0x07 then s.failCmd cmd E_MEM_UNCORRECTABLE origin else s | none => s
  | .misc => if himon then s.loseDie die origin else s.restage cmd origin

/-! ### Quire stores and shared caches (R337) -/

/-- Poison a word of the copies of an ingot in a quire store. -/
def State.poisonStore (s : State) (die quire key version ingot word origin : Nat) : State :=
  s.setDie die { s.dieAt die with stores := (s.dieAt die).stores.modify quire (fun cs => cs.map (fun c =>
    if c.key = key ∧ c.version = version ∧ c.ingot = ingot then { c with bad := c.bad ++ [(word, origin)] } else c)) }

/-- A dirty line of a shared cache is lost: it is poisoned, with the cache as the memory that found the error (Table 14-6, R338); the cache's own report is the record. -/
def State.lostLine (s : State) (line origin : Nat) (said : LineUse) : State :=
  s.markLine (line / 2 ^ 29) (line % 2 ^ 29) (s.useOf (line / 2 ^ 29) (line % 2 ^ 29) said) origin

/-- A line of a shared cache whose data is uncorrectable: a clean one is fetched again from its stack, a dirty one poisoned (Table 14-6). -/
def State.badLine (s : State) (line origin : Nat) (said : LineUse) : State :=
  match NMap.get? (s.dieAt (homeOf (line * 128))).cache line with
  | some c => if c.dirty then s.lostLine line origin said
              else s.request (stackQueue (line / 2 ^ 29)) (s.lineOwner (line * 128)) 128
  | none => s

/-- A way whose tag is uncorrectable is disabled until a cold reset; a dirty line in it is poisoned, and the line is no longer cached (Table 14-6). -/
def State.badWay (s : State) (die set way origin : Nat) (said : LineUse) : State :=
  let x := s.dieAt die
  let mine := x.cache.filter (fun e => setOf e.1 == set && e.2.way == way)
  let s1 := s.setDie die { x with cache := x.cache.filter (fun e => !(setOf e.1 == set && e.2.way == way)), deadWays := x.deadWays ++ [(set, way)] }
  (mine.filter (fun e => e.2.dirty)).foldl (fun (a : State) e => a.lostLine e.1 origin said) s1

/-- What was found, beside the record. A transfer between a compute die and a base die is retried up to four times: with the fourth failure the request completes as an uncorrectable access of its line, which is poisoned and recorded (R336). -/
def State.found (s : State) (rep : Report) : State :=
  match rep.found with
  | .nothing => s.report rep
  | .baseDie stack line failures said =>
    if failures < 4 then
      let o := originId (stack / 3) 0x06 (stack % 3)
      s.report { rep with origin := o, cls := 0x03, info := line * 128 }
    else s.poisonLine stack line said
  | .hbmLine stack line said => s.poisonLine stack line said
  | .storeWord die quire key version ingot word => (s.report rep).poisonStore die quire key version ingot word rep.origin
  | .cacheData line said => (s.report rep).badLine line rep.origin said
  | .cacheTag die set way said => (s.report rep).badWay die set way rep.origin said
  | .systemWord die off part cmd dirty himon =>
    match sysPartOf off with
    | some p => (s.report { rep with cls := 0x0E, sev := p.severity dirty himon die }).sysWord p die part cmd rep.origin dirty himon
    | none => s

/-- ERROR_REPORT (R538): the concentrator takes the report, and what failed has its effect. -/
def execErrorReport (rep : Report) (s : State) : Host.Outcome State Fault Refusal := .next (s.found rep)

end Sys2Proof.Machine
end

