-- ==== Sys2Proof/Machine/Registers.lean ====
section
/-! DEFINITION. BAR0: the package admin ring's registers, snapshots, plain register writes, bad accesses, and what every register reads (R549 to R562). -/

namespace Sys2Proof.Machine

/-! ### The package admin ring (R555) -/

/-- RUNNING: the ring is fetching, or still has admitted commands (Table 24-5). -/
def State.adminRunning (s : State) : Bool := s.admin.enable || !(s.ownerCmds packageOwner).isEmpty

/-- The fields of offset 0x1028. -/
def AdminRegs.config (a : AdminRegs) (v : Nat) : AdminRegs := { a with sqLog2 := bitsOf v 28 24, cqLog2 := bitsOf v 20 16 }

/-- The ranges of Table 2-3 and Table 24-5. -/
def AdminRegs.ok (a : AdminRegs) : Bool :=
  decide (a.sqBase % 4096 = 0) && decide (a.cqBase % 4096 = 0) && decide (a.headWb % 8 = 0)
    && decide (6 ≤ a.sqLog2) && decide (a.sqLog2 ≤ 16) && decide (6 ≤ a.cqLog2) && decide (a.cqLog2 ≤ 18)
    && decide (1 ≤ a.vector) && decide (a.vector ≤ 2047)

/-- A write of offset 0x1028 with ENABLE set: checked, and the ring starts (R555). -/
def State.adminEnable (s : State) (v : Nat) : State :=
  if !s.barAll then s
  else if s.adminRunning then s.protocolHs 0x1028
  else
    let a := s.admin.config v
    if a.ok then
      let s1 := { s with admin := { a with enable := true, cfgError := false } }
      (s1.setSub packageOwner 0 { log2 := a.sqLog2, base := a.sqBase, headWb := a.headWb }).setComp packageOwner 0
        { log2 := a.cqLog2, base := a.cqBase, vector := a.vector, modCount := a.modCountM1 + 1, modTime := a.modTime }
    else { s with admin := { a with cfgError := true } }

/-- A write of offset 0x1028 with ENABLE clear: a running ring stops fetching and drops what is not admitted (R555, R40); otherwise the fields are stored. -/
def State.adminDisable (s : State) (v : Nat) : State :=
  if !s.barAll then s
  else if s.adminRunning then
    { s with admin := { s.admin with enable := false },
             subs := NMap.modify s.subs (ringKey packageOwner 0) (fun r => { r with stopped := true, fetched := [] }) }
  else { s with admin := s.admin.config v }

/-- PACKAGE_ADMIN_ENABLE. -/
def execPackageAdminEnable (value : Nat) (s : State) : Host.Outcome State Fault Refusal := .next (s.adminEnable value)

/-- PACKAGE_ADMIN_DISABLE. -/
def execPackageAdminDisable (value : Nat) (s : State) : Host.Outcome State Fault Refusal := .next (s.adminDisable value)

/-- A write of another field of the package admin ring: only while RUNNING is 0 (R555). -/
def State.adminField (s : State) (off : Nat) (f : AdminRegs → AdminRegs) : State :=
  if s.adminRunning then s.protocolHs off else { s with admin := f s.admin }

/-! ### Snapshots (R561, R562) -/

/-- The snapshot unit of a window: the PF's, or that of the VF that serves the partition. -/
def Window.snap (w : Window) (pf : Bool) : Snap := if pf then w.pfSnap else w.vfSnap

def State.snapOf (s : State) (pf : Bool) (part : Nat) : Snap := (NMap.getD s.windows part {}).snap pf

def State.setSnap (s : State) (pf : Bool) (part : Nat) (x : Snap) : State :=
  let w := NMap.getD s.windows part {}
  let w1 : Window := if pf then { w with pfSnap := x } else { w with vfSnap := x }
  { s with windows := NMap.set s.windows part w1 }

/-- Whether a window is served: the partition exists and, for a VF's window, a VF serves it (R558). -/
def State.windowServed (s : State) (pf : Bool) (part : Nat) : Bool :=
  s.barAll && (match NMap.get? s.parts part with | some p => pf || p.function != 0 | none => false)

/-- A write of SNAP_SEL (R561): ignored whole while GO reads 1. -/
def State.snapWrite (s : State) (pf : Bool) (part v : Nat) : State :=
  if s.windowServed pf part then
    let x := s.snapOf pf part
    if x.go then s
    else s.setSnap pf part { x with go := v.testBit 31, done := x.done && !(v.testBit 30), clear := v.testBit 26,
                                    kind := bitsOf v 25 22, index := v % 2 ^ 22 }
  else s

/-- SNAP_CAPTURE: SNAP_SEL written with GO = 1 and CLEAR = 0. -/
def execSnapCapture (pf : Bool) (part kind index : Nat) (s : State) : Host.Outcome State Fault Refusal :=
  .next (s.snapWrite pf part (2 ^ 31 + kind % 16 * 2 ^ 22 + index % 2 ^ 22))

/-- SNAP_CAPTURE_CLEAR: SNAP_SEL written with GO = 1 and CLEAR = 1. -/
def execSnapCaptureClear (pf : Bool) (part kind index : Nat) (s : State) : Host.Outcome State Fault Refusal :=
  .next (s.snapWrite pf part (2 ^ 31 + 2 ^ 26 + kind % 16 * 2 ^ 22 + index % 2 ^ 22))

/-- Whether INDEX lies outside the range of its KIND (Table 24-11); a reserved kind has no range. -/
def snapOutside (kind index : Nat) : Bool :=
  match kind with
  | 0 => decide (262144 ≤ index)
  | 1 => decide (4096 ≤ index)
  | 2 => decide (1024 ≤ index)
  | 3 => index != 0
  | 4 => decide (8192 ≤ index)
  | _ => true

/-- The error record that INDEX names. -/
def State.errAt (s : State) (index : Nat) : Option ErrRec := NMap.get? (s.errsOf (index / 1024)) (index % 1024)

/-- Whether the window may see the structure (Table 24-12). -/
def State.snapVisible (s : State) (pf : Bool) (part kind index : Nat) : Bool :=
  match kind with
  | 0 => (s.seqAt index).state == .free || (s.seqAt index).part == part
  | 2 => (s.sub? part index).isSome
  | 4 =>
    match s.errAt index with
    | some e => pf || ((e.severity == 2 || e.severity == 3) && e.partition == part)
    | none => true
  | _ => true

/-- RESULT of a capture (Table 24-11). -/
def State.snapResult (s : State) (pf : Bool) (part : Nat) (x : Snap) : Nat :=
  if snapOutside x.kind x.index then 3
  else if !(s.snapVisible pf part x.kind x.index) then 1
  else if x.clear && (x.kind == 0 || x.kind == 4) then 2 else 0

/-- The structure's bytes. -/
def State.snapData (s : State) (part kind index : Nat) : Bytes :=
  match kind with
  | 0 => seqBytes index (s.seqAt index)
  | 1 => temperBytes (s.temper part index)
  | 2 => acctBytes ((s.sub? part index).getD {}).acct
  | 3 => acctBytes ((NMap.get? s.parts part).getD {}).acct
  | _ => match s.errAt index with | some e => errBytes e | none => []

/-- Whether an admitted command names a layer of its partition (R112, R562). -/
def State.layerNamed (s : State) (part layer : Nat) : Bool :=
  (s.ownerCmds part).any (fun c => s.tracked c.2 && fsLayer ((s.planOf c.2).sec 2) == layer)

/-- The clear that a capture makes (R562). -/
def State.snapClear (s : State) (part kind index : Nat) : State :=
  match kind with
  | 1 => s.setTemper part index { reserveKib := (s.temper part index).reserveKib }
  | 2 => { s with subs := NMap.modify s.subs (ringKey part index) (fun r => { r with acct := { lastCounter := s.counter r.home } }) }
  | _ => { s with parts := NMap.modify s.parts part (fun p => { p with acct := { lastCounter := s.counter p.firstDie } }) }

/-- SNAP_CAPTURE_DONE (R562): the capture is taken and ends; a temper clear waits until no admitted command names the layer. -/
def execSnapCaptureDone (pf : Bool) (part : Nat) (s : State) : Host.Outcome State Fault Refusal :=
  let x := s.snapOf pf part
  if s.windowServed pf part && x.go then
    let r := s.snapResult pf part x
    if r ≠ 0 then .next (s.setSnap pf part { x with go := false, done := true, result := r, data := List.replicate 128 0 })
    else if x.clear && x.kind == 1 && s.layerNamed part x.index then .next s
    else
      let s1 := s.setSnap pf part { x with go := false, done := true, result := 0, data := fixLen 128 (s.snapData part x.kind x.index) }
      .next (if x.clear then s1.snapClear part x.kind x.index else s1)
  else .next s

/-! ### Writes of registers (R549, R551) -/

/-- The state an outcome leaves. -/
def stateAfter (s : State) (o : Host.Outcome State Fault Refusal) : State :=
  match o with
  | .next t => t
  | _ => s

/-- A write of the lower half of a 64-bit register waits for the upper half. -/
def State.lowHalf (s : State) (off v : Nat) : State := { s with half := NMap.set s.half off v }

/-- The value of a 64-bit register when its upper half is written. -/
def State.whole (s : State) (off v : Nat) : Nat := NMap.getD s.half off 0 + 2 ^ 32 * v

/-- A field of a function's MSI-X table (Table 2-1): address, data and vector control of a vector. -/
def State.msixWrite (s : State) (fn o v : Nat) : State :=
  let vec := o / 16
  let m := NMap.getD s.msix fn {}
  let e := NMap.getD m.table vec (0, 0)
  let put := fun (e' : Nat × Nat) => { s with msix := NMap.set s.msix fn { m with table := NMap.set m.table vec e' } }
  match o / 4 % 4 with
  | 0 => put (e.1 / 2 ^ 32 * 2 ^ 32 + v, e.2)
  | 1 => put (e.1 % 2 ^ 32 + 2 ^ 32 * v, e.2)
  | 2 => put (e.1, v)
  | _ =>
    if v.testBit 0 then { s with msix := NMap.set s.msix fn { m with unmasked := m.unmasked.filter (· != vec) } }
    else stateAfter s (execMsixUnmask fn (some vec) s)

/-- A 32-bit write inside a partition window (Table 24-8). -/
def State.windowWrite (s : State) (pf : Bool) (part o v : Nat) : State :=
  if o = 0x120 then stateAfter s (execVfErrPendingClear pf part (v % 256) s)
  else if o = 0x200 then s.snapWrite pf part v
  else s

/-- A 32-bit write of a package register that normal service offers (Tables 24-3, 24-5, 22-11, 23-6). -/
def State.packageWrite (s : State) (off v : Nat) : State :=
  let p := s.power
  match off with
  | 0x1000 => stateAfter s (execPartIdWrite v s)
  | 0x1004 => stateAfter s (execMemMapCtrlWrite v s)
  | 0x1010 => s.lowHalf off v
  | 0x1014 => s.adminField 0x1010 (fun a => { a with sqBase := s.whole 0x1010 v })
  | 0x1018 => s.lowHalf off v
  | 0x101C => s.adminField 0x1018 (fun a => { a with cqBase := s.whole 0x1018 v })
  | 0x1020 => s.lowHalf off v
  | 0x1024 => s.adminField 0x1020 (fun a => { a with headWb := s.whole 0x1020 v })
  | 0x1028 => if v.testBit 31 then s.adminEnable v else s.adminDisable v
  | 0x102C => s.adminField off (fun a => { a with vector := bitsOf v 26 16, modCountM1 := v % 256 })
  | 0x1030 => s.adminField off (fun a => { a with modTime := v % 65536 })
  | 0x1040 =>
    { s with power := { p with clampSeen := p.clampSeen &&& ~~~ (BitVec.ofNat 8 (bitsOf v 23 16)), pkgPower := p.pkgPower && !(v.testBit 7),
                               thermal := p.thermal && !(v.testBit 6), ilim := p.ilim && !(v.testBit 5),
                               current := p.current && !(v.testBit 4), regFault := p.regFault && !(v.testBit 3) } }
  | 0x1050 =>
    if v.testBit 31 then stateAfter s (execColophonReqGo v s)
    else { s with colo := { s.colo with done := s.colo.done && !(v.testBit 30), error := s.colo.error && !(v.testBit 29), sections := v % 65536 } }
  | 0x1058 => s.lowHalf off v
  | 0x105C => { s with colo := { s.colo with addr := s.whole 0x1058 v } }
  | 0x1060 => { s with colo := { s.colo with len := v } }
  | 0x1070 => stateAfter s (execErrSummaryPendingClear (bitsOf v 23 16) s)
  | 0x1074 => { s with ceLog2 := v % 32 }
  | 0x1078 =>
    if v.testBit 31 then stateAfter s (execErrClearAll (bitsOf v 26 24) s)
    else if v.testBit 30 then stateAfter s (execErrClearPendingOnly (bitsOf v 26 24) (v % 1024) s)
    else stateAfter s (execErrClearSlot (bitsOf v 26 24) (v % 1024) s)
  | 0x1080 => if v.testBit 29 then stateAfter s (execDiscardToken s) else s
  | _ => s

/-- A 32-bit write of a mailbox register (Table 24-6). -/
def State.mailboxWrite (s : State) (off v : Nat) : State :=
  let x := s.sec
  match off with
  | 0x3000 =>
    let y : Sec := { x with mbDone := x.mbDone && !(v.testBit 30), mbCmd := if x.mbGo then x.mbCmd else v % 256 }
    if v.testBit 31 then State.mailboxGo { s with sec := y } (v % 256) [] else { s with sec := y }
  | 0x3008 => { s with sec := { x with mbTarget := v.testBit 31, mbOffset := v % 2 ^ 31 } }
  | 0x3010 => s.lowHalf off v
  | 0x3014 => { s with sec := { x with mbAddr := s.whole 0x3010 v } }
  | 0x3018 => { s with sec := { x with mbLen := v } }
  | _ => s

/-- A 32-bit write of a register of an external link (Table 24-7). -/
def State.linkWrite (s : State) (off v : Nat) : State :=
  let l := (off - 0x4000) / 0x40
  match (off - 0x4000) % 0x40 with
  | 0x08 => stateAfter s (execXlinkVcWeightWrite l v s)
  | 0x0C => stateAfter s (execXlinkSecWrite l v s)
  | 0x10 => stateAfter s (execXlinkTestWrite l v s)
  | _ => s

/-- The package registers that the fatal state keeps writable (R551). -/
def fatalKept (off : Nat) : Bool := [0x1040, 0x1050, 0x1058, 0x105C, 0x1060, 0x1070, 0x1074, 0x1078].contains off

/-- A 32-bit write of a function's BAR0 at a 4-byte-aligned offset; what is not offered ignores it. -/
def State.write32 (s : State) (fn off v : Nat) : State :=
  if fn = 0 then
    if 0x1000 ≤ off ∧ off < 0x2000 then (if s.barAll || (s.barErr && fatalKept off) then s.packageWrite off v else s)
    else if 0x3000 ≤ off ∧ off < 0x4000 then (if s.barMailbox then s.mailboxWrite off v else s)
    else if !s.barAll then s
    else if 0x4000 ≤ off ∧ off < 0x4200 then s.linkWrite off v
    else if 0x10000 ≤ off ∧ off < 0x18000 then s.msixWrite 0 (off - 0x10000) v
    else if 0x100000 ≤ off ∧ off < 0x200000 then s.windowWrite true ((off - 0x100000) / 0x10000) (off % 0x10000) v
    else s
  else if !s.barAll then s
  else if 0x9000 ≤ off ∧ off < 0x9000 + 16400 then s.msixWrite fn (off - 0x9000) v
  else
    match s.parts.find? (fun q => q.2.function == fn) with
    | some (p, _) => s.windowWrite false p off v
    | none => s

/-- Whether an access is naturally aligned and 32 or 64 bits wide (R549). -/
def goodAccess (off width : Nat) : Bool := (width == 32 && off % 4 == 0) || (width == 64 && off % 8 == 0)

/-- REGISTER_WRITE (R549): a 64-bit write acts as its lower half and then its upper half. -/
def execRegisterWrite (fn off width value : Nat) (s : State) : Host.Outcome State Fault Refusal :=
  if goodAccess off width then
    let s1 := s.write32 fn off (value % 2 ^ 32)
    .next (if width = 64 then s1.write32 fn (off + 4) (value / 2 ^ 32 % 2 ^ 32) else s1)
  else if s.barErr || s.barMailbox then .next (s.protocolHs off)
  else .next s

/-- BAR0_BAD_ACCESS (R549): it completes, a write is ignored, and it is recorded once. -/
def execBar0BadAccess (_fn off width : Nat) (_isWrite : Bool) (_value : Nat) (s : State) : Host.Outcome State Fault Refusal :=
  if !(goodAccess off width) && (s.barErr || s.barMailbox) then .next (s.protocolHs off) else .next s

end Sys2Proof.Machine
end

