-- ==== Sys2Proof/Machine/Sched.lean ====
section
/-! DEFINITION. The dispatcher between admission and commit: the start of commands that wait for a unit (R60, R445, R447) and pre-emption (R448 to R451). -/

namespace Sys2Proof.Machine

/-! ### Starts (R445, R447) -/

/-- The dies whose engine gives a command its turn. -/
def State.enginesFor (s : State) (id : Nat) (c : Cmd) : List Nat :=
  (List.range 8).filter (fun d => s.hasItem d c && s.engineTurn d id)

/-- COMMAND_START (R445): a command that waits takes its first unit of work or begins its first action, when its unit turns to it and R60 allows. -/
def execCommandStart (cmd : Nat) (s : State) : Host.Outcome State Fault Refusal :=
  match s.cmd? cmd with
  | some c =>
    if s.serving && decide (c.phase = .admitted) then
      if planeCmd c then .next (s.openWork cmd)
      else if c.opcode = 0x02 then .next (s.ensureStart cmd)
      else if c.opcode = 0x08 ∨ c.opcode = 0x09 then
        .next ((s.enginesFor cmd c).foldl (fun (a : State) d => if a.engineTurn d cmd then a.takeTurn d cmd else a) s)
      else if c.opcode = 0x07 then .next (if s.groupSetAhead cmd c then s else s.collStart cmd)
      else if (unitOf c ≠ 0 ∨ c.opcode = 0x06) ∧ s.eligible cmd c then .next (s.unitStart cmd)
      else .next s
    else .next s
  | none => .next s

/-! ### Pre-emption (R448 to R451) -/

/-- Whether a command holds a unit that C could take: a plane that C's ENGINE_MODE allows, or collective staging that C needs. -/
def State.holdsFor (s : State) (c v : Cmd) : Bool :=
  if c.opcode = 0x07 then decide (v.phase = .started) && (stagingDies v).any (fun d => (s.stagingNeeds c).contains d)
  else v.run.held.any (fun h => h.plane != 255 && planeAllowed (s.modeOf c) h.plane)

/-- Opcodes that pre-emption never kills (R451). -/
def neverVictim (op : Nat) : Bool := [0x03, 0x04, 0x05, 0x06, 0x0A, 0x0B, 0x0C, 0x0D, 0x0E, 0x0F, 0x49].contains op

/-- Whether a command is a victim for C (R448, R450, R451). -/
def State.victimFor (s : State) (c : Cmd) (v : Cmd) : Bool :=
  v.uncommitted && decide (v.owner = c.owner) && decide (v.priority < c.priority) && s.holdsFor c v
    && decide (v.victimKills < s.setting c.owner 0x0010 0) && !(neverVictim v.opcode)
    && (match v.coll with | some k => !k.sentDone && k.grace.isNone | none => true)

/-- The victim chosen: the lowest PRIORITY, then the latest admission. -/
def State.chooseVictim (s : State) (id : Nat) (c : Cmd) : Option (Nat × Cmd) :=
  (s.cmds.filter (fun x => x.1 != id && s.victimFor c x.2)).foldl (fun (a : Option (Nat × Cmd)) x =>
    match a with
    | none => some x
    | some y => if x.2.priority < y.2.priority ∨ (x.2.priority = y.2.priority ∧ y.1 < x.1) then some x else a) none

/-- Kill a victim; a COLLECTIVE that waits for a message is deferred for its grace (R413, R449). -/
def State.preempt (s : State) (v : Nat × Cmd) : State :=
  match v.2.coll with
  | some k => if k.sentFprint then s.setColl v.1 (fun x => { x with grace := some (s.counter v.2.home) }) else s.collPreempt v.1
  | none => s.killCmd v.1 true

/-- PREEMPT_DELAY_EXPIRY (R448): C has waited PREEMPT_DELAY for a plane or staging since its admission, its kill or the last pre-emption for it. -/
def execPreemptDelayExpiry (cmd : Nat) (t : Word) (s : State) : Host.Outcome State Fault Refusal :=
  match s.cmd? cmd with
  | some c =>
    let s1 := s.reach c.home t
    let now := s1.counter c.home
    let from_ := if c.waitFrom < c.preemptAt then c.preemptAt else c.waitFrom
    if s1.serving && decide (c.phase = .admitted) && s1.mayStart cmd c && (planeCmd c || decide (c.opcode = 0x07))
        && decide (s1.setting c.owner 0x0012 0 ≤ c.priority) && decide (s1.setting c.owner 0x0013 0 * 100 ≤ (now - from_).toNat) then
      match s1.chooseVictim cmd c with
      | some v => .next ((s1.setCmd cmd { c with preemptAt := now }).preempt v).advanceAll
      | none => .next s1
    else .next s1
  | none => .next s

end Sys2Proof.Machine
end

