-- ==== Sys2Proof/Machine/Dispatch.lean ====
section
/-! DEFINITION. One arm for each row of the command table: the meaning of the command at the front of the queue. -/

namespace Sys2Proof.Machine

/-- The effect of one command on everything but the queue. -/
def exec (i : Instr) (s : State) : Host.Outcome State Fault Refusal :=
  match i with
  | .tensorOp cmd => Sys2Proof.Machine.execTensorOp cmd s
  | .attend cmd => Sys2Proof.Machine.execAttend cmd s
  | .attendBuildSketches cmd => Sys2Proof.Machine.execAttendBuildSketches cmd s
  | .seqStepOpen cmd => Sys2Proof.Machine.execSeqStepOpen cmd s
  | .seqStepAppend cmd => Sys2Proof.Machine.execSeqStepAppend cmd s
  | .seqStepClose cmd => Sys2Proof.Machine.execSeqStepClose cmd s
  | .seqStepCancel cmd => Sys2Proof.Machine.execSeqStepCancel cmd s
  | .seqFork cmd => Sys2Proof.Machine.execSeqFork cmd s
  | .seqFree cmd => Sys2Proof.Machine.execSeqFree cmd s
  | .moveCopy cmd => Sys2Proof.Machine.execMoveCopy cmd s
  | .moveImport cmd => Sys2Proof.Machine.execMoveImport cmd s
  | .moveExport cmd => Sys2Proof.Machine.execMoveExport cmd s
  | .moveSeqExport cmd => Sys2Proof.Machine.execMoveSeqExport cmd s
  | .movePeerSend cmd => Sys2Proof.Machine.execMovePeerSend cmd s
  | .movePeerRecv cmd => Sys2Proof.Machine.execMovePeerRecv cmd s
  | .moveRetier cmd => Sys2Proof.Machine.execMoveRetier cmd s
  | .collectiveAllReduce cmd => Sys2Proof.Machine.execCollectiveAllReduce cmd s
  | .collectiveReduceScatter cmd => Sys2Proof.Machine.execCollectiveReduceScatter cmd s
  | .collectiveAllGather cmd => Sys2Proof.Machine.execCollectiveAllGather cmd s
  | .collectiveBroadcast cmd => Sys2Proof.Machine.execCollectiveBroadcast cmd s
  | .codecOpen cmd => Sys2Proof.Machine.execCodecOpen cmd s
  | .codecEncode cmd => Sys2Proof.Machine.execCodecEncode cmd s
  | .codecDecode cmd => Sys2Proof.Machine.execCodecDecode cmd s
  | .codecClose cmd => Sys2Proof.Machine.execCodecClose cmd s
  | .codecKeyReq cmd => Sys2Proof.Machine.execCodecKeyReq cmd s
  | .detectPost cmd => Sys2Proof.Machine.execDetectPost cmd s
  | .barrier cmd => Sys2Proof.Machine.execBarrier cmd s
  | .signalAdd cmd => Sys2Proof.Machine.execSignalAdd cmd s
  | .signalSet cmd => Sys2Proof.Machine.execSignalSet cmd s
  | .signalPoison cmd => Sys2Proof.Machine.execSignalPoison cmd s
  | .wait cmd => Sys2Proof.Machine.execWait cmd s
  | .abort cmd => Sys2Proof.Machine.execAbort cmd s
  | .routeLengthBucket cmd => Sys2Proof.Machine.execRouteLengthBucket cmd s
  | .routeExpertDispatch cmd => Sys2Proof.Machine.execRouteExpertDispatch cmd s
  | .routeLengthPack cmd => Sys2Proof.Machine.execRouteLengthPack cmd s
  | .routeExpertCombine cmd => Sys2Proof.Machine.execRouteExpertCombine cmd s
  | .seqRestoreUnpark cmd => Sys2Proof.Machine.execSeqRestoreUnpark cmd s
  | .seqRestoreImage cmd => Sys2Proof.Machine.execSeqRestoreImage cmd s
  | .partCreate cmd => Sys2Proof.Machine.execPartCreate cmd s
  | .partDestroy cmd => Sys2Proof.Machine.execPartDestroy cmd s
  | .ringCreate cmd => Sys2Proof.Machine.execRingCreate cmd s
  | .ringDestroy cmd => Sys2Proof.Machine.execRingDestroy cmd s
  | .planInstall cmd => Sys2Proof.Machine.execPlanInstall cmd s
  | .planRetire cmd => Sys2Proof.Machine.execPlanRetire cmd s
  | .tableLoad cmd => Sys2Proof.Machine.execTableLoad cmd s
  | .tableClear cmd => Sys2Proof.Machine.execTableClear cmd s
  | .objectRegister cmd => Sys2Proof.Machine.execObjectRegister cmd s
  | .objectRelease cmd => Sys2Proof.Machine.execObjectRelease cmd s
  | .modelLoad cmd => Sys2Proof.Machine.execModelLoad cmd s
  | .modelUnload cmd => Sys2Proof.Machine.execModelUnload cmd s
  | .alloyBind cmd => Sys2Proof.Machine.execAlloyBind cmd s
  | .alloyUnbind cmd => Sys2Proof.Machine.execAlloyUnbind cmd s
  | .powerSetPackageState cmd => Sys2Proof.Machine.execPowerSetPackageState cmd s
  | .powerSetArithPoint cmd => Sys2Proof.Machine.execPowerSetArithPoint cmd s
  | .powerSetGroupsOff cmd => Sys2Proof.Machine.execPowerSetGroupsOff cmd s
  | .powerSetGroupsOn cmd => Sys2Proof.Machine.execPowerSetGroupsOn cmd s
  | .powerSetGroupsCycle cmd => Sys2Proof.Machine.execPowerSetGroupsCycle cmd s
  | .colophon cmd => Sys2Proof.Machine.execColophon cmd s
  | .attest cmd => Sys2Proof.Machine.execAttest cmd s
  | .groupSet cmd => Sys2Proof.Machine.execGroupSet cmd s
  | .groupClear cmd => Sys2Proof.Machine.execGroupClear cmd s
  | .unitReturn cmd => Sys2Proof.Machine.execUnitReturn cmd s
  | .quotaSet cmd => Sys2Proof.Machine.execQuotaSet cmd s
  | .keyImportContent cmd => Sys2Proof.Machine.execKeyImportContent cmd s
  | .keySetPublisher cmd => Sys2Proof.Machine.execKeySetPublisher cmd s
  | .keyClearContent cmd => Sys2Proof.Machine.execKeyClearContent cmd s
  | .keyClearPublisher cmd => Sys2Proof.Machine.execKeyClearPublisher cmd s
  | .memMarginReadScan cmd => Sys2Proof.Machine.execMemMarginReadScan cmd s
  | .memMarginTiming cmd => Sys2Proof.Machine.execMemMarginTiming cmd s
  | .memMarginVoltage cmd => Sys2Proof.Machine.execMemMarginVoltage cmd s
  | .memMarginTimingVoltage cmd => Sys2Proof.Machine.execMemMarginTimingVoltage cmd s
  | .fwWrite stores => Sys2Proof.Machine.execFwWrite stores s
  | .fwActivate stores => Sys2Proof.Machine.execFwActivate stores s
  | .fwConfirm stores => Sys2Proof.Machine.execFwConfirm stores s
  | .fwStatus stores => Sys2Proof.Machine.execFwStatus stores s
  | .debugUnlock stores => Sys2Proof.Machine.execDebugUnlock stores s
  | .spdmGetVersion transport session req => Sys2Proof.Machine.execSpdmGetVersion transport session req s
  | .spdmGetCapabilities transport session req => Sys2Proof.Machine.execSpdmGetCapabilities transport session req s
  | .spdmNegotiateAlgorithms transport session req => Sys2Proof.Machine.execSpdmNegotiateAlgorithms transport session req s
  | .spdmGetDigests transport session req => Sys2Proof.Machine.execSpdmGetDigests transport session req s
  | .spdmGetCertificate transport session req => Sys2Proof.Machine.execSpdmGetCertificate transport session req s
  | .spdmChallenge transport session req => Sys2Proof.Machine.execSpdmChallenge transport session req s
  | .spdmGetMeasurements transport session req => Sys2Proof.Machine.execSpdmGetMeasurements transport session req s
  | .spdmKeyExchange transport session req => Sys2Proof.Machine.execSpdmKeyExchange transport session req s
  | .spdmFinish transport session req => Sys2Proof.Machine.execSpdmFinish transport session req s
  | .spdmKeyUpdate transport session req => Sys2Proof.Machine.execSpdmKeyUpdate transport session req s
  | .spdmHeartbeat transport session req => Sys2Proof.Machine.execSpdmHeartbeat transport session req s
  | .spdmEndSession transport session req => Sys2Proof.Machine.execSpdmEndSession transport session req s
  | .ideKmRequest session stream activate => Sys2Proof.Machine.execIdeKmRequest session stream activate s
  | .submissionTailDoorbell fn off width value stores => Sys2Proof.Machine.execSubmissionTailDoorbell fn off width value stores s
  | .resume fn off width value stores => Sys2Proof.Machine.execResume fn off width value stores s
  | .completionHeadDoorbell fn off width value => Sys2Proof.Machine.execCompletionHeadDoorbell fn off width value s
  | .arm fn off width value => Sys2Proof.Machine.execArm fn off width value s
  | .memMapCtrlWrite value => Sys2Proof.Machine.execMemMapCtrlWrite value s
  | .xlinkVcWeightWrite link value => Sys2Proof.Machine.execXlinkVcWeightWrite link value s
  | .xlinkSecWrite link value => Sys2Proof.Machine.execXlinkSecWrite link value s
  | .xlinkTestWrite link value => Sys2Proof.Machine.execXlinkTestWrite link value s
  | .partIdWrite value => Sys2Proof.Machine.execPartIdWrite value s
  | .errClearAll die => Sys2Proof.Machine.execErrClearAll die s
  | .errClearPendingOnly die slot => Sys2Proof.Machine.execErrClearPendingOnly die slot s
  | .errClearSlot die slot => Sys2Proof.Machine.execErrClearSlot die slot s
  | .errSummaryPendingClear mask => Sys2Proof.Machine.execErrSummaryPendingClear mask s
  | .discardToken => Sys2Proof.Machine.execDiscardToken s
  | .colophonReqGo value => Sys2Proof.Machine.execColophonReqGo value s
  | .packageAdminEnable value => Sys2Proof.Machine.execPackageAdminEnable value s
  | .packageAdminDisable value => Sys2Proof.Machine.execPackageAdminDisable value s
  | .snapCapture pf part kind index => Sys2Proof.Machine.execSnapCapture pf part kind index s
  | .snapCaptureClear pf part kind index => Sys2Proof.Machine.execSnapCaptureClear pf part kind index s
  | .vfErrPendingClear pf part mask => Sys2Proof.Machine.execVfErrPendingClear pf part mask s
  | .registerWrite fn off width value => Sys2Proof.Machine.execRegisterWrite fn off width value s
  | .bar0BadAccess fn off width isWrite value => Sys2Proof.Machine.execBar0BadAccess fn off width isWrite value s
  | .descriptorFetch owner ring => Sys2Proof.Machine.execDescriptorFetch owner ring s
  | .commandAdmit owner ring => Sys2Proof.Machine.execCommandAdmit owner ring s
  | .commandStart cmd => Sys2Proof.Machine.execCommandStart cmd s
  | .unitClaim cmd die quire plane => Sys2Proof.Machine.execUnitClaim cmd die quire plane s
  | .blockSelectionDone cmd qb => Sys2Proof.Machine.execBlockSelectionDone cmd qb s
  | .deltaScanDone cmd => Sys2Proof.Machine.execDeltaScanDone cmd s
  | .normScanDone cmd => Sys2Proof.Machine.execNormScanDone cmd s
  | .ingotArrival cmd operand ingot => Sys2Proof.Machine.execIngotArrival cmd operand ingot s
  | .t3FetchError cmd operand ingot => Sys2Proof.Machine.execT3FetchError cmd operand ingot s
  | .useDeadlineExpiry cmd tile operand ingot t => Sys2Proof.Machine.execUseDeadlineExpiry cmd tile operand ingot t s
  | .stallLimitExpiry cmd tile operand ingot t => Sys2Proof.Machine.execStallLimitExpiry cmd tile operand ingot t s
  | .tileComplete cmd tile quire residueOk => Sys2Proof.Machine.execTileComplete cmd tile quire residueOk s
  | .commandCommit cmd => Sys2Proof.Machine.execCommandCommit cmd s
  | .commitMessage die cmd => Sys2Proof.Machine.execCommitMessage die cmd s
  | .commitAck die cmd => Sys2Proof.Machine.execCommitAck die cmd s
  | .admittedDescriptorReceive die cmd => Sys2Proof.Machine.execAdmittedDescriptorReceive die cmd s
  | .seqReleaseComplete index => Sys2Proof.Machine.execSeqReleaseComplete index s
  | .preemptDelayExpiry cmd t => Sys2Proof.Machine.execPreemptDelayExpiry cmd t s
  | .preemptGraceExpiry cmd t => Sys2Proof.Machine.execPreemptGraceExpiry cmd t s
  | .waitTimeout cmd t => Sys2Proof.Machine.execWaitTimeout cmd t s
  | .modTimeExpiry owner cq t => Sys2Proof.Machine.execModTimeExpiry owner cq t s
  | .servedHalving die t => Sys2Proof.Machine.execServedHalving die t s
  | .regulatorRefill die t => Sys2Proof.Machine.execRegulatorRefill die t s
  | .segmentCountSend die cmd t => Sys2Proof.Machine.execSegmentCountSend die cmd t s
  | .segmentCountReceive dst src cmd count => Sys2Proof.Machine.execSegmentCountReceive dst src cmd count s
  | .farAccessRequest die kind unit gen addr isWrite data => Sys2Proof.Machine.execFarAccessRequest die kind unit gen addr isWrite data s
  | .atomicRequest die kind unit gen addr req width operand comparand => Sys2Proof.Machine.execAtomicRequest die kind unit gen addr req width operand comparand s
  | .lineAdd die line addends => Sys2Proof.Machine.execLineAdd die line addends s
  | .spineMessageReceive m => Sys2Proof.Machine.execSpineMessageReceive m s
  | .quireProbe die t => Sys2Proof.Machine.execQuireProbe die t s
  | .probeAnswer die phys gen => Sys2Proof.Machine.execProbeAnswer die phys gen s
  | .spineHeartbeatSend die far t => Sys2Proof.Machine.execSpineHeartbeatSend die far t s
  | .spineHeartbeatReceive die far gen => Sys2Proof.Machine.execSpineHeartbeatReceive die far gen s
  | .heartbeatMiss die kind unit t => Sys2Proof.Machine.execHeartbeatMiss die kind unit t s
  | .fenceAcksComplete die kind unit => Sys2Proof.Machine.execFenceAcksComplete die kind unit s
  | .selfTestDone cmd verdict => Sys2Proof.Machine.execSelfTestDone cmd verdict s
  | .laneRemap a b dir lane => Sys2Proof.Machine.execLaneRemap a b dir lane s
  | .spineRetrainDone a b => Sys2Proof.Machine.execSpineRetrainDone a b s
  | .linkDataFrame link vc seqNo crcOk payload => Sys2Proof.Machine.execLinkDataFrame link vc seqNo crcOk payload s
  | .linkControlFrame link seqNo crcOk credits ack => Sys2Proof.Machine.execLinkControlFrame link seqNo crcOk credits ack s
  | .linkNak link seqNo credits ack => Sys2Proof.Machine.execLinkNak link seqNo credits ack s
  | .linkControlTimer link t => Sys2Proof.Machine.execLinkControlTimer link t s
  | .linkRetrainDone link => Sys2Proof.Machine.execLinkRetrainDone link s
  | .linkRetrainTimeout link t => Sys2Proof.Machine.execLinkRetrainTimeout link t s
  | .linkTrainingRetry link ok t => Sys2Proof.Machine.execLinkTrainingRetry link ok t s
  | .linkSessionLimit link => Sys2Proof.Machine.execLinkSessionLimit link s
  | .hello link m => Sys2Proof.Machine.execHello link m s
  | .fprint link m => Sys2Proof.Machine.execFprint link m s
  | .grant link m => Sys2Proof.Machine.execGrant link m s
  | .contrib link m => Sys2Proof.Machine.execContrib link m s
  | .result link m => Sys2Proof.Machine.execResult link m s
  | .done link m => Sys2Proof.Machine.execDone link m s
  | .collAbort link m => Sys2Proof.Machine.execCollAbort link m s
  | .collAbortFinal link m => Sys2Proof.Machine.execCollAbortFinal link m s
  | .collTimeout cmd t => Sys2Proof.Machine.execCollTimeout cmd t s
  | .messageForward link m => Sys2Proof.Machine.execMessageForward link m s
  | .messageDrop link vc m => Sys2Proof.Machine.execMessageDrop link vc m s
  | .peerReady link m => Sys2Proof.Machine.execPeerReady link m s
  | .peerData link m => Sys2Proof.Machine.execPeerData link m s
  | .peerDone link m => Sys2Proof.Machine.execPeerDone link m s
  | .peerAbort link m => Sys2Proof.Machine.execPeerAbort link m s
  | .peerTimeout cmd t => Sys2Proof.Machine.execPeerTimeout cmd t s
  | .relayReady link m => Sys2Proof.Machine.execRelayReady link m s
  | .relayManifest link m => Sys2Proof.Machine.execRelayManifest link m s
  | .relayShard link m => Sys2Proof.Machine.execRelayShard link m s
  | .relayAck link m => Sys2Proof.Machine.execRelayAck link m s
  | .relayNak link m => Sys2Proof.Machine.execRelayNak link m s
  | .relayAbort link m => Sys2Proof.Machine.execRelayAbort link m s
  | .shardVerified cmd shard => Sys2Proof.Machine.execShardVerified cmd shard s
  | .shardMissingTimeout cmd shard t => Sys2Proof.Machine.execShardMissingTimeout cmd shard t s
  | .relayManifestTimeout cmd t => Sys2Proof.Machine.execRelayManifestTimeout cmd t s
  | .downstreamTimeout cmd t => Sys2Proof.Machine.execDownstreamTimeout cmd t s
  | .codecFrameBoundary die => Sys2Proof.Machine.execCodecFrameBoundary die s
  | .errorReport rep => Sys2Proof.Machine.execErrorReport rep s
  | .errorDeferredNotify die slot t => Sys2Proof.Machine.execErrorDeferredNotify die slot t s
  | .patrolScrub stack line outcome holds => Sys2Proof.Machine.execPatrolScrub stack line outcome holds s
  | .repairRecordAdd typ die macroId address => Sys2Proof.Machine.execRepairRecordAdd typ die macroId address s
  | .t3WriteBack part handle ingot => Sys2Proof.Machine.execT3WriteBack part handle ingot s
  | .clampUpdate die reading t => Sys2Proof.Machine.execClampUpdate die reading t s
  | .stackTempReport stack temp t => Sys2Proof.Machine.execStackTempReport stack temp t s
  | .protectiveTrip isStack unit temp => Sys2Proof.Machine.execProtectiveTrip isStack unit temp s
  | .ioutCalibration die iout sensed t => Sys2Proof.Machine.execIoutCalibration die iout sensed t s
  | .telemetryRefresh reading t => Sys2Proof.Machine.execTelemetryRefresh reading t s
  | .railPoll mw t => Sys2Proof.Machine.execRailPoll mw t s
  | .pmbAlert kind die rail => Sys2Proof.Machine.execPmbAlert kind die rail s
  | .apSettleDone die => Sys2Proof.Machine.execApSettleDone die s
  | .groupsCycleOnTimer t => Sys2Proof.Machine.execGroupsCycleOnTimer t s
  | .quireGroupReady group t => Sys2Proof.Machine.execQuireGroupReady group t s
  | .colophonCaptureDone => Sys2Proof.Machine.execColophonCaptureDone s
  | .colophonFatalTimeout t => Sys2Proof.Machine.execColophonFatalTimeout t s
  | .snapCaptureDone pf part => Sys2Proof.Machine.execSnapCaptureDone pf part s
  | .mailboxCommandDone dmaOk => Sys2Proof.Machine.execMailboxCommandDone dmaOk s
  | .ideStreamInsecure stream => Sys2Proof.Machine.execIdeStreamInsecure stream s
  | .v1p8AuxApplied => Sys2Proof.Machine.execV1p8AuxApplied s
  | .v1p8AuxRemoved => Sys2Proof.Machine.execV1p8AuxRemoved s
  | .pkgRstNAssert => Sys2Proof.Machine.execPkgRstNAssert s
  | .himonReady => Sys2Proof.Machine.execHimonReady s
  | .himonWatchdogExpiry t => Sys2Proof.Machine.execHimonWatchdogExpiry t s
  | .pwrGoodLoss => Sys2Proof.Machine.execPwrGoodLoss s
  | .perstNAssert => Sys2Proof.Machine.execPerstNAssert s
  | .perstNRelease => Sys2Proof.Machine.execPerstNRelease s
  | .pfFlr => Sys2Proof.Machine.execPfFlr s
  | .vfFlr vf => Sys2Proof.Machine.execVfFlr vf s
  | .pkgRstNRelease => Sys2Proof.Machine.execPkgRstNRelease s
  | .pwrGoodAssert => Sys2Proof.Machine.execPwrGoodAssert s
  | .spineFlitCrcError a b dir lane t => Sys2Proof.Machine.execSpineFlitCrcError a b dir lane t s
  | .uncorrectableCodeword link => Sys2Proof.Machine.execUncorrectableCodeword link s
  | .linkKeyExchange link peerEnabled chainOk peerSvn peerUnlocked => Sys2Proof.Machine.execLinkKeyExchange link peerEnabled chainOk peerSvn peerUnlocked s
  | .pllLossOfLock die => Sys2Proof.Machine.execPllLossOfLock die s
  | .himonFailure die => Sys2Proof.Machine.execHimonFailure die s
  | .msixUnmask fn vec => Sys2Proof.Machine.execMsixUnmask fn vec s
  | .atsInvalidationRequest fn page size => Sys2Proof.Machine.execAtsInvalidationRequest fn page size s
  | .jtagInstruction boundary => Sys2Proof.Machine.execJtagInstruction boundary s

end Sys2Proof.Machine
end

