-- ==== Sys2Proof/Safety.lean ====
section
/-! DEFINITION. What a well-formed state keeps, when a command of a ring can run, and what one command may change: the terms the statements use. -/

namespace Sys2Proof.Machine

/-- Host memory, as DMA sees it, and the listed bytes of every HBM stack are canonical: addresses rise strictly and no listed byte is zero. -/
def State.memOk (s : State) : Prop :=
  Mem.wf s.host = true ∧ ∀ x ∈ s.hbm, Mem.wf x.lines = true

/-- The part has its shape: eight dies with their counters, concentrators, frames, trees, pools, engines, links and power states, twenty-four stacks, and on every die 100 physical quires of twelve accumulator tiles serving 96 logical ids, each with its store (Table 0-1, R12, R124, R322). -/
def State.shapeOk (s : State) : Prop :=
  s.counters.length = 8 ∧ s.dies.length = 8 ∧ s.links.length = 8 ∧ s.hbm.length = 24 ∧ s.frames.length = 8 ∧ s.engines.length = 8
    ∧ s.power.dies.length = 8 ∧ s.errs.length = 8 ∧ s.pool.length = 8 ∧ s.trees.length = 8
    ∧ ∀ d ∈ s.dies, d.quires.length = 100 ∧ d.logical.length = 96 ∧ d.stores.length = 96 ∧ ∀ q ∈ d.quires, q.tiles.length = 12

/-- Command `id` is admitted with opcode `op`, has not reached its decision point, and may run: the part serves and no insecure IDE stream stops the DMA it needs (R453, R502, R545). -/
abbrev Live (s : State) (id op : Nat) (c : Cmd) : Prop :=
  s.serving = true ∧ s.cmd? id = some c ∧ c.opcode = op ∧ c.uncommitted = true ∧ s.ideStop c = none

/-- An external link is up and able to carry frames. -/
abbrev LinkServes (s : State) (link : Nat) : Prop := link < 8 ∧ (s.linkAt link).flows = true

/-- Host memory is as it was but for the slots of dirty ingots and chunks of T3-home objects, which a T2 cache may write back at any time (R358). -/
abbrev HostKept (s t : State) : Prop :=
  ∀ a, (∀ x ∈ s.objects, ∀ n ∈ x.2.dirty, a < x.2.hostSlot (slotIn x.2.vmap n) n ∨ x.2.hostSlot (slotIn x.2.vmap n) n + x.2.slot ≤ a) →
    Mem.read t.host a = Mem.read s.host a

/-- Command `id` stands at its decision point with its descriptor, owner and completion ring; no record is written and no ring has changed for it. -/
abbrev Stands (s t : State) (id : Nat) (c d : Cmd) : Prop :=
  t.cmd? id = some d ∧ d.phase = .ready ∧ d.desc = c.desc ∧ d.owner = c.owner ∧ d.cq = c.cq ∧ t.comps = s.comps

/-- A collective message on a serving link reaches this part's uncommitted member, which runs the message's attempt (R401, R412). -/
abbrev MemberRuns (s : State) (link : Nat) (m : Msg) (id : Nat) (c : Cmd) (k : Coll) (g : Group) : Prop :=
  LinkServes s link ∧ NMap.get? s.groups m.group = some g ∧ m.dstRank = g.rank ∧ s.collFor m = some (id, c) ∧ s.cmd? id = some c
    ∧ c.coll = some k ∧ c.phase = .started ∧ m.attempt = k.attempt

/-- Every object keeps its active version and its commit count: what a command has written shows to nobody before its commit (R59). -/
abbrev VersionsKept (s t : State) : Prop :=
  ∀ k o, NMap.get? s.objects k = some o → ∃ o1, NMap.get? t.objects k = some o1 ∧ o1.vmap = o.vmap ∧ o1.commits = o.commits

/-- What of a die outlasts its caches: its fence, its quires and their generations, its logical ids, its staging and its disabled ways, without the contents of the shared cache, the quire stores and the accumulator tiles. -/
def DieState.lasting (x : DieState) : DieState :=
  { x with stores := [], cache := [], plru := [], quires := x.quires.map (fun (q : Quire) => { q with tiles := [] }) }

/-- The dies agree but for what their caches, stores and accumulator tiles hold. -/
abbrev SameDies (s t : State) : Prop := t.dies.map DieState.lasting = s.dies.map DieState.lasting

/-- The dies agree in their units: what is fenced, failed, disabled and numbered, whatever their caches, stores, accumulator tiles and collective staging hold. -/
abbrev SameUnits (s t : State) : Prop :=
  t.dies.map (fun x => { x.lasting with staging := [] }) = s.dies.map (fun x => { x.lasting with staging := [] })

/-- The stacks agree but for which of their lines are marked poisoned: a page or frame that is freed takes its marks with it (R338). -/
abbrev SameStacks (s t : State) : Prop := t.hbm.map (fun x => { x with poison := [] }) = s.hbm.map (fun x => { x with poison := [] })

/-- A partition without what metering changes: its regulators' buckets (R456). -/
def Part.unmetered (p : Part) : Part := { p with buckets := [] }

/-- The partitions agree but for their regulators' buckets. -/
abbrev SameParts (s t : State) : Prop := t.parts.map (fun x => (x.1, x.2.unmetered)) = s.parts.map (fun x => (x.1, x.2.unmetered))

/-- What an access to a memory line may change beside the line: the shared caches and staged copies, the queues and buckets it is metered by, and the spine or the unit that its answer goes to. -/
abbrev OnlyLines (s t : State) : Prop :=
  t = { s with hbm := t.hbm, objects := t.objects, frames := t.frames, dies := t.dies, queues := t.queues, parts := t.parts, streams := t.streams, spine := t.spine,
               spineOut := t.spineOut, unitOut := t.unitOut }
    ∧ SameDies s t ∧ SameParts s t

/-- No byte of memory differs but the `n` at native address `x`: those of the object whose pages lie there, else of the Bindery frame, else of the stack (R274, R324, R353). -/
abbrev OnlyBytesAt (s t : State) (x n : Nat) : Prop :=
  (s.backing x = none → s.frameOf? x = none → t.objects = s.objects ∧ t.frames = s.frames ∧ (∀ h, h ≠ x / 2 ^ 36 → t.stackAt h = s.stackAt h)
    ∧ ∀ a, a < x % 2 ^ 36 ∨ x % 2 ^ 36 + n ≤ a → Mem.read (t.stackAt (x / 2 ^ 36)).lines a = Mem.read (s.stackAt (x / 2 ^ 36)).lines a)
  ∧ (∀ d k off f, s.backing x = none → s.frameOf? x = some ((d, k, off), f) → t.objects = s.objects ∧ t.hbm = s.hbm
    ∧ (∀ e j, e ≠ d ∨ j ≠ k → NMap.get? (t.framesOf e) j = NMap.get? (s.framesOf e) j)
    ∧ ∃ f1, NMap.get? (t.framesOf d) k = some f1 ∧ f1 = { f with body := f1.body, margin := f1.margin, poison := f1.poison }
      ∧ (∀ a, a < off ∨ off + n ≤ a → Mem.read f1.body a = Mem.read f.body a)
      ∧ ∀ a, a + 131072 < off ∨ off + n ≤ a + 131072 → Mem.read f1.margin a = Mem.read f.margin a)
  ∧ (∀ k v off, s.backing x = some (k, v, off) → t.hbm = s.hbm ∧ t.frames = s.frames ∧ (∀ j, j ≠ k → NMap.get? t.objects j = NMap.get? s.objects j)
    ∧ ∀ o, NMap.get? s.objects k = some o → ∃ o1, NMap.get? t.objects k = some o1 ∧ o1 = { o with mem0 := o1.mem0, mem1 := o1.mem1, poison := o1.poison }
      ∧ (v = 0 → o1.mem1 = o.mem1) ∧ (v ≠ 0 → o1.mem0 = o.mem0) ∧ ∀ a, a < off ∨ off + n ≤ a → Mem.read (o1.mem v) a = Mem.read (o.mem v) a)

/-- A message is sent on its spine stream: it takes the stream's next number and is kept until acknowledged (R377). -/
abbrev SentMsg (s t : State) (m : SpineMsg) : Prop :=
  NMap.get? t.streams (streamKey m.src m.dst m.channel) = some (let x := NMap.getD s.streams (streamKey m.src m.dst m.channel) {}
    { x with nextSend := x.nextSend + 1, unacked := x.unacked ++ [{ m with seqNo := x.nextSend }] })

/-- A message with no unit of its own is sent on a spine stream. -/
abbrev SentOnSpine (s t : State) (src dst ch : Nat) (payload : Bytes) : Prop := SentMsg s t { src := src, dst := dst, channel := ch, payload := payload }

/-- The number a message to another die carries is the one its stream expects; within a die there is none (R377). -/
abbrev InTurn (s : State) (src dst ch : Nat) (n : BitVec 32) : Prop := src ≠ dst → n = (NMap.getD s.streams (streamKey src dst ch) {}).expect

/-- A numbered message has been taken from its stream, and no other stream has moved; within a die none has (R377). -/
abbrev NumberTaken (s t : State) (src dst ch : Nat) : Prop :=
  (src ≠ dst → (NMap.getD t.streams (streamKey src dst ch) {}).expect = (NMap.getD s.streams (streamKey src dst ch) {}).expect + 1)
    ∧ ∀ k, src = dst ∨ k ≠ streamKey src dst ch → NMap.get? t.streams k = NMap.get? s.streams k

/-- Two states agree on the package itself: its boot, resets and fatal state, its memory map, stacks and repairs, the units of its dies, the fences of its spine, the package admin registers, the flash, the security core and what that has sent (what no command of a ring changes). -/
abbrev SameDevice (s t : State) : Prop :=
  t.pending = s.pending ∧ t.boot = s.boot ∧ t.resetCause = s.resetCause ∧ t.warmResets = s.warmResets ∧ t.fatal = s.fatal ∧ t.half = s.half ∧ t.admin = s.admin
    ∧ t.mitusEn = s.mitusEn ∧ t.nearGib = s.nearGib ∧ SameStacks s t ∧ t.hbmRate = s.hbmRate ∧ t.repaired = s.repaired ∧ SameUnits s t
    ∧ (∀ a b, (t.spineAt a b).fenced = (s.spineAt a b).fenced ∧ (t.spineAt a b).gen = (s.spineAt a b).gen)
    ∧ t.partId = s.partId ∧ t.flash = s.flash ∧ t.sec = s.sec ∧ t.serial = s.serial ∧ t.spdmOut = s.spdmOut ∧ t.keyOut = s.keyOut ∧ t.ceLog2 = s.ceLog2

/-- The commands that reset the package, its rings or its functions, move it between package states or finish its boot. -/
def Instr.resets : Instr → Bool
  | .v1p8AuxApplied .. | .v1p8AuxRemoved .. | .pkgRstNAssert .. | .pkgRstNRelease .. | .himonWatchdogExpiry .. | .pwrGoodLoss .. | .pwrGoodAssert .. | .perstNAssert .. | .perstNRelease .. | .pfFlr .. | .powerSetPackageState .. | .himonReady .. => true
  | _ => false

end Sys2Proof.Machine
end

