-- ==== Sys2Proof/Certificates/Slice0/Obligations.lean ====
section
/-! DEFINITION. The statements for the provers. -/

open Sys2Proof Sys2Proof.Machine

/-- The step runs the command at the front of the queue, with the queue's rest. The model's own convention (log entry 1). -/
def Obligations.StepRunsFrontCommand : Prop :=
  ∀ (s : State) (c : Instr) (rest : List Instr), s.pending = c :: rest →
    Sys2Proof.Machine.step s = Sys2Proof.Machine.exec c { s with pending := rest }

/-- An empty queue lets one 10 ns tick pass on every die's counter and leaves the queue empty, host memory, the registered objects, the rings and the error records as they are (R26; that a tick passes then is the model's choice, log entry 1). -/
def Obligations.EmptyQueueTicks : Prop :=
  ∀ s : State, s.pending = [] → s.pins.aux = true → s.pins.pkgRst = false → ∃ t, Sys2Proof.Machine.step s = .next t ∧ t.pending = []
    ∧ t.counters = s.counters.map (· + 1) ∧ t.host = s.host ∧ t.objects = s.objects ∧ t.subs = s.subs ∧ t.comps = s.comps ∧ t.errs = s.errs

/-- What reset leaves: every counter 0, no ring, partition, object, sequence, model or error record, every map empty, the part held in reset with cause 0x00, not fatal (R525, R320, R325); that reset is taken right after V1P8_AUX, with the part held, is the model's choice (log entry 3). -/
def Obligations.ResetLeaves : Prop :=
  (∀ d, State.reset.counter d = 0) ∧ State.reset.subs = [] ∧ State.reset.comps = [] ∧ State.reset.parts = [] ∧ State.reset.objects = []
    ∧ State.reset.models = [] ∧ State.reset.errs = List.replicate 8 [] ∧ State.reset.boot = .held ∧ State.reset.resetCause = 0
    ∧ State.reset.fatal = false ∧ State.reset.warmResets = 0 ∧ State.reset.mitusEn = false ∧ State.reset.ceLog2 = 0x0C
    ∧ (∀ i, (State.reset.seqs).length = 0 ∧ (State.reset.seqAt i).state = .free) ∧ State.reset.pending = []

/-- The state after reset meets the two invariants: memory is canonical (the model's representation, log entry 2) and the part has its shape (Table 0-1). -/
def Obligations.ResetMeetsInvariants : Prop :=
  (State.reset.memOk)
  ∧ (State.reset.shapeOk)

/-- Every step keeps host memory and every HBM stack's lines in canonical form. -/
def Obligations.StepKeepsMemoryCanonical : Prop :=
  ∀ s t : State, s.memOk → Sys2Proof.Machine.step s = .next t → t.memOk

/-- Every step keeps the part's shape: eight dies, eight counters, eight links, twenty-four stacks, and on every die a hundred quires of twelve accumulator tiles, 96 logical ids and 96 quire stores. -/
def Obligations.StepKeepsShape : Prop :=
  ∀ s t : State, s.shapeOk → Sys2Proof.Machine.step s = .next t → t.shapeOk

/-- No command is refused, and the machine stops only at a FAR_ACCESS_REQUEST or ATOMIC_REQUEST that no fence port drops, at a device address outside the populated windows (R324); there it does stop. -/
def Obligations.OnlyUnpopulatedAddressesStop : Prop :=
  (∀ (c : Instr) (s : State) (r : Refusal), Sys2Proof.Machine.exec c s ≠ .refused r)
  ∧ ((∀ (c : Instr) (s : State) (f : Fault), Sys2Proof.Machine.exec c s = .fault f →
    (∃ die kind unit gen addr w b, c = .farAccessRequest die kind unit gen addr w b ∧ s.drops die kind unit gen.gen = false ∧ s.native die addr = none)
    ∨ (∃ die kind unit gen addr op width x y, c = .atomicRequest die kind unit gen addr op width x y ∧ s.drops die kind unit gen.gen = false ∧ s.native die addr = none))
  ∧ (∀ (s : State) (die kind unit addr : Nat) (gen : Stamp) (w : Bool) (b : Bytes), s.drops die kind unit gen.gen = false → s.native die addr = none →
    Sys2Proof.Machine.exec (.farAccessRequest die kind unit gen addr w b) s = .fault .unpopulatedAddress)
  ∧ (∀ (s : State) (die kind unit addr : Nat) (gen : Stamp) (op : AtomicReq) (width x y : Nat), s.drops die kind unit gen.gen = false → s.native die addr = none →
    Sys2Proof.Machine.exec (.atomicRequest die kind unit gen addr op width x y) s = .fault .unpopulatedAddress))

/-- Only the named commands change each of these parts of the state, resets aside: the tables, groups, models, alloys, steps and prefix trees; the memory map and the stacks, the units of the dies, and the fences of the spine; the fatal state, the package flash and the security core, the package admin registers and the power record. No command at all changes the queue or the serial number, and none that is no reset changes the reset cause or the count of warm resets. -/
def Obligations.OnlyTheseChange : Prop :=
  ∀ (c : Instr) (s t : State), Sys2Proof.Machine.exec c s = .next t → t.pending = s.pending ∧ t.serial = s.serial ∧ (Instr.resets c = false →
    (match c with | .stackTempReport .. | .protectiveTrip .. => True | _ => t.boot = s.boot)
    ∧ t.resetCause = s.resetCause
    ∧ t.warmResets = s.warmResets
    ∧ (match c with | .heartbeatMiss .. | .laneRemap .. | .errorReport .. | .spineFlitCrcError .. | .pllLossOfLock .. | .himonFailure .. => True | _ => t.fatal = s.fatal)
    ∧ (match c with | .registerWrite .. => True | _ => t.half = s.half)
    ∧ (match c with | .packageAdminEnable .. | .packageAdminDisable .. | .registerWrite .. => True | _ => t.admin = s.admin)
    ∧ (match c with | .abort .. | .commandAdmit .. => True | _ => t.nextCmd = s.nextCmd)
    ∧ (match c with | .partCreate .. | .partDestroy .. | .tableLoad .. | .tableClear .. => True | _ => t.tables = s.tables)
    ∧ (match c with | .quotaSet .. => True | _ => t.pool = s.pool)
    ∧ (match c with | .partCreate .. | .partDestroy .. | .commandCommit .. => True | _ => t.steps = s.steps)
    ∧ (match c with | .commandCommit .. => True | _ => t.trees = s.trees)
    ∧ (match c with | .memMapCtrlWrite .. | .registerWrite .. => True | _ => t.mitusEn = s.mitusEn)
    ∧ (match c with | .memMapCtrlWrite .. | .registerWrite .. => True | _ => t.nearGib = s.nearGib)
    ∧ t.hbmRate = s.hbmRate
    ∧ t.repaired = s.repaired
    ∧ (match c with | .linkDataFrame .. | .linkControlFrame .. | .linkNak .. | .linkControlTimer .. | .linkRetrainDone .. => True | _ => t.frameOut = s.frameOut)
    ∧ (match c with | .partIdWrite .. | .registerWrite .. => True | _ => t.partId = s.partId)
    ∧ (match c with | .partDestroy .. | .groupSet .. | .groupClear .. => True | _ => t.groups = s.groups)
    ∧ (match c with | .collectiveAllReduce .. | .collectiveReduceScatter .. | .collectiveAllGather .. | .collectiveBroadcast .. | .partDestroy .. | .groupClear .. | .commandStart .. | .fprint .. => True | _ => t.fprintWait = s.fprintWait)
    ∧ (match c with | .partDestroy .. | .modelUnload .. | .commandCommit .. => True | _ => t.models = s.models)
    ∧ (match c with | .partCreate .. | .partDestroy .. | .alloyBind .. | .alloyUnbind .. => True | _ => t.alloys = s.alloys)
    ∧ (match c with | .discardToken .. | .registerWrite .. | .repairRecordAdd .. | .mailboxCommandDone .. => True | _ => t.flash = s.flash)
    ∧ (match c with | .fwWrite .. | .fwActivate .. | .fwConfirm .. | .fwStatus .. | .debugUnlock .. | .spdmKeyExchange .. | .spdmFinish .. | .spdmKeyUpdate .. | .spdmHeartbeat .. | .spdmEndSession .. | .ideKmRequest .. | .registerWrite .. | .mailboxCommandDone .. | .ideStreamInsecure .. | .jtagInstruction .. => True | _ => t.sec = s.sec)
    ∧ (match c with | .spdmGetVersion .. | .spdmGetCapabilities .. | .spdmNegotiateAlgorithms .. | .spdmGetDigests .. | .spdmGetCertificate .. | .spdmChallenge .. | .spdmGetMeasurements .. | .spdmKeyExchange .. | .spdmFinish .. | .spdmKeyUpdate .. | .spdmHeartbeat .. | .spdmEndSession .. => True | _ => t.spdmOut = s.spdmOut)
    ∧ (match c with | .hello .. => True | _ => t.keyOut = s.keyOut)
    ∧ (match c with | .powerSetArithPoint .. | .powerSetGroupsOff .. | .powerSetGroupsOn .. | .powerSetGroupsCycle .. | .registerWrite .. | .clampUpdate .. | .ioutCalibration .. | .telemetryRefresh .. | .railPoll .. | .pmbAlert .. | .apSettleDone .. | .groupsCycleOnTimer .. | .quireGroupReady .. => True | _ => t.power = s.power)
    ∧ (match c with | .registerWrite .. => True | _ => t.ceLog2 = s.ceLog2)
    ∧ (match c with | .partDestroy .. | .colophon .. | .colophonReqGo .. | .registerWrite .. | .colophonCaptureDone .. | .colophonFatalTimeout .. => True | _ => t.colo = s.colo)
    ∧ (match c with | .farAccessRequest .. | .atomicRequest .. | .patrolScrub .. | .stackTempReport .. => True | _ => SameStacks s t)
    ∧ (match c with | .quireProbe .. | .probeAnswer .. | .fenceAcksComplete .. | .heartbeatMiss .. | .selfTestDone .. | .laneRemap .. | .errorReport .. | .spineFlitCrcError .. | .pllLossOfLock .. | .himonFailure .. => True | _ => SameUnits s t)
    ∧ (match c with | .heartbeatMiss .. | .selfTestDone .. | .laneRemap .. | .spineFlitCrcError .. | .pllLossOfLock .. | .himonFailure .. => True | _ => (∀ a b, (t.spineAt a b).fenced = (s.spineAt a b).fenced ∧ (t.spineAt a b).gen = (s.spineAt a b).gen)))

/-- The frame of the commands that come from the host, the board, the security core and the registers, and complete at once: each leaves every field of the state as it is but those named, host memory by the bytes its own statement gives. -/
def Obligations.RegisterAndSecurityFrames : Prop :=
  (∀ (s t : State) (cmd : Nat), ∀ q ∈ [Instr.barrier cmd, Instr.signalAdd cmd, Instr.signalSet cmd, Instr.signalPoison cmd, Instr.wait cmd],
      Sys2Proof.Machine.exec q s = .next t → t = { s with host := t.host, msix := t.msix, msixOut := t.msixOut, atc := t.atc, dma := t.dma, stalled := t.stalled, lastDma := t.lastDma, subs := t.subs, comps := t.comps, fences := t.fences, cmds := t.cmds, parts := t.parts })
  ∧ (∀ (s t : State) (stores : List Host.Cell), ∀ q ∈ [Instr.fwWrite stores, Instr.fwActivate stores, Instr.fwConfirm stores, Instr.fwStatus stores, Instr.debugUnlock stores],
      Sys2Proof.Machine.exec q s = .next t → t = { s with host := t.host, sec := t.sec })
  ∧ (∀ (s t : State) (transport session : Nat) (req : Bytes), ∀ q ∈ [Instr.spdmGetVersion transport session req, Instr.spdmGetCapabilities transport session req, Instr.spdmNegotiateAlgorithms transport session req, Instr.spdmGetDigests transport session req, Instr.spdmGetCertificate transport session req, Instr.spdmChallenge transport session req, Instr.spdmGetMeasurements transport session req],
      Sys2Proof.Machine.exec q s = .next t → t = { s with spdmOut := t.spdmOut })
  ∧ (∀ (s t : State) (transport session : Nat) (req : Bytes), ∀ q ∈ [Instr.spdmKeyExchange transport session req, Instr.spdmFinish transport session req, Instr.spdmKeyUpdate transport session req, Instr.spdmHeartbeat transport session req, Instr.spdmEndSession transport session req],
      Sys2Proof.Machine.exec q s = .next t → t = { s with sec := t.sec, spdmOut := t.spdmOut })
  ∧ (∀ (s t : State) (session stream : Nat) (activate : Bool), Sys2Proof.Machine.exec (Instr.ideKmRequest session stream activate) s = .next t → t = { s with fresh := t.fresh, host := t.host, atc := t.atc, dma := t.dma, stalled := t.stalled, lastDma := t.lastDma, sec := t.sec })
  ∧ (∀ (s t : State) (fn off width value : Nat) (stores : List Host.Cell), ∀ q ∈ [Instr.submissionTailDoorbell fn off width value stores, Instr.resume fn off width value stores],
      Sys2Proof.Machine.exec q s = .next t → t = { s with pins := t.pins, host := t.host, msix := t.msix, msixOut := t.msixOut, subs := t.subs, windows := t.windows, pldmOut := t.pldmOut, errs := t.errs, dropped := t.dropped })
  ∧ (∀ (s t : State) (fn off width value : Nat), ∀ q ∈ [Instr.completionHeadDoorbell fn off width value, Instr.arm fn off width value],
      Sys2Proof.Machine.exec q s = .next t → t = { s with pins := t.pins, msix := t.msix, msixOut := t.msixOut, comps := t.comps, windows := t.windows, pldmOut := t.pldmOut, errs := t.errs, dropped := t.dropped })
  ∧ (∀ (s t : State) (value : Nat), Sys2Proof.Machine.exec (Instr.memMapCtrlWrite value) s = .next t → t = { s with pins := t.pins, msix := t.msix, msixOut := t.msixOut, windows := t.windows, mitusEn := t.mitusEn, nearGib := t.nearGib, pldmOut := t.pldmOut, errs := t.errs, dropped := t.dropped })
  ∧ (∀ (s t : State) (link value : Nat), ∀ q ∈ [Instr.xlinkVcWeightWrite link value, Instr.xlinkSecWrite link value, Instr.linkSessionLimit link, Instr.uncorrectableCodeword link],
      Sys2Proof.Machine.exec q s = .next t → t = { s with links := t.links })
  ∧ (∀ (s t : State) (value : Nat), Sys2Proof.Machine.exec (Instr.partIdWrite value) s = .next t → t = { s with pins := t.pins, msix := t.msix, msixOut := t.msixOut, windows := t.windows, linkOut := t.linkOut, partId := t.partId, pldmOut := t.pldmOut, errs := t.errs, dropped := t.dropped })
  ∧ (∀ (s t : State) (die slot mask : Nat), ∀ q ∈ [Instr.errClearAll die, Instr.errClearPendingOnly die slot, Instr.errClearSlot die slot, Instr.errSummaryPendingClear mask],
      Sys2Proof.Machine.exec q s = .next t → t = { s with pins := t.pins, errs := t.errs })
  ∧ (∀ (s t : State) (typ die macroId address : Nat), ∀ q ∈ [Instr.discardToken, Instr.repairRecordAdd typ die macroId address],
      Sys2Proof.Machine.exec q s = .next t → t = { s with flash := t.flash })
  ∧ (∀ (s t : State) (value : Nat), Sys2Proof.Machine.exec (Instr.colophonReqGo value) s = .next t → t = { s with colo := t.colo })
  ∧ (∀ (s t : State) (value : Nat), Sys2Proof.Machine.exec (Instr.packageAdminEnable value) s = .next t → t = { s with pins := t.pins, msix := t.msix, msixOut := t.msixOut, admin := t.admin, subs := t.subs, comps := t.comps, windows := t.windows, pldmOut := t.pldmOut, errs := t.errs, dropped := t.dropped })
  ∧ (∀ (s t : State) (value : Nat), Sys2Proof.Machine.exec (Instr.packageAdminDisable value) s = .next t → t = { s with admin := t.admin, subs := t.subs })
  ∧ (∀ (s t : State) (pf : Bool) (part kind index mask : Nat), ∀ q ∈ [Instr.snapCapture pf part kind index, Instr.snapCaptureClear pf part kind index, Instr.vfErrPendingClear pf part mask],
      Sys2Proof.Machine.exec q s = .next t → t = { s with windows := t.windows })
  ∧ (∀ (s t : State) (fn off width value : Nat) (isWrite : Bool), Sys2Proof.Machine.exec (Instr.bar0BadAccess fn off width isWrite value) s = .next t → t = { s with pins := t.pins, msix := t.msix, msixOut := t.msixOut, windows := t.windows, pldmOut := t.pldmOut, errs := t.errs, dropped := t.dropped })
  ∧ (∀ (s t : State) (pf : Bool) (part : Nat), Sys2Proof.Machine.exec (Instr.snapCaptureDone pf part) s = .next t → t = { s with subs := t.subs, parts := t.parts, windows := t.windows, tempers := t.tempers })
  ∧ (∀ (s t : State) (dmaOk : Bool), Sys2Proof.Machine.exec (Instr.mailboxCommandDone dmaOk) s = .next t → t = { s with atc := t.atc, dma := t.dma, lastDma := t.lastDma, flash := t.flash, sec := t.sec })
  ∧ (∀ (s t : State) (fn : Nat) (vec : Option Nat), Sys2Proof.Machine.exec (Instr.msixUnmask fn vec) s = .next t → t = { s with msix := t.msix, msixOut := t.msixOut })
  ∧ (∀ (s t : State) (fn page size : Nat), Sys2Proof.Machine.exec (Instr.atsInvalidationRequest fn page size) s = .next t → t = { s with atc := t.atc })

/-- The frame of the events inside the part that touch few things: each leaves every field of the state as it is but those named. -/
def Obligations.DeviceEventFrames : Prop :=
  (∀ (s t : State) (die cmd : Nat), Sys2Proof.Machine.exec (Instr.commitAck die cmd) s = .next t → t = { s with host := t.host, msix := t.msix, msixOut := t.msixOut, atc := t.atc, dma := t.dma, stalled := t.stalled, lastDma := t.lastDma, subs := t.subs, comps := t.comps, fences := t.fences, cmds := t.cmds, parts := t.parts })
  ∧ (∀ (s t : State) (owner ring : Nat), Sys2Proof.Machine.exec (Instr.descriptorFetch owner ring) s = .next t → t = { s with host := t.host, atc := t.atc, dma := t.dma, stalled := t.stalled, lastDma := t.lastDma, subs := t.subs })
  ∧ (∀ (s t : State) (cmd die quire plane operand ingot : Nat), ∀ q ∈ [Instr.unitClaim cmd die quire plane, Instr.ingotArrival cmd operand ingot],
      Sys2Proof.Machine.exec q s = .next t → t = { s with host := t.host, atc := t.atc, dma := t.dma, stalled := t.stalled, lastDma := t.lastDma, queues := t.queues, t2cache := t.t2cache, cmds := t.cmds, parts := t.parts, objects := t.objects, dies := t.dies, spine := t.spine, streams := t.streams, spineOut := t.spineOut } ∧ SameParts s t ∧ SameDies s t ∧ (∀ a b, (t.spineAt a b).fenced = (s.spineAt a b).fenced ∧ (t.spineAt a b).gen = (s.spineAt a b).gen))
  ∧ (∀ (s t : State) (cmd tile operand ingot : Nat) (t0 : Word), Sys2Proof.Machine.exec (Instr.useDeadlineExpiry cmd tile operand ingot t0) s = .next t → t = { s with counters := t.counters, cmds := t.cmds })
  ∧ (∀ (s t : State) (die cmd : Nat), Sys2Proof.Machine.exec (Instr.commitMessage die cmd) s = .next t → t = { s with cmds := t.cmds, objects := t.objects, spine := t.spine, streams := t.streams, spineOut := t.spineOut } ∧ (∀ a b, (t.spineAt a b).fenced = (s.spineAt a b).fenced ∧ (t.spineAt a b).gen = (s.spineAt a b).gen))
  ∧ (∀ (s t : State) (die cmd dst src count : Nat), ∀ q ∈ [Instr.admittedDescriptorReceive die cmd, Instr.segmentCountReceive dst src cmd count],
      Sys2Proof.Machine.exec q s = .next t → t = { s with cmds := t.cmds })
  ∧ (∀ (s t : State) (index : Nat), Sys2Proof.Machine.exec (Instr.seqReleaseComplete index) s = .next t → t = { s with queues := t.queues, parts := t.parts, seqs := t.seqs, frames := t.frames, hbm := t.hbm, dies := t.dies } ∧ SameParts s t ∧ SameDies s t ∧ SameStacks s t)
  ∧ (∀ (s t : State) (cmd : Nat) (t0 : Word), Sys2Proof.Machine.exec (Instr.waitTimeout cmd t0) s = .next t → t = { s with counters := t.counters, host := t.host, msix := t.msix, msixOut := t.msixOut, atc := t.atc, dma := t.dma, stalled := t.stalled, lastDma := t.lastDma, subs := t.subs, comps := t.comps, fences := t.fences, cmds := t.cmds, parts := t.parts })
  ∧ (∀ (s t : State) (owner cq : Nat) (t0 : Word), Sys2Proof.Machine.exec (Instr.modTimeExpiry owner cq t0) s = .next t → t = { s with counters := t.counters, msix := t.msix, msixOut := t.msixOut, comps := t.comps })
  ∧ (∀ (s t : State) (die : Nat) (t0 : Word), Sys2Proof.Machine.exec (Instr.servedHalving die t0) s = .next t → t = { s with counters := t.counters, subs := t.subs })
  ∧ (∀ (s t : State) (die : Nat) (t0 : Word), Sys2Proof.Machine.exec (Instr.regulatorRefill die t0) s = .next t → t = { s with counters := t.counters, queues := t.queues, parts := t.parts } ∧ SameParts s t)
  ∧ (∀ (s t : State) (die cmd : Nat) (t0 : Word), Sys2Proof.Machine.exec (Instr.segmentCountSend die cmd t0) s = .next t → t = { s with counters := t.counters, cmds := t.cmds, spine := t.spine, streams := t.streams, spineOut := t.spineOut } ∧ (∀ a b, (t.spineAt a b).fenced = (s.spineAt a b).fenced ∧ (t.spineAt a b).gen = (s.spineAt a b).gen))
  ∧ (∀ (s t : State) (die kind unit addr width operand comparand : Nat) (gen : Stamp) (isWrite : Bool) (data : Bytes) (req : AtomicReq), ∀ q ∈ [Instr.farAccessRequest die kind unit gen addr isWrite data, Instr.atomicRequest die kind unit gen addr req width operand comparand],
      Sys2Proof.Machine.exec q s = .next t → t = { s with pins := t.pins, msix := t.msix, msixOut := t.msixOut, queues := t.queues, parts := t.parts, windows := t.windows, objects := t.objects, frames := t.frames, hbm := t.hbm, dies := t.dies, spine := t.spine, streams := t.streams, spineOut := t.spineOut, unitOut := t.unitOut, pldmOut := t.pldmOut, errs := t.errs, dropped := t.dropped } ∧ SameParts s t ∧ SameDies s t ∧ (∀ a b, (t.spineAt a b).fenced = (s.spineAt a b).fenced ∧ (t.spineAt a b).gen = (s.spineAt a b).gen))
  ∧ (∀ (s t : State) (die : AddRoute) (line : Nat) (addends : List Nat), Sys2Proof.Machine.exec (Instr.lineAdd die line addends) s = .next t → t = { s with pins := t.pins, msix := t.msix, msixOut := t.msixOut, windows := t.windows, dies := t.dies, streams := t.streams, pldmOut := t.pldmOut, errs := t.errs, dropped := t.dropped })
  ∧ (∀ (s t : State) (m : SpineMsg), Sys2Proof.Machine.exec (Instr.spineMessageReceive m) s = .next t → t = { s with pins := t.pins, msix := t.msix, msixOut := t.msixOut, windows := t.windows, spine := t.spine, streams := t.streams, spineOut := t.spineOut, pldmOut := t.pldmOut, errs := t.errs, dropped := t.dropped } ∧ (∀ a b, (t.spineAt a b).fenced = (s.spineAt a b).fenced ∧ (t.spineAt a b).gen = (s.spineAt a b).gen))
  ∧ (∀ (s t : State) (die : Nat) (t0 : Word), Sys2Proof.Machine.exec (Instr.quireProbe die t0) s = .next t → t = { s with counters := t.counters, dies := t.dies })
  ∧ (∀ (s t : State) (die phys gen : Nat), Sys2Proof.Machine.exec (Instr.probeAnswer die phys gen) s = .next t → t = { s with dies := t.dies })
  ∧ (∀ (s t : State) (die far : Nat) (t0 : Word), Sys2Proof.Machine.exec (Instr.spineHeartbeatSend die far t0) s = .next t → t = { s with counters := t.counters, spine := t.spine, streams := t.streams, spineOut := t.spineOut } ∧ (∀ a b, (t.spineAt a b).fenced = (s.spineAt a b).fenced ∧ (t.spineAt a b).gen = (s.spineAt a b).gen))
  ∧ (∀ (s t : State) (die far gen : Nat), Sys2Proof.Machine.exec (Instr.spineHeartbeatReceive die far gen) s = .next t → t = { s with spine := t.spine } ∧ (∀ a b, (t.spineAt a b).fenced = (s.spineAt a b).fenced ∧ (t.spineAt a b).gen = (s.spineAt a b).gen))
  ∧ (∀ (s t : State) (die kind unit : Nat), Sys2Proof.Machine.exec (Instr.fenceAcksComplete die kind unit) s = .next t → t = { s with dies := t.dies, spine := t.spine } ∧ (∀ a b, (t.spineAt a b).fenced = (s.spineAt a b).fenced ∧ (t.spineAt a b).gen = (s.spineAt a b).gen))
  ∧ (∀ (s t : State) (a b : Nat), Sys2Proof.Machine.exec (Instr.spineRetrainDone a b) s = .next t → t = { s with spine := t.spine, spineOut := t.spineOut } ∧ (∀ a b, (t.spineAt a b).fenced = (s.spineAt a b).fenced ∧ (t.spineAt a b).gen = (s.spineAt a b).gen))
  ∧ (∀ (s t : State) (link seqNo ack : Nat) (crcOk : Bool) (credits : List Nat), ∀ q ∈ [Instr.linkControlFrame link seqNo crcOk credits ack, Instr.linkNak link seqNo credits ack],
      Sys2Proof.Machine.exec q s = .next t → t = { s with links := t.links, frameOut := t.frameOut })
  ∧ (∀ (s t : State) (link : Nat) (t0 : Word), Sys2Proof.Machine.exec (Instr.linkControlTimer link t0) s = .next t → t = { s with counters := t.counters, links := t.links, frameOut := t.frameOut })
  ∧ (∀ (s t : State) (link : Nat), Sys2Proof.Machine.exec (Instr.linkRetrainDone link) s = .next t → t = { s with links := t.links, linkOut := t.linkOut, frameOut := t.frameOut })
  ∧ (∀ (s t : State) (link : Nat) (ok : Bool) (t0 : Word), Sys2Proof.Machine.exec (Instr.linkTrainingRetry link ok t0) s = .next t → t = { s with counters := t.counters, links := t.links, linkOut := t.linkOut })
  ∧ (∀ (s t : State) (link : Nat) (m : Msg), Sys2Proof.Machine.exec (Instr.hello link m) s = .next t → t = { s with fresh := t.fresh, links := t.links, linkIn := t.linkIn, keyOut := t.keyOut })
  ∧ (∀ (s t : State) (link : Nat) (m : Msg), Sys2Proof.Machine.exec (Instr.messageForward link m) s = .next t → t = { s with pins := t.pins, msix := t.msix, msixOut := t.msixOut, queues := t.queues, parts := t.parts, windows := t.windows, linkOut := t.linkOut, linkIn := t.linkIn, pldmOut := t.pldmOut, errs := t.errs, dropped := t.dropped } ∧ SameParts s t)
  ∧ (∀ (s t : State) (link vc : Nat) (m : Msg), Sys2Proof.Machine.exec (Instr.messageDrop link vc m) s = .next t → t = { s with pins := t.pins, msix := t.msix, msixOut := t.msixOut, windows := t.windows, linkIn := t.linkIn, pldmOut := t.pldmOut, errs := t.errs, dropped := t.dropped })
  ∧ (∀ (s t : State) (link : Nat) (m : Msg), Sys2Proof.Machine.exec (Instr.peerDone link m) s = .next t → t = { s with fresh := t.fresh, cmds := t.cmds, linkIn := t.linkIn })
  ∧ (∀ (s t : State) (link : Nat) (m : Msg), Sys2Proof.Machine.exec (Instr.relayReady link m) s = .next t → t = { s with queues := t.queues, cmds := t.cmds, parts := t.parts, links := t.links, linkOut := t.linkOut, linkIn := t.linkIn } ∧ SameParts s t)
  ∧ (∀ (s t : State) (link : Nat) (m : Msg), Sys2Proof.Machine.exec (Instr.relayShard link m) s = .next t → t = { s with cmds := t.cmds, linkIn := t.linkIn })
  ∧ (∀ (s t : State) (link : Nat) (m : Msg), Sys2Proof.Machine.exec (Instr.relayNak link m) s = .next t → t = { s with queues := t.queues, cmds := t.cmds, parts := t.parts, linkOut := t.linkOut, linkIn := t.linkIn } ∧ SameParts s t)
  ∧ (∀ (s t : State) (die : Nat), Sys2Proof.Machine.exec (Instr.codecFrameBoundary die) s = .next t → t = { s with cmds := t.cmds, engines := t.engines })
  ∧ (∀ (s t : State) (die slot : Nat) (t0 : Word), Sys2Proof.Machine.exec (Instr.errorDeferredNotify die slot t0) s = .next t → t = { s with counters := t.counters, pins := t.pins, msix := t.msix, msixOut := t.msixOut, windows := t.windows, pldmOut := t.pldmOut, errs := t.errs })
  ∧ (∀ (s t : State) (part handle ingot : Nat), Sys2Proof.Machine.exec (Instr.t3WriteBack part handle ingot) s = .next t → t = { s with host := t.host, atc := t.atc, dma := t.dma, stalled := t.stalled, lastDma := t.lastDma, queues := t.queues, t2cache := t.t2cache, parts := t.parts, objects := t.objects } ∧ SameParts s t)
  ∧ (∀ (s t : State) (die : Nat) (reading : ClampReading) (t0 : Word), Sys2Proof.Machine.exec (Instr.clampUpdate die reading t0) s = .next t → t = { s with counters := t.counters, pins := t.pins, msix := t.msix, msixOut := t.msixOut, windows := t.windows, pldmOut := t.pldmOut, power := t.power, errs := t.errs, dropped := t.dropped })
  ∧ (∀ (s t : State) (stack : Nat) (temp : Int) (t0 : Word), Sys2Proof.Machine.exec (Instr.stackTempReport stack temp t0) s = .next t → t = { s with counters := t.counters, boot := t.boot, pins := t.pins, msix := t.msix, msixOut := t.msixOut, windows := t.windows, hbm := t.hbm, pldmOut := t.pldmOut, errs := t.errs, dropped := t.dropped })
  ∧ (∀ (s t : State) (isStack : Bool) (unit : Nat) (temp : Int), Sys2Proof.Machine.exec (Instr.protectiveTrip isStack unit temp) s = .next t → t = { s with boot := t.boot, pins := t.pins })
  ∧ (∀ (s t : State) (die iout sensed group : Nat) (t0 : Word) (reading : TelemetryReading) (mw : List Nat), ∀ q ∈ [Instr.ioutCalibration die iout sensed t0, Instr.telemetryRefresh reading t0, Instr.railPoll mw t0, Instr.quireGroupReady group t0],
      Sys2Proof.Machine.exec q s = .next t → t = { s with counters := t.counters, power := t.power })
  ∧ (∀ (s t : State) (kind die rail : Nat), Sys2Proof.Machine.exec (Instr.pmbAlert kind die rail) s = .next t → t = { s with pins := t.pins, msix := t.msix, msixOut := t.msixOut, windows := t.windows, pldmOut := t.pldmOut, power := t.power, errs := t.errs, dropped := t.dropped })
  ∧ (∀ (s t : State) (die : Nat), Sys2Proof.Machine.exec (Instr.apSettleDone die) s = .next t → t = { s with host := t.host, msix := t.msix, msixOut := t.msixOut, atc := t.atc, dma := t.dma, stalled := t.stalled, lastDma := t.lastDma, subs := t.subs, comps := t.comps, fences := t.fences, cmds := t.cmds, parts := t.parts, power := t.power })
  ∧ (∀ (s t : State) (t0 : Word), Sys2Proof.Machine.exec (Instr.groupsCycleOnTimer t0) s = .next t → t = { s with counters := t.counters, host := t.host, msix := t.msix, msixOut := t.msixOut, atc := t.atc, dma := t.dma, stalled := t.stalled, lastDma := t.lastDma, subs := t.subs, comps := t.comps, fences := t.fences, cmds := t.cmds, parts := t.parts, power := t.power })
  ∧ (∀ (s t : State) (t0 : Word), Sys2Proof.Machine.exec (Instr.colophonFatalTimeout t0) s = .next t → t = { s with counters := t.counters, colo := t.colo })
  ∧ (∀ (s t : State), Sys2Proof.Machine.exec (Instr.himonReady) s = .next t → t = { s with boot := t.boot, host := t.host, atc := t.atc, dma := t.dma, stalled := t.stalled, lastDma := t.lastDma, queues := t.queues, parts := t.parts, objects := t.objects, hbm := t.hbm, links := t.links, flash := t.flash, sec := t.sec })
  ∧ (∀ (s t : State) (boundary : Bool), Sys2Proof.Machine.exec (Instr.jtagInstruction boundary) s = .next t → t = { s with sec := t.sec })

/-- The frame of the ring commands and of the events of their running: none changes the package itself: its boot, its resets, the fatal state, the memory map, the stacks, the units of the dies, the fences of the spine, the package admin registers, the flash, the security core. -/
def Obligations.RingCommandFrame : Prop :=
  (∀ (s t : State) (cmd : Nat), ∀ q ∈ [Instr.tensorOp cmd, Instr.attend cmd, Instr.attendBuildSketches cmd, Instr.seqStepOpen cmd, Instr.seqStepAppend cmd, Instr.seqStepClose cmd, Instr.seqStepCancel cmd, Instr.seqFork cmd, Instr.seqFree cmd, Instr.moveCopy cmd, Instr.moveImport cmd, Instr.moveExport cmd, Instr.moveSeqExport cmd, Instr.movePeerSend cmd],
      Sys2Proof.Machine.exec q s = .next t → SameDevice s t)
  ∧ (∀ (s t : State) (cmd : Nat), ∀ q ∈ [Instr.movePeerRecv cmd, Instr.moveRetier cmd, Instr.collectiveAllReduce cmd, Instr.collectiveReduceScatter cmd, Instr.collectiveAllGather cmd, Instr.collectiveBroadcast cmd, Instr.codecOpen cmd, Instr.codecEncode cmd, Instr.codecDecode cmd, Instr.codecClose cmd, Instr.codecKeyReq cmd, Instr.detectPost cmd, Instr.abort cmd, Instr.routeLengthBucket cmd],
      Sys2Proof.Machine.exec q s = .next t → SameDevice s t)
  ∧ (∀ (s t : State) (cmd : Nat), ∀ q ∈ [Instr.routeExpertDispatch cmd, Instr.routeLengthPack cmd, Instr.routeExpertCombine cmd, Instr.seqRestoreUnpark cmd, Instr.seqRestoreImage cmd, Instr.partCreate cmd, Instr.partDestroy cmd, Instr.ringCreate cmd, Instr.ringDestroy cmd, Instr.planInstall cmd, Instr.planRetire cmd, Instr.tableLoad cmd, Instr.tableClear cmd, Instr.objectRegister cmd],
      Sys2Proof.Machine.exec q s = .next t → SameDevice s t)
  ∧ (∀ (s t : State) (cmd : Nat), ∀ q ∈ [Instr.objectRelease cmd, Instr.modelLoad cmd, Instr.modelUnload cmd, Instr.alloyBind cmd, Instr.alloyUnbind cmd, Instr.powerSetArithPoint cmd, Instr.powerSetGroupsOff cmd, Instr.powerSetGroupsOn cmd, Instr.powerSetGroupsCycle cmd, Instr.colophon cmd, Instr.attest cmd, Instr.groupSet cmd, Instr.groupClear cmd, Instr.unitReturn cmd],
      Sys2Proof.Machine.exec q s = .next t → SameDevice s t)
  ∧ (∀ (s t : State) (cmd link value owner ring qb : Nat), ∀ q ∈ [Instr.quotaSet cmd, Instr.keyImportContent cmd, Instr.keySetPublisher cmd, Instr.keyClearContent cmd, Instr.keyClearPublisher cmd, Instr.memMarginReadScan cmd, Instr.memMarginTiming cmd, Instr.memMarginVoltage cmd, Instr.memMarginTimingVoltage cmd, Instr.xlinkTestWrite link value, Instr.commandAdmit owner ring, Instr.commandStart cmd, Instr.blockSelectionDone cmd qb, Instr.deltaScanDone cmd],
      Sys2Proof.Machine.exec q s = .next t → SameDevice s t)
  ∧ (∀ (s t : State) (cmd operand ingot shard vf : Nat), ∀ q ∈ [Instr.normScanDone cmd, Instr.t3FetchError cmd operand ingot, Instr.commandCommit cmd, Instr.shardVerified cmd shard, Instr.vfFlr vf],
      Sys2Proof.Machine.exec q s = .next t → SameDevice s t)
  ∧ (∀ (s t : State) (cmd tile operand ingot link shard : Nat) (t0 : Word), ∀ q ∈ [Instr.stallLimitExpiry cmd tile operand ingot t0, Instr.preemptDelayExpiry cmd t0, Instr.preemptGraceExpiry cmd t0, Instr.linkRetrainTimeout link t0, Instr.collTimeout cmd t0, Instr.peerTimeout cmd t0, Instr.shardMissingTimeout cmd shard t0, Instr.relayManifestTimeout cmd t0, Instr.downstreamTimeout cmd t0],
      Sys2Proof.Machine.exec q s = .next t → SameDevice s t)
  ∧ (∀ (s t : State) (cmd tile quire link peerSvn : Nat) (residueOk peerEnabled chainOk peerUnlocked : Bool), ∀ q ∈ [Instr.tileComplete cmd tile quire residueOk, Instr.linkKeyExchange link peerEnabled chainOk peerSvn peerUnlocked],
      Sys2Proof.Machine.exec q s = .next t → SameDevice s t)
  ∧ (∀ (s t : State) (link vc seqNo : Nat) (crcOk : Bool) (payload : Bytes), Sys2Proof.Machine.exec (Instr.linkDataFrame link vc seqNo crcOk payload) s = .next t → SameDevice s t)
  ∧ (∀ (s t : State) (link : Nat) (m : Msg), ∀ q ∈ [Instr.fprint link m, Instr.grant link m, Instr.contrib link m, Instr.result link m, Instr.done link m, Instr.collAbort link m, Instr.collAbortFinal link m, Instr.peerReady link m, Instr.peerData link m, Instr.peerAbort link m, Instr.relayManifest link m, Instr.relayAck link m, Instr.relayAbort link m],
      Sys2Proof.Machine.exec q s = .next t → SameDevice s t)
  ∧ (∀ (s t : State), Sys2Proof.Machine.exec (Instr.colophonCaptureDone) s = .next t → SameDevice s t)

/-- A command's end writes one record in the next slot of its completion ring: TAG, STATUS and DETAIL are its own, the command is gone, and no other byte of host memory changes (R38, R62); the record of a function whose IDE stream is stopped waits whole until the stream is resumed (R502). -/
def Obligations.EndWritesOneRecord : Prop :=
  (∀ (s : State) (id st dt : Nat) (c : Cmd) (r : CompRing), s.cmd? id = some c → s.comp? c.owner c.cq = some r → st < 65536 →
    s.dmaStop (s.functionOf c.owner) = none →
    (s.finish id st dt).cmd? id = none
    ∧ Mem.nat (s.finish id st dt).host (r.base + 32 * r.next) 4 = dTag c.desc
    ∧ Mem.nat (s.finish id st dt).host (r.base + 32 * r.next + 4) 2 = st
    ∧ Mem.nat (s.finish id st dt).host (r.base + 32 * r.next + 6) 2 = satBits 16 dt
    ∧ (∀ a, a < r.base + 32 * r.next ∨ r.base + 32 * r.next + 32 ≤ a → Mem.read (s.finish id st dt).host a = Mem.read s.host a)
    ∧ (s.finish id st dt).stalled = s.stalled)
  ∧ (∀ (s : State) (id st dt : Nat) (c : Cmd) (r : CompRing), s.cmd? id = some c → s.comp? c.owner c.cq = some r →
    s.dmaStop (s.functionOf c.owner) ≠ none →
    (s.finish id st dt).cmd? id = none ∧ (s.finish id st dt).host = s.host
    ∧ ∃ w, (s.finish id st dt).stalled = s.stalled ++ [w] ∧ w.fn = s.functionOf c.owner ∧ w.addr = r.base + 32 * r.next ∧ w.bytes.length = 32)

/-- R53: the fence of a command that writes its record counts a success, and an error when FENCE_ON_ERROR is set; it is poisoned by any other error. A FENCE_ID of 0 or above 4,095 names no fence, and no fence changes. A command of the package admin ring with a fence is refused. A command that commits on other dies changes its fence with the commit, before its record is written (R59), and its record changes none. -/
def Obligations.RecordChangesItsFence : Prop :=
  (∀ (s : State) (id st dt : Nat) (c : Cmd), s.cmd? id = some c → c.commitAt = none → c.owner ≠ packageOwner → 1 ≤ dFence c.desc → dFence c.desc ≤ 4095 →
    (s.finish id st dt).fence c.owner (dFence c.desc) =
      if st < 0x0010 ∨ dFenceOnError c.desc = true then
        { s.fence c.owner (dFence c.desc) with count := (s.fence c.owner (dFence c.desc)).count + 1 }
      else { s.fence c.owner (dFence c.desc) with poison := true })
  ∧ (∀ (s : State) (id st dt : Nat) (c : Cmd), s.cmd? id = some c → c.commitAt = none → c.owner ≠ packageOwner → 1 ≤ dFence c.desc → dFence c.desc ≤ 4095 → 0x0010 ≤ st →
    (s.failCmd id st dt).fence c.owner (dFence c.desc) =
      if dFenceOnError c.desc = true then { s.fence c.owner (dFence c.desc) with count := (s.fence c.owner (dFence c.desc)).count + 1 }
      else { s.fence c.owner (dFence c.desc) with poison := true })
  ∧ (∀ (s : State) (id st dt : Nat) (c : Cmd), s.cmd? id = some c → dFence c.desc = 0 ∨ 4095 < dFence c.desc →
    (s.finish id st dt).fences = s.fences ∧ (s.failCmd id st dt).fences = s.fences)
  ∧ (∀ (s : State) (ring : Nat) (d : Bytes), dFence d ≠ 0 → (s.refuses packageOwner ring d).isSome = true)
  ∧ (∀ (s : State) (id st dt : Nat) (c : Cmd), s.cmd? id = some c → c.commitAt.isSome = true → (s.finish id st dt).fences = s.fences)
  ∧ (∀ (s : State) (id : Nat) (c : Cmd), s.cmd? id = some c → s.serving = true → c.phase = .ready → c.opcode ≠ 0x0C → committed c.status = true → s.ideStop c = none →
    s.commitDies c ≠ [] → c.owner ≠ packageOwner → 1 ≤ dFence c.desc → dFence c.desc ≤ 4095 →
    ∃ t, Sys2Proof.Machine.exec (.commandCommit id) s = .next t
      ∧ t.fence c.owner (dFence c.desc) = { s.fence c.owner (dFence c.desc) with count := (s.fence c.owner (dFence c.desc)).count + 1 })

/-- SIGNAL adds to, sets or poisons the fence it names, then writes its record, which may change the same fence; BARRIER completes OK once every earlier command of its ring has its record; a WAIT that is judged completes with the judgement, and one that is not completes E_TIMEOUT with its fence after TIMEOUT_US (Table 2-7). -/
def Obligations.SignalBarrierAndWaitComplete : Prop :=
  ((∀ (s : State) (id : Nat) (c : Cmd), s.serving = true → s.cmd? id = some c → c.opcode = 0x0B → c.uncommitted = true →
    (c.f 18 1 = 0 → Sys2Proof.Machine.exec (.signalAdd id) s = .next ((s.setFence c.owner (c.f 16 2)
      { s.fence c.owner (c.f 16 2) with count := (s.fence c.owner (c.f 16 2)).count + BitVec.ofNat 64 (c.f 24 8) }).finish id OK 0))
    ∧ (c.f 18 1 = 1 → Sys2Proof.Machine.exec (.signalSet id) s = .next ((s.setFence c.owner (c.f 16 2)
      { count := BitVec.ofNat 64 (c.f 24 8), poison := false }).finish id OK 0))
    ∧ (c.f 18 1 = 2 → Sys2Proof.Machine.exec (.signalPoison id) s = .next ((s.setFence c.owner (c.f 16 2)
      { s.fence c.owner (c.f 16 2) with poison := true }).finish id OK 0)))
  ∧ (∀ (s : State) (id : Nat) (c : Cmd) (x : Fence), s.cmd? id = some c → c.opcode = 0x0B → c.commitAt = none → c.owner ≠ packageOwner → 1 ≤ c.f 16 2 → c.f 16 2 ≤ 4095 →
    ((s.setFence c.owner (c.f 16 2) x).finish id OK 0).cmd? id = none
    ∧ ((s.setFence c.owner (c.f 16 2) x).finish id OK 0).fence c.owner (c.f 16 2) = (if dFence c.desc = c.f 16 2 then { x with count := x.count + 1 } else x)
    ∧ ∀ f, f ≠ c.f 16 2 → f ≠ dFence c.desc → ((s.setFence c.owner (c.f 16 2) x).finish id OK 0).fence c.owner f = s.fence c.owner f))
  ∧ ((∀ (s : State) (id : Nat) (c : Cmd), s.serving = true → s.cmd? id = some c → c.opcode = 0x0A →
    ((∀ x ∈ s.ringCmds c.owner c.ring, c.order ≤ x.2.order) → Sys2Proof.Machine.exec (.barrier id) s = .next (s.finish id OK 0))
    ∧ (∀ x ∈ s.ringCmds c.owner c.ring, x.2.order < c.order → Sys2Proof.Machine.exec (.barrier id) s = .next s))
  ∧ (∀ (s : State) (id : Nat) (c : Cmd), s.serving = true → s.cmd? id = some c → c.opcode = 0x0C →
    (c.phase = .ready → Sys2Proof.Machine.exec (.wait id) s = .next (s.finish id c.status c.detail))
    ∧ (c.phase = .started ∨ c.phase = .admitted →
      ((s.fence c.owner (c.f 16 2)).poison = true → Sys2Proof.Machine.exec (.wait id) s = .next (s.finish id E_FENCE_FAILED (c.f 16 2)))
      ∧ ((s.fence c.owner (c.f 16 2)).poison = false →
        ((c.f 18 1 = 0 ∧ c.f 24 8 ≤ (s.fence c.owner (c.f 16 2)).count.toNat) ∨ (c.f 18 1 ≠ 0 ∧ (s.fence c.owner (c.f 16 2)).count.toNat = c.f 24 8) →
          Sys2Proof.Machine.exec (.wait id) s = .next (s.finish id OK 0))
        ∧ ((c.f 18 1 = 0 ∧ (s.fence c.owner (c.f 16 2)).count.toNat < c.f 24 8) ∨ (c.f 18 1 ≠ 0 ∧ (s.fence c.owner (c.f 16 2)).count.toNat ≠ c.f 24 8) →
          Sys2Proof.Machine.exec (.wait id) s = .next (s.startCmd id)))))
  ∧ (∀ (s : State) (id : Nat) (c : Cmd) (t : Word), s.serving = true → s.cmd? id = some c → c.opcode = 0x0C → c.phase = .started ∨ c.phase = .admitted → c.f 20 4 ≠ 0 →
    (c.f 20 4 * 100 ≤ ((s.reach c.home t).counter c.home - c.admitAt).toNat →
      Sys2Proof.Machine.exec (.waitTimeout id t) s = .next ((s.reach c.home t).finish id E_TIMEOUT (c.f 16 2)))
    ∧ (((s.reach c.home t).counter c.home - c.admitAt).toNat < c.f 20 4 * 100 →
      Sys2Proof.Machine.exec (.waitTimeout id t) s = .next (s.reach c.home t)))
  ∧ (∀ (s : State) (id st dt : Nat), (s.finish id st dt).cmd? id = none))

/-- A 32-bit tail doorbell within the ring sets the tail, and with RESUME clears the halt; a head doorbell that runs no further than the written records returns them, and with ARM arms the ring (R42, R51, R52, R64). A doorbell write that is not 32 bits wide is dropped: no ring changes, and one report of origin HS is made (R42). -/
def Obligations.DoorbellsTakeEffect : Prop :=
  ((∀ (s : State) (fn off v owner ring : Nat) (r : SubRing) (cells : List Host.Cell), s.serving = true →
    doorbellAt (s.hostStores cells) fn off = some (owner, ring, false) → s.sub? owner ring = some r → v % 65536 < 2 ^ r.log2 →
    Sys2Proof.Machine.exec (.submissionTailDoorbell fn off 32 v cells) s = .next ((s.hostStores cells).setSub owner ring { r with tail := v % 65536 })
    ∧ Sys2Proof.Machine.exec (.resume fn off 32 v cells) s = .next ((s.hostStores cells).setSub owner ring { r with tail := v % 65536, halted := false }))
  ∧ (∀ (s : State) (fn off v owner cq : Nat) (r : CompRing), s.serving = true → doorbellAt s fn off = some (owner, cq, true) →
    s.comp? owner cq = some r → v % 2 ^ 18 < r.size → (v % 2 ^ 18 + r.size - r.head) % r.size ≤ r.recs.length →
    Sys2Proof.Machine.exec (.completionHeadDoorbell fn off 32 v) s = .next (s.setComp owner cq { r with
      head := v % 2 ^ 18, recs := r.recs.drop ((v % 2 ^ 18 + r.size - r.head) % r.size) })
    ∧ ∃ t, Sys2Proof.Machine.exec (.arm fn off 32 v) s = .next t ∧
      t = (s.setComp owner cq { r with head := v % 2 ^ 18, recs := r.recs.drop ((v % 2 ^ 18 + r.size - r.head) % r.size), armed := true }).fireCq owner cq))
  ∧ (∀ (s : State) (fn off width v : Nat) (cells : List Host.Cell), s.serving = true → width ≠ 32 →
    (∃ t, Sys2Proof.Machine.exec (.submissionTailDoorbell fn off width v cells) s = .next t ∧ t.subs = s.subs ∧ t.comps = s.comps
      ∧ t = (s.hostStores cells).report { origin := originId 0 0x0B 0, cls := 0x0B, reporter := originId 0 0x0B 0, info := off })
    ∧ (∃ t, Sys2Proof.Machine.exec (.completionHeadDoorbell fn off width v) s = .next t ∧ t.subs = s.subs ∧ t.comps = s.comps
      ∧ t = s.report { origin := originId 0 0x0B 0, cls := 0x0B, reporter := originId 0 0x0B 0, info := off }))

/-- Clearing a mask sends what was held for it; MOD_TIME sends the vector of an armed ring whose oldest record has waited; an ATS invalidation drops exactly the named translations (R29, R64). -/
def Obligations.InterruptsAndTranslations : Prop :=
  (∀ (s : State) (fn v : Nat), ∃ t, Sys2Proof.Machine.exec (.msixUnmask fn (some v)) s = .next t ∧ v ∈ (NMap.getD t.msix fn {}).unmasked
    ∧ ((NMap.getD s.msix fn {}).funcMasked = false → v ∈ (NMap.getD s.msix fn {}).pendingBits → (fn, v) ∈ t.msixOut))
  ∧ (∀ (s : State) (owner cq : Nat) (t : Word) (r : CompRing) (x : Bool × Word) (xs : List (Bool × Word)), s.comp? owner cq = some r → r.armed = true →
    r.recs = x :: xs → r.modTime ≠ 0 → r.modTime * 100 ≤ ((s.reach r.home t).counter r.home - x.2).toNat →
    Sys2Proof.Machine.exec (.modTimeExpiry owner cq t) s =
      .next (((s.reach r.home t).setComp owner cq { r with armed := false }).sendMsix (s.functionOf owner) r.vector))
  ∧ (∀ (s : State) (fn page size : Nat), ∃ t, Sys2Proof.Machine.exec (.atsInvalidationRequest fn page size) s = .next t ∧ t = { s with atc := t.atc }
    ∧ ∀ e, e ∈ t.atc ↔ e ∈ s.atc ∧ ¬(e.1 = fn ∧ page ≤ e.2 ∧ e.2 < page + size))

/-- A fetch takes descriptors in ring order up to the tail, 32 at most, and writes the new head to HEAD_WB (R44); none is fetched while the function's IDE stream is stopped (R502). COMMAND_ADMIT on a ring whose next descriptor stalls on nothing: a refused descriptor gets its record and never runs; one that passes every check is admitted under the next id with its ring, order and descriptor (R46, R48, R50). -/
def Obligations.FetchAndAdmitInOrder : Prop :=
  ((∀ (s : State) (owner ring : Nat) (r : SubRing), s.ringServed owner = true → s.sub? owner ring = some r → r.stopped = false → r.head ≠ r.tail →
    s.dmaStop (s.functionOf owner) = none →
    ∃ t r1, Sys2Proof.Machine.exec (.descriptorFetch owner ring) s = .next t ∧ t.sub? owner ring = some r1 ∧ r1 = fetchUpTo s 32 r
      ∧ (r.fetched.length < r1.fetched.length ∧ r1.fetched.length ≤ r.fetched.length + 32)
      ∧ (r.headWb ≠ 0 → r1.head < 2 ^ 16 → Mem.nat t.host r.headWb 8 = r1.head))
  ∧ (∀ (s : State) (owner ring : Nat), s.dmaStop (s.functionOf owner) ≠ none → Sys2Proof.Machine.exec (.descriptorFetch owner ring) s = .next s))
  ∧ (∀ (s : State) (owner ring : Nat) (r : SubRing) (x : Fetched) (xs : List Fetched), s.sub? owner ring = some r → r.fetched = x :: xs →
    s.ringServed owner = true → s.stalls owner ring r x = false →
    (∀ st dt, s.refuses owner ring x.desc = some (st, dt) →
      Sys2Proof.Machine.exec (.commandAdmit owner ring) s = .next (s.failFetched owner ring r x st dt)
      ∧ (s.failFetched owner ring r x st dt).cmd? s.nextCmd = none)
    ∧ (s.refuses owner ring x.desc = none → s.held { owner := owner, ring := ring, order := x.order, desc := x.desc, home := r.home } = false →
      s.admitFail s.nextCmd { owner := owner, ring := ring, order := x.order, desc := x.desc, home := r.home } = none →
      ∃ t c, Sys2Proof.Machine.exec (.commandAdmit owner ring) s = .next t ∧ t.cmd? s.nextCmd = some c
        ∧ c.owner = owner ∧ c.ring = ring ∧ c.order = x.order ∧ c.desc = x.desc ∧ t.nextCmd = s.nextCmd + 1))

/-- R538: a report whose key matches a record adds 1 to REPORTERS (until it is full) and replaces LAST_SEEN, DETAIL and INFO; one without a match makes a record with REPORTERS 1 and FIRST_SEEN equal to LAST_SEEN, where a slot can be had. -/
def Obligations.ReportsMergeOrCreate : Prop :=
  ∀ (s : State) (rep : Report) (d : Nat), s.shapeOk → rep.found = .nothing →
    d = (if rep.origin / 8192 < 8 ∧ (s.dieAt (rep.origin / 8192)).fenced = false ∧ s.path (rep.reporter / 8192) (rep.origin / 8192) = true then rep.origin / 8192 else 0) →
    ∃ t, Sys2Proof.Machine.exec (.errorReport rep) s = .next t ∧
    (∀ k e, (s.errsOf d).find? (fun x => x.2.origin == rep.origin && x.2.cls == rep.cls) = some (k, e) → e.reporters ≠ BitVec.allOnes 32 →
      ∃ e1, NMap.get? (t.errsOf d) k = some e1 ∧ e1.reporters = e.reporters + 1 ∧ e1.lastSeen = s.counter d ∧ e1.detail = rep.detail
        ∧ e1.info = rep.info ∧ e1.firstSeen = e.firstSeen ∧ e1.firstReporter = e.firstReporter)
    ∧ (∀ k b, (s.errsOf d).find? (fun x => x.2.origin == rep.origin && x.2.cls == rep.cls) = none →
      placeErr (s.errsOf d) (severityOf rep.cls rep.sev (rep.origin / 8192)) = some (k, b) →
      ∃ e1, NMap.get? (t.errsOf d) k = some e1 ∧ e1.reporters = 1 ∧ e1.firstSeen = s.counter d ∧ e1.lastSeen = s.counter d
        ∧ e1.origin = rep.origin ∧ e1.cls = rep.cls ∧ e1.pending = true)

/-- ERR_CLEAR: ALL empties a die's concentrator, one slot removes its record, PENDING_ONLY clears only the marks of one; ERR_SUMMARY clears PENDING in every record of the named dies; a deferred record is notified after 100,000 ticks (R540, R541, R554). -/
def Obligations.ErrorRecordsClear : Prop :=
  (∀ (s : State) (die slot : Nat), s.barErr = true → s.shapeOk → die < 8 →
    (∃ t, Sys2Proof.Machine.exec (.errClearAll die) s = .next t ∧ t.errsOf die = [] ∧ (∀ d, d ≠ die → t.errsOf d = s.errsOf d))
    ∧ (∃ t, Sys2Proof.Machine.exec (.errClearSlot die slot) s = .next t ∧ NMap.get? (t.errsOf die) slot = none
        ∧ (∀ k, k ≠ slot → NMap.get? (t.errsOf die) k = NMap.get? (s.errsOf die) k) ∧ (∀ d, d ≠ die → t.errsOf d = s.errsOf d))
    ∧ (∃ t, Sys2Proof.Machine.exec (.errClearPendingOnly die slot) s = .next t
        ∧ NMap.get? (t.errsOf die) slot = (NMap.get? (s.errsOf die) slot).map (fun r => { r with pending := false, deferred := false })
        ∧ (∀ k, k ≠ slot → NMap.get? (t.errsOf die) k = NMap.get? (s.errsOf die) k)))
  ∧ (∀ (s : State) (mask : Nat), s.barErr = true → s.shapeOk → ∃ t, Sys2Proof.Machine.exec (.errSummaryPendingClear mask) s = .next t
    ∧ ∀ d < 8, mask.testBit d = true → ∀ x ∈ t.errsOf d, x.2.pending = false)
  ∧ (∀ (s : State) (die slot : Nat) (t : Word) (r : ErrRec), s.shapeOk → die < 8 → NMap.get? (s.errsOf die) slot = some r → r.deferred = true →
    100000 ≤ ((s.reach die t).counter die - r.notified).toNat →
    ∃ u r1, Sys2Proof.Machine.exec (.errorDeferredNotify die slot t) s = .next u ∧ NMap.get? (u.errsOf die) slot = some r1
      ∧ r1.pending = true ∧ r1.deferred = false ∧ r1.notified = (s.reach die t).counter die)

/-- R588: the window bits of the PF and of the VF that serves a partition are set by the same notifications and cleared independently: clearing through one leaves the other's bits, and changes no error record. A partition that the PF serves has the PF's bits alone. -/
def Obligations.WindowErrorBits : Prop :=
  (∀ (s : State) (part mask : Nat), s.barAll = true → NMap.has s.parts part = true →
    ∃ t u, Sys2Proof.Machine.exec (.vfErrPendingClear true part mask) s = .next t ∧ Sys2Proof.Machine.exec (.vfErrPendingClear false part mask) s = .next u
      ∧ (NMap.getD t.windows part {}).pfPending = (NMap.getD s.windows part {}).pfPending &&& ~~~(BitVec.ofNat 8 mask)
      ∧ (NMap.getD t.windows part {}).vfPending = (NMap.getD s.windows part {}).vfPending
      ∧ (NMap.getD u.windows part {}).vfPending = (NMap.getD s.windows part {}).vfPending &&& ~~~(BitVec.ofNat 8 mask)
      ∧ (NMap.getD u.windows part {}).pfPending = (NMap.getD s.windows part {}).pfPending
      ∧ t.errs = s.errs ∧ u.errs = s.errs)
  ∧ (∀ (s : State) (die slot : Nat) (r : ErrRec) (p : Part), NMap.get? (s.errsOf die) slot = some r → NMap.get? s.parts r.partition = some p →
    r.severity = 2 ∨ r.severity = 3 →
    (NMap.getD (s.notifyErr die slot).windows r.partition {}).pfPending = (NMap.getD s.windows r.partition {}).pfPending ||| BitVec.ofNat 8 (2 ^ die)
    ∧ (NMap.getD (s.notifyErr die slot).windows r.partition {}).vfPending =
        if p.function = 0 then (NMap.getD s.windows r.partition {}).vfPending else (NMap.getD s.windows r.partition {}).vfPending ||| BitVec.ofNat 8 (2 ^ die))

/-- Register writes: the memory map while no partition exists, link weights and security, PART_ID with a HELLO on every link that is up, a stored debug token discarded (R325, R395, R503, R505, R553). XLINK_TEST: a non-zero MODE takes the link down, MODE 0 after one lets it retrain, RUN clears ERRORS (R548). A register access of another width or alignment is ignored and reported once; a 64-bit write acts as its low half and then its high half (R549). -/
def Obligations.RegisterAccessesTakeEffect : Prop :=
  ((∀ (s : State) (v : Nat), s.barAll = true → s.parts = [] →
    Sys2Proof.Machine.exec (.memMapCtrlWrite v) s = .next { s with mitusEn := v.testBit 31, nearGib := v % 128 })
  ∧ (∀ (s : State) (v : Nat), s.barAll = true → s.parts ≠ [] → ∃ t, Sys2Proof.Machine.exec (.memMapCtrlWrite v) s = .next t
    ∧ t.mitusEn = s.mitusEn ∧ t.nearGib = s.nearGib)
  ∧ (∀ (s : State) (link v : Nat), s.barAll = true → link < 8 → s.shapeOk →
    (∃ t, Sys2Proof.Machine.exec (.xlinkVcWeightWrite link v) s = .next t
      ∧ (t.linkAt link) = { s.linkAt link with nextWeights := [v % 256, v / 256 % 256, v / 65536 % 256, v / 16777216 % 256] }
      ∧ ∀ l, l ≠ link → t.linkAt l = s.linkAt l)
    ∧ (∃ t, Sys2Proof.Machine.exec (.xlinkSecWrite link v) s = .next t ∧ (t.linkAt link).secEnable = v.testBit 31
      ∧ (t.linkAt link).minPeerSvn = v % 256 ∧ (t.linkAt link).secActive = false ∧ ∀ l, l ≠ link → t.linkAt l = s.linkAt l))
  ∧ (∀ (s : State) (v : Nat), s.barAll = true → s.groups = [] → (∀ c ∈ s.cmds, c.2.opcode ≠ 0x49) → ∃ t,
    Sys2Proof.Machine.exec (.partIdWrite v) s = .next t ∧ t.partId = v % 65536
      ∧ t.linkOut = s.linkOut ++ ((List.range 8).filter (fun l => (s.linkAt l).up)).map (fun l =>
          (l, { type := 0x01, length := 3, payload := leBytes 2 (v % 65536) ++ leBytes 1 l : Msg })))
  ∧ (∀ s : State, s.barAll = true → ∃ t, Sys2Proof.Machine.exec .discardToken s = .next t ∧ t.flash.token = none ∧ t.flash.tokenOk = false
      ∧ t = { s with flash := { s.flash with token := none, tokenOk := false } }))
  ∧ ((∀ (s : State) (link v : Nat), s.barAll = true → link < 8 → s.shapeOk → bitsOf v 30 28 ≠ 0 → (s.linkAt link).testMode = 0 →
    ∃ t, Sys2Proof.Machine.exec (.xlinkTestWrite link v) s = .next t ∧ (t.linkAt link).down = true ∧ (t.linkAt link).testMode = bitsOf v 30 28
      ∧ (v.testBit 31 = true → (t.linkAt link).testErrors = 0))
  ∧ (∀ (s : State) (link v : Nat), s.barAll = true → link < 8 → s.shapeOk → bitsOf v 30 28 = 0 → (s.linkAt link).testMode ≠ 0 →
    ∃ t, Sys2Proof.Machine.exec (.xlinkTestWrite link v) s = .next t ∧ (t.linkAt link).retraining = true ∧ (t.linkAt link).testMode = 0)
  ∧ (∀ (s : State) (fn off width v : Nat) (w : Bool), goodAccess off width = false → s.barErr = true →
    ∃ t, Sys2Proof.Machine.exec (.bar0BadAccess fn off width w v) s = .next t
      ∧ t = s.report { origin := originId 0 0x0B 0, cls := 0x0B, reporter := originId 0 0x0B 0, info := off }
      ∧ Sys2Proof.Machine.exec (.registerWrite fn off width v) s = .next t)
  ∧ (∀ (s : State) (fn off v : Nat), off % 8 = 0 →
    Sys2Proof.Machine.exec (.registerWrite fn off 64 v) s = .next ((s.write32 fn off (v % 2 ^ 32)).write32 fn (off + 4) (v / 2 ^ 32 % 2 ^ 32)))
  ∧ (∀ (s : State) (v : Nat), s.barAll = true → Sys2Proof.Machine.exec (.registerWrite 0 0x1074 32 v) s = .next { s with ceLog2 := v % 32 }))

/-- ENABLE of the package admin ring with legal settings makes its two rings of home die 0; clearing it stops the submission ring and drops what was fetched and not admitted (R555). -/
def Obligations.PackageRingSwitches : Prop :=
  (∀ (s : State) (v : Nat), s.barAll = true → s.adminRunning = false → (s.admin.config v).ok = true →
    ∃ t r q, Sys2Proof.Machine.exec (.packageAdminEnable v) s = .next t ∧ t.admin.enable = true ∧ t.sub? packageOwner 0 = some r ∧ t.comp? packageOwner 0 = some q
      ∧ r.log2 = bitsOf v 28 24 ∧ q.log2 = bitsOf v 20 16 ∧ r.base = s.admin.sqBase ∧ q.base = s.admin.cqBase ∧ r.home = 0 ∧ q.home = 0
      ∧ r.head = 0 ∧ r.tail = 0 ∧ q.phase = true)
  ∧ (∀ (s : State) (v : Nat) (r : SubRing), s.barAll = true → s.adminRunning = true → s.sub? packageOwner 0 = some r →
    ∃ t, Sys2Proof.Machine.exec (.packageAdminDisable v) s = .next t ∧ t.admin.enable = false
      ∧ t.sub? packageOwner 0 = some { r with stopped := true, fetched := [] } ∧ t.cmds = s.cmds)

/-- A snapshot request marks its unit busy with the kind and index asked for, and is ignored while one is busy. Its end sets RESULT and DONE and clears GO, with 128 bytes of data; a refused one gives zeros and clears nothing. CLEAR resets a layer's temper entry but for RESERVE_KIB, or an accounting record but for LAST_COUNTER; a temper clear is held while an admitted command names the layer (R562). A COLOPHON_REQ with GO starts a capture of the register; its end writes the record to COLOPHON_ADDR and sets DONE where the host link is up, the address is 4 KiB-aligned and the record fits, and sets ERROR with nothing written otherwise; in the fatal state a capture still running after 10 ms sets ERROR (R530, R531, R545). A COLOPHON command starts a capture of its own, at whose end its record follows the bytes at its address, or fails E_COLOPHON_SPACE when they do not fit. -/
def Obligations.SnapshotsAndCapturesComplete : Prop :=
  ((∀ (s : State) (pf : Bool) (part kind index : Nat), s.windowServed pf part = true →
    ((s.snapOf pf part).go = false →
      (∃ t, Sys2Proof.Machine.exec (.snapCapture pf part kind index) s = .next t ∧ (t.snapOf pf part).go = true ∧ (t.snapOf pf part).clear = false
        ∧ (t.snapOf pf part).kind = kind % 16 ∧ (t.snapOf pf part).index = index % 2 ^ 22)
      ∧ (∃ t, Sys2Proof.Machine.exec (.snapCaptureClear pf part kind index) s = .next t ∧ (t.snapOf pf part).go = true ∧ (t.snapOf pf part).clear = true
        ∧ (t.snapOf pf part).kind = kind % 16 ∧ (t.snapOf pf part).index = index % 2 ^ 22))
    ∧ ((s.snapOf pf part).go = true → Sys2Proof.Machine.exec (.snapCapture pf part kind index) s = .next s
      ∧ Sys2Proof.Machine.exec (.snapCaptureClear pf part kind index) s = .next s))
  ∧ (∀ (s : State) (pf : Bool) (part : Nat) (x : Snap), s.windowServed pf part = true → s.snapOf pf part = x → x.go = true →
    (s.snapResult pf part x = 0 → x.clear = true → x.kind = 1 → s.layerNamed part x.index = true →
      Sys2Proof.Machine.exec (.snapCaptureDone pf part) s = .next s)
    ∧ (s.snapResult pf part x = 0 → (x.clear = true → x.kind = 1 → s.layerNamed part x.index = false) →
      ∃ t, Sys2Proof.Machine.exec (.snapCaptureDone pf part) s = .next t
        ∧ t.snapOf pf part = { x with go := false, done := true, result := 0, data := fixLen 128 (s.snapData part x.kind x.index) }
        ∧ (x.clear = false → t = { s with windows := t.windows })
        ∧ (x.clear = true → x.kind = 1 → t.temper part x.index = { reserveKib := (s.temper part x.index).reserveKib })
        ∧ (x.clear = true → x.kind = 2 → ∀ r, s.sub? part x.index = some r → t.sub? part x.index = some { r with acct := { lastCounter := s.counter r.home } })
        ∧ (x.clear = true → x.kind = 3 → ∀ p, NMap.get? s.parts part = some p →
            NMap.get? t.parts part = some { p with acct := { lastCounter := s.counter p.firstDie } }))
    ∧ (s.snapResult pf part x ≠ 0 → ∃ t, Sys2Proof.Machine.exec (.snapCaptureDone pf part) s = .next t
        ∧ t.snapOf pf part = { x with go := false, done := true, result := s.snapResult pf part x, data := List.replicate 128 0 }
        ∧ t = { s with windows := t.windows })))
  ∧ ((∀ (s : State) (v : Nat), s.barErr = true → s.colo.go = false → ∃ t, Sys2Proof.Machine.exec (.colophonReqGo v) s = .next t
    ∧ t.colo.go = true ∧ t.colo.sections = v % 65536 ∧ t.colo.captures.length = s.colo.captures.length + 1)
  ∧ (∀ (s : State) (b : Bytes) (n : Nat) (rest : List (Option Nat × Bytes × Nat)), s.boot = .ready → s.colo.captures = (none, b, n) :: rest →
    ∃ t, Sys2Proof.Machine.exec .colophonCaptureDone s = .next t ∧ t.colo.go = false ∧ t.colo.captures.length = rest.length
      ∧ (s.linkUp = true ∧ s.colo.addr % 4096 = 0 ∧ b.length ≤ s.colo.len →
          t.colo.done = true ∧ t.colo.error = s.colo.error ∧ (s.dmaStop 0 = none → t.host = Mem.writeRange s.host s.colo.addr b))
      ∧ (s.linkUp = false ∨ s.colo.addr % 4096 ≠ 0 ∨ s.colo.len < b.length →
          t.colo.error = true ∧ t.host = s.host ∧ t.colo.done = s.colo.done))
  ∧ (∀ (s : State) (t : Word), s.fatal = true → s.colo.go = true → 1000000 ≤ ((s.reach 0 t).counter 0 - s.colo.since).toNat →
    ∃ u, Sys2Proof.Machine.exec (.colophonFatalTimeout t) s = .next u ∧ u.colo.error = true ∧ u.colo.go = false)
  ∧ (∀ (s : State) (id : Nat) (c : Cmd), Live s id 0x4C c → c.phase = .admitted → ∃ t d, Sys2Proof.Machine.exec (.colophon id) s = .next t
    ∧ t.cmd? id = some d ∧ d.phase = .started ∧ t.colo.captures.length = s.colo.captures.length + 1)
  ∧ (∀ (s : State) (id : Nat) (c : Cmd) (b : Bytes) (n : Nat) (rest : List (Option Nat × Bytes × Nat)), s.boot = .ready → s.fatal = false →
    s.colo.captures = (some id, b, n) :: rest → s.cmd? id = some c →
    ∃ t, Sys2Proof.Machine.exec .colophonCaptureDone s = .next t ∧ t.cmd? id = none ∧ t.colo.captures.length = rest.length
      ∧ (b.length ≤ c.f 24 8 → t = (s.nextCapture.hostWrite (s.functionOf c.owner) (c.f 16 8) b).finish id OK n)
      ∧ (c.f 24 8 < b.length → t = s.nextCapture.failCmd id E_COLOPHON_SPACE (satBits 16 (ceilDiv b.length 65536)))))

/-- A mailbox command with GO stores the host's bytes, marks the mailbox busy and takes its code. Its end clears GO, sets DONE and gives a RESULT (R489, R556): FW_WRITE writes its bytes into the slot not running, or in recovery the slot of TARGET, which is then EMPTY, and is refused for TARGET outside recovery, for an argument out of range or a DMA error (a stopped IDE stream of the PF is one, R502); FW_ACTIVATE makes the slot last written (where none has been written since start-up, the slot that FW_WRITE would write: log entry 20) TRIAL with TRIED clear unless its image does not verify or lies below the floor; FW_CONFIRM makes a running slot booted as TRIAL GOOD and raises the floor to its SVN; FW_STATUS returns both slots and the floor; DEBUG_UNLOCK stores a token of this part's serial. Each change of a slot writes the boot control record that is not in use with the next SEQ (R483); the spec does not say what follows SEQ 2^32 − 1, which is left out. -/
def Obligations.MailboxCommandsComplete : Prop :=
  (∀ (s : State) (cells : List Host.Cell), s.barMailbox = true → s.sec.mbGo = false →
    ∀ q ∈ [(Instr.fwWrite cells, 1), (Instr.fwActivate cells, 2), (Instr.fwConfirm cells, 3), (Instr.fwStatus cells, 4), (Instr.debugUnlock cells, 5)],
    ∃ t, Sys2Proof.Machine.exec q.1 s = .next t ∧ t.sec.mbGo = true ∧ t.sec.mbCmd = q.2 ∧ t.host = Mem.stores s.host cells ∧ t.flash = s.flash)
  ∧ (∀ (s : State) (ok : Bool), s.sec.mbGo = true → s.flash.record.seqNo ≠ BitVec.allOnes 32 → ∃ t, Sys2Proof.Machine.exec (.mailboxCommandDone ok) s = .next t
    ∧ t.sec.mbGo = false ∧ t.sec.mbDone = true ∧ t.sec.mbCmd = s.sec.mbCmd
    ∧ (t.sec.mbResult ≠ 0 → t.flash = s.flash)
    ∧ (s.sec.mbCmd = 1 →
        (s.sec.recovery = false ∧ s.sec.mbTarget = true → t.sec.mbResult = 1)
        ∧ (s.sec.recovery = true ∨ s.sec.mbTarget = false →
            (s.sec.mbOffset % 4096 ≠ 0 ∨ s.sec.mbLen < 4 ∨ 65536 < s.sec.mbLen ∨ 2 ^ 25 < s.sec.mbOffset + s.sec.mbLen ∨ s.sec.mbAddr % 4096 ≠ 0 →
              t.sec.mbResult = 2)
            ∧ (s.sec.mbOffset % 4096 = 0 → 4 ≤ s.sec.mbLen → s.sec.mbLen ≤ 65536 → s.sec.mbOffset + s.sec.mbLen ≤ 2 ^ 25 → s.sec.mbAddr % 4096 = 0 →
              (ok = false ∨ s.dmaStop 0 ≠ none → t.sec.mbResult = 3)
              ∧ (ok = true → s.dmaStop 0 = none → t.sec.mbResult = 0 ∧ t.sec.lastWritten = some s.sec.writeSlot ∧ t.flash.floor = s.flash.floor
                ∧ (t.flash.slot s.sec.writeSlot).state = .empty ∧ t.flash.slot (!s.sec.writeSlot) = s.flash.slot (!s.sec.writeSlot)
                ∧ (t.flash.slot s.sec.writeSlot).image =
                    Mem.writeRange (s.flash.slot s.sec.writeSlot).image s.sec.mbOffset (s.hostRead s.sec.mbAddr s.sec.mbLen)))))
    ∧ (s.sec.mbCmd = 2 →
        ∀ b, b = s.sec.lastWritten.getD s.sec.writeSlot →
          ((s.flash.slot b).verifies = false ∨ (s.flash.slot b).svn < s.flash.floor → t.sec.mbResult = 1)
          ∧ ((s.flash.slot b).verifies = true → s.flash.floor ≤ (s.flash.slot b).svn → t.sec.mbResult = 0
            ∧ t.flash.slot b = { s.flash.slot b with state := .trial, tried := false } ∧ t.flash.slot (!b) = s.flash.slot (!b)
            ∧ t.flash.floor = s.flash.floor))
    ∧ (s.sec.mbCmd = 3 →
        (s.sec.running = none ∨ s.sec.trialBoot = false → t.sec.mbResult = 1)
        ∧ ∀ b, s.sec.running = some b → s.sec.trialBoot = true → t.sec.mbResult = 0
          ∧ t.flash.slot b = { s.flash.slot b with state := .good, fails := 0 } ∧ t.flash.slot (!b) = s.flash.slot (!b)
          ∧ t.flash.floor = max s.flash.floor (s.flash.slot b).svn)
    ∧ (s.sec.mbCmd = 4 → t.sec.mbResult = 0 ∧ t.flash = s.flash
        ∧ t.sec.statusRegs = [slotWord (s.flash.slot false), slotWord (s.flash.slot true), (s.flash.slot false).svn, (s.flash.slot true).svn,
            (s.flash.slot false).version, (s.flash.slot true).version, s.flash.floor])
    ∧ (s.sec.mbCmd = 5 →
        (s.sec.mbAddr % 4096 ≠ 0 → t.sec.mbResult = 2)
        ∧ (s.sec.mbAddr % 4096 = 0 → ok = false ∨ s.dmaStop 0 ≠ none → t.sec.mbResult = 3)
        ∧ (s.sec.mbAddr % 4096 = 0 → ok = true → s.dmaStop 0 = none →
          (Config.tokenSerial (s.hostRead s.sec.mbAddr s.sec.mbLen) ≠ s.serial → t.sec.mbResult = 1)
          ∧ (Config.tokenSerial (s.hostRead s.sec.mbAddr s.sec.mbLen) = s.serial → t.sec.mbResult = 0
            ∧ t.flash.token = some (s.hostRead s.sec.mbAddr s.sec.mbLen)))))

/-- The rollback floor never falls, and only FW_CONFIRM of a slot booted as TRIAL raises it (R489). -/
def Obligations.RollbackFloorNeverFalls : Prop :=
  ∀ (c : Instr) (s t : State), Sys2Proof.Machine.exec c s = .next t → s.flash.floor ≤ t.flash.floor
    ∧ (s.flash.floor ≠ t.flash.floor → (∃ ok, c = .mailboxCommandDone ok) ∧ s.sec.mbGo = true ∧ s.sec.mbCmd = 3 ∧ s.sec.trialBoot = true)

/-- While the security core runs, each SPDM request on either transport is answered once. GET_VERSION, GET_CAPABILITIES and NEGOTIATE_ALGORITHMS tell of SPDM 1.3, the twelve requests supported and the one algorithm of each kind; GET_DIGESTS and GET_CERTIFICATE answer from the chain of slot 0, the only one populated; CHALLENGE, GET_MEASUREMENTS and KEY_EXCHANGE are signed with the alias key; KEY_EXCHANGE opens a session or is answered BUSY at the limit; FINISH completes, KEY_UPDATE rekeys, HEARTBEAT keeps and END_SESSION closes the session it names, and a session that does not exist is answered by an error; no other session and nothing else of the security core changes (R491, R496). The bytes that carry these facts, and the codes and bits of the algorithms, are of a standard outside the spec (log entry 8). -/
def Obligations.SpdmRequestsAreAnswered : Prop :=
  ∀ (s : State) (tr sn : Nat) (req : Bytes), s.secUp = true →
    (∀ q ∈ [(Instr.spdmGetVersion tr sn req, 0x84, leBytes 1 0x13), (.spdmGetCapabilities tr sn req, 0xE1, spdmRequests),
        (.spdmNegotiateAlgorithms tr sn req, 0xE3, spdmAlgorithms)],
      Sys2Proof.Machine.exec q.1 s = .next { s with spdmOut := s.spdmOut ++ [Config.spdmReply q.2.1 tr req q.2.2] })
    ∧ (∀ q ∈ [(Instr.spdmChallenge tr sn req, 0x83, (s.certChain.getD []).flatten ++ measurementBlocks s), (.spdmGetMeasurements tr sn req, 0xE0, measurementBlocks s)],
      Sys2Proof.Machine.exec q.1 s = .next { s with spdmOut := s.spdmOut ++ [Config.spdmReply q.2.1 tr req q.2.2
        ++ fixLen 114 (Config.aliasSign s.bootKey.1 s.bootKey.2.1 s.bootKey.2.2 (Config.spdmTranscript q.2.1 tr (req ++ Config.spdmReply q.2.1 tr req q.2.2)))] })
    ∧ (∀ a, s.sec.aliasCert = some a →
      (∃ t, Sys2Proof.Machine.exec (.spdmGetDigests tr sn req) s = .next t ∧ t.sec = s.sec
        ∧ t.spdmOut = s.spdmOut ++ [Config.certReply 0x81 tr req [s.flash.productCa, s.flash.deviceCert, a]])
      ∧ (∃ t, Sys2Proof.Machine.exec (.spdmGetCertificate tr sn req) s = .next t ∧ t.sec = s.sec
        ∧ t.spdmOut = s.spdmOut ++ [if fld req 2 1 % 16 = 0 then Config.certReply 0x82 tr req [s.flash.productCa, s.flash.deviceCert, a]
            else Config.spdmError 0x82 tr req]))
    ∧ (∀ q ∈ [(Instr.spdmGetDigests tr sn req, 0x81), (.spdmGetCertificate tr sn req, 0x82)], s.sec.aliasCert = none →
      ∃ t, Sys2Proof.Machine.exec q.1 s = .next t ∧ t.sec = s.sec ∧ t.spdmOut = s.spdmOut ++ [Config.spdmError q.2 tr req])
    ∧ (NMap.has (s.sec.sessions tr) sn = true ∨ (s.sec.sessions tr).length < sessionLimit tr →
        ∃ t x, Sys2Proof.Machine.exec (.spdmKeyExchange tr sn req) s = .next t ∧ t.spdmOut = s.spdmOut ++ [x]
          ∧ t.sec = s.sec.setSessions tr (t.sec.sessions tr) ∧ NMap.get? (t.sec.sessions tr) sn = some {}
          ∧ ∀ k, k ≠ sn → NMap.get? (t.sec.sessions tr) k = NMap.get? (s.sec.sessions tr) k)
    ∧ (NMap.has (s.sec.sessions tr) sn = false → sessionLimit tr ≤ (s.sec.sessions tr).length →
        ∃ t, Sys2Proof.Machine.exec (.spdmKeyExchange tr sn req) s = .next t ∧ t.spdmOut = s.spdmOut ++ [Config.spdmReply 0x7F tr req []] ∧ t.sec = s.sec)
    ∧ (∀ q ∈ [(Instr.spdmFinish tr sn req, fun (x : Session) => some { x with established := true }),
        (.spdmKeyUpdate tr sn req, fun x => some (if x.established then { x with keyGen := x.keyGen + 1 } else x)),
        (.spdmHeartbeat tr sn req, some), (.spdmEndSession tr sn req, fun _ => none)],
      ∃ t y, Sys2Proof.Machine.exec q.1 s = .next t ∧ t.spdmOut = s.spdmOut ++ [y] ∧ t.sec = s.sec.setSessions tr (t.sec.sessions tr)
        ∧ NMap.get? (t.sec.sessions tr) sn = (NMap.get? (s.sec.sessions tr) sn).bind q.2
        ∧ ∀ k, k ≠ sn → NMap.get? (t.sec.sessions tr) k = NMap.get? (s.sec.sessions tr) k)
    ∧ (∀ q ∈ [(Instr.spdmFinish tr sn req, 0xE5), (.spdmKeyUpdate tr sn req, 0xE9), (.spdmHeartbeat tr sn req, 0xE8), (.spdmEndSession tr sn req, 0xEC)],
      NMap.has (s.sec.sessions tr) sn = false →
      Sys2Proof.Machine.exec q.1 s = .next { s with spdmOut := s.spdmOut ++ [Config.spdmError q.2 tr req] })

/-- IDE_KM on an established session delivers a stream's next key or brings the one delivered into force, which makes the stream secure again and lets the writes held for it go out; an insecure stream loses its key and stops the DMA of its functions, reports one error of origin HS and quarantines their partitions; one that was never keyed runs plain. JTAG beyond boundary scan is counted as refused while debug is locked (R501, R502, R505). KEY_IMPORT sets or clears the slot it names, replacing what stood there, and a key that does not unwrap or is no point fails E_KEY; ATTEST writes its report to REPORT_ADDR when it fits, and nothing when it does not (R494, R499, R500). -/
def Obligations.KeysStreamsAndReports : Prop :=
  ((∀ (s : State) (sn stream : Nat) (x : Session), NMap.get? s.sec.doe sn = some x → x.established = true → stream ≤ 8 → s.secUp = true →
    (∃ t k, Sys2Proof.Machine.exec (.ideKmRequest sn stream false) s = .next t
      ∧ NMap.get? t.sec.ide stream = some { NMap.getD s.sec.ide stream {} with next := some k })
    ∧ (∀ k, (NMap.getD s.sec.ide stream {}).next = some k →
      ∃ t, Sys2Proof.Machine.exec (.ideKmRequest sn stream true) s = .next t
        ∧ NMap.get? t.sec.ide stream = some { next := none, key := some k, insecure := false, fns := Config.ideFunctions stream }
        ∧ ∀ w ∈ t.stalled, (t.dmaStop w.fn).isSome = true)
    ∧ ((NMap.getD s.sec.ide stream {}).next = none → Sys2Proof.Machine.exec (.ideKmRequest sn stream true) s = .next s))
  ∧ (∀ (s : State) (stream : Nat), s.parts = [] → s.cmds = [] → (NMap.getD s.sec.ide stream {}).key.isSome = true →
    ∃ t, Sys2Proof.Machine.exec (.ideStreamInsecure stream) s = .next t
    ∧ NMap.get? t.sec.ide stream = some { NMap.getD s.sec.ide stream {} with key := none, insecure := true }
    ∧ t.errs = (s.report { origin := originId 0 0x0B 0, cls := 0x0D, reporter := originId 0 0x0B 0, status := E_IDE_STREAM, detail := stream }).errs)
  ∧ (∀ (s : State) (stream : Nat), (NMap.getD s.sec.ide stream {}).key.isSome = true →
    ∃ t, Sys2Proof.Machine.exec (.ideStreamInsecure stream) s = .next t
    ∧ (∃ e, NMap.get? t.sec.ide stream = some e ∧ e.insecure = true ∧ e.key = none)
    ∧ (∀ fn, (NMap.getD s.sec.ide stream {}).fns.contains fn = true → (t.dmaStop fn).isSome = true)
    ∧ ∀ k p, NMap.get? s.parts k = some p → (NMap.getD s.sec.ide stream {}).fns.contains p.function = true →
      ∃ q, NMap.get? t.parts k = some q ∧ q.quarantine.isSome = true)
  ∧ (∀ (s : State) (stream : Nat), (NMap.getD s.sec.ide stream {}).key = none → Sys2Proof.Machine.exec (.ideStreamInsecure stream) s = .next s)
  ∧ (∀ s : State, s.sec.unlocked = false →
    Sys2Proof.Machine.exec (.jtagInstruction false) s = .next { s with sec := { s.sec with jtagRefused := min (s.sec.jtagRefused + 1) 0xFFFF } })
  ∧ (∀ s : State, Sys2Proof.Machine.exec (.jtagInstruction true) s = .next s))
  ∧ ((∀ (s : State) (id : Nat) (c : Cmd) (p : Part), Live s id 0x51 c → NMap.get? s.parts c.owner = some p →
    (c.f 18 1 = 0 → ∃ t, Sys2Proof.Machine.exec (.keyImportContent id) s = .next t ∧ t.cmd? id = none
      ∧ (match unwrapKey s c.owner c.desc with
        | some k => ∃ q, NMap.get? t.parts c.owner = some q ∧ NMap.get? q.contentKeys (c.f 16 2) = some k
        | none => t = (s.startCmd id).failCmd id E_KEY 4))
    ∧ (c.f 18 1 = 1 → ∃ t, Sys2Proof.Machine.exec (.keySetPublisher id) s = .next t ∧ t.cmd? id = none
      ∧ (if Config.ed448Point ((c.desc.drop 20).take 57) = true then
          ∃ q, NMap.get? t.parts c.owner = some q ∧ NMap.get? q.publisherKeys (c.f 16 2) = some ((c.desc.drop 20).take 57)
        else t = (s.startCmd id).failCmd id E_KEY 5))
    ∧ (c.f 18 1 = 2 → ∃ t q, Sys2Proof.Machine.exec (.keyClearContent id) s = .next t ∧ t.cmd? id = none
      ∧ NMap.get? t.parts c.owner = some q ∧ NMap.get? q.contentKeys (c.f 16 2) = none)
    ∧ (c.f 18 1 = 3 → ∃ t q, Sys2Proof.Machine.exec (.keyClearPublisher id) s = .next t ∧ t.cmd? id = none
      ∧ NMap.get? t.parts c.owner = some q ∧ NMap.get? q.publisherKeys (c.f 16 2) = none))
  ∧ (∀ (s : State) (id : Nat) (c : Cmd), Live s id 0x4D c → (c.f 16 1 = 1 → NMap.has s.parts (c.f 17 1) = true) →
    (128 + 80 * (measurements s (c.f 16 1) (c.f 17 1)).length + 114 ≤ c.f 64 4 →
      Sys2Proof.Machine.exec (.attest id) s = .next (((s.hostWrite (s.functionOf c.owner) (c.f 56 8) (attestReport s c.desc)).startCmd id).finish id OK (measurements s (c.f 16 1) (c.f 17 1)).length))
    ∧ (c.f 64 4 < 128 + 80 * (measurements s (c.f 16 1) (c.f 17 1)).length + 114 →
      Sys2Proof.Machine.exec (.attest id) s = .next ((s.startCmd id).failCmd id E_REPORT_SPACE
        (ceilDiv (128 + 80 * (measurements s (c.f 16 1) (c.f 17 1)).length + 114) 64)))))

/-- PART_CREATE that no check refuses makes the partition with its function, its groups, every setting at its default and its admin pair, and nothing is kept under its number; PART_DESTROY removes the partition with its rings, fences, plans, tables, temper entries, objects, steps, alloys, models, groups, sequences and frames; QUOTA_SET applies its whole list, the last item of a key and instance giving the value, or none of it (R440 to R443). RING_CREATE within its ranges makes the ring it describes, empty; RING_DESTROY of a submission ring whose admitted commands all have their records, or of a completion ring in which none holds a slot, removes it, and until then the ring is stopped; outside its ranges either fails with the first bad byte (R39, R40). -/
def Obligations.PartitionsAndRings : Prop :=
  ((∀ (s : State) (id : Nat) (c : Cmd), Live s id 0x40 c → c.owner = packageOwner → c.f 16 1 < 16 →
    (∀ n, partCreateFail s c.desc = some n → Sys2Proof.Machine.exec (.partCreate id) s = .next ((s.startCmd id).failCmd id E_PART_STATE n))
    ∧ (partCreateFail s c.desc = none → ∃ t p, Sys2Proof.Machine.exec (.partCreate id) s = .next t ∧ t.cmd? id = none
      ∧ NMap.get? t.parts (c.f 16 1) = some p ∧ p = { function := c.f 17 1, groups := BitVec.ofNat 96 (c.f 20 12) }
      ∧ t.sub? (c.f 16 1) 0 = some { log2 := c.f 32 1, home := homeDie p (c.f 34 1), defaultCq := 0, base := c.f 48 8, headWb := c.f 64 8 }
      ∧ t.comp? (c.f 16 1) 0 = some { log2 := c.f 33 1, home := homeDie p (c.f 34 1), base := c.f 56 8, vector := c.f 36 2, modCount := c.f 38 2, modTime := c.f 40 2 }
      ∧ (∀ f < 4096, t.fence (c.f 16 1) f = {}) ∧ (∀ i < 65536, t.plan? (c.f 16 1) i = none) ∧ (∀ i < 128, t.table (c.f 16 1) i = {})
      ∧ (∀ l < 4096, t.temper (c.f 16 1) l = {}) ∧ (∀ h < 2 ^ 32, NMap.get? t.objects (objKey (c.f 16 1) h) = none)))
  ∧ (∀ (s : State) (id : Nat) (c : Cmd), Live s id 0x41 c → c.owner = packageOwner → c.f 16 1 < 16 →
    (NMap.has s.parts (c.f 16 1) = false → Sys2Proof.Machine.exec (.partDestroy id) s = .next ((s.startCmd id).failCmd id E_PART_STATE 5))
    ∧ (NMap.has s.parts (c.f 16 1) = true → ∃ t, Sys2Proof.Machine.exec (.partDestroy id) s = .next t ∧ t.cmd? id = none
      ∧ NMap.get? t.parts (c.f 16 1) = none ∧ (∀ r < 1024, t.sub? (c.f 16 1) r = none ∧ t.comp? (c.f 16 1) r = none)
      ∧ (∀ x ∈ s.cmds, x.2.owner = c.f 16 1 → x.2.uncommitted = true → t.cmd? x.1 = none)
      ∧ (∀ f < 4096, t.fence (c.f 16 1) f = {}) ∧ (∀ i < 65536, t.plan? (c.f 16 1) i = none) ∧ (∀ i < 128, t.table (c.f 16 1) i = {})
      ∧ (∀ l < 4096, t.temper (c.f 16 1) l = {}) ∧ (∀ h < 2 ^ 32, NMap.get? t.objects (objKey (c.f 16 1) h) = none)
      ∧ (∀ h < 2 ^ 32, NMap.get? t.steps (stepKey (c.f 16 1) h) = none ∧ NMap.get? t.alloys (objKey (c.f 16 1) h) = none)
      ∧ (∀ m ∈ t.models, m.2.owner ≠ c.f 16 1) ∧ (∀ g ∈ t.groups, g.2.part ≠ c.f 16 1)
      ∧ (∀ q ∈ t.seqs, q.2.part = c.f 16 1 → q.2.state = .free) ∧ (∀ m ∈ t.frames, ∀ f ∈ m, f.2.part ≠ c.f 16 1)))
  ∧ (∀ (s s0 s1 : State) (id : Nat) (c : Cmd) (items : List Item), Live s id 0x50 c →
    s0 = s.asDma (s.functionOf c.owner) false (c.f 24 8) (16 * c.f 18 2) → items = readItems s (c.f 24 8) (c.f 18 2) → s1 = items.foldl (applyItem (c.f 16 1)) s0 →
    (c.f 16 1 < 16 → NMap.has s.parts (c.f 16 1) = false → Sys2Proof.Machine.exec (.quotaSet id) s = .next ((s0.startCmd id).failCmd id E_PART_STATE 5))
    ∧ ((c.f 16 1 < 16 → NMap.has s.parts (c.f 16 1) = true) →
      (∀ k, items.findIdx? (fun i => !(itemOk s0 (c.f 16 1) i)) = some k → Sys2Proof.Machine.exec (.quotaSet id) s = .next ((s0.startCmd id).failCmd id E_QUOTA_ITEM k))
      ∧ ((∀ i ∈ items, itemOk s0 (c.f 16 1) i = true) →
        (∀ k, quotaFail s0 s1 (c.f 16 1) items = some k → Sys2Proof.Machine.exec (.quotaSet id) s = .next ((s0.startCmd id).failCmd id E_QUOTA k))
        ∧ (quotaFail s0 s1 (c.f 16 1) items = none → ∃ t, Sys2Proof.Machine.exec (.quotaSet id) s = .next t ∧ t.cmd? id = none
          ∧ t = (s1.drainAll.startCmd id).finish id OK 0
          ∧ ∀ (xs ys : List Item) (i : Item) (d : Nat), items = xs ++ i :: ys → d ∈ itemInsts s0 (c.f 16 1) i →
            (∀ y ∈ ys, y.key = i.key → d ∉ itemInsts s0 (c.f 16 1) y) → c.f 16 1 < 16 →
            ∃ p, NMap.get? t.parts (c.f 16 1) = some p ∧ NMap.get? p.sets (i.key * 256 + d) = some i.value)))))
  ∧ ((∀ (s : State) (id : Nat) (c : Cmd) (p : Part), Live s id 0x42 c → NMap.get? s.parts c.owner = some p →
    (∀ n, ringCreateRange s c.owner c.desc = some n → Sys2Proof.Machine.exec (.ringCreate id) s = .next ((s.startCmd id).failCmd id E_BAD_DESCRIPTOR n))
    ∧ (ringCreateRange s c.owner c.desc = none → ∃ t, Sys2Proof.Machine.exec (.ringCreate id) s = .next t ∧ t.cmd? id = none
      ∧ (c.f 18 1 = 0 → ∃ r, t.sub? c.owner (c.f 16 2) = some r ∧ r.log2 = c.f 19 1 ∧ r.concurrent = decide (c.f 20 1 = 1) ∧ r.home = homeDie p (c.f 21 1)
          ∧ r.defaultCq = c.f 22 2 ∧ r.base = c.f 24 8 ∧ r.headWb = c.f 32 8 ∧ r.head = 0 ∧ r.tail = 0 ∧ r.fetched = [] ∧ r.halted = false ∧ r.stopped = false)
      ∧ (c.f 18 1 = 1 → ∃ r, t.comp? c.owner (c.f 16 2) = some r ∧ r.log2 = c.f 19 1 ∧ r.base = c.f 24 8 ∧ r.vector = c.f 40 2 ∧ r.modCount = c.f 42 2
          ∧ r.modTime = c.f 44 2 ∧ r.stopped = false ∧ (c.cq ≠ c.f 16 2 → r.head = 0 ∧ r.next = 0 ∧ r.phase = true ∧ r.recs = []))))
  ∧ (∀ (s : State) (id : Nat) (c : Cmd), Live s id 0x43 c → c.phase ≠ .executed →
    ∀ n, ringDestroyRange s c.owner c.desc = some n → Sys2Proof.Machine.exec (.ringDestroy id) s = .next ((s.startCmd id).failCmd id E_BAD_DESCRIPTOR n))
  ∧ (∀ (s : State) (id : Nat) (c : Cmd), Live s id 0x43 c → c.phase = .executed ∨ ringDestroyRange s c.owner c.desc = none →
    (c.f 18 1 = 0 →
      (s.ringCmds c.owner (c.f 16 2) = [] → ∃ t, Sys2Proof.Machine.exec (.ringDestroy id) s = .next t ∧ t.sub? c.owner (c.f 16 2) = none ∧ t.cmd? id = none)
      ∧ ((∃ x ∈ s.ringCmds c.owner (c.f 16 2), x.1 ≠ id) → (s.sub? c.owner (c.f 16 2)).isSome = true → ∃ t r, Sys2Proof.Machine.exec (.ringDestroy id) s = .next t
        ∧ t.sub? c.owner (c.f 16 2) = some r ∧ r.stopped = true ∧ (t.cmd? id).isSome = true))
    ∧ (∀ r, c.f 18 1 = 1 → s.comp? c.owner (c.f 16 2) = some r →
      (r.reserved = 0 → ∃ t, Sys2Proof.Machine.exec (.ringDestroy id) s = .next t ∧ t.comp? c.owner (c.f 16 2) = none ∧ t.cmd? id = none)
      ∧ (r.reserved ≠ 0 → ∃ t, Sys2Proof.Machine.exec (.ringDestroy id) s = .next t ∧ t.comp? c.owner (c.f 16 2) = some { r with stopped := true }
        ∧ (t.cmd? id).isSome = true))))

/-- OBJECT_REGISTER of a free handle that fits its quotas creates the object of its descriptor with every ingot unwritten; OBJECT_RELEASE of one that no other admitted command names and that is no gradient mask removes it and no other; a write-back, for space or after 10 µs without DMA, puts one dirty ingot at its slot of host memory and clears its mark (R350, R358, R359). PLAN_INSTALL of an image that passes every check stores it with its output-tile group; PLAN_RETIRE of a plan no admitted command runs removes it; TABLE_LOAD puts a checked image into the bank that is not in force and makes that bank active; clear leaves the slot empty (R15, R18, R57, R211). -/
def Obligations.ObjectsPlansAndTables : Prop :=
  ((∀ (s : State) (id : Nat) (c : Cmd) (p : Part), Live s id 0x47 c → NMap.get? s.parts c.owner = some p →
    (c.f 48 4 ≠ 0 → (s.resolve c.owner (c.f 48 4)).isSome = true) →
    s.handleUsed c.owner (c.f 16 4) = false → s.fits c.owner (registerObj p c.desc) = true →
    ∃ t o, Sys2Proof.Machine.exec (.objectRegister id) s = .next t ∧ t.cmd? id = none ∧ NMap.get? t.objects (objKey c.owner (c.f 16 4)) = some o
      ∧ o.kind = c.f 20 1 ∧ o.fmt = c.f 21 1 ∧ o.rows = c.f 28 4 ∧ o.cols = c.f 32 4 ∧ o.bytes = c.f 40 8 ∧ o.tier = c.f 23 1 ∧ o.dies = p.dieList
      ∧ o.mem0 = [] ∧ o.mem1 = [] ∧ o.vmap = [] ∧ o.commits = 0
      ∧ ∀ k, k ≠ objKey c.owner (c.f 16 4) → NMap.get? t.objects k = NMap.get? s.objects k)
  ∧ (∀ (s : State) (id : Nat) (c : Cmd) (o : Obj), Live s id 0x48 c → s.obj? c.owner (c.f 16 4) = some (objKey c.owner (c.f 16 4), o) → o.model = false →
    (∀ x ∈ s.cmds, x.1 ≠ id → objKey c.owner (c.f 16 4) ∉ s.named x.2) → (∀ x ∈ s.objects, x.1 / 2 ^ 32 = c.owner → x.2.gradMask ≠ c.f 16 4) →
    ∃ t, Sys2Proof.Machine.exec (.objectRelease id) s = .next t ∧ t.cmd? id = none ∧ NMap.get? t.objects (objKey c.owner (c.f 16 4)) = none
      ∧ ∀ k, k ≠ objKey c.owner (c.f 16 4) → NMap.get? t.objects k = NMap.get? s.objects k)
  ∧ (∀ (s : State) (part handle ingot : Nat) (o : Obj), NMap.get? s.objects (objKey part handle) = some o → s.linkUp = true → o.tier = 3 → ingot ∈ o.dirty → handle < 2 ^ 32 → s.dmaStop (s.functionOf part) = none →
    s.spaceNeeds (objKey part handle) ingot = true ∨ 1000 ≤ (s.counter 0 - s.lastDma).toNat →
    ∃ t o1, Sys2Proof.Machine.exec (.t3WriteBack part handle ingot) s = .next t
      ∧ t.host = Mem.writeRange s.host (o.hostSlot (slotIn o.vmap ingot) ingot) (o.readSlot (slotIn o.vmap ingot) ingot)
      ∧ NMap.get? t.objects (objKey part handle) = some o1 ∧ o1 = { o with dirty := o1.dirty } ∧ ingot ∉ o1.dirty
      ∧ ∀ n, n ≠ ingot → (n ∈ o1.dirty ↔ n ∈ o.dirty)))
  ∧ ((∀ (s : State) (id : Nat) (c : Cmd), Live s id 0x44 c → planFault s c.owner (dPlan c.desc) (s.hostRead (c.f 16 8) (c.f 24 4)) = none →
    s.planFits c.owner (s.hostRead (c.f 16 8) (c.f 24 4)).length = true →
    ∃ t p, Sys2Proof.Machine.exec (.planInstall id) s = .next t ∧ t.cmd? id = none ∧ NMap.get? t.plans (planKey c.owner (dPlan c.desc)) = some p
      ∧ p.image = s.hostRead (c.f 16 8) (c.f 24 4) ∧ p.kind = planKind p.image ∧ (p.groupM, p.groupN) = planGroup p.image ∧ p.retiring = false)
  ∧ (∀ (s : State) (id : Nat) (c : Cmd) (p : Plan), Live s id 0x45 c → s.plan? c.owner (dPlan c.desc) = some p → p.retiring = false →
    (∀ x ∈ s.ownerCmds c.owner, runsPlan x.2.opcode = false) →
    ∃ t, Sys2Proof.Machine.exec (.planRetire id) s = .next t ∧ t.cmd? id = none ∧ NMap.get? t.plans (planKey c.owner (dPlan c.desc)) = none)
  ∧ (∀ (s : State) (id : Nat) (c : Cmd) (p : Part), Live s id 0x46 c → c.f 17 1 = 0 → NMap.get? s.parts c.owner = some p →
    tableFault (s.hostRead (c.f 24 8) (c.f 20 4)) (c.f 20 4) = none → s.tableWaits id c.owner (c.f 16 1) = false →
    (∀ d ∈ p.dieList, s.t2Use c.owner d + (s.hostRead (c.f 24 8) (c.f 20 4)).length ≤ s.setting c.owner 0x0002 d) →
    ∃ t, Sys2Proof.Machine.exec (.tableLoad id) s = .next t ∧ t.cmd? id = none ∧ (t.table c.owner (c.f 16 1)).active = some (s.inactiveBank c.owner (c.f 16 1))
      ∧ (if s.inactiveBank c.owner (c.f 16 1) then (t.table c.owner (c.f 16 1)).bank1 = some (s.hostRead (c.f 24 8) (c.f 20 4))
          ∧ (t.table c.owner (c.f 16 1)).bank0 = (s.table c.owner (c.f 16 1)).bank0
        else (t.table c.owner (c.f 16 1)).bank0 = some (s.hostRead (c.f 24 8) (c.f 20 4))
          ∧ (t.table c.owner (c.f 16 1)).bank1 = (s.table c.owner (c.f 16 1)).bank1))
  ∧ (∀ (s : State) (id : Nat) (c : Cmd), Live s id 0x46 c → c.f 17 1 = 1 → s.tableWaits id c.owner (c.f 16 1) = false →
    ∃ t, Sys2Proof.Machine.exec (.tableClear id) s = .next t ∧ t.cmd? id = none ∧ t.table c.owner (c.f 16 1) = { s.table c.owner (c.f 16 1) with active := none }))

/-- GROUP_SET of a legal member list defines the entry; clear frees it, with the fingerprints that waited for it (R400). ABORT of an admitted command that is before its decision point, and no COLLECTIVE that has sent DONE, ends the target without effect and completes OK; of a fetched one, it gives that its record first; with no target it completes E_ALREADY_COMPLETE (R453). A VF reset leaves its partition no uncommitted command, no work ring and no fence set, and its admin pair empty (R33). -/
def Obligations.GroupsAbortAndFunctionReset : Prop :=
  ((∀ (s : State) (id : Nat) (c : Cmd), Live s id 0x4E c → c.f 18 1 = 0 → s.groupHeld id (c.f 16 2) = false →
    s.groupFail c.owner (c.f 16 2) (c.f 20 1) (readMembers s (c.f 24 8) (c.f 19 1)) = none →
    ∃ t g, Sys2Proof.Machine.exec (.groupSet id) s = .next t ∧ t.cmd? id = none ∧ NMap.get? t.groups (c.f 16 2) = some g
      ∧ g = { part := c.owner, rank := c.f 20 1, gen := c.f 22 2, members := readMembers s (c.f 24 8) (c.f 19 1) })
  ∧ (∀ (s : State) (id : Nat) (c : Cmd) (g : Group), Live s id 0x4E c → c.f 18 1 = 1 → s.groupHeld id (c.f 16 2) = false →
    NMap.get? s.groups (c.f 16 2) = some g → g.part = c.owner →
    ∃ t, Sys2Proof.Machine.exec (.groupClear id) s = .next t ∧ t.cmd? id = none ∧ NMap.get? t.groups (c.f 16 2) = none
      ∧ ∀ m ∈ t.fprintWait, m.group ≠ c.f 16 2))
  ∧ ((∀ (s s1 : State) (id : Nat) (c : Cmd) (r : SubRing), Live s id 0x0D c → c.target = none → s.sub? c.owner (c.f 16 2) = some r →
    s1 = s.fetchRest c.owner (c.f 16 2) →
    (∀ tgt x, s1.abortTarget c.owner (c.f 16 2) (c.f 20 4) = some (.inl tgt) → s.cmd? tgt = some x → x.uncommitted = true →
      (∀ k, x.coll = some k → k.sentDone = false) →
      Sys2Proof.Machine.exec (.abort id) s = .next ((s1.failCmd tgt E_ABORTED 0).finish id OK 0))
    ∧ (∀ y r1, s1.abortTarget c.owner (c.f 16 2) (c.f 20 4) = some (.inr y) → s1.sub? c.owner (c.f 16 2) = some r1 →
      s1.slotFree c.owner (s1.cqOf c.owner r1 y.desc) = true →
      Sys2Proof.Machine.exec (.abort id) s = .next ((s1.failFetched c.owner (c.f 16 2) r1 y E_ABORTED 0).finish id OK 0))
    ∧ (s1.abortTarget c.owner (c.f 16 2) (c.f 20 4) = none → Sys2Proof.Machine.exec (.abort id) s = .next ((s1.startCmd id).failCmd id E_ALREADY_COMPLETE 0)))
  ∧ (∀ (s : State) (vf p : Nat) (q : Part), vf ≠ 0 → s.parts.find? (fun x => x.2.function == vf) = some (p, q) →
    ∃ t, Sys2Proof.Machine.exec (.vfFlr vf) s = .next t ∧ (∀ x ∈ s.cmds, x.2.owner = p → x.2.uncommitted = true → t.cmd? x.1 = none)
      ∧ (∀ r, 0 < r → r < 1024 → t.sub? p r = none ∧ t.comp? p r = none) ∧ (∀ f < 4096, t.fence p f = {}) ∧ NMap.get? t.msix vf = none
      ∧ (∀ r, s.sub? p 0 = some r → ∃ r1, t.sub? p 0 = some r1 ∧ r1.base = r.base ∧ r1.head = 0 ∧ r1.tail = 0 ∧ r1.fetched = [] ∧ r1.halted = false)
      ∧ (∀ r, s.comp? p 0 = some r → ∃ r1, t.comp? p 0 = some r1 ∧ r1.base = r.base ∧ r1.head = 0 ∧ r1.next = 0 ∧ r1.phase = true ∧ r1.recs = []
          ∧ r1.armed = false)))

/-- Every 100,000 ticks of a die each ring's SERVED count there is halved; every 100 ticks each metered bucket gains its rate up to its burst, where no request waits (R446, R456). -/
def Obligations.TimersOfTheScheduler : Prop :=
  (∀ (s : State) (die : Nat) (t : Word), ((s.reach die t).counter die).toNat % 100000 = 0 →
    ∃ u, Sys2Proof.Machine.exec (.servedHalving die t) s = .next u
      ∧ ∀ k r, NMap.get? s.subs k = some r → NMap.get? u.subs k = some { r with served := r.served.modify die (· / 2) })
  ∧ (∀ (s : State) (die : Nat) (t : Word), ((s.reach die t).counter die).toNat % 100 = 0 → (∀ q ∈ s.queues, q.2.waiting = []) →
    ∃ u, Sys2Proof.Machine.exec (.regulatorRefill die t) s = .next u
      ∧ ∀ k p, NMap.get? s.parts k = some p → NMap.get? u.parts k = some ((meteredAt die).foldl Part.refill p))

/-- POWER_SET in its turn: an allowed move of the package, once nothing else is admitted where it leaves PK0 and no MEM_MARGIN where it puts the stacks to sleep; an arithmetic point, reached at once by a die that slows down and after the regulator settles by one that speeds up; groups off when nothing runs on them, with their stores discarded; groups on; and a cycle that waits for its timer. A move not allowed and a group or die that is fenced fail (R509, R510, R513, R515, R516, R518). MEM_MARGIN of an awake stack that no earlier one of the same stack holds writes its result to host memory and completes OK with the failing channels as detail, whatever its KIND; a stack in self-refresh fails it (R344, R345). What the eye measures is free. -/
def Obligations.PowerSetAndMarginComplete : Prop :=
  (∀ (s : State) (id : Nat) (c : Cmd), Live s id 0x4B c → s.powerTurn id = true →
    (c.f 16 1 = 0 → pkAllowed s.power.pk (c.f 17 1) = false → Sys2Proof.Machine.exec (.powerSetPackageState id) s = .next ((s.startCmd id).failCmd id E_POWER_STATE 1))
    ∧ (c.f 16 1 = 0 → c.f 17 1 ≠ 0 → pkAllowed s.power.pk (c.f 17 1) = true → (s.power.pk = 0 → ∀ x ∈ s.cmds, x.1 = id) →
      (2 ≤ c.f 17 1 → ∀ x ∈ s.cmds, x.2.opcode ≠ 0x52) →
      ∃ t, Sys2Proof.Machine.exec (.powerSetPackageState id) s = .next t ∧ t.cmd? id = none ∧ t.power.pk = c.f 17 1
        ∧ (c.f 17 1 = 2 ∨ c.f 17 1 = 3 → ∀ x ∈ t.hbm, x.selfRefresh = true) ∧ (c.f 17 1 = 4 → t.pins.pwrReq = false))
    ∧ (c.f 16 1 = 0 → c.f 17 1 = 0 → pkAllowed s.power.pk 0 = true →
      ∃ t, Sys2Proof.Machine.exec (.powerSetPackageState id) s = .next t ∧ t.cmd? id = none ∧ t.power.pk = 0 ∧ ∀ x ∈ t.hbm, x.selfRefresh = false)
    ∧ (c.f 16 1 = 1 → s.shapeOk → (∀ n, apFail s (c.f 18 1) (c.f 17 1) = some n →
        Sys2Proof.Machine.exec (.powerSetArithPoint id) s = .next ((s.startCmd id).failCmd id E_POWER_STATE n))
      ∧ (apFail s (c.f 18 1) (c.f 17 1) = none → ∃ t, Sys2Proof.Machine.exec (.powerSetArithPoint id) s = .next t
        ∧ (∀ d < 8, t.diePower d = if (c.f 18 1).testBit d then (s.diePower d).change (c.f 17 1) (s.setPoint d (c.f 17 1)) else s.diePower d)
        ∧ ((∀ d < 8, (c.f 18 1).testBit d = true → (s.diePower d).ap ≤ c.f 17 1) → t.cmd? id = none)
        ∧ ((∃ d < 8, (c.f 18 1).testBit d = true ∧ c.f 17 1 < (s.diePower d).ap) → t.cmd? id = some { c with phase := .committing })))
    ∧ (groupsFenced s (groupBits c.desc) = true →
      (c.f 16 1 = 2 → Sys2Proof.Machine.exec (.powerSetGroupsOff id) s = .next ((s.startCmd id).failCmd id E_POWER_STATE 2))
      ∧ (c.f 16 1 = 3 → Sys2Proof.Machine.exec (.powerSetGroupsOn id) s = .next ((s.startCmd id).failCmd id E_POWER_STATE 2))
      ∧ (c.f 16 1 = 4 → Sys2Proof.Machine.exec (.powerSetGroupsCycle id) s = .next ((s.startCmd id).failCmd id E_POWER_STATE 2)))
    ∧ (c.f 16 1 = 2 → groupsFenced s (groupBits c.desc) = false → s.groupsBusy (groupBits c.desc) = false →
      ∃ t, Sys2Proof.Machine.exec (.powerSetGroupsOff id) s = .next t ∧ t.cmd? id = none ∧ t.power.gated = s.power.gated ||| groupBits c.desc
        ∧ (s.shapeOk → ∀ g < 96, (groupBits c.desc).getLsbD g = true → ∀ l, l / 8 = g % 12 → (t.dieAt (g / 12)).stores.getD l [] = []))
    ∧ (c.f 16 1 = 3 → groupsFenced s (groupBits c.desc) = false →
      ∃ t, Sys2Proof.Machine.exec (.powerSetGroupsOn id) s = .next t ∧ t.cmd? id = none ∧ t.power.gated = s.power.gated &&& ~~~(groupBits c.desc))
    ∧ (c.f 16 1 = 4 → groupsFenced s (groupBits c.desc) = false → s.groupsBusy (groupBits c.desc) = false →
      ∃ t d, Sys2Proof.Machine.exec (.powerSetGroupsCycle id) s = .next t ∧ t.cmd? id = some d ∧ d.phase = .committing
        ∧ t.power.gated = s.power.gated ||| groupBits c.desc ∧ t.power.cycle = some ((groupBits c.desc).toNat, s.counter 0 + 10000)))
  ∧ (∀ (s : State) (id : Nat) (c : Cmd), Live s id 0x52 c → (∀ x ∈ s.cmds, x.1 < id → x.2.opcode = 0x52 → x.2.f 16 1 ≠ c.f 16 1) →
    ∀ q ∈ [(Instr.memMarginReadScan id, 0), (Instr.memMarginTiming id, 1), (Instr.memMarginVoltage id, 2), (Instr.memMarginTimingVoltage id, 3)],
    c.f 17 1 = q.2 →
    ((s.stackAt (c.f 16 1)).selfRefresh = false →
      Sys2Proof.Machine.exec q.1 s = .next ((((s.hostWrite (s.functionOf c.owner) (c.f 24 8) (marginResult s c)).takeFresh).setCmd id { c with home := c.f 16 1 / 3 }).finish id OK (marginFails s c)))
    ∧ ((s.stackAt (c.f 16 1)).selfRefresh = true → Sys2Proof.Machine.exec q.1 s = .next ((s.startCmd id).failCmd id E_MARGIN_STATE 1)))

/-- The power events that end what POWER_SET began: a settled set-point changes the frequency, and the cycle's timer switches the groups on; each then gives the POWER_SET that waited its record. A group serves 20 µs after it was switched on (R513, R515, R516). What the sensors bring: the stack's temperature, refresh and clamp; the protective trip; the calibration; the telemetry block; the rails; a regulator fault; a throttle level moves by the clamp's rule on the corrected samples (R341, R508, R519, R521, R522). -/
def Obligations.PowerAndSensorEvents : Prop :=
  ((∀ (s : State) (die ap : Nat), die < 8 → s.shapeOk → (s.diePower die).apNext = some ap →
    ∃ t, Sys2Proof.Machine.exec (.apSettleDone die) s = .next t ∧ (t.diePower die).ap = ap ∧ (t.diePower die).apNext = none
      ∧ ∀ x ∈ s.cmds, x.2.opcode = 0x4B → x.2.f 16 1 = 1 → x.2.uncommitted = false →
        (∀ d < 8, (x.2.f 18 1).testBit d = true → d = die ∨ (s.diePower d).apNext = none) → t.cmd? x.1 = none)
  ∧ (∀ (s : State) (t : Word) (g : Nat) (at_ : Word), s.power.cycle = some (g, at_) → at_ ≤ (s.reach 0 t).counter 0 →
    ∃ u, Sys2Proof.Machine.exec (.groupsCycleOnTimer t) s = .next u ∧ u.power.cycle = none ∧ u.power.gated = s.power.gated &&& ~~~(BitVec.ofNat 96 g)
      ∧ ∀ x ∈ s.cmds, x.2.opcode = 0x4B → x.2.f 16 1 = 4 → x.2.uncommitted = false → u.cmd? x.1 = none)
  ∧ (∀ (s : State) (group : Nat) (t : Word), ∃ u, Sys2Proof.Machine.exec (.quireGroupReady group t) s = .next u
    ∧ (∀ x, x ∈ u.power.turningOn ↔ x ∈ s.power.turningOn ∧ ¬(x.1 = group ∧ x.2 ≤ (s.reach (group / 12) t).counter (group / 12)))))
  ∧ ((∀ (s : State) (stack : Nat) (temp : Int) (t : Word), s.boot = .ready → s.shapeOk → stack < 24 → temp ≤ 100 →
    ∃ u, Sys2Proof.Machine.exec (.stackTempReport stack temp t) s = .next u ∧ (u.stackAt stack).temp = temp
      ∧ (u.stackAt stack).doubleRefresh = decide (85 < temp) ∧ (95 < temp → (u.stackAt stack).clamped = true) ∧ (temp < 90 → (u.stackAt stack).clamped = false)
      ∧ (90 ≤ temp → temp ≤ 95 → (u.stackAt stack).clamped = (s.stackAt stack).clamped) ∧ (u.stackAt stack).lines = (s.stackAt stack).lines ∧ u.boot = .ready)
  ∧ (∀ (s : State) (stack : Nat) (temp : Int) (t : Word), s.boot = .ready → 100 < temp →
    ∃ u, Sys2Proof.Machine.exec (.stackTempReport stack temp t) s = .next u ∧ u.boot = .tripped ∧ u.pins.thermTrip = true ∧ u.pins.pwrReq = false)
  ∧ (∀ (s : State) (isStack : Bool) (unit : Nat) (temp : Int), s.pins.pwrReq = true → (if isStack then 100 < temp else 115 ≤ temp) →
    Sys2Proof.Machine.exec (.protectiveTrip isStack unit temp) s = .next { s with boot := .tripped, pins := { s.pins with thermTrip := true, pwrReq := false } })
  ∧ (∀ (s : State) (die iout sensed : Nat) (t : Word), die < 8 → s.shapeOk → ∃ u, Sys2Proof.Machine.exec (.ioutCalibration die iout sensed t) s = .next u
    ∧ u.diePower die = { s.diePower die with cal := (iout : Int) - (sensed : Int) })
  ∧ (∀ (s : State) (reading : TelemetryReading) (t : Word), s.boot = .ready → s.fatal = false → s.power.pk ≤ 2 →
    ∃ u, Sys2Proof.Machine.exec (.telemetryRefresh reading t) s = .next u ∧ u.power.tel = reading ∧ u.power.telSeq = s.power.telSeq + 2
      ∧ u.power.telCounter = (s.reach 0 t).counter 0)
  ∧ (∀ (s : State) (mw : List Nat) (t : Word), ∃ u, Sys2Proof.Machine.exec (.railPoll mw t) s = .next u ∧ u.power.rails = [mw.getD 0 0, mw.getD 1 0, mw.getD 2 0, mw.getD 3 0])
  ∧ (∀ (s : State) (kind die rail : Nat), ∃ u, Sys2Proof.Machine.exec (.pmbAlert kind die rail) s = .next u ∧ u.power.regFault = true
      ∧ (kind = 0 → u.pins.pmbAlert = true))
  ∧ (∀ (s : State) (die : Nat) (r : ClampReading) (t : Word), s.boot = .ready → die < 8 → s.shapeOk →
    ∃ u, Sys2Proof.Machine.exec (.clampUpdate die r t) s = .next u
      ∧ u.diePower die = (s.diePower die).clamp { r with sampleDa := ((r.sampleDa : Int) + (s.diePower die).cal).toNat, mean1msDa := ((r.mean1msDa : Int) + (s.diePower die).cal).toNat, alert := r.alert && s.pins.pwrGood }
      ∧ ((u.diePower die).level ≠ 0 → u.power.clampSeen = s.power.clampSeen ||| BitVec.ofNat 8 (2 ^ die))))

/-- The cold resets: V1P8_AUX removed and applied, PKG_RST_N, PWR_GOOD lost, Himon late. Each keeps the package flash, gives its cause, restarts every counter and leaves no command, ring, partition or error record (R486, R508, R525, R577). Start-up: PKG_RST_N released asserts PWR_REQ_N, PWR_GOOD lets the boot chain run to Himon or to recovery, and Himon's ready report opens service, after a warm reset too (R486, R487, R507, R528). The warm resets: a PF reset and PERST_N in service lose every command, keep the counters and the error records, count once and give their cause; PERST_N released out of PK3 starts warm with cause 0x12, and out of PK4 cold with cause 0x05 (R34, R526, R528). -/
def Obligations.ResetsAndStartUp : Prop :=
  (∀ s : State,
    (∃ t, Sys2Proof.Machine.exec .v1p8AuxRemoved s = .next t ∧ t.boot = .off ∧ t.resetCause = (if s.boot = .tripped then 4 else 0) ∧ t.flash = s.flash ∧ t.counters = List.replicate 8 0
      ∧ t.cmds = [] ∧ t.subs = [] ∧ t.parts = [] ∧ t.errs = List.replicate 8 [] ∧ t.fatal = false)
    ∧ (s.pins.aux = false → s.pins.pkgRst = true ∨ s.pins.pwrGood = false → ∃ t, Sys2Proof.Machine.exec .v1p8AuxApplied s = .next t
      ∧ t.boot = (if s.pins.pkgRst then .held else .waitPower) ∧ t.resetCause = s.resetCause ∧ t.flash = s.flash
      ∧ t.cmds = [] ∧ t.subs = [] ∧ t.parts = [] ∧ t.pins.aux = true)
    ∧ (s.pins.aux = true → ∃ t, Sys2Proof.Machine.exec .pkgRstNAssert s = .next t ∧ t.boot = .held ∧ t.resetCause = (if s.boot = .tripped then 4 else 1) ∧ t.flash = s.flash
      ∧ t.counters = List.replicate 8 0 ∧ t.cmds = [] ∧ t.subs = [] ∧ t.parts = [] ∧ t.errs = List.replicate 8 [] ∧ t.fatal = false)
    ∧ (s.pins.aux = true → s.pins.pkgRst = false → s.pins.pwrReq = true → s.pins.pwrGood = true → s.fatal = false → s.boot ≠ .tripped →
      ∃ t, Sys2Proof.Machine.exec .pwrGoodLoss s = .next t ∧ t.boot = .waitPower ∧ t.resetCause = 3 ∧ t.flash = s.flash ∧ t.cmds = [] ∧ t.parts = [] ∧ t.pins.pwrGood = false)
    ∧ (∀ (t h : Word), s.boot = .cold → s.fatal = false → s.sec.handOff = some h → 500000000 ≤ ((s.reach 0 t).counter 0 - h).toNat → s.pins.pwrGood = false →
      ∃ u, Sys2Proof.Machine.exec (.himonWatchdogExpiry t) s = .next u ∧ u.boot = .waitPower ∧ u.resetCause = 2 ∧ u.cmds = [] ∧ u.parts = []))
  ∧ (∀ s : State,
    (s.pins.aux = true → s.pins.pkgRst = true → s.boot = .held → s.pins.pwrGood = false → ∃ t, Sys2Proof.Machine.exec .pkgRstNRelease s = .next t
      ∧ t.boot = .waitPower ∧ t.pins.pwrReq = true ∧ t.pins.pkgRst = false)
    ∧ (s.boot = .waitPower → ∃ t, Sys2Proof.Machine.exec .pwrGoodAssert s = .next t ∧ t.pins.pwrGood = true
      ∧ (s.flash.judge.choose = none → t.boot = .recovery ∧ t.sec.recovery = true)
      ∧ (∀ b, s.flash.judge.choose = some b → t.boot = .cold ∧ t.sec.running = some b ∧ t.sec.handOff = some (s.counter 0)))
    ∧ (s.boot = .warm → s.power.pk = 0 → s.pins.perst = false → ∃ t, Sys2Proof.Machine.exec .himonReady s = .next t ∧ t.boot = .ready
      ∧ ∀ x ∈ t.hbm, x.selfRefresh = false)
    ∧ (s.boot = .cold → s.fatal = false → ∃ t, Sys2Proof.Machine.exec .himonReady s = .next t ∧ t.boot = .ready ∧ (∀ x ∈ t.hbm, x.selfRefresh = false)
      ∧ (∀ b, s.sec.running = some b → s.flash.record.seqNo ≠ BitVec.allOnes 32 → (t.flash.slot b).fails = 0)))
  ∧ (∀ s : State, s.boot = .ready → s.fatal = false → s.power.pk ≤ 2 →
    (∃ t, Sys2Proof.Machine.exec .pfFlr s = .next t ∧ t.boot = .warm ∧ t.resetCause = 0x10 ∧ t.warmResets = s.warmResets + 1 ∧ t.counters = s.counters
      ∧ t.errs = s.errs ∧ t.flash = s.flash ∧ (∀ x ∈ t.hbm, x.selfRefresh = true) ∧ t.power.pk = 0)
    ∧ (s.pins.perst = false → ∃ t, Sys2Proof.Machine.exec .perstNAssert s = .next t ∧ t.boot = .warm ∧ t.resetCause = 0x11 ∧ t.warmResets = s.warmResets + 1
      ∧ t.counters = s.counters ∧ t.errs = s.errs ∧ t.flash = s.flash ∧ t.pins.perst = true)
    ∧ (∃ t, Sys2Proof.Machine.exec .perstNRelease s = .next t ∧ t.pins.perst = false ∧ t.boot = .ready ∧ t.resetCause = s.resetCause)
    ∧ (∀ u : State, u.fatal = false → u.power.pk = 3 → ∃ t, Sys2Proof.Machine.exec .perstNRelease u = .next t ∧ t.resetCause = 0x12 ∧ t.power.pk = 0 ∧ t.pins.perst = false)
    ∧ (∀ u : State, u.fatal = false → u.power.pk = 4 → u.boot ≠ .tripped → ∃ t, Sys2Proof.Machine.exec .perstNRelease u = .next t ∧ t.resetCause = 5
      ∧ t.pins.perst = false ∧ t.pins.pwrReq = true))

/-- R577: coinciding events at the lands. -/
def Obligations.CoincidingPinEvents : Prop :=
  (∀ s : State, s.pins.aux = true → ∃ t, Sys2Proof.Machine.exec .pkgRstNAssert s = .next t ∧ t.boot = .held ∧ t.cmds = [] ∧ t.parts = []
    ∧ t.resetCause = (if s.boot = .tripped then 4 else 1) ∧ t.pins.thermTrip = false)
  ∧ (∀ s : State, s.boot = .cold ∨ s.boot = .waitPower → s.fatal = false → ∃ t, Sys2Proof.Machine.exec .perstNAssert s = .next t ∧ t.pins.perst = true ∧ t.boot = s.boot
    ∧ t.resetCause = s.resetCause ∧ t.warmResets = s.warmResets ∧ t.linkUp = false)
  ∧ (∀ s : State, s.boot = .ready → s.fatal = false → s.power.pk ≤ 2 → s.pins.perst = false → ∃ t, Sys2Proof.Machine.exec .perstNAssert s = .next t
    ∧ t.boot = .warm ∧ t.warmResets = s.warmResets + 1)
  ∧ (∀ s : State, s.pins.pwrReq = false ∨ s.pins.pkgRst = true →
    Sys2Proof.Machine.exec .pwrGoodLoss s = .next { s with pins := { s.pins with pwrGood := false } })
  ∧ (∀ (s : State) (die : Nat) (r : ClampReading) (t : Word), s.pins.pwrGood = false →
    Sys2Proof.Machine.exec (.clampUpdate die r t) s = Sys2Proof.Machine.exec (.clampUpdate die { r with alert := false } t) s)
  ∧ (∀ (c : Instr) (s t : State), s.boot = .tripped → s.pins.aux = true → Sys2Proof.Machine.exec c s = .next t →
    t.boot = .tripped ∨ c = .pkgRstNAssert ∨ c = .v1p8AuxRemoved)
  ∧ (∀ s t : State, Sys2Proof.Machine.exec .v1p8AuxRemoved s = .next t → t.pins.thermTrip = false)

/-- The fatal state is left only by PKG_RST_N or by the loss of V1P8_AUX (R545). -/
def Obligations.FatalStateIsKept : Prop :=
  ∀ (c : Instr) (s t : State), s.fatal = true → s.pins.aux = true → Sys2Proof.Machine.exec c s = .next t →
    t.fatal = true ∨ c = .pkgRstNAssert ∨ c = .v1p8AuxRemoved

/-- A far access that no port drops, in its stream's turn, acts at its home slice: a write stores its bytes, within one line, and changes no other byte; a read changes none, and is answered with the 128 bytes of the line and its tag byte, on RSP to another die, else to the unit that asked (the reply's form is the model's choice, log entry 102). One out of its stream's turn changes nothing. A dropped one changes no memory and is not answered (R330, R377, R387). An atomic of Table 14-4 that no port drops, in its stream's turn, replaces the addressed bytes by the operation's result and no other byte, and answers the unit that asks for them with the old ones, on RSP where it is another die's (R332). A line that is poisoned keeps its bytes (the model's choice, log entry 102), and so does one asked for in another width or alignment, which no unit issues. -/
def Obligations.MemoryAccessesReachTheirLine : Prop :=
  ((∀ (s : State) (die kind unit addr x : Nat) (gen : Stamp) (b w : Bytes), s.shapeOk → s.drops die kind unit gen.gen = false → s.native die addr = some x → x / 2 ^ 36 < 24 →
    (s.dieAt (homeOf x)).fenced = false → InTurn s die (homeOf x) 2 gen.seqNo → w = b.take (128 - x % 128) →
    (∃ t, Sys2Proof.Machine.exec (.farAccessRequest die kind unit gen addr true b) s = .next t ∧ OnlyLines s t ∧ OnlyBytesAt s t x w.length
      ∧ t.lineRead x w.length = w ∧ NumberTaken s t die (homeOf x) 2 ∧ t.unitOut = s.unitOut)
    ∧ (homeOf x = die → ∃ t, Sys2Proof.Machine.exec (.farAccessRequest die kind unit gen addr false b) s = .next t ∧ OnlyLines s t ∧ t.hbm = s.hbm
      ∧ t.objects = s.objects ∧ t.frames = s.frames ∧ t.streams = s.streams
      ∧ t.unitOut = s.unitOut ++ [(die, kind, unit, s.lineRead (x / 128 * 128) 128 ++ [if (s.linePoison x).isSome then 1 else 0])])
    ∧ (homeOf x ≠ die → ∃ t, Sys2Proof.Machine.exec (.farAccessRequest die kind unit gen addr false b) s = .next t ∧ OnlyLines s t ∧ t.hbm = s.hbm
      ∧ t.objects = s.objects ∧ t.frames = s.frames ∧ t.unitOut = s.unitOut
      ∧ SentOnSpine s t (homeOf x) die 1 (s.lineRead (x / 128 * 128) 128 ++ [if (s.linePoison x).isSome then 1 else 0])))
  ∧ (∀ (s : State) (die kind unit addr x : Nat) (gen : Stamp) (w : Bool) (b : Bytes), s.drops die kind unit gen.gen = false → s.native die addr = some x →
    (s.dieAt (homeOf x)).fenced = true ∨ (die ≠ homeOf x ∧ gen.seqNo ≠ (NMap.getD s.streams (streamKey die (homeOf x) 2) {}).expect) →
    Sys2Proof.Machine.exec (.farAccessRequest die kind unit gen addr w b) s = .next s)
  ∧ (∀ (s : State) (die kind unit addr : Nat) (gen : Stamp) (w : Bool) (b : Bytes), s.drops die kind unit gen.gen = true →
    ∃ t, Sys2Proof.Machine.exec (.farAccessRequest die kind unit gen addr w b) s = .next t ∧ t.hbm = s.hbm ∧ t.objects = s.objects ∧ t.frames = s.frames ∧ t.host = s.host
      ∧ t.streams = s.streams ∧ t.spineOut = s.spineOut ∧ t.unitOut = s.unitOut))
  ∧ (∀ (s : State) (die kind unit addr x : Nat) (gen : Stamp) (op : AtomicOp) (w y z : Nat) (old : Bool), s.shapeOk → s.drops die kind unit gen.gen = false →
    s.native die addr = some x → x / 2 ^ 36 < 24 → (s.dieAt (homeOf x)).fenced = false → InTurn s die (homeOf x) 2 gen.seqNo →
    ((w = 64 ∧ op ≠ .lineAdd) ∨ (w = 128 ∧ op = .add) ∨ (w = 1024 ∧ op = .lineAdd) → x % (w / 8) = 0 →
      ∃ t, Sys2Proof.Machine.exec (.atomicRequest die kind unit gen addr ⟨op, old⟩ w y z) s = .next t ∧ OnlyLines s t ∧ OnlyBytesAt s t x (w / 8)
        ∧ leNat (t.lineRead x (w / 8)) = (if (s.linePoison x).isSome then leNat (s.lineRead x (w / 8)) else atomicNew op w (leNat (s.lineRead x (w / 8))) y z)
        ∧ (old = true → homeOf x ≠ die → SentOnSpine s t (homeOf x) die 1 (s.lineRead x (w / 8)) ∧ t.unitOut = s.unitOut)
        ∧ (old = true → homeOf x = die → t.unitOut = s.unitOut ++ [(die, kind, unit, s.lineRead x (w / 8))] ∧ t.streams = s.streams)
        ∧ (old = false → NumberTaken s t die (homeOf x) 2 ∧ t.unitOut = s.unitOut))
    ∧ (atomicOk op w x = false → Sys2Proof.Machine.exec (.atomicRequest die kind unit gen addr ⟨op, old⟩ w y z) s = .next s))

/-- LINE_ADD that no port drops, in its stream's turn, adds to the eight lanes of its staging line and to no other. A scrub pass, where the scrub stands, moves on by a line and pauses in self-refresh; a line found uncorrectable, by the scrub or by a fourth failed transfer to its base die, is poisoned with its bytes kept, poisons the object or leaf that it holds, and quarantines the partition whose version map it holds. An equal repair record is not added twice (R332, R336, R338, R340, R547). -/
def Obligations.LinesAndRepairs : Prop :=
  (∀ (s : State) (die : AddRoute) (line : Nat) (x : List Nat), s.shapeOk → die.dst < 8 → line < 131072 → s.drops die.src die.kind die.unit die.stamp.gen = false →
    (s.dieAt die.dst).fenced = false →
    (InTurn s die.src die.dst 3 die.stamp.seqNo → ∃ t, Sys2Proof.Machine.exec (.lineAdd die line x) s = .next t ∧ (∀ d, d ≠ die.dst → t.dieAt d = s.dieAt d)
      ∧ (∀ i < 8, NMap.getD (t.dieAt die.dst).staging (line * 8 + i) 0 = (NMap.getD (s.dieAt die.dst).staging (line * 8 + i) 0 + x.getD i 0) % 2 ^ 128)
      ∧ (∀ k, k / 8 ≠ line → NMap.getD (t.dieAt die.dst).staging k 0 = NMap.getD (s.dieAt die.dst).staging k 0) ∧ NumberTaken s t die.src die.dst 3)
    ∧ (die.src ≠ die.dst → die.stamp.seqNo ≠ (NMap.getD s.streams (streamKey die.src die.dst 3) {}).expect → Sys2Proof.Machine.exec (.lineAdd die line x) s = .next s))
  ∧ (∀ (s : State) (die : AddRoute) (line : Nat) (x : List Nat), s.drops die.src die.kind die.unit die.stamp.gen = true →
    ∃ t, Sys2Proof.Machine.exec (.lineAdd die line x) s = .next t ∧ t.dies = s.dies ∧ t.streams = s.streams)
  ∧ (∀ (s : State) (stack line : Nat) (holds : LineUse), s.shapeOk → stack < 24 →
    ((s.stackAt stack).selfRefresh = true ∨ line ≠ (s.stackAt stack).scrubLine → ∀ n, Sys2Proof.Machine.exec (.patrolScrub stack line n holds) s = .next s)
    ∧ ((s.stackAt stack).selfRefresh = false → line = (s.stackAt stack).scrubLine →
      (∃ t, Sys2Proof.Machine.exec (.patrolScrub stack line 0 holds) s = .next t ∧ t.errs = s.errs
        ∧ t.stackAt stack = { s.stackAt stack with scrubLine := (line + 1) % 2 ^ 29 } ∧ t.objects = s.objects)
      ∧ (∃ t, Sys2Proof.Machine.exec (.patrolScrub stack line 1 holds) s = .next t
        ∧ t.stackAt stack = { s.stackAt stack with scrubLine := (line + 1) % 2 ^ 29 } ∧ t.objects = s.objects)))
  ∧ (∀ (s : State) (stack line o : Nat) (holds : LineUse) (rep : Report) (n : Nat) (c : Instr), s.shapeOk → stack < 24 → o = originId (stack / 3) 0x06 (stack % 3) →
    (c = .patrolScrub stack line 2 holds ∧ (s.stackAt stack).selfRefresh = false ∧ line = (s.stackAt stack).scrubLine)
      ∨ (c = .errorReport rep ∧ rep.found = .baseDie stack line n holds ∧ 4 ≤ n) →
    ∃ t, Sys2Proof.Machine.exec c s = .next t ∧ (line * 128, o) ∈ (t.stackAt stack).poison ∧ (t.stackAt stack).lines = (s.stackAt stack).lines
      ∧ (∀ k v off, s.backing (stack * 2 ^ 36 + line * 128) = some (k, v, off) → ∀ x, NMap.get? s.objects k = some x →
          ∃ x1, NMap.get? t.objects k = some x1 ∧ x1 = { x with poison := x.poison ++ [{ version := v, off := off / 128 * 128, die := stack / 3, origin := o }] })
      ∧ (s.backing (stack * 2 ^ 36 + line * 128) = none →
          (∀ part, s.frameOf? (stack * 2 ^ 36 + line * 128) = none → holds = .versionMap part → NMap.has s.parts part = true →
            ∃ p, NMap.get? t.parts part = some p ∧ p.quarantine.isSome = true)
          ∧ (∀ die frame off f, s.frameOf? (stack * 2 ^ 36 + line * 128) = some ((die, frame, off), f) → f.page = false →
            NMap.get? (t.framesOf die) frame = some { f with poison := f.poison ++ [(off / 128 * 128, o)] })))
  ∧ (∀ (s : State) (rep : Report) (stack line n : Nat) (holds : LineUse), rep.found = .baseDie stack line n holds → n < 4 →
    ∃ t, Sys2Proof.Machine.exec (.errorReport rep) s = .next t ∧ t.hbm = s.hbm ∧ t.objects = s.objects ∧ t.frames = s.frames)
  ∧ (∀ (s : State) (typ die m a : Nat), s.boot = .ready → s.flash.repairs.length < 65536 →
    ∃ t, Sys2Proof.Machine.exec (.repairRecordAdd typ die m a) s = .next t ∧ t = { s with flash := { s.flash with repairs := t.flash.repairs } }
      ∧ t.flash.repairs = (if s.flash.repairs.contains { typ := typ, die := die, macroId := m, address := a, svn := s.runningSlot.svn } then s.flash.repairs
        else s.flash.repairs ++ [{ typ := typ, die := die, macroId := m, address := a, svn := s.runningSlot.svn }]))

/-- Spine streams: the number expected is accepted and acknowledged at the last leg, and another is not; the die of a detour passes a message on; a flit error is replayed, and one after eight failed replays in a row fences the link with a new generation; sixteen errors on a lane take a spare, then half the width, then the link; after retraining what was unacknowledged is sent again on the direct path where it had gone by another die (R374, R377, R381, R384). -/
def Obligations.SpineStreamsRun : Prop :=
  (∀ (s : State) (m : SpineMsg) (x : Stream), s.drops m.src m.kind m.unit m.gen = false → s.path m.src m.dst = true → m.src ≠ m.dst → s.onFirstLeg m = false →
    x = NMap.getD s.streams (streamKey m.src m.dst m.channel) {} →
    (m.seqNo = x.expect → ∃ t, Sys2Proof.Machine.exec (.spineMessageReceive m) s = .next t
      ∧ NMap.getD t.streams (streamKey m.src m.dst m.channel) {} = { x with expect := x.expect + 1, nextSend := if x.nextSend = m.seqNo then m.seqNo + 1 else x.nextSend,
                                                                                  unacked := x.unacked.filter (fun y => y.seqNo != m.seqNo) })
    ∧ (m.seqNo ≠ x.expect → ∃ t, Sys2Proof.Machine.exec (.spineMessageReceive m) s = .next t ∧ t.streams = s.streams))
  ∧ (∀ (s : State) (m : SpineMsg), s.drops m.src m.kind m.unit m.gen = false → s.path m.src m.dst = true → s.onFirstLeg m = true →
    ∃ t, Sys2Proof.Machine.exec (.spineMessageReceive m) s = .next t ∧ t.streams = s.streams)
  ∧ (∀ (s : State) (a b dir lane : Nat) (t : Word), (s.spineAt a b).fenced = false → dir < 2 → (s.spineAt a b).replays.length = 2 →
    ((s.spineAt a b).replays.getD dir 0 < 8 → ∃ u, Sys2Proof.Machine.exec (.spineFlitCrcError a b dir lane t) s = .next u
      ∧ (u.spineAt a b).replays.getD dir 0 = (s.spineAt a b).replays.getD dir 0 + 1 ∧ (u.spineAt a b).fenced = false
      ∧ u.spineOut = s.spineOut ++ ((s.spineAt a b).dirs.getD dir {}).replay.take 1)
    ∧ (8 ≤ (s.spineAt a b).replays.getD dir 0 → ∃ u, Sys2Proof.Machine.exec (.spineFlitCrcError a b dir lane t) s = .next u
      ∧ (u.spineAt a b).fenced = true ∧ (u.spineAt a b).gen = (s.spineAt a b).gen + 1))
  ∧ (∀ (s : State) (a b dir lane : Nat), (s.spineAt a b).fenced = false → 16 ≤ (NMap.getD ((s.spineAt a b).laneErrs.getD dir []) lane []).length →
    dir < (s.spineAt a b).spares.length → dir < (s.spineAt a b).width.length → ∃ u, Sys2Proof.Machine.exec (.laneRemap a b dir lane) s = .next u
      ∧ ((s.spineAt a b).spares.getD dir 0 < 16 → (u.spineAt a b).spares.getD dir 0 = (s.spineAt a b).spares.getD dir 0 + 1
          ∧ (u.spineAt a b).retraining = true ∧ (u.spineAt a b).width = (s.spineAt a b).width ∧ (u.spineAt a b).fenced = false)
      ∧ (16 ≤ (s.spineAt a b).spares.getD dir 0 → (s.spineAt a b).width.getD dir 0 = 512 → (u.spineAt a b).width.getD dir 0 = 256
          ∧ (u.spineAt a b).retraining = true ∧ (u.spineAt a b).fenced = false)
      ∧ (16 ≤ (s.spineAt a b).spares.getD dir 0 → (s.spineAt a b).width.getD dir 0 ≠ 512 → (u.spineAt a b).fenced = true))
  ∧ (∀ (s : State) (a b : Nat), (s.spineAt a b).retraining = true → (s.spineAt a b).fenced = false → a < 8 → b < 8 → a ≠ b →
    ∃ u, Sys2Proof.Machine.exec (.spineRetrainDone a b) s = .next u ∧ (u.spineAt a b).retraining = false ∧ (u.spineAt a b).fenced = false
      ∧ ((s.detour a b).isSome = true → (s.spineAt a b).dirs.length = 2 → (∀ d ∈ (s.spineAt a b).dirs, d.queues.length = 4) →
        ∀ ch < 4, ∀ m ∈ (NMap.getD s.streams (streamKey a b ch) {}).unacked, m.src = a → m.dst = b → m.channel = ch →
          m ∈ u.spineOut ∨ ∃ q ∈ ((u.spineAt a b).dirs.getD (endOf a b) {}).queues, m ∈ q))

/-- Himon's watch over quires and links: a probe every 100 µs opens an interval of a unit that has answered, a valid answer or heartbeat clears the misses, the third interval missed in a row fences the unit with a new generation, and the acknowledged fence of a quire gives its logical id to the lowest free spare (R384 to R386). UNIT_RETURN of a fenced unit, with no earlier one for it, starts its test, and fails of another unit or on a fenced die; a passing verdict gives the unit back with a new generation, any other completes E_SELF_TEST with the verdict (R389, R390). A loss of PLL lock or a failure of Himon fences the die with its link, and makes the part fatal on die 0 (R534, R545). -/
def Obligations.UnitsAreWatchedLostAndReturned : Prop :=
  ((∀ (s : State) (die p : Nat) (t : Word), s.shapeOk → s.boot = .ready → die < 8 → (s.dieAt die).fenced = false → p < 100 →
    ((s.reach die t).counter die).toNat % 10000 = 0 → ∃ u, Sys2Proof.Machine.exec (.quireProbe die t) s = .next u
      ∧ u.quireAt die p = (if s.probed die p ∧ (s.quireAt die p).answered = true then { s.quireAt die p with answered := false, probedAt := (s.reach die t).counter die }
          else s.quireAt die p))
  ∧ (∀ (s : State) (die p : Nat), s.shapeOk → die < 8 → p < 100 → (s.quireAt die p).fenced = false →
    ∃ u, Sys2Proof.Machine.exec (.probeAnswer die p (s.quireAt die p).gen.toNat) s = .next u
      ∧ u.quireAt die p = { s.quireAt die p with answered := true, misses := 0 })
  ∧ (∀ (s : State) (die p : Nat) (t : Word), s.shapeOk → die < 8 → p < 100 → s.probed die p = true → (s.quireAt die p).answered = false →
    10000 ≤ ((s.reach die t).counter die - (s.quireAt die p).probedAt).toNat → ∃ u, Sys2Proof.Machine.exec (.heartbeatMiss die 0 p t) s = .next u
      ∧ ((s.quireAt die p).misses + 1 < 3 → u.quireAt die p = { s.quireAt die p with misses := (s.quireAt die p).misses + 1, probedAt := (s.reach die t).counter die })
      ∧ (3 ≤ (s.quireAt die p).misses + 1 → (u.quireAt die p).fenced = true ∧ (u.quireAt die p).gen = (s.quireAt die p).gen + 1
          ∧ (u.quireAt die p).acksDue = true))
  ∧ (∀ (s : State) (die p : Nat), s.shapeOk → die < 8 → p < 100 → (s.quireAt die p).acksDue = true →
    ∃ u, Sys2Proof.Machine.exec (.fenceAcksComplete die 0 p) s = .next u ∧ (u.quireAt die p).acksDue = false
      ∧ (u.dieAt die).logical = (s.dieAt die).logical.map (fun l => if l = some p then (s.dieAt die).spares.head? else l))
  ∧ (∀ (s : State) (die far : Nat) (t : Word), (s.dieAt die).fenced = false → (s.spineAt die far).fenced = false → die ≠ far →
    ((s.spineAt die far).retraining = false → ((s.reach die t).counter die).toNat % 1000 = 0 → ∃ u, Sys2Proof.Machine.exec (.spineHeartbeatSend die far t) s = .next u
      ∧ SentMsg s u { src := die, dst := far, channel := 0, kind := 1, unit := far, gen := (s.spineAt die far).gen.toNat, size := 32 })
    ∧ (∃ u, Sys2Proof.Machine.exec (.spineHeartbeatReceive die far (s.spineAt die far).gen.toNat) s = .next u
      ∧ u.spineAt die far = { s.spineAt die far with
          heard := (s.spineAt die far).heard.set (endOf die far) true, since := (s.spineAt die far).since.set (endOf die far) (s.counter die), misses := (s.spineAt die far).misses.set (endOf die far) 0 })
    ∧ ((s.spineAt die far).retraining = false → 1000 ≤ ((s.reach die t).counter die - (s.spineAt die far).since.getD (endOf die far) 0).toNat → (s.spineAt die far).heard.getD (endOf die far) true = false →
        3 ≤ (s.spineAt die far).misses.getD (endOf die far) 0 + 1 →
        ∃ u, Sys2Proof.Machine.exec (.heartbeatMiss die 1 far t) s = .next u ∧ (u.spineAt die far).fenced = true)))
  ∧ ((∀ (s : State) (id : Nat) (c : Cmd), Live s id 0x4F c → c.phase = .admitted →
    (∀ x ∈ s.cmds, x.1 < id → x.2.opcode = 0x4F → x.2.returnUnit ≠ c.returnUnit) →
    (s.unitFenced (c.f 16 1) (c.f 17 1) (c.f 18 1) = true → (s.dieAt (c.f 16 1)).fenced = false →
      ∃ t d, Sys2Proof.Machine.exec (.unitReturn id) s = .next t ∧ t.cmd? id = some d ∧ d.phase = .started)
    ∧ (s.unitFenced (c.f 16 1) (c.f 17 1) (c.f 18 1) = false →
      Sys2Proof.Machine.exec (.unitReturn id) s = .next ((s.startCmd id).failCmd id E_UNIT_STATE 1))
    ∧ (s.unitFenced (c.f 16 1) (c.f 17 1) (c.f 18 1) = true → (s.dieAt (c.f 16 1)).fenced = true →
      Sys2Proof.Machine.exec (.unitReturn id) s = .next ((s.startCmd id).failCmd id E_UNIT_STATE 2)))
  ∧ (∀ (s : State) (id v : Nat) (c : Cmd), Live s id 0x4F c → c.phase = .started →
    (v ≠ 0 → Sys2Proof.Machine.exec (.selfTestDone id v) s = .next (s.failCmd id E_SELF_TEST v))
    ∧ (c.f 17 1 = 0 → s.shapeOk → c.f 16 1 < 8 → c.f 18 1 < 100 → ∃ t, Sys2Proof.Machine.exec (.selfTestDone id 0) s = .next t ∧ t.cmd? id = none
      ∧ (t.quireAt (c.f 16 1) (c.f 18 1)).fenced = false ∧ (t.quireAt (c.f 16 1) (c.f 18 1)).gen = (s.quireAt (c.f 16 1) (c.f 18 1)).gen + 1)
    ∧ (c.f 17 1 ≠ 0 → ∃ t, Sys2Proof.Machine.exec (.selfTestDone id 0) s = .next t ∧ t.cmd? id = none
      ∧ (t.spineAt (c.f 16 1) (c.f 18 1)).fenced = false ∧ (t.spineAt (c.f 16 1) (c.f 18 1)).gen = (s.spineAt (c.f 16 1) (c.f 18 1)).gen + 1))
  ∧ (∀ (s : State) (die : Nat), s.shapeOk → 0 < die → die < 8 → (s.dieAt die).fenced = false →
    (∃ t, Sys2Proof.Machine.exec (.pllLossOfLock die) s = .next t ∧ (t.dieAt die).fenced = true ∧ (t.linkAt die).down = true)
    ∧ (∃ t, Sys2Proof.Machine.exec (.himonFailure die) s = .next t ∧ (t.dieAt die).fenced = true ∧ (t.linkAt die).down = true))
  ∧ (∀ s : State, (∃ t, Sys2Proof.Machine.exec (.pllLossOfLock 0) s = .next t ∧ t.fatal = true)
    ∧ (∃ t, Sys2Proof.Machine.exec (.himonFailure 0) s = .next t ∧ t.fatal = true)))

/-- Requests of several partitions at one resource: only one that its regulator lets through is served; a visit pays for requests from the front with the deficit and SHARE × 256 bytes, a request it cannot pay, or that meets a bucket below zero, stays at the front, the regulator counts what was served, and no other partition's requests, deficit or buckets change; where every regulator holds, a request waits at the end of its partition's (R456, R457). -/
def Obligations.SharesDivideAResource : Prop :=
  (∀ (b : Option Int) (ws : List Nat) (d : Nat), (takeCovered b ws d).1 ++ (takeCovered b ws d).2.1 = ws ∧ (takeCovered b ws d).1.sum + (takeCovered b ws d).2.2 = d
    ∧ ∀ n rest, (takeCovered b ws d).2.1 = n :: rest → (takeCovered b ws d).2.2 < n ∨ ∃ x, b = some x ∧ x < ((takeCovered b ws d).1.sum : Int))
  ∧ (∀ (s : State) (q part : Nat) (x : ResQueue), s.nextAt q x = some part → ∃ w ∈ x.waiting, w.1 = part ∧ w.2 ≠ [] ∧ s.passes part (regulatorOf q).1 (regulatorOf q).2 = true)
  ∧ (∀ (s : State) (q part : Nat) (x : ResQueue) (served left : List Nat) (d : Nat),
    takeCovered (s.budget part (regulatorOf q).1 (regulatorOf q).2) (NMap.getD x.waiting part []) (NMap.getD x.deficit part 0 + 256 * s.shareAt q part) = (served, left, d) →
    (∃ y, NMap.get? (s.visit q part x).queues q = some y ∧ y.last = part
      ∧ (left ≠ [] → NMap.getD y.waiting part [] = left ∧ NMap.getD y.deficit part 0 = d) ∧ (left = [] → NMap.getD y.deficit part 0 = 0 ∧ NMap.getD y.waiting part [] = [])
      ∧ ∀ p, p ≠ part → NMap.getD y.waiting p [] = NMap.getD x.waiting p [] ∧ NMap.getD y.deficit p 0 = NMap.getD x.deficit p 0)
    ∧ (∀ p, p ≠ part → NMap.get? (s.visit q part x).parts p = NMap.get? s.parts p)
    ∧ (∀ p, NMap.get? s.parts part = some p → ∃ p1, NMap.get? (s.visit q part x).parts part = some p1
      ∧ p1.bucket (regulatorOf q).1 (regulatorOf q).2
        = if (p.rate (regulatorOf q).1 (regulatorOf q).2).1 = 0 then p.bucket (regulatorOf q).1 (regulatorOf q).2 else p.bucket (regulatorOf q).1 (regulatorOf q).2 - served.sum))
  ∧ (∀ (s : State) (q part n : Nat), n ≠ 0 → s.passes part (regulatorOf q).1 (regulatorOf q).2 = false →
    (∀ w ∈ (NMap.getD s.queues q {}).waiting, s.passes w.1 (regulatorOf q).1 (regulatorOf q).2 = false) →
    ∃ y, (s.request q part n) = { s with queues := (s.request q part n).queues } ∧ NMap.get? (s.request q part n).queues q = some y
      ∧ NMap.getD y.waiting part [] = NMap.getD (NMap.getD s.queues q {}).waiting part [] ++ [n])

/-- Training: a retrain that ends sends every unacknowledged frame again, a first training ends with HELLO; 10 ms without success mark the link down, and a retry after 1 s trains it or not; HELLO tells the peer (R397). An encrypted link: after HELLO the part sends its ephemeral key with its chain; a peer whose key, chain, version and lock are good gives a session, another marks the link down with the cause; 2^48 messages end the session (R503, R504). -/
def Obligations.LinksTrainAndSecure : Prop :=
  ((∀ (s : State) (link : Nat), s.shapeOk → link < 8 → (s.linkAt link).retraining = true → (s.linkAt link).testMode = 0 →
    ((s.linkAt link).trained = true → ∃ t, Sys2Proof.Machine.exec (.linkRetrainDone link) s = .next t ∧ (t.linkAt link) = { s.linkAt link with retraining := false }
      ∧ t.frameOut = s.frameOut ++ (s.linkAt link).replay)
    ∧ ((s.linkAt link).trained = false → ∃ t m, Sys2Proof.Machine.exec (.linkRetrainDone link) s = .next t ∧ (t.linkAt link).trained = true
      ∧ (t.linkAt link).down = false ∧ (t.linkAt link).retraining = false ∧ t.linkOut = s.linkOut ++ [(link, m)] ∧ m.type = 0x01
      ∧ m.payload = leBytes 2 s.partId ++ leBytes 1 link))
  ∧ (∀ (s : State) (link : Nat) (t : Word), s.shapeOk → link < 8 → (s.linkAt link).retraining = true →
    1000000 ≤ ((s.reach link t).counter link - (s.linkAt link).retrainAt).toNat →
    ∃ u, Sys2Proof.Machine.exec (.linkRetrainTimeout link t) s = .next u ∧ (u.linkAt link).down = true ∧ (u.linkAt link).trained = false
      ∧ (u.linkAt link).replay = [] ∧ (u.linkAt link).secActive = false ∧ ∀ x ∈ u.linkOut, x.1 ≠ link)
  ∧ (∀ (s : State) (link : Nat) (ok : Bool) (t : Word), s.shapeOk → link < 8 → (s.linkAt link).down = true → (s.linkAt link).retraining = false →
    (s.linkAt link).testMode = 0 → 100000000 ≤ ((s.reach link t).counter link - (s.linkAt link).retrainAt).toNat →
    ∃ u, Sys2Proof.Machine.exec (.linkTrainingRetry link ok t) s = .next u ∧ (u.linkAt link).trained = ok ∧ (u.linkAt link).down = !ok
      ∧ (u.linkAt link).retrainAt = (s.reach link t).counter link)
  ∧ (∀ (s : State) (link : Nat) (m : Msg), LinkServes s link → s.shapeOk → m.type = 0x01 → ∃ t, Sys2Proof.Machine.exec (.hello link m) s = .next t
    ∧ (t.linkAt link).helloSeen = true ∧ (t.linkAt link).everHello = true ∧ (t.linkAt link).peerPart = fld m.payload 0 2))
  ∧ ((∀ (s : State) (link svn : Nat) (pe ch un : Bool), LinkServes s link → s.shapeOk → (s.linkAt link).secActive = false →
    ((s.linkAt link).secEnable = true → pe = true → ch = true → (s.linkAt link).minPeerSvn ≤ svn → un = false →
      ∃ t, Sys2Proof.Machine.exec (.linkKeyExchange link pe ch svn un) s = .next t ∧ (t.linkAt link).secActive = true
        ∧ (t.linkAt link).peerSvn = svn % 256 ∧ (t.linkAt link).secFail = 0)
    ∧ (∀ f, sessionFail (s.linkAt link) pe ch svn un = some f →
      ∃ t, Sys2Proof.Machine.exec (.linkKeyExchange link pe ch svn un) s = .next t ∧ (t.linkAt link).down = true ∧ (t.linkAt link).secFail = f
        ∧ (t.linkAt link).secActive = false))
  ∧ (∀ (s : State) (link : Nat) (m : Msg), LinkServes s link → m.type = 0x01 → (s.linkAt link).secEnable = true → (s.linkAt link).secActive = false → s.shapeOk →
    ∃ t k, Sys2Proof.Machine.exec (.hello link m) s = .next t ∧ t.keyOut = s.keyOut ++ [k] ∧ k.link = link ∧ k.chain = s.certChain.getD [])
  ∧ (∀ (s : State) (link : Nat), s.shapeOk → link < 8 → (s.linkAt link).secActive = true → (∃ n ∈ (s.linkAt link).sessionMsgs, 2 ^ 48 ≤ n) →
    ∃ t, Sys2Proof.Machine.exec (.linkSessionLimit link) s = .next t ∧ (t.linkAt link).secActive = false))

/-- Frames are taken in SEQ order: one that is expected and whole joins its VC's stream and gives its complete messages, any other is discarded with a NAK that names the last good SEQ; control frames return credits and acknowledge; a NAK sends again what is unacknowledged (R393, R394). The session is not encrypted here, and an enabled link takes nothing but HELLO before it is (R503); the place of padding is the model's reading. Ten uncorrectable codewords in a row retrain the link; that two more than a tick apart are not in a row is the model's reading (log entry 110). A collective message for another rank leaves on the link of its rank, unchanged; one of an unknown type, on the wrong VC or without an entry leaves nowhere and is reported once (R398, R401). -/
def Obligations.LinkFramesAndMessages : Prop :=
  ((∀ (s : State) (link vc seqNo : Nat) (ok : Bool) (b : Bytes), LinkServes s link → s.shapeOk → vc < 4 →
    (ok = true → seqNo = (s.linkAt link).rxExpect → (s.linkAt link).secActive = false →
      ∃ t, Sys2Proof.Machine.exec (.linkDataFrame link vc seqNo ok b) s = .next t ∧ (t.linkAt link).rxExpect = (seqNo + 1) % 4096
        ∧ (t.linkAt link).lastGood = seqNo
        ∧ t.linkIn = s.linkIn ++ ((cutMsgs s.partId (s.linkAt link) (((s.linkAt link).rx.getD vc []).length / 32 + 9) ((s.linkAt link).sessionMsgs.getD 1 0)
            ((s.linkAt link).rx.getD vc [] ++ fixLen 228 b)).1.filter (fun m => !(s.linkAt link).secEnable || m.type == 0x01)).map (fun m => (link, vc, m)))
    ∧ (ok = false ∨ seqNo ≠ (s.linkAt link).rxExpect →
      ∃ t f, Sys2Proof.Machine.exec (.linkDataFrame link vc seqNo ok b) s = .next t ∧ t.linkIn = s.linkIn
        ∧ (t.linkAt link).rxExpect = (s.linkAt link).rxExpect ∧ t.frameOut = s.frameOut ++ [f] ∧ f.link = link ∧ f.control = true
        ∧ f.nak = true ∧ f.ack = (s.linkAt link).lastGood))
  ∧ (∀ (s : State) (link seqNo ack : Nat) (credits : List Nat), LinkServes s link → s.shapeOk → seqNo = (s.linkAt link).rxExpect →
    (∃ t, Sys2Proof.Machine.exec (.linkControlFrame link seqNo true credits ack) s = .next t ∧ (t.linkAt link).acked = ack % 4096
      ∧ (t.linkAt link).replay = ackFrames (ack % 4096) (s.linkAt link).replay
      ∧ ∀ v < (s.linkAt link).credits.length, (t.linkAt link).credits.getD v 0 = (s.linkAt link).credits.getD v 0 + credits.getD v 0 % 65536)
    ∧ (ack % 4096 ≠ (s.linkAt link).acked ∨ (s.linkAt link).replayFails < 8 → ∃ t, Sys2Proof.Machine.exec (.linkNak link seqNo credits ack) s = .next t
      ∧ t.frameOut = s.frameOut ++ ackFrames (ack % 4096) (s.linkAt link).replay)
    ∧ (ack % 4096 = (s.linkAt link).acked → 8 ≤ (s.linkAt link).replayFails →
      ∃ t, Sys2Proof.Machine.exec (.linkNak link seqNo credits ack) s = .next t ∧ (t.linkAt link).retraining = true ∧ t.frameOut = s.frameOut))
  ∧ (∀ (s : State) (link : Nat) (t : Word), LinkServes s link → s.shapeOk → 0 < (s.linkAt link).accepted →
    50 ≤ ((s.reach link t).counter link - (s.linkAt link).lastControl).toNat →
    ∃ u f, Sys2Proof.Machine.exec (.linkControlTimer link t) s = .next u ∧ u.frameOut = s.frameOut ++ [f] ∧ f.control = true ∧ f.nak = false
      ∧ f.ack = (s.linkAt link).lastGood ∧ f.credits = (s.linkAt link).freed ∧ (u.linkAt link).accepted = 0)
  ∧ (∀ (s : State) (link : Nat), LinkServes s link → s.shapeOk → ∃ u, Sys2Proof.Machine.exec (.uncorrectableCodeword link) s = .next u
    ∧ ∀ n, n = (if 1 < (s.counter link - (s.linkAt link).badAt).toNat then 1 else (s.linkAt link).badCodewords + 1) →
      (n < 10 → (u.linkAt link).badCodewords = n ∧ (u.linkAt link).retraining = false) ∧ (10 ≤ n → (u.linkAt link).retraining = true)))
  ∧ ((∀ (s : State) (link out : Nat) (m : Msg) (g : Group), LinkServes s link → collType m.type = true → NMap.get? s.groups m.group = some g →
    m.dstRank ≠ g.rank → s.routeOf m = some out →
    ∃ t, Sys2Proof.Machine.exec (.messageForward link m) s = .next t ∧ t.linkOut = s.linkOut ++ [(out, m)] ∧ t.groups = s.groups ∧ t.errs = s.errs)
  ∧ (∀ (s : State) (link vc : Nat) (m : Msg), LinkServes s link → (vcOf m.type ≠ some vc ∨ (collType m.type = true ∧ NMap.get? s.groups m.group = none)) →
    ∃ t, Sys2Proof.Machine.exec (.messageDrop link vc m) s = .next t ∧ t.linkOut = s.linkOut ∧ t.cmds = s.cmds ∧ t = (s.deliver link m).dropMsg link m.type))

/-- A COLLECTIVE whose unit turns to it, with its links up, sends its fingerprint to every other member (R60, R400, R408). What collective messages do at a running member: a FPRINT without a running member waits, one of another group or another input fails the member, an equal one has an ALL_GATHER source sent to its rank; GRANT sends every newly granted segment of every source; CONTRIB adds, RESULT stores, DONE is noted, each with what follows from it (R408, R409, R410, R416). -/
def Obligations.CollectiveMessagesAct : Prop :=
  (∀ (s : State) (id : Nat) (c : Cmd) (g : Group), Live s id 0x07 c → c.coll = none → NMap.get? s.groups (c.f 16 2) = some g →
    s.eligible id c = true → s.unitAhead id c = false → s.downLink c = none →
    ∀ q ∈ [(Instr.collectiveAllReduce id, 0), (Instr.collectiveReduceScatter id, 1), (Instr.collectiveAllGather id, 2), (Instr.collectiveBroadcast id, 3)],
    clOp c = q.2 → ∃ t, Sys2Proof.Machine.exec q.1 s = .next t ∧ ∀ r ∈ g.others, ∀ e, g.members[r]? = some e →
      ∃ m, (e.2, m) ∈ t.linkOut ∧ m.type = 0x02 ∧ m.dstRank = r ∧ m.srcRank = g.rank ∧ m.opSeq = clSeq c ∧ m.aux = fprintOf (fprintInput c g 0))
  ∧ ((∀ (s : State) (link : Nat) (m : Msg) (g : Group), LinkServes s link → m.type = 0x02 → NMap.get? s.groups m.group = some g → m.dstRank = g.rank → (s.fprintFor m = none ∨ ∃ x, s.fprintFor m = some x ∧ x.2.phase = .admitted) →
    ∃ t, Sys2Proof.Machine.exec (.fprint link m) s = .next t ∧ t.fprintWait = s.fprintWait ++ [m])
  ∧ (∀ (s : State) (link id : Nat) (m : Msg) (c : Cmd) (k : Coll) (g : Group), MemberRuns s link m id c k g →
    (m.type = 0x02 →
      (m.aux ≠ fprintOf (fprintInput c g k.attempt) → Sys2Proof.Machine.exec (.fprint link m) s = .next ((s.deliver link m).failCmd id E_COLL_MISMATCH
        (m.srcRank * 256 + fprintDiff (fprintInput c g k.attempt) (m.payload.take 24))).advanceAll)
      ∧ (k.fprints.any (fun p => p.1 == m.srcRank) = false → m.aux = fprintOf (fprintInput c g k.attempt) → clOp c = 2 → ∀ e, g.members[m.srcRank]? = some e →
        ∃ t, Sys2Proof.Machine.exec (.fprint link m) s = .next t ∧ ∀ sg < segCount (clCount c), ∃ x, (e.2, x) ∈ t.linkOut ∧ x.type = 0x05 ∧ x.segment = sg
          ∧ x.dstRank = m.srcRank ∧ x.payload = codeBytes (clElem c) (s.segCodes c g.members.length g.rank 0 sg)))
    ∧ (m.type = 0x03 → clReduces c = true → m.srcRank ≠ g.rank → k.fprints.any (fun p => p.1 == m.srcRank) = true →
      k.grantOf m.srcRank < min m.aux (segCount (chunkLen (clCount c) g.members.length m.srcRank)) → ∀ e, g.members[m.srcRank]? = some e →
      ∃ t, Sys2Proof.Machine.exec (.grant link m) s = .next t
        ∧ ∀ sg, k.grantOf m.srcRank ≤ sg → sg < min m.aux (segCount (chunkLen (clCount c) g.members.length m.srcRank)) → ∀ i < clSources c,
          ∃ x, (e.2, x) ∈ t.linkOut ∧ x.type = 0x04 ∧ x.segment = sg ∧ x.source = i ∧ x.dstRank = m.srcRank
            ∧ x.payload = codeBytes (clElem c) (s.segCodes c g.members.length m.srcRank i sg))
    ∧ (m.type = 0x04 → clReduces c = true → m.segment < k.grantOf g.rank → k.fprints.any (fun p => p.1 == m.srcRank && decide (m.source < p.2)) = true →
      k.seen.contains (m.srcRank, m.segment, m.source) = false →
      (codesOf (clElem c) m.payload).length = segLen (chunkLen (clCount c) g.members.length g.rank) m.segment →
      Sys2Proof.Machine.exec (.contrib link m) s = .next (
        if ((codesOf (clElem c) m.payload).map (elemInt (clElem c))).all Option.isSome = true then
          ((((((s.deliver link m).farAdds c.owner link (m.segment % 8) (5 * (codesOf (clElem c) m.payload).length)).addContrib id m.srcRank m.segment m.source
            (((codesOf (clElem c) m.payload).map (elemInt (clElem c))).map (·.getD 0))).fireSegment id m.segment).advanceAll).collHeard id)
        else (s.deliver link m).failCmd id E_NONFINITE 1))
    ∧ (m.type = 0x05 → m.srcRank ≠ g.rank → m.srcRank < g.members.length → (clOp c = 0 ∨ clOp c = 2 ∨ (clOp c = 3 ∧ m.srcRank = clRoot c)) →
      (codesOf (clElem c) m.payload).length = segLen (clRun c g.members.length m.srcRank).2 m.segment →
      (codesOf (clElem c) m.payload).all (fun v => (elemInt (clElem c) v).isSome) = true →
      Sys2Proof.Machine.exec (.result link m) s = .next ((((s.deliver link m).setColl id (fun x =>
        putOut x (clDest c g.members.length m.srcRank m.segment) (codesOf (clElem c) m.payload))).collFinish id).collHeard id))
    ∧ (m.type = 0x06 → k.dones.contains m.srcRank = false →
      Sys2Proof.Machine.exec (.done link m) s = .next ((((s.deliver link m).setColl id (fun x => { x with dones := x.dones ++ [m.srcRank] })).collFinish id).collHeard id))))

/-- Contributions reduce exactly: an element enters T of its accumulator and of no other, while the limbs hold it; the order in which two arrive does not matter; MAX keeps the larger; the residue stays that of T; and a contribution is counted once (R404, R405, R406, R409). -/
def Obligations.ReductionIsExact : Prop :=
  (∀ (m : NMap Nat) (slot e : Nat) (i : Int), i.natAbs < 2 ^ 320 →
    ((∀ k < 5, -(2 ^ 126) < limbInt (NMap.getD m (limbLane slot e k) 0) ∧ limbInt (NMap.getD m (limbLane slot e k) 0) < 2 ^ 126
        ∧ NMap.getD m (limbLane slot e k) 0 < 2 ^ 128) →
      accValue (addLimbs m slot e i) slot e = accValue m slot e + i)
    ∧ (∀ (j : Int) (k : Nat), NMap.getD (addLimbs (addLimbs m slot e i) slot e j) k 0 = NMap.getD (addLimbs (addLimbs m slot e j) slot e i) k 0)
    ∧ accValue (addAcc true true m slot e i) slot e = i
    ∧ ((accValue m slot e).natAbs < 2 ^ 320 → accValue (addAcc true false m slot e i) slot e = max (accValue m slot e) i)
    ∧ (∀ (x f : Bool) (p d : Nat), e < 4096 → d < 4096 → (p, d) ≠ (slot, e) → accValue (addAcc x f m slot e i) p d = accValue m p d))
  ∧ (∀ (a : Nat × Nat) (old i : Int), a.1 = (old % 255).toNat →
    (addResidue false a old i).1 = ((old + i) % 255).toNat ∧ (0 < a.2 → (addResidue true a old i).1 = (max old i % 255).toNat))
  ∧ (∀ (c : Cmd) (k : Coll) (old : Nat → Int) (q sg src e : Nat) (vals : List Int) (v : Int), vals.length ≤ 4096 → vals[e]? = some v →
    NMap.getD (countContrib c k old q sg src vals).accs (4096 * sg + e) (0, 0) = addResidue (clMax c) (NMap.getD k.accs (4096 * sg + e) (0, 0)) (old e) v
    ∧ NMap.getD (countContrib c k old q sg src vals).counts sg 0 = NMap.getD k.counts sg 0 + 1
    ∧ (q, sg, src) ∈ (countContrib c k old q sg src vals).seen)
  ∧ (∀ (k : Coll) (base e : Nat) (codes : List Nat) (v : Nat), codes[e]? = some v → NMap.getD (putOut k base codes).out (base + e) 0 = v)

/-- How a collective ends early: ABORT restarts it at the next attempt while its limit allows, ABORT with FINAL fails it with the sender's rank, silence fails it with the lowest rank that owes a message, and the end of a pre-emption's grace kills it (R412, R413, R415, R417, R450). -/
def Obligations.CollectivesEndEarly : Prop :=
  (∀ (s : State) (link id : Nat) (m : Msg) (c : Cmd) (k : Coll) (g : Group), MemberRuns s link m id c k g → m.type = 0x07 →
    (m.final = false → Sys2Proof.Machine.exec (.collAbort link m) s = .next ((s.deliver link m).collRestart id (k.attempt + 1)).advanceAll)
    ∧ (m.final = true → m.aux % 65536 ≠ E_COLL_MISMATCH →
      Sys2Proof.Machine.exec (.collAbortFinal link m) s = .next ((s.deliver link m).failCmd id E_COLL_EPOCH_ABORT m.srcRank).advanceAll))
  ∧ (∀ (s : State) (id next : Nat) (c : Cmd), s.cmd? id = some c → c.victimKills < s.setting c.owner 0x0010 0 →
    ∃ d k, (s.collKill id next false).cmd? id = some d ∧ d.phase = .admitted ∧ d.victimKills = c.victimKills + 1 ∧ d.coll = some k ∧ k.attempt = next
      ∧ k.sentFprint = false ∧ k.out = [] ∧ (∀ k0, c.coll = some k0 → k.residueRestart = k0.residueRestart ∧ k.everSent = k0.everSent) ∧ d.written = [] ∧ d.desc = c.desc)
  ∧ (∀ (s : State) (id q : Nat) (t : Word) (c : Cmd) (k : Coll) (g : Group), s.serving = true → s.cmd? id = some c → c.opcode = 0x07 → c.phase = .started →
    c.coll = some k → NMap.get? s.groups (c.f 16 2) = some g → g.others.find? (missingFrom c k g) = some q →
    c.f 72 4 * 100000 ≤ ((s.reach c.home t).counter c.home - k.lastMsg).toNat →
    Sys2Proof.Machine.exec (.collTimeout id t) s = .next ((s.reach c.home t).failCmd id E_COLL_TIMEOUT (q + if k.sentDone = true then 0x8000 else 0)).advanceAll)
  ∧ (∀ (s : State) (id : Nat) (t g0 : Word) (c : Cmd) (k : Coll) (g : Group), s.serving = true → s.cmd? id = some c → c.opcode = 0x07 → c.phase = .started →
    c.coll = some k → k.grace = some g0 → k.sentDone = false → NMap.get? s.groups (c.f 16 2) = some g →
    s.setting c.owner 0x0011 0 * 100 ≤ ((s.reach c.home t).counter c.home - g0).toNat →
    ∃ (u : State) (d : Cmd) (k1 : Coll), Sys2Proof.Machine.exec (.preemptGraceExpiry id t) s = .next u.advanceAll ∧ u = (s.reach c.home t).collPreempt id ∧ u.cmd? id = some d ∧ d.phase = .admitted ∧ d.coll = some k1
      ∧ k1.attempt = k.attempt + 1 ∧ d.victimKills = c.victimKills + 1)

/-- A peer transfer: the receiver announces its length, the sender pairs with an announcement of its own length and streams every byte, data joins in offset order, the last byte brings DONE, and DONE the sender's decision point; FINAL and silence fail it, an ABORT restarts it (R418, R419). -/
def Obligations.PeerTransfersRun : Prop :=
  (∀ (s : State) (id : Nat) (c : Cmd), Live s id 0x06 c → c.phase = .started → c.peer = none → s.downLink c = none →
    (c.f 16 1 = 4 → s.peerPoison c = none →
      ((s.linkAt (c.f 80 1)).waitingReady.filter (fun w => w.1 == c.f 84 4) = [] → ∃ t d k, Sys2Proof.Machine.exec (.movePeerSend id) s = .next t
        ∧ t.cmd? id = some d ∧ d.peer = some k ∧ k.total = s.peerBytes c ∧ k.attempt = 0 ∧ k.paired = false)
      ∧ ((s.linkAt (c.f 80 1)).waitingReady.filter (fun w => w.1 == c.f 84 4) = [(c.f 84 4, 0, s.peerBytes c)] →
        ∃ t d k, Sys2Proof.Machine.exec (.movePeerSend id) s = .next t ∧ t.cmd? id = some d ∧ d.peer = some k ∧ k.sentAll = true ∧ k.moved = s.peerBytes c))
    ∧ (c.f 16 1 = 5 → (∀ x ∈ s.cmds, id ≤ x.1) → ∃ t m, Sys2Proof.Machine.exec (.movePeerRecv id) s = .next t ∧ t.linkOut = s.linkOut ++ [(c.f 80 1, m)]
      ∧ m.type = 0x10 ∧ m.opSeq = c.f 84 4 ∧ m.payload = leBytes 8 (s.peerBytes c)))
  ∧ (∀ (s : State) (link : Nat) (m : Msg), LinkServes s link → s.shapeOk → m.type = 0x10 →
    (s.peerFor 4 link m = none → ∃ t, Sys2Proof.Machine.exec (.peerReady link m) s = .next t ∧ (m.opSeq, m.attempt, fld m.payload 0 8) ∈ (t.linkAt link).waitingReady)
    ∧ (∀ id c k, s.peerFor 4 link m = some (id, c) → s.cmd? id = some c → c.phase = .started → c.peer = some k → k.paired = false → m.attempt = k.attempt →
      s.peerPoison c = none → fld m.payload 0 8 = s.peerBytes c → ∃ t d k1, Sys2Proof.Machine.exec (.peerReady link m) s = .next t ∧ t.cmd? id = some d ∧ d.peer = some k1 ∧ k1.sentAll = true))
  ∧ (∀ (s : State) (link id : Nat) (m : Msg) (c : Cmd) (k : Peer), LinkServes s link → s.cmd? id = some c → c.peer = some k → c.phase = .started → m.attempt = k.attempt →
    (m.type = 0x11 → s.peerFor 5 link m = some (id, c) → m.segment * 16384 = k.moved → k.moved + m.payload.length < k.total →
      ∃ t d k1, Sys2Proof.Machine.exec (.peerData link m) s = .next t ∧ t.cmd? id = some d ∧ d.image = c.image ++ m.payload ∧ d.phase = .started
        ∧ d.peer = some k1 ∧ k1.moved = k.moved + m.payload.length)
    ∧ (m.type = 0x11 → s.peerFor 5 link m = some (id, c) → m.segment * 16384 = k.moved → k.moved + m.payload.length = k.total →
      ∀ key o, s.obj? c.owner (c.f 24 4) = some (key, o) → o.kind = 1 →
      ∃ t d x, Sys2Proof.Machine.exec (.peerData link m) s = .next t ∧ t.cmd? id = some d ∧ d.phase = .ready ∧ d.status = OK
        ∧ t.linkOut = s.linkOut ++ [(c.f 80 1, x)] ∧ x.type = 0x12)
    ∧ (m.type = 0x12 → s.peerFor 4 link m = some (id, c) → k.sentAll = true →
      ∃ t d, Sys2Proof.Machine.exec (.peerDone link m) s = .next t ∧ t.cmd? id = some d ∧ d.phase = .ready ∧ d.status = OK)
    ∧ (m.type = 0x13 → s.peerFor 4 link m = some (id, c) → m.final = true → m.aux % 65536 ≠ E_COLL_MISMATCH →
      Sys2Proof.Machine.exec (.peerAbort link m) s = .next ((s.deliver link m).failCmd id E_COLL_EPOCH_ABORT 0))
    ∧ (m.type = 0x13 → s.peerFor 4 link m = some (id, c) → m.final = false → c.victimKills < s.setting c.owner 0x0010 0 →
      ∃ t d k1, Sys2Proof.Machine.exec (.peerAbort link m) s = .next t ∧ t.cmd? id = some d ∧ d.peer = some k1 ∧ k1.attempt = k.attempt + 1
        ∧ d.victimKills = c.victimKills + 1))
  ∧ (∀ (s : State) (id : Nat) (t : Word) (c : Cmd) (k : Peer), s.serving = true → s.cmd? id = some c → c.opcode = 0x06 → c.phase = .started → c.peer = some k →
    100000000 ≤ ((s.reach c.home t).counter c.home - k.lastMsg).toNat →
    Sys2Proof.Machine.exec (.peerTimeout id t) s = .next ((s.reach c.home t).failCmd id E_COLL_TIMEOUT (if k.sentAll = true then 0x8000 else 0)))

/-- A command that waits starts when its unit turns to it; the other dies of its partition learn of it, and of each other's remaining work; a command that has waited PREEMPT_DELAY kills the lowest victim, which stays admitted and runs again (R60, R378, R445, R448, R449, R586). -/
def Obligations.CommandsStartAndGiveWay : Prop :=
  (∀ (s : State) (id : Nat) (c : Cmd), s.serving = true → s.cmd? id = some c →
    (((unitOf c ≠ 0 ∨ c.opcode = 0x06) ∧ c.opcode ≠ 0x07 ∧ s.eligible id c = true ∧ s.unitAhead id c = false) ∨ (c.opcode = 0x02 ∧ planeCmd c = false ∧ c.phase = .admitted ∧ s.mayStart id c = true)
      ∨ (((c.opcode = 0x08 ∨ c.opcode = 0x09) ∧ ∃ d, s.enginesFor id c = [d]) ∧ c.phase = .admitted ∧ s.mayStart id c = true)) →
    ∃ t d, Sys2Proof.Machine.exec (.commandStart id) s = .next t ∧ t.cmd? id = some d ∧ d.phase = .started ∧ d.desc = c.desc ∧ d.startAt = s.counter c.home
      ∧ (s.shapeOk → ∀ e, s.enginesFor id c = [e] → (c.opcode = 0x08 ∨ c.opcode = 0x09) → (t.engineAt e).current = some id))
  ∧ (∀ (s : State) (id : Nat) (c : Cmd), s.serving = true → s.cmd? id = some c → unitOf c ≠ 0 → c.opcode ≠ 0x07 → (s.unitAhead id c = true ∨ s.eligible id c = false) →
    Sys2Proof.Machine.exec (.commandStart id) s = .next s)
  ∧ (∀ (s : State) (id : Nat) (c : Cmd), s.serving = true → s.cmd? id = some c → c.opcode = 0x07 → c.phase = .admitted → s.groupSetAhead id c = false →
    Sys2Proof.Machine.exec (.commandStart id) s = .next (s.collStart id))
  ∧ (∀ (s : State) (id die : Nat) (c : Cmd) (p : Part), s.serving = true → s.cmd? id = some c → NMap.get? s.parts c.owner = some p → p.onDie die = true → die ≠ c.home →
    die ∉ c.seenDies → ∃ t d, Sys2Proof.Machine.exec (.admittedDescriptorReceive die id) s = .next t ∧ t.cmd? id = some d ∧ t = { s with cmds := t.cmds }
      ∧ d = { c with seenDies := c.seenDies ++ [die], run := d.run } ∧ (c.run.segs = [] → d.run = c.run)
      ∧ (c.run.segs ≠ [] → d.run = { c.run with segs := c.run.segs.set die ((segments c.quires c.run.total).getD die {}) }))
  ∧ (∀ (s : State) (id die : Nat) (t : Word) (c : Cmd) (p : Part), s.serving = true → s.cmd? id = some c → NMap.get? s.parts c.owner = some p → p.onDie die = true →
    c.phase = .started → c.run.segs.isEmpty = false →
    (c.heard die = true → (c.run.segs.getD die {}).countDue ((s.reach die t).counter die) = true →
      ∃ u, Sys2Proof.Machine.exec (.segmentCountSend die id t) s = .next u ∧ (∀ d ∈ p.dieList, d ≠ die →
          SentOnSpine s u die d 0 (leBytes 4 id ++ leBytes 4 ((c.run.segs.getD die {}).left)))
        ∧ (die < c.run.segs.length → ∃ d, u.cmd? id = some d ∧ (d.run.segs.getD die {}).sentAt = some ((s.reach die t).counter die)
          ∧ (d.run.segs.getD die {}).sentZero = decide ((c.run.segs.getD die {}).left = 0) ∧ (d.run.segs.getD die {}).left = (c.run.segs.getD die {}).left))
    ∧ ((c.heard die = false ∨ (c.run.segs.getD die {}).countDue ((s.reach die t).counter die) = false) → Sys2Proof.Machine.exec (.segmentCountSend die id t) s = .next (s.reach die t)))
  ∧ (∀ (s : State) (id dst src n : Nat) (c : Cmd), s.serving = true → s.cmd? id = some c → c.phase = .started → src ≠ dst → dst < c.run.segs.length →
    src < (c.run.segs.getD dst {}).counts.length →
    ∃ u d, Sys2Proof.Machine.exec (.segmentCountReceive dst src id n) s = .next u ∧ u.cmd? id = some d ∧ (d.run.segs.getD dst {}).counts.getD src 0 = n)
  ∧ (∀ (s : State) (id v : Nat) (t : Word) (c w : Cmd), s.serving = true → s.cmd? id = some c → c.phase = .admitted → (s.reach c.home t).mayStart id c = true → planeCmd c = true →
    s.setting c.owner 0x0012 0 ≤ c.priority →
    s.setting c.owner 0x0013 0 * 100 ≤ ((s.reach c.home t).counter c.home - (if c.waitFrom < c.preemptAt then c.preemptAt else c.waitFrom)).toNat →
    (s.reach c.home t).chooseVictim id c = some (v, w) → w.coll = none → s.cmd? v = some w → v ≠ id →
    ∃ (u : State) (d : Cmd), Sys2Proof.Machine.exec (.preemptDelayExpiry id t) s = .next u.advanceAll ∧ u.cmd? v = some d ∧ d.phase = .admitted ∧ d.victimKills = w.victimKills + 1
      ∧ d.reruns = w.reruns + 1 ∧ d.written = [] ∧ d.desc = w.desc)

/-- The decision point: a command that fails gets its record and its objects keep their versions; one that commits on its home die alone flips every ingot it wrote and writes its record; one whose stream's DMA has stopped fails; one that wrote objects with bits on other dies sends COMMIT, each die answers, and the last answer writes the record (R59, R61, R379, R502). -/
def Obligations.CommandsCommit : Prop :=
  (∀ (s : State) (id : Nat) (c : Cmd), s.serving = true → s.cmd? id = some c → c.phase = .ready → c.opcode ≠ 0x0C →
    (committed c.status = false → Sys2Proof.Machine.exec (.commandCommit id) s = .next (s.failAt id c) ∧ VersionsKept s (s.failAt id c)
      ∧ (s.failAt id c).cmd? id = none)
    ∧ (∀ x, committed c.status = true → s.ideStop c = some x → Sys2Proof.Machine.exec (.commandCommit id) s = .next (s.failCmd id E_IDE_STREAM x)
      ∧ VersionsKept s (s.failCmd id E_IDE_STREAM x))
    ∧ (committed c.status = true → s.ideStop c = none → s.commitDies c = [] →
      ∃ t, Sys2Proof.Machine.exec (.commandCommit id) s = .next t ∧ t = ((s.commitObjects c).commitRest c).finish id c.status c.detail ∧ t.cmd? id = none)
    ∧ (committed c.status = true → s.ideStop c = none → s.commitDies c ≠ [] →
      ∃ t d, Sys2Proof.Machine.exec (.commandCommit id) s = .next t ∧ t.cmd? id = some d ∧ d.phase = .committing ∧ d.waitDies = s.commitDies c ∧ d.ackDies = s.commitDies c
        ∧ d.commitAt = some (s.counter c.home)
        ∧ t.comps = s.comps ∧ ∀ e ∈ s.commitDies c, SentOnSpine s t c.home e 0 (leBytes 1 0x01 ++ leBytes 4 id)))
  ∧ (∀ (s : State) (c : Cmd) (w : Written) (o : Obj), NMap.get? s.objects w.key = some o →
    (s.commits c = [w] → NMap.get? (s.commitObjects c).objects w.key = some (if c.flips = true then (o.flip w.ingots).bump else o)
      ∧ ∀ k, k ≠ w.key → NMap.get? (s.commitObjects c).objects k = NMap.get? s.objects k)
    ∧ (∀ d, c.written = [w] → NMap.get? (s.commitDie c d).objects w.key = some (o.flip (o.homedOn w.ingots d))))
  ∧ (∀ (s : State) (id die : Nat) (c : Cmd), s.serving = true → s.cmd? id = some c → c.phase = .committing →
    (die ∈ c.waitDies → ∃ t, Sys2Proof.Machine.exec (.commitMessage die id) s = .next t ∧ t.cmd? id = some { c with waitDies := c.waitDies.filter (· != die) }
      ∧ t.comps = s.comps ∧ t.objects = (s.commitDie c die).objects ∧ SentOnSpine s t die c.home 0 (leBytes 1 0x02 ++ leBytes 4 id))
    ∧ (die ∈ c.ackDies → die ∉ c.waitDies → (c.ackDies.filter (· != die) ≠ [] →
        ∃ t, Sys2Proof.Machine.exec (.commitAck die id) s = .next t ∧ t.cmd? id = some { c with ackDies := c.ackDies.filter (· != die) } ∧ t = { s with cmds := t.cmds })
      ∧ (c.ackDies.filter (· != die) = [] → ∃ t, Sys2Proof.Machine.exec (.commitAck die id) s = .next t ∧ t.cmd? id = none)))

/-- A started TENSOR_OP whose operands exist runs its body to its decision point: without a failure it stands OK, OK_APPROX or OK_DEGRADED, with failures the first of them in the order of R101 and Table 4-9; the delta scan and the norm scan each end once with their decisions. No object changes version before the commit (R59, R142, R167, R216). A started ATTEND whose query and output exist, and of whose uses none waits for an ingot that cannot come, runs to its decision point; a build of sketches does too; a finished selection holds the blocks of its query block (R176, R183, R189). -/
def Obligations.TensorAndAttentionRun : Prop :=
  ((∀ (s : State) (id : Nat) (c : Cmd), Live s id 0x01 c → c.phase = .started → (s.obj? c.owner (c.f 16 4)).isSome = true → (s.obj? c.owner (c.f 24 4)).isSome = true →
    ∃ t d, Sys2Proof.Machine.exec (.tensorOp id) s = .next t ∧ Stands s t id c d ∧ HostKept s t
      ∧ (pickFail runOrder d.run.fails = none → d.status = OK ∨ d.status = OK_APPROX ∨ d.status = OK_DEGRADED)
      ∧ (∀ st dt, pickFail runOrder d.run.fails = some (st, dt) → d.status = st ∧ d.detail = dt) ∧ VersionsKept s t)
  ∧ (∀ (s : State) (id : Nat) (c : Cmd) (x : TCtx), Live s id 0x01 c → c.phase = .started → s.tctx c = some x →
    (c.run.scanned = false → ∃ t d, Sys2Proof.Machine.exec (.deltaScanDone id) s = .next t ∧ t.cmd? id = some d ∧ d.run.scanned = true
      ∧ d.run.skipRows = (if deltaOn x.t && s.carryValid c then (s.deltaScan c x).1 else c.run.skipRows) ∧ VersionsKept s t)
    ∧ (c.run.normed = false → ∃ t d, Sys2Proof.Machine.exec (.normScanDone id) s = .next t ∧ t.cmd? id = some d
      ∧ d.run.normed = true ∧ d.run.cells = (if normMode x.n = 0 then c.run.cells else (x.normScan (c.dieOfPos (ceilDiv x.a.rows 128))).1) ∧ VersionsKept s t)))
  ∧ ((∀ (s : State) (id : Nat) (c : Cmd), Live s id 0x02 c → c.phase = .started →
    (c.f 66 1 = 0 → (s.obj? c.owner (c.f 16 4)).isSome = true → (s.obj? c.owner (c.f 28 4)).isSome = true → s.attendStuck c = false →
      ∃ t d, Sys2Proof.Machine.exec (.attend id) s = .next t ∧ Stands s t id c d ∧ HostKept s t
        ∧ (pickFail runOrder d.run.fails = none → d.status = OK ∨ d.status = OK_APPROX ∨ d.status = OK_DEGRADED)
        ∧ (∀ st dt, pickFail runOrder d.run.fails = some (st, dt) → d.status = st ∧ d.detail = dt) ∧ VersionsKept s t)
    ∧ (c.f 66 1 = 1 → (s.obj? c.owner (c.f 32 4)).isSome = true → (NMap.get? s.parts c.owner).isSome = true →
      ∃ t d, Sys2Proof.Machine.exec (.attendBuildSketches id) s = .next t ∧ Stands s t id c d ∧ t.host = s.host
        ∧ (d.status = OK ∨ d.status ∈ runOrder) ∧ VersionsKept s t)
    ∧ (∀ qb x b, c.f 66 1 = 0 → s.actx c = some x → x.blocks[qb]? = some b →
      ∃ t d, Sys2Proof.Machine.exec (.blockSelectionDone id qb) s = .next t ∧ t.cmd? id = some d
        ∧ NMap.get? d.run.selections qb = some (s.selected x (c.dieOfPos x.blocks.length qb) b))))

/-- A free plane on a die that has the descriptor claims what the command gives it, unless it prefers another command that gives it a unit: the next group of its die's segment, or the last group of the fullest other die it knows of (R158, R378, R446). The events of running work: an ingot arrives for every claimed unit that uses it; a fetch that fails ends a command under STALL and is noted otherwise; a deadline that passes falls back once, or the plane waits; a wait beyond its limit ends the command; a tile whose uses are ready leaves its plane, and a residue mismatch reruns the command once (R130, R138, R139, R365 to R369). -/
def Obligations.PlanesClaimWork : Prop :=
  ((∀ (s u : State) (id die quire plane : Nat) (c : Cmd), s.serving = true → s.cmd? id = some c → planeCmd c = true → c.uncommitted = true → (die = c.home ∨ die ∈ c.seenDies) →
    s.planeFree die quire plane = true → plane < 3 → s.onQuire c die quire = true → s.groupServes (12 * die + quire / 8) = true →
    s.quireServes die quire = true → (s.dieAt die).fenced = false → (s.openWork id).claim id die quire plane = some u →
    ((∀ x ∈ (s.openWork id).cmds, x.1 ≠ id → planeCmd x.2 = true → x.2.heard die = true → (s.openWork id).onQuire x.2 die quire = true → (s.openWork id).prefers die plane x (id, c) = false) →
      Sys2Proof.Machine.exec (.unitClaim id die quire plane) s = .next u)
    ∧ (∀ x ∈ (s.openWork id).cmds, x.1 ≠ id → planeCmd x.2 = true → x.2.heard die = true → (s.openWork id).onQuire x.2 die quire = true → (s.openWork id).prefers die plane x (id, c) = true →
      (((s.openWork id).openWork x.1).claim x.1 die quire plane).isSome = true → Sys2Proof.Machine.exec (.unitClaim id die quire plane) s = .next s))
  ∧ (∀ (segs : List Seg) (die : Nat), die < segs.length →
    ((segs.getD die {}).head < (segs.getD die {}).tail → claimGroup segs die = some ((segs.getD die {}).head, segs.set die { segs.getD die {} with head := (segs.getD die {}).head + 1 }))
    ∧ ((segs.getD die {}).tail ≤ (segs.getD die {}).head → ∀ v, stealFrom (segs.getD die {}).counts die = some v → (segs.getD v {}).head < (segs.getD v {}).tail →
      v ≠ die ∧ claimGroup segs die = some ((segs.getD v {}).tail - 1, segs.set v { segs.getD v {} with tail := (segs.getD v {}).tail - 1 }))))
  ∧ ((∀ (s : State) (id : Nat) (c : Cmd), Live s id c.opcode c → c.phase = .started → planeCmd c = true →
    (∀ op n, s.users c op n ≠ [] → c.run.failedFetch.contains (op, n) = false → ∃ t d, Sys2Proof.Machine.exec (.ingotArrival id op n) s = .next t ∧ t.cmd? id = some d
      ∧ (∀ h ∈ s.users c op n, (storePlace h.die h.quire, op, n) ∈ d.run.arrived) ∧ (∀ a ∈ c.run.arrived, a ∈ d.run.arrived)
      ∧ d = { c with run := { c.run with arrived := d.run.arrived } } ∧ HostKept s t ∧ VersionsKept s t)
    ∧ (∀ op n h, (s.users c op n).head? = some h → s.fromT3 c op n = true → c.run.arrived.any (fun a => a.2 == (op, n)) = false →
      (s.classOf c (h.items.headD 0) op = 0 → Sys2Proof.Machine.exec (.t3FetchError id op n) s = .next (s.failRun id c (E_TIER_DEADLINE, 2)))
      ∧ (s.classOf c (h.items.headD 0) op ≠ 0 → ∃ t d, Sys2Proof.Machine.exec (.t3FetchError id op n) s = .next t ∧ t = { s with cmds := t.cmds } ∧ t.cmd? id = some d
        ∧ d.run.failedFetch = c.run.failedFetch ++ [(op, n)]))
    ∧ (∀ tile op n t h, c.run.holder tile = some h → ((s.reach h.die t).itemUses c tile).contains (op, n) = true → (s.reach h.die t).useReady c h tile op n = false →
      (s.reach h.die t).reachedAt id c tile op n + 10 * (s.reach h.die t).fetchSlack c op ≤ ((s.reach h.die t).counter h.die - h.at_).toNat → c.run.waits.any (fun w => w.1 == (tile, op, n)) = false →
      ∃ u d, Sys2Proof.Machine.exec (.useDeadlineExpiry id tile op n t) s = .next u ∧ u.cmd? id = some d
        ∧ (∀ z, (s.reach h.die t).fallBack c tile op n = some z → d.run.zeroUses = c.run.zeroUses ++ [z] ∧ d.run.waits = c.run.waits)
        ∧ ((s.reach h.die t).fallBack c tile op n = none →
          d.run.waits = c.run.waits ++ [((tile, op, n), (s.reach h.die t).counter h.die)] ∧ d.run.zeroUses = c.run.zeroUses))
    ∧ (∀ tile op n t h w, c.run.holder tile = some h → c.run.waits.find? (fun w => w.1 == (tile, op, n)) = some w → (s.reach h.die t).inT0 c h op n = false →
      (s.reach h.die t).stallLimit c op ≠ 0 → 100000 * (s.reach h.die t).stallLimit c op < ((s.reach h.die t).counter h.die - w.2).toNat →
      Sys2Proof.Machine.exec (.stallLimitExpiry id tile op n t) s = .next ((s.reach h.die t).failRun id c (E_TIER_DEADLINE, 1)))
    ∧ (∀ tile quire h, c.run.held.find? (fun h => h.die == quire / 256 && h.plane != 255 && h.items.contains tile
        && (s.dieAt (quire / 256)).logical.getD h.quire none == some (quire % 256)) = some h → (∀ u ∈ s.itemUses c tile, s.useReady c h tile u.1 u.2 = true) →
      ((c.opcode = 0x01 → (s.tctx c).isSome = true) → (c.opcode = 0x02 → ∃ x, s.actx c = some x ∧ tile < x.blocks.length) → ∃ t d, Sys2Proof.Machine.exec (.tileComplete id tile quire true) s = .next t ∧ t.cmd? id = some d ∧ tile ∈ d.run.done)
      ∧ (c.residueRerun = false → ∃ t d, Sys2Proof.Machine.exec (.tileComplete id tile quire false) s = .next t ∧ t.cmd? id = some d ∧ d.phase = .admitted
        ∧ d.residueRerun = true ∧ d.reruns = c.reruns + 1 ∧ d.written = [])
      ∧ (c.residueRerun = true → ∃ t, Sys2Proof.Machine.exec (.tileComplete id tile quire false) s = .next t ∧ t.cmd? id = none)))
  ∧ (∀ (s : State) (id : Nat) (c : Cmd) (op : Nat) (k : Nat) (o : Obj), Live s id c.opcode c → c.phase = .started → planeCmd c = false → s.obj? c.owner op = some (k, o) →
    (s.named c).contains k = true →
    (∀ n, o.tier = 3 → n < o.count → Sys2Proof.Machine.exec (.t3FetchError id op n) s = .next (s.failCmd id E_TIER_DEADLINE 2))
    ∧ (∀ tile n t, o.stallLimit ≠ 0 → 100000 * o.stallLimit < ((s.reach c.home t).counter c.home - c.startAt).toNat →
      Sys2Proof.Machine.exec (.stallLimitExpiry id tile op n t) s = .next ((s.reach c.home t).failCmd id E_TIER_DEADLINE 1))))

/-- A started ROUTE of each mode, whose objects exist, reaches its decision point: without a failure it stands OK, with failures the first of them in the order of R240; no object changes version before the commit (R59, R220, R240). -/
def Obligations.RoutesRun : Prop :=
  ∀ (s : State) (id : Nat) (c : Cmd), Live s id 0x0E c → c.phase = .started →
    (coMode ((s.planOf c).sec 6) = 3 → (s.obj? c.owner (c.f 20 4)).isSome = true ∧ (s.obj? c.owner (c.f 24 4)).isSome = true) →
    (coMode ((s.planOf c).sec 6) = 4 → (s.obj? c.owner (c.f 16 4)).isSome = true ∧ (s.obj? c.owner (c.f 20 4)).isSome = true
      ∧ (s.obj? c.owner (c.f 24 4)).isSome = true) →
    ∀ q ∈ [(Instr.routeLengthBucket id, 1), (Instr.routeExpertDispatch id, 2), (Instr.routeLengthPack id, 3), (Instr.routeExpertCombine id, 4)],
    coMode ((s.planOf c).sec 6) = q.2 → ∃ t d, Sys2Proof.Machine.exec q.1 s = .next t ∧ Stands s t id c d
      ∧ HostKept s t ∧ (pickFail routeOrder d.run.fails = none → d.status = OK)
      ∧ (∀ st dt, pickFail routeOrder d.run.fails = some (st, dt) → d.status = st ∧ d.detail = dt) ∧ VersionsKept s t

/-- SEQ_STEP of a legal list and state: OPEN holds an entry for every entry of its list, APPEND and CLOSE and CANCEL of an open step reach OK; the commit of CLOSE and of CANCEL releases the step (R284, R286, R288, R289). Sequences: a fork and a restore whose checks pass and whose frames can be had stand OK and hold those frames, a free stands OK and its commit retires the sequence, and a retired index becomes FREE with the next generation (R290, R295, R296, R311, R312). -/
def Obligations.StepsAndSequencesRun : Prop :=
  ((∀ (s : State) (id : Nat) (c : Cmd) (p : Part), Live s id 0x03 c → c.phase = .started → NMap.get? s.parts c.owner = some p → s.stepState c = none →
    (c.f 16 1 = 0 → s.reserveTurn id c.owner = true → s.listPoison c 24 32 (c.f 32 4) (fun _ => p.firstDie) = [] → s.stepListFail c (s.stepEntries c) = none →
      c.stepDraft = none → (s.steps.filter (fun t => t.1 / 2 ^ 32 == c.owner)).length
        + (s.cmds.filter (fun x => x.1 != id && x.2.owner == c.owner && x.2.stepDraft.isSome)).length < 256 → (∀ x ∈ s.cmds, x.1 ≠ id → x.2.owner = c.owner → x.2.stepDraft.isSome = true → x.2.f 20 4 ≠ c.f 20 4) → s.t2Use c.owner p.firstDie + 32 * (s.stepEntries c).length ≤ s.setting c.owner 0x0002 p.firstDie →
      ∃ t d x, Sys2Proof.Machine.exec (.seqStepOpen id) s = .next t ∧ Stands s t id c d ∧ d.status = OK ∧ d.stepDraft = some x
        ∧ x.entries.length = (s.stepEntries c).length ∧ t.steps = s.steps)
    ∧ (∀ x, c.f 16 1 = 1 → s.step? c.owner (c.f 20 4) = some x → x.live = [] → (∀ e ∈ x.entries, e.status ≠ OK ∨ e.tokens = 0) →
      ∃ t d, Sys2Proof.Machine.exec (.seqStepAppend id) s = .next t ∧ t.cmd? id = some d ∧ d.phase = .ready ∧ d.status = OK ∧ t.steps = s.steps ∧ t.frames = s.frames)
    ∧ (∀ x, c.f 16 1 = 1 → s.step? c.owner (c.f 20 4) = some x → ∃ t d, Sys2Proof.Machine.exec (.seqStepAppend id) s = .next t ∧ t.cmd? id = some d ∧ d.phase = .ready
      ∧ (d.status = OK ∨ d.status = E_STEP_LIST ∨ d.status ∈ stepOrder) ∧ t.steps = s.steps ∧ t.frames = s.frames)
    ∧ (∀ x, c.f 16 1 = 2 → s.step? c.owner (c.f 20 4) = some x → x.missing = false →
      ∃ t d, Sys2Proof.Machine.exec (.seqStepClose id) s = .next t ∧ t.cmd? id = some d ∧ d.phase = .ready ∧ d.status = OK ∧ d.detail = min (notOk x.entries) 0xFFFF
        ∧ t.steps = s.steps ∧ t.seqs = s.seqs)
    ∧ (c.f 16 1 = 3 → ∃ t d, Sys2Proof.Machine.exec (.seqStepCancel id) s = .next t ∧ t.cmd? id = some d ∧ d.phase = .ready ∧ d.status = OK
        ∧ t.steps = s.steps ∧ t.seqs = s.seqs))
  ∧ (∀ (s : State) (c : Cmd), c.opcode = 0x03 → c.f 16 1 = 2 ∨ c.f 16 1 = 3 → (s.commitBindery c).step? c.owner (c.f 20 4) = none))
  ∧ ((∀ (s : State) (id : Nat) (c : Cmd), c.phase = .started → c.frames = [] →
    (∀ u fs, Live s id 0x04 c → s.reserveTurn id c.owner = true → c.child = none → s.forkFail id c = none →
      (forkLeaves (s.seqAt (seqIndex (c.f 16 4))) (c.f 24 4)).1.any (fun e => !((forkLeaves (s.seqAt (seqIndex (c.f 16 4))) (c.f 24 4)).2.contains e.1)
        && decide (65535 ≤ s.refsOf e.2)) = false →
      (∀ w ∈ (forkLeaves (s.seqAt (seqIndex (c.f 16 4))) (c.f 24 4)).2, ∀ e, NMap.get? (s.seqAt (seqIndex (c.f 16 4))).leaves w = some e →
        s.rowsPoison e (s.seqAt (seqIndex (c.f 16 4))).kvHeads (s.seqAt (seqIndex (c.f 16 4))).kvFmt 0
          (c.f 24 4 - (c.f 24 4 - 1) / (s.seqAt (seqIndex (c.f 16 4))).tpl * (s.seqAt (seqIndex (c.f 16 4))).tpl) = none) →
      s.draw c.owner (seqDie (c.f 20 4)) ((forkLeaves (s.seqAt (seqIndex (c.f 16 4))) (c.f 24 4)).2.length
        + (needPages {} ((forkLeaves (s.seqAt (seqIndex (c.f 16 4))) (c.f 24 4)).1.map (·.1))).length) none = some (u, fs) →
      ∃ t d, Sys2Proof.Machine.exec (.seqFork id) s = .next t ∧ t.cmd? id = some d ∧ d.phase = .ready ∧ d.status = OK
        ∧ d.frames = fs.map (fun f => (seqDie (c.f 20 4), f)) ∧ d.child.isSome = true ∧ t.seqs = s.seqs)
    ∧ (∀ u fs, Live s id 0x0F c → c.f 20 1 = 0 → s.draw c.owner (seqDie (seqIndex (c.f 16 4)))
        ((s.seqAt (seqIndex (c.f 16 4))).leaves.filter (fun e => e.2.t3)).length none = some (u, fs) →
      ∃ t d, Sys2Proof.Machine.exec (.seqRestoreUnpark id) s = .next t ∧ t.cmd? id = some d ∧ d.phase = .ready ∧ d.status = OK
        ∧ d.frames = fs.map (fun f => (seqDie (seqIndex (c.f 16 4)), f)) ∧ t.seqs = s.seqs)
    ∧ (∀ o v, Live s id 0x0F c → c.f 20 1 = 1 → s.imageObj c = some (o, v) →
      (∀ k, s.imageFail c = some k → ∃ t d, Sys2Proof.Machine.exec (.seqRestoreImage id) s = .next t ∧ t.cmd? id = some d ∧ d.phase = .ready
        ∧ d.status = E_RESTORE_IMAGE ∧ d.detail = k ∧ t.frames = s.frames)
      ∧ (∀ u fs, s.imageFail c = none →
        o.poisonBytes v 0 (64 + 8 * (imLength (o.readBytes v 0 64) / (s.seqAt (seqIndex (c.f 16 4))).tpl)) (seqDie (seqIndex (c.f 16 4))) = none →
        (∀ w ∈ allWins (s.seqAt (seqIndex (c.f 16 4))) (imLength (o.readBytes v 0 64)), o.poisonBytes v (imBase (imLength (o.readBytes v 0 64)) (s.seqAt (seqIndex (c.f 16 4))).tpl + w * 151552) 151552 (seqDie (seqIndex (c.f 16 4))) = none) →
        s.draw c.owner (seqDie (seqIndex (c.f 16 4)))
          (((allWins (s.seqAt (seqIndex (c.f 16 4))) (imLength (o.readBytes v 0 64))).filter (fun w => !((s.imageShares c o v).any (fun x => x.1 == w)))).length
            + (needPages {} (allWins (s.seqAt (seqIndex (c.f 16 4))) (imLength (o.readBytes v 0 64)))).length) none = some (u, fs) →
        ∃ t d, Sys2Proof.Machine.exec (.seqRestoreImage id) s = .next t ∧ t.cmd? id = some d ∧ d.phase = .ready ∧ d.status = OK
          ∧ d.frames = fs.map (fun f => (seqDie (seqIndex (c.f 16 4)), f)) ∧ t.seqs = s.seqs))
    ∧ (Live s id 0x05 c → s.freeFail c = none → ∃ t d, Sys2Proof.Machine.exec (.seqFree id) s = .next t ∧ t.cmd? id = some d ∧ d.phase = .ready ∧ d.status = OK
        ∧ t.seqs = s.seqs))
  ∧ (∀ (s : State) (c : Cmd), c.opcode = 0x05 → ((s.commitBindery c).seqAt (seqIndex (c.f 16 4))).state = .retired)
  ∧ (∀ (s : State) (idx : Nat), s.serving = true → (s.seqAt idx).state = .retired → ∃ t, Sys2Proof.Machine.exec (.seqReleaseComplete idx) s = .next t
    ∧ (t.seqAt idx).state = .free ∧ (t.seqAt idx).gen = ((s.seqAt idx).gen + 1) % 2 ^ 14 ∧ (t.seqAt idx).leaves = []))

/-- MOVE of byte objects and sequences: COPY and IMPORT put the source's bytes into the inactive version, EXPORT and SEQ_EXPORT hold what their commit writes to host memory and no more, RETIER takes the new home at its commit (R372). -/
def Obligations.MovesRun : Prop :=
  (∀ (s : State) (id : Nat) (c : Cmd), Live s id 0x06 c → c.phase = .started →
    (∀ sk a dk b, c.f 16 1 = 0 → s.obj? c.owner (c.f 20 4) = some (sk, a) → s.obj? c.owner (c.f 24 4) = some (dk, b) → a.kind = 1 →
      a.poisonBytes (c.viewOf sk a) (c.f 32 8) (c.f 48 8) c.home = none → ∃ t d, Sys2Proof.Machine.exec (.moveCopy id) s = .next t
      ∧ t = (s.putObj id dk (c.f 40 8) (a.readBytes (c.viewOf sk a) (c.f 32 8) (c.f 48 8))).endMove id none ∧ t.cmd? id = some d ∧ d.phase = .ready ∧ d.status = OK
      ∧ VersionsKept s t)
    ∧ (∀ dk b, c.f 16 1 = 1 → s.obj? c.owner (c.f 24 4) = some (dk, b) → b.kind = 1 → ∃ t d, Sys2Proof.Machine.exec (.moveImport id) s = .next t
      ∧ t = ((s.bulkDma c.owner false (c.f 56 8) (c.f 48 8 * b.unit)).putObj id dk (c.f 40 8) (s.hostRead (c.f 56 8) (c.f 48 8))).endMove id none ∧ t.cmd? id = some d ∧ d.phase = .ready ∧ d.status = OK ∧ VersionsKept s t)
    ∧ (∀ sk a, c.f 16 1 = 2 → s.obj? c.owner (c.f 20 4) = some (sk, a) → a.kind = 1 → a.poisonBytes (c.viewOf sk a) (c.f 32 8) (c.f 48 8) c.home = none →
      ∃ t d, Sys2Proof.Machine.exec (.moveExport id) s = .next t ∧ t.cmd? id = some d ∧ d.phase = .ready ∧ d.status = OK
        ∧ d.image = a.readBytes (c.viewOf sk a) (c.f 32 8) (c.f 48 8) ∧ t.host = s.host ∧ t.objects = s.objects)
    ∧ (∀ q, c.f 16 1 = 3 → s.seqExportFail c = none → q = { s.seqAt (seqIndex (c.f 20 4)) with c := NMap.getD c.lens 0 (s.seqAt (seqIndex (c.f 20 4))).c } →
      (∀ w ∈ allWins q q.c, ∀ e, NMap.get? q.leaves w = some e → s.leafPoison e 0 151552 = none) →
      ∃ t d, Sys2Proof.Machine.exec (.moveSeqExport id) s = .next t ∧ t.cmd? id = some d ∧ d.phase = .ready ∧ d.status = OK
        ∧ d.image = s.seqImage q (c.f 72 8) ∧ t.host = s.host)
    ∧ (∀ k o, c.f 16 1 = 6 → s.obj? c.owner (c.f 20 4) = some (k, o) → (∀ x ∈ s.cmds, x.1 ≠ id → (s.named x.2).contains k = false) → s.isModel c.owner (c.f 20 4) = false →
      s.fits c.owner (retiered o c.desc) = true → ∃ t d, Sys2Proof.Machine.exec (.moveRetier id) s = .next t ∧ t.cmd? id = some d ∧ d.phase = .ready ∧ d.status = OK
        ∧ t.objects = s.objects))
  ∧ (∀ (s : State) (c : Cmd), c.opcode = 0x06 → c.f 16 1 = 2 ∨ c.f 16 1 = 3 → s.dmaStop (s.functionOf c.owner) = none → (s.commitMove c).host = Mem.writeRange s.host (c.f 56 8) c.image ∧ (s.commitMove c).objects = s.objects)
  ∧ (∀ (s : State) (c : Cmd) (k : Nat) (o : Obj), c.opcode = 0x06 → c.f 16 1 = 6 → s.obj? c.owner (c.f 20 4) = some (k, o) →
    ∃ o1, NMap.get? (s.commitMove c).objects k = some o1 ∧ o1 = { retiered o c.desc with pages := o1.pages, dv := o1.dv })

/-- CODEC_FRAME: an admitted OPEN, a KEY_REQ and a CLOSE of an idle stream complete, the request is kept and the slot is free; a frame whose engine gives it its turn and whose stream allows it reaches its decision point; at a boundary an idle engine takes the next item or none. DETECT_POST reaches its decision point once its images are handled (R266, R460, R464, R467, R476). -/
def Obligations.CodecAndDetectionRun : Prop :=
  (∀ (s : State) (id : Nat) (c : Cmd), Live s id 0x08 c →
    (cdOp c = 0 → c.target.isSome = true → Sys2Proof.Machine.exec (.codecOpen id) s = .next (s.finish id OK 0) ∧ (s.finish id OK 0).engines = s.engines)
    ∧ (∀ x, cdOp c = 4 → s.streamBusy id c = false → s.codecBound c = none → s.stream? c = some x → c.f 17 1 < s.engines.length →
      ∃ t y, Sys2Proof.Machine.exec (.codecKeyReq id) s = .next t ∧ t.cmd? id = none ∧ t.stream? c = some y ∧ y = { x with state := { x.state with keyRequest := true } })
    ∧ (cdOp c = 3 → s.streamBusy id c = false → s.codecBound c = none → c.f 17 1 < s.engines.length →
      ∃ t, Sys2Proof.Machine.exec (.codecClose id) s = .next t ∧ t.cmd? id = none ∧ t.stream? c = none)
    ∧ (∀ x k o, (cdOp c = 1 ∨ cdOp c = 2) → c.phase = .started → s.engineTurn (c.f 17 1) id = true → s.codecState id c = none → s.stream? c = some x →
      s.obj? c.owner (c.f 24 4) = some (k, o) → (s.obj? c.owner (c.f 44 4)).isSome = true →
      ∀ q ∈ [(Instr.codecEncode id, 1), (Instr.codecDecode id, 2)], cdOp c = q.2 → ∃ t d, Sys2Proof.Machine.exec q.1 s = .next t ∧ Stands s t id c d
        ∧ (d.status = OK ∨ d.status ∈ codecOrder) ∧ VersionsKept s t ∧ HostKept s t))
  ∧ (∀ (s : State) (die : Nat), s.serving = true → s.engineWorking die = none → die < s.engines.length →
    ((∀ id, s.nextItem die = some id → ∃ t, Sys2Proof.Machine.exec (.codecFrameBoundary die) s = .next t ∧ (t.engineAt die).current = some id)
    ∧ (s.nextItem die = none → ∃ t, Sys2Proof.Machine.exec (.codecFrameBoundary die) s = .next t ∧ (t.engineAt die).current = none)))
  ∧ (∀ (s : State) (id : Nat) (c : Cmd), Live s id 0x09 c → c.phase = .started → (∀ d < 8, s.hasItem d c = false) →
    (∀ off ∈ [16, 20, 24, 28], (s.obj? c.owner (c.f off 4)).isSome = true) →
    ∃ t d, Sys2Proof.Machine.exec (.detectPost id) s = .next t ∧ Stands s t id c d ∧ (d.status = OK ∨ d.status ∈ runOrder) ∧ VersionsKept s t ∧ HostKept s t)

/-- Loads: a load begins by announcing itself upstream or by judging its manifest; READY, SHARD, ACK and NAK act on the shards of the load they name; a verified shard is acknowledged upstream; silence leads to the host's copy, or ends the load; silence from below ends the wait for its acknowledgements (R424, R427 to R433). An unload of an owned model that nothing names removes it with its objects; a bind whose checks pass makes its alloy and an unbind removes it with its copies; another is refused with its state (R434 to R437). -/
def Obligations.ModelsLoadUnloadAndBind : Prop :=
  ((∀ (s : State) (id : Nat) (c : Cmd), Live s id 0x49 c → c.f 16 1 = 0 → c.phase = .admitted → s.downLink c = none →
    (mlRelay c = true → ∃ t d k m, Sys2Proof.Machine.exec (.modelLoad id) s = .next t ∧ t.cmd? id = some d ∧ d.phase = .started ∧ d.load = some k
      ∧ t.linkOut = s.linkOut ++ [(c.f 18 1, m)] ∧ m.type = 0x20 ∧ m.aux = c.f 20 4 ∧ m.opSeq = c.f 28 4)
    ∧ (mlRelay c = false → mlDown c = false → c.load = none → Sys2Proof.Machine.exec (.modelLoad id) s = .next
        ((((s.setCmd id { c with load := some { lastUp := s.counter c.home, lastDown := s.counter c.home } }).startCmd id).manifestDma c).takeManifest id
          (s.hostRead (c.f 32 8) (c.f 40 4)))))
  ∧ (∀ (s : State) (id st dt : Nat) (m : Bytes) (c : Cmd) (k : Load), s.cmd? id = some c → c.load = some k → s.manifestFail c k m = some (st, dt) →
    ∃ u : State, s.takeManifest id m = u.failCmd id st dt ∧ u.models = s.models ∧ u.comps = s.comps ∧ (s.takeManifest id m).models = s.models
      ∧ (s.takeManifest id m).cmd? id = none)
  ∧ (∀ (s : State) (link : Nat) (m : Msg), LinkServes s link → s.shapeOk → m.type = 0x20 → s.loadFor false link m = none →
    ∃ t, Sys2Proof.Machine.exec (.relayReady link m) s = .next t ∧ m.opSeq ∈ (t.linkAt link).relayReady)
  ∧ (∀ (s : State) (link id : Nat) (m : Msg) (c : Cmd) (k : Load), LinkServes s link → s.cmd? id = some c → c.load = some k → c.phase = .started →
    (m.type = 0x21 → s.loadFor true link m = some (id, c) → k.manifestOk = false → m.segment * 16384 = k.manifest.length → (k.manifest ++ m.payload).length < 128 →
      ∃ t d k1, Sys2Proof.Machine.exec (.relayManifest link m) s = .next t ∧ t.cmd? id = some d ∧ d.load = some k1 ∧ k1.manifest = k.manifest ++ m.payload)
    ∧ (∀ x, m.type = 0x22 → s.loadFor true link m = some (id, c) → NMap.get? k.shards m.segment = some x → x.verified = false → x.complete = false → x.gone = false →
      m.aux = x.got → m.aux ≠ 0 → m.aux + m.payload.length ≤ shLen k.manifest m.segment →
      ∃ t d k1 y, Sys2Proof.Machine.exec (.relayShard link m) s = .next t ∧ t.cmd? id = some d ∧ d.load = some k1 ∧ NMap.get? k1.shards m.segment = some y
        ∧ y.bytes = x.bytes.take m.aux ++ m.payload ∧ y.got = m.aux + m.payload.length ∧ y.complete = decide (m.aux + m.payload.length = shLen k.manifest m.segment))
    ∧ (∀ x, m.type = 0x23 → s.loadFor false link m = some (id, c) → NMap.get? k.shards m.segment = some x →
      (∃ e ∈ k.shards, e.2.verified = false ∧ e.2.gone = false) →
      ∃ t d k1 y, Sys2Proof.Machine.exec (.relayAck link m) s = .next t ∧ t.cmd? id = some d ∧ d.load = some k1 ∧ NMap.get? k1.shards m.segment = some y ∧ y.acked = true)
    ∧ (∀ x, m.type = 0x24 → s.loadFor false link m = some (id, c) → NMap.get? k.shards m.segment = some x → x.verified = true →
      ∃ t, Sys2Proof.Machine.exec (.relayNak link m) s = .next t ∧ ∀ j < ceilDiv x.bytes.length 16384, ∃ y, (c.f 19 1, y) ∈ t.linkOut ∧ y.type = 0x22 ∧ y.segment = m.segment
        ∧ y.aux = 16384 * j ∧ y.payload = (x.bytes.drop (16384 * j)).take 16384)
    ∧ (m.type = 0x25 → s.loadFor false link m = some (id, c) → s.loadFor true link m = none →
      (∃ e ∈ k.shards, e.2.verified = false ∧ e.2.gone = false) →
      ∃ t d k1, Sys2Proof.Machine.exec (.relayAbort link m) s = .next t ∧ t.cmd? id = some d ∧ d.load = some k1 ∧ k1.downGone = true))
  ∧ (∀ (s : State) (id shard : Nat) (c : Cmd) (k : Load) (x : Shard) (t : Word), s.serving = true → s.cmd? id = some c → c.opcode = 0x49 → c.phase = .started → c.load = some k →
    (NMap.get? k.shards shard = some x → k.manifestOk = true → x.complete = true → x.verified = false → mlRelay c = true →
      ∃ u, Sys2Proof.Machine.exec (.shardVerified id shard) s = .next u
        ∧ if (Config.shake256 64 x.bytes).take 32 = shDigest k.manifest shard then ∃ y, (c.f 18 1, y) ∈ u.linkOut ∧ y.type = 0x23 ∧ y.segment = shard
          else u = (s.setLoad id (fun z => z.modShard shard (fun w => { w with bad := true }))).recoverShard id shard)
    ∧ (NMap.get? k.shards shard = some x → k.manifestOk = true → x.complete = false → x.verified = false → x.gone = false → x.naks = 0 →
      mfTimeout k.manifest * 100000 ≤ ((s.reach c.home t).counter c.home - k.lastUp).toNat →
      Sys2Proof.Machine.exec (.shardMissingTimeout id shard t) s = .next ((s.reach c.home t).recoverShard id shard))
    ∧ (mlRelay c = true → k.manifestOk = false → 100000000 ≤ ((s.reach c.home t).counter c.home - c.admitAt).toNat →
      (c.f 32 8 = 0 → Sys2Proof.Machine.exec (.relayManifestTimeout id t) s = .next ((s.reach c.home t).failCmd id E_LOAD_INCOMPLETE 0xFFFF))
      ∧ (c.f 32 8 ≠ 0 → (s.reach c.home t).dmaStop ((s.reach c.home t).functionOf c.owner) = none →
        Sys2Proof.Machine.exec (.relayManifestTimeout id t) s = .next (((s.reach c.home t).manifestDma c).takeManifest id (s.hostRead (c.f 32 8) (c.f 40 4))))
      ∧ (∀ z, c.f 32 8 ≠ 0 → (s.reach c.home t).dmaStop ((s.reach c.home t).functionOf c.owner) = some z →
        Sys2Proof.Machine.exec (.relayManifestTimeout id t) s = .next ((s.reach c.home t).failCmd id E_IDE_STREAM z)))
    ∧ (mlDown c = true → k.manifestOk = true → mfTimeout k.manifest * 100000 ≤ ((s.reach c.home t).counter c.home - k.lastDown).toNat →
      Sys2Proof.Machine.exec (.downstreamTimeout id t) s = .next (((s.reach c.home t).setLoad id (fun x => { x with downSilent := true })).loadCheck id))))
  ∧ ((∀ (s : State) (id : Nat) (c : Cmd) (m : Model), Live s id 0x49 c → c.f 16 1 = 1 → NMap.get? s.models (objKey c.owner (c.f 20 4)) = some m →
    s.modelNamed id (c.f 20 4) m = false → s.alloys.any (fun a => a.2.base == objKey c.owner (c.f 20 4)) = false →
    ∃ t, Sys2Proof.Machine.exec (.modelUnload id) s = .next t ∧ t.cmd? id = none ∧ NMap.get? t.models (objKey c.owner (c.f 20 4)) = none
      ∧ (∀ k ∈ modelKeys (c.f 20 4) m, NMap.get? t.objects k = none) ∧ (∀ k, k ∉ modelKeys (c.f 20 4) m → NMap.get? t.objects k = NMap.get? s.objects k))
  ∧ (∀ (s : State) (id : Nat) (c : Cmd), Live s id 0x4A c → c.f 16 1 = 0 →
    (s.bindFail c (readAdapters s (c.f 32 8) (c.f 17 1)) = none → ∃ t a, Sys2Proof.Machine.exec (.alloyBind id) s = .next t ∧ t.cmd? id = none
      ∧ NMap.get? t.alloys (objKey c.owner (c.f 24 4)) = some a ∧ a.modelId = c.f 20 4 ∧ a.owner = c.owner
      ∧ a.adapters = (readAdapters s (c.f 32 8) (c.f 17 1)).map (fun i => (i.target, i.rank)))
    ∧ (∀ st dt, s.bindFail c (readAdapters s (c.f 32 8) (c.f 17 1)) = some (st, dt) →
      ∃ t, Sys2Proof.Machine.exec (.alloyBind id) s = .next t ∧ t.cmd? id = none ∧ t.alloys = s.alloys
        ∧ t = ((s.asDma (s.functionOf c.owner) false (c.f 32 8) (16 * c.f 17 1)).startCmd id).failCmd id st dt))
  ∧ (∀ (s : State) (id : Nat) (c : Cmd) (a : Alloy), Live s id 0x4A c → c.f 16 1 = 1 → NMap.get? s.alloys (objKey c.owner (c.f 24 4)) = some a →
    s.rangeNamed id c.owner (c.f 24 4) (c.f 24 4 + a.tensors + 2 * a.adapters.length) = false →
    ∃ t, Sys2Proof.Machine.exec (.alloyUnbind id) s = .next t ∧ t.cmd? id = none ∧ NMap.get? t.alloys (objKey c.owner (c.f 24 4)) = none
      ∧ ∀ i < 2 * a.adapters.length, NMap.get? t.objects (objKey c.owner (c.f 24 4 + a.tensors) + i) = none))

/-- R5: multi-byte fields are little-endian, byte `i` of the number of a field being its bits from 8i on; a field's range FIELD[h:l] includes both ends, bit 0 being the least significant. -/
def Obligations.BytesAreLittleEndian : Prop :=
  (∀ n v : Nat, (leBytes n v).length = n ∧ leNat (leBytes n v) = v % 256 ^ n)
  ∧ (∀ n v i : Nat, i < n → (leBytes n v)[i]? = some (BitVec.ofNat 8 (v / 256 ^ i)))
  ∧ (∀ b : Bytes, leNat b < 256 ^ b.length ∧ leBytes b.length (leNat b) = b)
  ∧ (∀ v h l i : Nat, l ≤ h → ((bitsOf v h l).testBit i = true ↔ l + i ≤ h ∧ v.testBit (l + i) = true))

/-- An ingot's header and its elements survive writing and reading: the 64 bytes of a header spell the same header, and of a run of codes packed as R72 packs them each is read back at its place, whatever bytes follow (Table 15-5, R72). -/
def Obligations.IngotsRoundTrip : Prop :=
  (∀ h : Header, h.fmt < 256 → h.axis ≤ 1 → h.object < 2 ^ 32 → h.index < 2 ^ 32 → h.commit < 2 ^ 32 → h.promoted < 2 ^ 16 → h.degraded < 2 ^ 16 →
    h.rows < 2 ^ 128 → h.bytes.length = 64 ∧ ∀ rest : Bytes, headerOf (h.bytes ++ rest) = h)
  ∧ (∀ w ∈ [4, 6, 8, 16, 32], ∀ (cs : List Nat) (front rest : Bytes), 4 ∣ cs.length → (∀ x ∈ cs, x < 2 ^ w) →
    (packCodes w cs).length * 8 = w * cs.length
    ∧ ∀ i, i < cs.length → cs[i]? = some (codeAt (front ++ packCodes w cs ++ rest) front.length w i))

/-- Rounding to an element format is to the nearest code, ties to even: every code is its own rounding, no code is nearer to a magnitude than the one chosen, and where another is as near the chosen one is even. Binary32 rounds so too; codes past the top code are the format's own saturation or infinity (R71, R78, R95). -/
def Obligations.RoundingIsNearestEven : Prop :=
  ∀ L ∈ [e2m1, e2m3, e3m2, e4m3, e5m2, bf16, fp16, fp32],
    (∀ n : Nat, L.nearest (L.magnitude n) = n)
    ∧ (∀ (q : Rat) (m : Nat), 0 ≤ q → ratAbs (L.magnitude (L.nearest q) - q) ≤ ratAbs (L.magnitude m - q))
    ∧ (∀ (q : Rat) (m : Nat), 0 ≤ q → m ≠ L.nearest q → ratAbs (L.magnitude m - q) = ratAbs (L.magnitude (L.nearest q) - q) → L.nearest q % 2 = 0)

/-- The Mitus map: the near window of die d reaches the near part of d's three stacks and the far window the far part of all twenty-four, every native byte from one address of its window only (R326); with the map on, device addresses resolve by the three windows of Table 14-1, with it off only the native window does (R324, R325). -/
def Obligations.MitusMapIsOneToOne : Prop :=
  (∀ d n a, d < 8 → n ≤ 64 → a < 3 * n * 2 ^ 30 → homeOf (mitusNear d a) = d ∧ mitusNear d a / 2 ^ 36 < 24 ∧ mitusNear d a % 2 ^ 36 < n * 2 ^ 30)
  ∧ (∀ d n a b, n ≤ 64 → a < 3 * n * 2 ^ 30 → b < 3 * n * 2 ^ 30 → mitusNear d a = mitusNear d b → a = b)
  ∧ (∀ n a, n ≤ 64 → a < 24 * (64 - n) * 2 ^ 30 →
    mitusFar n a / 2 ^ 36 < 24 ∧ n * 2 ^ 30 ≤ mitusFar n a % 2 ^ 36)
  ∧ (∀ n a b, n ≤ 64 → a < 24 * (64 - n) * 2 ^ 30 → b < 24 * (64 - n) * 2 ^ 30 → mitusFar n a = mitusFar n b → a = b)
  ∧ (∀ (s : State) (d a : Nat), a < 0x018000000000 → s.native d a = some a)
  ∧ (∀ (s : State) (d a : Nat), s.mitusEn = true → a < 3 * s.near * 2 ^ 30 → s.native d (0x040000000000 + a) = some (mitusNear d a))
  ∧ (∀ (s : State) (d a : Nat), s.mitusEn = true → a < 24 * (64 - s.near) * 2 ^ 30 → s.native d (0x080000000000 + a) = some (mitusFar s.near a))
  ∧ (∀ (s : State) (d a : Nat), s.mitusEn = false → 0x018000000000 ≤ a → s.native d a = none)
end

