-- ==== Sys2Proof/Laws/State.lean ====
section
/-! SUPPORT. What each named update of one part of the state does to every field. -/

namespace Sys2Proof.Machine

section
variable (s : State) (fn a : Nat) (bs : Bytes)
@[simp] theorem State.hostWrite_pending : (s.hostWrite fn a bs).pending = s.pending := rfl
@[simp] theorem State.hostWrite_fresh : (s.hostWrite fn a bs).fresh = s.fresh := rfl
@[simp] theorem State.hostWrite_counters : (s.hostWrite fn a bs).counters = s.counters := rfl
@[simp] theorem State.hostWrite_boot : (s.hostWrite fn a bs).boot = s.boot := rfl
@[simp] theorem State.hostWrite_pins : (s.hostWrite fn a bs).pins = s.pins := rfl
@[simp] theorem State.hostWrite_resetCause : (s.hostWrite fn a bs).resetCause = s.resetCause := rfl
@[simp] theorem State.hostWrite_warmResets : (s.hostWrite fn a bs).warmResets = s.warmResets := rfl
@[simp] theorem State.hostWrite_fatal : (s.hostWrite fn a bs).fatal = s.fatal := rfl
@[simp] theorem State.hostWrite_half : (s.hostWrite fn a bs).half = s.half := rfl
@[simp] theorem State.hostWrite_msix : (s.hostWrite fn a bs).msix = s.msix := rfl
@[simp] theorem State.hostWrite_msixOut : (s.hostWrite fn a bs).msixOut = s.msixOut := rfl
@[simp] theorem State.hostWrite_queues : (s.hostWrite fn a bs).queues = s.queues := rfl
@[simp] theorem State.hostWrite_t2cache : (s.hostWrite fn a bs).t2cache = s.t2cache := rfl
@[simp] theorem State.hostWrite_admin : (s.hostWrite fn a bs).admin = s.admin := rfl
@[simp] theorem State.hostWrite_subs : (s.hostWrite fn a bs).subs = s.subs := rfl
@[simp] theorem State.hostWrite_comps : (s.hostWrite fn a bs).comps = s.comps := rfl
@[simp] theorem State.hostWrite_fences : (s.hostWrite fn a bs).fences = s.fences := rfl
@[simp] theorem State.hostWrite_cmds : (s.hostWrite fn a bs).cmds = s.cmds := rfl
@[simp] theorem State.hostWrite_nextCmd : (s.hostWrite fn a bs).nextCmd = s.nextCmd := rfl
@[simp] theorem State.hostWrite_parts : (s.hostWrite fn a bs).parts = s.parts := rfl
@[simp] theorem State.hostWrite_windows : (s.hostWrite fn a bs).windows = s.windows := rfl
@[simp] theorem State.hostWrite_plans : (s.hostWrite fn a bs).plans = s.plans := rfl
@[simp] theorem State.hostWrite_tables : (s.hostWrite fn a bs).tables = s.tables := rfl
@[simp] theorem State.hostWrite_tempers : (s.hostWrite fn a bs).tempers = s.tempers := rfl
@[simp] theorem State.hostWrite_objects : (s.hostWrite fn a bs).objects = s.objects := rfl
@[simp] theorem State.hostWrite_seqs : (s.hostWrite fn a bs).seqs = s.seqs := rfl
@[simp] theorem State.hostWrite_frames : (s.hostWrite fn a bs).frames = s.frames := rfl
@[simp] theorem State.hostWrite_pool : (s.hostWrite fn a bs).pool = s.pool := rfl
@[simp] theorem State.hostWrite_steps : (s.hostWrite fn a bs).steps = s.steps := rfl
@[simp] theorem State.hostWrite_trees : (s.hostWrite fn a bs).trees = s.trees := rfl
@[simp] theorem State.hostWrite_mitusEn : (s.hostWrite fn a bs).mitusEn = s.mitusEn := rfl
@[simp] theorem State.hostWrite_nearGib : (s.hostWrite fn a bs).nearGib = s.nearGib := rfl
@[simp] theorem State.hostWrite_hbm : (s.hostWrite fn a bs).hbm = s.hbm := rfl
@[simp] theorem State.hostWrite_hbmRate : (s.hostWrite fn a bs).hbmRate = s.hbmRate := rfl
@[simp] theorem State.hostWrite_repaired : (s.hostWrite fn a bs).repaired = s.repaired := rfl
@[simp] theorem State.hostWrite_dies : (s.hostWrite fn a bs).dies = s.dies := rfl
@[simp] theorem State.hostWrite_spine : (s.hostWrite fn a bs).spine = s.spine := rfl
@[simp] theorem State.hostWrite_streams : (s.hostWrite fn a bs).streams = s.streams := rfl
@[simp] theorem State.hostWrite_spineOut : (s.hostWrite fn a bs).spineOut = s.spineOut := rfl
@[simp] theorem State.hostWrite_unitOut : (s.hostWrite fn a bs).unitOut = s.unitOut := rfl
@[simp] theorem State.hostWrite_links : (s.hostWrite fn a bs).links = s.links := rfl
@[simp] theorem State.hostWrite_linkOut : (s.hostWrite fn a bs).linkOut = s.linkOut := rfl
@[simp] theorem State.hostWrite_frameOut : (s.hostWrite fn a bs).frameOut = s.frameOut := rfl
@[simp] theorem State.hostWrite_linkIn : (s.hostWrite fn a bs).linkIn = s.linkIn := rfl
@[simp] theorem State.hostWrite_partId : (s.hostWrite fn a bs).partId = s.partId := rfl
@[simp] theorem State.hostWrite_groups : (s.hostWrite fn a bs).groups = s.groups := rfl
@[simp] theorem State.hostWrite_fprintWait : (s.hostWrite fn a bs).fprintWait = s.fprintWait := rfl
@[simp] theorem State.hostWrite_models : (s.hostWrite fn a bs).models = s.models := rfl
@[simp] theorem State.hostWrite_alloys : (s.hostWrite fn a bs).alloys = s.alloys := rfl
@[simp] theorem State.hostWrite_engines : (s.hostWrite fn a bs).engines = s.engines := rfl
@[simp] theorem State.hostWrite_flash : (s.hostWrite fn a bs).flash = s.flash := rfl
@[simp] theorem State.hostWrite_sec : (s.hostWrite fn a bs).sec = s.sec := rfl
@[simp] theorem State.hostWrite_serial : (s.hostWrite fn a bs).serial = s.serial := rfl
@[simp] theorem State.hostWrite_spdmOut : (s.hostWrite fn a bs).spdmOut = s.spdmOut := rfl
@[simp] theorem State.hostWrite_keyOut : (s.hostWrite fn a bs).keyOut = s.keyOut := rfl
@[simp] theorem State.hostWrite_pldmOut : (s.hostWrite fn a bs).pldmOut = s.pldmOut := rfl
@[simp] theorem State.hostWrite_power : (s.hostWrite fn a bs).power = s.power := rfl
@[simp] theorem State.hostWrite_errs : (s.hostWrite fn a bs).errs = s.errs := rfl
@[simp] theorem State.hostWrite_dropped : (s.hostWrite fn a bs).dropped = s.dropped := rfl
@[simp] theorem State.hostWrite_ceLog2 : (s.hostWrite fn a bs).ceLog2 = s.ceLog2 := rfl
@[simp] theorem State.hostWrite_colo : (s.hostWrite fn a bs).colo = s.colo := rfl
/-- What a write puts in host memory: its bytes, or nothing while a stopped IDE stream carries its function (R502). -/
theorem State.hostWrite_host : (s.hostWrite fn a bs).host = if (s.dmaStop fn).isNone then Mem.writeRange s.host a bs else s.host := rfl
@[simp] theorem State.hostWrite_host_open (h : s.dmaStop fn = none) : (s.hostWrite fn a bs).host = Mem.writeRange s.host a bs := by
  rw [State.hostWrite_host, h]; rfl
@[simp] theorem State.hostWrite_stalled_open (h : s.dmaStop fn = none) : (s.hostWrite fn a bs).stalled = s.stalled := by
  unfold State.hostWrite; rw [h]; rfl
/-- A write held by a stopped stream waits whole (R502). -/
theorem State.hostWrite_stalled_held (h : s.dmaStop fn ≠ none) :
    (s.hostWrite fn a bs).stalled = s.stalled ++ [{ fn := fn, addr := a, bytes := bs }] := by
  unfold State.hostWrite
  have e : (s.dmaStop fn).isNone = false := by cases g : s.dmaStop fn <;> simp_all
  rw [e]; rfl
@[simp] theorem State.hostWrite_dmaStop (f : Nat) : (s.hostWrite fn a bs).dmaStop f = s.dmaStop f := rfl
end

section
variable (s : State) (cs : List Host.Cell)
@[simp] theorem State.hostStores_pending : (s.hostStores cs).pending = s.pending := rfl
@[simp] theorem State.hostStores_fresh : (s.hostStores cs).fresh = s.fresh := rfl
@[simp] theorem State.hostStores_counters : (s.hostStores cs).counters = s.counters := rfl
@[simp] theorem State.hostStores_boot : (s.hostStores cs).boot = s.boot := rfl
@[simp] theorem State.hostStores_pins : (s.hostStores cs).pins = s.pins := rfl
@[simp] theorem State.hostStores_resetCause : (s.hostStores cs).resetCause = s.resetCause := rfl
@[simp] theorem State.hostStores_warmResets : (s.hostStores cs).warmResets = s.warmResets := rfl
@[simp] theorem State.hostStores_fatal : (s.hostStores cs).fatal = s.fatal := rfl
@[simp] theorem State.hostStores_host : (s.hostStores cs).host = Mem.stores s.host cs := rfl
@[simp] theorem State.hostStores_half : (s.hostStores cs).half = s.half := rfl
@[simp] theorem State.hostStores_msix : (s.hostStores cs).msix = s.msix := rfl
@[simp] theorem State.hostStores_msixOut : (s.hostStores cs).msixOut = s.msixOut := rfl
@[simp] theorem State.hostStores_atc : (s.hostStores cs).atc = s.atc := rfl
@[simp] theorem State.hostStores_dma : (s.hostStores cs).dma = s.dma := rfl
@[simp] theorem State.hostStores_stalled : (s.hostStores cs).stalled = s.stalled := rfl
@[simp] theorem State.hostStores_lastDma : (s.hostStores cs).lastDma = s.lastDma := rfl
@[simp] theorem State.hostStores_queues : (s.hostStores cs).queues = s.queues := rfl
@[simp] theorem State.hostStores_t2cache : (s.hostStores cs).t2cache = s.t2cache := rfl
@[simp] theorem State.hostStores_admin : (s.hostStores cs).admin = s.admin := rfl
@[simp] theorem State.hostStores_subs : (s.hostStores cs).subs = s.subs := rfl
@[simp] theorem State.hostStores_comps : (s.hostStores cs).comps = s.comps := rfl
@[simp] theorem State.hostStores_fences : (s.hostStores cs).fences = s.fences := rfl
@[simp] theorem State.hostStores_cmds : (s.hostStores cs).cmds = s.cmds := rfl
@[simp] theorem State.hostStores_nextCmd : (s.hostStores cs).nextCmd = s.nextCmd := rfl
@[simp] theorem State.hostStores_parts : (s.hostStores cs).parts = s.parts := rfl
@[simp] theorem State.hostStores_windows : (s.hostStores cs).windows = s.windows := rfl
@[simp] theorem State.hostStores_plans : (s.hostStores cs).plans = s.plans := rfl
@[simp] theorem State.hostStores_tables : (s.hostStores cs).tables = s.tables := rfl
@[simp] theorem State.hostStores_tempers : (s.hostStores cs).tempers = s.tempers := rfl
@[simp] theorem State.hostStores_objects : (s.hostStores cs).objects = s.objects := rfl
@[simp] theorem State.hostStores_seqs : (s.hostStores cs).seqs = s.seqs := rfl
@[simp] theorem State.hostStores_frames : (s.hostStores cs).frames = s.frames := rfl
@[simp] theorem State.hostStores_pool : (s.hostStores cs).pool = s.pool := rfl
@[simp] theorem State.hostStores_steps : (s.hostStores cs).steps = s.steps := rfl
@[simp] theorem State.hostStores_trees : (s.hostStores cs).trees = s.trees := rfl
@[simp] theorem State.hostStores_mitusEn : (s.hostStores cs).mitusEn = s.mitusEn := rfl
@[simp] theorem State.hostStores_nearGib : (s.hostStores cs).nearGib = s.nearGib := rfl
@[simp] theorem State.hostStores_hbm : (s.hostStores cs).hbm = s.hbm := rfl
@[simp] theorem State.hostStores_hbmRate : (s.hostStores cs).hbmRate = s.hbmRate := rfl
@[simp] theorem State.hostStores_repaired : (s.hostStores cs).repaired = s.repaired := rfl
@[simp] theorem State.hostStores_dies : (s.hostStores cs).dies = s.dies := rfl
@[simp] theorem State.hostStores_spine : (s.hostStores cs).spine = s.spine := rfl
@[simp] theorem State.hostStores_streams : (s.hostStores cs).streams = s.streams := rfl
@[simp] theorem State.hostStores_spineOut : (s.hostStores cs).spineOut = s.spineOut := rfl
@[simp] theorem State.hostStores_unitOut : (s.hostStores cs).unitOut = s.unitOut := rfl
@[simp] theorem State.hostStores_links : (s.hostStores cs).links = s.links := rfl
@[simp] theorem State.hostStores_linkOut : (s.hostStores cs).linkOut = s.linkOut := rfl
@[simp] theorem State.hostStores_frameOut : (s.hostStores cs).frameOut = s.frameOut := rfl
@[simp] theorem State.hostStores_linkIn : (s.hostStores cs).linkIn = s.linkIn := rfl
@[simp] theorem State.hostStores_partId : (s.hostStores cs).partId = s.partId := rfl
@[simp] theorem State.hostStores_groups : (s.hostStores cs).groups = s.groups := rfl
@[simp] theorem State.hostStores_fprintWait : (s.hostStores cs).fprintWait = s.fprintWait := rfl
@[simp] theorem State.hostStores_models : (s.hostStores cs).models = s.models := rfl
@[simp] theorem State.hostStores_alloys : (s.hostStores cs).alloys = s.alloys := rfl
@[simp] theorem State.hostStores_engines : (s.hostStores cs).engines = s.engines := rfl
@[simp] theorem State.hostStores_flash : (s.hostStores cs).flash = s.flash := rfl
@[simp] theorem State.hostStores_sec : (s.hostStores cs).sec = s.sec := rfl
@[simp] theorem State.hostStores_serial : (s.hostStores cs).serial = s.serial := rfl
@[simp] theorem State.hostStores_spdmOut : (s.hostStores cs).spdmOut = s.spdmOut := rfl
@[simp] theorem State.hostStores_keyOut : (s.hostStores cs).keyOut = s.keyOut := rfl
@[simp] theorem State.hostStores_pldmOut : (s.hostStores cs).pldmOut = s.pldmOut := rfl
@[simp] theorem State.hostStores_power : (s.hostStores cs).power = s.power := rfl
@[simp] theorem State.hostStores_errs : (s.hostStores cs).errs = s.errs := rfl
@[simp] theorem State.hostStores_dropped : (s.hostStores cs).dropped = s.dropped := rfl
@[simp] theorem State.hostStores_ceLog2 : (s.hostStores cs).ceLog2 = s.ceLog2 := rfl
@[simp] theorem State.hostStores_colo : (s.hostStores cs).colo = s.colo := rfl
end

section
variable (s : State) (d : Nat) (t : Word)
@[simp] theorem State.reach_pending : (s.reach d t).pending = s.pending := rfl
@[simp] theorem State.reach_fresh : (s.reach d t).fresh = s.fresh := rfl
@[simp] theorem State.reach_counters : (s.reach d t).counters = s.counters.modify d (fun c => if c < t then t else c) := rfl
@[simp] theorem State.reach_boot : (s.reach d t).boot = s.boot := rfl
@[simp] theorem State.reach_pins : (s.reach d t).pins = s.pins := rfl
@[simp] theorem State.reach_resetCause : (s.reach d t).resetCause = s.resetCause := rfl
@[simp] theorem State.reach_warmResets : (s.reach d t).warmResets = s.warmResets := rfl
@[simp] theorem State.reach_fatal : (s.reach d t).fatal = s.fatal := rfl
@[simp] theorem State.reach_host : (s.reach d t).host = s.host := rfl
@[simp] theorem State.reach_half : (s.reach d t).half = s.half := rfl
@[simp] theorem State.reach_msix : (s.reach d t).msix = s.msix := rfl
@[simp] theorem State.reach_msixOut : (s.reach d t).msixOut = s.msixOut := rfl
@[simp] theorem State.reach_atc : (s.reach d t).atc = s.atc := rfl
@[simp] theorem State.reach_dma : (s.reach d t).dma = s.dma := rfl
@[simp] theorem State.reach_stalled : (s.reach d t).stalled = s.stalled := rfl
@[simp] theorem State.reach_lastDma : (s.reach d t).lastDma = s.lastDma := rfl
@[simp] theorem State.reach_queues : (s.reach d t).queues = s.queues := rfl
@[simp] theorem State.reach_t2cache : (s.reach d t).t2cache = s.t2cache := rfl
@[simp] theorem State.reach_admin : (s.reach d t).admin = s.admin := rfl
@[simp] theorem State.reach_subs : (s.reach d t).subs = s.subs := rfl
@[simp] theorem State.reach_comps : (s.reach d t).comps = s.comps := rfl
@[simp] theorem State.reach_fences : (s.reach d t).fences = s.fences := rfl
@[simp] theorem State.reach_cmds : (s.reach d t).cmds = s.cmds := rfl
@[simp] theorem State.reach_nextCmd : (s.reach d t).nextCmd = s.nextCmd := rfl
@[simp] theorem State.reach_parts : (s.reach d t).parts = s.parts := rfl
@[simp] theorem State.reach_windows : (s.reach d t).windows = s.windows := rfl
@[simp] theorem State.reach_plans : (s.reach d t).plans = s.plans := rfl
@[simp] theorem State.reach_tables : (s.reach d t).tables = s.tables := rfl
@[simp] theorem State.reach_tempers : (s.reach d t).tempers = s.tempers := rfl
@[simp] theorem State.reach_objects : (s.reach d t).objects = s.objects := rfl
@[simp] theorem State.reach_seqs : (s.reach d t).seqs = s.seqs := rfl
@[simp] theorem State.reach_frames : (s.reach d t).frames = s.frames := rfl
@[simp] theorem State.reach_pool : (s.reach d t).pool = s.pool := rfl
@[simp] theorem State.reach_steps : (s.reach d t).steps = s.steps := rfl
@[simp] theorem State.reach_trees : (s.reach d t).trees = s.trees := rfl
@[simp] theorem State.reach_mitusEn : (s.reach d t).mitusEn = s.mitusEn := rfl
@[simp] theorem State.reach_nearGib : (s.reach d t).nearGib = s.nearGib := rfl
@[simp] theorem State.reach_hbm : (s.reach d t).hbm = s.hbm := rfl
@[simp] theorem State.reach_hbmRate : (s.reach d t).hbmRate = s.hbmRate := rfl
@[simp] theorem State.reach_repaired : (s.reach d t).repaired = s.repaired := rfl
@[simp] theorem State.reach_dies : (s.reach d t).dies = s.dies := rfl
@[simp] theorem State.reach_spine : (s.reach d t).spine = s.spine := rfl
@[simp] theorem State.reach_streams : (s.reach d t).streams = s.streams := rfl
@[simp] theorem State.reach_spineOut : (s.reach d t).spineOut = s.spineOut := rfl
@[simp] theorem State.reach_unitOut : (s.reach d t).unitOut = s.unitOut := rfl
@[simp] theorem State.reach_links : (s.reach d t).links = s.links := rfl
@[simp] theorem State.reach_linkOut : (s.reach d t).linkOut = s.linkOut := rfl
@[simp] theorem State.reach_frameOut : (s.reach d t).frameOut = s.frameOut := rfl
@[simp] theorem State.reach_linkIn : (s.reach d t).linkIn = s.linkIn := rfl
@[simp] theorem State.reach_partId : (s.reach d t).partId = s.partId := rfl
@[simp] theorem State.reach_groups : (s.reach d t).groups = s.groups := rfl
@[simp] theorem State.reach_fprintWait : (s.reach d t).fprintWait = s.fprintWait := rfl
@[simp] theorem State.reach_models : (s.reach d t).models = s.models := rfl
@[simp] theorem State.reach_alloys : (s.reach d t).alloys = s.alloys := rfl
@[simp] theorem State.reach_engines : (s.reach d t).engines = s.engines := rfl
@[simp] theorem State.reach_flash : (s.reach d t).flash = s.flash := rfl
@[simp] theorem State.reach_sec : (s.reach d t).sec = s.sec := rfl
@[simp] theorem State.reach_serial : (s.reach d t).serial = s.serial := rfl
@[simp] theorem State.reach_spdmOut : (s.reach d t).spdmOut = s.spdmOut := rfl
@[simp] theorem State.reach_keyOut : (s.reach d t).keyOut = s.keyOut := rfl
@[simp] theorem State.reach_pldmOut : (s.reach d t).pldmOut = s.pldmOut := rfl
@[simp] theorem State.reach_power : (s.reach d t).power = s.power := rfl
@[simp] theorem State.reach_errs : (s.reach d t).errs = s.errs := rfl
@[simp] theorem State.reach_dropped : (s.reach d t).dropped = s.dropped := rfl
@[simp] theorem State.reach_ceLog2 : (s.reach d t).ceLog2 = s.ceLog2 := rfl
@[simp] theorem State.reach_colo : (s.reach d t).colo = s.colo := rfl
end

section
variable (s : State)
@[simp] theorem State.tick_pending : s.tick.pending = s.pending := rfl
@[simp] theorem State.tick_fresh : s.tick.fresh = s.fresh := rfl
@[simp] theorem State.tick_counters : s.tick.counters = s.counters.map (· + 1) := rfl
@[simp] theorem State.tick_boot : s.tick.boot = s.boot := rfl
@[simp] theorem State.tick_pins : s.tick.pins = s.pins := rfl
@[simp] theorem State.tick_resetCause : s.tick.resetCause = s.resetCause := rfl
@[simp] theorem State.tick_warmResets : s.tick.warmResets = s.warmResets := rfl
@[simp] theorem State.tick_fatal : s.tick.fatal = s.fatal := rfl
@[simp] theorem State.tick_host : s.tick.host = s.host := rfl
@[simp] theorem State.tick_half : s.tick.half = s.half := rfl
@[simp] theorem State.tick_msix : s.tick.msix = s.msix := rfl
@[simp] theorem State.tick_msixOut : s.tick.msixOut = s.msixOut := rfl
@[simp] theorem State.tick_atc : s.tick.atc = s.atc := rfl
@[simp] theorem State.tick_dma : s.tick.dma = s.dma := rfl
@[simp] theorem State.tick_stalled : s.tick.stalled = s.stalled := rfl
@[simp] theorem State.tick_lastDma : s.tick.lastDma = s.lastDma := rfl
@[simp] theorem State.tick_queues : s.tick.queues = s.queues := rfl
@[simp] theorem State.tick_t2cache : s.tick.t2cache = s.t2cache := rfl
@[simp] theorem State.tick_admin : s.tick.admin = s.admin := rfl
@[simp] theorem State.tick_subs : s.tick.subs = s.subs := rfl
@[simp] theorem State.tick_comps : s.tick.comps = s.comps := rfl
@[simp] theorem State.tick_fences : s.tick.fences = s.fences := rfl
@[simp] theorem State.tick_cmds : s.tick.cmds = s.cmds := rfl
@[simp] theorem State.tick_nextCmd : s.tick.nextCmd = s.nextCmd := rfl
@[simp] theorem State.tick_parts : s.tick.parts = s.parts := rfl
@[simp] theorem State.tick_windows : s.tick.windows = s.windows := rfl
@[simp] theorem State.tick_plans : s.tick.plans = s.plans := rfl
@[simp] theorem State.tick_tables : s.tick.tables = s.tables := rfl
@[simp] theorem State.tick_tempers : s.tick.tempers = s.tempers := rfl
@[simp] theorem State.tick_objects : s.tick.objects = s.objects := rfl
@[simp] theorem State.tick_seqs : s.tick.seqs = s.seqs := rfl
@[simp] theorem State.tick_frames : s.tick.frames = s.frames := rfl
@[simp] theorem State.tick_pool : s.tick.pool = s.pool := rfl
@[simp] theorem State.tick_steps : s.tick.steps = s.steps := rfl
@[simp] theorem State.tick_trees : s.tick.trees = s.trees := rfl
@[simp] theorem State.tick_mitusEn : s.tick.mitusEn = s.mitusEn := rfl
@[simp] theorem State.tick_nearGib : s.tick.nearGib = s.nearGib := rfl
@[simp] theorem State.tick_hbm : s.tick.hbm = s.hbm := rfl
@[simp] theorem State.tick_hbmRate : s.tick.hbmRate = s.hbmRate := rfl
@[simp] theorem State.tick_repaired : s.tick.repaired = s.repaired := rfl
@[simp] theorem State.tick_dies : s.tick.dies = s.dies := rfl
@[simp] theorem State.tick_spine : s.tick.spine = s.spine := rfl
@[simp] theorem State.tick_streams : s.tick.streams = s.streams := rfl
@[simp] theorem State.tick_spineOut : s.tick.spineOut = s.spineOut := rfl
@[simp] theorem State.tick_unitOut : s.tick.unitOut = s.unitOut := rfl
@[simp] theorem State.tick_links : s.tick.links = s.links := rfl
@[simp] theorem State.tick_linkOut : s.tick.linkOut = s.linkOut := rfl
@[simp] theorem State.tick_frameOut : s.tick.frameOut = s.frameOut := rfl
@[simp] theorem State.tick_linkIn : s.tick.linkIn = s.linkIn := rfl
@[simp] theorem State.tick_partId : s.tick.partId = s.partId := rfl
@[simp] theorem State.tick_groups : s.tick.groups = s.groups := rfl
@[simp] theorem State.tick_fprintWait : s.tick.fprintWait = s.fprintWait := rfl
@[simp] theorem State.tick_models : s.tick.models = s.models := rfl
@[simp] theorem State.tick_alloys : s.tick.alloys = s.alloys := rfl
@[simp] theorem State.tick_engines : s.tick.engines = s.engines := rfl
@[simp] theorem State.tick_flash : s.tick.flash = s.flash := rfl
@[simp] theorem State.tick_sec : s.tick.sec = s.sec := rfl
@[simp] theorem State.tick_serial : s.tick.serial = s.serial := rfl
@[simp] theorem State.tick_spdmOut : s.tick.spdmOut = s.spdmOut := rfl
@[simp] theorem State.tick_keyOut : s.tick.keyOut = s.keyOut := rfl
@[simp] theorem State.tick_pldmOut : s.tick.pldmOut = s.pldmOut := rfl
@[simp] theorem State.tick_power : s.tick.power = s.power := rfl
@[simp] theorem State.tick_errs : s.tick.errs = s.errs := rfl
@[simp] theorem State.tick_dropped : s.tick.dropped = s.dropped := rfl
@[simp] theorem State.tick_ceLog2 : s.tick.ceLog2 = s.ceLog2 := rfl
@[simp] theorem State.tick_colo : s.tick.colo = s.colo := rfl
end

section
variable (s : State)
@[simp] theorem State.takeFresh_pending : s.takeFresh.pending = s.pending := rfl
@[simp] theorem State.takeFresh_fresh : s.takeFresh.fresh = s.fresh + 1 := rfl
@[simp] theorem State.takeFresh_counters : s.takeFresh.counters = s.counters := rfl
@[simp] theorem State.takeFresh_boot : s.takeFresh.boot = s.boot := rfl
@[simp] theorem State.takeFresh_pins : s.takeFresh.pins = s.pins := rfl
@[simp] theorem State.takeFresh_resetCause : s.takeFresh.resetCause = s.resetCause := rfl
@[simp] theorem State.takeFresh_warmResets : s.takeFresh.warmResets = s.warmResets := rfl
@[simp] theorem State.takeFresh_fatal : s.takeFresh.fatal = s.fatal := rfl
@[simp] theorem State.takeFresh_host : s.takeFresh.host = s.host := rfl
@[simp] theorem State.takeFresh_half : s.takeFresh.half = s.half := rfl
@[simp] theorem State.takeFresh_msix : s.takeFresh.msix = s.msix := rfl
@[simp] theorem State.takeFresh_msixOut : s.takeFresh.msixOut = s.msixOut := rfl
@[simp] theorem State.takeFresh_atc : s.takeFresh.atc = s.atc := rfl
@[simp] theorem State.takeFresh_dma : s.takeFresh.dma = s.dma := rfl
@[simp] theorem State.takeFresh_stalled : s.takeFresh.stalled = s.stalled := rfl
@[simp] theorem State.takeFresh_lastDma : s.takeFresh.lastDma = s.lastDma := rfl
@[simp] theorem State.takeFresh_queues : s.takeFresh.queues = s.queues := rfl
@[simp] theorem State.takeFresh_t2cache : s.takeFresh.t2cache = s.t2cache := rfl
@[simp] theorem State.takeFresh_admin : s.takeFresh.admin = s.admin := rfl
@[simp] theorem State.takeFresh_subs : s.takeFresh.subs = s.subs := rfl
@[simp] theorem State.takeFresh_comps : s.takeFresh.comps = s.comps := rfl
@[simp] theorem State.takeFresh_fences : s.takeFresh.fences = s.fences := rfl
@[simp] theorem State.takeFresh_cmds : s.takeFresh.cmds = s.cmds := rfl
@[simp] theorem State.takeFresh_nextCmd : s.takeFresh.nextCmd = s.nextCmd := rfl
@[simp] theorem State.takeFresh_parts : s.takeFresh.parts = s.parts := rfl
@[simp] theorem State.takeFresh_windows : s.takeFresh.windows = s.windows := rfl
@[simp] theorem State.takeFresh_plans : s.takeFresh.plans = s.plans := rfl
@[simp] theorem State.takeFresh_tables : s.takeFresh.tables = s.tables := rfl
@[simp] theorem State.takeFresh_tempers : s.takeFresh.tempers = s.tempers := rfl
@[simp] theorem State.takeFresh_objects : s.takeFresh.objects = s.objects := rfl
@[simp] theorem State.takeFresh_seqs : s.takeFresh.seqs = s.seqs := rfl
@[simp] theorem State.takeFresh_frames : s.takeFresh.frames = s.frames := rfl
@[simp] theorem State.takeFresh_pool : s.takeFresh.pool = s.pool := rfl
@[simp] theorem State.takeFresh_steps : s.takeFresh.steps = s.steps := rfl
@[simp] theorem State.takeFresh_trees : s.takeFresh.trees = s.trees := rfl
@[simp] theorem State.takeFresh_mitusEn : s.takeFresh.mitusEn = s.mitusEn := rfl
@[simp] theorem State.takeFresh_nearGib : s.takeFresh.nearGib = s.nearGib := rfl
@[simp] theorem State.takeFresh_hbm : s.takeFresh.hbm = s.hbm := rfl
@[simp] theorem State.takeFresh_hbmRate : s.takeFresh.hbmRate = s.hbmRate := rfl
@[simp] theorem State.takeFresh_repaired : s.takeFresh.repaired = s.repaired := rfl
@[simp] theorem State.takeFresh_dies : s.takeFresh.dies = s.dies := rfl
@[simp] theorem State.takeFresh_spine : s.takeFresh.spine = s.spine := rfl
@[simp] theorem State.takeFresh_streams : s.takeFresh.streams = s.streams := rfl
@[simp] theorem State.takeFresh_spineOut : s.takeFresh.spineOut = s.spineOut := rfl
@[simp] theorem State.takeFresh_unitOut : s.takeFresh.unitOut = s.unitOut := rfl
@[simp] theorem State.takeFresh_links : s.takeFresh.links = s.links := rfl
@[simp] theorem State.takeFresh_linkOut : s.takeFresh.linkOut = s.linkOut := rfl
@[simp] theorem State.takeFresh_frameOut : s.takeFresh.frameOut = s.frameOut := rfl
@[simp] theorem State.takeFresh_linkIn : s.takeFresh.linkIn = s.linkIn := rfl
@[simp] theorem State.takeFresh_partId : s.takeFresh.partId = s.partId := rfl
@[simp] theorem State.takeFresh_groups : s.takeFresh.groups = s.groups := rfl
@[simp] theorem State.takeFresh_fprintWait : s.takeFresh.fprintWait = s.fprintWait := rfl
@[simp] theorem State.takeFresh_models : s.takeFresh.models = s.models := rfl
@[simp] theorem State.takeFresh_alloys : s.takeFresh.alloys = s.alloys := rfl
@[simp] theorem State.takeFresh_engines : s.takeFresh.engines = s.engines := rfl
@[simp] theorem State.takeFresh_flash : s.takeFresh.flash = s.flash := rfl
@[simp] theorem State.takeFresh_sec : s.takeFresh.sec = s.sec := rfl
@[simp] theorem State.takeFresh_serial : s.takeFresh.serial = s.serial := rfl
@[simp] theorem State.takeFresh_spdmOut : s.takeFresh.spdmOut = s.spdmOut := rfl
@[simp] theorem State.takeFresh_keyOut : s.takeFresh.keyOut = s.keyOut := rfl
@[simp] theorem State.takeFresh_pldmOut : s.takeFresh.pldmOut = s.pldmOut := rfl
@[simp] theorem State.takeFresh_power : s.takeFresh.power = s.power := rfl
@[simp] theorem State.takeFresh_errs : s.takeFresh.errs = s.errs := rfl
@[simp] theorem State.takeFresh_dropped : s.takeFresh.dropped = s.dropped := rfl
@[simp] theorem State.takeFresh_ceLog2 : s.takeFresh.ceLog2 = s.ceLog2 := rfl
@[simp] theorem State.takeFresh_colo : s.takeFresh.colo = s.colo := rfl
end

section
variable (s : State) (d : Nat) (x : DieState)
@[simp] theorem State.setDie_pending : (s.setDie d x).pending = s.pending := rfl
@[simp] theorem State.setDie_fresh : (s.setDie d x).fresh = s.fresh := rfl
@[simp] theorem State.setDie_counters : (s.setDie d x).counters = s.counters := rfl
@[simp] theorem State.setDie_boot : (s.setDie d x).boot = s.boot := rfl
@[simp] theorem State.setDie_pins : (s.setDie d x).pins = s.pins := rfl
@[simp] theorem State.setDie_resetCause : (s.setDie d x).resetCause = s.resetCause := rfl
@[simp] theorem State.setDie_warmResets : (s.setDie d x).warmResets = s.warmResets := rfl
@[simp] theorem State.setDie_fatal : (s.setDie d x).fatal = s.fatal := rfl
@[simp] theorem State.setDie_host : (s.setDie d x).host = s.host := rfl
@[simp] theorem State.setDie_half : (s.setDie d x).half = s.half := rfl
@[simp] theorem State.setDie_msix : (s.setDie d x).msix = s.msix := rfl
@[simp] theorem State.setDie_msixOut : (s.setDie d x).msixOut = s.msixOut := rfl
@[simp] theorem State.setDie_atc : (s.setDie d x).atc = s.atc := rfl
@[simp] theorem State.setDie_dma : (s.setDie d x).dma = s.dma := rfl
@[simp] theorem State.setDie_stalled : (s.setDie d x).stalled = s.stalled := rfl
@[simp] theorem State.setDie_lastDma : (s.setDie d x).lastDma = s.lastDma := rfl
@[simp] theorem State.setDie_queues : (s.setDie d x).queues = s.queues := rfl
@[simp] theorem State.setDie_t2cache : (s.setDie d x).t2cache = s.t2cache := rfl
@[simp] theorem State.setDie_admin : (s.setDie d x).admin = s.admin := rfl
@[simp] theorem State.setDie_subs : (s.setDie d x).subs = s.subs := rfl
@[simp] theorem State.setDie_comps : (s.setDie d x).comps = s.comps := rfl
@[simp] theorem State.setDie_fences : (s.setDie d x).fences = s.fences := rfl
@[simp] theorem State.setDie_cmds : (s.setDie d x).cmds = s.cmds := rfl
@[simp] theorem State.setDie_nextCmd : (s.setDie d x).nextCmd = s.nextCmd := rfl
@[simp] theorem State.setDie_parts : (s.setDie d x).parts = s.parts := rfl
@[simp] theorem State.setDie_windows : (s.setDie d x).windows = s.windows := rfl
@[simp] theorem State.setDie_plans : (s.setDie d x).plans = s.plans := rfl
@[simp] theorem State.setDie_tables : (s.setDie d x).tables = s.tables := rfl
@[simp] theorem State.setDie_tempers : (s.setDie d x).tempers = s.tempers := rfl
@[simp] theorem State.setDie_objects : (s.setDie d x).objects = s.objects := rfl
@[simp] theorem State.setDie_seqs : (s.setDie d x).seqs = s.seqs := rfl
@[simp] theorem State.setDie_frames : (s.setDie d x).frames = s.frames := rfl
@[simp] theorem State.setDie_pool : (s.setDie d x).pool = s.pool := rfl
@[simp] theorem State.setDie_steps : (s.setDie d x).steps = s.steps := rfl
@[simp] theorem State.setDie_trees : (s.setDie d x).trees = s.trees := rfl
@[simp] theorem State.setDie_mitusEn : (s.setDie d x).mitusEn = s.mitusEn := rfl
@[simp] theorem State.setDie_nearGib : (s.setDie d x).nearGib = s.nearGib := rfl
@[simp] theorem State.setDie_hbm : (s.setDie d x).hbm = s.hbm := rfl
@[simp] theorem State.setDie_hbmRate : (s.setDie d x).hbmRate = s.hbmRate := rfl
@[simp] theorem State.setDie_repaired : (s.setDie d x).repaired = s.repaired := rfl
@[simp] theorem State.setDie_dies : (s.setDie d x).dies = s.dies.set d x := rfl
@[simp] theorem State.setDie_spine : (s.setDie d x).spine = s.spine := rfl
@[simp] theorem State.setDie_streams : (s.setDie d x).streams = s.streams := rfl
@[simp] theorem State.setDie_spineOut : (s.setDie d x).spineOut = s.spineOut := rfl
@[simp] theorem State.setDie_unitOut : (s.setDie d x).unitOut = s.unitOut := rfl
@[simp] theorem State.setDie_links : (s.setDie d x).links = s.links := rfl
@[simp] theorem State.setDie_linkOut : (s.setDie d x).linkOut = s.linkOut := rfl
@[simp] theorem State.setDie_frameOut : (s.setDie d x).frameOut = s.frameOut := rfl
@[simp] theorem State.setDie_linkIn : (s.setDie d x).linkIn = s.linkIn := rfl
@[simp] theorem State.setDie_partId : (s.setDie d x).partId = s.partId := rfl
@[simp] theorem State.setDie_groups : (s.setDie d x).groups = s.groups := rfl
@[simp] theorem State.setDie_fprintWait : (s.setDie d x).fprintWait = s.fprintWait := rfl
@[simp] theorem State.setDie_models : (s.setDie d x).models = s.models := rfl
@[simp] theorem State.setDie_alloys : (s.setDie d x).alloys = s.alloys := rfl
@[simp] theorem State.setDie_engines : (s.setDie d x).engines = s.engines := rfl
@[simp] theorem State.setDie_flash : (s.setDie d x).flash = s.flash := rfl
@[simp] theorem State.setDie_sec : (s.setDie d x).sec = s.sec := rfl
@[simp] theorem State.setDie_serial : (s.setDie d x).serial = s.serial := rfl
@[simp] theorem State.setDie_spdmOut : (s.setDie d x).spdmOut = s.spdmOut := rfl
@[simp] theorem State.setDie_keyOut : (s.setDie d x).keyOut = s.keyOut := rfl
@[simp] theorem State.setDie_pldmOut : (s.setDie d x).pldmOut = s.pldmOut := rfl
@[simp] theorem State.setDie_power : (s.setDie d x).power = s.power := rfl
@[simp] theorem State.setDie_errs : (s.setDie d x).errs = s.errs := rfl
@[simp] theorem State.setDie_dropped : (s.setDie d x).dropped = s.dropped := rfl
@[simp] theorem State.setDie_ceLog2 : (s.setDie d x).ceLog2 = s.ceLog2 := rfl
@[simp] theorem State.setDie_colo : (s.setDie d x).colo = s.colo := rfl
end

section
variable (s : State) (l : Nat) (x : Link)
@[simp] theorem State.setLink_pending : (s.setLink l x).pending = s.pending := rfl
@[simp] theorem State.setLink_fresh : (s.setLink l x).fresh = s.fresh := rfl
@[simp] theorem State.setLink_counters : (s.setLink l x).counters = s.counters := rfl
@[simp] theorem State.setLink_boot : (s.setLink l x).boot = s.boot := rfl
@[simp] theorem State.setLink_pins : (s.setLink l x).pins = s.pins := rfl
@[simp] theorem State.setLink_resetCause : (s.setLink l x).resetCause = s.resetCause := rfl
@[simp] theorem State.setLink_warmResets : (s.setLink l x).warmResets = s.warmResets := rfl
@[simp] theorem State.setLink_fatal : (s.setLink l x).fatal = s.fatal := rfl
@[simp] theorem State.setLink_host : (s.setLink l x).host = s.host := rfl
@[simp] theorem State.setLink_half : (s.setLink l x).half = s.half := rfl
@[simp] theorem State.setLink_msix : (s.setLink l x).msix = s.msix := rfl
@[simp] theorem State.setLink_msixOut : (s.setLink l x).msixOut = s.msixOut := rfl
@[simp] theorem State.setLink_atc : (s.setLink l x).atc = s.atc := rfl
@[simp] theorem State.setLink_dma : (s.setLink l x).dma = s.dma := rfl
@[simp] theorem State.setLink_stalled : (s.setLink l x).stalled = s.stalled := rfl
@[simp] theorem State.setLink_lastDma : (s.setLink l x).lastDma = s.lastDma := rfl
@[simp] theorem State.setLink_queues : (s.setLink l x).queues = s.queues := rfl
@[simp] theorem State.setLink_t2cache : (s.setLink l x).t2cache = s.t2cache := rfl
@[simp] theorem State.setLink_admin : (s.setLink l x).admin = s.admin := rfl
@[simp] theorem State.setLink_subs : (s.setLink l x).subs = s.subs := rfl
@[simp] theorem State.setLink_comps : (s.setLink l x).comps = s.comps := rfl
@[simp] theorem State.setLink_fences : (s.setLink l x).fences = s.fences := rfl
@[simp] theorem State.setLink_cmds : (s.setLink l x).cmds = s.cmds := rfl
@[simp] theorem State.setLink_nextCmd : (s.setLink l x).nextCmd = s.nextCmd := rfl
@[simp] theorem State.setLink_parts : (s.setLink l x).parts = s.parts := rfl
@[simp] theorem State.setLink_windows : (s.setLink l x).windows = s.windows := rfl
@[simp] theorem State.setLink_plans : (s.setLink l x).plans = s.plans := rfl
@[simp] theorem State.setLink_tables : (s.setLink l x).tables = s.tables := rfl
@[simp] theorem State.setLink_tempers : (s.setLink l x).tempers = s.tempers := rfl
@[simp] theorem State.setLink_objects : (s.setLink l x).objects = s.objects := rfl
@[simp] theorem State.setLink_seqs : (s.setLink l x).seqs = s.seqs := rfl
@[simp] theorem State.setLink_frames : (s.setLink l x).frames = s.frames := rfl
@[simp] theorem State.setLink_pool : (s.setLink l x).pool = s.pool := rfl
@[simp] theorem State.setLink_steps : (s.setLink l x).steps = s.steps := rfl
@[simp] theorem State.setLink_trees : (s.setLink l x).trees = s.trees := rfl
@[simp] theorem State.setLink_mitusEn : (s.setLink l x).mitusEn = s.mitusEn := rfl
@[simp] theorem State.setLink_nearGib : (s.setLink l x).nearGib = s.nearGib := rfl
@[simp] theorem State.setLink_hbm : (s.setLink l x).hbm = s.hbm := rfl
@[simp] theorem State.setLink_hbmRate : (s.setLink l x).hbmRate = s.hbmRate := rfl
@[simp] theorem State.setLink_repaired : (s.setLink l x).repaired = s.repaired := rfl
@[simp] theorem State.setLink_dies : (s.setLink l x).dies = s.dies := rfl
@[simp] theorem State.setLink_spine : (s.setLink l x).spine = s.spine := rfl
@[simp] theorem State.setLink_streams : (s.setLink l x).streams = s.streams := rfl
@[simp] theorem State.setLink_spineOut : (s.setLink l x).spineOut = s.spineOut := rfl
@[simp] theorem State.setLink_unitOut : (s.setLink l x).unitOut = s.unitOut := rfl
@[simp] theorem State.setLink_links : (s.setLink l x).links = s.links.set l x := rfl
@[simp] theorem State.setLink_linkOut : (s.setLink l x).linkOut = s.linkOut := rfl
@[simp] theorem State.setLink_frameOut : (s.setLink l x).frameOut = s.frameOut := rfl
@[simp] theorem State.setLink_linkIn : (s.setLink l x).linkIn = s.linkIn := rfl
@[simp] theorem State.setLink_partId : (s.setLink l x).partId = s.partId := rfl
@[simp] theorem State.setLink_groups : (s.setLink l x).groups = s.groups := rfl
@[simp] theorem State.setLink_fprintWait : (s.setLink l x).fprintWait = s.fprintWait := rfl
@[simp] theorem State.setLink_models : (s.setLink l x).models = s.models := rfl
@[simp] theorem State.setLink_alloys : (s.setLink l x).alloys = s.alloys := rfl
@[simp] theorem State.setLink_engines : (s.setLink l x).engines = s.engines := rfl
@[simp] theorem State.setLink_flash : (s.setLink l x).flash = s.flash := rfl
@[simp] theorem State.setLink_sec : (s.setLink l x).sec = s.sec := rfl
@[simp] theorem State.setLink_serial : (s.setLink l x).serial = s.serial := rfl
@[simp] theorem State.setLink_spdmOut : (s.setLink l x).spdmOut = s.spdmOut := rfl
@[simp] theorem State.setLink_keyOut : (s.setLink l x).keyOut = s.keyOut := rfl
@[simp] theorem State.setLink_pldmOut : (s.setLink l x).pldmOut = s.pldmOut := rfl
@[simp] theorem State.setLink_power : (s.setLink l x).power = s.power := rfl
@[simp] theorem State.setLink_errs : (s.setLink l x).errs = s.errs := rfl
@[simp] theorem State.setLink_dropped : (s.setLink l x).dropped = s.dropped := rfl
@[simp] theorem State.setLink_ceLog2 : (s.setLink l x).ceLog2 = s.ceLog2 := rfl
@[simp] theorem State.setLink_colo : (s.setLink l x).colo = s.colo := rfl
end

section
variable (s : State) (h : Nat) (x : Stack)
@[simp] theorem State.setStack_pending : (s.setStack h x).pending = s.pending := rfl
@[simp] theorem State.setStack_fresh : (s.setStack h x).fresh = s.fresh := rfl
@[simp] theorem State.setStack_counters : (s.setStack h x).counters = s.counters := rfl
@[simp] theorem State.setStack_boot : (s.setStack h x).boot = s.boot := rfl
@[simp] theorem State.setStack_pins : (s.setStack h x).pins = s.pins := rfl
@[simp] theorem State.setStack_resetCause : (s.setStack h x).resetCause = s.resetCause := rfl
@[simp] theorem State.setStack_warmResets : (s.setStack h x).warmResets = s.warmResets := rfl
@[simp] theorem State.setStack_fatal : (s.setStack h x).fatal = s.fatal := rfl
@[simp] theorem State.setStack_host : (s.setStack h x).host = s.host := rfl
@[simp] theorem State.setStack_half : (s.setStack h x).half = s.half := rfl
@[simp] theorem State.setStack_msix : (s.setStack h x).msix = s.msix := rfl
@[simp] theorem State.setStack_msixOut : (s.setStack h x).msixOut = s.msixOut := rfl
@[simp] theorem State.setStack_atc : (s.setStack h x).atc = s.atc := rfl
@[simp] theorem State.setStack_dma : (s.setStack h x).dma = s.dma := rfl
@[simp] theorem State.setStack_stalled : (s.setStack h x).stalled = s.stalled := rfl
@[simp] theorem State.setStack_lastDma : (s.setStack h x).lastDma = s.lastDma := rfl
@[simp] theorem State.setStack_queues : (s.setStack h x).queues = s.queues := rfl
@[simp] theorem State.setStack_t2cache : (s.setStack h x).t2cache = s.t2cache := rfl
@[simp] theorem State.setStack_admin : (s.setStack h x).admin = s.admin := rfl
@[simp] theorem State.setStack_subs : (s.setStack h x).subs = s.subs := rfl
@[simp] theorem State.setStack_comps : (s.setStack h x).comps = s.comps := rfl
@[simp] theorem State.setStack_fences : (s.setStack h x).fences = s.fences := rfl
@[simp] theorem State.setStack_cmds : (s.setStack h x).cmds = s.cmds := rfl
@[simp] theorem State.setStack_nextCmd : (s.setStack h x).nextCmd = s.nextCmd := rfl
@[simp] theorem State.setStack_parts : (s.setStack h x).parts = s.parts := rfl
@[simp] theorem State.setStack_windows : (s.setStack h x).windows = s.windows := rfl
@[simp] theorem State.setStack_plans : (s.setStack h x).plans = s.plans := rfl
@[simp] theorem State.setStack_tables : (s.setStack h x).tables = s.tables := rfl
@[simp] theorem State.setStack_tempers : (s.setStack h x).tempers = s.tempers := rfl
@[simp] theorem State.setStack_objects : (s.setStack h x).objects = s.objects := rfl
@[simp] theorem State.setStack_seqs : (s.setStack h x).seqs = s.seqs := rfl
@[simp] theorem State.setStack_frames : (s.setStack h x).frames = s.frames := rfl
@[simp] theorem State.setStack_pool : (s.setStack h x).pool = s.pool := rfl
@[simp] theorem State.setStack_steps : (s.setStack h x).steps = s.steps := rfl
@[simp] theorem State.setStack_trees : (s.setStack h x).trees = s.trees := rfl
@[simp] theorem State.setStack_mitusEn : (s.setStack h x).mitusEn = s.mitusEn := rfl
@[simp] theorem State.setStack_nearGib : (s.setStack h x).nearGib = s.nearGib := rfl
@[simp] theorem State.setStack_hbm : (s.setStack h x).hbm = s.hbm.set h x := rfl
@[simp] theorem State.setStack_hbmRate : (s.setStack h x).hbmRate = s.hbmRate := rfl
@[simp] theorem State.setStack_repaired : (s.setStack h x).repaired = s.repaired := rfl
@[simp] theorem State.setStack_dies : (s.setStack h x).dies = s.dies := rfl
@[simp] theorem State.setStack_spine : (s.setStack h x).spine = s.spine := rfl
@[simp] theorem State.setStack_streams : (s.setStack h x).streams = s.streams := rfl
@[simp] theorem State.setStack_spineOut : (s.setStack h x).spineOut = s.spineOut := rfl
@[simp] theorem State.setStack_unitOut : (s.setStack h x).unitOut = s.unitOut := rfl
@[simp] theorem State.setStack_links : (s.setStack h x).links = s.links := rfl
@[simp] theorem State.setStack_linkOut : (s.setStack h x).linkOut = s.linkOut := rfl
@[simp] theorem State.setStack_frameOut : (s.setStack h x).frameOut = s.frameOut := rfl
@[simp] theorem State.setStack_linkIn : (s.setStack h x).linkIn = s.linkIn := rfl
@[simp] theorem State.setStack_partId : (s.setStack h x).partId = s.partId := rfl
@[simp] theorem State.setStack_groups : (s.setStack h x).groups = s.groups := rfl
@[simp] theorem State.setStack_fprintWait : (s.setStack h x).fprintWait = s.fprintWait := rfl
@[simp] theorem State.setStack_models : (s.setStack h x).models = s.models := rfl
@[simp] theorem State.setStack_alloys : (s.setStack h x).alloys = s.alloys := rfl
@[simp] theorem State.setStack_engines : (s.setStack h x).engines = s.engines := rfl
@[simp] theorem State.setStack_flash : (s.setStack h x).flash = s.flash := rfl
@[simp] theorem State.setStack_sec : (s.setStack h x).sec = s.sec := rfl
@[simp] theorem State.setStack_serial : (s.setStack h x).serial = s.serial := rfl
@[simp] theorem State.setStack_spdmOut : (s.setStack h x).spdmOut = s.spdmOut := rfl
@[simp] theorem State.setStack_keyOut : (s.setStack h x).keyOut = s.keyOut := rfl
@[simp] theorem State.setStack_pldmOut : (s.setStack h x).pldmOut = s.pldmOut := rfl
@[simp] theorem State.setStack_power : (s.setStack h x).power = s.power := rfl
@[simp] theorem State.setStack_errs : (s.setStack h x).errs = s.errs := rfl
@[simp] theorem State.setStack_dropped : (s.setStack h x).dropped = s.dropped := rfl
@[simp] theorem State.setStack_ceLog2 : (s.setStack h x).ceLog2 = s.ceLog2 := rfl
@[simp] theorem State.setStack_colo : (s.setStack h x).colo = s.colo := rfl
end

section
variable (s : State) (d : Nat) (x : Engine)
@[simp] theorem State.setEngine_pending : (s.setEngine d x).pending = s.pending := rfl
@[simp] theorem State.setEngine_fresh : (s.setEngine d x).fresh = s.fresh := rfl
@[simp] theorem State.setEngine_counters : (s.setEngine d x).counters = s.counters := rfl
@[simp] theorem State.setEngine_boot : (s.setEngine d x).boot = s.boot := rfl
@[simp] theorem State.setEngine_pins : (s.setEngine d x).pins = s.pins := rfl
@[simp] theorem State.setEngine_resetCause : (s.setEngine d x).resetCause = s.resetCause := rfl
@[simp] theorem State.setEngine_warmResets : (s.setEngine d x).warmResets = s.warmResets := rfl
@[simp] theorem State.setEngine_fatal : (s.setEngine d x).fatal = s.fatal := rfl
@[simp] theorem State.setEngine_host : (s.setEngine d x).host = s.host := rfl
@[simp] theorem State.setEngine_half : (s.setEngine d x).half = s.half := rfl
@[simp] theorem State.setEngine_msix : (s.setEngine d x).msix = s.msix := rfl
@[simp] theorem State.setEngine_msixOut : (s.setEngine d x).msixOut = s.msixOut := rfl
@[simp] theorem State.setEngine_atc : (s.setEngine d x).atc = s.atc := rfl
@[simp] theorem State.setEngine_dma : (s.setEngine d x).dma = s.dma := rfl
@[simp] theorem State.setEngine_stalled : (s.setEngine d x).stalled = s.stalled := rfl
@[simp] theorem State.setEngine_lastDma : (s.setEngine d x).lastDma = s.lastDma := rfl
@[simp] theorem State.setEngine_queues : (s.setEngine d x).queues = s.queues := rfl
@[simp] theorem State.setEngine_t2cache : (s.setEngine d x).t2cache = s.t2cache := rfl
@[simp] theorem State.setEngine_admin : (s.setEngine d x).admin = s.admin := rfl
@[simp] theorem State.setEngine_subs : (s.setEngine d x).subs = s.subs := rfl
@[simp] theorem State.setEngine_comps : (s.setEngine d x).comps = s.comps := rfl
@[simp] theorem State.setEngine_fences : (s.setEngine d x).fences = s.fences := rfl
@[simp] theorem State.setEngine_cmds : (s.setEngine d x).cmds = s.cmds := rfl
@[simp] theorem State.setEngine_nextCmd : (s.setEngine d x).nextCmd = s.nextCmd := rfl
@[simp] theorem State.setEngine_parts : (s.setEngine d x).parts = s.parts := rfl
@[simp] theorem State.setEngine_windows : (s.setEngine d x).windows = s.windows := rfl
@[simp] theorem State.setEngine_plans : (s.setEngine d x).plans = s.plans := rfl
@[simp] theorem State.setEngine_tables : (s.setEngine d x).tables = s.tables := rfl
@[simp] theorem State.setEngine_tempers : (s.setEngine d x).tempers = s.tempers := rfl
@[simp] theorem State.setEngine_objects : (s.setEngine d x).objects = s.objects := rfl
@[simp] theorem State.setEngine_seqs : (s.setEngine d x).seqs = s.seqs := rfl
@[simp] theorem State.setEngine_frames : (s.setEngine d x).frames = s.frames := rfl
@[simp] theorem State.setEngine_pool : (s.setEngine d x).pool = s.pool := rfl
@[simp] theorem State.setEngine_steps : (s.setEngine d x).steps = s.steps := rfl
@[simp] theorem State.setEngine_trees : (s.setEngine d x).trees = s.trees := rfl
@[simp] theorem State.setEngine_mitusEn : (s.setEngine d x).mitusEn = s.mitusEn := rfl
@[simp] theorem State.setEngine_nearGib : (s.setEngine d x).nearGib = s.nearGib := rfl
@[simp] theorem State.setEngine_hbm : (s.setEngine d x).hbm = s.hbm := rfl
@[simp] theorem State.setEngine_hbmRate : (s.setEngine d x).hbmRate = s.hbmRate := rfl
@[simp] theorem State.setEngine_repaired : (s.setEngine d x).repaired = s.repaired := rfl
@[simp] theorem State.setEngine_dies : (s.setEngine d x).dies = s.dies := rfl
@[simp] theorem State.setEngine_spine : (s.setEngine d x).spine = s.spine := rfl
@[simp] theorem State.setEngine_streams : (s.setEngine d x).streams = s.streams := rfl
@[simp] theorem State.setEngine_spineOut : (s.setEngine d x).spineOut = s.spineOut := rfl
@[simp] theorem State.setEngine_unitOut : (s.setEngine d x).unitOut = s.unitOut := rfl
@[simp] theorem State.setEngine_links : (s.setEngine d x).links = s.links := rfl
@[simp] theorem State.setEngine_linkOut : (s.setEngine d x).linkOut = s.linkOut := rfl
@[simp] theorem State.setEngine_frameOut : (s.setEngine d x).frameOut = s.frameOut := rfl
@[simp] theorem State.setEngine_linkIn : (s.setEngine d x).linkIn = s.linkIn := rfl
@[simp] theorem State.setEngine_partId : (s.setEngine d x).partId = s.partId := rfl
@[simp] theorem State.setEngine_groups : (s.setEngine d x).groups = s.groups := rfl
@[simp] theorem State.setEngine_fprintWait : (s.setEngine d x).fprintWait = s.fprintWait := rfl
@[simp] theorem State.setEngine_models : (s.setEngine d x).models = s.models := rfl
@[simp] theorem State.setEngine_alloys : (s.setEngine d x).alloys = s.alloys := rfl
@[simp] theorem State.setEngine_engines : (s.setEngine d x).engines = s.engines.set d x := rfl
@[simp] theorem State.setEngine_flash : (s.setEngine d x).flash = s.flash := rfl
@[simp] theorem State.setEngine_sec : (s.setEngine d x).sec = s.sec := rfl
@[simp] theorem State.setEngine_serial : (s.setEngine d x).serial = s.serial := rfl
@[simp] theorem State.setEngine_spdmOut : (s.setEngine d x).spdmOut = s.spdmOut := rfl
@[simp] theorem State.setEngine_keyOut : (s.setEngine d x).keyOut = s.keyOut := rfl
@[simp] theorem State.setEngine_pldmOut : (s.setEngine d x).pldmOut = s.pldmOut := rfl
@[simp] theorem State.setEngine_power : (s.setEngine d x).power = s.power := rfl
@[simp] theorem State.setEngine_errs : (s.setEngine d x).errs = s.errs := rfl
@[simp] theorem State.setEngine_dropped : (s.setEngine d x).dropped = s.dropped := rfl
@[simp] theorem State.setEngine_ceLog2 : (s.setEngine d x).ceLog2 = s.ceLog2 := rfl
@[simp] theorem State.setEngine_colo : (s.setEngine d x).colo = s.colo := rfl
end

section
variable (s : State) (d : Nat) (x : DiePower)
@[simp] theorem State.setDiePower_pending : (s.setDiePower d x).pending = s.pending := rfl
@[simp] theorem State.setDiePower_fresh : (s.setDiePower d x).fresh = s.fresh := rfl
@[simp] theorem State.setDiePower_counters : (s.setDiePower d x).counters = s.counters := rfl
@[simp] theorem State.setDiePower_boot : (s.setDiePower d x).boot = s.boot := rfl
@[simp] theorem State.setDiePower_pins : (s.setDiePower d x).pins = s.pins := rfl
@[simp] theorem State.setDiePower_resetCause : (s.setDiePower d x).resetCause = s.resetCause := rfl
@[simp] theorem State.setDiePower_warmResets : (s.setDiePower d x).warmResets = s.warmResets := rfl
@[simp] theorem State.setDiePower_fatal : (s.setDiePower d x).fatal = s.fatal := rfl
@[simp] theorem State.setDiePower_host : (s.setDiePower d x).host = s.host := rfl
@[simp] theorem State.setDiePower_half : (s.setDiePower d x).half = s.half := rfl
@[simp] theorem State.setDiePower_msix : (s.setDiePower d x).msix = s.msix := rfl
@[simp] theorem State.setDiePower_msixOut : (s.setDiePower d x).msixOut = s.msixOut := rfl
@[simp] theorem State.setDiePower_atc : (s.setDiePower d x).atc = s.atc := rfl
@[simp] theorem State.setDiePower_dma : (s.setDiePower d x).dma = s.dma := rfl
@[simp] theorem State.setDiePower_stalled : (s.setDiePower d x).stalled = s.stalled := rfl
@[simp] theorem State.setDiePower_lastDma : (s.setDiePower d x).lastDma = s.lastDma := rfl
@[simp] theorem State.setDiePower_queues : (s.setDiePower d x).queues = s.queues := rfl
@[simp] theorem State.setDiePower_t2cache : (s.setDiePower d x).t2cache = s.t2cache := rfl
@[simp] theorem State.setDiePower_admin : (s.setDiePower d x).admin = s.admin := rfl
@[simp] theorem State.setDiePower_subs : (s.setDiePower d x).subs = s.subs := rfl
@[simp] theorem State.setDiePower_comps : (s.setDiePower d x).comps = s.comps := rfl
@[simp] theorem State.setDiePower_fences : (s.setDiePower d x).fences = s.fences := rfl
@[simp] theorem State.setDiePower_cmds : (s.setDiePower d x).cmds = s.cmds := rfl
@[simp] theorem State.setDiePower_nextCmd : (s.setDiePower d x).nextCmd = s.nextCmd := rfl
@[simp] theorem State.setDiePower_parts : (s.setDiePower d x).parts = s.parts := rfl
@[simp] theorem State.setDiePower_windows : (s.setDiePower d x).windows = s.windows := rfl
@[simp] theorem State.setDiePower_plans : (s.setDiePower d x).plans = s.plans := rfl
@[simp] theorem State.setDiePower_tables : (s.setDiePower d x).tables = s.tables := rfl
@[simp] theorem State.setDiePower_tempers : (s.setDiePower d x).tempers = s.tempers := rfl
@[simp] theorem State.setDiePower_objects : (s.setDiePower d x).objects = s.objects := rfl
@[simp] theorem State.setDiePower_seqs : (s.setDiePower d x).seqs = s.seqs := rfl
@[simp] theorem State.setDiePower_frames : (s.setDiePower d x).frames = s.frames := rfl
@[simp] theorem State.setDiePower_pool : (s.setDiePower d x).pool = s.pool := rfl
@[simp] theorem State.setDiePower_steps : (s.setDiePower d x).steps = s.steps := rfl
@[simp] theorem State.setDiePower_trees : (s.setDiePower d x).trees = s.trees := rfl
@[simp] theorem State.setDiePower_mitusEn : (s.setDiePower d x).mitusEn = s.mitusEn := rfl
@[simp] theorem State.setDiePower_nearGib : (s.setDiePower d x).nearGib = s.nearGib := rfl
@[simp] theorem State.setDiePower_hbm : (s.setDiePower d x).hbm = s.hbm := rfl
@[simp] theorem State.setDiePower_hbmRate : (s.setDiePower d x).hbmRate = s.hbmRate := rfl
@[simp] theorem State.setDiePower_repaired : (s.setDiePower d x).repaired = s.repaired := rfl
@[simp] theorem State.setDiePower_dies : (s.setDiePower d x).dies = s.dies := rfl
@[simp] theorem State.setDiePower_spine : (s.setDiePower d x).spine = s.spine := rfl
@[simp] theorem State.setDiePower_streams : (s.setDiePower d x).streams = s.streams := rfl
@[simp] theorem State.setDiePower_spineOut : (s.setDiePower d x).spineOut = s.spineOut := rfl
@[simp] theorem State.setDiePower_unitOut : (s.setDiePower d x).unitOut = s.unitOut := rfl
@[simp] theorem State.setDiePower_links : (s.setDiePower d x).links = s.links := rfl
@[simp] theorem State.setDiePower_linkOut : (s.setDiePower d x).linkOut = s.linkOut := rfl
@[simp] theorem State.setDiePower_frameOut : (s.setDiePower d x).frameOut = s.frameOut := rfl
@[simp] theorem State.setDiePower_linkIn : (s.setDiePower d x).linkIn = s.linkIn := rfl
@[simp] theorem State.setDiePower_partId : (s.setDiePower d x).partId = s.partId := rfl
@[simp] theorem State.setDiePower_groups : (s.setDiePower d x).groups = s.groups := rfl
@[simp] theorem State.setDiePower_fprintWait : (s.setDiePower d x).fprintWait = s.fprintWait := rfl
@[simp] theorem State.setDiePower_models : (s.setDiePower d x).models = s.models := rfl
@[simp] theorem State.setDiePower_alloys : (s.setDiePower d x).alloys = s.alloys := rfl
@[simp] theorem State.setDiePower_engines : (s.setDiePower d x).engines = s.engines := rfl
@[simp] theorem State.setDiePower_flash : (s.setDiePower d x).flash = s.flash := rfl
@[simp] theorem State.setDiePower_sec : (s.setDiePower d x).sec = s.sec := rfl
@[simp] theorem State.setDiePower_serial : (s.setDiePower d x).serial = s.serial := rfl
@[simp] theorem State.setDiePower_spdmOut : (s.setDiePower d x).spdmOut = s.spdmOut := rfl
@[simp] theorem State.setDiePower_keyOut : (s.setDiePower d x).keyOut = s.keyOut := rfl
@[simp] theorem State.setDiePower_pldmOut : (s.setDiePower d x).pldmOut = s.pldmOut := rfl
@[simp] theorem State.setDiePower_power : (s.setDiePower d x).power = { s.power with dies := s.power.dies.set d x } := rfl
@[simp] theorem State.setDiePower_errs : (s.setDiePower d x).errs = s.errs := rfl
@[simp] theorem State.setDiePower_dropped : (s.setDiePower d x).dropped = s.dropped := rfl
@[simp] theorem State.setDiePower_ceLog2 : (s.setDiePower d x).ceLog2 = s.ceLog2 := rfl
@[simp] theorem State.setDiePower_colo : (s.setDiePower d x).colo = s.colo := rfl
end

section
variable (s : State) (d : Nat) (x : NMap Frame)
@[simp] theorem State.setFrames_pending : (s.setFrames d x).pending = s.pending := rfl
@[simp] theorem State.setFrames_fresh : (s.setFrames d x).fresh = s.fresh := rfl
@[simp] theorem State.setFrames_counters : (s.setFrames d x).counters = s.counters := rfl
@[simp] theorem State.setFrames_boot : (s.setFrames d x).boot = s.boot := rfl
@[simp] theorem State.setFrames_pins : (s.setFrames d x).pins = s.pins := rfl
@[simp] theorem State.setFrames_resetCause : (s.setFrames d x).resetCause = s.resetCause := rfl
@[simp] theorem State.setFrames_warmResets : (s.setFrames d x).warmResets = s.warmResets := rfl
@[simp] theorem State.setFrames_fatal : (s.setFrames d x).fatal = s.fatal := rfl
@[simp] theorem State.setFrames_host : (s.setFrames d x).host = s.host := rfl
@[simp] theorem State.setFrames_half : (s.setFrames d x).half = s.half := rfl
@[simp] theorem State.setFrames_msix : (s.setFrames d x).msix = s.msix := rfl
@[simp] theorem State.setFrames_msixOut : (s.setFrames d x).msixOut = s.msixOut := rfl
@[simp] theorem State.setFrames_atc : (s.setFrames d x).atc = s.atc := rfl
@[simp] theorem State.setFrames_dma : (s.setFrames d x).dma = s.dma := rfl
@[simp] theorem State.setFrames_stalled : (s.setFrames d x).stalled = s.stalled := rfl
@[simp] theorem State.setFrames_lastDma : (s.setFrames d x).lastDma = s.lastDma := rfl
@[simp] theorem State.setFrames_queues : (s.setFrames d x).queues = s.queues := rfl
@[simp] theorem State.setFrames_t2cache : (s.setFrames d x).t2cache = s.t2cache := rfl
@[simp] theorem State.setFrames_admin : (s.setFrames d x).admin = s.admin := rfl
@[simp] theorem State.setFrames_subs : (s.setFrames d x).subs = s.subs := rfl
@[simp] theorem State.setFrames_comps : (s.setFrames d x).comps = s.comps := rfl
@[simp] theorem State.setFrames_fences : (s.setFrames d x).fences = s.fences := rfl
@[simp] theorem State.setFrames_cmds : (s.setFrames d x).cmds = s.cmds := rfl
@[simp] theorem State.setFrames_nextCmd : (s.setFrames d x).nextCmd = s.nextCmd := rfl
@[simp] theorem State.setFrames_parts : (s.setFrames d x).parts = s.parts := rfl
@[simp] theorem State.setFrames_windows : (s.setFrames d x).windows = s.windows := rfl
@[simp] theorem State.setFrames_plans : (s.setFrames d x).plans = s.plans := rfl
@[simp] theorem State.setFrames_tables : (s.setFrames d x).tables = s.tables := rfl
@[simp] theorem State.setFrames_tempers : (s.setFrames d x).tempers = s.tempers := rfl
@[simp] theorem State.setFrames_objects : (s.setFrames d x).objects = s.objects := rfl
@[simp] theorem State.setFrames_seqs : (s.setFrames d x).seqs = s.seqs := rfl
@[simp] theorem State.setFrames_frames : (s.setFrames d x).frames = s.frames.set d x := rfl
@[simp] theorem State.setFrames_pool : (s.setFrames d x).pool = s.pool := rfl
@[simp] theorem State.setFrames_steps : (s.setFrames d x).steps = s.steps := rfl
@[simp] theorem State.setFrames_trees : (s.setFrames d x).trees = s.trees := rfl
@[simp] theorem State.setFrames_mitusEn : (s.setFrames d x).mitusEn = s.mitusEn := rfl
@[simp] theorem State.setFrames_nearGib : (s.setFrames d x).nearGib = s.nearGib := rfl
@[simp] theorem State.setFrames_hbm : (s.setFrames d x).hbm = s.hbm := rfl
@[simp] theorem State.setFrames_hbmRate : (s.setFrames d x).hbmRate = s.hbmRate := rfl
@[simp] theorem State.setFrames_repaired : (s.setFrames d x).repaired = s.repaired := rfl
@[simp] theorem State.setFrames_dies : (s.setFrames d x).dies = s.dies := rfl
@[simp] theorem State.setFrames_spine : (s.setFrames d x).spine = s.spine := rfl
@[simp] theorem State.setFrames_streams : (s.setFrames d x).streams = s.streams := rfl
@[simp] theorem State.setFrames_spineOut : (s.setFrames d x).spineOut = s.spineOut := rfl
@[simp] theorem State.setFrames_unitOut : (s.setFrames d x).unitOut = s.unitOut := rfl
@[simp] theorem State.setFrames_links : (s.setFrames d x).links = s.links := rfl
@[simp] theorem State.setFrames_linkOut : (s.setFrames d x).linkOut = s.linkOut := rfl
@[simp] theorem State.setFrames_frameOut : (s.setFrames d x).frameOut = s.frameOut := rfl
@[simp] theorem State.setFrames_linkIn : (s.setFrames d x).linkIn = s.linkIn := rfl
@[simp] theorem State.setFrames_partId : (s.setFrames d x).partId = s.partId := rfl
@[simp] theorem State.setFrames_groups : (s.setFrames d x).groups = s.groups := rfl
@[simp] theorem State.setFrames_fprintWait : (s.setFrames d x).fprintWait = s.fprintWait := rfl
@[simp] theorem State.setFrames_models : (s.setFrames d x).models = s.models := rfl
@[simp] theorem State.setFrames_alloys : (s.setFrames d x).alloys = s.alloys := rfl
@[simp] theorem State.setFrames_engines : (s.setFrames d x).engines = s.engines := rfl
@[simp] theorem State.setFrames_flash : (s.setFrames d x).flash = s.flash := rfl
@[simp] theorem State.setFrames_sec : (s.setFrames d x).sec = s.sec := rfl
@[simp] theorem State.setFrames_serial : (s.setFrames d x).serial = s.serial := rfl
@[simp] theorem State.setFrames_spdmOut : (s.setFrames d x).spdmOut = s.spdmOut := rfl
@[simp] theorem State.setFrames_keyOut : (s.setFrames d x).keyOut = s.keyOut := rfl
@[simp] theorem State.setFrames_pldmOut : (s.setFrames d x).pldmOut = s.pldmOut := rfl
@[simp] theorem State.setFrames_power : (s.setFrames d x).power = s.power := rfl
@[simp] theorem State.setFrames_errs : (s.setFrames d x).errs = s.errs := rfl
@[simp] theorem State.setFrames_dropped : (s.setFrames d x).dropped = s.dropped := rfl
@[simp] theorem State.setFrames_ceLog2 : (s.setFrames d x).ceLog2 = s.ceLog2 := rfl
@[simp] theorem State.setFrames_colo : (s.setFrames d x).colo = s.colo := rfl
end

section
variable (s : State) (l : Nat) (m : Msg)
@[simp] theorem State.sendLink_pending : (s.sendLink l m).pending = s.pending := rfl
@[simp] theorem State.sendLink_fresh : (s.sendLink l m).fresh = s.fresh := rfl
@[simp] theorem State.sendLink_counters : (s.sendLink l m).counters = s.counters := rfl
@[simp] theorem State.sendLink_boot : (s.sendLink l m).boot = s.boot := rfl
@[simp] theorem State.sendLink_pins : (s.sendLink l m).pins = s.pins := rfl
@[simp] theorem State.sendLink_resetCause : (s.sendLink l m).resetCause = s.resetCause := rfl
@[simp] theorem State.sendLink_warmResets : (s.sendLink l m).warmResets = s.warmResets := rfl
@[simp] theorem State.sendLink_fatal : (s.sendLink l m).fatal = s.fatal := rfl
@[simp] theorem State.sendLink_host : (s.sendLink l m).host = s.host := rfl
@[simp] theorem State.sendLink_half : (s.sendLink l m).half = s.half := rfl
@[simp] theorem State.sendLink_msix : (s.sendLink l m).msix = s.msix := rfl
@[simp] theorem State.sendLink_msixOut : (s.sendLink l m).msixOut = s.msixOut := rfl
@[simp] theorem State.sendLink_atc : (s.sendLink l m).atc = s.atc := rfl
@[simp] theorem State.sendLink_dma : (s.sendLink l m).dma = s.dma := rfl
@[simp] theorem State.sendLink_stalled : (s.sendLink l m).stalled = s.stalled := rfl
@[simp] theorem State.sendLink_lastDma : (s.sendLink l m).lastDma = s.lastDma := rfl
@[simp] theorem State.sendLink_queues : (s.sendLink l m).queues = s.queues := rfl
@[simp] theorem State.sendLink_t2cache : (s.sendLink l m).t2cache = s.t2cache := rfl
@[simp] theorem State.sendLink_admin : (s.sendLink l m).admin = s.admin := rfl
@[simp] theorem State.sendLink_subs : (s.sendLink l m).subs = s.subs := rfl
@[simp] theorem State.sendLink_comps : (s.sendLink l m).comps = s.comps := rfl
@[simp] theorem State.sendLink_fences : (s.sendLink l m).fences = s.fences := rfl
@[simp] theorem State.sendLink_cmds : (s.sendLink l m).cmds = s.cmds := rfl
@[simp] theorem State.sendLink_nextCmd : (s.sendLink l m).nextCmd = s.nextCmd := rfl
@[simp] theorem State.sendLink_parts : (s.sendLink l m).parts = s.parts := rfl
@[simp] theorem State.sendLink_windows : (s.sendLink l m).windows = s.windows := rfl
@[simp] theorem State.sendLink_plans : (s.sendLink l m).plans = s.plans := rfl
@[simp] theorem State.sendLink_tables : (s.sendLink l m).tables = s.tables := rfl
@[simp] theorem State.sendLink_tempers : (s.sendLink l m).tempers = s.tempers := rfl
@[simp] theorem State.sendLink_objects : (s.sendLink l m).objects = s.objects := rfl
@[simp] theorem State.sendLink_seqs : (s.sendLink l m).seqs = s.seqs := rfl
@[simp] theorem State.sendLink_frames : (s.sendLink l m).frames = s.frames := rfl
@[simp] theorem State.sendLink_pool : (s.sendLink l m).pool = s.pool := rfl
@[simp] theorem State.sendLink_steps : (s.sendLink l m).steps = s.steps := rfl
@[simp] theorem State.sendLink_trees : (s.sendLink l m).trees = s.trees := rfl
@[simp] theorem State.sendLink_mitusEn : (s.sendLink l m).mitusEn = s.mitusEn := rfl
@[simp] theorem State.sendLink_nearGib : (s.sendLink l m).nearGib = s.nearGib := rfl
@[simp] theorem State.sendLink_hbm : (s.sendLink l m).hbm = s.hbm := rfl
@[simp] theorem State.sendLink_hbmRate : (s.sendLink l m).hbmRate = s.hbmRate := rfl
@[simp] theorem State.sendLink_repaired : (s.sendLink l m).repaired = s.repaired := rfl
@[simp] theorem State.sendLink_dies : (s.sendLink l m).dies = s.dies := rfl
@[simp] theorem State.sendLink_spine : (s.sendLink l m).spine = s.spine := rfl
@[simp] theorem State.sendLink_streams : (s.sendLink l m).streams = s.streams := rfl
@[simp] theorem State.sendLink_spineOut : (s.sendLink l m).spineOut = s.spineOut := rfl
@[simp] theorem State.sendLink_unitOut : (s.sendLink l m).unitOut = s.unitOut := rfl
@[simp] theorem State.sendLink_links : (s.sendLink l m).links = s.links := rfl
@[simp] theorem State.sendLink_linkOut : (s.sendLink l m).linkOut = s.linkOut ++ [(l, m)] := rfl
@[simp] theorem State.sendLink_frameOut : (s.sendLink l m).frameOut = s.frameOut := rfl
@[simp] theorem State.sendLink_linkIn : (s.sendLink l m).linkIn = s.linkIn := rfl
@[simp] theorem State.sendLink_partId : (s.sendLink l m).partId = s.partId := rfl
@[simp] theorem State.sendLink_groups : (s.sendLink l m).groups = s.groups := rfl
@[simp] theorem State.sendLink_fprintWait : (s.sendLink l m).fprintWait = s.fprintWait := rfl
@[simp] theorem State.sendLink_models : (s.sendLink l m).models = s.models := rfl
@[simp] theorem State.sendLink_alloys : (s.sendLink l m).alloys = s.alloys := rfl
@[simp] theorem State.sendLink_engines : (s.sendLink l m).engines = s.engines := rfl
@[simp] theorem State.sendLink_flash : (s.sendLink l m).flash = s.flash := rfl
@[simp] theorem State.sendLink_sec : (s.sendLink l m).sec = s.sec := rfl
@[simp] theorem State.sendLink_serial : (s.sendLink l m).serial = s.serial := rfl
@[simp] theorem State.sendLink_spdmOut : (s.sendLink l m).spdmOut = s.spdmOut := rfl
@[simp] theorem State.sendLink_keyOut : (s.sendLink l m).keyOut = s.keyOut := rfl
@[simp] theorem State.sendLink_pldmOut : (s.sendLink l m).pldmOut = s.pldmOut := rfl
@[simp] theorem State.sendLink_power : (s.sendLink l m).power = s.power := rfl
@[simp] theorem State.sendLink_errs : (s.sendLink l m).errs = s.errs := rfl
@[simp] theorem State.sendLink_dropped : (s.sendLink l m).dropped = s.dropped := rfl
@[simp] theorem State.sendLink_ceLog2 : (s.sendLink l m).ceLog2 = s.ceLog2 := rfl
@[simp] theorem State.sendLink_colo : (s.sendLink l m).colo = s.colo := rfl
end

theorem State.pumpSpine_eq (s : State) (a b : Nat) : ∃ sp out, s.pumpSpine a b = { s with spine := sp, spineOut := out } :=
  ⟨(s.pumpSpine a b).spine, (s.pumpSpine a b).spineOut, rfl⟩

/-- Launching a message changes the spine and what it has sent, and nothing else. -/
theorem State.launch_eq (s : State) (m : SpineMsg) : ∃ sp out, s.launch m = { s with spine := sp, spineOut := out } := by
  obtain ⟨sp, out, e⟩ := State.pumpSpine_eq
    (s.modDir m.src (s.hop m.src m.dst) (fun x => { x with queues := x.queues.modify m.channel (· ++ [m]) })) m.src (s.hop m.src m.dst)
  exact ⟨sp, out, e⟩

section
variable (s : State) (m : SpineMsg)
@[simp] theorem State.launch_pending : (s.launch m).pending = s.pending := by obtain ⟨_, _, h⟩ := s.launch_eq m; rw [h]
@[simp] theorem State.launch_fresh : (s.launch m).fresh = s.fresh := by obtain ⟨_, _, h⟩ := s.launch_eq m; rw [h]
@[simp] theorem State.launch_counters : (s.launch m).counters = s.counters := by obtain ⟨_, _, h⟩ := s.launch_eq m; rw [h]
@[simp] theorem State.launch_boot : (s.launch m).boot = s.boot := by obtain ⟨_, _, h⟩ := s.launch_eq m; rw [h]
@[simp] theorem State.launch_pins : (s.launch m).pins = s.pins := by obtain ⟨_, _, h⟩ := s.launch_eq m; rw [h]
@[simp] theorem State.launch_resetCause : (s.launch m).resetCause = s.resetCause := by obtain ⟨_, _, h⟩ := s.launch_eq m; rw [h]
@[simp] theorem State.launch_warmResets : (s.launch m).warmResets = s.warmResets := by obtain ⟨_, _, h⟩ := s.launch_eq m; rw [h]
@[simp] theorem State.launch_fatal : (s.launch m).fatal = s.fatal := by obtain ⟨_, _, h⟩ := s.launch_eq m; rw [h]
@[simp] theorem State.launch_host : (s.launch m).host = s.host := by obtain ⟨_, _, h⟩ := s.launch_eq m; rw [h]
@[simp] theorem State.launch_half : (s.launch m).half = s.half := by obtain ⟨_, _, h⟩ := s.launch_eq m; rw [h]
@[simp] theorem State.launch_msix : (s.launch m).msix = s.msix := by obtain ⟨_, _, h⟩ := s.launch_eq m; rw [h]
@[simp] theorem State.launch_msixOut : (s.launch m).msixOut = s.msixOut := by obtain ⟨_, _, h⟩ := s.launch_eq m; rw [h]
@[simp] theorem State.launch_atc : (s.launch m).atc = s.atc := by obtain ⟨_, _, h⟩ := s.launch_eq m; rw [h]
@[simp] theorem State.launch_dma : (s.launch m).dma = s.dma := by obtain ⟨_, _, h⟩ := s.launch_eq m; rw [h]
@[simp] theorem State.launch_stalled : (s.launch m).stalled = s.stalled := by obtain ⟨_, _, h⟩ := s.launch_eq m; rw [h]
@[simp] theorem State.launch_lastDma : (s.launch m).lastDma = s.lastDma := by obtain ⟨_, _, h⟩ := s.launch_eq m; rw [h]
@[simp] theorem State.launch_queues : (s.launch m).queues = s.queues := by obtain ⟨_, _, h⟩ := s.launch_eq m; rw [h]
@[simp] theorem State.launch_t2cache : (s.launch m).t2cache = s.t2cache := by obtain ⟨_, _, h⟩ := s.launch_eq m; rw [h]
@[simp] theorem State.launch_admin : (s.launch m).admin = s.admin := by obtain ⟨_, _, h⟩ := s.launch_eq m; rw [h]
@[simp] theorem State.launch_subs : (s.launch m).subs = s.subs := by obtain ⟨_, _, h⟩ := s.launch_eq m; rw [h]
@[simp] theorem State.launch_comps : (s.launch m).comps = s.comps := by obtain ⟨_, _, h⟩ := s.launch_eq m; rw [h]
@[simp] theorem State.launch_fences : (s.launch m).fences = s.fences := by obtain ⟨_, _, h⟩ := s.launch_eq m; rw [h]
@[simp] theorem State.launch_cmds : (s.launch m).cmds = s.cmds := by obtain ⟨_, _, h⟩ := s.launch_eq m; rw [h]
@[simp] theorem State.launch_nextCmd : (s.launch m).nextCmd = s.nextCmd := by obtain ⟨_, _, h⟩ := s.launch_eq m; rw [h]
@[simp] theorem State.launch_parts : (s.launch m).parts = s.parts := by obtain ⟨_, _, h⟩ := s.launch_eq m; rw [h]
@[simp] theorem State.launch_windows : (s.launch m).windows = s.windows := by obtain ⟨_, _, h⟩ := s.launch_eq m; rw [h]
@[simp] theorem State.launch_plans : (s.launch m).plans = s.plans := by obtain ⟨_, _, h⟩ := s.launch_eq m; rw [h]
@[simp] theorem State.launch_tables : (s.launch m).tables = s.tables := by obtain ⟨_, _, h⟩ := s.launch_eq m; rw [h]
@[simp] theorem State.launch_tempers : (s.launch m).tempers = s.tempers := by obtain ⟨_, _, h⟩ := s.launch_eq m; rw [h]
@[simp] theorem State.launch_objects : (s.launch m).objects = s.objects := by obtain ⟨_, _, h⟩ := s.launch_eq m; rw [h]
@[simp] theorem State.launch_seqs : (s.launch m).seqs = s.seqs := by obtain ⟨_, _, h⟩ := s.launch_eq m; rw [h]
@[simp] theorem State.launch_frames : (s.launch m).frames = s.frames := by obtain ⟨_, _, h⟩ := s.launch_eq m; rw [h]
@[simp] theorem State.launch_pool : (s.launch m).pool = s.pool := by obtain ⟨_, _, h⟩ := s.launch_eq m; rw [h]
@[simp] theorem State.launch_steps : (s.launch m).steps = s.steps := by obtain ⟨_, _, h⟩ := s.launch_eq m; rw [h]
@[simp] theorem State.launch_trees : (s.launch m).trees = s.trees := by obtain ⟨_, _, h⟩ := s.launch_eq m; rw [h]
@[simp] theorem State.launch_mitusEn : (s.launch m).mitusEn = s.mitusEn := by obtain ⟨_, _, h⟩ := s.launch_eq m; rw [h]
@[simp] theorem State.launch_nearGib : (s.launch m).nearGib = s.nearGib := by obtain ⟨_, _, h⟩ := s.launch_eq m; rw [h]
@[simp] theorem State.launch_hbm : (s.launch m).hbm = s.hbm := by obtain ⟨_, _, h⟩ := s.launch_eq m; rw [h]
@[simp] theorem State.launch_hbmRate : (s.launch m).hbmRate = s.hbmRate := by obtain ⟨_, _, h⟩ := s.launch_eq m; rw [h]
@[simp] theorem State.launch_repaired : (s.launch m).repaired = s.repaired := by obtain ⟨_, _, h⟩ := s.launch_eq m; rw [h]
@[simp] theorem State.launch_dies : (s.launch m).dies = s.dies := by obtain ⟨_, _, h⟩ := s.launch_eq m; rw [h]
@[simp] theorem State.launch_streams : (s.launch m).streams = s.streams := by obtain ⟨_, _, h⟩ := s.launch_eq m; rw [h]
@[simp] theorem State.launch_unitOut : (s.launch m).unitOut = s.unitOut := by obtain ⟨_, _, h⟩ := s.launch_eq m; rw [h]
@[simp] theorem State.launch_links : (s.launch m).links = s.links := by obtain ⟨_, _, h⟩ := s.launch_eq m; rw [h]
@[simp] theorem State.launch_linkOut : (s.launch m).linkOut = s.linkOut := by obtain ⟨_, _, h⟩ := s.launch_eq m; rw [h]
@[simp] theorem State.launch_frameOut : (s.launch m).frameOut = s.frameOut := by obtain ⟨_, _, h⟩ := s.launch_eq m; rw [h]
@[simp] theorem State.launch_linkIn : (s.launch m).linkIn = s.linkIn := by obtain ⟨_, _, h⟩ := s.launch_eq m; rw [h]
@[simp] theorem State.launch_partId : (s.launch m).partId = s.partId := by obtain ⟨_, _, h⟩ := s.launch_eq m; rw [h]
@[simp] theorem State.launch_groups : (s.launch m).groups = s.groups := by obtain ⟨_, _, h⟩ := s.launch_eq m; rw [h]
@[simp] theorem State.launch_fprintWait : (s.launch m).fprintWait = s.fprintWait := by obtain ⟨_, _, h⟩ := s.launch_eq m; rw [h]
@[simp] theorem State.launch_models : (s.launch m).models = s.models := by obtain ⟨_, _, h⟩ := s.launch_eq m; rw [h]
@[simp] theorem State.launch_alloys : (s.launch m).alloys = s.alloys := by obtain ⟨_, _, h⟩ := s.launch_eq m; rw [h]
@[simp] theorem State.launch_engines : (s.launch m).engines = s.engines := by obtain ⟨_, _, h⟩ := s.launch_eq m; rw [h]
@[simp] theorem State.launch_flash : (s.launch m).flash = s.flash := by obtain ⟨_, _, h⟩ := s.launch_eq m; rw [h]
@[simp] theorem State.launch_sec : (s.launch m).sec = s.sec := by obtain ⟨_, _, h⟩ := s.launch_eq m; rw [h]
@[simp] theorem State.launch_serial : (s.launch m).serial = s.serial := by obtain ⟨_, _, h⟩ := s.launch_eq m; rw [h]
@[simp] theorem State.launch_spdmOut : (s.launch m).spdmOut = s.spdmOut := by obtain ⟨_, _, h⟩ := s.launch_eq m; rw [h]
@[simp] theorem State.launch_keyOut : (s.launch m).keyOut = s.keyOut := by obtain ⟨_, _, h⟩ := s.launch_eq m; rw [h]
@[simp] theorem State.launch_pldmOut : (s.launch m).pldmOut = s.pldmOut := by obtain ⟨_, _, h⟩ := s.launch_eq m; rw [h]
@[simp] theorem State.launch_power : (s.launch m).power = s.power := by obtain ⟨_, _, h⟩ := s.launch_eq m; rw [h]
@[simp] theorem State.launch_errs : (s.launch m).errs = s.errs := by obtain ⟨_, _, h⟩ := s.launch_eq m; rw [h]
@[simp] theorem State.launch_dropped : (s.launch m).dropped = s.dropped := by obtain ⟨_, _, h⟩ := s.launch_eq m; rw [h]
@[simp] theorem State.launch_ceLog2 : (s.launch m).ceLog2 = s.ceLog2 := by obtain ⟨_, _, h⟩ := s.launch_eq m; rw [h]
@[simp] theorem State.launch_colo : (s.launch m).colo = s.colo := by obtain ⟨_, _, h⟩ := s.launch_eq m; rw [h]
end

section
variable (s : State) (m0 : SpineMsg)
@[simp] theorem State.sendMsg_pending : (s.sendMsg m0).pending = s.pending := State.launch_pending _ _
@[simp] theorem State.sendMsg_fresh : (s.sendMsg m0).fresh = s.fresh := State.launch_fresh _ _
@[simp] theorem State.sendMsg_counters : (s.sendMsg m0).counters = s.counters := State.launch_counters _ _
@[simp] theorem State.sendMsg_boot : (s.sendMsg m0).boot = s.boot := State.launch_boot _ _
@[simp] theorem State.sendMsg_pins : (s.sendMsg m0).pins = s.pins := State.launch_pins _ _
@[simp] theorem State.sendMsg_resetCause : (s.sendMsg m0).resetCause = s.resetCause := State.launch_resetCause _ _
@[simp] theorem State.sendMsg_warmResets : (s.sendMsg m0).warmResets = s.warmResets := State.launch_warmResets _ _
@[simp] theorem State.sendMsg_fatal : (s.sendMsg m0).fatal = s.fatal := State.launch_fatal _ _
@[simp] theorem State.sendMsg_host : (s.sendMsg m0).host = s.host := State.launch_host _ _
@[simp] theorem State.sendMsg_half : (s.sendMsg m0).half = s.half := State.launch_half _ _
@[simp] theorem State.sendMsg_msix : (s.sendMsg m0).msix = s.msix := State.launch_msix _ _
@[simp] theorem State.sendMsg_msixOut : (s.sendMsg m0).msixOut = s.msixOut := State.launch_msixOut _ _
@[simp] theorem State.sendMsg_atc : (s.sendMsg m0).atc = s.atc := State.launch_atc _ _
@[simp] theorem State.sendMsg_dma : (s.sendMsg m0).dma = s.dma := State.launch_dma _ _
@[simp] theorem State.sendMsg_stalled : (s.sendMsg m0).stalled = s.stalled := State.launch_stalled _ _
@[simp] theorem State.sendMsg_lastDma : (s.sendMsg m0).lastDma = s.lastDma := State.launch_lastDma _ _
@[simp] theorem State.sendMsg_queues : (s.sendMsg m0).queues = s.queues := State.launch_queues _ _
@[simp] theorem State.sendMsg_t2cache : (s.sendMsg m0).t2cache = s.t2cache := State.launch_t2cache _ _
@[simp] theorem State.sendMsg_admin : (s.sendMsg m0).admin = s.admin := State.launch_admin _ _
@[simp] theorem State.sendMsg_subs : (s.sendMsg m0).subs = s.subs := State.launch_subs _ _
@[simp] theorem State.sendMsg_comps : (s.sendMsg m0).comps = s.comps := State.launch_comps _ _
@[simp] theorem State.sendMsg_fences : (s.sendMsg m0).fences = s.fences := State.launch_fences _ _
@[simp] theorem State.sendMsg_cmds : (s.sendMsg m0).cmds = s.cmds := State.launch_cmds _ _
@[simp] theorem State.sendMsg_nextCmd : (s.sendMsg m0).nextCmd = s.nextCmd := State.launch_nextCmd _ _
@[simp] theorem State.sendMsg_parts : (s.sendMsg m0).parts = s.parts := State.launch_parts _ _
@[simp] theorem State.sendMsg_windows : (s.sendMsg m0).windows = s.windows := State.launch_windows _ _
@[simp] theorem State.sendMsg_plans : (s.sendMsg m0).plans = s.plans := State.launch_plans _ _
@[simp] theorem State.sendMsg_tables : (s.sendMsg m0).tables = s.tables := State.launch_tables _ _
@[simp] theorem State.sendMsg_tempers : (s.sendMsg m0).tempers = s.tempers := State.launch_tempers _ _
@[simp] theorem State.sendMsg_objects : (s.sendMsg m0).objects = s.objects := State.launch_objects _ _
@[simp] theorem State.sendMsg_seqs : (s.sendMsg m0).seqs = s.seqs := State.launch_seqs _ _
@[simp] theorem State.sendMsg_frames : (s.sendMsg m0).frames = s.frames := State.launch_frames _ _
@[simp] theorem State.sendMsg_pool : (s.sendMsg m0).pool = s.pool := State.launch_pool _ _
@[simp] theorem State.sendMsg_steps : (s.sendMsg m0).steps = s.steps := State.launch_steps _ _
@[simp] theorem State.sendMsg_trees : (s.sendMsg m0).trees = s.trees := State.launch_trees _ _
@[simp] theorem State.sendMsg_mitusEn : (s.sendMsg m0).mitusEn = s.mitusEn := State.launch_mitusEn _ _
@[simp] theorem State.sendMsg_nearGib : (s.sendMsg m0).nearGib = s.nearGib := State.launch_nearGib _ _
@[simp] theorem State.sendMsg_hbm : (s.sendMsg m0).hbm = s.hbm := State.launch_hbm _ _
@[simp] theorem State.sendMsg_hbmRate : (s.sendMsg m0).hbmRate = s.hbmRate := State.launch_hbmRate _ _
@[simp] theorem State.sendMsg_repaired : (s.sendMsg m0).repaired = s.repaired := State.launch_repaired _ _
@[simp] theorem State.sendMsg_dies : (s.sendMsg m0).dies = s.dies := State.launch_dies _ _
@[simp] theorem State.sendMsg_unitOut : (s.sendMsg m0).unitOut = s.unitOut := State.launch_unitOut _ _
@[simp] theorem State.sendMsg_links : (s.sendMsg m0).links = s.links := State.launch_links _ _
@[simp] theorem State.sendMsg_linkOut : (s.sendMsg m0).linkOut = s.linkOut := State.launch_linkOut _ _
@[simp] theorem State.sendMsg_frameOut : (s.sendMsg m0).frameOut = s.frameOut := State.launch_frameOut _ _
@[simp] theorem State.sendMsg_linkIn : (s.sendMsg m0).linkIn = s.linkIn := State.launch_linkIn _ _
@[simp] theorem State.sendMsg_partId : (s.sendMsg m0).partId = s.partId := State.launch_partId _ _
@[simp] theorem State.sendMsg_groups : (s.sendMsg m0).groups = s.groups := State.launch_groups _ _
@[simp] theorem State.sendMsg_fprintWait : (s.sendMsg m0).fprintWait = s.fprintWait := State.launch_fprintWait _ _
@[simp] theorem State.sendMsg_models : (s.sendMsg m0).models = s.models := State.launch_models _ _
@[simp] theorem State.sendMsg_alloys : (s.sendMsg m0).alloys = s.alloys := State.launch_alloys _ _
@[simp] theorem State.sendMsg_engines : (s.sendMsg m0).engines = s.engines := State.launch_engines _ _
@[simp] theorem State.sendMsg_flash : (s.sendMsg m0).flash = s.flash := State.launch_flash _ _
@[simp] theorem State.sendMsg_sec : (s.sendMsg m0).sec = s.sec := State.launch_sec _ _
@[simp] theorem State.sendMsg_serial : (s.sendMsg m0).serial = s.serial := State.launch_serial _ _
@[simp] theorem State.sendMsg_spdmOut : (s.sendMsg m0).spdmOut = s.spdmOut := State.launch_spdmOut _ _
@[simp] theorem State.sendMsg_keyOut : (s.sendMsg m0).keyOut = s.keyOut := State.launch_keyOut _ _
@[simp] theorem State.sendMsg_pldmOut : (s.sendMsg m0).pldmOut = s.pldmOut := State.launch_pldmOut _ _
@[simp] theorem State.sendMsg_power : (s.sendMsg m0).power = s.power := State.launch_power _ _
@[simp] theorem State.sendMsg_errs : (s.sendMsg m0).errs = s.errs := State.launch_errs _ _
@[simp] theorem State.sendMsg_dropped : (s.sendMsg m0).dropped = s.dropped := State.launch_dropped _ _
@[simp] theorem State.sendMsg_ceLog2 : (s.sendMsg m0).ceLog2 = s.ceLog2 := State.launch_ceLog2 _ _
@[simp] theorem State.sendMsg_colo : (s.sendMsg m0).colo = s.colo := State.launch_colo _ _
end

section
variable (s : State) (src dst ch : Nat) (p : Bytes)
@[simp] theorem State.sendSpine_pending : (s.sendSpine src dst ch p).pending = s.pending := State.launch_pending _ _
@[simp] theorem State.sendSpine_fresh : (s.sendSpine src dst ch p).fresh = s.fresh := State.launch_fresh _ _
@[simp] theorem State.sendSpine_counters : (s.sendSpine src dst ch p).counters = s.counters := State.launch_counters _ _
@[simp] theorem State.sendSpine_boot : (s.sendSpine src dst ch p).boot = s.boot := State.launch_boot _ _
@[simp] theorem State.sendSpine_pins : (s.sendSpine src dst ch p).pins = s.pins := State.launch_pins _ _
@[simp] theorem State.sendSpine_resetCause : (s.sendSpine src dst ch p).resetCause = s.resetCause := State.launch_resetCause _ _
@[simp] theorem State.sendSpine_warmResets : (s.sendSpine src dst ch p).warmResets = s.warmResets := State.launch_warmResets _ _
@[simp] theorem State.sendSpine_fatal : (s.sendSpine src dst ch p).fatal = s.fatal := State.launch_fatal _ _
@[simp] theorem State.sendSpine_host : (s.sendSpine src dst ch p).host = s.host := State.launch_host _ _
@[simp] theorem State.sendSpine_half : (s.sendSpine src dst ch p).half = s.half := State.launch_half _ _
@[simp] theorem State.sendSpine_msix : (s.sendSpine src dst ch p).msix = s.msix := State.launch_msix _ _
@[simp] theorem State.sendSpine_msixOut : (s.sendSpine src dst ch p).msixOut = s.msixOut := State.launch_msixOut _ _
@[simp] theorem State.sendSpine_atc : (s.sendSpine src dst ch p).atc = s.atc := State.launch_atc _ _
@[simp] theorem State.sendSpine_dma : (s.sendSpine src dst ch p).dma = s.dma := State.launch_dma _ _
@[simp] theorem State.sendSpine_stalled : (s.sendSpine src dst ch p).stalled = s.stalled := State.launch_stalled _ _
@[simp] theorem State.sendSpine_lastDma : (s.sendSpine src dst ch p).lastDma = s.lastDma := State.launch_lastDma _ _
@[simp] theorem State.sendSpine_queues : (s.sendSpine src dst ch p).queues = s.queues := State.launch_queues _ _
@[simp] theorem State.sendSpine_t2cache : (s.sendSpine src dst ch p).t2cache = s.t2cache := State.launch_t2cache _ _
@[simp] theorem State.sendSpine_admin : (s.sendSpine src dst ch p).admin = s.admin := State.launch_admin _ _
@[simp] theorem State.sendSpine_subs : (s.sendSpine src dst ch p).subs = s.subs := State.launch_subs _ _
@[simp] theorem State.sendSpine_comps : (s.sendSpine src dst ch p).comps = s.comps := State.launch_comps _ _
@[simp] theorem State.sendSpine_fences : (s.sendSpine src dst ch p).fences = s.fences := State.launch_fences _ _
@[simp] theorem State.sendSpine_cmds : (s.sendSpine src dst ch p).cmds = s.cmds := State.launch_cmds _ _
@[simp] theorem State.sendSpine_nextCmd : (s.sendSpine src dst ch p).nextCmd = s.nextCmd := State.launch_nextCmd _ _
@[simp] theorem State.sendSpine_parts : (s.sendSpine src dst ch p).parts = s.parts := State.launch_parts _ _
@[simp] theorem State.sendSpine_windows : (s.sendSpine src dst ch p).windows = s.windows := State.launch_windows _ _
@[simp] theorem State.sendSpine_plans : (s.sendSpine src dst ch p).plans = s.plans := State.launch_plans _ _
@[simp] theorem State.sendSpine_tables : (s.sendSpine src dst ch p).tables = s.tables := State.launch_tables _ _
@[simp] theorem State.sendSpine_tempers : (s.sendSpine src dst ch p).tempers = s.tempers := State.launch_tempers _ _
@[simp] theorem State.sendSpine_objects : (s.sendSpine src dst ch p).objects = s.objects := State.launch_objects _ _
@[simp] theorem State.sendSpine_seqs : (s.sendSpine src dst ch p).seqs = s.seqs := State.launch_seqs _ _
@[simp] theorem State.sendSpine_frames : (s.sendSpine src dst ch p).frames = s.frames := State.launch_frames _ _
@[simp] theorem State.sendSpine_pool : (s.sendSpine src dst ch p).pool = s.pool := State.launch_pool _ _
@[simp] theorem State.sendSpine_steps : (s.sendSpine src dst ch p).steps = s.steps := State.launch_steps _ _
@[simp] theorem State.sendSpine_trees : (s.sendSpine src dst ch p).trees = s.trees := State.launch_trees _ _
@[simp] theorem State.sendSpine_mitusEn : (s.sendSpine src dst ch p).mitusEn = s.mitusEn := State.launch_mitusEn _ _
@[simp] theorem State.sendSpine_nearGib : (s.sendSpine src dst ch p).nearGib = s.nearGib := State.launch_nearGib _ _
@[simp] theorem State.sendSpine_hbm : (s.sendSpine src dst ch p).hbm = s.hbm := State.launch_hbm _ _
@[simp] theorem State.sendSpine_hbmRate : (s.sendSpine src dst ch p).hbmRate = s.hbmRate := State.launch_hbmRate _ _
@[simp] theorem State.sendSpine_repaired : (s.sendSpine src dst ch p).repaired = s.repaired := State.launch_repaired _ _
@[simp] theorem State.sendSpine_dies : (s.sendSpine src dst ch p).dies = s.dies := State.launch_dies _ _
@[simp] theorem State.sendSpine_unitOut : (s.sendSpine src dst ch p).unitOut = s.unitOut := State.launch_unitOut _ _
@[simp] theorem State.sendSpine_links : (s.sendSpine src dst ch p).links = s.links := State.launch_links _ _
@[simp] theorem State.sendSpine_linkOut : (s.sendSpine src dst ch p).linkOut = s.linkOut := State.launch_linkOut _ _
@[simp] theorem State.sendSpine_frameOut : (s.sendSpine src dst ch p).frameOut = s.frameOut := State.launch_frameOut _ _
@[simp] theorem State.sendSpine_linkIn : (s.sendSpine src dst ch p).linkIn = s.linkIn := State.launch_linkIn _ _
@[simp] theorem State.sendSpine_partId : (s.sendSpine src dst ch p).partId = s.partId := State.launch_partId _ _
@[simp] theorem State.sendSpine_groups : (s.sendSpine src dst ch p).groups = s.groups := State.launch_groups _ _
@[simp] theorem State.sendSpine_fprintWait : (s.sendSpine src dst ch p).fprintWait = s.fprintWait := State.launch_fprintWait _ _
@[simp] theorem State.sendSpine_models : (s.sendSpine src dst ch p).models = s.models := State.launch_models _ _
@[simp] theorem State.sendSpine_alloys : (s.sendSpine src dst ch p).alloys = s.alloys := State.launch_alloys _ _
@[simp] theorem State.sendSpine_engines : (s.sendSpine src dst ch p).engines = s.engines := State.launch_engines _ _
@[simp] theorem State.sendSpine_flash : (s.sendSpine src dst ch p).flash = s.flash := State.launch_flash _ _
@[simp] theorem State.sendSpine_sec : (s.sendSpine src dst ch p).sec = s.sec := State.launch_sec _ _
@[simp] theorem State.sendSpine_serial : (s.sendSpine src dst ch p).serial = s.serial := State.launch_serial _ _
@[simp] theorem State.sendSpine_spdmOut : (s.sendSpine src dst ch p).spdmOut = s.spdmOut := State.launch_spdmOut _ _
@[simp] theorem State.sendSpine_keyOut : (s.sendSpine src dst ch p).keyOut = s.keyOut := State.launch_keyOut _ _
@[simp] theorem State.sendSpine_pldmOut : (s.sendSpine src dst ch p).pldmOut = s.pldmOut := State.launch_pldmOut _ _
@[simp] theorem State.sendSpine_power : (s.sendSpine src dst ch p).power = s.power := State.launch_power _ _
@[simp] theorem State.sendSpine_errs : (s.sendSpine src dst ch p).errs = s.errs := State.launch_errs _ _
@[simp] theorem State.sendSpine_dropped : (s.sendSpine src dst ch p).dropped = s.dropped := State.launch_dropped _ _
@[simp] theorem State.sendSpine_ceLog2 : (s.sendSpine src dst ch p).ceLog2 = s.ceLog2 := State.launch_ceLog2 _ _
@[simp] theorem State.sendSpine_colo : (s.sendSpine src dst ch p).colo = s.colo := State.launch_colo _ _
end

section
variable (s : State) (d : Nat) (m : NMap ErrRec)
@[simp] theorem State.setErrs_pending : (s.setErrs d m).pending = s.pending := rfl
@[simp] theorem State.setErrs_fresh : (s.setErrs d m).fresh = s.fresh := rfl
@[simp] theorem State.setErrs_counters : (s.setErrs d m).counters = s.counters := rfl
@[simp] theorem State.setErrs_boot : (s.setErrs d m).boot = s.boot := rfl
@[simp] theorem State.setErrs_pins : (s.setErrs d m).pins = s.pins := rfl
@[simp] theorem State.setErrs_resetCause : (s.setErrs d m).resetCause = s.resetCause := rfl
@[simp] theorem State.setErrs_warmResets : (s.setErrs d m).warmResets = s.warmResets := rfl
@[simp] theorem State.setErrs_fatal : (s.setErrs d m).fatal = s.fatal := rfl
@[simp] theorem State.setErrs_host : (s.setErrs d m).host = s.host := rfl
@[simp] theorem State.setErrs_half : (s.setErrs d m).half = s.half := rfl
@[simp] theorem State.setErrs_msix : (s.setErrs d m).msix = s.msix := rfl
@[simp] theorem State.setErrs_msixOut : (s.setErrs d m).msixOut = s.msixOut := rfl
@[simp] theorem State.setErrs_atc : (s.setErrs d m).atc = s.atc := rfl
@[simp] theorem State.setErrs_dma : (s.setErrs d m).dma = s.dma := rfl
@[simp] theorem State.setErrs_stalled : (s.setErrs d m).stalled = s.stalled := rfl
@[simp] theorem State.setErrs_lastDma : (s.setErrs d m).lastDma = s.lastDma := rfl
@[simp] theorem State.setErrs_queues : (s.setErrs d m).queues = s.queues := rfl
@[simp] theorem State.setErrs_t2cache : (s.setErrs d m).t2cache = s.t2cache := rfl
@[simp] theorem State.setErrs_admin : (s.setErrs d m).admin = s.admin := rfl
@[simp] theorem State.setErrs_subs : (s.setErrs d m).subs = s.subs := rfl
@[simp] theorem State.setErrs_comps : (s.setErrs d m).comps = s.comps := rfl
@[simp] theorem State.setErrs_fences : (s.setErrs d m).fences = s.fences := rfl
@[simp] theorem State.setErrs_cmds : (s.setErrs d m).cmds = s.cmds := rfl
@[simp] theorem State.setErrs_nextCmd : (s.setErrs d m).nextCmd = s.nextCmd := rfl
@[simp] theorem State.setErrs_parts : (s.setErrs d m).parts = s.parts := rfl
@[simp] theorem State.setErrs_windows : (s.setErrs d m).windows = s.windows := rfl
@[simp] theorem State.setErrs_plans : (s.setErrs d m).plans = s.plans := rfl
@[simp] theorem State.setErrs_tables : (s.setErrs d m).tables = s.tables := rfl
@[simp] theorem State.setErrs_tempers : (s.setErrs d m).tempers = s.tempers := rfl
@[simp] theorem State.setErrs_objects : (s.setErrs d m).objects = s.objects := rfl
@[simp] theorem State.setErrs_seqs : (s.setErrs d m).seqs = s.seqs := rfl
@[simp] theorem State.setErrs_frames : (s.setErrs d m).frames = s.frames := rfl
@[simp] theorem State.setErrs_pool : (s.setErrs d m).pool = s.pool := rfl
@[simp] theorem State.setErrs_steps : (s.setErrs d m).steps = s.steps := rfl
@[simp] theorem State.setErrs_trees : (s.setErrs d m).trees = s.trees := rfl
@[simp] theorem State.setErrs_mitusEn : (s.setErrs d m).mitusEn = s.mitusEn := rfl
@[simp] theorem State.setErrs_nearGib : (s.setErrs d m).nearGib = s.nearGib := rfl
@[simp] theorem State.setErrs_hbm : (s.setErrs d m).hbm = s.hbm := rfl
@[simp] theorem State.setErrs_hbmRate : (s.setErrs d m).hbmRate = s.hbmRate := rfl
@[simp] theorem State.setErrs_repaired : (s.setErrs d m).repaired = s.repaired := rfl
@[simp] theorem State.setErrs_dies : (s.setErrs d m).dies = s.dies := rfl
@[simp] theorem State.setErrs_spine : (s.setErrs d m).spine = s.spine := rfl
@[simp] theorem State.setErrs_streams : (s.setErrs d m).streams = s.streams := rfl
@[simp] theorem State.setErrs_spineOut : (s.setErrs d m).spineOut = s.spineOut := rfl
@[simp] theorem State.setErrs_unitOut : (s.setErrs d m).unitOut = s.unitOut := rfl
@[simp] theorem State.setErrs_links : (s.setErrs d m).links = s.links := rfl
@[simp] theorem State.setErrs_linkOut : (s.setErrs d m).linkOut = s.linkOut := rfl
@[simp] theorem State.setErrs_frameOut : (s.setErrs d m).frameOut = s.frameOut := rfl
@[simp] theorem State.setErrs_linkIn : (s.setErrs d m).linkIn = s.linkIn := rfl
@[simp] theorem State.setErrs_partId : (s.setErrs d m).partId = s.partId := rfl
@[simp] theorem State.setErrs_groups : (s.setErrs d m).groups = s.groups := rfl
@[simp] theorem State.setErrs_fprintWait : (s.setErrs d m).fprintWait = s.fprintWait := rfl
@[simp] theorem State.setErrs_models : (s.setErrs d m).models = s.models := rfl
@[simp] theorem State.setErrs_alloys : (s.setErrs d m).alloys = s.alloys := rfl
@[simp] theorem State.setErrs_engines : (s.setErrs d m).engines = s.engines := rfl
@[simp] theorem State.setErrs_flash : (s.setErrs d m).flash = s.flash := rfl
@[simp] theorem State.setErrs_sec : (s.setErrs d m).sec = s.sec := rfl
@[simp] theorem State.setErrs_serial : (s.setErrs d m).serial = s.serial := rfl
@[simp] theorem State.setErrs_spdmOut : (s.setErrs d m).spdmOut = s.spdmOut := rfl
@[simp] theorem State.setErrs_keyOut : (s.setErrs d m).keyOut = s.keyOut := rfl
@[simp] theorem State.setErrs_pldmOut : (s.setErrs d m).pldmOut = s.pldmOut := rfl
@[simp] theorem State.setErrs_power : (s.setErrs d m).power = s.power := rfl
@[simp] theorem State.setErrs_errs : (s.setErrs d m).errs = s.errs.set d m := rfl
@[simp] theorem State.setErrs_dropped : (s.setErrs d m).dropped = s.dropped := rfl
@[simp] theorem State.setErrs_ceLog2 : (s.setErrs d m).ceLog2 = s.ceLog2 := rfl
@[simp] theorem State.setErrs_colo : (s.setErrs d m).colo = s.colo := rfl
end

section
variable (s : State)
@[simp] theorem State.countDropped_pending : s.countDropped.pending = s.pending := rfl
@[simp] theorem State.countDropped_fresh : s.countDropped.fresh = s.fresh := rfl
@[simp] theorem State.countDropped_counters : s.countDropped.counters = s.counters := rfl
@[simp] theorem State.countDropped_boot : s.countDropped.boot = s.boot := rfl
@[simp] theorem State.countDropped_pins : s.countDropped.pins = s.pins := rfl
@[simp] theorem State.countDropped_resetCause : s.countDropped.resetCause = s.resetCause := rfl
@[simp] theorem State.countDropped_warmResets : s.countDropped.warmResets = s.warmResets := rfl
@[simp] theorem State.countDropped_fatal : s.countDropped.fatal = s.fatal := rfl
@[simp] theorem State.countDropped_host : s.countDropped.host = s.host := rfl
@[simp] theorem State.countDropped_half : s.countDropped.half = s.half := rfl
@[simp] theorem State.countDropped_msix : s.countDropped.msix = s.msix := rfl
@[simp] theorem State.countDropped_msixOut : s.countDropped.msixOut = s.msixOut := rfl
@[simp] theorem State.countDropped_atc : s.countDropped.atc = s.atc := rfl
@[simp] theorem State.countDropped_dma : s.countDropped.dma = s.dma := rfl
@[simp] theorem State.countDropped_stalled : s.countDropped.stalled = s.stalled := rfl
@[simp] theorem State.countDropped_lastDma : s.countDropped.lastDma = s.lastDma := rfl
@[simp] theorem State.countDropped_queues : s.countDropped.queues = s.queues := rfl
@[simp] theorem State.countDropped_t2cache : s.countDropped.t2cache = s.t2cache := rfl
@[simp] theorem State.countDropped_admin : s.countDropped.admin = s.admin := rfl
@[simp] theorem State.countDropped_subs : s.countDropped.subs = s.subs := rfl
@[simp] theorem State.countDropped_comps : s.countDropped.comps = s.comps := rfl
@[simp] theorem State.countDropped_fences : s.countDropped.fences = s.fences := rfl
@[simp] theorem State.countDropped_cmds : s.countDropped.cmds = s.cmds := rfl
@[simp] theorem State.countDropped_nextCmd : s.countDropped.nextCmd = s.nextCmd := rfl
@[simp] theorem State.countDropped_parts : s.countDropped.parts = s.parts := rfl
@[simp] theorem State.countDropped_windows : s.countDropped.windows = s.windows := rfl
@[simp] theorem State.countDropped_plans : s.countDropped.plans = s.plans := rfl
@[simp] theorem State.countDropped_tables : s.countDropped.tables = s.tables := rfl
@[simp] theorem State.countDropped_tempers : s.countDropped.tempers = s.tempers := rfl
@[simp] theorem State.countDropped_objects : s.countDropped.objects = s.objects := rfl
@[simp] theorem State.countDropped_seqs : s.countDropped.seqs = s.seqs := rfl
@[simp] theorem State.countDropped_frames : s.countDropped.frames = s.frames := rfl
@[simp] theorem State.countDropped_pool : s.countDropped.pool = s.pool := rfl
@[simp] theorem State.countDropped_steps : s.countDropped.steps = s.steps := rfl
@[simp] theorem State.countDropped_trees : s.countDropped.trees = s.trees := rfl
@[simp] theorem State.countDropped_mitusEn : s.countDropped.mitusEn = s.mitusEn := rfl
@[simp] theorem State.countDropped_nearGib : s.countDropped.nearGib = s.nearGib := rfl
@[simp] theorem State.countDropped_hbm : s.countDropped.hbm = s.hbm := rfl
@[simp] theorem State.countDropped_hbmRate : s.countDropped.hbmRate = s.hbmRate := rfl
@[simp] theorem State.countDropped_repaired : s.countDropped.repaired = s.repaired := rfl
@[simp] theorem State.countDropped_dies : s.countDropped.dies = s.dies := rfl
@[simp] theorem State.countDropped_spine : s.countDropped.spine = s.spine := rfl
@[simp] theorem State.countDropped_streams : s.countDropped.streams = s.streams := rfl
@[simp] theorem State.countDropped_spineOut : s.countDropped.spineOut = s.spineOut := rfl
@[simp] theorem State.countDropped_unitOut : s.countDropped.unitOut = s.unitOut := rfl
@[simp] theorem State.countDropped_links : s.countDropped.links = s.links := rfl
@[simp] theorem State.countDropped_linkOut : s.countDropped.linkOut = s.linkOut := rfl
@[simp] theorem State.countDropped_frameOut : s.countDropped.frameOut = s.frameOut := rfl
@[simp] theorem State.countDropped_linkIn : s.countDropped.linkIn = s.linkIn := rfl
@[simp] theorem State.countDropped_partId : s.countDropped.partId = s.partId := rfl
@[simp] theorem State.countDropped_groups : s.countDropped.groups = s.groups := rfl
@[simp] theorem State.countDropped_fprintWait : s.countDropped.fprintWait = s.fprintWait := rfl
@[simp] theorem State.countDropped_models : s.countDropped.models = s.models := rfl
@[simp] theorem State.countDropped_alloys : s.countDropped.alloys = s.alloys := rfl
@[simp] theorem State.countDropped_engines : s.countDropped.engines = s.engines := rfl
@[simp] theorem State.countDropped_flash : s.countDropped.flash = s.flash := rfl
@[simp] theorem State.countDropped_sec : s.countDropped.sec = s.sec := rfl
@[simp] theorem State.countDropped_serial : s.countDropped.serial = s.serial := rfl
@[simp] theorem State.countDropped_spdmOut : s.countDropped.spdmOut = s.spdmOut := rfl
@[simp] theorem State.countDropped_keyOut : s.countDropped.keyOut = s.keyOut := rfl
@[simp] theorem State.countDropped_pldmOut : s.countDropped.pldmOut = s.pldmOut := rfl
@[simp] theorem State.countDropped_power : s.countDropped.power = s.power := rfl
@[simp] theorem State.countDropped_errs : s.countDropped.errs = s.errs := rfl
@[simp] theorem State.countDropped_dropped : s.countDropped.dropped = min (s.dropped + 1) 0xFFFF := rfl
@[simp] theorem State.countDropped_ceLog2 : s.countDropped.ceLog2 = s.ceLog2 := rfl
@[simp] theorem State.countDropped_colo : s.countDropped.colo = s.colo := rfl
end

section
variable (s : State) (owner ring : Nat) (r : SubRing)
@[simp] theorem State.setSub_pending : (s.setSub owner ring r).pending = s.pending := rfl
@[simp] theorem State.setSub_fresh : (s.setSub owner ring r).fresh = s.fresh := rfl
@[simp] theorem State.setSub_counters : (s.setSub owner ring r).counters = s.counters := rfl
@[simp] theorem State.setSub_boot : (s.setSub owner ring r).boot = s.boot := rfl
@[simp] theorem State.setSub_pins : (s.setSub owner ring r).pins = s.pins := rfl
@[simp] theorem State.setSub_resetCause : (s.setSub owner ring r).resetCause = s.resetCause := rfl
@[simp] theorem State.setSub_warmResets : (s.setSub owner ring r).warmResets = s.warmResets := rfl
@[simp] theorem State.setSub_fatal : (s.setSub owner ring r).fatal = s.fatal := rfl
@[simp] theorem State.setSub_host : (s.setSub owner ring r).host = s.host := rfl
@[simp] theorem State.setSub_half : (s.setSub owner ring r).half = s.half := rfl
@[simp] theorem State.setSub_msix : (s.setSub owner ring r).msix = s.msix := rfl
@[simp] theorem State.setSub_msixOut : (s.setSub owner ring r).msixOut = s.msixOut := rfl
@[simp] theorem State.setSub_atc : (s.setSub owner ring r).atc = s.atc := rfl
@[simp] theorem State.setSub_dma : (s.setSub owner ring r).dma = s.dma := rfl
@[simp] theorem State.setSub_stalled : (s.setSub owner ring r).stalled = s.stalled := rfl
@[simp] theorem State.setSub_lastDma : (s.setSub owner ring r).lastDma = s.lastDma := rfl
@[simp] theorem State.setSub_queues : (s.setSub owner ring r).queues = s.queues := rfl
@[simp] theorem State.setSub_t2cache : (s.setSub owner ring r).t2cache = s.t2cache := rfl
@[simp] theorem State.setSub_admin : (s.setSub owner ring r).admin = s.admin := rfl
@[simp] theorem State.setSub_subs : (s.setSub owner ring r).subs = NMap.set s.subs (ringKey owner ring) r := rfl
@[simp] theorem State.setSub_comps : (s.setSub owner ring r).comps = s.comps := rfl
@[simp] theorem State.setSub_fences : (s.setSub owner ring r).fences = s.fences := rfl
@[simp] theorem State.setSub_cmds : (s.setSub owner ring r).cmds = s.cmds := rfl
@[simp] theorem State.setSub_nextCmd : (s.setSub owner ring r).nextCmd = s.nextCmd := rfl
@[simp] theorem State.setSub_parts : (s.setSub owner ring r).parts = s.parts := rfl
@[simp] theorem State.setSub_windows : (s.setSub owner ring r).windows = s.windows := rfl
@[simp] theorem State.setSub_plans : (s.setSub owner ring r).plans = s.plans := rfl
@[simp] theorem State.setSub_tables : (s.setSub owner ring r).tables = s.tables := rfl
@[simp] theorem State.setSub_tempers : (s.setSub owner ring r).tempers = s.tempers := rfl
@[simp] theorem State.setSub_objects : (s.setSub owner ring r).objects = s.objects := rfl
@[simp] theorem State.setSub_seqs : (s.setSub owner ring r).seqs = s.seqs := rfl
@[simp] theorem State.setSub_frames : (s.setSub owner ring r).frames = s.frames := rfl
@[simp] theorem State.setSub_pool : (s.setSub owner ring r).pool = s.pool := rfl
@[simp] theorem State.setSub_steps : (s.setSub owner ring r).steps = s.steps := rfl
@[simp] theorem State.setSub_trees : (s.setSub owner ring r).trees = s.trees := rfl
@[simp] theorem State.setSub_mitusEn : (s.setSub owner ring r).mitusEn = s.mitusEn := rfl
@[simp] theorem State.setSub_nearGib : (s.setSub owner ring r).nearGib = s.nearGib := rfl
@[simp] theorem State.setSub_hbm : (s.setSub owner ring r).hbm = s.hbm := rfl
@[simp] theorem State.setSub_hbmRate : (s.setSub owner ring r).hbmRate = s.hbmRate := rfl
@[simp] theorem State.setSub_repaired : (s.setSub owner ring r).repaired = s.repaired := rfl
@[simp] theorem State.setSub_dies : (s.setSub owner ring r).dies = s.dies := rfl
@[simp] theorem State.setSub_spine : (s.setSub owner ring r).spine = s.spine := rfl
@[simp] theorem State.setSub_streams : (s.setSub owner ring r).streams = s.streams := rfl
@[simp] theorem State.setSub_spineOut : (s.setSub owner ring r).spineOut = s.spineOut := rfl
@[simp] theorem State.setSub_unitOut : (s.setSub owner ring r).unitOut = s.unitOut := rfl
@[simp] theorem State.setSub_links : (s.setSub owner ring r).links = s.links := rfl
@[simp] theorem State.setSub_linkOut : (s.setSub owner ring r).linkOut = s.linkOut := rfl
@[simp] theorem State.setSub_frameOut : (s.setSub owner ring r).frameOut = s.frameOut := rfl
@[simp] theorem State.setSub_linkIn : (s.setSub owner ring r).linkIn = s.linkIn := rfl
@[simp] theorem State.setSub_partId : (s.setSub owner ring r).partId = s.partId := rfl
@[simp] theorem State.setSub_groups : (s.setSub owner ring r).groups = s.groups := rfl
@[simp] theorem State.setSub_fprintWait : (s.setSub owner ring r).fprintWait = s.fprintWait := rfl
@[simp] theorem State.setSub_models : (s.setSub owner ring r).models = s.models := rfl
@[simp] theorem State.setSub_alloys : (s.setSub owner ring r).alloys = s.alloys := rfl
@[simp] theorem State.setSub_engines : (s.setSub owner ring r).engines = s.engines := rfl
@[simp] theorem State.setSub_flash : (s.setSub owner ring r).flash = s.flash := rfl
@[simp] theorem State.setSub_sec : (s.setSub owner ring r).sec = s.sec := rfl
@[simp] theorem State.setSub_serial : (s.setSub owner ring r).serial = s.serial := rfl
@[simp] theorem State.setSub_spdmOut : (s.setSub owner ring r).spdmOut = s.spdmOut := rfl
@[simp] theorem State.setSub_keyOut : (s.setSub owner ring r).keyOut = s.keyOut := rfl
@[simp] theorem State.setSub_pldmOut : (s.setSub owner ring r).pldmOut = s.pldmOut := rfl
@[simp] theorem State.setSub_power : (s.setSub owner ring r).power = s.power := rfl
@[simp] theorem State.setSub_errs : (s.setSub owner ring r).errs = s.errs := rfl
@[simp] theorem State.setSub_dropped : (s.setSub owner ring r).dropped = s.dropped := rfl
@[simp] theorem State.setSub_ceLog2 : (s.setSub owner ring r).ceLog2 = s.ceLog2 := rfl
@[simp] theorem State.setSub_colo : (s.setSub owner ring r).colo = s.colo := rfl
end

section
variable (s : State) (owner cq : Nat) (r : CompRing)
@[simp] theorem State.setComp_pending : (s.setComp owner cq r).pending = s.pending := rfl
@[simp] theorem State.setComp_fresh : (s.setComp owner cq r).fresh = s.fresh := rfl
@[simp] theorem State.setComp_counters : (s.setComp owner cq r).counters = s.counters := rfl
@[simp] theorem State.setComp_boot : (s.setComp owner cq r).boot = s.boot := rfl
@[simp] theorem State.setComp_pins : (s.setComp owner cq r).pins = s.pins := rfl
@[simp] theorem State.setComp_resetCause : (s.setComp owner cq r).resetCause = s.resetCause := rfl
@[simp] theorem State.setComp_warmResets : (s.setComp owner cq r).warmResets = s.warmResets := rfl
@[simp] theorem State.setComp_fatal : (s.setComp owner cq r).fatal = s.fatal := rfl
@[simp] theorem State.setComp_host : (s.setComp owner cq r).host = s.host := rfl
@[simp] theorem State.setComp_half : (s.setComp owner cq r).half = s.half := rfl
@[simp] theorem State.setComp_msix : (s.setComp owner cq r).msix = s.msix := rfl
@[simp] theorem State.setComp_msixOut : (s.setComp owner cq r).msixOut = s.msixOut := rfl
@[simp] theorem State.setComp_atc : (s.setComp owner cq r).atc = s.atc := rfl
@[simp] theorem State.setComp_dma : (s.setComp owner cq r).dma = s.dma := rfl
@[simp] theorem State.setComp_stalled : (s.setComp owner cq r).stalled = s.stalled := rfl
@[simp] theorem State.setComp_lastDma : (s.setComp owner cq r).lastDma = s.lastDma := rfl
@[simp] theorem State.setComp_queues : (s.setComp owner cq r).queues = s.queues := rfl
@[simp] theorem State.setComp_t2cache : (s.setComp owner cq r).t2cache = s.t2cache := rfl
@[simp] theorem State.setComp_admin : (s.setComp owner cq r).admin = s.admin := rfl
@[simp] theorem State.setComp_subs : (s.setComp owner cq r).subs = s.subs := rfl
@[simp] theorem State.setComp_comps : (s.setComp owner cq r).comps = NMap.set s.comps (ringKey owner cq) r := rfl
@[simp] theorem State.setComp_fences : (s.setComp owner cq r).fences = s.fences := rfl
@[simp] theorem State.setComp_cmds : (s.setComp owner cq r).cmds = s.cmds := rfl
@[simp] theorem State.setComp_nextCmd : (s.setComp owner cq r).nextCmd = s.nextCmd := rfl
@[simp] theorem State.setComp_parts : (s.setComp owner cq r).parts = s.parts := rfl
@[simp] theorem State.setComp_windows : (s.setComp owner cq r).windows = s.windows := rfl
@[simp] theorem State.setComp_plans : (s.setComp owner cq r).plans = s.plans := rfl
@[simp] theorem State.setComp_tables : (s.setComp owner cq r).tables = s.tables := rfl
@[simp] theorem State.setComp_tempers : (s.setComp owner cq r).tempers = s.tempers := rfl
@[simp] theorem State.setComp_objects : (s.setComp owner cq r).objects = s.objects := rfl
@[simp] theorem State.setComp_seqs : (s.setComp owner cq r).seqs = s.seqs := rfl
@[simp] theorem State.setComp_frames : (s.setComp owner cq r).frames = s.frames := rfl
@[simp] theorem State.setComp_pool : (s.setComp owner cq r).pool = s.pool := rfl
@[simp] theorem State.setComp_steps : (s.setComp owner cq r).steps = s.steps := rfl
@[simp] theorem State.setComp_trees : (s.setComp owner cq r).trees = s.trees := rfl
@[simp] theorem State.setComp_mitusEn : (s.setComp owner cq r).mitusEn = s.mitusEn := rfl
@[simp] theorem State.setComp_nearGib : (s.setComp owner cq r).nearGib = s.nearGib := rfl
@[simp] theorem State.setComp_hbm : (s.setComp owner cq r).hbm = s.hbm := rfl
@[simp] theorem State.setComp_hbmRate : (s.setComp owner cq r).hbmRate = s.hbmRate := rfl
@[simp] theorem State.setComp_repaired : (s.setComp owner cq r).repaired = s.repaired := rfl
@[simp] theorem State.setComp_dies : (s.setComp owner cq r).dies = s.dies := rfl
@[simp] theorem State.setComp_spine : (s.setComp owner cq r).spine = s.spine := rfl
@[simp] theorem State.setComp_streams : (s.setComp owner cq r).streams = s.streams := rfl
@[simp] theorem State.setComp_spineOut : (s.setComp owner cq r).spineOut = s.spineOut := rfl
@[simp] theorem State.setComp_unitOut : (s.setComp owner cq r).unitOut = s.unitOut := rfl
@[simp] theorem State.setComp_links : (s.setComp owner cq r).links = s.links := rfl
@[simp] theorem State.setComp_linkOut : (s.setComp owner cq r).linkOut = s.linkOut := rfl
@[simp] theorem State.setComp_frameOut : (s.setComp owner cq r).frameOut = s.frameOut := rfl
@[simp] theorem State.setComp_linkIn : (s.setComp owner cq r).linkIn = s.linkIn := rfl
@[simp] theorem State.setComp_partId : (s.setComp owner cq r).partId = s.partId := rfl
@[simp] theorem State.setComp_groups : (s.setComp owner cq r).groups = s.groups := rfl
@[simp] theorem State.setComp_fprintWait : (s.setComp owner cq r).fprintWait = s.fprintWait := rfl
@[simp] theorem State.setComp_models : (s.setComp owner cq r).models = s.models := rfl
@[simp] theorem State.setComp_alloys : (s.setComp owner cq r).alloys = s.alloys := rfl
@[simp] theorem State.setComp_engines : (s.setComp owner cq r).engines = s.engines := rfl
@[simp] theorem State.setComp_flash : (s.setComp owner cq r).flash = s.flash := rfl
@[simp] theorem State.setComp_sec : (s.setComp owner cq r).sec = s.sec := rfl
@[simp] theorem State.setComp_serial : (s.setComp owner cq r).serial = s.serial := rfl
@[simp] theorem State.setComp_spdmOut : (s.setComp owner cq r).spdmOut = s.spdmOut := rfl
@[simp] theorem State.setComp_keyOut : (s.setComp owner cq r).keyOut = s.keyOut := rfl
@[simp] theorem State.setComp_pldmOut : (s.setComp owner cq r).pldmOut = s.pldmOut := rfl
@[simp] theorem State.setComp_power : (s.setComp owner cq r).power = s.power := rfl
@[simp] theorem State.setComp_errs : (s.setComp owner cq r).errs = s.errs := rfl
@[simp] theorem State.setComp_dropped : (s.setComp owner cq r).dropped = s.dropped := rfl
@[simp] theorem State.setComp_ceLog2 : (s.setComp owner cq r).ceLog2 = s.ceLog2 := rfl
@[simp] theorem State.setComp_colo : (s.setComp owner cq r).colo = s.colo := rfl
end

section
variable (s : State) (id : Nat) (c : Cmd)
@[simp] theorem State.setCmd_pending : (s.setCmd id c).pending = s.pending := rfl
@[simp] theorem State.setCmd_fresh : (s.setCmd id c).fresh = s.fresh := rfl
@[simp] theorem State.setCmd_counters : (s.setCmd id c).counters = s.counters := rfl
@[simp] theorem State.setCmd_boot : (s.setCmd id c).boot = s.boot := rfl
@[simp] theorem State.setCmd_pins : (s.setCmd id c).pins = s.pins := rfl
@[simp] theorem State.setCmd_resetCause : (s.setCmd id c).resetCause = s.resetCause := rfl
@[simp] theorem State.setCmd_warmResets : (s.setCmd id c).warmResets = s.warmResets := rfl
@[simp] theorem State.setCmd_fatal : (s.setCmd id c).fatal = s.fatal := rfl
@[simp] theorem State.setCmd_host : (s.setCmd id c).host = s.host := rfl
@[simp] theorem State.setCmd_half : (s.setCmd id c).half = s.half := rfl
@[simp] theorem State.setCmd_msix : (s.setCmd id c).msix = s.msix := rfl
@[simp] theorem State.setCmd_msixOut : (s.setCmd id c).msixOut = s.msixOut := rfl
@[simp] theorem State.setCmd_atc : (s.setCmd id c).atc = s.atc := rfl
@[simp] theorem State.setCmd_dma : (s.setCmd id c).dma = s.dma := rfl
@[simp] theorem State.setCmd_stalled : (s.setCmd id c).stalled = s.stalled := rfl
@[simp] theorem State.setCmd_lastDma : (s.setCmd id c).lastDma = s.lastDma := rfl
@[simp] theorem State.setCmd_queues : (s.setCmd id c).queues = s.queues := rfl
@[simp] theorem State.setCmd_t2cache : (s.setCmd id c).t2cache = s.t2cache := rfl
@[simp] theorem State.setCmd_admin : (s.setCmd id c).admin = s.admin := rfl
@[simp] theorem State.setCmd_subs : (s.setCmd id c).subs = s.subs := rfl
@[simp] theorem State.setCmd_comps : (s.setCmd id c).comps = s.comps := rfl
@[simp] theorem State.setCmd_fences : (s.setCmd id c).fences = s.fences := rfl
@[simp] theorem State.setCmd_cmds : (s.setCmd id c).cmds = NMap.set s.cmds id c := rfl
@[simp] theorem State.setCmd_nextCmd : (s.setCmd id c).nextCmd = s.nextCmd := rfl
@[simp] theorem State.setCmd_parts : (s.setCmd id c).parts = s.parts := rfl
@[simp] theorem State.setCmd_windows : (s.setCmd id c).windows = s.windows := rfl
@[simp] theorem State.setCmd_plans : (s.setCmd id c).plans = s.plans := rfl
@[simp] theorem State.setCmd_tables : (s.setCmd id c).tables = s.tables := rfl
@[simp] theorem State.setCmd_tempers : (s.setCmd id c).tempers = s.tempers := rfl
@[simp] theorem State.setCmd_objects : (s.setCmd id c).objects = s.objects := rfl
@[simp] theorem State.setCmd_seqs : (s.setCmd id c).seqs = s.seqs := rfl
@[simp] theorem State.setCmd_frames : (s.setCmd id c).frames = s.frames := rfl
@[simp] theorem State.setCmd_pool : (s.setCmd id c).pool = s.pool := rfl
@[simp] theorem State.setCmd_steps : (s.setCmd id c).steps = s.steps := rfl
@[simp] theorem State.setCmd_trees : (s.setCmd id c).trees = s.trees := rfl
@[simp] theorem State.setCmd_mitusEn : (s.setCmd id c).mitusEn = s.mitusEn := rfl
@[simp] theorem State.setCmd_nearGib : (s.setCmd id c).nearGib = s.nearGib := rfl
@[simp] theorem State.setCmd_hbm : (s.setCmd id c).hbm = s.hbm := rfl
@[simp] theorem State.setCmd_hbmRate : (s.setCmd id c).hbmRate = s.hbmRate := rfl
@[simp] theorem State.setCmd_repaired : (s.setCmd id c).repaired = s.repaired := rfl
@[simp] theorem State.setCmd_dies : (s.setCmd id c).dies = s.dies := rfl
@[simp] theorem State.setCmd_spine : (s.setCmd id c).spine = s.spine := rfl
@[simp] theorem State.setCmd_streams : (s.setCmd id c).streams = s.streams := rfl
@[simp] theorem State.setCmd_spineOut : (s.setCmd id c).spineOut = s.spineOut := rfl
@[simp] theorem State.setCmd_unitOut : (s.setCmd id c).unitOut = s.unitOut := rfl
@[simp] theorem State.setCmd_links : (s.setCmd id c).links = s.links := rfl
@[simp] theorem State.setCmd_linkOut : (s.setCmd id c).linkOut = s.linkOut := rfl
@[simp] theorem State.setCmd_frameOut : (s.setCmd id c).frameOut = s.frameOut := rfl
@[simp] theorem State.setCmd_linkIn : (s.setCmd id c).linkIn = s.linkIn := rfl
@[simp] theorem State.setCmd_partId : (s.setCmd id c).partId = s.partId := rfl
@[simp] theorem State.setCmd_groups : (s.setCmd id c).groups = s.groups := rfl
@[simp] theorem State.setCmd_fprintWait : (s.setCmd id c).fprintWait = s.fprintWait := rfl
@[simp] theorem State.setCmd_models : (s.setCmd id c).models = s.models := rfl
@[simp] theorem State.setCmd_alloys : (s.setCmd id c).alloys = s.alloys := rfl
@[simp] theorem State.setCmd_engines : (s.setCmd id c).engines = s.engines := rfl
@[simp] theorem State.setCmd_flash : (s.setCmd id c).flash = s.flash := rfl
@[simp] theorem State.setCmd_sec : (s.setCmd id c).sec = s.sec := rfl
@[simp] theorem State.setCmd_serial : (s.setCmd id c).serial = s.serial := rfl
@[simp] theorem State.setCmd_spdmOut : (s.setCmd id c).spdmOut = s.spdmOut := rfl
@[simp] theorem State.setCmd_keyOut : (s.setCmd id c).keyOut = s.keyOut := rfl
@[simp] theorem State.setCmd_pldmOut : (s.setCmd id c).pldmOut = s.pldmOut := rfl
@[simp] theorem State.setCmd_power : (s.setCmd id c).power = s.power := rfl
@[simp] theorem State.setCmd_errs : (s.setCmd id c).errs = s.errs := rfl
@[simp] theorem State.setCmd_dropped : (s.setCmd id c).dropped = s.dropped := rfl
@[simp] theorem State.setCmd_ceLog2 : (s.setCmd id c).ceLog2 = s.ceLog2 := rfl
@[simp] theorem State.setCmd_colo : (s.setCmd id c).colo = s.colo := rfl
end

section
variable (s : State) (part f : Nat) (x : Fence)
@[simp] theorem State.setFence_pending : (s.setFence part f x).pending = s.pending := rfl
@[simp] theorem State.setFence_fresh : (s.setFence part f x).fresh = s.fresh := rfl
@[simp] theorem State.setFence_counters : (s.setFence part f x).counters = s.counters := rfl
@[simp] theorem State.setFence_boot : (s.setFence part f x).boot = s.boot := rfl
@[simp] theorem State.setFence_pins : (s.setFence part f x).pins = s.pins := rfl
@[simp] theorem State.setFence_resetCause : (s.setFence part f x).resetCause = s.resetCause := rfl
@[simp] theorem State.setFence_warmResets : (s.setFence part f x).warmResets = s.warmResets := rfl
@[simp] theorem State.setFence_fatal : (s.setFence part f x).fatal = s.fatal := rfl
@[simp] theorem State.setFence_host : (s.setFence part f x).host = s.host := rfl
@[simp] theorem State.setFence_half : (s.setFence part f x).half = s.half := rfl
@[simp] theorem State.setFence_msix : (s.setFence part f x).msix = s.msix := rfl
@[simp] theorem State.setFence_msixOut : (s.setFence part f x).msixOut = s.msixOut := rfl
@[simp] theorem State.setFence_atc : (s.setFence part f x).atc = s.atc := rfl
@[simp] theorem State.setFence_dma : (s.setFence part f x).dma = s.dma := rfl
@[simp] theorem State.setFence_stalled : (s.setFence part f x).stalled = s.stalled := rfl
@[simp] theorem State.setFence_lastDma : (s.setFence part f x).lastDma = s.lastDma := rfl
@[simp] theorem State.setFence_queues : (s.setFence part f x).queues = s.queues := rfl
@[simp] theorem State.setFence_t2cache : (s.setFence part f x).t2cache = s.t2cache := rfl
@[simp] theorem State.setFence_admin : (s.setFence part f x).admin = s.admin := rfl
@[simp] theorem State.setFence_subs : (s.setFence part f x).subs = s.subs := rfl
@[simp] theorem State.setFence_comps : (s.setFence part f x).comps = s.comps := rfl
@[simp] theorem State.setFence_fences : (s.setFence part f x).fences = NMap.set s.fences (fenceKey part f) x := rfl
@[simp] theorem State.setFence_cmds : (s.setFence part f x).cmds = judgeWaits s.cmds part f x := rfl
@[simp] theorem State.setFence_nextCmd : (s.setFence part f x).nextCmd = s.nextCmd := rfl
@[simp] theorem State.setFence_parts : (s.setFence part f x).parts = s.parts := rfl
@[simp] theorem State.setFence_windows : (s.setFence part f x).windows = s.windows := rfl
@[simp] theorem State.setFence_plans : (s.setFence part f x).plans = s.plans := rfl
@[simp] theorem State.setFence_tables : (s.setFence part f x).tables = s.tables := rfl
@[simp] theorem State.setFence_tempers : (s.setFence part f x).tempers = s.tempers := rfl
@[simp] theorem State.setFence_objects : (s.setFence part f x).objects = s.objects := rfl
@[simp] theorem State.setFence_seqs : (s.setFence part f x).seqs = s.seqs := rfl
@[simp] theorem State.setFence_frames : (s.setFence part f x).frames = s.frames := rfl
@[simp] theorem State.setFence_pool : (s.setFence part f x).pool = s.pool := rfl
@[simp] theorem State.setFence_steps : (s.setFence part f x).steps = s.steps := rfl
@[simp] theorem State.setFence_trees : (s.setFence part f x).trees = s.trees := rfl
@[simp] theorem State.setFence_mitusEn : (s.setFence part f x).mitusEn = s.mitusEn := rfl
@[simp] theorem State.setFence_nearGib : (s.setFence part f x).nearGib = s.nearGib := rfl
@[simp] theorem State.setFence_hbm : (s.setFence part f x).hbm = s.hbm := rfl
@[simp] theorem State.setFence_hbmRate : (s.setFence part f x).hbmRate = s.hbmRate := rfl
@[simp] theorem State.setFence_repaired : (s.setFence part f x).repaired = s.repaired := rfl
@[simp] theorem State.setFence_dies : (s.setFence part f x).dies = s.dies := rfl
@[simp] theorem State.setFence_spine : (s.setFence part f x).spine = s.spine := rfl
@[simp] theorem State.setFence_streams : (s.setFence part f x).streams = s.streams := rfl
@[simp] theorem State.setFence_spineOut : (s.setFence part f x).spineOut = s.spineOut := rfl
@[simp] theorem State.setFence_unitOut : (s.setFence part f x).unitOut = s.unitOut := rfl
@[simp] theorem State.setFence_links : (s.setFence part f x).links = s.links := rfl
@[simp] theorem State.setFence_linkOut : (s.setFence part f x).linkOut = s.linkOut := rfl
@[simp] theorem State.setFence_frameOut : (s.setFence part f x).frameOut = s.frameOut := rfl
@[simp] theorem State.setFence_linkIn : (s.setFence part f x).linkIn = s.linkIn := rfl
@[simp] theorem State.setFence_partId : (s.setFence part f x).partId = s.partId := rfl
@[simp] theorem State.setFence_groups : (s.setFence part f x).groups = s.groups := rfl
@[simp] theorem State.setFence_fprintWait : (s.setFence part f x).fprintWait = s.fprintWait := rfl
@[simp] theorem State.setFence_models : (s.setFence part f x).models = s.models := rfl
@[simp] theorem State.setFence_alloys : (s.setFence part f x).alloys = s.alloys := rfl
@[simp] theorem State.setFence_engines : (s.setFence part f x).engines = s.engines := rfl
@[simp] theorem State.setFence_flash : (s.setFence part f x).flash = s.flash := rfl
@[simp] theorem State.setFence_sec : (s.setFence part f x).sec = s.sec := rfl
@[simp] theorem State.setFence_serial : (s.setFence part f x).serial = s.serial := rfl
@[simp] theorem State.setFence_spdmOut : (s.setFence part f x).spdmOut = s.spdmOut := rfl
@[simp] theorem State.setFence_keyOut : (s.setFence part f x).keyOut = s.keyOut := rfl
@[simp] theorem State.setFence_pldmOut : (s.setFence part f x).pldmOut = s.pldmOut := rfl
@[simp] theorem State.setFence_power : (s.setFence part f x).power = s.power := rfl
@[simp] theorem State.setFence_errs : (s.setFence part f x).errs = s.errs := rfl
@[simp] theorem State.setFence_dropped : (s.setFence part f x).dropped = s.dropped := rfl
@[simp] theorem State.setFence_ceLog2 : (s.setFence part f x).ceLog2 = s.ceLog2 := rfl
@[simp] theorem State.setFence_colo : (s.setFence part f x).colo = s.colo := rfl
end

section
variable (s : State) (key : Nat) (o : Obj)
@[simp] theorem State.setObj_pending : (s.setObj key o).pending = s.pending := rfl
@[simp] theorem State.setObj_fresh : (s.setObj key o).fresh = s.fresh := rfl
@[simp] theorem State.setObj_counters : (s.setObj key o).counters = s.counters := rfl
@[simp] theorem State.setObj_boot : (s.setObj key o).boot = s.boot := rfl
@[simp] theorem State.setObj_pins : (s.setObj key o).pins = s.pins := rfl
@[simp] theorem State.setObj_resetCause : (s.setObj key o).resetCause = s.resetCause := rfl
@[simp] theorem State.setObj_warmResets : (s.setObj key o).warmResets = s.warmResets := rfl
@[simp] theorem State.setObj_fatal : (s.setObj key o).fatal = s.fatal := rfl
@[simp] theorem State.setObj_host : (s.setObj key o).host = s.host := rfl
@[simp] theorem State.setObj_half : (s.setObj key o).half = s.half := rfl
@[simp] theorem State.setObj_msix : (s.setObj key o).msix = s.msix := rfl
@[simp] theorem State.setObj_msixOut : (s.setObj key o).msixOut = s.msixOut := rfl
@[simp] theorem State.setObj_atc : (s.setObj key o).atc = s.atc := rfl
@[simp] theorem State.setObj_dma : (s.setObj key o).dma = s.dma := rfl
@[simp] theorem State.setObj_stalled : (s.setObj key o).stalled = s.stalled := rfl
@[simp] theorem State.setObj_lastDma : (s.setObj key o).lastDma = s.lastDma := rfl
@[simp] theorem State.setObj_queues : (s.setObj key o).queues = s.queues := rfl
@[simp] theorem State.setObj_t2cache : (s.setObj key o).t2cache = s.t2cache := rfl
@[simp] theorem State.setObj_admin : (s.setObj key o).admin = s.admin := rfl
@[simp] theorem State.setObj_subs : (s.setObj key o).subs = s.subs := rfl
@[simp] theorem State.setObj_comps : (s.setObj key o).comps = s.comps := rfl
@[simp] theorem State.setObj_fences : (s.setObj key o).fences = s.fences := rfl
@[simp] theorem State.setObj_cmds : (s.setObj key o).cmds = s.cmds := rfl
@[simp] theorem State.setObj_nextCmd : (s.setObj key o).nextCmd = s.nextCmd := rfl
@[simp] theorem State.setObj_parts : (s.setObj key o).parts = s.parts := rfl
@[simp] theorem State.setObj_windows : (s.setObj key o).windows = s.windows := rfl
@[simp] theorem State.setObj_plans : (s.setObj key o).plans = s.plans := rfl
@[simp] theorem State.setObj_tables : (s.setObj key o).tables = s.tables := rfl
@[simp] theorem State.setObj_tempers : (s.setObj key o).tempers = s.tempers := rfl
@[simp] theorem State.setObj_objects : (s.setObj key o).objects = NMap.set s.objects key o := rfl
@[simp] theorem State.setObj_seqs : (s.setObj key o).seqs = s.seqs := rfl
@[simp] theorem State.setObj_frames : (s.setObj key o).frames = s.frames := rfl
@[simp] theorem State.setObj_pool : (s.setObj key o).pool = s.pool := rfl
@[simp] theorem State.setObj_steps : (s.setObj key o).steps = s.steps := rfl
@[simp] theorem State.setObj_trees : (s.setObj key o).trees = s.trees := rfl
@[simp] theorem State.setObj_mitusEn : (s.setObj key o).mitusEn = s.mitusEn := rfl
@[simp] theorem State.setObj_nearGib : (s.setObj key o).nearGib = s.nearGib := rfl
@[simp] theorem State.setObj_hbm : (s.setObj key o).hbm = s.hbm := rfl
@[simp] theorem State.setObj_hbmRate : (s.setObj key o).hbmRate = s.hbmRate := rfl
@[simp] theorem State.setObj_repaired : (s.setObj key o).repaired = s.repaired := rfl
@[simp] theorem State.setObj_dies : (s.setObj key o).dies = s.dies := rfl
@[simp] theorem State.setObj_spine : (s.setObj key o).spine = s.spine := rfl
@[simp] theorem State.setObj_streams : (s.setObj key o).streams = s.streams := rfl
@[simp] theorem State.setObj_spineOut : (s.setObj key o).spineOut = s.spineOut := rfl
@[simp] theorem State.setObj_unitOut : (s.setObj key o).unitOut = s.unitOut := rfl
@[simp] theorem State.setObj_links : (s.setObj key o).links = s.links := rfl
@[simp] theorem State.setObj_linkOut : (s.setObj key o).linkOut = s.linkOut := rfl
@[simp] theorem State.setObj_frameOut : (s.setObj key o).frameOut = s.frameOut := rfl
@[simp] theorem State.setObj_linkIn : (s.setObj key o).linkIn = s.linkIn := rfl
@[simp] theorem State.setObj_partId : (s.setObj key o).partId = s.partId := rfl
@[simp] theorem State.setObj_groups : (s.setObj key o).groups = s.groups := rfl
@[simp] theorem State.setObj_fprintWait : (s.setObj key o).fprintWait = s.fprintWait := rfl
@[simp] theorem State.setObj_models : (s.setObj key o).models = s.models := rfl
@[simp] theorem State.setObj_alloys : (s.setObj key o).alloys = s.alloys := rfl
@[simp] theorem State.setObj_engines : (s.setObj key o).engines = s.engines := rfl
@[simp] theorem State.setObj_flash : (s.setObj key o).flash = s.flash := rfl
@[simp] theorem State.setObj_sec : (s.setObj key o).sec = s.sec := rfl
@[simp] theorem State.setObj_serial : (s.setObj key o).serial = s.serial := rfl
@[simp] theorem State.setObj_spdmOut : (s.setObj key o).spdmOut = s.spdmOut := rfl
@[simp] theorem State.setObj_keyOut : (s.setObj key o).keyOut = s.keyOut := rfl
@[simp] theorem State.setObj_pldmOut : (s.setObj key o).pldmOut = s.pldmOut := rfl
@[simp] theorem State.setObj_power : (s.setObj key o).power = s.power := rfl
@[simp] theorem State.setObj_errs : (s.setObj key o).errs = s.errs := rfl
@[simp] theorem State.setObj_dropped : (s.setObj key o).dropped = s.dropped := rfl
@[simp] theorem State.setObj_ceLog2 : (s.setObj key o).ceLog2 = s.ceLog2 := rfl
@[simp] theorem State.setObj_colo : (s.setObj key o).colo = s.colo := rfl
end

section
variable (s : State) (idx : Nat) (q : Seq)
@[simp] theorem State.setSeq_pending : (s.setSeq idx q).pending = s.pending := rfl
@[simp] theorem State.setSeq_fresh : (s.setSeq idx q).fresh = s.fresh := rfl
@[simp] theorem State.setSeq_counters : (s.setSeq idx q).counters = s.counters := rfl
@[simp] theorem State.setSeq_boot : (s.setSeq idx q).boot = s.boot := rfl
@[simp] theorem State.setSeq_pins : (s.setSeq idx q).pins = s.pins := rfl
@[simp] theorem State.setSeq_resetCause : (s.setSeq idx q).resetCause = s.resetCause := rfl
@[simp] theorem State.setSeq_warmResets : (s.setSeq idx q).warmResets = s.warmResets := rfl
@[simp] theorem State.setSeq_fatal : (s.setSeq idx q).fatal = s.fatal := rfl
@[simp] theorem State.setSeq_host : (s.setSeq idx q).host = s.host := rfl
@[simp] theorem State.setSeq_half : (s.setSeq idx q).half = s.half := rfl
@[simp] theorem State.setSeq_msix : (s.setSeq idx q).msix = s.msix := rfl
@[simp] theorem State.setSeq_msixOut : (s.setSeq idx q).msixOut = s.msixOut := rfl
@[simp] theorem State.setSeq_atc : (s.setSeq idx q).atc = s.atc := rfl
@[simp] theorem State.setSeq_dma : (s.setSeq idx q).dma = s.dma := rfl
@[simp] theorem State.setSeq_stalled : (s.setSeq idx q).stalled = s.stalled := rfl
@[simp] theorem State.setSeq_lastDma : (s.setSeq idx q).lastDma = s.lastDma := rfl
@[simp] theorem State.setSeq_queues : (s.setSeq idx q).queues = s.queues := rfl
@[simp] theorem State.setSeq_t2cache : (s.setSeq idx q).t2cache = s.t2cache := rfl
@[simp] theorem State.setSeq_admin : (s.setSeq idx q).admin = s.admin := rfl
@[simp] theorem State.setSeq_subs : (s.setSeq idx q).subs = s.subs := rfl
@[simp] theorem State.setSeq_comps : (s.setSeq idx q).comps = s.comps := rfl
@[simp] theorem State.setSeq_fences : (s.setSeq idx q).fences = s.fences := rfl
@[simp] theorem State.setSeq_cmds : (s.setSeq idx q).cmds = s.cmds := rfl
@[simp] theorem State.setSeq_nextCmd : (s.setSeq idx q).nextCmd = s.nextCmd := rfl
@[simp] theorem State.setSeq_parts : (s.setSeq idx q).parts = s.parts := rfl
@[simp] theorem State.setSeq_windows : (s.setSeq idx q).windows = s.windows := rfl
@[simp] theorem State.setSeq_plans : (s.setSeq idx q).plans = s.plans := rfl
@[simp] theorem State.setSeq_tables : (s.setSeq idx q).tables = s.tables := rfl
@[simp] theorem State.setSeq_tempers : (s.setSeq idx q).tempers = s.tempers := rfl
@[simp] theorem State.setSeq_objects : (s.setSeq idx q).objects = s.objects := rfl
@[simp] theorem State.setSeq_seqs : (s.setSeq idx q).seqs = NMap.set s.seqs idx q := rfl
@[simp] theorem State.setSeq_frames : (s.setSeq idx q).frames = s.frames := rfl
@[simp] theorem State.setSeq_pool : (s.setSeq idx q).pool = s.pool := rfl
@[simp] theorem State.setSeq_steps : (s.setSeq idx q).steps = s.steps := rfl
@[simp] theorem State.setSeq_trees : (s.setSeq idx q).trees = s.trees := rfl
@[simp] theorem State.setSeq_mitusEn : (s.setSeq idx q).mitusEn = s.mitusEn := rfl
@[simp] theorem State.setSeq_nearGib : (s.setSeq idx q).nearGib = s.nearGib := rfl
@[simp] theorem State.setSeq_hbm : (s.setSeq idx q).hbm = s.hbm := rfl
@[simp] theorem State.setSeq_hbmRate : (s.setSeq idx q).hbmRate = s.hbmRate := rfl
@[simp] theorem State.setSeq_repaired : (s.setSeq idx q).repaired = s.repaired := rfl
@[simp] theorem State.setSeq_dies : (s.setSeq idx q).dies = s.dies := rfl
@[simp] theorem State.setSeq_spine : (s.setSeq idx q).spine = s.spine := rfl
@[simp] theorem State.setSeq_streams : (s.setSeq idx q).streams = s.streams := rfl
@[simp] theorem State.setSeq_spineOut : (s.setSeq idx q).spineOut = s.spineOut := rfl
@[simp] theorem State.setSeq_unitOut : (s.setSeq idx q).unitOut = s.unitOut := rfl
@[simp] theorem State.setSeq_links : (s.setSeq idx q).links = s.links := rfl
@[simp] theorem State.setSeq_linkOut : (s.setSeq idx q).linkOut = s.linkOut := rfl
@[simp] theorem State.setSeq_frameOut : (s.setSeq idx q).frameOut = s.frameOut := rfl
@[simp] theorem State.setSeq_linkIn : (s.setSeq idx q).linkIn = s.linkIn := rfl
@[simp] theorem State.setSeq_partId : (s.setSeq idx q).partId = s.partId := rfl
@[simp] theorem State.setSeq_groups : (s.setSeq idx q).groups = s.groups := rfl
@[simp] theorem State.setSeq_fprintWait : (s.setSeq idx q).fprintWait = s.fprintWait := rfl
@[simp] theorem State.setSeq_models : (s.setSeq idx q).models = s.models := rfl
@[simp] theorem State.setSeq_alloys : (s.setSeq idx q).alloys = s.alloys := rfl
@[simp] theorem State.setSeq_engines : (s.setSeq idx q).engines = s.engines := rfl
@[simp] theorem State.setSeq_flash : (s.setSeq idx q).flash = s.flash := rfl
@[simp] theorem State.setSeq_sec : (s.setSeq idx q).sec = s.sec := rfl
@[simp] theorem State.setSeq_serial : (s.setSeq idx q).serial = s.serial := rfl
@[simp] theorem State.setSeq_spdmOut : (s.setSeq idx q).spdmOut = s.spdmOut := rfl
@[simp] theorem State.setSeq_keyOut : (s.setSeq idx q).keyOut = s.keyOut := rfl
@[simp] theorem State.setSeq_pldmOut : (s.setSeq idx q).pldmOut = s.pldmOut := rfl
@[simp] theorem State.setSeq_power : (s.setSeq idx q).power = s.power := rfl
@[simp] theorem State.setSeq_errs : (s.setSeq idx q).errs = s.errs := rfl
@[simp] theorem State.setSeq_dropped : (s.setSeq idx q).dropped = s.dropped := rfl
@[simp] theorem State.setSeq_ceLog2 : (s.setSeq idx q).ceLog2 = s.ceLog2 := rfl
@[simp] theorem State.setSeq_colo : (s.setSeq idx q).colo = s.colo := rfl
end

section
variable (s : State) (part layer : Nat) (x : Temper)
@[simp] theorem State.setTemper_pending : (s.setTemper part layer x).pending = s.pending := rfl
@[simp] theorem State.setTemper_fresh : (s.setTemper part layer x).fresh = s.fresh := rfl
@[simp] theorem State.setTemper_counters : (s.setTemper part layer x).counters = s.counters := rfl
@[simp] theorem State.setTemper_boot : (s.setTemper part layer x).boot = s.boot := rfl
@[simp] theorem State.setTemper_pins : (s.setTemper part layer x).pins = s.pins := rfl
@[simp] theorem State.setTemper_resetCause : (s.setTemper part layer x).resetCause = s.resetCause := rfl
@[simp] theorem State.setTemper_warmResets : (s.setTemper part layer x).warmResets = s.warmResets := rfl
@[simp] theorem State.setTemper_fatal : (s.setTemper part layer x).fatal = s.fatal := rfl
@[simp] theorem State.setTemper_host : (s.setTemper part layer x).host = s.host := rfl
@[simp] theorem State.setTemper_half : (s.setTemper part layer x).half = s.half := rfl
@[simp] theorem State.setTemper_msix : (s.setTemper part layer x).msix = s.msix := rfl
@[simp] theorem State.setTemper_msixOut : (s.setTemper part layer x).msixOut = s.msixOut := rfl
@[simp] theorem State.setTemper_atc : (s.setTemper part layer x).atc = s.atc := rfl
@[simp] theorem State.setTemper_dma : (s.setTemper part layer x).dma = s.dma := rfl
@[simp] theorem State.setTemper_stalled : (s.setTemper part layer x).stalled = s.stalled := rfl
@[simp] theorem State.setTemper_lastDma : (s.setTemper part layer x).lastDma = s.lastDma := rfl
@[simp] theorem State.setTemper_queues : (s.setTemper part layer x).queues = s.queues := rfl
@[simp] theorem State.setTemper_t2cache : (s.setTemper part layer x).t2cache = s.t2cache := rfl
@[simp] theorem State.setTemper_admin : (s.setTemper part layer x).admin = s.admin := rfl
@[simp] theorem State.setTemper_subs : (s.setTemper part layer x).subs = s.subs := rfl
@[simp] theorem State.setTemper_comps : (s.setTemper part layer x).comps = s.comps := rfl
@[simp] theorem State.setTemper_fences : (s.setTemper part layer x).fences = s.fences := rfl
@[simp] theorem State.setTemper_cmds : (s.setTemper part layer x).cmds = s.cmds := rfl
@[simp] theorem State.setTemper_nextCmd : (s.setTemper part layer x).nextCmd = s.nextCmd := rfl
@[simp] theorem State.setTemper_parts : (s.setTemper part layer x).parts = s.parts := rfl
@[simp] theorem State.setTemper_windows : (s.setTemper part layer x).windows = s.windows := rfl
@[simp] theorem State.setTemper_plans : (s.setTemper part layer x).plans = s.plans := rfl
@[simp] theorem State.setTemper_tables : (s.setTemper part layer x).tables = s.tables := rfl
@[simp] theorem State.setTemper_tempers : (s.setTemper part layer x).tempers = NMap.set s.tempers (layerKey part layer) x := rfl
@[simp] theorem State.setTemper_objects : (s.setTemper part layer x).objects = s.objects := rfl
@[simp] theorem State.setTemper_seqs : (s.setTemper part layer x).seqs = s.seqs := rfl
@[simp] theorem State.setTemper_frames : (s.setTemper part layer x).frames = s.frames := rfl
@[simp] theorem State.setTemper_pool : (s.setTemper part layer x).pool = s.pool := rfl
@[simp] theorem State.setTemper_steps : (s.setTemper part layer x).steps = s.steps := rfl
@[simp] theorem State.setTemper_trees : (s.setTemper part layer x).trees = s.trees := rfl
@[simp] theorem State.setTemper_mitusEn : (s.setTemper part layer x).mitusEn = s.mitusEn := rfl
@[simp] theorem State.setTemper_nearGib : (s.setTemper part layer x).nearGib = s.nearGib := rfl
@[simp] theorem State.setTemper_hbm : (s.setTemper part layer x).hbm = s.hbm := rfl
@[simp] theorem State.setTemper_hbmRate : (s.setTemper part layer x).hbmRate = s.hbmRate := rfl
@[simp] theorem State.setTemper_repaired : (s.setTemper part layer x).repaired = s.repaired := rfl
@[simp] theorem State.setTemper_dies : (s.setTemper part layer x).dies = s.dies := rfl
@[simp] theorem State.setTemper_spine : (s.setTemper part layer x).spine = s.spine := rfl
@[simp] theorem State.setTemper_streams : (s.setTemper part layer x).streams = s.streams := rfl
@[simp] theorem State.setTemper_spineOut : (s.setTemper part layer x).spineOut = s.spineOut := rfl
@[simp] theorem State.setTemper_unitOut : (s.setTemper part layer x).unitOut = s.unitOut := rfl
@[simp] theorem State.setTemper_links : (s.setTemper part layer x).links = s.links := rfl
@[simp] theorem State.setTemper_linkOut : (s.setTemper part layer x).linkOut = s.linkOut := rfl
@[simp] theorem State.setTemper_frameOut : (s.setTemper part layer x).frameOut = s.frameOut := rfl
@[simp] theorem State.setTemper_linkIn : (s.setTemper part layer x).linkIn = s.linkIn := rfl
@[simp] theorem State.setTemper_partId : (s.setTemper part layer x).partId = s.partId := rfl
@[simp] theorem State.setTemper_groups : (s.setTemper part layer x).groups = s.groups := rfl
@[simp] theorem State.setTemper_fprintWait : (s.setTemper part layer x).fprintWait = s.fprintWait := rfl
@[simp] theorem State.setTemper_models : (s.setTemper part layer x).models = s.models := rfl
@[simp] theorem State.setTemper_alloys : (s.setTemper part layer x).alloys = s.alloys := rfl
@[simp] theorem State.setTemper_engines : (s.setTemper part layer x).engines = s.engines := rfl
@[simp] theorem State.setTemper_flash : (s.setTemper part layer x).flash = s.flash := rfl
@[simp] theorem State.setTemper_sec : (s.setTemper part layer x).sec = s.sec := rfl
@[simp] theorem State.setTemper_serial : (s.setTemper part layer x).serial = s.serial := rfl
@[simp] theorem State.setTemper_spdmOut : (s.setTemper part layer x).spdmOut = s.spdmOut := rfl
@[simp] theorem State.setTemper_keyOut : (s.setTemper part layer x).keyOut = s.keyOut := rfl
@[simp] theorem State.setTemper_pldmOut : (s.setTemper part layer x).pldmOut = s.pldmOut := rfl
@[simp] theorem State.setTemper_power : (s.setTemper part layer x).power = s.power := rfl
@[simp] theorem State.setTemper_errs : (s.setTemper part layer x).errs = s.errs := rfl
@[simp] theorem State.setTemper_dropped : (s.setTemper part layer x).dropped = s.dropped := rfl
@[simp] theorem State.setTemper_ceLog2 : (s.setTemper part layer x).ceLog2 = s.ceLog2 := rfl
@[simp] theorem State.setTemper_colo : (s.setTemper part layer x).colo = s.colo := rfl
end

section
variable (s : State) (a b : Nat) (x : SpineLink)
@[simp] theorem State.setSpine_pending : (s.setSpine a b x).pending = s.pending := rfl
@[simp] theorem State.setSpine_fresh : (s.setSpine a b x).fresh = s.fresh := rfl
@[simp] theorem State.setSpine_counters : (s.setSpine a b x).counters = s.counters := rfl
@[simp] theorem State.setSpine_boot : (s.setSpine a b x).boot = s.boot := rfl
@[simp] theorem State.setSpine_pins : (s.setSpine a b x).pins = s.pins := rfl
@[simp] theorem State.setSpine_resetCause : (s.setSpine a b x).resetCause = s.resetCause := rfl
@[simp] theorem State.setSpine_warmResets : (s.setSpine a b x).warmResets = s.warmResets := rfl
@[simp] theorem State.setSpine_fatal : (s.setSpine a b x).fatal = s.fatal := rfl
@[simp] theorem State.setSpine_host : (s.setSpine a b x).host = s.host := rfl
@[simp] theorem State.setSpine_half : (s.setSpine a b x).half = s.half := rfl
@[simp] theorem State.setSpine_msix : (s.setSpine a b x).msix = s.msix := rfl
@[simp] theorem State.setSpine_msixOut : (s.setSpine a b x).msixOut = s.msixOut := rfl
@[simp] theorem State.setSpine_atc : (s.setSpine a b x).atc = s.atc := rfl
@[simp] theorem State.setSpine_dma : (s.setSpine a b x).dma = s.dma := rfl
@[simp] theorem State.setSpine_stalled : (s.setSpine a b x).stalled = s.stalled := rfl
@[simp] theorem State.setSpine_lastDma : (s.setSpine a b x).lastDma = s.lastDma := rfl
@[simp] theorem State.setSpine_queues : (s.setSpine a b x).queues = s.queues := rfl
@[simp] theorem State.setSpine_t2cache : (s.setSpine a b x).t2cache = s.t2cache := rfl
@[simp] theorem State.setSpine_admin : (s.setSpine a b x).admin = s.admin := rfl
@[simp] theorem State.setSpine_subs : (s.setSpine a b x).subs = s.subs := rfl
@[simp] theorem State.setSpine_comps : (s.setSpine a b x).comps = s.comps := rfl
@[simp] theorem State.setSpine_fences : (s.setSpine a b x).fences = s.fences := rfl
@[simp] theorem State.setSpine_cmds : (s.setSpine a b x).cmds = s.cmds := rfl
@[simp] theorem State.setSpine_nextCmd : (s.setSpine a b x).nextCmd = s.nextCmd := rfl
@[simp] theorem State.setSpine_parts : (s.setSpine a b x).parts = s.parts := rfl
@[simp] theorem State.setSpine_windows : (s.setSpine a b x).windows = s.windows := rfl
@[simp] theorem State.setSpine_plans : (s.setSpine a b x).plans = s.plans := rfl
@[simp] theorem State.setSpine_tables : (s.setSpine a b x).tables = s.tables := rfl
@[simp] theorem State.setSpine_tempers : (s.setSpine a b x).tempers = s.tempers := rfl
@[simp] theorem State.setSpine_objects : (s.setSpine a b x).objects = s.objects := rfl
@[simp] theorem State.setSpine_seqs : (s.setSpine a b x).seqs = s.seqs := rfl
@[simp] theorem State.setSpine_frames : (s.setSpine a b x).frames = s.frames := rfl
@[simp] theorem State.setSpine_pool : (s.setSpine a b x).pool = s.pool := rfl
@[simp] theorem State.setSpine_steps : (s.setSpine a b x).steps = s.steps := rfl
@[simp] theorem State.setSpine_trees : (s.setSpine a b x).trees = s.trees := rfl
@[simp] theorem State.setSpine_mitusEn : (s.setSpine a b x).mitusEn = s.mitusEn := rfl
@[simp] theorem State.setSpine_nearGib : (s.setSpine a b x).nearGib = s.nearGib := rfl
@[simp] theorem State.setSpine_hbm : (s.setSpine a b x).hbm = s.hbm := rfl
@[simp] theorem State.setSpine_hbmRate : (s.setSpine a b x).hbmRate = s.hbmRate := rfl
@[simp] theorem State.setSpine_repaired : (s.setSpine a b x).repaired = s.repaired := rfl
@[simp] theorem State.setSpine_dies : (s.setSpine a b x).dies = s.dies := rfl
@[simp] theorem State.setSpine_spine : (s.setSpine a b x).spine = NMap.set s.spine (linkKey a b) x := rfl
@[simp] theorem State.setSpine_streams : (s.setSpine a b x).streams = s.streams := rfl
@[simp] theorem State.setSpine_spineOut : (s.setSpine a b x).spineOut = s.spineOut := rfl
@[simp] theorem State.setSpine_unitOut : (s.setSpine a b x).unitOut = s.unitOut := rfl
@[simp] theorem State.setSpine_links : (s.setSpine a b x).links = s.links := rfl
@[simp] theorem State.setSpine_linkOut : (s.setSpine a b x).linkOut = s.linkOut := rfl
@[simp] theorem State.setSpine_frameOut : (s.setSpine a b x).frameOut = s.frameOut := rfl
@[simp] theorem State.setSpine_linkIn : (s.setSpine a b x).linkIn = s.linkIn := rfl
@[simp] theorem State.setSpine_partId : (s.setSpine a b x).partId = s.partId := rfl
@[simp] theorem State.setSpine_groups : (s.setSpine a b x).groups = s.groups := rfl
@[simp] theorem State.setSpine_fprintWait : (s.setSpine a b x).fprintWait = s.fprintWait := rfl
@[simp] theorem State.setSpine_models : (s.setSpine a b x).models = s.models := rfl
@[simp] theorem State.setSpine_alloys : (s.setSpine a b x).alloys = s.alloys := rfl
@[simp] theorem State.setSpine_engines : (s.setSpine a b x).engines = s.engines := rfl
@[simp] theorem State.setSpine_flash : (s.setSpine a b x).flash = s.flash := rfl
@[simp] theorem State.setSpine_sec : (s.setSpine a b x).sec = s.sec := rfl
@[simp] theorem State.setSpine_serial : (s.setSpine a b x).serial = s.serial := rfl
@[simp] theorem State.setSpine_spdmOut : (s.setSpine a b x).spdmOut = s.spdmOut := rfl
@[simp] theorem State.setSpine_keyOut : (s.setSpine a b x).keyOut = s.keyOut := rfl
@[simp] theorem State.setSpine_pldmOut : (s.setSpine a b x).pldmOut = s.pldmOut := rfl
@[simp] theorem State.setSpine_power : (s.setSpine a b x).power = s.power := rfl
@[simp] theorem State.setSpine_errs : (s.setSpine a b x).errs = s.errs := rfl
@[simp] theorem State.setSpine_dropped : (s.setSpine a b x).dropped = s.dropped := rfl
@[simp] theorem State.setSpine_ceLog2 : (s.setSpine a b x).ceLog2 = s.ceLog2 := rfl
@[simp] theorem State.setSpine_colo : (s.setSpine a b x).colo = s.colo := rfl
end

section
variable (s : State) (d p : Nat) (q : Quire)
@[simp] theorem State.setQuire_pending : (s.setQuire d p q).pending = s.pending := rfl
@[simp] theorem State.setQuire_fresh : (s.setQuire d p q).fresh = s.fresh := rfl
@[simp] theorem State.setQuire_counters : (s.setQuire d p q).counters = s.counters := rfl
@[simp] theorem State.setQuire_boot : (s.setQuire d p q).boot = s.boot := rfl
@[simp] theorem State.setQuire_pins : (s.setQuire d p q).pins = s.pins := rfl
@[simp] theorem State.setQuire_resetCause : (s.setQuire d p q).resetCause = s.resetCause := rfl
@[simp] theorem State.setQuire_warmResets : (s.setQuire d p q).warmResets = s.warmResets := rfl
@[simp] theorem State.setQuire_fatal : (s.setQuire d p q).fatal = s.fatal := rfl
@[simp] theorem State.setQuire_host : (s.setQuire d p q).host = s.host := rfl
@[simp] theorem State.setQuire_half : (s.setQuire d p q).half = s.half := rfl
@[simp] theorem State.setQuire_msix : (s.setQuire d p q).msix = s.msix := rfl
@[simp] theorem State.setQuire_msixOut : (s.setQuire d p q).msixOut = s.msixOut := rfl
@[simp] theorem State.setQuire_atc : (s.setQuire d p q).atc = s.atc := rfl
@[simp] theorem State.setQuire_dma : (s.setQuire d p q).dma = s.dma := rfl
@[simp] theorem State.setQuire_stalled : (s.setQuire d p q).stalled = s.stalled := rfl
@[simp] theorem State.setQuire_lastDma : (s.setQuire d p q).lastDma = s.lastDma := rfl
@[simp] theorem State.setQuire_queues : (s.setQuire d p q).queues = s.queues := rfl
@[simp] theorem State.setQuire_t2cache : (s.setQuire d p q).t2cache = s.t2cache := rfl
@[simp] theorem State.setQuire_admin : (s.setQuire d p q).admin = s.admin := rfl
@[simp] theorem State.setQuire_subs : (s.setQuire d p q).subs = s.subs := rfl
@[simp] theorem State.setQuire_comps : (s.setQuire d p q).comps = s.comps := rfl
@[simp] theorem State.setQuire_fences : (s.setQuire d p q).fences = s.fences := rfl
@[simp] theorem State.setQuire_cmds : (s.setQuire d p q).cmds = s.cmds := rfl
@[simp] theorem State.setQuire_nextCmd : (s.setQuire d p q).nextCmd = s.nextCmd := rfl
@[simp] theorem State.setQuire_parts : (s.setQuire d p q).parts = s.parts := rfl
@[simp] theorem State.setQuire_windows : (s.setQuire d p q).windows = s.windows := rfl
@[simp] theorem State.setQuire_plans : (s.setQuire d p q).plans = s.plans := rfl
@[simp] theorem State.setQuire_tables : (s.setQuire d p q).tables = s.tables := rfl
@[simp] theorem State.setQuire_tempers : (s.setQuire d p q).tempers = s.tempers := rfl
@[simp] theorem State.setQuire_objects : (s.setQuire d p q).objects = s.objects := rfl
@[simp] theorem State.setQuire_seqs : (s.setQuire d p q).seqs = s.seqs := rfl
@[simp] theorem State.setQuire_frames : (s.setQuire d p q).frames = s.frames := rfl
@[simp] theorem State.setQuire_pool : (s.setQuire d p q).pool = s.pool := rfl
@[simp] theorem State.setQuire_steps : (s.setQuire d p q).steps = s.steps := rfl
@[simp] theorem State.setQuire_trees : (s.setQuire d p q).trees = s.trees := rfl
@[simp] theorem State.setQuire_mitusEn : (s.setQuire d p q).mitusEn = s.mitusEn := rfl
@[simp] theorem State.setQuire_nearGib : (s.setQuire d p q).nearGib = s.nearGib := rfl
@[simp] theorem State.setQuire_hbm : (s.setQuire d p q).hbm = s.hbm := rfl
@[simp] theorem State.setQuire_hbmRate : (s.setQuire d p q).hbmRate = s.hbmRate := rfl
@[simp] theorem State.setQuire_repaired : (s.setQuire d p q).repaired = s.repaired := rfl
@[simp] theorem State.setQuire_spine : (s.setQuire d p q).spine = s.spine := rfl
@[simp] theorem State.setQuire_streams : (s.setQuire d p q).streams = s.streams := rfl
@[simp] theorem State.setQuire_spineOut : (s.setQuire d p q).spineOut = s.spineOut := rfl
@[simp] theorem State.setQuire_unitOut : (s.setQuire d p q).unitOut = s.unitOut := rfl
@[simp] theorem State.setQuire_links : (s.setQuire d p q).links = s.links := rfl
@[simp] theorem State.setQuire_linkOut : (s.setQuire d p q).linkOut = s.linkOut := rfl
@[simp] theorem State.setQuire_frameOut : (s.setQuire d p q).frameOut = s.frameOut := rfl
@[simp] theorem State.setQuire_linkIn : (s.setQuire d p q).linkIn = s.linkIn := rfl
@[simp] theorem State.setQuire_partId : (s.setQuire d p q).partId = s.partId := rfl
@[simp] theorem State.setQuire_groups : (s.setQuire d p q).groups = s.groups := rfl
@[simp] theorem State.setQuire_fprintWait : (s.setQuire d p q).fprintWait = s.fprintWait := rfl
@[simp] theorem State.setQuire_models : (s.setQuire d p q).models = s.models := rfl
@[simp] theorem State.setQuire_alloys : (s.setQuire d p q).alloys = s.alloys := rfl
@[simp] theorem State.setQuire_engines : (s.setQuire d p q).engines = s.engines := rfl
@[simp] theorem State.setQuire_flash : (s.setQuire d p q).flash = s.flash := rfl
@[simp] theorem State.setQuire_sec : (s.setQuire d p q).sec = s.sec := rfl
@[simp] theorem State.setQuire_serial : (s.setQuire d p q).serial = s.serial := rfl
@[simp] theorem State.setQuire_spdmOut : (s.setQuire d p q).spdmOut = s.spdmOut := rfl
@[simp] theorem State.setQuire_keyOut : (s.setQuire d p q).keyOut = s.keyOut := rfl
@[simp] theorem State.setQuire_pldmOut : (s.setQuire d p q).pldmOut = s.pldmOut := rfl
@[simp] theorem State.setQuire_power : (s.setQuire d p q).power = s.power := rfl
@[simp] theorem State.setQuire_errs : (s.setQuire d p q).errs = s.errs := rfl
@[simp] theorem State.setQuire_dropped : (s.setQuire d p q).dropped = s.dropped := rfl
@[simp] theorem State.setQuire_ceLog2 : (s.setQuire d p q).ceLog2 = s.ceLog2 := rfl
@[simp] theorem State.setQuire_colo : (s.setQuire d p q).colo = s.colo := rfl
end

section
variable (s : State) (off v : Nat)
@[simp] theorem State.lowHalf_pending : (s.lowHalf off v).pending = s.pending := rfl
@[simp] theorem State.lowHalf_fresh : (s.lowHalf off v).fresh = s.fresh := rfl
@[simp] theorem State.lowHalf_counters : (s.lowHalf off v).counters = s.counters := rfl
@[simp] theorem State.lowHalf_boot : (s.lowHalf off v).boot = s.boot := rfl
@[simp] theorem State.lowHalf_pins : (s.lowHalf off v).pins = s.pins := rfl
@[simp] theorem State.lowHalf_resetCause : (s.lowHalf off v).resetCause = s.resetCause := rfl
@[simp] theorem State.lowHalf_warmResets : (s.lowHalf off v).warmResets = s.warmResets := rfl
@[simp] theorem State.lowHalf_fatal : (s.lowHalf off v).fatal = s.fatal := rfl
@[simp] theorem State.lowHalf_host : (s.lowHalf off v).host = s.host := rfl
@[simp] theorem State.lowHalf_half : (s.lowHalf off v).half = NMap.set s.half off v := rfl
@[simp] theorem State.lowHalf_msix : (s.lowHalf off v).msix = s.msix := rfl
@[simp] theorem State.lowHalf_msixOut : (s.lowHalf off v).msixOut = s.msixOut := rfl
@[simp] theorem State.lowHalf_atc : (s.lowHalf off v).atc = s.atc := rfl
@[simp] theorem State.lowHalf_dma : (s.lowHalf off v).dma = s.dma := rfl
@[simp] theorem State.lowHalf_stalled : (s.lowHalf off v).stalled = s.stalled := rfl
@[simp] theorem State.lowHalf_lastDma : (s.lowHalf off v).lastDma = s.lastDma := rfl
@[simp] theorem State.lowHalf_queues : (s.lowHalf off v).queues = s.queues := rfl
@[simp] theorem State.lowHalf_t2cache : (s.lowHalf off v).t2cache = s.t2cache := rfl
@[simp] theorem State.lowHalf_admin : (s.lowHalf off v).admin = s.admin := rfl
@[simp] theorem State.lowHalf_subs : (s.lowHalf off v).subs = s.subs := rfl
@[simp] theorem State.lowHalf_comps : (s.lowHalf off v).comps = s.comps := rfl
@[simp] theorem State.lowHalf_fences : (s.lowHalf off v).fences = s.fences := rfl
@[simp] theorem State.lowHalf_cmds : (s.lowHalf off v).cmds = s.cmds := rfl
@[simp] theorem State.lowHalf_nextCmd : (s.lowHalf off v).nextCmd = s.nextCmd := rfl
@[simp] theorem State.lowHalf_parts : (s.lowHalf off v).parts = s.parts := rfl
@[simp] theorem State.lowHalf_windows : (s.lowHalf off v).windows = s.windows := rfl
@[simp] theorem State.lowHalf_plans : (s.lowHalf off v).plans = s.plans := rfl
@[simp] theorem State.lowHalf_tables : (s.lowHalf off v).tables = s.tables := rfl
@[simp] theorem State.lowHalf_tempers : (s.lowHalf off v).tempers = s.tempers := rfl
@[simp] theorem State.lowHalf_objects : (s.lowHalf off v).objects = s.objects := rfl
@[simp] theorem State.lowHalf_seqs : (s.lowHalf off v).seqs = s.seqs := rfl
@[simp] theorem State.lowHalf_frames : (s.lowHalf off v).frames = s.frames := rfl
@[simp] theorem State.lowHalf_pool : (s.lowHalf off v).pool = s.pool := rfl
@[simp] theorem State.lowHalf_steps : (s.lowHalf off v).steps = s.steps := rfl
@[simp] theorem State.lowHalf_trees : (s.lowHalf off v).trees = s.trees := rfl
@[simp] theorem State.lowHalf_mitusEn : (s.lowHalf off v).mitusEn = s.mitusEn := rfl
@[simp] theorem State.lowHalf_nearGib : (s.lowHalf off v).nearGib = s.nearGib := rfl
@[simp] theorem State.lowHalf_hbm : (s.lowHalf off v).hbm = s.hbm := rfl
@[simp] theorem State.lowHalf_hbmRate : (s.lowHalf off v).hbmRate = s.hbmRate := rfl
@[simp] theorem State.lowHalf_repaired : (s.lowHalf off v).repaired = s.repaired := rfl
@[simp] theorem State.lowHalf_dies : (s.lowHalf off v).dies = s.dies := rfl
@[simp] theorem State.lowHalf_spine : (s.lowHalf off v).spine = s.spine := rfl
@[simp] theorem State.lowHalf_streams : (s.lowHalf off v).streams = s.streams := rfl
@[simp] theorem State.lowHalf_spineOut : (s.lowHalf off v).spineOut = s.spineOut := rfl
@[simp] theorem State.lowHalf_unitOut : (s.lowHalf off v).unitOut = s.unitOut := rfl
@[simp] theorem State.lowHalf_links : (s.lowHalf off v).links = s.links := rfl
@[simp] theorem State.lowHalf_linkOut : (s.lowHalf off v).linkOut = s.linkOut := rfl
@[simp] theorem State.lowHalf_frameOut : (s.lowHalf off v).frameOut = s.frameOut := rfl
@[simp] theorem State.lowHalf_linkIn : (s.lowHalf off v).linkIn = s.linkIn := rfl
@[simp] theorem State.lowHalf_partId : (s.lowHalf off v).partId = s.partId := rfl
@[simp] theorem State.lowHalf_groups : (s.lowHalf off v).groups = s.groups := rfl
@[simp] theorem State.lowHalf_fprintWait : (s.lowHalf off v).fprintWait = s.fprintWait := rfl
@[simp] theorem State.lowHalf_models : (s.lowHalf off v).models = s.models := rfl
@[simp] theorem State.lowHalf_alloys : (s.lowHalf off v).alloys = s.alloys := rfl
@[simp] theorem State.lowHalf_engines : (s.lowHalf off v).engines = s.engines := rfl
@[simp] theorem State.lowHalf_flash : (s.lowHalf off v).flash = s.flash := rfl
@[simp] theorem State.lowHalf_sec : (s.lowHalf off v).sec = s.sec := rfl
@[simp] theorem State.lowHalf_serial : (s.lowHalf off v).serial = s.serial := rfl
@[simp] theorem State.lowHalf_spdmOut : (s.lowHalf off v).spdmOut = s.spdmOut := rfl
@[simp] theorem State.lowHalf_keyOut : (s.lowHalf off v).keyOut = s.keyOut := rfl
@[simp] theorem State.lowHalf_pldmOut : (s.lowHalf off v).pldmOut = s.pldmOut := rfl
@[simp] theorem State.lowHalf_power : (s.lowHalf off v).power = s.power := rfl
@[simp] theorem State.lowHalf_errs : (s.lowHalf off v).errs = s.errs := rfl
@[simp] theorem State.lowHalf_dropped : (s.lowHalf off v).dropped = s.dropped := rfl
@[simp] theorem State.lowHalf_ceLog2 : (s.lowHalf off v).ceLog2 = s.ceLog2 := rfl
@[simp] theorem State.lowHalf_colo : (s.lowHalf off v).colo = s.colo := rfl
end

section
variable (s : State) (p : Nat) (f : Part → Part)
@[simp] theorem State.modPart_pending : (s.modPart p f).pending = s.pending := rfl
@[simp] theorem State.modPart_fresh : (s.modPart p f).fresh = s.fresh := rfl
@[simp] theorem State.modPart_counters : (s.modPart p f).counters = s.counters := rfl
@[simp] theorem State.modPart_boot : (s.modPart p f).boot = s.boot := rfl
@[simp] theorem State.modPart_pins : (s.modPart p f).pins = s.pins := rfl
@[simp] theorem State.modPart_resetCause : (s.modPart p f).resetCause = s.resetCause := rfl
@[simp] theorem State.modPart_warmResets : (s.modPart p f).warmResets = s.warmResets := rfl
@[simp] theorem State.modPart_fatal : (s.modPart p f).fatal = s.fatal := rfl
@[simp] theorem State.modPart_host : (s.modPart p f).host = s.host := rfl
@[simp] theorem State.modPart_half : (s.modPart p f).half = s.half := rfl
@[simp] theorem State.modPart_msix : (s.modPart p f).msix = s.msix := rfl
@[simp] theorem State.modPart_msixOut : (s.modPart p f).msixOut = s.msixOut := rfl
@[simp] theorem State.modPart_atc : (s.modPart p f).atc = s.atc := rfl
@[simp] theorem State.modPart_dma : (s.modPart p f).dma = s.dma := rfl
@[simp] theorem State.modPart_stalled : (s.modPart p f).stalled = s.stalled := rfl
@[simp] theorem State.modPart_lastDma : (s.modPart p f).lastDma = s.lastDma := rfl
@[simp] theorem State.modPart_queues : (s.modPart p f).queues = s.queues := rfl
@[simp] theorem State.modPart_t2cache : (s.modPart p f).t2cache = s.t2cache := rfl
@[simp] theorem State.modPart_admin : (s.modPart p f).admin = s.admin := rfl
@[simp] theorem State.modPart_subs : (s.modPart p f).subs = s.subs := rfl
@[simp] theorem State.modPart_comps : (s.modPart p f).comps = s.comps := rfl
@[simp] theorem State.modPart_fences : (s.modPart p f).fences = s.fences := rfl
@[simp] theorem State.modPart_cmds : (s.modPart p f).cmds = s.cmds := rfl
@[simp] theorem State.modPart_nextCmd : (s.modPart p f).nextCmd = s.nextCmd := rfl
@[simp] theorem State.modPart_parts : (s.modPart p f).parts = NMap.modify s.parts p f := rfl
@[simp] theorem State.modPart_windows : (s.modPart p f).windows = s.windows := rfl
@[simp] theorem State.modPart_plans : (s.modPart p f).plans = s.plans := rfl
@[simp] theorem State.modPart_tables : (s.modPart p f).tables = s.tables := rfl
@[simp] theorem State.modPart_tempers : (s.modPart p f).tempers = s.tempers := rfl
@[simp] theorem State.modPart_objects : (s.modPart p f).objects = s.objects := rfl
@[simp] theorem State.modPart_seqs : (s.modPart p f).seqs = s.seqs := rfl
@[simp] theorem State.modPart_frames : (s.modPart p f).frames = s.frames := rfl
@[simp] theorem State.modPart_pool : (s.modPart p f).pool = s.pool := rfl
@[simp] theorem State.modPart_steps : (s.modPart p f).steps = s.steps := rfl
@[simp] theorem State.modPart_trees : (s.modPart p f).trees = s.trees := rfl
@[simp] theorem State.modPart_mitusEn : (s.modPart p f).mitusEn = s.mitusEn := rfl
@[simp] theorem State.modPart_nearGib : (s.modPart p f).nearGib = s.nearGib := rfl
@[simp] theorem State.modPart_hbm : (s.modPart p f).hbm = s.hbm := rfl
@[simp] theorem State.modPart_hbmRate : (s.modPart p f).hbmRate = s.hbmRate := rfl
@[simp] theorem State.modPart_repaired : (s.modPart p f).repaired = s.repaired := rfl
@[simp] theorem State.modPart_dies : (s.modPart p f).dies = s.dies := rfl
@[simp] theorem State.modPart_spine : (s.modPart p f).spine = s.spine := rfl
@[simp] theorem State.modPart_streams : (s.modPart p f).streams = s.streams := rfl
@[simp] theorem State.modPart_spineOut : (s.modPart p f).spineOut = s.spineOut := rfl
@[simp] theorem State.modPart_unitOut : (s.modPart p f).unitOut = s.unitOut := rfl
@[simp] theorem State.modPart_links : (s.modPart p f).links = s.links := rfl
@[simp] theorem State.modPart_linkOut : (s.modPart p f).linkOut = s.linkOut := rfl
@[simp] theorem State.modPart_frameOut : (s.modPart p f).frameOut = s.frameOut := rfl
@[simp] theorem State.modPart_linkIn : (s.modPart p f).linkIn = s.linkIn := rfl
@[simp] theorem State.modPart_partId : (s.modPart p f).partId = s.partId := rfl
@[simp] theorem State.modPart_groups : (s.modPart p f).groups = s.groups := rfl
@[simp] theorem State.modPart_fprintWait : (s.modPart p f).fprintWait = s.fprintWait := rfl
@[simp] theorem State.modPart_models : (s.modPart p f).models = s.models := rfl
@[simp] theorem State.modPart_alloys : (s.modPart p f).alloys = s.alloys := rfl
@[simp] theorem State.modPart_engines : (s.modPart p f).engines = s.engines := rfl
@[simp] theorem State.modPart_flash : (s.modPart p f).flash = s.flash := rfl
@[simp] theorem State.modPart_sec : (s.modPart p f).sec = s.sec := rfl
@[simp] theorem State.modPart_serial : (s.modPart p f).serial = s.serial := rfl
@[simp] theorem State.modPart_spdmOut : (s.modPart p f).spdmOut = s.spdmOut := rfl
@[simp] theorem State.modPart_keyOut : (s.modPart p f).keyOut = s.keyOut := rfl
@[simp] theorem State.modPart_pldmOut : (s.modPart p f).pldmOut = s.pldmOut := rfl
@[simp] theorem State.modPart_power : (s.modPart p f).power = s.power := rfl
@[simp] theorem State.modPart_errs : (s.modPart p f).errs = s.errs := rfl
@[simp] theorem State.modPart_dropped : (s.modPart p f).dropped = s.dropped := rfl
@[simp] theorem State.modPart_ceLog2 : (s.modPart p f).ceLog2 = s.ceLog2 := rfl
@[simp] theorem State.modPart_colo : (s.modPart p f).colo = s.colo := rfl
end

section
variable (s : State) (link : Nat) (m : Msg)
@[simp] theorem State.deliver_pending : (s.deliver link m).pending = s.pending := rfl
@[simp] theorem State.deliver_fresh : (s.deliver link m).fresh = s.fresh := rfl
@[simp] theorem State.deliver_counters : (s.deliver link m).counters = s.counters := rfl
@[simp] theorem State.deliver_boot : (s.deliver link m).boot = s.boot := rfl
@[simp] theorem State.deliver_pins : (s.deliver link m).pins = s.pins := rfl
@[simp] theorem State.deliver_resetCause : (s.deliver link m).resetCause = s.resetCause := rfl
@[simp] theorem State.deliver_warmResets : (s.deliver link m).warmResets = s.warmResets := rfl
@[simp] theorem State.deliver_fatal : (s.deliver link m).fatal = s.fatal := rfl
@[simp] theorem State.deliver_host : (s.deliver link m).host = s.host := rfl
@[simp] theorem State.deliver_half : (s.deliver link m).half = s.half := rfl
@[simp] theorem State.deliver_msix : (s.deliver link m).msix = s.msix := rfl
@[simp] theorem State.deliver_msixOut : (s.deliver link m).msixOut = s.msixOut := rfl
@[simp] theorem State.deliver_atc : (s.deliver link m).atc = s.atc := rfl
@[simp] theorem State.deliver_dma : (s.deliver link m).dma = s.dma := rfl
@[simp] theorem State.deliver_stalled : (s.deliver link m).stalled = s.stalled := rfl
@[simp] theorem State.deliver_lastDma : (s.deliver link m).lastDma = s.lastDma := rfl
@[simp] theorem State.deliver_queues : (s.deliver link m).queues = s.queues := rfl
@[simp] theorem State.deliver_t2cache : (s.deliver link m).t2cache = s.t2cache := rfl
@[simp] theorem State.deliver_admin : (s.deliver link m).admin = s.admin := rfl
@[simp] theorem State.deliver_subs : (s.deliver link m).subs = s.subs := rfl
@[simp] theorem State.deliver_comps : (s.deliver link m).comps = s.comps := rfl
@[simp] theorem State.deliver_fences : (s.deliver link m).fences = s.fences := rfl
@[simp] theorem State.deliver_cmds : (s.deliver link m).cmds = s.cmds := rfl
@[simp] theorem State.deliver_nextCmd : (s.deliver link m).nextCmd = s.nextCmd := rfl
@[simp] theorem State.deliver_parts : (s.deliver link m).parts = s.parts := rfl
@[simp] theorem State.deliver_windows : (s.deliver link m).windows = s.windows := rfl
@[simp] theorem State.deliver_plans : (s.deliver link m).plans = s.plans := rfl
@[simp] theorem State.deliver_tables : (s.deliver link m).tables = s.tables := rfl
@[simp] theorem State.deliver_tempers : (s.deliver link m).tempers = s.tempers := rfl
@[simp] theorem State.deliver_objects : (s.deliver link m).objects = s.objects := rfl
@[simp] theorem State.deliver_seqs : (s.deliver link m).seqs = s.seqs := rfl
@[simp] theorem State.deliver_frames : (s.deliver link m).frames = s.frames := rfl
@[simp] theorem State.deliver_pool : (s.deliver link m).pool = s.pool := rfl
@[simp] theorem State.deliver_steps : (s.deliver link m).steps = s.steps := rfl
@[simp] theorem State.deliver_trees : (s.deliver link m).trees = s.trees := rfl
@[simp] theorem State.deliver_mitusEn : (s.deliver link m).mitusEn = s.mitusEn := rfl
@[simp] theorem State.deliver_nearGib : (s.deliver link m).nearGib = s.nearGib := rfl
@[simp] theorem State.deliver_hbm : (s.deliver link m).hbm = s.hbm := rfl
@[simp] theorem State.deliver_hbmRate : (s.deliver link m).hbmRate = s.hbmRate := rfl
@[simp] theorem State.deliver_repaired : (s.deliver link m).repaired = s.repaired := rfl
@[simp] theorem State.deliver_dies : (s.deliver link m).dies = s.dies := rfl
@[simp] theorem State.deliver_spine : (s.deliver link m).spine = s.spine := rfl
@[simp] theorem State.deliver_streams : (s.deliver link m).streams = s.streams := rfl
@[simp] theorem State.deliver_spineOut : (s.deliver link m).spineOut = s.spineOut := rfl
@[simp] theorem State.deliver_unitOut : (s.deliver link m).unitOut = s.unitOut := rfl
@[simp] theorem State.deliver_links : (s.deliver link m).links = s.links := rfl
@[simp] theorem State.deliver_linkOut : (s.deliver link m).linkOut = s.linkOut := rfl
@[simp] theorem State.deliver_frameOut : (s.deliver link m).frameOut = s.frameOut := rfl
@[simp] theorem State.deliver_linkIn : (s.deliver link m).linkIn = s.linkIn.eraseP (fun e => e.1 == link && e.2.2 == m) := rfl
@[simp] theorem State.deliver_partId : (s.deliver link m).partId = s.partId := rfl
@[simp] theorem State.deliver_groups : (s.deliver link m).groups = s.groups := rfl
@[simp] theorem State.deliver_fprintWait : (s.deliver link m).fprintWait = s.fprintWait := rfl
@[simp] theorem State.deliver_models : (s.deliver link m).models = s.models := rfl
@[simp] theorem State.deliver_alloys : (s.deliver link m).alloys = s.alloys := rfl
@[simp] theorem State.deliver_engines : (s.deliver link m).engines = s.engines := rfl
@[simp] theorem State.deliver_flash : (s.deliver link m).flash = s.flash := rfl
@[simp] theorem State.deliver_sec : (s.deliver link m).sec = s.sec := rfl
@[simp] theorem State.deliver_serial : (s.deliver link m).serial = s.serial := rfl
@[simp] theorem State.deliver_spdmOut : (s.deliver link m).spdmOut = s.spdmOut := rfl
@[simp] theorem State.deliver_keyOut : (s.deliver link m).keyOut = s.keyOut := rfl
@[simp] theorem State.deliver_pldmOut : (s.deliver link m).pldmOut = s.pldmOut := rfl
@[simp] theorem State.deliver_power : (s.deliver link m).power = s.power := rfl
@[simp] theorem State.deliver_errs : (s.deliver link m).errs = s.errs := rfl
@[simp] theorem State.deliver_dropped : (s.deliver link m).dropped = s.dropped := rfl
@[simp] theorem State.deliver_ceLog2 : (s.deliver link m).ceLog2 = s.ceLog2 := rfl
@[simp] theorem State.deliver_colo : (s.deliver link m).colo = s.colo := rfl
end

end Sys2Proof.Machine
end

