-- ==== Sys2Proof/Laws/Ops.lean ====
section
/-! SUPPORT. The finite maps and the lists by die, link and stack: what is read after each update; and what the shared operations keep of the state. -/

namespace Sys2Proof

/-! ### Finite maps -/

@[simp] theorem NMap.get?_nil {α : Type} (k : Nat) : NMap.get? ([] : NMap α) k = none := rfl

theorem NMap.get?_cons {α : Type} (p : Nat × α) (m : NMap α) (k : Nat) :
    NMap.get? (p :: m) k = if p.1 = k then some p.2 else NMap.get? m k := by
  unfold NMap.get?
  rw [List.find?_cons]
  by_cases h : p.1 = k
  · simp [h]
  · rw [if_neg h, show (p.1 == k) = false by simpa using h]

@[simp] theorem NMap.get?_set_same {α : Type} (m : NMap α) (k : Nat) (v : α) : NMap.get? (NMap.set m k v) k = some v := by
  induction m with
  | nil => simp [NMap.set, NMap.get?_cons]
  | cons p m ih =>
    simp only [NMap.set]
    split
    · simp [NMap.get?_cons]
    · split
      · simp [NMap.get?_cons]
      · rw [NMap.get?_cons, if_neg (fun h => by simp_all), ih]

theorem NMap.get?_set_ne {α : Type} (m : NMap α) {k j : Nat} (v : α) (h : j ≠ k) : NMap.get? (NMap.set m k v) j = NMap.get? m j := by
  induction m with
  | nil => simp [NMap.set, NMap.get?_cons, Ne.symm h]
  | cons p m ih =>
    simp only [NMap.set]
    split
    · simp [NMap.get?_cons, Ne.symm h]
    · split
      · subst_vars; simp [NMap.get?_cons, Ne.symm h]
      · rw [NMap.get?_cons, NMap.get?_cons, ih]

@[simp] theorem NMap.get?_erase_same {α : Type} (m : NMap α) (k : Nat) : NMap.get? (NMap.erase m k) k = none := by
  simp only [NMap.get?, NMap.erase, Option.map_eq_none_iff, List.find?_eq_none]
  intro x hx
  simpa using (List.mem_filter.mp hx).2

theorem NMap.get?_erase_ne {α : Type} (m : NMap α) {k j : Nat} (h : j ≠ k) : NMap.get? (NMap.erase m k) j = NMap.get? m j := by
  induction m with
  | nil => rfl
  | cons p m ih =>
    by_cases hp : p.1 = k
    · have : NMap.erase (p :: m) k = NMap.erase m k := by simp [NMap.erase, hp]
      rw [this, ih, NMap.get?_cons, if_neg (fun e => h (e.symm.trans hp))]
    · have : NMap.erase (p :: m) k = p :: NMap.erase m k := by simp [NMap.erase, hp]
      rw [this, NMap.get?_cons, NMap.get?_cons, ih]

theorem NMap.get?_modify {α : Type} (m : NMap α) (k j : Nat) (f : α → α) :
    NMap.get? (NMap.modify m k f) j = if j = k then (NMap.get? m j).map f else NMap.get? m j := by
  induction m with
  | nil => simp [NMap.modify]
  | cons p m ih =>
    have : NMap.modify (p :: m) k f = (if p.1 = k then (p.1, f p.2) else p) :: NMap.modify m k f := rfl
    rw [this, NMap.get?_cons, NMap.get?_cons, ih]
    by_cases hj : j = k
    · subst hj; by_cases hp : p.1 = j <;> simp [hp]
    · by_cases hp : p.1 = k
      · have : k ≠ j := Ne.symm hj
        simp [hp, hj, this]
      · simp [hp, hj]

@[simp] theorem NMap.getD_set_same {α : Type} (m : NMap α) (k : Nat) (v d : α) : NMap.getD (NMap.set m k v) k d = v := by
  simp [NMap.getD]

theorem NMap.getD_set_ne {α : Type} (m : NMap α) {k j : Nat} (v d : α) (h : j ≠ k) : NMap.getD (NMap.set m k v) j d = NMap.getD m j d := by
  simp [NMap.getD, NMap.get?_set_ne m v h]

end Sys2Proof

namespace Sys2Proof.Machine

/-! ### Lists by die, link, stack and engine -/

theorem getD_set_same {α : Type} (l : List α) (i : Nat) (x d : α) (h : i < l.length) : (l.set i x).getD i d = x := by
  simp [List.getD_eq_getElem?_getD, h]

theorem getD_set_ne {α : Type} (l : List α) {i j : Nat} (x d : α) (h : j ≠ i) : (l.set i x).getD j d = l.getD j d := by
  simp [List.getD_eq_getElem?_getD, List.getElem?_set_ne (Ne.symm h)]

variable (s : State)

theorem State.dieAt_setDie_same (d : Nat) (x : DieState) (h : d < s.dies.length) : (s.setDie d x).dieAt d = x := getD_set_same _ _ _ _ h
theorem State.dieAt_setDie_ne {d e : Nat} (x : DieState) (h : e ≠ d) : (s.setDie d x).dieAt e = s.dieAt e := getD_set_ne _ _ _ h
theorem State.linkAt_setLink_same (l : Nat) (x : Link) (h : l < s.links.length) : (s.setLink l x).linkAt l = x := getD_set_same _ _ _ _ h
theorem State.linkAt_setLink_ne {l k : Nat} (x : Link) (h : k ≠ l) : (s.setLink l x).linkAt k = s.linkAt k := getD_set_ne _ _ _ h
theorem State.stackAt_setStack_same (i : Nat) (x : Stack) (h : i < s.hbm.length) : (s.setStack i x).stackAt i = x := getD_set_same _ _ _ _ h
theorem State.stackAt_setStack_ne {i j : Nat} (x : Stack) (h : j ≠ i) : (s.setStack i x).stackAt j = s.stackAt j := getD_set_ne _ _ _ h
theorem State.engineAt_setEngine_same (d : Nat) (x : Engine) (h : d < s.engines.length) : (s.setEngine d x).engineAt d = x := getD_set_same _ _ _ _ h
theorem State.engineAt_setEngine_ne {d e : Nat} (x : Engine) (h : e ≠ d) : (s.setEngine d x).engineAt e = s.engineAt e := getD_set_ne _ _ _ h
theorem State.diePower_setDiePower_same (d : Nat) (x : DiePower) (h : d < s.power.dies.length) : (s.setDiePower d x).diePower d = x := getD_set_same _ _ _ _ h
theorem State.diePower_setDiePower_ne {d e : Nat} (x : DiePower) (h : e ≠ d) : (s.setDiePower d x).diePower e = s.diePower e := getD_set_ne _ _ _ h
theorem State.framesOf_setFrames_same (d : Nat) (x : NMap Frame) (h : d < s.frames.length) : (s.setFrames d x).framesOf d = x := getD_set_same _ _ _ _ h
theorem State.framesOf_setFrames_ne {d e : Nat} (x : NMap Frame) (h : e ≠ d) : (s.setFrames d x).framesOf e = s.framesOf e := getD_set_ne _ _ _ h
theorem State.errsOf_setErrs_same (d : Nat) (x : NMap ErrRec) (h : d < s.errs.length) : (s.setErrs d x).errsOf d = x := getD_set_same _ _ _ _ h
theorem State.errsOf_setErrs_ne {d e : Nat} (x : NMap ErrRec) (h : e ≠ d) : (s.setErrs d x).errsOf e = s.errsOf e := getD_set_ne _ _ _ h

/-! ### Commands, rings and fences -/

@[simp] theorem State.cmd?_setCmd_same (id : Nat) (c : Cmd) : (s.setCmd id c).cmd? id = some c := NMap.get?_set_same _ _ _
theorem State.cmd?_setCmd_ne {id j : Nat} (c : Cmd) (h : j ≠ id) : (s.setCmd id c).cmd? j = s.cmd? j := NMap.get?_set_ne _ _ h
theorem State.sub?_setSub_same (o : Nat) {r : Nat} (x : SubRing) (h : r < 1024) : (s.setSub o r x).sub? o r = some x :=
  (if_pos h).trans (NMap.get?_set_same _ _ _)
theorem State.comp?_setComp_same (o : Nat) {q : Nat} (x : CompRing) (h : q < 1024) : (s.setComp o q x).comp? o q = some x :=
  (if_pos h).trans (NMap.get?_set_same _ _ _)

end Sys2Proof.Machine
end

