-- ==== Sys2Proof/Laws/Memory.lean ====
section
/-! SUPPORT. Byte memories: the canonical form, that every operation keeps it, and reading after writing. -/

namespace Sys2Proof.Machine

/-! ### The canonical form -/

/-- The canonical form as a relation on the whole list. -/
theorem Mem.wf_iff (m : Mem) : Mem.wf m = true ↔ m.Pairwise (fun c d => c.1 < d.1) ∧ ∀ c ∈ m, c.2 ≠ 0 := by
  induction m with
  | nil => simp [Mem.wf]
  | cons c m ih =>
    cases m with
    | nil => simp [Mem.wf]
    | cons d m =>
      simp only [Mem.wf, Bool.and_eq_true, bne_iff_ne, decide_eq_true_eq, ih, List.pairwise_cons, List.mem_cons]
      constructor
      · rintro ⟨⟨hc, hcd⟩, ⟨hd, hm⟩, hz⟩
        refine ⟨⟨?_, hd, hm⟩, ?_⟩
        · rintro x (rfl | hx)
          · exact hcd
          · exact lt_trans hcd (hd x hx)
        · rintro x (rfl | hx)
          · exact hc
          · exact hz x hx
      · rintro ⟨⟨hcd, hd, hm⟩, hz⟩
        exact ⟨⟨hz c (.inl rfl), hcd d (.inl rfl)⟩, ⟨hd, hm⟩, fun x hx => hz x (.inr hx)⟩

theorem Mem.wf_filter {m : Mem} (p : Host.Cell → Bool) (h : Mem.wf m = true) : Mem.wf (m.filter p) = true := by
  rw [Mem.wf_iff] at *
  exact ⟨h.1.filter p, fun c hc => h.2 c (List.mem_filter.1 hc).1⟩

theorem Mem.mem_cellsOf {a : Nat} {bs : Bytes} {c : Host.Cell} (h : c ∈ Mem.cellsOf a bs) :
    a ≤ c.1 ∧ c.1 < a + bs.length ∧ c.2 ≠ 0 := by
  induction bs generalizing a with
  | nil => simp [Mem.cellsOf] at h
  | cons b bs ih =>
    simp only [Mem.cellsOf] at h
    split at h
    · obtain ⟨h1, h2, h3⟩ := ih h
      simp only [List.length_cons]
      exact ⟨by omega, by omega, h3⟩
    · rcases List.mem_cons.1 h with rfl | h
      · simp_all
      · obtain ⟨h1, h2, h3⟩ := ih h
        simp only [List.length_cons]
        exact ⟨by omega, by omega, h3⟩

theorem Mem.wf_cellsOf (a : Nat) (bs : Bytes) : Mem.wf (Mem.cellsOf a bs) = true := by
  rw [Mem.wf_iff]
  refine ⟨?_, fun c hc => (Mem.mem_cellsOf hc).2.2⟩
  induction bs generalizing a with
  | nil => simp [Mem.cellsOf]
  | cons b bs ih =>
    simp only [Mem.cellsOf]
    split
    · exact ih _
    · exact List.pairwise_cons.2 ⟨fun d hd => by have := Mem.mem_cellsOf hd; simp only; omega, ih _⟩

/-- Writing a run of bytes keeps the canonical form. -/
theorem Mem.wf_writeRange {m : Mem} (a : Nat) (bs : Bytes) (h : Mem.wf m = true) : Mem.wf (Mem.writeRange m a bs) = true := by
  have h1 := Mem.wf_filter (fun c => decide (c.1 < a)) h
  have h2 := Mem.wf_cellsOf a bs
  have h3 := Mem.wf_filter (fun c => decide (a + bs.length ≤ c.1)) h
  rw [Mem.wf_iff] at h1 h2 h3
  rw [Mem.writeRange, Mem.wf_iff]
  refine ⟨?_, ?_⟩
  · rw [List.pairwise_append, List.pairwise_append]
    refine ⟨⟨h1.1, h2.1, ?_⟩, h3.1, ?_⟩
    · intro c hc d hd
      have := Mem.mem_cellsOf hd
      simp only [List.mem_filter, decide_eq_true_eq] at hc
      omega
    · intro c hc d hd
      simp only [List.mem_filter, decide_eq_true_eq] at hd
      rcases List.mem_append.1 hc with hc | hc
      · simp only [List.mem_filter, decide_eq_true_eq] at hc; omega
      · have := Mem.mem_cellsOf hc; omega
  · intro c hc
    rcases List.mem_append.1 hc with hc | hc
    · rcases List.mem_append.1 hc with hc | hc
      · exact h1.2 c hc
      · exact h2.2 c hc
    · exact h3.2 c hc

/-- Clearing a run of bytes keeps the canonical form. -/
theorem Mem.wf_clearRange {m : Mem} (a n : Nat) (h : Mem.wf m = true) : Mem.wf (Mem.clearRange m a n) = true :=
  Mem.wf_filter _ h

/-- Storing cells one by one keeps the canonical form. -/
theorem Mem.wf_stores {m : Mem} (cs : List Host.Cell) (h : Mem.wf m = true) : Mem.wf (Mem.stores m cs) = true := by
  induction cs generalizing m with
  | nil => exact h
  | cons c cs ih => exact ih (Mem.wf_writeRange _ _ h)

/-! ### Reading after writing -/

theorem Mem.read_append (m n : Mem) (a : Nat) (h : ∀ c ∈ m, c.1 ≠ a) : Mem.read (m ++ n) a = Mem.read n a := by
  unfold Mem.read
  rw [List.find?_append, List.find?_eq_none.2 (fun c hc => by simpa using h c hc)]
  rfl

theorem Mem.read_append_left (m n : Mem) (a : Nat) (h : ∀ c ∈ n, c.1 ≠ a) : Mem.read (m ++ n) a = Mem.read m a := by
  have e : List.find? (fun c => c.1 == a) n = none := List.find?_eq_none.2 (fun c hc => by simpa using h c hc)
  unfold Mem.read
  rw [List.find?_append, e]
  simp

theorem Mem.read_filter (m : Mem) (p : Host.Cell → Bool) (a : Nat) (h : ∀ b, p (a, b) = true) : Mem.read (m.filter p) a = Mem.read m a := by
  unfold Mem.read
  congr 2
  induction m with
  | nil => rfl
  | cons c m ih =>
    by_cases hc : c.1 = a
    · have : p c = true := by obtain ⟨x, y⟩ := c; simp only at hc; subst hc; exact h y
      rw [List.filter_cons_of_pos this, List.find?_cons_of_pos (by simpa using hc), List.find?_cons_of_pos (by simpa using hc)]
    · by_cases hp : p c = true
      · rw [List.filter_cons_of_pos hp, List.find?_cons_of_neg (by simpa using hc), List.find?_cons_of_neg (by simpa using hc), ih]
      · rw [List.filter_cons_of_neg hp, List.find?_cons_of_neg (by simpa using hc), ih]

theorem Mem.read_cellsOf (a : Nat) (bs : Bytes) (i : Nat) (h : i < bs.length) : Mem.read (Mem.cellsOf a bs) (a + i) = bs.getD i 0 := by
  induction bs generalizing a i with
  | nil => simp at h
  | cons b bs ih =>
    simp only [Mem.cellsOf]
    cases i with
    | zero =>
      split
      · next hb =>
        have : ∀ c ∈ Mem.cellsOf (a + 1) bs, c.1 ≠ a := fun c hc => by have := Mem.mem_cellsOf hc; omega
        unfold Mem.read
        rw [List.find?_eq_none.2 (fun c hc => by simpa using this c hc)]
        simp [hb]
      · simp [Mem.read]
    | succ i =>
      have hi : i < bs.length := by simpa using h
      have e : a + (i + 1) = a + 1 + i := by omega
      rw [e]
      split
      · rw [ih (a + 1) i hi]; simp
      · have := Mem.read_append [(a, b)] (Mem.cellsOf (a + 1) bs) (a + 1 + i) (by simp; omega)
        rw [List.singleton_append] at this
        rw [this, ih (a + 1) i hi]; simp

/-- A byte inside the run written reads as written. -/
theorem Mem.read_writeRange_in (m : Mem) (a : Nat) (bs : Bytes) (i : Nat) (h : i < bs.length) :
    Mem.read (Mem.writeRange m a bs) (a + i) = bs.getD i 0 := by
  rw [Mem.writeRange, List.append_assoc,
    Mem.read_append _ _ _ (fun c hc => by simp only [List.mem_filter, decide_eq_true_eq] at hc; omega),
    Mem.read_append_left _ _ _ (fun c hc => by simp only [List.mem_filter, decide_eq_true_eq] at hc; omega),
    Mem.read_cellsOf _ _ _ h]

/-- A byte outside the run written reads as before. -/
theorem Mem.read_writeRange_out (m : Mem) (a : Nat) (bs : Bytes) (x : Nat) (h : x < a ∨ a + bs.length ≤ x) :
    Mem.read (Mem.writeRange m a bs) x = Mem.read m x := by
  rw [Mem.writeRange]
  rcases h with h | h
  · rw [Mem.read_append_left _ _ _ (fun c hc => by simp only [List.mem_filter, decide_eq_true_eq] at hc; omega),
      Mem.read_append_left _ _ _ (fun c hc => by have := Mem.mem_cellsOf hc; omega),
      Mem.read_filter _ _ _ (fun b => by simpa using h)]
  · rw [List.append_assoc, Mem.read_append _ _ _ (fun c hc => by simp only [List.mem_filter, decide_eq_true_eq] at hc; omega),
      Mem.read_append _ _ _ (fun c hc => by have := Mem.mem_cellsOf hc; omega),
      Mem.read_filter _ _ _ (fun b => by simpa using h)]

/-! ### Host memory and HBM -/

theorem State.hostWrite_read_out (s : State) (fn a : Nat) (bs : Bytes) (x : Nat) (h : x < a ∨ a + bs.length ≤ x) :
    Mem.read (s.hostWrite fn a bs).host x = Mem.read s.host x := by
  unfold State.hostWrite
  cases e : (s.dmaStop fn).isNone
  · rfl
  · exact Mem.read_writeRange_out _ _ _ _ h

/-- Unless its IDE stream is stopped (R502), what a function writes is there to read. -/
theorem State.hostWrite_read_in (s : State) (fn a : Nat) (bs : Bytes) (i : Nat) (ho : s.dmaStop fn = none) (h : i < bs.length) :
    Mem.read (s.hostWrite fn a bs).host (a + i) = bs.getD i 0 := by
  unfold State.hostWrite
  rw [ho]
  exact Mem.read_writeRange_in _ _ _ _ h

/-- The memories of the state after reset are canonical. -/
theorem State.reset_memOk : State.reset.memOk := ⟨rfl, by decide⟩

end Sys2Proof.Machine
end

