-- ==== Sys2Proof/Laws/KeepRings.lean ====
section
/-! SUPPORT. Byte memories stay canonical through every operation: errors, rings, objects, partitions, BINDERY and tables. Each lemma names the operation and ends in _memOk. -/

namespace Sys2Proof.Machine

/-- What an outcome keeps when it is a next state. -/
structure OutcomeOk (o : Host.Outcome State Fault Refusal) : Prop where
  out : ∀ t, o = .next t → t.memOk

theorem OutcomeOk.next {t : State} (h : t.memOk) : OutcomeOk (.next t) := by
  constructor; intro u e; cases e; exact h
theorem OutcomeOk.fault (f : Fault) : OutcomeOk (.fault f) := by
  constructor; intro u e; cases e
theorem State.memOk.out {s : State} (h : s.memOk) : Mem.wf s.host = true ∧ ∀ x ∈ s.hbm, Mem.wf x.lines = true := h
/-- What a control command's judgement keeps when it is a new state. -/
structure JudgeOk (r : Except (Nat × Nat) (State × Nat × Nat)) : Prop where
  out : ∀ x, r = .ok x → x.1.memOk
theorem JudgeOk.ok {t : State} (h : t.memOk) (a : Nat × Nat) : JudgeOk (.ok (t, a)) := by
  constructor; intro x e; cases e; exact h
theorem JudgeOk.error (f : Nat × Nat) : JudgeOk (.error f) := by
  constructor; intro x e; cases e
theorem foldl_memOk_fst {α β : Type} (f : State × β → α → State × β) (l : List α) (x : State × β) (h : x.1.memOk)
    (hf : ∀ (a : State × β) (y : α), a.1.memOk → (f a y).1.memOk) : (l.foldl f x).1.memOk := by
  induction l generalizing x with
  | nil => exact h
  | cons y l ih => exact ih _ (hf _ _ h)
theorem foldl_memOk {α : Type} (f : State → α → State) (l : List α) (s : State) (h : s.memOk)
    (hf : ∀ (a : State) (x : α), a.memOk → (f a x).memOk) : (l.foldl f s).memOk := by
  induction l generalizing s with
  | nil => exact h
  | cons x l ih => exact ih _ (hf _ _ h)

theorem State.asDma_memOk (s : State) (fn : Nat) (write : Bool) (a n : Nat) (hs : State.memOk s) : State.memOk (State.asDma s fn write a n) := hs

theorem State.hostWrite_memOk (s : State) (fn a : Nat) (bs : Bytes) (h : s.memOk) : (s.hostWrite fn a bs).memOk := by
  refine ⟨?_, h.2⟩
  rw [State.hostWrite_host]
  split
  · exact Mem.wf_writeRange a bs h.1
  · exact h.1

theorem State.releaseWrites_memOk (s : State) (hs : State.memOk s) : State.memOk (State.releaseWrites s) := by
  unfold State.releaseWrites
  repeat' first
    | with_reducible assumption
    | with_reducible apply State.hostWrite_memOk
    | with_reducible apply foldl_memOk
    | intro _
    | fail_if_no_progress (unfold State.memOk; dsimp only; with_reducible apply State.memOk.out)

theorem State.hostStores_memOk (s : State) (cs : List Host.Cell) (h : s.memOk) : (s.hostStores cs).memOk :=
  ⟨Mem.wf_stores cs h.1, h.2⟩

theorem State.reach_memOk (s : State) (d : Nat) (t : Word) (hs : State.memOk s) : State.memOk (State.reach s d t) := hs

theorem State.tick_memOk (s : State) (hs : State.memOk s) : State.memOk (State.tick s) := hs

theorem State.takeFresh_memOk (s : State) (hs : State.memOk s) : State.memOk (State.takeFresh s) := hs

theorem State.setDie_memOk (s : State) (d : Nat) (x : DieState) (hs : State.memOk s) : State.memOk (State.setDie s d x) := hs

theorem State.setLink_memOk (s : State) (l : Nat) (x : Link) (hs : State.memOk s) : State.memOk (State.setLink s l x) := hs

theorem State.setStack_memOk (s : State) (k : Nat) (x : Stack) (hs : s.memOk) (hx : Mem.wf x.lines = true) : (s.setStack k x).memOk :=
  ⟨hs.1, fun y hy => by rcases List.mem_or_eq_of_mem_set hy with h | h; exacts [hs.2 y h, h ▸ hx]⟩

/-- A stack of a state with canonical memory has canonical lines. -/
theorem State.stackAt_wf (s : State) (k : Nat) (hs : s.memOk) : Mem.wf (s.stackAt k).lines = true := by
  unfold State.stackAt
  rw [List.getD_eq_getElem?_getD]
  rcases h : s.hbm[k]? with _ | x
  · rfl
  · exact hs.2 x (List.mem_of_getElem? h)

theorem State.setEngine_memOk (s : State) (d : Nat) (x : Engine) (hs : State.memOk s) : State.memOk (State.setEngine s d x) := hs

theorem State.setDiePower_memOk (s : State) (d : Nat) (x : DiePower) (hs : State.memOk s) : State.memOk (State.setDiePower s d x) := hs

theorem State.setFrames_memOk (s : State) (d : Nat) (x : NMap Frame) (hs : State.memOk s) : State.memOk (State.setFrames s d x) := hs

theorem State.sendMsix_memOk (s : State) (fn vec : Nat) (hs : State.memOk s) : State.memOk (State.sendMsix s fn vec) := by
  unfold State.sendMsix
  repeat' first
    | with_reducible assumption
    | split
    | extract_lets
    | fail_if_no_progress (unfold State.memOk; dsimp only; with_reducible apply State.memOk.out)

theorem State.flushMsix_memOk (s : State) (fn : Nat) (hs : State.memOk s) : State.memOk (State.flushMsix s fn) := by
  unfold State.flushMsix
  repeat' first
    | with_reducible assumption
    | split
    | extract_lets
    | fail_if_no_progress (unfold State.memOk; dsimp only; with_reducible apply State.memOk.out)

theorem State.sendLink_memOk (s : State) (l : Nat) (m : Msg) (hs : State.memOk s) : State.memOk (State.sendLink s l m) := hs

theorem State.meter_memOk (s : State) (part res inst n : Nat) (hs : State.memOk s) : State.memOk (State.meter s part res inst n) := hs

theorem State.visit_memOk (s : State) (q part : Nat) (x : ResQueue) (hs : State.memOk s) : State.memOk (State.visit s q part x) := by
  unfold State.visit
  repeat' first
    | with_reducible assumption
    | with_reducible apply State.meter_memOk
    | with_reducible apply foldl_memOk
    | intro _
    | fail_if_no_progress (unfold State.memOk; dsimp only; with_reducible apply State.memOk.out)

theorem State.serveQueue_memOk (fuel q : Nat) (s : State) (hs : s.memOk) : (State.serveQueue fuel q s).memOk := by
  induction fuel generalizing s with
  | zero => exact hs
  | succ n ih =>
    unfold State.serveQueue
    split
    · exact hs
    · split
      · exact ih _ (State.visit_memOk _ _ _ _ hs)
      · exact hs

theorem State.drain_memOk (s : State) (q : Nat) (hs : State.memOk s) : State.memOk (State.drain s q) := by
  unfold State.drain
  repeat' first
    | with_reducible assumption
    | with_reducible apply State.serveQueue_memOk
    | split

theorem State.drainAll_memOk (s : State) (hs : State.memOk s) : State.memOk (State.drainAll s) := by
  unfold State.drainAll
  repeat' first
    | with_reducible assumption
    | with_reducible apply State.drain_memOk
    | with_reducible apply foldl_memOk
    | intro _

theorem State.unqueue_memOk (s : State) (part : Nat) (hs : State.memOk s) : State.memOk (State.unqueue s part) := hs

theorem State.request_memOk (s : State) (q part n : Nat) (hs : State.memOk s) : State.memOk (State.request s q part n) := by
  unfold State.request
  repeat' first
    | with_reducible assumption
    | with_reducible apply State.drain_memOk
    | split
    | fail_if_no_progress (unfold State.memOk; dsimp only; with_reducible apply State.memOk.out)

theorem State.bulkDma_memOk (s : State) (part : Nat) (write : Bool) (a n : Nat) (hs : State.memOk s) : State.memOk (State.bulkDma s part write a n) := by
  unfold State.bulkDma
  repeat' first
    | with_reducible assumption
    | with_reducible apply State.request_memOk
    | with_reducible apply State.asDma_memOk

theorem State.bulkWrite_memOk (s : State) (part a : Nat) (bs : Bytes) (hs : State.memOk s) : State.memOk (State.bulkWrite s part a bs) := by
  unfold State.bulkWrite
  repeat' first
    | with_reducible assumption
    | with_reducible apply State.request_memOk
    | with_reducible apply State.hostWrite_memOk

theorem State.setSpine_memOk (s : State) (a b : Nat) (x : SpineLink) (hs : State.memOk s) : State.memOk (State.setSpine s a b x) := hs

theorem State.modDir_memOk (s : State) (a b : Nat) (f : SpineDir → SpineDir) (hs : State.memOk s) : State.memOk (State.modDir s a b f) := hs

theorem State.pumpSpine_memOk (s : State) (a b : Nat) (hs : State.memOk s) : State.memOk (State.pumpSpine s a b) := hs

theorem State.launch_memOk (s : State) (m : SpineMsg) (hs : s.memOk) : (s.launch m).memOk := by
  obtain ⟨_, _, h⟩ := s.launch_eq m
  rw [h]; exact hs

theorem State.sendMsg_memOk (s : State) (m0 : SpineMsg) (hs : State.memOk s) : State.memOk (State.sendMsg s m0) := hs

theorem State.sendSpine_memOk (s : State) (src dst ch : Nat) (p : Bytes) (hs : State.memOk s) : State.memOk (State.sendSpine s src dst ch p) := hs

theorem State.sendSized_memOk (s : State) (src dst ch size n : Nat) (hs : State.memOk s) : State.memOk (State.sendSized s src dst ch size n) := by
  unfold State.sendSized
  repeat' first
    | with_reducible assumption
    | with_reducible apply State.sendMsg_memOk
    | with_reducible apply foldl_memOk
    | intro _

theorem State.takeNumber_memOk {s t : State} {src dst ch : Nat} {n : BitVec 32} (e : s.takeNumber src dst ch n = some t) (hs : s.memOk) : t.memOk := by
  unfold State.takeNumber at e
  split at e
  · cases e; exact hs
  · dsimp only at e
    split at e
    · cases e; exact hs
    · cases e

theorem State.sendSpineFor_memOk (s : State) (part src dst ch : Nat) (p : Bytes) (hs : State.memOk s) : State.memOk (State.sendSpineFor s part src dst ch p) := by
  unfold State.sendSpineFor
  repeat' first
    | with_reducible assumption
    | with_reducible apply State.sendSpine_memOk
    | with_reducible apply State.request_memOk

theorem State.farLines_memOk (s : State) (part die home n : Nat) (write : Bool) (hs : State.memOk s) : State.memOk (State.farLines s part die home n write) := by
  unfold State.farLines
  repeat' first
    | with_reducible assumption
    | with_reducible apply State.request_memOk
    | with_reducible apply State.sendSized_memOk
    | split

theorem State.farAdds_memOk (s : State) (part die home len : Nat) (hs : State.memOk s) : State.memOk (State.farAdds s part die home len) := by
  unfold State.farAdds
  repeat' first
    | with_reducible assumption
    | with_reducible apply State.sendSized_memOk
    | with_reducible apply State.request_memOk
    | split

theorem State.resend_memOk (s : State) (a b : Nat) (hs : State.memOk s) : State.memOk (State.resend s a b) := by
  unfold State.resend
  repeat' first
    | with_reducible assumption
    | with_reducible apply State.launch_memOk
    | with_reducible apply foldl_memOk
    | fail_if_no_progress (unfold State.memOk; dsimp only; with_reducible apply State.memOk.out)

theorem State.crossed_memOk (s : State) (m : SpineMsg) (a b : Nat) (hs : State.memOk s) : State.memOk (State.crossed s m a b) := by
  unfold State.crossed
  repeat' first
    | with_reducible assumption
    | with_reducible apply State.pumpSpine_memOk
    | with_reducible apply State.modDir_memOk
    | with_reducible apply State.setSpine_memOk

theorem State.landed_memOk (s : State) (m : SpineMsg) (hs : State.memOk s) : State.memOk (State.landed s m) := by
  unfold State.landed
  repeat' first
    | with_reducible assumption
    | with_reducible apply State.crossed_memOk

theorem State.forward_memOk (s : State) (m : SpineMsg) (hs : State.memOk s) : State.memOk (State.forward s m) := by
  unfold State.forward
  repeat' first
    | with_reducible assumption
    | with_reducible apply State.pumpSpine_memOk
    | with_reducible apply State.modDir_memOk
    | with_reducible apply State.crossed_memOk

theorem State.rerouted_memOk (s old : State) (hs : State.memOk s) (hold : State.memOk old) : State.memOk (State.rerouted s old) := by
  unfold State.rerouted
  repeat' first
    | with_reducible assumption
    | with_reducible apply State.resend_memOk
    | with_reducible apply foldl_memOk
    | split
    | intro _

theorem State.touchLine_memOk (s : State) (part line : Nat) (write pin : Bool) (hs : State.memOk s) : State.memOk (State.touchLine s part line write pin) := by
  unfold State.touchLine
  repeat' first
    | with_reducible assumption
    | with_reducible apply State.setDie_memOk
    | with_reducible apply State.request_memOk
    | with_reducible apply foldl_memOk
    | split
    | intro _

theorem State.modQuire_memOk (s : State) (d p : Nat) (f : Quire → Quire) (hs : State.memOk s) : State.memOk (State.modQuire s d p f) := hs

theorem State.openTiles_memOk (s : State) (d p plane cmd : Nat) (tiles : List Nat) (hs : State.memOk s) : State.memOk (State.openTiles s d p plane cmd tiles) := hs

theorem State.fillTile_memOk (s : State) (d p cmd tile : Nat) (elems : NMap Acc) (hs : State.memOk s) : State.memOk (State.fillTile s d p cmd tile elems) := hs

theorem State.discardTiles_memOk (s : State) (cmd : Nat) (hs : State.memOk s) : State.memOk (State.discardTiles s cmd) := hs

theorem State.dropCopies_memOk (s : State) (key version ingot : Nat) (hs : State.memOk s) : State.memOk (State.dropCopies s key version ingot) := hs

theorem State.dropKey_memOk (s : State) (key : Nat) (hs : State.memOk s) : State.memOk (State.dropKey s key) := hs

theorem State.stageAt_memOk (s : State) (d q : Nat) (c : T0Copy) (hs : State.memOk s) : State.memOk (State.stageAt s d q c) := hs

theorem State.touchFrame_memOk (s : State) (d n off len : Nat) (write : Bool) (hs : State.memOk s) : State.memOk (State.touchFrame s d n off len write) := by
  unfold State.touchFrame
  repeat' first
    | with_reducible assumption
    | with_reducible apply State.touchLine_memOk
    | with_reducible apply foldl_memOk
    | split
    | intro _

theorem State.freeFrame_memOk (s : State) (d n : Nat) (hs : State.memOk s) : State.memOk (State.freeFrame s d n) := by
  unfold State.freeFrame
  repeat' first
    | with_reducible assumption
    | with_reducible apply State.setStack_memOk
    | with_reducible apply State.dropKey_memOk
    | with_reducible apply State.setFrames_memOk
    | exact State.stackAt_wf _ _ (by with_reducible assumption)
    | split

theorem State.setErrs_memOk (s : State) (d : Nat) (m : NMap ErrRec) (hs : State.memOk s) : State.memOk (State.setErrs s d m) := hs

theorem State.refreshAttn_memOk (s : State) (hs : State.memOk s) : State.memOk (State.refreshAttn s) := hs

theorem State.notifyErr_memOk (s : State) (d slot : Nat) (hs : State.memOk s) : State.memOk (State.notifyErr s d slot) := by
  unfold State.notifyErr
  repeat' first
    | with_reducible assumption
    | with_reducible apply State.setErrs_memOk
    | with_reducible apply State.sendMsix_memOk
    | with_reducible apply State.refreshAttn_memOk
    | split
    | extract_lets
    | fail_if_no_progress (unfold State.memOk; dsimp +zetaDelta only; with_reducible apply State.memOk.out)

theorem State.countDropped_memOk (s : State) (hs : State.memOk s) : State.memOk (State.countDropped s) := hs

theorem State.report_memOk (s : State) (r : Report) (hs : State.memOk s) : State.memOk (State.report s r) := by
  unfold State.report
  repeat' first
    | with_reducible assumption
    | with_reducible apply State.setErrs_memOk
    | with_reducible apply State.notifyErr_memOk
    | with_reducible apply State.countDropped_memOk
    | split
    | extract_lets

theorem State.protocolHs_memOk (s : State) (info : Nat) (hs : State.memOk s) : State.memOk (State.protocolHs s info) := by
  unfold State.protocolHs
  repeat' first
    | with_reducible assumption
    | with_reducible apply State.report_memOk

theorem State.clearErr_memOk (s : State) (d slot : Nat) (hs : State.memOk s) : State.memOk (State.clearErr s d slot) := hs

theorem State.clearErrs_memOk (s : State) (d : Nat) (hs : State.memOk s) : State.memOk (State.clearErrs s d) := hs

theorem State.clearErrPending_memOk (s : State) (d slot : Nat) (hs : State.memOk s) : State.memOk (State.clearErrPending s d slot) := hs

theorem State.clearDiePending_memOk (s : State) (d : Nat) (hs : State.memOk s) : State.memOk (State.clearDiePending s d) := hs

theorem State.enterFatal_memOk (s : State) (origin : Nat) (hs : State.memOk s) : State.memOk (State.enterFatal s origin) := by
  unfold State.enterFatal
  repeat' first
    | with_reducible assumption
    | with_reducible apply State.refreshAttn_memOk
    | with_reducible apply State.report_memOk
    | split
    | fail_if_no_progress (unfold State.memOk; dsimp only; with_reducible apply State.memOk.out)

theorem execErrorDeferredNotify_memOk (die slot : Nat) (t : Word) (s : State) (hs : State.memOk s) : OutcomeOk (execErrorDeferredNotify die slot t s) := by
  unfold execErrorDeferredNotify
  repeat' first
    | with_reducible assumption
    | with_reducible apply OutcomeOk.next
    | with_reducible apply State.reach_memOk
    | with_reducible apply State.notifyErr_memOk
    | split
    | extract_lets

theorem execErrClearAll_memOk (die : Nat) (s : State) (hs : State.memOk s) : OutcomeOk (execErrClearAll die s) := by
  unfold execErrClearAll
  repeat' first
    | with_reducible assumption
    | with_reducible apply OutcomeOk.next
    | with_reducible apply State.clearErrs_memOk
    | split

theorem execErrClearPendingOnly_memOk (die slot : Nat) (s : State) (hs : State.memOk s) : OutcomeOk (execErrClearPendingOnly die slot s) := by
  unfold execErrClearPendingOnly
  repeat' first
    | with_reducible assumption
    | with_reducible apply OutcomeOk.next
    | with_reducible apply State.clearErrPending_memOk
    | split

theorem execErrClearSlot_memOk (die slot : Nat) (s : State) (hs : State.memOk s) : OutcomeOk (execErrClearSlot die slot s) := by
  unfold execErrClearSlot
  repeat' first
    | with_reducible assumption
    | with_reducible apply OutcomeOk.next
    | with_reducible apply State.clearErr_memOk
    | split

theorem execErrSummaryPendingClear_memOk (mask : Nat) (s : State) (hs : State.memOk s) : OutcomeOk (execErrSummaryPendingClear mask s) := by
  unfold execErrSummaryPendingClear
  repeat' first
    | with_reducible assumption
    | with_reducible apply OutcomeOk.next
    | with_reducible apply State.clearDiePending_memOk
    | with_reducible apply foldl_memOk
    | split

theorem execVfErrPendingClear_memOk (pf : Bool) (part mask : Nat) (s : State) (hs : State.memOk s) : OutcomeOk (execVfErrPendingClear pf part mask s) := by
  unfold execVfErrPendingClear
  repeat' first
    | with_reducible assumption
    | with_reducible apply OutcomeOk.next
    | split
    | fail_if_no_progress (unfold State.memOk; dsimp only; with_reducible apply State.memOk.out)

theorem State.setSub_memOk (s : State) (owner ring : Nat) (r : SubRing) (hs : State.memOk s) : State.memOk (State.setSub s owner ring r) := hs

theorem State.setComp_memOk (s : State) (owner cq : Nat) (r : CompRing) (hs : State.memOk s) : State.memOk (State.setComp s owner cq r) := hs

theorem State.setCmd_memOk (s : State) (id : Nat) (c : Cmd) (hs : State.memOk s) : State.memOk (State.setCmd s id c) := hs

theorem State.fireCq_memOk (s : State) (owner cq : Nat) (hs : State.memOk s) : State.memOk (State.fireCq s owner cq) := by
  unfold State.fireCq
  repeat' first
    | with_reducible assumption
    | with_reducible apply State.sendMsix_memOk
    | with_reducible apply State.setComp_memOk
    | split

theorem State.pushRecord_memOk (s : State) (owner cq : Nat) (notify : Bool) (rec : Bool → Bytes) (reserved : Bool) (hs : State.memOk s) : State.memOk (State.pushRecord s owner cq notify rec reserved) := by
  unfold State.pushRecord
  repeat' first
    | with_reducible assumption
    | with_reducible apply State.hostWrite_memOk
    | with_reducible apply State.fireCq_memOk
    | with_reducible apply State.setComp_memOk
    | split

theorem State.setFence_memOk (s : State) (part f : Nat) (x : Fence) (hs : State.memOk s) : State.memOk (State.setFence s part f x) := hs

theorem State.recordFence_memOk (s : State) (owner : Nat) (desc : Bytes) (status : Nat) (hs : State.memOk s) : State.memOk (State.recordFence s owner desc status) := by
  unfold State.recordFence
  repeat' first
    | with_reducible assumption
    | with_reducible apply State.setFence_memOk
    | split
    | extract_lets

theorem State.account_memOk (s : State) (owner ring home : Nat) (f : Acct → Acct) (hs : State.memOk s) : State.memOk (State.account s owner ring home f) := hs

theorem State.writeEnd_memOk (s : State) (id : Nat) (c : Cmd) (status detail : Nat) (hs : State.memOk s) : State.memOk (State.writeEnd s id c status detail) := by
  unfold State.writeEnd
  repeat' first
    | with_reducible assumption
    | with_reducible apply State.recordFence_memOk
    | with_reducible apply State.account_memOk
    | with_reducible apply State.pushRecord_memOk
    | split
    | fail_if_no_progress (unfold State.memOk; dsimp only; with_reducible apply State.memOk.out)

theorem State.dropStaging_memOk (s : State) (c : Cmd) (hs : State.memOk s) : State.memOk (State.dropStaging s c) := by
  unfold State.dropStaging
  repeat' first
    | with_reducible assumption
    | with_reducible apply State.setDie_memOk
    | with_reducible apply foldl_memOk
    | split
    | intro _

theorem State.undo_memOk (s : State) (c : Cmd) (hs : s.memOk) : (s.undo c).memOk := by
  unfold State.undo
  extract_lets s1 unshare s2a s2 e
  have hu : ∀ (a : State) (p : Nat × Nat × Nat × Nat), a.memOk → (unshare a p).memOk := by
    intro a p ha
    dsimp only [unshare]
    split
    · split
      · exact State.freeFrame_memOk _ _ _ ha
      · exact State.setFrames_memOk _ _ _ ha
    · exact ha
  have h1 : s1.memOk := foldl_memOk _ _ _ (State.dropStaging_memOk s c hs) (fun a p h => State.freeFrame_memOk _ _ _ h)
  have h2 : s2.memOk := by
    have h2a : s2a.memOk := foldl_memOk _ _ _ h1 hu
    dsimp only [s2]
    split <;> exact h2a
  repeat' first | exact h2 | exact State.setEngine_memOk _ _ _ h2 | (unfold State.memOk; exact h2) | split

theorem State.farewell_memOk (s : State) (c : Cmd) (status detail : Nat) (hs : State.memOk s) : State.memOk (State.farewell s c status detail) := by
  unfold State.farewell
  repeat' first
    | with_reducible assumption
    | with_reducible apply State.sendLink_memOk
    | with_reducible apply State.hostWrite_memOk
    | with_reducible apply foldl_memOk
    | split
    | intro _

theorem State.reportPoison_memOk (s : State) (owner status detail : Nat) (hs : State.memOk s) : State.memOk (State.reportPoison s owner status detail) := by
  unfold State.reportPoison
  repeat' first
    | with_reducible assumption
    | with_reducible apply State.report_memOk
    | with_reducible apply State.takeFresh_memOk
    | split

theorem State.failCmd_memOk (s : State) (id status detail : Nat) (hs : State.memOk s) : State.memOk (State.failCmd s id status detail) := by
  unfold State.failCmd
  repeat' first
    | with_reducible assumption
    | with_reducible apply State.farewell_memOk
    | with_reducible apply State.reportPoison_memOk
    | with_reducible apply State.takeFresh_memOk
    | with_reducible apply State.writeEnd_memOk
    | with_reducible apply State.discardTiles_memOk
    | with_reducible apply State.undo_memOk
    | split

theorem State.failRun_memOk (s : State) (id : Nat) (c : Cmd) (f : Nat × Nat) (hs : State.memOk s) : State.memOk (State.failRun s id c f) := by
  unfold State.failRun
  repeat' first
    | with_reducible assumption
    | with_reducible apply State.failCmd_memOk
    | split

theorem State.finish_memOk (s : State) (id status detail : Nat) (hs : State.memOk s) : State.memOk (State.finish s id status detail) := by
  unfold State.finish
  repeat' first
    | with_reducible assumption
    | with_reducible apply State.writeEnd_memOk
    | split

theorem State.dropCmd_memOk (s : State) (id : Nat) (hs : State.memOk s) : State.memOk (State.dropCmd s id) := by
  unfold State.dropCmd
  repeat' first
    | with_reducible assumption
    | with_reducible apply State.discardTiles_memOk
    | with_reducible apply State.undo_memOk
    | with_reducible apply State.farewell_memOk
    | split
    | fail_if_no_progress (unfold State.memOk; dsimp +zetaDelta only; with_reducible apply State.memOk.out)

theorem State.serve_memOk (s : State) (c : Cmd) (die : Nat) (hs : State.memOk s) : State.memOk (State.serve s c die) := hs

theorem State.killCmd_memOk (s : State) (id : Nat) (preempt : Bool) (hs : State.memOk s) : State.memOk (State.killCmd s id preempt) := by
  unfold State.killCmd
  repeat' first
    | with_reducible assumption
    | with_reducible apply State.account_memOk
    | with_reducible apply State.takeFresh_memOk
    | with_reducible apply State.serve_memOk
    | with_reducible apply State.discardTiles_memOk
    | with_reducible apply State.dropStaging_memOk
    | with_reducible apply State.setCmd_memOk
    | with_reducible apply foldl_memOk
    | split
    | intro _

theorem State.withCmd_memOk (s : State) (id : Nat) (f : State → Nat → Cmd → State) (hs : State.memOk s) (hf : ∀ (q0 : State) (q1 : Nat) (q2 : Cmd), State.memOk q0 → State.memOk (f q0 q1 q2)) : State.memOk (State.withCmd s id f) := by
  unfold State.withCmd
  repeat' first
    | with_reducible assumption
    | with_reducible apply hf
    | split

theorem State.startCmd_memOk (s : State) (id : Nat) (hs : State.memOk s) : State.memOk (State.startCmd s id) := by
  unfold State.startCmd
  repeat' first
    | with_reducible assumption
    | with_reducible apply State.setCmd_memOk
    | split

theorem State.quarantinePart_memOk (s : State) (part origin : Nat) (hs : State.memOk s) : State.memOk (State.quarantinePart s part origin) := by
  unfold State.quarantinePart
  repeat' first
    | with_reducible assumption
    | with_reducible apply State.failCmd_memOk
    | with_reducible apply foldl_memOk
    | split
    | intro _
    | fail_if_no_progress (unfold State.memOk; dsimp only; with_reducible apply State.memOk.out)

theorem tailDoorbell_memOk (fn off width value : Nat) (stores : List Host.Cell) (s : State) (hs : State.memOk s) : State.memOk (tailDoorbell fn off width value stores s) := by
  unfold tailDoorbell
  repeat' first
    | with_reducible assumption
    | with_reducible apply State.hostStores_memOk
    | with_reducible apply State.setSub_memOk
    | with_reducible apply State.protocolHs_memOk
    | split
    | extract_lets

theorem headDoorbell_memOk (fn off width value : Nat) (s : State) (hs : State.memOk s) : State.memOk (headDoorbell fn off width value s) := by
  unfold headDoorbell
  repeat' first
    | with_reducible assumption
    | with_reducible apply State.setComp_memOk
    | with_reducible apply State.fireCq_memOk
    | with_reducible apply State.protocolHs_memOk
    | split
    | extract_lets

theorem execSubmissionTailDoorbell_memOk (fn off width value : Nat) (stores : List Host.Cell) (s : State) (hs : State.memOk s) : OutcomeOk (execSubmissionTailDoorbell fn off width value stores s) := by
  unfold execSubmissionTailDoorbell
  repeat' first
    | with_reducible assumption
    | with_reducible apply OutcomeOk.next
    | with_reducible apply tailDoorbell_memOk

theorem execResume_memOk (fn off width value : Nat) (stores : List Host.Cell) (s : State) (hs : State.memOk s) : OutcomeOk (execResume fn off width value stores s) := by
  unfold execResume
  repeat' first
    | with_reducible assumption
    | with_reducible apply OutcomeOk.next
    | with_reducible apply tailDoorbell_memOk

theorem execCompletionHeadDoorbell_memOk (fn off width value : Nat) (s : State) (hs : State.memOk s) : OutcomeOk (execCompletionHeadDoorbell fn off width value s) := by
  unfold execCompletionHeadDoorbell
  repeat' first
    | with_reducible assumption
    | with_reducible apply OutcomeOk.next
    | with_reducible apply headDoorbell_memOk

theorem execArm_memOk (fn off width value : Nat) (s : State) (hs : State.memOk s) : OutcomeOk (execArm fn off width value s) := by
  unfold execArm
  repeat' first
    | with_reducible assumption
    | with_reducible apply OutcomeOk.next
    | with_reducible apply headDoorbell_memOk

theorem execModTimeExpiry_memOk (owner cq : Nat) (t : Word) (s : State) (hs : State.memOk s) : OutcomeOk (execModTimeExpiry owner cq t s) := by
  unfold execModTimeExpiry
  repeat' first
    | with_reducible assumption
    | with_reducible apply OutcomeOk.next
    | with_reducible apply State.fireCq_memOk
    | with_reducible apply State.reach_memOk
    | split

theorem execMsixUnmask_memOk (fn : Nat) (vec : Option Nat) (s : State) (hs : State.memOk s) : OutcomeOk (execMsixUnmask fn vec s) := by
  unfold execMsixUnmask
  repeat' first
    | with_reducible assumption
    | with_reducible apply OutcomeOk.next
    | with_reducible apply State.flushMsix_memOk
    | fail_if_no_progress (unfold State.memOk; dsimp only; with_reducible apply State.memOk.out)

theorem execAtsInvalidationRequest_memOk (fn page size : Nat) (s : State) (hs : State.memOk s) : OutcomeOk (execAtsInvalidationRequest fn page size s) := by
  unfold execAtsInvalidationRequest
  repeat' first
    | with_reducible assumption
    | with_reducible apply OutcomeOk.next
    | fail_if_no_progress (unfold State.memOk; dsimp only; with_reducible apply State.memOk.out)

theorem fetchDma_memOk (fn n : Nat) (r : SubRing) (s : State) (hs : State.memOk s) : State.memOk (fetchDma fn n r s) := hs

theorem State.fetchRing_memOk (s : State) (owner ring n : Nat) (hs : State.memOk s) : State.memOk (State.fetchRing s owner ring n) := by
  unfold State.fetchRing
  repeat' first
    | with_reducible assumption
    | with_reducible apply fetchDma_memOk
    | with_reducible apply State.setSub_memOk
    | with_reducible apply State.hostWrite_memOk
    | split

theorem State.fetchTimes_memOk (owner ring fuel : Nat) (s : State) (hs : s.memOk) : (State.fetchTimes owner ring fuel s).memOk := by
  induction fuel generalizing s with
  | zero => exact hs
  | succ n ih => exact ih _ (State.fetchRing_memOk _ _ _ _ hs)

theorem State.fetchRest_memOk (s : State) (owner ring : Nat) (hs : State.memOk s) : State.memOk (State.fetchRest s owner ring) := by
  unfold State.fetchRest
  repeat' first
    | with_reducible assumption
    | with_reducible apply State.fetchTimes_memOk
    | split

theorem execDescriptorFetch_memOk (owner ring : Nat) (s : State) (hs : State.memOk s) : OutcomeOk (execDescriptorFetch owner ring s) := by
  unfold execDescriptorFetch
  repeat' first
    | with_reducible assumption
    | with_reducible apply OutcomeOk.next
    | with_reducible apply State.fetchRing_memOk
    | split

theorem control_memOk (op : Nat) (sel : Cmd → Bool) (f : Cmd → State → State) (cmd : Nat) (s : State) (hf : ∀ (q0 : Cmd) (q1 : State), State.memOk q1 → State.memOk (f q0 q1)) (hs : State.memOk s) : State.memOk (control op sel f cmd s) := by
  unfold control
  repeat' first
    | with_reducible assumption
    | with_reducible apply State.failCmd_memOk
    | with_reducible apply hf
    | split

theorem State.settle_memOk (s : State) (id : Nat) (r : Except (Nat × Nat) (State × Nat × Nat)) (hs : s.memOk)
    (hr : JudgeOk r) : (s.settle id r).memOk := by
  unfold State.settle
  split
  · exact State.failCmd_memOk _ _ _ _ (State.startCmd_memOk _ _ hs)
  · exact State.finish_memOk _ _ _ _ (State.startCmd_memOk _ _ (hr.out _ rfl))

theorem execBarrier_memOk (cmd : Nat) (s : State) (hs : State.memOk s) : OutcomeOk (execBarrier cmd s) := by
  unfold execBarrier
  repeat' first
    | with_reducible assumption
    | with_reducible apply OutcomeOk.next
    | with_reducible apply State.finish_memOk
    | split

theorem signal_memOk (op : Nat) (f : Fence → Word → Fence) (cmd : Nat) (s : State) (hs : State.memOk s) : State.memOk (signal op f cmd s) := by
  unfold signal
  repeat' first
    | with_reducible assumption
    | with_reducible apply State.finish_memOk
    | with_reducible apply State.setFence_memOk
    | split

theorem execSignalAdd_memOk (cmd : Nat) (s : State) (hs : State.memOk s) : OutcomeOk (execSignalAdd cmd s) := by
  unfold execSignalAdd
  repeat' first
    | with_reducible assumption
    | with_reducible apply OutcomeOk.next
    | with_reducible apply signal_memOk

theorem execSignalSet_memOk (cmd : Nat) (s : State) (hs : State.memOk s) : OutcomeOk (execSignalSet cmd s) := by
  unfold execSignalSet
  repeat' first
    | with_reducible assumption
    | with_reducible apply OutcomeOk.next
    | with_reducible apply signal_memOk

theorem execSignalPoison_memOk (cmd : Nat) (s : State) (hs : State.memOk s) : OutcomeOk (execSignalPoison cmd s) := by
  unfold execSignalPoison
  repeat' first
    | with_reducible assumption
    | with_reducible apply OutcomeOk.next
    | with_reducible apply signal_memOk

theorem execWait_memOk (cmd : Nat) (s : State) (hs : State.memOk s) : OutcomeOk (execWait cmd s) := by
  unfold execWait
  repeat' first
    | with_reducible assumption
    | with_reducible apply OutcomeOk.next
    | with_reducible apply State.finish_memOk
    | with_reducible apply State.startCmd_memOk
    | split

theorem execWaitTimeout_memOk (cmd : Nat) (t : Word) (s : State) (hs : State.memOk s) : OutcomeOk (execWaitTimeout cmd t s) := by
  unfold execWaitTimeout
  repeat' first
    | with_reducible assumption
    | with_reducible apply OutcomeOk.next
    | with_reducible apply State.reach_memOk
    | with_reducible apply State.finish_memOk
    | split
    | extract_lets

theorem State.leavePages_memOk (s : State) (o : Obj) (hs : State.memOk s) : State.memOk (State.leavePages s o) := by
  unfold State.leavePages
  repeat' first
    | with_reducible assumption
    | with_reducible apply State.setStack_memOk
    | exact State.stackAt_wf _ _ (by with_reducible assumption)
    | with_reducible apply foldl_memOk
    | split
    | intro _

theorem State.setObj_memOk (s : State) (key : Nat) (o : Obj) (hs : State.memOk s) : State.memOk (State.setObj s key o) := hs

theorem State.commitObjects_memOk (s : State) (c : Cmd) (hs : State.memOk s) : State.memOk (State.commitObjects s c) := by
  unfold State.commitObjects
  repeat' first
    | with_reducible assumption
    | with_reducible apply State.setObj_memOk
    | with_reducible apply foldl_memOk
    | split
    | intro _

theorem State.commitDie_memOk (s : State) (c : Cmd) (d : Nat) (hs : State.memOk s) : State.memOk (State.commitDie s c d) := by
  unfold State.commitDie
  repeat' first
    | with_reducible assumption
    | with_reducible apply State.setObj_memOk
    | with_reducible apply foldl_memOk
    | split
    | intro _

theorem State.commitCounts_memOk (s : State) (c : Cmd) (hs : State.memOk s) : State.memOk (State.commitCounts s c) := by
  unfold State.commitCounts
  repeat' first
    | with_reducible assumption
    | with_reducible apply State.setObj_memOk
    | with_reducible apply foldl_memOk
    | split
    | intro _

theorem State.completeCommit_memOk (s : State) (link : Bool) (id : Nat) (c : Cmd) (hs : State.memOk s) : State.memOk (State.completeCommit s link id c) := by
  unfold State.completeCommit
  repeat' first
    | with_reducible assumption
    | with_reducible apply State.commitDie_memOk
    | with_reducible apply State.finish_memOk
    | with_reducible apply foldl_memOk
    | split
    | intro _
    | fail_if_no_progress (unfold State.memOk; dsimp +zetaDelta only; with_reducible apply State.memOk.out)

theorem State.capture_memOk (s : State) (id : Nat) (hs : State.memOk s) : State.memOk (State.capture s id) := by
  unfold State.capture
  repeat' first
    | with_reducible assumption
    | with_reducible apply State.setCmd_memOk
    | split

theorem State.writeBack_memOk (s : State) (key n : Nat) (hs : State.memOk s) : State.memOk (State.writeBack s key n) := by
  unfold State.writeBack
  repeat' first
    | with_reducible assumption
    | with_reducible apply State.setObj_memOk
    | with_reducible apply State.bulkWrite_memOk
    | with_reducible apply State.request_memOk
    | split

theorem State.evict_memOk (s : State) (e : Nat × Nat × Nat) (hs : State.memOk s) : State.memOk (State.evict s e) := by
  unfold State.evict
  repeat' first
    | with_reducible assumption
    | with_reducible apply State.writeBack_memOk
    | split
    | fail_if_no_progress (unfold State.memOk; dsimp only; with_reducible apply State.memOk.out)

theorem State.shrinkCache_memOk (s : State) (part d : Nat) (hs : State.memOk s) : State.memOk (State.shrinkCache s part d) := by
  unfold State.shrinkCache
  repeat' first
    | with_reducible assumption
    | with_reducible apply State.evict_memOk
    | with_reducible apply foldl_memOk
    | split
    | intro _

theorem State.cacheT3_memOk (s : State) (key v n len : Nat) (runs : List (Nat × Nat)) (hs : State.memOk s) : State.memOk (State.cacheT3 s key v n len runs) := by
  unfold State.cacheT3
  repeat' first
    | with_reducible assumption
    | with_reducible apply State.request_memOk
    | with_reducible apply State.bulkDma_memOk
    | with_reducible apply State.shrinkCache_memOk
    | with_reducible apply foldl_memOk
    | split
    | intro _
    | fail_if_no_progress (unfold State.memOk; dsimp only; with_reducible apply State.memOk.out)

theorem State.touchSlot_memOk (s : State) (part : Nat) (o : Obj) (v n off len : Nat) (write : Bool) (hs : State.memOk s) : State.memOk (State.touchSlot s part o v n off len write) := by
  unfold State.touchSlot
  repeat' first
    | with_reducible assumption
    | with_reducible apply State.touchLine_memOk
    | with_reducible apply foldl_memOk
    | split
    | intro _

theorem State.moved_memOk (s : State) (key v n off len : Nat) (hs : State.memOk s) : State.memOk (State.moved s key v n off len) := by
  unfold State.moved
  repeat' first
    | with_reducible assumption
    | with_reducible apply State.dropCopies_memOk
    | with_reducible apply State.cacheT3_memOk
    | with_reducible apply State.touchSlot_memOk
    | split

theorem State.filled_memOk (s : State) (key : Nat) (hs : State.memOk s) : State.memOk (State.filled s key) := by
  unfold State.filled
  repeat' first
    | with_reducible assumption
    | with_reducible apply State.moved_memOk
    | with_reducible apply foldl_memOk
    | split
    | intro _

theorem State.readMoved_memOk (s : State) (key v n : Nat) (hs : State.memOk s) : State.memOk (State.readMoved s key v n) := by
  unfold State.readMoved
  repeat' first
    | with_reducible assumption
    | with_reducible apply State.cacheT3_memOk
    | with_reducible apply State.touchSlot_memOk
    | with_reducible apply foldl_memOk
    | split
    | extract_lets
    | intro _

theorem State.putIngot_memOk (s : State) (id key n : Nat) (slot : Bytes) (ext : Option Bytes) (hs : State.memOk s) : State.memOk (State.putIngot s id key n slot ext) := by
  unfold State.putIngot
  repeat' first
    | with_reducible assumption
    | with_reducible apply State.moved_memOk
    | with_reducible apply State.setCmd_memOk
    | with_reducible apply State.setObj_memOk
    | split

theorem State.putChunk_memOk (s : State) (id key n off : Nat) (b : Bytes) (hs : State.memOk s) : State.memOk (State.putChunk s id key n off b) := by
  unfold State.putChunk
  repeat' first
    | with_reducible assumption
    | with_reducible apply State.moved_memOk
    | with_reducible apply State.setCmd_memOk
    | with_reducible apply State.setObj_memOk
    | split

theorem State.putObjBytes_memOk (s : State) (id key fuel off : Nat) (b : Bytes) (hs : s.memOk) : (s.putObjBytes id key fuel off b).memOk := by
  induction fuel generalizing s off b with
  | zero => exact hs
  | succ n ih =>
    unfold State.putObjBytes
    split
    · exact hs
    · exact ih _ _ _ (State.putChunk_memOk _ _ _ _ _ _ hs)

theorem State.putObj_memOk (s : State) (id key off : Nat) (b : Bytes) (hs : State.memOk s) : State.memOk (State.putObj s id key off b) := by
  unfold State.putObj
  repeat' first
    | with_reducible assumption
    | with_reducible apply State.putObjBytes_memOk

theorem State.putRef_memOk (s : State) (id key off : Nat) (b : Bytes) (ext : Option Bytes) (hs : State.memOk s) : State.memOk (State.putRef s id key off b ext) := by
  unfold State.putRef
  repeat' first
    | with_reducible assumption
    | with_reducible apply State.putObj_memOk
    | with_reducible apply State.setObj_memOk
    | split
    | extract_lets

theorem execObjectRegister_memOk (cmd : Nat) (s : State) (hs : State.memOk s) : OutcomeOk (execObjectRegister cmd s) := by
  unfold execObjectRegister
  repeat' first
    | with_reducible assumption
    | with_reducible apply OutcomeOk.next
    | with_reducible exact JudgeOk.error _
    | with_reducible apply JudgeOk.ok
    | with_reducible apply control_memOk
    | with_reducible apply State.settle_memOk
    | with_reducible apply State.setObj_memOk
    | split
    | extract_lets
    | intro _

theorem State.forget_memOk (s : State) (gone : Nat → Bool) (hs : State.memOk s) : State.memOk (State.forget s gone) := by
  unfold State.forget
  repeat' first
    | with_reducible assumption
    | with_reducible apply State.leavePages_memOk
    | with_reducible apply foldl_memOk
    | intro _
    | fail_if_no_progress (unfold State.memOk; dsimp only; with_reducible apply State.memOk.out)

theorem execObjectRelease_memOk (cmd : Nat) (s : State) (hs : State.memOk s) : OutcomeOk (execObjectRelease cmd s) := by
  unfold execObjectRelease
  repeat' first
    | with_reducible assumption
    | with_reducible apply OutcomeOk.next
    | with_reducible exact JudgeOk.error _
    | with_reducible apply JudgeOk.ok
    | with_reducible apply control_memOk
    | with_reducible apply State.settle_memOk
    | with_reducible apply State.forget_memOk
    | split
    | intro _
    | fail_if_no_progress (unfold State.memOk; dsimp only; with_reducible apply State.memOk.out)

theorem execT3WriteBack_memOk (part handle ingot : Nat) (s : State) (hs : State.memOk s) : OutcomeOk (execT3WriteBack part handle ingot s) := by
  unfold execT3WriteBack
  repeat' first
    | with_reducible assumption
    | with_reducible apply OutcomeOk.next
    | with_reducible apply State.evict_memOk
    | with_reducible apply State.writeBack_memOk
    | split
    | extract_lets

theorem State.writeBackAll_memOk (s : State) (hs : State.memOk s) : State.memOk (State.writeBackAll s) := by
  unfold State.writeBackAll
  repeat' first
    | with_reducible assumption
    | with_reducible apply State.writeBack_memOk
    | with_reducible apply foldl_memOk
    | split
    | intro _

theorem State.createRing_memOk (s : State) (owner : Nat) (p : Part) (d : Bytes) (hs : State.memOk s) : State.memOk (State.createRing s owner p d) := by
  unfold State.createRing
  repeat' first
    | with_reducible assumption
    | with_reducible apply State.setSub_memOk
    | with_reducible apply State.setComp_memOk
    | split

theorem execRingCreate_memOk (cmd : Nat) (s : State) (hs : State.memOk s) : OutcomeOk (execRingCreate cmd s) := by
  unfold execRingCreate
  repeat' first
    | with_reducible assumption
    | with_reducible apply OutcomeOk.next
    | with_reducible exact JudgeOk.error _
    | with_reducible apply JudgeOk.ok
    | with_reducible apply control_memOk
    | with_reducible apply State.settle_memOk
    | with_reducible apply State.createRing_memOk
    | split
    | intro _

theorem execRingDestroy_memOk (cmd : Nat) (s : State) (hs : State.memOk s) : OutcomeOk (execRingDestroy cmd s) := by
  unfold execRingDestroy
  repeat' first
    | with_reducible assumption
    | with_reducible apply OutcomeOk.next
    | with_reducible exact JudgeOk.error _
    | with_reducible apply control_memOk
    | with_reducible apply State.settle_memOk
    | with_reducible apply State.setCmd_memOk
    | with_reducible apply State.finish_memOk
    | split
    | extract_lets
    | intro _
    | fail_if_no_progress (unfold State.memOk; dsimp +zetaDelta only; with_reducible apply State.memOk.out)

theorem State.admitCmd_memOk (s : State) (owner ring : Nat) (r : SubRing) (x : Fetched) (hs : State.memOk s) : State.memOk (State.admitCmd s owner ring r x) := hs

theorem State.failFetched_memOk (s : State) (owner ring : Nat) (r : SubRing) (x : Fetched) (status detail : Nat) (hs : State.memOk s) : State.memOk (State.failFetched s owner ring r x status detail) := by
  unfold State.failFetched
  repeat' first
    | with_reducible assumption
    | with_reducible apply State.failCmd_memOk
    | with_reducible apply State.admitCmd_memOk

theorem execAbort_memOk (cmd : Nat) (s : State) (hs : State.memOk s) : OutcomeOk (execAbort cmd s) := by
  unfold execAbort
  repeat' first
    | with_reducible assumption
    | with_reducible apply OutcomeOk.next
    | with_reducible exact JudgeOk.error _
    | with_reducible apply control_memOk
    | with_reducible apply State.settle_memOk
    | with_reducible apply State.fetchRest_memOk
    | with_reducible apply State.setCmd_memOk
    | with_reducible apply State.finish_memOk
    | with_reducible apply State.failCmd_memOk
    | with_reducible apply State.failFetched_memOk
    | split
    | extract_lets
    | intro _

theorem State.clearPart_memOk (s : State) (p : Nat) (hs : State.memOk s) : State.memOk (State.clearPart s p) := by
  unfold State.clearPart
  repeat' first
    | with_reducible assumption
    | with_reducible apply State.forget_memOk
    | fail_if_no_progress (unfold State.memOk; dsimp only; with_reducible apply State.memOk.out)

theorem State.createPart_memOk (s : State) (d : Bytes) (hs : State.memOk s) : State.memOk (State.createPart s d) := by
  unfold State.createPart
  repeat' first
    | with_reducible assumption
    | with_reducible apply State.clearPart_memOk
    | with_reducible apply State.setSub_memOk
    | with_reducible apply State.setComp_memOk
    | fail_if_no_progress (unfold State.memOk; dsimp only; with_reducible apply State.memOk.out)

theorem execPartCreate_memOk (cmd : Nat) (s : State) (hs : State.memOk s) : OutcomeOk (execPartCreate cmd s) := by
  unfold execPartCreate
  repeat' first
    | with_reducible assumption
    | with_reducible apply OutcomeOk.next
    | with_reducible exact JudgeOk.error _
    | with_reducible apply JudgeOk.ok
    | with_reducible apply control_memOk
    | with_reducible apply State.settle_memOk
    | with_reducible apply State.createPart_memOk
    | split
    | intro _

theorem State.releasePartSeqs_memOk (s : State) (p : Nat) (hs : State.memOk s) : State.memOk (State.releasePartSeqs s p) := by
  unfold State.releasePartSeqs
  repeat' first
    | with_reducible assumption
    | with_reducible apply State.freeFrame_memOk
    | with_reducible apply foldl_memOk
    | intro _
    | fail_if_no_progress (unfold State.memOk; dsimp only; with_reducible apply State.memOk.out)

theorem State.closeStreams_memOk (s : State) (p : Nat) (hs : State.memOk s) : State.memOk (State.closeStreams s p) := hs

theorem State.destroyPart_memOk (s : State) (p : Nat) (hs : State.memOk s) : State.memOk (State.destroyPart s p) := by
  unfold State.destroyPart
  repeat' first
    | with_reducible assumption
    | with_reducible apply State.dropCmd_memOk
    | with_reducible apply State.completeCommit_memOk
    | with_reducible apply State.unqueue_memOk
    | with_reducible apply State.clearPart_memOk
    | with_reducible apply State.closeStreams_memOk
    | with_reducible apply State.releasePartSeqs_memOk
    | with_reducible apply foldl_memOk
    | split
    | intro _
    | fail_if_no_progress (unfold State.memOk; dsimp +zetaDelta only; with_reducible apply State.memOk.out)

theorem execPartDestroy_memOk (cmd : Nat) (s : State) (hs : State.memOk s) : OutcomeOk (execPartDestroy cmd s) := by
  unfold execPartDestroy
  repeat' first
    | with_reducible assumption
    | with_reducible apply OutcomeOk.next
    | with_reducible exact JudgeOk.error _
    | with_reducible apply JudgeOk.ok
    | with_reducible apply control_memOk
    | with_reducible apply State.settle_memOk
    | with_reducible apply State.destroyPart_memOk
    | split
    | intro _

theorem applyItem_memOk (part : Nat) (s : State) (i : Item) (hs : State.memOk s) : State.memOk (applyItem part s i) := by
  unfold applyItem
  repeat' first
    | with_reducible assumption
    | split
    | fail_if_no_progress (unfold State.memOk; dsimp only; with_reducible apply State.memOk.out)

theorem execQuotaSet_memOk (cmd : Nat) (s : State) (hs : State.memOk s) : OutcomeOk (execQuotaSet cmd s) := by
  unfold execQuotaSet
  repeat' first
    | with_reducible assumption
    | with_reducible apply OutcomeOk.next
    | with_reducible exact JudgeOk.error _
    | with_reducible apply JudgeOk.ok
    | with_reducible apply control_memOk
    | with_reducible apply State.asDma_memOk
    | with_reducible apply State.settle_memOk
    | with_reducible apply applyItem_memOk
    | with_reducible apply State.drainAll_memOk
    | with_reducible apply foldl_memOk
    | split
    | extract_lets
    | intro _

theorem State.resetRings_memOk (s : State) (p : Nat) (hs : State.memOk s) : State.memOk (State.resetRings s p) := hs

theorem execVfFlr_memOk (vf : Nat) (s : State) (hs : State.memOk s) : OutcomeOk (execVfFlr vf s) := by
  unfold execVfFlr
  repeat' first
    | with_reducible assumption
    | with_reducible apply OutcomeOk.next
    | with_reducible apply State.dropCmd_memOk
    | with_reducible apply State.completeCommit_memOk
    | with_reducible apply State.closeStreams_memOk
    | with_reducible apply State.resetRings_memOk
    | with_reducible apply foldl_memOk
    | split
    | intro _
    | fail_if_no_progress (unfold State.memOk; dsimp only; with_reducible apply State.memOk.out)

theorem execServedHalving_memOk (die : Nat) (t : Word) (s : State) (hs : State.memOk s) : OutcomeOk (execServedHalving die t s) := by
  unfold execServedHalving
  repeat' first
    | with_reducible assumption
    | with_reducible apply OutcomeOk.next
    | with_reducible apply State.reach_memOk
    | split
    | extract_lets
    | fail_if_no_progress (unfold State.memOk; dsimp only; with_reducible apply State.memOk.out)

theorem execRegulatorRefill_memOk (die : Nat) (t : Word) (s : State) (hs : State.memOk s) : OutcomeOk (execRegulatorRefill die t s) := by
  unfold execRegulatorRefill
  repeat' first
    | with_reducible assumption
    | with_reducible apply OutcomeOk.next
    | with_reducible apply State.reach_memOk
    | with_reducible apply State.drain_memOk
    | with_reducible apply foldl_memOk
    | split
    | extract_lets
    | intro _
    | fail_if_no_progress (unfold State.memOk; dsimp +zetaDelta only; with_reducible apply State.memOk.out)

theorem State.setSeq_memOk (s : State) (idx : Nat) (q : Seq) (hs : State.memOk s) : State.memOk (State.setSeq s idx q) := hs

theorem State.leafDma_memOk (s : State) (part : Nat) (ls : NMap LeafEntry) (hs : State.memOk s) : State.memOk (State.leafDma s part ls) := by
  unfold State.leafDma
  repeat' first
    | with_reducible assumption
    | with_reducible apply State.bulkDma_memOk
    | with_reducible apply foldl_memOk
    | intro _

theorem State.readLeaf_memOk (s : State) (part die : Nat) (e : LeafEntry) (off n : Nat) (hs : State.memOk s) : State.memOk (State.readLeaf s part die e off n) := by
  unfold State.readLeaf
  repeat' first
    | with_reducible assumption
    | with_reducible apply State.bulkDma_memOk
    | with_reducible apply State.farLines_memOk
    | with_reducible apply State.touchFrame_memOk
    | split

theorem State.writeLeaf_memOk (s : State) (e : LeafEntry) (off : Nat) (b : Bytes) (hs : State.memOk s) : State.memOk (State.writeLeaf s e off b) := by
  unfold State.writeLeaf
  repeat' first
    | with_reducible assumption
    | with_reducible apply State.touchFrame_memOk
    | with_reducible apply State.dropKey_memOk
    | with_reducible apply State.setFrames_memOk

theorem State.markLeaf_memOk (s : State) (e : LeafEntry) (p : List (Nat × Nat)) (hs : State.memOk s) : State.memOk (State.markLeaf s e p) := hs

theorem State.putRow_memOk (s : State) (e : LeafEntry) (kvHeads fmt h p : Nat) (isV : Bool) (qs : List QBlock) (hs : State.memOk s) : State.memOk (State.putRow s e kvHeads fmt h p isV qs) := by
  unfold State.putRow
  repeat' first
    | with_reducible assumption
    | with_reducible apply State.writeLeaf_memOk

theorem State.writeSketches_memOk (s : State) (x : SeqView) (l v j0 j1 : Nat) (hs : State.memOk s) : State.memOk (State.writeSketches s x l v j0 j1) := by
  unfold State.writeSketches
  repeat' first
    | with_reducible assumption
    | with_reducible apply State.writeLeaf_memOk
    | with_reducible apply foldl_memOk
    | split
    | extract_lets
    | intro _

theorem State.takeFrames_memOk (s : State) (part d n : Nat) (page : Bool) (hs : State.memOk s) : State.memOk (State.takeFrames s part d n page).1 := hs

theorem State.touchEntries_memOk (s : State) (idx : Nat) (pages : NMap Nat) (ws : List Nat) (write : Bool) (hs : State.memOk s) : State.memOk (State.touchEntries s idx pages ws write) := by
  unfold State.touchEntries
  repeat' first
    | with_reducible assumption
    | with_reducible apply State.touchFrame_memOk
    | with_reducible apply foldl_memOk
    | split
    | intro _

theorem State.unref_memOk (s : State) (e : LeafEntry) (hs : State.memOk s) : State.memOk (State.unref s e) := by
  unfold State.unref
  repeat' first
    | with_reducible assumption
    | with_reducible apply State.freeFrame_memOk
    | with_reducible apply State.setFrames_memOk
    | split

theorem State.addRef_memOk (s : State) (e : LeafEntry) (hs : State.memOk s) : State.memOk (State.addRef s e) := by
  unfold State.addRef
  repeat' first
    | with_reducible assumption
    | with_reducible apply State.setFrames_memOk
    | split

theorem State.demote_memOk (s : State) (part d : Nat) (x : (Nat × Nat) × Nat) (hs : State.memOk s) : State.memOk (State.demote s part d x) := by
  unfold State.demote
  repeat' first
    | with_reducible assumption
    | with_reducible apply State.dropKey_memOk
    | with_reducible apply State.bulkWrite_memOk
    | with_reducible apply State.readLeaf_memOk
    | with_reducible apply State.freeFrame_memOk
    | with_reducible apply State.touchEntries_memOk
    | with_reducible apply State.setSeq_memOk
    | split
    | extract_lets

theorem State.draw_memOk {s t : State} {part d n : Nat} {demoteFor : Option Nat} {fs : List Nat}
    (e : s.draw part d n demoteFor = some (t, fs)) (hs : s.memOk) : t.memOk := by
  unfold State.draw at e
  have key : ∀ (u : State), u.memOk → u.takeFrames part d n false = (t, fs) → t.memOk := by
    intro u hu e; have := State.takeFrames_memOk u part d n false hu; rw [e] at this; exact this
  dsimp only at e
  split at e
  · exact key _ hs (Option.some.inj e)
  · split at e
    · cases e
    · split at e
      · cases e
      · split at e
        · cases e
        · exact key _ (foldl_memOk _ _ _ hs (fun a x h => State.demote_memOk _ _ _ _ h)) (Option.some.inj e)

theorem State.releaseSeq_memOk (s : State) (idx : Nat) (hs : State.memOk s) : State.memOk (State.releaseSeq s idx) := by
  unfold State.releaseSeq
  repeat' first
    | with_reducible assumption
    | with_reducible apply State.touchEntries_memOk
    | with_reducible apply State.unref_memOk
    | with_reducible apply State.freeFrame_memOk
    | with_reducible apply State.setSeq_memOk
    | with_reducible apply foldl_memOk
    | intro _

theorem execSeqReleaseComplete_memOk (index : Nat) (s : State) (hs : State.memOk s) : OutcomeOk (execSeqReleaseComplete index s) := by
  unfold execSeqReleaseComplete
  repeat' first
    | with_reducible assumption
    | with_reducible apply OutcomeOk.next
    | with_reducible apply State.releaseSeq_memOk
    | split

theorem execTableLoad_memOk (cmd : Nat) (s : State) (hs : State.memOk s) : OutcomeOk (execTableLoad cmd s) := by
  unfold execTableLoad
  repeat' first
    | with_reducible assumption
    | with_reducible apply OutcomeOk.next
    | with_reducible exact JudgeOk.error _
    | with_reducible apply JudgeOk.ok
    | with_reducible apply control_memOk
    | with_reducible apply State.asDma_memOk
    | with_reducible apply State.settle_memOk
    | split
    | extract_lets
    | intro _
    | fail_if_no_progress (unfold State.memOk; dsimp only; with_reducible apply State.memOk.out)

theorem execTableClear_memOk (cmd : Nat) (s : State) (hs : State.memOk s) : OutcomeOk (execTableClear cmd s) := by
  unfold execTableClear
  repeat' first
    | with_reducible assumption
    | with_reducible apply OutcomeOk.next
    | with_reducible apply JudgeOk.ok
    | with_reducible apply control_memOk
    | with_reducible apply State.settle_memOk
    | split
    | extract_lets
    | intro _
    | fail_if_no_progress (unfold State.memOk; dsimp only; with_reducible apply State.memOk.out)

end Sys2Proof.Machine
end

