-- ==== Sys2Proof/Laws/KeepTiles.lean ====
section
/-! SUPPORT. Byte memories stay canonical through every operation: TEMPER, ROUTE, tiles, attention, sequences and moves. Each lemma names the operation and ends in _memOk. -/

namespace Sys2Proof.Machine

theorem State.setTemper_memOk (s : State) (part layer : Nat) (x : Temper) (hs : State.memOk s) : State.memOk (State.setTemper s part layer x) := hs

theorem State.countStorm_memOk (s : State) (part step home : Nat) (hs : State.memOk s) : State.memOk (State.countStorm s part step home) := by
  unfold State.countStorm
  repeat' first
    | with_reducible assumption
    | with_reducible apply State.report_memOk
    | split
    | extract_lets
    | fail_if_no_progress (unfold State.memOk; dsimp +zetaDelta only; with_reducible apply State.memOk.out)

theorem State.drawReserve_memOk (s : State) (part layer : Nat) (outs : List Nat) (hs : State.memOk s) : State.memOk (State.drawReserve s part layer outs).1 := by
  unfold State.drawReserve
  repeat' first
    | with_reducible assumption
    | with_reducible apply State.setTemper_memOk
    | split
    | extract_lets

theorem State.temperAdmit_memOk {s t : State} {f : Bytes} {part step home : Nat} {outs : List Nat} {x : Decision}
    (e : s.temperAdmit f part step home outs = some (t, x)) (hs : s.memOk) : t.memOk := by
  unfold State.temperAdmit at e
  dsimp only at e
  split at e
  · cases e
  · have key : ∀ (b : Bool) (u : State) , u.memOk → (if b then u.countStorm part step home else u).memOk := by
      intro b u hu; split
      · exact State.countStorm_memOk _ _ _ _ hu
      · exact hu
    have h2 := fun b (t1 : Temper) => key b _ (State.setTemper_memOk s part (fsLayer f) t1 hs)
    have h3 := fun b (t1 : Temper) => State.drawReserve_memOk _ part (fsLayer f) outs (h2 b t1)
    generalize (!((s.temper part (fsLayer f)).decided && decide (step = (s.temper part (fsLayer f)).step))) = fresh at e
    generalize (if fresh then decideStep f (s.temper part (fsLayer f)) step else s.temper part (fsLayer f)) = t1 at e
    by_cases g1 : fsOut f ≠ 0x01
    · rw [if_pos g1] at e
      have := congrArg Prod.fst (Option.some.inj e)
      change _ = t at this; rw [← this]; exact h2 _ _
    · rw [if_neg g1] at e
      by_cases g2 : t1.state = 1
      · rw [if_pos g2] at e
        have := congrArg Prod.fst (Option.some.inj e)
        change _ = t at this; rw [← this]; exact h3 _ _
      · rw [if_neg g2] at e
        have := congrArg Prod.fst (Option.some.inj e)
        change _ = t at this; rw [← this]; exact h2 _ _

theorem State.mergeStats_memOk (s : State) (part layer step : Nat) (x : Stats) (hs : State.memOk s) : State.memOk (State.mergeStats s part layer step x) := hs

theorem State.raiseAnchor_memOk (s : State) (part layer : Nat) (hs : State.memOk s) : State.memOk (State.raiseAnchor s part layer) := hs

theorem State.unreserve_memOk (s : State) (part layer bytes : Nat) (hs : State.memOk s) : State.memOk (State.unreserve s part layer bytes) := hs

theorem State.settleDraws_memOk (s : State) (part : Nat) (c : Cmd) (hs : State.memOk s) : State.memOk (State.settleDraws s part c) := by
  unfold State.settleDraws
  repeat' first
    | with_reducible assumption
    | with_reducible apply State.setObj_memOk
    | with_reducible apply State.unreserve_memOk
    | with_reducible apply foldl_memOk
    | split
    | intro _

theorem State.setRun_memOk (s : State) (id : Nat) (f : Run → Run) (hs : State.memOk s) : State.memOk (State.setRun s id f) := by
  unfold State.setRun
  repeat' first
    | with_reducible assumption
    | with_reducible apply State.setCmd_memOk
    | split

theorem State.ensureStart_memOk (s : State) (id : Nat) (hs : State.memOk s) : State.memOk (State.ensureStart s id) := by
  unfold State.ensureStart
  repeat' first
    | with_reducible assumption
    | with_reducible apply State.startCmd_memOk
    | with_reducible apply State.capture_memOk
    | with_reducible apply State.setRun_memOk
    | split

theorem State.unitStart_memOk (s : State) (id : Nat) (hs : State.memOk s) : State.memOk (State.unitStart s id) := by
  unfold State.unitStart
  repeat' first
    | with_reducible assumption
    | with_reducible apply State.ensureStart_memOk
    | split

theorem State.deliverAll_memOk (s : State) (id : Nat) (hs : State.memOk s) : State.memOk (State.deliverAll s id) := by
  unfold State.deliverAll
  repeat' first
    | with_reducible assumption
    | with_reducible apply State.setCmd_memOk
    | split

theorem State.distribute_memOk (s : State) (id : Nat) (G : Nat) (hs : State.memOk s) : State.memOk (State.distribute s id G) := by
  unfold State.distribute
  repeat' first
    | with_reducible assumption
    | with_reducible apply State.setCmd_memOk
    | split

theorem State.fetchOne_memOk (s : State) (c : Cmd) (die : Nat) (r : Nat × Nat) (hs : State.memOk s) : State.memOk (State.fetchOne s c die r) := by
  unfold State.fetchOne
  repeat' first
    | with_reducible assumption
    | with_reducible apply State.farLines_memOk
    | with_reducible apply State.readMoved_memOk
    | split

theorem State.fetchAll_memOk (s : State) (c : Cmd) (die : Nat) (reads : List (Nat × Nat)) (hs : State.memOk s) : State.memOk (State.fetchAll s c die reads) := by
  unfold State.fetchAll
  repeat' first
    | with_reducible assumption
    | with_reducible apply State.fetchOne_memOk
    | with_reducible apply foldl_memOk
    | intro _

theorem State.scanFetch_memOk (s : State) (id : Nat) (c : Cmd) (x : TCtx) (aux : Bool) (groups : Nat) (hs : State.memOk s) : State.memOk (State.scanFetch s id c x aux groups) := by
  unfold State.scanFetch
  repeat' first
    | with_reducible assumption
    | with_reducible apply State.setRun_memOk
    | with_reducible apply State.fetchAll_memOk
    | with_reducible apply foldl_memOk
    | split
    | intro _

theorem State.runDelta_memOk (s : State) (id : Nat) (hs : State.memOk s) : State.memOk (State.runDelta s id) := by
  unfold State.runDelta
  repeat' first
    | with_reducible assumption
    | with_reducible apply State.setRun_memOk
    | with_reducible apply State.scanFetch_memOk
    | split

theorem State.runNorm_memOk (s : State) (id : Nat) (hs : State.memOk s) : State.memOk (State.runNorm s id) := by
  unfold State.runNorm
  repeat' first
    | with_reducible assumption
    | with_reducible apply State.setRun_memOk
    | with_reducible apply State.scanFetch_memOk
    | split

theorem State.openTensor_memOk (s : State) (id : Nat) (hs : State.memOk s) : State.memOk (State.openTensor s id) := by
  unfold State.openTensor
  repeat' first
    | with_reducible assumption
    | with_reducible apply State.distribute_memOk
    | split

theorem State.doneTile_memOk (s : State) (id die tile : Nat) (hs : State.memOk s) : State.memOk (State.doneTile s id die tile) := by
  unfold State.doneTile
  repeat' first
    | with_reducible assumption
    | with_reducible apply State.fetchAll_memOk
    | with_reducible apply State.farLines_memOk
    | with_reducible apply State.putIngot_memOk
    | with_reducible apply State.setRun_memOk
    | split

theorem State.toReady_memOk (s : State) (id : Nat) (f : Cmd → Cmd) (hs : State.memOk s) : State.memOk (State.toReady s id f) := by
  unfold State.toReady
  repeat' first
    | with_reducible assumption
    | with_reducible apply State.setCmd_memOk
    | with_reducible apply State.takeFresh_memOk
    | split

theorem State.updateCarry_memOk (s : State) (id : Nat) (hs : State.memOk s) : State.memOk (State.updateCarry s id) := by
  unfold State.updateCarry
  repeat' first
    | with_reducible assumption
    | with_reducible apply State.putRef_memOk
    | with_reducible apply State.putObj_memOk
    | with_reducible apply foldl_memOk
    | split
    | intro _

theorem State.endTensor_memOk (s : State) (id : Nat) (hs : State.memOk s) : State.memOk (State.endTensor s id) := by
  unfold State.endTensor
  repeat' first
    | with_reducible assumption
    | with_reducible apply State.toReady_memOk
    | with_reducible apply State.updateCarry_memOk
    | split

theorem State.closeTensor_memOk (s : State) (id : Nat) (hs : State.memOk s) : State.memOk (State.closeTensor s id) := by
  unfold State.closeTensor
  repeat' first
    | with_reducible assumption
    | with_reducible apply State.endTensor_memOk
    | split

theorem State.runTensor_memOk (s : State) (id : Nat) (hs : State.memOk s) : State.memOk (State.runTensor s id) := by
  unfold State.runTensor
  repeat' first
    | with_reducible assumption
    | with_reducible apply State.setRun_memOk
    | with_reducible apply State.openTensor_memOk
    | with_reducible apply State.runNorm_memOk
    | with_reducible apply State.runDelta_memOk
    | with_reducible apply State.deliverAll_memOk
    | with_reducible apply State.endTensor_memOk
    | with_reducible apply State.doneTile_memOk
    | with_reducible apply State.serve_memOk
    | with_reducible apply foldl_memOk
    | split
    | extract_lets
    | intro _

theorem execTensorOp_memOk (cmd : Nat) (s : State) (hs : State.memOk s) : OutcomeOk (execTensorOp cmd s) := by
  unfold execTensorOp
  repeat' first
    | with_reducible assumption
    | with_reducible apply OutcomeOk.next
    | with_reducible apply control_memOk
    | with_reducible apply State.ensureStart_memOk
    | with_reducible apply State.runTensor_memOk
    | split
    | extract_lets
    | intro _

theorem execDeltaScanDone_memOk (cmd : Nat) (s : State) (hs : State.memOk s) : OutcomeOk (execDeltaScanDone cmd s) := by
  unfold execDeltaScanDone
  repeat' first
    | with_reducible assumption
    | with_reducible apply OutcomeOk.next
    | with_reducible apply control_memOk
    | with_reducible apply State.closeTensor_memOk
    | with_reducible apply State.openTensor_memOk
    | with_reducible apply State.runDelta_memOk
    | intro _

theorem execNormScanDone_memOk (cmd : Nat) (s : State) (hs : State.memOk s) : OutcomeOk (execNormScanDone cmd s) := by
  unfold execNormScanDone
  repeat' first
    | with_reducible assumption
    | with_reducible apply OutcomeOk.next
    | with_reducible apply control_memOk
    | with_reducible apply State.closeTensor_memOk
    | with_reducible apply State.openTensor_memOk
    | with_reducible apply State.runNorm_memOk
    | intro _

theorem State.writeAttend_memOk (s : State) (id : Nat) (x : ACtx) (all : List ((Nat × Nat) × List Fp)) (hs : State.memOk s) : State.memOk (State.writeAttend s id x all) := by
  unfold State.writeAttend
  try dsimp only
  repeat' first
    | with_reducible assumption
    | with_reducible apply State.putIngot_memOk
    | with_reducible apply State.setRun_memOk
    | with_reducible apply foldl_memOk
    | split
    | intro _

theorem State.readBlockLeaves_memOk (s : State) (x : ACtx) (die qb : Nat) (b : QBlk) (sel : List Nat) (hs : State.memOk s) : State.memOk (State.readBlockLeaves s x die qb b sel) := by
  unfold State.readBlockLeaves
  repeat' first
    | with_reducible assumption
    | with_reducible apply State.readLeaf_memOk
    | with_reducible apply foldl_memOk
    | split
    | intro _

theorem State.endAttend_memOk (s : State) (id : Nat) (hs : State.memOk s) : State.memOk (State.endAttend s id) := by
  unfold State.endAttend
  repeat' first
    | with_reducible assumption
    | with_reducible apply State.fetchAll_memOk
    | with_reducible apply State.readBlockLeaves_memOk
    | with_reducible apply State.serve_memOk
    | with_reducible apply State.writeAttend_memOk
    | with_reducible apply State.setRun_memOk
    | with_reducible apply State.toReady_memOk
    | with_reducible apply foldl_memOk
    | split
    | extract_lets
    | intro _

theorem State.openAttend_memOk (s : State) (id : Nat) (hs : State.memOk s) : State.memOk (State.openAttend s id) := by
  unfold State.openAttend
  repeat' first
    | with_reducible assumption
    | with_reducible apply State.distribute_memOk
    | split

theorem execAttend_memOk (cmd : Nat) (s : State) (hs : State.memOk s) : OutcomeOk (execAttend cmd s) := by
  unfold execAttend
  repeat' first
    | with_reducible assumption
    | with_reducible apply OutcomeOk.next
    | with_reducible apply control_memOk
    | with_reducible apply State.ensureStart_memOk
    | with_reducible apply State.openAttend_memOk
    | with_reducible apply State.endAttend_memOk
    | with_reducible apply State.setRun_memOk
    | with_reducible apply State.deliverAll_memOk
    | split
    | extract_lets
    | intro _

theorem execBlockSelectionDone_memOk (cmd qb : Nat) (s : State) (hs : State.memOk s) : OutcomeOk (execBlockSelectionDone cmd qb s) := by
  unfold execBlockSelectionDone
  repeat' first
    | with_reducible assumption
    | with_reducible apply OutcomeOk.next
    | with_reducible apply control_memOk
    | with_reducible apply State.setRun_memOk
    | with_reducible apply State.openAttend_memOk
    | split
    | intro _

theorem execAttendBuildSketches_memOk (cmd : Nat) (s : State) (hs : State.memOk s) : OutcomeOk (execAttendBuildSketches cmd s) := by
  unfold execAttendBuildSketches
  repeat' first
    | with_reducible assumption
    | with_reducible apply OutcomeOk.next
    | with_reducible apply control_memOk
    | with_reducible apply State.ensureStart_memOk
    | with_reducible apply State.toReady_memOk
    | with_reducible apply State.putObj_memOk
    | with_reducible apply foldl_memOk
    | split
    | extract_lets
    | intro _

theorem State.moveRows_memOk (s : State) (id key : Nat) (handle : Nat) (x : Operand) (width i : Nat) (src : Nat → Option (Nat × Nat)) (hs : State.memOk s) : State.memOk (State.moveRows s id key handle x width i src) := by
  unfold State.moveRows
  repeat' first
    | with_reducible assumption
    | with_reducible apply State.setRun_memOk
    | with_reducible apply State.putIngot_memOk
    | with_reducible apply State.fetchOne_memOk
    | with_reducible apply foldl_memOk
    | split
    | intro _

theorem State.putList_memOk (s : State) (id owner handle : Nat) (b : Bytes) (hs : State.memOk s) : State.memOk (State.putList s id owner handle b) := by
  unfold State.putList
  repeat' first
    | with_reducible assumption
    | with_reducible apply State.putObj_memOk
    | split

theorem State.endRoute_memOk (s : State) (id detail : Nat) (hs : State.memOk s) : State.memOk (State.endRoute s id detail) := by
  unfold State.endRoute
  repeat' first
    | with_reducible assumption
    | with_reducible apply State.toReady_memOk
    | split

theorem State.noteFails_memOk (s : State) (id : Nat) (fs : List (Nat × Nat)) (hs : State.memOk s) : State.memOk (State.noteFails s id fs) := by
  unfold State.noteFails
  repeat' first
    | with_reducible assumption
    | with_reducible apply State.setRun_memOk

theorem route_memOk (mode : Nat) (body : Cmd → Bytes → (Nat → Nat) → State → State) (cmd : Nat) (s : State)
    (hbody : ∀ c b d t, State.memOk t → State.memOk (body c b d t)) (hs : State.memOk s) : State.memOk (route mode body cmd s) := by
  unfold route
  apply control_memOk
  · intro c t ht
    dsimp only
    split
    · exact ht
    · have h1 := State.unitStart_memOk t cmd ht
      split
      · split
        · exact hbody _ _ _ _ h1
        · exact h1
      · exact h1
  · exact hs

theorem State.exchangeCounts_memOk (s : State) (owner : Nat) (counts : Nat → List Nat) (hs : State.memOk s) : State.memOk (State.exchangeCounts s owner counts) := by
  unfold State.exchangeCounts
  repeat' first
    | with_reducible assumption
    | with_reducible apply State.sendSpineFor_memOk
    | with_reducible apply foldl_memOk
    | split
    | intro _

theorem execRouteLengthBucket_memOk (cmd : Nat) (s : State) (hs : State.memOk s) : OutcomeOk (execRouteLengthBucket cmd s) := by
  unfold execRouteLengthBucket
  repeat' first
    | with_reducible assumption
    | with_reducible apply OutcomeOk.next
    | with_reducible apply route_memOk
    | with_reducible apply State.exchangeCounts_memOk
    | with_reducible apply State.noteFails_memOk
    | with_reducible apply State.putList_memOk
    | with_reducible apply State.endRoute_memOk
    | intro _

theorem execRouteLengthPack_memOk (cmd : Nat) (s : State) (hs : State.memOk s) : OutcomeOk (execRouteLengthPack cmd s) := by
  unfold execRouteLengthPack
  try dsimp only
  repeat' first
    | with_reducible assumption
    | with_reducible apply OutcomeOk.next
    | with_reducible apply route_memOk
    | with_reducible apply State.exchangeCounts_memOk
    | with_reducible apply State.noteFails_memOk
    | with_reducible apply State.moveRows_memOk
    | with_reducible apply State.endRoute_memOk
    | with_reducible apply State.putList_memOk
    | with_reducible apply foldl_memOk
    | split
    | intro _

theorem execRouteExpertDispatch_memOk (cmd : Nat) (s : State) (hs : State.memOk s) : OutcomeOk (execRouteExpertDispatch cmd s) := by
  unfold execRouteExpertDispatch
  repeat' first
    | with_reducible assumption
    | with_reducible apply OutcomeOk.next
    | with_reducible apply route_memOk
    | with_reducible apply State.exchangeCounts_memOk
    | with_reducible apply State.noteFails_memOk
    | with_reducible apply State.moveRows_memOk
    | with_reducible apply State.endRoute_memOk
    | with_reducible apply State.putList_memOk
    | with_reducible apply foldl_memOk
    | split
    | intro _

theorem execRouteExpertCombine_memOk (cmd : Nat) (s : State) (hs : State.memOk s) : OutcomeOk (execRouteExpertCombine cmd s) := by
  unfold execRouteExpertCombine
  try dsimp only
  repeat' first
    | with_reducible assumption
    | with_reducible apply OutcomeOk.next
    | with_reducible apply route_memOk
    | with_reducible apply State.noteFails_memOk
    | with_reducible apply State.putIngot_memOk
    | with_reducible apply State.endRoute_memOk
    | with_reducible apply foldl_memOk
    | split
    | intro _

theorem State.markPages_memOk (s : State) (d : Nat) (fs : List Nat) (hs : State.memOk s) : State.memOk (State.markPages s d fs) := by
  unfold State.markPages
  repeat' first
    | with_reducible assumption
    | with_reducible apply State.setFrames_memOk
    | with_reducible apply foldl_memOk
    | intro _

theorem State.reserveEntry_memOk (s : State) (part kvFmt : Nat) (lay : Nat × Nat) (e : StepEntry) (hs : State.memOk s) : State.memOk (State.reserveEntry s part kvFmt lay e).1 := by
  unfold State.reserveEntry
  repeat' first
    | with_reducible assumption
    | with_reducible refine State.draw_memOk (by with_reducible assumption) ?_
    | with_reducible apply State.markPages_memOk
    | split
    | extract_lets

theorem State.reserveSome_memOk (s : State) (part kvFmt : Nat) (lay : Nat × Nat) (joins : Bool) (es : List StepEntry) (hs : State.memOk s) : State.memOk (State.reserveSome s part kvFmt lay joins es).1 := by
  unfold State.reserveSome
  repeat' first
    | with_reducible assumption
    | with_reducible apply State.reserveEntry_memOk
    | with_reducible apply foldl_memOk_fst
    | split
    | intro _

theorem State.stepCollation_memOk (s : State) (id : Nat) (c : Cmd) (es : List StepEntry) (hs : State.memOk s) : State.memOk (State.stepCollation s id c es) := by
  unfold State.stepCollation
  repeat' first
    | with_reducible assumption
    | with_reducible apply State.putList_memOk
    | split
    | extract_lets

theorem State.runOpen_memOk (s : State) (id : Nat) (c : Cmd) (hs : State.memOk s) : State.memOk (State.runOpen s id c) := by
  unfold State.runOpen
  repeat' first
    | with_reducible assumption
    | with_reducible apply State.toReady_memOk
    | with_reducible apply State.reserveSome_memOk
    | with_reducible apply State.setCmd_memOk
    | with_reducible apply State.putList_memOk
    | with_reducible apply State.stepCollation_memOk
    | split
    | extract_lets

theorem State.commitOpen_memOk (s : State) (c : Cmd) (hs : State.memOk s) : State.memOk (State.commitOpen s c) := by
  unfold State.commitOpen
  repeat' first
    | with_reducible assumption
    | with_reducible apply State.setSeq_memOk
    | with_reducible apply foldl_memOk
    | split
    | intro _
    | fail_if_no_progress (unfold State.memOk; dsimp only; with_reducible apply State.memOk.out)

theorem State.runAppend_memOk (s : State) (id : Nat) (c : Cmd) (hs : State.memOk s) : State.memOk (State.runAppend s id c) := by
  unfold State.runAppend
  repeat' first
    | with_reducible assumption
    | with_reducible apply State.toReady_memOk
    | split
    | extract_lets

theorem State.copyLeaf_memOk (s : State) (q : Seq) (g n upto : Nat) (src dst : LeafEntry) (hs : State.memOk s) : State.memOk (State.copyLeaf s q g n upto src dst) := by
  unfold State.copyLeaf
  repeat' first
    | with_reducible assumption
    | with_reducible apply State.writeLeaf_memOk
    | with_reducible apply State.readLeaf_memOk
    | with_reducible apply foldl_memOk
    | intro _

theorem State.useLeaf_memOk (s : State) (q : Seq) (e : StepEntry) (w : Nat) (hs : State.memOk s) : State.memOk (State.useLeaf s q e w).1 := by
  unfold State.useLeaf
  repeat' first
    | with_reducible assumption
    | with_reducible apply State.copyLeaf_memOk
    | split

theorem State.appendEntry_memOk (s : State) (layer : Nat) (ko vo : Option Operand) (e : StepEntry) (hs : State.memOk s) : State.memOk (State.appendEntry s layer ko vo e).1 := by
  unfold State.appendEntry
  repeat' first
    | with_reducible assumption
    | with_reducible apply State.useLeaf_memOk
    | with_reducible apply State.putRow_memOk
    | with_reducible apply State.writeSketches_memOk
    | with_reducible apply foldl_memOk
    | with_reducible apply foldl_memOk_fst
    | split
    | intro _

theorem State.commitAppend_memOk (s : State) (c : Cmd) (hs : State.memOk s) : State.memOk (State.commitAppend s c) := by
  unfold State.commitAppend
  try dsimp only
  repeat' first
    | with_reducible assumption
    | with_reducible apply State.appendEntry_memOk
    | with_reducible apply foldl_memOk_fst
    | split
    | intro _
    | fail_if_no_progress (unfold State.memOk; dsimp only; with_reducible apply State.memOk.out)

theorem State.returnFrames_memOk (s : State) (e : StepEntry) (keep : Nat → Bool) (hs : State.memOk s) : State.memOk (State.returnFrames s e keep) := by
  unfold State.returnFrames
  repeat' first
    | with_reducible assumption
    | with_reducible apply State.freeFrame_memOk
    | with_reducible apply foldl_memOk
    | intro _

theorem State.closeEntry_memOk (s : State) (e : StepEntry) (hs : State.memOk s) : State.memOk (State.closeEntry s e) := by
  unfold State.closeEntry
  repeat' first
    | with_reducible assumption
    | with_reducible apply State.unref_memOk
    | with_reducible apply State.addRef_memOk
    | with_reducible apply State.returnFrames_memOk
    | with_reducible apply State.touchEntries_memOk
    | with_reducible apply State.setSeq_memOk
    | with_reducible apply foldl_memOk
    | split
    | intro _

theorem State.runClose_memOk (s : State) (id : Nat) (c : Cmd) (hs : State.memOk s) : State.memOk (State.runClose s id c) := by
  unfold State.runClose
  repeat' first
    | with_reducible assumption
    | with_reducible apply State.toReady_memOk
    | with_reducible apply State.putList_memOk
    | split

theorem State.commitClose_memOk (s : State) (c : Cmd) (hs : State.memOk s) : State.memOk (State.commitClose s c) := by
  unfold State.commitClose
  repeat' first
    | with_reducible assumption
    | with_reducible apply State.closeEntry_memOk
    | with_reducible apply foldl_memOk
    | split
    | fail_if_no_progress (unfold State.memOk; dsimp only; with_reducible apply State.memOk.out)

theorem State.cancelEntry_memOk (s : State) (x : Step) (e : StepEntry) (hs : State.memOk s) : State.memOk (State.cancelEntry s x e) := by
  unfold State.cancelEntry
  repeat' first
    | with_reducible assumption
    | with_reducible apply State.returnFrames_memOk
    | with_reducible apply State.setSeq_memOk
    | with_reducible apply State.writeSketches_memOk
    | with_reducible apply foldl_memOk
    | split
    | intro _

theorem State.cancelStep_memOk (s : State) (part h : Nat) (hs : State.memOk s) : State.memOk (State.cancelStep s part h) := by
  unfold State.cancelStep
  repeat' first
    | with_reducible assumption
    | with_reducible apply State.cancelEntry_memOk
    | with_reducible apply foldl_memOk
    | split
    | intro _
    | fail_if_no_progress (unfold State.memOk; dsimp only; with_reducible apply State.memOk.out)

theorem bindery_memOk (op : Nat) (sel : Cmd → Bool) (body : Nat → Cmd → State → State) (cmd : Nat) (s : State) (hbody : ∀ (q0 : Nat) (q1 : Cmd) (q2 : State), State.memOk q2 → State.memOk (body q0 q1 q2)) (hs : State.memOk s) : State.memOk (bindery op sel body cmd s) := by
  unfold bindery
  repeat' first
    | with_reducible assumption
    | with_reducible apply control_memOk
    | with_reducible apply State.unitStart_memOk
    | with_reducible apply hbody
    | split
    | extract_lets
    | intro _

theorem execSeqStepOpen_memOk (cmd : Nat) (s : State) (hs : State.memOk s) : OutcomeOk (execSeqStepOpen cmd s) := by
  unfold execSeqStepOpen
  repeat' first
    | with_reducible assumption
    | with_reducible apply OutcomeOk.next
    | with_reducible apply bindery_memOk
    | with_reducible apply State.runOpen_memOk
    | split
    | intro _

theorem execSeqStepAppend_memOk (cmd : Nat) (s : State) (hs : State.memOk s) : OutcomeOk (execSeqStepAppend cmd s) := by
  unfold execSeqStepAppend
  repeat' first
    | with_reducible assumption
    | with_reducible apply OutcomeOk.next
    | with_reducible apply bindery_memOk
    | with_reducible apply State.runAppend_memOk
    | intro _

theorem execSeqStepClose_memOk (cmd : Nat) (s : State) (hs : State.memOk s) : OutcomeOk (execSeqStepClose cmd s) := by
  unfold execSeqStepClose
  repeat' first
    | with_reducible assumption
    | with_reducible apply OutcomeOk.next
    | with_reducible apply bindery_memOk
    | with_reducible apply State.runClose_memOk
    | intro _

theorem execSeqStepCancel_memOk (cmd : Nat) (s : State) (hs : State.memOk s) : OutcomeOk (execSeqStepCancel cmd s) := by
  unfold execSeqStepCancel
  repeat' first
    | with_reducible assumption
    | with_reducible apply OutcomeOk.next
    | with_reducible apply bindery_memOk
    | with_reducible apply State.toReady_memOk
    | split
    | intro _

theorem State.runFork_memOk (s : State) (id : Nat) (c : Cmd) (hs : State.memOk s) : State.memOk (State.runFork s id c) := by
  unfold State.runFork
  repeat' first
    | with_reducible assumption
    | with_reducible apply State.toReady_memOk
    | with_reducible refine State.draw_memOk (by with_reducible assumption) ?_
    | with_reducible apply State.copyLeaf_memOk
    | with_reducible apply State.addRef_memOk
    | with_reducible apply State.markPages_memOk
    | with_reducible apply State.writeSketches_memOk
    | with_reducible apply State.setCmd_memOk
    | with_reducible apply foldl_memOk
    | split
    | extract_lets
    | intro _

theorem State.commitFork_memOk (s : State) (c : Cmd) (hs : State.memOk s) : State.memOk (State.commitFork s c) := by
  unfold State.commitFork
  repeat' first
    | with_reducible assumption
    | with_reducible apply State.addRef_memOk
    | with_reducible apply State.setSeq_memOk
    | with_reducible apply State.touchEntries_memOk
    | with_reducible apply foldl_memOk
    | split
    | intro _

theorem execSeqFork_memOk (cmd : Nat) (s : State) (hs : State.memOk s) : OutcomeOk (execSeqFork cmd s) := by
  unfold execSeqFork
  repeat' first
    | with_reducible assumption
    | with_reducible apply OutcomeOk.next
    | with_reducible apply bindery_memOk
    | with_reducible apply State.runFork_memOk
    | split
    | intro _

theorem execSeqFree_memOk (cmd : Nat) (s : State) (hs : State.memOk s) : OutcomeOk (execSeqFree cmd s) := by
  unfold execSeqFree
  repeat' first
    | with_reducible assumption
    | with_reducible apply OutcomeOk.next
    | with_reducible apply bindery_memOk
    | with_reducible apply State.toReady_memOk
    | split
    | intro _

theorem State.commitFree_memOk (s : State) (c : Cmd) (hs : State.memOk s) : State.memOk (State.commitFree s c) := hs

theorem State.runUnpark_memOk (s : State) (id : Nat) (c : Cmd) (hs : State.memOk s) : State.memOk (State.runUnpark s id c) := by
  unfold State.runUnpark
  try dsimp only
  repeat' first
    | with_reducible assumption
    | with_reducible apply State.toReady_memOk
    | with_reducible apply State.markLeaf_memOk
    | with_reducible apply State.writeLeaf_memOk
    | with_reducible apply State.leafDma_memOk
    | with_reducible apply State.setCmd_memOk
    | with_reducible apply foldl_memOk
    | split
    | intro _
  rename_i e
  split at e
  · cases e; exact hs
  · exact State.draw_memOk e hs

theorem State.commitUnpark_memOk (s : State) (c : Cmd) (hs : State.memOk s) : State.memOk (State.commitUnpark s c) := by
  unfold State.commitUnpark
  repeat' first
    | with_reducible assumption
    | with_reducible apply State.addRef_memOk
    | with_reducible apply State.setSeq_memOk
    | with_reducible apply State.touchEntries_memOk
    | with_reducible apply foldl_memOk
    | intro _

theorem State.runImage_memOk (s : State) (id : Nat) (c : Cmd) (hs : State.memOk s) : State.memOk (State.runImage s id c) := by
  unfold State.runImage
  try dsimp only
  repeat' first
    | with_reducible assumption
    | with_reducible apply State.toReady_memOk
    | with_reducible apply State.writeLeaf_memOk
    | with_reducible apply State.setCmd_memOk
    | with_reducible apply foldl_memOk
    | split
    | intro _
  rename_i e
  split at e
  · obtain ⟨⟨u, fs⟩, hd, he⟩ := Option.map_eq_some_iff.mp e
    cases he
    exact foldl_memOk _ _ _ (State.markPages_memOk _ _ _ (State.draw_memOk hd hs)) (fun a x h => State.addRef_memOk _ _ h)
  · cases e; exact hs

theorem State.insertNode_memOk (s : State) (d : Nat) (q : Seq) (x : PrefixNode) (hs : State.memOk s) : State.memOk (State.insertNode s d q x) := by
  unfold State.insertNode
  repeat' first
    | with_reducible assumption
    | split
    | extract_lets
    | fail_if_no_progress (unfold State.memOk; dsimp only; with_reducible apply State.memOk.out)

theorem State.commitImage_memOk (s : State) (c : Cmd) (hs : State.memOk s) : State.memOk (State.commitImage s c) := by
  unfold State.commitImage
  repeat' first
    | with_reducible assumption
    | with_reducible apply State.addRef_memOk
    | with_reducible apply State.setSeq_memOk
    | with_reducible apply State.touchEntries_memOk
    | with_reducible apply State.insertNode_memOk
    | with_reducible apply foldl_memOk
    | split
    | extract_lets
    | intro _

theorem execSeqRestoreUnpark_memOk (cmd : Nat) (s : State) (hs : State.memOk s) : OutcomeOk (execSeqRestoreUnpark cmd s) := by
  unfold execSeqRestoreUnpark
  repeat' first
    | with_reducible assumption
    | with_reducible apply OutcomeOk.next
    | with_reducible apply bindery_memOk
    | with_reducible apply State.runUnpark_memOk
    | intro _

theorem execSeqRestoreImage_memOk (cmd : Nat) (s : State) (hs : State.memOk s) : OutcomeOk (execSeqRestoreImage cmd s) := by
  unfold execSeqRestoreImage
  repeat' first
    | with_reducible assumption
    | with_reducible apply OutcomeOk.next
    | with_reducible apply bindery_memOk
    | with_reducible apply State.runImage_memOk
    | intro _

theorem State.commitBindery_memOk (s : State) (c : Cmd) (hs : State.memOk s) : State.memOk (State.commitBindery s c) := by
  unfold State.commitBindery
  repeat' first
    | with_reducible assumption
    | with_reducible apply State.commitOpen_memOk
    | with_reducible apply State.commitAppend_memOk
    | with_reducible apply State.commitClose_memOk
    | with_reducible apply State.cancelStep_memOk
    | with_reducible apply State.commitFork_memOk
    | with_reducible apply State.commitFree_memOk
    | with_reducible apply State.commitUnpark_memOk
    | with_reducible apply State.commitImage_memOk
    | split

theorem move_memOk (op : Nat) (body : Nat → Cmd → State → State) (cmd : Nat) (s : State) (hbody : ∀ (q0 : Nat) (q1 : Cmd) (q2 : State), State.memOk q2 → State.memOk (body q0 q1 q2)) (hs : State.memOk s) : State.memOk (move op body cmd s) := by
  unfold move
  repeat' first
    | with_reducible assumption
    | with_reducible apply bindery_memOk

theorem State.endMove_memOk (s : State) (id : Nat) (fail : Option (Nat × Nat)) (hs : State.memOk s) : State.memOk (State.endMove s id fail) := by
  unfold State.endMove
  repeat' first
    | with_reducible assumption
    | with_reducible apply State.toReady_memOk
    | split

theorem execMoveCopy_memOk (cmd : Nat) (s : State) (hs : State.memOk s) : OutcomeOk (execMoveCopy cmd s) := by
  unfold execMoveCopy
  repeat' first
    | with_reducible assumption
    | with_reducible apply OutcomeOk.next
    | with_reducible apply move_memOk
    | with_reducible apply State.endMove_memOk
    | with_reducible apply State.putObj_memOk
    | with_reducible apply State.putIngot_memOk
    | with_reducible apply foldl_memOk
    | split
    | extract_lets
    | intro _

theorem execMoveImport_memOk (cmd : Nat) (s : State) (hs : State.memOk s) : OutcomeOk (execMoveImport cmd s) := by
  unfold execMoveImport
  repeat' first
    | with_reducible assumption
    | with_reducible apply OutcomeOk.next
    | with_reducible apply move_memOk
    | with_reducible apply State.bulkDma_memOk
    | with_reducible apply State.endMove_memOk
    | with_reducible apply State.putObj_memOk
    | with_reducible apply State.putIngot_memOk
    | with_reducible apply foldl_memOk
    | split
    | extract_lets
    | intro _

theorem execMoveExport_memOk (cmd : Nat) (s : State) (hs : State.memOk s) : OutcomeOk (execMoveExport cmd s) := by
  unfold execMoveExport
  try dsimp only
  repeat' first
    | with_reducible assumption
    | with_reducible apply OutcomeOk.next
    | with_reducible apply move_memOk
    | with_reducible apply State.endMove_memOk
    | with_reducible apply State.setCmd_memOk
    | split
    | intro _

theorem execMoveSeqExport_memOk (cmd : Nat) (s : State) (hs : State.memOk s) : OutcomeOk (execMoveSeqExport cmd s) := by
  unfold execMoveSeqExport
  repeat' first
    | with_reducible assumption
    | with_reducible apply OutcomeOk.next
    | with_reducible apply move_memOk
    | with_reducible apply State.endMove_memOk
    | with_reducible apply State.bulkDma_memOk
    | with_reducible apply State.setCmd_memOk
    | with_reducible apply State.leafDma_memOk
    | split
    | extract_lets
    | intro _

theorem execMoveRetier_memOk (cmd : Nat) (s : State) (hs : State.memOk s) : OutcomeOk (execMoveRetier cmd s) := by
  unfold execMoveRetier
  repeat' first
    | with_reducible assumption
    | with_reducible apply OutcomeOk.next
    | with_reducible apply move_memOk
    | with_reducible apply State.endMove_memOk
    | split
    | intro _

theorem State.commitRetier_memOk (s : State) (c : Cmd) (hs : State.memOk s) : State.memOk (State.commitRetier s c) := by
  unfold State.commitRetier
  repeat' first
    | with_reducible assumption
    | with_reducible apply State.bulkWrite_memOk
    | with_reducible apply State.writeBack_memOk
    | with_reducible apply State.bulkDma_memOk
    | with_reducible apply State.readMoved_memOk
    | with_reducible apply State.leavePages_memOk
    | with_reducible apply State.setObj_memOk
    | with_reducible apply State.filled_memOk
    | with_reducible apply foldl_memOk
    | split
    | extract_lets
    | intro _
    | fail_if_no_progress (unfold State.memOk; dsimp +zetaDelta only; with_reducible apply State.memOk.out)

theorem State.commitMove_memOk (s : State) (c : Cmd) (hs : State.memOk s) : State.memOk (State.commitMove s c) := by
  unfold State.commitMove
  repeat' first
    | with_reducible assumption
    | with_reducible apply State.bulkWrite_memOk
    | with_reducible apply State.commitRetier_memOk
    | split

end Sys2Proof.Machine
end

