-- ==== Sys2Proof/Laws/KeepLinks.lean ====
section
/-! SUPPORT. Byte memories stay canonical through every operation: links, power, collectives and peers. Each lemma names the operation and ends in _memOk. -/

namespace Sys2Proof.Machine

theorem State.sendControl_memOk (s : State) (l : Nat) (nak : Bool) (hs : State.memOk s) : State.memOk (State.sendControl s l nak) := hs

theorem State.sendLinkFor_memOk (s : State) (part l : Nat) (m : Msg) (hs : State.memOk s) : State.memOk (State.sendLinkFor s part l m) := by
  unfold State.sendLinkFor
  repeat' first
    | with_reducible assumption
    | with_reducible apply State.sendLink_memOk
    | with_reducible apply State.request_memOk
    | split

theorem State.linkRound_memOk (s : State) (l : Nat) (hs : State.memOk s) : State.memOk (State.linkRound s l) := by
  unfold State.linkRound
  repeat' first
    | with_reducible assumption
    | with_reducible apply State.setLink_memOk
    | with_reducible apply State.takeFresh_memOk
    | split
    | extract_lets
    | fail_if_no_progress (unfold State.memOk; dsimp only; with_reducible apply State.memOk.out)

theorem State.idle_memOk (s : State) (hs : State.memOk s) : State.memOk (State.idle s) := by
  unfold State.idle
  repeat' first
    | with_reducible assumption
    | with_reducible apply State.linkRound_memOk
    | with_reducible apply State.tick_memOk
    | with_reducible apply foldl_memOk
    | split

theorem State.markDown_memOk (s : State) (l : Nat) (hs : State.memOk s) : State.memOk (State.markDown s l) := by
  unfold State.markDown
  repeat' first
    | with_reducible assumption
    | with_reducible apply State.setLink_memOk
    | with_reducible apply State.report_memOk
    | with_reducible apply State.failCmd_memOk
    | with_reducible apply foldl_memOk
    | intro _
    | fail_if_no_progress (unfold State.memOk; dsimp only; with_reducible apply State.memOk.out)

theorem State.startRetrain_memOk (s : State) (l : Nat) (hs : State.memOk s) : State.memOk (State.startRetrain s l) := hs

theorem State.sendHello_memOk (s : State) (l : Nat) (hs : State.memOk s) : State.memOk (State.sendHello s l) := hs

theorem State.refuseFrame_memOk (s : State) (l : Nat) (crcOk : Bool) (hs : State.memOk s) : State.memOk (State.refuseFrame s l crcOk) := hs

theorem State.acceptData_memOk (s : State) (l vc : Nat) (x : Link) (payload : Bytes) (hs : State.memOk s) : State.memOk (State.acceptData s l vc x payload) := by
  unfold State.acceptData
  repeat' first
    | with_reducible assumption
    | with_reducible apply State.markDown_memOk
    | with_reducible apply State.refuseFrame_memOk
    | with_reducible apply State.setLink_memOk
    | with_reducible apply State.sendControl_memOk
    | split
    | extract_lets
    | fail_if_no_progress (unfold State.memOk; dsimp +zetaDelta only; with_reducible apply State.memOk.out)

theorem execLinkDataFrame_memOk (link vc seqNo : Nat) (crcOk : Bool) (payload : Bytes) (s : State) (hs : State.memOk s) : OutcomeOk (execLinkDataFrame link vc seqNo crcOk payload s) := by
  unfold execLinkDataFrame
  repeat' first
    | with_reducible assumption
    | with_reducible apply OutcomeOk.next
    | with_reducible apply State.acceptData_memOk
    | with_reducible apply State.refuseFrame_memOk
    | split
    | extract_lets

theorem execLinkControlFrame_memOk (link seqNo : Nat) (crcOk : Bool) (credits : List Nat) (ack : Nat) (s : State) (hs : State.memOk s) : OutcomeOk (execLinkControlFrame link seqNo crcOk credits ack s) := by
  unfold execLinkControlFrame
  repeat' first
    | with_reducible assumption
    | with_reducible apply OutcomeOk.next
    | with_reducible apply State.setLink_memOk
    | with_reducible apply State.refuseFrame_memOk
    | split
    | extract_lets

theorem execLinkNak_memOk (link seqNo : Nat) (credits : List Nat) (ack : Nat) (s : State) (hs : State.memOk s) : OutcomeOk (execLinkNak link seqNo credits ack s) := by
  unfold execLinkNak
  repeat' first
    | with_reducible assumption
    | with_reducible apply OutcomeOk.next
    | with_reducible apply State.refuseFrame_memOk
    | with_reducible apply State.startRetrain_memOk
    | with_reducible apply State.setLink_memOk
    | split
    | extract_lets
    | fail_if_no_progress (unfold State.memOk; dsimp only; with_reducible apply State.memOk.out)

theorem execLinkControlTimer_memOk (link : Nat) (t : Word) (s : State) (hs : State.memOk s) : OutcomeOk (execLinkControlTimer link t s) := by
  unfold execLinkControlTimer
  repeat' first
    | with_reducible assumption
    | with_reducible apply OutcomeOk.next
    | with_reducible apply State.reach_memOk
    | with_reducible apply State.sendControl_memOk
    | split
    | extract_lets

theorem execUncorrectableCodeword_memOk (link : Nat) (s : State) (hs : State.memOk s) : OutcomeOk (execUncorrectableCodeword link s) := by
  unfold execUncorrectableCodeword
  repeat' first
    | with_reducible assumption
    | with_reducible apply OutcomeOk.next
    | with_reducible apply State.setLink_memOk
    | with_reducible apply State.startRetrain_memOk
    | split
    | extract_lets

theorem execLinkRetrainDone_memOk (link : Nat) (s : State) (hs : State.memOk s) : OutcomeOk (execLinkRetrainDone link s) := by
  unfold execLinkRetrainDone
  repeat' first
    | with_reducible assumption
    | with_reducible apply OutcomeOk.next
    | with_reducible apply State.setLink_memOk
    | with_reducible apply State.sendHello_memOk
    | split
    | extract_lets
    | fail_if_no_progress (unfold State.memOk; dsimp only; with_reducible apply State.memOk.out)

theorem execLinkRetrainTimeout_memOk (link : Nat) (t : Word) (s : State) (hs : State.memOk s) : OutcomeOk (execLinkRetrainTimeout link t s) := by
  unfold execLinkRetrainTimeout
  repeat' first
    | with_reducible assumption
    | with_reducible apply OutcomeOk.next
    | with_reducible apply State.reach_memOk
    | with_reducible apply State.markDown_memOk
    | split
    | extract_lets

theorem execLinkTrainingRetry_memOk (link : Nat) (ok : Bool) (t : Word) (s : State) (hs : State.memOk s) : OutcomeOk (execLinkTrainingRetry link ok t s) := by
  unfold execLinkTrainingRetry
  repeat' first
    | with_reducible assumption
    | with_reducible apply OutcomeOk.next
    | with_reducible apply State.reach_memOk
    | with_reducible apply State.setLink_memOk
    | with_reducible apply State.sendHello_memOk
    | split
    | extract_lets

theorem State.deliver_memOk (s : State) (link : Nat) (m : Msg) (hs : State.memOk s) : State.memOk (State.deliver s link m) := hs

theorem State.sendKey_memOk (s : State) (l : Nat) (hs : State.memOk s) : State.memOk (State.sendKey s l) := by
  unfold State.sendKey
  repeat' first
    | with_reducible assumption
    | with_reducible apply State.takeFresh_memOk
    | split
    | fail_if_no_progress (unfold State.memOk; dsimp only; with_reducible apply State.memOk.out)

theorem execHello_memOk (link : Nat) (m : Msg) (s : State) (hs : State.memOk s) : OutcomeOk (execHello link m s) := by
  unfold execHello
  repeat' first
    | with_reducible assumption
    | with_reducible apply OutcomeOk.next
    | with_reducible apply State.deliver_memOk
    | with_reducible apply State.sendKey_memOk
    | with_reducible apply State.setLink_memOk
    | split
    | extract_lets

theorem execPartIdWrite_memOk (value : Nat) (s : State) (hs : State.memOk s) : OutcomeOk (execPartIdWrite value s) := by
  unfold execPartIdWrite
  repeat' first
    | with_reducible assumption
    | with_reducible apply OutcomeOk.next
    | with_reducible apply State.protocolHs_memOk
    | with_reducible apply State.sendHello_memOk
    | with_reducible apply foldl_memOk
    | split
    | fail_if_no_progress (unfold State.memOk; dsimp only; with_reducible apply State.memOk.out)

theorem execXlinkVcWeightWrite_memOk (link value : Nat) (s : State) (hs : State.memOk s) : OutcomeOk (execXlinkVcWeightWrite link value s) := by
  unfold execXlinkVcWeightWrite
  repeat' first
    | with_reducible assumption
    | with_reducible apply OutcomeOk.next
    | with_reducible apply State.setLink_memOk
    | split

theorem execXlinkSecWrite_memOk (link value : Nat) (s : State) (hs : State.memOk s) : OutcomeOk (execXlinkSecWrite link value s) := by
  unfold execXlinkSecWrite
  repeat' first
    | with_reducible assumption
    | with_reducible apply OutcomeOk.next
    | with_reducible apply State.setLink_memOk
    | split

theorem execXlinkTestWrite_memOk (link value : Nat) (s : State) (hs : State.memOk s) : OutcomeOk (execXlinkTestWrite link value s) := by
  unfold execXlinkTestWrite
  repeat' first
    | with_reducible assumption
    | with_reducible apply OutcomeOk.next
    | with_reducible apply State.markDown_memOk
    | with_reducible apply State.setLink_memOk
    | with_reducible apply State.takeFresh_memOk
    | with_reducible apply State.startRetrain_memOk
    | split

theorem execLinkKeyExchange_memOk (link : Nat) (peerEnabled chainOk : Bool) (peerSvn : Nat) (peerUnlocked : Bool) (s : State) (hs : State.memOk s) : OutcomeOk (execLinkKeyExchange link peerEnabled chainOk peerSvn peerUnlocked s) := by
  unfold execLinkKeyExchange
  repeat' first
    | with_reducible assumption
    | with_reducible apply OutcomeOk.next
    | with_reducible apply State.markDown_memOk
    | with_reducible apply State.setLink_memOk
    | with_reducible apply State.takeFresh_memOk
    | split
    | extract_lets

theorem execLinkSessionLimit_memOk (link : Nat) (s : State) (hs : State.memOk s) : OutcomeOk (execLinkSessionLimit link s) := by
  unfold execLinkSessionLimit
  repeat' first
    | with_reducible assumption
    | with_reducible apply OutcomeOk.next
    | with_reducible apply State.setLink_memOk
    | split
    | extract_lets

theorem State.dropMsg_memOk (s : State) (link type : Nat) (hs : State.memOk s) : State.memOk (State.dropMsg s link type) := by
  unfold State.dropMsg
  repeat' first
    | with_reducible assumption
    | with_reducible apply State.report_memOk

theorem execMessageForward_memOk (link : Nat) (m : Msg) (s : State) (hs : State.memOk s) : OutcomeOk (execMessageForward link m s) := by
  unfold execMessageForward
  repeat' first
    | with_reducible assumption
    | with_reducible apply OutcomeOk.next
    | with_reducible apply State.deliver_memOk
    | with_reducible apply State.dropMsg_memOk
    | with_reducible apply State.sendLinkFor_memOk
    | split
    | extract_lets

theorem execMessageDrop_memOk (link vc : Nat) (m : Msg) (s : State) (hs : State.memOk s) : OutcomeOk (execMessageDrop link vc m s) := by
  unfold execMessageDrop
  repeat' first
    | with_reducible assumption
    | with_reducible apply OutcomeOk.next
    | with_reducible apply State.deliver_memOk
    | with_reducible apply State.dropMsg_memOk
    | split
    | extract_lets

theorem execGroupSet_memOk (cmd : Nat) (s : State) (hs : State.memOk s) : OutcomeOk (execGroupSet cmd s) := by
  unfold execGroupSet
  repeat' first
    | with_reducible assumption
    | with_reducible apply OutcomeOk.next
    | with_reducible exact JudgeOk.error _
    | with_reducible apply JudgeOk.ok
    | with_reducible apply control_memOk
    | with_reducible apply State.asDma_memOk
    | with_reducible apply State.settle_memOk
    | split
    | extract_lets
    | intro _
    | fail_if_no_progress (unfold State.memOk; dsimp only; with_reducible apply State.memOk.out)

theorem execGroupClear_memOk (cmd : Nat) (s : State) (hs : State.memOk s) : OutcomeOk (execGroupClear cmd s) := by
  unfold execGroupClear
  repeat' first
    | with_reducible assumption
    | with_reducible apply OutcomeOk.next
    | with_reducible exact JudgeOk.error _
    | with_reducible apply JudgeOk.ok
    | with_reducible apply control_memOk
    | with_reducible apply State.settle_memOk
    | split
    | extract_lets
    | intro _
    | fail_if_no_progress (unfold State.memOk; dsimp only; with_reducible apply State.memOk.out)

theorem State.reportCs_memOk (s : State) (d cls : Nat) (hs : State.memOk s) : State.memOk (State.reportCs s d cls) := by
  unfold State.reportCs
  repeat' first
    | with_reducible assumption
    | with_reducible apply State.report_memOk

theorem execPowerSetArithPoint_memOk (cmd : Nat) (s : State) (hs : State.memOk s) : OutcomeOk (execPowerSetArithPoint cmd s) := by
  unfold execPowerSetArithPoint
  repeat' first
    | with_reducible assumption
    | with_reducible apply OutcomeOk.next
    | with_reducible exact JudgeOk.error _
    | with_reducible apply control_memOk
    | with_reducible apply State.settle_memOk
    | with_reducible apply State.setDiePower_memOk
    | with_reducible apply State.finish_memOk
    | with_reducible apply State.setCmd_memOk
    | with_reducible apply foldl_memOk
    | split
    | extract_lets
    | intro _

theorem State.settledPoints_memOk (s : State) (hs : State.memOk s) : State.memOk (State.settledPoints s) := by
  unfold State.settledPoints
  repeat' first
    | with_reducible assumption
    | with_reducible apply State.finish_memOk
    | with_reducible apply foldl_memOk
    | split
    | intro _

theorem execApSettleDone_memOk (die : Nat) (s : State) (hs : State.memOk s) : OutcomeOk (execApSettleDone die s) := by
  unfold execApSettleDone
  repeat' first
    | with_reducible assumption
    | with_reducible apply OutcomeOk.next
    | with_reducible apply State.settledPoints_memOk
    | with_reducible apply State.setDiePower_memOk
    | split

theorem State.gateGroups_memOk (s : State) (g : BitVec 96) (hs : State.memOk s) : State.memOk (State.gateGroups s g) := hs

theorem execPowerSetGroupsOff_memOk (cmd : Nat) (s : State) (hs : State.memOk s) : OutcomeOk (execPowerSetGroupsOff cmd s) := by
  unfold execPowerSetGroupsOff
  repeat' first
    | with_reducible assumption
    | with_reducible apply OutcomeOk.next
    | with_reducible exact JudgeOk.error _
    | with_reducible apply control_memOk
    | with_reducible apply State.settle_memOk
    | with_reducible apply State.finish_memOk
    | with_reducible apply State.gateGroups_memOk
    | split
    | extract_lets
    | intro _

theorem State.groupsOn_memOk (s : State) (g : BitVec 96) (hs : State.memOk s) : State.memOk (State.groupsOn s g) := hs

theorem execPowerSetGroupsOn_memOk (cmd : Nat) (s : State) (hs : State.memOk s) : OutcomeOk (execPowerSetGroupsOn cmd s) := by
  unfold execPowerSetGroupsOn
  repeat' first
    | with_reducible assumption
    | with_reducible apply OutcomeOk.next
    | with_reducible exact JudgeOk.error _
    | with_reducible apply control_memOk
    | with_reducible apply State.settle_memOk
    | with_reducible apply State.finish_memOk
    | with_reducible apply State.groupsOn_memOk
    | split
    | intro _

theorem execPowerSetGroupsCycle_memOk (cmd : Nat) (s : State) (hs : State.memOk s) : OutcomeOk (execPowerSetGroupsCycle cmd s) := by
  unfold execPowerSetGroupsCycle
  repeat' first
    | with_reducible assumption
    | with_reducible apply OutcomeOk.next
    | with_reducible exact JudgeOk.error _
    | with_reducible apply control_memOk
    | with_reducible apply State.settle_memOk
    | with_reducible apply State.gateGroups_memOk
    | with_reducible apply State.setCmd_memOk
    | split
    | extract_lets
    | intro _
    | fail_if_no_progress (unfold State.memOk; dsimp only; with_reducible apply State.memOk.out)

theorem execGroupsCycleOnTimer_memOk (t : Word) (s : State) (hs : State.memOk s) : OutcomeOk (execGroupsCycleOnTimer t s) := by
  unfold execGroupsCycleOnTimer
  repeat' first
    | with_reducible assumption
    | with_reducible apply OutcomeOk.next
    | with_reducible apply State.reach_memOk
    | with_reducible apply State.groupsOn_memOk
    | with_reducible apply State.finish_memOk
    | with_reducible apply foldl_memOk
    | split
    | extract_lets
    | intro _
    | fail_if_no_progress (unfold State.memOk; dsimp only; with_reducible apply State.memOk.out)

theorem execQuireGroupReady_memOk (group : Nat) (t : Word) (s : State) (hs : State.memOk s) : OutcomeOk (execQuireGroupReady group t s) := by
  unfold execQuireGroupReady
  repeat' first
    | with_reducible assumption
    | with_reducible apply OutcomeOk.next
    | with_reducible apply State.reach_memOk
    | fail_if_no_progress (unfold State.memOk; dsimp only; with_reducible apply State.memOk.out)

theorem execClampUpdate_memOk (die : Nat) (reading : ClampReading) (t : Word) (s : State) (hs : State.memOk s) : OutcomeOk (execClampUpdate die reading t s) := by
  unfold execClampUpdate
  repeat' first
    | with_reducible assumption
    | with_reducible apply OutcomeOk.next
    | with_reducible apply State.reach_memOk
    | with_reducible apply State.setDiePower_memOk
    | with_reducible apply State.reportCs_memOk
    | split
    | extract_lets
    | fail_if_no_progress (unfold State.memOk; dsimp +zetaDelta only; with_reducible apply State.memOk.out)

theorem State.trip_memOk (s : State) (hs : State.memOk s) : State.memOk (State.trip s) := hs

theorem execProtectiveTrip_memOk (isStack : Bool) (_unit : Nat) (temp : Int) (s : State) (hs : State.memOk s) : OutcomeOk (execProtectiveTrip isStack _unit temp s) := by
  unfold execProtectiveTrip
  repeat' first
    | with_reducible assumption
    | with_reducible apply OutcomeOk.next
    | with_reducible apply State.trip_memOk
    | split

theorem execStackTempReport_memOk (stack : Nat) (temp : Int) (t : Word) (s : State) (hs : State.memOk s) : OutcomeOk (execStackTempReport stack temp t s) := by
  unfold execStackTempReport
  try dsimp only
  repeat' first
    | with_reducible assumption
    | with_reducible apply OutcomeOk.next
    | with_reducible apply State.reach_memOk
    | with_reducible apply State.setStack_memOk
    | with_reducible apply State.reportCs_memOk
    | with_reducible apply State.trip_memOk
    | exact State.stackAt_wf _ _ (State.reach_memOk _ _ _ (by with_reducible assumption))
    | split

theorem execIoutCalibration_memOk (die iout sensed : Nat) (t : Word) (s : State) (hs : State.memOk s) : OutcomeOk (execIoutCalibration die iout sensed t s) := by
  unfold execIoutCalibration
  repeat' first
    | with_reducible assumption
    | with_reducible apply OutcomeOk.next
    | with_reducible apply State.reach_memOk
    | with_reducible apply State.setDiePower_memOk

theorem execTelemetryRefresh_memOk (reading : TelemetryReading) (t : Word) (s : State) (hs : State.memOk s) : OutcomeOk (execTelemetryRefresh reading t s) := by
  unfold execTelemetryRefresh
  repeat' first
    | with_reducible assumption
    | with_reducible apply OutcomeOk.next
    | with_reducible apply State.reach_memOk
    | split
    | extract_lets
    | fail_if_no_progress (unfold State.memOk; dsimp only; with_reducible apply State.memOk.out)

theorem execRailPoll_memOk (mw : List Nat) (t : Word) (s : State) (hs : State.memOk s) : OutcomeOk (execRailPoll mw t s) := by
  unfold execRailPoll
  repeat' first
    | with_reducible assumption
    | with_reducible apply OutcomeOk.next
    | with_reducible apply State.reach_memOk
    | fail_if_no_progress (unfold State.memOk; dsimp only; with_reducible apply State.memOk.out)

theorem execPmbAlert_memOk (kind die rail : Nat) (s : State) (hs : State.memOk s) : OutcomeOk (execPmbAlert kind die rail s) := by
  unfold execPmbAlert
  repeat' first
    | with_reducible assumption
    | with_reducible apply OutcomeOk.next
    | with_reducible apply State.setDiePower_memOk
    | with_reducible apply State.reportCs_memOk
    | split
    | fail_if_no_progress (unfold State.memOk; dsimp only; with_reducible apply State.memOk.out)

theorem State.setColl_memOk (s : State) (id : Nat) (f : Coll → Coll) (hs : State.memOk s) : State.memOk (State.setColl s id f) := by
  unfold State.setColl
  repeat' first
    | with_reducible assumption
    | with_reducible apply State.setCmd_memOk
    | split

theorem State.sendRank_memOk (s : State) (c : Cmd) (k : Coll) (g : Group) (q : Nat) (m : Msg) (hs : State.memOk s) : State.memOk (State.sendRank s c k g q m) := by
  unfold State.sendRank
  repeat' first
    | with_reducible assumption
    | with_reducible apply State.sendLinkFor_memOk
    | split

theorem State.sendSource_memOk (s : State) (c : Cmd) (k : Coll) (g : Group) (q : Nat) (hs : State.memOk s) : State.memOk (State.sendSource s c k g q) := by
  unfold State.sendSource
  repeat' first
    | with_reducible assumption
    | with_reducible apply State.sendRank_memOk
    | with_reducible apply foldl_memOk
    | split
    | intro _

theorem State.addContrib_memOk (s : State) (id q sg src : Nat) (vals : List Int) (hs : State.memOk s) : State.memOk (State.addContrib s id q sg src vals) := by
  unfold State.addContrib
  repeat' first
    | with_reducible assumption
    | with_reducible apply State.setDie_memOk
    | with_reducible apply State.setCmd_memOk
    | split

theorem State.sendAborts_memOk (s : State) (c : Cmd) (k : Coll) (g : Group) (hs : State.memOk s) : State.memOk (State.sendAborts s c k g) := by
  unfold State.sendAborts
  repeat' first
    | with_reducible assumption
    | with_reducible apply State.sendRank_memOk
    | with_reducible apply foldl_memOk
    | split
    | intro _

theorem State.collKill_memOk (s : State) (id next : Nat) (preempt : Bool) (hs : State.memOk s) : State.memOk (State.collKill s id next preempt) := by
  unfold State.collKill
  repeat' first
    | with_reducible assumption
    | with_reducible apply State.failCmd_memOk
    | with_reducible apply State.killCmd_memOk
    | with_reducible apply State.setCmd_memOk
    | split
    | extract_lets

theorem State.collPreempt_memOk (s : State) (id : Nat) (hs : State.memOk s) : State.memOk (State.collPreempt s id) := by
  unfold State.collPreempt
  repeat' first
    | with_reducible assumption
    | with_reducible apply State.collKill_memOk
    | with_reducible apply State.sendAborts_memOk
    | with_reducible apply State.killCmd_memOk
    | split

theorem State.writeDst_memOk (s : State) (id : Nat) (c : Cmd) (k : Coll) (hs : State.memOk s) : State.memOk (State.writeDst s id c k) := by
  unfold State.writeDst
  repeat' first
    | with_reducible assumption
    | with_reducible apply State.putObj_memOk
    | with_reducible apply State.putIngot_memOk
    | with_reducible apply foldl_memOk
    | split
    | intro _

theorem State.collFinish_memOk (s : State) (id : Nat) (hs : State.memOk s) : State.memOk (State.collFinish s id) := by
  unfold State.collFinish
  repeat' first
    | with_reducible assumption
    | with_reducible apply State.setColl_memOk
    | with_reducible apply State.sendRank_memOk
    | with_reducible apply State.toReady_memOk
    | with_reducible apply State.writeDst_memOk
    | with_reducible apply foldl_memOk
    | split
    | extract_lets
    | intro _

theorem State.spreadResult_memOk (s : State) (c : Cmd) (sg base len : Nat) (hs : State.memOk s) : State.memOk (State.spreadResult s c sg base len) := by
  unfold State.spreadResult
  repeat' first
    | with_reducible assumption
    | with_reducible apply State.farLines_memOk
    | with_reducible apply foldl_memOk
    | split
    | intro _

theorem State.fireSegment_memOk (s : State) (id sg : Nat) (hs : State.memOk s) : State.memOk (State.fireSegment s id sg) := by
  unfold State.fireSegment
  repeat' first
    | with_reducible assumption
    | with_reducible apply State.failCmd_memOk
    | with_reducible apply State.setColl_memOk
    | with_reducible apply State.sendAborts_memOk
    | with_reducible apply State.spreadResult_memOk
    | with_reducible apply State.dropStaging_memOk
    | with_reducible apply State.sendRank_memOk
    | with_reducible apply foldl_memOk
    | split
    | intro _

theorem State.addLocal_memOk (s : State) (id : Nat) (c : Cmd) (g : Group) (sg i : Nat) (hs : State.memOk s) : State.memOk (State.addLocal s id c g sg i) := by
  unfold State.addLocal
  repeat' first
    | with_reducible assumption
    | with_reducible apply State.farAdds_memOk
    | with_reducible apply State.addContrib_memOk
    | with_reducible apply foldl_memOk
    | split
    | intro _

theorem State.grantSome_memOk (s : State) (id fuel : Nat) (hs : s.memOk) : (s.grantSome id fuel).memOk := by
  induction fuel generalizing s with
  | zero => exact hs
  | succ n ih =>
    unfold State.grantSome
    split
    · exact hs
    · split
      · dsimp only
        split
        · exact hs
        · exact ih _ (State.fireSegment_memOk _ _ _ (foldl_memOk _ _ _ (State.setColl_memOk _ _ _ hs)
            (fun a i h => State.addLocal_memOk _ _ _ _ _ _ h)))
      · exact hs

theorem State.advance_memOk (s : State) (id : Nat) (hs : State.memOk s) : State.memOk (State.advance s id) := by
  unfold State.advance
  try dsimp only
  repeat' first
    | with_reducible assumption
    | with_reducible apply State.grantSome_memOk
    | with_reducible apply State.sendRank_memOk
    | with_reducible apply foldl_memOk
    | split
    | intro _

theorem State.ownPart_memOk (s : State) (id : Nat) (c : Cmd) (g : Group) (hs : State.memOk s) : State.memOk (State.ownPart s id c g) := by
  unfold State.ownPart
  repeat' first
    | with_reducible assumption
    | with_reducible apply State.setColl_memOk
    | with_reducible apply foldl_memOk
    | split
    | intro _

theorem State.beginAttempt_memOk (s : State) (id : Nat) (hs : State.memOk s) : State.memOk (State.beginAttempt s id) := by
  unfold State.beginAttempt
  repeat' first
    | with_reducible assumption
    | with_reducible apply State.failCmd_memOk
    | with_reducible apply State.sendRank_memOk
    | with_reducible apply State.setCmd_memOk
    | with_reducible apply State.collFinish_memOk
    | with_reducible apply State.advance_memOk
    | with_reducible apply State.ownPart_memOk
    | with_reducible apply foldl_memOk
    | split
    | extract_lets
    | intro _

theorem State.collRestart_memOk (s : State) (id next : Nat) (hs : State.memOk s) : State.memOk (State.collRestart s id next) := by
  unfold State.collRestart
  repeat' first
    | with_reducible assumption
    | with_reducible apply State.beginAttempt_memOk
    | with_reducible apply State.ensureStart_memOk
    | with_reducible apply State.collKill_memOk

theorem State.mendColl_memOk (s : State) (id : Nat) (hs : State.memOk s) : State.memOk (State.mendColl s id) := by
  unfold State.mendColl
  repeat' first
    | with_reducible assumption
    | with_reducible apply State.collRestart_memOk
    | split

theorem State.collOpen_memOk (s : State) (id : Nat) (hs : State.memOk s) : State.memOk (State.collOpen s id) := by
  unfold State.collOpen
  repeat' first
    | with_reducible assumption
    | with_reducible apply State.mendColl_memOk
    | with_reducible apply State.beginAttempt_memOk

theorem State.advanceAll_memOk (s : State) (hs : State.memOk s) : State.memOk (State.advanceAll s) := by
  unfold State.advanceAll
  repeat' first
    | with_reducible assumption
    | with_reducible apply State.mendColl_memOk
    | with_reducible apply State.collFinish_memOk
    | with_reducible apply State.advance_memOk
    | with_reducible apply foldl_memOk
    | intro _

theorem State.collHeard_memOk (s : State) (id : Nat) (hs : State.memOk s) : State.memOk (State.collHeard s id) := by
  unfold State.collHeard
  repeat' first
    | with_reducible assumption
    | with_reducible apply State.setColl_memOk
    | with_reducible apply State.collPreempt_memOk
    | split

theorem State.catchUp_memOk (fuel : Nat) (s : State) (id top : Nat) (hs : s.memOk) : (State.catchUp fuel s id top).memOk := by
  induction fuel generalizing s with
  | zero => exact hs
  | succ n ih =>
    unfold State.catchUp
    split
    · split
      · split
        · exact ih _ (State.collRestart_memOk _ _ _ hs)
        · exact hs
      · exact hs
    · exact hs

theorem State.takeFprint_memOk (s : State) (id : Nat) (m : Msg) (hs : State.memOk s) : State.memOk (State.takeFprint s id m) := by
  unfold State.takeFprint
  repeat' first
    | with_reducible assumption
    | with_reducible apply State.failCmd_memOk
    | with_reducible apply State.catchUp_memOk
    | with_reducible apply State.setColl_memOk
    | with_reducible apply State.sendRank_memOk
    | with_reducible apply State.sendSource_memOk
    | with_reducible apply State.fireSegment_memOk
    | with_reducible apply State.collHeard_memOk
    | with_reducible apply State.mendColl_memOk
    | with_reducible apply State.collFinish_memOk
    | with_reducible apply State.advance_memOk
    | with_reducible apply foldl_memOk
    | split
    | extract_lets
    | intro _
    | fail_if_no_progress (unfold State.memOk; dsimp only; with_reducible apply State.memOk.out)

theorem State.collStart_memOk (s : State) (id : Nat) (hs : State.memOk s) : State.memOk (State.collStart s id) := by
  unfold State.collStart
  repeat' first
    | with_reducible assumption
    | with_reducible apply State.advanceAll_memOk
    | with_reducible apply State.collOpen_memOk
    | with_reducible apply State.unitStart_memOk
    | with_reducible apply State.takeFprint_memOk
    | with_reducible apply foldl_memOk
    | split
    | extract_lets
    | intro _
    | fail_if_no_progress (unfold State.memOk; dsimp only; with_reducible apply State.memOk.out)

theorem collective_memOk (op : Nat) (cmd : Nat) (s : State) (hs : State.memOk s) : State.memOk (collective op cmd s) := by
  unfold collective
  repeat' first
    | with_reducible assumption
    | with_reducible apply control_memOk
    | with_reducible apply State.collStart_memOk
    | split
    | intro _

theorem execCollectiveAllReduce_memOk (cmd : Nat) (s : State) (hs : State.memOk s) : OutcomeOk (execCollectiveAllReduce cmd s) := by
  unfold execCollectiveAllReduce
  repeat' first
    | with_reducible assumption
    | with_reducible apply OutcomeOk.next
    | with_reducible apply collective_memOk

theorem execCollectiveReduceScatter_memOk (cmd : Nat) (s : State) (hs : State.memOk s) : OutcomeOk (execCollectiveReduceScatter cmd s) := by
  unfold execCollectiveReduceScatter
  repeat' first
    | with_reducible assumption
    | with_reducible apply OutcomeOk.next
    | with_reducible apply collective_memOk

theorem execCollectiveAllGather_memOk (cmd : Nat) (s : State) (hs : State.memOk s) : OutcomeOk (execCollectiveAllGather cmd s) := by
  unfold execCollectiveAllGather
  repeat' first
    | with_reducible assumption
    | with_reducible apply OutcomeOk.next
    | with_reducible apply collective_memOk

theorem execCollectiveBroadcast_memOk (cmd : Nat) (s : State) (hs : State.memOk s) : OutcomeOk (execCollectiveBroadcast cmd s) := by
  unfold execCollectiveBroadcast
  repeat' first
    | with_reducible assumption
    | with_reducible apply OutcomeOk.next
    | with_reducible apply collective_memOk

theorem collMsg_memOk (type link : Nat) (m : Msg) (f : Nat → Cmd → Coll → Group → State → State) (s : State) (hf : ∀ (q0 : Nat) (q1 : Cmd) (q2 : Coll) (q3 : Group) (q4 : State), State.memOk q4 → State.memOk (f q0 q1 q2 q3 q4)) (hs : State.memOk s) : State.memOk (collMsg type link m f s) := by
  unfold collMsg
  repeat' first
    | with_reducible assumption
    | with_reducible apply State.deliver_memOk
    | with_reducible apply State.dropMsg_memOk
    | with_reducible apply hf
    | split
    | extract_lets

theorem execFprint_memOk (link : Nat) (m : Msg) (s : State) (hs : State.memOk s) : OutcomeOk (execFprint link m s) := by
  unfold execFprint
  repeat' first
    | with_reducible assumption
    | with_reducible apply OutcomeOk.next
    | with_reducible apply State.deliver_memOk
    | with_reducible apply State.dropMsg_memOk
    | with_reducible apply State.advanceAll_memOk
    | with_reducible apply State.takeFprint_memOk
    | split
    | extract_lets
    | fail_if_no_progress (unfold State.memOk; dsimp only; with_reducible apply State.memOk.out)

theorem execGrant_memOk (link : Nat) (m : Msg) (s : State) (hs : State.memOk s) : OutcomeOk (execGrant link m s) := by
  unfold execGrant
  repeat' first
    | with_reducible assumption
    | with_reducible apply OutcomeOk.next
    | with_reducible apply collMsg_memOk
    | with_reducible apply State.sendRank_memOk
    | with_reducible apply State.collHeard_memOk
    | with_reducible apply State.collFinish_memOk
    | with_reducible apply State.setColl_memOk
    | with_reducible apply foldl_memOk
    | split
    | extract_lets
    | intro _

theorem execContrib_memOk (link : Nat) (m : Msg) (s : State) (hs : State.memOk s) : OutcomeOk (execContrib link m s) := by
  unfold execContrib
  repeat' first
    | with_reducible assumption
    | with_reducible apply OutcomeOk.next
    | with_reducible apply collMsg_memOk
    | with_reducible apply State.failCmd_memOk
    | with_reducible apply State.addContrib_memOk
    | with_reducible apply State.farAdds_memOk
    | with_reducible apply State.collHeard_memOk
    | with_reducible apply State.advanceAll_memOk
    | with_reducible apply State.fireSegment_memOk
    | split
    | extract_lets
    | intro _

theorem execResult_memOk (link : Nat) (m : Msg) (s : State) (hs : State.memOk s) : OutcomeOk (execResult link m s) := by
  unfold execResult
  repeat' first
    | with_reducible assumption
    | with_reducible apply OutcomeOk.next
    | with_reducible apply collMsg_memOk
    | with_reducible apply State.failCmd_memOk
    | with_reducible apply State.collHeard_memOk
    | with_reducible apply State.collFinish_memOk
    | with_reducible apply State.setColl_memOk
    | split
    | extract_lets
    | intro _

theorem execDone_memOk (link : Nat) (m : Msg) (s : State) (hs : State.memOk s) : OutcomeOk (execDone link m s) := by
  unfold execDone
  repeat' first
    | with_reducible assumption
    | with_reducible apply OutcomeOk.next
    | with_reducible apply collMsg_memOk
    | with_reducible apply State.collHeard_memOk
    | with_reducible apply State.collFinish_memOk
    | with_reducible apply State.setColl_memOk
    | split
    | intro _

theorem execCollAbort_memOk (link : Nat) (m : Msg) (s : State) (hs : State.memOk s) : OutcomeOk (execCollAbort link m s) := by
  unfold execCollAbort
  repeat' first
    | with_reducible assumption
    | with_reducible apply OutcomeOk.next
    | with_reducible apply State.deliver_memOk
    | with_reducible apply collMsg_memOk
    | with_reducible apply State.advanceAll_memOk
    | with_reducible apply State.collRestart_memOk
    | with_reducible apply State.collKill_memOk
    | split
    | intro _

theorem execCollAbortFinal_memOk (link : Nat) (m : Msg) (s : State) (hs : State.memOk s) : OutcomeOk (execCollAbortFinal link m s) := by
  unfold execCollAbortFinal
  repeat' first
    | with_reducible assumption
    | with_reducible apply OutcomeOk.next
    | with_reducible apply State.deliver_memOk
    | with_reducible apply collMsg_memOk
    | with_reducible apply State.advanceAll_memOk
    | with_reducible apply State.failCmd_memOk
    | split
    | intro _

theorem execCollTimeout_memOk (cmd : Nat) (t : Word) (s : State) (hs : State.memOk s) : OutcomeOk (execCollTimeout cmd t s) := by
  unfold execCollTimeout
  repeat' first
    | with_reducible assumption
    | with_reducible apply OutcomeOk.next
    | with_reducible apply State.reach_memOk
    | with_reducible apply State.advanceAll_memOk
    | with_reducible apply State.failCmd_memOk
    | split
    | extract_lets

theorem execPreemptGraceExpiry_memOk (cmd : Nat) (t : Word) (s : State) (hs : State.memOk s) : OutcomeOk (execPreemptGraceExpiry cmd t s) := by
  unfold execPreemptGraceExpiry
  repeat' first
    | with_reducible assumption
    | with_reducible apply OutcomeOk.next
    | with_reducible apply State.reach_memOk
    | with_reducible apply State.advanceAll_memOk
    | with_reducible apply State.collPreempt_memOk
    | split
    | extract_lets

theorem State.setPeer_memOk (s : State) (id : Nat) (f : Peer → Peer) (hs : State.memOk s) : State.memOk (State.setPeer s id f) := by
  unfold State.setPeer
  repeat' first
    | with_reducible assumption
    | with_reducible apply State.setCmd_memOk
    | split

theorem State.sendPeer_memOk (s : State) (c : Cmd) (k : Peer) (m : Msg) (hs : State.memOk s) : State.memOk (State.sendPeer s c k m) := by
  unfold State.sendPeer
  repeat' first
    | with_reducible assumption
    | with_reducible apply State.sendLinkFor_memOk

theorem State.streamPeer_memOk (s : State) (id : Nat) (hs : State.memOk s) : State.memOk (State.streamPeer s id) := by
  unfold State.streamPeer
  repeat' first
    | with_reducible assumption
    | with_reducible apply State.failCmd_memOk
    | with_reducible apply State.sendPeer_memOk
    | with_reducible apply State.setPeer_memOk
    | with_reducible apply foldl_memOk
    | split
    | intro _

theorem State.peerKill_memOk (s : State) (id next : Nat) (hs : State.memOk s) : State.memOk (State.peerKill s id next) := by
  unfold State.peerKill
  repeat' first
    | with_reducible assumption
    | with_reducible apply State.failCmd_memOk
    | with_reducible apply State.killCmd_memOk
    | with_reducible apply State.setCmd_memOk
    | split
    | extract_lets

theorem State.waitReady_memOk (s : State) (id : Nat) (hs : State.memOk s) : State.memOk (State.waitReady s id) := by
  unfold State.waitReady
  repeat' first
    | with_reducible assumption
    | with_reducible apply State.setPeer_memOk
    | split

theorem State.sendCatchUp_memOk (fuel : Nat) (s : State) (id top : Nat) (hs : s.memOk) : (State.sendCatchUp fuel s id top).memOk := by
  induction fuel generalizing s with
  | zero => exact hs
  | succ n ih =>
    unfold State.sendCatchUp
    split
    · dsimp only
      split
      · exact ih _ (State.waitReady_memOk _ _ (State.ensureStart_memOk _ _ (State.peerKill_memOk _ _ _ hs)))
      · exact hs
    · exact hs

theorem State.keepReady_memOk (s : State) (link : Nat) (w : Nat × Nat × Nat) (hs : State.memOk s) : State.memOk (State.keepReady s link w) := hs

theorem State.pairPeer_memOk (s : State) (id attempt len : Nat) (hs : State.memOk s) : State.memOk (State.pairPeer s id attempt len) := by
  unfold State.pairPeer
  repeat' first
    | with_reducible assumption
    | with_reducible apply State.sendCatchUp_memOk
    | with_reducible apply State.keepReady_memOk
    | with_reducible apply State.setCmd_memOk
    | with_reducible apply State.failCmd_memOk
    | with_reducible apply State.streamPeer_memOk
    | split
    | extract_lets

theorem execMovePeerSend_memOk (cmd : Nat) (s : State) (hs : State.memOk s) : OutcomeOk (execMovePeerSend cmd s) := by
  unfold execMovePeerSend
  repeat' first
    | with_reducible assumption
    | with_reducible apply OutcomeOk.next
    | with_reducible apply move_memOk
    | with_reducible apply State.failCmd_memOk
    | with_reducible apply State.setCmd_memOk
    | with_reducible apply State.pairPeer_memOk
    | with_reducible apply State.setLink_memOk
    | with_reducible apply foldl_memOk
    | split
    | extract_lets
    | intro _

theorem State.openRecv_memOk (s : State) (id : Nat) (hs : State.memOk s) : State.memOk (State.openRecv s id) := by
  unfold State.openRecv
  repeat' first
    | with_reducible assumption
    | with_reducible apply State.failCmd_memOk
    | with_reducible apply State.sendPeer_memOk
    | with_reducible apply State.setCmd_memOk
    | split

theorem execMovePeerRecv_memOk (cmd : Nat) (s : State) (hs : State.memOk s) : OutcomeOk (execMovePeerRecv cmd s) := by
  unfold execMovePeerRecv
  repeat' first
    | with_reducible assumption
    | with_reducible apply OutcomeOk.next
    | with_reducible apply move_memOk
    | with_reducible apply State.openRecv_memOk
    | split
    | intro _

theorem execPeerReady_memOk (link : Nat) (m : Msg) (s : State) (hs : State.memOk s) : OutcomeOk (execPeerReady link m s) := by
  unfold execPeerReady
  repeat' first
    | with_reducible assumption
    | with_reducible apply OutcomeOk.next
    | with_reducible apply State.deliver_memOk
    | with_reducible apply State.pairPeer_memOk
    | with_reducible apply State.keepReady_memOk
    | split
    | extract_lets

theorem State.storePeer_memOk {s t : State} {id : Nat} {c : Cmd} {b : Bytes} (e : s.storePeer id c b = .inl t) (hs : s.memOk) : t.memOk := by
  unfold State.storePeer at e
  split at e
  · cases e; exact hs
  · dsimp only at e
    split at e
    · cases e; exact State.putObj_memOk _ _ _ _ _ hs
    · split at e
      · cases e
      · cases e; exact foldl_memOk _ _ _ hs (fun a x h => State.putIngot_memOk _ _ _ _ _ _ h)

theorem execPeerData_memOk (link : Nat) (m : Msg) (s : State) (hs : State.memOk s) : OutcomeOk (execPeerData link m s) := by
  unfold execPeerData
  repeat' first
    | with_reducible assumption
    | with_reducible apply OutcomeOk.next
    | with_reducible apply State.deliver_memOk
    | with_reducible apply State.setCmd_memOk
    | with_reducible refine State.storePeer_memOk (by with_reducible assumption) ?_
    | with_reducible apply State.failCmd_memOk
    | with_reducible apply State.toReady_memOk
    | with_reducible apply State.sendPeer_memOk
    | split
    | extract_lets

theorem execPeerDone_memOk (link : Nat) (m : Msg) (s : State) (hs : State.memOk s) : OutcomeOk (execPeerDone link m s) := by
  unfold execPeerDone
  repeat' first
    | with_reducible assumption
    | with_reducible apply OutcomeOk.next
    | with_reducible apply State.deliver_memOk
    | with_reducible apply State.toReady_memOk
    | split
    | extract_lets

theorem execPeerAbort_memOk (link : Nat) (m : Msg) (s : State) (hs : State.memOk s) : OutcomeOk (execPeerAbort link m s) := by
  unfold execPeerAbort
  repeat' first
    | with_reducible assumption
    | with_reducible apply OutcomeOk.next
    | with_reducible apply State.deliver_memOk
    | with_reducible apply State.failCmd_memOk
    | with_reducible apply State.ensureStart_memOk
    | with_reducible apply State.peerKill_memOk
    | with_reducible apply State.openRecv_memOk
    | with_reducible apply State.waitReady_memOk
    | split
    | extract_lets

theorem execPeerTimeout_memOk (cmd : Nat) (t : Word) (s : State) (hs : State.memOk s) : OutcomeOk (execPeerTimeout cmd t s) := by
  unfold execPeerTimeout
  repeat' first
    | with_reducible assumption
    | with_reducible apply OutcomeOk.next
    | with_reducible apply State.reach_memOk
    | with_reducible apply State.failCmd_memOk
    | split
    | extract_lets

end Sys2Proof.Machine
end

