-- ==== Sys2Proof/Laws/KeepWork.lean ====
section
/-! SUPPORT. Byte memories stay canonical through every operation: models, codec, detection, spine, planes and commit. Each lemma names the operation and ends in _memOk. -/

namespace Sys2Proof.Machine

theorem State.setLoad_memOk (s : State) (id : Nat) (f : Load → Load) (hs : State.memOk s) : State.memOk (State.setLoad s id f) := by
  unfold State.setLoad
  repeat' first
    | with_reducible assumption
    | with_reducible apply State.setCmd_memOk
    | split

theorem State.sendUp_memOk (s : State) (c : Cmd) (m : Msg) (hs : State.memOk s) : State.memOk (State.sendUp s c m) := by
  unfold State.sendUp
  repeat' first
    | with_reducible assumption
    | with_reducible apply State.sendLinkFor_memOk
    | split

theorem State.sendDown_memOk (s : State) (c : Cmd) (m : Msg) (hs : State.memOk s) : State.memOk (State.sendDown s c m) := by
  unfold State.sendDown
  repeat' first
    | with_reducible assumption
    | with_reducible apply State.sendLinkFor_memOk
    | split

theorem State.forwardShard_memOk (s : State) (id : Nat) (c : Cmd) (i : Nat) (b : Bytes) (hs : State.memOk s) : State.memOk (State.forwardShard s id c i b) := by
  unfold State.forwardShard
  repeat' first
    | with_reducible assumption
    | with_reducible apply State.sendDown_memOk
    | with_reducible apply State.setLoad_memOk
    | with_reducible apply foldl_memOk
    | intro _

theorem State.feedDown_memOk (s : State) (id : Nat) (hs : State.memOk s) : State.memOk (State.feedDown s id) := by
  unfold State.feedDown
  repeat' first
    | with_reducible assumption
    | with_reducible apply State.setLoad_memOk
    | with_reducible apply State.sendDown_memOk
    | with_reducible apply State.forwardShard_memOk
    | with_reducible apply foldl_memOk
    | split
    | intro _

theorem State.tryShard_memOk (fuel : Nat) (s : State) (id i : Nat) (hs : s.memOk) : (State.tryShard fuel s id i).memOk := by
  induction fuel generalizing s with
  | zero => exact State.setLoad_memOk _ _ _ hs
  | succ n ih =>
    unfold State.tryShard
    split
    · exact hs
    · split
      · exact hs
      · split
        · split
          · exact State.failCmd_memOk _ _ _ _ hs
          · dsimp only
            have h1 := fun c k => State.setLoad_memOk _ id (fun y => y.modShard i (fun x => { x with rereads := x.rereads + 1 }))
              (State.bulkDma_memOk _ (Cmd.owner c) false (Cmd.f c 48 8 + shOffset (Load.manifest k) i) (shLen (Load.manifest k) i) (State.takeFresh_memOk s hs))
            split
            · exact ih _ (h1 _ _)
            · exact State.setLoad_memOk _ _ _ (h1 _ _)
        · exact State.setLoad_memOk _ _ _ hs

theorem State.readShard_memOk (s : State) (id i : Nat) (hs : State.memOk s) : State.memOk (State.readShard s id i) := by
  unfold State.readShard
  repeat' first
    | with_reducible assumption
    | with_reducible apply State.tryShard_memOk
    | split

theorem State.loadCheck_memOk (s : State) (id : Nat) (hs : State.memOk s) : State.memOk (State.loadCheck s id) := by
  unfold State.loadCheck
  repeat' first
    | with_reducible assumption
    | with_reducible apply State.failCmd_memOk
    | with_reducible apply State.setCmd_memOk
    | split
    | extract_lets

theorem State.recoverShard_memOk (s : State) (id i : Nat) (hs : State.memOk s) : State.memOk (State.recoverShard s id i) := by
  unfold State.recoverShard
  repeat' first
    | with_reducible assumption
    | with_reducible apply State.setLoad_memOk
    | with_reducible apply State.sendUp_memOk
    | with_reducible apply State.loadCheck_memOk
    | with_reducible apply State.readShard_memOk
    | split
    | extract_lets

theorem State.takeManifest_memOk (s : State) (id : Nat) (m : Bytes) (hs : State.memOk s) : State.memOk (State.takeManifest s id m) := by
  unfold State.takeManifest
  repeat' first
    | with_reducible assumption
    | with_reducible apply State.feedDown_memOk
    | with_reducible apply State.setLoad_memOk
    | with_reducible apply State.failCmd_memOk
    | with_reducible apply State.readShard_memOk
    | with_reducible apply State.loadCheck_memOk
    | with_reducible apply foldl_memOk
    | split
    | intro _

theorem State.manifestDma_memOk (s : State) (c : Cmd) (hs : State.memOk s) : State.memOk (State.manifestDma s c) := by
  unfold State.manifestDma
  repeat' first
    | with_reducible assumption
    | with_reducible apply State.bulkDma_memOk

theorem execModelLoad_memOk (cmd : Nat) (s : State) (hs : State.memOk s) : OutcomeOk (execModelLoad cmd s) := by
  unfold execModelLoad
  try dsimp only
  repeat' first
    | with_reducible assumption
    | with_reducible apply OutcomeOk.next
    | with_reducible apply control_memOk
    | with_reducible apply State.failCmd_memOk
    | with_reducible apply State.setLink_memOk
    | with_reducible apply State.startCmd_memOk
    | with_reducible apply State.setCmd_memOk
    | with_reducible apply State.sendUp_memOk
    | with_reducible apply State.takeManifest_memOk
    | with_reducible apply State.manifestDma_memOk
    | split
    | intro _

theorem relayMsg_memOk (type : Nat) (up : Bool) (link : Nat) (m : Msg) (f : Nat → Cmd → Load → State → State) (s : State) (hf : ∀ (q0 : Nat) (q1 : Cmd) (q2 : Load) (q3 : State), State.memOk q3 → State.memOk (f q0 q1 q2 q3)) (hs : State.memOk s) : State.memOk (relayMsg type up link m f s) := by
  unfold relayMsg
  repeat' first
    | with_reducible assumption
    | with_reducible apply State.deliver_memOk
    | with_reducible apply State.setLoad_memOk
    | with_reducible apply hf
    | split
    | extract_lets

theorem execRelayReady_memOk (link : Nat) (m : Msg) (s : State) (hs : State.memOk s) : OutcomeOk (execRelayReady link m s) := by
  unfold execRelayReady
  repeat' first
    | with_reducible assumption
    | with_reducible apply OutcomeOk.next
    | with_reducible apply State.deliver_memOk
    | with_reducible apply State.feedDown_memOk
    | with_reducible apply State.setLoad_memOk
    | with_reducible apply State.setLink_memOk
    | split
    | extract_lets

theorem execRelayManifest_memOk (link : Nat) (m : Msg) (s : State) (hs : State.memOk s) : OutcomeOk (execRelayManifest link m s) := by
  unfold execRelayManifest
  repeat' first
    | with_reducible assumption
    | with_reducible apply OutcomeOk.next
    | with_reducible apply relayMsg_memOk
    | with_reducible apply State.setLoad_memOk
    | with_reducible apply State.takeManifest_memOk
    | split
    | extract_lets
    | intro _

theorem execRelayShard_memOk (link : Nat) (m : Msg) (s : State) (hs : State.memOk s) : OutcomeOk (execRelayShard link m s) := by
  unfold execRelayShard
  repeat' first
    | with_reducible assumption
    | with_reducible apply OutcomeOk.next
    | with_reducible apply relayMsg_memOk
    | with_reducible apply State.setLoad_memOk
    | split
    | extract_lets
    | intro _

theorem execRelayAck_memOk (link : Nat) (m : Msg) (s : State) (hs : State.memOk s) : OutcomeOk (execRelayAck link m s) := by
  unfold execRelayAck
  repeat' first
    | with_reducible assumption
    | with_reducible apply OutcomeOk.next
    | with_reducible apply relayMsg_memOk
    | with_reducible apply State.loadCheck_memOk
    | with_reducible apply State.setLoad_memOk
    | split
    | intro _

theorem State.resendShard_memOk (s : State) (id : Nat) (c : Cmd) (i : Nat) (b : Bytes) (hs : State.memOk s) : State.memOk (State.resendShard s id c i b) := by
  unfold State.resendShard
  repeat' first
    | with_reducible assumption
    | with_reducible apply State.forwardShard_memOk
    | fail_if_no_progress (unfold State.memOk; dsimp only; with_reducible apply State.memOk.out)

theorem execRelayNak_memOk (link : Nat) (m : Msg) (s : State) (hs : State.memOk s) : OutcomeOk (execRelayNak link m s) := by
  unfold execRelayNak
  repeat' first
    | with_reducible assumption
    | with_reducible apply OutcomeOk.next
    | with_reducible apply relayMsg_memOk
    | with_reducible apply State.resendShard_memOk
    | split
    | intro _

theorem execRelayAbort_memOk (link : Nat) (m : Msg) (s : State) (hs : State.memOk s) : OutcomeOk (execRelayAbort link m s) := by
  unfold execRelayAbort
  try dsimp only
  repeat' first
    | with_reducible assumption
    | with_reducible apply OutcomeOk.next
    | with_reducible apply State.deliver_memOk
    | with_reducible apply State.loadCheck_memOk
    | with_reducible apply State.setLoad_memOk
    | with_reducible apply State.readShard_memOk
    | with_reducible apply foldl_memOk
    | split
    | intro _

theorem execShardVerified_memOk (cmd shard : Nat) (s : State) (hs : State.memOk s) : OutcomeOk (execShardVerified cmd shard s) := by
  unfold execShardVerified
  repeat' first
    | with_reducible assumption
    | with_reducible apply OutcomeOk.next
    | with_reducible apply State.setLoad_memOk
    | with_reducible apply State.loadCheck_memOk
    | with_reducible apply State.feedDown_memOk
    | with_reducible apply State.sendUp_memOk
    | with_reducible apply State.recoverShard_memOk
    | split

theorem execShardMissingTimeout_memOk (cmd shard : Nat) (t : Word) (s : State) (hs : State.memOk s) : OutcomeOk (execShardMissingTimeout cmd shard t s) := by
  unfold execShardMissingTimeout
  repeat' first
    | with_reducible assumption
    | with_reducible apply OutcomeOk.next
    | with_reducible apply State.reach_memOk
    | with_reducible apply State.recoverShard_memOk
    | split
    | extract_lets

theorem execRelayManifestTimeout_memOk (cmd : Nat) (t : Word) (s : State) (hs : State.memOk s) : OutcomeOk (execRelayManifestTimeout cmd t s) := by
  unfold execRelayManifestTimeout
  repeat' first
    | with_reducible assumption
    | with_reducible apply OutcomeOk.next
    | with_reducible apply State.reach_memOk
    | with_reducible apply State.failCmd_memOk
    | with_reducible apply State.takeManifest_memOk
    | with_reducible apply State.manifestDma_memOk
    | split
    | extract_lets

theorem execDownstreamTimeout_memOk (cmd : Nat) (t : Word) (s : State) (hs : State.memOk s) : OutcomeOk (execDownstreamTimeout cmd t s) := by
  unfold execDownstreamTimeout
  repeat' first
    | with_reducible assumption
    | with_reducible apply OutcomeOk.next
    | with_reducible apply State.reach_memOk
    | with_reducible apply State.loadCheck_memOk
    | with_reducible apply State.setLoad_memOk
    | split
    | extract_lets

theorem State.commitModel_memOk (s : State) (c : Cmd) (hs : State.memOk s) : State.memOk (State.commitModel s c) := by
  unfold State.commitModel
  repeat' first
    | with_reducible assumption
    | with_reducible apply State.setObj_memOk
    | with_reducible apply State.filled_memOk
    | with_reducible apply State.hostWrite_memOk
    | with_reducible apply State.sendDown_memOk
    | with_reducible apply State.sendUp_memOk
    | with_reducible apply foldl_memOk
    | split
    | intro _
    | fail_if_no_progress (unfold State.memOk; dsimp only; with_reducible apply State.memOk.out)

theorem execModelUnload_memOk (cmd : Nat) (s : State) (hs : State.memOk s) : OutcomeOk (execModelUnload cmd s) := by
  unfold execModelUnload
  repeat' first
    | with_reducible assumption
    | with_reducible apply OutcomeOk.next
    | with_reducible exact JudgeOk.error _
    | with_reducible apply JudgeOk.ok
    | with_reducible apply control_memOk
    | with_reducible apply State.settle_memOk
    | with_reducible apply State.forget_memOk
    | split
    | extract_lets
    | intro _
    | fail_if_no_progress (unfold State.memOk; dsimp only; with_reducible apply State.memOk.out)

theorem execAlloyBind_memOk (cmd : Nat) (s : State) (hs : State.memOk s) : OutcomeOk (execAlloyBind cmd s) := by
  unfold execAlloyBind
  try dsimp only
  repeat' first
    | with_reducible assumption
    | with_reducible apply OutcomeOk.next
    | with_reducible exact JudgeOk.error _
    | with_reducible apply JudgeOk.ok
    | with_reducible apply control_memOk
    | with_reducible apply State.asDma_memOk
    | with_reducible apply State.settle_memOk
    | with_reducible apply State.readMoved_memOk
    | with_reducible apply State.filled_memOk
    | with_reducible apply State.setObj_memOk
    | with_reducible apply foldl_memOk
    | split
    | intro _
    | fail_if_no_progress (unfold State.memOk; dsimp only; with_reducible apply State.memOk.out)

theorem execAlloyUnbind_memOk (cmd : Nat) (s : State) (hs : State.memOk s) : OutcomeOk (execAlloyUnbind cmd s) := by
  unfold execAlloyUnbind
  repeat' first
    | with_reducible assumption
    | with_reducible apply OutcomeOk.next
    | with_reducible exact JudgeOk.error _
    | with_reducible apply JudgeOk.ok
    | with_reducible apply control_memOk
    | with_reducible apply State.settle_memOk
    | with_reducible apply State.forget_memOk
    | split
    | extract_lets
    | intro _
    | fail_if_no_progress (unfold State.memOk; dsimp only; with_reducible apply State.memOk.out)

theorem State.setStream_memOk (s : State) (c : Cmd) (x : CodecStream) (hs : State.memOk s) : State.memOk (State.setStream s c x) := hs

theorem State.openStream_memOk {s t : State} {c : Cmd} (e : s.openStream c = .ok t) (hs : s.memOk) : t.memOk := by
  unfold State.openStream at e
  dsimp only at e
  split at e
  · cases e
  · split at e
    · cases e
    · cases e; exact State.setStream_memOk _ _ _ hs

theorem State.takeTurn_memOk (s : State) (d id : Nat) (hs : State.memOk s) : State.memOk (State.takeTurn s d id) := by
  unfold State.takeTurn
  repeat' first
    | with_reducible assumption
    | with_reducible apply State.setEngine_memOk
    | with_reducible apply State.ensureStart_memOk
    | split

theorem execCodecFrameBoundary_memOk (die : Nat) (s : State) (hs : State.memOk s) : OutcomeOk (execCodecFrameBoundary die s) := by
  unfold execCodecFrameBoundary
  repeat' first
    | with_reducible assumption
    | with_reducible apply OutcomeOk.next
    | with_reducible apply State.takeTurn_memOk
    | with_reducible apply State.setEngine_memOk
    | split

theorem State.modCmd_memOk (s : State) (id : Nat) (f : Cmd → Cmd) (hs : State.memOk s) : State.memOk (State.modCmd s id f) := by
  unfold State.modCmd
  repeat' first
    | with_reducible assumption
    | with_reducible apply State.setCmd_memOk
    | split

theorem State.endFrame_memOk (s : State) (id : Nat) (c : Cmd) (fails : List (Nat × Nat)) (out rec : Bytes) (result : List Nat) (hs : State.memOk s) : State.memOk (State.endFrame s id c fails out rec result) := by
  unfold State.endFrame
  repeat' first
    | with_reducible assumption
    | with_reducible apply State.toReady_memOk
    | with_reducible apply State.modCmd_memOk
    | with_reducible apply State.putObj_memOk
    | split
    | extract_lets

theorem State.encodeBody_memOk (s : State) (id : Nat) (c : Cmd) (x : CodecStream) (ik : Nat) (o : Obj) (hs : State.memOk s) : State.memOk (State.encodeBody s id c x ik o) := by
  unfold State.encodeBody
  repeat' first
    | with_reducible assumption
    | with_reducible apply State.endFrame_memOk

theorem State.decodeBody_memOk (s : State) (id : Nat) (c : Cmd) (x : CodecStream) (ik : Nat) (o : Obj) (hs : State.memOk s) : State.memOk (State.decodeBody s id c x ik o) := by
  unfold State.decodeBody
  repeat' first
    | with_reducible assumption
    | with_reducible apply State.endFrame_memOk
    | split
    | extract_lets

theorem codecFrame_memOk (op : Nat) (body : State → Nat → Cmd → CodecStream → Nat → Obj → State) (cmd : Nat) (s : State) (hbody : ∀ (q0 : State) (q1 : Nat) (q2 : Cmd) (q3 : CodecStream) (q4 : Nat) (q5 : Obj), State.memOk q0 → State.memOk (body q0 q1 q2 q3 q4 q5)) (hs : State.memOk s) : State.memOk (codecFrame op body cmd s) := by
  unfold codecFrame
  repeat' first
    | with_reducible assumption
    | with_reducible apply control_memOk
    | with_reducible apply State.takeTurn_memOk
    | with_reducible apply State.failCmd_memOk
    | with_reducible apply hbody
    | split
    | extract_lets
    | intro _

theorem execCodecEncode_memOk (cmd : Nat) (s : State) (hs : State.memOk s) : OutcomeOk (execCodecEncode cmd s) := by
  unfold execCodecEncode
  repeat' first
    | with_reducible assumption
    | with_reducible apply OutcomeOk.next
    | with_reducible apply codecFrame_memOk
    | with_reducible apply State.encodeBody_memOk

theorem execCodecDecode_memOk (cmd : Nat) (s : State) (hs : State.memOk s) : OutcomeOk (execCodecDecode cmd s) := by
  unfold execCodecDecode
  repeat' first
    | with_reducible assumption
    | with_reducible apply OutcomeOk.next
    | with_reducible apply codecFrame_memOk
    | with_reducible apply State.decodeBody_memOk

theorem streamOp_memOk (op : Nat) (f : Cmd → State → State) (cmd : Nat) (s : State) (hf : ∀ (q0 : Cmd) (q1 : State), State.memOk q1 → State.memOk (f q0 q1)) (hs : State.memOk s) : State.memOk (streamOp op f cmd s) := by
  unfold streamOp
  repeat' first
    | with_reducible assumption
    | with_reducible apply control_memOk
    | with_reducible apply State.failCmd_memOk
    | with_reducible apply State.finish_memOk
    | with_reducible apply hf
    | split
    | intro _

theorem execCodecOpen_memOk (cmd : Nat) (s : State) (hs : State.memOk s) : OutcomeOk (execCodecOpen cmd s) := by
  unfold execCodecOpen
  repeat' first
    | with_reducible assumption
    | with_reducible apply OutcomeOk.next
    | with_reducible apply control_memOk
    | with_reducible apply State.finish_memOk
    | with_reducible apply State.failCmd_memOk
    | with_reducible refine State.openStream_memOk (by with_reducible assumption) ?_
    | split
    | intro _

theorem execCodecClose_memOk (cmd : Nat) (s : State) (hs : State.memOk s) : OutcomeOk (execCodecClose cmd s) := by
  unfold execCodecClose
  repeat' first
    | with_reducible assumption
    | with_reducible apply OutcomeOk.next
    | with_reducible apply streamOp_memOk
    | with_reducible apply State.setEngine_memOk
    | intro _

theorem execCodecKeyReq_memOk (cmd : Nat) (s : State) (hs : State.memOk s) : OutcomeOk (execCodecKeyReq cmd s) := by
  unfold execCodecKeyReq
  repeat' first
    | with_reducible assumption
    | with_reducible apply OutcomeOk.next
    | with_reducible apply streamOp_memOk
    | with_reducible apply State.setStream_memOk
    | split
    | intro _

theorem State.commitCodec_memOk (s : State) (c : Cmd) (hs : State.memOk s) : State.memOk (State.commitCodec s c) := by
  unfold State.commitCodec
  repeat' first
    | with_reducible assumption
    | with_reducible apply State.setStream_memOk
    | split

theorem State.serveDie_memOk (cmd d fuel : Nat) (s : State) (hs : s.memOk) : (State.serveDie cmd d fuel s).memOk := by
  induction fuel generalizing s with
  | zero => exact hs
  | succ n ih =>
    unfold State.serveDie
    split
    · split
      · split
        · exact ih _ (State.setEngine_memOk _ _ _ (State.setRun_memOk _ _ _ (State.takeTurn_memOk _ _ _ hs)))
        · exact hs
      · exact hs
    · exact hs

theorem State.serveImages_memOk (s : State) (cmd : Nat) (hs : State.memOk s) : State.memOk (State.serveImages s cmd) := by
  unfold State.serveImages
  repeat' first
    | with_reducible assumption
    | with_reducible apply State.serveDie_memOk
    | with_reducible apply foldl_memOk
    | split
    | intro _

theorem execDetectPost_memOk (cmd : Nat) (s : State) (hs : State.memOk s) : OutcomeOk (execDetectPost cmd s) := by
  unfold execDetectPost
  repeat' first
    | with_reducible assumption
    | with_reducible apply OutcomeOk.next
    | with_reducible apply control_memOk
    | with_reducible apply State.serveImages_memOk
    | with_reducible apply State.fetchOne_memOk
    | with_reducible apply State.toReady_memOk
    | with_reducible apply State.putObj_memOk
    | with_reducible apply foldl_memOk
    | split
    | extract_lets
    | intro _

theorem State.setQuire_memOk (s : State) (d p : Nat) (q : Quire) (hs : State.memOk s) : State.memOk (State.setQuire s d p q) := hs

theorem State.reportDrop_memOk (s : State) (d kind unit reporter : Nat) (hs : State.memOk s) : State.memOk (State.reportDrop s d kind unit reporter) := by
  unfold State.reportDrop
  repeat' first
    | with_reducible assumption
    | with_reducible apply State.report_memOk

theorem State.quarantineDie_memOk (s : State) (d origin : Nat) (hs : State.memOk s) : State.memOk (State.quarantineDie s d origin) := by
  unfold State.quarantineDie
  repeat' first
    | with_reducible assumption
    | with_reducible apply State.quarantinePart_memOk
    | with_reducible apply foldl_memOk
    | intro _

theorem State.commitWithout_memOk (s : State) (d : Nat) (hs : State.memOk s) : State.memOk (State.commitWithout s d) := by
  unfold State.commitWithout
  repeat' first
    | with_reducible assumption
    | with_reducible apply State.finish_memOk
    | with_reducible apply State.setCmd_memOk
    | with_reducible apply foldl_memOk
    | split
    | extract_lets
    | intro _

theorem State.fenceDie_memOk (s : State) (d origin : Nat) (hs : State.memOk s) : State.memOk (State.fenceDie s d origin) := by
  unfold State.fenceDie
  repeat' first
    | with_reducible assumption
    | with_reducible apply State.enterFatal_memOk
    | with_reducible apply State.setDie_memOk
    | with_reducible apply State.report_memOk
    | with_reducible apply State.setLink_memOk
    | with_reducible apply State.quarantineDie_memOk
    | with_reducible apply State.commitWithout_memOk
    | with_reducible apply State.failRun_memOk
    | with_reducible apply foldl_memOk
    | split
    | intro _
    | fail_if_no_progress (unfold State.memOk; dsimp only; with_reducible apply State.memOk.out)

theorem State.checkPair_memOk (s : State) (a b : Nat) (hs : State.memOk s) : State.memOk (State.checkPair s a b) := by
  unfold State.checkPair
  repeat' first
    | with_reducible assumption
    | with_reducible apply State.fenceDie_memOk
    | split

theorem State.settlePaths_memOk (fuel : Nat) (s : State) (hs : s.memOk) : (State.settlePaths fuel s).memOk := by
  induction fuel generalizing s with
  | zero => exact hs
  | succ n ih =>
    unfold State.settlePaths
    split
    · exact ih _ (State.checkPair_memOk _ _ _ hs)
    · exact hs

theorem State.loseDie_memOk (s : State) (d origin : Nat) (hs : State.memOk s) : State.memOk (State.loseDie s d origin) := by
  unfold State.loseDie
  repeat' first
    | with_reducible assumption
    | with_reducible apply State.rerouted_memOk
    | with_reducible apply State.settlePaths_memOk
    | with_reducible apply State.fenceDie_memOk

theorem State.fenceLink_memOk (s : State) (a b : Nat) (hs : State.memOk s) : State.memOk (State.fenceLink s a b) := by
  unfold State.fenceLink
  repeat' first
    | with_reducible assumption
    | with_reducible apply State.setSpine_memOk
    | with_reducible apply State.report_memOk
    | with_reducible apply State.rerouted_memOk
    | with_reducible apply State.settlePaths_memOk
    | split
    | extract_lets

theorem State.fenceQuire_memOk (s : State) (d phys : Nat) (hs : State.memOk s) : State.memOk (State.fenceQuire s d phys) := by
  unfold State.fenceQuire
  repeat' first
    | with_reducible assumption
    | with_reducible apply State.setQuire_memOk
    | with_reducible apply State.report_memOk
    | with_reducible apply State.withCmd_memOk
    | with_reducible apply State.killCmd_memOk
    | with_reducible apply State.setCmd_memOk
    | with_reducible apply foldl_memOk
    | split
    | extract_lets
    | intro _

theorem execFenceAcksComplete_memOk (die kind unit : Nat) (s : State) (hs : State.memOk s) : OutcomeOk (execFenceAcksComplete die kind unit s) := by
  unfold execFenceAcksComplete
  repeat' first
    | with_reducible assumption
    | with_reducible apply OutcomeOk.next
    | with_reducible apply State.setQuire_memOk
    | with_reducible apply State.setDie_memOk
    | with_reducible apply State.setSpine_memOk
    | split
    | extract_lets

theorem execQuireProbe_memOk (die : Nat) (t : Word) (s : State) (hs : State.memOk s) : OutcomeOk (execQuireProbe die t s) := by
  unfold execQuireProbe
  repeat' first
    | with_reducible assumption
    | with_reducible apply OutcomeOk.next
    | with_reducible apply State.reach_memOk
    | with_reducible apply State.setDie_memOk
    | split
    | extract_lets

theorem execProbeAnswer_memOk (die phys gen : Nat) (s : State) (hs : State.memOk s) : OutcomeOk (execProbeAnswer die phys gen s) := by
  unfold execProbeAnswer
  repeat' first
    | with_reducible assumption
    | with_reducible apply OutcomeOk.next
    | with_reducible apply State.setQuire_memOk
    | split
    | extract_lets

theorem execSpineHeartbeatSend_memOk (die far : Nat) (t : Word) (s : State) (hs : State.memOk s) : OutcomeOk (execSpineHeartbeatSend die far t s) := by
  unfold execSpineHeartbeatSend
  repeat' first
    | with_reducible assumption
    | with_reducible apply OutcomeOk.next
    | with_reducible apply State.reach_memOk
    | with_reducible apply State.sendMsg_memOk
    | split
    | extract_lets

theorem execSpineHeartbeatReceive_memOk (die far gen : Nat) (s : State) (hs : State.memOk s) : OutcomeOk (execSpineHeartbeatReceive die far gen s) := by
  unfold execSpineHeartbeatReceive
  repeat' first
    | with_reducible assumption
    | with_reducible apply OutcomeOk.next
    | with_reducible apply State.setSpine_memOk
    | split
    | extract_lets

theorem execHeartbeatMiss_memOk (die kind unit : Nat) (t : Word) (s : State) (hs : State.memOk s) : OutcomeOk (execHeartbeatMiss die kind unit t s) := by
  unfold execHeartbeatMiss
  repeat' first
    | with_reducible assumption
    | with_reducible apply OutcomeOk.next
    | with_reducible apply State.reach_memOk
    | with_reducible apply State.fenceQuire_memOk
    | with_reducible apply State.setQuire_memOk
    | with_reducible apply State.setSpine_memOk
    | with_reducible apply State.fenceLink_memOk
    | split
    | extract_lets

theorem execSpineMessageReceive_memOk (m : SpineMsg) (s : State) (hs : State.memOk s) : OutcomeOk (execSpineMessageReceive m s) := by
  unfold execSpineMessageReceive
  have h1 : ((s.takeNumber m.src m.dst m.channel m.seqNo).getD s).memOk := by
    cases e : s.takeNumber m.src m.dst m.channel m.seqNo with
    | none => exact hs
    | some t => exact State.takeNumber_memOk e hs
  split
  · exact OutcomeOk.next (State.reportDrop_memOk _ _ _ _ _ hs)
  · split
    · exact OutcomeOk.next hs
    · split
      · exact OutcomeOk.next (State.forward_memOk _ _ hs)
      · exact OutcomeOk.next (State.landed_memOk _ _ h1)

theorem execSpineFlitCrcError_memOk (a b dir lane : Nat) (t : Word) (s : State) (hs : State.memOk s) : OutcomeOk (execSpineFlitCrcError a b dir lane t s) := by
  unfold execSpineFlitCrcError
  repeat' first
    | with_reducible assumption
    | with_reducible apply OutcomeOk.next
    | with_reducible apply State.reach_memOk
    | with_reducible apply State.setSpine_memOk
    | with_reducible apply State.report_memOk
    | with_reducible apply State.fenceLink_memOk
    | split
    | extract_lets
    | fail_if_no_progress (unfold State.memOk; dsimp only; with_reducible apply State.memOk.out)

theorem execLaneRemap_memOk (a b dir lane : Nat) (s : State) (hs : State.memOk s) : OutcomeOk (execLaneRemap a b dir lane s) := by
  unfold execLaneRemap
  repeat' first
    | with_reducible assumption
    | with_reducible apply OutcomeOk.next
    | with_reducible apply State.report_memOk
    | with_reducible apply State.rerouted_memOk
    | with_reducible apply State.setSpine_memOk
    | with_reducible apply State.fenceLink_memOk
    | split
    | extract_lets

theorem execSpineRetrainDone_memOk (a b : Nat) (s : State) (hs : State.memOk s) : OutcomeOk (execSpineRetrainDone a b s) := by
  unfold execSpineRetrainDone
  repeat' first
    | with_reducible assumption
    | with_reducible apply OutcomeOk.next
    | with_reducible apply State.rerouted_memOk
    | with_reducible apply State.setSpine_memOk
    | split
    | extract_lets

theorem execUnitReturn_memOk (cmd : Nat) (s : State) (hs : State.memOk s) : OutcomeOk (execUnitReturn cmd s) := by
  unfold execUnitReturn
  repeat' first
    | with_reducible assumption
    | with_reducible apply OutcomeOk.next
    | with_reducible exact JudgeOk.error _
    | with_reducible apply control_memOk
    | with_reducible apply State.settle_memOk
    | with_reducible apply State.startCmd_memOk
    | with_reducible apply State.setQuire_memOk
    | split
    | extract_lets
    | intro _

theorem execSelfTestDone_memOk (cmd verdict : Nat) (s : State) (hs : State.memOk s) : OutcomeOk (execSelfTestDone cmd verdict s) := by
  unfold execSelfTestDone
  repeat' first
    | with_reducible assumption
    | with_reducible apply OutcomeOk.next
    | with_reducible apply control_memOk
    | with_reducible apply State.failCmd_memOk
    | with_reducible apply State.setQuire_memOk
    | with_reducible apply State.finish_memOk
    | with_reducible apply State.setDie_memOk
    | with_reducible apply State.setSpine_memOk
    | with_reducible apply State.takeFresh_memOk
    | with_reducible apply State.rerouted_memOk
    | split
    | intro _

theorem execPllLossOfLock_memOk (die : Nat) (s : State) (hs : State.memOk s) : OutcomeOk (execPllLossOfLock die s) := by
  unfold execPllLossOfLock
  repeat' first
    | with_reducible assumption
    | with_reducible apply OutcomeOk.next
    | with_reducible apply State.loseDie_memOk
    | with_reducible apply State.report_memOk

theorem execHimonFailure_memOk (die : Nat) (s : State) (hs : State.memOk s) : OutcomeOk (execHimonFailure die s) := by
  unfold execHimonFailure
  repeat' first
    | with_reducible assumption
    | with_reducible apply OutcomeOk.next
    | with_reducible apply State.loseDie_memOk
    | with_reducible apply State.report_memOk

theorem State.openWork_memOk (s : State) (id : Nat) (hs : State.memOk s) : State.memOk (State.openWork s id) := by
  unfold State.openWork
  repeat' first
    | with_reducible assumption
    | with_reducible apply State.ensureStart_memOk
    | with_reducible apply State.openAttend_memOk
    | with_reducible apply State.runDelta_memOk
    | with_reducible apply State.runNorm_memOk
    | with_reducible apply State.openTensor_memOk
    | split
    | extract_lets

theorem State.openUnit_memOk (s : State) (c : Cmd) (id die quire plane : Nat) (items : List Nat) (hs : State.memOk s) : State.memOk (State.openUnit s c id die quire plane items) := by
  unfold State.openUnit
  repeat' first
    | with_reducible assumption
    | with_reducible apply State.openTiles_memOk
    | split

theorem State.claim_memOk {s t : State} {id die quire plane : Nat} (e : s.claim id die quire plane = some t) (hs : s.memOk) : t.memOk := by
  unfold State.claim at e
  dsimp only at e
  split at e
  · cases e
  · split at e
    · cases e
    · split at e
      · cases e; exact State.openUnit_memOk _ _ _ _ _ _ _ (State.setRun_memOk _ _ _ hs)
      · split at e
        · cases e
        · split at e
          · cases e; exact State.openUnit_memOk _ _ _ _ _ _ _ (State.setRun_memOk _ _ _ hs)
          · cases e

theorem execUnitClaim_memOk (cmd die quire plane : Nat) (s : State) (hs : State.memOk s) : OutcomeOk (execUnitClaim cmd die quire plane s) := by
  unfold execUnitClaim
  repeat' first
    | with_reducible assumption
    | with_reducible apply OutcomeOk.next
    | with_reducible apply State.openWork_memOk
    | with_reducible refine State.claim_memOk (by with_reducible assumption) ?_
    | split
    | extract_lets

theorem State.useCopies_memOk (s : State) (c : Cmd) (h : Held) (item : Nat) (hs : State.memOk s) : State.memOk (State.useCopies s c h item) := by
  unfold State.useCopies
  repeat' first
    | with_reducible assumption
    | with_reducible apply State.stageAt_memOk
    | with_reducible apply foldl_memOk
    | split
    | intro _

theorem State.residueMiss_memOk (s : State) (id : Nat) (c : Cmd) (die phys : Nat) (own : List (Nat × Nat)) (hs : State.memOk s) : State.memOk (State.residueMiss s id c die phys own) := by
  unfold State.residueMiss
  repeat' first
    | with_reducible assumption
    | with_reducible apply State.report_memOk
    | with_reducible apply State.failRun_memOk
    | with_reducible apply State.killCmd_memOk
    | with_reducible apply State.setCmd_memOk
    | split

theorem State.closeWork_memOk (s : State) (id : Nat) (hs : State.memOk s) : State.memOk (State.closeWork s id) := by
  unfold State.closeWork
  repeat' first
    | with_reducible assumption
    | with_reducible apply State.closeTensor_memOk
    | with_reducible apply State.endAttend_memOk
    | split

theorem State.stageOutput_memOk (s : State) (id die quire tile : Nat) (hs : State.memOk s) : State.memOk (State.stageOutput s id die quire tile) := by
  unfold State.stageOutput
  repeat' first
    | with_reducible assumption
    | with_reducible apply State.stageAt_memOk
    | split

theorem State.doneBlock_memOk (s : State) (id die item : Nat) (hs : State.memOk s) : State.memOk (State.doneBlock s id die item) := by
  unfold State.doneBlock
  repeat' first
    | with_reducible assumption
    | with_reducible apply State.setRun_memOk
    | with_reducible apply State.fetchAll_memOk
    | split

theorem execTileComplete_memOk (cmd tile quire : Nat) (residueOk : Bool) (s : State) (hs : State.memOk s) : OutcomeOk (execTileComplete cmd tile quire residueOk s) := by
  unfold execTileComplete
  try dsimp only
  repeat' first
    | with_reducible assumption
    | with_reducible apply OutcomeOk.next
    | with_reducible apply State.residueMiss_memOk
    | with_reducible apply State.setRun_memOk
    | with_reducible apply State.serve_memOk
    | with_reducible apply State.useCopies_memOk
    | with_reducible apply State.fillTile_memOk
    | with_reducible apply State.stageOutput_memOk
    | with_reducible apply State.doneTile_memOk
    | with_reducible apply State.doneBlock_memOk
    | with_reducible apply State.closeWork_memOk
    | split

theorem execSegmentCountSend_memOk (die cmd : Nat) (t : Word) (s : State) (hs : State.memOk s) : OutcomeOk (execSegmentCountSend die cmd t s) := by
  unfold execSegmentCountSend
  repeat' first
    | with_reducible assumption
    | with_reducible apply OutcomeOk.next
    | with_reducible apply State.reach_memOk
    | with_reducible apply State.setRun_memOk
    | with_reducible apply State.sendSpine_memOk
    | with_reducible apply foldl_memOk
    | split
    | extract_lets
    | intro _

theorem execSegmentCountReceive_memOk (dst src cmd count : Nat) (s : State) (hs : State.memOk s) : OutcomeOk (execSegmentCountReceive dst src cmd count s) := by
  unfold execSegmentCountReceive
  repeat' first
    | with_reducible assumption
    | with_reducible apply OutcomeOk.next
    | with_reducible apply State.setRun_memOk
    | split

theorem State.fetchUse_memOk (s : State) (c : Cmd) (role n : Nat) (hs : State.memOk s) : State.memOk (State.fetchUse s c role n).1 := by
  unfold State.fetchUse
  repeat' first
    | with_reducible assumption
    | with_reducible apply State.fetchOne_memOk
    | with_reducible apply State.readLeaf_memOk
    | split

theorem execIngotArrival_memOk (cmd operand ingot : Nat) (s : State) (hs : State.memOk s) : OutcomeOk (execIngotArrival cmd operand ingot s) := by
  unfold execIngotArrival
  split
  · dsimp only
    split
    · apply OutcomeOk.next
      apply State.setRun_memOk
      have hf := fun c => State.fetchUse_memOk s c operand ingot hs
      split
      · exact foldl_memOk _ _ _ (hf _) (fun a x h => State.stageAt_memOk _ _ _ _ h)
      · exact hf _
    · exact OutcomeOk.next hs
  · exact OutcomeOk.next hs

theorem execT3FetchError_memOk (cmd operand ingot : Nat) (s : State) (hs : State.memOk s) : OutcomeOk (execT3FetchError cmd operand ingot s) := by
  unfold execT3FetchError
  repeat' first
    | with_reducible assumption
    | with_reducible apply OutcomeOk.next
    | with_reducible apply State.failRun_memOk
    | with_reducible apply State.setRun_memOk
    | with_reducible apply State.failCmd_memOk
    | split

theorem execUseDeadlineExpiry_memOk (cmd tile operand ingot : Nat) (t : Word) (s : State) (hs : State.memOk s) : OutcomeOk (execUseDeadlineExpiry cmd tile operand ingot t s) := by
  unfold execUseDeadlineExpiry
  try dsimp only
  repeat' first
    | with_reducible assumption
    | with_reducible apply OutcomeOk.next
    | with_reducible apply State.reach_memOk
    | with_reducible apply State.setRun_memOk
    | split

theorem execStallLimitExpiry_memOk (cmd tile operand ingot : Nat) (t : Word) (s : State) (hs : State.memOk s) : OutcomeOk (execStallLimitExpiry cmd tile operand ingot t s) := by
  unfold execStallLimitExpiry
  repeat' first
    | with_reducible assumption
    | with_reducible apply OutcomeOk.next
    | with_reducible apply State.reach_memOk
    | with_reducible apply State.failRun_memOk
    | with_reducible apply State.failCmd_memOk
    | split
    | extract_lets

theorem State.commitRest_memOk (s : State) (c : Cmd) (hs : State.memOk s) : State.memOk (State.commitRest s c) := by
  unfold State.commitRest
  repeat' first
    | with_reducible assumption
    | with_reducible apply State.mergeStats_memOk
    | with_reducible apply State.commitCodec_memOk
    | with_reducible apply State.commitModel_memOk
    | with_reducible apply State.commitMove_memOk
    | with_reducible apply State.commitBindery_memOk
    | with_reducible apply State.settleDraws_memOk
    | split

theorem State.failAt_memOk (s : State) (id : Nat) (c : Cmd) (hs : State.memOk s) : State.memOk (State.failAt s id c) := by
  unfold State.failAt
  repeat' first
    | with_reducible assumption
    | with_reducible apply State.raiseAnchor_memOk
    | with_reducible apply State.failCmd_memOk
    | split

theorem execCommandCommit_memOk (cmd : Nat) (s : State) (hs : State.memOk s) : OutcomeOk (execCommandCommit cmd s) := by
  unfold execCommandCommit
  repeat' first
    | with_reducible assumption
    | with_reducible apply OutcomeOk.next
    | with_reducible apply State.failAt_memOk
    | with_reducible apply State.failCmd_memOk
    | with_reducible apply State.finish_memOk
    | with_reducible apply State.commitRest_memOk
    | with_reducible apply State.commitObjects_memOk
    | with_reducible apply State.setCmd_memOk
    | with_reducible apply State.recordFence_memOk
    | with_reducible apply State.commitCounts_memOk
    | with_reducible apply State.commitDie_memOk
    | with_reducible apply State.sendSpine_memOk
    | with_reducible apply foldl_memOk
    | split
    | extract_lets
    | intro _

theorem execCommitMessage_memOk (die cmd : Nat) (s : State) (hs : State.memOk s) : OutcomeOk (execCommitMessage die cmd s) := by
  unfold execCommitMessage
  repeat' first
    | with_reducible assumption
    | with_reducible apply OutcomeOk.next
    | with_reducible apply State.setCmd_memOk
    | with_reducible apply State.commitDie_memOk
    | with_reducible apply State.sendSpine_memOk
    | split

theorem execCommitAck_memOk (die cmd : Nat) (s : State) (hs : State.memOk s) : OutcomeOk (execCommitAck die cmd s) := by
  unfold execCommitAck
  repeat' first
    | with_reducible assumption
    | with_reducible apply OutcomeOk.next
    | with_reducible apply State.finish_memOk
    | with_reducible apply State.setCmd_memOk
    | split
    | extract_lets

theorem execAdmittedDescriptorReceive_memOk (die cmd : Nat) (s : State) (hs : State.memOk s) : OutcomeOk (execAdmittedDescriptorReceive die cmd s) := by
  unfold execAdmittedDescriptorReceive
  repeat' first
    | with_reducible assumption
    | with_reducible apply OutcomeOk.next
    | with_reducible apply State.setCmd_memOk
    | split
    | extract_lets

end Sys2Proof.Machine
end

