-- ==== Sys2Proof/Laws/KeepCard.lean ====
section
/-! SUPPORT. Byte memories stay canonical through every operation: memory, security, reset, COLOPHON, admission and registers. Each lemma names the operation and ends in _memOk. -/

namespace Sys2Proof.Machine

theorem execMemMapCtrlWrite_memOk (value : Nat) (s : State) (hs : State.memOk s) : OutcomeOk (execMemMapCtrlWrite value s) := by
  unfold execMemMapCtrlWrite
  repeat' first
    | with_reducible assumption
    | with_reducible apply OutcomeOk.next
    | with_reducible apply State.report_memOk
    | split
    | fail_if_no_progress (unfold State.memOk; dsimp only; with_reducible apply State.memOk.out)

/-- Bytes written into a stack leave its lines canonical. -/
theorem Stack.write_wf (x : Stack) (a : Nat) (b : Bytes) (h : Mem.wf x.lines = true) : Mem.wf (x.write a b).lines = true :=
  Mem.wf_writeRange a b h

theorem State.lineWrite_memOk (s : State) (x : Nat) (b : Bytes) (hs : State.memOk s) : State.memOk (State.lineWrite s x b) := by
  unfold State.lineWrite
  repeat' first
    | with_reducible assumption
    | with_reducible apply State.dropCopies_memOk
    | with_reducible apply State.dropKey_memOk
    | with_reducible apply State.setFrames_memOk
    | with_reducible apply State.setStack_memOk
    | exact State.stackAt_wf _ _ (by with_reducible assumption)
    | with_reducible apply Stack.write_wf
    | split
    | fail_if_no_progress (unfold State.memOk; dsimp only; with_reducible apply State.memOk.out)

theorem State.reply_memOk (s : State) (x die kind unit : Nat) (b : Bytes) (hs : State.memOk s) : State.memOk (State.reply s x die kind unit b) := by
  unfold State.reply
  repeat' first
    | with_reducible assumption
    | with_reducible apply State.sendSpineFor_memOk
    | split
    | fail_if_no_progress (unfold State.memOk; dsimp only; with_reducible apply State.memOk.out)

theorem State.arrives_memOk {s t : State} {die x : Nat} {stamp : Stamp} (e : s.arrives die x stamp = some t) (hs : s.memOk) : t.memOk := by
  unfold State.arrives at e
  split at e
  · cases e
  · exact State.takeNumber_memOk e hs

theorem execFarAccessRequest_memOk (die kind unit : Nat) (gen : Stamp) (addr : Nat) (isWrite : Bool) (data : Bytes) (s : State) (hs : State.memOk s) : OutcomeOk (execFarAccessRequest die kind unit gen addr isWrite data s) := by
  unfold execFarAccessRequest
  repeat' first
    | with_reducible assumption
    | with_reducible apply OutcomeOk.next
    | with_reducible exact OutcomeOk.fault _
    | with_reducible apply State.reportDrop_memOk
    | with_reducible refine State.arrives_memOk (by with_reducible assumption) ?_
    | with_reducible apply State.touchLine_memOk
    | with_reducible apply State.lineWrite_memOk
    | with_reducible apply State.reply_memOk
    | split

theorem execAtomicRequest_memOk (die kind unit : Nat) (gen : Stamp) (addr : Nat) (req : AtomicReq) (width operand comparand : Nat) (s : State) (hs : State.memOk s) : OutcomeOk (execAtomicRequest die kind unit gen addr req width operand comparand s) := by
  unfold execAtomicRequest
  repeat' first
    | with_reducible assumption
    | with_reducible apply OutcomeOk.next
    | with_reducible exact OutcomeOk.fault _
    | with_reducible apply State.reportDrop_memOk
    | with_reducible apply State.touchLine_memOk
    | with_reducible apply State.lineWrite_memOk
    | with_reducible apply State.reply_memOk
    | split
  all_goals
    rename_i e _ _
    split at e
    · exact State.arrives_memOk e hs
    · cases e

theorem execLineAdd_memOk (die : AddRoute) (line : Nat) (addends : List Nat) (s : State) (hs : State.memOk s) : OutcomeOk (execLineAdd die line addends s) := by
  unfold execLineAdd
  repeat' first
    | with_reducible assumption
    | with_reducible apply OutcomeOk.next
    | with_reducible apply State.reportDrop_memOk
    | with_reducible apply State.setDie_memOk
    | split
  rename_i e
  split at e
  · exact State.takeNumber_memOk e hs
  · cases e

theorem State.poisonUse_memOk (s : State) (holds : LineUse) (origin : Nat) (hs : State.memOk s) : State.memOk (State.poisonUse s holds origin) := by
  unfold State.poisonUse
  repeat' first
    | with_reducible assumption
    | with_reducible apply State.quarantinePart_memOk
    | with_reducible apply State.setFrames_memOk
    | split
    | fail_if_no_progress (unfold State.memOk; dsimp only; with_reducible apply State.memOk.out)

theorem State.markLine_memOk (s : State) (stack line : Nat) (holds : LineUse) (origin : Nat) (hs : State.memOk s) : State.memOk (State.markLine s stack line holds origin) := by
  unfold State.markLine
  repeat' first
    | with_reducible assumption
    | with_reducible apply State.poisonUse_memOk
    | with_reducible apply State.setStack_memOk
    | exact State.stackAt_wf _ _ (by with_reducible assumption)

theorem State.poisonLine_memOk (s : State) (stack line : Nat) (said : LineUse) (hs : State.memOk s) : State.memOk (State.poisonLine s stack line said) := by
  unfold State.poisonLine
  repeat' first
    | with_reducible assumption
    | with_reducible apply State.markLine_memOk
    | with_reducible apply State.report_memOk

theorem execPatrolScrub_memOk (stack line outcome : Nat) (holds : LineUse) (s : State) (hs : State.memOk s) : OutcomeOk (execPatrolScrub stack line outcome holds s) := by
  unfold execPatrolScrub
  try dsimp only
  repeat' first
    | with_reducible assumption
    | with_reducible apply OutcomeOk.next
    | with_reducible apply State.setStack_memOk
    | with_reducible apply State.report_memOk
    | with_reducible apply State.poisonLine_memOk
    | exact State.stackAt_wf _ _ (by with_reducible assumption)
    | split

theorem execRepairRecordAdd_memOk (typ die macroId address : Nat) (s : State) (hs : State.memOk s) : OutcomeOk (execRepairRecordAdd typ die macroId address s) := by
  unfold execRepairRecordAdd
  repeat' first
    | with_reducible assumption
    | with_reducible apply OutcomeOk.next
    | split
    | extract_lets
    | fail_if_no_progress (unfold State.memOk; dsimp only; with_reducible apply State.memOk.out)

theorem memMargin_memOk (kind cmd : Nat) (s : State) (hs : State.memOk s) : State.memOk (memMargin kind cmd s) := by
  unfold memMargin
  repeat' first
    | with_reducible assumption
    | with_reducible exact JudgeOk.error _
    | with_reducible apply control_memOk
    | with_reducible apply State.settle_memOk
    | with_reducible apply State.hostWrite_memOk
    | with_reducible apply State.finish_memOk
    | with_reducible apply State.setCmd_memOk
    | with_reducible apply State.takeFresh_memOk
    | split
    | intro _

theorem execMemMarginReadScan_memOk (cmd : Nat) (s : State) (hs : State.memOk s) : OutcomeOk (execMemMarginReadScan cmd s) := by
  unfold execMemMarginReadScan
  repeat' first
    | with_reducible assumption
    | with_reducible apply OutcomeOk.next
    | with_reducible apply memMargin_memOk

theorem execMemMarginTiming_memOk (cmd : Nat) (s : State) (hs : State.memOk s) : OutcomeOk (execMemMarginTiming cmd s) := by
  unfold execMemMarginTiming
  repeat' first
    | with_reducible assumption
    | with_reducible apply OutcomeOk.next
    | with_reducible apply memMargin_memOk

theorem execMemMarginVoltage_memOk (cmd : Nat) (s : State) (hs : State.memOk s) : OutcomeOk (execMemMarginVoltage cmd s) := by
  unfold execMemMarginVoltage
  repeat' first
    | with_reducible assumption
    | with_reducible apply OutcomeOk.next
    | with_reducible apply memMargin_memOk

theorem execMemMarginTimingVoltage_memOk (cmd : Nat) (s : State) (hs : State.memOk s) : OutcomeOk (execMemMarginTimingVoltage cmd s) := by
  unfold execMemMarginTimingVoltage
  repeat' first
    | with_reducible assumption
    | with_reducible apply OutcomeOk.next
    | with_reducible apply memMargin_memOk

theorem State.fwWrite_memOk (s : State) (dmaOk : Bool) (hs : State.memOk s) : State.memOk (State.fwWrite s dmaOk).1 := by
  unfold State.fwWrite
  repeat' first
    | with_reducible assumption
    | with_reducible apply State.asDma_memOk
    | split
    | extract_lets
    | fail_if_no_progress (unfold State.memOk; dsimp only; with_reducible apply State.memOk.out)

theorem State.fwActivate_memOk (s : State) (hs : State.memOk s) : State.memOk (State.fwActivate s).1 := by
  unfold State.fwActivate
  repeat' first
    | with_reducible assumption
    | split
    | extract_lets
    | fail_if_no_progress (unfold State.memOk; dsimp only; with_reducible apply State.memOk.out)

theorem State.fwConfirm_memOk (s : State) (hs : State.memOk s) : State.memOk (State.fwConfirm s).1 := by
  unfold State.fwConfirm
  repeat' first
    | with_reducible assumption
    | split
    | fail_if_no_progress (unfold State.memOk; dsimp only; with_reducible apply State.memOk.out)

theorem State.fwStatus_memOk (s : State) (hs : State.memOk s) : State.memOk (State.fwStatus s).1 := hs

theorem State.debugUnlock_memOk (s : State) (dmaOk : Bool) (hs : State.memOk s) : State.memOk (State.debugUnlock s dmaOk).1 := by
  unfold State.debugUnlock
  repeat' first
    | with_reducible assumption
    | with_reducible apply State.asDma_memOk
    | split
    | extract_lets
    | fail_if_no_progress (unfold State.memOk; dsimp only; with_reducible apply State.memOk.out)

theorem State.mailboxGo_memOk (s : State) (code : Nat) (stores : List Host.Cell) (hs : State.memOk s) : State.memOk (State.mailboxGo s code stores) := by
  unfold State.mailboxGo
  repeat' first
    | with_reducible assumption
    | with_reducible apply State.hostStores_memOk
    | split
    | extract_lets
    | fail_if_no_progress (unfold State.memOk; dsimp only; with_reducible apply State.memOk.out)

theorem execFwWrite_memOk (stores : List Host.Cell) (s : State) (hs : State.memOk s) : OutcomeOk (execFwWrite stores s) := by
  unfold execFwWrite
  repeat' first
    | with_reducible assumption
    | with_reducible apply OutcomeOk.next
    | with_reducible apply State.mailboxGo_memOk

theorem execFwActivate_memOk (stores : List Host.Cell) (s : State) (hs : State.memOk s) : OutcomeOk (execFwActivate stores s) := by
  unfold execFwActivate
  repeat' first
    | with_reducible assumption
    | with_reducible apply OutcomeOk.next
    | with_reducible apply State.mailboxGo_memOk

theorem execFwConfirm_memOk (stores : List Host.Cell) (s : State) (hs : State.memOk s) : OutcomeOk (execFwConfirm stores s) := by
  unfold execFwConfirm
  repeat' first
    | with_reducible assumption
    | with_reducible apply OutcomeOk.next
    | with_reducible apply State.mailboxGo_memOk

theorem execFwStatus_memOk (stores : List Host.Cell) (s : State) (hs : State.memOk s) : OutcomeOk (execFwStatus stores s) := by
  unfold execFwStatus
  repeat' first
    | with_reducible assumption
    | with_reducible apply OutcomeOk.next
    | with_reducible apply State.mailboxGo_memOk

theorem execDebugUnlock_memOk (stores : List Host.Cell) (s : State) (hs : State.memOk s) : OutcomeOk (execDebugUnlock stores s) := by
  unfold execDebugUnlock
  repeat' first
    | with_reducible assumption
    | with_reducible apply OutcomeOk.next
    | with_reducible apply State.mailboxGo_memOk

theorem execMailboxCommandDone_memOk (dmaOk : Bool) (s : State) (hs : State.memOk s) : OutcomeOk (execMailboxCommandDone dmaOk s) := by
  unfold execMailboxCommandDone
  repeat' first
    | with_reducible assumption
    | with_reducible apply OutcomeOk.next
    | with_reducible apply State.fwWrite_memOk
    | with_reducible apply State.fwActivate_memOk
    | with_reducible apply State.fwConfirm_memOk
    | with_reducible apply State.fwStatus_memOk
    | with_reducible apply State.debugUnlock_memOk
    | split
    | fail_if_no_progress (unfold State.memOk; dsimp only; with_reducible apply State.memOk.out)

theorem State.spdmSend_memOk (s : State) (b : Bytes) (hs : State.memOk s) : State.memOk (State.spdmSend s b) := by
  unfold State.spdmSend
  repeat' first
    | with_reducible assumption
    | split
    | fail_if_no_progress (unfold State.memOk; dsimp only; with_reducible apply State.memOk.out)

theorem State.spdm_memOk (s : State) (code transport : Nat) (req facts : Bytes) (hs : State.memOk s) : State.memOk (State.spdm s code transport req facts) := by
  unfold State.spdm
  repeat' first
    | with_reducible assumption
    | with_reducible apply State.spdmSend_memOk

theorem State.spdmSigned_memOk (s : State) (code transport : Nat) (req facts : Bytes) (hs : State.memOk s) : State.memOk (State.spdmSigned s code transport req facts) := by
  unfold State.spdmSigned
  repeat' first
    | with_reducible assumption
    | with_reducible apply State.spdmSend_memOk

theorem execSpdmGetVersion_memOk (transport _session : Nat) (req : Bytes) (s : State) (hs : State.memOk s) : OutcomeOk (execSpdmGetVersion transport _session req s) := by
  unfold execSpdmGetVersion
  repeat' first
    | with_reducible assumption
    | with_reducible apply OutcomeOk.next
    | with_reducible apply State.spdm_memOk

theorem execSpdmGetCapabilities_memOk (transport _session : Nat) (req : Bytes) (s : State) (hs : State.memOk s) : OutcomeOk (execSpdmGetCapabilities transport _session req s) := by
  unfold execSpdmGetCapabilities
  repeat' first
    | with_reducible assumption
    | with_reducible apply OutcomeOk.next
    | with_reducible apply State.spdm_memOk

theorem execSpdmNegotiateAlgorithms_memOk (transport _session : Nat) (req : Bytes) (s : State) (hs : State.memOk s) : OutcomeOk (execSpdmNegotiateAlgorithms transport _session req s) := by
  unfold execSpdmNegotiateAlgorithms
  repeat' first
    | with_reducible assumption
    | with_reducible apply OutcomeOk.next
    | with_reducible apply State.spdm_memOk

theorem State.spdmCerts_memOk (s : State) (code transport slot : Nat) (req : Bytes) (hs : State.memOk s) : State.memOk (State.spdmCerts s code transport slot req) := by
  unfold State.spdmCerts
  repeat' first
    | with_reducible assumption
    | with_reducible apply State.spdmSend_memOk

theorem State.inSession_memOk (s : State) (code transport session : Nat) (req : Bytes) (f : NMap Session → NMap Session) (hs : State.memOk s) : State.memOk (State.inSession s code transport session req f) := by
  unfold State.inSession
  repeat' first
    | with_reducible assumption
    | with_reducible apply State.spdm_memOk
    | with_reducible apply State.spdmSend_memOk
    | split
    | extract_lets
    | fail_if_no_progress (unfold State.memOk; dsimp only; with_reducible apply State.memOk.out)

theorem execSpdmGetDigests_memOk (transport _session : Nat) (req : Bytes) (s : State) (hs : State.memOk s) : OutcomeOk (execSpdmGetDigests transport _session req s) := by
  unfold execSpdmGetDigests
  repeat' first
    | with_reducible assumption
    | with_reducible apply OutcomeOk.next
    | with_reducible apply State.spdmCerts_memOk

theorem execSpdmGetCertificate_memOk (transport _session : Nat) (req : Bytes) (s : State) (hs : State.memOk s) : OutcomeOk (execSpdmGetCertificate transport _session req s) := by
  unfold execSpdmGetCertificate
  repeat' first
    | with_reducible assumption
    | with_reducible apply OutcomeOk.next
    | with_reducible apply State.spdmCerts_memOk

theorem execSpdmChallenge_memOk (transport _session : Nat) (req : Bytes) (s : State) (hs : State.memOk s) : OutcomeOk (execSpdmChallenge transport _session req s) := by
  unfold execSpdmChallenge
  repeat' first
    | with_reducible assumption
    | with_reducible apply OutcomeOk.next
    | with_reducible apply State.spdmSigned_memOk

theorem execSpdmGetMeasurements_memOk (transport _session : Nat) (req : Bytes) (s : State) (hs : State.memOk s) : OutcomeOk (execSpdmGetMeasurements transport _session req s) := by
  unfold execSpdmGetMeasurements
  repeat' first
    | with_reducible assumption
    | with_reducible apply OutcomeOk.next
    | with_reducible apply State.spdmSigned_memOk

theorem execSpdmKeyExchange_memOk (transport session : Nat) (req : Bytes) (s : State) (hs : State.memOk s) : OutcomeOk (execSpdmKeyExchange transport session req s) := by
  unfold execSpdmKeyExchange
  repeat' first
    | with_reducible assumption
    | with_reducible apply OutcomeOk.next
    | with_reducible apply State.spdm_memOk
    | with_reducible apply State.spdmSigned_memOk
    | split
    | extract_lets
    | fail_if_no_progress (unfold State.memOk; dsimp only; with_reducible apply State.memOk.out)

theorem execSpdmFinish_memOk (transport session : Nat) (req : Bytes) (s : State) (hs : State.memOk s) : OutcomeOk (execSpdmFinish transport session req s) := by
  unfold execSpdmFinish
  repeat' first
    | with_reducible assumption
    | with_reducible apply OutcomeOk.next
    | with_reducible apply State.inSession_memOk

theorem execSpdmKeyUpdate_memOk (transport session : Nat) (req : Bytes) (s : State) (hs : State.memOk s) : OutcomeOk (execSpdmKeyUpdate transport session req s) := by
  unfold execSpdmKeyUpdate
  repeat' first
    | with_reducible assumption
    | with_reducible apply OutcomeOk.next
    | with_reducible apply State.inSession_memOk

theorem execSpdmHeartbeat_memOk (transport session : Nat) (req : Bytes) (s : State) (hs : State.memOk s) : OutcomeOk (execSpdmHeartbeat transport session req s) := by
  unfold execSpdmHeartbeat
  repeat' first
    | with_reducible assumption
    | with_reducible apply OutcomeOk.next
    | with_reducible apply State.inSession_memOk

theorem execSpdmEndSession_memOk (transport session : Nat) (req : Bytes) (s : State) (hs : State.memOk s) : OutcomeOk (execSpdmEndSession transport session req s) := by
  unfold execSpdmEndSession
  repeat' first
    | with_reducible assumption
    | with_reducible apply OutcomeOk.next
    | with_reducible apply State.inSession_memOk

theorem execIdeKmRequest_memOk (session stream : Nat) (activate : Bool) (s : State) (hs : State.memOk s) : OutcomeOk (execIdeKmRequest session stream activate s) := by
  unfold execIdeKmRequest
  repeat' first
    | with_reducible assumption
    | with_reducible apply OutcomeOk.next
    | with_reducible apply State.releaseWrites_memOk
    | with_reducible apply State.takeFresh_memOk
    | split
    | extract_lets
    | fail_if_no_progress (unfold State.memOk; dsimp +zetaDelta only; with_reducible apply State.memOk.out)

theorem execIdeStreamInsecure_memOk (stream : Nat) (s : State) (hs : State.memOk s) : OutcomeOk (execIdeStreamInsecure stream s) := by
  unfold execIdeStreamInsecure
  repeat' first
    | with_reducible assumption
    | with_reducible apply OutcomeOk.next
    | with_reducible apply State.report_memOk
    | with_reducible apply State.failCmd_memOk
    | with_reducible apply State.quarantinePart_memOk
    | with_reducible apply foldl_memOk
    | split
    | extract_lets
    | intro _
    | fail_if_no_progress (unfold State.memOk; dsimp +zetaDelta only; with_reducible apply State.memOk.out)

theorem State.modPart_memOk (s : State) (p : Nat) (f : Part → Part) (hs : State.memOk s) : State.memOk (State.modPart s p f) := hs

theorem execKeyImportContent_memOk (cmd : Nat) (s : State) (hs : State.memOk s) : OutcomeOk (execKeyImportContent cmd s) := by
  unfold execKeyImportContent
  repeat' first
    | with_reducible assumption
    | with_reducible apply OutcomeOk.next
    | with_reducible exact JudgeOk.error _
    | with_reducible apply JudgeOk.ok
    | with_reducible apply control_memOk
    | with_reducible apply State.settle_memOk
    | with_reducible apply State.modPart_memOk
    | split
    | intro _

theorem execKeySetPublisher_memOk (cmd : Nat) (s : State) (hs : State.memOk s) : OutcomeOk (execKeySetPublisher cmd s) := by
  unfold execKeySetPublisher
  repeat' first
    | with_reducible assumption
    | with_reducible apply OutcomeOk.next
    | with_reducible exact JudgeOk.error _
    | with_reducible apply JudgeOk.ok
    | with_reducible apply control_memOk
    | with_reducible apply State.settle_memOk
    | with_reducible apply State.modPart_memOk
    | split
    | intro _

theorem execKeyClearContent_memOk (cmd : Nat) (s : State) (hs : State.memOk s) : OutcomeOk (execKeyClearContent cmd s) := by
  unfold execKeyClearContent
  repeat' first
    | with_reducible assumption
    | with_reducible apply OutcomeOk.next
    | with_reducible apply control_memOk
    | with_reducible apply State.finish_memOk
    | with_reducible apply State.modPart_memOk
    | intro _

theorem execKeyClearPublisher_memOk (cmd : Nat) (s : State) (hs : State.memOk s) : OutcomeOk (execKeyClearPublisher cmd s) := by
  unfold execKeyClearPublisher
  repeat' first
    | with_reducible assumption
    | with_reducible apply OutcomeOk.next
    | with_reducible apply control_memOk
    | with_reducible apply State.finish_memOk
    | with_reducible apply State.modPart_memOk
    | intro _

theorem execAttest_memOk (cmd : Nat) (s : State) (hs : State.memOk s) : OutcomeOk (execAttest cmd s) := by
  unfold execAttest
  repeat' first
    | with_reducible assumption
    | with_reducible apply OutcomeOk.next
    | with_reducible exact JudgeOk.error _
    | with_reducible apply JudgeOk.ok
    | with_reducible apply control_memOk
    | with_reducible apply State.settle_memOk
    | with_reducible apply State.hostWrite_memOk
    | split
    | extract_lets
    | intro _

theorem execDiscardToken_memOk (s : State) (hs : State.memOk s) : OutcomeOk (execDiscardToken s) := by
  unfold execDiscardToken
  repeat' first
    | with_reducible assumption
    | with_reducible apply OutcomeOk.next
    | split
    | fail_if_no_progress (unfold State.memOk; dsimp only; with_reducible apply State.memOk.out)

theorem execJtagInstruction_memOk (boundary : Bool) (s : State) (hs : State.memOk s) : OutcomeOk (execJtagInstruction boundary s) := by
  unfold execJtagInstruction
  repeat' first
    | with_reducible assumption
    | with_reducible apply OutcomeOk.next
    | split
    | fail_if_no_progress (unfold State.memOk; dsimp only; with_reducible apply State.memOk.out)

theorem State.applyRepairs_memOk (s : State) (hs : State.memOk s) : State.memOk (State.applyRepairs s) := by
  unfold State.applyRepairs
  repeat' first
    | with_reducible assumption
    | with_reducible apply State.report_memOk
    | with_reducible apply foldl_memOk
    | intro _
    | fail_if_no_progress (unfold State.memOk; dsimp only; with_reducible apply State.memOk.out)

theorem State.trainSpine_memOk (s : State) (n : Nat) (hs : State.memOk s) : State.memOk (State.trainSpine s n) := by
  unfold State.trainSpine
  repeat' first
    | with_reducible assumption
    | with_reducible apply State.setSpine_memOk
    | with_reducible apply foldl_memOk
    | intro _

theorem State.selfRepair_memOk (s : State) (hs : State.memOk s) : State.memOk (State.selfRepair s) := by
  unfold State.selfRepair
  repeat' first
    | with_reducible assumption
    | with_reducible apply State.applyRepairs_memOk
    | with_reducible apply State.takeFresh_memOk
    | with_reducible apply State.loseDie_memOk
    | with_reducible apply State.trainSpine_memOk
    | with_reducible apply foldl_memOk
    | intro _
    | fail_if_no_progress (unfold State.memOk; dsimp only; with_reducible apply State.memOk.out)

theorem State.bootChain_memOk (s0 : State) (hs0 : State.memOk s0) : State.memOk (State.bootChain s0) := by
  unfold State.bootChain
  repeat' first
    | with_reducible assumption
    | with_reducible apply State.selfRepair_memOk
    | with_reducible apply State.report_memOk
    | split
    | extract_lets
    | fail_if_no_progress (unfold State.memOk; dsimp +zetaDelta only; with_reducible apply State.memOk.out)

theorem State.coldReset_memOk (s : State) (cause : Nat) (boot : Boot) (pins : Pins) (hs : s.memOk) : (s.coldReset cause boot pins).memOk :=
  ⟨hs.1, State.reset_memOk.2⟩

theorem State.powerUp_memOk (s : State) (hs : State.memOk s) : State.memOk (State.powerUp s) := by
  unfold State.powerUp
  repeat' first
    | with_reducible assumption
    | with_reducible apply State.bootChain_memOk
    | split
    | extract_lets
    | fail_if_no_progress (unfold State.memOk; dsimp +zetaDelta only; with_reducible apply State.memOk.out)

theorem execV1p8AuxApplied_memOk (s : State) (hs : State.memOk s) : OutcomeOk (execV1p8AuxApplied s) := by
  unfold execV1p8AuxApplied
  repeat' first
    | with_reducible assumption
    | with_reducible apply OutcomeOk.next
    | with_reducible apply State.coldReset_memOk
    | with_reducible apply State.powerUp_memOk
    | split

theorem execV1p8AuxRemoved_memOk (s : State) (hs : State.memOk s) : OutcomeOk (execV1p8AuxRemoved s) := by
  unfold execV1p8AuxRemoved
  repeat' first
    | with_reducible assumption
    | with_reducible apply OutcomeOk.next
    | with_reducible apply State.coldReset_memOk

theorem execPkgRstNAssert_memOk (s : State) (hs : State.memOk s) : OutcomeOk (execPkgRstNAssert s) := by
  unfold execPkgRstNAssert
  repeat' first
    | with_reducible assumption
    | with_reducible apply OutcomeOk.next
    | with_reducible apply State.coldReset_memOk
    | split
    | fail_if_no_progress (unfold State.memOk; dsimp only; with_reducible apply State.memOk.out)

theorem execPkgRstNRelease_memOk (s : State) (hs : State.memOk s) : OutcomeOk (execPkgRstNRelease s) := by
  unfold execPkgRstNRelease
  repeat' first
    | with_reducible assumption
    | with_reducible apply OutcomeOk.next
    | with_reducible apply State.powerUp_memOk
    | split
    | fail_if_no_progress (unfold State.memOk; dsimp only; with_reducible apply State.memOk.out)

theorem execPwrGoodAssert_memOk (s : State) (hs : State.memOk s) : OutcomeOk (execPwrGoodAssert s) := by
  unfold execPwrGoodAssert
  repeat' first
    | with_reducible assumption
    | with_reducible apply OutcomeOk.next
    | with_reducible apply State.bootChain_memOk
    | split
    | fail_if_no_progress (unfold State.memOk; dsimp only; with_reducible apply State.memOk.out)

theorem execPwrGoodLoss_memOk (s : State) (hs : State.memOk s) : OutcomeOk (execPwrGoodLoss s) := by
  unfold execPwrGoodLoss
  repeat' first
    | with_reducible assumption
    | with_reducible apply OutcomeOk.next
    | with_reducible apply State.coldReset_memOk
    | split
    | fail_if_no_progress (unfold State.memOk; dsimp only; with_reducible apply State.memOk.out)

theorem execHimonWatchdogExpiry_memOk (t : Word) (s : State) (hs : State.memOk s) : OutcomeOk (execHimonWatchdogExpiry t s) := by
  unfold execHimonWatchdogExpiry
  repeat' first
    | with_reducible assumption
    | with_reducible apply OutcomeOk.next
    | with_reducible apply State.reach_memOk
    | with_reducible apply State.powerUp_memOk
    | with_reducible apply State.coldReset_memOk
    | split
    | extract_lets

theorem State.settleBindery_memOk (s : State) (hs : State.memOk s) : State.memOk (State.settleBindery s) := by
  unfold State.settleBindery
  repeat' first
    | with_reducible assumption
    | with_reducible apply State.cancelStep_memOk
    | with_reducible apply State.releaseSeq_memOk
    | with_reducible apply State.setFrames_memOk
    | with_reducible apply State.freeFrame_memOk
    | with_reducible apply foldl_memOk
    | intro _

/-- A change to every stack that keeps its lines keeps memory canonical. -/
theorem State.mapStack_memOk (s t : State) (f : Stack → Stack) (hs : s.memOk) (hh : t.host = s.host) (he : t.hbm = s.hbm.map f)
    (hf : ∀ x, (f x).lines = x.lines) : t.memOk := by
  refine ⟨hh ▸ hs.1, ?_⟩
  rw [he]
  intro x hx
  obtain ⟨y, hy, rfl⟩ := List.mem_map.mp hx
  rw [hf]; exact hs.2 y hy

theorem State.loseWarm_memOk (s : State) (hs : s.memOk) : (s.loseWarm).memOk :=
  State.mapStack_memOk s _ _ hs rfl rfl (fun _ => rfl)

theorem State.warmReset_memOk (s : State) (link : Bool) (hs : State.memOk s) : State.memOk (State.warmReset s link) := by
  unfold State.warmReset
  repeat' first
    | with_reducible assumption
    | with_reducible apply State.dropCmd_memOk
    | with_reducible apply State.completeCommit_memOk
    | with_reducible apply State.writeBackAll_memOk
    | with_reducible apply State.settleBindery_memOk
    | with_reducible apply State.resetRings_memOk
    | with_reducible apply State.loseWarm_memOk
    | with_reducible apply foldl_memOk
    | split
    | intro _
    | fail_if_no_progress (unfold State.memOk; dsimp +zetaDelta only; with_reducible apply State.memOk.out)

theorem State.warmWith_memOk (s : State) (cause : Nat) (link : Bool) (hs : State.memOk s) : State.memOk (State.warmWith s cause link) := by
  unfold State.warmWith
  repeat' first
    | with_reducible assumption
    | with_reducible apply State.warmReset_memOk
    | fail_if_no_progress (unfold State.memOk; dsimp only; with_reducible apply State.memOk.out)

theorem execPfFlr_memOk (s : State) (hs : State.memOk s) : OutcomeOk (execPfFlr s) := by
  unfold execPfFlr
  repeat' first
    | with_reducible assumption
    | with_reducible apply OutcomeOk.next
    | with_reducible apply State.warmWith_memOk
    | split
    | fail_if_no_progress (unfold State.memOk; dsimp only; with_reducible apply State.memOk.out)

theorem execPerstNAssert_memOk (s : State) (hs : State.memOk s) : OutcomeOk (execPerstNAssert s) := by
  unfold execPerstNAssert
  repeat' first
    | with_reducible assumption
    | with_reducible apply OutcomeOk.next
    | with_reducible apply State.warmWith_memOk
    | split
    | fail_if_no_progress (unfold State.memOk; dsimp only; with_reducible apply State.memOk.out)

theorem execPerstNRelease_memOk (s : State) (hs : State.memOk s) : OutcomeOk (execPerstNRelease s) := by
  unfold execPerstNRelease
  repeat' first
    | with_reducible assumption
    | with_reducible apply OutcomeOk.next
    | with_reducible apply State.powerUp_memOk
    | with_reducible apply State.coldReset_memOk
    | split
    | fail_if_no_progress (unfold State.memOk; dsimp only; with_reducible apply State.memOk.out)

theorem State.trainLinks_memOk (s : State) (hs : State.memOk s) : State.memOk (State.trainLinks s) := by
  unfold State.trainLinks
  repeat' first
    | with_reducible assumption
    | with_reducible apply State.startRetrain_memOk
    | with_reducible apply State.setLink_memOk
    | with_reducible apply foldl_memOk
    | split
    | extract_lets
    | intro _

theorem execHimonReady_memOk (s : State) (hs : s.memOk) : OutcomeOk (execHimonReady s) := by
  unfold execHimonReady
  dsimp only
  split
  · apply OutcomeOk.next
    apply State.trainLinks_memOk
    split
    · exact State.writeBackAll_memOk _ (State.mapStack_memOk s _ _ hs rfl rfl (fun _ => rfl))
    · exact State.mapStack_memOk s _ _ hs rfl rfl (fun _ => rfl)
  · exact OutcomeOk.next hs

theorem State.enterPk_memOk (s : State) (n : Nat) (hs : s.memOk) : (s.enterPk n).memOk := by
  unfold State.enterPk
  split
  · exact State.mapStack_memOk s _ _ hs rfl rfl (fun _ => rfl)
  · exact hs
  · exact State.mapStack_memOk s _ _ hs rfl rfl (fun _ => rfl)
  · have h1 := State.warmReset_memOk s s.linkUp hs
    generalize s.warmReset s.linkUp = s1 at h1
    exact h1
  · exact hs

theorem execPowerSetPackageState_memOk (cmd : Nat) (s : State) (hs : State.memOk s) : OutcomeOk (execPowerSetPackageState cmd s) := by
  unfold execPowerSetPackageState
  repeat' first
    | with_reducible assumption
    | with_reducible apply OutcomeOk.next
    | with_reducible exact JudgeOk.error _
    | with_reducible apply control_memOk
    | with_reducible apply State.settle_memOk
    | with_reducible apply State.finish_memOk
    | with_reducible apply State.enterPk_memOk
    | split
    | extract_lets
    | intro _

theorem State.takeCapture_memOk (s : State) (hs : State.memOk s) : State.memOk (State.takeCapture s) := by
  unfold State.takeCapture
  repeat' first
    | with_reducible assumption
    | split
    | fail_if_no_progress (unfold State.memOk; dsimp only; with_reducible apply State.memOk.out)

theorem State.requestCapture_memOk (s : State) (who : Option Nat) (hs : State.memOk s) : State.memOk (State.requestCapture s who) := by
  unfold State.requestCapture
  repeat' first
    | with_reducible assumption
    | with_reducible apply State.takeCapture_memOk
    | fail_if_no_progress (unfold State.memOk; dsimp only; with_reducible apply State.memOk.out)

theorem execColophon_memOk (cmd : Nat) (s : State) (hs : State.memOk s) : OutcomeOk (execColophon cmd s) := by
  unfold execColophon
  repeat' first
    | with_reducible assumption
    | with_reducible apply OutcomeOk.next
    | with_reducible apply control_memOk
    | with_reducible apply State.requestCapture_memOk
    | with_reducible apply State.startCmd_memOk
    | intro _

theorem execColophonReqGo_memOk (value : Nat) (s : State) (hs : State.memOk s) : OutcomeOk (execColophonReqGo value s) := by
  unfold execColophonReqGo
  repeat' first
    | with_reducible assumption
    | with_reducible apply OutcomeOk.next
    | with_reducible apply State.requestCapture_memOk
    | split
    | extract_lets
    | fail_if_no_progress (unfold State.memOk; dsimp only; with_reducible apply State.memOk.out)

theorem State.nextCapture_memOk (s : State) (hs : State.memOk s) : State.memOk (State.nextCapture s) := by
  unfold State.nextCapture
  repeat' first
    | with_reducible assumption
    | with_reducible apply State.takeCapture_memOk
    | fail_if_no_progress (unfold State.memOk; dsimp only; with_reducible apply State.memOk.out)

theorem execColophonCaptureDone_memOk (s : State) (hs : State.memOk s) : OutcomeOk (execColophonCaptureDone s) := by
  unfold execColophonCaptureDone
  repeat' first
    | with_reducible assumption
    | with_reducible apply OutcomeOk.next
    | with_reducible apply State.hostWrite_memOk
    | with_reducible apply State.nextCapture_memOk
    | with_reducible apply State.sendMsix_memOk
    | with_reducible apply State.failCmd_memOk
    | with_reducible apply State.finish_memOk
    | split
    | extract_lets
    | fail_if_no_progress (unfold State.memOk; dsimp +zetaDelta only; with_reducible apply State.memOk.out)

theorem execColophonFatalTimeout_memOk (t : Word) (s : State) (hs : State.memOk s) : OutcomeOk (execColophonFatalTimeout t s) := by
  unfold execColophonFatalTimeout
  repeat' first
    | with_reducible assumption
    | with_reducible apply OutcomeOk.next
    | with_reducible apply State.reach_memOk
    | with_reducible apply State.takeCapture_memOk
    | split
    | extract_lets
    | fail_if_no_progress (unfold State.memOk; dsimp only; with_reducible apply State.memOk.out)

theorem execPlanInstall_memOk (cmd : Nat) (s : State) (hs : State.memOk s) : OutcomeOk (execPlanInstall cmd s) := by
  unfold execPlanInstall
  repeat' first
    | with_reducible assumption
    | with_reducible apply OutcomeOk.next
    | with_reducible exact JudgeOk.error _
    | with_reducible apply JudgeOk.ok
    | with_reducible apply control_memOk
    | with_reducible apply State.asDma_memOk
    | with_reducible apply State.settle_memOk
    | split
    | extract_lets
    | intro _
    | fail_if_no_progress (unfold State.memOk; dsimp +zetaDelta only; with_reducible apply State.memOk.out)

theorem execPlanRetire_memOk (cmd : Nat) (s : State) (hs : State.memOk s) : OutcomeOk (execPlanRetire cmd s) := by
  unfold execPlanRetire
  repeat' first
    | with_reducible assumption
    | with_reducible apply OutcomeOk.next
    | with_reducible exact JudgeOk.error _
    | with_reducible apply control_memOk
    | with_reducible apply State.settle_memOk
    | with_reducible apply State.setCmd_memOk
    | with_reducible apply State.finish_memOk
    | split
    | extract_lets
    | intro _
    | fail_if_no_progress (unfold State.memOk; dsimp +zetaDelta only; with_reducible apply State.memOk.out)

theorem State.decision_memOk {s t : State} {c : Cmd} {x : Decision} (e : s.decision c = some (t, x)) (hs : s.memOk) : t.memOk := by
  unfold State.decision at e
  exact State.temperAdmit_memOk e hs

theorem State.setFormats_memOk (s : State) (id : Nat) (c : Cmd) (hs : State.memOk s) : State.memOk (State.setFormats s id c) := by
  unfold State.setFormats
  try dsimp only
  repeat' first
    | with_reducible assumption
    | with_reducible apply State.setCmd_memOk
    | split
  rename_i e
  split at e
  · exact State.decision_memOk e hs
  · cases e

theorem State.admitOwn_memOk (s : State) (id : Nat) (c : Cmd) (hs : State.memOk s) : State.memOk (State.admitOwn s id c) := by
  unfold State.admitOwn
  repeat' first
    | with_reducible assumption
    | with_reducible refine State.openStream_memOk (by with_reducible assumption) ?_
    | with_reducible apply State.setCmd_memOk
    | with_reducible apply State.startCmd_memOk
    | with_reducible apply State.setSeq_memOk
    | split

theorem State.announce_memOk (s : State) (id : Nat) (c : Cmd) (hs : State.memOk s) : State.memOk (State.announce s id c) := by
  unfold State.announce
  repeat' first
    | with_reducible assumption
    | with_reducible apply State.sendSpine_memOk
    | with_reducible apply foldl_memOk
    | split
    | intro _

theorem State.admitHead_memOk (s : State) (owner ring : Nat) (r : SubRing) (x : Fetched) (hs : State.memOk s) : State.memOk (State.admitHead s owner ring r x) := by
  unfold State.admitHead
  repeat' first
    | with_reducible assumption
    | with_reducible apply State.withCmd_memOk
    | with_reducible apply State.admitCmd_memOk
    | with_reducible apply State.setCmd_memOk
    | with_reducible apply State.setFormats_memOk
    | with_reducible apply State.admitOwn_memOk
    | with_reducible apply State.announce_memOk
    | intro _

theorem execCommandAdmit_memOk (owner ring : Nat) (s : State) (hs : State.memOk s) : OutcomeOk (execCommandAdmit owner ring s) := by
  unfold execCommandAdmit
  repeat' first
    | with_reducible assumption
    | with_reducible apply OutcomeOk.next
    | with_reducible apply State.failFetched_memOk
    | with_reducible apply State.admitHead_memOk
    | split
    | extract_lets

theorem State.restage_memOk (s : State) (cmd origin : Nat) (hs : State.memOk s) : State.memOk (State.restage s cmd origin) := by
  unfold State.restage
  repeat' first
    | with_reducible assumption
    | with_reducible apply State.failRun_memOk
    | with_reducible apply State.killCmd_memOk
    | with_reducible apply State.setCmd_memOk
    | split

theorem State.sysWord_memOk (s : State) (p : SysPart) (die part cmd origin : Nat) (dirty himon : Bool) (hs : State.memOk s) : State.memOk (State.sysWord s p die part cmd origin dirty himon) := by
  unfold State.sysWord
  repeat' first
    | with_reducible assumption
    | with_reducible apply State.quarantinePart_memOk
    | with_reducible apply State.failCmd_memOk
    | with_reducible apply State.loseDie_memOk
    | with_reducible apply State.restage_memOk
    | split

theorem State.poisonStore_memOk (s : State) (die quire key version ingot word origin : Nat) (hs : State.memOk s) : State.memOk (State.poisonStore s die quire key version ingot word origin) := hs

theorem State.lostLine_memOk (s : State) (line origin : Nat) (said : LineUse) (hs : State.memOk s) : State.memOk (State.lostLine s line origin said) := by
  unfold State.lostLine
  repeat' first
    | with_reducible assumption
    | with_reducible apply State.markLine_memOk

theorem State.badLine_memOk (s : State) (line origin : Nat) (said : LineUse) (hs : State.memOk s) : State.memOk (State.badLine s line origin said) := by
  unfold State.badLine
  repeat' first
    | with_reducible assumption
    | with_reducible apply State.lostLine_memOk
    | with_reducible apply State.request_memOk
    | split

theorem State.badWay_memOk (s : State) (die set way origin : Nat) (said : LineUse) (hs : State.memOk s) : State.memOk (State.badWay s die set way origin said) := by
  unfold State.badWay
  repeat' first
    | with_reducible assumption
    | with_reducible apply State.setDie_memOk
    | with_reducible apply State.lostLine_memOk
    | with_reducible apply foldl_memOk
    | intro _

theorem State.found_memOk (s : State) (rep : Report) (hs : State.memOk s) : State.memOk (State.found s rep) := by
  unfold State.found
  repeat' first
    | with_reducible assumption
    | with_reducible apply State.report_memOk
    | with_reducible apply State.poisonLine_memOk
    | with_reducible apply State.poisonStore_memOk
    | with_reducible apply State.badLine_memOk
    | with_reducible apply State.badWay_memOk
    | with_reducible apply State.sysWord_memOk
    | split

theorem execErrorReport_memOk (rep : Report) (s : State) (hs : State.memOk s) : OutcomeOk (execErrorReport rep s) := by
  unfold execErrorReport
  repeat' first
    | with_reducible assumption
    | with_reducible apply OutcomeOk.next
    | with_reducible apply State.found_memOk

theorem State.adminEnable_memOk (s : State) (v : Nat) (hs : State.memOk s) : State.memOk (State.adminEnable s v) := by
  unfold State.adminEnable
  repeat' first
    | with_reducible assumption
    | with_reducible apply State.protocolHs_memOk
    | with_reducible apply State.setComp_memOk
    | with_reducible apply State.setSub_memOk
    | split
    | extract_lets
    | fail_if_no_progress (unfold State.memOk; dsimp +zetaDelta only; with_reducible apply State.memOk.out)

theorem State.adminDisable_memOk (s : State) (v : Nat) (hs : State.memOk s) : State.memOk (State.adminDisable s v) := by
  unfold State.adminDisable
  repeat' first
    | with_reducible assumption
    | split
    | fail_if_no_progress (unfold State.memOk; dsimp only; with_reducible apply State.memOk.out)

theorem execPackageAdminEnable_memOk (value : Nat) (s : State) (hs : State.memOk s) : OutcomeOk (execPackageAdminEnable value s) := by
  unfold execPackageAdminEnable
  repeat' first
    | with_reducible assumption
    | with_reducible apply OutcomeOk.next
    | with_reducible apply State.adminEnable_memOk

theorem execPackageAdminDisable_memOk (value : Nat) (s : State) (hs : State.memOk s) : OutcomeOk (execPackageAdminDisable value s) := by
  unfold execPackageAdminDisable
  repeat' first
    | with_reducible assumption
    | with_reducible apply OutcomeOk.next
    | with_reducible apply State.adminDisable_memOk

theorem State.adminField_memOk (s : State) (off : Nat) (f : AdminRegs → AdminRegs) (hs : State.memOk s) : State.memOk (State.adminField s off f) := by
  unfold State.adminField
  repeat' first
    | with_reducible assumption
    | with_reducible apply State.protocolHs_memOk
    | split
    | fail_if_no_progress (unfold State.memOk; dsimp only; with_reducible apply State.memOk.out)

theorem State.setSnap_memOk (s : State) (pf : Bool) (part : Nat) (x : Snap) (hs : State.memOk s) : State.memOk (State.setSnap s pf part x) := hs

theorem State.snapWrite_memOk (s : State) (pf : Bool) (part v : Nat) (hs : State.memOk s) : State.memOk (State.snapWrite s pf part v) := by
  unfold State.snapWrite
  repeat' first
    | with_reducible assumption
    | with_reducible apply State.setSnap_memOk
    | split
    | extract_lets

theorem execSnapCapture_memOk (pf : Bool) (part kind index : Nat) (s : State) (hs : State.memOk s) : OutcomeOk (execSnapCapture pf part kind index s) := by
  unfold execSnapCapture
  repeat' first
    | with_reducible assumption
    | with_reducible apply OutcomeOk.next
    | with_reducible apply State.snapWrite_memOk

theorem execSnapCaptureClear_memOk (pf : Bool) (part kind index : Nat) (s : State) (hs : State.memOk s) : OutcomeOk (execSnapCaptureClear pf part kind index s) := by
  unfold execSnapCaptureClear
  repeat' first
    | with_reducible assumption
    | with_reducible apply OutcomeOk.next
    | with_reducible apply State.snapWrite_memOk

theorem State.snapClear_memOk (s : State) (part kind index : Nat) (hs : State.memOk s) : State.memOk (State.snapClear s part kind index) := by
  unfold State.snapClear
  repeat' first
    | with_reducible assumption
    | with_reducible apply State.setTemper_memOk
    | split
    | fail_if_no_progress (unfold State.memOk; dsimp only; with_reducible apply State.memOk.out)

theorem execSnapCaptureDone_memOk (pf : Bool) (part : Nat) (s : State) (hs : State.memOk s) : OutcomeOk (execSnapCaptureDone pf part s) := by
  unfold execSnapCaptureDone
  repeat' first
    | with_reducible assumption
    | with_reducible apply OutcomeOk.next
    | with_reducible apply State.setSnap_memOk
    | with_reducible apply State.snapClear_memOk
    | split
    | extract_lets

theorem stateAfter_memOk (s : State) (o : Host.Outcome State Fault Refusal) (hs : s.memOk) (ho : OutcomeOk o) : (stateAfter s o).memOk := by
  unfold stateAfter
  split
  · exact ho.out _ rfl
  · exact hs

theorem State.lowHalf_memOk (s : State) (off v : Nat) (hs : State.memOk s) : State.memOk (State.lowHalf s off v) := hs

theorem State.msixWrite_memOk (s : State) (fn o v : Nat) (hs : State.memOk s) : State.memOk (State.msixWrite s fn o v) := by
  unfold State.msixWrite
  repeat' first
    | with_reducible assumption
    | with_reducible apply stateAfter_memOk
    | with_reducible apply execMsixUnmask_memOk
    | split
    | fail_if_no_progress (unfold State.memOk; dsimp +zetaDelta only; with_reducible apply State.memOk.out)

theorem State.windowWrite_memOk (s : State) (pf : Bool) (part o v : Nat) (hs : State.memOk s) : State.memOk (State.windowWrite s pf part o v) := by
  unfold State.windowWrite
  repeat' first
    | with_reducible assumption
    | with_reducible apply stateAfter_memOk
    | with_reducible apply execVfErrPendingClear_memOk
    | with_reducible apply State.snapWrite_memOk
    | split

theorem State.packageWrite_memOk (s : State) (off v : Nat) (hs : State.memOk s) : State.memOk (State.packageWrite s off v) := by
  unfold State.packageWrite
  repeat' first
    | with_reducible assumption
    | with_reducible apply stateAfter_memOk
    | with_reducible apply execPartIdWrite_memOk
    | with_reducible apply execMemMapCtrlWrite_memOk
    | with_reducible apply State.lowHalf_memOk
    | with_reducible apply State.adminField_memOk
    | with_reducible apply State.adminEnable_memOk
    | with_reducible apply State.adminDisable_memOk
    | with_reducible apply execColophonReqGo_memOk
    | with_reducible apply execErrSummaryPendingClear_memOk
    | with_reducible apply execErrClearAll_memOk
    | with_reducible apply execErrClearPendingOnly_memOk
    | with_reducible apply execErrClearSlot_memOk
    | with_reducible apply execDiscardToken_memOk
    | split
    | fail_if_no_progress (unfold State.memOk; dsimp only; with_reducible apply State.memOk.out)

theorem State.mailboxWrite_memOk (s : State) (off v : Nat) (hs : State.memOk s) : State.memOk (State.mailboxWrite s off v) := by
  unfold State.mailboxWrite
  repeat' first
    | with_reducible assumption
    | with_reducible apply State.mailboxGo_memOk
    | with_reducible apply State.lowHalf_memOk
    | split
    | fail_if_no_progress (unfold State.memOk; dsimp only; with_reducible apply State.memOk.out)

theorem State.linkWrite_memOk (s : State) (off v : Nat) (hs : State.memOk s) : State.memOk (State.linkWrite s off v) := by
  unfold State.linkWrite
  repeat' first
    | with_reducible assumption
    | with_reducible apply stateAfter_memOk
    | with_reducible apply execXlinkVcWeightWrite_memOk
    | with_reducible apply execXlinkSecWrite_memOk
    | with_reducible apply execXlinkTestWrite_memOk
    | split

theorem State.write32_memOk (s : State) (fn off v : Nat) (hs : State.memOk s) : State.memOk (State.write32 s fn off v) := by
  unfold State.write32
  repeat' first
    | with_reducible assumption
    | with_reducible apply State.packageWrite_memOk
    | with_reducible apply State.mailboxWrite_memOk
    | with_reducible apply State.linkWrite_memOk
    | with_reducible apply State.msixWrite_memOk
    | with_reducible apply State.windowWrite_memOk
    | split

theorem execRegisterWrite_memOk (fn off width value : Nat) (s : State) (hs : State.memOk s) : OutcomeOk (execRegisterWrite fn off width value s) := by
  unfold execRegisterWrite
  repeat' first
    | with_reducible assumption
    | with_reducible apply OutcomeOk.next
    | with_reducible apply State.write32_memOk
    | with_reducible apply State.protocolHs_memOk
    | split

theorem execBar0BadAccess_memOk (_fn off width : Nat) (_isWrite : Bool) (_value : Nat) (s : State) (hs : State.memOk s) : OutcomeOk (execBar0BadAccess _fn off width _isWrite _value s) := by
  unfold execBar0BadAccess
  repeat' first
    | with_reducible assumption
    | with_reducible apply OutcomeOk.next
    | with_reducible apply State.protocolHs_memOk
    | split

theorem execCommandStart_memOk (cmd : Nat) (s : State) (hs : State.memOk s) : OutcomeOk (execCommandStart cmd s) := by
  unfold execCommandStart
  repeat' first
    | with_reducible assumption
    | with_reducible apply OutcomeOk.next
    | with_reducible apply State.openWork_memOk
    | with_reducible apply State.ensureStart_memOk
    | with_reducible apply State.takeTurn_memOk
    | with_reducible apply State.collStart_memOk
    | with_reducible apply State.unitStart_memOk
    | with_reducible apply foldl_memOk
    | split
    | intro _

theorem State.preempt_memOk (s : State) (v : Nat × Cmd) (hs : State.memOk s) : State.memOk (State.preempt s v) := by
  unfold State.preempt
  repeat' first
    | with_reducible assumption
    | with_reducible apply State.setColl_memOk
    | with_reducible apply State.collPreempt_memOk
    | with_reducible apply State.killCmd_memOk
    | split

theorem execPreemptDelayExpiry_memOk (cmd : Nat) (t : Word) (s : State) (hs : State.memOk s) : OutcomeOk (execPreemptDelayExpiry cmd t s) := by
  unfold execPreemptDelayExpiry
  repeat' first
    | with_reducible assumption
    | with_reducible apply OutcomeOk.next
    | with_reducible apply State.reach_memOk
    | with_reducible apply State.advanceAll_memOk
    | with_reducible apply State.preempt_memOk
    | with_reducible apply State.setCmd_memOk
    | split
    | extract_lets

end Sys2Proof.Machine
end

