-- ==== Sys2Proof/Machine/Reads.lean ====
section
/-! DEFINITION. What BAR0 reads: a pure view of the state, for a PF and a VF (R549 to R562, Tables 24-1 to 24-11). A read changes nothing. -/

namespace Sys2Proof.Machine

/-- A 32-bit word of a run of bytes. -/
def wordOf (b : Bytes) (off : Nat) : Nat := fld b off 4

/-- Identification and capabilities (Table 24-2). -/
def State.identity (s : State) (off : Nat) : Nat :=
  let img := if s.boot = .recovery then ({} : HimonSlot) else s.runningSlot
  let fenced := ((List.range 8).map (fun d => if (s.dieAt d).fenced then 2 ^ d else 0)).sum
  let act := s.activeByDie
  match off with
  | 0x00 => 0x524203A1
  | 0x04 => 0x00010001
  | 0x08 => s.serial % 2 ^ 32
  | 0x0C => s.serial / 2 ^ 32 % 2 ^ 32
  | 0x10 => img.version
  | 0x14 => img.svn
  | 0x18 => s.resetCause
  | 0x1C => s.warmResets.toNat
  | 0x40 => 28 * 2 ^ 16 + 8 * 2 ^ 8 + 8
  | 0x44 => 262144
  | 0x48 => 1536 * 2 ^ 16 + 24
  | 0x4C => s.hbmRate * 2 ^ 16 + 8192
  | 0x50 => 12 * 2 ^ 24 + 100 * 2 ^ 16 + act.sum
  | 0x58 => leNat ((act.take 4).map (BitVec.ofNat 8))
  | 0x5C => leNat ((act.drop 4).map (BitVec.ofNat 8))
  | 0x60 => 16 * 2 ^ 24 + 16 * 2 ^ 16 + 1024
  | 0x64 => fenced
  | _ => 0

/-- The halves of a 64-bit register. -/
def lo32 (v : Nat) : Nat := v % 2 ^ 32
def hi32 (v : Nat) : Nat := v / 2 ^ 32 % 2 ^ 32

/-- Package control (Tables 24-3 to 24-5, 22-11, 23-6, 14-2). -/
def State.packageRead (s : State) (off : Nat) : Nat :=
  let a := s.admin
  let c := s.colo
  match off with
  | 0x1000 => s.partId
  | 0x1004 => b2n s.mitusEn * 2 ^ 31 + s.nearGib
  | 0x1010 => lo32 a.sqBase
  | 0x1014 => hi32 a.sqBase
  | 0x1018 => lo32 a.cqBase
  | 0x101C => hi32 a.cqBase
  | 0x1020 => lo32 a.headWb
  | 0x1024 => hi32 a.headWb
  | 0x1028 => b2n a.enable * 2 ^ 31 + b2n s.adminRunning * 2 ^ 30 + b2n a.cfgError * 2 ^ 29 + a.sqLog2 * 2 ^ 24 + a.cqLog2 * 2 ^ 16
  | 0x102C => a.vector * 2 ^ 16 + a.modCountM1
  | 0x1030 => a.modTime
  | 0x1034 =>
    match s.sub? packageOwner 0, s.comp? packageOwner 0 with
    | some r, some q => b2n r.halted * 2 ^ 31 + b2n q.armed * 2 ^ 30 + b2n q.phase * 2 ^ 29 + r.head
    | _, _ => 2 ^ 29
  | 0x1040 => s.powerStatus
  | 0x1050 => b2n c.go * 2 ^ 31 + b2n c.done * 2 ^ 30 + b2n c.error * 2 ^ 29 + c.sections
  | 0x1058 => lo32 c.addr
  | 0x105C => hi32 c.addr
  | 0x1060 => c.len
  | 0x1070 => b2n s.fatal * 2 ^ 31 + b2n s.pins.svcAttn * 2 ^ 30 + s.errPending * 2 ^ 16 + s.dropped
  | 0x1074 => s.ceLog2
  | 0x1080 => b2n s.sec.unlocked * 2 ^ 31 + b2n s.flash.token.isSome * 2 ^ 30 + s.sec.jtagRefused
  | _ => 0

/-- The security mailbox (Table 24-6). -/
def State.mailboxRead (s : State) (off : Nat) : Nat :=
  let x := s.sec
  match off with
  | 0x3000 => b2n x.mbGo * 2 ^ 31 + b2n x.mbDone * 2 ^ 30 + x.mbCmd
  | 0x3004 => x.mbResult
  | 0x3008 => b2n x.mbTarget * 2 ^ 31 + x.mbOffset
  | 0x3010 => lo32 x.mbAddr
  | 0x3014 => hi32 x.mbAddr
  | 0x3018 => x.mbLen
  | 0x303C => 2 * b2n x.recovery + b2n (x.running = some true)
  | _ => if 0x3020 ≤ off ∧ off < 0x303C then x.statusRegs.getD ((off - 0x3020) / 4) 0 else 0

/-- An external link (Tables 24-7, 17-4, 21-10, 23-7). -/
def Link.read (x : Link) (off : Nat) : Nat :=
  match off with
  | 0x00 => b2n x.up * 2 ^ 31 + b2n x.down * 2 ^ 30 + x.peerLink * 2 ^ 24 + x.peerPart
  | 0x04 => x.retrains.toNat
  | 0x08 => leNat (x.nextWeights.map (BitVec.ofNat 8))
  | 0x0C => b2n x.secEnable * 2 ^ 31 + b2n x.secActive * 2 ^ 30 + x.secFail * 2 ^ 16 + x.peerSvn % 256 * 2 ^ 8 + x.minPeerSvn
  | 0x10 => b2n x.testRun * 2 ^ 31 + x.testMode * 2 ^ 28 + x.testLock * 2 ^ 16 + x.testErrors.toNat
  | 0x14 => x.fecCorrected.toNat
  | 0x18 => x.fecUncorrectable.toNat
  | _ => 0

/-- The MSI-X table and pending-bit array of a function. -/
def State.msixRead (s : State) (fn o : Nat) : Nat :=
  let m := NMap.getD s.msix fn {}
  let e := NMap.getD m.table (o / 16) (0, 0)
  match o / 4 % 4 with
  | 0 => lo32 e.1
  | 1 => hi32 e.1
  | 2 => e.2
  | _ => b2n (!(m.unmasked.contains (o / 16)))
def State.pbaRead (s : State) (fn o : Nat) : Nat :=
  let m := NMap.getD s.msix fn {}
  ((List.range 32).map (fun i => if m.pendingBits.contains (8 * o + i) then 2 ^ i else 0)).sum

/-- A ring status entry (Table 24-10): submission rings from 0x1000, completion rings from 0x5000. -/
def State.ringRead (s : State) (part o : Nat) : Nat :=
  if o < 0x5000 then
    match s.sub? part ((o - 0x1000) / 16) with
    | some r =>
      match o % 16 with
      | 0 => 2 ^ 31 + b2n r.halted * 2 ^ 30 + r.head
      | 4 => r.tail
      | 8 => (s.ringCmds part ((o - 0x1000) / 16)).length
      | _ => 0
    | none => 0
  else
    match s.comp? part ((o - 0x5000) / 16) with
    | some r =>
      match o % 16 with
      | 0 => 2 ^ 31 + b2n r.armed * 2 ^ 30 + b2n r.phase * 2 ^ 29 + r.head
      | 4 => r.next
      | 8 => r.reserved
      | _ => 0
    | none => 0

/-- SNAP_SEL (Table 24-11). -/
def Snap.read (x : Snap) : Nat :=
  b2n x.go * 2 ^ 31 + b2n x.done * 2 ^ 30 + x.result * 2 ^ 27 + b2n x.clear * 2 ^ 26 + x.kind * 2 ^ 22 + x.index

/-- The window of a partition that exists (Tables 24-8, 24-9). -/
def State.windowRead (s : State) (pf : Bool) (part : Nat) (p : Part) (o : Nat) : Nat :=
  let w := NMap.getD s.windows part {}
  if o = 0x100 then
    2 ^ 31 + b2n p.quarantine.isSome * 2 ^ 30 + b2n p.lengthBank * 2 ^ 29 + p.function * 2 ^ 16 + (s.ownerCmds part).length
  else if 0x104 ≤ o ∧ o < 0x110 then p.groups.toNat / 2 ^ (8 * (o - 0x104)) % 2 ^ 32
  else if o = 0x110 then p.quarantine.getD 0
  else if o = 0x120 then (if pf then w.pfPending else w.vfPending).toNat
  else if o = 0x200 then (w.snap pf).read
  else if 0x280 ≤ o ∧ o < 0x300 then wordOf (w.snap pf).data (o - 0x280)
  else if 0x1000 ≤ o ∧ o < 0x9000 then s.ringRead part o
  else 0

/-- A 32-bit read of a function's BAR0 at a 4-byte-aligned offset (R550, R551, R558). -/
def State.read32 (s : State) (fn off : Nat) : Nat :=
  if fn = 0 then
    if off < 0x100 then (if s.barErr || s.barMailbox then s.identity off else 0)
    else if 0x1000 ≤ off ∧ off < 0x2000 then (if s.barAll || (s.barErr && fatalKept off) then s.packageRead off else 0)
    else if 0x3000 ≤ off ∧ off < 0x4000 then (if s.barMailbox then s.mailboxRead off else 0)
    else if 0x80000 ≤ off ∧ off < 0x100000 then
      (if s.barErr then
        match s.errAt ((off - 0x80000) / 0x10000 * 1024 + off % 0x10000 / 64) with
        | some e => wordOf (errBytes e) (off % 64)
        | none => 0
      else 0)
    else if !s.barAll then 0
    else if 0x2000 ≤ off ∧ off < 0x2140 then wordOf s.telemetry (off - 0x2000)
    else if 0x4000 ≤ off ∧ off < 0x4200 then (s.linkAt ((off - 0x4000) / 0x40)).read ((off - 0x4000) % 0x40)
    else if 0x10000 ≤ off ∧ off < 0x18000 then s.msixRead 0 (off - 0x10000)
    else if 0x18000 ≤ off ∧ off < 0x18100 then s.pbaRead 0 (off - 0x18000)
    else if 0x100000 ≤ off ∧ off < 0x200000 then
      let part := (off - 0x100000) / 0x10000
      if off % 0x10000 < 0x100 then s.identity (off % 0x10000)
      else match NMap.get? s.parts part with
        | some p => s.windowRead true part p (off % 0x10000)
        | none => 0
    else 0
  else if !s.barAll then 0
  else if off < 0x100 then s.identity off
  else if 0x9000 ≤ off ∧ off < 0x9000 + 16400 then s.msixRead fn (off - 0x9000)
  else if 0xE000 ≤ off ∧ off < 0xE000 + 136 then s.pbaRead fn (off - 0xE000)
  else
    match s.parts.find? (fun q => q.2.function == fn) with
    | some (part, p) => s.windowRead false part p off
    | none => 0

/-- A read of BAR2, which holds the doorbells (R31): zero (R41). -/
def State.readBar2 (_s : State) (_fn _off _width : Nat) : Nat := 0

/-- A read of a function's BAR0 (R31): a bad access reads zero (R549). -/
def State.readBar0 (s : State) (fn off width : Nat) : Nat :=
  if !(goodAccess off width) then 0
  else if width = 64 then s.read32 fn off + 2 ^ 32 * s.read32 fn (off + 4)
  else s.read32 fn off

end Sys2Proof.Machine
end

