-- ==== Sys2Proof/WellFormed.lean ====
section
/-! DEFINITION. Which commands are well-formed: operands inside the ranges the spec gives the things they name. -/

namespace Sys2Proof

/-- A die number (Table 0-3). -/
def dieOk (d : Nat) : Bool := decide (d < 8)

/-- An external link number (Table 0-3). -/
def linkOk (l : Nat) : Bool := decide (l < 8)

/-- A function number: 0 the PF, 1 to 16 the VFs (R29). -/
def fnOk (f : Nat) : Bool := decide (f ≤ 16)

/-- A partition number (Table 0-3). -/
def partOk (p : Nat) : Bool := decide (p < 16)

/-- An owner of rings: a partition, or 255 for the package admin ring. -/
def ownerOk (o : Nat) : Bool := decide (o < 16) || decide (o = 255)

/-- A ring id (R35). -/
def ringOk (r : Nat) : Bool := decide (r < 1024)

/-- A spine link Sab (Table 0-3). -/
def spineOk (a b : Nat) : Bool := decide (a < b) && decide (b < 8)

/-- A message: payload of at most 16,384 bytes that LENGTH counts (R398). -/
def msgOk (m : Msg) : Bool := decide (m.payload.length ≤ 16384) && decide (m.length = m.payload.length)

/-- A physical quire (kind 0, of its die) or a spine link by its far die (kind 1). -/
def unitOk (d kind unit : Nat) : Bool :=
  dieOk d && ((decide (kind = 0) && decide (unit < 100)) || (decide (kind = 1) && dieOk unit && decide (unit ≠ d)))

/-- The check of one command. A command whose operands have no range is well-formed as it stands. -/
def Instr.wellFormed : Instr → Bool
  | .spdmGetVersion transport _ _ => decide (transport < 2)
  | .spdmGetCapabilities transport _ _ => decide (transport < 2)
  | .spdmNegotiateAlgorithms transport _ _ => decide (transport < 2)
  | .spdmGetDigests transport _ _ => decide (transport < 2)
  | .spdmGetCertificate transport _ _ => decide (transport < 2)
  | .spdmChallenge transport _ _ => decide (transport < 2)
  | .spdmGetMeasurements transport _ _ => decide (transport < 2)
  | .spdmKeyExchange transport _ _ => decide (transport < 2)
  | .spdmFinish transport _ _ => decide (transport < 2)
  | .spdmKeyUpdate transport _ _ => decide (transport < 2)
  | .spdmHeartbeat transport _ _ => decide (transport < 2)
  | .spdmEndSession transport _ _ => decide (transport < 2)
  | .ideKmRequest _ stream _ => decide (stream ≤ 8)
  | .submissionTailDoorbell fn _ _ value _ => fnOk fn && decide (value < 2 ^ 32)
  | .resume fn _ _ value _ => fnOk fn && decide (value < 2 ^ 32)
  | .completionHeadDoorbell fn _ _ value => fnOk fn && decide (value < 2 ^ 32)
  | .arm fn _ _ value => fnOk fn && decide (value < 2 ^ 32)
  | .memMapCtrlWrite value => decide (value < 2 ^ 32)
  | .xlinkVcWeightWrite link value => linkOk link && decide (value < 2 ^ 32)
  | .xlinkSecWrite link value => linkOk link && decide (value < 2 ^ 32)
  | .xlinkTestWrite link value => linkOk link && decide (value < 2 ^ 32)
  | .partIdWrite value => decide (value < 2 ^ 32)
  | .errClearAll die => dieOk die
  | .errClearPendingOnly die slot => dieOk die && decide (slot < 1024)
  | .errClearSlot die slot => dieOk die && decide (slot < 1024)
  | .errSummaryPendingClear mask => decide (mask < 2 ^ 8)
  | .colophonReqGo value => decide (value < 2 ^ 32)
  | .packageAdminEnable value => decide (value < 2 ^ 32)
  | .packageAdminDisable value => decide (value < 2 ^ 32)
  | .snapCapture _ part kind index => partOk part && decide (kind < 16) && decide (index < 2 ^ 22)
  | .snapCaptureClear _ part kind index => partOk part && decide (kind < 16) && decide (index < 2 ^ 22)
  | .vfErrPendingClear _ part mask => partOk part && decide (mask < 2 ^ 8)
  | .registerWrite fn _ _ value => fnOk fn && decide (value < 2 ^ 64)
  | .bar0BadAccess fn _ _ _ value => fnOk fn && decide (value < 2 ^ 64)
  | .descriptorFetch owner ring => ownerOk owner && ringOk ring
  | .commandAdmit owner ring => ownerOk owner && ringOk ring
  | .unitClaim _ die quire plane => dieOk die && decide (quire < 96) && decide (plane < 3)
  | .tileComplete _ _ quire _ => dieOk (quire / 256) && decide (quire % 256 < 100)
  | .commitMessage die _ => dieOk die
  | .commitAck die _ => dieOk die
  | .admittedDescriptorReceive die _ => dieOk die
  | .seqReleaseComplete index => decide (index < 2 ^ 18)
  | .modTimeExpiry owner cq _ => ownerOk owner && ringOk cq
  | .servedHalving die _ => dieOk die
  | .regulatorRefill die _ => dieOk die
  | .segmentCountSend die _ _ => dieOk die
  | .segmentCountReceive dst src _ _ => dieOk dst && dieOk src
  | .farAccessRequest die _ _ gen addr _ _ => dieOk die && decide (gen.gen < 256) && decide (addr < 2 ^ 48)
  | .atomicRequest die _ _ gen addr req width _ _ => dieOk die && decide (gen.gen < 256) && decide (addr < 2 ^ 48) && (if req.op = .lineAdd then decide (width = 1024) else decide (width = 64) || (decide (width = 128) && decide (req.op = .add)))
  | .lineAdd die line addends => dieOk die.src && dieOk die.dst && decide (die.stamp.gen < 256) && decide (line < 131072) && decide (addends.length ≤ 8)
  | .spineMessageReceive m => dieOk m.src && dieOk m.dst && decide (m.channel < 4)
  | .quireProbe die _ => dieOk die
  | .probeAnswer die phys gen => dieOk die && decide (phys < 100) && decide (gen < 2 ^ 32)
  | .spineHeartbeatSend die far _ => dieOk die && dieOk far
  | .spineHeartbeatReceive die far gen => dieOk die && dieOk far && decide (gen < 2 ^ 32)
  | .heartbeatMiss die kind unit _ => unitOk die kind unit
  | .fenceAcksComplete die kind unit => unitOk die kind unit
  | .laneRemap a b dir _ => spineOk a b && decide (dir < 2)
  | .spineRetrainDone a b => spineOk a b
  | .linkDataFrame link vc seqNo _ payload => linkOk link && decide (vc < 4) && decide (seqNo < 4096) && decide (payload.length = 228)
  | .linkControlFrame link seqNo _ credits ack => linkOk link && decide (seqNo < 4096) && decide (credits.length = 4) && decide (ack < 4096)
  | .linkNak link seqNo credits ack => linkOk link && decide (seqNo < 4096) && decide (credits.length = 4) && decide (ack < 4096)
  | .linkControlTimer link _ => linkOk link
  | .linkRetrainDone link => linkOk link
  | .linkRetrainTimeout link _ => linkOk link
  | .linkTrainingRetry link _ _ => linkOk link
  | .linkSessionLimit link => linkOk link
  | .hello link m => linkOk link && msgOk m
  | .fprint link m => linkOk link && msgOk m
  | .grant link m => linkOk link && msgOk m
  | .contrib link m => linkOk link && msgOk m
  | .result link m => linkOk link && msgOk m
  | .done link m => linkOk link && msgOk m
  | .collAbort link m => linkOk link && msgOk m
  | .collAbortFinal link m => linkOk link && msgOk m
  | .messageForward link m => linkOk link && msgOk m
  | .messageDrop link vc m => linkOk link && decide (vc < 4) && msgOk m
  | .peerReady link m => linkOk link && msgOk m
  | .peerData link m => linkOk link && msgOk m
  | .peerDone link m => linkOk link && msgOk m
  | .peerAbort link m => linkOk link && msgOk m
  | .relayReady link m => linkOk link && msgOk m
  | .relayManifest link m => linkOk link && msgOk m
  | .relayShard link m => linkOk link && msgOk m
  | .relayAck link m => linkOk link && msgOk m
  | .relayNak link m => linkOk link && msgOk m
  | .relayAbort link m => linkOk link && msgOk m
  | .codecFrameBoundary die => dieOk die
  | .errorReport rep => decide (rep.origin < 2 ^ 16) && decide (rep.cls < 256)
  | .errorDeferredNotify die slot _ => dieOk die && decide (slot < 1024)
  | .patrolScrub stack line outcome _ => decide (stack < 24) && decide (line < 2 ^ 29) && decide (outcome < 3)
  | .repairRecordAdd typ die _ _ => (decide (1 ≤ typ) && decide (typ ≤ 4)) && dieOk die
  | .t3WriteBack part handle _ => partOk part && decide (handle < 2 ^ 32)
  | .clampUpdate die _ _ => dieOk die
  | .stackTempReport stack _ _ => decide (stack < 24)
  | .protectiveTrip isStack unit _ => (if isStack then decide (unit < 24) else dieOk unit)
  | .ioutCalibration die _ _ _ => dieOk die
  | .railPoll mw _ => decide (mw.length = 4)
  | .pmbAlert kind die _ => decide (kind < 3) && dieOk die
  | .apSettleDone die => dieOk die
  | .quireGroupReady group _ => decide (group < 96)
  | .snapCaptureDone _ part => partOk part
  | .ideStreamInsecure stream => decide (stream ≤ 8)
  | .vfFlr vf => (decide (1 ≤ vf) && decide (vf ≤ 16))
  | .spineFlitCrcError a b dir _ _ => spineOk a b && decide (dir < 2)
  | .uncorrectableCodeword link => linkOk link
  | .linkKeyExchange link _ _ peerSvn _ => linkOk link && decide (peerSvn < 256)
  | .pllLossOfLock die => dieOk die
  | .himonFailure die => dieOk die
  | .msixUnmask fn _ => fnOk fn
  | .atsInvalidationRequest fn _ _ => fnOk fn
  | .tensorOp .. | .attend .. | .attendBuildSketches .. | .seqStepOpen .. | .seqStepAppend .. | .seqStepClose .. | .seqStepCancel .. | .seqFork ..
  | .seqFree .. | .moveCopy .. | .moveImport .. | .moveExport .. | .moveSeqExport .. | .movePeerSend .. | .movePeerRecv .. | .moveRetier ..
  | .collectiveAllReduce .. | .collectiveReduceScatter .. | .collectiveAllGather .. | .collectiveBroadcast .. | .codecOpen .. | .codecEncode ..
  | .codecDecode .. | .codecClose .. | .codecKeyReq .. | .detectPost .. | .barrier .. | .signalAdd .. | .signalSet .. | .signalPoison .. | .wait ..
  | .abort .. | .routeLengthBucket .. | .routeExpertDispatch .. | .routeLengthPack .. | .routeExpertCombine .. | .seqRestoreUnpark ..
  | .seqRestoreImage .. | .partCreate .. | .partDestroy .. | .ringCreate .. | .ringDestroy .. | .planInstall .. | .planRetire .. | .tableLoad ..
  | .tableClear .. | .objectRegister .. | .objectRelease .. | .modelLoad .. | .modelUnload .. | .alloyBind .. | .alloyUnbind ..
  | .powerSetPackageState .. | .powerSetArithPoint .. | .powerSetGroupsOff .. | .powerSetGroupsOn .. | .powerSetGroupsCycle .. | .colophon ..
  | .attest .. | .groupSet .. | .groupClear .. | .unitReturn .. | .quotaSet .. | .keyImportContent .. | .keySetPublisher .. | .keyClearContent ..
  | .keyClearPublisher .. | .memMarginReadScan .. | .memMarginTiming .. | .memMarginVoltage .. | .memMarginTimingVoltage .. | .fwWrite ..
  | .fwActivate .. | .fwConfirm .. | .fwStatus .. | .debugUnlock .. | .discardToken .. | .commandStart .. | .blockSelectionDone ..
  | .deltaScanDone .. | .normScanDone .. | .ingotArrival .. | .t3FetchError .. | .useDeadlineExpiry .. | .stallLimitExpiry .. | .commandCommit ..
  | .preemptDelayExpiry .. | .preemptGraceExpiry .. | .waitTimeout .. | .selfTestDone .. | .collTimeout .. | .peerTimeout .. | .shardVerified ..
  | .shardMissingTimeout .. | .relayManifestTimeout .. | .downstreamTimeout .. | .telemetryRefresh .. | .groupsCycleOnTimer ..
  | .colophonCaptureDone .. | .colophonFatalTimeout .. | .mailboxCommandDone .. | .v1p8AuxApplied .. | .v1p8AuxRemoved .. | .pkgRstNAssert ..
  | .himonReady .. | .himonWatchdogExpiry .. | .pwrGoodLoss .. | .perstNAssert .. | .perstNRelease .. | .pfFlr .. | .pkgRstNRelease ..
  | .pwrGoodAssert .. | .jtagInstruction .. => true

end Sys2Proof
end

