-- ==== Sys2Proof/Tests/Slice0.lean ====
section
/-! SUPPORT. The author's own tests: the well-formedness smoke, the spec's worked examples, and for every statement a state and operands that meet its hypotheses. -/

namespace Sys2Proof.Tests

set_option Elab.async false

open Sys2Proof.Machine

/-! ### Helpers -/

/-- Write a field of a descriptor. -/
def put (b : Bytes) (off n v : Nat) : Bytes := b.take off ++ leBytes n v ++ b.drop (off + n)

/-- A descriptor of an opcode with the fields given as (offset, bytes, value). -/
def dsc (op : Nat) (fs : List (Nat × Nat × Nat)) : Bytes := fs.foldl (fun b f => put b f.1 f.2.1 f.2.2) ([BitVec.ofNat 8 op, 0, 1] ++ List.replicate 125 0)

/-- The part in service, with no partition. -/
def up : State := { State.reset with boot := .ready, pins := { aux := true, pkgRst := false, perst := false, pwrGood := true, pwrReq := true } }

/-- The part in service with partition 0 of VF 1 on quire group 0. -/
def part : State := { up with parts := [(0, { function := 1, groups := 1 })] }

/-- A command of partition 0. -/
def cm (op : Nat) (ph : CmdPhase) (fs : List (Nat × Nat × Nat)) : Cmd := { desc := dsc op fs, phase := ph, ring := 1 }

/-- The part with one command, id 1. -/
def one (c : Cmd) : State := { part with cmds := [(1, c)], nextCmd := 2 }

/-- A byte run with the fields given as (offset, bytes, value), from zeros. -/
def img (n : Nat) (fs : List (Nat × Nat × Nat)) : Bytes := fs.foldl (fun b f => put b f.1 f.2.1 f.2.2) (List.replicate n 0)

/-- A detection plan. -/
def detPlan : Bytes := img 144 [(0, 4, 0x4E414C50), (4, 2, 1), (6, 2, 1), (8, 4, 144), (12, 1, 9), (64, 2, 8), (68, 4, 80), (72, 4, 64), (80, 1, 0x10),
  (84, 2, 1), (86, 2, 1), (88, 4, 1), (92, 2, 1), (94, 2, 1), (112, 4, 0x3F800000), (116, 4, 0x3F800000)]

/-- A function table of format 2 with 16 segments. -/
def table : Bytes := img 448 [(0, 4, 0x4C424154), (4, 1, 2), (5, 1, 1), (12, 4, 1), (16, 4, 16)]

/-- Partition 0 with 1 GiB quotas on die 0, room in its completion ring 0, and `b` at host address 4096. -/
def rich (b : Bytes) : State :=
  { up with parts := [(0, { function := 1, groups := 1, sets := [(0x0100, 2 ^ 30), (0x0200, 2 ^ 30), (0x0400, 2 ^ 30)] })], comps := [(0, {})],
            host := Mem.writeRange [] 4096 b }

/-- The same with one command, id 1. -/
def richOne (b : Bytes) (c : Cmd) : State := { rich b with cmds := [(1, c)], nextCmd := 2 }

/-- An ATTEND of one row and one head over four one-row tensors. -/
def attnCmd : Cmd := cm 0x02 .started [(8, 4, 1), (16, 4, 1), (20, 4, 2), (24, 4, 3), (28, 4, 4), (40, 4, 1)]

/-- Objects 1 to 4 of partition 0, alike. -/
def four (o : Obj) : NMap Obj := [(1, o), (2, o), (3, o), (4, o)]

/-- The part with `attnCmd`. -/
def attn : State :=
  { one attnCmd with objects := four { kind := 1, bytes := 65536, dies := [0], rows := 1, cols := 128 },
                     plans := [(1, { image := img 144 [(0, 4, 0x4E414C50), (6, 2, 1), (64, 2, 4), (68, 4, 80), (72, 4, 64), (84, 2, 1), (86, 2, 1)] })] }

/-- Its operands. -/
def attnCtx : ACtx := (attn.actx attnCmd).get (by decide +kernel)

/-! ### The spec's worked examples -/

/-- The FP4 block of Table 3-4: scale 0x2F, codes 7, E, 4, 2, 0, B. -/
theorem test_fp4_block :
    quantBlock 0x01 ([11 / 4, -61 / 32, 75 / 64, 45 / 128, -15 / 128, -45 / 64].map some ++ List.replicate 10 (some 0)) none
      = { scale := 0x2F, codes := [7, 0xE, 4, 2, 0, 0xB] ++ List.replicate 10 0, zero := false, degraded := false } := by decide +kernel

/-- The outlier block of 04: in FP4 scale 0x4E and q = 15, so a candidate. -/
theorem test_outlier_candidate :
    let b : List (Option Rat) := some 40 :: List.replicate 7 (some (5 / 16)) ++ List.replicate 8 (some (-5 / 16))
    (quantBlock 0x01 b none).scale = 0x4E ∧ lostCount b = 15 ∧ promotion 4 64 [b] = ([0], []) ∧ promotion 16 64 [b] = ([], []) := by decide +kernel

/-- The same block promoted: scale 0x1C, codes 7D, 45 and C5. -/
theorem test_outlier_promoted :
    let b : List (Option Rat) := some 40 :: List.replicate 7 (some (5 / 16)) ++ List.replicate 8 (some (-5 / 16))
    (quantBlock 0x07 b none).scale = 0x1C ∧ (quantBlock 0x07 b none).codes = 0x7D :: List.replicate 7 0x45 ++ List.replicate 8 0xC5 := by decide +kernel

/-- Table 3-5: the windowed sum of the three products at anchor 12 is 14. -/
theorem test_window_sum :
    dotWindow 12 ([0x3F81, 0xBF81, 0x3FC0].map (fun c => (bf16.decode c).rat)) ([0x1981, 0x1981, 0x17A0].map (fun c => (bf16.decode c).rat)) = some 14
    ∧ bf16.encode (bf16.round false (14 * pow2 (-83))) = 0x17E0 := by decide +kernel

/-- The same operands in strict mode give 0x17F0. -/
theorem test_strict_sum :
    bf16.encode (bf16.round false (dotStrict ([0x3F81, 0xBF81, 0x3FC0].map bf16.decode) ([0x1981, 0x1981, 0x17A0].map bf16.decode)).rat) = 0x17F0 := by
  decide +kernel

/-- GROUP_M 6 and GROUP_N 4 at T = 12 narrow to 4 by 3 (R154). -/
theorem test_narrowing : narrow 12 24 (6, 4) = (4, 3) := by decide +kernel

/-- The far address of 14 with N = 16, homed on die 1. -/
theorem test_mitus_far : mitusFar 16 0x01234567 = 0x0044000C2567 ∧ homeOf 0x0044000C2567 = 1 := by decide +kernel

/-- The near address of 14, issued on die 5 and on die 0. -/
theorem test_mitus_near : mitusNear 5 0x1234 = 0x00F000000634 ∧ mitusNear 0 0x1234 / 2 ^ 36 = 0 := by decide +kernel

/-- Sequence index 40,000 lives on die 1 (R271). -/
theorem test_sequence_die : seqDie 40000 = 1 := by decide +kernel

/-- The row of 08: rn32(4 + 2^-20) is exact and its reciprocal root is 0.5 - 2^-24. -/
theorem test_rms_row : rn32 (4 + pow2 (-20)) = .fin false (4 + pow2 (-20)) ∧ rsqrt32 (4 + pow2 (-20)) = 1 / 2 - pow2 (-24)
    ∧ (quantBlock 0x01 [some (6 - 12 * pow2 (-24)), some (3 / 2 - 3 * pow2 (-24))] none).codes = [7, 3] := by decide +kernel

/-! ### One step each -/

/-- A tail doorbell of ring 1 of VF 1 moves the tail (R41). -/
theorem test_doorbell_moves_tail :
    ∃ t, step { part with subs := [(1, {})], pending := [.submissionTailDoorbell 1 0x10 32 5 []] } = .next t
      ∧ (NMap.get? t.subs 1).map (fun r => r.tail) = some 5 ∧ t.pending = [] := ⟨_, rfl, by decide +kernel, by decide +kernel⟩

/-- SIGNAL ADD of an admitted command adds its VALUE to the fence (R54). -/
theorem test_signal_adds :
    ∃ t, exec (.signalAdd 1) { one (cm 0x0B .admitted [(16, 2, 9), (18, 1, 0), (24, 8, 3)]) with comps := [(0, {})] } = .next t
      ∧ (t.fence 0 9).count = 3 := ⟨_, rfl, by decide +kernel⟩

/-! ### Well-formedness: an ill-formed term for each check, refused, and the same commands with operands in range -/

theorem test_ill_formed_1 : (
    [.spdmGetVersion 2 0 [], .spdmGetCapabilities 2 0 [], .spdmNegotiateAlgorithms 2 0 [], .spdmGetDigests 2 0 [], .spdmGetCertificate 2 0 [],
     .spdmChallenge 2 0 [], .spdmGetMeasurements 2 0 [], .spdmKeyExchange 2 0 [], .spdmFinish 2 0 [], .spdmKeyUpdate 2 0 [], .spdmHeartbeat 2 0 [],
     .spdmEndSession 2 0 [], .ideKmRequest 0 9 false, .submissionTailDoorbell 17 0 0 0 [], .submissionTailDoorbell 0 0 0 (2 ^ 32) [],
     .resume 17 0 0 0 [], .resume 0 0 0 (2 ^ 32) [], .completionHeadDoorbell 17 0 0 0, .completionHeadDoorbell 0 0 0 (2 ^ 32), .arm 17 0 0 0,
     .arm 0 0 0 (2 ^ 32), .memMapCtrlWrite (2 ^ 32), .xlinkVcWeightWrite 8 0, .xlinkVcWeightWrite 0 (2 ^ 32), .xlinkSecWrite 8 0] : List Instr).all (fun i => !i.wellFormed) = true := by decide +kernel

theorem test_ill_formed_2 : (
    [.xlinkSecWrite 0 (2 ^ 32), .xlinkTestWrite 8 0, .xlinkTestWrite 0 (2 ^ 32), .partIdWrite (2 ^ 32), .errClearAll 8, .errClearPendingOnly 8 0,
     .errClearPendingOnly 0 1024, .errClearSlot 8 0, .errClearSlot 0 1024, .errSummaryPendingClear (2 ^ 8), .colophonReqGo (2 ^ 32),
     .packageAdminEnable (2 ^ 32), .packageAdminDisable (2 ^ 32), .snapCapture false 16 0 0, .snapCapture false 0 16 0,
     .snapCapture false 0 0 (2 ^ 22), .snapCaptureClear false 16 0 0, .snapCaptureClear false 0 16 0, .snapCaptureClear false 0 0 (2 ^ 22),
     .vfErrPendingClear false 16 0, .vfErrPendingClear false 0 (2 ^ 8), .registerWrite 17 0 0 0, .registerWrite 0 0 0 (2 ^ 64),
     .bar0BadAccess 17 0 0 false 0, .bar0BadAccess 0 0 0 false (2 ^ 64)] : List Instr).all (fun i => !i.wellFormed) = true := by decide +kernel

theorem test_ill_formed_3 : (
    [.descriptorFetch 16 0, .descriptorFetch 0 1024, .commandAdmit 16 0, .commandAdmit 0 1024, .unitClaim 0 8 0 0, .unitClaim 0 0 96 0,
     .unitClaim 0 0 0 3, .tileComplete 0 0 2048 false, .tileComplete 0 0 100 false, .commitMessage 8 0, .commitAck 8 0,
     .admittedDescriptorReceive 8 0, .seqReleaseComplete (2 ^ 18), .modTimeExpiry 16 0 0, .modTimeExpiry 0 1024 0, .servedHalving 8 0,
     .regulatorRefill 8 0, .segmentCountSend 8 0 0, .segmentCountReceive 8 0 0 0, .segmentCountReceive 0 8 0 0,
     .farAccessRequest 8 0 0 {} 0 false [], .farAccessRequest 0 0 0 { gen := 256 } 0 false [], .farAccessRequest 0 0 0 {} (2 ^ 48) false [],
     .atomicRequest 8 0 0 {} 0 (⟨.add, false⟩) 64 0 0, .atomicRequest 0 0 0 { gen := 256 } 0 (⟨.add, false⟩) 64 0 0] : List Instr).all (fun i => !i.wellFormed) = true := by decide +kernel

theorem test_ill_formed_4 : (
    [.atomicRequest 0 0 0 {} (2 ^ 48) (⟨.add, false⟩) 64 0 0, .atomicRequest 0 0 0 {} 0 (⟨.add, false⟩) 32 0 0,
     .atomicRequest 0 0 0 {} 0 (⟨.lineAdd, true⟩) 64 0 0, .atomicRequest 0 0 0 {} 0 (⟨.maxU, true⟩) 128 0 0, .lineAdd { src := 8 } 0 [],
     .lineAdd { dst := 8 } 0 [], .lineAdd { stamp := { gen := 256 } } 0 [], .lineAdd {} 131072 [], .lineAdd {} 0 (List.replicate 9 0),
     .spineMessageReceive { src := 8 }, .spineMessageReceive { dst := 8 }, .spineMessageReceive { channel := 4 }, .quireProbe 8 0,
     .probeAnswer 8 0 0, .probeAnswer 0 100 0, .probeAnswer 0 0 (2 ^ 32), .spineHeartbeatSend 8 0 0, .spineHeartbeatSend 0 8 0,
     .spineHeartbeatReceive 8 0 0, .spineHeartbeatReceive 0 8 0, .spineHeartbeatReceive 0 0 (2 ^ 32), .heartbeatMiss 8 0 0 0, .heartbeatMiss 0 2 0 0,
     .heartbeatMiss 0 0 100 0, .heartbeatMiss 0 1 0 0] : List Instr).all (fun i => !i.wellFormed) = true := by decide +kernel

theorem test_ill_formed_5 : (
    [.fenceAcksComplete 8 0 0, .fenceAcksComplete 0 2 0, .fenceAcksComplete 0 0 100, .fenceAcksComplete 0 1 0, .laneRemap 0 8 0 0,
     .laneRemap 1 1 0 0, .laneRemap 0 1 2 0, .spineRetrainDone 0 8, .spineRetrainDone 1 1, .linkDataFrame 8 0 0 false (List.replicate 228 0),
     .linkDataFrame 0 4 0 false (List.replicate 228 0), .linkDataFrame 0 0 4096 false (List.replicate 228 0), .linkDataFrame 0 0 0 false [],
     .linkControlFrame 8 0 false (List.replicate 4 0) 0, .linkControlFrame 0 4096 false (List.replicate 4 0) 0, .linkControlFrame 0 0 false [] 0,
     .linkControlFrame 0 0 false (List.replicate 4 0) 4096, .linkNak 8 0 (List.replicate 4 0) 0, .linkNak 0 4096 (List.replicate 4 0) 0,
     .linkNak 0 0 [] 0, .linkNak 0 0 (List.replicate 4 0) 4096, .linkControlTimer 8 0, .linkRetrainDone 8, .linkRetrainTimeout 8 0,
     .linkTrainingRetry 8 false 0] : List Instr).all (fun i => !i.wellFormed) = true := by decide +kernel

theorem test_ill_formed_6 : (
    [.linkSessionLimit 8, .hello 8 {}, .hello 0 { length := 1 }, .hello 0 { length := 16385, payload := List.replicate 16385 0 }, .fprint 8 {},
     .fprint 0 { length := 1 }, .fprint 0 { length := 16385, payload := List.replicate 16385 0 }, .grant 8 {}, .grant 0 { length := 1 },
     .grant 0 { length := 16385, payload := List.replicate 16385 0 }, .contrib 8 {}, .contrib 0 { length := 1 },
     .contrib 0 { length := 16385, payload := List.replicate 16385 0 }, .result 8 {}, .result 0 { length := 1 },
     .result 0 { length := 16385, payload := List.replicate 16385 0 }, .done 8 {}, .done 0 { length := 1 },
     .done 0 { length := 16385, payload := List.replicate 16385 0 }, .collAbort 8 {}, .collAbort 0 { length := 1 },
     .collAbort 0 { length := 16385, payload := List.replicate 16385 0 }, .collAbortFinal 8 {}, .collAbortFinal 0 { length := 1 },
     .collAbortFinal 0 { length := 16385, payload := List.replicate 16385 0 }] : List Instr).all (fun i => !i.wellFormed) = true := by decide +kernel

theorem test_ill_formed_7 : (
    [.messageForward 8 {}, .messageForward 0 { length := 1 }, .messageForward 0 { length := 16385, payload := List.replicate 16385 0 },
     .messageDrop 8 0 {}, .messageDrop 0 4 {}, .messageDrop 0 0 { length := 1 },
     .messageDrop 0 0 { length := 16385, payload := List.replicate 16385 0 }, .peerReady 8 {}, .peerReady 0 { length := 1 },
     .peerReady 0 { length := 16385, payload := List.replicate 16385 0 }, .peerData 8 {}, .peerData 0 { length := 1 },
     .peerData 0 { length := 16385, payload := List.replicate 16385 0 }, .peerDone 8 {}, .peerDone 0 { length := 1 },
     .peerDone 0 { length := 16385, payload := List.replicate 16385 0 }, .peerAbort 8 {}, .peerAbort 0 { length := 1 },
     .peerAbort 0 { length := 16385, payload := List.replicate 16385 0 }, .relayReady 8 {}, .relayReady 0 { length := 1 },
     .relayReady 0 { length := 16385, payload := List.replicate 16385 0 }, .relayManifest 8 {}, .relayManifest 0 { length := 1 },
     .relayManifest 0 { length := 16385, payload := List.replicate 16385 0 }] : List Instr).all (fun i => !i.wellFormed) = true := by decide +kernel

theorem test_ill_formed_8 : (
    [.relayShard 8 {}, .relayShard 0 { length := 1 }, .relayShard 0 { length := 16385, payload := List.replicate 16385 0 }, .relayAck 8 {},
     .relayAck 0 { length := 1 }, .relayAck 0 { length := 16385, payload := List.replicate 16385 0 }, .relayNak 8 {}, .relayNak 0 { length := 1 },
     .relayNak 0 { length := 16385, payload := List.replicate 16385 0 }, .relayAbort 8 {}, .relayAbort 0 { length := 1 },
     .relayAbort 0 { length := 16385, payload := List.replicate 16385 0 }, .codecFrameBoundary 8, .errorReport { origin := 2 ^ 16 },
     .errorReport { cls := 256 }, .errorDeferredNotify 8 0 0, .errorDeferredNotify 0 1024 0, .patrolScrub 24 0 0 .unused,
     .patrolScrub 0 (2 ^ 29) 0 .unused, .patrolScrub 0 0 3 .unused, .repairRecordAdd 0 0 0 0, .repairRecordAdd 5 0 0 0, .repairRecordAdd 1 8 0 0,
     .t3WriteBack 16 0 0, .t3WriteBack 0 (2 ^ 32) 0] : List Instr).all (fun i => !i.wellFormed) = true := by decide +kernel

theorem test_ill_formed_9 : (
    [.clampUpdate 8 {} 0, .stackTempReport 24 0 0, .protectiveTrip true 24 0, .protectiveTrip false 8 0, .ioutCalibration 8 0 0 0, .railPoll [] 0,
     .pmbAlert 3 0 0, .pmbAlert 0 8 0, .apSettleDone 8, .quireGroupReady 96 0, .snapCaptureDone false 16, .ideStreamInsecure 9, .vfFlr 0, .vfFlr 17,
     .spineFlitCrcError 0 8 0 0 0, .spineFlitCrcError 1 1 0 0 0, .spineFlitCrcError 0 1 2 0 0, .uncorrectableCodeword 8,
     .linkKeyExchange 8 false false 0 false, .linkKeyExchange 0 false false 256 false, .pllLossOfLock 8, .himonFailure 8, .msixUnmask 17 none,
     .atsInvalidationRequest 17 0 0] : List Instr).all (fun i => !i.wellFormed) = true := by decide +kernel

theorem test_well_formed_1 : (
    [.spdmGetVersion 0 0 [], .spdmGetCapabilities 0 0 [], .spdmNegotiateAlgorithms 0 0 [], .spdmGetDigests 0 0 [], .spdmGetCertificate 0 0 [],
     .spdmChallenge 0 0 [], .spdmGetMeasurements 0 0 [], .spdmKeyExchange 0 0 [], .spdmFinish 0 0 [], .spdmKeyUpdate 0 0 [], .spdmHeartbeat 0 0 [],
     .spdmEndSession 0 0 [], .ideKmRequest 0 0 false, .submissionTailDoorbell 0 0 0 0 [], .resume 0 0 0 0 [], .completionHeadDoorbell 0 0 0 0,
     .arm 0 0 0 0, .memMapCtrlWrite 0, .xlinkVcWeightWrite 0 0, .xlinkSecWrite 0 0, .xlinkTestWrite 0 0, .partIdWrite 0, .errClearAll 0,
     .errClearPendingOnly 0 0, .errClearSlot 0 0, .errSummaryPendingClear 0, .colophonReqGo 0, .packageAdminEnable 0, .packageAdminDisable 0,
     .snapCapture false 0 0 0, .snapCaptureClear false 0 0 0, .vfErrPendingClear false 0 0, .registerWrite 0 0 0 0, .bar0BadAccess 0 0 0 false 0,
     .descriptorFetch 0 0, .commandAdmit 0 0, .unitClaim 0 0 0 0, .tileComplete 0 0 0 false, .commitMessage 0 0, .commitAck 0 0] : List Instr).all Instr.wellFormed = true := by decide +kernel

theorem test_well_formed_2 : (
    [.admittedDescriptorReceive 0 0, .seqReleaseComplete 0, .modTimeExpiry 0 0 0, .servedHalving 0 0, .regulatorRefill 0 0, .segmentCountSend 0 0 0,
     .segmentCountReceive 0 0 0 0, .farAccessRequest 0 0 0 {} 0 false [], .atomicRequest 0 0 0 {} 0 (⟨.add, false⟩) 64 0 0, .lineAdd {} 0 [],
     .spineMessageReceive {}, .quireProbe 0 0, .probeAnswer 0 0 0, .spineHeartbeatSend 0 0 0, .spineHeartbeatReceive 0 0 0, .heartbeatMiss 0 0 0 0,
     .fenceAcksComplete 0 0 0, .laneRemap 0 1 0 0, .spineRetrainDone 0 1, .linkDataFrame 0 0 0 false (List.replicate 228 0),
     .linkControlFrame 0 0 false (List.replicate 4 0) 0, .linkNak 0 0 (List.replicate 4 0) 0, .linkControlTimer 0 0, .linkRetrainDone 0,
     .linkRetrainTimeout 0 0, .linkTrainingRetry 0 false 0, .linkSessionLimit 0, .hello 0 {}, .fprint 0 {}, .grant 0 {}, .contrib 0 {}, .result 0 {},
     .done 0 {}, .collAbort 0 {}, .collAbortFinal 0 {}, .messageForward 0 {}, .messageDrop 0 0 {}, .peerReady 0 {}, .peerData 0 {}, .peerDone 0 {}] : List Instr).all Instr.wellFormed = true := by decide +kernel

theorem test_well_formed_3 : (
    [.peerAbort 0 {}, .relayReady 0 {}, .relayManifest 0 {}, .relayShard 0 {}, .relayAck 0 {}, .relayNak 0 {}, .relayAbort 0 {},
     .codecFrameBoundary 0, .errorReport {}, .errorDeferredNotify 0 0 0, .patrolScrub 0 0 0 .unused, .repairRecordAdd 1 0 0 0, .t3WriteBack 0 0 0,
     .clampUpdate 0 {} 0, .stackTempReport 0 0 0, .protectiveTrip false 0 0, .ioutCalibration 0 0 0 0, .railPoll (List.replicate 4 0) 0,
     .pmbAlert 0 0 0, .apSettleDone 0, .quireGroupReady 0 0, .snapCaptureDone false 0, .ideStreamInsecure 0, .vfFlr 1, .spineFlitCrcError 0 1 0 0 0,
     .uncorrectableCodeword 0, .linkKeyExchange 0 false false 0 false, .pllLossOfLock 0, .himonFailure 0, .msixUnmask 0 none,
     .atsInvalidationRequest 0 0 0] : List Instr).all Instr.wellFormed = true := by decide +kernel

/-! ### For every statement with hypotheses, states and operands that meet them, clause by clause -/

theorem witness_StepRunsFrontCommand :
  (∃ (s : State) (c : Instr) (rest : List Instr), (s.pending = c :: rest)) :=
    ⟨{ up with pending := [.discardToken, .pfFlr] }, .discardToken, [.pfFlr], by decide +kernel⟩

theorem witness_EmptyQueueTicks :
  (∃ (s : State), (s.pending = []) ∧ (s.pins.aux = true) ∧ (s.pins.pkgRst = false)) :=
    ⟨up, by decide +kernel⟩

theorem witness_StepKeepsMemoryCanonical :
  (∃ (s : State) (t : State), (s.memOk) ∧ (Sys2Proof.Machine.step s = .next t)) :=
    ⟨State.reset, _, ⟨State.reset_memOk, rfl⟩⟩

theorem witness_StepKeepsShape :
  (∃ (s : State) (t : State), (s.shapeOk) ∧ (Sys2Proof.Machine.step s = .next t)) :=
    ⟨State.reset, _, ⟨by unfold State.shapeOk; decide +kernel, rfl⟩⟩

theorem witness_OnlyUnpopulatedAddressesStop :
  (∃ (c : Instr) (s : State) (f : Fault), (Sys2Proof.Machine.exec c s = .fault f))
  ∧ (∃ (s : State) (die : Nat) (kind : Nat) (unit : Nat) (addr : Nat) (gen : Stamp), (s.drops die kind unit gen.gen = false)
      ∧ (s.native die addr = none))
  ∧ (∃ (s : State) (die : Nat) (kind : Nat) (unit : Nat) (addr : Nat) (gen : Stamp), (s.drops die kind unit gen.gen = false)
      ∧ (s.native die addr = none)) :=
    ⟨⟨.farAccessRequest 0 2 0 {} 0x400000000000 false [], up, _, rfl⟩,
    ⟨up, 0, 2, 0, 0x400000000000, {}, by decide +kernel⟩,
    ⟨up, 0, 2, 0, 0x400000000000, {}, by decide +kernel⟩⟩

theorem witness_OnlyTheseChange :
  (∃ (c : Instr) (s : State) (t : State), (Sys2Proof.Machine.exec c s = .next t)) :=
    ⟨.pfFlr, State.reset, _, rfl⟩

theorem witness_RegisterAndSecurityFrames :
  (∃ (s : State) (t : State) (cmd : Nat) (q : _), (q ∈ [Instr.barrier cmd, Instr.signalAdd cmd, Instr.signalSet cmd, Instr.signalPoison cmd, Instr.wait cmd])
      ∧ (Sys2Proof.Machine.exec q s = .next t))
  ∧ (∃ (s : State) (t : State) (stores : List Host.Cell) (q : _), (q ∈ [Instr.fwWrite stores, Instr.fwActivate stores, Instr.fwConfirm stores, Instr.fwStatus stores, Instr.debugUnlock stores])
      ∧ (Sys2Proof.Machine.exec q s = .next t))
  ∧ (∃ (s : State) (t : State) (transport : Nat) (session : Nat) (req : Bytes) (q : _), (q ∈ [Instr.spdmGetVersion transport session req, Instr.spdmGetCapabilities transport session req, Instr.spdmNegotiateAlgorithms transport session req, Instr.spdmGetDigests transport session req, Instr.spdmGetCertificate transport session req, Instr.spdmChallenge transport session req, Instr.spdmGetMeasurements transport session req])
      ∧ (Sys2Proof.Machine.exec q s = .next t))
  ∧ (∃ (s : State) (t : State) (transport : Nat) (session : Nat) (req : Bytes) (q : _), (q ∈ [Instr.spdmKeyExchange transport session req, Instr.spdmFinish transport session req, Instr.spdmKeyUpdate transport session req, Instr.spdmHeartbeat transport session req, Instr.spdmEndSession transport session req])
      ∧ (Sys2Proof.Machine.exec q s = .next t))
  ∧ (∃ (s : State) (t : State) (session : Nat) (stream : Nat) (activate : Bool), (Sys2Proof.Machine.exec (Instr.ideKmRequest session stream activate) s = .next t))
  ∧ (∃ (s : State) (t : State) (fn : Nat) (off : Nat) (width : Nat) (value : Nat) (stores : List Host.Cell) (q : _), (q ∈ [Instr.submissionTailDoorbell fn off width value stores, Instr.resume fn off width value stores])
      ∧ (Sys2Proof.Machine.exec q s = .next t))
  ∧ (∃ (s : State) (t : State) (fn : Nat) (off : Nat) (width : Nat) (value : Nat) (q : _), (q ∈ [Instr.completionHeadDoorbell fn off width value, Instr.arm fn off width value])
      ∧ (Sys2Proof.Machine.exec q s = .next t))
  ∧ (∃ (s : State) (t : State) (value : Nat), (Sys2Proof.Machine.exec (Instr.memMapCtrlWrite value) s = .next t))
  ∧ (∃ (s : State) (t : State) (link : Nat) (value : Nat) (q : _), (q ∈ [Instr.xlinkVcWeightWrite link value, Instr.xlinkSecWrite link value, Instr.linkSessionLimit link, Instr.uncorrectableCodeword link])
      ∧ (Sys2Proof.Machine.exec q s = .next t))
  ∧ (∃ (s : State) (t : State) (value : Nat), (Sys2Proof.Machine.exec (Instr.partIdWrite value) s = .next t))
  ∧ (∃ (s : State) (t : State) (die : Nat) (slot : Nat) (mask : Nat) (q : _), (q ∈ [Instr.errClearAll die, Instr.errClearPendingOnly die slot, Instr.errClearSlot die slot, Instr.errSummaryPendingClear mask])
      ∧ (Sys2Proof.Machine.exec q s = .next t))
  ∧ (∃ (s : State) (t : State) (typ : Nat) (die : Nat) (macroId : Nat) (address : Nat) (q : _), (q ∈ [Instr.discardToken, Instr.repairRecordAdd typ die macroId address])
      ∧ (Sys2Proof.Machine.exec q s = .next t))
  ∧ (∃ (s : State) (t : State) (value : Nat), (Sys2Proof.Machine.exec (Instr.colophonReqGo value) s = .next t))
  ∧ (∃ (s : State) (t : State) (value : Nat), (Sys2Proof.Machine.exec (Instr.packageAdminEnable value) s = .next t))
  ∧ (∃ (s : State) (t : State) (value : Nat), (Sys2Proof.Machine.exec (Instr.packageAdminDisable value) s = .next t))
  ∧ (∃ (s : State) (t : State) (pf : Bool) (part : Nat) (kind : Nat) (index : Nat) (mask : Nat) (q : _), (q ∈ [Instr.snapCapture pf part kind index, Instr.snapCaptureClear pf part kind index, Instr.vfErrPendingClear pf part mask])
      ∧ (Sys2Proof.Machine.exec q s = .next t))
  ∧ (∃ (s : State) (t : State) (fn : Nat) (off : Nat) (width : Nat) (value : Nat) (isWrite : Bool), (Sys2Proof.Machine.exec (Instr.bar0BadAccess fn off width isWrite value) s = .next t))
  ∧ (∃ (s : State) (t : State) (pf : Bool) (part : Nat), (Sys2Proof.Machine.exec (Instr.snapCaptureDone pf part) s = .next t))
  ∧ (∃ (s : State) (t : State) (dmaOk : Bool), (Sys2Proof.Machine.exec (Instr.mailboxCommandDone dmaOk) s = .next t))
  ∧ (∃ (s : State) (t : State) (fn : Nat) (vec : Option Nat), (Sys2Proof.Machine.exec (Instr.msixUnmask fn vec) s = .next t))
  ∧ (∃ (s : State) (t : State) (fn : Nat) (page : Nat) (size : Nat), (Sys2Proof.Machine.exec (Instr.atsInvalidationRequest fn page size) s = .next t)) :=
    ⟨⟨State.reset, _, 0, (Instr.barrier 0), ⟨List.mem_cons_self, rfl⟩⟩,
    ⟨State.reset, _, [], (Instr.fwWrite []), ⟨List.mem_cons_self, rfl⟩⟩,
    ⟨State.reset, _, 0, 0, [], (Instr.spdmGetVersion 0 0 []), ⟨List.mem_cons_self, rfl⟩⟩,
    ⟨State.reset, _, 0, 0, [], (Instr.spdmKeyExchange 0 0 []), ⟨List.mem_cons_self, rfl⟩⟩,
    ⟨State.reset, _, 0, 0, true, rfl⟩,
    ⟨State.reset, _, 0, 0, 0, 0, [], (Instr.submissionTailDoorbell 0 0 0 0 []), ⟨List.mem_cons_self, rfl⟩⟩,
    ⟨State.reset, _, 0, 0, 0, 0, (Instr.completionHeadDoorbell 0 0 0 0), ⟨List.mem_cons_self, rfl⟩⟩,
    ⟨State.reset, _, 0, rfl⟩,
    ⟨State.reset, _, 0, 0, (Instr.xlinkVcWeightWrite 0 0), ⟨List.mem_cons_self, rfl⟩⟩,
    ⟨State.reset, _, 0, rfl⟩,
    ⟨State.reset, _, 0, 0, 0, (Instr.errClearAll 0), ⟨List.mem_cons_self, rfl⟩⟩,
    ⟨State.reset, _, 0, 0, 0, 0, (Instr.discardToken), ⟨List.mem_cons_self, rfl⟩⟩,
    ⟨State.reset, _, 0, rfl⟩,
    ⟨State.reset, _, 0, rfl⟩,
    ⟨State.reset, _, 0, rfl⟩,
    ⟨State.reset, _, true, 0, 0, 0, 0, (Instr.snapCapture true 0 0 0), ⟨List.mem_cons_self, rfl⟩⟩,
    ⟨State.reset, _, 0, 0, 0, 0, true, rfl⟩,
    ⟨State.reset, _, true, 0, rfl⟩,
    ⟨State.reset, _, true, rfl⟩,
    ⟨State.reset, _, 0, none, rfl⟩,
    ⟨State.reset, _, 0, 0, 0, rfl⟩⟩

theorem witness_DeviceEventFrames :
  (∃ (s : State) (t : State) (die : Nat) (cmd : Nat), (Sys2Proof.Machine.exec (Instr.commitAck die cmd) s = .next t))
  ∧ (∃ (s : State) (t : State) (owner : Nat) (ring : Nat), (Sys2Proof.Machine.exec (Instr.descriptorFetch owner ring) s = .next t))
  ∧ (∃ (s : State) (t : State) (cmd : Nat) (die : Nat) (quire : Nat) (plane : Nat) (operand : Nat) (ingot : Nat) (q : _), (q ∈ [Instr.unitClaim cmd die quire plane, Instr.ingotArrival cmd operand ingot])
      ∧ (Sys2Proof.Machine.exec q s = .next t))
  ∧ (∃ (s : State) (t : State) (cmd : Nat) (tile : Nat) (operand : Nat) (ingot : Nat) (t0 : Word), (Sys2Proof.Machine.exec (Instr.useDeadlineExpiry cmd tile operand ingot t0) s = .next t))
  ∧ (∃ (s : State) (t : State) (die : Nat) (cmd : Nat), (Sys2Proof.Machine.exec (Instr.commitMessage die cmd) s = .next t))
  ∧ (∃ (s : State) (t : State) (die : Nat) (cmd : Nat) (dst : Nat) (src : Nat) (count : Nat) (q : _), (q ∈ [Instr.admittedDescriptorReceive die cmd, Instr.segmentCountReceive dst src cmd count])
      ∧ (Sys2Proof.Machine.exec q s = .next t))
  ∧ (∃ (s : State) (t : State) (index : Nat), (Sys2Proof.Machine.exec (Instr.seqReleaseComplete index) s = .next t))
  ∧ (∃ (s : State) (t : State) (cmd : Nat) (t0 : Word), (Sys2Proof.Machine.exec (Instr.waitTimeout cmd t0) s = .next t))
  ∧ (∃ (s : State) (t : State) (owner : Nat) (cq : Nat) (t0 : Word), (Sys2Proof.Machine.exec (Instr.modTimeExpiry owner cq t0) s = .next t))
  ∧ (∃ (s : State) (t : State) (die : Nat) (t0 : Word), (Sys2Proof.Machine.exec (Instr.servedHalving die t0) s = .next t))
  ∧ (∃ (s : State) (t : State) (die : Nat) (t0 : Word), (Sys2Proof.Machine.exec (Instr.regulatorRefill die t0) s = .next t))
  ∧ (∃ (s : State) (t : State) (die : Nat) (cmd : Nat) (t0 : Word), (Sys2Proof.Machine.exec (Instr.segmentCountSend die cmd t0) s = .next t))
  ∧ (∃ (s : State) (t : State) (die : Nat) (kind : Nat) (unit : Nat) (addr : Nat) (width : Nat) (operand : Nat) (comparand : Nat) (gen : Stamp) (isWrite : Bool) (data : Bytes) (req : AtomicReq) (q : _), (q ∈ [Instr.farAccessRequest die kind unit gen addr isWrite data, Instr.atomicRequest die kind unit gen addr req width operand comparand])
      ∧ (Sys2Proof.Machine.exec q s = .next t))
  ∧ (∃ (s : State) (t : State) (die : AddRoute) (line : Nat) (addends : List Nat), (Sys2Proof.Machine.exec (Instr.lineAdd die line addends) s = .next t))
  ∧ (∃ (s : State) (t : State) (m : SpineMsg), (Sys2Proof.Machine.exec (Instr.spineMessageReceive m) s = .next t))
  ∧ (∃ (s : State) (t : State) (die : Nat) (t0 : Word), (Sys2Proof.Machine.exec (Instr.quireProbe die t0) s = .next t))
  ∧ (∃ (s : State) (t : State) (die : Nat) (phys : Nat) (gen : Nat), (Sys2Proof.Machine.exec (Instr.probeAnswer die phys gen) s = .next t))
  ∧ (∃ (s : State) (t : State) (die : Nat) (far : Nat) (t0 : Word), (Sys2Proof.Machine.exec (Instr.spineHeartbeatSend die far t0) s = .next t))
  ∧ (∃ (s : State) (t : State) (die : Nat) (far : Nat) (gen : Nat), (Sys2Proof.Machine.exec (Instr.spineHeartbeatReceive die far gen) s = .next t))
  ∧ (∃ (s : State) (t : State) (die : Nat) (kind : Nat) (unit : Nat), (Sys2Proof.Machine.exec (Instr.fenceAcksComplete die kind unit) s = .next t))
  ∧ (∃ (s : State) (t : State) (a : Nat) (b : Nat), (Sys2Proof.Machine.exec (Instr.spineRetrainDone a b) s = .next t))
  ∧ (∃ (s : State) (t : State) (link : Nat) (seqNo : Nat) (ack : Nat) (crcOk : Bool) (credits : List Nat) (q : _), (q ∈ [Instr.linkControlFrame link seqNo crcOk credits ack, Instr.linkNak link seqNo credits ack])
      ∧ (Sys2Proof.Machine.exec q s = .next t))
  ∧ (∃ (s : State) (t : State) (link : Nat) (t0 : Word), (Sys2Proof.Machine.exec (Instr.linkControlTimer link t0) s = .next t))
  ∧ (∃ (s : State) (t : State) (link : Nat), (Sys2Proof.Machine.exec (Instr.linkRetrainDone link) s = .next t))
  ∧ (∃ (s : State) (t : State) (link : Nat) (ok : Bool) (t0 : Word), (Sys2Proof.Machine.exec (Instr.linkTrainingRetry link ok t0) s = .next t))
  ∧ (∃ (s : State) (t : State) (link : Nat) (m : Msg), (Sys2Proof.Machine.exec (Instr.hello link m) s = .next t))
  ∧ (∃ (s : State) (t : State) (link : Nat) (m : Msg), (Sys2Proof.Machine.exec (Instr.messageForward link m) s = .next t))
  ∧ (∃ (s : State) (t : State) (link : Nat) (vc : Nat) (m : Msg), (Sys2Proof.Machine.exec (Instr.messageDrop link vc m) s = .next t))
  ∧ (∃ (s : State) (t : State) (link : Nat) (m : Msg), (Sys2Proof.Machine.exec (Instr.peerDone link m) s = .next t))
  ∧ (∃ (s : State) (t : State) (link : Nat) (m : Msg), (Sys2Proof.Machine.exec (Instr.relayReady link m) s = .next t))
  ∧ (∃ (s : State) (t : State) (link : Nat) (m : Msg), (Sys2Proof.Machine.exec (Instr.relayShard link m) s = .next t))
  ∧ (∃ (s : State) (t : State) (link : Nat) (m : Msg), (Sys2Proof.Machine.exec (Instr.relayNak link m) s = .next t))
  ∧ (∃ (s : State) (t : State) (die : Nat), (Sys2Proof.Machine.exec (Instr.codecFrameBoundary die) s = .next t))
  ∧ (∃ (s : State) (t : State) (die : Nat) (slot : Nat) (t0 : Word), (Sys2Proof.Machine.exec (Instr.errorDeferredNotify die slot t0) s = .next t))
  ∧ (∃ (s : State) (t : State) (part : Nat) (handle : Nat) (ingot : Nat), (Sys2Proof.Machine.exec (Instr.t3WriteBack part handle ingot) s = .next t))
  ∧ (∃ (s : State) (t : State) (die : Nat) (reading : ClampReading) (t0 : Word), (Sys2Proof.Machine.exec (Instr.clampUpdate die reading t0) s = .next t))
  ∧ (∃ (s : State) (t : State) (stack : Nat) (temp : Int) (t0 : Word), (Sys2Proof.Machine.exec (Instr.stackTempReport stack temp t0) s = .next t))
  ∧ (∃ (s : State) (t : State) (isStack : Bool) (unit : Nat) (temp : Int), (Sys2Proof.Machine.exec (Instr.protectiveTrip isStack unit temp) s = .next t))
  ∧ (∃ (s : State) (t : State) (die : Nat) (iout : Nat) (sensed : Nat) (group : Nat) (t0 : Word) (reading : TelemetryReading) (mw : List Nat) (q : _), (q ∈ [Instr.ioutCalibration die iout sensed t0, Instr.telemetryRefresh reading t0, Instr.railPoll mw t0, Instr.quireGroupReady group t0])
      ∧ (Sys2Proof.Machine.exec q s = .next t))
  ∧ (∃ (s : State) (t : State) (kind : Nat) (die : Nat) (rail : Nat), (Sys2Proof.Machine.exec (Instr.pmbAlert kind die rail) s = .next t))
  ∧ (∃ (s : State) (t : State) (die : Nat), (Sys2Proof.Machine.exec (Instr.apSettleDone die) s = .next t))
  ∧ (∃ (s : State) (t : State) (t0 : Word), (Sys2Proof.Machine.exec (Instr.groupsCycleOnTimer t0) s = .next t))
  ∧ (∃ (s : State) (t : State) (t0 : Word), (Sys2Proof.Machine.exec (Instr.colophonFatalTimeout t0) s = .next t))
  ∧ (∃ (s : State) (t : State), (Sys2Proof.Machine.exec (Instr.himonReady) s = .next t))
  ∧ (∃ (s : State) (t : State) (boundary : Bool), (Sys2Proof.Machine.exec (Instr.jtagInstruction boundary) s = .next t)) :=
    ⟨⟨State.reset, _, 0, 0, rfl⟩,
    ⟨State.reset, _, 0, 0, rfl⟩,
    ⟨State.reset, _, 0, 0, 0, 0, 0, 0, (Instr.unitClaim 0 0 0 0), ⟨List.mem_cons_self, rfl⟩⟩,
    ⟨State.reset, _, 0, 0, 0, 0, 0, rfl⟩,
    ⟨State.reset, _, 0, 0, rfl⟩,
    ⟨State.reset, _, 0, 0, 0, 0, 0, (Instr.admittedDescriptorReceive 0 0), ⟨List.mem_cons_self, rfl⟩⟩,
    ⟨State.reset, _, 0, rfl⟩,
    ⟨State.reset, _, 0, 0, rfl⟩,
    ⟨State.reset, _, 0, 0, 0, rfl⟩,
    ⟨State.reset, _, 0, 0, rfl⟩,
    ⟨State.reset, _, 0, 0, rfl⟩,
    ⟨State.reset, _, 0, 0, 0, rfl⟩,
    ⟨State.reset, _, 0, 0, 0, 0, 0, 0, 0, {}, true, [], ⟨.add, false⟩, (Instr.farAccessRequest 0 0 0 {} 0 true []), ⟨List.mem_cons_self, rfl⟩⟩,
    ⟨State.reset, _, {}, 0, [], rfl⟩,
    ⟨State.reset, _, {}, rfl⟩,
    ⟨State.reset, _, 0, 0, rfl⟩,
    ⟨State.reset, _, 0, 0, 0, rfl⟩,
    ⟨State.reset, _, 0, 0, 0, rfl⟩,
    ⟨State.reset, _, 0, 0, 0, rfl⟩,
    ⟨State.reset, _, 0, 0, 0, rfl⟩,
    ⟨State.reset, _, 0, 0, rfl⟩,
    ⟨State.reset, _, 0, 0, 0, true, [], (Instr.linkControlFrame 0 0 true [] 0), ⟨List.mem_cons_self, rfl⟩⟩,
    ⟨State.reset, _, 0, 0, rfl⟩,
    ⟨State.reset, _, 0, rfl⟩,
    ⟨State.reset, _, 0, true, 0, rfl⟩,
    ⟨State.reset, _, 0, {}, rfl⟩,
    ⟨State.reset, _, 0, {}, rfl⟩,
    ⟨State.reset, _, 0, 0, {}, rfl⟩,
    ⟨State.reset, _, 0, {}, rfl⟩,
    ⟨State.reset, _, 0, {}, rfl⟩,
    ⟨State.reset, _, 0, {}, rfl⟩,
    ⟨State.reset, _, 0, {}, rfl⟩,
    ⟨State.reset, _, 0, rfl⟩,
    ⟨State.reset, _, 0, 0, 0, rfl⟩,
    ⟨State.reset, _, 0, 0, 0, rfl⟩,
    ⟨State.reset, _, 0, {}, 0, rfl⟩,
    ⟨State.reset, _, 0, 0, 0, rfl⟩,
    ⟨State.reset, _, true, 0, 0, rfl⟩,
    ⟨State.reset, _, 0, 0, 0, 0, 0, {}, [], (Instr.ioutCalibration 0 0 0 0), ⟨List.mem_cons_self, rfl⟩⟩,
    ⟨State.reset, _, 0, 0, 0, rfl⟩,
    ⟨State.reset, _, 0, rfl⟩,
    ⟨State.reset, _, 0, rfl⟩,
    ⟨State.reset, _, 0, rfl⟩,
    ⟨State.reset, _, rfl⟩,
    ⟨State.reset, _, true, rfl⟩⟩

theorem witness_RingCommandFrame :
  (∃ (s : State) (t : State) (cmd : Nat) (q : _), (q ∈ [Instr.tensorOp cmd, Instr.attend cmd, Instr.attendBuildSketches cmd, Instr.seqStepOpen cmd, Instr.seqStepAppend cmd, Instr.seqStepClose cmd, Instr.seqStepCancel cmd, Instr.seqFork cmd, Instr.seqFree cmd, Instr.moveCopy cmd, Instr.moveImport cmd, Instr.moveExport cmd, Instr.moveSeqExport cmd, Instr.movePeerSend cmd])
      ∧ (Sys2Proof.Machine.exec q s = .next t))
  ∧ (∃ (s : State) (t : State) (cmd : Nat) (q : _), (q ∈ [Instr.movePeerRecv cmd, Instr.moveRetier cmd, Instr.collectiveAllReduce cmd, Instr.collectiveReduceScatter cmd, Instr.collectiveAllGather cmd, Instr.collectiveBroadcast cmd, Instr.codecOpen cmd, Instr.codecEncode cmd, Instr.codecDecode cmd, Instr.codecClose cmd, Instr.codecKeyReq cmd, Instr.detectPost cmd, Instr.abort cmd, Instr.routeLengthBucket cmd])
      ∧ (Sys2Proof.Machine.exec q s = .next t))
  ∧ (∃ (s : State) (t : State) (cmd : Nat) (q : _), (q ∈ [Instr.routeExpertDispatch cmd, Instr.routeLengthPack cmd, Instr.routeExpertCombine cmd, Instr.seqRestoreUnpark cmd, Instr.seqRestoreImage cmd, Instr.partCreate cmd, Instr.partDestroy cmd, Instr.ringCreate cmd, Instr.ringDestroy cmd, Instr.planInstall cmd, Instr.planRetire cmd, Instr.tableLoad cmd, Instr.tableClear cmd, Instr.objectRegister cmd])
      ∧ (Sys2Proof.Machine.exec q s = .next t))
  ∧ (∃ (s : State) (t : State) (cmd : Nat) (q : _), (q ∈ [Instr.objectRelease cmd, Instr.modelLoad cmd, Instr.modelUnload cmd, Instr.alloyBind cmd, Instr.alloyUnbind cmd, Instr.powerSetArithPoint cmd, Instr.powerSetGroupsOff cmd, Instr.powerSetGroupsOn cmd, Instr.powerSetGroupsCycle cmd, Instr.colophon cmd, Instr.attest cmd, Instr.groupSet cmd, Instr.groupClear cmd, Instr.unitReturn cmd])
      ∧ (Sys2Proof.Machine.exec q s = .next t))
  ∧ (∃ (s : State) (t : State) (cmd : Nat) (link : Nat) (value : Nat) (owner : Nat) (ring : Nat) (qb : Nat) (q : _), (q ∈ [Instr.quotaSet cmd, Instr.keyImportContent cmd, Instr.keySetPublisher cmd, Instr.keyClearContent cmd, Instr.keyClearPublisher cmd, Instr.memMarginReadScan cmd, Instr.memMarginTiming cmd, Instr.memMarginVoltage cmd, Instr.memMarginTimingVoltage cmd, Instr.xlinkTestWrite link value, Instr.commandAdmit owner ring, Instr.commandStart cmd, Instr.blockSelectionDone cmd qb, Instr.deltaScanDone cmd])
      ∧ (Sys2Proof.Machine.exec q s = .next t))
  ∧ (∃ (s : State) (t : State) (cmd : Nat) (operand : Nat) (ingot : Nat) (shard : Nat) (vf : Nat) (q : _), (q ∈ [Instr.normScanDone cmd, Instr.t3FetchError cmd operand ingot, Instr.commandCommit cmd, Instr.shardVerified cmd shard, Instr.vfFlr vf])
      ∧ (Sys2Proof.Machine.exec q s = .next t))
  ∧ (∃ (s : State) (t : State) (cmd : Nat) (tile : Nat) (operand : Nat) (ingot : Nat) (link : Nat) (shard : Nat) (t0 : Word) (q : _), (q ∈ [Instr.stallLimitExpiry cmd tile operand ingot t0, Instr.preemptDelayExpiry cmd t0, Instr.preemptGraceExpiry cmd t0, Instr.linkRetrainTimeout link t0, Instr.collTimeout cmd t0, Instr.peerTimeout cmd t0, Instr.shardMissingTimeout cmd shard t0, Instr.relayManifestTimeout cmd t0, Instr.downstreamTimeout cmd t0])
      ∧ (Sys2Proof.Machine.exec q s = .next t))
  ∧ (∃ (s : State) (t : State) (cmd : Nat) (tile : Nat) (quire : Nat) (link : Nat) (peerSvn : Nat) (residueOk : Bool) (peerEnabled : Bool) (chainOk : Bool) (peerUnlocked : Bool) (q : _), (q ∈ [Instr.tileComplete cmd tile quire residueOk, Instr.linkKeyExchange link peerEnabled chainOk peerSvn peerUnlocked])
      ∧ (Sys2Proof.Machine.exec q s = .next t))
  ∧ (∃ (s : State) (t : State) (link : Nat) (vc : Nat) (seqNo : Nat) (crcOk : Bool) (payload : Bytes), (Sys2Proof.Machine.exec (Instr.linkDataFrame link vc seqNo crcOk payload) s = .next t))
  ∧ (∃ (s : State) (t : State) (link : Nat) (m : Msg) (q : _), (q ∈ [Instr.fprint link m, Instr.grant link m, Instr.contrib link m, Instr.result link m, Instr.done link m, Instr.collAbort link m, Instr.collAbortFinal link m, Instr.peerReady link m, Instr.peerData link m, Instr.peerAbort link m, Instr.relayManifest link m, Instr.relayAck link m, Instr.relayAbort link m])
      ∧ (Sys2Proof.Machine.exec q s = .next t))
  ∧ (∃ (s : State) (t : State), (Sys2Proof.Machine.exec (Instr.colophonCaptureDone) s = .next t)) :=
    ⟨⟨State.reset, _, 0, (Instr.tensorOp 0), ⟨List.mem_cons_self, rfl⟩⟩,
    ⟨State.reset, _, 0, (Instr.movePeerRecv 0), ⟨List.mem_cons_self, rfl⟩⟩,
    ⟨State.reset, _, 0, (Instr.routeExpertDispatch 0), ⟨List.mem_cons_self, rfl⟩⟩,
    ⟨State.reset, _, 0, (Instr.objectRelease 0), ⟨List.mem_cons_self, rfl⟩⟩,
    ⟨State.reset, _, 0, 0, 0, 0, 0, 0, (Instr.quotaSet 0), ⟨List.mem_cons_self, rfl⟩⟩,
    ⟨State.reset, _, 0, 0, 0, 0, 0, (Instr.normScanDone 0), ⟨List.mem_cons_self, rfl⟩⟩,
    ⟨State.reset, _, 0, 0, 0, 0, 0, 0, 0, (Instr.stallLimitExpiry 0 0 0 0 0), ⟨List.mem_cons_self, rfl⟩⟩,
    ⟨State.reset, _, 0, 0, 0, 0, 0, true, true, true, true, (Instr.tileComplete 0 0 0 true), ⟨List.mem_cons_self, rfl⟩⟩,
    ⟨State.reset, _, 0, 0, 0, true, [], rfl⟩,
    ⟨State.reset, _, 0, {}, (Instr.fprint 0 {}), ⟨List.mem_cons_self, rfl⟩⟩,
    ⟨State.reset, _, rfl⟩⟩

theorem witness_EndWritesOneRecord :
  (∃ (s : State) (id : Nat) (st : Nat) (c : Cmd) (r : CompRing), (s.cmd? id = some c) ∧ (s.comp? c.owner c.cq = some r) ∧ (st < 65536)
      ∧ (s.dmaStop (s.functionOf c.owner) = none))
  ∧ (∃ (s : State) (id : Nat) (st : Nat) (c : Cmd) (r : CompRing) (a : _), (s.cmd? id = some c) ∧ (s.comp? c.owner c.cq = some r) ∧ (st < 65536)
      ∧ (s.dmaStop (s.functionOf c.owner) = none) ∧ (a < r.base + 32 * r.next ∨ r.base + 32 * r.next + 32 ≤ a))
  ∧ (∃ (s : State) (id : Nat) (c : Cmd) (r : CompRing), (s.cmd? id = some c) ∧ (s.comp? c.owner c.cq = some r)
      ∧ (s.dmaStop (s.functionOf c.owner) ≠ none)) :=
    ⟨⟨{ part with comps := [(0, { base := 4096 })], cmds := [(1, cm 0x0A .started [(14, 2, 5)])] }, 1, 0, cm 0x0A .started [(14, 2, 5)], { base := 4096 }, by decide +kernel⟩,
    ⟨{ part with comps := [(0, { base := 4096 })], cmds := [(1, cm 0x0A .started [(14, 2, 5)])] }, 1, 0, cm 0x0A .started [(14, 2, 5)], { base := 4096 }, 4095, by decide +kernel⟩,
    ⟨{ part with sec := { ide := [(3, { insecure := true, fns := [1] })] }, comps := [(0, { base := 4096 })], cmds := [(1, cm 0x0A .started [(14, 2, 5)])] }, 1, cm 0x0A .started [(14, 2, 5)], { base := 4096 }, by decide +kernel⟩⟩

theorem witness_RecordChangesItsFence :
  (∃ (s : State) (id : Nat) (c : Cmd), (s.cmd? id = some c) ∧ (c.commitAt = none) ∧ (c.owner ≠ packageOwner) ∧ (1 ≤ dFence c.desc)
      ∧ (dFence c.desc ≤ 4095))
  ∧ (∃ (s : State) (id : Nat) (st : Nat) (c : Cmd), (s.cmd? id = some c) ∧ (c.commitAt = none) ∧ (c.owner ≠ packageOwner) ∧ (1 ≤ dFence c.desc)
      ∧ (dFence c.desc ≤ 4095) ∧ (0x0010 ≤ st))
  ∧ (∃ (s : State) (id : Nat) (c : Cmd), (s.cmd? id = some c) ∧ (dFence c.desc = 0 ∨ 4095 < dFence c.desc))
  ∧ (∃ (d : Bytes), (dFence d ≠ 0))
  ∧ (∃ (s : State) (id : Nat) (c : Cmd), (s.cmd? id = some c) ∧ (c.commitAt.isSome = true))
  ∧ (∃ (s : State) (id : Nat) (c : Cmd), (s.cmd? id = some c) ∧ (s.serving = true) ∧ (c.phase = .ready) ∧ (c.opcode ≠ 0x0C)
      ∧ (committed c.status = true) ∧ (s.ideStop c = none) ∧ (s.commitDies c ≠ []) ∧ (c.owner ≠ packageOwner) ∧ (1 ≤ dFence c.desc)
      ∧ (dFence c.desc ≤ 4095)) :=
    ⟨⟨{ part with comps := [(0, { base := 4096 })], cmds := [(1, cm 0x0A .started [(14, 2, 5)])] }, 1, cm 0x0A .started [(14, 2, 5)], by decide +kernel⟩,
    ⟨{ part with comps := [(0, { base := 4096 })], cmds := [(1, cm 0x0A .started [(14, 2, 5)])] }, 1, 0x10, cm 0x0A .started [(14, 2, 5)], by decide +kernel⟩,
    ⟨{ part with comps := [(0, { base := 4096 })], cmds := [(1, cm 0x0A .started [(14, 2, 4096)])] }, 1, cm 0x0A .started [(14, 2, 4096)], by decide +kernel⟩,
    ⟨dsc 0x0A [(14, 2, 1)], by decide +kernel⟩,
    ⟨one ({ cm 0xa .committing [(14, 2, 5)] with commitAt := some 0 }), 1, { cm 0xa .committing [(14, 2, 5)] with commitAt := some 0 }, by decide +kernel⟩,
    ⟨{ one ({ cm 0x1 .ready [(14, 2, 5)] with written := [{ key := 7, ingots := [0] }] }) with objects := [(7, { kind := 1, bytes := 65536, dies := [7] })] }, 1, { cm 0x1 .ready [(14, 2, 5)] with written := [{ key := 7, ingots := [0] }] }, by decide +kernel⟩⟩

theorem witness_SignalBarrierAndWaitComplete :
  (∃ (s : State) (id : Nat) (c : Cmd), (s.serving = true) ∧ (s.cmd? id = some c) ∧ (c.opcode = 0x0B) ∧ (c.uncommitted = true)
      ∧ (c.f 18 1 = 0))
  ∧ (∃ (s : State) (id : Nat) (c : Cmd), (s.serving = true) ∧ (s.cmd? id = some c) ∧ (c.opcode = 0x0B) ∧ (c.uncommitted = true)
      ∧ (c.f 18 1 = 1))
  ∧ (∃ (s : State) (id : Nat) (c : Cmd), (s.serving = true) ∧ (s.cmd? id = some c) ∧ (c.opcode = 0x0B) ∧ (c.uncommitted = true)
      ∧ (c.f 18 1 = 2))
  ∧ (∃ (s : State) (id : Nat) (c : Cmd), (s.serving = true) ∧ (s.cmd? id = some c) ∧ (c.opcode = 0x0A)
      ∧ ((∀ x ∈ s.ringCmds c.owner c.ring, c.order ≤ x.2.order)))
  ∧ (∃ (s : State) (id : Nat) (c : Cmd) (x : _), (x ∈ s.ringCmds c.owner c.ring) ∧ (s.serving = true) ∧ (s.cmd? id = some c) ∧ (c.opcode = 0x0A)
      ∧ (x.2.order < c.order))
  ∧ (∃ (s : State) (id : Nat) (c : Cmd), (s.serving = true) ∧ (s.cmd? id = some c) ∧ (c.opcode = 0x0C) ∧ (c.phase = .ready))
  ∧ (∃ (s : State) (id : Nat) (c : Cmd), (s.serving = true) ∧ (s.cmd? id = some c) ∧ (c.opcode = 0x0C)
      ∧ (c.phase = .started ∨ c.phase = .admitted) ∧ ((s.fence c.owner (c.f 16 2)).poison = true))
  ∧ (∃ (s : State) (id : Nat) (c : Cmd), (s.serving = true) ∧ (s.cmd? id = some c) ∧ (c.opcode = 0x0C)
      ∧ (c.phase = .started ∨ c.phase = .admitted) ∧ ((s.fence c.owner (c.f 16 2)).poison = false) ∧ ((c.f 18 1 = 0
      ∧ c.f 24 8 ≤ (s.fence c.owner (c.f 16 2)).count.toNat) ∨ (c.f 18 1 ≠ 0 ∧ (s.fence c.owner (c.f 16 2)).count.toNat = c.f 24 8)))
  ∧ (∃ (s : State) (id : Nat) (c : Cmd), (s.serving = true) ∧ (s.cmd? id = some c) ∧ (c.opcode = 0x0C)
      ∧ (c.phase = .started ∨ c.phase = .admitted) ∧ ((s.fence c.owner (c.f 16 2)).poison = false) ∧ ((c.f 18 1 = 0
      ∧ (s.fence c.owner (c.f 16 2)).count.toNat < c.f 24 8) ∨ (c.f 18 1 ≠ 0 ∧ (s.fence c.owner (c.f 16 2)).count.toNat ≠ c.f 24 8)))
  ∧ (∃ (s : State) (id : Nat) (c : Cmd) (t : Word), (s.serving = true) ∧ (s.cmd? id = some c) ∧ (c.opcode = 0x0C)
      ∧ (c.phase = .started ∨ c.phase = .admitted) ∧ (c.f 20 4 ≠ 0) ∧ (c.f 20 4 * 100 ≤ ((s.reach c.home t).counter c.home - c.admitAt).toNat))
  ∧ (∃ (s : State) (id : Nat) (c : Cmd) (t : Word), (s.serving = true) ∧ (s.cmd? id = some c) ∧ (c.opcode = 0x0C)
      ∧ (c.phase = .started ∨ c.phase = .admitted) ∧ (c.f 20 4 ≠ 0) ∧ (((s.reach c.home t).counter c.home - c.admitAt).toNat < c.f 20 4 * 100))
  ∧ (∃ (s : State) (id : Nat) (c : Cmd) (f : Nat), s.cmd? id = some c ∧ c.opcode = 0x0B ∧ c.commitAt = none ∧ c.owner ≠ packageOwner
      ∧ 1 ≤ c.f 16 2 ∧ c.f 16 2 ≤ 4095 ∧ f ≠ c.f 16 2 ∧ f ≠ dFence c.desc) :=
    ⟨⟨one (cm 0xb .admitted [(16, 2, 4095), (18, 1, 0), (24, 8, 3)]), 1, cm 0xb .admitted [(16, 2, 4095), (18, 1, 0), (24, 8, 3)], by decide +kernel⟩,
    ⟨one (cm 0xb .admitted [(16, 2, 4095), (18, 1, 1), (24, 8, 3)]), 1, cm 0xb .admitted [(16, 2, 4095), (18, 1, 1), (24, 8, 3)], by decide +kernel⟩,
    ⟨one (cm 0xb .admitted [(16, 2, 4095), (18, 1, 2), (24, 8, 3)]), 1, cm 0xb .admitted [(16, 2, 4095), (18, 1, 2), (24, 8, 3)], by decide +kernel⟩,
    ⟨one (cm 0xa .admitted []), 1, cm 0xa .admitted [], by decide +kernel⟩,
    ⟨{ one (cm 0x0A .admitted []) with cmds := [(1, { cm 0x0A .admitted [] with order := 1 }), (2, cm 0x0A .admitted [])] }, 1, { cm 0x0A .admitted [] with order := 1 }, (2, cm 0x0A .admitted []), by decide +kernel⟩,
    ⟨one (cm 0xc .ready []), 1, cm 0xc .ready [], by decide +kernel⟩,
    ⟨{ one (cm 0xc .started [(16, 2, 1)]) with fences := [(fenceKey 0 1, { poison := true })] }, 1, cm 0xc .started [(16, 2, 1)], by decide +kernel⟩,
    ⟨one (cm 0xc .started [(16, 2, 1)]), 1, cm 0xc .started [(16, 2, 1)], by decide +kernel⟩,
    ⟨one (cm 0xc .started [(16, 2, 1), (24, 8, 1)]), 1, cm 0xc .started [(16, 2, 1), (24, 8, 1)], by decide +kernel⟩,
    ⟨one (cm 0xc .started [(16, 2, 1), (20, 4, 1), (24, 8, 1)]), 1, cm 0xc .started [(16, 2, 1), (20, 4, 1), (24, 8, 1)], 100, by decide +kernel⟩,
    ⟨one (cm 0xc .started [(16, 2, 1), (20, 4, 1), (24, 8, 1)]), 1, cm 0xc .started [(16, 2, 1), (20, 4, 1), (24, 8, 1)], 99, by decide +kernel⟩,
    ⟨one (cm 0x0B .admitted [(16, 2, 4095)]), 1, cm 0x0B .admitted [(16, 2, 4095)], 7, by decide +kernel⟩⟩

theorem witness_DoorbellsTakeEffect :
  (∃ (s : State) (fn : Nat) (off : Nat) (v : Nat) (owner : Nat) (ring : Nat) (r : SubRing) (cells : List Host.Cell), (s.serving = true)
      ∧ (doorbellAt (s.hostStores cells) fn off = some (owner, ring, false)) ∧ (s.sub? owner ring = some r) ∧ (v % 65536 < 2 ^ r.log2))
  ∧ (∃ (s : State) (fn : Nat) (off : Nat) (v : Nat) (owner : Nat) (cq : Nat) (r : CompRing), (s.serving = true)
      ∧ (doorbellAt s fn off = some (owner, cq, true)) ∧ (s.comp? owner cq = some r) ∧ (v % 2 ^ 18 < r.size)
      ∧ ((v % 2 ^ 18 + r.size - r.head) % r.size ≤ r.recs.length))
  ∧ (∃ (s : State) (width : Nat), (s.serving = true) ∧ (width ≠ 32)) :=
    ⟨⟨{ part with subs := [(1, {})] }, 1, 0x10, 63, 0, 1, {}, [], by decide +kernel⟩,
    ⟨{ part with comps := [(1, { recs := [(false, 0)] })] }, 1, 0x4010, 1, 0, 1, { recs := [(false, 0)] }, by decide +kernel⟩,
    ⟨up, 16, by decide +kernel⟩⟩

theorem witness_InterruptsAndTranslations :
  (∃ (s : State) (owner : Nat) (cq : Nat) (t : Word) (r : CompRing) (x : Bool × Word) (xs : List (Bool × Word)), (s.comp? owner cq = some r)
      ∧ (r.armed = true) ∧ (r.recs = x :: xs) ∧ (r.modTime ≠ 0) ∧ (r.modTime * 100 ≤ ((s.reach r.home t).counter r.home - x.2).toNat)) :=
    ⟨{ part with comps := [(0, { armed := true, recs := [(false, 0)], modTime := 1 })] }, 0, 0, 100, { armed := true, recs := [(false, 0)], modTime := 1 }, (false, 0), [], by decide +kernel⟩

theorem witness_FetchAndAdmitInOrder :
  (∃ (s : State) (owner : Nat) (ring : Nat) (r : SubRing), (s.ringServed owner = true) ∧ (s.sub? owner ring = some r) ∧ (r.stopped = false)
      ∧ (r.head ≠ r.tail) ∧ (s.dmaStop (s.functionOf owner) = none))
  ∧ (∃ (s : State) (owner : Nat), (s.dmaStop (s.functionOf owner) ≠ none))
  ∧ (∃ (s : State) (owner : Nat) (ring : Nat) (r : SubRing) (x : Fetched) (xs : List Fetched) (st : _) (dt : _), (s.sub? owner ring = some r)
      ∧ (r.fetched = x :: xs) ∧ (s.ringServed owner = true) ∧ (s.stalls owner ring r x = false) ∧ (s.refuses owner ring x.desc = some (st, dt)))
  ∧ (∃ (s : State) (owner : Nat) (ring : Nat) (r : SubRing) (x : Fetched) (xs : List Fetched), (s.sub? owner ring = some r)
      ∧ (r.fetched = x :: xs) ∧ (s.ringServed owner = true) ∧ (s.stalls owner ring r x = false) ∧ (s.refuses owner ring x.desc = none)
      ∧ (s.held { owner := owner, ring := ring, order := x.order, desc := x.desc, home := r.home } = false)
      ∧ (s.admitFail s.nextCmd { owner := owner, ring := ring, order := x.order, desc := x.desc, home := r.home } = none)) :=
    ⟨⟨{ part with subs := [(1, { tail := 1 })] }, 0, 1, { tail := 1 }, by decide +kernel⟩,
    ⟨{ part with sec := { ide := [(3, { insecure := true, fns := [1] })] } }, 0, by decide +kernel⟩,
    ⟨{ part with subs := [(1, { fetched := [{ order := 0, desc := dsc 0xFF [], at_ := 0 }] })], comps := [(0, {})] }, 0, 1, { fetched := [{ order := 0, desc := dsc 0xFF [], at_ := 0 }] }, { order := 0, desc := dsc 0xFF [], at_ := 0 }, [], 0x10, 1, by decide +kernel⟩,
    ⟨{ part with subs := [(1, { fetched := [{ order := 0, desc := dsc 0x0A [], at_ := 0 }] })], comps := [(0, {})] }, 0, 1, { fetched := [{ order := 0, desc := dsc 0x0A [], at_ := 0 }] }, { order := 0, desc := dsc 0x0A [], at_ := 0 }, [], by decide +kernel⟩⟩

theorem witness_ReportsMergeOrCreate :
  (∃ (s : State) (rep : Report) (d : Nat), (s.shapeOk) ∧ (rep.found = .nothing) ∧ (d = (if rep.origin / 8192 < 8
      ∧ (s.dieAt (rep.origin / 8192)).fenced = false ∧ s.path (rep.reporter / 8192) (rep.origin / 8192) = true then rep.origin / 8192 else 0))) :=
    ⟨up, { origin := 8191 }, 0, by unfold State.shapeOk; decide +kernel⟩

theorem witness_ErrorRecordsClear :
  (∃ (s : State) (die : Nat), (s.barErr = true) ∧ (s.shapeOk) ∧ (die < 8))
  ∧ (∃ (s : State), (s.barErr = true) ∧ (s.shapeOk))
  ∧ (∃ (s : State) (die : Nat) (slot : Nat) (t : Word) (r : ErrRec), (s.shapeOk) ∧ (die < 8) ∧ (NMap.get? (s.errsOf die) slot = some r)
      ∧ (r.deferred = true) ∧ (100000 ≤ ((s.reach die t).counter die - r.notified).toNat)) :=
    ⟨⟨up, 7, by unfold State.shapeOk; decide +kernel⟩,
    ⟨up, by unfold State.shapeOk; decide +kernel⟩,
    ⟨{ up with errs := List.replicate 8 [(3, { origin := 0, cls := 2, severity := 2, deferred := true })] }, 7, 3, 100000, { origin := 0, cls := 2, severity := 2, deferred := true }, by unfold State.shapeOk; decide +kernel⟩⟩

theorem witness_WindowErrorBits :
  (∃ (s : State) (part : Nat), (s.barAll = true) ∧ (NMap.has s.parts part = true))
  ∧ (∃ (s : State) (die : Nat) (slot : Nat) (r : ErrRec) (p : Part), (NMap.get? (s.errsOf die) slot = some r)
      ∧ (NMap.get? s.parts r.partition = some p) ∧ (r.severity = 2 ∨ r.severity = 3)) :=
    ⟨⟨part, 0, by decide +kernel⟩,
    ⟨{ part with errs := List.replicate 8 [(3, { origin := 0, cls := 2, severity := 2, partition := 0 })] }, 0, 3, { origin := 0, cls := 2, severity := 2, partition := 0 }, { function := 1, groups := 1 }, by decide +kernel⟩⟩

theorem witness_RegisterAccessesTakeEffect :
  (∃ (s : State), (s.barAll = true) ∧ (s.parts = []))
  ∧ (∃ (s : State), (s.barAll = true) ∧ (s.parts ≠ []))
  ∧ (∃ (s : State) (link : Nat), (s.barAll = true) ∧ (link < 8) ∧ (s.shapeOk))
  ∧ (∃ (s : State), (s.barAll = true) ∧ (s.groups = []) ∧ ((∀ c ∈ s.cmds, c.2.opcode ≠ 0x49)))
  ∧ (∃ (s : State), (s.barAll = true))
  ∧ (∃ (s : State) (link : Nat) (v : Nat), (s.barAll = true) ∧ (link < 8) ∧ (s.shapeOk) ∧ (bitsOf v 30 28 ≠ 0) ∧ ((s.linkAt link).testMode = 0))
  ∧ (∃ (s : State) (link : Nat) (v : Nat), (s.barAll = true) ∧ (link < 8) ∧ (s.shapeOk) ∧ (bitsOf v 30 28 = 0) ∧ ((s.linkAt link).testMode ≠ 0))
  ∧ (∃ (s : State) (off : Nat) (width : Nat), (goodAccess off width = false) ∧ (s.barErr = true))
  ∧ (∃ (off : Nat), (off % 8 = 0))
  ∧ (∃ (s : State), (s.barAll = true)) :=
    ⟨⟨up, by decide +kernel⟩,
    ⟨part, by decide +kernel⟩,
    ⟨up, 7, by unfold State.shapeOk; decide +kernel⟩,
    ⟨up, by decide +kernel⟩,
    ⟨up, by decide +kernel⟩,
    ⟨up, 7, 0x10000000, by unfold State.shapeOk; decide +kernel⟩,
    ⟨{ up with links := List.replicate 8 { testMode := 1 } }, 0, 0, by unfold State.shapeOk; decide +kernel⟩,
    ⟨up, 2, 32, by decide +kernel⟩,
    ⟨8, by decide +kernel⟩,
    ⟨up, by decide +kernel⟩⟩

theorem witness_PackageRingSwitches :
  (∃ (s : State) (v : Nat), (s.barAll = true) ∧ (s.adminRunning = false) ∧ ((s.admin.config v).ok = true))
  ∧ (∃ (s : State) (r : SubRing), (s.barAll = true) ∧ (s.adminRunning = true) ∧ (s.sub? packageOwner 0 = some r)) :=
    ⟨⟨{ up with admin := { vector := 2047 } }, 0x06060000, by decide +kernel⟩,
    ⟨{ up with admin := { enable := true }, subs := [(ringKey packageOwner 0, {})] }, {}, by decide +kernel⟩⟩

theorem witness_SnapshotsAndCapturesComplete :
  (∃ (s : State) (pf : Bool) (part : Nat), (s.windowServed pf part = true) ∧ ((s.snapOf pf part).go = false))
  ∧ (∃ (s : State) (pf : Bool) (part : Nat), (s.windowServed pf part = true) ∧ ((s.snapOf pf part).go = true))
  ∧ (∃ (s : State) (pf : Bool) (part : Nat) (x : Snap), (s.windowServed pf part = true) ∧ (s.snapOf pf part = x) ∧ (x.go = true)
      ∧ (s.snapResult pf part x = 0) ∧ (x.clear = true) ∧ (x.kind = 1) ∧ (s.layerNamed part x.index = true))
  ∧ (∃ (s : State) (pf : Bool) (part : Nat) (x : Snap), (s.windowServed pf part = true) ∧ (s.snapOf pf part = x) ∧ (x.go = true)
      ∧ (s.snapResult pf part x = 0) ∧ ((x.clear = true → x.kind = 1 → s.layerNamed part x.index = false)))
  ∧ (∃ (s : State) (pf : Bool) (part : Nat) (x : Snap), (s.windowServed pf part = true) ∧ (s.snapOf pf part = x) ∧ (x.go = true)
      ∧ (s.snapResult pf part x ≠ 0))
  ∧ (∃ (s : State), (s.barErr = true) ∧ (s.colo.go = false))
  ∧ (∃ (s : State) (b : Bytes) (n : Nat) (rest : List (Option Nat × Bytes × Nat)), (s.boot = .ready) ∧ (s.colo.captures = (none, b, n) :: rest))
  ∧ (∃ (s : State) (t : Word), (s.fatal = true) ∧ (s.colo.go = true) ∧ (1000000 ≤ ((s.reach 0 t).counter 0 - s.colo.since).toNat))
  ∧ (∃ (s : State) (id : Nat) (c : Cmd), (Live s id 0x4C c) ∧ (c.phase = .admitted))
  ∧ (∃ (s : State) (id : Nat) (c : Cmd) (b : Bytes) (n : Nat) (rest : List (Option Nat × Bytes × Nat)), (s.boot = .ready) ∧ (s.fatal = false)
      ∧ (s.colo.captures = (some id, b, n) :: rest) ∧ (s.cmd? id = some c)) :=
    ⟨⟨part, true, 0, by decide +kernel⟩,
    ⟨{ part with windows := [(0, { pfSnap := { go := true } })] }, true, 0, by decide +kernel⟩,
    ⟨{ part with windows := [(0, { pfSnap := { go := true, clear := true, kind := 1, index := 0 } })], plans := [(1, { image := img 144 [(0, 4, 0x4E414C50), (6, 2, 1), (64, 2, 2), (68, 4, 80), (72, 4, 64), (114, 1, 1)] })], cmds := [(1, cm 0x01 .started [(8, 4, 1)])] }, true, 0, { go := true, clear := true, kind := 1, index := 0 }, by decide +kernel⟩,
    ⟨{ part with windows := [(0, { pfSnap := { go := true, clear := false, kind := 3, index := 0 } })] }, true, 0, { go := true, clear := false, kind := 3, index := 0 }, by refine ⟨?_, ?_, ?_, ?_, ?_⟩ <;> first | rfl | decide +kernel⟩,
    ⟨{ part with windows := [(0, { pfSnap := { go := true, clear := true, kind := 0, index := 0 } })] }, true, 0, { go := true, clear := true, kind := 0, index := 0 }, by decide +kernel⟩,
    ⟨up, by decide +kernel⟩,
    ⟨{ up with colo := { captures := [(none, [1], 1)] } }, [1], 1, [], by decide +kernel⟩,
    ⟨{ up with fatal := true, colo := { go := true } }, 1000000, by decide +kernel⟩,
    ⟨one (cm 0x4c .admitted []), 1, cm 0x4c .admitted [], by decide +kernel⟩,
    ⟨{ one (cm 0x4C .started []) with colo := { captures := [(some 1, [1], 1)] } }, 1, cm 0x4C .started [], [1], 1, [], by decide +kernel⟩⟩

theorem witness_MailboxCommandsComplete :
  (∃ (s : State) (cells : List Host.Cell) (q : _), (q ∈ [(Instr.fwWrite cells, 1), (Instr.fwActivate cells, 2), (Instr.fwConfirm cells, 3), (Instr.fwStatus cells, 4), (Instr.debugUnlock cells, 5)])
      ∧ (s.barMailbox = true) ∧ (s.sec.mbGo = false))
  ∧ (∃ (s : State), (s.sec.mbGo = true) ∧ (s.flash.record.seqNo ≠ BitVec.allOnes 32)) :=
    ⟨⟨up, [], (Instr.fwWrite [], 1), by decide +kernel⟩,
    ⟨{ up with sec := { mbGo := true } }, by decide +kernel⟩⟩

theorem witness_RollbackFloorNeverFalls :
  (∃ (c : Instr) (s : State) (t : State), (Sys2Proof.Machine.exec c s = .next t)) :=
    ⟨.pfFlr, State.reset, _, rfl⟩

theorem witness_SpdmRequestsAreAnswered :
  (∃ (s : State) (tr : Nat) (sn : Nat) (req : Bytes) (q : _), (q ∈ [(Instr.spdmGetVersion tr sn req, 0x84, leBytes 1 0x13), (.spdmGetCapabilities tr sn req, 0xE1, spdmRequests), (.spdmNegotiateAlgorithms tr sn req, 0xE3, spdmAlgorithms)])
      ∧ (s.secUp = true))
  ∧ (∃ (s : State) (tr : Nat) (sn : Nat) (req : Bytes) (q : _), (q ∈ [(Instr.spdmChallenge tr sn req, 0x83, (s.certChain.getD []).flatten ++ measurementBlocks s), (.spdmGetMeasurements tr sn req, 0xE0, measurementBlocks s)])
      ∧ (s.secUp = true))
  ∧ (∃ (s : State) (a : _), (s.secUp = true) ∧ (s.sec.aliasCert = some a))
  ∧ (∃ (s : State) (tr : Nat) (sn : Nat) (req : Bytes) (q : _), (q ∈ [(Instr.spdmGetDigests tr sn req, 0x81), (.spdmGetCertificate tr sn req, 0x82)])
      ∧ (s.secUp = true) ∧ (s.sec.aliasCert = none))
  ∧ (∃ (s : State) (tr : Nat) (sn : Nat), (s.secUp = true)
      ∧ (NMap.has (s.sec.sessions tr) sn = true ∨ (s.sec.sessions tr).length < sessionLimit tr))
  ∧ (∃ (s : State) (tr : Nat) (sn : Nat), (s.secUp = true) ∧ (NMap.has (s.sec.sessions tr) sn = false)
      ∧ (sessionLimit tr ≤ (s.sec.sessions tr).length))
  ∧ (∃ (s : State) (tr : Nat) (sn : Nat) (req : Bytes) (q : _), (q ∈ [(Instr.spdmFinish tr sn req, fun (x : Session) => some { x with established := true }), (.spdmKeyUpdate tr sn req, fun x => some (if x.established then { x with keyGen := x.keyGen + 1 } else x)), (.spdmHeartbeat tr sn req, some), (.spdmEndSession tr sn req, fun _ => none)])
      ∧ (s.secUp = true))
  ∧ (∃ (s : State) (tr : Nat) (sn : Nat) (req : Bytes) (q : _), (q ∈ [(Instr.spdmFinish tr sn req, 0xE5), (.spdmKeyUpdate tr sn req, 0xE9), (.spdmHeartbeat tr sn req, 0xE8), (.spdmEndSession tr sn req, 0xEC)])
      ∧ (s.secUp = true) ∧ (NMap.has (s.sec.sessions tr) sn = false)) :=
    ⟨⟨up, 0, 0, [], (Instr.spdmGetVersion 0 0 [], 0x84, leBytes 1 0x13), ⟨List.mem_cons_self, by decide +kernel⟩⟩,
    ⟨up, 0, 0, [], (Instr.spdmChallenge 0 0 [], 0x83, (up.certChain.getD []).flatten ++ measurementBlocks up), ⟨List.mem_cons_self, by decide +kernel⟩⟩,
    ⟨{ up with sec := { aliasCert := some [1] } }, [1], by decide +kernel⟩,
    ⟨up, 0, 0, [], (Instr.spdmGetDigests 0 0 [], 0x81), ⟨List.mem_cons_self, by decide +kernel, by decide +kernel⟩⟩,
    ⟨up, 0, 0, by decide +kernel⟩,
    ⟨{ up with sec := { doe := [(1, {}), (2, {}), (3, {}), (4, {})] } }, 0, 5, by decide +kernel⟩,
    ⟨up, 0, 0, [], (Instr.spdmFinish 0 0 [], fun (x : Session) => some { x with established := true }), ⟨List.mem_cons_self, by decide +kernel⟩⟩,
    ⟨up, 0, 0, [], (Instr.spdmFinish 0 0 [], 0xE5), ⟨List.mem_cons_self, by decide +kernel, by decide +kernel⟩⟩⟩

theorem witness_KeysStreamsAndReports :
  (∃ (s : State) (sn : Nat) (stream : Nat) (x : Session), (NMap.get? s.sec.doe sn = some x) ∧ (x.established = true) ∧ (stream ≤ 8)
      ∧ (s.secUp = true))
  ∧ (∃ (s : State) (sn : Nat) (stream : Nat) (x : Session) (k : _), (NMap.get? s.sec.doe sn = some x) ∧ (x.established = true) ∧ (stream ≤ 8)
      ∧ (s.secUp = true) ∧ ((NMap.getD s.sec.ide stream {}).next = some k))
  ∧ (∃ (s : State) (sn : Nat) (stream : Nat) (x : Session), (NMap.get? s.sec.doe sn = some x) ∧ (x.established = true) ∧ (stream ≤ 8)
      ∧ (s.secUp = true) ∧ ((NMap.getD s.sec.ide stream {}).next = none))
  ∧ (∃ (s : State) (stream : Nat), (s.parts = []) ∧ (s.cmds = []) ∧ ((NMap.getD s.sec.ide stream {}).key.isSome = true))
  ∧ (∃ (s : State) (stream : Nat), ((NMap.getD s.sec.ide stream {}).key.isSome = true))
  ∧ (∃ (s : State) (stream : Nat), ((NMap.getD s.sec.ide stream {}).key = none))
  ∧ (∃ (s : State), (s.sec.unlocked = false))
  ∧ (∃ (s : State) (id : Nat) (c : Cmd) (p : Part), (Live s id 0x51 c) ∧ (NMap.get? s.parts c.owner = some p) ∧ (c.f 18 1 = 0))
  ∧ (∃ (s : State) (id : Nat) (c : Cmd) (p : Part), (Live s id 0x51 c) ∧ (NMap.get? s.parts c.owner = some p) ∧ (c.f 18 1 = 1))
  ∧ (∃ (s : State) (id : Nat) (c : Cmd) (p : Part), (Live s id 0x51 c) ∧ (NMap.get? s.parts c.owner = some p) ∧ (c.f 18 1 = 2))
  ∧ (∃ (s : State) (id : Nat) (c : Cmd) (p : Part), (Live s id 0x51 c) ∧ (NMap.get? s.parts c.owner = some p) ∧ (c.f 18 1 = 3))
  ∧ (∃ (s : State) (id : Nat) (c : Cmd), (Live s id 0x4D c) ∧ ((c.f 16 1 = 1 → NMap.has s.parts (c.f 17 1) = true))
      ∧ (128 + 80 * (measurements s (c.f 16 1) (c.f 17 1)).length + 114 ≤ c.f 64 4))
  ∧ (∃ (s : State) (id : Nat) (c : Cmd), (Live s id 0x4D c) ∧ ((c.f 16 1 = 1 → NMap.has s.parts (c.f 17 1) = true))
      ∧ (c.f 64 4 < 128 + 80 * (measurements s (c.f 16 1) (c.f 17 1)).length + 114)) :=
    ⟨⟨{ up with sec := { doe := [(1, { established := true })] } }, 1, 8, { established := true }, by decide +kernel⟩,
    ⟨{ up with sec := { doe := [(1, { established := true })], ide := [(8, { next := some [1] })] } }, 1, 8, { established := true }, [1], by decide +kernel⟩,
    ⟨{ up with sec := { doe := [(1, { established := true })] } }, 1, 8, { established := true }, by decide +kernel⟩,
    ⟨{ up with sec := { ide := [(0, { key := some [1] })] } }, 0, by decide +kernel⟩,
    ⟨{ part with sec := { ide := [(0, { key := some [1] })] } }, 0, by decide +kernel⟩,
    ⟨up, 0, by decide +kernel⟩,
    ⟨up, by decide +kernel⟩,
    ⟨one (cm 0x51 .admitted [(18, 1, 0)]), 1, cm 0x51 .admitted [(18, 1, 0)], { function := 1, groups := 1 }, by decide +kernel⟩,
    ⟨one (cm 0x51 .admitted [(18, 1, 1)]), 1, cm 0x51 .admitted [(18, 1, 1)], { function := 1, groups := 1 }, by decide +kernel⟩,
    ⟨one (cm 0x51 .admitted [(18, 1, 2)]), 1, cm 0x51 .admitted [(18, 1, 2)], { function := 1, groups := 1 }, by decide +kernel⟩,
    ⟨one (cm 0x51 .admitted [(18, 1, 3)]), 1, cm 0x51 .admitted [(18, 1, 3)], { function := 1, groups := 1 }, by decide +kernel⟩,
    ⟨one (cm 0x4d .admitted [(16, 1, 1), (17, 1, 0), (64, 4, 65536)]), 1, cm 0x4d .admitted [(16, 1, 1), (17, 1, 0), (64, 4, 65536)], by decide +kernel⟩,
    ⟨one (cm 0x4d .admitted [(16, 1, 1), (17, 1, 0)]), 1, cm 0x4d .admitted [(16, 1, 1), (17, 1, 0)], by decide +kernel⟩⟩

theorem witness_PartitionsAndRings :
  (∃ (s : State) (id : Nat) (c : Cmd) (n : _), (Live s id 0x40 c) ∧ (c.owner = packageOwner) ∧ (c.f 16 1 < 16)
      ∧ (partCreateFail s c.desc = some n))
  ∧ (∃ (s : State) (id : Nat) (c : Cmd), (Live s id 0x40 c) ∧ (c.owner = packageOwner) ∧ (c.f 16 1 < 16) ∧ (partCreateFail s c.desc = none))
  ∧ (∃ (s : State) (id : Nat) (c : Cmd), (Live s id 0x41 c) ∧ (c.owner = packageOwner) ∧ (c.f 16 1 < 16)
      ∧ (NMap.has s.parts (c.f 16 1) = false))
  ∧ (∃ (s : State) (id : Nat) (c : Cmd), (Live s id 0x41 c) ∧ (c.owner = packageOwner) ∧ (c.f 16 1 < 16) ∧ (NMap.has s.parts (c.f 16 1) = true))
  ∧ (∃ (s : State) (s0 : State) (s1 : State) (id : Nat) (c : Cmd) (items : List Item), (Live s id 0x50 c)
      ∧ (s0 = s.asDma (s.functionOf c.owner) false (c.f 24 8) (16 * c.f 18 2)) ∧ (items = readItems s (c.f 24 8) (c.f 18 2))
      ∧ (s1 = items.foldl (applyItem (c.f 16 1)) s0) ∧ (c.f 16 1 < 16) ∧ (NMap.has s.parts (c.f 16 1) = false))
  ∧ (∃ (s : State) (s0 : State) (s1 : State) (id : Nat) (c : Cmd) (items : List Item) (k : _), (Live s id 0x50 c)
      ∧ (s0 = s.asDma (s.functionOf c.owner) false (c.f 24 8) (16 * c.f 18 2)) ∧ (items = readItems s (c.f 24 8) (c.f 18 2))
      ∧ (s1 = items.foldl (applyItem (c.f 16 1)) s0) ∧ ((c.f 16 1 < 16 → NMap.has s.parts (c.f 16 1) = true))
      ∧ (items.findIdx? (fun i => !(itemOk s0 (c.f 16 1) i)) = some k))
  ∧ (∃ (s : State) (s0 : State) (s1 : State) (id : Nat) (c : Cmd) (items : List Item) (k : _), (Live s id 0x50 c)
      ∧ (s0 = s.asDma (s.functionOf c.owner) false (c.f 24 8) (16 * c.f 18 2)) ∧ (items = readItems s (c.f 24 8) (c.f 18 2))
      ∧ (s1 = items.foldl (applyItem (c.f 16 1)) s0) ∧ ((c.f 16 1 < 16 → NMap.has s.parts (c.f 16 1) = true))
      ∧ ((∀ i ∈ items, itemOk s0 (c.f 16 1) i = true)) ∧ (quotaFail s0 s1 (c.f 16 1) items = some k))
  ∧ (∃ (s : State) (s0 : State) (s1 : State) (id : Nat) (c : Cmd) (items : List Item), (Live s id 0x50 c)
      ∧ (s0 = s.asDma (s.functionOf c.owner) false (c.f 24 8) (16 * c.f 18 2)) ∧ (items = readItems s (c.f 24 8) (c.f 18 2))
      ∧ (s1 = items.foldl (applyItem (c.f 16 1)) s0) ∧ ((c.f 16 1 < 16 → NMap.has s.parts (c.f 16 1) = true))
      ∧ ((∀ i ∈ items, itemOk s0 (c.f 16 1) i = true)) ∧ (quotaFail s0 s1 (c.f 16 1) items = none))
  ∧ (∃ (s : State) (id : Nat) (c : Cmd) (p : Part) (n : _), (Live s id 0x42 c) ∧ (NMap.get? s.parts c.owner = some p)
      ∧ (ringCreateRange s c.owner c.desc = some n))
  ∧ (∃ (s : State) (id : Nat) (c : Cmd) (p : Part), (Live s id 0x42 c) ∧ (NMap.get? s.parts c.owner = some p)
      ∧ (ringCreateRange s c.owner c.desc = none))
  ∧ (∃ (s : State) (id : Nat) (c : Cmd) (n : _), (Live s id 0x43 c) ∧ (c.phase ≠ .executed) ∧ (ringDestroyRange s c.owner c.desc = some n))
  ∧ (∃ (s : State) (id : Nat) (c : Cmd), (Live s id 0x43 c) ∧ (c.phase = .executed ∨ ringDestroyRange s c.owner c.desc = none) ∧ (c.f 18 1 = 0)
      ∧ (s.ringCmds c.owner (c.f 16 2) = []))
  ∧ (∃ (s : State) (id : Nat) (c : Cmd), (Live s id 0x43 c) ∧ (c.phase = .executed ∨ ringDestroyRange s c.owner c.desc = none) ∧ (c.f 18 1 = 0)
      ∧ ((∃ x ∈ s.ringCmds c.owner (c.f 16 2), x.1 ≠ id)) ∧ ((s.sub? c.owner (c.f 16 2)).isSome = true))
  ∧ (∃ (s : State) (id : Nat) (c : Cmd) (r : _), (Live s id 0x43 c) ∧ (c.phase = .executed ∨ ringDestroyRange s c.owner c.desc = none)
      ∧ (c.f 18 1 = 1) ∧ (s.comp? c.owner (c.f 16 2) = some r) ∧ (r.reserved = 0))
  ∧ (∃ (s : State) (id : Nat) (c : Cmd) (r : _), (Live s id 0x43 c) ∧ (c.phase = .executed ∨ ringDestroyRange s c.owner c.desc = none)
      ∧ (c.f 18 1 = 1) ∧ (s.comp? c.owner (c.f 16 2) = some r) ∧ (r.reserved ≠ 0)) :=
    ⟨⟨one ({ cm 0x40 .admitted [(16, 1, 0), (20, 12, 2)] with owner := packageOwner }), 1, { cm 0x40 .admitted [(16, 1, 0), (20, 12, 2)] with owner := packageOwner }, 1, by decide +kernel⟩,
    ⟨one ({ cm 0x40 .admitted [(16, 1, 15), (17, 1, 16), (20, 12, 2), (32, 1, 6), (33, 1, 6)] with owner := packageOwner }), 1, { cm 0x40 .admitted [(16, 1, 15), (17, 1, 16), (20, 12, 2), (32, 1, 6), (33, 1, 6)] with owner := packageOwner }, by decide +kernel⟩,
    ⟨one ({ cm 0x41 .admitted [(16, 1, 15)] with owner := packageOwner }), 1, { cm 0x41 .admitted [(16, 1, 15)] with owner := packageOwner }, by decide +kernel⟩,
    ⟨{ one ({ cm 0x41 .admitted [(16, 1, 15)] with owner := packageOwner }) with parts := [(0, { function := 1, groups := 1 }), (15, {})] }, 1, { cm 0x41 .admitted [(16, 1, 15)] with owner := packageOwner }, by decide +kernel⟩,
    ⟨richOne [] ({ cm 0x50 .admitted [(16, 1, 9), (24, 8, 4096)] with owner := packageOwner }), _, _, 1, { cm 0x50 .admitted [(16, 1, 9), (24, 8, 4096)] with owner := packageOwner }, _, by refine ⟨?_, ?_, ?_, ?_, ?_, ?_⟩ <;> first | decide +kernel | rfl | (unfold State.shapeOk; decide +kernel) | (intro _ h; cases h; done) | (intro _ h; cases h; rfl)⟩,
    ⟨richOne (img 16 [(0, 2, 0xFFFF)]) ({ cm 0x50 .admitted [(16, 1, 0), (18, 2, 1), (24, 8, 4096)] with owner := packageOwner }), _, _, 1, { cm 0x50 .admitted [(16, 1, 0), (18, 2, 1), (24, 8, 4096)] with owner := packageOwner }, _, 0, by refine ⟨?_, ?_, ?_, ?_, ?_, ?_⟩ <;> first | decide +kernel | rfl | (unfold State.shapeOk; decide +kernel) | (intro _ h; cases h; done) | (intro _ h; cases h; rfl)⟩,
    ⟨{ richOne (img 16 [(0, 2, 2), (8, 8, 0)]) ({ cm 0x50 .admitted [(16, 1, 0), (18, 2, 1), (24, 8, 4096)] with owner := packageOwner }) with objects := [(objKey 0 1, { kind := 1, bytes := 65536, dies := [0] })] }, _, _, 1, { cm 0x50 .admitted [(16, 1, 0), (18, 2, 1), (24, 8, 4096)] with owner := packageOwner }, _, 0, by refine ⟨?_, ?_, ?_, ?_, ?_, ?_, ?_⟩ <;> first | decide +kernel | rfl | (unfold State.shapeOk; decide +kernel) | (intro _ h; cases h; done) | (intro _ h; cases h; rfl)⟩,
    ⟨richOne [] ({ cm 0x50 .admitted [(16, 1, 0), (18, 2, 0), (24, 8, 4096)] with owner := packageOwner }), _, _, 1, { cm 0x50 .admitted [(16, 1, 0), (18, 2, 0), (24, 8, 4096)] with owner := packageOwner }, _, by refine ⟨?_, ?_, ?_, ?_, ?_, ?_, ?_⟩ <;> first | decide +kernel | rfl | (unfold State.shapeOk; decide +kernel) | (intro _ h; cases h; done) | (intro _ h; cases h; rfl)⟩,
    ⟨{ one (cm 0x42 .admitted [(16, 2, 1024), (19, 1, 16)]) with comps := [(0, {})] }, 1, cm 0x42 .admitted [(16, 2, 1024), (19, 1, 16)], { function := 1, groups := 1 }, 0x0110, by decide +kernel⟩,
    ⟨{ one (cm 0x42 .admitted [(16, 2, 1023), (18, 1, 0), (19, 1, 16), (21, 1, 0xFF), (22, 2, 0)]) with comps := [(0, {})] }, 1, cm 0x42 .admitted [(16, 2, 1023), (18, 1, 0), (19, 1, 16), (21, 1, 0xFF), (22, 2, 0)], { function := 1, groups := 1 }, by decide +kernel⟩,
    ⟨{ one (cm 0x43 .admitted [(16, 2, 2), (18, 1, 2)]) with subs := [(2, {})] }, 1, cm 0x43 .admitted [(16, 2, 2), (18, 1, 2)], 0x0112, by decide +kernel⟩,
    ⟨{ one (cm 0x43 .admitted [(16, 2, 2), (18, 1, 0)]) with subs := [(2, {})] }, 1, cm 0x43 .admitted [(16, 2, 2), (18, 1, 0)], by decide +kernel⟩,
    ⟨{ one (cm 0x43 .admitted [(16, 2, 2), (18, 1, 0)]) with subs := [(2, {})], cmds := [(1, cm 0x43 .admitted [(16, 2, 2), (18, 1, 0)]), (2, { cm 0x01 .admitted [] with ring := 2 })] }, 1, cm 0x43 .admitted [(16, 2, 2), (18, 1, 0)], by decide +kernel⟩,
    ⟨{ one (cm 0x43 .admitted [(16, 2, 2), (18, 1, 1)]) with comps := [(2, {})] }, 1, cm 0x43 .admitted [(16, 2, 2), (18, 1, 1)], {}, by decide +kernel⟩,
    ⟨{ one (cm 0x43 .admitted [(16, 2, 2), (18, 1, 1)]) with comps := [(2, { reserved := 1 })] }, 1, cm 0x43 .admitted [(16, 2, 2), (18, 1, 1)], { reserved := 1 }, by decide +kernel⟩⟩

theorem witness_ObjectsPlansAndTables :
  (∃ (s : State) (id : Nat) (c : Cmd) (p : Part), (Live s id 0x47 c) ∧ (NMap.get? s.parts c.owner = some p)
      ∧ ((c.f 48 4 ≠ 0 → (s.resolve c.owner (c.f 48 4)).isSome = true)) ∧ (s.handleUsed c.owner (c.f 16 4) = false)
      ∧ (s.fits c.owner (registerObj p c.desc) = true))
  ∧ (∃ (s : State) (id : Nat) (c : Cmd) (o : Obj), (Live s id 0x48 c) ∧ (s.obj? c.owner (c.f 16 4) = some (objKey c.owner (c.f 16 4), o))
      ∧ (o.model = false) ∧ ((∀ x ∈ s.cmds, x.1 ≠ id → objKey c.owner (c.f 16 4) ∉ s.named x.2))
      ∧ ((∀ x ∈ s.objects, x.1 / 2 ^ 32 = c.owner → x.2.gradMask ≠ c.f 16 4)))
  ∧ (∃ (s : State) (part : Nat) (handle : Nat) (ingot : Nat) (o : Obj), (NMap.get? s.objects (objKey part handle) = some o) ∧ (s.linkUp = true)
      ∧ (o.tier = 3) ∧ (ingot ∈ o.dirty) ∧ (handle < 2 ^ 32) ∧ (s.dmaStop (s.functionOf part) = none)
      ∧ (s.spaceNeeds (objKey part handle) ingot = true ∨ 1000 ≤ (s.counter 0 - s.lastDma).toNat))
  ∧ (∃ (s : State) (id : Nat) (c : Cmd), (Live s id 0x44 c) ∧ (planFault s c.owner (dPlan c.desc) (s.hostRead (c.f 16 8) (c.f 24 4)) = none)
      ∧ (s.planFits c.owner (s.hostRead (c.f 16 8) (c.f 24 4)).length = true))
  ∧ (∃ (s : State) (id : Nat) (c : Cmd) (p : Plan), (Live s id 0x45 c) ∧ (s.plan? c.owner (dPlan c.desc) = some p) ∧ (p.retiring = false)
      ∧ ((∀ x ∈ s.ownerCmds c.owner, runsPlan x.2.opcode = false)))
  ∧ (∃ (s : State) (id : Nat) (c : Cmd) (p : Part), (Live s id 0x46 c) ∧ (c.f 17 1 = 0) ∧ (NMap.get? s.parts c.owner = some p)
      ∧ (tableFault (s.hostRead (c.f 24 8) (c.f 20 4)) (c.f 20 4) = none) ∧ (s.tableWaits id c.owner (c.f 16 1) = false)
      ∧ ((∀ d ∈ p.dieList, s.t2Use c.owner d + (s.hostRead (c.f 24 8) (c.f 20 4)).length ≤ s.setting c.owner 0x0002 d)))
  ∧ (∃ (s : State) (id : Nat) (c : Cmd), (Live s id 0x46 c) ∧ (c.f 17 1 = 1) ∧ (s.tableWaits id c.owner (c.f 16 1) = false)) :=
    ⟨⟨richOne [] (cm 0x47 .admitted [(16, 4, 7), (20, 1, 1), (23, 1, 2), (40, 8, 65536)]), 1, cm 0x47 .admitted [(16, 4, 7), (20, 1, 1), (23, 1, 2), (40, 8, 65536)], { function := 1, groups := 1, sets := [(0x0100, 2 ^ 30), (0x0200, 2 ^ 30), (0x0400, 2 ^ 30)] }, by decide +kernel⟩,
    ⟨{ richOne [] (cm 0x48 .admitted [(16, 4, 7)]) with objects := [(7, { kind := 1, bytes := 65536, dies := [0] })] }, 1, cm 0x48 .admitted [(16, 4, 7)], { kind := 1, bytes := 65536, dies := [0] }, by decide +kernel⟩,
    ⟨{ part with objects := [(7, { kind := 1, tier := 3, bytes := 65536, dirty := [0] })], counters := List.replicate 8 1000 }, 0, 7, 0, { kind := 1, tier := 3, bytes := 65536, dirty := [0] }, by decide +kernel⟩,
    ⟨richOne detPlan (cm 0x44 .admitted [(8, 4, 5), (16, 8, 4096), (24, 4, 144)]), 1, cm 0x44 .admitted [(8, 4, 5), (16, 8, 4096), (24, 4, 144)], by decide +kernel⟩,
    ⟨{ one (cm 0x45 .admitted [(8, 4, 5)]) with plans := [(5, { kind := 9 })] }, 1, cm 0x45 .admitted [(8, 4, 5)], { kind := 9 }, by decide +kernel⟩,
    ⟨richOne table (cm 0x46 .admitted [(16, 1, 3), (20, 4, 448), (24, 8, 4096)]), 1, cm 0x46 .admitted [(16, 1, 3), (20, 4, 448), (24, 8, 4096)], { function := 1, groups := 1, sets := [(0x0100, 2 ^ 30), (0x0200, 2 ^ 30), (0x0400, 2 ^ 30)] }, by decide +kernel⟩,
    ⟨one (cm 0x46 .admitted [(16, 1, 3), (17, 1, 1)]), 1, cm 0x46 .admitted [(16, 1, 3), (17, 1, 1)], by decide +kernel⟩⟩

theorem witness_GroupsAbortAndFunctionReset :
  (∃ (s : State) (id : Nat) (c : Cmd), (Live s id 0x4E c) ∧ (c.f 18 1 = 0) ∧ (s.groupHeld id (c.f 16 2) = false)
      ∧ (s.groupFail c.owner (c.f 16 2) (c.f 20 1) (readMembers s (c.f 24 8) (c.f 19 1)) = none))
  ∧ (∃ (s : State) (id : Nat) (c : Cmd) (g : Group), (Live s id 0x4E c) ∧ (c.f 18 1 = 1) ∧ (s.groupHeld id (c.f 16 2) = false)
      ∧ (NMap.get? s.groups (c.f 16 2) = some g) ∧ (g.part = c.owner))
  ∧ (∃ (s : State) (s1 : State) (id : Nat) (c : Cmd) (r : SubRing) (tgt : _) (x : _), (Live s id 0x0D c) ∧ (c.target = none)
      ∧ (s.sub? c.owner (c.f 16 2) = some r) ∧ (s1 = s.fetchRest c.owner (c.f 16 2))
      ∧ (s1.abortTarget c.owner (c.f 16 2) (c.f 20 4) = some (.inl tgt)) ∧ (s.cmd? tgt = some x) ∧ (x.uncommitted = true)
      ∧ ((∀ k, x.coll = some k → k.sentDone = false)))
  ∧ (∃ (s : State) (s1 : State) (id : Nat) (c : Cmd) (r : SubRing) (y : _) (r1 : _), (Live s id 0x0D c) ∧ (c.target = none)
      ∧ (s.sub? c.owner (c.f 16 2) = some r) ∧ (s1 = s.fetchRest c.owner (c.f 16 2))
      ∧ (s1.abortTarget c.owner (c.f 16 2) (c.f 20 4) = some (.inr y)) ∧ (s1.sub? c.owner (c.f 16 2) = some r1)
      ∧ (s1.slotFree c.owner (s1.cqOf c.owner r1 y.desc) = true))
  ∧ (∃ (s : State) (s1 : State) (id : Nat) (c : Cmd) (r : SubRing), (Live s id 0x0D c) ∧ (c.target = none)
      ∧ (s.sub? c.owner (c.f 16 2) = some r) ∧ (s1 = s.fetchRest c.owner (c.f 16 2)) ∧ (s1.abortTarget c.owner (c.f 16 2) (c.f 20 4) = none))
  ∧ (∃ (s : State) (vf : Nat) (p : Nat) (q : Part), (vf ≠ 0) ∧ (s.parts.find? (fun x => x.2.function == vf) = some (p, q))) :=
    ⟨⟨richOne [0, 0, 255, 0] (cm 0x4e .admitted [(16, 2, 63), (19, 1, 1), (24, 8, 4096)]), 1, cm 0x4e .admitted [(16, 2, 63), (19, 1, 1), (24, 8, 4096)], by decide +kernel⟩,
    ⟨{ one (cm 0x4e .admitted [(16, 2, 63), (18, 1, 1)]) with groups := [(63, { part := 0, rank := 0, gen := 0, members := [] })] }, 1, cm 0x4e .admitted [(16, 2, 63), (18, 1, 1)], { part := 0, rank := 0, gen := 0, members := [] }, by decide +kernel⟩,
    ⟨{ one (cm 0xd .admitted [(16, 2, 2), (20, 4, 9)]) with subs := [(2, {})], cmds := [(1, cm 0x0D .admitted [(16, 2, 2), (20, 4, 9)]), (2, { cm 0x01 .admitted [(4, 4, 9)] with ring := 2 })] }, _, 1, cm 0xd .admitted [(16, 2, 2), (20, 4, 9)], {}, 2, { cm 0x01 .admitted [(4, 4, 9)] with ring := 2 }, by refine ⟨?_, ?_, ?_, ?_, ?_, ?_, ?_, ?_⟩ <;> first | decide +kernel | rfl | (unfold State.shapeOk; decide +kernel) | (intro _ h; cases h; done) | (intro _ h; cases h; rfl)⟩,
    ⟨{ one (cm 0xd .admitted [(16, 2, 2), (20, 4, 9)]) with subs := [(2, { fetched := [{ order := 0, desc := dsc 0x01 [(4, 4, 9)], at_ := 0 }] })], comps := [(0, {})] }, _, 1, cm 0xd .admitted [(16, 2, 2), (20, 4, 9)], { fetched := [{ order := 0, desc := dsc 0x01 [(4, 4, 9)], at_ := 0 }] }, _, _, by refine ⟨?_, ?_, ?_, ?_, ?_, ?_, ?_⟩ <;> first | decide +kernel | rfl | (unfold State.shapeOk; decide +kernel) | (intro _ h; cases h; done) | (intro _ h; cases h; rfl)⟩,
    ⟨{ one (cm 0xd .admitted [(16, 2, 2), (20, 4, 9)]) with subs := [(2, {})] }, _, 1, cm 0xd .admitted [(16, 2, 2), (20, 4, 9)], {}, by refine ⟨?_, ?_, ?_, ?_, ?_⟩ <;> first | decide +kernel | rfl | (unfold State.shapeOk; decide +kernel) | (intro _ h; cases h; done) | (intro _ h; cases h; rfl)⟩,
    ⟨part, 1, 0, { function := 1, groups := 1 }, by decide +kernel⟩⟩

theorem witness_TimersOfTheScheduler :
  (∃ (s : State) (die : Nat) (t : Word), (((s.reach die t).counter die).toNat % 100000 = 0))
  ∧ (∃ (s : State) (die : Nat) (t : Word), (((s.reach die t).counter die).toNat % 100 = 0) ∧ ((∀ q ∈ s.queues, q.2.waiting = []))) :=
    ⟨⟨up, 7, 100000, by decide +kernel⟩,
    ⟨up, 7, 100, by decide +kernel⟩⟩

theorem witness_PowerSetAndMarginComplete :
  (∃ (s : State) (id : Nat) (c : Cmd), (Live s id 0x4B c) ∧ (s.powerTurn id = true) ∧ (c.f 16 1 = 0)
      ∧ (pkAllowed s.power.pk (c.f 17 1) = false))
  ∧ (∃ (s : State) (id : Nat) (c : Cmd), (Live s id 0x4B c) ∧ (s.powerTurn id = true) ∧ (c.f 16 1 = 0) ∧ (c.f 17 1 ≠ 0)
      ∧ (pkAllowed s.power.pk (c.f 17 1) = true) ∧ ((s.power.pk = 0 → ∀ x ∈ s.cmds, x.1 = id)) ∧ ((2 ≤ c.f 17 1 → ∀ x ∈ s.cmds, x.2.opcode ≠ 0x52)))
  ∧ (∃ (s : State) (id : Nat) (c : Cmd), (Live s id 0x4B c) ∧ (s.powerTurn id = true) ∧ (c.f 16 1 = 0) ∧ (c.f 17 1 = 0)
      ∧ (pkAllowed s.power.pk 0 = true))
  ∧ (∃ (s : State) (id : Nat) (c : Cmd) (n : _), (Live s id 0x4B c) ∧ (s.powerTurn id = true) ∧ (c.f 16 1 = 1) ∧ (s.shapeOk)
      ∧ (apFail s (c.f 18 1) (c.f 17 1) = some n))
  ∧ (∃ (s : State) (id : Nat) (c : Cmd), (Live s id 0x4B c) ∧ (s.powerTurn id = true) ∧ (c.f 16 1 = 1) ∧ (s.shapeOk)
      ∧ (apFail s (c.f 18 1) (c.f 17 1) = none))
  ∧ (∃ (s : State) (id : Nat) (c : Cmd), (Live s id 0x4B c) ∧ (s.powerTurn id = true) ∧ (groupsFenced s (groupBits c.desc) = true)
      ∧ (c.f 16 1 = 2))
  ∧ (∃ (s : State) (id : Nat) (c : Cmd), (Live s id 0x4B c) ∧ (s.powerTurn id = true) ∧ (groupsFenced s (groupBits c.desc) = true)
      ∧ (c.f 16 1 = 3))
  ∧ (∃ (s : State) (id : Nat) (c : Cmd), (Live s id 0x4B c) ∧ (s.powerTurn id = true) ∧ (groupsFenced s (groupBits c.desc) = true)
      ∧ (c.f 16 1 = 4))
  ∧ (∃ (s : State) (id : Nat) (c : Cmd), (Live s id 0x4B c) ∧ (s.powerTurn id = true) ∧ (c.f 16 1 = 2)
      ∧ (groupsFenced s (groupBits c.desc) = false) ∧ (s.groupsBusy (groupBits c.desc) = false))
  ∧ (∃ (s : State) (id : Nat) (c : Cmd), (Live s id 0x4B c) ∧ (s.powerTurn id = true) ∧ (c.f 16 1 = 3)
      ∧ (groupsFenced s (groupBits c.desc) = false))
  ∧ (∃ (s : State) (id : Nat) (c : Cmd), (Live s id 0x4B c) ∧ (s.powerTurn id = true) ∧ (c.f 16 1 = 4)
      ∧ (groupsFenced s (groupBits c.desc) = false) ∧ (s.groupsBusy (groupBits c.desc) = false))
  ∧ (∃ (s : State) (id : Nat) (c : Cmd) (q : _), (q ∈ [(Instr.memMarginReadScan id, 0), (Instr.memMarginTiming id, 1), (Instr.memMarginVoltage id, 2), (Instr.memMarginTimingVoltage id, 3)])
      ∧ (Live s id 0x52 c) ∧ ((∀ x ∈ s.cmds, x.1 < id → x.2.opcode = 0x52 → x.2.f 16 1 ≠ c.f 16 1)) ∧ (c.f 17 1 = q.2)
      ∧ ((s.stackAt (c.f 16 1)).selfRefresh = false))
  ∧ (∃ (s : State) (id : Nat) (c : Cmd) (q : _), (q ∈ [(Instr.memMarginReadScan id, 0), (Instr.memMarginTiming id, 1), (Instr.memMarginVoltage id, 2), (Instr.memMarginTimingVoltage id, 3)])
      ∧ (Live s id 0x52 c) ∧ ((∀ x ∈ s.cmds, x.1 < id → x.2.opcode = 0x52 → x.2.f 16 1 ≠ c.f 16 1)) ∧ (c.f 17 1 = q.2)
      ∧ ((s.stackAt (c.f 16 1)).selfRefresh = true)) :=
    ⟨⟨one (cm 0x4b .admitted [(17, 1, 5)]), 1, cm 0x4b .admitted [(17, 1, 5)], by decide +kernel⟩,
    ⟨one (cm 0x4b .admitted [(17, 1, 2)]), 1, cm 0x4b .admitted [(17, 1, 2)], by decide +kernel⟩,
    ⟨{ one (cm 0x4b .admitted []) with power := { pk := 2 } }, 1, cm 0x4b .admitted [], by decide +kernel⟩,
    ⟨{ one (cm 0x4B .admitted [(16, 1, 1), (17, 1, 7), (18, 1, 128)]) with dies := up.dies.map (fun d => { d with fenced := true }) }, 1, cm 0x4b .admitted [(16, 1, 1), (17, 1, 7), (18, 1, 128)], 2, by refine ⟨?_, ?_, ?_, ?_, ?_⟩ <;> first | decide +kernel | rfl | (unfold State.shapeOk; decide +kernel)⟩,
    ⟨one (cm 0x4b .admitted [(16, 1, 1), (17, 1, 7), (18, 1, 128)]), 1, cm 0x4b .admitted [(16, 1, 1), (17, 1, 7), (18, 1, 128)], by refine ⟨?_, ?_, ?_, ?_, ?_⟩ <;> first | decide +kernel | rfl | (unfold State.shapeOk; decide +kernel)⟩,
    ⟨{ one (cm 0x4B .admitted [(16, 1, 2), (20, 12, 1)]) with dies := up.dies.map (fun d => { d with fenced := true }) }, 1, cm 0x4B .admitted [(16, 1, 2), (20, 12, 1)], by decide +kernel⟩,
    ⟨{ one (cm 0x4B .admitted [(16, 1, 3), (20, 12, 1)]) with dies := up.dies.map (fun d => { d with fenced := true }) }, 1, cm 0x4B .admitted [(16, 1, 3), (20, 12, 1)], by decide +kernel⟩,
    ⟨{ one (cm 0x4B .admitted [(16, 1, 4), (20, 12, 1)]) with dies := up.dies.map (fun d => { d with fenced := true }) }, 1, cm 0x4B .admitted [(16, 1, 4), (20, 12, 1)], by decide +kernel⟩,
    ⟨one (cm 0x4b .admitted [(16, 1, 2), (20, 12, 1)]), 1, cm 0x4b .admitted [(16, 1, 2), (20, 12, 1)], by decide +kernel⟩,
    ⟨one (cm 0x4b .admitted [(16, 1, 3), (20, 12, 1)]), 1, cm 0x4b .admitted [(16, 1, 3), (20, 12, 1)], by decide +kernel⟩,
    ⟨one (cm 0x4b .admitted [(16, 1, 4), (20, 12, 1)]), 1, cm 0x4b .admitted [(16, 1, 4), (20, 12, 1)], by decide +kernel⟩,
    ⟨one (cm 0x52 .admitted [(16, 1, 23), (17, 1, 3)]), 1, cm 0x52 .admitted [(16, 1, 23), (17, 1, 3)], (Instr.memMarginTimingVoltage 1, 3), by decide +kernel⟩,
    ⟨{ one (cm 0x52 .admitted [(16, 1, 23), (17, 1, 3)]) with hbm := List.replicate 24 { selfRefresh := true } }, 1, cm 0x52 .admitted [(16, 1, 23), (17, 1, 3)], (Instr.memMarginTimingVoltage 1, 3), by decide +kernel⟩⟩

theorem witness_PowerAndSensorEvents :
  (∃ (s : State) (die : Nat) (ap : Nat), (die < 8) ∧ (s.shapeOk) ∧ ((s.diePower die).apNext = some ap))
  ∧ (∃ (s : State) (t : Word) (g : Nat) (at_ : Word), (s.power.cycle = some (g, at_)) ∧ (at_ ≤ (s.reach 0 t).counter 0))
  ∧ (∃ (s : State) (stack : Nat) (temp : Int), (s.boot = .ready) ∧ (s.shapeOk) ∧ (stack < 24) ∧ (temp ≤ 100))
  ∧ (∃ (s : State) (temp : Int), (s.boot = .ready) ∧ (100 < temp))
  ∧ (∃ (s : State) (isStack : Bool) (temp : Int), (s.pins.pwrReq = true) ∧ ((if isStack then 100 < temp else 115 ≤ temp)))
  ∧ (∃ (s : State) (die : Nat), (die < 8) ∧ (s.shapeOk))
  ∧ (∃ (s : State), (s.boot = .ready) ∧ (s.fatal = false) ∧ (s.power.pk ≤ 2))
  ∧ (∃ (s : State) (die : Nat), (s.boot = .ready) ∧ (die < 8) ∧ (s.shapeOk)) :=
    ⟨⟨{ up with power := { dies := List.replicate 8 { apNext := some 1 } } }, 7, 1, by refine ⟨?_, ?_, ?_⟩ <;> first | decide +kernel | rfl | (unfold State.shapeOk; decide +kernel)⟩,
    ⟨{ up with power := { cycle := some (1, 10) } }, 10, 1, 10, by decide +kernel⟩,
    ⟨up, 23, 100, by unfold State.shapeOk; decide +kernel⟩,
    ⟨up, 101, by decide +kernel⟩,
    ⟨up, false, 115, by decide +kernel⟩,
    ⟨up, 7, by unfold State.shapeOk; decide +kernel⟩,
    ⟨up, by decide +kernel⟩,
    ⟨up, 7, by refine ⟨?_, ?_, ?_⟩ <;> first | decide +kernel | rfl | (unfold State.shapeOk; decide +kernel)⟩⟩

theorem witness_ResetsAndStartUp :
  (∃ (s : State), (s.pins.aux = false) ∧ (s.pins.pkgRst = true ∨ s.pins.pwrGood = false))
  ∧ (∃ (s : State), (s.pins.aux = true))
  ∧ (∃ (s : State), (s.pins.aux = true) ∧ (s.pins.pkgRst = false) ∧ (s.pins.pwrReq = true) ∧ (s.pins.pwrGood = true) ∧ (s.fatal = false)
      ∧ (s.boot ≠ .tripped))
  ∧ (∃ (s : State) (t : Word) (h : Word), (s.boot = .cold) ∧ (s.fatal = false) ∧ (s.sec.handOff = some h)
      ∧ (500000000 ≤ ((s.reach 0 t).counter 0 - h).toNat) ∧ (s.pins.pwrGood = false))
  ∧ (∃ (s : State), (s.pins.aux = true) ∧ (s.pins.pkgRst = true) ∧ (s.boot = .held) ∧ (s.pins.pwrGood = false))
  ∧ (∃ (s : State), (s.boot = .waitPower))
  ∧ (∃ (s : State), (s.boot = .warm) ∧ (s.power.pk = 0) ∧ (s.pins.perst = false))
  ∧ (∃ (s : State), (s.boot = .cold) ∧ (s.fatal = false))
  ∧ (∃ (s : State), (s.boot = .ready) ∧ (s.fatal = false) ∧ (s.power.pk ≤ 2))
  ∧ (∃ (s : State), (s.boot = .ready) ∧ (s.fatal = false) ∧ (s.power.pk ≤ 2) ∧ (s.pins.perst = false))
  ∧ (∃ (s : State) (u : State), (s.boot = .ready) ∧ (s.fatal = false) ∧ (s.power.pk ≤ 2) ∧ (u.fatal = false) ∧ (u.power.pk = 3))
  ∧ (∃ (s : State) (u : State), (s.boot = .ready) ∧ (s.fatal = false) ∧ (s.power.pk ≤ 2) ∧ (u.fatal = false) ∧ (u.power.pk = 4)
      ∧ (u.boot ≠ .tripped)) :=
    ⟨⟨{ State.reset with pins := {} }, by decide +kernel⟩,
    ⟨up, by decide +kernel⟩,
    ⟨up, by decide +kernel⟩,
    ⟨{ up with boot := .cold, pins := {}, sec := { handOff := some 0 } }, 500000000, 0, by decide +kernel⟩,
    ⟨State.reset, by decide +kernel⟩,
    ⟨{ up with boot := .waitPower }, by decide +kernel⟩,
    ⟨{ up with boot := .warm }, by decide +kernel⟩,
    ⟨{ up with boot := .cold }, by decide +kernel⟩,
    ⟨up, by decide +kernel⟩,
    ⟨up, by decide +kernel⟩,
    ⟨up, { up with power := { pk := 3 } }, by decide +kernel⟩,
    ⟨up, { up with power := { pk := 4 } }, by decide +kernel⟩⟩

theorem witness_CoincidingPinEvents :
  (∃ (s : State), (s.pins.aux = true))
  ∧ (∃ (s : State), (s.boot = .cold ∨ s.boot = .waitPower) ∧ (s.fatal = false))
  ∧ (∃ (s : State), (s.boot = .ready) ∧ (s.fatal = false) ∧ (s.power.pk ≤ 2) ∧ (s.pins.perst = false))
  ∧ (∃ (s : State), (s.pins.pwrReq = false ∨ s.pins.pkgRst = true))
  ∧ (∃ (s : State), (s.pins.pwrGood = false))
  ∧ (∃ (c : Instr) (s : State) (t : State), (s.boot = .tripped) ∧ (s.pins.aux = true) ∧ (Sys2Proof.Machine.exec c s = .next t))
  ∧ (∃ (s : State) (t : State), (Sys2Proof.Machine.exec .v1p8AuxRemoved s = .next t)) :=
    ⟨⟨up, by decide +kernel⟩,
    ⟨{ up with boot := .cold }, by decide +kernel⟩,
    ⟨up, by decide +kernel⟩,
    ⟨State.reset, by decide +kernel⟩,
    ⟨State.reset, by decide +kernel⟩,
    ⟨.pkgRstNRelease, { up with boot := .tripped }, _, ⟨rfl, rfl, rfl⟩⟩,
    ⟨up, _, rfl⟩⟩

theorem witness_FatalStateIsKept :
  (∃ (c : Instr) (s : State) (t : State), (s.fatal = true) ∧ (s.pins.aux = true) ∧ (Sys2Proof.Machine.exec c s = .next t)) :=
    ⟨.pfFlr, { up with fatal := true }, _, ⟨rfl, rfl, rfl⟩⟩

theorem witness_MemoryAccessesReachTheirLine :
  (∃ (s : State) (die : Nat) (kind : Nat) (unit : Nat) (addr : Nat) (x : Nat) (gen : Stamp) (b : Bytes) (w : Bytes), (s.shapeOk)
      ∧ (s.drops die kind unit gen.gen = false) ∧ (s.native die addr = some x) ∧ (x / 2 ^ 36 < 24) ∧ ((s.dieAt (homeOf x)).fenced = false)
      ∧ (InTurn s die (homeOf x) 2 gen.seqNo) ∧ (w = b.take (128 - x % 128)))
  ∧ (∃ (s : State) (die : Nat) (kind : Nat) (unit : Nat) (addr : Nat) (x : Nat) (gen : Stamp) (b : Bytes) (w : Bytes), (s.shapeOk)
      ∧ (s.drops die kind unit gen.gen = false) ∧ (s.native die addr = some x) ∧ (x / 2 ^ 36 < 24) ∧ ((s.dieAt (homeOf x)).fenced = false)
      ∧ (InTurn s die (homeOf x) 2 gen.seqNo) ∧ (w = b.take (128 - x % 128)) ∧ (homeOf x = die))
  ∧ (∃ (s : State) (die : Nat) (kind : Nat) (unit : Nat) (addr : Nat) (x : Nat) (gen : Stamp) (b : Bytes) (w : Bytes), (s.shapeOk)
      ∧ (s.drops die kind unit gen.gen = false) ∧ (s.native die addr = some x) ∧ (x / 2 ^ 36 < 24) ∧ ((s.dieAt (homeOf x)).fenced = false)
      ∧ (InTurn s die (homeOf x) 2 gen.seqNo) ∧ (w = b.take (128 - x % 128)) ∧ (homeOf x ≠ die))
  ∧ (∃ (s : State) (die : Nat) (kind : Nat) (unit : Nat) (addr : Nat) (x : Nat) (gen : Stamp), (s.drops die kind unit gen.gen = false)
      ∧ (s.native die addr = some x) ∧ ((s.dieAt (homeOf x)).fenced = true ∨ (die ≠ homeOf x
      ∧ gen.seqNo ≠ (NMap.getD s.streams (streamKey die (homeOf x) 2) {}).expect)))
  ∧ (∃ (s : State) (die : Nat) (kind : Nat) (unit : Nat) (gen : Stamp), (s.drops die kind unit gen.gen = true))
  ∧ (∃ (s : State) (die : Nat) (kind : Nat) (unit : Nat) (addr : Nat) (x : Nat) (gen : Stamp) (op : AtomicOp) (w : Nat), (s.shapeOk)
      ∧ (s.drops die kind unit gen.gen = false) ∧ (s.native die addr = some x) ∧ (x / 2 ^ 36 < 24) ∧ ((s.dieAt (homeOf x)).fenced = false)
      ∧ (InTurn s die (homeOf x) 2 gen.seqNo) ∧ ((w = 64 ∧ op ≠ .lineAdd) ∨ (w = 128 ∧ op = .add) ∨ (w = 1024 ∧ op = .lineAdd)) ∧ (x % (w / 8) = 0))
  ∧ (∃ (s : State) (die : Nat) (kind : Nat) (unit : Nat) (addr : Nat) (x : Nat) (gen : Stamp) (op : AtomicOp) (w : Nat), (s.shapeOk)
      ∧ (s.drops die kind unit gen.gen = false) ∧ (s.native die addr = some x) ∧ (x / 2 ^ 36 < 24) ∧ ((s.dieAt (homeOf x)).fenced = false)
      ∧ (InTurn s die (homeOf x) 2 gen.seqNo) ∧ (atomicOk op w x = false)) :=
    ⟨⟨up, 7, 2, 0, 0x017FFFFFFFFF, 0x017FFFFFFFFF, {}, [1, 2], _, by refine ⟨?_, ?_, ?_, ?_, ?_, ?_, ?_⟩ <;> first | decide +kernel | rfl | (unfold State.shapeOk; decide +kernel)⟩,
    ⟨up, 7, 2, 0, 0x017FFFFFFFFF, 0x017FFFFFFFFF, {}, [1, 2], _, by refine ⟨?_, ?_, ?_, ?_, ?_, ?_, ?_, ?_⟩ <;> first | decide +kernel | rfl | (unfold State.shapeOk; decide +kernel)⟩,
    ⟨up, 0, 2, 0, 0x017FFFFFFFFF, 0x017FFFFFFFFF, {}, [1, 2], _, by refine ⟨?_, ?_, ?_, ?_, ?_, ?_, ?_, ?_⟩ <;> first | decide +kernel | rfl | (unfold State.shapeOk; decide +kernel)⟩,
    ⟨{ up with dies := up.dies.set 7 { fenced := true } }, 0, 2, 0, 0x017FFFFFFFFF, 0x017FFFFFFFFF, {}, by decide +kernel⟩,
    ⟨{ up with dies := List.replicate 8 { fenced := true } }, 0, 2, 0, {}, by decide +kernel⟩,
    ⟨up, 0, 2, 0, 0x017FFFFFFFF0, 0x017FFFFFFFF0, {}, .add, 128, by refine ⟨?_, ?_, ?_, ?_, ?_, ?_, ?_, ?_⟩ <;> first | decide +kernel | rfl | (unfold State.shapeOk; decide +kernel)⟩,
    ⟨up, 0, 2, 0, 0x017FFFFFFFF1, 0x017FFFFFFFF1, {}, .add, 128, by refine ⟨?_, ?_, ?_, ?_, ?_, ?_, ?_⟩ <;> first | decide +kernel | rfl | (unfold State.shapeOk; decide +kernel)⟩⟩

theorem witness_LinesAndRepairs :
  (∃ (s : State) (die : AddRoute) (line : Nat), (s.shapeOk) ∧ (die.dst < 8) ∧ (line < 131072)
      ∧ (s.drops die.src die.kind die.unit die.stamp.gen = false) ∧ ((s.dieAt die.dst).fenced = false)
      ∧ (InTurn s die.src die.dst 3 die.stamp.seqNo))
  ∧ (∃ (s : State) (die : AddRoute) (line : Nat), (s.shapeOk) ∧ (die.dst < 8) ∧ (line < 131072)
      ∧ (s.drops die.src die.kind die.unit die.stamp.gen = false) ∧ ((s.dieAt die.dst).fenced = false) ∧ (die.src ≠ die.dst)
      ∧ (die.stamp.seqNo ≠ (NMap.getD s.streams (streamKey die.src die.dst 3) {}).expect))
  ∧ (∃ (s : State) (die : AddRoute), (s.drops die.src die.kind die.unit die.stamp.gen = true))
  ∧ (∃ (s : State) (stack : Nat) (line : Nat), (s.shapeOk) ∧ (stack < 24)
      ∧ ((s.stackAt stack).selfRefresh = true ∨ line ≠ (s.stackAt stack).scrubLine))
  ∧ (∃ (s : State) (stack : Nat) (line : Nat), (s.shapeOk) ∧ (stack < 24) ∧ ((s.stackAt stack).selfRefresh = false)
      ∧ (line = (s.stackAt stack).scrubLine))
  ∧ (∃ (s : State) (stack : Nat) (line : Nat) (o : Nat) (holds : LineUse) (rep : Report) (n : Nat) (c : Instr), (s.shapeOk) ∧ (stack < 24)
      ∧ (o = originId (stack / 3) 0x06 (stack % 3)) ∧ ((c = .patrolScrub stack line 2 holds ∧ (s.stackAt stack).selfRefresh = false
      ∧ line = (s.stackAt stack).scrubLine) ∨ (c = .errorReport rep ∧ rep.found = .baseDie stack line n holds ∧ 4 ≤ n)))
  ∧ (∃ (rep : Report) (stack : Nat) (line : Nat) (n : Nat) (holds : LineUse), (rep.found = .baseDie stack line n holds) ∧ (n < 4))
  ∧ (∃ (s : State), (s.boot = .ready) ∧ (s.flash.repairs.length < 65536)) :=
    ⟨⟨up, { dst := 7 }, 131071, by refine ⟨?_, ?_, ?_, ?_, ?_, ?_⟩ <;> first | decide +kernel | rfl | (unfold State.shapeOk; decide +kernel)⟩,
    ⟨up, { src := 1, dst := 7, stamp := { seqNo := 1 } }, 131071, by refine ⟨?_, ?_, ?_, ?_, ?_, ?_, ?_⟩ <;> first | decide +kernel | rfl | (unfold State.shapeOk; decide +kernel)⟩,
    ⟨{ up with dies := List.replicate 8 { fenced := true } }, {}, by decide +kernel⟩,
    ⟨up, 23, 5, by refine ⟨?_, ?_, ?_⟩ <;> first | decide +kernel | rfl | (unfold State.shapeOk; decide +kernel)⟩,
    ⟨up, 23, 0, by refine ⟨?_, ?_, ?_, ?_⟩ <;> first | decide +kernel | rfl | (unfold State.shapeOk; decide +kernel)⟩,
    ⟨up, 23, 0, _, .unused, {}, 0, .patrolScrub 23 0 2 .unused, by refine ⟨?_, ?_, ?_, ?_⟩ <;> first | decide +kernel | rfl | (unfold State.shapeOk; decide +kernel) | exact Or.inl ⟨rfl, rfl, rfl⟩⟩,
    ⟨{ found := .baseDie 1 2 3 .unused }, 1, 2, 3, .unused, by decide +kernel⟩,
    ⟨up, by decide +kernel⟩⟩

theorem witness_SpineStreamsRun :
  (∃ (s : State) (m : SpineMsg) (x : Stream), (s.drops m.src m.kind m.unit m.gen = false) ∧ (s.path m.src m.dst = true) ∧ (m.src ≠ m.dst)
      ∧ (s.onFirstLeg m = false) ∧ (x = NMap.getD s.streams (streamKey m.src m.dst m.channel) {}) ∧ (m.seqNo = x.expect))
  ∧ (∃ (s : State) (m : SpineMsg) (x : Stream), (s.drops m.src m.kind m.unit m.gen = false) ∧ (s.path m.src m.dst = true) ∧ (m.src ≠ m.dst)
      ∧ (s.onFirstLeg m = false) ∧ (x = NMap.getD s.streams (streamKey m.src m.dst m.channel) {}) ∧ (m.seqNo ≠ x.expect))
  ∧ (∃ (s : State) (m : SpineMsg), (s.drops m.src m.kind m.unit m.gen = false) ∧ (s.path m.src m.dst = true) ∧ (s.onFirstLeg m = true))
  ∧ (∃ (s : State) (a : Nat) (b : Nat) (dir : Nat), ((s.spineAt a b).fenced = false) ∧ (dir < 2) ∧ ((s.spineAt a b).replays.length = 2)
      ∧ ((s.spineAt a b).replays.getD dir 0 < 8))
  ∧ (∃ (s : State) (a : Nat) (b : Nat) (dir : Nat), ((s.spineAt a b).fenced = false) ∧ (dir < 2) ∧ ((s.spineAt a b).replays.length = 2)
      ∧ (8 ≤ (s.spineAt a b).replays.getD dir 0))
  ∧ (∃ (s : State) (a : Nat) (b : Nat) (dir : Nat) (lane : Nat), ((s.spineAt a b).fenced = false)
      ∧ (16 ≤ (NMap.getD ((s.spineAt a b).laneErrs.getD dir []) lane []).length) ∧ (dir < (s.spineAt a b).spares.length)
      ∧ (dir < (s.spineAt a b).width.length))
  ∧ (∃ (s : State) (a : Nat) (b : Nat), ((s.spineAt a b).retraining = true) ∧ ((s.spineAt a b).fenced = false) ∧ (a < 8) ∧ (b < 8) ∧ (a ≠ b)) :=
    ⟨⟨up, { dst := 1, kind := 2 }, {}, by decide +kernel⟩,
    ⟨up, { dst := 1, kind := 2, seqNo := 1 }, {}, by decide +kernel⟩,
    ⟨{ up with spine := [(1, { fenced := true }), (2, { dirs := [{ replay := [{ dst := 1, kind := 2 }] }, {}] })] }, { dst := 1, kind := 2 }, by decide +kernel⟩,
    ⟨up, 0, 1, 1, by decide +kernel⟩,
    ⟨{ up with spine := [(1, { replays := [8, 8] })] }, 0, 1, 1, by decide +kernel⟩,
    ⟨{ up with spine := [(1, { laneErrs := [[(0, List.replicate 16 0)], []] })] }, 0, 1, 0, 0, by decide +kernel⟩,
    ⟨{ up with spine := [(1, { retraining := true })] }, 0, 1, by decide +kernel⟩⟩

theorem witness_UnitsAreWatchedLostAndReturned :
  (∃ (s : State) (die : Nat) (p : Nat) (t : Word), (s.shapeOk) ∧ (s.boot = .ready) ∧ (die < 8) ∧ ((s.dieAt die).fenced = false) ∧ (p < 100)
      ∧ (((s.reach die t).counter die).toNat % 10000 = 0))
  ∧ (∃ (s : State) (die : Nat) (p : Nat), (s.shapeOk) ∧ (die < 8) ∧ (p < 100) ∧ ((s.quireAt die p).fenced = false))
  ∧ (∃ (s : State) (die : Nat) (p : Nat) (t : Word), (s.shapeOk) ∧ (die < 8) ∧ (p < 100) ∧ (s.probed die p = true)
      ∧ ((s.quireAt die p).answered = false) ∧ (10000 ≤ ((s.reach die t).counter die - (s.quireAt die p).probedAt).toNat))
  ∧ (∃ (s : State) (die : Nat) (p : Nat), (s.shapeOk) ∧ (die < 8) ∧ (p < 100) ∧ ((s.quireAt die p).acksDue = true))
  ∧ (∃ (s : State) (die : Nat) (far : Nat) (t : Word), ((s.dieAt die).fenced = false) ∧ ((s.spineAt die far).fenced = false) ∧ (die ≠ far)
      ∧ ((s.spineAt die far).retraining = false) ∧ (((s.reach die t).counter die).toNat % 1000 = 0))
  ∧ (∃ (s : State) (die : Nat) (far : Nat), ((s.dieAt die).fenced = false) ∧ ((s.spineAt die far).fenced = false) ∧ (die ≠ far))
  ∧ (∃ (s : State) (die : Nat) (far : Nat) (t : Word), ((s.dieAt die).fenced = false) ∧ ((s.spineAt die far).fenced = false) ∧ (die ≠ far)
      ∧ ((s.spineAt die far).retraining = false) ∧ (1000 ≤ ((s.reach die t).counter die - (s.spineAt die far).since.getD (endOf die far) 0).toNat)
      ∧ ((s.spineAt die far).heard.getD (endOf die far) true = false) ∧ (3 ≤ (s.spineAt die far).misses.getD (endOf die far) 0 + 1))
  ∧ (∃ (s : State) (id : Nat) (c : Cmd), (Live s id 0x4F c) ∧ (c.phase = .admitted)
      ∧ ((∀ x ∈ s.cmds, x.1 < id → x.2.opcode = 0x4F → x.2.returnUnit ≠ c.returnUnit)) ∧ (s.unitFenced (c.f 16 1) (c.f 17 1) (c.f 18 1) = true)
      ∧ ((s.dieAt (c.f 16 1)).fenced = false))
  ∧ (∃ (s : State) (id : Nat) (c : Cmd), (Live s id 0x4F c) ∧ (c.phase = .admitted)
      ∧ ((∀ x ∈ s.cmds, x.1 < id → x.2.opcode = 0x4F → x.2.returnUnit ≠ c.returnUnit)) ∧ (s.unitFenced (c.f 16 1) (c.f 17 1) (c.f 18 1) = false))
  ∧ (∃ (s : State) (id : Nat) (c : Cmd), (Live s id 0x4F c) ∧ (c.phase = .admitted)
      ∧ ((∀ x ∈ s.cmds, x.1 < id → x.2.opcode = 0x4F → x.2.returnUnit ≠ c.returnUnit)) ∧ (s.unitFenced (c.f 16 1) (c.f 17 1) (c.f 18 1) = true)
      ∧ ((s.dieAt (c.f 16 1)).fenced = true))
  ∧ (∃ (s : State) (id : Nat) (v : Nat) (c : Cmd), (Live s id 0x4F c) ∧ (c.phase = .started) ∧ (v ≠ 0))
  ∧ (∃ (s : State) (id : Nat) (c : Cmd), (Live s id 0x4F c) ∧ (c.phase = .started) ∧ (c.f 17 1 = 0) ∧ (s.shapeOk) ∧ (c.f 16 1 < 8)
      ∧ (c.f 18 1 < 100))
  ∧ (∃ (s : State) (id : Nat) (c : Cmd), (Live s id 0x4F c) ∧ (c.phase = .started) ∧ (c.f 17 1 ≠ 0))
  ∧ (∃ (s : State) (die : Nat), (s.shapeOk) ∧ (0 < die) ∧ (die < 8) ∧ ((s.dieAt die).fenced = false)) :=
    ⟨⟨up, 7, 99, 0, by refine ⟨?_, ?_, ?_, ?_, ?_, ?_⟩ <;> first | decide +kernel | rfl | (unfold State.shapeOk; decide +kernel)⟩,
    ⟨up, 7, 99, by unfold State.shapeOk; decide +kernel⟩,
    ⟨{ up with dies := List.replicate 8 { quires := List.replicate 100 { answered := false } } }, 7, 99, 10000, by refine ⟨?_, ?_, ?_, ?_, ?_, ?_⟩ <;> first | decide +kernel | rfl | (unfold State.shapeOk; decide +kernel)⟩,
    ⟨{ up with dies := List.replicate 8 { quires := List.replicate 100 { acksDue := true } } }, 7, 99, by unfold State.shapeOk; decide +kernel⟩,
    ⟨up, 0, 7, 0, by decide +kernel⟩,
    ⟨up, 0, 7, by decide +kernel⟩,
    ⟨{ up with spine := [(7, { heard := [false, false], misses := [2, 2] })] }, 0, 7, 1000, by decide +kernel⟩,
    ⟨{ one (cm 0x4f .admitted [(18, 1, 99)]) with dies := List.replicate 8 { quires := List.replicate 100 { fenced := true } } }, 1, cm 0x4f .admitted [(18, 1, 99)], by decide +kernel⟩,
    ⟨one (cm 0x4f .admitted [(18, 1, 99)]), 1, cm 0x4f .admitted [(18, 1, 99)], by decide +kernel⟩,
    ⟨{ one (cm 0x4f .admitted [(18, 1, 99)]) with dies := List.replicate 8 { fenced := true, quires := List.replicate 100 { fenced := true } } }, 1, cm 0x4f .admitted [(18, 1, 99)], by decide +kernel⟩,
    ⟨one (cm 0x4f .started [(18, 1, 99)]), 1, 1, cm 0x4f .started [(18, 1, 99)], by decide +kernel⟩,
    ⟨one (cm 0x4f .started [(16, 1, 7), (18, 1, 99)]), 1, cm 0x4f .started [(16, 1, 7), (18, 1, 99)], by unfold State.shapeOk; decide +kernel⟩,
    ⟨one (cm 0x4f .started [(17, 1, 1), (18, 1, 7)]), 1, cm 0x4f .started [(17, 1, 1), (18, 1, 7)], by decide +kernel⟩,
    ⟨up, 7, by unfold State.shapeOk; decide +kernel⟩⟩

theorem witness_SharesDivideAResource :
  (∃ (s : State) (q : Nat) (part : Nat) (x : ResQueue), (s.nextAt q x = some part))
  ∧ (∃ (s : State) (q : Nat) (part : Nat) (x : ResQueue) (served : List Nat) (left : List Nat) (d : Nat), (takeCovered (s.budget part (regulatorOf q).1 (regulatorOf q).2) (NMap.getD x.waiting part []) (NMap.getD x.deficit part 0 + 256 * s.shareAt q part) = (served, left, d)))
  ∧ (∃ (s : State) (q : Nat) (part : Nat) (x : ResQueue) (served : List Nat) (left : List Nat) (d : Nat) (p : _), (takeCovered (s.budget part (regulatorOf q).1 (regulatorOf q).2) (NMap.getD x.waiting part []) (NMap.getD x.deficit part 0 + 256 * s.shareAt q part) = (served, left, d))
      ∧ (p ≠ part))
  ∧ (∃ (s : State) (q : Nat) (part : Nat) (x : ResQueue) (served : List Nat) (left : List Nat) (d : Nat) (p : _), (takeCovered (s.budget part (regulatorOf q).1 (regulatorOf q).2) (NMap.getD x.waiting part []) (NMap.getD x.deficit part 0 + 256 * s.shareAt q part) = (served, left, d))
      ∧ (NMap.get? s.parts part = some p))
  ∧ (∃ (s : State) (q : Nat) (part : Nat) (n : Nat), (n ≠ 0) ∧ (s.passes part (regulatorOf q).1 (regulatorOf q).2 = false)
      ∧ ((∀ w ∈ (NMap.getD s.queues q {}).waiting, s.passes w.1 (regulatorOf q).1 (regulatorOf q).2 = false)))
  ∧ (∃ (budget : Option Int) (ws : List Nat) (d n : Nat) (rest : List Nat), (takeCovered budget ws d).2.1 = n :: rest) :=
    ⟨⟨part, 0, 0, { waiting := [(0, [100, 9000])], deficit := [(0, 7)] }, by decide +kernel⟩,
    ⟨part, 0, 0, { waiting := [(0, [100, 9000])], deficit := [(0, 7)] }, _, _, _, rfl⟩,
    ⟨part, 0, 0, { waiting := [(0, [100, 9000])], deficit := [(0, 7)] }, _, _, _, 7, by refine ⟨?_, ?_⟩ <;> first | decide +kernel | rfl | (unfold State.shapeOk; decide +kernel)⟩,
    ⟨part, 0, 0, { waiting := [(0, [100, 9000])], deficit := [(0, 7)] }, _, _, _, { function := 1, groups := 1 }, by refine ⟨?_, ?_⟩ <;> first | decide +kernel | rfl | (unfold State.shapeOk; decide +kernel)⟩,
    ⟨{ up with parts := [(0, { function := 1, groups := 1, sets := [(0x2000, 5)], buckets := [(0, -1)] })] }, 0, 0, 64, by decide +kernel⟩,
    ⟨none, [100, 9000, 1], 500, 9000, [1], rfl⟩⟩

theorem witness_LinksTrainAndSecure :
  (∃ (s : State) (link : Nat), (s.shapeOk) ∧ (link < 8) ∧ ((s.linkAt link).retraining = true) ∧ ((s.linkAt link).testMode = 0)
      ∧ ((s.linkAt link).trained = true))
  ∧ (∃ (s : State) (link : Nat), (s.shapeOk) ∧ (link < 8) ∧ ((s.linkAt link).retraining = true) ∧ ((s.linkAt link).testMode = 0)
      ∧ ((s.linkAt link).trained = false))
  ∧ (∃ (s : State) (link : Nat) (t : Word), (s.shapeOk) ∧ (link < 8) ∧ ((s.linkAt link).retraining = true)
      ∧ (1000000 ≤ ((s.reach link t).counter link - (s.linkAt link).retrainAt).toNat))
  ∧ (∃ (s : State) (link : Nat) (t : Word), (s.shapeOk) ∧ (link < 8) ∧ ((s.linkAt link).down = true) ∧ ((s.linkAt link).retraining = false)
      ∧ ((s.linkAt link).testMode = 0) ∧ (100000000 ≤ ((s.reach link t).counter link - (s.linkAt link).retrainAt).toNat))
  ∧ (∃ (s : State) (link : Nat) (m : Msg), (LinkServes s link) ∧ (s.shapeOk) ∧ (m.type = 0x01))
  ∧ (∃ (s : State) (link : Nat) (svn : Nat) (pe : Bool) (ch : Bool) (un : Bool), (LinkServes s link) ∧ (s.shapeOk)
      ∧ ((s.linkAt link).secActive = false) ∧ ((s.linkAt link).secEnable = true) ∧ (pe = true) ∧ (ch = true) ∧ ((s.linkAt link).minPeerSvn ≤ svn)
      ∧ (un = false))
  ∧ (∃ (s : State) (link : Nat) (svn : Nat) (pe : Bool) (ch : Bool) (un : Bool) (f : _), (LinkServes s link) ∧ (s.shapeOk)
      ∧ ((s.linkAt link).secActive = false) ∧ (sessionFail (s.linkAt link) pe ch svn un = some f))
  ∧ (∃ (s : State) (link : Nat) (m : Msg), (LinkServes s link) ∧ (m.type = 0x01) ∧ ((s.linkAt link).secEnable = true)
      ∧ ((s.linkAt link).secActive = false) ∧ (s.shapeOk))
  ∧ (∃ (s : State) (link : Nat), (s.shapeOk) ∧ (link < 8) ∧ ((s.linkAt link).secActive = true)
      ∧ ((∃ n ∈ (s.linkAt link).sessionMsgs, 2 ^ 48 ≤ n))) :=
    ⟨⟨{ up with links := List.replicate 8 { retraining := true, trained := true } }, 7, by unfold State.shapeOk; decide +kernel⟩,
    ⟨{ up with links := List.replicate 8 { retraining := true } }, 7, by unfold State.shapeOk; decide +kernel⟩,
    ⟨{ up with links := List.replicate 8 { retraining := true } }, 7, 1000000, by unfold State.shapeOk; decide +kernel⟩,
    ⟨{ up with links := List.replicate 8 { down := true } }, 7, 100000000, by unfold State.shapeOk; decide +kernel⟩,
    ⟨{ up with links := List.replicate 8 { trained := true } }, 7, { type := 1 }, by unfold State.shapeOk; decide +kernel⟩,
    ⟨{ up with links := List.replicate 8 { trained := true, secEnable := true } }, 7, 0, true, true, false, by unfold State.shapeOk; decide +kernel⟩,
    ⟨{ up with links := List.replicate 8 { trained := true, secEnable := true } }, 7, 0, false, true, false, 1, by unfold State.shapeOk; decide +kernel⟩,
    ⟨{ up with links := List.replicate 8 { trained := true, secEnable := true } }, 7, { type := 1 }, by refine ⟨?_, ?_, ?_, ?_, ?_⟩ <;> first | decide +kernel | rfl | (unfold State.shapeOk; decide +kernel)⟩,
    ⟨{ up with links := List.replicate 8 { trained := true, secActive := true, sessionMsgs := [2 ^ 48, 0] } }, 7, by unfold State.shapeOk; decide +kernel⟩⟩

theorem witness_LinkFramesAndMessages :
  (∃ (s : State) (link : Nat) (vc : Nat) (seqNo : Nat) (ok : Bool), (LinkServes s link) ∧ (s.shapeOk) ∧ (vc < 4) ∧ (ok = true)
      ∧ (seqNo = (s.linkAt link).rxExpect) ∧ ((s.linkAt link).secActive = false))
  ∧ (∃ (s : State) (link : Nat) (vc : Nat) (seqNo : Nat) (ok : Bool), (LinkServes s link) ∧ (s.shapeOk) ∧ (vc < 4)
      ∧ (ok = false ∨ seqNo ≠ (s.linkAt link).rxExpect))
  ∧ (∃ (s : State) (link : Nat) (seqNo : Nat), (LinkServes s link) ∧ (s.shapeOk) ∧ (seqNo = (s.linkAt link).rxExpect))
  ∧ (∃ (s : State) (link : Nat) (seqNo : Nat) (ack : Nat), (LinkServes s link) ∧ (s.shapeOk) ∧ (seqNo = (s.linkAt link).rxExpect)
      ∧ (ack % 4096 ≠ (s.linkAt link).acked ∨ (s.linkAt link).replayFails < 8))
  ∧ (∃ (s : State) (link : Nat) (seqNo : Nat) (ack : Nat), (LinkServes s link) ∧ (s.shapeOk) ∧ (seqNo = (s.linkAt link).rxExpect)
      ∧ (ack % 4096 = (s.linkAt link).acked) ∧ (8 ≤ (s.linkAt link).replayFails))
  ∧ (∃ (s : State) (link : Nat) (t : Word), (LinkServes s link) ∧ (s.shapeOk) ∧ (0 < (s.linkAt link).accepted)
      ∧ (50 ≤ ((s.reach link t).counter link - (s.linkAt link).lastControl).toNat))
  ∧ (∃ (s : State) (link : Nat), (LinkServes s link) ∧ (s.shapeOk))
  ∧ (∃ (s : State) (link : Nat) (out : Nat) (m : Msg) (g : Group), (LinkServes s link) ∧ (collType m.type = true)
      ∧ (NMap.get? s.groups m.group = some g) ∧ (m.dstRank ≠ g.rank) ∧ (s.routeOf m = some out))
  ∧ (∃ (s : State) (link : Nat) (vc : Nat) (m : Msg), (LinkServes s link) ∧ ((vcOf m.type ≠ some vc ∨ (collType m.type = true
      ∧ NMap.get? s.groups m.group = none)))) :=
    ⟨⟨{ up with links := List.replicate 8 { trained := true } }, 7, 3, 0, true, by unfold State.shapeOk; decide +kernel⟩,
    ⟨{ up with links := List.replicate 8 { trained := true } }, 7, 3, 1, true, by unfold State.shapeOk; decide +kernel⟩,
    ⟨{ up with links := List.replicate 8 { trained := true } }, 7, 0, by unfold State.shapeOk; decide +kernel⟩,
    ⟨{ up with links := List.replicate 8 { trained := true } }, 7, 0, 0, by unfold State.shapeOk; decide +kernel⟩,
    ⟨{ up with links := List.replicate 8 { trained := true, replayFails := 8 } }, 7, 0, 4095, by unfold State.shapeOk; decide +kernel⟩,
    ⟨{ up with links := List.replicate 8 { trained := true, accepted := 1 } }, 7, 50, by unfold State.shapeOk; decide +kernel⟩,
    ⟨{ up with links := List.replicate 8 { trained := true } }, 7, by unfold State.shapeOk; decide +kernel⟩,
    ⟨{ up with links := List.replicate 8 { trained := true }, groups := [(5, { part := 0, rank := 0, gen := 0, members := [(0, 255), (1, 3)] })] }, 2, 3, { type := 4, group := 5, dstRank := 1 }, { part := 0, rank := 0, gen := 0, members := [(0, 255), (1, 3)] }, by decide +kernel⟩,
    ⟨{ up with links := List.replicate 8 { trained := true } }, 2, 0, { type := 4, group := 5 }, by decide +kernel⟩⟩

theorem witness_CollectiveMessagesAct :
  (∃ (s : State) (id : Nat) (c : Cmd) (g : Group) (q : _), (q ∈ [(Instr.collectiveAllReduce id, 0), (Instr.collectiveReduceScatter id, 1), (Instr.collectiveAllGather id, 2), (Instr.collectiveBroadcast id, 3)])
      ∧ (Live s id 0x07 c) ∧ (c.coll = none) ∧ (NMap.get? s.groups (c.f 16 2) = some g) ∧ (s.eligible id c = true) ∧ (s.unitAhead id c = false)
      ∧ (s.downLink c = none) ∧ (clOp c = q.2))
  ∧ (∃ (s : State) (link : Nat) (m : Msg) (g : Group), (LinkServes s link) ∧ (m.type = 0x02) ∧ (NMap.get? s.groups m.group = some g)
      ∧ (m.dstRank = g.rank) ∧ ((s.fprintFor m = none ∨ ∃ x, s.fprintFor m = some x ∧ x.2.phase = .admitted)))
  ∧ (∃ (s : State) (link : Nat) (id : Nat) (m : Msg) (c : Cmd) (k : Coll) (g : Group), (MemberRuns s link m id c k g) ∧ (m.type = 0x02)
      ∧ (m.aux ≠ fprintOf (fprintInput c g k.attempt)))
  ∧ (∃ (s : State) (link : Nat) (id : Nat) (m : Msg) (c : Cmd) (k : Coll) (g : Group) (e : _), (MemberRuns s link m id c k g) ∧ (m.type = 0x02)
      ∧ (k.fprints.any (fun p => p.1 == m.srcRank) = false) ∧ (m.aux = fprintOf (fprintInput c g k.attempt)) ∧ (clOp c = 2)
      ∧ (g.members[m.srcRank]? = some e))
  ∧ (∃ (s : State) (link : Nat) (id : Nat) (m : Msg) (c : Cmd) (k : Coll) (g : Group) (e : _), (MemberRuns s link m id c k g) ∧ (m.type = 0x03)
      ∧ (clReduces c = true) ∧ (m.srcRank ≠ g.rank) ∧ (k.fprints.any (fun p => p.1 == m.srcRank) = true)
      ∧ (k.grantOf m.srcRank < min m.aux (segCount (chunkLen (clCount c) g.members.length m.srcRank))) ∧ (g.members[m.srcRank]? = some e))
  ∧ (∃ (s : State) (link : Nat) (id : Nat) (m : Msg) (c : Cmd) (k : Coll) (g : Group), (MemberRuns s link m id c k g) ∧ (m.type = 0x04)
      ∧ (clReduces c = true) ∧ (m.segment < k.grantOf g.rank) ∧ (k.fprints.any (fun p => p.1 == m.srcRank && decide (m.source < p.2)) = true)
      ∧ (k.seen.contains (m.srcRank, m.segment, m.source) = false)
      ∧ ((codesOf (clElem c) m.payload).length = segLen (chunkLen (clCount c) g.members.length g.rank) m.segment))
  ∧ (∃ (s : State) (link : Nat) (id : Nat) (m : Msg) (c : Cmd) (k : Coll) (g : Group), (MemberRuns s link m id c k g) ∧ (m.type = 0x05)
      ∧ (m.srcRank ≠ g.rank) ∧ (m.srcRank < g.members.length) ∧ ((clOp c = 0 ∨ clOp c = 2 ∨ (clOp c = 3 ∧ m.srcRank = clRoot c)))
      ∧ ((codesOf (clElem c) m.payload).length = segLen (clRun c g.members.length m.srcRank).2 m.segment)
      ∧ ((codesOf (clElem c) m.payload).all (fun v => (elemInt (clElem c) v).isSome) = true))
  ∧ (∃ (s : State) (link : Nat) (id : Nat) (m : Msg) (c : Cmd) (k : Coll) (g : Group), (MemberRuns s link m id c k g) ∧ (m.type = 0x06)
      ∧ (k.dones.contains m.srcRank = false)) :=
    ⟨⟨{ one (cm 0x7 .admitted [(16, 2, 5), (18, 1, 3), (20, 1, 0x10), (21, 1, 1), (64, 8, 8)]) with groups := [(5, { part := 0, rank := 0, gen := 0, members := [(0, 255), (1, 3)] })] }, 1, cm 0x7 .admitted [(16, 2, 5), (18, 1, 3), (20, 1, 0x10), (21, 1, 1), (64, 8, 8)], { part := 0, rank := 0, gen := 0, members := [(0, 255), (1, 3)] }, (Instr.collectiveBroadcast 1, 3), by decide +kernel⟩,
    ⟨{ up with links := List.replicate 8 { trained := true }, groups := [(5, { part := 0, rank := 0, gen := 0, members := [(0, 255), (1, 3)] })] }, 3, { type := 2, group := 5, srcRank := 1 }, { part := 0, rank := 0, gen := 0, members := [(0, 255), (1, 3)] }, by refine ⟨?_, ?_, ?_, ?_, ?_⟩ <;> first | decide +kernel | rfl | (unfold State.shapeOk; decide +kernel) | exact Or.inl rfl⟩,
    ⟨{ up with links := List.replicate 8 { trained := true }, groups := [(5, { part := 0, rank := 0, gen := 0, members := [(0, 255), (1, 3)] })], parts := [(0, { function := 1, groups := 1 })], cmds := [(1, { cm 0x07 .started [(16, 2, 5), (18, 1, 0), (20, 1, 0x10), (21, 1, 1), (64, 8, 8)] with coll := some {} })] }, 3, 1, { type := 2, group := 5, srcRank := 1, aux := fprintOf (fprintInput ({ cm 0x07 .started [(16, 2, 5), (18, 1, 0), (20, 1, 0x10), (21, 1, 1), (64, 8, 8)] with coll := some {} }) { part := 0, rank := 0, gen := 0, members := [(0, 255), (1, 3)] } 0) + 1 }, { cm 0x07 .started [(16, 2, 5), (18, 1, 0), (20, 1, 0x10), (21, 1, 1), (64, 8, 8)] with coll := some {} }, {}, { part := 0, rank := 0, gen := 0, members := [(0, 255), (1, 3)] }, by refine ⟨⟨⟨?_, ?_⟩, rfl, rfl, rfl, rfl, rfl, rfl, rfl⟩, rfl, Nat.succ_ne_self _⟩ <;> decide +kernel⟩,
    ⟨{ up with links := List.replicate 8 { trained := true }, groups := [(5, { part := 0, rank := 0, gen := 0, members := [(0, 255), (1, 3)] })], parts := [(0, { function := 1, groups := 1 })], cmds := [(1, { cm 0x07 .started [(16, 2, 5), (18, 1, 2), (20, 1, 0x10), (21, 1, 1), (64, 8, 8)] with coll := some {} })] }, 3, 1, { type := 2, group := 5, srcRank := 1, aux := fprintOf (fprintInput ({ cm 0x07 .started [(16, 2, 5), (18, 1, 2), (20, 1, 0x10), (21, 1, 1), (64, 8, 8)] with coll := some {} }) { part := 0, rank := 0, gen := 0, members := [(0, 255), (1, 3)] } 0) }, { cm 0x07 .started [(16, 2, 5), (18, 1, 2), (20, 1, 0x10), (21, 1, 1), (64, 8, 8)] with coll := some {} }, {}, { part := 0, rank := 0, gen := 0, members := [(0, 255), (1, 3)] }, (1, 3), by refine ⟨⟨⟨?_, ?_⟩, rfl, rfl, rfl, rfl, rfl, rfl, rfl⟩, rfl, ?_, rfl, ?_, rfl⟩ <;> decide +kernel⟩,
    ⟨{ up with links := List.replicate 8 { trained := true }, groups := [(5, { part := 0, rank := 0, gen := 0, members := [(0, 255), (1, 3)] })], parts := [(0, { function := 1, groups := 1 })], cmds := [(1, { cm 0x07 .started [(16, 2, 5), (18, 1, 0), (20, 1, 0x10), (21, 1, 1), (64, 8, 8)] with coll := some { fprints := [(1, 1)] } })] }, 3, 1, { type := 3, group := 5, srcRank := 1, aux := 1 }, { cm 0x07 .started [(16, 2, 5), (18, 1, 0), (20, 1, 0x10), (21, 1, 1), (64, 8, 8)] with coll := some { fprints := [(1, 1)] } }, { fprints := [(1, 1)] }, { part := 0, rank := 0, gen := 0, members := [(0, 255), (1, 3)] }, (1, 3), by decide +kernel⟩,
    ⟨{ up with links := List.replicate 8 { trained := true }, groups := [(5, { part := 0, rank := 0, gen := 0, members := [(0, 255), (1, 3)] })], parts := [(0, { function := 1, groups := 1 })], cmds := [(1, { cm 0x07 .started [(16, 2, 5), (18, 1, 0), (20, 1, 0x10), (21, 1, 1), (64, 8, 8)] with coll := some { granted := [(0, 1)], fprints := [(1, 1)] } })] }, 3, 1, { type := 4, group := 5, srcRank := 1, payload := List.replicate 8 0 }, { cm 0x07 .started [(16, 2, 5), (18, 1, 0), (20, 1, 0x10), (21, 1, 1), (64, 8, 8)] with coll := some { granted := [(0, 1)], fprints := [(1, 1)] } }, { granted := [(0, 1)], fprints := [(1, 1)] }, { part := 0, rank := 0, gen := 0, members := [(0, 255), (1, 3)] }, by decide +kernel⟩,
    ⟨{ up with links := List.replicate 8 { trained := true }, groups := [(5, { part := 0, rank := 0, gen := 0, members := [(0, 255), (1, 3)] })], parts := [(0, { function := 1, groups := 1 })], cmds := [(1, { cm 0x07 .started [(16, 2, 5), (18, 1, 0), (20, 1, 0x10), (21, 1, 1), (64, 8, 8)] with coll := some {} })] }, 3, 1, { type := 5, group := 5, srcRank := 1, payload := List.replicate 8 0 }, { cm 0x07 .started [(16, 2, 5), (18, 1, 0), (20, 1, 0x10), (21, 1, 1), (64, 8, 8)] with coll := some {} }, {}, { part := 0, rank := 0, gen := 0, members := [(0, 255), (1, 3)] }, by decide +kernel⟩,
    ⟨{ up with links := List.replicate 8 { trained := true }, groups := [(5, { part := 0, rank := 0, gen := 0, members := [(0, 255), (1, 3)] })], parts := [(0, { function := 1, groups := 1 })], cmds := [(1, { cm 0x07 .started [(16, 2, 5), (18, 1, 0), (20, 1, 0x10), (21, 1, 1), (64, 8, 8)] with coll := some {} })] }, 3, 1, { type := 6, group := 5, srcRank := 1 }, { cm 0x07 .started [(16, 2, 5), (18, 1, 0), (20, 1, 0x10), (21, 1, 1), (64, 8, 8)] with coll := some {} }, {}, { part := 0, rank := 0, gen := 0, members := [(0, 255), (1, 3)] }, by decide +kernel⟩⟩

theorem witness_ReductionIsExact :
  (∃ (m : NMap Nat) (slot : Nat) (e : Nat) (i : Int), (i.natAbs < 2 ^ 320)
      ∧ ((∀ k < 5, -(2 ^ 126) < limbInt (NMap.getD m (limbLane slot e k) 0) ∧ limbInt (NMap.getD m (limbLane slot e k) 0) < 2 ^ 126
      ∧ NMap.getD m (limbLane slot e k) 0 < 2 ^ 128)))
  ∧ (∃ (i : Int), (i.natAbs < 2 ^ 320))
  ∧ (∃ (i : Int), (i.natAbs < 2 ^ 320))
  ∧ (∃ (m : NMap Nat) (slot : Nat) (e : Nat) (i : Int), (i.natAbs < 2 ^ 320) ∧ ((accValue m slot e).natAbs < 2 ^ 320))
  ∧ (∃ (slot : Nat) (e : Nat) (i : Int) (p : Nat) (d : Nat), (i.natAbs < 2 ^ 320) ∧ (e < 4096) ∧ (d < 4096) ∧ ((p, d) ≠ (slot, e)))
  ∧ (∃ (a : Nat × Nat) (old : Int), (a.1 = (old % 255).toNat))
  ∧ (∃ (a : Nat × Nat) (old : Int), (a.1 = (old % 255).toNat) ∧ (0 < a.2))
  ∧ (∃ (e : Nat) (vals : List Int) (v : Int), (vals.length ≤ 4096) ∧ (vals[e]? = some v))
  ∧ (∃ (e : Nat) (codes : List Nat) (v : Nat), (codes[e]? = some v)) :=
    ⟨⟨[], 0, 0, -1, by decide +kernel⟩,
    ⟨-1, by decide +kernel⟩,
    ⟨-1, by decide +kernel⟩,
    ⟨[], 0, 0, -1, by decide +kernel⟩,
    ⟨0, 0, -1, 0, 1, by decide +kernel⟩,
    ⟨(1, 1), 1, by decide +kernel⟩,
    ⟨(1, 1), 1, by decide +kernel⟩,
    ⟨0, [1], 1, by decide +kernel⟩,
    ⟨0, [1], 1, by decide +kernel⟩⟩

theorem witness_CollectivesEndEarly :
  (∃ (s : State) (link : Nat) (id : Nat) (m : Msg) (c : Cmd) (k : Coll) (g : Group), (MemberRuns s link m id c k g) ∧ (m.type = 0x07)
      ∧ (m.final = false))
  ∧ (∃ (s : State) (link : Nat) (id : Nat) (m : Msg) (c : Cmd) (k : Coll) (g : Group), (MemberRuns s link m id c k g) ∧ (m.type = 0x07)
      ∧ (m.final = true) ∧ (m.aux % 65536 ≠ E_COLL_MISMATCH))
  ∧ (∃ (s : State) (id : Nat) (c : Cmd), (s.cmd? id = some c) ∧ (c.victimKills < s.setting c.owner 0x0010 0))
  ∧ (∃ (s : State) (id : Nat) (q : Nat) (t : Word) (c : Cmd) (k : Coll) (g : Group), (s.serving = true) ∧ (s.cmd? id = some c)
      ∧ (c.opcode = 0x07) ∧ (c.phase = .started) ∧ (c.coll = some k) ∧ (NMap.get? s.groups (c.f 16 2) = some g)
      ∧ (g.others.find? (missingFrom c k g) = some q) ∧ (c.f 72 4 * 100000 ≤ ((s.reach c.home t).counter c.home - k.lastMsg).toNat))
  ∧ (∃ (s : State) (id : Nat) (t : Word) (g0 : Word) (c : Cmd) (k : Coll) (g : Group), (s.serving = true) ∧ (s.cmd? id = some c)
      ∧ (c.opcode = 0x07) ∧ (c.phase = .started) ∧ (c.coll = some k) ∧ (k.grace = some g0) ∧ (k.sentDone = false)
      ∧ (NMap.get? s.groups (c.f 16 2) = some g) ∧ (s.setting c.owner 0x0011 0 * 100 ≤ ((s.reach c.home t).counter c.home - g0).toNat)) :=
    ⟨⟨{ up with links := List.replicate 8 { trained := true }, groups := [(5, { part := 0, rank := 0, gen := 0, members := [(0, 255), (1, 3)] })], parts := [(0, { function := 1, groups := 1 })], cmds := [(1, { cm 0x07 .started [(16, 2, 5), (18, 1, 0), (20, 1, 0x10), (21, 1, 1), (64, 8, 8)] with coll := some {} })] }, 3, 1, { type := 7, group := 5, srcRank := 1 }, { cm 0x07 .started [(16, 2, 5), (18, 1, 0), (20, 1, 0x10), (21, 1, 1), (64, 8, 8)] with coll := some {} }, {}, { part := 0, rank := 0, gen := 0, members := [(0, 255), (1, 3)] }, by decide +kernel⟩,
    ⟨{ up with links := List.replicate 8 { trained := true }, groups := [(5, { part := 0, rank := 0, gen := 0, members := [(0, 255), (1, 3)] })], parts := [(0, { function := 1, groups := 1 })], cmds := [(1, { cm 0x07 .started [(16, 2, 5), (18, 1, 0), (20, 1, 0x10), (21, 1, 1), (64, 8, 8)] with coll := some {} })] }, 3, 1, { type := 7, group := 5, srcRank := 1, final := true }, { cm 0x07 .started [(16, 2, 5), (18, 1, 0), (20, 1, 0x10), (21, 1, 1), (64, 8, 8)] with coll := some {} }, {}, { part := 0, rank := 0, gen := 0, members := [(0, 255), (1, 3)] }, by decide +kernel⟩,
    ⟨one (cm 0x07 .started []), 1, cm 0x07 .started [], by decide +kernel⟩,
    ⟨{ up with links := List.replicate 8 { trained := true }, groups := [(5, { part := 0, rank := 0, gen := 0, members := [(0, 255), (1, 3)] })], parts := [(0, { function := 1, groups := 1 })], cmds := [(1, { cm 0x07 .started [(16, 2, 5), (18, 1, 0), (20, 1, 0x10), (21, 1, 1), (64, 8, 8)] with coll := some {} })] }, 1, 1, 0, { cm 0x07 .started [(16, 2, 5), (18, 1, 0), (20, 1, 0x10), (21, 1, 1), (64, 8, 8)] with coll := some {} }, {}, { part := 0, rank := 0, gen := 0, members := [(0, 255), (1, 3)] }, by decide +kernel⟩,
    ⟨{ up with links := List.replicate 8 { trained := true }, groups := [(5, { part := 0, rank := 0, gen := 0, members := [(0, 255), (1, 3)] })], parts := [(0, { function := 1, groups := 1 })], cmds := [(1, { cm 0x07 .started [(16, 2, 5), (18, 1, 0), (20, 1, 0x10), (21, 1, 1), (64, 8, 8)] with coll := some { grace := some 0 } })] }, 1, 200000, 0, { cm 0x07 .started [(16, 2, 5), (18, 1, 0), (20, 1, 0x10), (21, 1, 1), (64, 8, 8)] with coll := some { grace := some 0 } }, { grace := some 0 }, { part := 0, rank := 0, gen := 0, members := [(0, 255), (1, 3)] }, by decide +kernel⟩⟩

theorem witness_PeerTransfersRun :
  (∃ (s : State) (id : Nat) (c : Cmd), (Live s id 0x06 c) ∧ (c.phase = .started) ∧ (c.peer = none) ∧ (s.downLink c = none) ∧ (c.f 16 1 = 4)
      ∧ (s.peerPoison c = none) ∧ ((s.linkAt (c.f 80 1)).waitingReady.filter (fun w => w.1 == c.f 84 4) = []))
  ∧ (∃ (s : State) (id : Nat) (c : Cmd), (Live s id 0x06 c) ∧ (c.phase = .started) ∧ (c.peer = none) ∧ (s.downLink c = none) ∧ (c.f 16 1 = 4)
      ∧ (s.peerPoison c = none) ∧ ((s.linkAt (c.f 80 1)).waitingReady.filter (fun w => w.1 == c.f 84 4) = [(c.f 84 4, 0, s.peerBytes c)]))
  ∧ (∃ (s : State) (id : Nat) (c : Cmd), (Live s id 0x06 c) ∧ (c.phase = .started) ∧ (c.peer = none) ∧ (s.downLink c = none) ∧ (c.f 16 1 = 5)
      ∧ ((∀ x ∈ s.cmds, id ≤ x.1)))
  ∧ (∃ (s : State) (link : Nat) (m : Msg), (LinkServes s link) ∧ (s.shapeOk) ∧ (m.type = 0x10) ∧ (s.peerFor 4 link m = none))
  ∧ (∃ (s : State) (link : Nat) (m : Msg) (id : _) (c : _) (k : _), (LinkServes s link) ∧ (s.shapeOk) ∧ (m.type = 0x10)
      ∧ (s.peerFor 4 link m = some (id, c)) ∧ (s.cmd? id = some c) ∧ (c.phase = .started) ∧ (c.peer = some k) ∧ (k.paired = false)
      ∧ (m.attempt = k.attempt) ∧ (s.peerPoison c = none) ∧ (fld m.payload 0 8 = s.peerBytes c))
  ∧ (∃ (s : State) (link : Nat) (id : Nat) (m : Msg) (c : Cmd) (k : Peer), (LinkServes s link) ∧ (s.cmd? id = some c) ∧ (c.peer = some k)
      ∧ (c.phase = .started) ∧ (m.attempt = k.attempt) ∧ (m.type = 0x11) ∧ (s.peerFor 5 link m = some (id, c)) ∧ (m.segment * 16384 = k.moved)
      ∧ (k.moved + m.payload.length < k.total))
  ∧ (∃ (s : State) (link : Nat) (id : Nat) (m : Msg) (c : Cmd) (k : Peer) (key : _) (o : _), (LinkServes s link) ∧ (s.cmd? id = some c)
      ∧ (c.peer = some k) ∧ (c.phase = .started) ∧ (m.attempt = k.attempt) ∧ (m.type = 0x11) ∧ (s.peerFor 5 link m = some (id, c))
      ∧ (m.segment * 16384 = k.moved) ∧ (k.moved + m.payload.length = k.total) ∧ (s.obj? c.owner (c.f 24 4) = some (key, o)) ∧ (o.kind = 1))
  ∧ (∃ (s : State) (link : Nat) (id : Nat) (m : Msg) (c : Cmd) (k : Peer), (LinkServes s link) ∧ (s.cmd? id = some c) ∧ (c.peer = some k)
      ∧ (c.phase = .started) ∧ (m.attempt = k.attempt) ∧ (m.type = 0x12) ∧ (s.peerFor 4 link m = some (id, c)) ∧ (k.sentAll = true))
  ∧ (∃ (s : State) (link : Nat) (id : Nat) (m : Msg) (c : Cmd) (k : Peer), (LinkServes s link) ∧ (s.cmd? id = some c) ∧ (c.peer = some k)
      ∧ (c.phase = .started) ∧ (m.attempt = k.attempt) ∧ (m.type = 0x13) ∧ (s.peerFor 4 link m = some (id, c)) ∧ (m.final = true)
      ∧ (m.aux % 65536 ≠ E_COLL_MISMATCH))
  ∧ (∃ (s : State) (link : Nat) (id : Nat) (m : Msg) (c : Cmd) (k : Peer), (LinkServes s link) ∧ (s.cmd? id = some c) ∧ (c.peer = some k)
      ∧ (c.phase = .started) ∧ (m.attempt = k.attempt) ∧ (m.type = 0x13) ∧ (s.peerFor 4 link m = some (id, c)) ∧ (m.final = false)
      ∧ (c.victimKills < s.setting c.owner 0x0010 0))
  ∧ (∃ (s : State) (id : Nat) (t : Word) (c : Cmd) (k : Peer), (s.serving = true) ∧ (s.cmd? id = some c) ∧ (c.opcode = 0x06)
      ∧ (c.phase = .started) ∧ (c.peer = some k) ∧ (100000000 ≤ ((s.reach c.home t).counter c.home - k.lastMsg).toNat)) :=
    ⟨⟨{ one (cm 0x06 .started [(16, 1, 4), (80, 1, 3)]) with links := List.replicate 8 { trained := true } }, 1, cm 0x06 .started [(16, 1, 4), (80, 1, 3)], by decide +kernel⟩,
    ⟨{ one (cm 0x06 .started [(16, 1, 4), (80, 1, 3)]) with links := List.replicate 8 { trained := true, waitingReady := [(0, 0, 0)] } }, 1, cm 0x06 .started [(16, 1, 4), (80, 1, 3)], by decide +kernel⟩,
    ⟨{ one (cm 0x06 .started [(16, 1, 5), (80, 1, 3)]) with links := List.replicate 8 { trained := true } }, 1, cm 0x06 .started [(16, 1, 5), (80, 1, 3)], by decide +kernel⟩,
    ⟨{ up with links := List.replicate 8 { trained := true } }, 3, { type := 0x10 }, by unfold State.shapeOk; decide +kernel⟩,
    ⟨{ one ({ cm 0x06 .started [(16, 1, 4), (80, 1, 3)] with peer := some {} }) with links := List.replicate 8 { trained := true } }, 3, { type := 0x10, payload := leBytes 8 0 }, 1, { cm 0x06 .started [(16, 1, 4), (80, 1, 3)] with peer := some {} }, {}, by unfold State.shapeOk; decide +kernel⟩,
    ⟨{ one ({ cm 0x06 .started [(16, 1, 5), (80, 1, 3)] with peer := some { total := 1 } }) with links := List.replicate 8 { trained := true } }, 3, 1, { type := 0x11 }, { cm 0x06 .started [(16, 1, 5), (80, 1, 3)] with peer := some { total := 1 } }, { total := 1 }, by decide +kernel⟩,
    ⟨{ one ({ cm 0x06 .started [(16, 1, 5), (80, 1, 3), (24, 4, 7)] with peer := some { total := 1 } }) with links := List.replicate 8 { trained := true }, objects := [(7, { kind := 1, bytes := 65536, dies := [0] })] }, 3, 1, { type := 0x11, payload := [1] }, { cm 0x06 .started [(16, 1, 5), (80, 1, 3), (24, 4, 7)] with peer := some { total := 1 } }, { total := 1 }, 7, { kind := 1, bytes := 65536, dies := [0] }, by decide +kernel⟩,
    ⟨{ one ({ cm 0x06 .started [(16, 1, 4), (80, 1, 3)] with peer := some { sentAll := true } }) with links := List.replicate 8 { trained := true } }, 3, 1, { type := 0x12 }, { cm 0x06 .started [(16, 1, 4), (80, 1, 3)] with peer := some { sentAll := true } }, { sentAll := true }, by decide +kernel⟩,
    ⟨{ one ({ cm 0x06 .started [(16, 1, 4), (80, 1, 3)] with peer := some {} }) with links := List.replicate 8 { trained := true } }, 3, 1, { type := 0x13, final := true }, { cm 0x06 .started [(16, 1, 4), (80, 1, 3)] with peer := some {} }, {}, by decide +kernel⟩,
    ⟨{ one ({ cm 0x06 .started [(16, 1, 4), (80, 1, 3)] with peer := some {} }) with links := List.replicate 8 { trained := true } }, 3, 1, { type := 0x13 }, { cm 0x06 .started [(16, 1, 4), (80, 1, 3)] with peer := some {} }, {}, by decide +kernel⟩,
    ⟨{ one ({ cm 0x06 .started [(16, 1, 4), (80, 1, 3)] with peer := some {} }) with links := List.replicate 8 { trained := true } }, 1, 100000000, { cm 0x06 .started [(16, 1, 4), (80, 1, 3)] with peer := some {} }, {}, by decide +kernel⟩⟩

theorem witness_CommandsStartAndGiveWay :
  (∃ (s : State) (id : Nat) (c : Cmd), (s.serving = true) ∧ (s.cmd? id = some c) ∧ ((((unitOf c ≠ 0 ∨ c.opcode = 0x06) ∧ c.opcode ≠ 0x07
      ∧ s.eligible id c = true ∧ s.unitAhead id c = false) ∨ (c.opcode = 0x02 ∧ planeCmd c = false ∧ c.phase = .admitted
      ∧ s.mayStart id c = true) ∨ (((c.opcode = 0x08 ∨ c.opcode = 0x09) ∧ ∃ d, s.enginesFor id c = [d]) ∧ c.phase = .admitted
      ∧ s.mayStart id c = true))))
  ∧ (∃ (s : State) (id : Nat) (c : Cmd), (s.serving = true) ∧ (s.cmd? id = some c) ∧ (unitOf c ≠ 0) ∧ (c.opcode ≠ 0x07)
      ∧ ((s.unitAhead id c = true ∨ s.eligible id c = false)))
  ∧ (∃ (s : State) (id : Nat) (c : Cmd), (s.serving = true) ∧ (s.cmd? id = some c) ∧ (c.opcode = 0x07) ∧ (c.phase = .admitted)
      ∧ (s.groupSetAhead id c = false))
  ∧ (∃ (s : State) (id : Nat) (die : Nat) (c : Cmd) (p : Part), (s.serving = true) ∧ (s.cmd? id = some c) ∧ (NMap.get? s.parts c.owner = some p)
      ∧ (p.onDie die = true) ∧ (die ≠ c.home) ∧ (die ∉ c.seenDies))
  ∧ (∃ (s : State) (id : Nat) (die : Nat) (t : Word) (c : Cmd) (p : Part), (s.serving = true) ∧ (s.cmd? id = some c)
      ∧ (NMap.get? s.parts c.owner = some p) ∧ (p.onDie die = true) ∧ (c.phase = .started) ∧ (c.run.segs.isEmpty = false) ∧ (c.heard die = true)
      ∧ ((c.run.segs.getD die {}).countDue ((s.reach die t).counter die) = true))
  ∧ (∃ (s : State) (id : Nat) (die : Nat) (t : Word) (c : Cmd) (p : Part), (s.serving = true) ∧ (s.cmd? id = some c)
      ∧ (NMap.get? s.parts c.owner = some p) ∧ (p.onDie die = true) ∧ (c.phase = .started) ∧ (c.run.segs.isEmpty = false)
      ∧ ((c.heard die = false ∨ (c.run.segs.getD die {}).countDue ((s.reach die t).counter die) = false)))
  ∧ (∃ (s : State) (id : Nat) (dst : Nat) (src : Nat) (c : Cmd), (s.serving = true) ∧ (s.cmd? id = some c) ∧ (c.phase = .started) ∧ (src ≠ dst)
      ∧ (dst < c.run.segs.length) ∧ (src < (c.run.segs.getD dst {}).counts.length))
  ∧ (∃ (s : State) (id : Nat) (v : Nat) (t : Word) (c : Cmd) (w : Cmd), (s.serving = true) ∧ (s.cmd? id = some c) ∧ (c.phase = .admitted)
      ∧ ((s.reach c.home t).mayStart id c = true) ∧ (planeCmd c = true) ∧ (s.setting c.owner 0x0012 0 ≤ c.priority)
      ∧ (s.setting c.owner 0x0013 0 * 100 ≤ ((s.reach c.home t).counter c.home - (if c.waitFrom < c.preemptAt then c.preemptAt else c.waitFrom)).toNat)
      ∧ ((s.reach c.home t).chooseVictim id c = some (v, w)) ∧ (w.coll = none) ∧ (s.cmd? v = some w) ∧ (v ≠ id)) :=
    ⟨⟨one (cm 0xe .admitted []), 1, cm 0xe .admitted [], ⟨by decide +kernel, by decide +kernel, Or.inl (by decide +kernel)⟩⟩,
    ⟨one (cm 0xe .started []), 1, cm 0xe .started [], by decide +kernel⟩,
    ⟨one (cm 0x7 .admitted []), 1, cm 0x7 .admitted [], by decide +kernel⟩,
    ⟨{ one (cm 0x1 .started []) with parts := [(0, { function := 1, groups := 2 ^ 84 + 1 })] }, 1, 7, cm 0x1 .started [], { function := 1, groups := 2 ^ 84 + 1 }, by decide +kernel⟩,
    ⟨{ one ({ cm 0x1 .started [] with run := { segs := [{}] }, seenDies := [7] }) with parts := [(0, { function := 1, groups := 2 ^ 84 + 1 })] }, 1, 7, 0, { cm 0x1 .started [] with run := { segs := [{}] }, seenDies := [7] }, { function := 1, groups := 2 ^ 84 + 1 }, by decide +kernel⟩,
    ⟨{ one ({ cm 0x1 .started [] with run := { segs := List.replicate 8 { sentZero := true } }, seenDies := [7] }) with parts := [(0, { function := 1, groups := 2 ^ 84 + 1 })] }, 1, 7, 0, { cm 0x1 .started [] with run := { segs := List.replicate 8 { sentZero := true } }, seenDies := [7] }, { function := 1, groups := 2 ^ 84 + 1 }, by decide +kernel⟩,
    ⟨one ({ cm 0x1 .started [] with run := { segs := [{}] } }), 1, 0, 7, { cm 0x1 .started [] with run := { segs := [{}] } }, by decide +kernel⟩,
    ⟨{ one (cm 0x01 .admitted [(3, 1, 7)]) with cmds := [(1, cm 0x01 .admitted [(3, 1, 7)]), (2, { cm 0x01 .started [] with run := { segs := [{ tail := 1 }], held := [{ die := 0, quire := 0, plane := 0, items := [0] }] } })] }, 1, 2, 100000, cm 0x01 .admitted [(3, 1, 7)], { cm 0x01 .started [] with run := { segs := [{ tail := 1 }], held := [{ die := 0, quire := 0, plane := 0, items := [0] }] } }, by decide +kernel⟩⟩

theorem witness_CommandsCommit :
  (∃ (s : State) (id : Nat) (c : Cmd), (s.serving = true) ∧ (s.cmd? id = some c) ∧ (c.phase = .ready) ∧ (c.opcode ≠ 0x0C)
      ∧ (committed c.status = false))
  ∧ (∃ (s : State) (id : Nat) (c : Cmd) (x : _), (s.serving = true) ∧ (s.cmd? id = some c) ∧ (c.phase = .ready) ∧ (c.opcode ≠ 0x0C)
      ∧ (committed c.status = true) ∧ (s.ideStop c = some x))
  ∧ (∃ (s : State) (id : Nat) (c : Cmd), (s.serving = true) ∧ (s.cmd? id = some c) ∧ (c.phase = .ready) ∧ (c.opcode ≠ 0x0C)
      ∧ (committed c.status = true) ∧ (s.ideStop c = none) ∧ (s.commitDies c = []))
  ∧ (∃ (s : State) (id : Nat) (c : Cmd), (s.serving = true) ∧ (s.cmd? id = some c) ∧ (c.phase = .ready) ∧ (c.opcode ≠ 0x0C)
      ∧ (committed c.status = true) ∧ (s.ideStop c = none) ∧ (s.commitDies c ≠ []))
  ∧ (∃ (s : State) (c : Cmd) (w : Written) (o : Obj), (NMap.get? s.objects w.key = some o) ∧ (c.written = [w]))
  ∧ (∃ (s : State) (id : Nat) (die : Nat) (c : Cmd), (s.serving = true) ∧ (s.cmd? id = some c) ∧ (c.phase = .committing) ∧ (die ∈ c.waitDies))
  ∧ (∃ (s : State) (id : Nat) (die : Nat) (c : Cmd), (s.serving = true) ∧ (s.cmd? id = some c) ∧ (c.phase = .committing) ∧ (die ∈ c.ackDies)
      ∧ (die ∉ c.waitDies) ∧ (c.ackDies.filter (· != die) ≠ []))
  ∧ (∃ (s : State) (id : Nat) (die : Nat) (c : Cmd), (s.serving = true) ∧ (s.cmd? id = some c) ∧ (c.phase = .committing) ∧ (die ∈ c.ackDies)
      ∧ (die ∉ c.waitDies) ∧ (c.ackDies.filter (· != die) = []))
  ∧ (∃ (s : State) (c : Cmd) (w : Written) (o : Obj) (k : Nat), NMap.get? s.objects w.key = some o ∧ s.commits c = [w] ∧ k ≠ w.key) :=
    ⟨⟨one ({ cm 0x1 .ready [] with status := E_NONFINITE }), 1, { cm 0x1 .ready [] with status := E_NONFINITE }, by decide +kernel⟩,
    ⟨{ one (cm 0x6 .ready [(16, 1, 2)]) with sec := { ide := [(3, { insecure := true, fns := [1] })] } }, 1, cm 0x6 .ready [(16, 1, 2)], 3, by decide +kernel⟩,
    ⟨one (cm 0x1 .ready []), 1, cm 0x1 .ready [], by decide +kernel⟩,
    ⟨{ one ({ cm 0x1 .ready [] with written := [{ key := 7, ingots := [0] }] }) with objects := [(7, { kind := 1, bytes := 65536, dies := [7] })] }, 1, { cm 0x1 .ready [] with written := [{ key := 7, ingots := [0] }] }, by decide +kernel⟩,
    ⟨{ up with objects := [(7, { kind := 1, bytes := 65536, dies := [7] })] }, { written := [{ key := 7, ingots := [0] }] }, { key := 7, ingots := [0] }, { kind := 1, bytes := 65536, dies := [7] }, by decide +kernel⟩,
    ⟨one ({ cm 0x1 .committing [] with waitDies := [7], ackDies := [7] }), 1, 7, { cm 0x1 .committing [] with waitDies := [7], ackDies := [7] }, by decide +kernel⟩,
    ⟨one ({ cm 0x1 .committing [] with ackDies := [1, 7] }), 1, 7, { cm 0x1 .committing [] with ackDies := [1, 7] }, by decide +kernel⟩,
    ⟨one ({ cm 0x1 .committing [] with ackDies := [7] }), 1, 7, { cm 0x1 .committing [] with ackDies := [7] }, by decide +kernel⟩,
    ⟨{ up with objects := [(7, { kind := 1, bytes := 65536, dies := [7] })] }, { written := [{ key := 7, ingots := [0] }] }, { key := 7, ingots := [0] }, { kind := 1, bytes := 65536, dies := [7] }, 8, by decide +kernel⟩⟩

theorem witness_TensorAndAttentionRun :
  (∃ (s : State) (id : Nat) (c : Cmd), (Live s id 0x01 c) ∧ (c.phase = .started) ∧ ((s.obj? c.owner (c.f 16 4)).isSome = true)
      ∧ ((s.obj? c.owner (c.f 24 4)).isSome = true))
  ∧ (∃ (s : State) (id : Nat) (c : Cmd) (x : TCtx), (Live s id 0x01 c) ∧ (c.phase = .started) ∧ (s.tctx c = some x) ∧ (c.run.scanned = false))
  ∧ (∃ (s : State) (id : Nat) (c : Cmd) (x : TCtx), (Live s id 0x01 c) ∧ (c.phase = .started) ∧ (s.tctx c = some x) ∧ (c.run.normed = false))
  ∧ (∃ (s : State) (id : Nat) (c : Cmd), (Live s id 0x02 c) ∧ (c.phase = .started) ∧ (c.f 66 1 = 0)
      ∧ ((s.obj? c.owner (c.f 16 4)).isSome = true) ∧ ((s.obj? c.owner (c.f 28 4)).isSome = true) ∧ (s.attendStuck c = false))
  ∧ (∃ (s : State) (id : Nat) (c : Cmd), (Live s id 0x02 c) ∧ (c.phase = .started) ∧ (c.f 66 1 = 1)
      ∧ ((s.obj? c.owner (c.f 32 4)).isSome = true) ∧ ((NMap.get? s.parts c.owner).isSome = true))
  ∧ (∃ (s : State) (id : Nat) (c : Cmd) (qb : Nat) (x : ACtx) (b : QBlk), (Live s id 0x02 c) ∧ (c.phase = .started) ∧ (c.f 66 1 = 0)
      ∧ (s.actx c = some x) ∧ (x.blocks[qb]? = some b)) :=
    ⟨⟨{ one (cm 0x1 .started [(16, 4, 1), (24, 4, 2)]) with objects := four { kind := 1, bytes := 65536, dies := [0] } }, 1, cm 0x1 .started [(16, 4, 1), (24, 4, 2)], by decide +kernel⟩,
    ⟨{ one (cm 0x1 .started [(16, 4, 1), (24, 4, 2)]) with objects := four { kind := 1, bytes := 65536, dies := [0] } }, 1, cm 0x1 .started [(16, 4, 1), (24, 4, 2)], (({ one (cm 0x1 .started [(16, 4, 1), (24, 4, 2)]) with objects := four { kind := 1, bytes := 65536, dies := [0] } }).tctx (cm 0x1 .started [(16, 4, 1), (24, 4, 2)])).get (by decide +kernel), ⟨by decide +kernel, by decide +kernel, (Option.some_get _).symm, by decide +kernel⟩⟩,
    ⟨{ one (cm 0x1 .started [(16, 4, 1), (24, 4, 2)]) with objects := four { kind := 1, bytes := 65536, dies := [0] } }, 1, cm 0x1 .started [(16, 4, 1), (24, 4, 2)], (({ one (cm 0x1 .started [(16, 4, 1), (24, 4, 2)]) with objects := four { kind := 1, bytes := 65536, dies := [0] } }).tctx (cm 0x1 .started [(16, 4, 1), (24, 4, 2)])).get (by decide +kernel), ⟨by decide +kernel, by decide +kernel, (Option.some_get _).symm, by decide +kernel⟩⟩,
    ⟨{ one (cm 0x2 .started [(16, 4, 1), (20, 4, 2), (24, 4, 3), (28, 4, 4)]) with objects := four { kind := 1, bytes := 65536, dies := [0] } }, 1, cm 0x2 .started [(16, 4, 1), (20, 4, 2), (24, 4, 3), (28, 4, 4)], by decide +kernel⟩,
    ⟨{ one (cm 0x2 .started [(66, 1, 1), (32, 4, 1)]) with objects := four { kind := 1, bytes := 65536, dies := [0] } }, 1, cm 0x2 .started [(66, 1, 1), (32, 4, 1)], by decide +kernel⟩,
    ⟨attn, 1, attnCmd, 0, attnCtx, (attnCtx.blocks[(0 : Nat)]?).get (by decide +kernel), ⟨by decide +kernel, by decide +kernel, by decide +kernel, (Option.some_get _).symm, (Option.some_get _).symm⟩⟩⟩

theorem witness_PlanesClaimWork :
  (∃ (s : State) (u : State) (id : Nat) (die : Nat) (quire : Nat) (plane : Nat) (c : Cmd), (s.serving = true) ∧ (s.cmd? id = some c)
      ∧ (planeCmd c = true) ∧ (c.uncommitted = true) ∧ ((die = c.home ∨ die ∈ c.seenDies)) ∧ (s.planeFree die quire plane = true) ∧ (plane < 3)
      ∧ (s.onQuire c die quire = true) ∧ (s.groupServes (12 * die + quire / 8) = true) ∧ (s.quireServes die quire = true)
      ∧ ((s.dieAt die).fenced = false) ∧ ((s.openWork id).claim id die quire plane = some u)
      ∧ ((∀ x ∈ (s.openWork id).cmds, x.1 ≠ id → planeCmd x.2 = true → x.2.heard die = true → (s.openWork id).onQuire x.2 die quire = true → (s.openWork id).prefers die plane x (id, c) = false)))
  ∧ (∃ (s : State) (u : State) (id : Nat) (die : Nat) (quire : Nat) (plane : Nat) (c : Cmd) (x : _), (x ∈ (s.openWork id).cmds)
      ∧ (s.serving = true) ∧ (s.cmd? id = some c) ∧ (planeCmd c = true) ∧ (c.uncommitted = true) ∧ ((die = c.home ∨ die ∈ c.seenDies))
      ∧ (s.planeFree die quire plane = true) ∧ (plane < 3) ∧ (s.onQuire c die quire = true) ∧ (s.groupServes (12 * die + quire / 8) = true)
      ∧ (s.quireServes die quire = true) ∧ ((s.dieAt die).fenced = false) ∧ ((s.openWork id).claim id die quire plane = some u) ∧ (x.1 ≠ id)
      ∧ (planeCmd x.2 = true) ∧ (x.2.heard die = true) ∧ ((s.openWork id).onQuire x.2 die quire = true)
      ∧ ((s.openWork id).prefers die plane x (id, c) = true) ∧ ((((s.openWork id).openWork x.1).claim x.1 die quire plane).isSome = true))
  ∧ (∃ (segs : List Seg) (die : Nat), (die < segs.length) ∧ ((segs.getD die {}).head < (segs.getD die {}).tail))
  ∧ (∃ (segs : List Seg) (die : Nat) (v : _), (die < segs.length) ∧ ((segs.getD die {}).tail ≤ (segs.getD die {}).head)
      ∧ (stealFrom (segs.getD die {}).counts die = some v) ∧ ((segs.getD v {}).head < (segs.getD v {}).tail))
  ∧ (∃ (s : State) (id : Nat) (c : Cmd) (op : Nat) (n : Nat), (Live s id c.opcode c) ∧ (c.phase = .started) ∧ (planeCmd c = true)
      ∧ (s.users c op n ≠ []) ∧ (c.run.failedFetch.contains (op, n) = false))
  ∧ (∃ (s : State) (id : Nat) (c : Cmd) (op : Nat) (n : Nat) (h : _), (Live s id c.opcode c) ∧ (c.phase = .started) ∧ (planeCmd c = true)
      ∧ ((s.users c op n).head? = some h) ∧ (s.fromT3 c op n = true) ∧ (c.run.arrived.any (fun a => a.2 == (op, n)) = false)
      ∧ (s.classOf c (h.items.headD 0) op = 0))
  ∧ (∃ (s : State) (id : Nat) (c : Cmd) (op : Nat) (n : Nat) (h : _), (Live s id c.opcode c) ∧ (c.phase = .started) ∧ (planeCmd c = true)
      ∧ ((s.users c op n).head? = some h) ∧ (s.fromT3 c op n = true) ∧ (c.run.arrived.any (fun a => a.2 == (op, n)) = false)
      ∧ (s.classOf c (h.items.headD 0) op ≠ 0))
  ∧ (∃ (s : State) (id : Nat) (c : Cmd) (tile : Nat) (op : Nat) (n : Nat) (t : Word) (h : _), (Live s id c.opcode c) ∧ (c.phase = .started)
      ∧ (planeCmd c = true) ∧ (c.run.holder tile = some h) ∧ (((s.reach h.die t).itemUses c tile).contains (op, n) = true)
      ∧ ((s.reach h.die t).useReady c h tile op n = false)
      ∧ ((s.reach h.die t).reachedAt id c tile op n + 10 * (s.reach h.die t).fetchSlack c op ≤ ((s.reach h.die t).counter h.die - h.at_).toNat)
      ∧ (c.run.waits.any (fun w => w.1 == (tile, op, n)) = false))
  ∧ (∃ (s : State) (id : Nat) (c : Cmd) (tile : Nat) (op : Nat) (n : Nat) (t : Word) (h : _) (w : (Nat × Nat × Nat) × Word), (Live s id c.opcode c)
      ∧ (c.phase = .started) ∧ (planeCmd c = true) ∧ (c.run.holder tile = some h) ∧ (c.run.waits.find? (fun w => w.1 == (tile, op, n)) = some w)
      ∧ ((s.reach h.die t).inT0 c h op n = false) ∧ ((s.reach h.die t).stallLimit c op ≠ 0)
      ∧ (100000 * (s.reach h.die t).stallLimit c op < ((s.reach h.die t).counter h.die - w.2).toNat))
  ∧ (∃ (s : State) (id : Nat) (c : Cmd) (tile : Nat) (quire : Nat) (h : _), (Live s id c.opcode c) ∧ (c.phase = .started) ∧ (planeCmd c = true)
      ∧ (c.run.held.find? (fun h => h.die == quire / 256 && h.plane != 255 && h.items.contains tile && (s.dieAt (quire / 256)).logical.getD h.quire none == some (quire % 256)) = some h)
      ∧ ((∀ u ∈ s.itemUses c tile, s.useReady c h tile u.1 u.2 = true)) ∧ ((c.opcode = 0x01 → (s.tctx c).isSome = true))
      ∧ ((c.opcode = 0x02 → ∃ x, s.actx c = some x ∧ tile < x.blocks.length)))
  ∧ (∃ (s : State) (id : Nat) (c : Cmd) (tile : Nat) (quire : Nat) (h : _), (Live s id c.opcode c) ∧ (c.phase = .started) ∧ (planeCmd c = true)
      ∧ (c.run.held.find? (fun h => h.die == quire / 256 && h.plane != 255 && h.items.contains tile && (s.dieAt (quire / 256)).logical.getD h.quire none == some (quire % 256)) = some h)
      ∧ ((∀ u ∈ s.itemUses c tile, s.useReady c h tile u.1 u.2 = true)) ∧ (c.residueRerun = false))
  ∧ (∃ (s : State) (id : Nat) (c : Cmd) (tile : Nat) (quire : Nat) (h : _), (Live s id c.opcode c) ∧ (c.phase = .started) ∧ (planeCmd c = true)
      ∧ (c.run.held.find? (fun h => h.die == quire / 256 && h.plane != 255 && h.items.contains tile && (s.dieAt (quire / 256)).logical.getD h.quire none == some (quire % 256)) = some h)
      ∧ ((∀ u ∈ s.itemUses c tile, s.useReady c h tile u.1 u.2 = true)) ∧ (c.residueRerun = true))
  ∧ (∃ (s : State) (id : Nat) (c : Cmd) (op : Nat) (k : Nat) (o : Obj) (n : Nat), (Live s id c.opcode c) ∧ (c.phase = .started)
      ∧ (planeCmd c = false) ∧ (s.obj? c.owner op = some (k, o)) ∧ ((s.named c).contains k = true) ∧ (o.tier = 3) ∧ (n < o.count))
  ∧ (∃ (s : State) (id : Nat) (c : Cmd) (op : Nat) (k : Nat) (o : Obj) (t : Word), (Live s id c.opcode c) ∧ (c.phase = .started)
      ∧ (planeCmd c = false) ∧ (s.obj? c.owner op = some (k, o)) ∧ ((s.named c).contains k = true) ∧ (o.stallLimit ≠ 0)
      ∧ (100000 * o.stallLimit < ((s.reach c.home t).counter c.home - c.startAt).toNat)) :=
    ⟨⟨{ one ({ cm 0x1 .started [(16, 4, 1), (24, 4, 2)] with run := { segs := [{ tail := 1 }], normed := true, scanned := true } }) with objects := four { kind := 1, bytes := 65536, dies := [0] }, parts := [(0, { function := 1, groups := 3, sets := [(0x0200, 2 ^ 30)] })] }, ((({ one ({ cm 0x1 .started [(16, 4, 1), (24, 4, 2)] with run := { segs := [{ tail := 1 }], normed := true, scanned := true } }) with objects := four { kind := 1, bytes := 65536, dies := [0] }, parts := [(0, { function := 1, groups := 3, sets := [(0x0200, 2 ^ 30)] })] }).openWork 1).claim 1 0 8 0).get (by decide +kernel), 1, 0, 8, 0, { cm 0x1 .started [(16, 4, 1), (24, 4, 2)] with run := { segs := [{ tail := 1 }], normed := true, scanned := true } }, ⟨rfl, rfl, by decide +kernel, by decide +kernel, by decide +kernel, by decide +kernel, by decide +kernel, by decide +kernel, by decide +kernel, by decide +kernel, by decide +kernel, (Option.some_get _).symm, by decide +kernel⟩⟩,
    ⟨{ one ({ cm 0x01 .started [(16, 4, 1), (24, 4, 2)] with run := { segs := [{ tail := 1 }], normed := true, scanned := true } }) with cmds := [(1, { cm 0x01 .started [(16, 4, 1), (24, 4, 2)] with run := { segs := [{ tail := 1 }], normed := true, scanned := true } }), (2, { cm 0x01 .started [(16, 4, 1), (24, 4, 2), (3, 1, 7)] with run := { segs := [{ tail := 1 }], normed := true, scanned := true } })], objects := four { kind := 1, bytes := 65536, dies := [0] }, parts := [(0, { function := 1, groups := 3, sets := [(0x0200, 2 ^ 30)] })] }, ((({ one ({ cm 0x01 .started [(16, 4, 1), (24, 4, 2)] with run := { segs := [{ tail := 1 }], normed := true, scanned := true } }) with cmds := [(1, { cm 0x01 .started [(16, 4, 1), (24, 4, 2)] with run := { segs := [{ tail := 1 }], normed := true, scanned := true } }), (2, { cm 0x01 .started [(16, 4, 1), (24, 4, 2), (3, 1, 7)] with run := { segs := [{ tail := 1 }], normed := true, scanned := true } })], objects := four { kind := 1, bytes := 65536, dies := [0] }, parts := [(0, { function := 1, groups := 3, sets := [(0x0200, 2 ^ 30)] })] }).openWork 1).claim 1 0 8 0).get (by decide +kernel), 1, 0, 8, 0, { cm 0x01 .started [(16, 4, 1), (24, 4, 2)] with run := { segs := [{ tail := 1 }], normed := true, scanned := true } }, (2, { cm 0x01 .started [(16, 4, 1), (24, 4, 2), (3, 1, 7)] with run := { segs := [{ tail := 1 }], normed := true, scanned := true } }), ⟨by decide +kernel, rfl, rfl, by decide +kernel, by decide +kernel, by decide +kernel, by decide +kernel, by decide +kernel, by decide +kernel, by decide +kernel, by decide +kernel, by decide +kernel, (Option.some_get _).symm, by decide +kernel, by decide +kernel, by decide +kernel, by decide +kernel, by decide +kernel, by decide +kernel⟩⟩,
    ⟨[{ tail := 1 }], 0, by decide +kernel⟩,
    ⟨[{ counts := [0, 1, 0, 0, 0, 0, 0, 0] }, { tail := 2 }], 0, 1, by decide +kernel⟩,
    ⟨{ one ({ cm 0x1 .started [(16, 4, 1), (24, 4, 2), (40, 4, 1), (44, 4, 1), (48, 4, 1), (52, 4, 1)] with run := { held := [{ die := 0, quire := 0, plane := 0, items := [0] }] } }) with objects := four { kind := 0, fmt := 0x10, rows := 1, cols := 128, batch := 1, dies := [0], bytes := 65536, mem0 := [(2, 1)] } }, 1, { cm 0x1 .started [(16, 4, 1), (24, 4, 2), (40, 4, 1), (44, 4, 1), (48, 4, 1), (52, 4, 1)] with run := { held := [{ die := 0, quire := 0, plane := 0, items := [0] }] } }, 1, 0, by decide +kernel⟩,
    ⟨{ one ({ cm 0x1 .started [(16, 4, 1), (24, 4, 2), (40, 4, 1), (44, 4, 1), (48, 4, 1), (52, 4, 1)] with run := { held := [{ die := 0, quire := 0, plane := 0, items := [0] }] } }) with objects := four { kind := 0, fmt := 0x10, rows := 1, cols := 128, batch := 1, dies := [0], bytes := 65536, mem0 := [(2, 1)], tier := 3 } }, 1, { cm 0x1 .started [(16, 4, 1), (24, 4, 2), (40, 4, 1), (44, 4, 1), (48, 4, 1), (52, 4, 1)] with run := { held := [{ die := 0, quire := 0, plane := 0, items := [0] }] } }, 1, 0, { die := 0, quire := 0, plane := 0, items := [0] }, by decide +kernel⟩,
    ⟨{ one ({ cm 0x1 .started [(16, 4, 1), (24, 4, 2), (40, 4, 1), (44, 4, 1), (48, 4, 1), (52, 4, 1)] with run := { held := [{ die := 0, quire := 0, plane := 0, items := [0] }] } }) with objects := four { kind := 0, fmt := 0x10, rows := 1, cols := 128, batch := 1, dies := [0], bytes := 65536, mem0 := [(2, 1)], tier := 3, fallback := 2 } }, 1, { cm 0x1 .started [(16, 4, 1), (24, 4, 2), (40, 4, 1), (44, 4, 1), (48, 4, 1), (52, 4, 1)] with run := { held := [{ die := 0, quire := 0, plane := 0, items := [0] }] } }, 1, 0, { die := 0, quire := 0, plane := 0, items := [0] }, by decide +kernel⟩,
    ⟨{ one ({ cm 0x1 .started [(16, 4, 1), (24, 4, 2), (40, 4, 1), (44, 4, 1), (48, 4, 1), (52, 4, 1)] with run := { held := [{ die := 0, quire := 0, plane := 0, items := [0] }] } }) with objects := four { kind := 0, fmt := 0x10, rows := 1, cols := 128, batch := 1, dies := [0], bytes := 65536, mem0 := [(2, 1)] } }, 1, { cm 0x1 .started [(16, 4, 1), (24, 4, 2), (40, 4, 1), (44, 4, 1), (48, 4, 1), (52, 4, 1)] with run := { held := [{ die := 0, quire := 0, plane := 0, items := [0] }] } }, 0, 1, 0, 2 ^ 63 + 2 ^ 40, { die := 0, quire := 0, plane := 0, items := [0] }, ⟨by decide +kernel, by decide +kernel, by decide +kernel, by decide +kernel, by decide +kernel, by decide +kernel, Nat.le_trans (Nat.add_le_add_right (Nat.le_of_lt (BitVec.isLt _)) _) (by decide +kernel), by decide +kernel⟩⟩,
    ⟨{ one ({ cm 0x1 .started [(16, 4, 1), (24, 4, 2), (40, 4, 1), (44, 4, 1), (48, 4, 1), (52, 4, 1)] with run := { held := [{ die := 0, quire := 0, plane := 0, items := [0] }], waits := [((0, 1, 0), 9)] } }) with objects := four { kind := 0, fmt := 0x10, rows := 1, cols := 128, batch := 1, dies := [0], bytes := 65536, mem0 := [(2, 1)], stallLimit := 5 } }, 1, { cm 0x1 .started [(16, 4, 1), (24, 4, 2), (40, 4, 1), (44, 4, 1), (48, 4, 1), (52, 4, 1)] with run := { held := [{ die := 0, quire := 0, plane := 0, items := [0] }], waits := [((0, 1, 0), 9)] } }, 0, 1, 0, 500010, { die := 0, quire := 0, plane := 0, items := [0] }, ((0, 1, 0), 9), by decide +kernel⟩,
    ⟨{ one ({ cm 0x1 .started [(16, 4, 1), (24, 4, 2)] with run := { held := [{ die := 0, quire := 0, plane := 0, items := [0] }] } }) with objects := four { kind := 1, bytes := 65536, dies := [0] } }, 1, { cm 0x1 .started [(16, 4, 1), (24, 4, 2)] with run := { held := [{ die := 0, quire := 0, plane := 0, items := [0] }] } }, 0, 0, { die := 0, quire := 0, plane := 0, items := [0] }, by refine ⟨?_, ?_, ?_, ?_, ?_, ?_, ?_⟩ <;> first | decide +kernel | rfl | (unfold State.shapeOk; decide +kernel) | exact fun h => absurd h (by decide +kernel)⟩,
    ⟨{ one ({ cm 0x1 .started [(16, 4, 1), (24, 4, 2)] with run := { held := [{ die := 0, quire := 0, plane := 0, items := [0] }] } }) with objects := four { kind := 1, bytes := 65536, dies := [0] } }, 1, { cm 0x1 .started [(16, 4, 1), (24, 4, 2)] with run := { held := [{ die := 0, quire := 0, plane := 0, items := [0] }] } }, 0, 0, { die := 0, quire := 0, plane := 0, items := [0] }, by refine ⟨?_, ?_, ?_, ?_, ?_, ?_⟩ <;> first | decide +kernel | rfl | (unfold State.shapeOk; decide +kernel)⟩,
    ⟨{ one ({ cm 0x1 .started [(16, 4, 1), (24, 4, 2)] with run := { held := [{ die := 0, quire := 0, plane := 0, items := [0] }] }, residueRerun := true }) with objects := four { kind := 1, bytes := 65536, dies := [0] } }, 1, { cm 0x1 .started [(16, 4, 1), (24, 4, 2)] with run := { held := [{ die := 0, quire := 0, plane := 0, items := [0] }] }, residueRerun := true }, 0, 0, { die := 0, quire := 0, plane := 0, items := [0] }, by refine ⟨?_, ?_, ?_, ?_, ?_, ?_⟩ <;> first | decide +kernel | rfl | (unfold State.shapeOk; decide +kernel)⟩,
    ⟨{ one (cm 0x9 .started [(16, 4, 1)]) with objects := four { kind := 1, bytes := 65536, dies := [0], tier := 3, stallLimit := 5 } }, 1, cm 0x9 .started [(16, 4, 1)], 1, 1, { kind := 1, bytes := 65536, dies := [0], tier := 3, stallLimit := 5 }, 0, by decide +kernel⟩,
    ⟨{ one (cm 0x9 .started [(16, 4, 1)]) with objects := four { kind := 1, bytes := 65536, dies := [0], tier := 3, stallLimit := 5 } }, 1, cm 0x9 .started [(16, 4, 1)], 1, 1, { kind := 1, bytes := 65536, dies := [0], tier := 3, stallLimit := 5 }, 500001, by decide +kernel⟩⟩

theorem witness_RoutesRun :
  (∃ (s : State) (id : Nat) (c : Cmd) (q : _), (q ∈ [(Instr.routeLengthBucket id, 1), (Instr.routeExpertDispatch id, 2), (Instr.routeLengthPack id, 3), (Instr.routeExpertCombine id, 4)])
      ∧ (Live s id 0x0E c) ∧ (c.phase = .started) ∧ ((coMode ((s.planOf c).sec 6) = 3 → (s.obj? c.owner (c.f 20 4)).isSome = true
      ∧ (s.obj? c.owner (c.f 24 4)).isSome = true)) ∧ ((coMode ((s.planOf c).sec 6) = 4 → (s.obj? c.owner (c.f 16 4)).isSome = true
      ∧ (s.obj? c.owner (c.f 20 4)).isSome = true ∧ (s.obj? c.owner (c.f 24 4)).isSome = true)) ∧ (coMode ((s.planOf c).sec 6) = q.2)) :=
    ⟨{ one (cm 0x0E .started [(8, 4, 1), (16, 4, 1), (20, 4, 2), (24, 4, 3)]) with objects := four { kind := 1, bytes := 65536, dies := [0] }, plans := [(1, { image := img 144 [(0, 4, 0x4E414C50), (6, 2, 1), (64, 2, 6), (68, 4, 80), (72, 4, 64), (80, 1, 4)] })] }, 1, cm 0x0E .started [(8, 4, 1), (16, 4, 1), (20, 4, 2), (24, 4, 3)], (Instr.routeExpertCombine 1, 4), by decide +kernel⟩

theorem witness_StepsAndSequencesRun :
  (∃ (s : State) (id : Nat) (c : Cmd) (p : Part), (Live s id 0x03 c) ∧ (c.phase = .started) ∧ (NMap.get? s.parts c.owner = some p)
      ∧ (s.stepState c = none) ∧ (c.f 16 1 = 0) ∧ (s.reserveTurn id c.owner = true) ∧ (s.listPoison c 24 32 (c.f 32 4) (fun _ => p.firstDie) = [])
      ∧ (s.stepListFail c (s.stepEntries c) = none) ∧ (c.stepDraft = none)
      ∧ ((s.steps.filter (fun t => t.1 / 2 ^ 32 == c.owner)).length + (s.cmds.filter (fun x => x.1 != id && x.2.owner == c.owner && x.2.stepDraft.isSome)).length < 256)
      ∧ ((∀ x ∈ s.cmds, x.1 ≠ id → x.2.owner = c.owner → x.2.stepDraft.isSome = true → x.2.f 20 4 ≠ c.f 20 4))
      ∧ (s.t2Use c.owner p.firstDie + 32 * (s.stepEntries c).length ≤ s.setting c.owner 0x0002 p.firstDie))
  ∧ (∃ (s : State) (id : Nat) (c : Cmd) (p : Part) (x : _), (Live s id 0x03 c) ∧ (c.phase = .started) ∧ (NMap.get? s.parts c.owner = some p)
      ∧ (s.stepState c = none) ∧ (c.f 16 1 = 1) ∧ (s.step? c.owner (c.f 20 4) = some x) ∧ (x.live = [])
      ∧ ((∀ e ∈ x.entries, e.status ≠ OK ∨ e.tokens = 0)))
  ∧ (∃ (s : State) (id : Nat) (c : Cmd) (p : Part) (x : _), (Live s id 0x03 c) ∧ (c.phase = .started) ∧ (NMap.get? s.parts c.owner = some p)
      ∧ (s.stepState c = none) ∧ (c.f 16 1 = 1) ∧ (s.step? c.owner (c.f 20 4) = some x))
  ∧ (∃ (s : State) (id : Nat) (c : Cmd) (p : Part) (x : _), (Live s id 0x03 c) ∧ (c.phase = .started) ∧ (NMap.get? s.parts c.owner = some p)
      ∧ (s.stepState c = none) ∧ (c.f 16 1 = 2) ∧ (s.step? c.owner (c.f 20 4) = some x) ∧ (x.missing = false))
  ∧ (∃ (s : State) (id : Nat) (c : Cmd) (p : Part), (Live s id 0x03 c) ∧ (c.phase = .started) ∧ (NMap.get? s.parts c.owner = some p)
      ∧ (s.stepState c = none) ∧ (c.f 16 1 = 3))
  ∧ (∃ (c : Cmd), (c.opcode = 0x03) ∧ (c.f 16 1 = 2 ∨ c.f 16 1 = 3))
  ∧ (∃ (s : State) (id : Nat) (c : Cmd) (u : _) (fs : _), (c.phase = .started) ∧ (c.frames = []) ∧ (Live s id 0x04 c)
      ∧ (s.reserveTurn id c.owner = true) ∧ (c.child = none) ∧ (s.forkFail id c = none)
      ∧ ((forkLeaves (s.seqAt (seqIndex (c.f 16 4))) (c.f 24 4)).1.any (fun e => !((forkLeaves (s.seqAt (seqIndex (c.f 16 4))) (c.f 24 4)).2.contains e.1) && decide (65535 ≤ s.refsOf e.2)) = false)
      ∧ ((∀ w ∈ (forkLeaves (s.seqAt (seqIndex (c.f 16 4))) (c.f 24 4)).2, ∀ e, NMap.get? (s.seqAt (seqIndex (c.f 16 4))).leaves w = some e → s.rowsPoison e (s.seqAt (seqIndex (c.f 16 4))).kvHeads (s.seqAt (seqIndex (c.f 16 4))).kvFmt 0 (c.f 24 4 - (c.f 24 4 - 1) / (s.seqAt (seqIndex (c.f 16 4))).tpl * (s.seqAt (seqIndex (c.f 16 4))).tpl) = none))
      ∧ (s.draw c.owner (seqDie (c.f 20 4)) ((forkLeaves (s.seqAt (seqIndex (c.f 16 4))) (c.f 24 4)).2.length + (needPages {} ((forkLeaves (s.seqAt (seqIndex (c.f 16 4))) (c.f 24 4)).1.map (·.1))).length) none = some (u, fs)))
  ∧ (∃ (s : State) (id : Nat) (c : Cmd) (u : _) (fs : _), (c.phase = .started) ∧ (c.frames = []) ∧ (Live s id 0x0F c) ∧ (c.f 20 1 = 0)
      ∧ (s.draw c.owner (seqDie (seqIndex (c.f 16 4))) ((s.seqAt (seqIndex (c.f 16 4))).leaves.filter (fun e => e.2.t3)).length none = some (u, fs)))
  ∧ (∃ (s : State) (id : Nat) (c : Cmd) (o : _) (v : _) (k : _), (c.phase = .started) ∧ (c.frames = []) ∧ (Live s id 0x0F c) ∧ (c.f 20 1 = 1)
      ∧ (s.imageObj c = some (o, v)) ∧ (s.imageFail c = some k))
  ∧ (∃ (s : State) (id : Nat) (c : Cmd) (o : Obj) (v : List Nat) (u : _) (fs : _), (c.phase = .started) ∧ (c.frames = []) ∧ (Live s id 0x0F c)
      ∧ (c.f 20 1 = 1) ∧ (s.imageObj c = some (o, v)) ∧ (s.imageFail c = none)
      ∧ (o.poisonBytes v 0 (64 + 8 * (imLength (o.readBytes v 0 64) / (s.seqAt (seqIndex (c.f 16 4))).tpl)) (seqDie (seqIndex (c.f 16 4))) = none)
      ∧ ((∀ w ∈ allWins (s.seqAt (seqIndex (c.f 16 4))) (imLength (o.readBytes v 0 64)), o.poisonBytes v (imBase (imLength (o.readBytes v 0 64)) (s.seqAt (seqIndex (c.f 16 4))).tpl + w * 151552) 151552 (seqDie (seqIndex (c.f 16 4))) = none))
      ∧ (s.draw c.owner (seqDie (seqIndex (c.f 16 4))) (((allWins (s.seqAt (seqIndex (c.f 16 4))) (imLength (o.readBytes v 0 64))).filter (fun w => !((s.imageShares c o v).any (fun x => x.1 == w)))).length + (needPages {} (allWins (s.seqAt (seqIndex (c.f 16 4))) (imLength (o.readBytes v 0 64)))).length) none = some (u, fs)))
  ∧ (∃ (s : State) (id : Nat) (c : Cmd), (c.phase = .started) ∧ (c.frames = []) ∧ (Live s id 0x05 c) ∧ (s.freeFail c = none))
  ∧ (∃ (c : Cmd), (c.opcode = 0x05))
  ∧ (∃ (s : State) (idx : Nat), (s.serving = true) ∧ ((s.seqAt idx).state = .retired)) :=
    ⟨⟨{ richOne [] (cm 0x3 .started [(16, 1, 0), (20, 4, 1), (24, 4, 1), (32, 4, 1)]) with objects := four { kind := 1, bytes := 65536, dies := [0] } }, 1, cm 0x3 .started [(16, 1, 0), (20, 4, 1), (24, 4, 1), (32, 4, 1)], { function := 1, groups := 1, sets := [(0x0100, 2 ^ 30), (0x0200, 2 ^ 30), (0x0400, 2 ^ 30)] }, by decide +kernel⟩,
    ⟨{ one (cm 0x3 .started [(16, 1, 1), (20, 4, 1)]) with steps := [(1, { entries := [{ seqId := 5 }] })] }, 1, cm 0x3 .started [(16, 1, 1), (20, 4, 1)], { function := 1, groups := 1 }, { entries := [{ seqId := 5 }] }, by decide +kernel⟩,
    ⟨{ one (cm 0x3 .started [(16, 1, 1), (20, 4, 1)]) with steps := [(1, { entries := [{ seqId := 5 }] })] }, 1, cm 0x3 .started [(16, 1, 1), (20, 4, 1)], { function := 1, groups := 1 }, { entries := [{ seqId := 5 }] }, by decide +kernel⟩,
    ⟨{ one (cm 0x3 .started [(16, 1, 2), (20, 4, 1)]) with steps := [(1, { entries := [{ seqId := 5 }] })] }, 1, cm 0x3 .started [(16, 1, 2), (20, 4, 1)], { function := 1, groups := 1 }, { entries := [{ seqId := 5 }] }, by decide +kernel⟩,
    ⟨{ one (cm 0x3 .started [(16, 1, 3), (20, 4, 1)]) with steps := [(1, { entries := [{ seqId := 5 }] })] }, 1, cm 0x3 .started [(16, 1, 3), (20, 4, 1)], { function := 1, groups := 1 }, by decide +kernel⟩,
    ⟨cm 0x03 .ready [(16, 1, 3)], by decide +kernel⟩,
    ⟨{ one (cm 0x4 .started [(16, 4, 5), (20, 4, 6)]) with parts := [(0, { function := 1, groups := 1, sets := [(0x0600, 8), (0x0200, 2 ^ 30), (0x0400, 2 ^ 30), (0x0800, 4)] })], seqs := [(5, { state := .active, layers := 1, kvHeads := 1, kvFmt := 1, maxLen := 64 })] }, 1, cm 0x4 .started [(16, 4, 5), (20, 4, 6)], _, _, ⟨by decide +kernel, rfl, by decide +kernel, by decide +kernel, by decide +kernel, by decide +kernel, by decide +kernel, fun w h => absurd (show w ∈ ([] : List Nat) from h) List.not_mem_nil, rfl⟩⟩,
    ⟨{ one (cm 0xf .started [(16, 4, 5)]) with parts := [(0, { function := 1, groups := 1, sets := [(0x0600, 8), (0x0200, 2 ^ 30), (0x0400, 2 ^ 30), (0x0800, 4)] })], seqs := [(5, { state := .active, layers := 1, kvHeads := 1, kvFmt := 1, maxLen := 64 })] }, 1, cm 0xf .started [(16, 4, 5)], _, _, ⟨by decide +kernel, rfl, by decide +kernel, by decide +kernel, rfl⟩⟩,
    ⟨{ one (cm 0xf .started [(16, 4, 5), (20, 1, 1), (24, 4, 1)]) with parts := [(0, { function := 1, groups := 1, sets := [(0x0600, 8), (0x0200, 2 ^ 30), (0x0400, 2 ^ 30), (0x0800, 4)] })], seqs := [(5, { state := .active, layers := 1, kvHeads := 1, kvFmt := 1, maxLen := 64 })], objects := four { kind := 1, bytes := 65536, dies := [0] } }, 1, cm 0xf .started [(16, 4, 5), (20, 1, 1), (24, 4, 1)], { kind := 1, bytes := 65536, dies := [0] }, [], 1, by decide +kernel⟩,
    ⟨{ one (cm 0xf .started [(16, 4, 5), (20, 1, 1), (24, 4, 1)]) with parts := [(0, { function := 1, groups := 1, sets := [(0x0600, 8), (0x0200, 2 ^ 30), (0x0400, 2 ^ 30), (0x0800, 4)] })], pool := List.replicate 8 8, seqs := [(5, { state := .active, layers := 1, kvHeads := 1, kvFmt := 1, maxLen := 64 })], objects := [(1, { kind := 1, bytes := 262144, dies := [0], mem0 := Mem.writeRange [] 0 (img 64 [(0, 4, 0x53514B4C), (4, 1, 1), (5, 1, 1), (6, 2, 1), (12, 4, 1)]) })] }, 1, cm 0xf .started [(16, 4, 5), (20, 1, 1), (24, 4, 1)], { kind := 1, bytes := 262144, dies := [0], mem0 := Mem.writeRange [] 0 (img 64 [(0, 4, 0x53514B4C), (4, 1, 1), (5, 1, 1), (6, 2, 1), (12, 4, 1)]) }, [], _, _, ⟨by decide +kernel, rfl, by decide +kernel, by decide +kernel, by decide +kernel, by decide +kernel, by decide +kernel, by decide +kernel, rfl⟩⟩,
    ⟨{ one (cm 0x5 .started [(16, 4, 5)]) with parts := [(0, { function := 1, groups := 1, sets := [(0x0600, 8), (0x0200, 2 ^ 30), (0x0400, 2 ^ 30), (0x0800, 4)] })], seqs := [(5, { state := .active, layers := 1, kvHeads := 1, kvFmt := 1, maxLen := 64 })] }, 1, cm 0x5 .started [(16, 4, 5)], by decide +kernel⟩,
    ⟨cm 0x05 .ready [], by decide +kernel⟩,
    ⟨{ up with seqs := [(5, { state := .retired })] }, 5, by decide +kernel⟩⟩

theorem witness_MovesRun :
  (∃ (s : State) (id : Nat) (c : Cmd) (sk : _) (a : _) (dk : _) (b : _), (Live s id 0x06 c) ∧ (c.phase = .started) ∧ (c.f 16 1 = 0)
      ∧ (s.obj? c.owner (c.f 20 4) = some (sk, a)) ∧ (s.obj? c.owner (c.f 24 4) = some (dk, b)) ∧ (a.kind = 1)
      ∧ (a.poisonBytes (c.viewOf sk a) (c.f 32 8) (c.f 48 8) c.home = none))
  ∧ (∃ (s : State) (id : Nat) (c : Cmd) (dk : _) (b : _), (Live s id 0x06 c) ∧ (c.phase = .started) ∧ (c.f 16 1 = 1)
      ∧ (s.obj? c.owner (c.f 24 4) = some (dk, b)) ∧ (b.kind = 1))
  ∧ (∃ (s : State) (id : Nat) (c : Cmd) (sk : _) (a : _), (Live s id 0x06 c) ∧ (c.phase = .started) ∧ (c.f 16 1 = 2)
      ∧ (s.obj? c.owner (c.f 20 4) = some (sk, a)) ∧ (a.kind = 1) ∧ (a.poisonBytes (c.viewOf sk a) (c.f 32 8) (c.f 48 8) c.home = none))
  ∧ (∃ (s : State) (id : Nat) (c : Cmd) (q : Seq), (Live s id 0x06 c) ∧ (c.phase = .started) ∧ (c.f 16 1 = 3) ∧ (s.seqExportFail c = none)
      ∧ (q = { s.seqAt (seqIndex (c.f 20 4)) with c := NMap.getD c.lens 0 (s.seqAt (seqIndex (c.f 20 4))).c })
      ∧ ((∀ w ∈ allWins q q.c, ∀ e, NMap.get? q.leaves w = some e → s.leafPoison e 0 151552 = none)))
  ∧ (∃ (s : State) (id : Nat) (c : Cmd) (k : _) (o : _), (Live s id 0x06 c) ∧ (c.phase = .started) ∧ (c.f 16 1 = 6)
      ∧ (s.obj? c.owner (c.f 20 4) = some (k, o)) ∧ ((∀ x ∈ s.cmds, x.1 ≠ id → (s.named x.2).contains k = false))
      ∧ (s.isModel c.owner (c.f 20 4) = false) ∧ (s.fits c.owner (retiered o c.desc) = true))
  ∧ (∃ (s : State) (c : Cmd), (c.opcode = 0x06) ∧ (c.f 16 1 = 2 ∨ c.f 16 1 = 3) ∧ (s.dmaStop (s.functionOf c.owner) = none))
  ∧ (∃ (s : State) (c : Cmd) (k : Nat) (o : Obj), (c.opcode = 0x06) ∧ (c.f 16 1 = 6) ∧ (s.obj? c.owner (c.f 20 4) = some (k, o))) :=
    ⟨⟨{ one (cm 0x6 .started [(16, 1, 0), (20, 4, 1), (24, 4, 2), (48, 8, 64)]) with objects := four { kind := 1, bytes := 65536, dies := [0] } }, 1, cm 0x6 .started [(16, 1, 0), (20, 4, 1), (24, 4, 2), (48, 8, 64)], 1, { kind := 1, bytes := 65536, dies := [0] }, 2, { kind := 1, bytes := 65536, dies := [0] }, by decide +kernel⟩,
    ⟨{ one (cm 0x6 .started [(16, 1, 1), (20, 4, 1), (24, 4, 2), (48, 8, 64)]) with objects := four { kind := 1, bytes := 65536, dies := [0] } }, 1, cm 0x6 .started [(16, 1, 1), (20, 4, 1), (24, 4, 2), (48, 8, 64)], 2, { kind := 1, bytes := 65536, dies := [0] }, by decide +kernel⟩,
    ⟨{ one (cm 0x6 .started [(16, 1, 2), (20, 4, 1), (24, 4, 2), (48, 8, 64)]) with objects := four { kind := 1, bytes := 65536, dies := [0] } }, 1, cm 0x6 .started [(16, 1, 2), (20, 4, 1), (24, 4, 2), (48, 8, 64)], 1, { kind := 1, bytes := 65536, dies := [0] }, by decide +kernel⟩,
    ⟨{ one (cm 0x6 .started [(16, 1, 3), (20, 4, 5)]) with parts := [(0, { function := 1, groups := 1, sets := [(0x0600, 8), (0x0200, 2 ^ 30), (0x0400, 2 ^ 30), (0x0800, 4)] })], seqs := [(5, { state := .active, layers := 1, kvHeads := 1, kvFmt := 1, maxLen := 64 })] }, 1, cm 0x6 .started [(16, 1, 3), (20, 4, 5)], _, ⟨by decide +kernel, rfl, by decide +kernel, by decide +kernel, rfl, fun w h => absurd (show w ∈ ([] : List Nat) from h) List.not_mem_nil⟩⟩,
    ⟨{ richOne [] (cm 0x6 .started [(16, 1, 6), (20, 4, 1), (88, 1, 2)]) with objects := four { kind := 1, bytes := 65536, dies := [0] } }, 1, cm 0x6 .started [(16, 1, 6), (20, 4, 1), (88, 1, 2)], 1, { kind := 1, bytes := 65536, dies := [0] }, by decide +kernel⟩,
    ⟨up, cm 0x06 .ready [(16, 1, 3)], by decide +kernel⟩,
    ⟨{ up with objects := four { kind := 1, bytes := 65536, dies := [0] } }, cm 0x06 .ready [(16, 1, 6), (20, 4, 1)], 1, { kind := 1, bytes := 65536, dies := [0] }, by decide +kernel⟩⟩

theorem witness_CodecAndDetectionRun :
  (∃ (s : State) (id : Nat) (c : Cmd), (Live s id 0x08 c) ∧ (cdOp c = 0) ∧ (c.target.isSome = true))
  ∧ (∃ (s : State) (id : Nat) (c : Cmd) (x : _), (Live s id 0x08 c) ∧ (cdOp c = 4) ∧ (s.streamBusy id c = false) ∧ (s.codecBound c = none)
      ∧ (s.stream? c = some x) ∧ (c.f 17 1 < s.engines.length))
  ∧ (∃ (s : State) (id : Nat) (c : Cmd), (Live s id 0x08 c) ∧ (cdOp c = 3) ∧ (s.streamBusy id c = false) ∧ (s.codecBound c = none)
      ∧ (c.f 17 1 < s.engines.length))
  ∧ (∃ (s : State) (id : Nat) (c : Cmd) (x : _) (k : _) (o : _) (q : _), (q ∈ [(Instr.codecEncode id, 1), (Instr.codecDecode id, 2)])
      ∧ (Live s id 0x08 c) ∧ ((cdOp c = 1 ∨ cdOp c = 2)) ∧ (c.phase = .started) ∧ (s.engineTurn (c.f 17 1) id = true) ∧ (s.codecState id c = none)
      ∧ (s.stream? c = some x) ∧ (s.obj? c.owner (c.f 24 4) = some (k, o)) ∧ ((s.obj? c.owner (c.f 44 4)).isSome = true) ∧ (cdOp c = q.2))
  ∧ (∃ (s : State) (die : Nat) (id : _), (s.serving = true) ∧ (s.engineWorking die = none) ∧ (die < s.engines.length)
      ∧ (s.nextItem die = some id))
  ∧ (∃ (s : State) (die : Nat), (s.serving = true) ∧ (s.engineWorking die = none) ∧ (die < s.engines.length) ∧ (s.nextItem die = none))
  ∧ (∃ (s : State) (id : Nat) (c : Cmd), (Live s id 0x09 c) ∧ (c.phase = .started) ∧ ((∀ d < 8, s.hasItem d c = false))
      ∧ ((∀ off ∈ [16, 20, 24, 28], (s.obj? c.owner (c.f off 4)).isSome = true))) :=
    ⟨⟨one ({ cm 0x8 .started [] with target := some 0 }), 1, { cm 0x8 .started [] with target := some 0 }, by decide +kernel⟩,
    ⟨{ one (cm 0x8 .started [(16, 1, 4)]) with engines := List.replicate 8 { streams := [(0, { part := 0, plan := 0, ring := 1, live := false, livePriority := 0, buffers := [], bufferBytes := 0 })] } }, 1, cm 0x8 .started [(16, 1, 4)], { part := 0, plan := 0, ring := 1, live := false, livePriority := 0, buffers := [], bufferBytes := 0 }, by decide +kernel⟩,
    ⟨{ one (cm 0x8 .started [(16, 1, 3)]) with engines := List.replicate 8 { streams := [(0, { part := 0, plan := 0, ring := 1, live := false, livePriority := 0, buffers := [], bufferBytes := 0 })] } }, 1, cm 0x8 .started [(16, 1, 3)], by decide +kernel⟩,
    ⟨{ one (cm 0x8 .started [(16, 1, 1), (24, 4, 1), (44, 4, 2)]) with engines := List.replicate 8 { streams := [(0, { part := 0, plan := 0, ring := 1, live := false, livePriority := 0, buffers := [], bufferBytes := 0 })] }, objects := four { kind := 1, bytes := 65536, dies := [0] } }, 1, cm 0x8 .started [(16, 1, 1), (24, 4, 1), (44, 4, 2)], { part := 0, plan := 0, ring := 1, live := false, livePriority := 0, buffers := [], bufferBytes := 0 }, 1, { kind := 1, bytes := 65536, dies := [0] }, (Instr.codecEncode 1, 1), by decide +kernel⟩,
    ⟨one (cm 0x8 .started [(16, 1, 1), (17, 1, 7)]), 7, 1, by decide +kernel⟩,
    ⟨up, 7, by decide +kernel⟩,
    ⟨{ one (cm 0x9 .started [(16, 4, 1), (20, 4, 2), (24, 4, 3), (28, 4, 4)]) with objects := four { kind := 1, bytes := 65536, dies := [0] } }, 1, cm 0x9 .started [(16, 4, 1), (20, 4, 2), (24, 4, 3), (28, 4, 4)], by decide +kernel⟩⟩

theorem witness_ModelsLoadUnloadAndBind :
  (∃ (s : State) (id : Nat) (c : Cmd), (Live s id 0x49 c) ∧ (c.f 16 1 = 0) ∧ (c.phase = .admitted) ∧ (s.downLink c = none)
      ∧ (mlRelay c = true))
  ∧ (∃ (s : State) (id : Nat) (c : Cmd), (Live s id 0x49 c) ∧ (c.f 16 1 = 0) ∧ (c.phase = .admitted) ∧ (s.downLink c = none)
      ∧ (mlRelay c = false) ∧ (mlDown c = false) ∧ (c.load = none))
  ∧ (∃ (s : State) (id : Nat) (st : Nat) (dt : Nat) (m : Bytes) (c : Cmd) (k : Load), (s.cmd? id = some c) ∧ (c.load = some k)
      ∧ (s.manifestFail c k m = some (st, dt)))
  ∧ (∃ (s : State) (link : Nat) (m : Msg), (LinkServes s link) ∧ (s.shapeOk) ∧ (m.type = 0x20) ∧ (s.loadFor false link m = none))
  ∧ (∃ (s : State) (link : Nat) (id : Nat) (m : Msg) (c : Cmd) (k : Load), (LinkServes s link) ∧ (s.cmd? id = some c) ∧ (c.load = some k)
      ∧ (c.phase = .started) ∧ (m.type = 0x21) ∧ (s.loadFor true link m = some (id, c)) ∧ (k.manifestOk = false)
      ∧ (m.segment * 16384 = k.manifest.length) ∧ ((k.manifest ++ m.payload).length < 128))
  ∧ (∃ (s : State) (link : Nat) (id : Nat) (m : Msg) (c : Cmd) (k : Load) (x : _), (LinkServes s link) ∧ (s.cmd? id = some c)
      ∧ (c.load = some k) ∧ (c.phase = .started) ∧ (m.type = 0x22) ∧ (s.loadFor true link m = some (id, c))
      ∧ (NMap.get? k.shards m.segment = some x) ∧ (x.verified = false) ∧ (x.complete = false) ∧ (x.gone = false) ∧ (m.aux = x.got) ∧ (m.aux ≠ 0)
      ∧ (m.aux + m.payload.length ≤ shLen k.manifest m.segment))
  ∧ (∃ (s : State) (link : Nat) (id : Nat) (m : Msg) (c : Cmd) (k : Load) (x : _), (LinkServes s link) ∧ (s.cmd? id = some c)
      ∧ (c.load = some k) ∧ (c.phase = .started) ∧ (m.type = 0x23) ∧ (s.loadFor false link m = some (id, c))
      ∧ (NMap.get? k.shards m.segment = some x) ∧ ((∃ e ∈ k.shards, e.2.verified = false ∧ e.2.gone = false)))
  ∧ (∃ (s : State) (link : Nat) (id : Nat) (m : Msg) (c : Cmd) (k : Load) (x : _), (LinkServes s link) ∧ (s.cmd? id = some c)
      ∧ (c.load = some k) ∧ (c.phase = .started) ∧ (m.type = 0x24) ∧ (s.loadFor false link m = some (id, c))
      ∧ (NMap.get? k.shards m.segment = some x) ∧ (x.verified = true))
  ∧ (∃ (s : State) (link : Nat) (id : Nat) (m : Msg) (c : Cmd) (k : Load), (LinkServes s link) ∧ (s.cmd? id = some c) ∧ (c.load = some k)
      ∧ (c.phase = .started) ∧ (m.type = 0x25) ∧ (s.loadFor false link m = some (id, c)) ∧ (s.loadFor true link m = none)
      ∧ ((∃ e ∈ k.shards, e.2.verified = false ∧ e.2.gone = false)))
  ∧ (∃ (s : State) (id : Nat) (shard : Nat) (c : Cmd) (k : Load) (x : Shard), (s.serving = true) ∧ (s.cmd? id = some c) ∧ (c.opcode = 0x49)
      ∧ (c.phase = .started) ∧ (c.load = some k) ∧ (NMap.get? k.shards shard = some x) ∧ (k.manifestOk = true) ∧ (x.complete = true)
      ∧ (x.verified = false) ∧ (mlRelay c = true))
  ∧ (∃ (s : State) (id : Nat) (shard : Nat) (c : Cmd) (k : Load) (x : Shard) (t : Word), (s.serving = true) ∧ (s.cmd? id = some c)
      ∧ (c.opcode = 0x49) ∧ (c.phase = .started) ∧ (c.load = some k) ∧ (NMap.get? k.shards shard = some x) ∧ (k.manifestOk = true)
      ∧ (x.complete = false) ∧ (x.verified = false) ∧ (x.gone = false) ∧ (x.naks = 0)
      ∧ (mfTimeout k.manifest * 100000 ≤ ((s.reach c.home t).counter c.home - k.lastUp).toNat))
  ∧ (∃ (s : State) (id : Nat) (c : Cmd) (k : Load) (t : Word), (s.serving = true) ∧ (s.cmd? id = some c) ∧ (c.opcode = 0x49)
      ∧ (c.phase = .started) ∧ (c.load = some k) ∧ (mlRelay c = true) ∧ (k.manifestOk = false)
      ∧ (100000000 ≤ ((s.reach c.home t).counter c.home - c.admitAt).toNat) ∧ (c.f 32 8 = 0))
  ∧ (∃ (s : State) (id : Nat) (c : Cmd) (k : Load) (t : Word), (s.serving = true) ∧ (s.cmd? id = some c) ∧ (c.opcode = 0x49)
      ∧ (c.phase = .started) ∧ (c.load = some k) ∧ (mlRelay c = true) ∧ (k.manifestOk = false)
      ∧ (100000000 ≤ ((s.reach c.home t).counter c.home - c.admitAt).toNat) ∧ (c.f 32 8 ≠ 0)
      ∧ ((s.reach c.home t).dmaStop ((s.reach c.home t).functionOf c.owner) = none))
  ∧ (∃ (s : State) (id : Nat) (c : Cmd) (k : Load) (t : Word) (z : _), (s.serving = true) ∧ (s.cmd? id = some c) ∧ (c.opcode = 0x49)
      ∧ (c.phase = .started) ∧ (c.load = some k) ∧ (mlRelay c = true) ∧ (k.manifestOk = false)
      ∧ (100000000 ≤ ((s.reach c.home t).counter c.home - c.admitAt).toNat) ∧ (c.f 32 8 ≠ 0)
      ∧ ((s.reach c.home t).dmaStop ((s.reach c.home t).functionOf c.owner) = some z))
  ∧ (∃ (s : State) (id : Nat) (c : Cmd) (k : Load) (t : Word), (s.serving = true) ∧ (s.cmd? id = some c) ∧ (c.opcode = 0x49)
      ∧ (c.phase = .started) ∧ (c.load = some k) ∧ (mlDown c = true) ∧ (k.manifestOk = true)
      ∧ (mfTimeout k.manifest * 100000 ≤ ((s.reach c.home t).counter c.home - k.lastDown).toNat))
  ∧ (∃ (s : State) (id : Nat) (c : Cmd) (m : Model), (Live s id 0x49 c) ∧ (c.f 16 1 = 1)
      ∧ (NMap.get? s.models (objKey c.owner (c.f 20 4)) = some m) ∧ (s.modelNamed id (c.f 20 4) m = false)
      ∧ (s.alloys.any (fun a => a.2.base == objKey c.owner (c.f 20 4)) = false))
  ∧ (∃ (s : State) (id : Nat) (c : Cmd), (Live s id 0x4A c) ∧ (c.f 16 1 = 0) ∧ (s.bindFail c (readAdapters s (c.f 32 8) (c.f 17 1)) = none))
  ∧ (∃ (s : State) (id : Nat) (c : Cmd) (st : _) (dt : _), (Live s id 0x4A c) ∧ (c.f 16 1 = 0)
      ∧ (s.bindFail c (readAdapters s (c.f 32 8) (c.f 17 1)) = some (st, dt)))
  ∧ (∃ (s : State) (id : Nat) (c : Cmd) (a : Alloy), (Live s id 0x4A c) ∧ (c.f 16 1 = 1)
      ∧ (NMap.get? s.alloys (objKey c.owner (c.f 24 4)) = some a)
      ∧ (s.rangeNamed id c.owner (c.f 24 4) (c.f 24 4 + a.tensors + 2 * a.adapters.length) = false)) :=
    ⟨⟨{ one (cm 0x49 .admitted [(16, 1, 0), (17, 1, 1), (18, 1, 7), (19, 1, 0xFF)]) with links := List.replicate 8 { trained := true } }, 1, cm 0x49 .admitted [(16, 1, 0), (17, 1, 1), (18, 1, 7), (19, 1, 0xFF)], by decide +kernel⟩,
    ⟨{ one (cm 0x49 .admitted [(16, 1, 0), (17, 1, 0), (18, 1, 0xFF), (19, 1, 0xFF)]) with links := List.replicate 8 { trained := true } }, 1, cm 0x49 .admitted [(16, 1, 0), (17, 1, 0), (18, 1, 0xFF), (19, 1, 0xFF)], by decide +kernel⟩,
    ⟨{ one ({ cm 0x49 .started [(16, 1, 0), (24, 4, 0xFFFFFFFF)] with load := some {} }) with links := List.replicate 8 { trained := true } }, 1, 0x10, 0x0118, img 128 [(16, 4, 2)], { cm 0x49 .started [(16, 1, 0), (24, 4, 0xFFFFFFFF)] with load := some {} }, {}, by decide +kernel⟩,
    ⟨{ up with links := List.replicate 8 { trained := true } }, 7, { type := 0x20 }, ⟨by decide +kernel, by unfold State.shapeOk; decide +kernel, rfl, by decide +kernel⟩⟩,
    ⟨{ one ({ cm 0x49 .started [(16, 1, 0), (17, 1, 1), (18, 1, 7), (19, 1, 0xFF)] with load := some {} }) with links := List.replicate 8 { trained := true } }, 7, 1, { type := 0x21, payload := [1] }, { cm 0x49 .started [(16, 1, 0), (17, 1, 1), (18, 1, 7), (19, 1, 0xFF)] with load := some {} }, {}, by decide +kernel⟩,
    ⟨{ one ({ cm 0x49 .started [(16, 1, 0), (17, 1, 1), (18, 1, 7), (19, 1, 0xFF)] with load := some { manifest := (img 192 [(20, 4, 1), (152, 4, 100)]), shards := [(0, { got := 10 })] } }) with links := List.replicate 8 { trained := true } }, 7, 1, { type := 0x22, aux := 10, payload := [1] }, { cm 0x49 .started [(16, 1, 0), (17, 1, 1), (18, 1, 7), (19, 1, 0xFF)] with load := some { manifest := (img 192 [(20, 4, 1), (152, 4, 100)]), shards := [(0, { got := 10 })] } }, { manifest := (img 192 [(20, 4, 1), (152, 4, 100)]), shards := [(0, { got := 10 })] }, { got := 10 }, by decide +kernel⟩,
    ⟨{ one ({ cm 0x49 .started [(16, 1, 0), (17, 1, 0), (18, 1, 0xFF), (19, 1, 7)] with load := some { shards := [(0, {})] } }) with links := List.replicate 8 { trained := true } }, 7, 1, { type := 0x23 }, { cm 0x49 .started [(16, 1, 0), (17, 1, 0), (18, 1, 0xFF), (19, 1, 7)] with load := some { shards := [(0, {})] } }, { shards := [(0, {})] }, {}, by decide +kernel⟩,
    ⟨{ one ({ cm 0x49 .started [(16, 1, 0), (17, 1, 0), (18, 1, 0xFF), (19, 1, 7)] with load := some { shards := [(0, { verified := true })] } }) with links := List.replicate 8 { trained := true } }, 7, 1, { type := 0x24 }, { cm 0x49 .started [(16, 1, 0), (17, 1, 0), (18, 1, 0xFF), (19, 1, 7)] with load := some { shards := [(0, { verified := true })] } }, { shards := [(0, { verified := true })] }, { verified := true }, by decide +kernel⟩,
    ⟨{ one ({ cm 0x49 .started [(16, 1, 0), (17, 1, 0), (18, 1, 0xFF), (19, 1, 7)] with load := some { shards := [(0, {})] } }) with links := List.replicate 8 { trained := true } }, 7, 1, { type := 0x25 }, { cm 0x49 .started [(16, 1, 0), (17, 1, 0), (18, 1, 0xFF), (19, 1, 7)] with load := some { shards := [(0, {})] } }, { shards := [(0, {})] }, by decide +kernel⟩,
    ⟨{ one ({ cm 0x49 .started [(16, 1, 0), (17, 1, 1), (18, 1, 7), (19, 1, 0xFF)] with load := some { manifestOk := true, shards := [(0, { complete := true })] } }) with links := List.replicate 8 { trained := true } }, 1, 0, { cm 0x49 .started [(16, 1, 0), (17, 1, 1), (18, 1, 7), (19, 1, 0xFF)] with load := some { manifestOk := true, shards := [(0, { complete := true })] } }, { manifestOk := true, shards := [(0, { complete := true })] }, { complete := true }, by decide +kernel⟩,
    ⟨{ one ({ cm 0x49 .started [(16, 1, 0), (17, 1, 1), (18, 1, 7), (19, 1, 0xFF)] with load := some { manifestOk := true, shards := [(0, {})] } }) with links := List.replicate 8 { trained := true } }, 1, 0, { cm 0x49 .started [(16, 1, 0), (17, 1, 1), (18, 1, 7), (19, 1, 0xFF)] with load := some { manifestOk := true, shards := [(0, {})] } }, { manifestOk := true, shards := [(0, {})] }, {}, 0, by decide +kernel⟩,
    ⟨{ one ({ cm 0x49 .started [(16, 1, 0), (17, 1, 1), (18, 1, 7), (19, 1, 0xFF)] with load := some {} }) with links := List.replicate 8 { trained := true } }, 1, { cm 0x49 .started [(16, 1, 0), (17, 1, 1), (18, 1, 7), (19, 1, 0xFF)] with load := some {} }, {}, 100000000, by decide +kernel⟩,
    ⟨{ one ({ cm 0x49 .started [(16, 1, 0), (17, 1, 1), (18, 1, 7), (19, 1, 0xFF), (32, 8, 4096)] with load := some {} }) with links := List.replicate 8 { trained := true } }, 1, { cm 0x49 .started [(16, 1, 0), (17, 1, 1), (18, 1, 7), (19, 1, 0xFF), (32, 8, 4096)] with load := some {} }, {}, 100000000, by decide +kernel⟩,
    ⟨{ { one ({ cm 0x49 .started [(16, 1, 0), (17, 1, 1), (18, 1, 7), (19, 1, 0xFF), (32, 8, 4096)] with load := some {} }) with links := List.replicate 8 { trained := true } } with sec := { ide := [(3, { insecure := true, fns := [1] })] } }, 1, { cm 0x49 .started [(16, 1, 0), (17, 1, 1), (18, 1, 7), (19, 1, 0xFF), (32, 8, 4096)] with load := some {} }, {}, 100000000, 3, by decide +kernel⟩,
    ⟨{ one ({ cm 0x49 .started [(16, 1, 0), (17, 1, 0), (18, 1, 0xFF), (19, 1, 7)] with load := some { manifestOk := true } }) with links := List.replicate 8 { trained := true } }, 1, { cm 0x49 .started [(16, 1, 0), (17, 1, 0), (18, 1, 0xFF), (19, 1, 7)] with load := some { manifestOk := true } }, { manifestOk := true }, 0, by decide +kernel⟩,
    ⟨{ one (cm 0x49 .admitted [(16, 1, 1), (20, 4, 3)]) with models := [(3, { owner := 0, layers := 0, kvHeads := 0, handleBase := 5, tensors := [], publisher := [], manifest := [] })] }, 1, cm 0x49 .admitted [(16, 1, 1), (20, 4, 3)], { owner := 0, layers := 0, kvHeads := 0, handleBase := 5, tensors := [], publisher := [], manifest := [] }, by decide +kernel⟩,
    ⟨{ one (cm 0x4a .admitted [(20, 4, 3), (24, 4, 9)]) with models := [(3, { owner := 0, layers := 0, kvHeads := 0, handleBase := 5, tensors := [], publisher := [], manifest := [] })] }, 1, cm 0x4a .admitted [(20, 4, 3), (24, 4, 9)], by decide +kernel⟩,
    ⟨one (cm 0x4a .admitted [(20, 4, 3), (24, 4, 9)]), 1, cm 0x4a .admitted [(20, 4, 3), (24, 4, 9)], E_MODEL_STATE, 3, by decide +kernel⟩,
    ⟨{ one (cm 0x4a .admitted [(16, 1, 1), (24, 4, 9)]) with alloys := [(9, { modelId := 3, shared := false, owner := 0, tensors := 1, adapters := [] })] }, 1, cm 0x4a .admitted [(16, 1, 1), (24, 4, 9)], { modelId := 3, shared := false, owner := 0, tensors := 1, adapters := [] }, by decide +kernel⟩⟩

theorem witness_BytesAreLittleEndian :
  (∃ (n : Nat) (i : Nat), (i < n))
  ∧ (∃ (h : Nat) (l : Nat), (l ≤ h)) :=
    ⟨⟨1, 0, by decide +kernel⟩,
    ⟨0, 0, by decide +kernel⟩⟩

theorem witness_IngotsRoundTrip :
  (∃ (h : Header), (h.fmt < 256) ∧ (h.axis ≤ 1) ∧ (h.object < 2 ^ 32) ∧ (h.index < 2 ^ 32) ∧ (h.commit < 2 ^ 32) ∧ (h.promoted < 2 ^ 16)
      ∧ (h.degraded < 2 ^ 16) ∧ (h.rows < 2 ^ 128))
  ∧ (∃ (w : Nat) (cs : List Nat), w ∈ [4, 6, 8, 16, 32] ∧ 4 ∣ cs.length ∧ (∀ x ∈ cs, x < 2 ^ w) ∧ 3 < cs.length) :=
    ⟨⟨headerOf [], by decide +kernel⟩,
    ⟨32, [2 ^ 32 - 1, 0, 1, 2], by decide +kernel⟩⟩

theorem witness_RoundingIsNearestEven :
  (∃ (L : Layout) (q : Rat) (m : Nat), L ∈ [e2m1, e2m3, e3m2, e4m3, e5m2, bf16, fp16, fp32] ∧ 0 ≤ q ∧ m ≠ L.nearest q
      ∧ ratAbs (L.magnitude m - q) = ratAbs (L.magnitude (L.nearest q) - q)) :=
    ⟨e2m1, 1 / 4, 1, by decide +kernel⟩

theorem witness_MitusMapIsOneToOne :
  (∃ (d : _) (n : _) (a : _), (d < 8) ∧ (n ≤ 64) ∧ (a < 3 * n * 2 ^ 30))
  ∧ (∃ (d : _) (n : _) (a : _) (b : _), (n ≤ 64) ∧ (a < 3 * n * 2 ^ 30) ∧ (b < 3 * n * 2 ^ 30) ∧ (mitusNear d a = mitusNear d b))
  ∧ (∃ (n : _) (a : _), (n ≤ 64) ∧ (a < 24 * (64 - n) * 2 ^ 30))
  ∧ (∃ (n : _) (a : _) (b : _), (n ≤ 64) ∧ (a < 24 * (64 - n) * 2 ^ 30) ∧ (b < 24 * (64 - n) * 2 ^ 30) ∧ (mitusFar n a = mitusFar n b))
  ∧ (∃ (a : Nat), (a < 0x018000000000))
  ∧ (∃ (s : State) (a : Nat), (s.mitusEn = true) ∧ (a < 3 * s.near * 2 ^ 30))
  ∧ (∃ (s : State) (a : Nat), (s.mitusEn = true) ∧ (a < 24 * (64 - s.near) * 2 ^ 30))
  ∧ (∃ (s : State) (a : Nat), (s.mitusEn = false) ∧ (0x018000000000 ≤ a)) :=
    ⟨⟨7, 64, 206158430207, by decide +kernel⟩,
    ⟨7, 64, 0, 0, by decide +kernel⟩,
    ⟨0, 1649267441663, by decide +kernel⟩,
    ⟨0, 1649267441663, 1649267441663, by decide +kernel⟩,
    ⟨0x017FFFFFFFFF, by decide +kernel⟩,
    ⟨{ State.reset with mitusEn := true, nearGib := 16 }, 3 * 16 * 2 ^ 30 - 1, by decide +kernel⟩,
    ⟨{ State.reset with mitusEn := true, nearGib := 16 }, 24 * 48 * 2 ^ 30 - 1, by decide +kernel⟩,
    ⟨up, 0x018000000000, by decide +kernel⟩⟩

end Sys2Proof.Tests
end

section
/-! PROOF. R5: a number and its little-endian bytes determine each other, and the bits of a field are those of its word. -/

namespace Sys2Proof

@[simp] theorem length_leBytes (n v : Nat) : (leBytes n v).length = n := by
  induction n generalizing v with
  | zero => rfl
  | succ n ih => simp [leBytes, ih]

/-- Reading back the `n` low bytes of a number loses only what lies above them. -/
theorem leNat_leBytes (n v : Nat) : leNat (leBytes n v) = v % 256 ^ n := by
  induction n generalizing v with
  | zero => simp [leBytes, leNat, Nat.mod_one]
  | succ n ih =>
    calc leNat (leBytes (n + 1) v)
        = v % 256 + 256 * (v / 256 % 256 ^ n) := by simp [leBytes, leNat, ih]
      _ = v % 256 ^ (n + 1) := by rw [Nat.pow_succ', Nat.mod_mul]

theorem getElem?_leBytes {n i : Nat} (v : Nat) (hi : i < n) :
    (leBytes n v)[i]? = some (BitVec.ofNat 8 (v / 256 ^ i)) := by
  induction n generalizing v i with
  | zero => omega
  | succ n ih =>
    cases i with
    | zero => simp [leBytes]
    | succ i =>
      have tail : (leBytes n (v / 256))[i]? = some (BitVec.ofNat 8 (v / 256 / 256 ^ i)) :=
        ih (v / 256) (by omega)
      rw [leBytes, List.getElem?_cons_succ, tail, Nat.div_div_eq_div_mul, Nat.pow_succ']

theorem leNat_lt (b : Bytes) : leNat b < 256 ^ b.length := by
  induction b with
  | nil => simp [leNat]
  | cons x xs ih =>
    have hx : x.toNat < 256 := x.isLt
    rw [leNat, List.length_cons, Nat.pow_succ']
    omega

/-- A run of bytes is the little-endian spelling of its own number. -/
theorem leBytes_leNat (b : Bytes) : leBytes b.length (leNat b) = b := by
  induction b with
  | nil => rfl
  | cons x xs ih =>
    have hx : x.toNat < 256 := x.isLt
    have low : BitVec.ofNat 8 (x.toNat + 256 * leNat xs) = x := by
      apply BitVec.eq_of_toNat_eq
      rw [BitVec.toNat_ofNat]
      omega
    have high : (x.toNat + 256 * leNat xs) / 256 = leNat xs := by omega
    rw [leNat, List.length_cons, leBytes, low, high, ih]

/-- Both ends belong to a range, so it is `h + 1 - l` bits wide (R5). -/
theorem testBit_bitsOf (v h l i : Nat) :
    (bitsOf v h l).testBit i = true ↔ i < h + 1 - l ∧ v.testBit (l + i) = true := by
  simp [bitsOf, Nat.testBit_mod_two_pow, Nat.testBit_div_two_pow, Nat.add_comm]

/-- Settles O57, from the two round trips of little-endian bytes, the byte at an index and the bits of a range (R5). -/
theorem bytesAreLittleEndian : Obligations.BytesAreLittleEndian := by
  refine ⟨fun n v => ⟨length_leBytes n v, leNat_leBytes n v⟩, fun n v i hi => getElem?_leBytes v hi,
    fun b => ⟨leNat_lt b, leBytes_leNat b⟩, fun v h l i hl => ?_⟩
  have width : i < h + 1 - l ↔ l + i ≤ h := by omega
  rw [testBit_bitsOf, width]

end Sys2Proof
end

section
/-! PROOF. The shape of the part: the counts of its lists, and what each shared operation, command and event leaves of them. -/

namespace Sys2Proof.Machine

/-- What the shape of a die counts: the accumulator tiles of each physical quire, the logical ids and the quire stores. -/
def DieState.shape (x : DieState) : List Nat × Nat × Nat := (x.quires.map (·.tiles.length), x.logical.length, x.stores.length)

/-- What the shape of the part counts, list by list. -/
structure Shape where
  counters : Nat
  dies : List (List Nat × Nat × Nat)
  links : Nat
  hbm : Nat
  frames : Nat
  engines : Nat
  powers : Nat
  errs : Nat
  pool : Nat
  trees : Nat

def State.shape (s : State) : Shape where
  counters := s.counters.length
  dies := s.dies.map DieState.shape
  links := s.links.length
  hbm := s.hbm.length
  frames := s.frames.length
  engines := s.engines.length
  powers := s.power.dies.length
  errs := s.errs.length
  pool := s.pool.length
  trees := s.trees.length

/-- The counts of a state put together again. -/
@[simp] theorem State.shape_fold (s : State) :
    Shape.mk s.counters.length (s.dies.map DieState.shape) s.links.length s.hbm.length s.frames.length s.engines.length s.power.dies.length
      s.errs.length s.pool.length s.trees.length = s.shape := (rfl)

/-- The shape of a state given by its fields looks at ten of them. -/
@[simp] theorem State.shape_mk
    pending fresh counters boot pins resetCause warmResets fatal host half msix msixOut atc dma stalled lastDma queues t2cache admin subs comps fences 
    cmds nextCmd parts windows plans tables tempers objects seqs frames pool steps trees mitusEn nearGib hbm hbmRate repaired dies spine streams spineOut 
    unitOut links linkOut frameOut linkIn partId groups fprintWait models alloys engines flash sec serial spdmOut keyOut pldmOut power errs dropped 
    ceLog2 colo  :
    State.shape ⟨
      pending, fresh, counters, boot, pins, resetCause, warmResets, fatal, host, half, msix, msixOut, atc, dma, stalled, lastDma, queues, t2cache, admin, 
      subs, comps, fences, cmds, nextCmd, parts, windows, plans, tables, tempers, objects, seqs, frames, pool, steps, trees, mitusEn, nearGib, hbm, 
      hbmRate, repaired, dies, spine, streams, spineOut, unitOut, links, linkOut, frameOut, linkIn, partId, groups, fprintWait, models, alloys, engines, 
      flash, sec, serial, spdmOut, keyOut, pldmOut, power, errs, dropped, ceLog2, colo⟩ =
      ⟨counters.length, dies.map DieState.shape, links.length, hbm.length, frames.length, engines.length, power.dies.length,
        errs.length, pool.length, trees.length⟩ := (rfl)

@[simp] theorem State.shape_ite (p : Prop) [Decidable p] (s t : State) :
    (if p then s else t).shape = if p then s.shape else t.shape := apply_ite _ _ _ _

@[simp] theorem foldl_shape {α : Type} (f : State → α → State) (l : List α) (s : State)
    (hf : ∀ (a : State) (x : α), (f a x).shape = a.shape) : (l.foldl f s).shape = s.shape := by
  induction l generalizing s with
  | nil => rfl
  | cons x l ih => exact (ih _).trans (hf _ _)

@[simp] theorem foldl_shape_fst {α β : Type} (f : State × β → α → State × β) (l : List α) (x : State × β)
    (hf : ∀ (a : State × β) (y : α), (f a y).1.shape = a.1.shape) : (l.foldl f x).1.shape = x.1.shape := by
  induction l generalizing x with
  | nil => rfl
  | cons y l ih => exact (ih _).trans (hf _ _)

/-- An outcome that is a next state has the shape of the state before. -/
def SameShape (s : State) (o : Host.Outcome State Fault Refusal) : Prop := ∀ t, o = .next t → t.shape = s.shape

@[simp] theorem sameShape_next (s t : State) : SameShape s (.next t) ↔ t.shape = s.shape := by
  simp [SameShape]
@[simp] theorem sameShape_fault (s : State) (f : Fault) : SameShape s (.fault f) := by
  simp [SameShape]
@[simp] theorem sameShape_ite (s : State) (p : Prop) [Decidable p] (a b : Host.Outcome State Fault Refusal) :
    SameShape s (if p then a else b) ↔ if p then SameShape s a else SameShape s b := by
  split <;> rfl

/-- Putting in place of an entry another that counts alike leaves all counts. -/
theorem map_set_of_getD {α β : Type} (f : α → β) (l : List α) (i : Nat) (x d : α) (h : f x = f (l.getD i d)) : (l.set i x).map f = l.map f := by
  apply List.ext_getElem (by simp)
  intro j h1 h2
  simp only [List.length_map, List.length_set] at h1 h2
  rw [List.getElem_map, List.getElem_map, List.getElem_set]
  split
  · next e => subst e; rw [h, List.getD_eq_getElem _ _ h2]
  · rfl

theorem State.setDie_shape (s : State) (d : Nat) (x : DieState) (h : x.shape = (s.dieAt d).shape) : (s.setDie d x).shape = s.shape := by
  simp only [State.setDie, State.shape_mk, map_set_of_getD DieState.shape s.dies d x {} h, State.shape_fold]

/-- A control command's judgement that is a new state has the shape of the state judged. -/
def JudgeShape (s : State) (r : Except (Nat × Nat) (State × Nat × Nat)) : Prop := ∀ x, r = .ok x → x.1.shape = s.shape

@[simp] theorem judgeShape_ok (s : State) (x : State × Nat × Nat) : JudgeShape s (.ok x) ↔ x.1.shape = s.shape := by
  simp [JudgeShape]
@[simp] theorem judgeShape_error (s : State) (f : Nat × Nat) : JudgeShape s (.error f) := by
  simp [JudgeShape]
@[simp] theorem judgeShape_ite (s : State) (p : Prop) [Decidable p] (a b : Except (Nat × Nat) (State × Nat × Nat)) :
    JudgeShape s (if p then a else b) ↔ if p then JudgeShape s a else JudgeShape s b := by
  split <;> rfl

/-- The counts of a die put together again. -/
@[simp] theorem DieState.shape_fold (x : DieState) : (x.quires.map (·.tiles.length), x.logical.length, x.stores.length) = x.shape := (rfl)

@[simp] theorem DieState.shape_mk (fenced : Bool) (quires : List Quire) (logical : List (Option Nat)) (staging : NMap Nat)
    (stores : List (List T0Copy)) (cache : NMap CacheLine) (plru : NMap Nat) (deadWays : List (Nat × Nat)) :
    DieState.shape ⟨fenced, quires, logical, staging, stores, cache, plru, deadWays⟩ =
      (quires.map (·.tiles.length), logical.length, stores.length) := (rfl)

theorem DieState.touch_shape (x : DieState) (line : Nat) (write pin : Bool) : (x.touch line write pin).shape = x.shape := by
  simp only [DieState.touch]
  repeat' split
  all_goals simp

@[simp] theorem DieState.unpin_shape (x : DieState) (mine : Nat → Bool) : (x.unpin mine).shape = x.shape := by
  simp [DieState.unpin]

@[simp] theorem map_comp_shape (f : DieState → DieState) (l : List DieState) (h : ∀ x, (f x).shape = x.shape) :
    l.map (DieState.shape ∘ f) = l.map DieState.shape :=
  List.map_congr_left fun x _ => h x

theorem foldl_die_shape {α : Type} (f : DieState → α → DieState) (l : List α) (x : DieState) (h : ∀ y a, (f y a).shape = y.shape) :
    (l.foldl f x).shape = x.shape := by
  induction l generalizing x with
  | nil => rfl
  | cons a l ih => exact (ih _).trans (h _ _)

theorem foldl_length {α β : Type} (f : List β → α → List β) (l : List α) (m : List β) (h : ∀ n a, (f n a).length = n.length) :
    (l.foldl f m).length = m.length := by
  induction l generalizing m with
  | nil => rfl
  | cons a l ih => exact (ih _).trans (h _ _)

/-- Changing each entry by its place in a way that keeps what is counted of it. -/
theorem map_zipIdx_map {α β : Type} (g : α → β) (f : α × Nat → α) (l : List α) (h : ∀ x, g (f x) = g x.1) :
    (l.zipIdx.map f).map g = l.map g := by
  have hg : g ∘ f = g ∘ Prod.fst := funext h
  rw [List.map_map, hg, ← List.map_map, List.zipIdx_map_fst]

theorem map_modify_of_eq {α β : Type} (g : α → β) (f : α → α) (l : List α) (i : Nat) (h : ∀ x, g (f x) = g x) :
    (l.modify i f).map g = l.map g := by
  refine List.ext_getElem? fun j => ?_
  rw [List.getElem?_map, List.getElem?_modify, List.getElem?_map, Option.map_eq_map, Option.map_map]
  congr 1
  funext x
  simp only [Function.comp_apply]
  split
  · exact h x
  · rfl

/-! ### Ops -/

@[simp] theorem State.asDma_shape (s : State) (fn : Nat) (write : Bool) (a n : Nat) : (s.asDma fn write a n).shape = s.shape := (rfl)

@[simp] theorem State.hostWrite_shape (s : State) (fn a : Nat) (bs : Bytes) : (s.hostWrite fn a bs).shape = s.shape := (rfl)

@[simp] theorem State.releaseWrites_shape (s : State) : s.releaseWrites.shape = s.shape := by simp [State.releaseWrites]

@[simp] theorem State.hostStores_shape (s : State) (cs : List Host.Cell) : (s.hostStores cs).shape = s.shape := (rfl)

@[simp] theorem State.reach_shape (s : State) (d : Nat) (t : Word) : (s.reach d t).shape = s.shape := by simp [State.reach]

@[simp] theorem State.tick_shape (s : State) : s.tick.shape = s.shape := by simp [State.tick]

@[simp] theorem State.takeFresh_shape (s : State) : s.takeFresh.shape = s.shape := (rfl)

@[simp] theorem State.setLink_shape (s : State) (l : Nat) (x : Link) : (s.setLink l x).shape = s.shape := by simp [State.setLink]

@[simp] theorem State.setStack_shape (s : State) (k : Nat) (x : Stack) : (s.setStack k x).shape = s.shape := by simp [State.setStack]

@[simp] theorem State.setEngine_shape (s : State) (d : Nat) (x : Engine) : (s.setEngine d x).shape = s.shape := by simp [State.setEngine]

@[simp] theorem State.setDiePower_shape (s : State) (d : Nat) (x : DiePower) : (s.setDiePower d x).shape = s.shape := by
  simp [State.setDiePower]

@[simp] theorem State.setFrames_shape (s : State) (d : Nat) (x : NMap Frame) : (s.setFrames d x).shape = s.shape := by simp [State.setFrames]

@[simp] theorem State.sendMsix_shape (s : State) (fn vec : Nat) : (s.sendMsix fn vec).shape = s.shape := by simp [State.sendMsix]

@[simp] theorem State.flushMsix_shape (s : State) (fn : Nat) : (s.flushMsix fn).shape = s.shape := by simp [State.flushMsix]

@[simp] theorem State.sendLink_shape (s : State) (l : Nat) (m : Msg) : (s.sendLink l m).shape = s.shape := (rfl)

/-! ### Share -/

@[simp] theorem State.meter_shape (s : State) (part res inst n : Nat) : (s.meter part res inst n).shape = s.shape := (rfl)

@[simp] theorem State.visit_shape (s : State) (q part : Nat) (x : ResQueue) : (s.visit q part x).shape = s.shape := by simp [State.visit]

@[simp] theorem State.serveQueue_shape (fuel q : Nat) (s : State) : (State.serveQueue fuel q s).shape = s.shape := by
  induction fuel generalizing s with
  | zero => rfl
  | succ fuel ih =>
    unfold State.serveQueue
    repeat' split
    all_goals simp [ih]

@[simp] theorem State.drain_shape (s : State) (q : Nat) : (s.drain q).shape = s.shape := by
  simp only [State.drain]
  split <;> simp

@[simp] theorem State.drainAll_shape (s : State) : s.drainAll.shape = s.shape := by simp [State.drainAll]

@[simp] theorem State.unqueue_shape (s : State) (part : Nat) : (s.unqueue part).shape = s.shape := (rfl)

@[simp] theorem State.request_shape (s : State) (q part n : Nat) : (s.request q part n).shape = s.shape := by simp [State.request]

@[simp] theorem State.bulkDma_shape (s : State) (part : Nat) (write : Bool) (a n : Nat) : (s.bulkDma part write a n).shape = s.shape := by
  simp [State.bulkDma]

@[simp] theorem State.bulkWrite_shape (s : State) (part a : Nat) (bs : Bytes) : (s.bulkWrite part a bs).shape = s.shape := by
  simp [State.bulkWrite]

@[simp] theorem State.setSpine_shape (s : State) (a b : Nat) (x : SpineLink) : (s.setSpine a b x).shape = s.shape := (rfl)

@[simp] theorem State.modDir_shape (s : State) (a b : Nat) (f : SpineDir → SpineDir) : (s.modDir a b f).shape = s.shape := (rfl)

@[simp] theorem State.pumpSpine_shape (s : State) (a b : Nat) : (s.pumpSpine a b).shape = s.shape := (rfl)

@[simp] theorem State.launch_shape (s : State) (m : SpineMsg) : (s.launch m).shape = s.shape := (rfl)

@[simp] theorem State.sendMsg_shape (s : State) (m0 : SpineMsg) : (s.sendMsg m0).shape = s.shape := by simp [State.sendMsg]

@[simp] theorem State.sendSpine_shape (s : State) (src dst ch : Nat) (p : Bytes) : (s.sendSpine src dst ch p).shape = s.shape := by
  simp [State.sendSpine]

@[simp] theorem State.sendSized_shape (s : State) (src dst ch size n : Nat) : (s.sendSized src dst ch size n).shape = s.shape := by
  simp [State.sendSized]

theorem State.takeNumber_shape {s t : State} {src dst ch : Nat} {n : BitVec 32} (e : s.takeNumber src dst ch n = some t) : t.shape = s.shape := by
  simp only [State.takeNumber] at e
  split at e
  · cases e
    rfl
  · split at e
    · cases e
      rfl
    · cases e

@[simp] theorem State.sendSpineFor_shape (s : State) (part src dst ch : Nat) (p : Bytes) : (s.sendSpineFor part src dst ch p).shape = s.shape := by
  simp [State.sendSpineFor]

@[simp] theorem State.farLines_shape (s : State) (part die home n : Nat) (write : Bool) : (s.farLines part die home n write).shape = s.shape := by
  simp [State.farLines]

@[simp] theorem State.farAdds_shape (s : State) (part die home len : Nat) : (s.farAdds part die home len).shape = s.shape := by
  simp [State.farAdds]

@[simp] theorem State.resend_shape (s : State) (a b : Nat) : (s.resend a b).shape = s.shape := by simp [State.resend]

@[simp] theorem State.crossed_shape (s : State) (m : SpineMsg) (a b : Nat) : (s.crossed m a b).shape = s.shape := by simp [State.crossed]

@[simp] theorem State.landed_shape (s : State) (m : SpineMsg) : (s.landed m).shape = s.shape := by simp [State.landed]

@[simp] theorem State.forward_shape (s : State) (m : SpineMsg) : (s.forward m).shape = s.shape := by simp [State.forward]

@[simp] theorem State.rerouted_shape (s old : State) : (s.rerouted old).shape = s.shape := by
  unfold State.rerouted
  refine foldl_shape _ _ _ fun a p => ?_
  split <;> simp

@[simp] theorem State.touchLine_shape (s : State) (part line : Nat) (write pin : Bool) : (s.touchLine part line write pin).shape = s.shape := by
  simp [State.touchLine, State.setDie_shape, DieState.touch_shape]

theorem DieState.restore_shape (x : DieState) (p : Nat) : (x.restore p).shape = x.shape := by
  unfold DieState.restore
  split <;> simp
theorem DieState.reassign_shape (x : DieState) (p : Nat) : (x.reassign p).shape = x.shape := by
  simp [DieState.reassign]

theorem State.modQuire_shape (s : State) (d p : Nat) (f : Quire → Quire) (h : ∀ q, (f q).tiles.length = q.tiles.length) :
    (s.modQuire d p f).shape = s.shape := by
  refine s.setDie_shape _ _ ?_
  rw [DieState.shape_mk, map_modify_of_eq _ _ _ _ h, DieState.shape_fold]

@[simp] theorem State.openTiles_shape (s : State) (d p plane cmd : Nat) (tiles : List Nat) : (s.openTiles d p plane cmd tiles).shape = s.shape :=
  State.modQuire_shape _ _ _ _ fun _ => foldl_length _ _ _ fun _ _ => List.length_set ..

@[simp] theorem State.fillTile_shape (s : State) (d p cmd tile : Nat) (elems : NMap Acc) : (s.fillTile d p cmd tile elems).shape = s.shape :=
  State.modQuire_shape _ _ _ _ fun _ => List.length_map ..

@[simp] theorem State.discardTiles_shape (s : State) (cmd : Nat) : (s.discardTiles cmd).shape = s.shape := by
  simp [State.discardTiles, Function.comp_def]

@[simp] theorem State.dropCopies_shape (s : State) (key version ingot : Nat) : (s.dropCopies key version ingot).shape = s.shape := by
  simp [State.dropCopies, Function.comp_def]

@[simp] theorem State.dropKey_shape (s : State) (key : Nat) : (s.dropKey key).shape = s.shape := by
  simp [State.dropKey, Function.comp_def]

@[simp] theorem State.stageAt_shape (s : State) (d q : Nat) (c : T0Copy) : (s.stageAt d q c).shape = s.shape :=
  State.setDie_shape _ _ _ (by simp)

@[simp] theorem State.touchFrame_shape (s : State) (d n off len : Nat) (write : Bool) : (s.touchFrame d n off len write).shape = s.shape := by
  simp only [State.touchFrame]
  split <;> simp

@[simp] theorem State.freeFrame_shape (s : State) (d n : Nat) : (s.freeFrame d n).shape = s.shape := by
  simp only [State.freeFrame]
  split <;> simp

/-! ### Errors -/

@[simp] theorem State.setErrs_shape (s : State) (d : Nat) (m : NMap ErrRec) : (s.setErrs d m).shape = s.shape := by simp [State.setErrs]

@[simp] theorem State.refreshAttn_shape (s : State) : s.refreshAttn.shape = s.shape := (rfl)

@[simp] theorem State.notifyErr_shape (s : State) (d slot : Nat) : (s.notifyErr d slot).shape = s.shape := by
  unfold State.notifyErr
  dsimp only
  repeat' split
  all_goals simp

@[simp] theorem State.countDropped_shape (s : State) : s.countDropped.shape = s.shape := (rfl)

@[simp] theorem State.report_shape (s : State) (r : Report) : (s.report r).shape = s.shape := by
  unfold State.report
  dsimp only
  repeat' split
  all_goals simp

@[simp] theorem State.protocolHs_shape (s : State) (info : Nat) : (s.protocolHs info).shape = s.shape := by simp [State.protocolHs]

@[simp] theorem State.clearErr_shape (s : State) (d slot : Nat) : (s.clearErr d slot).shape = s.shape := by simp [State.clearErr]

@[simp] theorem State.clearErrs_shape (s : State) (d : Nat) : (s.clearErrs d).shape = s.shape := by simp [State.clearErrs]

@[simp] theorem State.clearErrPending_shape (s : State) (d slot : Nat) : (s.clearErrPending d slot).shape = s.shape := by
  simp [State.clearErrPending]

@[simp] theorem State.clearDiePending_shape (s : State) (d : Nat) : (s.clearDiePending d).shape = s.shape := by simp [State.clearDiePending]

@[simp] theorem State.enterFatal_shape (s : State) (origin : Nat) : (s.enterFatal origin).shape = s.shape := by simp [State.enterFatal]

@[simp] theorem execErrorDeferredNotify_shape (die slot : Nat) (t : Word) (s : State) : SameShape s (execErrorDeferredNotify die slot t s) := by
  simp only [execErrorDeferredNotify]
  split <;> simp

@[simp] theorem execErrClearAll_shape (die : Nat) (s : State) : SameShape s (execErrClearAll die s) := by simp [execErrClearAll]

@[simp] theorem execErrClearPendingOnly_shape (die slot : Nat) (s : State) : SameShape s (execErrClearPendingOnly die slot s) := by
  simp [execErrClearPendingOnly]

@[simp] theorem execErrClearSlot_shape (die slot : Nat) (s : State) : SameShape s (execErrClearSlot die slot s) := by simp [execErrClearSlot]

@[simp] theorem execErrSummaryPendingClear_shape (mask : Nat) (s : State) : SameShape s (execErrSummaryPendingClear mask s) := by
  simp [execErrSummaryPendingClear]

@[simp] theorem execVfErrPendingClear_shape (pf : Bool) (part mask : Nat) (s : State) : SameShape s (execVfErrPendingClear pf part mask s) := by
  simp [execVfErrPendingClear]

/-! ### Rings -/

@[simp] theorem State.setSub_shape (s : State) (owner ring : Nat) (r : SubRing) : (s.setSub owner ring r).shape = s.shape := (rfl)

@[simp] theorem State.setComp_shape (s : State) (owner cq : Nat) (r : CompRing) : (s.setComp owner cq r).shape = s.shape := (rfl)

@[simp] theorem State.setCmd_shape (s : State) (id : Nat) (c : Cmd) : (s.setCmd id c).shape = s.shape := (rfl)

@[simp] theorem State.fireCq_shape (s : State) (owner cq : Nat) : (s.fireCq owner cq).shape = s.shape := by
  simp only [State.fireCq]
  split <;> simp

@[simp] theorem State.pushRecord_shape (s : State) (owner cq : Nat) (notify : Bool) (rec : Bool → Bytes) (reserved : Bool) :
    (s.pushRecord owner cq notify rec reserved).shape = s.shape := by
  simp only [State.pushRecord]
  split <;> simp

@[simp] theorem State.setFence_shape (s : State) (part f : Nat) (x : Fence) : (s.setFence part f x).shape = s.shape := (rfl)

@[simp] theorem State.recordFence_shape (s : State) (owner : Nat) (desc : Bytes) (status : Nat) : (s.recordFence owner desc status).shape = s.shape := by
  simp [State.recordFence]

@[simp] theorem State.account_shape (s : State) (owner ring home : Nat) (f : Acct → Acct) : (s.account owner ring home f).shape = s.shape :=
  (rfl)

@[simp] theorem State.writeEnd_shape (s : State) (id : Nat) (c : Cmd) (status detail : Nat) : (s.writeEnd id c status detail).shape = s.shape := by
  simp [State.writeEnd]

@[simp] theorem State.dropStaging_shape (s : State) (c : Cmd) : (s.dropStaging c).shape = s.shape := by
  unfold State.dropStaging
  split
  · exact foldl_shape _ _ _ fun a e => a.setDie_shape _ _ rfl
  · rfl

@[simp] theorem State.undo_shape (s : State) (c : Cmd) : (s.undo c).shape = s.shape := by
  unfold State.undo
  extract_lets s1 unshare s2a s2
  have h1 : s1.shape = s.shape := by simp [s1]
  have ha : s2a.shape = s.shape := by
    refine (foldl_shape _ _ _ fun a p => ?_).trans h1
    simp only [unshare]
    repeat' split
    all_goals simp
  have h2 : s2.shape = s.shape := by simp [s2, ha]
  repeat' split
  all_goals simp [h2]

@[simp] theorem State.farewell_shape (s : State) (c : Cmd) (status detail : Nat) : (s.farewell c status detail).shape = s.shape := by
  unfold State.farewell
  repeat' split
  all_goals simp

@[simp] theorem State.reportPoison_shape (s : State) (owner status detail : Nat) : (s.reportPoison owner status detail).shape = s.shape := by
  simp [State.reportPoison]

@[simp] theorem State.failCmd_shape (s : State) (id status detail : Nat) : (s.failCmd id status detail).shape = s.shape := by
  simp only [State.failCmd]
  split <;> simp

@[simp] theorem State.failRun_shape (s : State) (id : Nat) (c : Cmd) (f : Nat × Nat) : (s.failRun id c f).shape = s.shape := by
  simp only [State.failRun]
  split <;> simp

@[simp] theorem State.finish_shape (s : State) (id status detail : Nat) : (s.finish id status detail).shape = s.shape := by
  simp only [State.finish]
  split <;> simp

@[simp] theorem State.dropCmd_shape (s : State) (id : Nat) : (s.dropCmd id).shape = s.shape := by
  simp only [State.dropCmd]
  split <;> simp

@[simp] theorem State.serve_shape (s : State) (c : Cmd) (die : Nat) : (s.serve c die).shape = s.shape := (rfl)

@[simp] theorem State.killCmd_shape (s : State) (id : Nat) (preempt : Bool) : (s.killCmd id preempt).shape = s.shape := by
  simp only [State.killCmd]
  split <;> simp

@[simp] theorem State.withCmd_shape (s : State) (id : Nat) (f : State → Nat → Cmd → State) (hf : ∀ t i c, (f t i c).shape = t.shape) :
    (s.withCmd id f).shape = s.shape := by
  unfold State.withCmd
  split
  · exact hf _ _ _
  · rfl

@[simp] theorem State.startCmd_shape (s : State) (id : Nat) : (s.startCmd id).shape = s.shape := by
  simp only [State.startCmd]
  split <;> simp

@[simp] theorem State.quarantinePart_shape (s : State) (part origin : Nat) : (s.quarantinePart part origin).shape = s.shape := by
  simp only [State.quarantinePart]
  split <;> simp

@[simp] theorem tailDoorbell_shape (fn off width value : Nat) (stores : List Host.Cell) (s : State) :
    (tailDoorbell fn off width value stores s).shape = s.shape := by
  unfold tailDoorbell
  dsimp only
  repeat' split
  all_goals simp

@[simp] theorem headDoorbell_shape (fn off width value : Nat) (s : State) : (headDoorbell fn off width value s).shape = s.shape := by
  unfold headDoorbell
  repeat' split
  all_goals simp

@[simp] theorem execSubmissionTailDoorbell_shape (fn off width value : Nat) (stores : List Host.Cell) (s : State) :
    SameShape s (execSubmissionTailDoorbell fn off width value stores s) := by
  simp [execSubmissionTailDoorbell]

@[simp] theorem execResume_shape (fn off width value : Nat) (stores : List Host.Cell) (s : State) :
    SameShape s (execResume fn off width value stores s) := by
  simp [execResume]

@[simp] theorem execCompletionHeadDoorbell_shape (fn off width value : Nat) (s : State) :
    SameShape s (execCompletionHeadDoorbell fn off width value s) := by
  simp [execCompletionHeadDoorbell]

@[simp] theorem execArm_shape (fn off width value : Nat) (s : State) : SameShape s (execArm fn off width value s) := by simp [execArm]

@[simp] theorem execModTimeExpiry_shape (owner cq : Nat) (t : Word) (s : State) : SameShape s (execModTimeExpiry owner cq t s) := by
  simp only [execModTimeExpiry]
  split <;> simp

@[simp] theorem execMsixUnmask_shape (fn : Nat) (vec : Option Nat) (s : State) : SameShape s (execMsixUnmask fn vec s) := by
  simp [execMsixUnmask]

@[simp] theorem execAtsInvalidationRequest_shape (fn page size : Nat) (s : State) : SameShape s (execAtsInvalidationRequest fn page size s) := by
  simp [execAtsInvalidationRequest]

@[simp] theorem fetchDma_shape (fn n : Nat) (r : SubRing) (s : State) : (fetchDma fn n r s).shape = s.shape := (rfl)

@[simp] theorem State.fetchRing_shape (s : State) (owner ring n : Nat) : (s.fetchRing owner ring n).shape = s.shape := by
  simp only [State.fetchRing]
  split <;> simp

@[simp] theorem State.fetchTimes_shape (owner ring fuel : Nat) (s : State) : (State.fetchTimes owner ring fuel s).shape = s.shape := by
  induction fuel generalizing s with
  | zero => rfl
  | succ fuel ih => simp [State.fetchTimes, ih]

@[simp] theorem State.fetchRest_shape (s : State) (owner ring : Nat) : (s.fetchRest owner ring).shape = s.shape := by
  simp only [State.fetchRest]
  split <;> simp

@[simp] theorem execDescriptorFetch_shape (owner ring : Nat) (s : State) : SameShape s (execDescriptorFetch owner ring s) := by
  simp [execDescriptorFetch]

/-- What a control command can do: nothing, fail on a stopped stream, or run its effect. -/
theorem control_cases (op : Nat) (sel : Cmd → Bool) (f : Cmd → State → State) (cmd : Nat) (s : State) :
    control op sel f cmd s = s ∨ (∃ stream, control op sel f cmd s = s.failCmd cmd E_IDE_STREAM stream) ∨ ∃ c, control op sel f cmd s = f c s := by
  unfold control
  split
  · next c _ =>
    split
    · split
      · exact .inr (.inl ⟨_, rfl⟩)
      · exact .inr (.inr ⟨c, rfl⟩)
    · exact .inl rfl
  · exact .inl rfl

@[simp] theorem control_shape (op : Nat) (sel : Cmd → Bool) (f : Cmd → State → State) (cmd : Nat) (s : State) (hf : ∀ c t, (f c t).shape = t.shape) :
    (control op sel f cmd s).shape = s.shape := by
  rcases control_cases op sel f cmd s with h | ⟨stream, h⟩ | ⟨c, h⟩
  · rw [h]
  · rw [h, State.failCmd_shape]
  · rw [h, hf]

@[simp] theorem State.settle_shape (s : State) (id : Nat) (r : Except (Nat × Nat) (State × Nat × Nat)) (hr : JudgeShape s r) :
    (s.settle id r).shape = s.shape := by
  unfold State.settle
  split
  · simp
  · next e => simp [hr _ rfl]

@[simp] theorem execBarrier_shape (cmd : Nat) (s : State) : SameShape s (execBarrier cmd s) := by
  simp only [execBarrier]
  split <;> simp

@[simp] theorem signal_shape (op : Nat) (f : Fence → Word → Fence) (cmd : Nat) (s : State) : (signal op f cmd s).shape = s.shape := by
  simp only [signal]
  split <;> simp

@[simp] theorem execSignalAdd_shape (cmd : Nat) (s : State) : SameShape s (execSignalAdd cmd s) := by simp [execSignalAdd]

@[simp] theorem execSignalSet_shape (cmd : Nat) (s : State) : SameShape s (execSignalSet cmd s) := by simp [execSignalSet]

@[simp] theorem execSignalPoison_shape (cmd : Nat) (s : State) : SameShape s (execSignalPoison cmd s) := by simp [execSignalPoison]

@[simp] theorem execWait_shape (cmd : Nat) (s : State) : SameShape s (execWait cmd s) := by
  simp only [execWait]
  repeat' split
  all_goals simp

@[simp] theorem execWaitTimeout_shape (cmd : Nat) (t : Word) (s : State) : SameShape s (execWaitTimeout cmd t s) := by
  simp only [execWaitTimeout]
  split <;> simp

/-! ### Objects -/

@[simp] theorem State.leavePages_shape (s : State) (o : Obj) : (s.leavePages o).shape = s.shape := by simp [State.leavePages]

@[simp] theorem State.setObj_shape (s : State) (key : Nat) (o : Obj) : (s.setObj key o).shape = s.shape := (rfl)

@[simp] theorem State.commitObjects_shape (s : State) (c : Cmd) : (s.commitObjects c).shape = s.shape := by
  unfold State.commitObjects
  refine foldl_shape _ _ _ fun a x => ?_
  repeat' split
  all_goals simp

@[simp] theorem State.commitDie_shape (s : State) (c : Cmd) (d : Nat) : (s.commitDie c d).shape = s.shape := by
  unfold State.commitDie
  refine foldl_shape _ _ _ fun a x => ?_
  repeat' split
  all_goals simp

@[simp] theorem State.commitCounts_shape (s : State) (c : Cmd) : (s.commitCounts c).shape = s.shape := by
  unfold State.commitCounts
  refine foldl_shape _ _ _ fun a x => ?_
  repeat' split
  all_goals simp

@[simp] theorem State.completeCommit_shape (s : State) (link : Bool) (id : Nat) (c : Cmd) : (s.completeCommit link id c).shape = s.shape := by
  simp [State.completeCommit]

@[simp] theorem State.capture_shape (s : State) (id : Nat) : (s.capture id).shape = s.shape := by
  simp only [State.capture]
  split <;> simp

@[simp] theorem State.writeBack_shape (s : State) (key n : Nat) : (s.writeBack key n).shape = s.shape := by
  simp only [State.writeBack]
  split <;> simp

@[simp] theorem State.evict_shape (s : State) (e : Nat × Nat × Nat) : (s.evict e).shape = s.shape := by
  simp only [State.evict]
  split <;> simp

@[simp] theorem State.shrinkCache_shape (s : State) (part d : Nat) : (s.shrinkCache part d).shape = s.shape := by simp [State.shrinkCache]

@[simp] theorem State.cacheT3_shape (s : State) (key v n len : Nat) (runs : List (Nat × Nat)) : (s.cacheT3 key v n len runs).shape = s.shape := by
  simp only [State.cacheT3]
  split <;> simp

@[simp] theorem State.touchSlot_shape (s : State) (part : Nat) (o : Obj) (v n off len : Nat) (write : Bool) :
    (s.touchSlot part o v n off len write).shape = s.shape := by
  unfold State.touchSlot
  split
  · rfl
  · refine foldl_shape _ _ _ fun a d => foldl_shape _ _ _ fun b i => ?_
    split <;> simp

@[simp] theorem State.moved_shape (s : State) (key v n off len : Nat) : (s.moved key v n off len).shape = s.shape := by
  simp only [State.moved]
  split <;> simp

@[simp] theorem State.filled_shape (s : State) (key : Nat) : (s.filled key).shape = s.shape := by
  simp only [State.filled]
  split <;> simp

@[simp] theorem State.readMoved_shape (s : State) (key v n : Nat) : (s.readMoved key v n).shape = s.shape := by
  simp only [State.readMoved]
  split <;> simp

@[simp] theorem State.putIngot_shape (s : State) (id key n : Nat) (slot : Bytes) (ext : Option Bytes) :
    (s.putIngot id key n slot ext).shape = s.shape := by
  simp only [State.putIngot]
  split <;> simp

@[simp] theorem State.putChunk_shape (s : State) (id key n off : Nat) (b : Bytes) : (s.putChunk id key n off b).shape = s.shape := by
  simp only [State.putChunk]
  split <;> simp

@[simp] theorem State.putObjBytes_shape (s : State) (id key fuel off : Nat) (b : Bytes) : (s.putObjBytes id key fuel off b).shape = s.shape := by
  induction fuel generalizing s off b with
  | zero => rfl
  | succ fuel ih =>
    unfold State.putObjBytes
    split <;> simp [ih]

@[simp] theorem State.putObj_shape (s : State) (id key off : Nat) (b : Bytes) : (s.putObj id key off b).shape = s.shape := by
  simp [State.putObj]

@[simp] theorem State.putRef_shape (s : State) (id key off : Nat) (b : Bytes) (ext : Option Bytes) : (s.putRef id key off b ext).shape = s.shape := by
  simp only [State.putRef]
  split <;> simp

@[simp] theorem execObjectRegister_shape (cmd : Nat) (s : State) : SameShape s (execObjectRegister cmd s) := by
  simp only [execObjectRegister, sameShape_next]
  refine control_shape _ _ _ _ _ fun c t => ?_
  repeat' split
  all_goals simp

@[simp] theorem State.forget_shape (s : State) (gone : Nat → Bool) : (s.forget gone).shape = s.shape := by
  have hx (x : DieState) : (((s.objects.filter (fun o => gone o.1)).foldl (fun y o => y.unpin o.2.holdsLine) x)).shape = x.shape :=
    foldl_die_shape _ _ _ fun y o => y.unpin_shape _
  simp [State.forget, hx]

@[simp] theorem execObjectRelease_shape (cmd : Nat) (s : State) : SameShape s (execObjectRelease cmd s) := by
  simp only [execObjectRelease, sameShape_next]
  refine control_shape _ _ _ _ _ fun c t => ?_
  repeat' split
  all_goals simp

@[simp] theorem execT3WriteBack_shape (part handle ingot : Nat) (s : State) : SameShape s (execT3WriteBack part handle ingot s) := by
  simp only [execT3WriteBack]
  split <;> simp

@[simp] theorem State.writeBackAll_shape (s : State) : s.writeBackAll.shape = s.shape := by simp [State.writeBackAll]

/-! ### Partitions -/

@[simp] theorem State.createRing_shape (s : State) (owner : Nat) (p : Part) (d : Bytes) : (s.createRing owner p d).shape = s.shape := by
  simp [State.createRing]

@[simp] theorem execRingCreate_shape (cmd : Nat) (s : State) : SameShape s (execRingCreate cmd s) := by
  simp only [execRingCreate, sameShape_next]
  refine control_shape _ _ _ _ _ fun c t => ?_
  repeat' split
  all_goals simp

@[simp] theorem execRingDestroy_shape (cmd : Nat) (s : State) : SameShape s (execRingDestroy cmd s) := by
  simp only [execRingDestroy, sameShape_next]
  refine control_shape _ _ _ _ _ fun c t => ?_
  repeat' split
  all_goals simp

@[simp] theorem State.admitCmd_shape (s : State) (owner ring : Nat) (r : SubRing) (x : Fetched) : (s.admitCmd owner ring r x).shape = s.shape :=
  (rfl)

@[simp] theorem State.failFetched_shape (s : State) (owner ring : Nat) (r : SubRing) (x : Fetched) (status detail : Nat) :
    (s.failFetched owner ring r x status detail).shape = s.shape := by
  simp [State.failFetched]

@[simp] theorem execAbort_shape (cmd : Nat) (s : State) : SameShape s (execAbort cmd s) := by
  simp only [execAbort, sameShape_next]
  refine control_shape _ _ _ _ _ fun c t => ?_
  repeat' split
  all_goals simp

@[simp] theorem State.clearPart_shape (s : State) (p : Nat) : (s.clearPart p).shape = s.shape := by simp [State.clearPart]

@[simp] theorem State.createPart_shape (s : State) (d : Bytes) : (s.createPart d).shape = s.shape := by simp [State.createPart]

@[simp] theorem execPartCreate_shape (cmd : Nat) (s : State) : SameShape s (execPartCreate cmd s) := by
  simp only [execPartCreate, sameShape_next]
  refine control_shape _ _ _ _ _ fun c t => ?_
  repeat' split
  all_goals simp

@[simp] theorem State.releasePartSeqs_shape (s : State) (p : Nat) : (s.releasePartSeqs p).shape = s.shape := by simp [State.releasePartSeqs]

@[simp] theorem State.closeStreams_shape (s : State) (p : Nat) : (s.closeStreams p).shape = s.shape := by simp [State.closeStreams]

@[simp] theorem State.destroyPart_shape (s : State) (p : Nat) : (s.destroyPart p).shape = s.shape := by simp [State.destroyPart]

@[simp] theorem execPartDestroy_shape (cmd : Nat) (s : State) : SameShape s (execPartDestroy cmd s) := by simp [execPartDestroy]

@[simp] theorem applyItem_shape (part : Nat) (s : State) (i : Item) : (applyItem part s i).shape = s.shape := by
  simp only [applyItem]
  split
  · simp [foldl_length]
  · split
    · rfl
    · simp

@[simp] theorem execQuotaSet_shape (cmd : Nat) (s : State) : SameShape s (execQuotaSet cmd s) := by
  simp only [execQuotaSet, sameShape_next]
  refine control_shape _ _ _ _ _ fun c t => ?_
  repeat' split
  all_goals simp

@[simp] theorem State.resetRings_shape (s : State) (p : Nat) : (s.resetRings p).shape = s.shape := (rfl)

@[simp] theorem execVfFlr_shape (vf : Nat) (s : State) : SameShape s (execVfFlr vf s) := by
  simp only [execVfFlr]
  split <;> simp

@[simp] theorem execServedHalving_shape (die : Nat) (t : Word) (s : State) : SameShape s (execServedHalving die t s) := by
  simp [execServedHalving]

@[simp] theorem execRegulatorRefill_shape (die : Nat) (t : Word) (s : State) : SameShape s (execRegulatorRefill die t s) := by
  simp [execRegulatorRefill]

/-! ### Bindery -/

@[simp] theorem State.setSeq_shape (s : State) (idx : Nat) (q : Seq) : (s.setSeq idx q).shape = s.shape := (rfl)

@[simp] theorem State.leafDma_shape (s : State) (part : Nat) (ls : NMap LeafEntry) : (s.leafDma part ls).shape = s.shape := by
  simp [State.leafDma]

@[simp] theorem State.readLeaf_shape (s : State) (part die : Nat) (e : LeafEntry) (off n : Nat) : (s.readLeaf part die e off n).shape = s.shape := by
  simp [State.readLeaf]

@[simp] theorem State.writeLeaf_shape (s : State) (e : LeafEntry) (off : Nat) (b : Bytes) : (s.writeLeaf e off b).shape = s.shape := by
  simp [State.writeLeaf]

@[simp] theorem State.markLeaf_shape (s : State) (e : LeafEntry) (p : List (Nat × Nat)) : (s.markLeaf e p).shape = s.shape := by
  simp [State.markLeaf]

@[simp] theorem State.putRow_shape (s : State) (e : LeafEntry) (kvHeads fmt h p : Nat) (isV : Bool) (qs : List QBlock) :
    (s.putRow e kvHeads fmt h p isV qs).shape = s.shape := by
  simp [State.putRow]

@[simp] theorem State.writeSketches_shape (s : State) (x : SeqView) (l v j0 j1 : Nat) : (s.writeSketches x l v j0 j1).shape = s.shape := by
  unfold State.writeSketches
  refine foldl_shape _ _ _ fun a j => ?_
  dsimp only
  repeat' split
  all_goals simp

@[simp] theorem State.takeFrames_shape (s : State) (part d n : Nat) (page : Bool) : (s.takeFrames part d n page).1.shape = s.shape := by
  simp [State.takeFrames]

@[simp] theorem State.touchEntries_shape (s : State) (idx : Nat) (pages : NMap Nat) (ws : List Nat) (write : Bool) :
    (s.touchEntries idx pages ws write).shape = s.shape := by
  unfold State.touchEntries
  refine foldl_shape _ _ _ fun a x => ?_
  repeat' split
  all_goals simp

@[simp] theorem State.unref_shape (s : State) (e : LeafEntry) : (s.unref e).shape = s.shape := by
  simp [State.unref]
  split <;> simp

@[simp] theorem State.addRef_shape (s : State) (e : LeafEntry) : (s.addRef e).shape = s.shape := by simp [State.addRef]

@[simp] theorem State.demote_shape (s : State) (part d : Nat) (x : (Nat × Nat) × Nat) : (s.demote part d x).shape = s.shape := by
  simp only [State.demote]
  split <;> simp

theorem State.draw_shape {s t : State} {part d n : Nat} {demoteFor : Option Nat} {fs : List Nat} (e : s.draw part d n demoteFor = some (t, fs)) :
    t.shape = s.shape := by
  have key (u : State) (hu : u.shape = s.shape) (e : u.takeFrames part d n false = (t, fs)) : t.shape = s.shape := by
    simpa [e, hu] using u.takeFrames_shape part d n false
  simp only [State.draw] at e
  split at e
  · exact key _ rfl (Option.some.inj e)
  · split at e
    · cases e
    · split at e
      · cases e
      · split at e
        · cases e
        · exact key _ (by simp) (Option.some.inj e)

@[simp] theorem State.releaseSeq_shape (s : State) (idx : Nat) : (s.releaseSeq idx).shape = s.shape := by simp [State.releaseSeq]

@[simp] theorem execSeqReleaseComplete_shape (index : Nat) (s : State) : SameShape s (execSeqReleaseComplete index s) := by
  simp [execSeqReleaseComplete]

/-! ### Tables -/

@[simp] theorem execTableLoad_shape (cmd : Nat) (s : State) : SameShape s (execTableLoad cmd s) := by
  simp only [execTableLoad, sameShape_next]
  refine control_shape _ _ _ _ _ fun c t => ?_
  repeat' split
  all_goals simp

@[simp] theorem execTableClear_shape (cmd : Nat) (s : State) : SameShape s (execTableClear cmd s) := by simp [execTableClear]

/-! ### Temper -/

@[simp] theorem State.setTemper_shape (s : State) (part layer : Nat) (x : Temper) : (s.setTemper part layer x).shape = s.shape := (rfl)

@[simp] theorem State.countStorm_shape (s : State) (part step home : Nat) : (s.countStorm part step home).shape = s.shape := by
  simp only [State.countStorm]
  split <;> simp

@[simp] theorem State.drawReserve_shape (s : State) (part layer : Nat) (outs : List Nat) : (s.drawReserve part layer outs).1.shape = s.shape := by
  simp only [State.drawReserve]
  split <;> simp

theorem State.temperAdmit_shape {s t : State} {f : Bytes} {part step home : Nat} {outs : List Nat} {x : Decision} (e : s.temperAdmit f part step home outs = some (t, x)) :
    t.shape = s.shape := by
  unfold State.temperAdmit at e
  extract_lets layer t0 fresh t1 s1 s2 at e
  have h2 : s2.shape = s.shape := by simp [s2, s1]
  split at e
  · cases e
  · split at e
    · rw [← (Prod.mk.inj (Option.some.inj e)).1, h2]
    · split at e
      · have := s2.drawReserve_shape part layer outs
        rwa [Option.some.inj e, h2] at this
      · rw [← (Prod.mk.inj (Option.some.inj e)).1, h2]

@[simp] theorem State.mergeStats_shape (s : State) (part layer step : Nat) (x : Stats) : (s.mergeStats part layer step x).shape = s.shape :=
  (rfl)

@[simp] theorem State.raiseAnchor_shape (s : State) (part layer : Nat) : (s.raiseAnchor part layer).shape = s.shape := (rfl)

@[simp] theorem State.unreserve_shape (s : State) (part layer bytes : Nat) : (s.unreserve part layer bytes).shape = s.shape := (rfl)

@[simp] theorem State.settleDraws_shape (s : State) (part : Nat) (c : Cmd) : (s.settleDraws part c).shape = s.shape := by
  unfold State.settleDraws
  rw [foldl_shape, foldl_shape]
  · intro a d
    split <;> simp
  · intro a w
    split
    · split <;> simp
    · rfl

/-! ### Imposition -/

@[simp] theorem State.setRun_shape (s : State) (id : Nat) (f : Run → Run) : (s.setRun id f).shape = s.shape := by
  simp only [State.setRun]
  split <;> simp

@[simp] theorem State.ensureStart_shape (s : State) (id : Nat) : (s.ensureStart id).shape = s.shape := by
  simp only [State.ensureStart]
  split <;> simp

@[simp] theorem State.unitStart_shape (s : State) (id : Nat) : (s.unitStart id).shape = s.shape := by
  simp only [State.unitStart]
  split <;> simp

@[simp] theorem State.deliverAll_shape (s : State) (id : Nat) : (s.deliverAll id).shape = s.shape := by
  simp only [State.deliverAll]
  split <;> simp

@[simp] theorem State.distribute_shape (s : State) (id : Nat) (G : Nat) : (s.distribute id G).shape = s.shape := by
  simp only [State.distribute]
  split <;> simp

@[simp] theorem State.fetchOne_shape (s : State) (c : Cmd) (die : Nat) (r : Nat × Nat) : (s.fetchOne c die r).shape = s.shape := by
  simp only [State.fetchOne]
  split <;> simp

@[simp] theorem State.fetchAll_shape (s : State) (c : Cmd) (die : Nat) (reads : List (Nat × Nat)) : (s.fetchAll c die reads).shape = s.shape := by
  simp [State.fetchAll]

@[simp] theorem State.scanFetch_shape (s : State) (id : Nat) (c : Cmd) (x : TCtx) (aux : Bool) (groups : Nat) :
    (s.scanFetch id c x aux groups).shape = s.shape := by
  unfold State.scanFetch
  refine foldl_shape _ _ _ fun a x => ?_
  repeat' split
  all_goals simp

@[simp] theorem State.runDelta_shape (s : State) (id : Nat) : (s.runDelta id).shape = s.shape := by
  unfold State.runDelta
  repeat' split
  all_goals simp

@[simp] theorem State.runNorm_shape (s : State) (id : Nat) : (s.runNorm id).shape = s.shape := by
  unfold State.runNorm
  repeat' split
  all_goals simp

@[simp] theorem State.openTensor_shape (s : State) (id : Nat) : (s.openTensor id).shape = s.shape := by
  simp only [State.openTensor]
  repeat' split
  all_goals simp

@[simp] theorem State.doneTile_shape (s : State) (id die tile : Nat) : (s.doneTile id die tile).shape = s.shape := by
  unfold State.doneTile
  repeat' split
  all_goals simp

@[simp] theorem State.toReady_shape (s : State) (id : Nat) (f : Cmd → Cmd) : (s.toReady id f).shape = s.shape := by
  simp only [State.toReady]
  split <;> simp

@[simp] theorem State.updateCarry_shape (s : State) (id : Nat) : (s.updateCarry id).shape = s.shape := by
  simp [State.updateCarry]
  repeat' split
  all_goals simp

@[simp] theorem State.endTensor_shape (s : State) (id : Nat) : (s.endTensor id).shape = s.shape := by
  unfold State.endTensor
  repeat' split
  all_goals simp

@[simp] theorem State.closeTensor_shape (s : State) (id : Nat) : (s.closeTensor id).shape = s.shape := by
  simp only [State.closeTensor]
  repeat' split
  all_goals simp

@[simp] theorem State.runTensor_shape (s : State) (id : Nat) : (s.runTensor id).shape = s.shape := by
  unfold State.runTensor
  dsimp only
  repeat' split
  all_goals simp

@[simp] theorem execTensorOp_shape (cmd : Nat) (s : State) : SameShape s (execTensorOp cmd s) := by
  simp only [execTensorOp, sameShape_next]
  refine control_shape _ _ _ _ _ fun c t => ?_
  repeat' split
  all_goals simp

@[simp] theorem execDeltaScanDone_shape (cmd : Nat) (s : State) : SameShape s (execDeltaScanDone cmd s) := by simp [execDeltaScanDone]

@[simp] theorem execNormScanDone_shape (cmd : Nat) (s : State) : SameShape s (execNormScanDone cmd s) := by simp [execNormScanDone]

/-! ### Attention -/

@[simp] theorem State.writeAttend_shape (s : State) (id : Nat) (x : ACtx) (all : List ((Nat × Nat) × List Fp)) :
    (s.writeAttend id x all).shape = s.shape := by
  simp [State.writeAttend]

@[simp] theorem State.readBlockLeaves_shape (s : State) (x : ACtx) (die qb : Nat) (b : QBlk) (sel : List Nat) :
    (s.readBlockLeaves x die qb b sel).shape = s.shape := by
  unfold State.readBlockLeaves
  split
  · simp only
    refine foldl_shape _ _ _ fun a d => foldl_shape _ _ _ fun b i => ?_
    split <;> simp
  · rfl

@[simp] theorem State.endAttend_shape (s : State) (id : Nat) : (s.endAttend id).shape = s.shape := by
  unfold State.endAttend
  dsimp only
  repeat' split
  all_goals simp

@[simp] theorem State.openAttend_shape (s : State) (id : Nat) : (s.openAttend id).shape = s.shape := by
  simp only [State.openAttend]
  repeat' split
  all_goals simp

@[simp] theorem execAttend_shape (cmd : Nat) (s : State) : SameShape s (execAttend cmd s) := by
  simp only [execAttend, sameShape_next]
  refine control_shape _ _ _ _ _ fun c t => ?_
  repeat' split
  all_goals simp

@[simp] theorem execBlockSelectionDone_shape (cmd qb : Nat) (s : State) : SameShape s (execBlockSelectionDone cmd qb s) := by
  simp only [execBlockSelectionDone, sameShape_next]
  refine control_shape _ _ _ _ _ fun c t => ?_
  repeat' split
  all_goals simp

@[simp] theorem execAttendBuildSketches_shape (cmd : Nat) (s : State) : SameShape s (execAttendBuildSketches cmd s) := by
  simp only [execAttendBuildSketches, sameShape_next]
  refine control_shape _ _ _ _ _ fun c t => ?_
  repeat' split
  all_goals simp

/-! ### Collation -/

@[simp] theorem State.moveRows_shape (s : State) (id key : Nat) (handle : Nat) (x : Operand) (width i : Nat) (src : Nat → Option (Nat × Nat)) :
    (s.moveRows id key handle x width i src).shape = s.shape := by
  simp only [State.moveRows]
  split <;> simp

@[simp] theorem State.putList_shape (s : State) (id owner handle : Nat) (b : Bytes) : (s.putList id owner handle b).shape = s.shape := by
  simp [State.putList]
  split <;> simp

@[simp] theorem State.endRoute_shape (s : State) (id detail : Nat) : (s.endRoute id detail).shape = s.shape := by
  simp only [State.endRoute]
  repeat' split
  all_goals simp

@[simp] theorem State.noteFails_shape (s : State) (id : Nat) (fs : List (Nat × Nat)) : (s.noteFails id fs).shape = s.shape := by
  simp [State.noteFails]

@[simp] theorem route_shape (mode : Nat) (body : Cmd → Bytes → (Nat → Nat) → State → State) (cmd : Nat) (s : State) (hbody : ∀ c b d t, (body c b d t).shape = t.shape) :
    (route mode body cmd s).shape = s.shape := by
  unfold route
  refine control_shape _ _ _ _ _ fun c t => ?_
  dsimp only
  repeat' split
  all_goals simp [hbody]

@[simp] theorem State.exchangeCounts_shape (s : State) (owner : Nat) (counts : Nat → List Nat) : (s.exchangeCounts owner counts).shape = s.shape := by
  simp only [State.exchangeCounts]
  split <;> simp

@[simp] theorem execRouteLengthBucket_shape (cmd : Nat) (s : State) : SameShape s (execRouteLengthBucket cmd s) := by
  simp [execRouteLengthBucket]

@[simp] theorem execRouteLengthPack_shape (cmd : Nat) (s : State) : SameShape s (execRouteLengthPack cmd s) := by
  simp only [execRouteLengthPack, sameShape_next]
  refine control_shape _ _ _ _ _ fun c t => ?_
  dsimp only
  repeat' split
  all_goals simp

@[simp] theorem execRouteExpertDispatch_shape (cmd : Nat) (s : State) : SameShape s (execRouteExpertDispatch cmd s) := by
  simp only [execRouteExpertDispatch, sameShape_next]
  refine control_shape _ _ _ _ _ fun c t => ?_
  dsimp only
  repeat' split
  all_goals simp

@[simp] theorem execRouteExpertCombine_shape (cmd : Nat) (s : State) : SameShape s (execRouteExpertCombine cmd s) := by
  simp only [execRouteExpertCombine, sameShape_next]
  refine control_shape _ _ _ _ _ fun c t => ?_
  dsimp only
  repeat' split
  all_goals simp

/-! ### Steps -/

@[simp] theorem State.markPages_shape (s : State) (d : Nat) (fs : List Nat) : (s.markPages d fs).shape = s.shape := by simp [State.markPages]

@[simp] theorem State.reserveEntry_shape (s : State) (part kvFmt : Nat) (lay : Nat × Nat) (e : StepEntry) :
    (s.reserveEntry part kvFmt lay e).1.shape = s.shape := by
  simp only [State.reserveEntry]
  split
  · rfl
  · next e => simp [State.draw_shape e]

@[simp] theorem State.reserveSome_shape (s : State) (part kvFmt : Nat) (lay : Nat × Nat) (joins : Bool) (es : List StepEntry) :
    (s.reserveSome part kvFmt lay joins es).1.shape = s.shape := by
  unfold State.reserveSome
  refine foldl_shape_fst _ _ _ fun a e => ?_
  split <;> simp

@[simp] theorem State.stepCollation_shape (s : State) (id : Nat) (c : Cmd) (es : List StepEntry) : (s.stepCollation id c es).shape = s.shape := by
  simp [State.stepCollation]

@[simp] theorem State.runOpen_shape (s : State) (id : Nat) (c : Cmd) : (s.runOpen id c).shape = s.shape := by
  unfold State.runOpen
  dsimp only
  repeat' split
  all_goals simp

@[simp] theorem State.commitOpen_shape (s : State) (c : Cmd) : (s.commitOpen c).shape = s.shape := by
  simp only [State.commitOpen]
  split <;> simp

@[simp] theorem State.runAppend_shape (s : State) (id : Nat) (c : Cmd) : (s.runAppend id c).shape = s.shape := by
  unfold State.runAppend
  dsimp only
  repeat' split
  all_goals simp

@[simp] theorem State.copyLeaf_shape (s : State) (q : Seq) (g n upto : Nat) (src dst : LeafEntry) : (s.copyLeaf q g n upto src dst).shape = s.shape := by
  simp [State.copyLeaf]

@[simp] theorem State.useLeaf_shape (s : State) (q : Seq) (e : StepEntry) (w : Nat) : (s.useLeaf q e w).1.shape = s.shape := by
  simp only [State.useLeaf]
  repeat' split
  all_goals simp

@[simp] theorem State.appendEntry_shape (s : State) (layer : Nat) (ko vo : Option Operand) (e : StepEntry) :
    (s.appendEntry layer ko vo e).1.shape = s.shape := by
  simp only [State.appendEntry, State.writeSketches_shape]
  rw [foldl_shape]
  · simp
  · intro a r
    split <;> simp

@[simp] theorem State.commitAppend_shape (s : State) (c : Cmd) : (s.commitAppend c).shape = s.shape := by
  unfold State.commitAppend
  split
  · rfl
  · simp only [State.shape_mk, State.shape_fold]
    refine foldl_shape_fst _ _ _ fun a e => ?_
    split <;> simp

@[simp] theorem State.returnFrames_shape (s : State) (e : StepEntry) (keep : Nat → Bool) : (s.returnFrames e keep).shape = s.shape := by
  simp [State.returnFrames]

@[simp] theorem State.closeEntry_shape (s : State) (e : StepEntry) : (s.closeEntry e).shape = s.shape := by
  unfold State.closeEntry
  split
  · rfl
  · extract_lets idx q used s1 pages s2
    have h1 : s1.shape = s.shape := by
      refine (foldl_shape _ _ _ fun a p => ?_).trans (State.returnFrames_shape _ _ _)
      simp only [State.addRef_shape]
      split <;> simp
    simp [s2, h1]

@[simp] theorem State.runClose_shape (s : State) (id : Nat) (c : Cmd) : (s.runClose id c).shape = s.shape := by
  simp only [State.runClose]
  split <;> simp

@[simp] theorem State.commitClose_shape (s : State) (c : Cmd) : (s.commitClose c).shape = s.shape := by
  simp only [State.commitClose]
  split <;> simp

@[simp] theorem State.cancelEntry_shape (s : State) (x : Step) (e : StepEntry) : (s.cancelEntry x e).shape = s.shape := by
  simp [State.cancelEntry]

@[simp] theorem State.cancelStep_shape (s : State) (part h : Nat) : (s.cancelStep part h).shape = s.shape := by
  simp only [State.cancelStep]
  split <;> simp

@[simp] theorem bindery_shape (op : Nat) (sel : Cmd → Bool) (body : Nat → Cmd → State → State) (cmd : Nat) (s : State) (hbody : ∀ i c t, (body i c t).shape = t.shape) :
    (bindery op sel body cmd s).shape = s.shape := by
  unfold bindery
  refine control_shape _ _ _ _ _ fun c t => ?_
  dsimp only
  repeat' split
  all_goals simp [hbody]

@[simp] theorem execSeqStepOpen_shape (cmd : Nat) (s : State) : SameShape s (execSeqStepOpen cmd s) := by
  simp only [execSeqStepOpen]
  split <;> simp

@[simp] theorem execSeqStepAppend_shape (cmd : Nat) (s : State) : SameShape s (execSeqStepAppend cmd s) := by simp [execSeqStepAppend]

@[simp] theorem execSeqStepClose_shape (cmd : Nat) (s : State) : SameShape s (execSeqStepClose cmd s) := by simp [execSeqStepClose]

@[simp] theorem execSeqStepCancel_shape (cmd : Nat) (s : State) : SameShape s (execSeqStepCancel cmd s) := by
  simp only [execSeqStepCancel, sameShape_next]
  refine control_shape _ _ _ _ _ fun c t => ?_
  dsimp only
  repeat' split
  all_goals simp

@[simp] theorem State.runFork_shape (s : State) (id : Nat) (c : Cmd) : (s.runFork id c).shape = s.shape := by
  simp only [State.runFork]
  repeat' split
  all_goals simp
  all_goals
    next e _ _ =>
    rw [foldl_shape, State.markPages_shape, State.draw_shape e]
    intro a x
    split <;> simp

@[simp] theorem State.commitFork_shape (s : State) (c : Cmd) : (s.commitFork c).shape = s.shape := by
  simp only [State.commitFork]
  split <;> simp

@[simp] theorem execSeqFork_shape (cmd : Nat) (s : State) : SameShape s (execSeqFork cmd s) := by
  simp only [execSeqFork]
  split <;> simp

@[simp] theorem execSeqFree_shape (cmd : Nat) (s : State) : SameShape s (execSeqFree cmd s) := by
  simp only [execSeqFree, sameShape_next]
  refine control_shape _ _ _ _ _ fun c t => ?_
  dsimp only
  repeat' split
  all_goals simp

@[simp] theorem State.commitFree_shape (s : State) (c : Cmd) : (s.commitFree c).shape = s.shape := (rfl)

@[simp] theorem State.runUnpark_shape (s : State) (id : Nat) (c : Cmd) : (s.runUnpark id c).shape = s.shape := by
  simp only [State.runUnpark]
  split
  · simp
  · next s1 fs e =>
    have h : s1.shape = s.shape := by
      split at e
      · exact congrArg (fun x : State × List Nat => x.1.shape) (Option.some.inj e).symm
      · exact State.draw_shape e
    simp [h]

@[simp] theorem State.commitUnpark_shape (s : State) (c : Cmd) : (s.commitUnpark c).shape = s.shape := by simp [State.commitUnpark]

@[simp] theorem State.runImage_shape (s : State) (id : Nat) (c : Cmd) : (s.runImage id c).shape = s.shape := by
  simp only [State.runImage]
  split
  · simp
  · rfl
  · split
    · simp
    · split
      · simp
      · next s1 fs e =>
        have h : s1.shape = s.shape := by
          by_cases hf : c.frames.isEmpty = true
          · simp only [hf, if_true] at e
            obtain ⟨r, hr, hs⟩ := Option.map_eq_some_iff.1 e
            have := congrArg (fun x : State × List Nat => x.1.shape) hs
            simpa [State.draw_shape hr] using this.symm
          · rw [if_neg hf] at e
            exact congrArg (fun x : State × List Nat => x.1.shape) (Option.some.inj e).symm
        simp [h]

@[simp] theorem State.insertNode_shape (s : State) (d : Nat) (q : Seq) (x : PrefixNode) : (s.insertNode d q x).shape = s.shape := by
  simp [State.insertNode]
  split <;> simp

@[simp] theorem State.commitImage_shape (s : State) (c : Cmd) : (s.commitImage c).shape = s.shape := by
  simp only [State.commitImage]
  split <;> simp

@[simp] theorem execSeqRestoreUnpark_shape (cmd : Nat) (s : State) : SameShape s (execSeqRestoreUnpark cmd s) := by simp [execSeqRestoreUnpark]

@[simp] theorem execSeqRestoreImage_shape (cmd : Nat) (s : State) : SameShape s (execSeqRestoreImage cmd s) := by simp [execSeqRestoreImage]

@[simp] theorem State.commitBindery_shape (s : State) (c : Cmd) : (s.commitBindery c).shape = s.shape := by
  simp only [State.commitBindery]
  split <;> simp

/-! ### Move -/

@[simp] theorem move_shape (op : Nat) (body : Nat → Cmd → State → State) (cmd : Nat) (s : State) (hbody : ∀ i c t, (body i c t).shape = t.shape) :
    (move op body cmd s).shape = s.shape :=
  bindery_shape _ _ _ _ _ hbody

@[simp] theorem State.endMove_shape (s : State) (id : Nat) (fail : Option (Nat × Nat)) : (s.endMove id fail).shape = s.shape := by
  simp only [State.endMove]
  split <;> simp

@[simp] theorem execMoveCopy_shape (cmd : Nat) (s : State) : SameShape s (execMoveCopy cmd s) := by
  simp only [execMoveCopy, sameShape_next]
  refine control_shape _ _ _ _ _ fun c t => ?_
  dsimp only
  repeat' split
  all_goals simp

@[simp] theorem execMoveImport_shape (cmd : Nat) (s : State) : SameShape s (execMoveImport cmd s) := by
  simp only [execMoveImport, sameShape_next]
  refine control_shape _ _ _ _ _ fun c t => ?_
  dsimp only
  repeat' split
  all_goals simp

@[simp] theorem execMoveExport_shape (cmd : Nat) (s : State) : SameShape s (execMoveExport cmd s) := by
  simp only [execMoveExport, sameShape_next]
  refine control_shape _ _ _ _ _ fun c t => ?_
  dsimp only
  repeat' split
  all_goals simp

@[simp] theorem execMoveSeqExport_shape (cmd : Nat) (s : State) : SameShape s (execMoveSeqExport cmd s) := by
  simp only [execMoveSeqExport, sameShape_next]
  refine control_shape _ _ _ _ _ fun c t => ?_
  dsimp only
  repeat' split
  all_goals simp

@[simp] theorem execMoveRetier_shape (cmd : Nat) (s : State) : SameShape s (execMoveRetier cmd s) := by
  simp only [execMoveRetier]
  repeat' split
  all_goals simp

@[simp] theorem State.commitRetier_shape (s : State) (c : Cmd) : (s.commitRetier c).shape = s.shape := by
  unfold State.commitRetier
  split
  · rfl
  · simp

@[simp] theorem State.commitMove_shape (s : State) (c : Cmd) : (s.commitMove c).shape = s.shape := by simp [State.commitMove]

/-! ### Links -/

@[simp] theorem State.sendControl_shape (s : State) (l : Nat) (nak : Bool) : (s.sendControl l nak).shape = s.shape := by
  simp [State.sendControl]

@[simp] theorem State.sendLinkFor_shape (s : State) (part l : Nat) (m : Msg) : (s.sendLinkFor part l m).shape = s.shape := by
  simp only [State.sendLinkFor]
  split <;> simp

@[simp] theorem State.linkRound_shape (s : State) (l : Nat) : (s.linkRound l).shape = s.shape := by simp [State.linkRound]

@[simp] theorem State.idle_shape (s : State) : s.idle.shape = s.shape := by simp [State.idle]

@[simp] theorem State.markDown_shape (s : State) (l : Nat) : (s.markDown l).shape = s.shape := by simp [State.markDown]

@[simp] theorem State.startRetrain_shape (s : State) (l : Nat) : (s.startRetrain l).shape = s.shape := by simp [State.startRetrain]

@[simp] theorem State.sendHello_shape (s : State) (l : Nat) : (s.sendHello l).shape = s.shape := (rfl)

@[simp] theorem State.refuseFrame_shape (s : State) (l : Nat) (crcOk : Bool) : (s.refuseFrame l crcOk).shape = s.shape := by
  simp [State.refuseFrame]

@[simp] theorem State.acceptData_shape (s : State) (l vc : Nat) (x : Link) (payload : Bytes) : (s.acceptData l vc x payload).shape = s.shape := by
  simp [State.acceptData]

@[simp] theorem execLinkDataFrame_shape (link vc seqNo : Nat) (crcOk : Bool) (payload : Bytes) (s : State) :
    SameShape s (execLinkDataFrame link vc seqNo crcOk payload s) := by
  simp [execLinkDataFrame]
  split <;> simp

@[simp] theorem execLinkControlFrame_shape (link seqNo : Nat) (crcOk : Bool) (credits : List Nat) (ack : Nat) (s : State) :
    SameShape s (execLinkControlFrame link seqNo crcOk credits ack s) := by
  simp [execLinkControlFrame]
  split <;> simp

@[simp] theorem execLinkNak_shape (link seqNo : Nat) (credits : List Nat) (ack : Nat) (s : State) :
    SameShape s (execLinkNak link seqNo credits ack s) := by
  simp [execLinkNak]
  split <;> simp

@[simp] theorem execLinkControlTimer_shape (link : Nat) (t : Word) (s : State) : SameShape s (execLinkControlTimer link t s) := by
  simp [execLinkControlTimer]

@[simp] theorem execUncorrectableCodeword_shape (link : Nat) (s : State) : SameShape s (execUncorrectableCodeword link s) := by
  simp [execUncorrectableCodeword]

@[simp] theorem execLinkRetrainDone_shape (link : Nat) (s : State) : SameShape s (execLinkRetrainDone link s) := by simp [execLinkRetrainDone]

@[simp] theorem execLinkRetrainTimeout_shape (link : Nat) (t : Word) (s : State) : SameShape s (execLinkRetrainTimeout link t s) := by
  simp [execLinkRetrainTimeout]

@[simp] theorem execLinkTrainingRetry_shape (link : Nat) (ok : Bool) (t : Word) (s : State) : SameShape s (execLinkTrainingRetry link ok t s) := by
  simp [execLinkTrainingRetry]

@[simp] theorem State.deliver_shape (s : State) (link : Nat) (m : Msg) : (s.deliver link m).shape = s.shape := (rfl)

@[simp] theorem State.sendKey_shape (s : State) (l : Nat) : (s.sendKey l).shape = s.shape := by simp [State.sendKey]

@[simp] theorem execHello_shape (link : Nat) (m : Msg) (s : State) : SameShape s (execHello link m s) := by simp [execHello]

@[simp] theorem execPartIdWrite_shape (value : Nat) (s : State) : SameShape s (execPartIdWrite value s) := by simp [execPartIdWrite]

@[simp] theorem execXlinkVcWeightWrite_shape (link value : Nat) (s : State) : SameShape s (execXlinkVcWeightWrite link value s) := by
  simp [execXlinkVcWeightWrite]

@[simp] theorem execXlinkSecWrite_shape (link value : Nat) (s : State) : SameShape s (execXlinkSecWrite link value s) := by
  simp [execXlinkSecWrite]

@[simp] theorem execXlinkTestWrite_shape (link value : Nat) (s : State) : SameShape s (execXlinkTestWrite link value s) := by
  simp [execXlinkTestWrite]

@[simp] theorem execLinkKeyExchange_shape (link : Nat) (peerEnabled chainOk : Bool) (peerSvn : Nat) (peerUnlocked : Bool) (s : State) :
    SameShape s (execLinkKeyExchange link peerEnabled chainOk peerSvn peerUnlocked s) := by
  simp [execLinkKeyExchange]
  split <;> simp

@[simp] theorem execLinkSessionLimit_shape (link : Nat) (s : State) : SameShape s (execLinkSessionLimit link s) := by
  simp [execLinkSessionLimit]

@[simp] theorem State.dropMsg_shape (s : State) (link type : Nat) : (s.dropMsg link type).shape = s.shape := by simp [State.dropMsg]

@[simp] theorem execMessageForward_shape (link : Nat) (m : Msg) (s : State) : SameShape s (execMessageForward link m s) := by
  unfold execMessageForward
  dsimp only
  repeat' split
  all_goals simp

@[simp] theorem execMessageDrop_shape (link vc : Nat) (m : Msg) (s : State) : SameShape s (execMessageDrop link vc m s) := by
  simp [execMessageDrop]

@[simp] theorem execGroupSet_shape (cmd : Nat) (s : State) : SameShape s (execGroupSet cmd s) := by
  simp only [execGroupSet, sameShape_next]
  refine control_shape _ _ _ _ _ fun c t => ?_
  repeat' split
  all_goals simp

@[simp] theorem execGroupClear_shape (cmd : Nat) (s : State) : SameShape s (execGroupClear cmd s) := by
  simp only [execGroupClear, sameShape_next]
  refine control_shape _ _ _ _ _ fun c t => ?_
  repeat' split
  all_goals simp

/-! ### Power -/

@[simp] theorem State.reportCs_shape (s : State) (d cls : Nat) : (s.reportCs d cls).shape = s.shape := by simp [State.reportCs]

@[simp] theorem execPowerSetArithPoint_shape (cmd : Nat) (s : State) : SameShape s (execPowerSetArithPoint cmd s) := by
  simp only [execPowerSetArithPoint, sameShape_next]
  refine control_shape _ _ _ _ _ fun c t => ?_
  repeat' split
  all_goals simp

@[simp] theorem State.settledPoints_shape (s : State) : s.settledPoints.shape = s.shape := by simp [State.settledPoints]

@[simp] theorem execApSettleDone_shape (die : Nat) (s : State) : SameShape s (execApSettleDone die s) := by
  simp only [execApSettleDone]
  split <;> simp

@[simp] theorem State.groupsOn_shape (s : State) (g : BitVec 96) : (s.groupsOn g).shape = s.shape := (rfl)

@[simp] theorem execPowerSetGroupsOn_shape (cmd : Nat) (s : State) : SameShape s (execPowerSetGroupsOn cmd s) := by simp [execPowerSetGroupsOn]

@[simp] theorem execGroupsCycleOnTimer_shape (t : Word) (s : State) : SameShape s (execGroupsCycleOnTimer t s) := by
  simp only [execGroupsCycleOnTimer]
  split <;> simp

@[simp] theorem execQuireGroupReady_shape (group : Nat) (t : Word) (s : State) : SameShape s (execQuireGroupReady group t s) := by
  simp [execQuireGroupReady]

@[simp] theorem execClampUpdate_shape (die : Nat) (reading : ClampReading) (t : Word) (s : State) : SameShape s (execClampUpdate die reading t s) := by
  simp [execClampUpdate]

@[simp] theorem State.trip_shape (s : State) : s.trip.shape = s.shape := (rfl)

@[simp] theorem execProtectiveTrip_shape (isStack : Bool) (_unit : Nat) (temp : Int) (s : State) :
    SameShape s (execProtectiveTrip isStack _unit temp s) := by
  simp [execProtectiveTrip]

@[simp] theorem execStackTempReport_shape (stack : Nat) (temp : Int) (t : Word) (s : State) : SameShape s (execStackTempReport stack temp t s) := by
  simp [execStackTempReport]

@[simp] theorem execIoutCalibration_shape (die iout sensed : Nat) (t : Word) (s : State) : SameShape s (execIoutCalibration die iout sensed t s) := by
  simp [execIoutCalibration]

@[simp] theorem execTelemetryRefresh_shape (reading : TelemetryReading) (t : Word) (s : State) : SameShape s (execTelemetryRefresh reading t s) := by
  simp [execTelemetryRefresh]

@[simp] theorem execRailPoll_shape (mw : List Nat) (t : Word) (s : State) : SameShape s (execRailPoll mw t s) := by simp [execRailPoll]

@[simp] theorem execPmbAlert_shape (kind die rail : Nat) (s : State) : SameShape s (execPmbAlert kind die rail s) := by simp [execPmbAlert]

/-! ### Collective -/

@[simp] theorem State.setColl_shape (s : State) (id : Nat) (f : Coll → Coll) : (s.setColl id f).shape = s.shape := by
  simp only [State.setColl]
  split <;> simp

@[simp] theorem State.sendRank_shape (s : State) (c : Cmd) (k : Coll) (g : Group) (q : Nat) (m : Msg) : (s.sendRank c k g q m).shape = s.shape := by
  simp only [State.sendRank]
  split <;> simp

@[simp] theorem State.sendSource_shape (s : State) (c : Cmd) (k : Coll) (g : Group) (q : Nat) : (s.sendSource c k g q).shape = s.shape := by
  simp [State.sendSource]

@[simp] theorem State.addContrib_shape (s : State) (id q sg src : Nat) (vals : List Int) : (s.addContrib id q sg src vals).shape = s.shape := by
  unfold State.addContrib
  repeat' split
  · rfl
  · rfl
  · simp [State.setDie_shape]

@[simp] theorem State.sendAborts_shape (s : State) (c : Cmd) (k : Coll) (g : Group) : (s.sendAborts c k g).shape = s.shape := by
  simp [State.sendAborts]

@[simp] theorem State.collKill_shape (s : State) (id next : Nat) (preempt : Bool) : (s.collKill id next preempt).shape = s.shape := by
  unfold State.collKill
  dsimp only
  repeat' split
  all_goals simp

@[simp] theorem State.collPreempt_shape (s : State) (id : Nat) : (s.collPreempt id).shape = s.shape := by
  simp only [State.collPreempt]
  repeat' split
  all_goals simp

@[simp] theorem State.writeDst_shape (s : State) (id : Nat) (c : Cmd) (k : Coll) : (s.writeDst id c k).shape = s.shape := by
  simp only [State.writeDst]
  split <;> simp

@[simp] theorem State.collFinish_shape (s : State) (id : Nat) : (s.collFinish id).shape = s.shape := by
  unfold State.collFinish
  repeat' split
  all_goals simp

@[simp] theorem State.spreadResult_shape (s : State) (c : Cmd) (sg base len : Nat) : (s.spreadResult c sg base len).shape = s.shape := by
  simp only [State.spreadResult]
  split <;> simp

@[simp] theorem State.fireSegment_shape (s : State) (id sg : Nat) : (s.fireSegment id sg).shape = s.shape := by
  unfold State.fireSegment
  repeat' split
  all_goals simp

@[simp] theorem State.addLocal_shape (s : State) (id : Nat) (c : Cmd) (g : Group) (sg i : Nat) : (s.addLocal id c g sg i).shape = s.shape := by
  simp only [State.addLocal]
  split <;> simp

@[simp] theorem State.grantSome_shape (s : State) (id fuel : Nat) : (s.grantSome id fuel).shape = s.shape := by
  induction fuel generalizing s with
  | zero => rfl
  | succ fuel ih =>
    unfold State.grantSome
    repeat' split
    all_goals simp [ih]

@[simp] theorem State.advance_shape (s : State) (id : Nat) : (s.advance id).shape = s.shape := by
  unfold State.advance
  dsimp only
  repeat' split
  all_goals simp

@[simp] theorem State.ownPart_shape (s : State) (id : Nat) (c : Cmd) (g : Group) : (s.ownPart id c g).shape = s.shape := by simp [State.ownPart]

@[simp] theorem State.beginAttempt_shape (s : State) (id : Nat) : (s.beginAttempt id).shape = s.shape := by
  unfold State.beginAttempt
  dsimp only
  repeat' split
  all_goals simp

@[simp] theorem State.collRestart_shape (s : State) (id next : Nat) : (s.collRestart id next).shape = s.shape := by simp [State.collRestart]

@[simp] theorem State.mendColl_shape (s : State) (id : Nat) : (s.mendColl id).shape = s.shape := by
  simp only [State.mendColl]
  repeat' split
  all_goals simp

@[simp] theorem State.collOpen_shape (s : State) (id : Nat) : (s.collOpen id).shape = s.shape := by simp [State.collOpen]

@[simp] theorem State.advanceAll_shape (s : State) : s.advanceAll.shape = s.shape := by simp [State.advanceAll]

@[simp] theorem State.collHeard_shape (s : State) (id : Nat) : (s.collHeard id).shape = s.shape := by
  unfold State.collHeard
  repeat' split
  all_goals simp

@[simp] theorem State.catchUp_shape (fuel : Nat) (s : State) (id top : Nat) : (State.catchUp fuel s id top).shape = s.shape := by
  induction fuel generalizing s with
  | zero => rfl
  | succ fuel ih =>
    unfold State.catchUp
    repeat' split
    all_goals simp [ih]

@[simp] theorem State.takeFprint_shape (s : State) (id : Nat) (m : Msg) : (s.takeFprint id m).shape = s.shape := by
  unfold State.takeFprint
  dsimp only
  repeat' split
  all_goals simp

@[simp] theorem State.collStart_shape (s : State) (id : Nat) : (s.collStart id).shape = s.shape := by
  unfold State.collStart
  dsimp only
  repeat' split
  all_goals simp

@[simp] theorem collective_shape (op : Nat) (cmd : Nat) (s : State) : (collective op cmd s).shape = s.shape := by simp [collective]

@[simp] theorem execCollectiveAllReduce_shape (cmd : Nat) (s : State) : SameShape s (execCollectiveAllReduce cmd s) := by
  simp [execCollectiveAllReduce]

@[simp] theorem execCollectiveReduceScatter_shape (cmd : Nat) (s : State) : SameShape s (execCollectiveReduceScatter cmd s) := by
  simp [execCollectiveReduceScatter]

@[simp] theorem execCollectiveAllGather_shape (cmd : Nat) (s : State) : SameShape s (execCollectiveAllGather cmd s) := by
  simp [execCollectiveAllGather]

@[simp] theorem execCollectiveBroadcast_shape (cmd : Nat) (s : State) : SameShape s (execCollectiveBroadcast cmd s) := by
  simp [execCollectiveBroadcast]

@[simp] theorem collMsg_shape (type link : Nat) (m : Msg) (f : Nat → Cmd → Coll → Group → State → State) (s : State) (hf : ∀ i c k g t, (f i c k g t).shape = t.shape) :
    (collMsg type link m f s).shape = s.shape := by
  simp only [collMsg]
  repeat' split
  all_goals simp [hf]

@[simp] theorem execFprint_shape (link : Nat) (m : Msg) (s : State) : SameShape s (execFprint link m s) := by
  unfold execFprint
  dsimp only
  repeat' split
  all_goals simp

@[simp] theorem execGrant_shape (link : Nat) (m : Msg) (s : State) : SameShape s (execGrant link m s) := by
  simp only [execGrant, sameShape_next]
  refine collMsg_shape _ _ _ _ _ fun i c k g t => ?_
  repeat' split
  all_goals simp

@[simp] theorem execContrib_shape (link : Nat) (m : Msg) (s : State) : SameShape s (execContrib link m s) := by simp [execContrib]

@[simp] theorem execResult_shape (link : Nat) (m : Msg) (s : State) : SameShape s (execResult link m s) := by simp [execResult]

@[simp] theorem execDone_shape (link : Nat) (m : Msg) (s : State) : SameShape s (execDone link m s) := by simp [execDone]

@[simp] theorem execCollAbort_shape (link : Nat) (m : Msg) (s : State) : SameShape s (execCollAbort link m s) := by simp [execCollAbort]

@[simp] theorem execCollAbortFinal_shape (link : Nat) (m : Msg) (s : State) : SameShape s (execCollAbortFinal link m s) := by
  simp [execCollAbortFinal]

@[simp] theorem execCollTimeout_shape (cmd : Nat) (t : Word) (s : State) : SameShape s (execCollTimeout cmd t s) := by
  unfold execCollTimeout
  dsimp only
  repeat' split
  all_goals simp

@[simp] theorem execPreemptGraceExpiry_shape (cmd : Nat) (t : Word) (s : State) : SameShape s (execPreemptGraceExpiry cmd t s) := by
  unfold execPreemptGraceExpiry
  repeat' split
  all_goals simp

/-! ### Peers -/

@[simp] theorem State.setPeer_shape (s : State) (id : Nat) (f : Peer → Peer) : (s.setPeer id f).shape = s.shape := by
  simp only [State.setPeer]
  split <;> simp

@[simp] theorem State.sendPeer_shape (s : State) (c : Cmd) (k : Peer) (m : Msg) : (s.sendPeer c k m).shape = s.shape := by simp [State.sendPeer]

@[simp] theorem State.streamPeer_shape (s : State) (id : Nat) : (s.streamPeer id).shape = s.shape := by
  unfold State.streamPeer
  repeat' split
  all_goals simp

@[simp] theorem State.peerKill_shape (s : State) (id next : Nat) : (s.peerKill id next).shape = s.shape := by
  unfold State.peerKill
  dsimp only
  repeat' split
  all_goals simp

@[simp] theorem State.waitReady_shape (s : State) (id : Nat) : (s.waitReady id).shape = s.shape := by
  simp only [State.waitReady]
  split <;> simp

@[simp] theorem State.sendCatchUp_shape (fuel : Nat) (s : State) (id top : Nat) : (State.sendCatchUp fuel s id top).shape = s.shape := by
  induction fuel generalizing s with
  | zero => rfl
  | succ fuel ih =>
    simp only [State.sendCatchUp]
    repeat' split
    all_goals simp [ih]

@[simp] theorem State.keepReady_shape (s : State) (link : Nat) (w : Nat × Nat × Nat) : (s.keepReady link w).shape = s.shape := by
  simp [State.keepReady]

@[simp] theorem State.pairPeer_shape (s : State) (id attempt len : Nat) : (s.pairPeer id attempt len).shape = s.shape := by
  unfold State.pairPeer
  dsimp only
  repeat' split
  all_goals simp

@[simp] theorem execMovePeerSend_shape (cmd : Nat) (s : State) : SameShape s (execMovePeerSend cmd s) := by
  simp only [execMovePeerSend, sameShape_next]
  refine control_shape _ _ _ _ _ fun c t => ?_
  dsimp only
  repeat' split
  all_goals simp

@[simp] theorem State.openRecv_shape (s : State) (id : Nat) : (s.openRecv id).shape = s.shape := by
  unfold State.openRecv
  repeat' split
  all_goals simp

@[simp] theorem execMovePeerRecv_shape (cmd : Nat) (s : State) : SameShape s (execMovePeerRecv cmd s) := by
  simp only [execMovePeerRecv]
  split <;> simp

@[simp] theorem execPeerReady_shape (link : Nat) (m : Msg) (s : State) : SameShape s (execPeerReady link m s) := by
  simp [execPeerReady]
  split <;> simp

theorem State.storePeer_shape {s t : State} {id : Nat} {c : Cmd} {b : Bytes} (e : s.storePeer id c b = .inl t) : t.shape = s.shape := by
  simp only [State.storePeer] at e
  split at e
  · cases e
    rfl
  · split at e
    · cases e
      simp
    · split at e
      · cases e
      · cases e
        simp

@[simp] theorem execPeerData_shape (link : Nat) (m : Msg) (s : State) : SameShape s (execPeerData link m s) := by
  simp only [execPeerData]
  repeat' split
  all_goals simp
  next e => simp [State.storePeer_shape e]

@[simp] theorem execPeerDone_shape (link : Nat) (m : Msg) (s : State) : SameShape s (execPeerDone link m s) := by
  unfold execPeerDone
  dsimp only
  repeat' split
  all_goals simp

@[simp] theorem execPeerAbort_shape (link : Nat) (m : Msg) (s : State) : SameShape s (execPeerAbort link m s) := by
  simp [execPeerAbort]
  split <;> simp

@[simp] theorem execPeerTimeout_shape (cmd : Nat) (t : Word) (s : State) : SameShape s (execPeerTimeout cmd t s) := by
  unfold execPeerTimeout
  repeat' split
  all_goals simp

/-! ### Models -/

@[simp] theorem State.setLoad_shape (s : State) (id : Nat) (f : Load → Load) : (s.setLoad id f).shape = s.shape := by
  simp only [State.setLoad]
  split <;> simp

@[simp] theorem State.sendUp_shape (s : State) (c : Cmd) (m : Msg) : (s.sendUp c m).shape = s.shape := by simp [State.sendUp]

@[simp] theorem State.sendDown_shape (s : State) (c : Cmd) (m : Msg) : (s.sendDown c m).shape = s.shape := by simp [State.sendDown]

@[simp] theorem State.forwardShard_shape (s : State) (id : Nat) (c : Cmd) (i : Nat) (b : Bytes) : (s.forwardShard id c i b).shape = s.shape := by
  simp [State.forwardShard]

@[simp] theorem State.feedDown_shape (s : State) (id : Nat) : (s.feedDown id).shape = s.shape := by
  unfold State.feedDown
  repeat' split
  all_goals simp

@[simp] theorem State.tryShard_shape (fuel : Nat) (s : State) (id i : Nat) : (State.tryShard fuel s id i).shape = s.shape := by
  induction fuel generalizing s with
  | zero => simp [State.tryShard]
  | succ fuel ih =>
    simp only [State.tryShard]
    repeat' split
    all_goals simp [ih]

@[simp] theorem State.readShard_shape (s : State) (id i : Nat) : (s.readShard id i).shape = s.shape := by
  simp only [State.readShard]
  repeat' split
  all_goals simp

@[simp] theorem State.loadCheck_shape (s : State) (id : Nat) : (s.loadCheck id).shape = s.shape := by
  unfold State.loadCheck
  repeat' split
  all_goals simp

@[simp] theorem State.recoverShard_shape (s : State) (id i : Nat) : (s.recoverShard id i).shape = s.shape := by
  unfold State.recoverShard
  repeat' split
  all_goals simp

@[simp] theorem State.takeManifest_shape (s : State) (id : Nat) (m : Bytes) : (s.takeManifest id m).shape = s.shape := by
  unfold State.takeManifest
  repeat' split
  all_goals simp

@[simp] theorem State.manifestDma_shape (s : State) (c : Cmd) : (s.manifestDma c).shape = s.shape := by simp [State.manifestDma]

@[simp] theorem execModelLoad_shape (cmd : Nat) (s : State) : SameShape s (execModelLoad cmd s) := by
  simp only [execModelLoad, sameShape_next]
  refine control_shape _ _ _ _ _ fun c t => ?_
  repeat' split
  all_goals simp

@[simp] theorem relayMsg_shape (type : Nat) (up : Bool) (link : Nat) (m : Msg) (f : Nat → Cmd → Load → State → State) (s : State) (hf : ∀ i c k t, (f i c k t).shape = t.shape) :
    (relayMsg type up link m f s).shape = s.shape := by
  simp only [relayMsg]
  repeat' split
  all_goals simp [hf]

@[simp] theorem execRelayReady_shape (link : Nat) (m : Msg) (s : State) : SameShape s (execRelayReady link m s) := by
  simp [execRelayReady]
  split <;> simp

@[simp] theorem execRelayManifest_shape (link : Nat) (m : Msg) (s : State) : SameShape s (execRelayManifest link m s) := by
  simp [execRelayManifest]

@[simp] theorem execRelayShard_shape (link : Nat) (m : Msg) (s : State) : SameShape s (execRelayShard link m s) := by
  simp only [execRelayShard, sameShape_next]
  refine relayMsg_shape _ _ _ _ _ _ fun i c k t => ?_
  repeat' split
  all_goals simp

@[simp] theorem execRelayAck_shape (link : Nat) (m : Msg) (s : State) : SameShape s (execRelayAck link m s) := by simp [execRelayAck]

@[simp] theorem State.resendShard_shape (s : State) (id : Nat) (c : Cmd) (i : Nat) (b : Bytes) : (s.resendShard id c i b).shape = s.shape := by
  simp [State.resendShard]

@[simp] theorem execRelayNak_shape (link : Nat) (m : Msg) (s : State) : SameShape s (execRelayNak link m s) := by
  simp only [execRelayNak, sameShape_next]
  refine relayMsg_shape _ _ _ _ _ _ fun i c k t => ?_
  repeat' split
  all_goals simp

@[simp] theorem execRelayAbort_shape (link : Nat) (m : Msg) (s : State) : SameShape s (execRelayAbort link m s) := by
  unfold execRelayAbort
  dsimp only
  repeat' split
  all_goals simp

@[simp] theorem execShardVerified_shape (cmd shard : Nat) (s : State) : SameShape s (execShardVerified cmd shard s) := by
  unfold execShardVerified
  repeat' split
  all_goals simp

@[simp] theorem execShardMissingTimeout_shape (cmd shard : Nat) (t : Word) (s : State) : SameShape s (execShardMissingTimeout cmd shard t s) := by
  unfold execShardMissingTimeout
  repeat' split
  all_goals simp

@[simp] theorem execRelayManifestTimeout_shape (cmd : Nat) (t : Word) (s : State) : SameShape s (execRelayManifestTimeout cmd t s) := by
  unfold execRelayManifestTimeout
  repeat' split
  all_goals simp

@[simp] theorem execDownstreamTimeout_shape (cmd : Nat) (t : Word) (s : State) : SameShape s (execDownstreamTimeout cmd t s) := by
  unfold execDownstreamTimeout
  repeat' split
  all_goals simp

@[simp] theorem State.commitModel_shape (s : State) (c : Cmd) : (s.commitModel c).shape = s.shape := by
  simp only [State.commitModel]
  split <;> simp

@[simp] theorem execModelUnload_shape (cmd : Nat) (s : State) : SameShape s (execModelUnload cmd s) := by
  simp only [execModelUnload, sameShape_next]
  refine control_shape _ _ _ _ _ fun c t => ?_
  repeat' split
  all_goals simp

@[simp] theorem execAlloyBind_shape (cmd : Nat) (s : State) : SameShape s (execAlloyBind cmd s) := by
  simp only [execAlloyBind, sameShape_next]
  refine control_shape _ _ _ _ _ fun c t => ?_
  rw [State.settle_shape, State.asDma_shape]
  split
  · simp
  · rw [judgeShape_ok, State.shape_mk, State.shape_fold]
    refine foldl_shape _ _ _ fun a e => ?_
    split
    · split <;> simp
    · split <;> simp

@[simp] theorem execAlloyUnbind_shape (cmd : Nat) (s : State) : SameShape s (execAlloyUnbind cmd s) := by
  simp only [execAlloyUnbind, sameShape_next]
  refine control_shape _ _ _ _ _ fun c t => ?_
  repeat' split
  all_goals simp

/-! ### Codec -/

@[simp] theorem State.setStream_shape (s : State) (c : Cmd) (x : CodecStream) : (s.setStream c x).shape = s.shape := by simp [State.setStream]

theorem State.openStream_shape {s t : State} {c : Cmd} (e : s.openStream c = .ok t) : t.shape = s.shape := by
  simp only [State.openStream] at e
  split at e
  · cases e
  · split at e
    · cases e
    · cases e
      simp

@[simp] theorem State.takeTurn_shape (s : State) (d id : Nat) : (s.takeTurn d id).shape = s.shape := by
  simp only [State.takeTurn]
  split <;> simp

@[simp] theorem execCodecFrameBoundary_shape (die : Nat) (s : State) : SameShape s (execCodecFrameBoundary die s) := by
  simp [execCodecFrameBoundary]
  split <;> simp

@[simp] theorem State.modCmd_shape (s : State) (id : Nat) (f : Cmd → Cmd) : (s.modCmd id f).shape = s.shape := by
  simp only [State.modCmd]
  split <;> simp

@[simp] theorem State.endFrame_shape (s : State) (id : Nat) (c : Cmd) (fails : List (Nat × Nat)) (out rec : Bytes) (result : List Nat) :
    (s.endFrame id c fails out rec result).shape = s.shape := by
  unfold State.endFrame
  dsimp only
  repeat' split
  all_goals simp

@[simp] theorem State.encodeBody_shape (s : State) (id : Nat) (c : Cmd) (x : CodecStream) (ik : Nat) (o : Obj) :
    (s.encodeBody id c x ik o).shape = s.shape := by
  simp [State.encodeBody]

@[simp] theorem State.decodeBody_shape (s : State) (id : Nat) (c : Cmd) (x : CodecStream) (ik : Nat) (o : Obj) :
    (s.decodeBody id c x ik o).shape = s.shape := by
  unfold State.decodeBody
  dsimp only
  repeat' split
  all_goals simp

@[simp] theorem codecFrame_shape (op : Nat) (body : State → Nat → Cmd → CodecStream → Nat → Obj → State) (cmd : Nat) (s : State) (hbody : ∀ t i c x k o, (body t i c x k o).shape = t.shape) :
    (codecFrame op body cmd s).shape = s.shape := by
  unfold codecFrame
  refine control_shape _ _ _ _ _ fun c t => ?_
  dsimp only
  repeat' split
  all_goals simp [hbody]

@[simp] theorem execCodecEncode_shape (cmd : Nat) (s : State) : SameShape s (execCodecEncode cmd s) := by simp [execCodecEncode]

@[simp] theorem execCodecDecode_shape (cmd : Nat) (s : State) : SameShape s (execCodecDecode cmd s) := by simp [execCodecDecode]

@[simp] theorem streamOp_shape (op : Nat) (f : Cmd → State → State) (cmd : Nat) (s : State) (hf : ∀ c t, (f c t).shape = t.shape) :
    (streamOp op f cmd s).shape = s.shape := by
  unfold streamOp
  refine control_shape _ _ _ _ _ fun c t => ?_
  repeat' split
  all_goals simp [hf]

@[simp] theorem execCodecOpen_shape (cmd : Nat) (s : State) : SameShape s (execCodecOpen cmd s) := by
  simp only [execCodecOpen, sameShape_next]
  refine control_shape _ _ _ _ _ fun c t => ?_
  repeat' split
  all_goals simp
  next e => exact State.openStream_shape e

@[simp] theorem execCodecClose_shape (cmd : Nat) (s : State) : SameShape s (execCodecClose cmd s) := by simp [execCodecClose]

@[simp] theorem execCodecKeyReq_shape (cmd : Nat) (s : State) : SameShape s (execCodecKeyReq cmd s) := by
  simp only [execCodecKeyReq, sameShape_next]
  refine control_shape _ _ _ _ _ fun c t => ?_
  dsimp only
  repeat' split
  all_goals simp

@[simp] theorem State.commitCodec_shape (s : State) (c : Cmd) : (s.commitCodec c).shape = s.shape := by
  simp [State.commitCodec]
  split <;> simp

/-! ### Detect -/

@[simp] theorem State.serveDie_shape (cmd d fuel : Nat) (s : State) : (State.serveDie cmd d fuel s).shape = s.shape := by
  induction fuel generalizing s with
  | zero => rfl
  | succ fuel ih =>
    simp only [State.serveDie]
    repeat' split
    all_goals simp [ih]

@[simp] theorem State.serveImages_shape (s : State) (cmd : Nat) : (s.serveImages cmd).shape = s.shape := by
  unfold State.serveImages
  refine foldl_shape _ _ _ fun a x => ?_
  repeat' split
  all_goals simp

@[simp] theorem execDetectPost_shape (cmd : Nat) (s : State) : SameShape s (execDetectPost cmd s) := by
  simp only [execDetectPost, sameShape_next]
  refine control_shape _ _ _ _ _ fun c t => ?_
  repeat' split
  all_goals simp

/-! ### Spine -/

theorem State.setQuire_shape (s : State) (d p : Nat) (q : Quire) (h : q.tiles.length = (s.quireAt d p).tiles.length) :
    (s.setQuire d p q).shape = s.shape := by
  refine s.setDie_shape _ _ ?_
  rw [DieState.shape_mk, map_set_of_getD _ _ _ _ {} h, DieState.shape_fold]

@[simp] theorem State.reportDrop_shape (s : State) (d kind unit reporter : Nat) : (s.reportDrop d kind unit reporter).shape = s.shape := by
  simp [State.reportDrop]

@[simp] theorem State.quarantineDie_shape (s : State) (d origin : Nat) : (s.quarantineDie d origin).shape = s.shape := by
  simp [State.quarantineDie]

@[simp] theorem State.commitWithout_shape (s : State) (d : Nat) : (s.commitWithout d).shape = s.shape := by simp [State.commitWithout]

@[simp] theorem State.fenceDie_shape (s : State) (d origin : Nat) : (s.fenceDie d origin).shape = s.shape := by
  simp [State.fenceDie, State.setDie_shape]

@[simp] theorem State.checkPair_shape (s : State) (a b : Nat) : (s.checkPair a b).shape = s.shape := by simp [State.checkPair]

@[simp] theorem State.settlePaths_shape (fuel : Nat) (s : State) : (State.settlePaths fuel s).shape = s.shape := by
  induction fuel generalizing s with
  | zero => rfl
  | succ fuel ih =>
    unfold State.settlePaths
    split <;> simp [ih]

@[simp] theorem State.loseDie_shape (s : State) (d origin : Nat) : (s.loseDie d origin).shape = s.shape := by simp [State.loseDie]

@[simp] theorem State.fenceLink_shape (s : State) (a b : Nat) : (s.fenceLink a b).shape = s.shape := by simp [State.fenceLink]

@[simp] theorem State.fenceQuire_shape (s : State) (d phys : Nat) : (s.fenceQuire d phys).shape = s.shape := by
  simp [State.fenceQuire, State.setQuire_shape]

@[simp] theorem execFenceAcksComplete_shape (die kind unit : Nat) (s : State) : SameShape s (execFenceAcksComplete die kind unit s) := by
  simp only [execFenceAcksComplete]
  repeat' split
  · rw [sameShape_next, State.setDie_shape _ _ _ (DieState.reassign_shape _ _), State.setQuire_shape]
    rfl
  · simp
  · simp

@[simp] theorem execQuireProbe_shape (die : Nat) (t : Word) (s : State) : SameShape s (execQuireProbe die t s) := by
  simp only [execQuireProbe]
  split
  · simp
  · rw [sameShape_next, State.setDie_shape, State.reach_shape]
    rw [DieState.shape_mk, map_zipIdx_map, DieState.shape_fold]
    intro x
    split <;> rfl

@[simp] theorem execProbeAnswer_shape (die phys gen : Nat) (s : State) : SameShape s (execProbeAnswer die phys gen s) := by
  simp [execProbeAnswer, State.setQuire_shape]

@[simp] theorem execSpineHeartbeatSend_shape (die far : Nat) (t : Word) (s : State) : SameShape s (execSpineHeartbeatSend die far t s) := by
  simp [execSpineHeartbeatSend]

@[simp] theorem execSpineHeartbeatReceive_shape (die far gen : Nat) (s : State) : SameShape s (execSpineHeartbeatReceive die far gen s) := by
  simp [execSpineHeartbeatReceive]

@[simp] theorem execHeartbeatMiss_shape (die kind unit : Nat) (t : Word) (s : State) : SameShape s (execHeartbeatMiss die kind unit t s) := by
  simp [execHeartbeatMiss, State.setQuire_shape]

@[simp] theorem execSpineMessageReceive_shape (m : SpineMsg) (s : State) : SameShape s (execSpineMessageReceive m s) := by
  have h : ((s.takeNumber m.src m.dst m.channel m.seqNo).getD s).shape = s.shape := by
    cases e : s.takeNumber m.src m.dst m.channel m.seqNo with
    | none => rfl
    | some t => exact State.takeNumber_shape e
  simp [execSpineMessageReceive, h]

@[simp] theorem execSpineFlitCrcError_shape (a b dir lane : Nat) (t : Word) (s : State) : SameShape s (execSpineFlitCrcError a b dir lane t s) := by
  simp [execSpineFlitCrcError]

@[simp] theorem execLaneRemap_shape (a b dir lane : Nat) (s : State) : SameShape s (execLaneRemap a b dir lane s) := by simp [execLaneRemap]

@[simp] theorem execSpineRetrainDone_shape (a b : Nat) (s : State) : SameShape s (execSpineRetrainDone a b s) := by simp [execSpineRetrainDone]

@[simp] theorem execSelfTestDone_shape (cmd verdict : Nat) (s : State) : SameShape s (execSelfTestDone cmd verdict s) := by
  simp only [execSelfTestDone, sameShape_next]
  refine control_shape _ _ _ _ _ fun c t => ?_
  repeat' split
  · simp
  · simp
    rw [State.setDie_shape _ _ _ (DieState.restore_shape _ _)]
    simp [State.setQuire_shape]
  · simp

@[simp] theorem execPllLossOfLock_shape (die : Nat) (s : State) : SameShape s (execPllLossOfLock die s) := by simp [execPllLossOfLock]

@[simp] theorem execHimonFailure_shape (die : Nat) (s : State) : SameShape s (execHimonFailure die s) := by simp [execHimonFailure]

/-! ### Work -/

@[simp] theorem State.openWork_shape (s : State) (id : Nat) : (s.openWork id).shape = s.shape := by
  unfold State.openWork
  dsimp only
  repeat' split
  all_goals simp

@[simp] theorem State.openUnit_shape (s : State) (c : Cmd) (id die quire plane : Nat) (items : List Nat) :
    (s.openUnit c id die quire plane items).shape = s.shape := by
  simp only [State.openUnit]
  split <;> simp

theorem State.claim_shape {s t : State} {id die quire plane : Nat} (e : s.claim id die quire plane = some t) : t.shape = s.shape := by
  simp only [State.claim] at e
  split at e
  · cases e
  · split at e
    · cases e
    · split at e
      · cases e
        simp
      · split at e
        · cases e
        · split at e
          · cases e
            simp
          · cases e

@[simp] theorem execUnitClaim_shape (cmd die quire plane : Nat) (s : State) : SameShape s (execUnitClaim cmd die quire plane s) := by
  simp only [execUnitClaim]
  repeat' split
  all_goals simp
  next e _ => simp [State.claim_shape e]

@[simp] theorem State.useCopies_shape (s : State) (c : Cmd) (h : Held) (item : Nat) : (s.useCopies c h item).shape = s.shape := by
  unfold State.useCopies
  refine foldl_shape _ _ _ fun a x => ?_
  repeat' split
  all_goals simp

@[simp] theorem State.residueMiss_shape (s : State) (id : Nat) (c : Cmd) (die phys : Nat) (own : List (Nat × Nat)) :
    (s.residueMiss id c die phys own).shape = s.shape := by
  simp [State.residueMiss]

@[simp] theorem State.closeWork_shape (s : State) (id : Nat) : (s.closeWork id).shape = s.shape := by
  simp only [State.closeWork]
  split <;> simp

@[simp] theorem State.stageOutput_shape (s : State) (id die quire tile : Nat) : (s.stageOutput id die quire tile).shape = s.shape := by
  unfold State.stageOutput
  repeat' split
  all_goals simp

@[simp] theorem State.doneBlock_shape (s : State) (id die item : Nat) : (s.doneBlock id die item).shape = s.shape := by
  unfold State.doneBlock
  repeat' split
  all_goals simp

@[simp] theorem execTileComplete_shape (cmd tile quire : Nat) (residueOk : Bool) (s : State) :
    SameShape s (execTileComplete cmd tile quire residueOk s) := by
  unfold execTileComplete
  dsimp only
  repeat' split
  all_goals simp

@[simp] theorem execSegmentCountSend_shape (die cmd : Nat) (t : Word) (s : State) : SameShape s (execSegmentCountSend die cmd t s) := by
  unfold execSegmentCountSend
  dsimp only
  repeat' split
  all_goals simp

@[simp] theorem execSegmentCountReceive_shape (dst src cmd count : Nat) (s : State) : SameShape s (execSegmentCountReceive dst src cmd count s) := by
  simp only [execSegmentCountReceive]
  split <;> simp

@[simp] theorem State.fetchUse_shape (s : State) (c : Cmd) (role n : Nat) : (s.fetchUse c role n).1.shape = s.shape := by
  unfold State.fetchUse
  repeat' split
  all_goals simp

@[simp] theorem execIngotArrival_shape (cmd operand ingot : Nat) (s : State) : SameShape s (execIngotArrival cmd operand ingot s) := by
  unfold execIngotArrival
  dsimp only
  repeat' split
  all_goals simp

@[simp] theorem execT3FetchError_shape (cmd operand ingot : Nat) (s : State) : SameShape s (execT3FetchError cmd operand ingot s) := by
  simp only [execT3FetchError]
  repeat' split
  all_goals simp

@[simp] theorem execUseDeadlineExpiry_shape (cmd tile operand ingot : Nat) (t : Word) (s : State) :
    SameShape s (execUseDeadlineExpiry cmd tile operand ingot t s) := by
  unfold execUseDeadlineExpiry
  dsimp only
  repeat' split
  all_goals simp

@[simp] theorem execStallLimitExpiry_shape (cmd tile operand ingot : Nat) (t : Word) (s : State) :
    SameShape s (execStallLimitExpiry cmd tile operand ingot t s) := by
  unfold execStallLimitExpiry
  repeat' split
  all_goals simp

/-! ### Commit -/

@[simp] theorem State.commitRest_shape (s : State) (c : Cmd) : (s.commitRest c).shape = s.shape := by simp [State.commitRest]

@[simp] theorem State.failAt_shape (s : State) (id : Nat) (c : Cmd) : (s.failAt id c).shape = s.shape := by simp [State.failAt]

@[simp] theorem execCommandCommit_shape (cmd : Nat) (s : State) : SameShape s (execCommandCommit cmd s) := by
  simp only [execCommandCommit]
  split <;> simp

@[simp] theorem execCommitMessage_shape (die cmd : Nat) (s : State) : SameShape s (execCommitMessage die cmd s) := by
  simp only [execCommitMessage]
  split <;> simp

@[simp] theorem execCommitAck_shape (die cmd : Nat) (s : State) : SameShape s (execCommitAck die cmd s) := by
  simp only [execCommitAck]
  split <;> simp

@[simp] theorem execAdmittedDescriptorReceive_shape (die cmd : Nat) (s : State) : SameShape s (execAdmittedDescriptorReceive die cmd s) := by
  simp only [execAdmittedDescriptorReceive]
  split <;> simp

/-! ### MemSys -/

@[simp] theorem execMemMapCtrlWrite_shape (value : Nat) (s : State) : SameShape s (execMemMapCtrlWrite value s) := by simp [execMemMapCtrlWrite]

@[simp] theorem State.lineWrite_shape (s : State) (x : Nat) (b : Bytes) : (s.lineWrite x b).shape = s.shape := by
  unfold State.lineWrite
  repeat' split
  all_goals simp

@[simp] theorem State.reply_shape (s : State) (x die kind unit : Nat) (b : Bytes) : (s.reply x die kind unit b).shape = s.shape := by
  simp [State.reply]

theorem State.arrives_shape {s t : State} {die x : Nat} {stamp : Stamp} (e : s.arrives die x stamp = some t) : t.shape = s.shape := by
  unfold State.arrives at e
  split at e
  · cases e
  · exact State.takeNumber_shape e

@[simp] theorem execFarAccessRequest_shape (die kind unit : Nat) (gen : Stamp) (addr : Nat) (isWrite : Bool) (data : Bytes) (s : State) :
    SameShape s (execFarAccessRequest die kind unit gen addr isWrite data s) := by
  unfold execFarAccessRequest
  repeat' split
  all_goals simp
  all_goals next e _ => exact State.arrives_shape e

@[simp] theorem execAtomicRequest_shape (die kind unit : Nat) (gen : Stamp) (addr : Nat) (req : AtomicReq) (width operand comparand : Nat) (s : State) :
    SameShape s (execAtomicRequest die kind unit gen addr req width operand comparand s) := by
  unfold execAtomicRequest
  repeat' split
  all_goals simp
  all_goals next e _ _ => exact State.arrives_shape (Option.ite_none_right_eq_some.1 e).2

@[simp] theorem execLineAdd_shape (die : AddRoute) (line : Nat) (addends : List Nat) (s : State) : SameShape s (execLineAdd die line addends s) := by
  simp only [execLineAdd]
  repeat' split
  all_goals simp
  next e =>
    rw [State.setDie_shape _ _ _ (by simp), State.takeNumber_shape (Option.ite_none_right_eq_some.1 e).2]

@[simp] theorem State.poisonUse_shape (s : State) (holds : LineUse) (origin : Nat) : (s.poisonUse holds origin).shape = s.shape := by
  simp only [State.poisonUse]
  repeat' split
  all_goals simp

@[simp] theorem State.markLine_shape (s : State) (stack line : Nat) (holds : LineUse) (origin : Nat) :
    (s.markLine stack line holds origin).shape = s.shape := by
  simp [State.markLine]

@[simp] theorem State.poisonLine_shape (s : State) (stack line : Nat) (said : LineUse) : (s.poisonLine stack line said).shape = s.shape := by
  simp [State.poisonLine]

@[simp] theorem execPatrolScrub_shape (stack line outcome : Nat) (holds : LineUse) (s : State) :
    SameShape s (execPatrolScrub stack line outcome holds s) := by
  simp [execPatrolScrub]

@[simp] theorem execRepairRecordAdd_shape (typ die row address : Nat) (s : State) : SameShape s (execRepairRecordAdd typ die row address s) := by
  simp [execRepairRecordAdd]

@[simp] theorem memMargin_shape (kind cmd : Nat) (s : State) : (memMargin kind cmd s).shape = s.shape := by simp [memMargin]

@[simp] theorem execMemMarginReadScan_shape (cmd : Nat) (s : State) : SameShape s (execMemMarginReadScan cmd s) := by
  simp [execMemMarginReadScan]

@[simp] theorem execMemMarginTiming_shape (cmd : Nat) (s : State) : SameShape s (execMemMarginTiming cmd s) := by simp [execMemMarginTiming]

@[simp] theorem execMemMarginVoltage_shape (cmd : Nat) (s : State) : SameShape s (execMemMarginVoltage cmd s) := by simp [execMemMarginVoltage]

@[simp] theorem execMemMarginTimingVoltage_shape (cmd : Nat) (s : State) : SameShape s (execMemMarginTimingVoltage cmd s) := by
  simp [execMemMarginTimingVoltage]

/-! ### Security -/

@[simp] theorem State.fwWrite_shape (s : State) (dmaOk : Bool) : (s.fwWrite dmaOk).1.shape = s.shape := by
  unfold State.fwWrite
  dsimp only
  repeat' split
  all_goals simp

@[simp] theorem State.fwActivate_shape (s : State) : s.fwActivate.1.shape = s.shape := by
  simp only [State.fwActivate]
  split <;> simp

@[simp] theorem State.fwConfirm_shape (s : State) : s.fwConfirm.1.shape = s.shape := by
  unfold State.fwConfirm
  repeat' split
  all_goals simp

@[simp] theorem State.fwStatus_shape (s : State) : s.fwStatus.1.shape = s.shape := (rfl)

@[simp] theorem State.debugUnlock_shape (s : State) (dmaOk : Bool) : (s.debugUnlock dmaOk).1.shape = s.shape := by
  unfold State.debugUnlock
  dsimp only
  repeat' split
  all_goals simp

@[simp] theorem State.mailboxGo_shape (s : State) (code : Nat) (stores : List Host.Cell) : (s.mailboxGo code stores).shape = s.shape := by
  simp [State.mailboxGo]

@[simp] theorem execFwWrite_shape (stores : List Host.Cell) (s : State) : SameShape s (execFwWrite stores s) := by simp [execFwWrite]

@[simp] theorem execFwActivate_shape (stores : List Host.Cell) (s : State) : SameShape s (execFwActivate stores s) := by simp [execFwActivate]

@[simp] theorem execFwConfirm_shape (stores : List Host.Cell) (s : State) : SameShape s (execFwConfirm stores s) := by simp [execFwConfirm]

@[simp] theorem execFwStatus_shape (stores : List Host.Cell) (s : State) : SameShape s (execFwStatus stores s) := by simp [execFwStatus]

@[simp] theorem execDebugUnlock_shape (stores : List Host.Cell) (s : State) : SameShape s (execDebugUnlock stores s) := by
  simp [execDebugUnlock]

@[simp] theorem execMailboxCommandDone_shape (dmaOk : Bool) (s : State) : SameShape s (execMailboxCommandDone dmaOk s) := by
  simp [execMailboxCommandDone]
  split <;> simp

@[simp] theorem State.spdmSend_shape (s : State) (b : Bytes) : (s.spdmSend b).shape = s.shape := by simp [State.spdmSend]

@[simp] theorem State.spdm_shape (s : State) (code transport : Nat) (req facts : Bytes) : (s.spdm code transport req facts).shape = s.shape := by
  simp [State.spdm]

@[simp] theorem State.spdmSigned_shape (s : State) (code transport : Nat) (req facts : Bytes) :
    (s.spdmSigned code transport req facts).shape = s.shape := by
  simp [State.spdmSigned]

@[simp] theorem execSpdmGetVersion_shape (transport _session : Nat) (req : Bytes) (s : State) :
    SameShape s (execSpdmGetVersion transport _session req s) := by
  simp [execSpdmGetVersion]

@[simp] theorem execSpdmGetCapabilities_shape (transport _session : Nat) (req : Bytes) (s : State) :
    SameShape s (execSpdmGetCapabilities transport _session req s) := by
  simp [execSpdmGetCapabilities]

@[simp] theorem execSpdmNegotiateAlgorithms_shape (transport _session : Nat) (req : Bytes) (s : State) :
    SameShape s (execSpdmNegotiateAlgorithms transport _session req s) := by
  simp [execSpdmNegotiateAlgorithms]

@[simp] theorem State.spdmCerts_shape (s : State) (code transport slot : Nat) (req : Bytes) : (s.spdmCerts code transport slot req).shape = s.shape := by
  simp [State.spdmCerts]

@[simp] theorem State.inSession_shape (s : State) (code transport session : Nat) (req : Bytes) (f : NMap Session → NMap Session) :
    (s.inSession code transport session req f).shape = s.shape := by
  simp [State.inSession]

@[simp] theorem execSpdmGetDigests_shape (transport _session : Nat) (req : Bytes) (s : State) :
    SameShape s (execSpdmGetDigests transport _session req s) := by
  simp [execSpdmGetDigests]

@[simp] theorem execSpdmGetCertificate_shape (transport _session : Nat) (req : Bytes) (s : State) :
    SameShape s (execSpdmGetCertificate transport _session req s) := by
  simp [execSpdmGetCertificate]

@[simp] theorem execSpdmChallenge_shape (transport _session : Nat) (req : Bytes) (s : State) :
    SameShape s (execSpdmChallenge transport _session req s) := by
  simp [execSpdmChallenge]

@[simp] theorem execSpdmGetMeasurements_shape (transport _session : Nat) (req : Bytes) (s : State) :
    SameShape s (execSpdmGetMeasurements transport _session req s) := by
  simp [execSpdmGetMeasurements]

@[simp] theorem execSpdmKeyExchange_shape (transport session : Nat) (req : Bytes) (s : State) :
    SameShape s (execSpdmKeyExchange transport session req s) := by
  simp [execSpdmKeyExchange]

@[simp] theorem execSpdmFinish_shape (transport session : Nat) (req : Bytes) (s : State) : SameShape s (execSpdmFinish transport session req s) := by
  simp [execSpdmFinish]

@[simp] theorem execSpdmKeyUpdate_shape (transport session : Nat) (req : Bytes) (s : State) :
    SameShape s (execSpdmKeyUpdate transport session req s) := by
  simp [execSpdmKeyUpdate]

@[simp] theorem execSpdmHeartbeat_shape (transport session : Nat) (req : Bytes) (s : State) :
    SameShape s (execSpdmHeartbeat transport session req s) := by
  simp [execSpdmHeartbeat]

@[simp] theorem execSpdmEndSession_shape (transport session : Nat) (req : Bytes) (s : State) :
    SameShape s (execSpdmEndSession transport session req s) := by
  simp [execSpdmEndSession]

@[simp] theorem execIdeKmRequest_shape (session stream : Nat) (activate : Bool) (s : State) :
    SameShape s (execIdeKmRequest session stream activate s) := by
  unfold execIdeKmRequest
  dsimp only
  repeat' split
  all_goals simp

@[simp] theorem execIdeStreamInsecure_shape (stream : Nat) (s : State) : SameShape s (execIdeStreamInsecure stream s) := by
  simp [execIdeStreamInsecure]

@[simp] theorem State.modPart_shape (s : State) (p : Nat) (f : Part → Part) : (s.modPart p f).shape = s.shape := (rfl)

@[simp] theorem execKeyImportContent_shape (cmd : Nat) (s : State) : SameShape s (execKeyImportContent cmd s) := by
  simp only [execKeyImportContent, sameShape_next]
  refine control_shape _ _ _ _ _ fun c t => ?_
  repeat' split
  all_goals simp

@[simp] theorem execKeySetPublisher_shape (cmd : Nat) (s : State) : SameShape s (execKeySetPublisher cmd s) := by simp [execKeySetPublisher]

@[simp] theorem execKeyClearContent_shape (cmd : Nat) (s : State) : SameShape s (execKeyClearContent cmd s) := by simp [execKeyClearContent]

@[simp] theorem execKeyClearPublisher_shape (cmd : Nat) (s : State) : SameShape s (execKeyClearPublisher cmd s) := by
  simp [execKeyClearPublisher]

@[simp] theorem execAttest_shape (cmd : Nat) (s : State) : SameShape s (execAttest cmd s) := by simp [execAttest]

@[simp] theorem execDiscardToken_shape (s : State) : SameShape s (execDiscardToken s) := by simp [execDiscardToken]

@[simp] theorem execJtagInstruction_shape (boundary : Bool) (s : State) : SameShape s (execJtagInstruction boundary s) := by
  simp [execJtagInstruction]

/-! ### Reset -/

@[simp] theorem State.applyRepairs_shape (s : State) : s.applyRepairs.shape = s.shape := by simp [State.applyRepairs]

@[simp] theorem State.trainSpine_shape (s : State) (n : Nat) : (s.trainSpine n).shape = s.shape := by simp [State.trainSpine]

@[simp] theorem State.settleBindery_shape (s : State) : s.settleBindery.shape = s.shape := by simp [State.settleBindery]

@[simp] theorem State.trainLinks_shape (s : State) : s.trainLinks.shape = s.shape := by simp [State.trainLinks]

@[simp] theorem execHimonReady_shape (s : State) : SameShape s (execHimonReady s) := by simp [execHimonReady]

/-! ### Colophon -/

@[simp] theorem State.takeCapture_shape (s : State) : s.takeCapture.shape = s.shape := by
  simp only [State.takeCapture]
  split <;> simp

@[simp] theorem State.requestCapture_shape (s : State) (who : Option Nat) : (s.requestCapture who).shape = s.shape := by
  simp [State.requestCapture]

@[simp] theorem execColophon_shape (cmd : Nat) (s : State) : SameShape s (execColophon cmd s) := by simp [execColophon]

@[simp] theorem execColophonReqGo_shape (value : Nat) (s : State) : SameShape s (execColophonReqGo value s) := by simp [execColophonReqGo]

@[simp] theorem State.nextCapture_shape (s : State) : s.nextCapture.shape = s.shape := by simp [State.nextCapture]

@[simp] theorem execColophonCaptureDone_shape (s : State) : SameShape s (execColophonCaptureDone s) := by
  unfold execColophonCaptureDone
  repeat' split
  all_goals simp

@[simp] theorem execColophonFatalTimeout_shape (t : Word) (s : State) : SameShape s (execColophonFatalTimeout t s) := by
  simp [execColophonFatalTimeout]

/-! ### Plans -/

@[simp] theorem execPlanInstall_shape (cmd : Nat) (s : State) : SameShape s (execPlanInstall cmd s) := by
  simp only [execPlanInstall, sameShape_next]
  refine control_shape _ _ _ _ _ fun c t => ?_
  repeat' split
  all_goals simp

@[simp] theorem execPlanRetire_shape (cmd : Nat) (s : State) : SameShape s (execPlanRetire cmd s) := by
  simp only [execPlanRetire, sameShape_next]
  refine control_shape _ _ _ _ _ fun c t => ?_
  repeat' split
  all_goals simp

/-! ### Admit -/

theorem State.decision_shape {s t : State} {c : Cmd} {x : Decision} (e : s.decision c = some (t, x)) : t.shape = s.shape :=
  State.temperAdmit_shape e

@[simp] theorem State.setFormats_shape (s : State) (id : Nat) (c : Cmd) : (s.setFormats id c).shape = s.shape := by
  simp only [State.setFormats]
  split
  · rfl
  · split
    · next e => simp [State.decision_shape (Option.ite_none_right_eq_some.1 e).2]
    · simp

@[simp] theorem State.admitOwn_shape (s : State) (id : Nat) (c : Cmd) : (s.admitOwn id c).shape = s.shape := by
  unfold State.admitOwn
  repeat' split
  all_goals simp
  next e => exact State.openStream_shape e

@[simp] theorem State.announce_shape (s : State) (id : Nat) (c : Cmd) : (s.announce id c).shape = s.shape := by
  simp only [State.announce]
  split <;> simp

@[simp] theorem State.admitHead_shape (s : State) (owner ring : Nat) (r : SubRing) (x : Fetched) : (s.admitHead owner ring r x).shape = s.shape := by
  simp [State.admitHead]

@[simp] theorem execCommandAdmit_shape (owner ring : Nat) (s : State) : SameShape s (execCommandAdmit owner ring s) := by
  unfold execCommandAdmit
  dsimp only
  repeat' split
  all_goals simp

/-! ### Findings -/

@[simp] theorem State.restage_shape (s : State) (cmd origin : Nat) : (s.restage cmd origin).shape = s.shape := by
  simp only [State.restage]
  split <;> simp

@[simp] theorem State.sysWord_shape (s : State) (p : SysPart) (die part cmd origin : Nat) (dirty himon : Bool) :
    (s.sysWord p die part cmd origin dirty himon).shape = s.shape := by
  simp only [State.sysWord]
  repeat' split
  all_goals simp

@[simp] theorem State.poisonStore_shape (s : State) (die quire key version ingot word origin : Nat) :
    (s.poisonStore die quire key version ingot word origin).shape = s.shape :=
  State.setDie_shape _ _ _ (by simp)

@[simp] theorem State.lostLine_shape (s : State) (line origin : Nat) (said : LineUse) : (s.lostLine line origin said).shape = s.shape := by
  simp [State.lostLine]

@[simp] theorem State.badLine_shape (s : State) (line origin : Nat) (said : LineUse) : (s.badLine line origin said).shape = s.shape := by
  simp only [State.badLine]
  split <;> simp

@[simp] theorem State.badWay_shape (s : State) (die set way origin : Nat) (said : LineUse) : (s.badWay die set way origin said).shape = s.shape := by
  simp [State.badWay, State.setDie_shape]

@[simp] theorem State.found_shape (s : State) (rep : Report) : (s.found rep).shape = s.shape := by
  unfold State.found
  repeat' split
  all_goals simp

@[simp] theorem execErrorReport_shape (rep : Report) (s : State) : SameShape s (execErrorReport rep s) := by simp [execErrorReport]

/-! ### Registers -/

@[simp] theorem State.adminEnable_shape (s : State) (v : Nat) : (s.adminEnable v).shape = s.shape := by simp [State.adminEnable]

@[simp] theorem State.adminDisable_shape (s : State) (v : Nat) : (s.adminDisable v).shape = s.shape := by simp [State.adminDisable]

@[simp] theorem execPackageAdminEnable_shape (value : Nat) (s : State) : SameShape s (execPackageAdminEnable value s) := by
  simp [execPackageAdminEnable]

@[simp] theorem execPackageAdminDisable_shape (value : Nat) (s : State) : SameShape s (execPackageAdminDisable value s) := by
  simp [execPackageAdminDisable]

@[simp] theorem State.adminField_shape (s : State) (off : Nat) (f : AdminRegs → AdminRegs) : (s.adminField off f).shape = s.shape := by
  simp [State.adminField]

@[simp] theorem State.setSnap_shape (s : State) (pf : Bool) (part : Nat) (x : Snap) : (s.setSnap pf part x).shape = s.shape := (rfl)

@[simp] theorem State.snapWrite_shape (s : State) (pf : Bool) (part v : Nat) : (s.snapWrite pf part v).shape = s.shape := by
  simp [State.snapWrite]

@[simp] theorem execSnapCapture_shape (pf : Bool) (part kind index : Nat) (s : State) : SameShape s (execSnapCapture pf part kind index s) := by
  simp [execSnapCapture]

@[simp] theorem execSnapCaptureClear_shape (pf : Bool) (part kind index : Nat) (s : State) :
    SameShape s (execSnapCaptureClear pf part kind index s) := by
  simp [execSnapCaptureClear]

@[simp] theorem State.snapClear_shape (s : State) (part kind index : Nat) : (s.snapClear part kind index).shape = s.shape := by
  simp only [State.snapClear]
  split <;> simp

@[simp] theorem execSnapCaptureDone_shape (pf : Bool) (part : Nat) (s : State) : SameShape s (execSnapCaptureDone pf part s) := by
  simp [execSnapCaptureDone]

@[simp] theorem stateAfter_shape (s : State) (o : Host.Outcome State Fault Refusal) (h : SameShape s o) : (stateAfter s o).shape = s.shape := by
  unfold stateAfter
  split
  · exact h _ rfl
  · rfl

@[simp] theorem State.lowHalf_shape (s : State) (off v : Nat) : (s.lowHalf off v).shape = s.shape := (rfl)

@[simp] theorem State.msixWrite_shape (s : State) (fn o v : Nat) : (s.msixWrite fn o v).shape = s.shape := by
  simp only [State.msixWrite]
  split <;> simp

@[simp] theorem State.windowWrite_shape (s : State) (pf : Bool) (part o v : Nat) : (s.windowWrite pf part o v).shape = s.shape := by
  simp [State.windowWrite]

@[simp] theorem State.packageWrite_shape (s : State) (off v : Nat) : (s.packageWrite off v).shape = s.shape := by
  simp only [State.packageWrite]
  split <;> simp

@[simp] theorem State.mailboxWrite_shape (s : State) (off v : Nat) : (s.mailboxWrite off v).shape = s.shape := by
  simp only [State.mailboxWrite]
  split <;> simp

@[simp] theorem State.linkWrite_shape (s : State) (off v : Nat) : (s.linkWrite off v).shape = s.shape := by
  unfold State.linkWrite
  repeat' split
  all_goals simp

@[simp] theorem State.write32_shape (s : State) (fn off v : Nat) : (s.write32 fn off v).shape = s.shape := by
  simp [State.write32]
  split <;> simp

@[simp] theorem execRegisterWrite_shape (fn off width value : Nat) (s : State) : SameShape s (execRegisterWrite fn off width value s) := by
  simp [execRegisterWrite]

@[simp] theorem execBar0BadAccess_shape (_fn off width : Nat) (_isWrite : Bool) (_value : Nat) (s : State) :
    SameShape s (execBar0BadAccess _fn off width _isWrite _value s) := by
  simp [execBar0BadAccess]

/-! ### Sched -/

@[simp] theorem execCommandStart_shape (cmd : Nat) (s : State) : SameShape s (execCommandStart cmd s) := by
  simp only [execCommandStart]
  split <;> simp

@[simp] theorem State.preempt_shape (s : State) (v : Nat × Cmd) : (s.preempt v).shape = s.shape := by
  simp only [State.preempt]
  split <;> simp

@[simp] theorem execPreemptDelayExpiry_shape (cmd : Nat) (t : Word) (s : State) : SameShape s (execPreemptDelayExpiry cmd t s) := by
  unfold execPreemptDelayExpiry
  dsimp only
  repeat' split
  all_goals simp

end Sys2Proof.Machine
end

section
/-! PROOF. Resets and power put units back whole, and so every step keeps the shape of the part (R12, R324). -/

namespace Sys2Proof.Machine

/-- The counts of a whole die: a hundred quires of twelve tiles, 96 logical ids, 96 stores (Table 0-1, R124, R322). -/
def DieState.octavo : List Nat × Nat × Nat := (List.replicate 100 12, 96, 96)

/-- The counts of the whole part. -/
def Shape.octavo : Shape where
  counters := 8
  dies := List.replicate 8 DieState.octavo
  links := 8
  hbm := 24
  frames := 8
  engines := 8
  powers := 8
  errs := 8
  pool := 8
  trees := 8

theorem DieState.shape_eq_octavo_iff (x : DieState) : x.shape = DieState.octavo ↔
    x.quires.length = 100 ∧ x.logical.length = 96 ∧ x.stores.length = 96 ∧ ∀ q ∈ x.quires, q.tiles.length = 12 := by
  simp only [DieState.shape, DieState.octavo, Prod.mk.injEq, List.eq_replicate_iff, List.length_map, List.forall_mem_map]
  tauto

theorem State.shapeOk_iff (s : State) : s.shapeOk ↔ s.shape = Shape.octavo := by
  simp only [State.shapeOk, State.shape, Shape.octavo, Shape.mk.injEq, List.eq_replicate_iff, List.length_map, List.forall_mem_map,
    DieState.shape_eq_octavo_iff]
  tauto

/-- Changing every entry of a list whose entries count alike, in a way that keeps the count. -/
theorem map_map_replicate {α β : Type} (g : α → β) (f : α → α) {l : List α} {n : Nat} {b : β} (hl : l.map g = List.replicate n b)
    (hf : ∀ x, g x = b → g (f x) = b) : (l.map f).map g = List.replicate n b := by
  simp only [List.eq_replicate_iff, List.length_map, List.forall_mem_map] at hl ⊢
  exact ⟨hl.1, fun x hx => hf x (hl.2 x hx)⟩

/-- The same, changing each entry by its place. -/
theorem map_zipIdx_map_replicate {α β : Type} (g : α → β) (f : α × Nat → α) {l : List α} {n : Nat} {b : β} (hl : l.map g = List.replicate n b)
    (hf : ∀ x, g x.1 = b → g (f x) = b) : (l.zipIdx.map f).map g = List.replicate n b := by
  simp only [List.eq_replicate_iff, List.length_map, List.length_zipIdx, List.forall_mem_map] at hl ⊢
  exact ⟨hl.1, fun x hx => hf x (hl.2 _ (List.fst_mem_of_mem_zipIdx hx))⟩

/-- A state that differs from a whole part in its dies, engines and power states alone is whole when these are. -/
theorem State.shape_octavo_of {s t : State} (h : s.shape = Shape.octavo) {dies : List (List Nat × Nat × Nat)} {engines powers : Nat}
    (ht : t.shape = { s.shape with dies := dies, engines := engines, powers := powers })
    (hd : dies = List.replicate 8 DieState.octavo) (he : engines = 8) (hp : powers = 8) : t.shape = Shape.octavo := by
  rw [ht, h, hd, he, hp]
  rfl

theorem State.shape_octavo_of_dies {s t : State} (h : s.shape = Shape.octavo) {dies : List (List Nat × Nat × Nat)}
    (ht : t.shape = { s.shape with dies := dies }) (hd : dies = List.replicate 8 DieState.octavo) : t.shape = Shape.octavo :=
  State.shape_octavo_of h ht hd (congrArg Shape.engines h) (congrArg Shape.powers h)

theorem State.dies_octavo {s : State} (h : s.shape = Shape.octavo) : s.dies.map DieState.shape = List.replicate 8 DieState.octavo :=
  congrArg Shape.dies h

/-- The self-test places 96 logical ids, whatever quires pass. -/
theorem place_length (passes : Nat → Bool) (l : List Nat) (m : List (Option Nat) × List Nat) :
    (l.foldl (fun m n => if passes n then (m.1 ++ [some n], m.2) else (m.1 ++ [m.2.head?], m.2.tail)) m).1.length = m.1.length + l.length := by
  induction l generalizing m with
  | nil => rfl
  | cons n l ih =>
    rw [List.foldl_cons, ih, List.length_cons]
    split
    · simp; omega
    · simp; omega

theorem DieState.selfTest_shape {x : DieState} (hx : x.shape = DieState.octavo) (passes : Nat → Bool) (ways : List (Nat × Nat)) :
    (x.selfTest passes ways).shape = DieState.octavo := by
  simp only [DieState.selfTest, DieState.shape_mk, place_length, List.length_nil, List.length_range]
  rw [map_zipIdx_map]
  · exact congrArg (fun y => (y.1, 96, y.2.2)) hx
  · exact fun _ => rfl

theorem State.selfRepair_shape {s : State} (h : s.shape = Shape.octavo) : s.selfRepair.shape = Shape.octavo := by
  unfold State.selfRepair
  extract_lets n s1 s2
  have h1 : s1.shape = Shape.octavo := by simp [s1, h]
  have h2 : s2.shape = Shape.octavo :=
    State.shape_octavo_of_dies h1 rfl
      (map_zipIdx_map_replicate _ _ (State.dies_octavo h1) fun x hx => DieState.selfTest_shape hx _ _)
  rw [foldl_shape, State.trainSpine_shape, h2]
  exact fun a d => by simp

theorem State.bootChain_shape {s : State} (h : s.shape = Shape.octavo) : s.bootChain.shape = Shape.octavo := by
  have h1 := State.selfRepair_shape h
  simp only [State.bootChain]
  split
  · exact h1
  · have hb {t : State} (ht : t.shape = { s.selfRepair.shape with powers := 8 }) : t.shape = Shape.octavo :=
      State.shape_octavo_of h1 ht (State.dies_octavo h1) (congrArg Shape.engines h1) rfl
    split
    · exact hb rfl
    · rw [State.report_shape]
      exact hb rfl

theorem State.powerUp_shape {s : State} (h : s.shape = Shape.octavo) : s.powerUp.shape = Shape.octavo := by
  simp only [State.powerUp]
  split
  · exact State.bootChain_shape h
  · exact h

theorem State.coldReset_shape (s : State) (cause : Nat) (boot : Boot) (pins : Pins) : (s.coldReset cause boot pins).shape = Shape.octavo := (rfl)

/-- Emptying stores and tiles of a die leaves it whole. -/
theorem DieState.emptied_shape {x y : DieState} (hx : x.shape = DieState.octavo)
    (hq : y.quires.map (·.tiles.length) = List.replicate 100 12) (hl : y.logical = x.logical) (hs : y.stores.length = 96) :
    y.shape = DieState.octavo := by
  rw [DieState.shape, hq, hl, hs]
  exact congrArg (fun y => (List.replicate 100 12, y.2.1, 96)) hx

theorem State.loseWarm_shape {s : State} (h : s.shape = Shape.octavo) : s.loseWarm.shape = Shape.octavo := by
  have ht : s.loseWarm.shape =
      { s.shape with dies := s.loseWarm.dies.map DieState.shape, engines := 8, powers := s.power.dies.length } := by
    unfold State.loseWarm
    rw [State.shape_mk, List.length_map, List.length_map, List.length_map, List.length_replicate]
    rfl
  refine State.shape_octavo_of h ht (map_map_replicate _ _ (State.dies_octavo h) fun x hx => ?_) rfl (congrArg Shape.powers h)
  exact DieState.emptied_shape hx (map_map_replicate _ _ (congrArg Prod.fst hx) fun _ _ => rfl) rfl rfl

theorem State.warmReset_shape {s : State} (h : s.shape = Shape.octavo) (link : Bool) : (s.warmReset link).shape = Shape.octavo := by
  unfold State.warmReset
  extract_lets s1 owed s2 pre cancelled s3 s4 s5 s6 s7
  have h1 : s1.shape = Shape.octavo := (foldl_shape _ _ _ fun a c => by simp).trans h
  have h2 : s2.shape = Shape.octavo := (foldl_shape _ _ _ fun a c => by simp).trans h1
  have h4 : s4.shape = Shape.octavo := by simp [s4, s3, h2]
  have h5 : s5.shape = Shape.octavo := (foldl_shape _ _ _ fun a p => by simp).trans h4
  exact State.loseWarm_shape (s := s6) h5

theorem State.warmWith_shape {s : State} (h : s.shape = Shape.octavo) (cause : Nat) (link : Bool) : (s.warmWith cause link).shape = Shape.octavo :=
  State.warmReset_shape h link

theorem State.enterPk_shape {s : State} (h : s.shape = Shape.octavo) (n : Nat) : (s.enterPk n).shape = Shape.octavo := by
  unfold State.enterPk
  split
  · simpa using h
  · exact h
  · refine State.shape_octavo_of_dies h ?_ (map_map_replicate _ DieState.gate (State.dies_octavo h) fun x hx => ?_)
    · rw [State.shape_mk, List.length_map]
      rfl
    · exact DieState.emptied_shape hx (map_map_replicate _ _ (congrArg Prod.fst hx) fun _ _ => rfl) rfl rfl
  · simpa using State.warmReset_shape h s.linkUp
  · simpa using h

theorem State.gateGroups_shape {s : State} (h : s.shape = Shape.octavo) (g : BitVec 96) : (s.gateGroups g).shape = Shape.octavo := by
  refine State.shape_octavo_of_dies h rfl (map_zipIdx_map_replicate _ _ (State.dies_octavo h) fun x hx => ?_)
  refine DieState.emptied_shape hx (map_zipIdx_map_replicate _ _ (congrArg Prod.fst hx) fun q hq => ?_) rfl ?_
  · split
    · rfl
    · exact hq
  · exact (by simp : _ = x.1.stores.length).trans (congrArg (fun y => y.2.2) hx)

/-- An entry of a list whose entries count alike, or a default that counts so too. -/
theorem getD_of_map_replicate {α β : Type} (g : α → β) {l : List α} {n : Nat} {d : α} {b : β} (hl : l.map g = List.replicate n b) (hd : g d = b)
    (i : Nat) : g (l.getD i d) = b := by
  rw [← List.getD_map (f := g), hl, List.getD_eq_getElem?_getD, List.getElem?_replicate]
  split
  · rfl
  · exact hd

theorem State.quireAt_tiles {s : State} (h : s.shape = Shape.octavo) (d p : Nat) : (s.quireAt d p).tiles.length = 12 :=
  have hd : (s.dieAt d).shape = DieState.octavo := getD_of_map_replicate _ (State.dies_octavo h) rfl d
  getD_of_map_replicate (fun q : Quire => q.tiles.length) (congrArg Prod.fst hd) rfl p

/-- An outcome that is a next state is a whole part. -/
def Whole (o : Host.Outcome State Fault Refusal) : Prop := ∀ t, o = .next t → t.shape = Shape.octavo

@[simp] theorem whole_next (t : State) : Whole (.next t) ↔ t.shape = Shape.octavo := by
  simp [Whole]
@[simp] theorem whole_ite (p : Prop) [Decidable p] (a b : Host.Outcome State Fault Refusal) :
    Whole (if p then a else b) ↔ if p then Whole a else Whole b := by
  split <;> rfl

theorem SameShape.whole {s : State} {o : Host.Outcome State Fault Refusal} (ho : SameShape s o) (h : s.shape = Shape.octavo) : Whole o :=
  fun t ht => (ho t ht).trans h

theorem control_shape_octavo {op : Nat} {sel : Cmd → Bool} {f : Cmd → State → State} {cmd : Nat} {s : State} (h : s.shape = Shape.octavo)
    (hf : ∀ c, (f c s).shape = Shape.octavo) : (control op sel f cmd s).shape = Shape.octavo := by
  rcases control_cases op sel f cmd s with e | ⟨stream, e⟩ | ⟨c, e⟩
  · rw [e, h]
  · rw [e, State.failCmd_shape, h]
  · rw [e, hf]

theorem execV1p8AuxRemoved_whole (s : State) : Whole (execV1p8AuxRemoved s) := by
  simp [execV1p8AuxRemoved, State.coldReset_shape]

section
variable {s : State} (h : s.shape = Shape.octavo)
include h

theorem execPfFlr_whole : Whole (execPfFlr s) := by
  unfold execPfFlr
  repeat' split
  all_goals simp [h, State.warmWith_shape]

theorem execPerstNAssert_whole : Whole (execPerstNAssert s) := by
  unfold execPerstNAssert
  dsimp only
  repeat' split
  all_goals simp [h, State.warmWith_shape]

theorem execPerstNRelease_whole : Whole (execPerstNRelease s) := by
  unfold execPerstNRelease
  dsimp only
  repeat' split
  all_goals simp [h, State.powerUp_shape, State.coldReset_shape]

theorem execV1p8AuxApplied_whole : Whole (execV1p8AuxApplied s) := by
  unfold execV1p8AuxApplied
  dsimp only
  repeat' split
  all_goals simp [h, State.powerUp_shape, State.coldReset_shape]

theorem execPkgRstNAssert_whole : Whole (execPkgRstNAssert s) := by
  unfold execPkgRstNAssert
  split
  all_goals simp [h, State.coldReset_shape]

theorem execPkgRstNRelease_whole : Whole (execPkgRstNRelease s) := by
  unfold execPkgRstNRelease
  dsimp only
  repeat' split
  all_goals simp [h, State.powerUp_shape]

theorem execPwrGoodAssert_whole : Whole (execPwrGoodAssert s) := by
  unfold execPwrGoodAssert
  dsimp only
  repeat' split
  all_goals simp [h, State.bootChain_shape]

theorem execPwrGoodLoss_whole : Whole (execPwrGoodLoss s) := by
  unfold execPwrGoodLoss
  split
  all_goals simp [h, State.coldReset_shape]

theorem execHimonWatchdogExpiry_whole (x : Word) : Whole (execHimonWatchdogExpiry x s) := by
  unfold execHimonWatchdogExpiry
  dsimp only
  repeat' split
  all_goals simp [h, State.powerUp_shape, State.coldReset_shape]

theorem execPowerSetPackageState_whole (cmd : Nat) : Whole (execPowerSetPackageState cmd s) := by
  simp only [execPowerSetPackageState, whole_next]
  refine control_shape_octavo h fun c => ?_
  repeat' split
  all_goals simp [h, State.enterPk_shape]

theorem execPowerSetGroupsOff_whole (cmd : Nat) : Whole (execPowerSetGroupsOff cmd s) := by
  simp only [execPowerSetGroupsOff, whole_next]
  refine control_shape_octavo h fun c => ?_
  repeat' split
  all_goals simp [h, State.gateGroups_shape]

theorem execPowerSetGroupsCycle_whole (cmd : Nat) : Whole (execPowerSetGroupsCycle cmd s) := by
  simp only [execPowerSetGroupsCycle, whole_next]
  refine control_shape_octavo h fun c => ?_
  repeat' split
  all_goals simp [h, State.gateGroups_shape]

theorem execUnitReturn_whole (cmd : Nat) : Whole (execUnitReturn cmd s) := by
  simp only [execUnitReturn, whole_next]
  refine control_shape_octavo h fun c => ?_
  repeat' split
  all_goals simp [h, State.setQuire_shape, State.quireAt_tiles]

end

/-! ### Every step -/

theorem exec_whole (c : Instr) {s : State} (h : s.shape = Shape.octavo) : Whole (exec c s) := by
  cases c
  case pfFlr => exact execPfFlr_whole h
  case perstNAssert => exact execPerstNAssert_whole h
  case perstNRelease => exact execPerstNRelease_whole h
  case v1p8AuxApplied => exact execV1p8AuxApplied_whole h
  case v1p8AuxRemoved => exact execV1p8AuxRemoved_whole s
  case pkgRstNAssert => exact execPkgRstNAssert_whole h
  case pkgRstNRelease => exact execPkgRstNRelease_whole h
  case pwrGoodAssert => exact execPwrGoodAssert_whole h
  case pwrGoodLoss => exact execPwrGoodLoss_whole h
  case himonWatchdogExpiry t => exact execHimonWatchdogExpiry_whole h t
  case powerSetPackageState cmd => exact execPowerSetPackageState_whole h cmd
  case powerSetGroupsOff cmd => exact execPowerSetGroupsOff_whole h cmd
  case powerSetGroupsCycle cmd => exact execPowerSetGroupsCycle_whole h cmd
  case unitReturn cmd => exact execUnitReturn_whole h cmd
  all_goals exact SameShape.whole (by simp [exec]) h

theorem step_whole {s : State} (h : s.shape = Shape.octavo) : Whole (step s) := by
  unfold step
  split
  · simpa using h
  · next c rest _ => exact exec_whole c (s := { s with pending := rest }) h

/-- Settles O6: resets and power put units back whole, and everything else leaves every count as it was. -/
theorem stepKeepsShape : Obligations.StepKeepsShape := by
  intro s t hs ht
  rw [State.shapeOk_iff] at hs ⊢
  exact step_whole hs t ht

end Sys2Proof.Machine
end

section
/-! PROOF. The state after reset, and the tick that passes with nothing queued (R26, R525). -/

namespace Sys2Proof.Machine

theorem State.reset_shape : State.reset.shape = Shape.octavo := (rfl)

/-- The counter of each die, and the 0 that an absent one reads as, is 0 after reset. -/
theorem State.reset_counter (d : Nat) : State.reset.counter d = 0 :=
  getD_of_map_replicate id (l := State.reset.counters) (n := 8) rfl rfl d

/-- Settles O3: reset builds its state from the fields' first values. -/
theorem resetLeaves : Obligations.ResetLeaves :=
  ⟨State.reset_counter, rfl, rfl, rfl, rfl, rfl, rfl, rfl, rfl, rfl, rfl, rfl, rfl, fun _ => ⟨rfl, rfl⟩, rfl⟩

/-- Settles O4: every list after reset has the count of Table 0-1, and no byte of memory is listed. -/
theorem resetMeetsInvariants : Obligations.ResetMeetsInvariants :=
  ⟨State.reset_memOk, (State.shapeOk_iff _).2 State.reset_shape⟩

/-! ### A tick with nothing queued -/

/-- What the round of frames of a link leaves as it is: the queue, the counters, host memory, the objects, the rings and the error records. -/
def State.besideLinks (s : State) := (s.pending, s.counters, s.host, s.objects, s.subs, s.comps, s.errs)

theorem State.linkRound_besideLinks (s : State) (l : Nat) : (s.linkRound l).besideLinks = s.besideLinks := by
  simp only [State.linkRound]
  repeat' split
  all_goals rfl

theorem linkRounds_besideLinks (ls : List Nat) (s : State) : (ls.foldl State.linkRound s).besideLinks = s.besideLinks := by
  induction ls generalizing s with
  | nil => rfl
  | cons l ls ih => exact (ih _).trans (s.linkRound_besideLinks l)

theorem State.idle_besideLinks {s : State} (ha : s.pins.aux = true) (hr : s.pins.pkgRst = false) : s.idle.besideLinks = s.tick.besideLinks := by
  simp only [State.idle, ha, hr, Bool.not_true, Bool.or_self, Bool.false_eq_true, if_false]
  split
  · exact linkRounds_besideLinks _ _
  · rfl

/-- Settles O2: the tick counts on every die, and the links' rounds of frames touch none of the rest. -/
theorem emptyQueueTicks : Obligations.EmptyQueueTicks := by
  intro s hp ha hr
  have hs : step s = .next s.idle := by simp [step, hp]
  have h := State.idle_besideLinks ha hr
  simp only [State.besideLinks, Prod.mk.injEq] at h
  obtain ⟨hpend, hcount, hhost, hobj, hsubs, hcomps, herrs⟩ := h
  exact ⟨s.idle, hs, hpend.trans hp, hcount, hhost, hobj, hsubs, hcomps, herrs⟩

end Sys2Proof.Machine
end

section
/-! PROOF. Objects, plans and tables: what the end of a command leaves of them, and what each command does to its own (R15, R18, R57, R211, R350, R358, R359). -/

namespace Sys2Proof

theorem NMap.get?_eq_none_iff {α : Type} (m : NMap α) (k : Nat) : NMap.get? m k = none ↔ ∀ x ∈ m, x.1 ≠ k := by
  simp [NMap.get?, List.find?_eq_none]

theorem NMap.mem_of_mem_set {α : Type} {m : NMap α} {k : Nat} {v : α} {x : Nat × α} (h : x ∈ NMap.set m k v) : x = (k, v) ∨ x ∈ m := by
  induction m with
  | nil => simpa [NMap.set] using h
  | cons p m ih =>
    simp only [NMap.set] at h
    split at h
    · simpa using h
    · split at h
      · rcases List.mem_cons.1 h with e | e
        · exact .inl e
        · exact .inr (List.mem_cons_of_mem _ e)
      · rcases List.mem_cons.1 h with e | e
        · exact .inr (e ▸ List.mem_cons_self)
        · exact (ih e).imp_right (List.mem_cons_of_mem _)

end Sys2Proof

namespace Sys2Proof.Machine

/-! ### The end of a command, by the objects, plans and tables it leaves and the list of admitted commands -/

/-- The objects, plans and tables of the part. -/
def State.stock (s : State) := (s.objects, s.plans, s.tables)

theorem State.fireCq_stock (s : State) (owner cq : Nat) : (s.fireCq owner cq).stock = s.stock := by
  simp only [State.fireCq, State.sendMsix]
  repeat' split
  all_goals rfl

theorem State.pushRecord_stock (s : State) (owner cq : Nat) (notify : Bool) (rec : Bool → Bytes) (reserved : Bool) :
    (s.pushRecord owner cq notify rec reserved).stock = s.stock := by
  unfold State.pushRecord
  split
  · rfl
  · exact State.fireCq_stock _ _ _

theorem State.recordFence_stock (s : State) (owner : Nat) (desc : Bytes) (status : Nat) : (s.recordFence owner desc status).stock = s.stock := by
  simp only [State.recordFence]
  repeat' split
  all_goals rfl

theorem State.writeEnd_stock (s : State) (id : Nat) (c : Cmd) (status detail : Nat) : (s.writeEnd id c status detail).stock = s.stock := by
  unfold State.writeEnd
  extract_lets now run s1 s2 s3 s4
  have h2 : s2.stock = s.stock := by
    simp only [s2]
    split
    · rfl
    · exact State.recordFence_stock s1 _ _ _
  exact (State.pushRecord_stock ..).trans h2

theorem State.finish_stock (s : State) (id status detail : Nat) : (s.finish id status detail).stock = s.stock := by
  unfold State.finish
  split
  · rfl
  · exact State.writeEnd_stock ..

theorem State.finish_plans (s : State) (id status detail : Nat) : (s.finish id status detail).plans = s.plans :=
  congrArg (·.2.1) (s.finish_stock id status detail)

theorem State.startCmd_stock (s : State) (id : Nat) : (s.startCmd id).stock = s.stock := by
  simp only [State.startCmd]
  repeat' split
  all_goals rfl

theorem State.fireCq_cmds (s : State) (owner cq : Nat) : (s.fireCq owner cq).cmds = s.cmds := by
  simp only [State.fireCq, State.sendMsix]
  repeat' split
  all_goals rfl

theorem State.pushRecord_cmds (s : State) (owner cq : Nat) (notify : Bool) (rec : Bool → Bytes) (reserved : Bool) :
    (s.pushRecord owner cq notify rec reserved).cmds = s.cmds := by
  unfold State.pushRecord
  split
  · rfl
  · exact State.fireCq_cmds _ _ _

/-- Judging the WAITs on a fence admits no command. -/
theorem get?_judgeWaits_eq_none {m : NMap Cmd} {id : Nat} (h : NMap.get? m id = none) (part f : Nat) (x : Fence) :
    NMap.get? (judgeWaits m part f x) id = none := by
  rw [NMap.get?_eq_none_iff] at h ⊢
  simp only [judgeWaits, List.forall_mem_map]
  intro c hc
  repeat' split
  all_goals exact h c hc

theorem State.setFence_cmd?_eq_none {s : State} {id : Nat} (h : s.cmd? id = none) (part f : Nat) (x : Fence) :
    (s.setFence part f x).cmd? id = none :=
  get?_judgeWaits_eq_none h part f x

theorem State.recordFence_cmd?_eq_none {s : State} {id : Nat} (h : s.cmd? id = none) (owner : Nat) (desc : Bytes) (status : Nat) :
    (s.recordFence owner desc status).cmd? id = none := by
  simp only [State.recordFence]
  repeat' split
  · exact h
  · exact State.setFence_cmd?_eq_none h ..
  · exact State.setFence_cmd?_eq_none h ..

theorem State.cmd?_writeEnd (s : State) (id : Nat) (c : Cmd) (status detail : Nat) : (s.writeEnd id c status detail).cmd? id = none := by
  unfold State.writeEnd
  extract_lets now run s1 s2 s3 s4
  have h1 : s1.cmd? id = none := NMap.get?_erase_same ..
  have h2 : s2.cmd? id = none := by
    simp only [s2]
    split
    · exact h1
    · exact State.recordFence_cmd?_eq_none h1 _ _ _
  exact (congrArg (NMap.get? · id) (State.pushRecord_cmds s4 _ _ _ _ _)).trans h2

theorem State.cmd?_finish (s : State) (id status detail : Nat) : (s.finish id status detail).cmd? id = none := by
  unfold State.finish
  split
  · assumption
  · exact State.cmd?_writeEnd ..

/-- A command that completes leaves the list of admitted commands, and the objects, plans and tables as its effect left them. -/
theorem State.settle_ok (s u : State) (id status detail : Nat) :
    (s.settle id (.ok (u, status, detail))).cmd? id = none ∧ (s.settle id (.ok (u, status, detail))).stock = u.stock :=
  ⟨State.cmd?_finish .., (State.finish_stock ..).trans (State.startCmd_stock ..)⟩

/-- A control command that may run runs its effect. -/
theorem control_live {s : State} {id op : Nat} {c : Cmd} (h : Live s id op c) {sel : Cmd → Bool} (hsel : sel c = true)
    (f : Cmd → State → State) : control op sel f id s = f c s := by
  obtain ⟨hserve, hcmd, hop, hunc, hide⟩ := h
  simp [control, hserve, hcmd, hop, hunc, hide, hsel]

/-! ### Objects -/

theorem State.settle_ok_objects (s u : State) (id status detail : Nat) : (s.settle id (.ok (u, status, detail))).objects = u.objects :=
  congrArg Prod.fst (s.settle_ok u id status detail).2

theorem execObjectRegister_live {s : State} {id : Nat} {c : Cmd} {p : Part} (h : Live s id 0x47 c) (hp : NMap.get? s.parts c.owner = some p)
    (hm : c.f 48 4 ≠ 0 → (s.resolve c.owner (c.f 48 4)).isSome = true) (hu : s.handleUsed c.owner (c.f 16 4) = false)
    (hf : s.fits c.owner (registerObj p c.desc) = true) :
    ∃ poison, execObjectRegister id s = .next (s.settle id (.ok (s.setObj (objKey c.owner (c.f 16 4))
      { s.mapped c.owner (registerObj p c.desc) with poison := poison }, OK, 0))) := by
  have hmask : ¬ ((registerObj p c.desc).gradMask ≠ 0 ∧ (s.resolve c.owner (registerObj p c.desc).gradMask).isNone = true) := by
    rintro ⟨h0, hn⟩
    have hs := hm h0
    rw [Option.isSome_iff_ne_none] at hs
    exact hs (Option.isNone_iff_eq_none.1 hn)
  rw [execObjectRegister, control_live h rfl]
  simp only [hp, hmask, hu, hf, if_false, Bool.false_eq_true, Bool.not_true]
  exact ⟨_, rfl⟩

/-- OBJECT_REGISTER creates the object of its descriptor with every ingot unwritten, and no other (R350). -/
theorem objectRegister_creates {s : State} {id : Nat} {c : Cmd} {p : Part} (h : Live s id 0x47 c) (hp : NMap.get? s.parts c.owner = some p)
    (hm : c.f 48 4 ≠ 0 → (s.resolve c.owner (c.f 48 4)).isSome = true) (hu : s.handleUsed c.owner (c.f 16 4) = false)
    (hf : s.fits c.owner (registerObj p c.desc) = true) :
    ∃ t o, exec (.objectRegister id) s = .next t ∧ t.cmd? id = none ∧ NMap.get? t.objects (objKey c.owner (c.f 16 4)) = some o
      ∧ o.kind = c.f 20 1 ∧ o.fmt = c.f 21 1 ∧ o.rows = c.f 28 4 ∧ o.cols = c.f 32 4 ∧ o.bytes = c.f 40 8 ∧ o.tier = c.f 23 1 ∧ o.dies = p.dieList
      ∧ o.mem0 = [] ∧ o.mem1 = [] ∧ o.vmap = [] ∧ o.commits = 0
      ∧ ∀ k, k ≠ objKey c.owner (c.f 16 4) → NMap.get? t.objects k = NMap.get? s.objects k := by
  obtain ⟨poison, he⟩ := execObjectRegister_live h hp hm hu hf
  refine ⟨_, { s.mapped c.owner (registerObj p c.desc) with poison := poison }, he, (State.settle_ok ..).1, ?_,
    rfl, rfl, rfl, rfl, rfl, rfl, rfl, rfl, rfl, rfl, rfl, fun k hk => ?_⟩
  · rw [State.settle_ok_objects]
    exact NMap.get?_set_same ..
  · rw [State.settle_ok_objects]
    exact NMap.get?_set_ne _ _ hk

theorem execObjectRelease_live {s : State} {id : Nat} {c : Cmd} {o : Obj} (h : Live s id 0x48 c)
    (ho : s.obj? c.owner (c.f 16 4) = some (objKey c.owner (c.f 16 4), o)) (hmodel : o.model = false)
    (hname : ∀ x ∈ s.cmds, x.1 ≠ id → objKey c.owner (c.f 16 4) ∉ s.named x.2)
    (hmask : ∀ x ∈ s.objects, x.1 / 2 ^ 32 = c.owner → x.2.gradMask ≠ c.f 16 4) :
    ∃ u : State, execObjectRelease id s = .next (s.settle id (.ok (u, OK, 0)))
      ∧ u.objects = NMap.erase s.objects (objKey c.owner (c.f 16 4)) := by
  have hn : s.cmds.any (fun x => x.1 != id && (s.named x.2).contains (objKey c.owner (c.f 16 4))) = false := by
    simpa using hname
  have hg : s.objects.any (fun x => x.1 / 2 ^ 32 == c.owner && x.2.gradMask == c.f 16 4) = false := by
    simpa using hmask
  rw [execObjectRelease, control_live h rfl]
  simp only [ho, hn, hmodel, hg, if_false, Bool.false_eq_true, ne_eq, not_true_eq_false, decide_false, Bool.or_self]
  exact ⟨_, rfl, rfl⟩

/-- OBJECT_RELEASE removes the object it names and no other (R359). -/
theorem objectRelease_removes {s : State} {id : Nat} {c : Cmd} {o : Obj} (h : Live s id 0x48 c)
    (ho : s.obj? c.owner (c.f 16 4) = some (objKey c.owner (c.f 16 4), o)) (hmodel : o.model = false)
    (hname : ∀ x ∈ s.cmds, x.1 ≠ id → objKey c.owner (c.f 16 4) ∉ s.named x.2)
    (hmask : ∀ x ∈ s.objects, x.1 / 2 ^ 32 = c.owner → x.2.gradMask ≠ c.f 16 4) :
    ∃ t, exec (.objectRelease id) s = .next t ∧ t.cmd? id = none ∧ NMap.get? t.objects (objKey c.owner (c.f 16 4)) = none
      ∧ ∀ k, k ≠ objKey c.owner (c.f 16 4) → NMap.get? t.objects k = NMap.get? s.objects k := by
  obtain ⟨u, he, hu⟩ := execObjectRelease_live h ho hmodel hname hmask
  refine ⟨_, he, (State.settle_ok ..).1, ?_, fun k hk => ?_⟩
  · rw [State.settle_ok_objects, hu]
    exact NMap.get?_erase_same ..
  · rw [State.settle_ok_objects, hu]
    exact NMap.get?_erase_ne _ hk

/-! ### Write-back of a dirty ingot -/

/-- What serving requests at a metered resource leaves as it is: host memory, the objects, the IDE streams and which function a partition has. -/
def State.besideMeters (s : State) := (s.host, s.objects, s.sec, s.functionOf)

theorem State.functionOf_modify (s : State) (part : Nat) (f : Part → Part) (hf : ∀ p, (f p).function = p.function) :
    State.functionOf { s with parts := NMap.modify s.parts part f } = s.functionOf := by
  funext owner
  by_cases h : owner = part
  · subst h
    cases hp : NMap.get? s.parts owner with
    | none => simp [State.functionOf, NMap.get?_modify, hp]
    | some p => simp [State.functionOf, NMap.get?_modify, hp, hf]
  · simp [State.functionOf, NMap.get?_modify, h]

theorem State.meter_besideMeters (s : State) (part res inst n : Nat) : (s.meter part res inst n).besideMeters = s.besideMeters := by
  have h := s.functionOf_modify part
    (fun p => if (p.rate res inst).1 = 0 then p else { p with buckets := NMap.set p.buckets (res * 8 + inst) (p.bucket res inst - n) })
    fun p => by split <;> rfl
  exact congrArg (fun f => (s.host, s.objects, s.sec, f)) h

theorem meters_besideMeters (part res inst : Nat) (ns : List Nat) (s : State) :
    (ns.foldl (fun (a : State) n => a.meter part res inst n) s).besideMeters = s.besideMeters := by
  induction ns generalizing s with
  | nil => rfl
  | cons n ns ih => exact (ih _).trans (s.meter_besideMeters part res inst n)

theorem State.visit_besideMeters (s : State) (q part : Nat) (x : ResQueue) : (s.visit q part x).besideMeters = s.besideMeters :=
  meters_besideMeters ..

theorem State.serveQueue_besideMeters (fuel q : Nat) (s : State) : (State.serveQueue fuel q s).besideMeters = s.besideMeters := by
  induction fuel generalizing s with
  | zero => rfl
  | succ fuel ih =>
    unfold State.serveQueue
    repeat' split
    · rfl
    · exact (ih _).trans (State.visit_besideMeters ..)
    · rfl

theorem State.request_besideMeters (s : State) (q part n : Nat) : (s.request q part n).besideMeters = s.besideMeters := by
  simp only [State.request, State.drain]
  repeat' split
  · rfl
  · exact State.serveQueue_besideMeters ..
  · rfl

theorem State.bulkWrite_host {s : State} {part : Nat} (h : s.dmaStop (s.functionOf part) = none) (a : Nat) (bs : Bytes) :
    (s.bulkWrite part a bs).host = Mem.writeRange s.host a bs :=
  (congrArg Prod.fst (State.request_besideMeters ..)).trans (State.hostWrite_host_open _ _ _ _ h)

theorem State.bulkWrite_objects (s : State) (part a : Nat) (bs : Bytes) : (s.bulkWrite part a bs).objects = s.objects :=
  congrArg (·.2.1) (State.request_besideMeters ..)

/-- Whether an IDE stream stops a partition's DMA is not changed by a request at a resource. -/
theorem State.dmaStop_request (s : State) (q p n part : Nat) :
    (s.request q p n).dmaStop ((s.request q p n).functionOf part) = s.dmaStop (s.functionOf part) := by
  have h := s.request_besideMeters q p n
  simp only [State.besideMeters, Prod.mk.injEq] at h
  obtain ⟨-, -, hsec, hfn⟩ := h
  simp only [State.dmaStop, hsec, hfn]

theorem State.writeBack_dirty {s : State} {part handle ingot : Nat} {o : Obj} (ho : NMap.get? s.objects (objKey part handle) = some o)
    (hd : ingot ∈ o.dirty) (hh : handle < 2 ^ 32) (hs : s.dmaStop (s.functionOf part) = none) :
    (s.writeBack (objKey part handle) ingot).host = Mem.writeRange s.host (o.hostSlot (slotIn o.vmap ingot) ingot) (o.readSlot (slotIn o.vmap ingot) ingot)
      ∧ NMap.get? (s.writeBack (objKey part handle) ingot).objects (objKey part handle) = some { o with dirty := o.dirty.filter (· != ingot) } := by
  have hpart : objKey part handle / 2 ^ 32 = part := by
    unfold objKey
    omega
  have hc : o.dirty.contains ingot = true := by simpa using hd
  simp only [State.writeBack, ho, hc, if_true, hpart]
  constructor
  · rw [State.setObj_host, State.bulkWrite_host ((State.dmaStop_request ..).trans hs)]
    exact congrArg (fun v => Mem.writeRange v.1 _ _) (State.request_besideMeters ..)
  · exact NMap.get?_set_same ..

theorem State.evict_same {s : State} {key n : Nat} {o : Obj} (ho : NMap.get? s.objects key = some o) :
    s.evict (key, slotIn o.vmap n, n) =
      { s.writeBack key n with t2cache := (s.writeBack key n).t2cache.filter (· != (key, slotIn o.vmap n, n)) } := by
  simp [State.evict, ho]

/-- A write-back puts the ingot at its slot of host memory and clears its mark and no other (R358). -/
theorem t3WriteBack_clears {s : State} {part handle ingot : Nat} {o : Obj} (ho : NMap.get? s.objects (objKey part handle) = some o)
    (hl : s.linkUp = true) (htier : o.tier = 3) (hd : ingot ∈ o.dirty) (hh : handle < 2 ^ 32) (hs : s.dmaStop (s.functionOf part) = none)
    (hwhy : s.spaceNeeds (objKey part handle) ingot = true ∨ 1000 ≤ (s.counter 0 - s.lastDma).toNat) :
    ∃ t o1, exec (.t3WriteBack part handle ingot) s = .next t
      ∧ t.host = Mem.writeRange s.host (o.hostSlot (slotIn o.vmap ingot) ingot) (o.readSlot (slotIn o.vmap ingot) ingot)
      ∧ NMap.get? t.objects (objKey part handle) = some o1 ∧ o1 = { o with dirty := o1.dirty } ∧ ingot ∉ o1.dirty
      ∧ ∀ n, n ≠ ingot → (n ∈ o1.dirty ↔ n ∈ o.dirty) := by
  obtain ⟨hhost, hobj⟩ := State.writeBack_dirty ho hd hh hs
  have hc : o.dirty.contains ingot = true := by simpa using hd
  have hmark : ingot ∉ o.dirty.filter (· != ingot) ∧ ∀ n, n ≠ ingot → (n ∈ o.dirty.filter (· != ingot) ↔ n ∈ o.dirty) :=
    ⟨by simp, fun n hn => by simp [hn]⟩
  by_cases hsp : s.spaceNeeds (objKey part handle) ingot = true
  · refine ⟨s.evict (objKey part handle, slotIn o.vmap ingot, ingot), { o with dirty := o.dirty.filter (· != ingot) }, ?_, ?_, ?_, rfl, hmark⟩
    · simp [exec, execT3WriteBack, ho, hl, htier, hd, hsp]
    · rw [State.evict_same ho]
      exact hhost
    · rw [State.evict_same ho]
      exact hobj
  · have hidle := hwhy.resolve_left hsp
    refine ⟨s.writeBack (objKey part handle) ingot, { o with dirty := o.dirty.filter (· != ingot) }, ?_, hhost, hobj, rfl, hmark⟩
    simp [exec, execT3WriteBack, ho, hl, htier, hd, hsp, hidle, -BitVec.toNat_sub]

/-! ### Plans -/

theorem State.settle_ok_plans (s u : State) (id status detail : Nat) : (s.settle id (.ok (u, status, detail))).plans = u.plans :=
  congrArg (·.2.1) (s.settle_ok u id status detail).2

/-- The plan that PLAN_INSTALL stores of an image. -/
def Plan.ofImage (img : Bytes) (stamp : Word) : Plan :=
  { kind := planKind img, image := img, groupM := (planGroup img).1, groupN := (planGroup img).2, stamp := stamp }

theorem execPlanInstall_live {s : State} {id : Nat} {c : Cmd} (h : Live s id 0x44 c)
    (hfault : planFault s c.owner (dPlan c.desc) (s.hostRead (c.f 16 8) (c.f 24 4)) = none)
    (hfits : s.planFits c.owner (s.hostRead (c.f 16 8) (c.f 24 4)).length = true) :
    ∃ (a u : State) (status detail : Nat), execPlanInstall id s = .next (a.settle id (.ok (u, status, detail)))
      ∧ u.plans = NMap.set s.plans (planKey c.owner (dPlan c.desc)) (Plan.ofImage (s.hostRead (c.f 16 8) (c.f 24 4)) (s.counter c.home)) := by
  rw [execPlanInstall, control_live h rfl]
  let a := s.asDma (s.functionOf c.owner) false (c.f 16 8) (c.f 24 4)
  have hfault' : planFault a c.owner (dPlan c.desc) (a.hostRead (c.f 16 8) (c.f 24 4)) = none := hfault
  have hfits' : a.planFits c.owner (a.hostRead (c.f 16 8) (c.f 24 4)).length = true := hfits
  simp only [a] at hfault' hfits'
  simp only [hfault', hfits', Bool.not_true, Bool.false_eq_true, if_false]
  split
  · exact ⟨_, _, _, _, rfl, rfl⟩
  · exact ⟨_, _, _, _, rfl, rfl⟩

/-- PLAN_INSTALL stores the image with its output-tile group (R15, R57). -/
theorem planInstall_stores {s : State} {id : Nat} {c : Cmd} (h : Live s id 0x44 c)
    (hfault : planFault s c.owner (dPlan c.desc) (s.hostRead (c.f 16 8) (c.f 24 4)) = none)
    (hfits : s.planFits c.owner (s.hostRead (c.f 16 8) (c.f 24 4)).length = true) :
    ∃ t p, exec (.planInstall id) s = .next t ∧ t.cmd? id = none ∧ NMap.get? t.plans (planKey c.owner (dPlan c.desc)) = some p
      ∧ p.image = s.hostRead (c.f 16 8) (c.f 24 4) ∧ p.kind = planKind p.image ∧ (p.groupM, p.groupN) = planGroup p.image ∧ p.retiring = false := by
  obtain ⟨a, u, status, detail, he, hu⟩ := execPlanInstall_live h hfault hfits
  refine ⟨_, Plan.ofImage (s.hostRead (c.f 16 8) (c.f 24 4)) (s.counter c.home), he, (State.settle_ok ..).1, ?_, rfl, rfl, rfl, rfl⟩
  rw [State.settle_ok_plans, hu]
  exact NMap.get?_set_same ..

/-- With no command of the owner that runs a plan, none does after the retire is marked. -/
theorem ownerCmds_setCmd_idle {s u : State} (hu : u.cmds = s.cmds) {owner id : Nat} {d : Cmd} (hd : runsPlan d.opcode = false)
    (hidle : ∀ x ∈ s.ownerCmds owner, runsPlan x.2.opcode = false) (plan : Nat) :
    ((u.setCmd id d).ownerCmds owner).any (fun x => runsPlan x.2.opcode && decide (dPlan x.2.desc = plan)) = false := by
  rw [List.any_eq_false]
  intro x hx
  obtain ⟨hmem, hown⟩ := List.mem_filter.1 hx
  have hrun : runsPlan x.2.opcode = false := by
    rcases NMap.mem_of_mem_set hmem with e | e
    · rw [e]
      exact hd
    · exact hidle x (List.mem_filter.2 ⟨hu ▸ e, hown⟩)
  simp [hrun]

theorem execPlanRetire_live {s : State} {id : Nat} {c : Cmd} {p : Plan} (h : Live s id 0x45 c) (hp : s.plan? c.owner (dPlan c.desc) = some p)
    (hr : p.retiring = false) (hidle : ∀ x ∈ s.ownerCmds c.owner, runsPlan x.2.opcode = false) :
    ∃ u : State, execPlanRetire id s = .next (u.finish id OK 0) ∧ NMap.get? u.plans (planKey c.owner (dPlan c.desc)) = none := by
  have hop : runsPlan (Cmd.opcode { c with phase := .executed }) = false := by
    obtain ⟨-, -, hc, -, -⟩ := h
    exact (congrArg runsPlan hc).trans rfl
  rw [execPlanRetire, control_live h rfl]
  have hquiet := ownerCmds_setCmd_idle (id := id)
    (u := { s with plans := NMap.set s.plans (planKey c.owner (dPlan c.desc)) { p with retiring := true } }) rfl hop hidle (dPlan c.desc)
  simp only [hp, hr, hquiet, Bool.false_eq_true, false_and, if_false]
  exact ⟨_, rfl, NMap.get?_erase_same ..⟩

/-- PLAN_RETIRE of a plan no admitted command runs removes it (R18). -/
theorem planRetire_removes {s : State} {id : Nat} {c : Cmd} {p : Plan} (h : Live s id 0x45 c) (hp : s.plan? c.owner (dPlan c.desc) = some p)
    (hr : p.retiring = false) (hidle : ∀ x ∈ s.ownerCmds c.owner, runsPlan x.2.opcode = false) :
    ∃ t, exec (.planRetire id) s = .next t ∧ t.cmd? id = none ∧ NMap.get? t.plans (planKey c.owner (dPlan c.desc)) = none := by
  obtain ⟨u, he, hu⟩ := execPlanRetire_live h hp hr hidle
  refine ⟨_, he, State.cmd?_finish .., ?_⟩
  rw [State.finish_plans, hu]

/-! ### Tables -/

theorem State.settle_ok_tables (s u : State) (id status detail : Nat) : (s.settle id (.ok (u, status, detail))).tables = u.tables :=
  congrArg (·.2.2) (s.settle_ok u id status detail).2

/-- A slot with an image put into one of its banks, and that bank in force (R211). -/
def TableSlot.load (x : TableSlot) (b : Bool) (img : Bytes) : TableSlot :=
  if b then { x with bank1 := some img, active := some b } else { x with bank0 := some img, active := some b }

theorem execTableLoad_live {s : State} {id : Nat} {c : Cmd} {p : Part} (h : Live s id 0x46 c) (hsel : c.f 17 1 = 0)
    (hp : NMap.get? s.parts c.owner = some p) (hfault : tableFault (s.hostRead (c.f 24 8) (c.f 20 4)) (c.f 20 4) = none)
    (hwait : s.tableWaits id c.owner (c.f 16 1) = false)
    (hfits : ∀ d ∈ p.dieList, s.t2Use c.owner d + (s.hostRead (c.f 24 8) (c.f 20 4)).length ≤ s.setting c.owner 0x0002 d) :
    ∃ (a u : State), execTableLoad id s = .next (a.settle id (.ok (u, OK, 0)))
      ∧ u.tables = NMap.set s.tables (tableKey c.owner (c.f 16 1))
        ((s.table c.owner (c.f 16 1)).load (s.inactiveBank c.owner (c.f 16 1)) (s.hostRead (c.f 24 8) (c.f 20 4))) := by
  have hp' : NMap.get? (s.asDma (s.functionOf c.owner) false (c.f 24 8) (c.f 20 4)).parts c.owner = some p := hp
  have hall : p.dieList.all (fun d => decide ((s.asDma (s.functionOf c.owner) false (c.f 24 8) (c.f 20 4)).t2Use c.owner d
      + (s.hostRead (c.f 24 8) (c.f 20 4)).length ≤ (s.asDma (s.functionOf c.owner) false (c.f 24 8) (c.f 20 4)).setting c.owner 0x0002 d)) = true :=
    List.all_eq_true.2 fun d hd => decide_eq_true (hfits d hd)
  rw [execTableLoad, control_live h (decide_eq_true hsel)]
  simp only [hfault, hwait, hp', hall, Bool.not_true, Bool.false_eq_true, if_false]
  exact ⟨_, _, rfl, rfl⟩

theorem State.table_of_tables {t : State} {m : NMap TableSlot} {part slot : Nat} {x : TableSlot}
    (h : t.tables = NMap.set m (tableKey part slot) x) : t.table part slot = x := by
  rw [State.table, h, NMap.getD_set_same]

/-- TABLE_LOAD puts a checked image into the bank that is not in force and makes that bank active (R211). -/
theorem tableLoad_fills {s : State} {id : Nat} {c : Cmd} {p : Part} (h : Live s id 0x46 c) (hsel : c.f 17 1 = 0)
    (hp : NMap.get? s.parts c.owner = some p) (hfault : tableFault (s.hostRead (c.f 24 8) (c.f 20 4)) (c.f 20 4) = none)
    (hwait : s.tableWaits id c.owner (c.f 16 1) = false)
    (hfits : ∀ d ∈ p.dieList, s.t2Use c.owner d + (s.hostRead (c.f 24 8) (c.f 20 4)).length ≤ s.setting c.owner 0x0002 d) :
    ∃ t, exec (.tableLoad id) s = .next t ∧ t.cmd? id = none ∧ (t.table c.owner (c.f 16 1)).active = some (s.inactiveBank c.owner (c.f 16 1))
      ∧ (if s.inactiveBank c.owner (c.f 16 1) then (t.table c.owner (c.f 16 1)).bank1 = some (s.hostRead (c.f 24 8) (c.f 20 4))
          ∧ (t.table c.owner (c.f 16 1)).bank0 = (s.table c.owner (c.f 16 1)).bank0
        else (t.table c.owner (c.f 16 1)).bank0 = some (s.hostRead (c.f 24 8) (c.f 20 4))
          ∧ (t.table c.owner (c.f 16 1)).bank1 = (s.table c.owner (c.f 16 1)).bank1) := by
  obtain ⟨a, u, he, hu⟩ := execTableLoad_live h hsel hp hfault hwait hfits
  refine ⟨_, he, (State.settle_ok ..).1, ?_⟩
  rw [State.table_of_tables ((State.settle_ok_tables ..).trans hu)]
  cases s.inactiveBank c.owner (c.f 16 1) <;> simp [TableSlot.load]

/-- TABLE_LOAD with the clear action leaves the slot with no bank in force (R211). -/
theorem tableClear_empties {s : State} {id : Nat} {c : Cmd} (h : Live s id 0x46 c) (hsel : c.f 17 1 = 1)
    (hwait : s.tableWaits id c.owner (c.f 16 1) = false) :
    ∃ t, exec (.tableClear id) s = .next t ∧ t.cmd? id = none ∧ t.table c.owner (c.f 16 1) = { s.table c.owner (c.f 16 1) with active := none } := by
  have he : ∃ u : State, execTableClear id s = .next (s.settle id (.ok (u, OK, 0)))
      ∧ u.tables = NMap.set s.tables (tableKey c.owner (c.f 16 1)) { s.table c.owner (c.f 16 1) with active := none } := by
    rw [execTableClear, control_live h (decide_eq_true hsel)]
    simp only [hwait, Bool.false_eq_true, if_false]
    exact ⟨_, rfl, rfl⟩
  obtain ⟨u, he, hu⟩ := he
  exact ⟨_, he, (State.settle_ok ..).1, State.table_of_tables ((State.settle_ok_tables ..).trans hu)⟩

/-- Settles O29: each command that may run settles with its effect, and its end touches no object, plan or table. -/
theorem objectsPlansAndTables : Obligations.ObjectsPlansAndTables :=
  ⟨⟨fun _ _ _ _ h hp hm hu hf => objectRegister_creates h hp hm hu hf,
      fun _ _ _ _ h ho hmodel hname hmask => objectRelease_removes h ho hmodel hname hmask,
      fun _ _ _ _ _ ho hl ht hd hh hs hwhy => t3WriteBack_clears ho hl ht hd hh hs hwhy⟩,
    fun _ _ _ h hfault hfits => planInstall_stores h hfault hfits,
    fun _ _ _ _ h hp hr hidle => planRetire_removes h hp hr hidle,
    fun _ _ _ _ h hsel hp hfault hwait hfits => tableLoad_fills h hsel hp hfault hwait hfits,
    fun _ _ _ h hsel hwait => tableClear_empties h hsel hwait⟩

end Sys2Proof.Machine
end

section
/-! PROOF. What a command leaves of the state: the state with the fields that a set names left out, and what each shared operation changes. -/

namespace Sys2Proof.Machine

/-- A field of the state, or a part of one that an operation may change alone: the service pin, the poison marks of the stacks, what the caches, stores, tiles and staging
of the dies hold, the traffic of the spine, the streams of channels 1 to 3, the contents of objects, the progress of admitted commands. -/
inductive Field where
  | pending | fresh | counters | boot | pins | resetCause | warmResets | fatal | host | half | msix | msixOut | atc | dma | stalled | lastDma
  | queues | t2cache | admin | subs | comps | fences | cmds | nextCmd | parts | windows | plans | tables | tempers | objects | seqs | frames | pool
  | steps | trees | mitusEn | nearGib | hbm | hbmRate | repaired | dies | spine | streams | spineOut | unitOut | links | linkOut | frameOut | linkIn
  | partId | groups | fprintWait | models | alloys | engines | flash | sec | serial | spdmOut | keyOut | pldmOut | power | errs | dropped | ceLog2
  | colo | attn | poison | stores | flow | bulk | contents | progress
  deriving DecidableEq

/-- The active version and the commit count of an object. -/
def Obj.stamp (o : Obj) : List Nat × BitVec 32 := (o.vmap, o.commits)

/-- What is found under a number. -/
abbrev Lookup (α : Type) := Nat → α

/-- A state with some of its fields left out: the fields themselves, and the parts that are kept of those of which some part only is left out. -/
structure StateView where
  state : State
  lands : Pins
  stackStates : List Stack
  unitStates : List DieState
  linkFences : Lookup (Lookup (Bool × BitVec 8))
  controlStreams : Lookup (Option Stream)
  objectVersions : Lookup (Option (List Nat × BitVec 32))
  orders : Lookup (Option (Bytes × Nat × Nat))

/-- A state with the fields of a set taken from another. -/
def State.take (X : Field → Bool) (s t : State) : State :=
  { pending := bif X .pending then t.pending else s.pending, fresh := bif X .fresh then t.fresh else s.fresh,
    counters := bif X .counters then t.counters else s.counters, boot := bif X .boot then t.boot else s.boot,
    pins := bif X .pins || X .attn then t.pins else s.pins, resetCause := bif X .resetCause then t.resetCause else s.resetCause,
    warmResets := bif X .warmResets then t.warmResets else s.warmResets, fatal := bif X .fatal then t.fatal else s.fatal,
    host := bif X .host then t.host else s.host, half := bif X .half then t.half else s.half, msix := bif X .msix then t.msix else s.msix,
    msixOut := bif X .msixOut then t.msixOut else s.msixOut, atc := bif X .atc then t.atc else s.atc, dma := bif X .dma then t.dma else s.dma,
    stalled := bif X .stalled then t.stalled else s.stalled, lastDma := bif X .lastDma then t.lastDma else s.lastDma,
    queues := bif X .queues then t.queues else s.queues, t2cache := bif X .t2cache then t.t2cache else s.t2cache,
    admin := bif X .admin then t.admin else s.admin, subs := bif X .subs then t.subs else s.subs, comps := bif X .comps then t.comps else s.comps,
    fences := bif X .fences then t.fences else s.fences, cmds := bif X .cmds || X .progress then t.cmds else s.cmds,
    nextCmd := bif X .nextCmd then t.nextCmd else s.nextCmd, parts := bif X .parts then t.parts else s.parts,
    windows := bif X .windows then t.windows else s.windows, plans := bif X .plans then t.plans else s.plans,
    tables := bif X .tables then t.tables else s.tables, tempers := bif X .tempers then t.tempers else s.tempers,
    objects := bif X .objects || X .contents then t.objects else s.objects, seqs := bif X .seqs then t.seqs else s.seqs,
    frames := bif X .frames then t.frames else s.frames, pool := bif X .pool then t.pool else s.pool,
    steps := bif X .steps then t.steps else s.steps, trees := bif X .trees then t.trees else s.trees,
    mitusEn := bif X .mitusEn then t.mitusEn else s.mitusEn, nearGib := bif X .nearGib then t.nearGib else s.nearGib,
    hbm := bif X .hbm || X .poison then t.hbm else s.hbm, hbmRate := bif X .hbmRate then t.hbmRate else s.hbmRate,
    repaired := bif X .repaired then t.repaired else s.repaired, dies := bif X .dies || X .stores then t.dies else s.dies,
    spine := bif X .spine || X .flow then t.spine else s.spine, streams := bif X .streams || X .bulk then t.streams else s.streams,
    spineOut := bif X .spineOut then t.spineOut else s.spineOut, unitOut := bif X .unitOut then t.unitOut else s.unitOut,
    links := bif X .links then t.links else s.links, linkOut := bif X .linkOut then t.linkOut else s.linkOut,
    frameOut := bif X .frameOut then t.frameOut else s.frameOut, linkIn := bif X .linkIn then t.linkIn else s.linkIn,
    partId := bif X .partId then t.partId else s.partId, groups := bif X .groups then t.groups else s.groups,
    fprintWait := bif X .fprintWait then t.fprintWait else s.fprintWait, models := bif X .models then t.models else s.models,
    alloys := bif X .alloys then t.alloys else s.alloys, engines := bif X .engines then t.engines else s.engines,
    flash := bif X .flash then t.flash else s.flash, sec := bif X .sec then t.sec else s.sec, serial := bif X .serial then t.serial else s.serial,
    spdmOut := bif X .spdmOut then t.spdmOut else s.spdmOut, keyOut := bif X .keyOut then t.keyOut else s.keyOut,
    pldmOut := bif X .pldmOut then t.pldmOut else s.pldmOut, power := bif X .power then t.power else s.power,
    errs := bif X .errs then t.errs else s.errs, dropped := bif X .dropped then t.dropped else s.dropped,
    ceLog2 := bif X .ceLog2 then t.ceLog2 else s.ceLog2, colo := bif X .colo then t.colo else s.colo }

theorem cond_cond {α : Type} (b : Bool) (x y z : α) : (bif b then x else bif b then y else z) = bif b then x else z := by
  cases b <;> rfl

theorem State.take_take (X : Field → Bool) (s t u : State) : (s.take X t).take X u = s.take X u := by
  simp only [State.take, cond_cond]

theorem State.take_self (X : Field → Bool) (s : State) : s.take X s = s := by
  simp only [State.take, Bool.cond_self]

/-- The state without the fields of a set. -/
def State.but (X : Field → Bool) (s : State) : StateView where
  state := s.take X {}
  lands := bif X .pins then {} else { s.pins with svcAttn := false }
  stackStates := bif X .hbm then [] else s.hbm.map (fun x => { x with poison := [] })
  unitStates := bif X .dies then [] else s.dies.map (fun x => { x.lasting with staging := [] })
  linkFences := bif X .spine then fun _ _ => (false, 0) else fun a b => ((s.spineAt a b).fenced, (s.spineAt a b).gen)
  controlStreams := bif X .streams then fun _ => none else fun k => NMap.get? s.streams (4 * k)
  objectVersions := bif X .objects then fun _ => none else fun k => (NMap.get? s.objects k).map Obj.stamp
  orders := bif X .cmds then fun _ => none else fun k => (s.cmd? k).map (fun c => (c.desc, c.owner, c.cq))

/-- Two states that agree without the fields of a set: the second is the first with those fields taken from the second. -/
theorem State.eq_take {X : Field → Bool} {s t : State} (h : t.but X = s.but X) : t = s.take X t := by
  have hs : t.take X {} = s.take X {} := congrArg StateView.state h
  calc t = t.take X t := (State.take_self X t).symm
    _ = (t.take X {}).take X t := (State.take_take X t {} t).symm
    _ = (s.take X {}).take X t := by rw [hs]
    _ = s.take X t := State.take_take X s {} t

/-- Every field of a list is in the set. -/
def Covers (X : Field → Bool) (l : List Field) : Prop := ∀ f ∈ l, X f = true

theorem Covers.mono {X : Field → Bool} {l m : List Field} (h : Covers X m) (hs : ∀ f ∈ l, f ∈ m) : Covers X l := fun f hf => h f (hs f hf)

section
variable {X : Field → Bool}
@[simp] theorem State.but_fresh (h : Covers X [.fresh]) (s : State) (v : Nat) : State.but X { s with fresh := v } = s.but X := by
  simp only [State.but, State.take, State.spineAt, State.cmd?, h .fresh (by decide), cond_true]
@[simp] theorem State.but_counters (h : Covers X [.counters]) (s : State) (v : List Word) : State.but X { s with counters := v } = s.but X := by
  simp only [State.but, State.take, State.spineAt, State.cmd?, h .counters (by decide), cond_true]
@[simp] theorem State.but_boot (h : Covers X [.boot]) (s : State) (v : Boot) : State.but X { s with boot := v } = s.but X := by
  simp only [State.but, State.take, State.spineAt, State.cmd?, h .boot (by decide), cond_true]
@[simp] theorem State.but_pins (h : Covers X [.pins, .attn]) (s : State) (v : Pins) : State.but X { s with pins := v } = s.but X := by
  simp only [State.but, State.take, State.spineAt, State.cmd?, h .pins (by decide), h .attn (by decide), cond_true, Bool.true_or]
@[simp] theorem State.but_resetCause (h : Covers X [.resetCause]) (s : State) (v : Nat) : State.but X { s with resetCause := v } = s.but X := by
  simp only [State.but, State.take, State.spineAt, State.cmd?, h .resetCause (by decide), cond_true]
@[simp] theorem State.but_warmResets (h : Covers X [.warmResets]) (s : State) (v : BitVec 32) : State.but X { s with warmResets := v } = s.but X := by
  simp only [State.but, State.take, State.spineAt, State.cmd?, h .warmResets (by decide), cond_true]
@[simp] theorem State.but_fatal (h : Covers X [.fatal]) (s : State) (v : Bool) : State.but X { s with fatal := v } = s.but X := by
  simp only [State.but, State.take, State.spineAt, State.cmd?, h .fatal (by decide), cond_true]
@[simp] theorem State.but_host (h : Covers X [.host]) (s : State) (v : Mem) : State.but X { s with host := v } = s.but X := by
  simp only [State.but, State.take, State.spineAt, State.cmd?, h .host (by decide), cond_true]
@[simp] theorem State.but_half (h : Covers X [.half]) (s : State) (v : NMap Nat) : State.but X { s with half := v } = s.but X := by
  simp only [State.but, State.take, State.spineAt, State.cmd?, h .half (by decide), cond_true]
@[simp] theorem State.but_msix (h : Covers X [.msix]) (s : State) (v : NMap Msix) : State.but X { s with msix := v } = s.but X := by
  simp only [State.but, State.take, State.spineAt, State.cmd?, h .msix (by decide), cond_true]
@[simp] theorem State.but_msixOut (h : Covers X [.msixOut]) (s : State) (v : List (Nat × Nat)) : State.but X { s with msixOut := v } = s.but X := by
  simp only [State.but, State.take, State.spineAt, State.cmd?, h .msixOut (by decide), cond_true]
@[simp] theorem State.but_atc (h : Covers X [.atc]) (s : State) (v : List (Nat × Nat)) : State.but X { s with atc := v } = s.but X := by
  simp only [State.but, State.take, State.spineAt, State.cmd?, h .atc (by decide), cond_true]
@[simp] theorem State.but_dma (h : Covers X [.dma]) (s : State) (v : List Dma) : State.but X { s with dma := v } = s.but X := by
  simp only [State.but, State.take, State.spineAt, State.cmd?, h .dma (by decide), cond_true]
@[simp] theorem State.but_stalled (h : Covers X [.stalled]) (s : State) (v : List Stalled) : State.but X { s with stalled := v } = s.but X := by
  simp only [State.but, State.take, State.spineAt, State.cmd?, h .stalled (by decide), cond_true]
@[simp] theorem State.but_lastDma (h : Covers X [.lastDma]) (s : State) (v : Word) : State.but X { s with lastDma := v } = s.but X := by
  simp only [State.but, State.take, State.spineAt, State.cmd?, h .lastDma (by decide), cond_true]
@[simp] theorem State.but_queues (h : Covers X [.queues]) (s : State) (v : NMap ResQueue) : State.but X { s with queues := v } = s.but X := by
  simp only [State.but, State.take, State.spineAt, State.cmd?, h .queues (by decide), cond_true]
@[simp] theorem State.but_t2cache (h : Covers X [.t2cache]) (s : State) (v : List (Nat × Nat × Nat)) : State.but X { s with t2cache := v } = s.but X := by
  simp only [State.but, State.take, State.spineAt, State.cmd?, h .t2cache (by decide), cond_true]
@[simp] theorem State.but_admin (h : Covers X [.admin]) (s : State) (v : AdminRegs) : State.but X { s with admin := v } = s.but X := by
  simp only [State.but, State.take, State.spineAt, State.cmd?, h .admin (by decide), cond_true]
@[simp] theorem State.but_subs (h : Covers X [.subs]) (s : State) (v : NMap SubRing) : State.but X { s with subs := v } = s.but X := by
  simp only [State.but, State.take, State.spineAt, State.cmd?, h .subs (by decide), cond_true]
@[simp] theorem State.but_comps (h : Covers X [.comps]) (s : State) (v : NMap CompRing) : State.but X { s with comps := v } = s.but X := by
  simp only [State.but, State.take, State.spineAt, State.cmd?, h .comps (by decide), cond_true]
@[simp] theorem State.but_fences (h : Covers X [.fences]) (s : State) (v : NMap Fence) : State.but X { s with fences := v } = s.but X := by
  simp only [State.but, State.take, State.spineAt, State.cmd?, h .fences (by decide), cond_true]
@[simp] theorem State.but_cmds (h : Covers X [.cmds, .progress]) (s : State) (v : NMap Cmd) : State.but X { s with cmds := v } = s.but X := by
  simp only [State.but, State.take, State.spineAt, State.cmd?, h .cmds (by decide), h .progress (by decide), cond_true, Bool.true_or]
@[simp] theorem State.but_nextCmd (h : Covers X [.nextCmd]) (s : State) (v : Nat) : State.but X { s with nextCmd := v } = s.but X := by
  simp only [State.but, State.take, State.spineAt, State.cmd?, h .nextCmd (by decide), cond_true]
@[simp] theorem State.but_parts (h : Covers X [.parts]) (s : State) (v : NMap Part) : State.but X { s with parts := v } = s.but X := by
  simp only [State.but, State.take, State.spineAt, State.cmd?, h .parts (by decide), cond_true]
@[simp] theorem State.but_windows (h : Covers X [.windows]) (s : State) (v : NMap Window) : State.but X { s with windows := v } = s.but X := by
  simp only [State.but, State.take, State.spineAt, State.cmd?, h .windows (by decide), cond_true]
@[simp] theorem State.but_plans (h : Covers X [.plans]) (s : State) (v : NMap Plan) : State.but X { s with plans := v } = s.but X := by
  simp only [State.but, State.take, State.spineAt, State.cmd?, h .plans (by decide), cond_true]
@[simp] theorem State.but_tables (h : Covers X [.tables]) (s : State) (v : NMap TableSlot) : State.but X { s with tables := v } = s.but X := by
  simp only [State.but, State.take, State.spineAt, State.cmd?, h .tables (by decide), cond_true]
@[simp] theorem State.but_tempers (h : Covers X [.tempers]) (s : State) (v : NMap Temper) : State.but X { s with tempers := v } = s.but X := by
  simp only [State.but, State.take, State.spineAt, State.cmd?, h .tempers (by decide), cond_true]
@[simp] theorem State.but_objects (h : Covers X [.objects, .contents]) (s : State) (v : NMap Obj) : State.but X { s with objects := v } = s.but X := by
  simp only [State.but, State.take, State.spineAt, State.cmd?, h .objects (by decide), h .contents (by decide), cond_true, Bool.true_or]
@[simp] theorem State.but_seqs (h : Covers X [.seqs]) (s : State) (v : NMap Seq) : State.but X { s with seqs := v } = s.but X := by
  simp only [State.but, State.take, State.spineAt, State.cmd?, h .seqs (by decide), cond_true]
@[simp] theorem State.but_frames (h : Covers X [.frames]) (s : State) (v : List (NMap Frame)) : State.but X { s with frames := v } = s.but X := by
  simp only [State.but, State.take, State.spineAt, State.cmd?, h .frames (by decide), cond_true]
@[simp] theorem State.but_pool (h : Covers X [.pool]) (s : State) (v : List Nat) : State.but X { s with pool := v } = s.but X := by
  simp only [State.but, State.take, State.spineAt, State.cmd?, h .pool (by decide), cond_true]
@[simp] theorem State.but_steps (h : Covers X [.steps]) (s : State) (v : NMap Step) : State.but X { s with steps := v } = s.but X := by
  simp only [State.but, State.take, State.spineAt, State.cmd?, h .steps (by decide), cond_true]
@[simp] theorem State.but_trees (h : Covers X [.trees]) (s : State) (v : List (List PrefixNode)) : State.but X { s with trees := v } = s.but X := by
  simp only [State.but, State.take, State.spineAt, State.cmd?, h .trees (by decide), cond_true]
@[simp] theorem State.but_mitusEn (h : Covers X [.mitusEn]) (s : State) (v : Bool) : State.but X { s with mitusEn := v } = s.but X := by
  simp only [State.but, State.take, State.spineAt, State.cmd?, h .mitusEn (by decide), cond_true]
@[simp] theorem State.but_nearGib (h : Covers X [.nearGib]) (s : State) (v : Nat) : State.but X { s with nearGib := v } = s.but X := by
  simp only [State.but, State.take, State.spineAt, State.cmd?, h .nearGib (by decide), cond_true]
@[simp] theorem State.but_hbm (h : Covers X [.hbm, .poison]) (s : State) (v : List Stack) : State.but X { s with hbm := v } = s.but X := by
  simp only [State.but, State.take, State.spineAt, State.cmd?, h .hbm (by decide), h .poison (by decide), cond_true, Bool.true_or]
@[simp] theorem State.but_hbmRate (h : Covers X [.hbmRate]) (s : State) (v : Nat) : State.but X { s with hbmRate := v } = s.but X := by
  simp only [State.but, State.take, State.spineAt, State.cmd?, h .hbmRate (by decide), cond_true]
@[simp] theorem State.but_repaired (h : Covers X [.repaired]) (s : State) (v : List Repair) : State.but X { s with repaired := v } = s.but X := by
  simp only [State.but, State.take, State.spineAt, State.cmd?, h .repaired (by decide), cond_true]
@[simp] theorem State.but_dies (h : Covers X [.dies, .stores]) (s : State) (v : List DieState) : State.but X { s with dies := v } = s.but X := by
  simp only [State.but, State.take, State.spineAt, State.cmd?, h .dies (by decide), h .stores (by decide), cond_true, Bool.true_or]
@[simp] theorem State.but_spine (h : Covers X [.spine, .flow]) (s : State) (v : NMap SpineLink) : State.but X { s with spine := v } = s.but X := by
  simp only [State.but, State.take, State.spineAt, State.cmd?, h .spine (by decide), h .flow (by decide), cond_true, Bool.true_or]
@[simp] theorem State.but_streams (h : Covers X [.streams, .bulk]) (s : State) (v : NMap Stream) : State.but X { s with streams := v } = s.but X := by
  simp only [State.but, State.take, State.spineAt, State.cmd?, h .streams (by decide), h .bulk (by decide), cond_true, Bool.true_or]
@[simp] theorem State.but_spineOut (h : Covers X [.spineOut]) (s : State) (v : List SpineMsg) : State.but X { s with spineOut := v } = s.but X := by
  simp only [State.but, State.take, State.spineAt, State.cmd?, h .spineOut (by decide), cond_true]
@[simp] theorem State.but_unitOut (h : Covers X [.unitOut]) (s : State) (v : List (Nat × Nat × Nat × Bytes)) : State.but X { s with unitOut := v } = s.but X := by
  simp only [State.but, State.take, State.spineAt, State.cmd?, h .unitOut (by decide), cond_true]
@[simp] theorem State.but_links (h : Covers X [.links]) (s : State) (v : List Link) : State.but X { s with links := v } = s.but X := by
  simp only [State.but, State.take, State.spineAt, State.cmd?, h .links (by decide), cond_true]
@[simp] theorem State.but_linkOut (h : Covers X [.linkOut]) (s : State) (v : List (Nat × Msg)) : State.but X { s with linkOut := v } = s.but X := by
  simp only [State.but, State.take, State.spineAt, State.cmd?, h .linkOut (by decide), cond_true]
@[simp] theorem State.but_frameOut (h : Covers X [.frameOut]) (s : State) (v : List LinkFrame) : State.but X { s with frameOut := v } = s.but X := by
  simp only [State.but, State.take, State.spineAt, State.cmd?, h .frameOut (by decide), cond_true]
@[simp] theorem State.but_linkIn (h : Covers X [.linkIn]) (s : State) (v : List (Nat × Nat × Msg)) : State.but X { s with linkIn := v } = s.but X := by
  simp only [State.but, State.take, State.spineAt, State.cmd?, h .linkIn (by decide), cond_true]
@[simp] theorem State.but_partId (h : Covers X [.partId]) (s : State) (v : Nat) : State.but X { s with partId := v } = s.but X := by
  simp only [State.but, State.take, State.spineAt, State.cmd?, h .partId (by decide), cond_true]
@[simp] theorem State.but_groups (h : Covers X [.groups]) (s : State) (v : NMap Group) : State.but X { s with groups := v } = s.but X := by
  simp only [State.but, State.take, State.spineAt, State.cmd?, h .groups (by decide), cond_true]
@[simp] theorem State.but_fprintWait (h : Covers X [.fprintWait]) (s : State) (v : List Msg) : State.but X { s with fprintWait := v } = s.but X := by
  simp only [State.but, State.take, State.spineAt, State.cmd?, h .fprintWait (by decide), cond_true]
@[simp] theorem State.but_models (h : Covers X [.models]) (s : State) (v : NMap Model) : State.but X { s with models := v } = s.but X := by
  simp only [State.but, State.take, State.spineAt, State.cmd?, h .models (by decide), cond_true]
@[simp] theorem State.but_alloys (h : Covers X [.alloys]) (s : State) (v : NMap Alloy) : State.but X { s with alloys := v } = s.but X := by
  simp only [State.but, State.take, State.spineAt, State.cmd?, h .alloys (by decide), cond_true]
@[simp] theorem State.but_engines (h : Covers X [.engines]) (s : State) (v : List Engine) : State.but X { s with engines := v } = s.but X := by
  simp only [State.but, State.take, State.spineAt, State.cmd?, h .engines (by decide), cond_true]
@[simp] theorem State.but_flash (h : Covers X [.flash]) (s : State) (v : Flash) : State.but X { s with flash := v } = s.but X := by
  simp only [State.but, State.take, State.spineAt, State.cmd?, h .flash (by decide), cond_true]
@[simp] theorem State.but_sec (h : Covers X [.sec]) (s : State) (v : Sec) : State.but X { s with sec := v } = s.but X := by
  simp only [State.but, State.take, State.spineAt, State.cmd?, h .sec (by decide), cond_true]
@[simp] theorem State.but_spdmOut (h : Covers X [.spdmOut]) (s : State) (v : List Bytes) : State.but X { s with spdmOut := v } = s.but X := by
  simp only [State.but, State.take, State.spineAt, State.cmd?, h .spdmOut (by decide), cond_true]
@[simp] theorem State.but_keyOut (h : Covers X [.keyOut]) (s : State) (v : List LinkKey) : State.but X { s with keyOut := v } = s.but X := by
  simp only [State.but, State.take, State.spineAt, State.cmd?, h .keyOut (by decide), cond_true]
@[simp] theorem State.but_pldmOut (h : Covers X [.pldmOut]) (s : State) (v : List Nat) : State.but X { s with pldmOut := v } = s.but X := by
  simp only [State.but, State.take, State.spineAt, State.cmd?, h .pldmOut (by decide), cond_true]
@[simp] theorem State.but_power (h : Covers X [.power]) (s : State) (v : Power) : State.but X { s with power := v } = s.but X := by
  simp only [State.but, State.take, State.spineAt, State.cmd?, h .power (by decide), cond_true]
@[simp] theorem State.but_errs (h : Covers X [.errs]) (s : State) (v : List (NMap ErrRec)) : State.but X { s with errs := v } = s.but X := by
  simp only [State.but, State.take, State.spineAt, State.cmd?, h .errs (by decide), cond_true]
@[simp] theorem State.but_dropped (h : Covers X [.dropped]) (s : State) (v : Nat) : State.but X { s with dropped := v } = s.but X := by
  simp only [State.but, State.take, State.spineAt, State.cmd?, h .dropped (by decide), cond_true]
@[simp] theorem State.but_ceLog2 (h : Covers X [.ceLog2]) (s : State) (v : Nat) : State.but X { s with ceLog2 := v } = s.but X := by
  simp only [State.but, State.take, State.spineAt, State.cmd?, h .ceLog2 (by decide), cond_true]
@[simp] theorem State.but_colo (h : Covers X [.colo]) (s : State) (v : Colo) : State.but X { s with colo := v } = s.but X := by
  simp only [State.but, State.take, State.spineAt, State.cmd?, h .colo (by decide), cond_true]
end

/-- The set of the fields of a list. -/
def Field.among (l : List Field) : Field → Bool := fun f => l.contains f

theorem covers_among (l : List Field) : Covers (Field.among l) l := fun _ hf => List.contains_iff_mem.2 hf

def vectorFields : List Field := [.msix, .msixOut]

def wireFields : List Field := [.flow, .spineOut]

def lineFields : List Field := [.flow, .bulk, .spineOut]

def sendFields : List Field := [.flow, .streams, .bulk, .spineOut]

def meterFields : List Field := [.queues, .parts]

def dmaFields : List Field := [.atc, .dma, .lastDma]

def hostFields : List Field := [.host, .atc, .dma, .stalled, .lastDma]

def reportFields : List Field := [.attn, .msix, .msixOut, .windows, .pldmOut, .errs, .dropped]

def recordFields : List Field := hostFields ++ vectorFields ++ [.subs, .comps, .fences, .cmds, .progress, .parts]

def cacheFields : List Field := hostFields ++ meterFields ++ [.t2cache, .contents]

def putFields : List Field := cacheFields ++ [.cmds, .progress, .stores]

/-- What a warm reset loses beside the commands and what they hold. -/
def warmFields : List Field :=
  [.half, .atc, .msix, .queues, .admin, .parts, .windows, .hbm, .poison, .dies, .stores, .links, .linkIn, .fprintWait, .engines, .sec, .power]

/-- All that a reset may change: everything but the queue of commands and the serial number. -/
def packageFields : List Field :=
  [.fresh, .counters, .boot, .pins, .attn, .resetCause, .warmResets, .fatal, .host, .half, .msix, .msixOut, .atc, .dma, .stalled, .lastDma, .queues,
   .t2cache, .admin, .subs, .comps, .fences, .cmds, .progress, .nextCmd, .parts, .windows, .plans, .tables, .tempers, .objects, .contents, .seqs,
   .frames, .pool, .steps, .trees, .mitusEn, .nearGib, .hbm, .poison, .hbmRate, .repaired, .dies, .stores, .spine, .flow, .streams, .bulk, .spineOut,
   .unitOut, .links, .linkOut, .frameOut, .linkIn, .partId, .groups, .fprintWait, .models, .alloys, .engines, .flash, .sec, .spdmOut, .keyOut,
   .pldmOut, .power, .errs, .dropped, .ceLog2, .colo]

def failFields : List Field := recordFields ++ reportFields ++ [.fresh, .plans, .tempers, .contents, .seqs, .frames, .poison, .stores, .linkOut, .engines]

/-- An outcome that is a next state differs from the state before in fields of the set alone. -/
def SameBut (X : Field → Bool) (s : State) (o : Host.Outcome State Fault Refusal) : Prop := ∀ t, o = .next t → t.but X = s.but X

section
variable {X : Field → Bool}

@[simp] theorem sameBut_next (s t : State) : SameBut X s (.next t) ↔ t.but X = s.but X := by
  simp [SameBut]
@[simp] theorem sameBut_fault (s : State) (f : Fault) : SameBut X s (.fault f) := by
  simp [SameBut]
@[simp] theorem sameBut_ite (s : State) (p : Prop) [Decidable p] (a b : Host.Outcome State Fault Refusal) :
    SameBut X s (if p then a else b) ↔ if p then SameBut X s a else SameBut X s b := by
  split <;> rfl

@[simp] theorem State.but_ite (p : Prop) [Decidable p] (s t : State) : (if p then s else t).but X = if p then s.but X else t.but X := apply_ite _ _ _ _

@[simp] theorem foldl_but {α : Type} (f : State → α → State) (l : List α) (s : State) (hf : ∀ (a : State) (x : α), (f a x).but X = a.but X) :
    (l.foldl f s).but X = s.but X := by
  induction l generalizing s with
  | nil => rfl
  | cons x l ih => exact (ih _).trans (hf _ _)

@[simp] theorem State.but_atc_dma_lastDma (h : Covers X [.atc, .dma, .lastDma]) (s : State) (v0 : List (Nat × Nat)) (v1 : List Dma) (v2 : Word) :
    State.but X { s with atc := v0, dma := v1, lastDma := v2 } = s.but X := by
  simp only [State.but, State.take, State.spineAt, State.cmd?, h .atc (by decide), h .dma (by decide), h .lastDma (by decide), cond_true]

@[simp] theorem State.but_host_stalled (h : Covers X [.host, .stalled]) (s : State) (v0 : Mem) (v1 : List Stalled) :
    State.but X { s with host := v0, stalled := v1 } = s.but X := by
  simp only [State.but, State.take, State.spineAt, State.cmd?, h .host (by decide), h .stalled (by decide), cond_true]

@[simp] theorem State.but_msix_msixOut (h : Covers X [.msix, .msixOut]) (s : State) (v0 : NMap Msix) (v1 : List (Nat × Nat)) :
    State.but X { s with msix := v0, msixOut := v1 } = s.but X := by
  simp only [State.but, State.take, State.spineAt, State.cmd?, h .msix (by decide), h .msixOut (by decide), cond_true]

@[simp] theorem State.but_fences_cmds (h : Covers X [.fences, .cmds, .progress]) (s : State) (v0 : NMap Fence) (v1 : NMap Cmd) :
    State.but X { s with fences := v0, cmds := v1 } = s.but X := by
  simp only [State.but, State.take, State.spineAt, State.cmd?, h .fences (by decide), h .cmds (by decide), h .progress (by decide), cond_true, Bool.true_or]

@[simp] theorem State.but_tempers_objects (h : Covers X [.tempers, .objects, .contents]) (s : State) (v0 : NMap Temper) (v1 : NMap Obj) :
    State.but X { s with tempers := v0, objects := v1 } = s.but X := by
  simp only [State.but, State.take, State.spineAt, State.cmd?, h .tempers (by decide), h .objects (by decide), h .contents (by decide), cond_true, Bool.true_or]

@[simp] theorem State.but_t2cache_dies (h : Covers X [.t2cache, .dies, .stores]) (s : State) (v0 : List (Nat × Nat × Nat)) (v1 : List DieState) :
    State.but X { s with t2cache := v0, dies := v1 } = s.but X := by
  simp only [State.but, State.take, State.spineAt, State.cmd?, h .t2cache (by decide), h .dies (by decide), h .stores (by decide), cond_true, Bool.true_or]

@[simp] theorem State.but_cmds_nextCmd (h : Covers X [.cmds, .progress, .nextCmd]) (s : State) (v0 : NMap Cmd) (v1 : Nat) :
    State.but X { s with cmds := v0, nextCmd := v1 } = s.but X := by
  simp only [State.but, State.take, State.spineAt, State.cmd?, h .cmds (by decide), h .progress (by decide), h .nextCmd (by decide), cond_true, Bool.true_or]

@[simp] theorem State.but_fences_plans_tables_tempers_objects_steps_alloys (h : Covers X [.fences, .plans, .tables, .tempers, .objects, .contents, .steps, .alloys]) (s : State) (v0 : NMap Fence) (v1 : NMap Plan) (v2 : NMap TableSlot) (v3 : NMap Temper) (v4 : NMap Obj) (v5 : NMap Step) (v6 : NMap Alloy) :
    State.but X { s with fences := v0, plans := v1, tables := v2, tempers := v3, objects := v4, steps := v5, alloys := v6 } = s.but X := by
  simp only [State.but, State.take, State.spineAt, State.cmd?, h .fences (by decide), h .plans (by decide), h .tables (by decide), h .tempers (by decide), h .objects (by decide), h .contents (by decide), h .steps (by decide), h .alloys (by decide), cond_true, Bool.true_or]

@[simp] theorem State.but_subs_comps (h : Covers X [.subs, .comps]) (s : State) (v0 : NMap SubRing) (v1 : NMap CompRing) :
    State.but X { s with subs := v0, comps := v1 } = s.but X := by
  simp only [State.but, State.take, State.spineAt, State.cmd?, h .subs (by decide), h .comps (by decide), cond_true]

@[simp] theorem State.but_parts_windows_groups_fprintWait_models_colo (h : Covers X [.parts, .windows, .groups, .fprintWait, .models, .colo]) (s : State) (v0 : NMap Part) (v1 : NMap Window) (v2 : NMap Group) (v3 : List Msg) (v4 : NMap Model) (v5 : Colo) :
    State.but X { s with parts := v0, windows := v1, groups := v2, fprintWait := v3, models := v4, colo := v5 } = s.but X := by
  simp only [State.but, State.take, State.spineAt, State.cmd?, h .parts (by decide), h .windows (by decide), h .groups (by decide), h .fprintWait (by decide), h .models (by decide), h .colo (by decide), cond_true]

@[simp] theorem State.but_subs_comps_fences (h : Covers X [.subs, .comps, .fences]) (s : State) (v0 : NMap SubRing) (v1 : NMap CompRing) (v2 : NMap Fence) :
    State.but X { s with subs := v0, comps := v1, fences := v2 } = s.but X := by
  simp only [State.but, State.take, State.spineAt, State.cmd?, h .subs (by decide), h .comps (by decide), h .fences (by decide), cond_true]

@[simp] theorem State.but_linkOut_frameOut (h : Covers X [.linkOut, .frameOut]) (s : State) (v0 : List (Nat × Msg)) (v1 : List LinkFrame) :
    State.but X { s with linkOut := v0, frameOut := v1 } = s.but X := by
  simp only [State.but, State.take, State.spineAt, State.cmd?, h .linkOut (by decide), h .frameOut (by decide), cond_true]

@[simp] theorem State.but_groups_fprintWait (h : Covers X [.groups, .fprintWait]) (s : State) (v0 : NMap Group) (v1 : List Msg) :
    State.but X { s with groups := v0, fprintWait := v1 } = s.but X := by
  simp only [State.but, State.take, State.spineAt, State.cmd?, h .groups (by decide), h .fprintWait (by decide), cond_true]

@[simp] theorem State.but_objects_models (h : Covers X [.objects, .contents, .models]) (s : State) (v0 : NMap Obj) (v1 : NMap Model) :
    State.but X { s with objects := v0, models := v1 } = s.but X := by
  simp only [State.but, State.take, State.spineAt, State.cmd?, h .objects (by decide), h .contents (by decide), h .models (by decide), cond_true, Bool.true_or]

@[simp] theorem State.but_objects_alloys (h : Covers X [.objects, .contents, .alloys]) (s : State) (v0 : NMap Obj) (v1 : NMap Alloy) :
    State.but X { s with objects := v0, alloys := v1 } = s.but X := by
  simp only [State.but, State.take, State.spineAt, State.cmd?, h .objects (by decide), h .contents (by decide), h .alloys (by decide), cond_true, Bool.true_or]

@[simp] theorem State.but_dies_power (h : Covers X [.dies, .stores, .power]) (s : State) (v0 : List DieState) (v1 : Power) :
    State.but X { s with dies := v0, power := v1 } = s.but X := by
  simp only [State.but, State.take, State.spineAt, State.cmd?, h .dies (by decide), h .stores (by decide), h .power (by decide), cond_true, Bool.true_or]

@[simp] theorem State.but_pins_power (h : Covers X [.pins, .attn, .power]) (s : State) (v0 : Pins) (v1 : Power) :
    State.but X { s with pins := v0, power := v1 } = s.but X := by
  simp only [State.but, State.take, State.spineAt, State.cmd?, h .pins (by decide), h .attn (by decide), h .power (by decide), cond_true, Bool.true_or]

@[simp] theorem State.but_boot_pins (h : Covers X [.boot, .pins, .attn]) (s : State) (v0 : Boot) (v1 : Pins) :
    State.but X { s with boot := v0, pins := v1 } = s.but X := by
  simp only [State.but, State.take, State.spineAt, State.cmd?, h .boot (by decide), h .pins (by decide), h .attn (by decide), cond_true, Bool.true_or]

@[simp] theorem State.but_mitusEn_nearGib (h : Covers X [.mitusEn, .nearGib]) (s : State) (v0 : Bool) (v1 : Nat) :
    State.but X { s with mitusEn := v0, nearGib := v1 } = s.but X := by
  simp only [State.but, State.take, State.spineAt, State.cmd?, h .mitusEn (by decide), h .nearGib (by decide), cond_true]

@[simp] theorem State.but_flash_sec (h : Covers X [.flash, .sec]) (s : State) (v0 : Flash) (v1 : Sec) :
    State.but X { s with flash := v0, sec := v1 } = s.but X := by
  simp only [State.but, State.take, State.spineAt, State.cmd?, h .flash (by decide), h .sec (by decide), cond_true]

@[simp] theorem State.but_hbmRate_dies (h : Covers X [.hbmRate, .dies, .stores]) (s : State) (v0 : Nat) (v1 : List DieState) :
    State.but X { s with hbmRate := v0, dies := v1 } = s.but X := by
  simp only [State.but, State.take, State.spineAt, State.cmd?, h .hbmRate (by decide), h .dies (by decide), h .stores (by decide), cond_true, Bool.true_or]

@[simp] theorem State.but_boot_flash_sec (h : Covers X [.boot, .flash, .sec]) (s : State) (v0 : Boot) (v1 : Flash) (v2 : Sec) :
    State.but X { s with boot := v0, flash := v1, sec := v2 } = s.but X := by
  simp only [State.but, State.take, State.spineAt, State.cmd?, h .boot (by decide), h .flash (by decide), h .sec (by decide), cond_true]

@[simp] theorem State.but_boot_colo (h : Covers X [.boot, .colo]) (s : State) (v0 : Boot) (v1 : Colo) :
    State.but X { s with boot := v0, colo := v1 } = s.but X := by
  simp only [State.but, State.take, State.spineAt, State.cmd?, h .boot (by decide), h .colo (by decide), cond_true]

@[simp] theorem State.but_resetCause_warmResets_power (h : Covers X [.resetCause, .warmResets, .power]) (s : State) (v0 : Nat) (v1 : BitVec 32) (v2 : Power) :
    State.but X { s with resetCause := v0, warmResets := v1, power := v2 } = s.but X := by
  simp only [State.but, State.take, State.spineAt, State.cmd?, h .resetCause (by decide), h .warmResets (by decide), h .power (by decide), cond_true]

@[simp] theorem State.but_resetCause_power (h : Covers X [.resetCause, .power]) (s : State) (v0 : Nat) (v1 : Power) :
    State.but X { s with resetCause := v0, power := v1 } = s.but X := by
  simp only [State.but, State.take, State.spineAt, State.cmd?, h .resetCause (by decide), h .power (by decide), cond_true]

@[simp] theorem State.but_boot_hbm_flash_sec (h : Covers X [.boot, .hbm, .poison, .flash, .sec]) (s : State) (v0 : Boot) (v1 : List Stack) (v2 : Flash) (v3 : Sec) :
    State.but X { s with boot := v0, hbm := v1, flash := v2, sec := v3 } = s.but X := by
  simp only [State.but, State.take, State.spineAt, State.cmd?, h .boot (by decide), h .hbm (by decide), h .poison (by decide), h .flash (by decide), h .sec (by decide), cond_true, Bool.true_or]

@[simp] theorem State.but_hbm_power (h : Covers X [.hbm, .poison, .power]) (s : State) (v0 : List Stack) (v1 : Power) :
    State.but X { s with hbm := v0, power := v1 } = s.but X := by
  simp only [State.but, State.take, State.spineAt, State.cmd?, h .hbm (by decide), h .poison (by decide), h .power (by decide), cond_true, Bool.true_or]

@[simp] theorem State.but_hbm_dies_power (h : Covers X [.hbm, .poison, .dies, .stores, .power]) (s : State) (v0 : List Stack) (v1 : List DieState) (v2 : Power) :
    State.but X { s with hbm := v0, dies := v1, power := v2 } = s.but X := by
  simp only [State.but, State.take, State.spineAt, State.cmd?, h .hbm (by decide), h .poison (by decide), h .dies (by decide), h .stores (by decide), h .power (by decide), cond_true, Bool.true_or]

@[simp] theorem State.but_links_power (h : Covers X [.links, .power]) (s : State) (v0 : List Link) (v1 : Power) :
    State.but X { s with links := v0, power := v1 } = s.but X := by
  simp only [State.but, State.take, State.spineAt, State.cmd?, h .links (by decide), h .power (by decide), cond_true]

@[simp] theorem State.but_boot_pins_links_power (h : Covers X [.boot, .pins, .attn, .links, .power]) (s : State) (v0 : Boot) (v1 : Pins) (v2 : List Link) (v3 : Power) :
    State.but X { s with boot := v0, pins := v1, links := v2, power := v3 } = s.but X := by
  simp only [State.but, State.take, State.spineAt, State.cmd?, h .boot (by decide), h .pins (by decide), h .attn (by decide), h .links (by decide), h .power (by decide), cond_true, Bool.true_or]

@[simp] theorem State.but_admin_subs (h : Covers X [.admin, .subs]) (s : State) (v0 : AdminRegs) (v1 : NMap SubRing) :
    State.but X { s with admin := v0, subs := v1 } = s.but X := by
  simp only [State.but, State.take, State.spineAt, State.cmd?, h .admin (by decide), h .subs (by decide), cond_true]

theorem NMap.get?_map_snd {α : Type} (m : NMap α) (f : α → α) (k : Nat) : NMap.get? (m.map (fun p => (p.1, f p.2))) k = (NMap.get? m k).map f := by
  induction m with
  | nil => rfl
  | cons p m ih =>
    rw [List.map_cons, NMap.get?_cons, NMap.get?_cons]
    dsimp only
    split
    · rfl
    · exact ih

theorem DieState.touch_lasting (x : DieState) (line : Nat) (write pin : Bool) :
    { (x.touch line write pin).lasting with staging := [] } = { x.lasting with staging := [] } := by
  unfold DieState.touch
  dsimp only
  repeat' split
  all_goals rfl

@[simp] theorem State.but_subs_parts (h : Covers X [.subs, .parts]) (s : State) (v0 : NMap SubRing) (v1 : NMap Part) :
    State.but X { s with subs := v0, parts := v1 } = s.but X := by
  simp only [State.but, State.take, State.spineAt, State.cmd?, h .subs (by decide), h .parts (by decide), cond_true]

@[simp] theorem foldl_but_fst {α β : Type} (f : State × β → α → State × β) (l : List α) (x : State × β)
    (hf : ∀ (a : State × β) (y : α), (f a y).1.but X = a.1.but X) : (l.foldl f x).1.but X = x.1.but X := by
  induction l generalizing x with
  | nil => rfl
  | cons y l ih => exact (ih _).trans (hf _ _)

/-- A reset leaves the queue and the serial number. -/
theorem State.but_of_kept (hX : Covers X packageFields) (s t : State) (hp : t.pending = s.pending) (hs : t.serial = s.serial) : t.but X = s.but X := by
  simp only [State.but, State.take, hp, hs, cond_true, Bool.true_or,
   hX .fresh (by decide), hX .counters (by decide), hX .boot (by decide), hX .pins (by decide), hX .attn (by decide), hX .resetCause (by decide),
   hX .warmResets (by decide), hX .fatal (by decide), hX .host (by decide), hX .half (by decide), hX .msix (by decide), hX .msixOut (by decide),
   hX .atc (by decide), hX .dma (by decide), hX .stalled (by decide), hX .lastDma (by decide), hX .queues (by decide), hX .t2cache (by decide),
   hX .admin (by decide), hX .subs (by decide), hX .comps (by decide), hX .fences (by decide), hX .cmds (by decide), hX .progress (by decide),
   hX .nextCmd (by decide), hX .parts (by decide), hX .windows (by decide), hX .plans (by decide), hX .tables (by decide), hX .tempers (by decide),
   hX .objects (by decide), hX .contents (by decide), hX .seqs (by decide), hX .frames (by decide), hX .pool (by decide), hX .steps (by decide),
   hX .trees (by decide), hX .mitusEn (by decide), hX .nearGib (by decide), hX .hbm (by decide), hX .poison (by decide), hX .hbmRate (by decide),
   hX .repaired (by decide), hX .dies (by decide), hX .stores (by decide), hX .spine (by decide), hX .flow (by decide), hX .streams (by decide),
   hX .bulk (by decide), hX .spineOut (by decide), hX .unitOut (by decide), hX .links (by decide), hX .linkOut (by decide), hX .frameOut (by decide),
   hX .linkIn (by decide), hX .partId (by decide), hX .groups (by decide), hX .fprintWait (by decide), hX .models (by decide),
   hX .alloys (by decide), hX .engines (by decide), hX .flash (by decide), hX .sec (by decide), hX .spdmOut (by decide), hX .keyOut (by decide),
   hX .pldmOut (by decide), hX .power (by decide), hX .errs (by decide), hX .dropped (by decide), hX .ceLog2 (by decide), hX .colo (by decide)]

theorem stateAfter_but (s : State) (o : Host.Outcome State Fault Refusal) (h : SameBut X s o) : (stateAfter s o).but X = s.but X := by
  unfold stateAfter
  split
  · exact h _ rfl
  · rfl

@[simp] theorem State.asDma_but (hX : Covers X dmaFields) (s : State) (fn : Nat) (write : Bool) (a n : Nat) : (s.asDma fn write a n).but X = s.but X := by
  simp (disch := (apply hX.mono; decide)) [State.asDma]

@[simp] theorem State.hostWrite_but (hX : Covers X hostFields) (s : State) (fn a : Nat) (bs : Bytes) : (s.hostWrite fn a bs).but X = s.but X := by
  simp (disch := (apply hX.mono; decide)) [State.hostWrite]

@[simp] theorem State.releaseWrites_but (h : Covers X hostFields) (s : State) : s.releaseWrites.but X = s.but X := by
  unfold State.releaseWrites
  exact (foldl_but _ _ _ fun a (w : Stalled) => State.hostWrite_but h a w.fn w.addr w.bytes).trans (State.but_stalled (h.mono (by decide)) _ _)

@[simp] theorem State.hostStores_but (hX : Covers X [.host]) (s : State) (cs : List Host.Cell) : (s.hostStores cs).but X = s.but X := by
  simp (disch := (apply hX.mono; decide)) [State.hostStores]

@[simp] theorem State.reach_but (hX : Covers X [.counters]) (s : State) (d : Nat) (t : Word) : (s.reach d t).but X = s.but X := by
  simp (disch := (apply hX.mono; decide)) [State.reach]

@[simp] theorem State.tick_but (hX : Covers X [.counters]) (s : State) : s.tick.but X = s.but X := by
  simp (disch := (apply hX.mono; decide)) [State.tick]

@[simp] theorem State.takeFresh_but (hX : Covers X [.fresh]) (s : State) : s.takeFresh.but X = s.but X := by
  simp (disch := (apply hX.mono; decide)) [State.takeFresh]

/-- A die changes what its caches, stores, tiles and staging hold alone. -/
theorem State.setDie_stores (hs : Covers X [.stores]) (s : State) (d : Nat) (x : DieState)
    (hx : { x.lasting with staging := [] } = { (s.dieAt d).lasting with staging := [] }) : (s.setDie d x).but X = s.but X := by
  have e : (s.dies.set d x).map (fun x => { x.lasting with staging := [] }) = s.dies.map (fun x => { x.lasting with staging := [] }) :=
    map_set_of_getD _ _ _ _ ({} : DieState) hx
  simp only [State.setDie, State.but, State.take, State.spineAt, State.cmd?, hs .stores (by decide), Bool.or_true, cond_true, e]

/-- The dies change what their caches, stores, tiles and staging hold alone. -/
theorem State.dies_stores (hs : Covers X [.stores]) (s : State) (l : List DieState)
    (e : l.map (fun x => { x.lasting with staging := [] }) = s.dies.map (fun x => { x.lasting with staging := [] })) :
    State.but X { s with dies := l } = s.but X := by
  simp only [State.but, State.take, State.spineAt, State.cmd?, hs .stores (by decide), Bool.or_true, cond_true, e]

/-- Every die changes what its caches, stores, tiles and staging hold alone. -/
theorem State.mapDies_stores (hs : Covers X [.stores]) (s : State) (f : DieState → DieState)
    (hf : ∀ x, { (f x).lasting with staging := [] } = { x.lasting with staging := [] }) : State.but X { s with dies := s.dies.map f } = s.but X := by
  have e : (s.dies.map f).map (fun x => { x.lasting with staging := [] }) = s.dies.map (fun x => { x.lasting with staging := [] }) := by
    rw [List.map_map]; exact List.map_congr_left fun x _ => hf x
  simp only [State.but, State.take, State.spineAt, State.cmd?, hs .stores (by decide), Bool.or_true, cond_true, e]

@[simp] theorem State.setDie_but (h : Covers X [.dies, .stores]) (s : State) (d : Nat) (x : DieState) : (s.setDie d x).but X = s.but X :=
  State.but_dies (h.mono (by decide)) _ _
@[simp] theorem State.setLink_but (hX : Covers X [.links]) (s : State) (l : Nat) (x : Link) : (s.setLink l x).but X = s.but X := by
  simp (disch := (apply hX.mono; decide)) [State.setLink]

/-- A stack changes its poison marks alone. -/
theorem State.setStack_poison (hp : Covers X [.poison]) (s : State) (i : Nat) (x : Stack) (hx : { x with poison := [] } = { s.stackAt i with poison := [] }) :
    (s.setStack i x).but X = s.but X := by
  have e : (s.hbm.set i x).map (fun x => { x with poison := [] }) = s.hbm.map (fun x => { x with poison := [] }) :=
    map_set_of_getD _ _ _ _ ({} : Stack) hx
  simp only [State.setStack, State.but, State.take, State.spineAt, State.cmd?, hp .poison (by decide), Bool.or_true, cond_true, e]

@[simp] theorem State.setStack_but (h : Covers X [.hbm, .poison]) (s : State) (i : Nat) (x : Stack) : (s.setStack i x).but X = s.but X :=
  State.but_hbm (h.mono (by decide)) _ _
@[simp] theorem State.setEngine_but (hX : Covers X [.engines]) (s : State) (d : Nat) (x : Engine) : (s.setEngine d x).but X = s.but X := by
  simp (disch := (apply hX.mono; decide)) [State.setEngine]

@[simp] theorem State.setDiePower_but (hX : Covers X [.power]) (s : State) (d : Nat) (x : DiePower) : (s.setDiePower d x).but X = s.but X := by
  simp (disch := (apply hX.mono; decide)) [State.setDiePower]

@[simp] theorem State.setFrames_but (hX : Covers X [.frames]) (s : State) (d : Nat) (x : NMap Frame) : (s.setFrames d x).but X = s.but X := by
  simp (disch := (apply hX.mono; decide)) [State.setFrames]

@[simp] theorem State.sendMsix_but (h : Covers X vectorFields) (s : State) (fn vec : Nat) : (s.sendMsix fn vec).but X = s.but X := by
  unfold State.sendMsix
  dsimp only
  split
  · exact State.but_msix (h.mono (by decide)) _ _
  · exact State.but_msixOut (h.mono (by decide)) _ _

@[simp] theorem State.flushMsix_but (hX : Covers X vectorFields) (s : State) (fn : Nat) : (s.flushMsix fn).but X = s.but X := by
  simp (disch := (apply hX.mono; decide)) [State.flushMsix]

@[simp] theorem State.sendLink_but (hX : Covers X [.linkOut]) (s : State) (l : Nat) (m : Msg) : (s.sendLink l m).but X = s.but X := by
  simp (disch := (apply hX.mono; decide)) [State.sendLink]

@[simp] theorem State.meter_but (hX : Covers X [.parts]) (s : State) (part res inst n : Nat) : (s.meter part res inst n).but X = s.but X := by
  simp (disch := (apply hX.mono; decide)) [State.meter]

@[simp] theorem State.visit_but (h : Covers X meterFields) (s : State) (q part : Nat) (x : ResQueue) : (s.visit q part x).but X = s.but X := by
  unfold State.visit
  exact (State.but_queues (h.mono (by decide)) _ _).trans (foldl_but _ _ _ fun a n => State.meter_but (h.mono (by decide)) a _ _ _ n)

@[simp] theorem State.serveQueue_but (h : Covers X meterFields) : ∀ (fuel q : Nat) (s : State), (State.serveQueue fuel q s).but X = s.but X
  | 0, _, _ => rfl
  | fuel + 1, q, s => by
    unfold State.serveQueue
    split
    · rfl
    · split
      · exact (State.serveQueue_but h fuel q _).trans (State.visit_but h s q _ _)
      · rfl

@[simp] theorem State.drain_but (h : Covers X meterFields) (s : State) (q : Nat) : (s.drain q).but X = s.but X := by
  unfold State.drain
  split
  · exact State.serveQueue_but h _ q s
  · rfl

@[simp] theorem State.drainAll_but (h : Covers X meterFields) (s : State) : s.drainAll.but X = s.but X :=
  foldl_but _ _ _ fun a q => State.drain_but h a q.1
@[simp] theorem State.unqueue_but (hX : Covers X [.queues]) (s : State) (part : Nat) : (s.unqueue part).but X = s.but X := by
  simp (disch := (apply hX.mono; decide)) [State.unqueue]

@[simp] theorem State.request_but (h : Covers X meterFields) (s : State) (q part n : Nat) : (s.request q part n).but X = s.but X := by
  unfold State.request
  split
  · rfl
  · exact (State.drain_but h _ q).trans (State.but_queues (h.mono (by decide)) _ _)

@[simp] theorem State.bulkDma_but (hX : Covers X (meterFields ++ dmaFields)) (s : State) (part : Nat) (write : Bool) (a n : Nat) :
    (s.bulkDma part write a n).but X = s.but X := by
  simp (disch := (apply hX.mono; decide)) [State.bulkDma]

@[simp] theorem State.bulkWrite_but (hX : Covers X (hostFields ++ meterFields)) (s : State) (part a : Nat) (bs : Bytes) :
    (s.bulkWrite part a bs).but X = s.but X := by
  simp (disch := (apply hX.mono; decide)) [State.bulkWrite]

@[simp] theorem State.setSpine_but (hX : Covers X [.spine, .flow]) (s : State) (a b : Nat) (x : SpineLink) : (s.setSpine a b x).but X = s.but X := by
  simp (disch := (apply hX.mono; decide)) [State.setSpine]

/-- A spine link changes without its fence and generation. -/
theorem State.setSpine_flow (hf : Covers X [.flow]) (s : State) (a b : Nat) (x : SpineLink)
    (hx : x.fenced = (s.spineAt a b).fenced) (hg : x.gen = (s.spineAt a b).gen) : (s.setSpine a b x).but X = s.but X := by
  have e : ∀ i j, ((NMap.getD (NMap.set s.spine (linkKey a b) x) (linkKey i j) {}).fenced, (NMap.getD (NMap.set s.spine (linkKey a b) x) (linkKey i j) {}).gen) =
      ((NMap.getD s.spine (linkKey i j) {}).fenced, (NMap.getD s.spine (linkKey i j) {}).gen) := fun i j => by
    unfold State.spineAt at hx hg
    by_cases hk : linkKey i j = linkKey a b
    · rw [hk, NMap.getD_set_same]; exact Prod.ext hx hg
    · rw [NMap.getD_set_ne _ _ _ hk]
  simp only [State.setSpine, State.but, State.take, State.spineAt, State.cmd?, hf .flow (by decide), Bool.or_true, cond_true, e]

@[simp] theorem State.modDir_but (hf : Covers X [.flow]) (s : State) (a b : Nat) (f : SpineDir → SpineDir) : (s.modDir a b f).but X = s.but X :=
  State.setSpine_flow hf s a b _ rfl rfl
@[simp] theorem State.pumpSpine_but (h : Covers X wireFields) (s : State) (a b : Nat) : (s.pumpSpine a b).but X = s.but X := by
  unfold State.pumpSpine
  exact (State.but_spineOut (h.mono (by decide)) _ _).trans (State.setSpine_flow (h.mono (by decide)) s a b _ rfl rfl)

@[simp] theorem State.launch_but (h : Covers X wireFields) (s : State) (m : SpineMsg) : (s.launch m).but X = s.but X := by
  unfold State.launch
  exact (State.pumpSpine_but h _ _ _).trans (State.modDir_but (h.mono (by decide)) s _ _ _)

@[simp] theorem State.sendMsg_but (h : Covers X sendFields) (s : State) (m : SpineMsg) : (s.sendMsg m).but X = s.but X := by
  unfold State.sendMsg
  exact (State.launch_but (h.mono (by decide)) _ _).trans (State.but_streams (h.mono (by decide)) _ _)

/-- A message of a channel other than 0 leaves the streams of channel 0. -/
@[simp] theorem State.sendMsg_bulk (h : Covers X lineFields) (s : State) (m : SpineMsg) (hc : m.channel % 4 ≠ 0) : (s.sendMsg m).but X = s.but X := by
  have hk : ∀ k, 4 * k ≠ streamKey m.src m.dst m.channel := fun k => by unfold streamKey; omega
  have e : ∀ (x : Stream) k, NMap.get? (NMap.set s.streams (streamKey m.src m.dst m.channel) x) (4 * k) = NMap.get? s.streams (4 * k) :=
    fun x k => NMap.get?_set_ne _ _ (hk k)
  unfold State.sendMsg
  refine (State.launch_but (h.mono (by decide)) _ _).trans ?_
  simp only [State.but, State.take, State.spineAt, State.cmd?, h .bulk (by decide), Bool.or_true, cond_true, e]

@[simp] theorem State.sendSpine_but (h : Covers X sendFields) (s : State) (src dst ch : Nat) (p : Bytes) : (s.sendSpine src dst ch p).but X = s.but X :=
  State.sendMsg_but h s _
@[simp] theorem State.sendSized_bulk (h : Covers X lineFields) (s : State) (src dst ch size n : Nat) (hc : ch % 4 ≠ 0) :
    (s.sendSized src dst ch size n).but X = s.but X :=
  foldl_but _ _ _ fun a _ => State.sendMsg_bulk h a _ hc

@[simp] theorem State.sendSized_but (h : Covers X sendFields) (s : State) (src dst ch size n : Nat) : (s.sendSized src dst ch size n).but X = s.but X :=
  foldl_but _ _ _ fun a _ => State.sendMsg_but h a _
theorem State.takeNumber_but (h : Covers X [.streams, .bulk]) (s : State) (src dst ch : Nat) (n : BitVec 32) {t : State} (e : s.takeNumber src dst ch n = some t) :
    t.but X = s.but X := by
  unfold State.takeNumber at e
  split at e
  · cases e; rfl
  · dsimp only at e
    split at e
    · cases e; exact State.but_streams (h.mono (by decide)) _ _
    · cases e

@[simp] theorem State.sendSpineFor_but (hX : Covers X (sendFields ++ meterFields)) (s : State) (part src dst ch : Nat) (p : Bytes) :
    (s.sendSpineFor part src dst ch p).but X = s.but X := by
  simp (disch := (apply hX.mono; decide)) [State.sendSpineFor]

@[simp] theorem State.farLines_but (h : Covers X (lineFields ++ meterFields)) (s : State) (part die home n : Nat) (write : Bool) :
    (s.farLines part die home n write).but X = s.but X := by
  unfold State.farLines
  split
  · rfl
  · dsimp only
    rw [State.sendSized_bulk (h.mono (by decide)) _ _ _ _ _ _ (by decide), State.sendSized_bulk (h.mono (by decide)) _ _ _ _ _ _ (by decide),
      State.request_but (h.mono (by decide)), State.request_but (h.mono (by decide))]

@[simp] theorem State.farAdds_but (h : Covers X (lineFields ++ meterFields)) (s : State) (part die home len : Nat) :
    (s.farAdds part die home len).but X = s.but X := by
  unfold State.farAdds
  split
  · rfl
  · rw [State.sendSized_bulk (h.mono (by decide)) _ _ _ _ _ _ (by decide), State.request_but (h.mono (by decide))]

/-- Every spine link changes without its fence and generation. -/
theorem State.mapSpine_flow (hf : Covers X [.flow]) (s : State) (f : SpineLink → SpineLink) (h : ∀ l, (f l).fenced = l.fenced ∧ (f l).gen = l.gen) :
    State.but X { s with spine := s.spine.map (fun l => (l.1, f l.2)) } = s.but X := by
  have e : ∀ k, ((NMap.getD (s.spine.map (fun l => (l.1, f l.2))) k {}).fenced, (NMap.getD (s.spine.map (fun l => (l.1, f l.2))) k {}).gen) =
      ((NMap.getD s.spine k {}).fenced, (NMap.getD s.spine k {}).gen) := fun k => by
    unfold NMap.getD
    rw [NMap.get?_map_snd]
    cases NMap.get? s.spine k with
    | none => rfl
    | some l => exact Prod.ext (h l).1 (h l).2
  simp only [State.but, State.take, State.spineAt, State.cmd?, hf .flow (by decide), Bool.or_true, cond_true, e]

@[simp] theorem State.resend_but (h : Covers X wireFields) (s : State) (a b : Nat) : (s.resend a b).but X = s.but X := by
  unfold State.resend
  have e : ∀ strip : SpineDir → SpineDir, State.but X { s with spine := s.spine.map fun l => (l.1, { l.2 with dirs := l.2.dirs.map strip }) } = s.but X :=
    fun strip => State.mapSpine_flow (h.mono (by decide)) s (fun l => { l with dirs := l.dirs.map strip }) fun _ => ⟨rfl, rfl⟩
  exact (foldl_but _ _ _ fun z (m : SpineMsg) => State.launch_but h z m).trans (e _)

@[simp] theorem State.crossed_but (h : Covers X wireFields) (s : State) (m : SpineMsg) (a b : Nat) : (s.crossed m a b).but X = s.but X := by
  unfold State.crossed
  dsimp only
  rw [State.pumpSpine_but h, State.modDir_but (h.mono (by decide))]
  exact State.setSpine_flow (h.mono (by decide)) s a b _ rfl rfl

@[simp] theorem State.landed_but (h : Covers X wireFields) (s : State) (m : SpineMsg) : (s.landed m).but X = s.but X := State.crossed_but h s m _ _
@[simp] theorem State.forward_but (h : Covers X wireFields) (s : State) (m : SpineMsg) : (s.forward m).but X = s.but X := by
  unfold State.forward
  dsimp only
  rw [State.pumpSpine_but h, State.modDir_but (h.mono (by decide)), State.crossed_but h]

@[simp] theorem State.rerouted_but (hX : Covers X wireFields) (s old : State) : (s.rerouted old).but X = s.but X := by
  refine foldl_but _ _ _ fun a p => ?_
  split
  · rfl
  · exact State.resend_but hX a _ _

@[simp] theorem State.touchLine_but (h : Covers X (.stores :: meterFields)) (s : State) (part line : Nat) (write pin : Bool) :
    (s.touchLine part line write pin).but X = s.but X := by
  unfold State.touchLine
  dsimp only
  refine (foldl_but _ _ _ fun a e => State.request_but (h.mono (by decide)) a _ _ _).trans ?_
  have hd : (s.setDie (homeOf (line * 128)) ((s.dieAt (homeOf (line * 128))).touch line write pin)).but X = s.but X :=
    State.setDie_stores (h.mono (by decide)) s _ _ (DieState.touch_lasting _ _ _ _)
  split
  · exact (State.request_but (h.mono (by decide)) _ _ _ _).trans hd
  · exact hd

/-- The tiles of a quire change alone. -/
theorem State.modQuire_tiles (hs : Covers X [.stores]) (s : State) (d p : Nat) (f : Quire → Quire) (hf : ∀ q, { f q with tiles := [] } = { q with tiles := [] }) :
    (s.modQuire d p f).but X = s.but X := by
  refine State.setDie_stores hs s d _ ?_
  have e : ((s.dieAt d).quires.modify p f).map (fun q => { q with tiles := [] }) = (s.dieAt d).quires.map (fun q => { q with tiles := [] }) :=
    map_modify_of_eq _ _ _ _ hf
  simp only [DieState.lasting, e]

theorem State.setQuire_tiles (hs : Covers X [.stores]) (s : State) (d p : Nat) (q : Quire) (hq : { q with tiles := [] } = { s.quireAt d p with tiles := [] }) :
    (s.setQuire d p q).but X = s.but X := by
  refine State.setDie_stores hs s d _ ?_
  have e : ((s.dieAt d).quires.set p q).map (fun q => { q with tiles := [] }) = (s.dieAt d).quires.map (fun q => { q with tiles := [] }) :=
    map_set_of_getD _ _ _ _ ({} : Quire) hq
  simp only [DieState.lasting, e]

@[simp] theorem State.modQuire_but (h : Covers X [.dies, .stores]) (s : State) (d p : Nat) (f : Quire → Quire) : (s.modQuire d p f).but X = s.but X :=
  State.setDie_but h s d _
@[simp] theorem State.openTiles_but (h : Covers X [.stores]) (s : State) (d p plane cmd : Nat) (tiles : List Nat) : (s.openTiles d p plane cmd tiles).but X = s.but X :=
  State.modQuire_tiles h s d p _ fun _ => rfl
@[simp] theorem State.fillTile_but (h : Covers X [.stores]) (s : State) (d p cmd tile : Nat) (elems : NMap Acc) : (s.fillTile d p cmd tile elems).but X = s.but X :=
  State.modQuire_tiles h s d p _ fun _ => rfl
@[simp] theorem State.discardTiles_but (h : Covers X [.stores]) (s : State) (cmd : Nat) : (s.discardTiles cmd).but X = s.but X :=
  State.mapDies_stores h s _ fun x => by simp only [DieState.lasting, List.map_map, Function.comp_def]
@[simp] theorem State.dropCopies_but (h : Covers X [.stores]) (s : State) (key version ingot : Nat) : (s.dropCopies key version ingot).but X = s.but X :=
  State.mapDies_stores h s _ fun _ => rfl
@[simp] theorem State.dropKey_but (h : Covers X [.stores]) (s : State) (key : Nat) : (s.dropKey key).but X = s.but X :=
  State.mapDies_stores h s _ fun _ => rfl
@[simp] theorem State.stageAt_but (h : Covers X [.stores]) (s : State) (d q : Nat) (c : T0Copy) : (s.stageAt d q c).but X = s.but X :=
  State.setDie_stores h s d _ rfl
@[simp] theorem State.touchFrame_but (h : Covers X (.stores :: meterFields)) (s : State) (d n off len : Nat) (write : Bool) :
    (s.touchFrame d n off len write).but X = s.but X := by
  unfold State.touchFrame
  split
  · exact foldl_but _ _ _ fun a i => State.touchLine_but h a _ _ _ _
  · rfl

@[simp] theorem State.freeFrame_but (h : Covers X [.frames, .poison, .stores]) (s : State) (d n : Nat) : (s.freeFrame d n).but X = s.but X := by
  unfold State.freeFrame
  split
  · dsimp only
    rw [State.dropKey_but (h.mono (by decide)), State.setFrames_but (h.mono (by decide))]
    exact State.setStack_poison (h.mono (by decide)) s _ _ rfl
  · rfl

@[simp] theorem State.setErrs_but (hX : Covers X [.errs]) (s : State) (d : Nat) (m : NMap ErrRec) : (s.setErrs d m).but X = s.but X := by
  simp (disch := (apply hX.mono; decide)) [State.setErrs]

@[simp] theorem State.refreshAttn_but (hX : Covers X [.attn]) (s : State) : s.refreshAttn.but X = s.but X := by
  simp only [State.refreshAttn, State.but, State.take, State.spineAt, State.cmd?, hX .attn (by decide), Bool.or_true, cond_true]
@[simp] theorem State.notifyErr_but (h : Covers X reportFields) (s : State) (d slot : Nat) : (s.notifyErr d slot).but X = s.but X := by
  have hm : Covers X vectorFields := h.mono (by decide)
  unfold State.notifyErr
  split
  · rfl
  · next r _ =>
    have hp : ∀ s3 : State, s3.but X = s.but X →
        State.but X (if 5 ≤ r.severity then { s3 with pldmOut := s3.pldmOut ++ [r.origin] } else s3) = s.but X := fun s3 h3 => by
      split
      · exact (State.but_pldmOut (h.mono (by decide)) _ _).trans h3
      · exact h3
    dsimp only
    rw [State.refreshAttn_but (h.mono (by decide))]
    refine hp _ ?_
    repeat' split
    all_goals simp only [State.but_windows (h.mono (by decide)) _ , State.sendMsix_but hm,
      State.setErrs_but (h.mono (by decide))]

@[simp] theorem State.countDropped_but (hX : Covers X [.dropped]) (s : State) : s.countDropped.but X = s.but X := by
  simp (disch := (apply hX.mono; decide)) [State.countDropped]

@[simp] theorem State.report_but (hX : Covers X reportFields) (s : State) (r : Report) : (s.report r).but X = s.but X := by
  unfold State.report
  dsimp only
  repeat' split
  all_goals simp (disch := (apply hX.mono; decide))

@[simp] theorem State.protocolHs_but (hX : Covers X reportFields) (s : State) (info : Nat) : (s.protocolHs info).but X = s.but X := by
  simp (disch := (apply hX.mono; decide)) [State.protocolHs]

@[simp] theorem State.clearErr_but (hX : Covers X [.attn, .errs]) (s : State) (d slot : Nat) : (s.clearErr d slot).but X = s.but X := by
  simp (disch := (apply hX.mono; decide)) [State.clearErr]

@[simp] theorem State.clearErrs_but (hX : Covers X [.attn, .errs]) (s : State) (d : Nat) : (s.clearErrs d).but X = s.but X := by
  simp (disch := (apply hX.mono; decide)) [State.clearErrs]

@[simp] theorem State.clearErrPending_but (hX : Covers X [.attn, .errs]) (s : State) (d slot : Nat) : (s.clearErrPending d slot).but X = s.but X := by
  simp (disch := (apply hX.mono; decide)) [State.clearErrPending]

@[simp] theorem State.clearDiePending_but (hX : Covers X [.attn, .errs]) (s : State) (d : Nat) : (s.clearDiePending d).but X = s.but X := by
  simp (disch := (apply hX.mono; decide)) [State.clearDiePending]

@[simp] theorem State.enterFatal_but (h : Covers X (.fatal :: reportFields)) (s : State) (origin : Nat) : (s.enterFatal origin).but X = s.but X := by
  unfold State.enterFatal
  split
  · rfl
  · rw [State.refreshAttn_but (h.mono (by decide)), State.report_but (h.mono (by decide)), State.but_fatal (h.mono (by decide)) _]

@[simp] theorem execErrorDeferredNotify_but (h : Covers X (.counters :: reportFields)) (die slot : Nat) (t : Word) (s : State) :
    SameBut X s (execErrorDeferredNotify die slot t s) := by
  unfold execErrorDeferredNotify
  dsimp only
  repeat' split
  all_goals simp only [sameBut_next, State.notifyErr_but (h.mono (by decide)), State.reach_but (h.mono (by decide))]

@[simp] theorem execErrClearAll_but (hX : Covers X [.attn, .errs]) (die : Nat) (s : State) : SameBut X s (execErrClearAll die s) := by
  simp (disch := (apply hX.mono; decide)) [execErrClearAll]

@[simp] theorem execErrClearPendingOnly_but (hX : Covers X [.attn, .errs]) (die slot : Nat) (s : State) : SameBut X s (execErrClearPendingOnly die slot s) := by
  simp (disch := (apply hX.mono; decide)) [execErrClearPendingOnly]

@[simp] theorem execErrClearSlot_but (hX : Covers X [.attn, .errs]) (die slot : Nat) (s : State) : SameBut X s (execErrClearSlot die slot s) := by
  simp (disch := (apply hX.mono; decide)) [execErrClearSlot]

@[simp] theorem execErrSummaryPendingClear_but (h : Covers X [.attn, .errs]) (mask : Nat) (s : State) : SameBut X s (execErrSummaryPendingClear mask s) := by
  unfold execErrSummaryPendingClear
  split
  · exact (sameBut_next _ _).2 (foldl_but _ _ _ fun a d => State.clearDiePending_but h a d)
  · exact (sameBut_next _ _).2 rfl

@[simp] theorem execVfErrPendingClear_but (h : Covers X [.windows]) (pf : Bool) (part mask : Nat) (s : State) : SameBut X s (execVfErrPendingClear pf part mask s) := by
  unfold execVfErrPendingClear
  dsimp only
  split
  · exact (sameBut_next _ _).2 (State.but_windows (h.mono (by decide)) _ _)
  · exact (sameBut_next _ _).2 rfl

@[simp] theorem State.setSub_but (hX : Covers X [.subs]) (s : State) (owner ring : Nat) (r : SubRing) : (s.setSub owner ring r).but X = s.but X := by
  simp (disch := (apply hX.mono; decide)) [State.setSub]

@[simp] theorem State.setComp_but (hX : Covers X [.comps]) (s : State) (owner cq : Nat) (r : CompRing) : (s.setComp owner cq r).but X = s.but X := by
  simp (disch := (apply hX.mono; decide)) [State.setComp]

@[simp] theorem State.setCmd_but (hX : Covers X [.cmds, .progress]) (s : State) (id : Nat) (c : Cmd) : (s.setCmd id c).but X = s.but X := by
  simp (disch := (apply hX.mono; decide)) [State.setCmd]

@[simp] theorem State.fireCq_but (hX : Covers X (vectorFields ++ [.comps])) (s : State) (owner cq : Nat) : (s.fireCq owner cq).but X = s.but X := by
  simp only [State.fireCq]
  split <;> simp (disch := (apply hX.mono; decide))

@[simp] theorem State.pushRecord_but (hX : Covers X (hostFields ++ vectorFields ++ [.comps]))
    (s : State) (owner cq : Nat) (notify : Bool) (rec : Bool → Bytes) (reserved : Bool) : (s.pushRecord owner cq notify rec reserved).but X = s.but X := by
  simp only [State.pushRecord]
  split <;> simp (disch := (apply hX.mono; decide))

@[simp] theorem State.setFence_but (hX : Covers X [.fences, .cmds, .progress]) (s : State) (part f : Nat) (x : Fence) : (s.setFence part f x).but X = s.but X := by
  simp (disch := (apply hX.mono; decide)) [State.setFence]

@[simp] theorem State.recordFence_but (hX : Covers X [.fences, .cmds, .progress]) (s : State) (owner : Nat) (desc : Bytes) (status : Nat) :
    (s.recordFence owner desc status).but X = s.but X := by
  simp (disch := (apply hX.mono; decide)) [State.recordFence]

@[simp] theorem State.account_but (hX : Covers X [.subs, .parts]) (s : State) (owner ring home : Nat) (f : Acct → Acct) :
    (s.account owner ring home f).but X = s.but X := by
  simp (disch := (apply hX.mono; decide)) [State.account]

@[simp] theorem State.writeEnd_but (h : Covers X recordFields) (s : State) (id : Nat) (c : Cmd) (status detail : Nat) :
    (s.writeEnd id c status detail).but X = s.but X := by
  unfold State.writeEnd
  dsimp only
  rw [State.pushRecord_but (h.mono (by decide)), State.but_subs (h.mono (by decide)) _ , State.account_but (h.mono (by decide))]
  split
  · exact State.but_cmds (h.mono (by decide)) _ _
  · exact (State.recordFence_but (h.mono (by decide)) _ _ _ _).trans (State.but_cmds (h.mono (by decide)) _ _)

@[simp] theorem State.dropStaging_but (h : Covers X [.stores]) (s : State) (c : Cmd) : (s.dropStaging c).but X = s.but X := by
  unfold State.dropStaging
  split
  · exact foldl_but _ _ _ fun a e => State.setDie_stores h a _ _ rfl
  · rfl

/-- The objects change without their version bits and commit counts. -/
theorem State.objects_contents (hc : Covers X [.contents]) (s : State) (m : NMap Obj)
    (hm : ∀ k, (NMap.get? m k).map Obj.stamp = (NMap.get? s.objects k).map Obj.stamp) :
    State.but X { s with objects := m } = s.but X := by
  simp only [State.but, State.take, State.spineAt, State.cmd?, hc .contents (by decide), Bool.or_true, cond_true, hm]

theorem get?_modify_stamp (m : NMap Obj) (j : Nat) (f : Obj → Obj) (k : Nat) (hf : ∀ o, (f o).stamp = o.stamp) :
    (NMap.get? (NMap.modify m j f) k).map Obj.stamp = (NMap.get? m k).map Obj.stamp := by
  rw [NMap.get?_modify]
  split
  · rw [Option.map_map]
    exact congrArg (fun g => Option.map g (NMap.get? m k)) (funext hf)
  · rfl

/-- Every object changes without its version bits and commit count. -/
theorem get?_mapObjects_stamp (m : NMap Obj) (f : Nat × Obj → Nat × Obj) (k : Nat) (hf : ∀ x, (f x).1 = x.1 ∧ (f x).2.stamp = x.2.stamp) :
    (NMap.get? (m.map f) k).map Obj.stamp = (NMap.get? m k).map Obj.stamp := by
  induction m with
  | nil => rfl
  | cons p m ih =>
    rw [List.map_cons, NMap.get?_cons, NMap.get?_cons, (hf p).1]
    split
    · exact congrArg some (hf p).2
    · exact ih

/-- The tempers change, and the objects without their version bits and commit counts. -/
theorem State.tempers_contents (h : Covers X [.tempers, .contents]) (s : State) (t : NMap Temper) (m : NMap Obj)
    (hm : ∀ k, (NMap.get? m k).map Obj.stamp = (NMap.get? s.objects k).map Obj.stamp) :
    State.but X { s with tempers := t, objects := m } = s.but X := by
  simp only [State.but, State.take, State.spineAt, State.cmd?, h .tempers (by decide), h .contents (by decide), Bool.or_true, cond_true, hm]

/-- One holder of a frame lets go of it. -/
@[simp] theorem State.unshare_but (h : Covers X [.frames, .poison, .stores]) (s : State) (d n : Nat) :
    State.but X (match NMap.get? (s.framesOf d) n with
      | some x => if x.refs ≤ 1 then s.freeFrame d n else s.setFrames d (NMap.set (s.framesOf d) n { x with refs := x.refs - 1 })
      | none => s) = s.but X := by
  split
  · split
    · exact State.freeFrame_but h s d n
    · exact State.setFrames_but (h.mono (by decide)) s d _
  · rfl

/-- The draws returned take away extension marks, and no version. -/
theorem foldl_dropExtensions_versions (draws : List (Nat × Nat)) (m : NMap Obj) (k : Nat) :
    (NMap.get? (draws.foldl (fun m d => NMap.modify m d.1 Obj.dropExtensions) m) k).map Obj.stamp =
      (NMap.get? m k).map Obj.stamp := by
  induction draws generalizing m with
  | nil => rfl
  | cons d draws ih =>
    rw [List.foldl_cons, ih, NMap.get?_modify]
    split
    · rw [Option.map_map]; rfl
    · rfl

/-- The first half of `undo`: what a command holds is given back. -/
def State.giveBack (s : State) (c : Cmd) : State :=
  let s1 := c.frames.foldl (fun (a : State) (p : Nat × Nat) => a.freeFrame p.1 p.2) (s.dropStaging c)
  let unshare := fun (a : State) (p : Nat × Nat × Nat × Nat) =>
    match NMap.get? (a.framesOf p.2.1) p.2.2.1 with
    | some x =>
      if x.refs ≤ 1 then a.freeFrame p.2.1 p.2.2.1
      else a.setFrames p.2.1 (NMap.set (a.framesOf p.2.1) p.2.2.1 { x with refs := x.refs - 1 })
    | none => a
  let s2 := (c.leaves.filter (fun p => p.2.2.2 == 1)).foldl unshare s1
  if c.draws.isEmpty then s2
  else { s2 with tempers := NMap.modify s2.tempers (layerKey c.owner c.drawLayer) (fun t =>
      { t with reserveKib := t.reserveKib - (c.draws.map (·.2)).sum / 1024 }),
                  objects := c.draws.foldl (fun m d => NMap.modify m d.1 Obj.dropExtensions) s2.objects }

/-- The second half of `undo`: what the command's kind has marked is marked no more. -/
def State.unmark (s : State) (c : Cmd) : State :=
  if c.opcode = 0x45 ∧ c.phase = .executed then
    { s with plans := NMap.modify s.plans (planKey c.owner (dPlan c.desc)) (fun p => { p with retiring := false }) }
  else if c.opcode = 0x43 ∧ c.phase = .executed then
    if fld c.desc 18 1 = 0 then { s with subs := NMap.modify s.subs (ringKey c.owner (fld c.desc 16 2)) (fun r => { r with stopped := false }) }
    else { s with comps := NMap.modify s.comps (ringKey c.owner (fld c.desc 16 2)) (fun r => { r with stopped := false }) }
  else if c.opcode = 0x08 ∧ c.target.isSome then
    let e := s.engineAt (fld c.desc 17 1)
    s.setEngine (fld c.desc 17 1) { e with streams := NMap.erase e.streams (fld c.desc 18 1) }
  else if c.opcode = 0x0F ∧ c.target.isSome then
    { s with seqs := NMap.modify s.seqs (fld c.desc 16 4 % 2 ^ 18) (fun q => if q.state = .restoring then { q with state := .parked } else q) }
  else s

theorem State.undo_eq (s : State) (c : Cmd) : s.undo c = (s.giveBack c).unmark c := rfl

theorem State.giveBack_but (h : Covers X [.tempers, .contents, .frames, .poison, .stores]) (s : State) (c : Cmd) : (s.giveBack c).but X = s.but X := by
  have hf : Covers X [.frames, .poison, .stores] := h.mono (by decide)
  unfold State.giveBack
  dsimp only
  generalize e1 : (c.frames.foldl _ (s.dropStaging c) : State) = s1
  have h1 : s1.but X = s.but X := by
    subst e1
    exact (foldl_but _ _ _ fun a (p : Nat × Nat) => State.freeFrame_but hf a p.1 p.2).trans (State.dropStaging_but (h.mono (by decide)) s c)
  generalize e2 : (List.foldl _ s1 _ : State) = s2
  have h2 : s2.but X = s.but X := by
    subst e2
    exact (foldl_but _ _ _ fun a (p : Nat × Nat × Nat × Nat) => State.unshare_but hf a p.2.1 p.2.2.1).trans h1
  split
  · exact h2
  · exact (State.tempers_contents (h.mono (by decide)) s2 _ _ fun k => foldl_dropExtensions_versions c.draws s2.objects k).trans h2

theorem State.unmark_but (h : Covers X [.plans, .subs, .comps, .engines, .seqs]) (s : State) (c : Cmd) : (s.unmark c).but X = s.but X := by
  unfold State.unmark
  repeat' split
  · exact State.but_plans (h.mono (by decide)) s _
  · exact State.but_subs (h.mono (by decide)) s _
  · exact State.but_comps (h.mono (by decide)) s _
  · exact State.setEngine_but (h.mono (by decide)) s _ _
  · exact State.but_seqs (h.mono (by decide)) s _
  · rfl

@[simp] theorem State.undo_but (h : Covers X [.plans, .tempers, .contents, .seqs, .frames, .poison, .stores, .subs, .comps, .engines]) (s : State) (c : Cmd) :
    (s.undo c).but X = s.but X := by
  rw [State.undo_eq, State.unmark_but (h.mono (by decide)), State.giveBack_but (h.mono (by decide))]

@[simp] theorem State.farewell_but (h : Covers X (.linkOut :: hostFields)) (s : State) (c : Cmd) (status detail : Nat) :
    (s.farewell c status detail).but X = s.but X := by
  unfold State.farewell
  dsimp only
  repeat' split
  all_goals try simp only [State.sendLink_but (h.mono (by decide)), State.hostWrite_but (h.mono (by decide))]
  all_goals
    refine foldl_but _ _ _ fun a m => ?_
    split
    · rfl
    · exact State.sendLink_but (h.mono (by decide)) a _ _

@[simp] theorem State.reportPoison_but (hX : Covers X (reportFields ++ [.fresh])) (s : State) (owner status detail : Nat) :
    (s.reportPoison owner status detail).but X = s.but X := by
  simp (disch := (apply hX.mono; decide)) [State.reportPoison]

@[simp] theorem State.failCmd_but (h : Covers X failFields) (s : State) (id status detail : Nat) : (s.failCmd id status detail).but X = s.but X := by
  unfold State.failCmd
  split
  · rfl
  · dsimp only
    rw [State.writeEnd_but (h.mono (by decide)), State.discardTiles_but (h.mono (by decide)), State.undo_but (h.mono (by decide)),
      State.farewell_but (h.mono (by decide)), State.reportPoison_but (h.mono (by decide)), State.takeFresh_but (h.mono (by decide))]

@[simp] theorem State.failRun_but (hX : Covers X failFields) (s : State) (id : Nat) (c : Cmd) (f : Nat × Nat) : (s.failRun id c f).but X = s.but X := by
  simp only [State.failRun]
  split <;> simp (disch := (apply hX.mono; decide))

@[simp] theorem State.finish_but (hX : Covers X recordFields) (s : State) (id status detail : Nat) : (s.finish id status detail).but X = s.but X := by
  simp only [State.finish]
  split <;> simp (disch := (apply hX.mono; decide))

@[simp] theorem State.dropCmd_but (h : Covers X (hostFields ++ [.cmds, .progress, .linkOut, .plans, .tempers, .contents, .seqs, .frames, .poison, .stores, .subs, .comps, .engines]))
    (s : State) (id : Nat) : (s.dropCmd id).but X = s.but X := by
  unfold State.dropCmd
  split
  · rfl
  · refine (State.but_comps (h.mono (by decide)) _ _).trans ((State.but_cmds (h.mono (by decide)) _ _).trans ?_)
    rw [State.discardTiles_but (h.mono (by decide)), State.undo_but (h.mono (by decide)), State.farewell_but (h.mono (by decide))]

@[simp] theorem State.serve_but (h : Covers X [.fresh, .subs]) (s : State) (c : Cmd) (die : Nat) : (s.serve c die).but X = s.but X :=
  (State.but_subs (h.mono (by decide)) _ _).trans (State.takeFresh_but (h.mono (by decide)) s)
@[simp] theorem State.killCmd_but (h : Covers X [.fresh, .subs, .parts, .cmds, .progress, .stores]) (s : State) (id : Nat) (preempt : Bool) :
    (s.killCmd id preempt).but X = s.but X := by
  unfold State.killCmd
  split
  · rfl
  · dsimp only
    rw [State.setCmd_but (h.mono (by decide)), foldl_but _ _ _ fun a k => State.serve_but (h.mono (by decide)) a _ _,
      State.discardTiles_but (h.mono (by decide)), State.dropStaging_but (h.mono (by decide)), State.account_but (h.mono (by decide)),
      State.takeFresh_but (h.mono (by decide))]

@[simp] theorem State.withCmd_but (s : State) (id : Nat) (f : State → Nat → Cmd → State) (hf : ∀ c, (f s id c).but X = s.but X) :
    (s.withCmd id f).but X = s.but X := by
  unfold State.withCmd
  split
  · exact hf _
  · rfl

@[simp] theorem State.startCmd_but (hX : Covers X [.cmds, .progress]) (s : State) (id : Nat) : (s.startCmd id).but X = s.but X := by
  simp only [State.startCmd]
  split <;> simp (disch := (apply hX.mono; decide))

@[simp] theorem State.quarantinePart_but (h : Covers X failFields) (s : State) (part origin : Nat) : (s.quarantinePart part origin).but X = s.but X := by
  unfold State.quarantinePart
  split
  · rfl
  · split
    · rfl
    · exact (foldl_but _ _ _ fun a x => State.failCmd_but h a _ _ _).trans (State.but_parts (h.mono (by decide)) _ _)

@[simp] theorem tailDoorbell_but (hX : Covers X (reportFields ++ [.host, .subs])) (fn off width value : Nat) (stores : List Host.Cell) (s : State) :
    (tailDoorbell fn off width value stores s).but X = s.but X := by
  unfold tailDoorbell
  dsimp only
  repeat' split
  all_goals simp (disch := (apply hX.mono; decide))

@[simp] theorem headDoorbell_but (hX : Covers X (reportFields ++ [.comps])) (fn off width value : Nat) (s : State) :
    (headDoorbell fn off width value s).but X = s.but X := by
  unfold headDoorbell
  repeat' split
  all_goals simp (disch := (apply hX.mono; decide))

@[simp] theorem execSubmissionTailDoorbell_but (hX : Covers X (reportFields ++ [.host, .subs]))
    (fn off width value : Nat) (stores : List Host.Cell) (s : State) : SameBut X s (execSubmissionTailDoorbell fn off width value stores s) := by
  simp (disch := (apply hX.mono; decide)) [execSubmissionTailDoorbell]

@[simp] theorem execResume_but (hX : Covers X (reportFields ++ [.host, .subs])) (fn off width value : Nat) (stores : List Host.Cell) (s : State) :
    SameBut X s (execResume fn off width value stores s) := by
  simp (disch := (apply hX.mono; decide)) [execResume]

@[simp] theorem execCompletionHeadDoorbell_but (hX : Covers X (reportFields ++ [.comps])) (fn off width value : Nat) (s : State) :
    SameBut X s (execCompletionHeadDoorbell fn off width value s) := by
  simp (disch := (apply hX.mono; decide)) [execCompletionHeadDoorbell]

@[simp] theorem execArm_but (hX : Covers X (reportFields ++ [.comps])) (fn off width value : Nat) (s : State) : SameBut X s (execArm fn off width value s) := by
  simp (disch := (apply hX.mono; decide)) [execArm]

@[simp] theorem execModTimeExpiry_but (hX : Covers X (vectorFields ++ [.counters, .comps])) (owner cq : Nat) (t : Word) (s : State) :
    SameBut X s (execModTimeExpiry owner cq t s) := by
  simp only [execModTimeExpiry]
  split <;> simp (disch := (apply hX.mono; decide))

@[simp] theorem execMsixUnmask_but (h : Covers X vectorFields) (fn : Nat) (vec : Option Nat) (s : State) : SameBut X s (execMsixUnmask fn vec s) :=
  (sameBut_next _ _).2 ((State.flushMsix_but h _ fn).trans (State.but_msix (h.mono (by decide)) _ _))
@[simp] theorem execAtsInvalidationRequest_but (h : Covers X [.atc]) (fn page size : Nat) (s : State) : SameBut X s (execAtsInvalidationRequest fn page size s) :=
  (sameBut_next _ _).2 (State.but_atc (h.mono (by decide)) _ _)
@[simp] theorem fetchDma_but (hX : Covers X dmaFields) (fn n : Nat) (r : SubRing) (s : State) : (fetchDma fn n r s).but X = s.but X := by
  simp (disch := (apply hX.mono; decide)) [fetchDma]

@[simp] theorem State.fetchRing_but (hX : Covers X (hostFields ++ [.subs])) (s : State) (owner ring n : Nat) : (s.fetchRing owner ring n).but X = s.but X := by
  simp only [State.fetchRing]
  split <;> simp (disch := (apply hX.mono; decide))

@[simp] theorem State.fetchTimes_but (h : Covers X (.subs :: hostFields)) (owner ring : Nat) : ∀ (n : Nat) (s : State), (State.fetchTimes owner ring n s).but X = s.but X
  | 0, _ => rfl
  | n + 1, s => (State.fetchTimes_but h owner ring n _).trans (State.fetchRing_but (h.mono (by decide)) s owner ring 32)

@[simp] theorem State.fetchRest_but (h : Covers X (.subs :: hostFields)) (s : State) (owner ring : Nat) : (s.fetchRest owner ring).but X = s.but X := by
  unfold State.fetchRest
  split
  · exact State.fetchTimes_but h owner ring _ s
  · rfl

@[simp] theorem execDescriptorFetch_but (hX : Covers X (hostFields ++ [.subs])) (owner ring : Nat) (s : State) :
    SameBut X s (execDescriptorFetch owner ring s) := by
  simp (disch := (apply hX.mono; decide)) [execDescriptorFetch]

/-- A control command does nothing, fails, or runs its effect. -/
theorem control_but (h : Covers X failFields) (op : Nat) (sel : Cmd → Bool) (f : Cmd → State → State) (cmd : Nat) (s : State)
    (hf : ∀ c, (f c s).but X = s.but X) : (control op sel f cmd s).but X = s.but X := by
  rcases control_cases op sel f cmd s with e | ⟨stream, e⟩ | ⟨c, e⟩
  · rw [e]
  · rw [e, State.failCmd_but h]
  · rw [e, hf]

/-- What a control command's judgement leaves of the state when it is a success. -/
def JudgeBut (X : Field → Bool) (s : State) (r : Except (Nat × Nat) (State × Nat × Nat)) : Prop := ∀ x, r = .ok x → x.1.but X = s.but X

@[simp] theorem judgeBut_ok (s : State) (x : State × Nat × Nat) : JudgeBut X s (.ok x) ↔ x.1.but X = s.but X := by
  simp [JudgeBut]
@[simp] theorem judgeBut_error (s : State) (f : Nat × Nat) : JudgeBut X s (.error f) := by
  simp [JudgeBut]
@[simp] theorem judgeBut_ite (s : State) (p : Prop) [Decidable p] (a b : Except (Nat × Nat) (State × Nat × Nat)) :
    JudgeBut X s (if p then a else b) ↔ if p then JudgeBut X s a else JudgeBut X s b := by
  split <;> rfl

@[simp] theorem State.settle_but (h : Covers X failFields) (s : State) (id : Nat) (r : Except (Nat × Nat) (State × Nat × Nat)) (hr : JudgeBut X s r) :
    (s.settle id r).but X = s.but X := by
  unfold State.settle
  split
  · simp (disch := (apply h.mono; decide))
  · simp (disch := (apply h.mono; decide)) [hr _ rfl]

@[simp] theorem execBarrier_but (hX : Covers X recordFields) (cmd : Nat) (s : State) : SameBut X s (execBarrier cmd s) := by
  simp only [execBarrier]
  split <;> simp (disch := (apply hX.mono; decide))

@[simp] theorem signal_but (hX : Covers X recordFields) (op : Nat) (f : Fence → Word → Fence) (cmd : Nat) (s : State) : (signal op f cmd s).but X = s.but X := by
  simp only [signal]
  split <;> simp (disch := (apply hX.mono; decide))

@[simp] theorem execSignalAdd_but (hX : Covers X recordFields) (cmd : Nat) (s : State) : SameBut X s (execSignalAdd cmd s) := by
  simp (disch := (apply hX.mono; decide)) [execSignalAdd]

@[simp] theorem execSignalSet_but (hX : Covers X recordFields) (cmd : Nat) (s : State) : SameBut X s (execSignalSet cmd s) := by
  simp (disch := (apply hX.mono; decide)) [execSignalSet]

@[simp] theorem execSignalPoison_but (hX : Covers X recordFields) (cmd : Nat) (s : State) : SameBut X s (execSignalPoison cmd s) := by
  simp (disch := (apply hX.mono; decide)) [execSignalPoison]

@[simp] theorem execWait_but (hX : Covers X recordFields) (cmd : Nat) (s : State) : SameBut X s (execWait cmd s) := by
  simp only [execWait]
  repeat' split
  all_goals simp (disch := (apply hX.mono; decide))

@[simp] theorem execWaitTimeout_but (hX : Covers X (recordFields ++ [.counters])) (cmd : Nat) (t : Word) (s : State) : SameBut X s (execWaitTimeout cmd t s) := by
  simp only [execWaitTimeout]
  split <;> simp (disch := (apply hX.mono; decide))

end
end Sys2Proof.Machine
end

section
/-! PROOF. The frame of each operation: what the operations on objects leave of the state. -/

namespace Sys2Proof.Machine
section
variable {X : Field → Bool}

theorem State.setObj_contents (hc : Covers X [.contents]) (s : State) (k : Nat) (o : Obj) {o0 : Obj} (h0 : NMap.get? s.objects k = some o0)
    (hv : o.stamp = o0.stamp) : (s.setObj k o).but X = s.but X := by
  refine State.objects_contents hc s _ fun j => ?_
  by_cases hj : j = k
  · rw [hj, NMap.get?_set_same, h0]; exact congrArg some hv
  · rw [NMap.get?_set_ne _ _ hj]

@[simp] theorem State.setObj_but (h : Covers X [.objects, .contents]) (s : State) (k : Nat) (o : Obj) : (s.setObj k o).but X = s.but X :=
  State.but_objects (h.mono (by decide)) _ _
@[simp] theorem State.commitObjects_but (hX : Covers X [.objects, .contents]) (s : State) (c : Cmd) : (s.commitObjects c).but X = s.but X := by
  unfold State.commitObjects
  refine foldl_but _ _ _ fun a x => ?_
  repeat' split
  all_goals simp (disch := (apply hX.mono; decide))

@[simp] theorem State.commitDie_but (hX : Covers X [.objects, .contents]) (s : State) (c : Cmd) (d : Nat) : (s.commitDie c d).but X = s.but X := by
  unfold State.commitDie
  refine foldl_but _ _ _ fun a x => ?_
  repeat' split
  all_goals simp (disch := (apply hX.mono; decide))

@[simp] theorem State.commitCounts_but (hX : Covers X [.objects, .contents]) (s : State) (c : Cmd) : (s.commitCounts c).but X = s.but X := by
  unfold State.commitCounts
  refine foldl_but _ _ _ fun a x => ?_
  repeat' split
  all_goals simp (disch := (apply hX.mono; decide))

@[simp] theorem State.completeCommit_but (h : Covers X (recordFields ++ [.objects, .contents])) (s : State) (link : Bool) (id : Nat) (c : Cmd) :
    (s.completeCommit link id c).but X = s.but X := by
  have h1 : State.but X (c.waitDies.foldl (fun (a : State) d => a.commitDie c d) s) = s.but X :=
    foldl_but _ _ _ fun a d => State.commitDie_but (h.mono (by decide)) a c d
  unfold State.completeCommit
  split
  · exact (State.finish_but (h.mono (by decide)) _ _ _ _).trans h1
  · exact (State.but_subs (h.mono (by decide)) _ _).trans ((State.but_cmds (h.mono (by decide)) _ _).trans h1)

@[simp] theorem State.capture_but (hX : Covers X [.cmds, .progress]) (s : State) (id : Nat) : (s.capture id).but X = s.but X := by
  simp only [State.capture]
  split <;> simp (disch := (apply hX.mono; decide))

@[simp] theorem State.writeBack_but (h : Covers X (hostFields ++ meterFields ++ [.contents])) (s : State) (key n : Nat) :
    (s.writeBack key n).but X = s.but X := by
  unfold State.writeBack
  split
  · next o ho =>
    dsimp only
    split
    · refine (State.setObj_contents (h.mono (by decide)) _ key _ (o0 := o) ?_ ?_).trans ?_
      · have hr : ∀ q p k, (s.request q p k).objects = s.objects := fun q p k => congrArg (·.state.objects) (State.request_but (covers_among _) s q p k)
        rw [State.bulkWrite_objects, hr, ho]
      · rfl
      · rw [State.bulkWrite_but (h.mono (by decide)), State.request_but (h.mono (by decide))]
    · rfl
  · rfl

@[simp] theorem State.evict_but (hX : Covers X cacheFields) (s : State) (e : Nat × Nat × Nat) : (s.evict e).but X = s.but X := by
  simp only [State.evict]
  split <;> simp (disch := (apply hX.mono; decide))

@[simp] theorem State.shrinkCache_but (h : Covers X cacheFields) (s : State) (part d : Nat) : (s.shrinkCache part d).but X = s.but X := by
  refine foldl_but _ _ _ fun a e => ?_
  split
  · rfl
  · exact State.evict_but h a e

@[simp] theorem State.cacheT3_but (hX : Covers X cacheFields) (s : State) (key v n len : Nat) (runs : List (Nat × Nat)) :
    (s.cacheT3 key v n len runs).but X = s.but X := by
  simp only [State.cacheT3]
  split <;> simp (disch := first | (apply hX.mono; decide) | (intros; simp (disch := (apply hX.mono; decide))))

@[simp] theorem State.touchSlot_but (hX : Covers X (meterFields ++ [.stores])) (s : State) (part : Nat) (o : Obj) (v n off len : Nat) (write : Bool) :
    (s.touchSlot part o v n off len write).but X = s.but X := by
  unfold State.touchSlot
  split
  · rfl
  · refine foldl_but _ _ _ fun a d => foldl_but _ _ _ fun b i => ?_
    split <;> simp (disch := (apply hX.mono; decide))

@[simp] theorem State.moved_but (hX : Covers X (cacheFields ++ [.stores])) (s : State) (key v n off len : Nat) : (s.moved key v n off len).but X = s.but X := by
  simp only [State.moved]
  split <;> simp (disch := (apply hX.mono; decide))

@[simp] theorem State.filled_but (h : Covers X (.stores :: cacheFields)) (s : State) (key : Nat) : (s.filled key).but X = s.but X := by
  unfold State.filled
  split
  · exact foldl_but _ _ _ fun a v => foldl_but _ _ _ fun b n => State.moved_but (h.mono (by decide)) b _ _ _ _ _
  · rfl

@[simp] theorem State.readMoved_but (hX : Covers X (cacheFields ++ [.stores])) (s : State) (key v n : Nat) : (s.readMoved key v n).but X = s.but X := by
  simp only [State.readMoved]
  split <;> simp (disch := first | (apply hX.mono; decide) | (intros; simp (disch := (apply hX.mono; decide))))

@[simp] theorem Obj.putSlot_stamp (o : Obj) (v n : Nat) (b : Bytes) : (o.putSlot v n b).stamp = o.stamp := by
  simp only [Obj.putSlot]
  split <;> rfl

@[simp] theorem Obj.putExt_stamp (o : Obj) (v n : Nat) (b : Bytes) : (o.putExt v n b).stamp = o.stamp := by
  simp only [Obj.putExt]
  split <;> rfl

@[simp] theorem Obj.putBytes_stamp (o : Obj) (v off : Nat) (b : Bytes) : (o.putBytes v off b).stamp = o.stamp := by
  simp only [Obj.putBytes]
  split <;> rfl

@[simp] theorem Obj.putRefExt_stamp (o : Obj) (v off : Nat) (b : Option Bytes) : (o.putRefExt v off b).stamp = o.stamp := by
  simp only [Obj.putRefExt]
  repeat' split
  all_goals rfl

theorem foldl_stamp {α : Type} (f : Obj → α → Obj) (l : List α) (o : Obj) (hf : ∀ (o : Obj) (x : α), (f o x).stamp = o.stamp) : (l.foldl f o).stamp = o.stamp := by
  induction l generalizing o with
  | nil => rfl
  | cons x l ih => exact (ih _).trans (hf _ _)

@[simp] theorem Obj.copySlot_stamp (o : Obj) (src dst n : Nat) : (o.copySlot src dst n).stamp = o.stamp := by
  have h2 : ∀ p : List Poison, Obj.stamp { o.putSlot dst n (o.readSlot src n) with poison := p } = o.stamp := fun _ => Obj.putSlot_stamp _ _ _ _
  simp only [Obj.copySlot]
  split
  · exact h2 _
  · exact (foldl_stamp _ _ _ fun o e => Obj.putRefExt_stamp o _ _ _).trans ((foldl_stamp _ _ _ fun o e => Obj.putRefExt_stamp o _ _ _).trans (h2 _))

@[simp] theorem State.putIngot_but (h : Covers X putFields) (s : State) (id key n : Nat) (slot : Bytes) (ext : Option Bytes) :
    (s.putIngot id key n slot ext).but X = s.but X := by
  unfold State.putIngot
  split
  · next o c ho hc =>
    refine (State.moved_but (h.mono (by decide)) _ _ _ _ _ _).trans ((State.setCmd_but (h.mono (by decide)) _ _ _).trans (State.setObj_contents (h.mono (by decide)) s key _ ho ?_))
    split
    · exact (Obj.putExt_stamp _ _ _ _).trans (Obj.putSlot_stamp o _ _ _)
    · exact Obj.putSlot_stamp o _ _ _
  · rfl

@[simp] theorem State.putChunk_but (h : Covers X putFields) (s : State) (id key n off : Nat) (b : Bytes) :
    (s.putChunk id key n off b).but X = s.but X := by
  unfold State.putChunk
  split
  · next o c ho hc =>
    refine (State.moved_but (h.mono (by decide)) _ _ _ _ _ _).trans ((State.setCmd_but (h.mono (by decide)) _ _ _).trans (State.setObj_contents (h.mono (by decide)) s key _ ho ?_))
    rw [Obj.putBytes_stamp]
    split
    · rfl
    · exact Obj.copySlot_stamp o _ _ _
  · rfl

@[simp] theorem State.putObjBytes_but (h : Covers X putFields) (s : State) (id key fuel off : Nat) (b : Bytes) :
    (s.putObjBytes id key fuel off b).but X = s.but X := by
  induction fuel generalizing s off b with
  | zero => rfl
  | succ fuel ih =>
    unfold State.putObjBytes
    split
    · rfl
    · rw [ih, State.putChunk_but h]

@[simp] theorem State.putObj_but (h : Covers X putFields) (s : State) (id key off : Nat) (b : Bytes) : (s.putObj id key off b).but X = s.but X :=
  State.putObjBytes_but h s id key _ off b
@[simp] theorem State.putRef_but (h : Covers X putFields) (s : State) (id key off : Nat) (b : Bytes) (ext : Option Bytes) :
    (s.putRef id key off b ext).but X = s.but X := by
  unfold State.putRef
  dsimp only
  split
  · next o ho => exact (State.setObj_contents (h.mono (by decide)) _ key _ ho (Obj.putRefExt_stamp o _ _ _)).trans (State.putObj_but h s id key off b)
  · exact State.putObj_but h s id key off b

@[simp] theorem execObjectRegister_but (hX : Covers X (failFields ++ [.objects])) (cmd : Nat) (s : State) : SameBut X s (execObjectRegister cmd s) := by
  simp only [execObjectRegister, sameBut_next]
  refine control_but (hX.mono (by decide)) _ _ _ _ _ fun c => ?_
  repeat' split
  all_goals simp (disch := first | (apply hX.mono; decide) | (intros; simp (disch := (apply hX.mono; decide))))

@[simp] theorem State.leavePages_but (h : Covers X [.poison]) (s : State) (o : Obj) : (s.leavePages o).but X = s.but X := by
  refine foldl_but _ _ _ fun a i => ?_
  split
  · exact State.setStack_poison h a i _ rfl
  · rfl

theorem foldl_unpin_lasting (os : NMap Obj) (x : DieState) :
    { (os.foldl (fun (y : DieState) o => y.unpin o.2.holdsLine) x).lasting with staging := [] } = { x.lasting with staging := [] } := by
  induction os generalizing x with
  | nil => rfl
  | cons o os ih => exact (ih _).trans rfl

theorem State.t2cache_stores (h : Covers X [.t2cache, .stores]) (s : State) (m : List (Nat × Nat × Nat)) (f : DieState → DieState)
    (hf : ∀ x, { (f x).lasting with staging := [] } = { x.lasting with staging := [] }) :
    State.but X { s with t2cache := m, dies := s.dies.map f } = s.but X :=
  (State.mapDies_stores (h.mono (by decide)) { s with t2cache := m } f hf).trans (State.but_t2cache (h.mono (by decide)) s m)

@[simp] theorem State.forget_but (h : Covers X [.t2cache, .poison, .stores]) (s : State) (gone : Nat → Bool) : (s.forget gone).but X = s.but X := by
  have h1 := foldl_but (X := X) (fun (a : State) (o : Nat × Obj) => a.leavePages o.2) (s.objects.filter (fun o => gone o.1)) s
    fun a o => State.leavePages_but (h.mono (by decide)) a o.2
  unfold State.forget
  refine (State.t2cache_stores (h.mono (by decide)) _ _ _ fun x => ?_).trans h1
  exact foldl_unpin_lasting _ x

@[simp] theorem execObjectRelease_but (hX : Covers X (failFields ++ [.t2cache, .objects])) (cmd : Nat) (s : State) : SameBut X s (execObjectRelease cmd s) := by
  simp only [execObjectRelease, sameBut_next]
  refine control_but (hX.mono (by decide)) _ _ _ _ _ fun c => ?_
  repeat' split
  all_goals simp (disch := first | (apply hX.mono; decide) | (intros; simp (disch := (apply hX.mono; decide))))

@[simp] theorem execT3WriteBack_but (hX : Covers X cacheFields) (part handle ingot : Nat) (s : State) : SameBut X s (execT3WriteBack part handle ingot s) := by
  simp only [execT3WriteBack]
  split <;> simp (disch := (apply hX.mono; decide))

@[simp] theorem State.writeBackAll_but (h : Covers X (hostFields ++ meterFields ++ [.contents])) (s : State) : s.writeBackAll.but X = s.but X := by
  refine foldl_but _ _ _ fun a x => ?_
  split
  · exact foldl_but _ _ _ fun b n => State.writeBack_but h b x.1 n
  · rfl

end
end Sys2Proof.Machine
end

section
/-! PROOF. The frame of each operation: what the partition, ring, object and plan commands leave of the state. -/

namespace Sys2Proof.Machine
section
variable {X : Field → Bool}

@[simp] theorem State.createRing_but (hX : Covers X [.subs, .comps]) (s : State) (owner : Nat) (p : Part) (d : Bytes) :
    (s.createRing owner p d).but X = s.but X := by
  simp (disch := (apply hX.mono; decide)) [State.createRing]

@[simp] theorem execRingCreate_but (hX : Covers X failFields) (cmd : Nat) (s : State) : SameBut X s (execRingCreate cmd s) := by
  simp only [execRingCreate, sameBut_next]
  refine control_but (hX.mono (by decide)) _ _ _ _ _ fun c => ?_
  repeat' split
  all_goals simp (disch := first | (apply hX.mono; decide) | (intros; simp (disch := (apply hX.mono; decide))))

@[simp] theorem execRingDestroy_but (h : Covers X failFields) (cmd : Nat) (s : State) : SameBut X s (execRingDestroy cmd s) := by
  refine (sameBut_next _ _).2 (control_but h _ _ _ _ _ fun c => ?_)
  have hc := State.setCmd_but (h.mono (by decide)) s cmd { c with phase := .executed }
  dsimp only
  split
  · exact State.settle_but h s _ _ (judgeBut_error _ _)
  · split
    · split
      · exact (State.finish_but (h.mono (by decide)) _ _ _ _).trans ((State.but_subs (h.mono (by decide)) _ _).trans hc)
      · exact (State.but_subs (h.mono (by decide)) _ _).trans hc
    · repeat' split
      · exact (State.finish_but (h.mono (by decide)) _ _ _ _).trans ((State.but_comps (h.mono (by decide)) _ _).trans hc)
      all_goals exact (State.but_comps (h.mono (by decide)) _ _).trans hc

@[simp] theorem State.admitCmd_but (h : Covers X [.subs, .comps, .cmds, .progress, .nextCmd]) (s : State) (owner ring : Nat) (r : SubRing) (x : Fetched) :
    (s.admitCmd owner ring r x).but X = s.but X :=
  (State.but_cmds_nextCmd (h.mono (by decide)) _ _ _).trans (State.but_subs_comps (h.mono (by decide)) s _ _)

@[simp] theorem State.failFetched_but (hX : Covers X (failFields ++ [.nextCmd]))
    (s : State) (owner ring : Nat) (r : SubRing) (x : Fetched) (status detail : Nat) : (s.failFetched owner ring r x status detail).but X = s.but X := by
  simp (disch := (apply hX.mono; decide)) [State.failFetched]

@[simp] theorem execAbort_but (hX : Covers X (failFields ++ [.nextCmd])) (cmd : Nat) (s : State) : SameBut X s (execAbort cmd s) := by
  simp only [execAbort, sameBut_next]
  refine control_but (hX.mono (by decide)) _ _ _ _ _ fun c => ?_
  repeat' split
  all_goals simp (disch := first | (apply hX.mono; decide) | (intros; simp (disch := (apply hX.mono; decide))))

@[simp] theorem State.clearPart_but (hX : Covers X [.t2cache, .fences, .plans, .tables, .tempers, .objects, .contents, .steps, .poison, .stores, .alloys])
    (s : State) (p : Nat) : (s.clearPart p).but X = s.but X := by
  simp (disch := (apply hX.mono; decide)) [State.clearPart]

@[simp] theorem State.createPart_but (hX : Covers X [.t2cache, .subs, .comps, .fences, .parts, .plans, .tables, .tempers, .objects, .contents, .steps, .poison, .stores, .alloys])
    (s : State) (d : Bytes) : (s.createPart d).but X = s.but X := by
  simp (disch := (apply hX.mono; decide)) [State.createPart]

@[simp] theorem execPartCreate_but (hX : Covers X (failFields ++ [.t2cache, .tables, .objects, .steps, .alloys])) (cmd : Nat) (s : State) :
    SameBut X s (execPartCreate cmd s) := by
  simp only [execPartCreate, sameBut_next]
  refine control_but (hX.mono (by decide)) _ _ _ _ _ fun c => ?_
  repeat' split
  all_goals simp (disch := first | (apply hX.mono; decide) | (intros; simp (disch := (apply hX.mono; decide))))

@[simp] theorem State.releasePartSeqs_but (h : Covers X [.seqs, .frames, .poison, .stores]) (s : State) (p : Nat) :
    (s.releasePartSeqs p).but X = s.but X :=
  (State.but_seqs (h.mono (by decide)) _ _).trans
    (foldl_but _ _ _ fun a d => foldl_but _ _ _ fun b f => State.freeFrame_but (h.mono (by decide)) b d f.1)

@[simp] theorem State.closeStreams_but (hX : Covers X [.engines]) (s : State) (p : Nat) : (s.closeStreams p).but X = s.but X := by
  simp (disch := (apply hX.mono; decide)) [State.closeStreams]

@[simp] theorem State.destroyPart_but (hX : Covers X (putFields ++ recordFields ++ [.windows, .plans, .tables, .tempers, .objects, .seqs, .frames, .steps, .poison, .linkOut, .groups, .fprintWait, .models, .alloys, .engines, .colo]))
    (s : State) (p : Nat) : (s.destroyPart p).but X = s.but X := by
  simp (disch := first | (apply hX.mono; decide) | (intros; simp (disch := (apply hX.mono; decide)))) [State.destroyPart]

@[simp] theorem execPartDestroy_but (hX : Covers X (failFields ++ putFields ++ [.tables, .objects, .steps, .groups, .fprintWait, .models, .alloys, .colo]))
    (cmd : Nat) (s : State) : SameBut X s (execPartDestroy cmd s) := by
  refine (sameBut_next _ _).2 (control_but (hX.mono (by decide)) _ _ _ _ _ fun c => ?_)
  repeat' split
  all_goals simp (disch := first | (apply hX.mono; decide) | (intros; simp (disch := (apply hX.mono; decide))))

@[simp] theorem applyItem_but (hX : Covers X [.parts, .pool]) (part : Nat) (s : State) (i : Item) : (applyItem part s i).but X = s.but X := by
  simp only [applyItem]
  split
  · simp (disch := (apply hX.mono; decide)) [foldl_length]
  · split
    · rfl
    · simp (disch := (apply hX.mono; decide))

@[simp] theorem execQuotaSet_but (h : Covers X (failFields ++ [.queues, .pool])) (cmd : Nat) (s : State) : SameBut X s (execQuotaSet cmd s) := by
  refine (sameBut_next _ _).2 (control_but (h.mono (by decide)) _ _ _ _ _ fun c => ?_)
  dsimp only
  refine (State.settle_but (h.mono (by decide)) _ _ _ ?_).trans (State.asDma_but (h.mono (by decide)) s _ _ _ _)
  repeat' split
  all_goals simp (disch := first | (apply h.mono; decide) | (intros; simp (disch := (apply h.mono; decide))))

@[simp] theorem State.resetRings_but (hX : Covers X [.subs, .comps, .fences]) (s : State) (p : Nat) : (s.resetRings p).but X = s.but X := by
  simp (disch := (apply hX.mono; decide)) [State.resetRings]

@[simp] theorem execVfFlr_but (hX : Covers X (recordFields ++ [.plans, .tempers, .objects, .contents, .seqs, .frames, .poison, .stores, .linkOut, .engines]))
    (vf : Nat) (s : State) : SameBut X s (execVfFlr vf s) := by
  simp only [execVfFlr]
  split <;> simp (disch := first | (apply hX.mono; decide) | (intros; simp (disch := (apply hX.mono; decide))))

@[simp] theorem execServedHalving_but (h : Covers X [.counters, .subs]) (die : Nat) (t : Word) (s : State) : SameBut X s (execServedHalving die t s) := by
  unfold execServedHalving
  dsimp only
  split
  · exact (sameBut_next _ _).2 ((State.but_subs (h.mono (by decide)) _ _).trans (State.reach_but (h.mono (by decide)) s die t))
  · exact (sameBut_next _ _).2 (State.reach_but (h.mono (by decide)) s die t)

@[simp] theorem execRegulatorRefill_but (h : Covers X (meterFields ++ [.counters])) (die : Nat) (t : Word) (s : State) :
    SameBut X s (execRegulatorRefill die t s) := by
  have hr : (s.reach die t).but X = s.but X := State.reach_but (h.mono (by decide)) s die t
  unfold execRegulatorRefill
  dsimp only
  split
  · refine (sameBut_next _ _).2 ((foldl_but _ _ _ fun a (q : Nat × ResQueue) => State.drain_but (h.mono (by decide)) a q.1).trans ?_)
    exact (State.but_parts (h.mono (by decide)) _ _).trans hr
  · exact (sameBut_next _ _).2 hr

@[simp] theorem State.setSeq_but (hX : Covers X [.seqs]) (s : State) (idx : Nat) (q : Seq) : (s.setSeq idx q).but X = s.but X := by
  simp (disch := (apply hX.mono; decide)) [State.setSeq]

@[simp] theorem State.leafDma_but (hX : Covers X (meterFields ++ dmaFields)) (s : State) (part : Nat) (ls : NMap LeafEntry) :
    (s.leafDma part ls).but X = s.but X := by
  simp (disch := first | (apply hX.mono; decide) | (intros; simp (disch := (apply hX.mono; decide)))) [State.leafDma]

@[simp] theorem State.readLeaf_but (hX : Covers X (lineFields ++ meterFields ++ dmaFields ++ [.stores]))
    (s : State) (part die : Nat) (e : LeafEntry) (off n : Nat) : (s.readLeaf part die e off n).but X = s.but X := by
  simp (disch := (apply hX.mono; decide)) [State.readLeaf]

@[simp] theorem State.writeLeaf_but (hX : Covers X (meterFields ++ [.frames, .stores])) (s : State) (e : LeafEntry) (off : Nat) (b : Bytes) :
    (s.writeLeaf e off b).but X = s.but X := by
  simp (disch := (apply hX.mono; decide)) [State.writeLeaf]

@[simp] theorem State.markLeaf_but (hX : Covers X [.frames]) (s : State) (e : LeafEntry) (p : List (Nat × Nat)) : (s.markLeaf e p).but X = s.but X := by
  simp (disch := (apply hX.mono; decide)) [State.markLeaf]

@[simp] theorem State.putRow_but (hX : Covers X (meterFields ++ [.frames, .stores]))
    (s : State) (e : LeafEntry) (kvHeads fmt h p : Nat) (isV : Bool) (qs : List QBlock) : (s.putRow e kvHeads fmt h p isV qs).but X = s.but X := by
  simp (disch := (apply hX.mono; decide)) [State.putRow]

@[simp] theorem State.writeSketches_but (hX : Covers X (meterFields ++ [.frames, .stores])) (s : State) (x : SeqView) (l v j0 j1 : Nat) :
    (s.writeSketches x l v j0 j1).but X = s.but X := by
  unfold State.writeSketches
  refine foldl_but _ _ _ fun a j => ?_
  dsimp only
  repeat' split
  all_goals simp (disch := first | (apply hX.mono; decide) | (intros; simp (disch := (apply hX.mono; decide))))

@[simp] theorem State.takeFrames_but (hX : Covers X [.frames]) (s : State) (part d n : Nat) (page : Bool) : (s.takeFrames part d n page).1.but X = s.but X := by
  simp (disch := (apply hX.mono; decide)) [State.takeFrames]

@[simp] theorem State.touchEntries_but (hX : Covers X (meterFields ++ [.stores])) (s : State) (idx : Nat) (pages : NMap Nat) (ws : List Nat) (write : Bool) :
    (s.touchEntries idx pages ws write).but X = s.but X := by
  unfold State.touchEntries
  refine foldl_but _ _ _ fun a x => ?_
  repeat' split
  all_goals simp (disch := (apply hX.mono; decide))

@[simp] theorem State.unref_but (hX : Covers X [.frames, .poison, .stores]) (s : State) (e : LeafEntry) : (s.unref e).but X = s.but X := by
  unfold State.unref
  repeat' split
  all_goals simp (disch := (apply hX.mono; decide))

@[simp] theorem State.addRef_but (hX : Covers X [.frames]) (s : State) (e : LeafEntry) : (s.addRef e).but X = s.but X := by
  simp (disch := (apply hX.mono; decide)) [State.addRef]

@[simp] theorem State.demote_but (hX : Covers X (hostFields ++ lineFields ++ meterFields ++ [.seqs, .frames, .poison, .stores]))
    (s : State) (part d : Nat) (x : (Nat × Nat) × Nat) : (s.demote part d x).but X = s.but X := by
  simp only [State.demote]
  split <;> simp (disch := (apply hX.mono; decide))

theorem State.draw_but (h : Covers X (hostFields ++ lineFields ++ meterFields ++ [.seqs, .frames, .poison, .stores])) (s : State) (part d n : Nat)
    (demoteFor : Option Nat) {x : State × List Nat} (e : s.draw part d n demoteFor = some x) : x.1.but X = s.but X := by
  have key (u : State) (hu : u.but X = s.but X) (e : u.takeFrames part d n false = x) : x.1.but X = s.but X := by
    rw [← e, State.takeFrames_but (h.mono (by decide)), hu]
  simp only [State.draw] at e
  split at e
  · exact key _ rfl (Option.some.inj e)
  · split at e
    · cases e
    · split at e
      · cases e
      · split at e
        · cases e
        · exact key _ (foldl_but _ _ _ fun a y => State.demote_but h a part d y) (Option.some.inj e)

@[simp] theorem State.releaseSeq_but (hX : Covers X (meterFields ++ [.seqs, .frames, .poison, .stores])) (s : State) (idx : Nat) :
    (s.releaseSeq idx).but X = s.but X := by
  simp (disch := first | (apply hX.mono; decide) | (intros; simp (disch := (apply hX.mono; decide)))) [State.releaseSeq]

@[simp] theorem execSeqReleaseComplete_but (hX : Covers X (meterFields ++ [.seqs, .frames, .poison, .stores])) (index : Nat) (s : State) :
    SameBut X s (execSeqReleaseComplete index s) := by
  simp (disch := (apply hX.mono; decide)) [execSeqReleaseComplete]

@[simp] theorem execTableLoad_but (hX : Covers X (failFields ++ [.tables])) (cmd : Nat) (s : State) : SameBut X s (execTableLoad cmd s) := by
  simp only [execTableLoad, sameBut_next]
  refine control_but (hX.mono (by decide)) _ _ _ _ _ fun c => ?_
  repeat' split
  all_goals simp (disch := first | (apply hX.mono; decide) | (intros; simp (disch := (apply hX.mono; decide))))

@[simp] theorem execTableClear_but (hX : Covers X (failFields ++ [.tables])) (cmd : Nat) (s : State) : SameBut X s (execTableClear cmd s) := by
  refine (sameBut_next _ _).2 (control_but (hX.mono (by decide)) _ _ _ _ _ fun c => ?_)
  simp (disch := first | (apply hX.mono; decide) | (intros; simp (disch := (apply hX.mono; decide))))

end
end Sys2Proof.Machine
end

section
/-! PROOF. The frame of each operation: what tempers, admission of work and the start of commands leave of the state. -/

namespace Sys2Proof.Machine
section
variable {X : Field → Bool}

@[simp] theorem State.setTemper_but (hX : Covers X [.tempers]) (s : State) (part layer : Nat) (x : Temper) : (s.setTemper part layer x).but X = s.but X := by
  simp (disch := (apply hX.mono; decide)) [State.setTemper]

@[simp] theorem State.countStorm_but (hX : Covers X (reportFields ++ [.parts])) (s : State) (part step home : Nat) :
    (s.countStorm part step home).but X = s.but X := by
  simp only [State.countStorm]
  split <;> simp (disch := (apply hX.mono; decide))

@[simp] theorem State.drawReserve_but (hX : Covers X [.tempers]) (s : State) (part layer : Nat) (outs : List Nat) :
    (s.drawReserve part layer outs).1.but X = s.but X := by
  simp only [State.drawReserve]
  split <;> simp (disch := (apply hX.mono; decide))

theorem State.temperAdmit_but (h : Covers X (reportFields ++ [.parts, .tempers])) (s : State) (f : Bytes) (part step home : Nat) (outs : List Nat)
    {x : State × Decision} (e : s.temperAdmit f part step home outs = some x) : x.1.but X = s.but X := by
  unfold State.temperAdmit at e
  extract_lets layer t0 fresh t1 s1 s2 at e
  have h2 : s2.but X = s.but X := by
    simp only [s2]
    split
    · exact (State.countStorm_but (h.mono (by decide)) _ _ _ _).trans (State.setTemper_but (h.mono (by decide)) s _ _ _)
    · exact State.setTemper_but (h.mono (by decide)) s _ _ _
  split at e
  · cases e
  · split at e
    · rw [← Option.some.inj e, h2]
    · split at e
      · rw [← Option.some.inj e, State.drawReserve_but (h.mono (by decide)), h2]
      · rw [← Option.some.inj e, h2]

@[simp] theorem State.mergeStats_but (hX : Covers X [.tempers]) (s : State) (part layer step : Nat) (x : Stats) :
    (s.mergeStats part layer step x).but X = s.but X := by
  simp (disch := (apply hX.mono; decide)) [State.mergeStats]

@[simp] theorem State.raiseAnchor_but (hX : Covers X [.tempers]) (s : State) (part layer : Nat) : (s.raiseAnchor part layer).but X = s.but X := by
  simp (disch := (apply hX.mono; decide)) [State.raiseAnchor]

@[simp] theorem State.unreserve_but (hX : Covers X [.tempers]) (s : State) (part layer bytes : Nat) : (s.unreserve part layer bytes).but X = s.but X := by
  simp (disch := (apply hX.mono; decide)) [State.unreserve]

@[simp] theorem State.settleDraws_but (h : Covers X [.tempers, .contents]) (s : State) (part : Nat) (c : Cmd) : (s.settleDraws part c).but X = s.but X := by
  unfold State.settleDraws
  refine (foldl_but _ _ _ fun a w => ?_).trans (foldl_but _ _ _ fun a d => ?_)
  · split
    · next o ho =>
      split
      · exact (foldl_but _ _ _ fun b d => State.unreserve_but (h.mono (by decide)) b _ _ _).trans (State.setObj_contents (h.mono (by decide)) a _ _ ho rfl)
      · rfl
    · rfl
  · split
    · next o ho => exact State.setObj_contents (h.mono (by decide)) a _ _ ho rfl
    · rfl

@[simp] theorem State.setRun_but (hX : Covers X [.cmds, .progress]) (s : State) (id : Nat) (f : Run → Run) : (s.setRun id f).but X = s.but X := by
  simp only [State.setRun]
  split <;> simp (disch := (apply hX.mono; decide))

@[simp] theorem State.ensureStart_but (hX : Covers X [.cmds, .progress]) (s : State) (id : Nat) : (s.ensureStart id).but X = s.but X := by
  simp only [State.ensureStart]
  split <;> simp (disch := (apply hX.mono; decide))

@[simp] theorem State.unitStart_but (hX : Covers X [.cmds, .progress]) (s : State) (id : Nat) : (s.unitStart id).but X = s.but X := by
  simp only [State.unitStart]
  split <;> simp (disch := (apply hX.mono; decide))

@[simp] theorem State.deliverAll_but (hX : Covers X [.cmds, .progress]) (s : State) (id : Nat) : (s.deliverAll id).but X = s.but X := by
  simp only [State.deliverAll]
  split <;> simp (disch := (apply hX.mono; decide))

@[simp] theorem State.distribute_but (hX : Covers X [.cmds, .progress]) (s : State) (id : Nat) (G : Nat) : (s.distribute id G).but X = s.but X := by
  simp only [State.distribute]
  split <;> simp (disch := (apply hX.mono; decide))

@[simp] theorem State.fetchOne_but (hX : Covers X (cacheFields ++ lineFields ++ [.stores])) (s : State) (c : Cmd) (die : Nat) (r : Nat × Nat) :
    (s.fetchOne c die r).but X = s.but X := by
  simp only [State.fetchOne]
  split <;> simp (disch := (apply hX.mono; decide))

@[simp] theorem State.fetchAll_but (hX : Covers X (cacheFields ++ lineFields ++ [.stores])) (s : State) (c : Cmd) (die : Nat) (reads : List (Nat × Nat)) :
    (s.fetchAll c die reads).but X = s.but X := by
  simp (disch := first | (apply hX.mono; decide) | (intros; simp (disch := (apply hX.mono; decide)))) [State.fetchAll]

@[simp] theorem State.scanFetch_but (hX : Covers X (putFields ++ lineFields)) (s : State) (id : Nat) (c : Cmd) (x : TCtx) (aux : Bool) (groups : Nat) :
    (s.scanFetch id c x aux groups).but X = s.but X := by
  unfold State.scanFetch
  refine foldl_but _ _ _ fun a x => ?_
  repeat' split
  all_goals simp (disch := (apply hX.mono; decide))

@[simp] theorem State.runDelta_but (hX : Covers X (putFields ++ lineFields)) (s : State) (id : Nat) : (s.runDelta id).but X = s.but X := by
  unfold State.runDelta
  repeat' split
  all_goals simp (disch := (apply hX.mono; decide))

@[simp] theorem State.runNorm_but (hX : Covers X (putFields ++ lineFields)) (s : State) (id : Nat) : (s.runNorm id).but X = s.but X := by
  unfold State.runNorm
  repeat' split
  all_goals simp (disch := (apply hX.mono; decide))

@[simp] theorem State.openTensor_but (hX : Covers X [.cmds, .progress]) (s : State) (id : Nat) : (s.openTensor id).but X = s.but X := by
  simp only [State.openTensor]
  repeat' split
  all_goals simp (disch := (apply hX.mono; decide))

@[simp] theorem State.doneTile_but (hX : Covers X (putFields ++ lineFields)) (s : State) (id die tile : Nat) : (s.doneTile id die tile).but X = s.but X := by
  unfold State.doneTile
  repeat' split
  all_goals simp (disch := (apply hX.mono; decide))

@[simp] theorem State.toReady_but (hX : Covers X [.fresh, .cmds, .progress]) (s : State) (id : Nat) (f : Cmd → Cmd) : (s.toReady id f).but X = s.but X := by
  simp only [State.toReady]
  split <;> simp (disch := (apply hX.mono; decide))

@[simp] theorem State.updateCarry_but (hX : Covers X putFields) (s : State) (id : Nat) : (s.updateCarry id).but X = s.but X := by
  unfold State.updateCarry
  split
  · rfl
  · split
    · dsimp only
      split
      · rfl
      · refine (State.putObj_but hX _ _ _ _ _).trans (foldl_but _ _ _ fun a r => ?_)
        repeat' split
        all_goals simp (disch := first | (apply hX.mono; decide) | (intros; simp (disch := (apply hX.mono; decide))))
    · rfl

@[simp] theorem State.endTensor_but (hX : Covers X (putFields ++ [.fresh])) (s : State) (id : Nat) : (s.endTensor id).but X = s.but X := by
  unfold State.endTensor
  repeat' split
  all_goals simp (disch := (apply hX.mono; decide))

@[simp] theorem State.closeTensor_but (hX : Covers X (putFields ++ [.fresh])) (s : State) (id : Nat) : (s.closeTensor id).but X = s.but X := by
  simp only [State.closeTensor]
  repeat' split
  all_goals simp (disch := (apply hX.mono; decide))

@[simp] theorem State.runTensor_but (hX : Covers X (putFields ++ lineFields ++ [.fresh, .subs])) (s : State) (id : Nat) : (s.runTensor id).but X = s.but X := by
  unfold State.runTensor
  dsimp only
  repeat' split
  all_goals simp (disch := first | (apply hX.mono; decide) | (intros; simp (disch := (apply hX.mono; decide))))

@[simp] theorem execTensorOp_but (hX : Covers X (failFields ++ putFields ++ lineFields)) (cmd : Nat) (s : State) : SameBut X s (execTensorOp cmd s) := by
  simp only [execTensorOp, sameBut_next]
  refine control_but (hX.mono (by decide)) _ _ _ _ _ fun c => ?_
  repeat' split
  all_goals simp (disch := (apply hX.mono; decide))

@[simp] theorem execDeltaScanDone_but (hX : Covers X (failFields ++ putFields ++ lineFields)) (cmd : Nat) (s : State) : SameBut X s (execDeltaScanDone cmd s) := by
  refine (sameBut_next _ _).2 (control_but (hX.mono (by decide)) _ _ _ _ _ fun c => ?_)
  simp (disch := (apply hX.mono; decide))

@[simp] theorem execNormScanDone_but (hX : Covers X (failFields ++ putFields ++ lineFields)) (cmd : Nat) (s : State) : SameBut X s (execNormScanDone cmd s) := by
  refine (sameBut_next _ _).2 (control_but (hX.mono (by decide)) _ _ _ _ _ fun c => ?_)
  simp (disch := (apply hX.mono; decide))

@[simp] theorem State.writeAttend_but (hX : Covers X putFields) (s : State) (id : Nat) (x : ACtx) (all : List ((Nat × Nat) × List Fp)) :
    (s.writeAttend id x all).but X = s.but X := by
  simp (disch := first | (apply hX.mono; decide) | (intros; simp (disch := (apply hX.mono; decide)))) [State.writeAttend]

@[simp] theorem State.readBlockLeaves_but (hX : Covers X (lineFields ++ meterFields ++ dmaFields ++ [.stores]))
    (s : State) (x : ACtx) (die qb : Nat) (b : QBlk) (sel : List Nat) : (s.readBlockLeaves x die qb b sel).but X = s.but X := by
  unfold State.readBlockLeaves
  split
  · simp only
    refine foldl_but _ _ _ fun a d => foldl_but _ _ _ fun b i => ?_
    split <;> simp (disch := (apply hX.mono; decide))
  · rfl

@[simp] theorem State.endAttend_but (hX : Covers X (putFields ++ lineFields ++ [.fresh, .subs])) (s : State) (id : Nat) : (s.endAttend id).but X = s.but X := by
  unfold State.endAttend
  dsimp only
  repeat' split
  all_goals simp (disch := first | (apply hX.mono; decide) | (intros; simp (disch := (apply hX.mono; decide))))

@[simp] theorem State.openAttend_but (hX : Covers X [.cmds, .progress]) (s : State) (id : Nat) : (s.openAttend id).but X = s.but X := by
  simp only [State.openAttend]
  repeat' split
  all_goals simp (disch := (apply hX.mono; decide))

@[simp] theorem execAttend_but (hX : Covers X (failFields ++ putFields ++ lineFields)) (cmd : Nat) (s : State) : SameBut X s (execAttend cmd s) := by
  simp only [execAttend, sameBut_next]
  refine control_but (hX.mono (by decide)) _ _ _ _ _ fun c => ?_
  repeat' split
  all_goals simp (disch := (apply hX.mono; decide))

@[simp] theorem execBlockSelectionDone_but (hX : Covers X failFields) (cmd qb : Nat) (s : State) : SameBut X s (execBlockSelectionDone cmd qb s) := by
  simp only [execBlockSelectionDone, sameBut_next]
  refine control_but (hX.mono (by decide)) _ _ _ _ _ fun c => ?_
  repeat' split
  all_goals simp (disch := (apply hX.mono; decide))

@[simp] theorem execAttendBuildSketches_but (hX : Covers X (failFields ++ putFields)) (cmd : Nat) (s : State) : SameBut X s (execAttendBuildSketches cmd s) := by
  simp only [execAttendBuildSketches, sameBut_next]
  refine control_but (hX.mono (by decide)) _ _ _ _ _ fun c => ?_
  repeat' split
  all_goals simp (disch := first | (apply hX.mono; decide) | (intros; simp (disch := (apply hX.mono; decide))))

@[simp] theorem State.moveRows_but (hX : Covers X (putFields ++ lineFields)) (s : State) (id key : Nat) (handle : Nat) (x : Operand) (width i : Nat)
    (src : Nat → Option (Nat × Nat)) : (s.moveRows id key handle x width i src).but X = s.but X := by
  unfold State.moveRows
  split
  · refine foldl_but _ _ _ fun a j => ?_
    simp (disch := first | (apply hX.mono; decide) | (intros; simp (disch := (apply hX.mono; decide))))
  · rfl

@[simp] theorem State.putList_but (hX : Covers X putFields) (s : State) (id owner handle : Nat) (b : Bytes) : (s.putList id owner handle b).but X = s.but X := by
  simp (disch := (apply hX.mono; decide)) [State.putList]
  split <;> simp (disch := (apply hX.mono; decide))

@[simp] theorem State.endRoute_but (hX : Covers X [.fresh, .cmds, .progress]) (s : State) (id detail : Nat) : (s.endRoute id detail).but X = s.but X := by
  simp only [State.endRoute]
  repeat' split
  all_goals simp (disch := (apply hX.mono; decide))

@[simp] theorem State.noteFails_but (hX : Covers X [.cmds, .progress]) (s : State) (id : Nat) (fs : List (Nat × Nat)) : (s.noteFails id fs).but X = s.but X := by
  simp (disch := (apply hX.mono; decide)) [State.noteFails]

@[simp] theorem route_but (hX : Covers X failFields) (mode : Nat) (body : Cmd → Bytes → (Nat → Nat) → State → State) (cmd : Nat) (s : State)
    (hbody : ∀ c b d t, (body c b d t).but X = t.but X) : (route mode body cmd s).but X = s.but X := by
  unfold route
  refine control_but (hX.mono (by decide)) _ _ _ _ _ fun c => ?_
  dsimp only
  repeat' split
  all_goals simp (disch := (apply hX.mono; decide)) [hbody]

@[simp] theorem State.exchangeCounts_but (h : Covers X (sendFields ++ meterFields)) (s : State) (owner : Nat) (counts : Nat → List Nat) :
    (s.exchangeCounts owner counts).but X = s.but X := by
  unfold State.exchangeCounts
  split
  · exact foldl_but _ _ _ fun a d => foldl_but _ _ _ fun b e => State.sendSpineFor_but (h.mono (by decide)) b _ _ _ _ _
  · rfl

@[simp] theorem execRouteLengthBucket_but (hX : Covers X (failFields ++ putFields ++ sendFields)) (cmd : Nat) (s : State) :
    SameBut X s (execRouteLengthBucket cmd s) := by
  simp (disch := first | (apply hX.mono; decide) | (intros; simp (disch := (apply hX.mono; decide)))) [execRouteLengthBucket]

@[simp] theorem execRouteLengthPack_but (hX : Covers X (failFields ++ putFields ++ sendFields)) (cmd : Nat) (s : State) :
    SameBut X s (execRouteLengthPack cmd s) := by
  simp only [execRouteLengthPack, sameBut_next]
  refine control_but (hX.mono (by decide)) _ _ _ _ _ fun c => ?_
  dsimp only
  repeat' split
  all_goals simp (disch := first | (apply hX.mono; decide) | (intros; simp (disch := (apply hX.mono; decide))))

@[simp] theorem execRouteExpertDispatch_but (hX : Covers X (failFields ++ putFields ++ sendFields)) (cmd : Nat) (s : State) :
    SameBut X s (execRouteExpertDispatch cmd s) := by
  simp only [execRouteExpertDispatch, sameBut_next]
  refine control_but (hX.mono (by decide)) _ _ _ _ _ fun c => ?_
  dsimp only
  repeat' split
  all_goals simp (disch := first | (apply hX.mono; decide) | (intros; simp (disch := (apply hX.mono; decide))))

@[simp] theorem execRouteExpertCombine_but (hX : Covers X (failFields ++ putFields)) (cmd : Nat) (s : State) : SameBut X s (execRouteExpertCombine cmd s) := by
  refine (sameBut_next _ _).2 (route_but (hX.mono (by decide)) _ _ _ _ fun c sec dieOf t => ?_)
  dsimp only
  split
  · rw [State.endRoute_but (hX.mono (by decide))]
    split
    · exact State.noteFails_but (hX.mono (by decide)) t _ _
    · refine (foldl_but _ _ _ fun a i => foldl_but _ _ _ fun b j => ?_).trans (State.noteFails_but (hX.mono (by decide)) t _ _)
      exact (State.noteFails_but (hX.mono (by decide)) _ _ _).trans (State.putIngot_but (hX.mono (by decide)) b _ _ _ _ _)
  · rfl

@[simp] theorem State.markPages_but (hX : Covers X [.frames]) (s : State) (d : Nat) (fs : List Nat) : (s.markPages d fs).but X = s.but X := by
  simp (disch := first | (apply hX.mono; decide) | (intros; simp (disch := (apply hX.mono; decide)))) [State.markPages]

@[simp] theorem State.reserveEntry_but (hX : Covers X (hostFields ++ lineFields ++ meterFields ++ [.seqs, .frames, .poison, .stores])) (s : State) (part kvFmt : Nat)
    (lay : Nat × Nat) (e : StepEntry) : (s.reserveEntry part kvFmt lay e).1.but X = s.but X := by
  simp only [State.reserveEntry]
  split
  · rfl
  · next e => exact (State.markPages_but (hX.mono (by decide)) _ _ _).trans (State.draw_but hX s _ _ _ _ e)

@[simp] theorem State.reserveSome_but (hX : Covers X (hostFields ++ lineFields ++ meterFields ++ [.seqs, .frames, .poison, .stores])) (s : State) (part kvFmt : Nat)
    (lay : Nat × Nat) (joins : Bool) (es : List StepEntry) : (s.reserveSome part kvFmt lay joins es).1.but X = s.but X := by
  unfold State.reserveSome
  refine foldl_but_fst _ _ _ fun a e => ?_
  split
  · exact State.reserveEntry_but hX _ _ _ _ _
  · rfl

@[simp] theorem State.stepCollation_but (hX : Covers X putFields) (s : State) (id : Nat) (c : Cmd) (es : List StepEntry) :
    (s.stepCollation id c es).but X = s.but X := by
  simp (disch := (apply hX.mono; decide)) [State.stepCollation]

@[simp] theorem State.runOpen_but (hX : Covers X (putFields ++ lineFields ++ [.fresh, .seqs, .frames, .poison])) (s : State) (id : Nat) (c : Cmd) :
    (s.runOpen id c).but X = s.but X := by
  unfold State.runOpen
  dsimp only
  repeat' split
  all_goals simp (disch := (apply hX.mono; decide))

@[simp] theorem State.commitOpen_but (hX : Covers X [.seqs, .steps]) (s : State) (c : Cmd) : (s.commitOpen c).but X = s.but X := by
  simp only [State.commitOpen]
  split <;> simp (disch := first | (apply hX.mono; decide) | (intros; simp (disch := (apply hX.mono; decide))))

@[simp] theorem State.runAppend_but (hX : Covers X [.fresh, .cmds, .progress]) (s : State) (id : Nat) (c : Cmd) : (s.runAppend id c).but X = s.but X := by
  unfold State.runAppend
  dsimp only
  repeat' split
  all_goals simp (disch := (apply hX.mono; decide))

@[simp] theorem State.copyLeaf_but (hX : Covers X (lineFields ++ meterFields ++ dmaFields ++ [.frames, .stores])) (s : State) (q : Seq) (g n upto : Nat) (src dst : LeafEntry) :
    (s.copyLeaf q g n upto src dst).but X = s.but X := by
  have cp : ∀ (a : State) (off len : Nat) (b : Bytes), ((a.readLeaf q.part dst.die src off len).writeLeaf dst off b).but X = a.but X := fun a off len b => by
    rw [State.writeLeaf_but (hX.mono (by decide)), State.readLeaf_but (hX.mono (by decide))]
  unfold State.copyLeaf
  refine (foldl_but _ _ _ fun a j => foldl_but _ _ _ fun b y => cp _ _ _ _).trans (foldl_but _ _ _ fun a y => foldl_but _ _ _ fun b p => foldl_but _ _ _ fun d v => ?_)
  dsimp only
  rw [cp, cp]

@[simp] theorem State.useLeaf_but (hX : Covers X (lineFields ++ meterFields ++ dmaFields ++ [.frames, .stores]))
    (s : State) (q : Seq) (e : StepEntry) (w : Nat) : (s.useLeaf q e w).1.but X = s.but X := by
  simp only [State.useLeaf]
  repeat' split
  all_goals simp (disch := (apply hX.mono; decide))

@[simp] theorem State.appendEntry_but (hX : Covers X (dmaFields ++ lineFields ++ meterFields ++ [.frames, .stores])) (s : State) (layer : Nat) (ko vo : Option Operand)
    (e : StepEntry) : (s.appendEntry layer ko vo e).1.but X = s.but X := by
  simp only [State.appendEntry]
  rw [State.writeSketches_but (hX.mono (by decide)), foldl_but]
  · exact foldl_but_fst _ _ _ fun a w => State.useLeaf_but (hX.mono (by decide)) _ _ _ _
  · intro a r
    split
    · exact State.putRow_but (hX.mono (by decide)) _ _ _ _ _ _ _ _
    · rfl

@[simp] theorem State.commitAppend_but (hX : Covers X (dmaFields ++ lineFields ++ meterFields ++ [.frames, .stores, .steps])) (s : State) (c : Cmd) :
    (s.commitAppend c).but X = s.but X := by
  unfold State.commitAppend
  split
  · rfl
  · refine (State.but_steps (hX.mono (by decide)) _ _).trans (foldl_but_fst _ _ _ fun a e => ?_)
    split
    · exact State.appendEntry_but (hX.mono (by decide)) _ _ _ _ _
    · rfl

@[simp] theorem State.returnFrames_but (hX : Covers X [.frames, .poison, .stores]) (s : State) (e : StepEntry) (keep : Nat → Bool) :
    (s.returnFrames e keep).but X = s.but X := by
  simp (disch := first | (apply hX.mono; decide) | (intros; simp (disch := (apply hX.mono; decide)))) [State.returnFrames]

@[simp] theorem State.closeEntry_but (hX : Covers X (meterFields ++ [.seqs, .frames, .poison, .stores])) (s : State) (e : StepEntry) : (s.closeEntry e).but X = s.but X := by
  unfold State.closeEntry
  split
  · rfl
  · extract_lets idx q used s1 pages s2
    have h1 : s1.but X = s.but X := by
      refine (foldl_but _ _ _ fun a p => ?_).trans (State.returnFrames_but (hX.mono (by decide)) _ _ _)
      dsimp only
      rw [State.addRef_but (hX.mono (by decide))]
      split
      · exact State.unref_but (hX.mono (by decide)) _ _
      · rfl
    split
    · rw [State.setSeq_but (hX.mono (by decide)), State.touchEntries_but (hX.mono (by decide)), h1]
    · exact State.setSeq_but (hX.mono (by decide)) s _ _

@[simp] theorem State.runClose_but (hX : Covers X (putFields ++ [.fresh])) (s : State) (id : Nat) (c : Cmd) : (s.runClose id c).but X = s.but X := by
  simp only [State.runClose]
  split <;> simp (disch := (apply hX.mono; decide))

@[simp] theorem State.commitClose_but (hX : Covers X (meterFields ++ [.seqs, .frames, .steps, .poison, .stores])) (s : State) (c : Cmd) :
    (s.commitClose c).but X = s.but X := by
  simp only [State.commitClose]
  split <;> simp (disch := first | (apply hX.mono; decide) | (intros; simp (disch := (apply hX.mono; decide))))

@[simp] theorem State.cancelEntry_but (hX : Covers X (meterFields ++ [.seqs, .frames, .poison, .stores])) (s : State) (x : Step) (e : StepEntry) :
    (s.cancelEntry x e).but X = s.but X := by
  simp (disch := first | (apply hX.mono; decide) | (intros; simp (disch := (apply hX.mono; decide)))) [State.cancelEntry]

@[simp] theorem State.cancelStep_but (hX : Covers X (meterFields ++ [.seqs, .frames, .steps, .poison, .stores])) (s : State) (part h : Nat) :
    (s.cancelStep part h).but X = s.but X := by
  simp only [State.cancelStep]
  split <;> simp (disch := first | (apply hX.mono; decide) | (intros; simp (disch := (apply hX.mono; decide))))

@[simp] theorem bindery_but (hX : Covers X failFields) (op : Nat) (sel : Cmd → Bool) (body : Nat → Cmd → State → State) (cmd : Nat) (s : State)
    (hbody : ∀ i c t, (body i c t).but X = t.but X) : (bindery op sel body cmd s).but X = s.but X := by
  unfold bindery
  refine control_but (hX.mono (by decide)) _ _ _ _ _ fun c => ?_
  dsimp only
  repeat' split
  all_goals simp (disch := (apply hX.mono; decide)) [hbody]

@[simp] theorem execSeqStepOpen_but (hX : Covers X (failFields ++ putFields ++ lineFields)) (cmd : Nat) (s : State) : SameBut X s (execSeqStepOpen cmd s) := by
  simp only [execSeqStepOpen]
  split <;> simp (disch := first | (apply hX.mono; decide) | (intros; simp (disch := (apply hX.mono; decide))))

@[simp] theorem execSeqStepAppend_but (hX : Covers X failFields) (cmd : Nat) (s : State) : SameBut X s (execSeqStepAppend cmd s) := by
  simp (disch := first | (apply hX.mono; decide) | (intros; simp (disch := (apply hX.mono; decide)))) [execSeqStepAppend]

@[simp] theorem execSeqStepClose_but (hX : Covers X (failFields ++ putFields)) (cmd : Nat) (s : State) : SameBut X s (execSeqStepClose cmd s) := by
  simp (disch := first | (apply hX.mono; decide) | (intros; simp (disch := (apply hX.mono; decide)))) [execSeqStepClose]

@[simp] theorem execSeqStepCancel_but (hX : Covers X failFields) (cmd : Nat) (s : State) : SameBut X s (execSeqStepCancel cmd s) := by
  simp only [execSeqStepCancel, sameBut_next]
  refine control_but (hX.mono (by decide)) _ _ _ _ _ fun c => ?_
  dsimp only
  repeat' split
  all_goals simp (disch := (apply hX.mono; decide))

/-- The leaves of a fork: copied into a frame of its own, or shared. -/
theorem State.forkLeaves_but (hX : Covers X (lineFields ++ meterFields ++ dmaFields ++ [.frames, .stores])) (s : State) (q : Seq) (g n len : Nat)
    (copies below : NMap LeafEntry) :
    (below.foldl (fun (a : State) (e : Nat × LeafEntry) =>
      match NMap.get? copies e.1 with
      | some dst => a.copyLeaf q g n len e.2 dst
      | none => a.addRef e.2) s).but X = s.but X := by
  refine foldl_but _ _ _ fun a e => ?_
  split
  · exact State.copyLeaf_but hX a _ _ _ _ _ _
  · exact State.addRef_but (hX.mono (by decide)) a _

@[simp] theorem State.runFork_but (hX : Covers X (hostFields ++ lineFields ++ meterFields ++ [.fresh, .cmds, .progress, .seqs, .frames, .poison, .stores]))
    (s : State) (id : Nat) (c : Cmd) : (s.runFork id c).but X = s.but X := by
  unfold State.runFork
  dsimp only
  split
  · exact State.toReady_but (hX.mono (by decide)) s _ _
  · split
    · exact State.toReady_but (hX.mono (by decide)) s _ _
    · split
      · exact State.toReady_but (hX.mono (by decide)) s _ _
      · split
        · exact State.toReady_but (hX.mono (by decide)) s _ _
        · exact State.toReady_but (hX.mono (by decide)) s _ _
        · next e _ =>
          rw [State.toReady_but (hX.mono (by decide)), State.setCmd_but (hX.mono (by decide))]
          have hd := fun d fs => (State.markPages_but (hX.mono (by decide)) _ d fs).trans (State.draw_but (hX.mono (by decide)) s _ _ _ _ e)
          have h2 := fun q g n len copies below u => State.forkLeaves_but (hX.mono (by decide)) u q g n len copies below
          split
          · exact (h2 _ _ _ _ _ _ _).trans (hd _ _)
          · exact (foldl_but _ _ _ fun a l => State.writeSketches_but (hX.mono (by decide)) a _ _ _ _ _).trans ((h2 _ _ _ _ _ _ _).trans (hd _ _))

@[simp] theorem State.commitFork_but (hX : Covers X (meterFields ++ [.seqs, .frames, .stores])) (s : State) (c : Cmd) : (s.commitFork c).but X = s.but X := by
  simp only [State.commitFork]
  split <;> simp (disch := first | (apply hX.mono; decide) | (intros; simp (disch := (apply hX.mono; decide))))

@[simp] theorem execSeqFork_but (hX : Covers X (failFields ++ lineFields ++ [.queues])) (cmd : Nat) (s : State) : SameBut X s (execSeqFork cmd s) := by
  simp only [execSeqFork]
  split <;> simp (disch := first | (apply hX.mono; decide) | (intros; simp (disch := (apply hX.mono; decide))))

@[simp] theorem execSeqFree_but (hX : Covers X failFields) (cmd : Nat) (s : State) : SameBut X s (execSeqFree cmd s) := by
  simp only [execSeqFree, sameBut_next]
  refine control_but (hX.mono (by decide)) _ _ _ _ _ fun c => ?_
  dsimp only
  repeat' split
  all_goals simp (disch := (apply hX.mono; decide))

@[simp] theorem State.commitFree_but (hX : Covers X [.seqs]) (s : State) (c : Cmd) : (s.commitFree c).but X = s.but X := by
  simp (disch := (apply hX.mono; decide)) [State.commitFree]

end
end Sys2Proof.Machine
end

section
/-! PROOF. The frame of each operation: what sequences and their restores leave of the state. -/

namespace Sys2Proof.Machine
section
variable {X : Field → Bool}

@[simp] theorem State.runUnpark_but (hX : Covers X (hostFields ++ lineFields ++ meterFields ++ [.fresh, .cmds, .progress, .seqs, .frames, .poison, .stores]))
    (s : State) (id : Nat) (c : Cmd) : (s.runUnpark id c).but X = s.but X := by
  simp only [State.runUnpark]
  split
  · exact State.toReady_but (hX.mono (by decide)) s _ _
  · next s1 fs e =>
    have h1 : s1.but X = s.but X := by
      split at e
      · exact congrArg (fun x : State × List Nat => x.1.but X) (Option.some.inj e).symm
      · exact State.draw_but (hX.mono (by decide)) s _ _ _ _ e
    rw [State.toReady_but (hX.mono (by decide)), State.setCmd_but (hX.mono (by decide))]
    refine (foldl_but _ _ _ fun a p => ?_).trans ((State.leafDma_but (hX.mono (by decide)) s1 _ _).trans h1)
    rw [State.markLeaf_but (hX.mono (by decide)), State.writeLeaf_but (hX.mono (by decide)), State.writeLeaf_but (hX.mono (by decide))]

@[simp] theorem State.commitUnpark_but (hX : Covers X (meterFields ++ [.seqs, .frames, .stores])) (s : State) (c : Cmd) : (s.commitUnpark c).but X = s.but X := by
  simp (disch := first | (apply hX.mono; decide) | (intros; simp (disch := (apply hX.mono; decide)))) [State.commitUnpark]

@[simp] theorem State.runImage_but (hX : Covers X (hostFields ++ lineFields ++ meterFields ++ [.fresh, .cmds, .progress, .seqs, .frames, .poison, .stores]))
    (s : State) (id : Nat) (c : Cmd) : (s.runImage id c).but X = s.but X := by
  simp only [State.runImage]
  split
  · exact State.toReady_but (hX.mono (by decide)) s _ _
  · rfl
  · split
    · exact State.toReady_but (hX.mono (by decide)) s _ _
    · split
      · exact State.toReady_but (hX.mono (by decide)) s _ _
      · next s1 fs e =>
        have h1 : s1.but X = s.but X := by
          by_cases hf : c.frames.isEmpty = true
          · simp only [hf, if_true] at e
            obtain ⟨r, hr, hs⟩ := Option.map_eq_some_iff.1 e
            rw [show s1 = _ from (congrArg Prod.fst hs).symm]
            refine (foldl_but _ _ _ fun a x => State.addRef_but (hX.mono (by decide)) a _).trans ?_
            exact (State.markPages_but (hX.mono (by decide)) _ _ _).trans (State.draw_but (hX.mono (by decide)) s _ _ _ _ hr)
          · rw [if_neg hf] at e
            exact congrArg (fun x : State × List Nat => x.1.but X) (Option.some.inj e).symm
        rw [State.toReady_but (hX.mono (by decide)), State.setCmd_but (hX.mono (by decide))]
        refine (foldl_but _ _ _ fun a p => ?_).trans h1
        rw [State.writeLeaf_but (hX.mono (by decide)), State.writeLeaf_but (hX.mono (by decide))]

@[simp] theorem State.insertNode_but (hX : Covers X [.trees]) (s : State) (d : Nat) (q : Seq) (x : PrefixNode) : (s.insertNode d q x).but X = s.but X := by
  simp (disch := (apply hX.mono; decide)) [State.insertNode]
  split <;> simp (disch := (apply hX.mono; decide))

@[simp] theorem State.commitImage_but (hX : Covers X (meterFields ++ [.seqs, .frames, .trees, .stores])) (s : State) (c : Cmd) :
    (s.commitImage c).but X = s.but X := by
  simp only [State.commitImage]
  split <;> simp (disch := first | (apply hX.mono; decide) | (intros; simp (disch := (apply hX.mono; decide))))

@[simp] theorem execSeqRestoreUnpark_but (hX : Covers X (failFields ++ lineFields ++ [.queues])) (cmd : Nat) (s : State) :
    SameBut X s (execSeqRestoreUnpark cmd s) := by
  simp (disch := first | (apply hX.mono; decide) | (intros; simp (disch := (apply hX.mono; decide)))) [execSeqRestoreUnpark]

@[simp] theorem execSeqRestoreImage_but (hX : Covers X (failFields ++ lineFields ++ [.queues])) (cmd : Nat) (s : State) :
    SameBut X s (execSeqRestoreImage cmd s) := by
  simp (disch := first | (apply hX.mono; decide) | (intros; simp (disch := (apply hX.mono; decide)))) [execSeqRestoreImage]

@[simp] theorem State.commitBindery_but (hX : Covers X (lineFields ++ meterFields ++ dmaFields ++ [.seqs, .frames, .steps, .trees, .poison, .stores]))
    (s : State) (c : Cmd) : (s.commitBindery c).but X = s.but X := by
  simp only [State.commitBindery]
  split <;> simp (disch := (apply hX.mono; decide))

@[simp] theorem move_but (hX : Covers X failFields) (op : Nat) (body : Nat → Cmd → State → State) (cmd : Nat) (s : State)
    (hbody : ∀ i c t, (body i c t).but X = t.but X) : (move op body cmd s).but X = s.but X :=
  bindery_but hX _ _ _ _ _ hbody

@[simp] theorem State.endMove_but (hX : Covers X [.fresh, .cmds, .progress]) (s : State) (id : Nat) (fail : Option (Nat × Nat)) :
    (s.endMove id fail).but X = s.but X := by
  simp only [State.endMove]
  split <;> simp (disch := (apply hX.mono; decide))

@[simp] theorem execMoveCopy_but (hX : Covers X (failFields ++ putFields)) (cmd : Nat) (s : State) : SameBut X s (execMoveCopy cmd s) := by
  simp only [execMoveCopy, sameBut_next]
  refine control_but (hX.mono (by decide)) _ _ _ _ _ fun c => ?_
  dsimp only
  repeat' split
  all_goals simp (disch := first | (apply hX.mono; decide) | (intros; simp (disch := (apply hX.mono; decide))))

@[simp] theorem execMoveImport_but (hX : Covers X (failFields ++ putFields)) (cmd : Nat) (s : State) : SameBut X s (execMoveImport cmd s) := by
  simp only [execMoveImport, sameBut_next]
  refine control_but (hX.mono (by decide)) _ _ _ _ _ fun c => ?_
  dsimp only
  repeat' split
  all_goals simp (disch := first | (apply hX.mono; decide) | (intros; simp (disch := (apply hX.mono; decide))))

@[simp] theorem execMoveExport_but (hX : Covers X failFields) (cmd : Nat) (s : State) : SameBut X s (execMoveExport cmd s) := by
  simp only [execMoveExport, sameBut_next]
  refine control_but (hX.mono (by decide)) _ _ _ _ _ fun c => ?_
  dsimp only
  repeat' split
  all_goals simp (disch := (apply hX.mono; decide))

@[simp] theorem execMoveSeqExport_but (hX : Covers X (failFields ++ [.queues])) (cmd : Nat) (s : State) : SameBut X s (execMoveSeqExport cmd s) := by
  simp only [execMoveSeqExport, sameBut_next]
  refine control_but (hX.mono (by decide)) _ _ _ _ _ fun c => ?_
  dsimp only
  repeat' split
  all_goals simp (disch := (apply hX.mono; decide))

@[simp] theorem execMoveRetier_but (hX : Covers X failFields) (cmd : Nat) (s : State) : SameBut X s (execMoveRetier cmd s) := by
  simp only [execMoveRetier]
  repeat' split
  all_goals simp (disch := first | (apply hX.mono; decide) | (intros; simp (disch := (apply hX.mono; decide))))

@[simp] theorem State.commitRetier_but (hX : Covers X (cacheFields ++ [.objects, .poison, .stores])) (s : State) (c : Cmd) :
    (s.commitRetier c).but X = s.but X := by
  unfold State.commitRetier
  split
  · rfl
  · next k o _ =>
    extract_lets back s1 moved new s2 read left s3 put
    have h1 : s1.but X = s.but X := foldl_but _ _ _ fun a n => State.writeBack_but (hX.mono (by decide)) a k n
    have h2 : s2.but X = s.but X := by
      simp only [s2]
      repeat' split
      · refine (foldl_but _ _ _ fun a n => ?_).trans h1
        exact (State.bulkWrite_but (hX.mono (by decide)) _ _ _ _).trans (State.bulkWrite_but (hX.mono (by decide)) _ _ _ _)
      · exact (State.bulkDma_but (hX.mono (by decide)) _ _ _ _ _).trans h1
      · exact h1
    have hread : read.but X = s.but X := by
      simp only [read]
      split
      · exact h2
      · exact (foldl_but _ _ _ fun a v => foldl_but _ _ _ fun b n => State.readMoved_but (hX.mono (by decide)) b k v n).trans h2
    have h3 : s3.but X = s.but X :=
      (State.t2cache_stores (hX.mono (by decide)) (read.leavePages o) _ (DieState.unpin · o.holdsLine) fun _ => rfl).trans
        ((State.leavePages_but (hX.mono (by decide)) read o).trans hread)
    have hput : put.but X = s.but X := (State.setObj_but (hX.mono (by decide)) _ _ _).trans h3
    split
    · exact hput
    · exact (State.filled_but (hX.mono (by decide)) put k).trans hput

@[simp] theorem State.commitMove_but (hX : Covers X (cacheFields ++ [.objects, .poison, .stores])) (s : State) (c : Cmd) : (s.commitMove c).but X = s.but X := by
  simp (disch := (apply hX.mono; decide)) [State.commitMove]

@[simp] theorem State.setStream_but (hX : Covers X [.engines]) (s : State) (c : Cmd) (x : CodecStream) : (s.setStream c x).but X = s.but X := by
  simp (disch := (apply hX.mono; decide)) [State.setStream]

theorem State.openStream_but (hX : Covers X [.engines]) {s t : State} {c : Cmd} (e : s.openStream c = .ok t) : t.but X = s.but X := by
  simp only [State.openStream] at e
  repeat' split at e
  · cases e
  · cases e
  · cases e
    exact State.setStream_but hX s _ _

@[simp] theorem State.takeTurn_but (hX : Covers X [.cmds, .progress, .engines]) (s : State) (d id : Nat) : (s.takeTurn d id).but X = s.but X := by
  simp only [State.takeTurn]
  split <;> simp (disch := (apply hX.mono; decide))

@[simp] theorem execCodecFrameBoundary_but (hX : Covers X [.cmds, .progress, .engines]) (die : Nat) (s : State) : SameBut X s (execCodecFrameBoundary die s) := by
  simp (disch := (apply hX.mono; decide)) [execCodecFrameBoundary]
  split <;> simp (disch := (apply hX.mono; decide))

@[simp] theorem State.modCmd_but (hX : Covers X [.cmds, .progress]) (s : State) (id : Nat) (f : Cmd → Cmd) : (s.modCmd id f).but X = s.but X := by
  simp only [State.modCmd]
  split <;> simp (disch := (apply hX.mono; decide))

@[simp] theorem State.endFrame_but (hX : Covers X (putFields ++ [.fresh]))
    (s : State) (id : Nat) (c : Cmd) (fails : List (Nat × Nat)) (out rec : Bytes) (result : List Nat) : (s.endFrame id c fails out rec result).but X = s.but X := by
  unfold State.endFrame
  dsimp only
  repeat' split
  all_goals simp (disch := (apply hX.mono; decide))

@[simp] theorem State.encodeBody_but (hX : Covers X (putFields ++ [.fresh])) (s : State) (id : Nat) (c : Cmd) (x : CodecStream) (ik : Nat) (o : Obj) :
    (s.encodeBody id c x ik o).but X = s.but X := by
  simp (disch := (apply hX.mono; decide)) [State.encodeBody]

@[simp] theorem State.decodeBody_but (hX : Covers X (putFields ++ [.fresh])) (s : State) (id : Nat) (c : Cmd) (x : CodecStream) (ik : Nat) (o : Obj) :
    (s.decodeBody id c x ik o).but X = s.but X := by
  unfold State.decodeBody
  dsimp only
  repeat' split
  all_goals simp (disch := (apply hX.mono; decide))

@[simp] theorem codecFrame_but (hX : Covers X failFields) (op : Nat) (body : State → Nat → Cmd → CodecStream → Nat → Obj → State) (cmd : Nat)
    (s : State) (hbody : ∀ t i c x k o, (body t i c x k o).but X = t.but X) : (codecFrame op body cmd s).but X = s.but X := by
  unfold codecFrame
  refine control_but (hX.mono (by decide)) _ _ _ _ _ fun c => ?_
  dsimp only
  repeat' split
  all_goals simp (disch := (apply hX.mono; decide)) [hbody]

@[simp] theorem execCodecEncode_but (hX : Covers X (failFields ++ putFields)) (cmd : Nat) (s : State) : SameBut X s (execCodecEncode cmd s) := by
  simp (disch := first | (apply hX.mono; decide) | (intros; simp (disch := (apply hX.mono; decide)))) [execCodecEncode]

@[simp] theorem execCodecDecode_but (hX : Covers X (failFields ++ putFields)) (cmd : Nat) (s : State) : SameBut X s (execCodecDecode cmd s) := by
  simp (disch := first | (apply hX.mono; decide) | (intros; simp (disch := (apply hX.mono; decide)))) [execCodecDecode]

@[simp] theorem streamOp_but (hX : Covers X failFields) (op : Nat) (f : Cmd → State → State) (cmd : Nat) (s : State) (hf : ∀ c t, (f c t).but X = t.but X) :
    (streamOp op f cmd s).but X = s.but X := by
  unfold streamOp
  refine control_but hX _ _ _ _ _ fun c => ?_
  repeat' split
  all_goals simp (disch := (apply hX.mono; decide)) [hf]

@[simp] theorem execCodecOpen_but (hX : Covers X failFields) (cmd : Nat) (s : State) : SameBut X s (execCodecOpen cmd s) := by
  refine (sameBut_next _ _).2 (control_but hX _ _ _ _ _ fun c => ?_)
  split
  · exact State.finish_but (hX.mono (by decide)) s _ _ _
  · split
    · exact State.failCmd_but hX s _ _ _
    · split
      · exact State.failCmd_but hX s _ _ _
      · next e => exact (State.finish_but (hX.mono (by decide)) _ _ _ _).trans (State.openStream_but (hX.mono (by decide)) e)

@[simp] theorem execCodecClose_but (hX : Covers X failFields) (cmd : Nat) (s : State) : SameBut X s (execCodecClose cmd s) := by
  simp (disch := first | (apply hX.mono; decide) | (intros; simp (disch := (apply hX.mono; decide)))) [execCodecClose]

@[simp] theorem execCodecKeyReq_but (hX : Covers X failFields) (cmd : Nat) (s : State) : SameBut X s (execCodecKeyReq cmd s) := by
  simp only [execCodecKeyReq, sameBut_next]
  refine control_but (hX.mono (by decide)) _ _ _ _ _ fun c => ?_
  dsimp only
  repeat' split
  all_goals simp (disch := (apply hX.mono; decide))

@[simp] theorem State.commitCodec_but (hX : Covers X [.engines]) (s : State) (c : Cmd) : (s.commitCodec c).but X = s.but X := by
  simp (disch := (apply hX.mono; decide)) [State.commitCodec]
  split <;> simp (disch := (apply hX.mono; decide))

@[simp] theorem State.serveDie_but (hX : Covers X [.cmds, .progress, .engines]) (cmd d fuel : Nat) (s : State) : (State.serveDie cmd d fuel s).but X = s.but X := by
  induction fuel generalizing s with
  | zero => rfl
  | succ fuel ih =>
    simp only [State.serveDie]
    repeat' split
    all_goals simp (disch := (apply hX.mono; decide)) [ih]

@[simp] theorem State.serveImages_but (hX : Covers X [.cmds, .progress, .engines]) (s : State) (cmd : Nat) : (s.serveImages cmd).but X = s.but X := by
  refine foldl_but _ _ _ fun a d => ?_
  split
  · exact State.serveDie_but hX cmd d _ a
  · rfl

end
end Sys2Proof.Machine
end

section
/-! PROOF. The frame of each operation: what codecs, detection and the group commands leave of the state. -/

namespace Sys2Proof.Machine
section
variable {X : Field → Bool}

@[simp] theorem execDetectPost_but (hX : Covers X (failFields ++ putFields ++ lineFields)) (cmd : Nat) (s : State) : SameBut X s (execDetectPost cmd s) := by
  simp only [execDetectPost, sameBut_next]
  refine control_but (hX.mono (by decide)) _ _ _ _ _ fun c => ?_
  repeat' split
  all_goals simp (disch := first | (apply hX.mono; decide) | (intros; simp (disch := (apply hX.mono; decide))))

@[simp] theorem State.sendControl_but (hX : Covers X [.links, .frameOut]) (s : State) (l : Nat) (nak : Bool) : (s.sendControl l nak).but X = s.but X :=
  (State.but_frameOut (hX.mono (by decide)) _ _).trans (State.setLink_but (hX.mono (by decide)) s l _)
@[simp] theorem State.sendLinkFor_but (hX : Covers X (meterFields ++ [.linkOut])) (s : State) (part l : Nat) (m : Msg) :
    (s.sendLinkFor part l m).but X = s.but X := by
  simp only [State.sendLinkFor]
  split <;> simp (disch := (apply hX.mono; decide))

@[simp] theorem State.linkRound_but (hX : Covers X [.fresh, .links, .linkOut, .frameOut]) (s : State) (l : Nat) : (s.linkRound l).but X = s.but X := by
  unfold State.linkRound
  dsimp only
  split
  · exact (State.setLink_but (hX.mono (by decide)) _ l _).trans (State.takeFresh_but (hX.mono (by decide)) s)
  · split
    · rfl
    · exact (State.but_linkOut_frameOut (hX.mono (by decide)) _ _ _).trans (State.setLink_but (hX.mono (by decide)) s l _)

@[simp] theorem State.idle_but (hX : Covers X [.fresh, .counters, .links, .linkOut, .frameOut]) (s : State) : s.idle.but X = s.but X := by
  simp (disch := first | (apply hX.mono; decide) | (intros; simp (disch := (apply hX.mono; decide)))) [State.idle]

@[simp] theorem State.markDown_but (hX : Covers X (failFields ++ [.links])) (s : State) (l : Nat) : (s.markDown l).but X = s.but X := by
  simp (disch := first | (apply hX.mono; decide) | (intros; simp (disch := (apply hX.mono; decide)))) [State.markDown]

@[simp] theorem State.startRetrain_but (hX : Covers X [.links]) (s : State) (l : Nat) : (s.startRetrain l).but X = s.but X := by
  simp (disch := (apply hX.mono; decide)) [State.startRetrain]

@[simp] theorem State.sendHello_but (hX : Covers X [.linkOut]) (s : State) (l : Nat) : (s.sendHello l).but X = s.but X := by
  simp (disch := (apply hX.mono; decide)) [State.sendHello]

@[simp] theorem State.refuseFrame_but (hX : Covers X [.links, .frameOut]) (s : State) (l : Nat) (crcOk : Bool) : (s.refuseFrame l crcOk).but X = s.but X := by
  simp (disch := (apply hX.mono; decide)) [State.refuseFrame]

@[simp] theorem State.acceptData_but (hX : Covers X (failFields ++ [.links, .frameOut, .linkIn])) (s : State) (l vc : Nat) (x : Link) (payload : Bytes) :
    (s.acceptData l vc x payload).but X = s.but X := by
  have hl : ∀ y : Link, (s.setLink l y).but X = s.but X := fun y => State.setLink_but (hX.mono (by decide)) s l y
  have hi : ∀ (y : Link) m, State.but X { s.setLink l y with linkIn := m } = s.but X := fun y m => (State.but_linkIn (hX.mono (by decide)) _ _).trans (hl y)
  unfold State.acceptData
  dsimp only
  split
  · split
    · exact State.markDown_but (hX.mono (by decide)) s l
    · exact (State.refuseFrame_but (hX.mono (by decide)) _ l _).trans (hl _)
  · split
    · exact (State.sendControl_but (hX.mono (by decide)) _ l _).trans (hi _ _)
    · exact hi _ _

@[simp] theorem execLinkDataFrame_but (hX : Covers X (failFields ++ [.links, .frameOut, .linkIn]))
    (link vc seqNo : Nat) (crcOk : Bool) (payload : Bytes) (s : State) : SameBut X s (execLinkDataFrame link vc seqNo crcOk payload s) := by
  simp (disch := (apply hX.mono; decide)) [execLinkDataFrame]
  split <;> simp (disch := (apply hX.mono; decide))

@[simp] theorem execLinkControlFrame_but (hX : Covers X [.links, .frameOut]) (link seqNo : Nat) (crcOk : Bool) (credits : List Nat) (ack : Nat) (s : State) :
    SameBut X s (execLinkControlFrame link seqNo crcOk credits ack s) := by
  simp (disch := (apply hX.mono; decide)) [execLinkControlFrame]
  split <;> simp (disch := (apply hX.mono; decide))

@[simp] theorem execLinkNak_but (hX : Covers X [.links, .frameOut]) (link seqNo : Nat) (credits : List Nat) (ack : Nat) (s : State) :
    SameBut X s (execLinkNak link seqNo credits ack s) := by
  have hl : ∀ y : Link, (s.setLink link y).but X = s.but X := fun y => State.setLink_but (hX.mono (by decide)) s link y
  unfold execLinkNak
  dsimp only
  repeat' split
  · exact (sameBut_next _ _).2 rfl
  · exact (sameBut_next _ _).2 (State.refuseFrame_but hX s link _)
  · exact (sameBut_next _ _).2 ((State.startRetrain_but (hX.mono (by decide)) _ link).trans (hl _))
  · exact (sameBut_next _ _).2 ((State.but_frameOut (hX.mono (by decide)) _ _).trans (hl _))

@[simp] theorem execLinkControlTimer_but (hX : Covers X [.counters, .links, .frameOut]) (link : Nat) (t : Word) (s : State) :
    SameBut X s (execLinkControlTimer link t s) := by
  simp (disch := (apply hX.mono; decide)) [execLinkControlTimer]

@[simp] theorem execUncorrectableCodeword_but (hX : Covers X [.links]) (link : Nat) (s : State) : SameBut X s (execUncorrectableCodeword link s) := by
  simp (disch := (apply hX.mono; decide)) [execUncorrectableCodeword]

@[simp] theorem execLinkRetrainDone_but (hX : Covers X [.links, .linkOut, .frameOut]) (link : Nat) (s : State) : SameBut X s (execLinkRetrainDone link s) := by
  have hl : ∀ y : Link, (s.setLink link y).but X = s.but X := fun y => State.setLink_but (hX.mono (by decide)) s link y
  unfold execLinkRetrainDone
  dsimp only
  repeat' split
  · exact (sameBut_next _ _).2 rfl
  · exact (sameBut_next _ _).2 ((State.but_frameOut (hX.mono (by decide)) _ _).trans (hl _))
  · exact (sameBut_next _ _).2 ((State.sendHello_but (hX.mono (by decide)) _ link).trans (hl _))

@[simp] theorem execLinkRetrainTimeout_but (hX : Covers X (failFields ++ [.counters, .links])) (link : Nat) (t : Word) (s : State) :
    SameBut X s (execLinkRetrainTimeout link t s) := by
  simp (disch := (apply hX.mono; decide)) [execLinkRetrainTimeout]

@[simp] theorem execLinkTrainingRetry_but (hX : Covers X [.counters, .links, .linkOut]) (link : Nat) (ok : Bool) (t : Word) (s : State) :
    SameBut X s (execLinkTrainingRetry link ok t s) := by
  simp (disch := (apply hX.mono; decide)) [execLinkTrainingRetry]

@[simp] theorem State.deliver_but (hX : Covers X [.linkIn]) (s : State) (link : Nat) (m : Msg) : (s.deliver link m).but X = s.but X := by
  simp (disch := (apply hX.mono; decide)) [State.deliver]

@[simp] theorem State.sendKey_but (hX : Covers X [.fresh, .keyOut]) (s : State) (l : Nat) : (s.sendKey l).but X = s.but X := by
  unfold State.sendKey
  split
  · exact (State.but_keyOut (hX.mono (by decide)) _ _).trans (State.takeFresh_but (hX.mono (by decide)) s)
  · rfl

@[simp] theorem execHello_but (hX : Covers X [.fresh, .links, .linkIn, .keyOut]) (link : Nat) (m : Msg) (s : State) : SameBut X s (execHello link m s) := by
  simp (disch := (apply hX.mono; decide)) [execHello]

@[simp] theorem execPartIdWrite_but (hX : Covers X (reportFields ++ [.linkOut, .partId])) (value : Nat) (s : State) : SameBut X s (execPartIdWrite value s) := by
  simp (disch := first | (apply hX.mono; decide) | (intros; simp (disch := (apply hX.mono; decide)))) [execPartIdWrite]

@[simp] theorem execXlinkVcWeightWrite_but (hX : Covers X [.links]) (link value : Nat) (s : State) : SameBut X s (execXlinkVcWeightWrite link value s) := by
  simp (disch := (apply hX.mono; decide)) [execXlinkVcWeightWrite]

@[simp] theorem execXlinkSecWrite_but (hX : Covers X [.links]) (link value : Nat) (s : State) : SameBut X s (execXlinkSecWrite link value s) := by
  simp (disch := (apply hX.mono; decide)) [execXlinkSecWrite]

@[simp] theorem execXlinkTestWrite_but (hX : Covers X (failFields ++ [.links])) (link value : Nat) (s : State) :
    SameBut X s (execXlinkTestWrite link value s) := by
  simp (disch := (apply hX.mono; decide)) [execXlinkTestWrite]

@[simp] theorem execLinkKeyExchange_but (hX : Covers X (failFields ++ [.links]))
    (link : Nat) (peerEnabled chainOk : Bool) (peerSvn : Nat) (peerUnlocked : Bool) (s : State) : SameBut X s (execLinkKeyExchange link peerEnabled chainOk peerSvn peerUnlocked s) := by
  simp (disch := (apply hX.mono; decide)) [execLinkKeyExchange]
  split <;> simp (disch := (apply hX.mono; decide))

@[simp] theorem execLinkSessionLimit_but (hX : Covers X [.links]) (link : Nat) (s : State) : SameBut X s (execLinkSessionLimit link s) := by
  simp (disch := (apply hX.mono; decide)) [execLinkSessionLimit]

@[simp] theorem State.dropMsg_but (hX : Covers X reportFields) (s : State) (link type : Nat) : (s.dropMsg link type).but X = s.but X := by
  simp (disch := (apply hX.mono; decide)) [State.dropMsg]

@[simp] theorem execMessageForward_but (hX : Covers X (reportFields ++ meterFields ++ [.linkOut, .linkIn])) (link : Nat) (m : Msg) (s : State) :
    SameBut X s (execMessageForward link m s) := by
  unfold execMessageForward
  dsimp only
  repeat' split
  all_goals simp (disch := (apply hX.mono; decide))

@[simp] theorem execMessageDrop_but (hX : Covers X (reportFields ++ [.linkIn])) (link vc : Nat) (m : Msg) (s : State) :
    SameBut X s (execMessageDrop link vc m s) := by
  simp (disch := (apply hX.mono; decide)) [execMessageDrop]

@[simp] theorem execGroupSet_but (hX : Covers X (failFields ++ [.groups])) (cmd : Nat) (s : State) : SameBut X s (execGroupSet cmd s) := by
  simp only [execGroupSet, sameBut_next]
  refine control_but (hX.mono (by decide)) _ _ _ _ _ fun c => ?_
  repeat' split
  all_goals simp (disch := first | (apply hX.mono; decide) | (intros; simp (disch := (apply hX.mono; decide))))

@[simp] theorem execGroupClear_but (hX : Covers X (failFields ++ [.groups, .fprintWait])) (cmd : Nat) (s : State) : SameBut X s (execGroupClear cmd s) := by
  simp only [execGroupClear, sameBut_next]
  refine control_but (hX.mono (by decide)) _ _ _ _ _ fun c => ?_
  repeat' split
  all_goals simp (disch := first | (apply hX.mono; decide) | (intros; simp (disch := (apply hX.mono; decide))))

end
end Sys2Proof.Machine
end

section
/-! PROOF. The frame of each operation: what collectives leave of the state. -/

namespace Sys2Proof.Machine
section
variable {X : Field → Bool}

@[simp] theorem State.setColl_but (hX : Covers X [.cmds, .progress]) (s : State) (id : Nat) (f : Coll → Coll) : (s.setColl id f).but X = s.but X := by
  simp only [State.setColl]
  split <;> simp (disch := (apply hX.mono; decide))

@[simp] theorem State.sendRank_but (hX : Covers X (meterFields ++ [.linkOut])) (s : State) (c : Cmd) (k : Coll) (g : Group) (q : Nat) (m : Msg) :
    (s.sendRank c k g q m).but X = s.but X := by
  simp only [State.sendRank]
  split <;> simp (disch := (apply hX.mono; decide))

@[simp] theorem State.sendSource_but (hX : Covers X (meterFields ++ [.linkOut])) (s : State) (c : Cmd) (k : Coll) (g : Group) (q : Nat) :
    (s.sendSource c k g q).but X = s.but X := by
  simp (disch := first | (apply hX.mono; decide) | (intros; simp (disch := (apply hX.mono; decide)))) [State.sendSource]

@[simp] theorem State.addContrib_but (hX : Covers X [.cmds, .progress, .stores]) (s : State) (id q sg src : Nat) (vals : List Int) :
    (s.addContrib id q sg src vals).but X = s.but X := by
  unfold State.addContrib
  repeat' split
  · rfl
  · rfl
  · exact (State.setCmd_but (hX.mono (by decide)) _ _ _).trans (State.setDie_stores (hX.mono (by decide)) s _ _ rfl)

@[simp] theorem State.sendAborts_but (hX : Covers X (meterFields ++ [.linkOut])) (s : State) (c : Cmd) (k : Coll) (g : Group) :
    (s.sendAborts c k g).but X = s.but X := by
  simp (disch := first | (apply hX.mono; decide) | (intros; simp (disch := (apply hX.mono; decide)))) [State.sendAborts]

@[simp] theorem State.collKill_but (hX : Covers X failFields) (s : State) (id next : Nat) (preempt : Bool) : (s.collKill id next preempt).but X = s.but X := by
  unfold State.collKill
  dsimp only
  repeat' split
  all_goals simp (disch := (apply hX.mono; decide))

@[simp] theorem State.collPreempt_but (hX : Covers X (failFields ++ [.queues])) (s : State) (id : Nat) : (s.collPreempt id).but X = s.but X := by
  simp only [State.collPreempt]
  repeat' split
  all_goals simp (disch := (apply hX.mono; decide))

@[simp] theorem State.writeDst_but (hX : Covers X putFields) (s : State) (id : Nat) (c : Cmd) (k : Coll) : (s.writeDst id c k).but X = s.but X := by
  simp only [State.writeDst]
  split <;> simp (disch := first | (apply hX.mono; decide) | (intros; simp (disch := (apply hX.mono; decide))))

@[simp] theorem State.collFinish_but (hX : Covers X (putFields ++ [.fresh, .linkOut])) (s : State) (id : Nat) : (s.collFinish id).but X = s.but X := by
  unfold State.collFinish
  repeat' split
  all_goals simp (disch := first | (apply hX.mono; decide) | (intros; simp (disch := (apply hX.mono; decide))))

@[simp] theorem State.spreadResult_but (hX : Covers X (lineFields ++ meterFields)) (s : State) (c : Cmd) (sg base len : Nat) :
    (s.spreadResult c sg base len).but X = s.but X := by
  simp only [State.spreadResult]
  split <;> simp (disch := first | (apply hX.mono; decide) | (intros; simp (disch := (apply hX.mono; decide))))

@[simp] theorem State.fireSegment_but (hX : Covers X (failFields ++ lineFields ++ [.queues])) (s : State) (id sg : Nat) :
    (s.fireSegment id sg).but X = s.but X := by
  unfold State.fireSegment
  repeat' split
  all_goals simp (disch := first | (apply hX.mono; decide) | (intros; simp (disch := (apply hX.mono; decide))))

@[simp] theorem State.addLocal_but (hX : Covers X (lineFields ++ meterFields ++ [.cmds, .progress, .stores]))
    (s : State) (id : Nat) (c : Cmd) (g : Group) (sg i : Nat) : (s.addLocal id c g sg i).but X = s.but X := by
  simp only [State.addLocal]
  split <;> simp (disch := first | (apply hX.mono; decide) | (intros; simp (disch := (apply hX.mono; decide))))

@[simp] theorem State.grantSome_but (hX : Covers X (failFields ++ lineFields ++ [.queues])) (s : State) (id fuel : Nat) : (s.grantSome id fuel).but X = s.but X := by
  induction fuel generalizing s with
  | zero => rfl
  | succ fuel ih =>
    unfold State.grantSome
    split
    · rfl
    · split
      · dsimp only
        split
        · rfl
        rw [ih, State.fireSegment_but (hX.mono (by decide)), foldl_but _ _ _ fun a i => State.addLocal_but (hX.mono (by decide)) a _ _ _ _ _,
          State.setColl_but (hX.mono (by decide))]
      · rfl

@[simp] theorem State.advance_but (hX : Covers X (failFields ++ lineFields ++ [.queues])) (s : State) (id : Nat) : (s.advance id).but X = s.but X := by
  unfold State.advance
  dsimp only
  repeat' split
  all_goals simp (disch := first | (apply hX.mono; decide) | (intros; simp (disch := (apply hX.mono; decide))))

@[simp] theorem State.ownPart_but (hX : Covers X [.cmds, .progress]) (s : State) (id : Nat) (c : Cmd) (g : Group) : (s.ownPart id c g).but X = s.but X := by
  simp (disch := first | (apply hX.mono; decide) | (intros; simp (disch := (apply hX.mono; decide)))) [State.ownPart]

@[simp] theorem State.beginAttempt_but (hX : Covers X (failFields ++ putFields ++ lineFields)) (s : State) (id : Nat) : (s.beginAttempt id).but X = s.but X := by
  unfold State.beginAttempt
  dsimp only
  repeat' split
  all_goals simp (disch := first | (apply hX.mono; decide) | (intros; simp (disch := (apply hX.mono; decide))))

@[simp] theorem State.collRestart_but (hX : Covers X (failFields ++ putFields ++ lineFields)) (s : State) (id next : Nat) :
    (s.collRestart id next).but X = s.but X := by
  simp (disch := (apply hX.mono; decide)) [State.collRestart]

@[simp] theorem State.mendColl_but (hX : Covers X (failFields ++ putFields ++ lineFields)) (s : State) (id : Nat) : (s.mendColl id).but X = s.but X := by
  simp only [State.mendColl]
  repeat' split
  all_goals simp (disch := (apply hX.mono; decide))

@[simp] theorem State.collOpen_but (hX : Covers X (failFields ++ putFields ++ lineFields)) (s : State) (id : Nat) : (s.collOpen id).but X = s.but X := by
  simp (disch := (apply hX.mono; decide)) [State.collOpen]

@[simp] theorem State.advanceAll_but (hX : Covers X (failFields ++ putFields ++ lineFields)) (s : State) : s.advanceAll.but X = s.but X := by
  simp (disch := first | (apply hX.mono; decide) | (intros; simp (disch := (apply hX.mono; decide)))) [State.advanceAll]

@[simp] theorem State.collHeard_but (hX : Covers X (failFields ++ [.queues])) (s : State) (id : Nat) : (s.collHeard id).but X = s.but X := by
  unfold State.collHeard
  repeat' split
  all_goals simp (disch := (apply hX.mono; decide))

@[simp] theorem State.catchUp_but (hX : Covers X (failFields ++ putFields ++ lineFields)) (fuel : Nat) (s : State) (id top : Nat) :
    (State.catchUp fuel s id top).but X = s.but X := by
  induction fuel generalizing s with
  | zero => rfl
  | succ fuel ih =>
    unfold State.catchUp
    repeat' split
    · exact (ih _).trans (State.collRestart_but (hX.mono (by decide)) s _ _)
    all_goals rfl

@[simp] theorem State.takeFprint_but (hX : Covers X (failFields ++ putFields ++ lineFields ++ [.fprintWait])) (s : State) (id : Nat) (m : Msg) :
    (s.takeFprint id m).but X = s.but X := by
  unfold State.takeFprint
  split
  · rfl
  · split
    · rfl
    · dsimp only
      split
      · rfl
      · split
        · exact State.failCmd_but (hX.mono (by decide)) s _ _ _
        · generalize hs0 : State.catchUp _ s id m.attempt = s0
          have h0 : s0.but X = s.but X := hs0 ▸ State.catchUp_but (hX.mono (by decide)) _ s id _
          repeat' split
          · exact h0
          · exact h0
          · exact (State.but_fprintWait (hX.mono (by decide)) s0 _).trans h0
          · exact h0
          all_goals
            rw [State.collHeard_but (hX.mono (by decide)), State.mendColl_but (hX.mono (by decide)), State.collFinish_but (hX.mono (by decide)),
              State.advance_but (hX.mono (by decide)), foldl_but _ _ _ fun a sg => State.fireSegment_but (hX.mono (by decide)) a id sg,
              State.sendSource_but (hX.mono (by decide))]
          · rw [State.sendRank_but (hX.mono (by decide)), State.setColl_but (hX.mono (by decide)), h0]
          · rw [State.setColl_but (hX.mono (by decide)), h0]

@[simp] theorem State.collStart_but (hX : Covers X (failFields ++ putFields ++ lineFields ++ [.fprintWait])) (s : State) (id : Nat) :
    (s.collStart id).but X = s.but X := by
  unfold State.collStart
  dsimp only
  repeat' split
  all_goals simp (disch := first | (apply hX.mono; decide) | (intros; simp (disch := (apply hX.mono; decide))))

@[simp] theorem collective_but (hX : Covers X (failFields ++ putFields ++ lineFields ++ [.fprintWait])) (op : Nat) (cmd : Nat) (s : State) :
    (collective op cmd s).but X = s.but X := by
  refine control_but (hX.mono (by decide)) _ _ _ _ _ fun c => ?_
  split
  · rfl
  · exact State.collStart_but hX s cmd

@[simp] theorem execCollectiveAllReduce_but (hX : Covers X (failFields ++ putFields ++ lineFields ++ [.fprintWait])) (cmd : Nat) (s : State) :
    SameBut X s (execCollectiveAllReduce cmd s) := by
  simp (disch := (apply hX.mono; decide)) [execCollectiveAllReduce]

@[simp] theorem execCollectiveReduceScatter_but (hX : Covers X (failFields ++ putFields ++ lineFields ++ [.fprintWait])) (cmd : Nat) (s : State) :
    SameBut X s (execCollectiveReduceScatter cmd s) := by
  simp (disch := (apply hX.mono; decide)) [execCollectiveReduceScatter]

@[simp] theorem execCollectiveAllGather_but (hX : Covers X (failFields ++ putFields ++ lineFields ++ [.fprintWait])) (cmd : Nat) (s : State) :
    SameBut X s (execCollectiveAllGather cmd s) := by
  simp (disch := (apply hX.mono; decide)) [execCollectiveAllGather]

@[simp] theorem execCollectiveBroadcast_but (hX : Covers X (failFields ++ putFields ++ lineFields ++ [.fprintWait])) (cmd : Nat) (s : State) :
    SameBut X s (execCollectiveBroadcast cmd s) := by
  simp (disch := (apply hX.mono; decide)) [execCollectiveBroadcast]

@[simp] theorem collMsg_but (hX : Covers X (reportFields ++ [.linkIn])) (type link : Nat) (m : Msg) (f : Nat → Cmd → Coll → Group → State → State) (s : State)
    (hf : ∀ i c k g t, (f i c k g t).but X = t.but X) : (collMsg type link m f s).but X = s.but X := by
  simp only [collMsg]
  repeat' split
  all_goals simp (disch := (apply hX.mono; decide)) [hf]

@[simp] theorem execFprint_but (hX : Covers X (failFields ++ putFields ++ lineFields ++ [.linkIn, .fprintWait])) (link : Nat) (m : Msg) (s : State) :
    SameBut X s (execFprint link m s) := by
  have hd : (s.deliver link m).but X = s.but X := State.deliver_but (hX.mono (by decide)) s link m
  have hw : ∀ w, State.but X { s.deliver link m with fprintWait := w } = s.but X := fun w => (State.but_fprintWait (hX.mono (by decide)) _ _).trans hd
  unfold execFprint
  dsimp only
  repeat' split
  · exact (sameBut_next _ _).2 hd
  · exact (sameBut_next _ _).2 ((State.dropMsg_but (hX.mono (by decide)) _ _ _).trans hd)
  · exact (sameBut_next _ _).2 hd
  · exact (sameBut_next _ _).2 (hw _)
  · exact (sameBut_next _ _).2 ((State.advanceAll_but (hX.mono (by decide)) _).trans ((State.takeFprint_but (hX.mono (by decide)) _ _ _).trans hd))
  · exact (sameBut_next _ _).2 (hw _)

@[simp] theorem execGrant_but (hX : Covers X (failFields ++ putFields ++ [.linkIn])) (link : Nat) (m : Msg) (s : State) : SameBut X s (execGrant link m s) := by
  refine (sameBut_next _ _).2 (collMsg_but (hX.mono (by decide)) _ _ _ _ _ fun id c k g t => ?_)
  dsimp only
  split
  · rfl
  · rw [State.collHeard_but (hX.mono (by decide)), State.collFinish_but (hX.mono (by decide)), State.setColl_but (hX.mono (by decide))]
    exact foldl_but _ _ _ fun a j => foldl_but _ _ _ fun b i => State.sendRank_but (hX.mono (by decide)) b _ _ _ _ _

@[simp] theorem execContrib_but (hX : Covers X (failFields ++ putFields ++ lineFields ++ [.linkIn])) (link : Nat) (m : Msg) (s : State) :
    SameBut X s (execContrib link m s) := by
  simp (disch := first | (apply hX.mono; decide) | (intros; simp (disch := (apply hX.mono; decide)))) [execContrib]

@[simp] theorem execResult_but (hX : Covers X (failFields ++ putFields ++ [.linkIn])) (link : Nat) (m : Msg) (s : State) : SameBut X s (execResult link m s) := by
  simp (disch := first | (apply hX.mono; decide) | (intros; simp (disch := (apply hX.mono; decide)))) [execResult]

@[simp] theorem execDone_but (hX : Covers X (failFields ++ putFields ++ [.linkIn])) (link : Nat) (m : Msg) (s : State) : SameBut X s (execDone link m s) := by
  simp (disch := first | (apply hX.mono; decide) | (intros; simp (disch := (apply hX.mono; decide)))) [execDone]

@[simp] theorem execCollAbort_but (hX : Covers X (failFields ++ putFields ++ lineFields ++ [.linkIn])) (link : Nat) (m : Msg) (s : State) :
    SameBut X s (execCollAbort link m s) := by
  simp (disch := first | (apply hX.mono; decide) | (intros; simp (disch := (apply hX.mono; decide)))) [execCollAbort]

@[simp] theorem execCollAbortFinal_but (hX : Covers X (failFields ++ putFields ++ lineFields ++ [.linkIn])) (link : Nat) (m : Msg) (s : State) :
    SameBut X s (execCollAbortFinal link m s) := by
  simp (disch := first | (apply hX.mono; decide) | (intros; simp (disch := (apply hX.mono; decide)))) [execCollAbortFinal]

@[simp] theorem execCollTimeout_but (hX : Covers X (failFields ++ putFields ++ lineFields ++ [.counters])) (cmd : Nat) (t : Word) (s : State) :
    SameBut X s (execCollTimeout cmd t s) := by
  unfold execCollTimeout
  dsimp only
  repeat' split
  all_goals simp (disch := (apply hX.mono; decide))

@[simp] theorem execPreemptGraceExpiry_but (hX : Covers X (failFields ++ putFields ++ lineFields ++ [.counters])) (cmd : Nat) (t : Word) (s : State) :
    SameBut X s (execPreemptGraceExpiry cmd t s) := by
  unfold execPreemptGraceExpiry
  repeat' split
  all_goals simp (disch := (apply hX.mono; decide))

end
end Sys2Proof.Machine
end

section
/-! PROOF. The frame of each operation: what peer transfers, loads and models leave of the state. -/

namespace Sys2Proof.Machine
section
variable {X : Field → Bool}

@[simp] theorem State.setPeer_but (hX : Covers X [.cmds, .progress]) (s : State) (id : Nat) (f : Peer → Peer) : (s.setPeer id f).but X = s.but X := by
  simp only [State.setPeer]
  split <;> simp (disch := (apply hX.mono; decide))

@[simp] theorem State.sendPeer_but (hX : Covers X (meterFields ++ [.linkOut])) (s : State) (c : Cmd) (k : Peer) (m : Msg) :
    (s.sendPeer c k m).but X = s.but X := by
  simp (disch := (apply hX.mono; decide)) [State.sendPeer]

@[simp] theorem State.streamPeer_but (hX : Covers X (failFields ++ [.queues])) (s : State) (id : Nat) : (s.streamPeer id).but X = s.but X := by
  unfold State.streamPeer
  repeat' split
  all_goals simp (disch := first | (apply hX.mono; decide) | (intros; simp (disch := (apply hX.mono; decide))))

@[simp] theorem State.peerKill_but (hX : Covers X failFields) (s : State) (id next : Nat) : (s.peerKill id next).but X = s.but X := by
  unfold State.peerKill
  dsimp only
  repeat' split
  all_goals simp (disch := (apply hX.mono; decide))

@[simp] theorem State.waitReady_but (hX : Covers X [.cmds, .progress]) (s : State) (id : Nat) : (s.waitReady id).but X = s.but X := by
  simp only [State.waitReady]
  split <;> simp (disch := (apply hX.mono; decide))

@[simp] theorem State.sendCatchUp_but (hX : Covers X failFields) (fuel : Nat) (s : State) (id top : Nat) :
    (State.sendCatchUp fuel s id top).but X = s.but X := by
  induction fuel generalizing s with
  | zero => rfl
  | succ fuel ih =>
    simp only [State.sendCatchUp]
    repeat' split
    · rw [ih, State.waitReady_but (hX.mono (by decide)), State.ensureStart_but (hX.mono (by decide)), State.peerKill_but (hX.mono (by decide))]
    all_goals rfl

@[simp] theorem State.keepReady_but (hX : Covers X [.links]) (s : State) (link : Nat) (w : Nat × Nat × Nat) : (s.keepReady link w).but X = s.but X := by
  simp (disch := (apply hX.mono; decide)) [State.keepReady]

@[simp] theorem State.pairPeer_but (hX : Covers X (failFields ++ [.queues, .links])) (s : State) (id attempt len : Nat) :
    (s.pairPeer id attempt len).but X = s.but X := by
  unfold State.pairPeer
  dsimp only
  repeat' split
  all_goals simp (disch := (apply hX.mono; decide))

@[simp] theorem execMovePeerSend_but (hX : Covers X (failFields ++ [.queues, .links])) (cmd : Nat) (s : State) : SameBut X s (execMovePeerSend cmd s) := by
  simp only [execMovePeerSend, sameBut_next]
  refine control_but (hX.mono (by decide)) _ _ _ _ _ fun c => ?_
  dsimp only
  repeat' split
  all_goals simp (disch := first | (apply hX.mono; decide) | (intros; simp (disch := (apply hX.mono; decide))))

@[simp] theorem State.openRecv_but (hX : Covers X (failFields ++ [.queues])) (s : State) (id : Nat) : (s.openRecv id).but X = s.but X := by
  unfold State.openRecv
  repeat' split
  all_goals simp (disch := (apply hX.mono; decide))

@[simp] theorem execMovePeerRecv_but (hX : Covers X (failFields ++ [.queues])) (cmd : Nat) (s : State) : SameBut X s (execMovePeerRecv cmd s) := by
  simp only [execMovePeerRecv]
  split <;> simp (disch := first | (apply hX.mono; decide) | (intros; simp (disch := (apply hX.mono; decide))))

@[simp] theorem execPeerReady_but (hX : Covers X (failFields ++ [.queues, .links, .linkIn])) (link : Nat) (m : Msg) (s : State) :
    SameBut X s (execPeerReady link m s) := by
  simp (disch := (apply hX.mono; decide)) [execPeerReady]
  split <;> simp (disch := (apply hX.mono; decide))

theorem State.storePeer_but (hX : Covers X putFields) {s t : State} {id : Nat} {c : Cmd} {b : Bytes} (e : s.storePeer id c b = .inl t) : t.but X = s.but X := by
  simp only [State.storePeer] at e
  repeat' split at e
  · cases e
    rfl
  · cases e
    exact State.putObj_but hX s _ _ _ _
  · cases e
  · cases e
    exact foldl_but _ _ _ fun a k => State.putIngot_but hX a _ _ _ _ _

@[simp] theorem execPeerData_but (hX : Covers X (failFields ++ putFields ++ [.linkIn])) (link : Nat) (m : Msg) (s : State) : SameBut X s (execPeerData link m s) := by
  have hd : (s.deliver link m).but X = s.but X := State.deliver_but (hX.mono (by decide)) s link m
  have hc : ∀ id d, ((s.deliver link m).setCmd id d).but X = s.but X := fun id d => (State.setCmd_but (hX.mono (by decide)) _ id d).trans hd
  simp only [execPeerData]
  repeat' split
  · exact (sameBut_next _ _).2 hd
  · exact (sameBut_next _ _).2 hd
  · exact (sameBut_next _ _).2 (hc _ _)
  · exact (sameBut_next _ _).2 ((State.failCmd_but (hX.mono (by decide)) _ _ _ _).trans (hc _ _))
  · next e =>
    refine (sameBut_next _ _).2 ((State.toReady_but (hX.mono (by decide)) _ _ _).trans ((State.sendPeer_but (hX.mono (by decide)) _ _ _ _).trans ?_))
    exact (State.storePeer_but (hX.mono (by decide)) e).trans (hc _ _)
  · exact (sameBut_next _ _).2 hd
  · exact (sameBut_next _ _).2 hd

@[simp] theorem execPeerDone_but (hX : Covers X [.fresh, .cmds, .progress, .linkIn]) (link : Nat) (m : Msg) (s : State) : SameBut X s (execPeerDone link m s) := by
  unfold execPeerDone
  dsimp only
  repeat' split
  all_goals simp (disch := (apply hX.mono; decide))

@[simp] theorem execPeerAbort_but (hX : Covers X (failFields ++ [.queues, .linkIn])) (link : Nat) (m : Msg) (s : State) :
    SameBut X s (execPeerAbort link m s) := by
  simp (disch := (apply hX.mono; decide)) [execPeerAbort]
  split <;> simp (disch := (apply hX.mono; decide))

@[simp] theorem execPeerTimeout_but (hX : Covers X (failFields ++ [.counters])) (cmd : Nat) (t : Word) (s : State) : SameBut X s (execPeerTimeout cmd t s) := by
  unfold execPeerTimeout
  repeat' split
  all_goals simp (disch := (apply hX.mono; decide))

@[simp] theorem State.setLoad_but (hX : Covers X [.cmds, .progress]) (s : State) (id : Nat) (f : Load → Load) : (s.setLoad id f).but X = s.but X := by
  simp only [State.setLoad]
  split <;> simp (disch := (apply hX.mono; decide))

@[simp] theorem State.sendUp_but (hX : Covers X (meterFields ++ [.linkOut])) (s : State) (c : Cmd) (m : Msg) : (s.sendUp c m).but X = s.but X := by
  simp (disch := (apply hX.mono; decide)) [State.sendUp]

@[simp] theorem State.sendDown_but (hX : Covers X (meterFields ++ [.linkOut])) (s : State) (c : Cmd) (m : Msg) : (s.sendDown c m).but X = s.but X := by
  simp (disch := (apply hX.mono; decide)) [State.sendDown]

@[simp] theorem State.forwardShard_but (hX : Covers X (meterFields ++ [.cmds, .progress, .linkOut])) (s : State) (id : Nat) (c : Cmd) (i : Nat) (b : Bytes) :
    (s.forwardShard id c i b).but X = s.but X := by
  simp (disch := first | (apply hX.mono; decide) | (intros; simp (disch := (apply hX.mono; decide)))) [State.forwardShard]

@[simp] theorem State.feedDown_but (hX : Covers X (meterFields ++ [.cmds, .progress, .linkOut])) (s : State) (id : Nat) : (s.feedDown id).but X = s.but X := by
  unfold State.feedDown
  repeat' split
  all_goals simp (disch := first | (apply hX.mono; decide) | (intros; simp (disch := (apply hX.mono; decide))))

@[simp] theorem State.tryShard_but (hX : Covers X (.queues :: failFields)) (fuel : Nat) (s : State) (id i : Nat) : (State.tryShard fuel s id i).but X = s.but X := by
  induction fuel generalizing s with
  | zero => exact State.setLoad_but (hX.mono (by decide)) s id _
  | succ fuel ih =>
    simp only [State.tryShard]
    repeat' split
    all_goals simp (disch := (apply hX.mono; decide)) [ih]

@[simp] theorem State.readShard_but (hX : Covers X (.queues :: failFields)) (s : State) (id i : Nat) : (s.readShard id i).but X = s.but X := by
  unfold State.readShard
  repeat' split
  · exact State.tryShard_but hX _ s id i
  all_goals rfl

@[simp] theorem State.loadCheck_but (hX : Covers X failFields) (s : State) (id : Nat) : (s.loadCheck id).but X = s.but X := by
  unfold State.loadCheck
  repeat' split
  all_goals simp (disch := (apply hX.mono; decide))

@[simp] theorem State.recoverShard_but (hX : Covers X (failFields ++ [.queues])) (s : State) (id i : Nat) : (s.recoverShard id i).but X = s.but X := by
  unfold State.recoverShard
  repeat' split
  all_goals simp (disch := (apply hX.mono; decide))

@[simp] theorem State.takeManifest_but (hX : Covers X (failFields ++ [.queues])) (s : State) (id : Nat) (m : Bytes) : (s.takeManifest id m).but X = s.but X := by
  unfold State.takeManifest
  repeat' split
  all_goals simp (disch := first | (apply hX.mono; decide) | (intros; simp (disch := (apply hX.mono; decide))))

@[simp] theorem State.manifestDma_but (hX : Covers X (meterFields ++ dmaFields)) (s : State) (c : Cmd) : (s.manifestDma c).but X = s.but X := by
  simp (disch := (apply hX.mono; decide)) [State.manifestDma]

@[simp] theorem execModelLoad_but (hX : Covers X (failFields ++ [.queues, .links])) (cmd : Nat) (s : State) : SameBut X s (execModelLoad cmd s) := by
  simp only [execModelLoad, sameBut_next]
  refine control_but (hX.mono (by decide)) _ _ _ _ _ fun c => ?_
  repeat' split
  all_goals simp (disch := (apply hX.mono; decide))

@[simp] theorem relayMsg_but (hX : Covers X [.cmds, .progress, .linkIn]) (type : Nat) (up : Bool) (link : Nat) (m : Msg) (f : Nat → Cmd → Load → State → State) (s : State)
    (hf : ∀ i c k t, (f i c k t).but X = t.but X) : (relayMsg type up link m f s).but X = s.but X := by
  simp only [relayMsg]
  repeat' split
  all_goals simp (disch := (apply hX.mono; decide)) [hf]

@[simp] theorem execRelayReady_but (hX : Covers X (meterFields ++ [.cmds, .progress, .links, .linkOut, .linkIn])) (link : Nat) (m : Msg) (s : State) :
    SameBut X s (execRelayReady link m s) := by
  simp (disch := (apply hX.mono; decide)) [execRelayReady]
  split <;> simp (disch := (apply hX.mono; decide))

@[simp] theorem execRelayManifest_but (hX : Covers X (failFields ++ [.queues, .linkIn])) (link : Nat) (m : Msg) (s : State) :
    SameBut X s (execRelayManifest link m s) := by
  simp (disch := first | (apply hX.mono; decide) | (intros; simp (disch := (apply hX.mono; decide)))) [execRelayManifest]

@[simp] theorem execRelayShard_but (hX : Covers X [.cmds, .progress, .linkIn]) (link : Nat) (m : Msg) (s : State) : SameBut X s (execRelayShard link m s) := by
  refine (sameBut_next _ _).2 (relayMsg_but (hX.mono (by decide)) _ _ _ _ _ _ fun i c k t => ?_)
  split
  · rfl
  · dsimp only
    repeat' split
    all_goals simp (disch := (apply hX.mono; decide))

@[simp] theorem execRelayAck_but (hX : Covers X (failFields ++ [.linkIn])) (link : Nat) (m : Msg) (s : State) : SameBut X s (execRelayAck link m s) := by
  simp (disch := first | (apply hX.mono; decide) | (intros; simp (disch := (apply hX.mono; decide)))) [execRelayAck]

@[simp] theorem State.resendShard_but (hX : Covers X (meterFields ++ [.cmds, .progress, .linkOut])) (s : State) (id : Nat) (c : Cmd) (i : Nat) (b : Bytes) :
    (s.resendShard id c i b).but X = s.but X := by
  simp (disch := (apply hX.mono; decide)) [State.resendShard]

@[simp] theorem execRelayNak_but (hX : Covers X (meterFields ++ [.cmds, .progress, .linkOut, .linkIn])) (link : Nat) (m : Msg) (s : State) :
    SameBut X s (execRelayNak link m s) := by
  refine (sameBut_next _ _).2 (relayMsg_but (hX.mono (by decide)) _ _ _ _ _ _ fun i c k t => ?_)
  repeat' split
  · exact State.resendShard_but (hX.mono (by decide)) t _ _ _ _
  all_goals rfl

@[simp] theorem execRelayAbort_but (hX : Covers X (failFields ++ [.queues, .linkIn])) (link : Nat) (m : Msg) (s : State) :
    SameBut X s (execRelayAbort link m s) := by
  unfold execRelayAbort
  dsimp only
  repeat' split
  all_goals simp (disch := first | (apply hX.mono; decide) | (intros; simp (disch := (apply hX.mono; decide))))

@[simp] theorem execShardVerified_but (hX : Covers X (failFields ++ [.queues])) (cmd shard : Nat) (s : State) : SameBut X s (execShardVerified cmd shard s) := by
  unfold execShardVerified
  repeat' split
  all_goals simp (disch := (apply hX.mono; decide))

@[simp] theorem execShardMissingTimeout_but (hX : Covers X (failFields ++ [.counters, .queues])) (cmd shard : Nat) (t : Word) (s : State) :
    SameBut X s (execShardMissingTimeout cmd shard t s) := by
  unfold execShardMissingTimeout
  repeat' split
  all_goals simp (disch := (apply hX.mono; decide))

@[simp] theorem execRelayManifestTimeout_but (hX : Covers X (failFields ++ [.counters, .queues])) (cmd : Nat) (t : Word) (s : State) :
    SameBut X s (execRelayManifestTimeout cmd t s) := by
  unfold execRelayManifestTimeout
  repeat' split
  all_goals simp (disch := (apply hX.mono; decide))

@[simp] theorem execDownstreamTimeout_but (hX : Covers X (failFields ++ [.counters])) (cmd : Nat) (t : Word) (s : State) :
    SameBut X s (execDownstreamTimeout cmd t s) := by
  unfold execDownstreamTimeout
  repeat' split
  all_goals simp (disch := (apply hX.mono; decide))

@[simp] theorem State.commitModel_but (hX : Covers X (cacheFields ++ [.objects, .stores, .linkOut, .models])) (s : State) (c : Cmd) :
    (s.commitModel c).but X = s.but X := by
  simp only [State.commitModel]
  split <;> simp (disch := first | (apply hX.mono; decide) | (intros; simp (disch := (apply hX.mono; decide))))

@[simp] theorem execModelUnload_but (hX : Covers X (failFields ++ [.t2cache, .objects, .models])) (cmd : Nat) (s : State) :
    SameBut X s (execModelUnload cmd s) := by
  simp only [execModelUnload, sameBut_next]
  refine control_but (hX.mono (by decide)) _ _ _ _ _ fun c => ?_
  repeat' split
  all_goals simp (disch := first | (apply hX.mono; decide) | (intros; simp (disch := (apply hX.mono; decide))))

@[simp] theorem execAlloyBind_but (hX : Covers X (failFields ++ putFields ++ [.objects, .alloys])) (cmd : Nat) (s : State) : SameBut X s (execAlloyBind cmd s) := by
  refine (sameBut_next _ _).2 (control_but (hX.mono (by decide)) _ _ _ _ _ fun c => ?_)
  dsimp only
  refine (State.settle_but (hX.mono (by decide)) _ _ _ ?_).trans (State.asDma_but (hX.mono (by decide)) s _ _ _ _)
  split
  · exact judgeBut_error _ _
  · refine (judgeBut_ok _ _).2 ((State.but_alloys (hX.mono (by decide)) _ _).trans (foldl_but _ _ _ fun a e => ?_))
    repeat' split
    all_goals simp (disch := first | (apply hX.mono; decide) | (intros; simp (disch := (apply hX.mono; decide))))

@[simp] theorem execAlloyUnbind_but (hX : Covers X (failFields ++ [.t2cache, .objects, .alloys])) (cmd : Nat) (s : State) :
    SameBut X s (execAlloyUnbind cmd s) := by
  simp only [execAlloyUnbind, sameBut_next]
  refine control_but (hX.mono (by decide)) _ _ _ _ _ fun c => ?_
  repeat' split
  all_goals simp (disch := first | (apply hX.mono; decide) | (intros; simp (disch := (apply hX.mono; decide))))

end
end Sys2Proof.Machine
end

section
/-! PROOF. The frame of each operation: what faults, the spine and the units leave of the state. -/

namespace Sys2Proof.Machine
section
variable {X : Field → Bool}

@[simp] theorem State.reportCs_but (hX : Covers X reportFields) (s : State) (d cls : Nat) : (s.reportCs d cls).but X = s.but X := by
  simp (disch := (apply hX.mono; decide)) [State.reportCs]

@[simp] theorem execPowerSetArithPoint_but (hX : Covers X (failFields ++ [.power])) (cmd : Nat) (s : State) : SameBut X s (execPowerSetArithPoint cmd s) := by
  simp only [execPowerSetArithPoint, sameBut_next]
  refine control_but (hX.mono (by decide)) _ _ _ _ _ fun c => ?_
  repeat' split
  all_goals simp (disch := first | (apply hX.mono; decide) | (intros; simp (disch := (apply hX.mono; decide))))

@[simp] theorem State.settledPoints_but (hX : Covers X recordFields) (s : State) : s.settledPoints.but X = s.but X := by
  simp (disch := first | (apply hX.mono; decide) | (intros; simp (disch := (apply hX.mono; decide)))) [State.settledPoints]

@[simp] theorem execApSettleDone_but (hX : Covers X (recordFields ++ [.power])) (die : Nat) (s : State) : SameBut X s (execApSettleDone die s) := by
  simp only [execApSettleDone]
  split <;> simp (disch := (apply hX.mono; decide))

theorem State.dies_power_stores (hX : Covers X [.stores, .power]) (s : State) (l : List DieState) (p : Power)
    (e : l.map (fun x => { x.lasting with staging := [] }) = s.dies.map (fun x => { x.lasting with staging := [] })) :
    State.but X { s with dies := l, power := p } = s.but X :=
  (State.but_power (hX.mono (by decide)) { s with dies := l } p).trans (State.dies_stores (hX.mono (by decide)) s l e)

@[simp] theorem State.gateGroups_but (hX : Covers X [.stores, .power]) (s : State) (g : BitVec 96) : (s.gateGroups g).but X = s.but X := by
  refine State.dies_power_stores hX s _ _ (map_zipIdx_map (fun x : DieState => { x.lasting with staging := [] }) _ s.dies fun x => ?_)
  have hq := fun gone : List Nat => map_zipIdx_map (fun q : Quire => { q with tiles := [] })
    (fun (q : Quire × Nat) => if gone.contains q.2 then { q.1 with tiles := List.replicate 12 none } else q.1) x.1.quires fun q => by split <;> rfl
  simp only [DieState.lasting, hq]

@[simp] theorem execPowerSetGroupsOff_but (hX : Covers X (failFields ++ [.power])) (cmd : Nat) (s : State) : SameBut X s (execPowerSetGroupsOff cmd s) := by
  refine (sameBut_next _ _).2 (control_but (hX.mono (by decide)) _ _ _ _ _ fun c => ?_)
  repeat' split
  all_goals simp (disch := first | (apply hX.mono; decide) | (intros; simp (disch := (apply hX.mono; decide))))

@[simp] theorem State.groupsOn_but (hX : Covers X [.power]) (s : State) (g : BitVec 96) : (s.groupsOn g).but X = s.but X := by
  simp (disch := (apply hX.mono; decide)) [State.groupsOn]

@[simp] theorem execPowerSetGroupsOn_but (hX : Covers X (failFields ++ [.power])) (cmd : Nat) (s : State) : SameBut X s (execPowerSetGroupsOn cmd s) := by
  refine (sameBut_next _ _).2 (control_but (hX.mono (by decide)) _ _ _ _ _ fun c => ?_)
  repeat' split
  all_goals simp (disch := first | (apply hX.mono; decide) | (intros; simp (disch := (apply hX.mono; decide))))

@[simp] theorem execPowerSetGroupsCycle_but (hX : Covers X (failFields ++ [.power])) (cmd : Nat) (s : State) : SameBut X s (execPowerSetGroupsCycle cmd s) := by
  refine (sameBut_next _ _).2 (control_but (hX.mono (by decide)) _ _ _ _ _ fun c => ?_)
  repeat' split
  all_goals simp (disch := first | (apply hX.mono; decide) | (intros; simp (disch := (apply hX.mono; decide))))

@[simp] theorem execGroupsCycleOnTimer_but (hX : Covers X (recordFields ++ [.counters, .power])) (t : Word) (s : State) : SameBut X s (execGroupsCycleOnTimer t s) := by
  have hr : (s.reach 0 t).but X = s.but X := State.reach_but (hX.mono (by decide)) s 0 t
  unfold execGroupsCycleOnTimer
  dsimp only
  split
  · split
    · refine (sameBut_next _ _).2 ((foldl_but _ _ _ fun a (x : Nat × Cmd) => State.finish_but (hX.mono (by decide)) a x.1 _ _).trans ?_)
      exact (State.groupsOn_but (hX.mono (by decide)) _ _).trans ((State.but_power (hX.mono (by decide)) _ _).trans hr)
    · exact (sameBut_next _ _).2 hr
  · exact (sameBut_next _ _).2 hr

@[simp] theorem execQuireGroupReady_but (hX : Covers X [.counters, .power]) (group : Nat) (t : Word) (s : State) : SameBut X s (execQuireGroupReady group t s) :=
  (sameBut_next _ _).2 ((State.but_power (hX.mono (by decide)) _ _).trans (State.reach_but (hX.mono (by decide)) s _ t))
@[simp] theorem execClampUpdate_but (hX : Covers X (reportFields ++ [.counters, .pins, .power])) (die : Nat) (reading : ClampReading) (t : Word) (s : State) :
    SameBut X s (execClampUpdate die reading t s) := by
  have hr : (s.reach die t).but X = s.but X := State.reach_but (hX.mono (by decide)) s die t
  have hp : ∀ x, ((s.reach die t).setDiePower die x).but X = s.but X := fun x => (State.setDiePower_but (hX.mono (by decide)) _ _ _).trans hr
  unfold execClampUpdate
  dsimp only
  split
  · exact (sameBut_next _ _).2 hr
  · split
    · refine (sameBut_next _ _).2 ((State.reportCs_but (hX.mono (by decide)) _ _ _).trans ?_)
      exact (State.but_pins_power (hX.mono (by decide)) _ _ _).trans (hp _)
    · exact (sameBut_next _ _).2 ((State.but_pins_power (hX.mono (by decide)) _ _ _).trans (hp _))

@[simp] theorem State.trip_but (hX : Covers X [.boot, .pins, .attn]) (s : State) : s.trip.but X = s.but X := by
  simp (disch := (apply hX.mono; decide)) [State.trip]

@[simp] theorem execProtectiveTrip_but (hX : Covers X [.boot, .pins, .attn]) (isStack : Bool) (_unit : Nat) (temp : Int) (s : State) :
    SameBut X s (execProtectiveTrip isStack _unit temp s) := by
  simp (disch := (apply hX.mono; decide)) [execProtectiveTrip]

@[simp] theorem execStackTempReport_but (hX : Covers X (reportFields ++ [.counters, .boot, .pins, .hbm, .poison]))
    (stack : Nat) (temp : Int) (t : Word) (s : State) : SameBut X s (execStackTempReport stack temp t s) := by
  simp (disch := (apply hX.mono; decide)) [execStackTempReport]

@[simp] theorem execIoutCalibration_but (hX : Covers X [.counters, .power]) (die iout sensed : Nat) (t : Word) (s : State) :
    SameBut X s (execIoutCalibration die iout sensed t s) := by
  simp (disch := (apply hX.mono; decide)) [execIoutCalibration]

@[simp] theorem execTelemetryRefresh_but (hX : Covers X [.counters, .power]) (reading : TelemetryReading) (t : Word) (s : State) :
    SameBut X s (execTelemetryRefresh reading t s) := by
  have hr : (s.reach 0 t).but X = s.but X := State.reach_but (hX.mono (by decide)) s 0 t
  unfold execTelemetryRefresh
  dsimp only
  split
  · exact (sameBut_next _ _).2 ((State.but_power (hX.mono (by decide)) _ _).trans hr)
  · exact (sameBut_next _ _).2 hr

@[simp] theorem execRailPoll_but (hX : Covers X [.counters, .power]) (mw : List Nat) (t : Word) (s : State) : SameBut X s (execRailPoll mw t s) :=
  (sameBut_next _ _).2 ((State.but_power (hX.mono (by decide)) _ _).trans (State.reach_but (hX.mono (by decide)) s _ t))
@[simp] theorem execPmbAlert_but (hX : Covers X (reportFields ++ [.pins, .power])) (kind die rail : Nat) (s : State) :
    SameBut X s (execPmbAlert kind die rail s) := by
  simp (disch := (apply hX.mono; decide)) [execPmbAlert]

@[simp] theorem State.setQuire_but (hX : Covers X [.dies, .stores]) (s : State) (d p : Nat) (q : Quire) : (s.setQuire d p q).but X = s.but X := by
  simp (disch := (apply hX.mono; decide)) [State.setQuire]

@[simp] theorem State.reportDrop_but (hX : Covers X reportFields) (s : State) (d kind unit reporter : Nat) :
    (s.reportDrop d kind unit reporter).but X = s.but X := by
  simp (disch := (apply hX.mono; decide)) [State.reportDrop]

@[simp] theorem State.quarantineDie_but (hX : Covers X failFields) (s : State) (d origin : Nat) : (s.quarantineDie d origin).but X = s.but X := by
  simp (disch := first | (apply hX.mono; decide) | (intros; simp (disch := (apply hX.mono; decide)))) [State.quarantineDie]

@[simp] theorem State.commitWithout_but (hX : Covers X recordFields) (s : State) (d : Nat) : (s.commitWithout d).but X = s.but X := by
  simp (disch := first | (apply hX.mono; decide) | (intros; simp (disch := (apply hX.mono; decide)))) [State.commitWithout]

@[simp] theorem State.fenceDie_but (hX : Covers X (failFields ++ [.fatal, .dies, .links])) (s : State) (d origin : Nat) : (s.fenceDie d origin).but X = s.but X := by
  unfold State.fenceDie
  split
  · exact State.enterFatal_but (hX.mono (by decide)) s _
  · split
    · rfl
    · dsimp only
      refine (foldl_but _ _ _ fun a c => State.failRun_but (hX.mono (by decide)) a _ _ _).trans ?_
      rw [State.commitWithout_but (hX.mono (by decide)), State.quarantineDie_but (hX.mono (by decide))]
      refine (State.objects_contents (hX.mono (by decide)) _ _ fun k => ?_).trans ?_
      · exact get?_mapObjects_stamp _ _ _ fun o => by split <;> exact ⟨rfl, rfl⟩
      · rw [State.setLink_but (hX.mono (by decide)), State.report_but (hX.mono (by decide)), State.setDie_but (hX.mono (by decide))]

@[simp] theorem State.checkPair_but (hX : Covers X (failFields ++ [.fatal, .dies, .links])) (s : State) (a b : Nat) : (s.checkPair a b).but X = s.but X := by
  simp (disch := (apply hX.mono; decide)) [State.checkPair]

@[simp] theorem State.settlePaths_but (hX : Covers X (failFields ++ [.fatal, .dies, .links])) (fuel : Nat) (s : State) : (State.settlePaths fuel s).but X = s.but X := by
  induction fuel generalizing s with
  | zero => rfl
  | succ fuel ih =>
    unfold State.settlePaths
    split
    · exact (ih _).trans (State.checkPair_but hX s _ _)
    · rfl

@[simp] theorem State.loseDie_but (hX : Covers X (failFields ++ wireFields ++ [.fatal, .dies, .links])) (s : State) (d origin : Nat) :
    (s.loseDie d origin).but X = s.but X := by
  simp (disch := (apply hX.mono; decide)) [State.loseDie]

@[simp] theorem State.fenceLink_but (hX : Covers X (failFields ++ wireFields ++ [.fatal, .dies, .spine, .links])) (s : State) (a b : Nat) :
    (s.fenceLink a b).but X = s.but X := by
  unfold State.fenceLink
  dsimp only
  split
  · rfl
  · rw [State.rerouted_but (hX.mono (by decide)), State.settlePaths_but (hX.mono (by decide)), State.report_but (hX.mono (by decide)),
      State.setSpine_but (hX.mono (by decide))]

@[simp] theorem State.fenceQuire_but (hX : Covers X (reportFields ++ [.fresh, .subs, .cmds, .progress, .parts, .dies, .stores])) (s : State) (d phys : Nat) :
    (s.fenceQuire d phys).but X = s.but X := by
  unfold State.fenceQuire
  dsimp only
  split
  · rfl
  · refine (foldl_but _ _ _ fun a c => ?_).trans
      ((State.report_but (hX.mono (by decide)) _ _).trans (State.setQuire_but (hX.mono (by decide)) s _ _ _))
    refine (State.withCmd_but _ _ _ fun x => ?_).trans (State.killCmd_but (hX.mono (by decide)) a _ _)
    exact State.setCmd_but (hX.mono (by decide)) _ _ _

@[simp] theorem execFenceAcksComplete_but (hX : Covers X [.dies, .stores, .flow]) (die kind unit : Nat) (s : State) :
    SameBut X s (execFenceAcksComplete die kind unit s) := by
  unfold execFenceAcksComplete
  dsimp only
  repeat' split
  · exact (sameBut_next _ _).2 ((State.setDie_but (hX.mono (by decide)) _ _ _).trans (State.setQuire_but (hX.mono (by decide)) s _ _ _))
  · exact (sameBut_next _ _).2 rfl
  · exact (sameBut_next _ _).2 (State.setSpine_flow (hX.mono (by decide)) s _ _ _ rfl rfl)

@[simp] theorem execQuireProbe_but (hX : Covers X [.counters, .dies, .stores]) (die : Nat) (t : Word) (s : State) : SameBut X s (execQuireProbe die t s) := by
  simp (disch := (apply hX.mono; decide)) [execQuireProbe]

@[simp] theorem execProbeAnswer_but (hX : Covers X [.dies, .stores]) (die phys gen : Nat) (s : State) : SameBut X s (execProbeAnswer die phys gen s) := by
  simp (disch := (apply hX.mono; decide)) [execProbeAnswer]

@[simp] theorem execSpineHeartbeatSend_but (hX : Covers X (sendFields ++ [.counters])) (die far : Nat) (t : Word) (s : State) :
    SameBut X s (execSpineHeartbeatSend die far t s) := by
  simp (disch := (apply hX.mono; decide)) [execSpineHeartbeatSend]

@[simp] theorem execSpineHeartbeatReceive_but (hX : Covers X [.flow]) (die far gen : Nat) (s : State) : SameBut X s (execSpineHeartbeatReceive die far gen s) := by
  unfold execSpineHeartbeatReceive
  dsimp only
  split
  · exact (sameBut_next _ _).2 (State.setSpine_flow (hX.mono (by decide)) s _ _ _ rfl rfl)
  · exact (sameBut_next _ _).2 rfl

@[simp] theorem execHeartbeatMiss_but (hX : Covers X (failFields ++ wireFields ++ [.counters, .fatal, .dies, .spine, .links]))
    (die kind unit : Nat) (t : Word) (s : State) : SameBut X s (execHeartbeatMiss die kind unit t s) := by
  simp (disch := (apply hX.mono; decide)) [execHeartbeatMiss]

@[simp] theorem execSpineMessageReceive_but (hX : Covers X (reportFields ++ sendFields)) (m : SpineMsg) (s : State) : SameBut X s (execSpineMessageReceive m s) := by
  have h : ((s.takeNumber m.src m.dst m.channel m.seqNo).getD s).but X = s.but X := by
    cases e : s.takeNumber m.src m.dst m.channel m.seqNo with
    | none => rfl
    | some t => exact State.takeNumber_but (hX.mono (by decide)) s _ _ _ _ e
  unfold execSpineMessageReceive
  repeat' split
  · exact (sameBut_next _ _).2 (State.reportDrop_but (hX.mono (by decide)) s _ _ _ _)
  · exact (sameBut_next _ _).2 rfl
  · exact (sameBut_next _ _).2 (State.forward_but (hX.mono (by decide)) s m)
  · exact (sameBut_next _ _).2 ((State.landed_but (hX.mono (by decide)) _ m).trans h)

@[simp] theorem execSpineFlitCrcError_but (hX : Covers X (failFields ++ wireFields ++ [.counters, .fatal, .dies, .spine, .links]))
    (a b dir lane : Nat) (t : Word) (s : State) : SameBut X s (execSpineFlitCrcError a b dir lane t s) := by
  simp (disch := (apply hX.mono; decide)) [execSpineFlitCrcError]

@[simp] theorem execLaneRemap_but (hX : Covers X (failFields ++ wireFields ++ [.fatal, .dies, .spine, .links])) (a b dir lane : Nat) (s : State) :
    SameBut X s (execLaneRemap a b dir lane s) := by
  have hs : ∀ (x : SpineLink) r, (((s.setSpine a b x).rerouted s).report r).but X = s.but X := fun x r => by
    rw [State.report_but (hX.mono (by decide)), State.rerouted_but (hX.mono (by decide)), State.setSpine_but (hX.mono (by decide))]
  unfold execLaneRemap
  dsimp only
  split
  · exact (sameBut_next _ _).2 rfl
  · generalize (if dir = 0 then a else b) = far
    generalize (if dir = 0 then b else a) = rx
    repeat' split
    · exact (sameBut_next _ _).2 (hs _ _)
    · exact (sameBut_next _ _).2 (hs _ _)
    · exact (sameBut_next _ _).2 (State.fenceLink_but hX s a b)

@[simp] theorem execSpineRetrainDone_but (hX : Covers X wireFields) (a b : Nat) (s : State) : SameBut X s (execSpineRetrainDone a b s) := by
  unfold execSpineRetrainDone
  dsimp only
  split
  · exact (sameBut_next _ _).2 ((State.rerouted_but hX _ s).trans (State.setSpine_flow (hX.mono (by decide)) s _ _ _ rfl rfl))
  · exact (sameBut_next _ _).2 rfl

@[simp] theorem execUnitReturn_but (hX : Covers X failFields) (cmd : Nat) (s : State) : SameBut X s (execUnitReturn cmd s) := by
  refine (sameBut_next _ _).2 (control_but hX _ _ _ _ _ fun c => ?_)
  have hst : (s.startCmd cmd).but X = s.but X := State.startCmd_but (hX.mono (by decide)) s cmd
  repeat' split
  · rfl
  · exact State.settle_but hX s _ _ (judgeBut_error _ _)
  · exact State.settle_but hX s _ _ (judgeBut_error _ _)
  · refine (State.setQuire_tiles (hX.mono (by decide)) _ _ _ _ ?_).trans hst
    rfl
  · exact hst

@[simp] theorem execSelfTestDone_but (hX : Covers X (failFields ++ wireFields ++ [.dies, .spine])) (cmd verdict : Nat) (s : State) :
    SameBut X s (execSelfTestDone cmd verdict s) := by
  refine (sameBut_next _ _).2 (control_but (hX.mono (by decide)) _ _ _ _ _ fun c => ?_)
  dsimp only
  repeat' split
  · exact State.failCmd_but (hX.mono (by decide)) s _ _ _
  · rw [State.finish_but (hX.mono (by decide)), State.setDie_but (hX.mono (by decide)), State.setQuire_but (hX.mono (by decide))]
  · rw [State.finish_but (hX.mono (by decide)), State.rerouted_but (hX.mono (by decide)), State.setSpine_but (hX.mono (by decide)),
      State.takeFresh_but (hX.mono (by decide))]

@[simp] theorem execPllLossOfLock_but (hX : Covers X (failFields ++ wireFields ++ [.fatal, .dies, .links])) (die : Nat) (s : State) :
    SameBut X s (execPllLossOfLock die s) := by
  simp (disch := (apply hX.mono; decide)) [execPllLossOfLock]

@[simp] theorem execHimonFailure_but (hX : Covers X (failFields ++ wireFields ++ [.fatal, .dies, .links])) (die : Nat) (s : State) :
    SameBut X s (execHimonFailure die s) := by
  simp (disch := (apply hX.mono; decide)) [execHimonFailure]

end
end Sys2Proof.Machine
end

section
/-! PROOF. The frame of each operation: what work at the units and the commit leave of the state. -/

namespace Sys2Proof.Machine
section
variable {X : Field → Bool}

@[simp] theorem State.openWork_but (hX : Covers X (putFields ++ lineFields)) (s : State) (id : Nat) : (s.openWork id).but X = s.but X := by
  unfold State.openWork
  dsimp only
  repeat' split
  all_goals simp (disch := (apply hX.mono; decide))

@[simp] theorem State.openUnit_but (hX : Covers X [.stores]) (s : State) (c : Cmd) (id die quire plane : Nat) (items : List Nat) :
    (s.openUnit c id die quire plane items).but X = s.but X := by
  simp only [State.openUnit]
  split <;> simp (disch := (apply hX.mono; decide))

theorem State.claim_but (hX : Covers X [.cmds, .progress, .stores]) (s : State) (id die quire plane : Nat) {t : State} (e : s.claim id die quire plane = some t) :
    t.but X = s.but X := by
  unfold State.claim at e
  dsimp only at e
  repeat' split at e
  all_goals cases e
  all_goals simp (disch := (apply hX.mono; decide))

@[simp] theorem execUnitClaim_but (hX : Covers X (putFields ++ lineFields)) (cmd die quire plane : Nat) (s : State) : SameBut X s (execUnitClaim cmd die quire plane s) := by
  unfold execUnitClaim
  split
  · next c _ =>
    split
    · have ho : (s.openWork cmd).but X = s.but X := State.openWork_but (hX.mono (by decide)) s cmd
      dsimp only
      split
      · exact (sameBut_next _ _).2 ho
      · next e =>
        refine (sameBut_next _ _).2 ?_
        split
        · rfl
        · exact (State.claim_but (hX.mono (by decide)) _ _ _ _ _ e).trans ho
    · exact (sameBut_next _ _).2 rfl
  · exact (sameBut_next _ _).2 rfl

@[simp] theorem State.useCopies_but (hX : Covers X [.stores]) (s : State) (c : Cmd) (h : Held) (item : Nat) : (s.useCopies c h item).but X = s.but X := by
  unfold State.useCopies
  refine foldl_but _ _ _ fun a x => ?_
  repeat' split
  all_goals simp (disch := (apply hX.mono; decide))

@[simp] theorem State.residueMiss_but (hX : Covers X failFields) (s : State) (id : Nat) (c : Cmd) (die phys : Nat) (own : List (Nat × Nat)) :
    (s.residueMiss id c die phys own).but X = s.but X := by
  simp (disch := (apply hX.mono; decide)) [State.residueMiss]

@[simp] theorem State.closeWork_but (hX : Covers X (putFields ++ lineFields ++ [.fresh, .subs])) (s : State) (id : Nat) : (s.closeWork id).but X = s.but X := by
  simp only [State.closeWork]
  split <;> simp (disch := (apply hX.mono; decide))

@[simp] theorem State.stageOutput_but (hX : Covers X [.stores]) (s : State) (id die quire tile : Nat) : (s.stageOutput id die quire tile).but X = s.but X := by
  unfold State.stageOutput
  repeat' split
  all_goals simp (disch := (apply hX.mono; decide))

@[simp] theorem State.doneBlock_but (hX : Covers X (putFields ++ lineFields)) (s : State) (id die item : Nat) : (s.doneBlock id die item).but X = s.but X := by
  unfold State.doneBlock
  repeat' split
  all_goals simp (disch := (apply hX.mono; decide))

@[simp] theorem execTileComplete_but (hX : Covers X (failFields ++ putFields ++ lineFields)) (cmd tile quire : Nat) (residueOk : Bool) (s : State) :
    SameBut X s (execTileComplete cmd tile quire residueOk s) := by
  unfold execTileComplete
  dsimp only
  repeat' split
  all_goals simp (disch := (apply hX.mono; decide))

@[simp] theorem execSegmentCountSend_but (hX : Covers X (sendFields ++ [.counters, .cmds, .progress])) (die cmd : Nat) (t : Word) (s : State) :
    SameBut X s (execSegmentCountSend die cmd t s) := by
  unfold execSegmentCountSend
  dsimp only
  repeat' split
  all_goals simp (disch := first | (apply hX.mono; decide) | (intros; simp (disch := (apply hX.mono; decide))))

@[simp] theorem execSegmentCountReceive_but (hX : Covers X [.cmds, .progress]) (dst src cmd count : Nat) (s : State) :
    SameBut X s (execSegmentCountReceive dst src cmd count s) := by
  simp only [execSegmentCountReceive]
  split <;> simp (disch := (apply hX.mono; decide))

@[simp] theorem State.fetchUse_but (hX : Covers X (cacheFields ++ lineFields ++ [.stores])) (s : State) (c : Cmd) (role n : Nat) :
    (s.fetchUse c role n).1.but X = s.but X := by
  unfold State.fetchUse
  repeat' split
  all_goals simp (disch := (apply hX.mono; decide))

@[simp] theorem execIngotArrival_but (hX : Covers X (putFields ++ lineFields)) (cmd operand ingot : Nat) (s : State) :
    SameBut X s (execIngotArrival cmd operand ingot s) := by
  unfold execIngotArrival
  dsimp only
  repeat' split
  all_goals simp (disch := first | (apply hX.mono; decide) | (intros; simp (disch := (apply hX.mono; decide))))

@[simp] theorem execT3FetchError_but (hX : Covers X failFields) (cmd operand ingot : Nat) (s : State) : SameBut X s (execT3FetchError cmd operand ingot s) := by
  simp only [execT3FetchError]
  repeat' split
  all_goals simp (disch := (apply hX.mono; decide))

@[simp] theorem execUseDeadlineExpiry_but (hX : Covers X [.counters, .cmds, .progress]) (cmd tile operand ingot : Nat) (t : Word) (s : State) :
    SameBut X s (execUseDeadlineExpiry cmd tile operand ingot t s) := by
  unfold execUseDeadlineExpiry
  dsimp only
  repeat' split
  all_goals simp (disch := (apply hX.mono; decide))

@[simp] theorem execStallLimitExpiry_but (hX : Covers X (failFields ++ [.counters])) (cmd tile operand ingot : Nat) (t : Word) (s : State) :
    SameBut X s (execStallLimitExpiry cmd tile operand ingot t s) := by
  unfold execStallLimitExpiry
  repeat' split
  all_goals simp (disch := (apply hX.mono; decide))

@[simp] theorem State.commitRest_but (hX : Covers X (cacheFields ++ lineFields ++ [.tempers, .objects, .seqs, .frames, .steps, .trees, .poison, .stores, .linkOut, .models, .engines]))
    (s : State) (c : Cmd) : (s.commitRest c).but X = s.but X := by
  simp (disch := (apply hX.mono; decide)) [State.commitRest]

@[simp] theorem State.failAt_but (hX : Covers X failFields) (s : State) (id : Nat) (c : Cmd) : (s.failAt id c).but X = s.but X := by
  simp (disch := (apply hX.mono; decide)) [State.failAt]

@[simp] theorem execCommandCommit_but (hX : Covers X (failFields ++ putFields ++ sendFields ++ [.objects, .steps, .trees, .models])) (cmd : Nat) (s : State) :
    SameBut X s (execCommandCommit cmd s) := by
  simp only [execCommandCommit]
  split <;> simp (disch := first | (apply hX.mono; decide) | (intros; simp (disch := (apply hX.mono; decide))))

@[simp] theorem execCommitMessage_but (hX : Covers X (sendFields ++ [.cmds, .progress, .objects, .contents])) (die cmd : Nat) (s : State) :
    SameBut X s (execCommitMessage die cmd s) := by
  simp only [execCommitMessage]
  split <;> simp (disch := (apply hX.mono; decide))

@[simp] theorem execCommitAck_but (hX : Covers X recordFields) (die cmd : Nat) (s : State) : SameBut X s (execCommitAck die cmd s) := by
  simp only [execCommitAck]
  split <;> simp (disch := (apply hX.mono; decide))

@[simp] theorem execAdmittedDescriptorReceive_but (hX : Covers X [.cmds, .progress]) (die cmd : Nat) (s : State) :
    SameBut X s (execAdmittedDescriptorReceive die cmd s) := by
  simp only [execAdmittedDescriptorReceive]
  split <;> simp (disch := (apply hX.mono; decide))

end
end Sys2Proof.Machine
end

section
/-! PROOF. The frame of each operation: what memory accesses, firmware and security leave of the state. -/

namespace Sys2Proof.Machine
section
variable {X : Field → Bool}

@[simp] theorem execMemMapCtrlWrite_but (hX : Covers X (reportFields ++ [.mitusEn, .nearGib])) (value : Nat) (s : State) :
    SameBut X s (execMemMapCtrlWrite value s) := by
  simp (disch := (apply hX.mono; decide)) [execMemMapCtrlWrite]

@[simp] theorem State.lineWrite_but (hX : Covers X [.contents, .frames, .hbm, .poison, .stores]) (s : State) (x : Nat) (b : Bytes) :
    (s.lineWrite x b).but X = s.but X := by
  unfold State.lineWrite
  split
  · refine (State.dropCopies_but (hX.mono (by decide)) _ _ _ _).trans (State.objects_contents (hX.mono (by decide)) s _ fun k => ?_)
    exact get?_modify_stamp _ _ _ _ fun o => Obj.putBytes_stamp o _ _ _
  · split
    · rw [State.dropKey_but (hX.mono (by decide)), State.setFrames_but (hX.mono (by decide))]
    · exact State.setStack_but (hX.mono (by decide)) s _ _

@[simp] theorem State.reply_but (hX : Covers X (sendFields ++ meterFields ++ [.unitOut])) (s : State) (x die kind unit : Nat) (b : Bytes) :
    (s.reply x die kind unit b).but X = s.but X := by
  simp (disch := (apply hX.mono; decide)) [State.reply]

theorem State.arrives_but (hX : Covers X [.streams, .bulk]) (s : State) (die x : Nat) (stamp : Stamp) {t : State} (e : s.arrives die x stamp = some t) :
    t.but X = s.but X := by
  unfold State.arrives at e
  split at e
  · cases e
  · exact State.takeNumber_but hX s _ _ _ _ e

@[simp] theorem execFarAccessRequest_but (hX : Covers X (reportFields ++ sendFields ++ meterFields ++ [.contents, .frames, .hbm, .poison, .stores, .unitOut]))
    (die kind unit : Nat) (gen : Stamp) (addr : Nat) (isWrite : Bool) (data : Bytes) (s : State) :
    SameBut X s (execFarAccessRequest die kind unit gen addr isWrite data s) := by
  unfold execFarAccessRequest
  split
  · exact (sameBut_next _ _).2 (State.reportDrop_but (hX.mono (by decide)) s _ _ _ _)
  · split
    · exact sameBut_fault _ _
    · split
      · exact (sameBut_next _ _).2 rfl
      · next s0 e =>
        have ht : ∀ p l w, (s0.touchLine p l w false).but X = s.but X := fun p l w =>
          (State.touchLine_but (hX.mono (by decide)) s0 _ _ _ _).trans (State.arrives_but (hX.mono (by decide)) s _ _ _ e)
        dsimp only
        split
        · exact (sameBut_next _ _).2 ((State.lineWrite_but (hX.mono (by decide)) _ _ _).trans (ht _ _ _))
        · exact (sameBut_next _ _).2 ((State.reply_but (hX.mono (by decide)) _ _ _ _ _ _).trans (ht _ _ _))

@[simp] theorem execAtomicRequest_but (hX : Covers X (reportFields ++ sendFields ++ meterFields ++ [.contents, .frames, .hbm, .poison, .stores, .unitOut]))
    (die kind unit : Nat) (gen : Stamp) (addr : Nat) (req : AtomicReq) (width operand comparand : Nat) (s : State) :
    SameBut X s (execAtomicRequest die kind unit gen addr req width operand comparand s) := by
  unfold execAtomicRequest
  split
  · exact (sameBut_next _ _).2 (State.reportDrop_but (hX.mono (by decide)) s _ _ _ _)
  · split
    · exact sameBut_fault _ _
    · split
      · exact (sameBut_next _ _).2 rfl
      · next x _ _ s0 e =>
        have ht : (s0.touchLine (s.lineOwner x) (x / 128) true false).but X = s.but X :=
          (State.touchLine_but (hX.mono (by decide)) s0 _ _ _ _).trans (State.arrives_but (hX.mono (by decide)) s _ _ _ (Option.ite_none_right_eq_some.1 e).2)
        dsimp only
        generalize hs2 : (if (s.linePoison x).isSome = true then _ else _ : State) = s2
        have h2 : s2.but X = s.but X := by
          subst hs2
          split
          · exact ht
          · exact (State.lineWrite_but (hX.mono (by decide)) _ _ _).trans ht
        split
        · exact (sameBut_next _ _).2 ((State.reply_but (hX.mono (by decide)) _ _ _ _ _ _).trans h2)
        · exact (sameBut_next _ _).2 h2

@[simp] theorem execLineAdd_but (hX : Covers X (reportFields ++ [.stores, .streams, .bulk])) (die : AddRoute) (line : Nat) (addends : List Nat) (s : State) :
    SameBut X s (execLineAdd die line addends s) := by
  unfold execLineAdd
  split
  · exact (sameBut_next _ _).2 (State.reportDrop_but (hX.mono (by decide)) s _ _ _ _)
  · split
    · next s1 e =>
      refine (sameBut_next _ _).2 ((State.setDie_stores (hX.mono (by decide)) s1 _ _ ?_).trans ?_)
      · rfl
      exact State.takeNumber_but (hX.mono (by decide)) s _ _ _ _ (Option.ite_none_right_eq_some.1 e).2
    · exact (sameBut_next _ _).2 rfl

@[simp] theorem State.poisonUse_but (hX : Covers X failFields) (s : State) (holds : LineUse) (origin : Nat) : (s.poisonUse holds origin).but X = s.but X := by
  unfold State.poisonUse
  split
  · rfl
  · refine State.objects_contents (hX.mono (by decide)) s _ fun k => ?_
    exact get?_modify_stamp _ _ _ _ fun o => rfl
  · repeat' split
    · exact State.quarantinePart_but hX s _ _
    · exact State.setFrames_but (hX.mono (by decide)) s _ _
    · rfl
  all_goals exact State.quarantinePart_but hX s _ _

@[simp] theorem State.markLine_but (hX : Covers X failFields) (s : State) (stack line : Nat) (holds : LineUse) (origin : Nat) :
    (s.markLine stack line holds origin).but X = s.but X := by
  unfold State.markLine
  rw [State.poisonUse_but hX]
  exact State.setStack_poison (hX.mono (by decide)) s _ _ rfl

@[simp] theorem State.poisonLine_but (hX : Covers X failFields) (s : State) (stack line : Nat) (said : LineUse) :
    (s.poisonLine stack line said).but X = s.but X := by
  simp (disch := (apply hX.mono; decide)) [State.poisonLine]

@[simp] theorem execPatrolScrub_but (hX : Covers X (failFields ++ [.hbm])) (stack line outcome : Nat) (holds : LineUse) (s : State) :
    SameBut X s (execPatrolScrub stack line outcome holds s) := by
  simp (disch := (apply hX.mono; decide)) [execPatrolScrub]

@[simp] theorem execRepairRecordAdd_but (hX : Covers X [.flash]) (typ die macroId address : Nat) (s : State) :
    SameBut X s (execRepairRecordAdd typ die macroId address s) := by
  simp (disch := (apply hX.mono; decide)) [execRepairRecordAdd]

@[simp] theorem memMargin_but (hX : Covers X failFields) (kind cmd : Nat) (s : State) : (memMargin kind cmd s).but X = s.but X := by
  refine control_but hX _ _ _ _ _ fun c => ?_
  repeat' split
  · rfl
  · exact State.settle_but hX s _ _ (judgeBut_error _ _)
  · dsimp only
    rw [State.finish_but (hX.mono (by decide)), State.setCmd_but (hX.mono (by decide)), State.takeFresh_but (hX.mono (by decide)),
      State.hostWrite_but (hX.mono (by decide))]

@[simp] theorem execMemMarginReadScan_but (hX : Covers X failFields) (cmd : Nat) (s : State) : SameBut X s (execMemMarginReadScan cmd s) := by
  simp (disch := (apply hX.mono; decide)) [execMemMarginReadScan]

@[simp] theorem execMemMarginTiming_but (hX : Covers X failFields) (cmd : Nat) (s : State) : SameBut X s (execMemMarginTiming cmd s) := by
  simp (disch := (apply hX.mono; decide)) [execMemMarginTiming]

@[simp] theorem execMemMarginVoltage_but (hX : Covers X failFields) (cmd : Nat) (s : State) : SameBut X s (execMemMarginVoltage cmd s) := by
  simp (disch := (apply hX.mono; decide)) [execMemMarginVoltage]

@[simp] theorem execMemMarginTimingVoltage_but (hX : Covers X failFields) (cmd : Nat) (s : State) : SameBut X s (execMemMarginTimingVoltage cmd s) := by
  simp (disch := (apply hX.mono; decide)) [execMemMarginTimingVoltage]

@[simp] theorem State.fwWrite_but (hX : Covers X (dmaFields ++ [.flash, .sec])) (s : State) (dmaOk : Bool) : (s.fwWrite dmaOk).1.but X = s.but X := by
  unfold State.fwWrite
  dsimp only
  repeat' split
  all_goals simp (disch := (apply hX.mono; decide))

@[simp] theorem State.fwActivate_but (hX : Covers X [.flash]) (s : State) : s.fwActivate.1.but X = s.but X := by
  simp only [State.fwActivate]
  split <;> simp (disch := (apply hX.mono; decide))

@[simp] theorem State.fwConfirm_but (hX : Covers X [.flash]) (s : State) : s.fwConfirm.1.but X = s.but X := by
  unfold State.fwConfirm
  repeat' split
  all_goals simp (disch := (apply hX.mono; decide))

@[simp] theorem State.fwStatus_but (hX : Covers X [.sec]) (s : State) : s.fwStatus.1.but X = s.but X := by
  simp (disch := (apply hX.mono; decide)) [State.fwStatus]

@[simp] theorem State.debugUnlock_but (hX : Covers X (dmaFields ++ [.flash])) (s : State) (dmaOk : Bool) : (s.debugUnlock dmaOk).1.but X = s.but X := by
  unfold State.debugUnlock
  dsimp only
  repeat' split
  all_goals simp (disch := (apply hX.mono; decide))

@[simp] theorem State.mailboxGo_but (hX : Covers X [.host, .sec]) (s : State) (code : Nat) (stores : List Host.Cell) : (s.mailboxGo code stores).but X = s.but X := by
  have hs : (s.hostStores stores).but X = s.but X := State.hostStores_but (hX.mono (by decide)) s stores
  unfold State.mailboxGo
  dsimp only
  split
  · exact (State.but_sec (hX.mono (by decide)) _ _).trans hs
  · exact hs

@[simp] theorem execFwWrite_but (hX : Covers X [.host, .sec]) (stores : List Host.Cell) (s : State) : SameBut X s (execFwWrite stores s) := by
  simp (disch := (apply hX.mono; decide)) [execFwWrite]

@[simp] theorem execFwActivate_but (hX : Covers X [.host, .sec]) (stores : List Host.Cell) (s : State) : SameBut X s (execFwActivate stores s) := by
  simp (disch := (apply hX.mono; decide)) [execFwActivate]

@[simp] theorem execFwConfirm_but (hX : Covers X [.host, .sec]) (stores : List Host.Cell) (s : State) : SameBut X s (execFwConfirm stores s) := by
  simp (disch := (apply hX.mono; decide)) [execFwConfirm]

@[simp] theorem execFwStatus_but (hX : Covers X [.host, .sec]) (stores : List Host.Cell) (s : State) : SameBut X s (execFwStatus stores s) := by
  simp (disch := (apply hX.mono; decide)) [execFwStatus]

@[simp] theorem execDebugUnlock_but (hX : Covers X [.host, .sec]) (stores : List Host.Cell) (s : State) : SameBut X s (execDebugUnlock stores s) := by
  simp (disch := (apply hX.mono; decide)) [execDebugUnlock]

@[simp] theorem execMailboxCommandDone_but (hX : Covers X (dmaFields ++ [.flash, .sec])) (dmaOk : Bool) (s : State) :
    SameBut X s (execMailboxCommandDone dmaOk s) := by
  simp (disch := (apply hX.mono; decide)) [execMailboxCommandDone]
  split <;> simp (disch := (apply hX.mono; decide))

@[simp] theorem State.spdmSend_but (hX : Covers X [.spdmOut]) (s : State) (b : Bytes) : (s.spdmSend b).but X = s.but X := by
  simp (disch := (apply hX.mono; decide)) [State.spdmSend]

@[simp] theorem State.spdm_but (hX : Covers X [.spdmOut]) (s : State) (code transport : Nat) (req facts : Bytes) :
    (s.spdm code transport req facts).but X = s.but X := by
  simp (disch := (apply hX.mono; decide)) [State.spdm]

@[simp] theorem State.spdmSigned_but (hX : Covers X [.spdmOut]) (s : State) (code transport : Nat) (req facts : Bytes) :
    (s.spdmSigned code transport req facts).but X = s.but X := by
  simp (disch := (apply hX.mono; decide)) [State.spdmSigned]

@[simp] theorem execSpdmGetVersion_but (hX : Covers X [.spdmOut]) (transport _session : Nat) (req : Bytes) (s : State) :
    SameBut X s (execSpdmGetVersion transport _session req s) := by
  simp (disch := (apply hX.mono; decide)) [execSpdmGetVersion]

@[simp] theorem execSpdmGetCapabilities_but (hX : Covers X [.spdmOut]) (transport _session : Nat) (req : Bytes) (s : State) :
    SameBut X s (execSpdmGetCapabilities transport _session req s) := by
  simp (disch := (apply hX.mono; decide)) [execSpdmGetCapabilities]

@[simp] theorem execSpdmNegotiateAlgorithms_but (hX : Covers X [.spdmOut]) (transport _session : Nat) (req : Bytes) (s : State) :
    SameBut X s (execSpdmNegotiateAlgorithms transport _session req s) := by
  simp (disch := (apply hX.mono; decide)) [execSpdmNegotiateAlgorithms]

@[simp] theorem State.spdmCerts_but (hX : Covers X [.spdmOut]) (s : State) (code transport slot : Nat) (req : Bytes) :
    (s.spdmCerts code transport slot req).but X = s.but X := by
  simp (disch := (apply hX.mono; decide)) [State.spdmCerts]

@[simp] theorem State.inSession_but (hX : Covers X [.sec, .spdmOut])
    (s : State) (code transport session : Nat) (req : Bytes) (f : NMap Session → NMap Session) : (s.inSession code transport session req f).but X = s.but X := by
  simp (disch := (apply hX.mono; decide)) [State.inSession]

@[simp] theorem execSpdmGetDigests_but (hX : Covers X [.spdmOut]) (transport _session : Nat) (req : Bytes) (s : State) :
    SameBut X s (execSpdmGetDigests transport _session req s) := by
  simp (disch := (apply hX.mono; decide)) [execSpdmGetDigests]

@[simp] theorem execSpdmGetCertificate_but (hX : Covers X [.spdmOut]) (transport _session : Nat) (req : Bytes) (s : State) :
    SameBut X s (execSpdmGetCertificate transport _session req s) := by
  simp (disch := (apply hX.mono; decide)) [execSpdmGetCertificate]

@[simp] theorem execSpdmChallenge_but (hX : Covers X [.spdmOut]) (transport _session : Nat) (req : Bytes) (s : State) :
    SameBut X s (execSpdmChallenge transport _session req s) := by
  simp (disch := (apply hX.mono; decide)) [execSpdmChallenge]

@[simp] theorem execSpdmGetMeasurements_but (hX : Covers X [.spdmOut]) (transport _session : Nat) (req : Bytes) (s : State) :
    SameBut X s (execSpdmGetMeasurements transport _session req s) := by
  simp (disch := (apply hX.mono; decide)) [execSpdmGetMeasurements]

@[simp] theorem execSpdmKeyExchange_but (hX : Covers X [.sec, .spdmOut]) (transport session : Nat) (req : Bytes) (s : State) :
    SameBut X s (execSpdmKeyExchange transport session req s) := by
  simp (disch := (apply hX.mono; decide)) [execSpdmKeyExchange]

@[simp] theorem execSpdmFinish_but (hX : Covers X [.sec, .spdmOut]) (transport session : Nat) (req : Bytes) (s : State) :
    SameBut X s (execSpdmFinish transport session req s) := by
  simp (disch := (apply hX.mono; decide)) [execSpdmFinish]

@[simp] theorem execSpdmKeyUpdate_but (hX : Covers X [.sec, .spdmOut]) (transport session : Nat) (req : Bytes) (s : State) :
    SameBut X s (execSpdmKeyUpdate transport session req s) := by
  simp (disch := (apply hX.mono; decide)) [execSpdmKeyUpdate]

@[simp] theorem execSpdmHeartbeat_but (hX : Covers X [.sec, .spdmOut]) (transport session : Nat) (req : Bytes) (s : State) :
    SameBut X s (execSpdmHeartbeat transport session req s) := by
  simp (disch := (apply hX.mono; decide)) [execSpdmHeartbeat]

@[simp] theorem execSpdmEndSession_but (hX : Covers X [.sec, .spdmOut]) (transport session : Nat) (req : Bytes) (s : State) :
    SameBut X s (execSpdmEndSession transport session req s) := by
  simp (disch := (apply hX.mono; decide)) [execSpdmEndSession]

@[simp] theorem execIdeKmRequest_but (hX : Covers X (hostFields ++ [.fresh, .sec])) (session stream : Nat) (activate : Bool) (s : State) :
    SameBut X s (execIdeKmRequest session stream activate s) := by
  have hs : ∀ (a : State) y, State.but X { a with sec := y } = a.but X := fun a y => State.but_sec (hX.mono (by decide)) a y
  unfold execIdeKmRequest
  dsimp only
  repeat' split
  · exact (sameBut_next _ _).2 ((State.releaseWrites_but (hX.mono (by decide)) _).trans (hs s _))
  · exact (sameBut_next _ _).2 rfl
  · exact (sameBut_next _ _).2 ((hs _ _).trans (State.takeFresh_but (hX.mono (by decide)) s))
  · exact (sameBut_next _ _).2 rfl
  · exact (sameBut_next _ _).2 rfl

@[simp] theorem execIdeStreamInsecure_but (hX : Covers X (failFields ++ [.sec])) (stream : Nat) (s : State) : SameBut X s (execIdeStreamInsecure stream s) := by
  simp (disch := first | (apply hX.mono; decide) | (intros; simp (disch := (apply hX.mono; decide)))) [execIdeStreamInsecure]

@[simp] theorem State.modPart_but (hX : Covers X [.parts]) (s : State) (p : Nat) (f : Part → Part) : (s.modPart p f).but X = s.but X := by
  simp (disch := (apply hX.mono; decide)) [State.modPart]

@[simp] theorem execKeyImportContent_but (hX : Covers X failFields) (cmd : Nat) (s : State) : SameBut X s (execKeyImportContent cmd s) := by
  simp only [execKeyImportContent, sameBut_next]
  refine control_but (hX.mono (by decide)) _ _ _ _ _ fun c => ?_
  repeat' split
  all_goals simp (disch := first | (apply hX.mono; decide) | (intros; simp (disch := (apply hX.mono; decide))))

@[simp] theorem execKeySetPublisher_but (hX : Covers X failFields) (cmd : Nat) (s : State) : SameBut X s (execKeySetPublisher cmd s) := by
  refine (sameBut_next _ _).2 (control_but (hX.mono (by decide)) _ _ _ _ _ fun c => ?_)
  simp (disch := first | (apply hX.mono; decide) | (intros; simp (disch := (apply hX.mono; decide))))

@[simp] theorem execKeyClearContent_but (hX : Covers X failFields) (cmd : Nat) (s : State) : SameBut X s (execKeyClearContent cmd s) := by
  refine (sameBut_next _ _).2 (control_but (hX.mono (by decide)) _ _ _ _ _ fun c => ?_)
  simp (disch := (apply hX.mono; decide))

@[simp] theorem execKeyClearPublisher_but (hX : Covers X failFields) (cmd : Nat) (s : State) : SameBut X s (execKeyClearPublisher cmd s) := by
  refine (sameBut_next _ _).2 (control_but (hX.mono (by decide)) _ _ _ _ _ fun c => ?_)
  simp (disch := (apply hX.mono; decide))

@[simp] theorem execAttest_but (hX : Covers X failFields) (cmd : Nat) (s : State) : SameBut X s (execAttest cmd s) := by
  refine (sameBut_next _ _).2 (control_but (hX.mono (by decide)) _ _ _ _ _ fun c => ?_)
  repeat' split
  all_goals simp (disch := first | (apply hX.mono; decide) | (intros; simp (disch := (apply hX.mono; decide))))

@[simp] theorem execDiscardToken_but (hX : Covers X [.flash]) (s : State) : SameBut X s (execDiscardToken s) := by
  simp (disch := (apply hX.mono; decide)) [execDiscardToken]

end
end Sys2Proof.Machine
end

section
/-! PROOF. The frame of each operation: what resets, admission and register writes leave of the state. -/

namespace Sys2Proof.Machine
section
variable {X : Field → Bool}

@[simp] theorem execJtagInstruction_but (hX : Covers X [.sec]) (boundary : Bool) (s : State) : SameBut X s (execJtagInstruction boundary s) := by
  simp (disch := (apply hX.mono; decide)) [execJtagInstruction]

@[simp] theorem State.applyRepairs_but (hX : Covers X (reportFields ++ [.repaired])) (s : State) : s.applyRepairs.but X = s.but X := by
  simp (disch := first | (apply hX.mono; decide) | (intros; simp (disch := (apply hX.mono; decide)))) [State.applyRepairs]

@[simp] theorem State.trainSpine_but (hX : Covers X [.spine, .flow]) (s : State) (n : Nat) : (s.trainSpine n).but X = s.but X := by
  simp (disch := first | (apply hX.mono; decide) | (intros; simp (disch := (apply hX.mono; decide)))) [State.trainSpine]

@[simp] theorem State.selfRepair_but (hX : Covers X (failFields ++ wireFields ++ [.fatal, .hbmRate, .repaired, .dies, .spine, .links])) (s : State) :
    s.selfRepair.but X = s.but X := by
  simp (disch := first | (apply hX.mono; decide) | (intros; simp (disch := (apply hX.mono; decide)))) [State.selfRepair]

@[simp] theorem State.but_boot_flash_sec_power (h : Covers X [.boot, .flash, .sec, .power]) (s : State) (v0 : Boot) (v1 : Flash) (v2 : Sec) (v3 : Power) :
    State.but X { s with boot := v0, flash := v1, sec := v2, power := v3 } = s.but X := by
  simp only [State.but, State.take, State.spineAt, State.cmd?, h .boot (by decide), h .flash (by decide), h .sec (by decide), h .power (by decide), cond_true]

@[simp] theorem State.bootChain_but
    (hX : Covers X (failFields ++ wireFields ++ [.boot, .fatal, .hbmRate, .repaired, .dies, .spine, .links, .flash, .sec, .power])) (s0 : State) :
    s0.bootChain.but X = s0.but X := by
  have hr : s0.selfRepair.but X = s0.but X := State.selfRepair_but (hX.mono (by decide)) s0
  unfold State.bootChain
  dsimp only
  split
  · exact (State.but_boot_flash_sec (hX.mono (by decide)) s0.selfRepair _ _ _).trans hr
  · split
    · exact (State.but_boot_flash_sec_power (hX.mono (by decide)) s0.selfRepair _ _ _ _).trans hr
    · exact (State.report_but (hX.mono (by decide)) _ _).trans ((State.but_boot_flash_sec_power (hX.mono (by decide)) s0.selfRepair _ _ _ _).trans hr)

@[simp] theorem State.coldReset_but (hX : Covers X packageFields) (s : State) (cause : Nat) (boot : Boot) (pins : Pins) :
    (s.coldReset cause boot pins).but X = s.but X :=
  State.but_of_kept hX s _ rfl rfl

@[simp] theorem State.powerUp_but (hX : Covers X packageFields) (s : State) : s.powerUp.but X = s.but X := by
  simp (disch := (apply hX.mono; decide)) [State.powerUp]

@[simp] theorem execV1p8AuxApplied_but (hX : Covers X packageFields) (s : State) : SameBut X s (execV1p8AuxApplied s) := by
  simp (disch := (apply hX.mono; decide)) [execV1p8AuxApplied]

@[simp] theorem execV1p8AuxRemoved_but (hX : Covers X packageFields) (s : State) : SameBut X s (execV1p8AuxRemoved s) := by
  simp (disch := (apply hX.mono; decide)) [execV1p8AuxRemoved]

@[simp] theorem execPkgRstNAssert_but (hX : Covers X packageFields) (s : State) : SameBut X s (execPkgRstNAssert s) := by
  simp (disch := (apply hX.mono; decide)) [execPkgRstNAssert]

@[simp] theorem execPkgRstNRelease_but (hX : Covers X packageFields) (s : State) : SameBut X s (execPkgRstNRelease s) := by
  simp (disch := (apply hX.mono; decide)) [execPkgRstNRelease]

@[simp] theorem execPwrGoodAssert_but (hX : Covers X packageFields) (s : State) : SameBut X s (execPwrGoodAssert s) := by
  simp (disch := (apply hX.mono; decide)) [execPwrGoodAssert]

@[simp] theorem execPwrGoodLoss_but (hX : Covers X packageFields) (s : State) : SameBut X s (execPwrGoodLoss s) := by
  simp (disch := (apply hX.mono; decide)) [execPwrGoodLoss]

@[simp] theorem execHimonWatchdogExpiry_but (hX : Covers X packageFields) (t : Word) (s : State) : SameBut X s (execHimonWatchdogExpiry t s) := by
  simp only [execHimonWatchdogExpiry]
  repeat' split
  all_goals simp (disch := (apply hX.mono; decide))

@[simp] theorem State.settleBindery_but (hX : Covers X (meterFields ++ [.tempers, .seqs, .frames, .steps, .poison, .stores])) (s : State) : s.settleBindery.but X = s.but X := by
  unfold State.settleBindery
  refine (foldl_but _ _ _ fun a d => ?_).trans ((foldl_but _ _ _ fun a q => ?_).trans (foldl_but _ _ _ fun a t => ?_))
  · exact (State.setFrames_but (hX.mono (by decide)) _ _ _).trans (foldl_but _ _ _ fun b f => State.freeFrame_but (hX.mono (by decide)) b _ _)
  · exact State.releaseSeq_but (hX.mono (by decide)) a _
  · exact State.cancelStep_but (hX.mono (by decide)) a _ _

@[simp] theorem State.but_loseWarm (hX : Covers X warmFields) (s : State) : s.loseWarm.but X = s.but X := by
  simp only [State.loseWarm, State.but, State.take, State.spineAt, State.cmd?, hX .half (by decide), hX .atc (by decide), hX .msix (by decide),
    hX .queues (by decide), hX .admin (by decide), hX .parts (by decide), hX .windows (by decide), hX .hbm (by decide), hX .dies (by decide),
    hX .links (by decide), hX .linkIn (by decide), hX .fprintWait (by decide), hX .engines (by decide), hX .sec (by decide), hX .power (by decide),
    cond_true, Bool.true_or]

@[simp] theorem State.warmReset_but (hX : Covers X (warmFields ++ recordFields ++ [.boot, .plans, .tempers, .objects, .contents, .seqs, .frames, .steps, .linkOut, .colo]))
    (s : State) (link : Bool) : (s.warmReset link).but X = s.but X := by
  simp (disch := first | (apply hX.mono; decide) | (intros; simp (disch := (apply hX.mono; decide)))) [State.warmReset]

@[simp] theorem State.warmWith_but (hX : Covers X (warmFields ++ recordFields ++ [.boot, .resetCause, .warmResets, .plans, .tempers, .objects, .contents, .seqs, .frames, .steps, .linkOut, .colo]))
    (s : State) (cause : Nat) (link : Bool) : (s.warmWith cause link).but X = s.but X := by
  simp (disch := (apply hX.mono; decide)) [State.warmWith]

@[simp] theorem execPfFlr_but (hX : Covers X (warmFields ++ recordFields ++ [.boot, .resetCause, .warmResets, .plans, .tempers, .objects, .contents, .seqs, .frames, .steps, .linkOut, .colo]))
    (s : State) : SameBut X s (execPfFlr s) := by
  simp (disch := (apply hX.mono; decide)) [execPfFlr]

@[simp] theorem execPerstNAssert_but (hX : Covers X packageFields) (s : State) : SameBut X s (execPerstNAssert s) := by
  unfold execPerstNAssert
  dsimp only
  repeat' split
  · exact (sameBut_next _ _).2 rfl
  · exact (sameBut_next _ _).2 (State.but_of_kept hX s _ rfl rfl)
  · exact (sameBut_next _ _).2 ((State.warmWith_but (hX.mono (by decide)) _ _ _).trans (State.but_pins (hX.mono (by decide)) s _))
  · exact (sameBut_next _ _).2 (State.but_pins (hX.mono (by decide)) s _)

@[simp] theorem execPerstNRelease_but (hX : Covers X packageFields) (s : State) : SameBut X s (execPerstNRelease s) := by
  unfold execPerstNRelease
  dsimp only
  repeat' split
  · exact (sameBut_next _ _).2 (State.but_pins (hX.mono (by decide)) s _)
  · exact (sameBut_next _ _).2 (State.but_of_kept hX s _ rfl rfl)
  · exact (sameBut_next _ _).2 ((State.powerUp_but hX _).trans (State.but_of_kept hX s _ rfl rfl))
  · exact (sameBut_next _ _).2 (State.but_pins (hX.mono (by decide)) s _)

@[simp] theorem State.trainLinks_but (hX : Covers X [.links]) (s : State) : s.trainLinks.but X = s.but X := by
  simp (disch := first | (apply hX.mono; decide) | (intros; simp (disch := (apply hX.mono; decide)))) [State.trainLinks]

@[simp] theorem execHimonReady_but (hX : Covers X (hostFields ++ meterFields ++ [.boot, .contents, .hbm, .poison, .links, .flash, .sec])) (s : State) :
    SameBut X s (execHimonReady s) := by
  simp (disch := (apply hX.mono; decide)) [execHimonReady]

@[simp] theorem State.enterPk_but (hX : Covers X packageFields) (s : State) (n : Nat) : (s.enterPk n).but X = s.but X := by
  unfold State.enterPk
  repeat' split
  all_goals simp (disch := (apply hX.mono; decide))

@[simp] theorem execPowerSetPackageState_but (hX : Covers X packageFields) (cmd : Nat) (s : State) : SameBut X s (execPowerSetPackageState cmd s) := by
  refine (sameBut_next _ _).2 (control_but (hX.mono (by decide)) _ _ _ _ _ fun c => ?_)
  have hf : Covers X failFields := hX.mono (by decide)
  dsimp only
  repeat' split
  · rfl
  · exact State.settle_but hf s _ _ (judgeBut_error _ _)
  · exact (State.finish_but (hX.mono (by decide)) _ _ _ _).trans (State.enterPk_but hX s 0)
  · rfl
  · rfl
  · exact (State.enterPk_but hX _ _).trans (State.finish_but (hX.mono (by decide)) s _ _ _)

@[simp] theorem State.takeCapture_but (hX : Covers X [.colo]) (s : State) : s.takeCapture.but X = s.but X := by
  simp only [State.takeCapture]
  split <;> simp (disch := (apply hX.mono; decide))

@[simp] theorem State.requestCapture_but (hX : Covers X [.colo]) (s : State) (who : Option Nat) : (s.requestCapture who).but X = s.but X := by
  simp (disch := (apply hX.mono; decide)) [State.requestCapture]

@[simp] theorem execColophon_but (hX : Covers X (failFields ++ [.colo])) (cmd : Nat) (s : State) : SameBut X s (execColophon cmd s) := by
  refine (sameBut_next _ _).2 (control_but (hX.mono (by decide)) _ _ _ _ _ fun c => ?_)
  simp (disch := (apply hX.mono; decide))

@[simp] theorem execColophonReqGo_but (hX : Covers X [.colo]) (value : Nat) (s : State) : SameBut X s (execColophonReqGo value s) := by
  simp (disch := (apply hX.mono; decide)) [execColophonReqGo]

@[simp] theorem State.nextCapture_but (hX : Covers X [.colo]) (s : State) : s.nextCapture.but X = s.but X := by
  simp (disch := (apply hX.mono; decide)) [State.nextCapture]

@[simp] theorem execColophonCaptureDone_but (hX : Covers X (failFields ++ [.colo])) (s : State) : SameBut X s (execColophonCaptureDone s) := by
  have hn : ∀ x : State, x.nextCapture.but X = x.but X := fun x => State.nextCapture_but (hX.mono (by decide)) x
  have hw : ∀ (x : State) (fn a : Nat) (b : Bytes), (x.hostWrite fn a b).but X = x.but X := fun x => State.hostWrite_but (hX.mono (by decide)) x
  have hc : ∀ (x : State) (v : Colo), State.but X { x with colo := v } = x.but X := fun x => State.but_colo (hX.mono (by decide)) x
  unfold execColophonCaptureDone
  dsimp only
  repeat' split
  · exact (sameBut_next _ _).2 rfl
  · exact (sameBut_next _ _).2 ((hn _).trans ((State.sendMsix_but (hX.mono (by decide)) _ _ _).trans ((hc (s.hostWrite _ _ _) _).trans (hw s _ _ _))))
  · exact (sameBut_next _ _).2 ((hn _).trans (hc s _))
  · exact (sameBut_next _ _).2 (hn s)
  · exact (sameBut_next _ _).2 (hn s)
  · exact (sameBut_next _ _).2 ((State.failCmd_but (hX.mono (by decide)) _ _ _ _).trans (hn s))
  · exact (sameBut_next _ _).2 ((State.finish_but (hX.mono (by decide)) _ _ _ _).trans ((hw _ _ _ _).trans (hn s)))
  · exact (sameBut_next _ _).2 rfl

@[simp] theorem execColophonFatalTimeout_but (hX : Covers X [.counters, .colo]) (t : Word) (s : State) : SameBut X s (execColophonFatalTimeout t s) := by
  have hr : (s.reach 0 t).but X = s.but X := State.reach_but (hX.mono (by decide)) s 0 t
  unfold execColophonFatalTimeout
  dsimp only
  split
  · exact (sameBut_next _ _).2 ((State.takeCapture_but (hX.mono (by decide)) _).trans ((State.but_colo (hX.mono (by decide)) (s.reach 0 t) _).trans hr))
  · exact (sameBut_next _ _).2 hr

@[simp] theorem execPlanInstall_but (hX : Covers X failFields) (cmd : Nat) (s : State) : SameBut X s (execPlanInstall cmd s) := by
  simp only [execPlanInstall, sameBut_next]
  refine control_but (hX.mono (by decide)) _ _ _ _ _ fun c => ?_
  repeat' split
  all_goals simp (disch := first | (apply hX.mono; decide) | (intros; simp (disch := (apply hX.mono; decide))))

@[simp] theorem execPlanRetire_but (hX : Covers X failFields) (cmd : Nat) (s : State) : SameBut X s (execPlanRetire cmd s) := by
  refine (sameBut_next _ _).2 (control_but hX _ _ _ _ _ fun c => ?_)
  have hp : ∀ (x : State) (v : NMap Plan), State.but X { x with plans := v } = x.but X := fun x => State.but_plans (hX.mono (by decide)) x
  have hc : ∀ (x : State) (k : Nat) (d : Cmd), (x.setCmd k d).but X = x.but X := fun x => State.setCmd_but (hX.mono (by decide)) x
  dsimp only
  repeat' split
  · exact State.settle_but hX s _ _ (judgeBut_error _ _)
  · exact State.settle_but hX s _ _ (judgeBut_error _ _)
  · exact (hc _ _ _).trans (hp s _)
  · exact (State.finish_but (hX.mono (by decide)) _ _ _ _).trans ((hp (State.setCmd _ _ _) _).trans ((hc _ _ _).trans (hp s _)))

theorem State.decision_but (hX : Covers X (reportFields ++ [.parts, .tempers])) {s : State} {c : Cmd} {x : State × Decision} (e : s.decision c = some x) :
    x.1.but X = s.but X :=
  State.temperAdmit_but hX s _ _ _ _ _ e

@[simp] theorem State.setFormats_but (hX : Covers X (reportFields ++ [.cmds, .progress, .parts, .tempers])) (s : State) (id : Nat) (c : Cmd) :
    (s.setFormats id c).but X = s.but X := by
  unfold State.setFormats
  split
  · rfl
  · dsimp only
    cases hd : (if s.tracked c then s.decision c else none) with
    | none => exact State.setCmd_but (hX.mono (by decide)) _ _ _
    | some x =>
      exact (State.setCmd_but (hX.mono (by decide)) _ _ _).trans
        (State.decision_but (hX.mono (by decide)) (Option.ite_none_right_eq_some.1 hd).2)

@[simp] theorem State.admitOwn_but (hX : Covers X [.cmds, .progress, .seqs, .engines]) (s : State) (id : Nat) (c : Cmd) : (s.admitOwn id c).but X = s.but X := by
  have hc : ∀ (x : State) (k : Nat) (d : Cmd), (x.setCmd k d).but X = x.but X := fun x => State.setCmd_but (hX.mono (by decide)) x
  unfold State.admitOwn
  dsimp only
  repeat' split
  · next e => exact (hc _ _ _).trans (State.openStream_but (hX.mono (by decide)) e)
  · rfl
  · rfl
  · exact hc _ _ _
  · exact State.startCmd_but (hX.mono (by decide)) _ _
  · exact (hc _ _ _).trans (State.setSeq_but (hX.mono (by decide)) _ _ _)
  · rfl
  · exact hc _ _ _
  · rfl
  · rfl

@[simp] theorem State.announce_but (h : Covers X sendFields) (s : State) (id : Nat) (c : Cmd) : (s.announce id c).but X = s.but X := by
  unfold State.announce
  split
  · exact foldl_but _ _ _ fun a d => State.sendSpine_but h a _ _ _ _
  · rfl

@[simp] theorem State.admitHead_but (hX : Covers X (reportFields ++ sendFields ++ [.subs, .comps, .cmds, .progress, .nextCmd, .parts, .tempers, .seqs, .engines]))
    (s : State) (owner ring : Nat) (r : SubRing) (x : Fetched) : (s.admitHead owner ring r x).but X = s.but X := by
  simp (disch := first | (apply hX.mono; decide) | (intros; simp (disch := (apply hX.mono; decide)))) [State.admitHead]

@[simp] theorem execCommandAdmit_but (hX : Covers X (failFields ++ sendFields ++ [.nextCmd])) (owner ring : Nat) (s : State) :
    SameBut X s (execCommandAdmit owner ring s) := by
  unfold execCommandAdmit
  dsimp only
  repeat' split
  all_goals simp (disch := (apply hX.mono; decide))

@[simp] theorem State.restage_but (hX : Covers X failFields) (s : State) (cmd origin : Nat) : (s.restage cmd origin).but X = s.but X := by
  simp only [State.restage]
  split <;> simp (disch := (apply hX.mono; decide))

@[simp] theorem State.sysWord_but (hX : Covers X (failFields ++ wireFields ++ [.fatal, .dies, .links]))
    (s : State) (p : SysPart) (die part cmd origin : Nat) (dirty himon : Bool) : (s.sysWord p die part cmd origin dirty himon).but X = s.but X := by
  simp only [State.sysWord]
  repeat' split
  all_goals simp (disch := (apply hX.mono; decide))

@[simp] theorem State.poisonStore_but (hX : Covers X [.stores]) (s : State) (die quire key version ingot word origin : Nat) :
    (s.poisonStore die quire key version ingot word origin).but X = s.but X :=
  State.setDie_stores hX s die _ rfl

@[simp] theorem State.lostLine_but (hX : Covers X failFields) (s : State) (line origin : Nat) (said : LineUse) :
    (s.lostLine line origin said).but X = s.but X := by
  simp (disch := (apply hX.mono; decide)) [State.lostLine]

@[simp] theorem State.badLine_but (hX : Covers X (failFields ++ [.queues])) (s : State) (line origin : Nat) (said : LineUse) :
    (s.badLine line origin said).but X = s.but X := by
  simp only [State.badLine]
  split <;> simp (disch := (apply hX.mono; decide))

@[simp] theorem State.badWay_but (hX : Covers X (failFields ++ [.dies])) (s : State) (die set way origin : Nat) (said : LineUse) :
    (s.badWay die set way origin said).but X = s.but X := by
  simp (disch := first | (apply hX.mono; decide) | (intros; simp (disch := (apply hX.mono; decide)))) [State.badWay, State.setDie_but]

@[simp] theorem State.found_but (hX : Covers X (failFields ++ wireFields ++ [.fatal, .queues, .dies, .links])) (s : State) (rep : Report) :
    (s.found rep).but X = s.but X := by
  unfold State.found
  repeat' split
  all_goals simp (disch := (apply hX.mono; decide))

@[simp] theorem execErrorReport_but (hX : Covers X (failFields ++ wireFields ++ [.fatal, .queues, .dies, .links])) (rep : Report) (s : State) :
    SameBut X s (execErrorReport rep s) := by
  simp (disch := (apply hX.mono; decide)) [execErrorReport]

@[simp] theorem State.adminEnable_but (hX : Covers X (reportFields ++ [.admin, .subs, .comps])) (s : State) (v : Nat) : (s.adminEnable v).but X = s.but X := by
  simp (disch := (apply hX.mono; decide)) [State.adminEnable]

@[simp] theorem State.adminDisable_but (hX : Covers X [.admin, .subs]) (s : State) (v : Nat) : (s.adminDisable v).but X = s.but X := by
  simp (disch := (apply hX.mono; decide)) [State.adminDisable]

@[simp] theorem execPackageAdminEnable_but (hX : Covers X (reportFields ++ [.admin, .subs, .comps])) (value : Nat) (s : State) :
    SameBut X s (execPackageAdminEnable value s) := by
  simp (disch := (apply hX.mono; decide)) [execPackageAdminEnable]

@[simp] theorem execPackageAdminDisable_but (hX : Covers X [.admin, .subs]) (value : Nat) (s : State) : SameBut X s (execPackageAdminDisable value s) := by
  simp (disch := (apply hX.mono; decide)) [execPackageAdminDisable]

@[simp] theorem State.adminField_but (hX : Covers X (reportFields ++ [.admin])) (s : State) (off : Nat) (f : AdminRegs → AdminRegs) :
    (s.adminField off f).but X = s.but X := by
  simp (disch := (apply hX.mono; decide)) [State.adminField]

@[simp] theorem State.setSnap_but (hX : Covers X [.windows]) (s : State) (pf : Bool) (part : Nat) (x : Snap) : (s.setSnap pf part x).but X = s.but X := by
  simp (disch := (apply hX.mono; decide)) [State.setSnap]

@[simp] theorem State.snapWrite_but (hX : Covers X [.windows]) (s : State) (pf : Bool) (part v : Nat) : (s.snapWrite pf part v).but X = s.but X := by
  simp (disch := (apply hX.mono; decide)) [State.snapWrite]

@[simp] theorem execSnapCapture_but (hX : Covers X [.windows]) (pf : Bool) (part kind index : Nat) (s : State) :
    SameBut X s (execSnapCapture pf part kind index s) := by
  simp (disch := (apply hX.mono; decide)) [execSnapCapture]

@[simp] theorem execSnapCaptureClear_but (hX : Covers X [.windows]) (pf : Bool) (part kind index : Nat) (s : State) :
    SameBut X s (execSnapCaptureClear pf part kind index s) := by
  simp (disch := (apply hX.mono; decide)) [execSnapCaptureClear]

@[simp] theorem State.snapClear_but (hX : Covers X [.subs, .parts, .tempers]) (s : State) (part kind index : Nat) :
    (s.snapClear part kind index).but X = s.but X := by
  simp only [State.snapClear]
  split <;> simp (disch := (apply hX.mono; decide))

@[simp] theorem execSnapCaptureDone_but (hX : Covers X [.subs, .parts, .windows, .tempers]) (pf : Bool) (part : Nat) (s : State) :
    SameBut X s (execSnapCaptureDone pf part s) := by
  simp (disch := (apply hX.mono; decide)) [execSnapCaptureDone]

@[simp] theorem State.lowHalf_but (hX : Covers X [.half]) (s : State) (off v : Nat) : (s.lowHalf off v).but X = s.but X := by
  simp (disch := (apply hX.mono; decide)) [State.lowHalf]

@[simp] theorem State.msixWrite_but (hX : Covers X vectorFields) (s : State) (fn o v : Nat) : (s.msixWrite fn o v).but X = s.but X := by
  unfold State.msixWrite
  dsimp only
  repeat' split
  · exact State.but_msix (hX.mono (by decide)) s _
  · exact State.but_msix (hX.mono (by decide)) s _
  · exact State.but_msix (hX.mono (by decide)) s _
  · exact State.but_msix (hX.mono (by decide)) s _
  · exact stateAfter_but s _ (execMsixUnmask_but hX fn _ s)

@[simp] theorem State.windowWrite_but (hX : Covers X [.windows]) (s : State) (pf : Bool) (part o v : Nat) : (s.windowWrite pf part o v).but X = s.but X := by
  unfold State.windowWrite
  repeat' split
  · exact stateAfter_but s _ (execVfErrPendingClear_but hX _ _ _ s)
  · exact State.snapWrite_but hX s _ _ _
  · rfl

@[simp] theorem State.packageWrite_but (hX : Covers X (reportFields ++ [.half, .admin, .subs, .comps, .mitusEn, .nearGib, .linkOut, .partId, .flash, .power, .ceLog2, .colo]))
    (s : State) (off v : Nat) : (s.packageWrite off v).but X = s.but X := by
  have ha : ∀ o f, (s.adminField o f).but X = s.but X := State.adminField_but (hX.mono (by decide)) s
  have hl : ∀ o w, (s.lowHalf o w).but X = s.but X := State.lowHalf_but (hX.mono (by decide)) s
  have hc : ∀ w, State.but X { s with colo := w } = s.but X := State.but_colo (hX.mono (by decide)) s
  unfold State.packageWrite
  dsimp only
  split
  · exact stateAfter_but s _ (execPartIdWrite_but (hX.mono (by decide)) _ s)
  · exact stateAfter_but s _ (execMemMapCtrlWrite_but (hX.mono (by decide)) _ s)
  · exact hl _ _
  · exact ha _ _
  · exact hl _ _
  · exact ha _ _
  · exact hl _ _
  · exact ha _ _
  · split
    · exact State.adminEnable_but (hX.mono (by decide)) s _
    · exact State.adminDisable_but (hX.mono (by decide)) s _
  · exact ha _ _
  · exact ha _ _
  · exact State.but_power (hX.mono (by decide)) s _
  · split
    · exact stateAfter_but s _ (execColophonReqGo_but (hX.mono (by decide)) _ s)
    · exact hc _
  · exact hl _ _
  · exact hc _
  · exact hc _
  · exact stateAfter_but s _ (execErrSummaryPendingClear_but (hX.mono (by decide)) _ s)
  · exact State.but_ceLog2 (hX.mono (by decide)) s _
  · repeat' split
    · exact stateAfter_but s _ (execErrClearAll_but (hX.mono (by decide)) _ s)
    · exact stateAfter_but s _ (execErrClearPendingOnly_but (hX.mono (by decide)) _ _ s)
    · exact stateAfter_but s _ (execErrClearSlot_but (hX.mono (by decide)) _ _ s)
  · split
    · exact stateAfter_but s _ (execDiscardToken_but (hX.mono (by decide)) s)
    · rfl
  · rfl

@[simp] theorem State.mailboxWrite_but (hX : Covers X [.host, .half, .sec]) (s : State) (off v : Nat) : (s.mailboxWrite off v).but X = s.but X := by
  simp only [State.mailboxWrite]
  split <;> simp (disch := (apply hX.mono; decide))

@[simp] theorem State.linkWrite_but (hX : Covers X (failFields ++ [.links])) (s : State) (off v : Nat) : (s.linkWrite off v).but X = s.but X := by
  unfold State.linkWrite
  dsimp only
  split
  · exact stateAfter_but s _ (execXlinkVcWeightWrite_but (hX.mono (by decide)) _ _ s)
  · exact stateAfter_but s _ (execXlinkSecWrite_but (hX.mono (by decide)) _ _ s)
  · exact stateAfter_but s _ (execXlinkTestWrite_but (hX.mono (by decide)) _ _ s)
  · rfl

@[simp] theorem State.write32_but (hX : Covers X (failFields ++ [.half, .admin, .mitusEn, .nearGib, .links, .partId, .flash, .sec, .power, .ceLog2, .colo]))
    (s : State) (fn off v : Nat) : (s.write32 fn off v).but X = s.but X := by
  simp (disch := (apply hX.mono; decide)) [State.write32]
  split <;> simp (disch := (apply hX.mono; decide))

@[simp] theorem execRegisterWrite_but (hX : Covers X (failFields ++ [.half, .admin, .mitusEn, .nearGib, .links, .partId, .flash, .sec, .power, .ceLog2, .colo]))
    (fn off width value : Nat) (s : State) : SameBut X s (execRegisterWrite fn off width value s) := by
  simp (disch := (apply hX.mono; decide)) [execRegisterWrite]

@[simp] theorem execBar0BadAccess_but (hX : Covers X reportFields) (_fn off width : Nat) (_isWrite : Bool) (_value : Nat) (s : State) :
    SameBut X s (execBar0BadAccess _fn off width _isWrite _value s) := by
  simp (disch := (apply hX.mono; decide)) [execBar0BadAccess]

@[simp] theorem execCommandStart_but (hX : Covers X (failFields ++ putFields ++ lineFields ++ [.fprintWait])) (cmd : Nat) (s : State) :
    SameBut X s (execCommandStart cmd s) := by
  simp only [execCommandStart]
  split <;> simp (disch := first | (apply hX.mono; decide) | (intros; simp (disch := (apply hX.mono; decide))))

@[simp] theorem State.preempt_but (hX : Covers X (failFields ++ [.queues])) (s : State) (v : Nat × Cmd) : (s.preempt v).but X = s.but X := by
  simp only [State.preempt]
  split <;> simp (disch := (apply hX.mono; decide))

@[simp] theorem execPreemptDelayExpiry_but (hX : Covers X (failFields ++ putFields ++ lineFields ++ [.counters])) (cmd : Nat) (t : Word) (s : State) :
    SameBut X s (execPreemptDelayExpiry cmd t s) := by
  unfold execPreemptDelayExpiry
  dsimp only
  repeat' split
  all_goals simp (disch := (apply hX.mono; decide))

end
end Sys2Proof.Machine
end

section
/-! PROOF. What each command may change. -/

namespace Sys2Proof.Machine

/-- The fields that a command may change. -/
def Instr.fields : Instr → List Field
  | .tensorOp .. | .attend .. | .seqStepOpen .. | .detectPost .. | .deltaScanDone .. | .normScanDone .. | .tileComplete .. => failFields ++ putFields ++ lineFields
  | .attendBuildSketches .. | .seqStepClose .. | .moveCopy .. | .moveImport .. | .codecEncode .. | .codecDecode .. | .routeExpertCombine .. => failFields ++ putFields
  | .seqStepAppend .. | .seqStepCancel .. | .seqFree .. | .moveExport .. | .moveRetier .. | .codecOpen .. | .codecClose .. | .codecKeyReq ..
  | .ringCreate .. | .ringDestroy .. | .planInstall .. | .planRetire .. | .attest .. | .unitReturn .. | .keyImportContent .. | .keySetPublisher ..
  | .keyClearContent .. | .keyClearPublisher .. | .memMarginReadScan .. | .memMarginTiming .. | .memMarginVoltage .. | .memMarginTimingVoltage ..
  | .blockSelectionDone .. | .t3FetchError .. => failFields
  | .seqFork .. | .seqRestoreUnpark .. | .seqRestoreImage .. => failFields ++ lineFields ++ [.queues]
  | .moveSeqExport .. | .movePeerRecv .. | .shardVerified .. => failFields ++ [.queues]
  | .movePeerSend .. | .modelLoad .. => failFields ++ [.queues, .links]
  | .collectiveAllReduce .. | .collectiveReduceScatter .. | .collectiveAllGather .. | .collectiveBroadcast .. | .commandStart .. => failFields ++ putFields ++ lineFields ++ [.fprintWait]
  | .barrier .. | .signalAdd .. | .signalSet .. | .signalPoison .. | .wait .. | .commitAck .. => recordFields
  | .abort .. => failFields ++ [.nextCmd]
  | .routeLengthBucket .. | .routeExpertDispatch .. | .routeLengthPack .. => failFields ++ putFields ++ sendFields
  | .partCreate .. => failFields ++ [.t2cache, .tables, .objects, .steps, .alloys]
  | .partDestroy .. => failFields ++ putFields ++ [.tables, .objects, .steps, .groups, .fprintWait, .models, .alloys, .colo]
  | .tableLoad .. | .tableClear .. => failFields ++ [.tables]
  | .objectRegister .. => failFields ++ [.objects]
  | .objectRelease .. => failFields ++ [.t2cache, .objects]
  | .modelUnload .. => failFields ++ [.t2cache, .objects, .models]
  | .alloyBind .. => failFields ++ putFields ++ [.objects, .alloys]
  | .alloyUnbind .. => failFields ++ [.t2cache, .objects, .alloys]
  | .powerSetPackageState .. | .v1p8AuxApplied .. | .v1p8AuxRemoved .. | .pkgRstNAssert .. | .himonWatchdogExpiry .. | .pwrGoodLoss ..
  | .perstNAssert .. | .perstNRelease .. | .pkgRstNRelease .. | .pwrGoodAssert .. => packageFields
  | .powerSetArithPoint .. | .powerSetGroupsOff .. | .powerSetGroupsOn .. | .powerSetGroupsCycle .. => failFields ++ [.power]
  | .colophon .. | .colophonCaptureDone .. => failFields ++ [.colo]
  | .groupSet .. => failFields ++ [.groups]
  | .groupClear .. => failFields ++ [.groups, .fprintWait]
  | .quotaSet .. => failFields ++ [.queues, .pool]
  | .fwWrite .. | .fwActivate .. | .fwConfirm .. | .fwStatus .. | .debugUnlock .. => [.host, .sec]
  | .spdmGetVersion .. | .spdmGetCapabilities .. | .spdmNegotiateAlgorithms .. | .spdmGetDigests .. | .spdmGetCertificate .. | .spdmChallenge ..
  | .spdmGetMeasurements .. => [.spdmOut]
  | .spdmKeyExchange .. | .spdmFinish .. | .spdmKeyUpdate .. | .spdmHeartbeat .. | .spdmEndSession .. => [.sec, .spdmOut]
  | .ideKmRequest .. => hostFields ++ [.fresh, .sec]
  | .submissionTailDoorbell .. | .resume .. => reportFields ++ [.host, .subs]
  | .completionHeadDoorbell .. | .arm .. => reportFields ++ [.comps]
  | .memMapCtrlWrite .. => reportFields ++ [.mitusEn, .nearGib]
  | .xlinkVcWeightWrite .. | .xlinkSecWrite .. | .linkSessionLimit .. | .uncorrectableCodeword .. => [.links]
  | .xlinkTestWrite .. | .linkKeyExchange .. => failFields ++ [.links]
  | .partIdWrite .. => reportFields ++ [.linkOut, .partId]
  | .errClearAll .. | .errClearPendingOnly .. | .errClearSlot .. | .errSummaryPendingClear .. => [.attn, .errs]
  | .discardToken .. | .repairRecordAdd .. => [.flash]
  | .colophonReqGo .. => [.colo]
  | .packageAdminEnable .. => reportFields ++ [.admin, .subs, .comps]
  | .packageAdminDisable .. => [.admin, .subs]
  | .snapCapture .. | .snapCaptureClear .. | .vfErrPendingClear .. => [.windows]
  | .registerWrite .. => failFields ++ [.half, .admin, .mitusEn, .nearGib, .links, .partId, .flash, .sec, .power, .ceLog2, .colo]
  | .bar0BadAccess .. => reportFields
  | .descriptorFetch .. => hostFields ++ [.subs]
  | .commandAdmit .. => failFields ++ sendFields ++ [.nextCmd]
  | .unitClaim .. | .ingotArrival .. => putFields ++ lineFields
  | .useDeadlineExpiry .. => [.counters, .cmds, .progress]
  | .stallLimitExpiry .. | .peerTimeout .. | .downstreamTimeout .. => failFields ++ [.counters]
  | .commandCommit .. => failFields ++ putFields ++ sendFields ++ [.objects, .steps, .trees, .models]
  | .commitMessage .. => sendFields ++ [.cmds, .progress, .objects, .contents]
  | .admittedDescriptorReceive .. | .segmentCountReceive .. => [.cmds, .progress]
  | .seqReleaseComplete .. => meterFields ++ [.seqs, .frames, .poison, .stores]
  | .preemptDelayExpiry .. | .preemptGraceExpiry .. | .collTimeout .. => failFields ++ putFields ++ lineFields ++ [.counters]
  | .waitTimeout .. => recordFields ++ [.counters]
  | .modTimeExpiry .. => vectorFields ++ [.counters, .comps]
  | .servedHalving .. => [.counters, .subs]
  | .regulatorRefill .. => meterFields ++ [.counters]
  | .segmentCountSend .. => sendFields ++ [.counters, .cmds, .progress]
  | .farAccessRequest .. | .atomicRequest .. => reportFields ++ sendFields ++ meterFields ++ [.contents, .frames, .hbm, .poison, .stores, .unitOut]
  | .lineAdd .. => reportFields ++ [.stores, .streams, .bulk]
  | .spineMessageReceive .. => reportFields ++ sendFields
  | .quireProbe .. => [.counters, .dies, .stores]
  | .probeAnswer .. => [.dies, .stores]
  | .spineHeartbeatSend .. => sendFields ++ [.counters]
  | .spineHeartbeatReceive .. => [.flow]
  | .heartbeatMiss .. | .spineFlitCrcError .. => failFields ++ wireFields ++ [.counters, .fatal, .dies, .spine, .links]
  | .fenceAcksComplete .. => [.dies, .stores, .flow]
  | .selfTestDone .. => failFields ++ wireFields ++ [.dies, .spine]
  | .laneRemap .. => failFields ++ wireFields ++ [.fatal, .dies, .spine, .links]
  | .spineRetrainDone .. => wireFields
  | .linkDataFrame .. => failFields ++ [.links, .frameOut, .linkIn]
  | .linkControlFrame .. | .linkNak .. => [.links, .frameOut]
  | .linkControlTimer .. => [.counters, .links, .frameOut]
  | .linkRetrainDone .. => [.links, .linkOut, .frameOut]
  | .linkRetrainTimeout .. => failFields ++ [.counters, .links]
  | .linkTrainingRetry .. => [.counters, .links, .linkOut]
  | .hello .. => [.fresh, .links, .linkIn, .keyOut]
  | .fprint .. => failFields ++ putFields ++ lineFields ++ [.linkIn, .fprintWait]
  | .grant .. | .result .. | .done .. | .peerData .. => failFields ++ putFields ++ [.linkIn]
  | .contrib .. | .collAbort .. | .collAbortFinal .. => failFields ++ putFields ++ lineFields ++ [.linkIn]
  | .messageForward .. => reportFields ++ meterFields ++ [.linkOut, .linkIn]
  | .messageDrop .. => reportFields ++ [.linkIn]
  | .peerReady .. => failFields ++ [.queues, .links, .linkIn]
  | .peerDone .. => [.fresh, .cmds, .progress, .linkIn]
  | .peerAbort .. | .relayManifest .. | .relayAbort .. => failFields ++ [.queues, .linkIn]
  | .relayReady .. => meterFields ++ [.cmds, .progress, .links, .linkOut, .linkIn]
  | .relayShard .. => [.cmds, .progress, .linkIn]
  | .relayAck .. => failFields ++ [.linkIn]
  | .relayNak .. => meterFields ++ [.cmds, .progress, .linkOut, .linkIn]
  | .shardMissingTimeout .. | .relayManifestTimeout .. => failFields ++ [.counters, .queues]
  | .codecFrameBoundary .. => [.cmds, .progress, .engines]
  | .errorReport .. => failFields ++ wireFields ++ [.fatal, .queues, .dies, .links]
  | .errorDeferredNotify .. => .counters :: reportFields
  | .patrolScrub .. => failFields ++ [.hbm]
  | .t3WriteBack .. => cacheFields
  | .clampUpdate .. => reportFields ++ [.counters, .pins, .power]
  | .stackTempReport .. => reportFields ++ [.counters, .boot, .pins, .hbm, .poison]
  | .protectiveTrip .. => [.boot, .pins, .attn]
  | .ioutCalibration .. | .telemetryRefresh .. | .railPoll .. | .quireGroupReady .. => [.counters, .power]
  | .pmbAlert .. => reportFields ++ [.pins, .power]
  | .apSettleDone .. => recordFields ++ [.power]
  | .groupsCycleOnTimer .. => recordFields ++ [.counters, .power]
  | .colophonFatalTimeout .. => [.counters, .colo]
  | .snapCaptureDone .. => [.subs, .parts, .windows, .tempers]
  | .mailboxCommandDone .. => dmaFields ++ [.flash, .sec]
  | .ideStreamInsecure .. => failFields ++ [.sec]
  | .himonReady .. => hostFields ++ meterFields ++ [.boot, .contents, .hbm, .poison, .links, .flash, .sec]
  | .pfFlr .. => warmFields ++ recordFields ++ [.boot, .resetCause, .warmResets, .plans, .tempers, .objects, .contents, .seqs, .frames, .steps, .linkOut, .colo]
  | .vfFlr .. => recordFields ++ [.plans, .tempers, .objects, .contents, .seqs, .frames, .poison, .stores, .linkOut, .engines]
  | .pllLossOfLock .. | .himonFailure .. => failFields ++ wireFields ++ [.fatal, .dies, .links]
  | .msixUnmask .. => vectorFields
  | .atsInvalidationRequest .. => [.atc]
  | .jtagInstruction .. => [.sec]

/-- A command leaves the rest of the state as it is. -/
theorem exec_but {X : Field → Bool} (c : Instr) (hX : Covers X (Instr.fields c)) (s : State) : SameBut X s (exec c s) := by
  cases c with
  | tensorOp cmd => exact execTensorOp_but hX cmd s
  | attend cmd => exact execAttend_but hX cmd s
  | attendBuildSketches cmd => exact execAttendBuildSketches_but hX cmd s
  | seqStepOpen cmd => exact execSeqStepOpen_but hX cmd s
  | seqStepAppend cmd => exact execSeqStepAppend_but hX cmd s
  | seqStepClose cmd => exact execSeqStepClose_but hX cmd s
  | seqStepCancel cmd => exact execSeqStepCancel_but hX cmd s
  | seqFork cmd => exact execSeqFork_but hX cmd s
  | seqFree cmd => exact execSeqFree_but hX cmd s
  | moveCopy cmd => exact execMoveCopy_but hX cmd s
  | moveImport cmd => exact execMoveImport_but hX cmd s
  | moveExport cmd => exact execMoveExport_but hX cmd s
  | moveSeqExport cmd => exact execMoveSeqExport_but hX cmd s
  | movePeerSend cmd => exact execMovePeerSend_but hX cmd s
  | movePeerRecv cmd => exact execMovePeerRecv_but hX cmd s
  | moveRetier cmd => exact execMoveRetier_but hX cmd s
  | collectiveAllReduce cmd => exact execCollectiveAllReduce_but hX cmd s
  | collectiveReduceScatter cmd => exact execCollectiveReduceScatter_but hX cmd s
  | collectiveAllGather cmd => exact execCollectiveAllGather_but hX cmd s
  | collectiveBroadcast cmd => exact execCollectiveBroadcast_but hX cmd s
  | codecOpen cmd => exact execCodecOpen_but hX cmd s
  | codecEncode cmd => exact execCodecEncode_but hX cmd s
  | codecDecode cmd => exact execCodecDecode_but hX cmd s
  | codecClose cmd => exact execCodecClose_but hX cmd s
  | codecKeyReq cmd => exact execCodecKeyReq_but hX cmd s
  | detectPost cmd => exact execDetectPost_but hX cmd s
  | barrier cmd => exact execBarrier_but hX cmd s
  | signalAdd cmd => exact execSignalAdd_but hX cmd s
  | signalSet cmd => exact execSignalSet_but hX cmd s
  | signalPoison cmd => exact execSignalPoison_but hX cmd s
  | wait cmd => exact execWait_but hX cmd s
  | abort cmd => exact execAbort_but hX cmd s
  | routeLengthBucket cmd => exact execRouteLengthBucket_but hX cmd s
  | routeExpertDispatch cmd => exact execRouteExpertDispatch_but hX cmd s
  | routeLengthPack cmd => exact execRouteLengthPack_but hX cmd s
  | routeExpertCombine cmd => exact execRouteExpertCombine_but hX cmd s
  | seqRestoreUnpark cmd => exact execSeqRestoreUnpark_but hX cmd s
  | seqRestoreImage cmd => exact execSeqRestoreImage_but hX cmd s
  | partCreate cmd => exact execPartCreate_but hX cmd s
  | partDestroy cmd => exact execPartDestroy_but hX cmd s
  | ringCreate cmd => exact execRingCreate_but hX cmd s
  | ringDestroy cmd => exact execRingDestroy_but hX cmd s
  | planInstall cmd => exact execPlanInstall_but hX cmd s
  | planRetire cmd => exact execPlanRetire_but hX cmd s
  | tableLoad cmd => exact execTableLoad_but hX cmd s
  | tableClear cmd => exact execTableClear_but hX cmd s
  | objectRegister cmd => exact execObjectRegister_but hX cmd s
  | objectRelease cmd => exact execObjectRelease_but hX cmd s
  | modelLoad cmd => exact execModelLoad_but hX cmd s
  | modelUnload cmd => exact execModelUnload_but hX cmd s
  | alloyBind cmd => exact execAlloyBind_but hX cmd s
  | alloyUnbind cmd => exact execAlloyUnbind_but hX cmd s
  | powerSetPackageState cmd => exact execPowerSetPackageState_but hX cmd s
  | powerSetArithPoint cmd => exact execPowerSetArithPoint_but hX cmd s
  | powerSetGroupsOff cmd => exact execPowerSetGroupsOff_but hX cmd s
  | powerSetGroupsOn cmd => exact execPowerSetGroupsOn_but hX cmd s
  | powerSetGroupsCycle cmd => exact execPowerSetGroupsCycle_but hX cmd s
  | colophon cmd => exact execColophon_but hX cmd s
  | attest cmd => exact execAttest_but hX cmd s
  | groupSet cmd => exact execGroupSet_but hX cmd s
  | groupClear cmd => exact execGroupClear_but hX cmd s
  | unitReturn cmd => exact execUnitReturn_but hX cmd s
  | quotaSet cmd => exact execQuotaSet_but hX cmd s
  | keyImportContent cmd => exact execKeyImportContent_but hX cmd s
  | keySetPublisher cmd => exact execKeySetPublisher_but hX cmd s
  | keyClearContent cmd => exact execKeyClearContent_but hX cmd s
  | keyClearPublisher cmd => exact execKeyClearPublisher_but hX cmd s
  | memMarginReadScan cmd => exact execMemMarginReadScan_but hX cmd s
  | memMarginTiming cmd => exact execMemMarginTiming_but hX cmd s
  | memMarginVoltage cmd => exact execMemMarginVoltage_but hX cmd s
  | memMarginTimingVoltage cmd => exact execMemMarginTimingVoltage_but hX cmd s
  | fwWrite stores => exact execFwWrite_but hX stores s
  | fwActivate stores => exact execFwActivate_but hX stores s
  | fwConfirm stores => exact execFwConfirm_but hX stores s
  | fwStatus stores => exact execFwStatus_but hX stores s
  | debugUnlock stores => exact execDebugUnlock_but hX stores s
  | spdmGetVersion transport session req => exact execSpdmGetVersion_but hX transport session req s
  | spdmGetCapabilities transport session req => exact execSpdmGetCapabilities_but hX transport session req s
  | spdmNegotiateAlgorithms transport session req => exact execSpdmNegotiateAlgorithms_but hX transport session req s
  | spdmGetDigests transport session req => exact execSpdmGetDigests_but hX transport session req s
  | spdmGetCertificate transport session req => exact execSpdmGetCertificate_but hX transport session req s
  | spdmChallenge transport session req => exact execSpdmChallenge_but hX transport session req s
  | spdmGetMeasurements transport session req => exact execSpdmGetMeasurements_but hX transport session req s
  | spdmKeyExchange transport session req => exact execSpdmKeyExchange_but hX transport session req s
  | spdmFinish transport session req => exact execSpdmFinish_but hX transport session req s
  | spdmKeyUpdate transport session req => exact execSpdmKeyUpdate_but hX transport session req s
  | spdmHeartbeat transport session req => exact execSpdmHeartbeat_but hX transport session req s
  | spdmEndSession transport session req => exact execSpdmEndSession_but hX transport session req s
  | ideKmRequest session stream activate => exact execIdeKmRequest_but hX session stream activate s
  | submissionTailDoorbell fn off width value stores => exact execSubmissionTailDoorbell_but hX fn off width value stores s
  | resume fn off width value stores => exact execResume_but hX fn off width value stores s
  | completionHeadDoorbell fn off width value => exact execCompletionHeadDoorbell_but hX fn off width value s
  | arm fn off width value => exact execArm_but hX fn off width value s
  | memMapCtrlWrite value => exact execMemMapCtrlWrite_but hX value s
  | xlinkVcWeightWrite link value => exact execXlinkVcWeightWrite_but hX link value s
  | xlinkSecWrite link value => exact execXlinkSecWrite_but hX link value s
  | xlinkTestWrite link value => exact execXlinkTestWrite_but hX link value s
  | partIdWrite value => exact execPartIdWrite_but hX value s
  | errClearAll die => exact execErrClearAll_but hX die s
  | errClearPendingOnly die slot => exact execErrClearPendingOnly_but hX die slot s
  | errClearSlot die slot => exact execErrClearSlot_but hX die slot s
  | errSummaryPendingClear mask => exact execErrSummaryPendingClear_but hX mask s
  | discardToken => exact execDiscardToken_but hX s
  | colophonReqGo value => exact execColophonReqGo_but hX value s
  | packageAdminEnable value => exact execPackageAdminEnable_but hX value s
  | packageAdminDisable value => exact execPackageAdminDisable_but hX value s
  | snapCapture pf part kind index => exact execSnapCapture_but hX pf part kind index s
  | snapCaptureClear pf part kind index => exact execSnapCaptureClear_but hX pf part kind index s
  | vfErrPendingClear pf part mask => exact execVfErrPendingClear_but hX pf part mask s
  | registerWrite fn off width value => exact execRegisterWrite_but hX fn off width value s
  | bar0BadAccess fn off width isWrite value => exact execBar0BadAccess_but hX fn off width isWrite value s
  | descriptorFetch owner ring => exact execDescriptorFetch_but hX owner ring s
  | commandAdmit owner ring => exact execCommandAdmit_but hX owner ring s
  | commandStart cmd => exact execCommandStart_but hX cmd s
  | unitClaim cmd die quire plane => exact execUnitClaim_but hX cmd die quire plane s
  | blockSelectionDone cmd qb => exact execBlockSelectionDone_but hX cmd qb s
  | deltaScanDone cmd => exact execDeltaScanDone_but hX cmd s
  | normScanDone cmd => exact execNormScanDone_but hX cmd s
  | ingotArrival cmd operand ingot => exact execIngotArrival_but hX cmd operand ingot s
  | t3FetchError cmd operand ingot => exact execT3FetchError_but hX cmd operand ingot s
  | useDeadlineExpiry cmd tile operand ingot t => exact execUseDeadlineExpiry_but hX cmd tile operand ingot t s
  | stallLimitExpiry cmd tile operand ingot t => exact execStallLimitExpiry_but hX cmd tile operand ingot t s
  | tileComplete cmd tile quire residueOk => exact execTileComplete_but hX cmd tile quire residueOk s
  | commandCommit cmd => exact execCommandCommit_but hX cmd s
  | commitMessage die cmd => exact execCommitMessage_but hX die cmd s
  | commitAck die cmd => exact execCommitAck_but hX die cmd s
  | admittedDescriptorReceive die cmd => exact execAdmittedDescriptorReceive_but hX die cmd s
  | seqReleaseComplete index => exact execSeqReleaseComplete_but hX index s
  | preemptDelayExpiry cmd t => exact execPreemptDelayExpiry_but hX cmd t s
  | preemptGraceExpiry cmd t => exact execPreemptGraceExpiry_but hX cmd t s
  | waitTimeout cmd t => exact execWaitTimeout_but hX cmd t s
  | modTimeExpiry owner cq t => exact execModTimeExpiry_but hX owner cq t s
  | servedHalving die t => exact execServedHalving_but hX die t s
  | regulatorRefill die t => exact execRegulatorRefill_but hX die t s
  | segmentCountSend die cmd t => exact execSegmentCountSend_but hX die cmd t s
  | segmentCountReceive dst src cmd count => exact execSegmentCountReceive_but hX dst src cmd count s
  | farAccessRequest die kind unit gen addr isWrite data => exact execFarAccessRequest_but hX die kind unit gen addr isWrite data s
  | atomicRequest die kind unit gen addr req width operand comparand => exact execAtomicRequest_but hX die kind unit gen addr req width operand comparand s
  | lineAdd die line addends => exact execLineAdd_but hX die line addends s
  | spineMessageReceive m => exact execSpineMessageReceive_but hX m s
  | quireProbe die t => exact execQuireProbe_but hX die t s
  | probeAnswer die phys gen => exact execProbeAnswer_but hX die phys gen s
  | spineHeartbeatSend die far t => exact execSpineHeartbeatSend_but hX die far t s
  | spineHeartbeatReceive die far gen => exact execSpineHeartbeatReceive_but hX die far gen s
  | heartbeatMiss die kind unit t => exact execHeartbeatMiss_but hX die kind unit t s
  | fenceAcksComplete die kind unit => exact execFenceAcksComplete_but hX die kind unit s
  | selfTestDone cmd verdict => exact execSelfTestDone_but hX cmd verdict s
  | laneRemap a b dir lane => exact execLaneRemap_but hX a b dir lane s
  | spineRetrainDone a b => exact execSpineRetrainDone_but hX a b s
  | linkDataFrame link vc seqNo crcOk payload => exact execLinkDataFrame_but hX link vc seqNo crcOk payload s
  | linkControlFrame link seqNo crcOk credits ack => exact execLinkControlFrame_but hX link seqNo crcOk credits ack s
  | linkNak link seqNo credits ack => exact execLinkNak_but hX link seqNo credits ack s
  | linkControlTimer link t => exact execLinkControlTimer_but hX link t s
  | linkRetrainDone link => exact execLinkRetrainDone_but hX link s
  | linkRetrainTimeout link t => exact execLinkRetrainTimeout_but hX link t s
  | linkTrainingRetry link ok t => exact execLinkTrainingRetry_but hX link ok t s
  | linkSessionLimit link => exact execLinkSessionLimit_but hX link s
  | hello link m => exact execHello_but hX link m s
  | fprint link m => exact execFprint_but hX link m s
  | grant link m => exact execGrant_but hX link m s
  | contrib link m => exact execContrib_but hX link m s
  | result link m => exact execResult_but hX link m s
  | done link m => exact execDone_but hX link m s
  | collAbort link m => exact execCollAbort_but hX link m s
  | collAbortFinal link m => exact execCollAbortFinal_but hX link m s
  | collTimeout cmd t => exact execCollTimeout_but hX cmd t s
  | messageForward link m => exact execMessageForward_but hX link m s
  | messageDrop link vc m => exact execMessageDrop_but hX link vc m s
  | peerReady link m => exact execPeerReady_but hX link m s
  | peerData link m => exact execPeerData_but hX link m s
  | peerDone link m => exact execPeerDone_but hX link m s
  | peerAbort link m => exact execPeerAbort_but hX link m s
  | peerTimeout cmd t => exact execPeerTimeout_but hX cmd t s
  | relayReady link m => exact execRelayReady_but hX link m s
  | relayManifest link m => exact execRelayManifest_but hX link m s
  | relayShard link m => exact execRelayShard_but hX link m s
  | relayAck link m => exact execRelayAck_but hX link m s
  | relayNak link m => exact execRelayNak_but hX link m s
  | relayAbort link m => exact execRelayAbort_but hX link m s
  | shardVerified cmd shard => exact execShardVerified_but hX cmd shard s
  | shardMissingTimeout cmd shard t => exact execShardMissingTimeout_but hX cmd shard t s
  | relayManifestTimeout cmd t => exact execRelayManifestTimeout_but hX cmd t s
  | downstreamTimeout cmd t => exact execDownstreamTimeout_but hX cmd t s
  | codecFrameBoundary die => exact execCodecFrameBoundary_but hX die s
  | errorReport rep => exact execErrorReport_but hX rep s
  | errorDeferredNotify die slot t => exact execErrorDeferredNotify_but hX die slot t s
  | patrolScrub stack line outcome holds => exact execPatrolScrub_but hX stack line outcome holds s
  | repairRecordAdd typ die macroId address => exact execRepairRecordAdd_but hX typ die macroId address s
  | t3WriteBack part handle ingot => exact execT3WriteBack_but hX part handle ingot s
  | clampUpdate die reading t => exact execClampUpdate_but hX die reading t s
  | stackTempReport stack temp t => exact execStackTempReport_but hX stack temp t s
  | protectiveTrip isStack unit temp => exact execProtectiveTrip_but hX isStack unit temp s
  | ioutCalibration die iout sensed t => exact execIoutCalibration_but hX die iout sensed t s
  | telemetryRefresh reading t => exact execTelemetryRefresh_but hX reading t s
  | railPoll mw t => exact execRailPoll_but hX mw t s
  | pmbAlert kind die rail => exact execPmbAlert_but hX kind die rail s
  | apSettleDone die => exact execApSettleDone_but hX die s
  | groupsCycleOnTimer t => exact execGroupsCycleOnTimer_but hX t s
  | quireGroupReady group t => exact execQuireGroupReady_but hX group t s
  | colophonCaptureDone => exact execColophonCaptureDone_but hX s
  | colophonFatalTimeout t => exact execColophonFatalTimeout_but hX t s
  | snapCaptureDone pf part => exact execSnapCaptureDone_but hX pf part s
  | mailboxCommandDone dmaOk => exact execMailboxCommandDone_but hX dmaOk s
  | ideStreamInsecure stream => exact execIdeStreamInsecure_but hX stream s
  | v1p8AuxApplied => exact execV1p8AuxApplied_but hX s
  | v1p8AuxRemoved => exact execV1p8AuxRemoved_but hX s
  | pkgRstNAssert => exact execPkgRstNAssert_but hX s
  | himonReady => exact execHimonReady_but hX s
  | himonWatchdogExpiry t => exact execHimonWatchdogExpiry_but hX t s
  | pwrGoodLoss => exact execPwrGoodLoss_but hX s
  | perstNAssert => exact execPerstNAssert_but hX s
  | perstNRelease => exact execPerstNRelease_but hX s
  | pfFlr => exact execPfFlr_but hX s
  | vfFlr vf => exact execVfFlr_but hX vf s
  | pkgRstNRelease => exact execPkgRstNRelease_but hX s
  | pwrGoodAssert => exact execPwrGoodAssert_but hX s
  | spineFlitCrcError a b dir lane t => exact execSpineFlitCrcError_but hX a b dir lane t s
  | uncorrectableCodeword link => exact execUncorrectableCodeword_but hX link s
  | linkKeyExchange link peerEnabled chainOk peerSvn peerUnlocked => exact execLinkKeyExchange_but hX link peerEnabled chainOk peerSvn peerUnlocked s
  | pllLossOfLock die => exact execPllLossOfLock_but hX die s
  | himonFailure die => exact execHimonFailure_but hX die s
  | msixUnmask fn vec => exact execMsixUnmask_but hX fn vec s
  | atsInvalidationRequest fn page size => exact execAtsInvalidationRequest_but hX fn page size s
  | jtagInstruction boundary => exact execJtagInstruction_but hX boundary s

end Sys2Proof.Machine
end

section
/-! PROOF. The frames of the commands, read off what each may change (R57, R59, R442). -/

namespace Sys2Proof.Machine

theorem cond_eq_right {α : Type} {b : Bool} (h : b = false) (x y : α) : (bif b then x else y) = y := by
  rw [h, cond_false]

/-! ### What is kept of a state of which the named fields are left out -/

section
variable {X : Field → Bool} {s t : State} (h : t.but X = s.but X)
include h

theorem State.pending_kept (hk : X .pending = false) : t.pending = s.pending := (congrArg State.pending (State.eq_take h)).trans (cond_eq_right hk _ _)
theorem State.serial_kept (hk : X .serial = false) : t.serial = s.serial := (congrArg State.serial (State.eq_take h)).trans (cond_eq_right hk _ _)
theorem State.boot_kept (hk : X .boot = false) : t.boot = s.boot := (congrArg State.boot (State.eq_take h)).trans (cond_eq_right hk _ _)
theorem State.resetCause_kept (hk : X .resetCause = false) : t.resetCause = s.resetCause := (congrArg State.resetCause (State.eq_take h)).trans (cond_eq_right hk _ _)
theorem State.warmResets_kept (hk : X .warmResets = false) : t.warmResets = s.warmResets := (congrArg State.warmResets (State.eq_take h)).trans (cond_eq_right hk _ _)
theorem State.fatal_kept (hk : X .fatal = false) : t.fatal = s.fatal := (congrArg State.fatal (State.eq_take h)).trans (cond_eq_right hk _ _)
theorem State.half_kept (hk : X .half = false) : t.half = s.half := (congrArg State.half (State.eq_take h)).trans (cond_eq_right hk _ _)
theorem State.admin_kept (hk : X .admin = false) : t.admin = s.admin := (congrArg State.admin (State.eq_take h)).trans (cond_eq_right hk _ _)
theorem State.nextCmd_kept (hk : X .nextCmd = false) : t.nextCmd = s.nextCmd := (congrArg State.nextCmd (State.eq_take h)).trans (cond_eq_right hk _ _)
theorem State.tables_kept (hk : X .tables = false) : t.tables = s.tables := (congrArg State.tables (State.eq_take h)).trans (cond_eq_right hk _ _)
theorem State.pool_kept (hk : X .pool = false) : t.pool = s.pool := (congrArg State.pool (State.eq_take h)).trans (cond_eq_right hk _ _)
theorem State.steps_kept (hk : X .steps = false) : t.steps = s.steps := (congrArg State.steps (State.eq_take h)).trans (cond_eq_right hk _ _)
theorem State.trees_kept (hk : X .trees = false) : t.trees = s.trees := (congrArg State.trees (State.eq_take h)).trans (cond_eq_right hk _ _)
theorem State.mitusEn_kept (hk : X .mitusEn = false) : t.mitusEn = s.mitusEn := (congrArg State.mitusEn (State.eq_take h)).trans (cond_eq_right hk _ _)
theorem State.nearGib_kept (hk : X .nearGib = false) : t.nearGib = s.nearGib := (congrArg State.nearGib (State.eq_take h)).trans (cond_eq_right hk _ _)
theorem State.hbmRate_kept (hk : X .hbmRate = false) : t.hbmRate = s.hbmRate := (congrArg State.hbmRate (State.eq_take h)).trans (cond_eq_right hk _ _)
theorem State.repaired_kept (hk : X .repaired = false) : t.repaired = s.repaired := (congrArg State.repaired (State.eq_take h)).trans (cond_eq_right hk _ _)
theorem State.frameOut_kept (hk : X .frameOut = false) : t.frameOut = s.frameOut := (congrArg State.frameOut (State.eq_take h)).trans (cond_eq_right hk _ _)
theorem State.partId_kept (hk : X .partId = false) : t.partId = s.partId := (congrArg State.partId (State.eq_take h)).trans (cond_eq_right hk _ _)
theorem State.groups_kept (hk : X .groups = false) : t.groups = s.groups := (congrArg State.groups (State.eq_take h)).trans (cond_eq_right hk _ _)
theorem State.fprintWait_kept (hk : X .fprintWait = false) : t.fprintWait = s.fprintWait := (congrArg State.fprintWait (State.eq_take h)).trans (cond_eq_right hk _ _)
theorem State.models_kept (hk : X .models = false) : t.models = s.models := (congrArg State.models (State.eq_take h)).trans (cond_eq_right hk _ _)
theorem State.alloys_kept (hk : X .alloys = false) : t.alloys = s.alloys := (congrArg State.alloys (State.eq_take h)).trans (cond_eq_right hk _ _)
theorem State.flash_kept (hk : X .flash = false) : t.flash = s.flash := (congrArg State.flash (State.eq_take h)).trans (cond_eq_right hk _ _)
theorem State.sec_kept (hk : X .sec = false) : t.sec = s.sec := (congrArg State.sec (State.eq_take h)).trans (cond_eq_right hk _ _)
theorem State.spdmOut_kept (hk : X .spdmOut = false) : t.spdmOut = s.spdmOut := (congrArg State.spdmOut (State.eq_take h)).trans (cond_eq_right hk _ _)
theorem State.keyOut_kept (hk : X .keyOut = false) : t.keyOut = s.keyOut := (congrArg State.keyOut (State.eq_take h)).trans (cond_eq_right hk _ _)
theorem State.power_kept (hk : X .power = false) : t.power = s.power := (congrArg State.power (State.eq_take h)).trans (cond_eq_right hk _ _)
theorem State.ceLog2_kept (hk : X .ceLog2 = false) : t.ceLog2 = s.ceLog2 := (congrArg State.ceLog2 (State.eq_take h)).trans (cond_eq_right hk _ _)
theorem State.colo_kept (hk : X .colo = false) : t.colo = s.colo := (congrArg State.colo (State.eq_take h)).trans (cond_eq_right hk _ _)

theorem State.stacks_kept (hk : X .hbm = false) : SameStacks s t := by
  simpa only [State.but, hk, cond_false] using congrArg StateView.stackStates h
theorem State.units_kept (hk : X .dies = false) : SameUnits s t := by
  simpa only [State.but, hk, cond_false] using congrArg StateView.unitStates h
theorem State.fences_kept (hk : X .spine = false) (a b : Nat) : (t.spineAt a b).fenced = (s.spineAt a b).fenced ∧ (t.spineAt a b).gen = (s.spineAt a b).gen := by
  have hl := congrFun (congrFun (congrArg StateView.linkFences h) a) b
  simpa only [State.but, hk, cond_false, Prod.mk.injEq] using hl

theorem State.cmd?_kept (hk : (X .cmds || X .progress) = false) (id : Nat) : t.cmd? id = s.cmd? id :=
  congrArg (fun m => NMap.get? m id) ((congrArg State.cmds (State.eq_take h)).trans (cond_eq_right hk _ _))
theorem State.versions_kept (hk : X .objects = false) : VersionsKept s t := by
  intro k o ho
  have hv := congrFun (congrArg StateView.objectVersions h) k
  simp only [State.but, hk, cond_false, ho, Option.map_some, Option.map_eq_some_iff, Obj.stamp, Prod.mk.injEq] at hv
  exact hv

theorem State.orders_kept (hk : X .cmds = false) {id : Nat} {c : Cmd} (hc : s.cmd? id = some c) :
    ∃ d, t.cmd? id = some d ∧ d.desc = c.desc ∧ d.owner = c.owner ∧ d.cq = c.cq := by
  have hv := congrFun (congrArg StateView.orders h) id
  simp only [State.but, hk, cond_false, hc, Option.map_some, Option.map_eq_some_iff, Prod.mk.injEq] at hv
  exact hv

theorem State.control_kept (hk : X .streams = false) (k : Nat) : NMap.get? t.streams (4 * k) = NMap.get? s.streams (4 * k) := by
  simpa only [State.but, hk, cond_false] using congrFun (congrArg StateView.controlStreams h) k

/-- The fields of the package itself. -/
def deviceFields : List Field :=
  [.pending, .boot, .resetCause, .warmResets, .fatal, .half, .admin, .mitusEn, .nearGib, .hbm, .hbmRate, .repaired, .dies, .spine, .partId, .flash, .sec,
    .serial, .spdmOut, .keyOut, .ceLog2]

theorem State.device_kept (hk : ∀ f ∈ deviceFields, X f = false) : SameDevice s t :=
  ⟨State.pending_kept h (hk _ (by decide)), State.boot_kept h (hk _ (by decide)), State.resetCause_kept h (hk _ (by decide)),
    State.warmResets_kept h (hk _ (by decide)), State.fatal_kept h (hk _ (by decide)), State.half_kept h (hk _ (by decide)),
    State.admin_kept h (hk _ (by decide)), State.mitusEn_kept h (hk _ (by decide)), State.nearGib_kept h (hk _ (by decide)),
    State.stacks_kept h (hk _ (by decide)), State.hbmRate_kept h (hk _ (by decide)), State.repaired_kept h (hk _ (by decide)),
    State.units_kept h (hk _ (by decide)), State.fences_kept h (hk _ (by decide)), State.partId_kept h (hk _ (by decide)),
    State.flash_kept h (hk _ (by decide)), State.sec_kept h (hk _ (by decide)), State.serial_kept h (hk _ (by decide)),
    State.spdmOut_kept h (hk _ (by decide)), State.keyOut_kept h (hk _ (by decide)), State.ceLog2_kept h (hk _ (by decide))⟩
end

/-! ### Frames of whole families of commands -/

/-- Commands that change fields of a list alone leave the rest as it is. -/
theorem take_of_all (L : List Field) {l : List Instr} (hl : l.all (fun q => (Instr.fields q).all L.contains) = true) {s t : State} :
    ∀ q ∈ l, exec q s = .next t → t = s.take (Field.among L) t := fun q hq e =>
  State.eq_take (exec_but q (fun f hf => List.all_eq_true.1 (List.all_eq_true.1 hl q hq) f hf) s t e)

/-- No field of the package itself is among those a command may change. -/
def Instr.keepsDevice (c : Instr) : Bool := deviceFields.all (fun f => !(Instr.fields c).contains f)

theorem device_of_all {l : List Instr} (hl : l.all Instr.keepsDevice = true) {s t : State} : ∀ q ∈ l, exec q s = .next t → SameDevice s t := fun q hq e =>
  State.device_kept (exec_but q (covers_among _) s t e) fun f hf => Bool.not_eq_true' .. ▸ List.all_eq_true.1 (List.all_eq_true.1 hl q hq) f hf

/-- Settles O11: no command of a ring may change a field of the package itself. -/
theorem ringCommandFrame : Obligations.RingCommandFrame := by
  unfold Obligations.RingCommandFrame
  exact ⟨fun _ _ _ => device_of_all rfl,
    fun _ _ _ => device_of_all rfl,
    fun _ _ _ => device_of_all rfl,
    fun _ _ _ => device_of_all rfl,
    fun _ _ _ _ _ _ _ _ => device_of_all rfl,
    fun _ _ _ _ _ _ _ => device_of_all rfl,
    fun _ _ _ _ _ _ _ _ _ => device_of_all rfl,
    fun _ _ _ _ _ _ _ _ _ _ _ => device_of_all rfl,
    fun _ _ _ _ _ _ _ => device_of_all (l := [_]) rfl _ (List.mem_singleton.2 rfl),
    fun _ _ _ _ => device_of_all rfl,
    fun _ _ => device_of_all (l := [_]) rfl _ (List.mem_singleton.2 rfl)⟩

/-- Settles O9: the fields that each command may change are among those named. -/
theorem registerAndSecurityFrames : Obligations.RegisterAndSecurityFrames := by
  unfold Obligations.RegisterAndSecurityFrames
  exact ⟨fun _ _ _ => take_of_all recordFields rfl,
    fun _ _ _ => take_of_all [.host, .sec] rfl,
    fun _ _ _ _ _ => take_of_all [.spdmOut] rfl,
    fun _ _ _ _ _ => take_of_all [.sec, .spdmOut] rfl,
    fun _ _ _ _ _ => take_of_all (hostFields ++ [.fresh, .sec]) (l := [_]) rfl _ (List.mem_singleton.2 rfl),
    fun _ _ _ _ _ _ _ => take_of_all (reportFields ++ [.host, .subs]) rfl,
    fun _ _ _ _ _ _ => take_of_all (reportFields ++ [.comps]) rfl,
    fun _ _ _ => take_of_all (reportFields ++ [.mitusEn, .nearGib]) (l := [_]) rfl _ (List.mem_singleton.2 rfl),
    fun _ _ _ _ => take_of_all [.links] rfl,
    fun _ _ _ => take_of_all (reportFields ++ [.linkOut, .partId]) (l := [_]) rfl _ (List.mem_singleton.2 rfl),
    fun _ _ _ _ _ => take_of_all [.attn, .errs] rfl,
    fun _ _ _ _ _ _ => take_of_all [.flash] rfl,
    fun _ _ _ => take_of_all [.colo] (l := [_]) rfl _ (List.mem_singleton.2 rfl),
    fun _ _ _ => take_of_all (reportFields ++ [.admin, .subs, .comps]) (l := [_]) rfl _ (List.mem_singleton.2 rfl),
    fun _ _ _ => take_of_all [.admin, .subs] (l := [_]) rfl _ (List.mem_singleton.2 rfl),
    fun _ _ _ _ _ _ _ => take_of_all [.windows] rfl,
    fun _ _ _ _ _ _ _ => take_of_all reportFields (l := [_]) rfl _ (List.mem_singleton.2 rfl),
    fun _ _ _ _ => take_of_all [.subs, .parts, .windows, .tempers] (l := [_]) rfl _ (List.mem_singleton.2 rfl),
    fun _ _ _ => take_of_all (dmaFields ++ [.flash, .sec]) (l := [_]) rfl _ (List.mem_singleton.2 rfl),
    fun _ _ _ _ => take_of_all vectorFields (l := [_]) rfl _ (List.mem_singleton.2 rfl),
    fun _ _ _ _ _ => take_of_all [.atc] (l := [_]) rfl _ (List.mem_singleton.2 rfl)⟩

/-! ### Which commands change a field -/

section
variable {P : Prop} (c : Instr)

theorem Instr.only_boot : Instr.resets c = false → (Field.among (Instr.fields c) .boot = false → P) →
    match c with | .stackTempReport .. | .protectiveTrip .. => True | _ => P := by
  cases c <;> intro hr h <;> first | trivial | exact h rfl

theorem Instr.no_resetCause : Instr.resets c = false → Field.among (Instr.fields c) .resetCause = false := by
  cases c <;> intro hr <;> first | rfl | cases hr
theorem Instr.no_warmResets : Instr.resets c = false → Field.among (Instr.fields c) .warmResets = false := by
  cases c <;> intro hr <;> first | rfl | cases hr
theorem Instr.only_fatal : Instr.resets c = false → (Field.among (Instr.fields c) .fatal = false → P) →
    match c with | .heartbeatMiss .. | .laneRemap .. | .errorReport .. | .spineFlitCrcError .. | .pllLossOfLock .. | .himonFailure .. => True | _ => P := by
  cases c <;> intro hr h <;> first | trivial | exact h rfl

theorem Instr.only_half : Instr.resets c = false → (Field.among (Instr.fields c) .half = false → P) →
    match c with | .registerWrite .. => True | _ => P := by
  cases c <;> intro hr h <;> first | trivial | exact h rfl

theorem Instr.only_admin : Instr.resets c = false → (Field.among (Instr.fields c) .admin = false → P) →
    match c with | .packageAdminEnable .. | .packageAdminDisable .. | .registerWrite .. => True | _ => P := by
  cases c <;> intro hr h <;> first | trivial | exact h rfl

theorem Instr.only_nextCmd : Instr.resets c = false → (Field.among (Instr.fields c) .nextCmd = false → P) →
    match c with | .abort .. | .commandAdmit .. => True | _ => P := by
  cases c <;> intro hr h <;> first | trivial | exact h rfl

theorem Instr.only_tables : Instr.resets c = false → (Field.among (Instr.fields c) .tables = false → P) →
    match c with | .partCreate .. | .partDestroy .. | .tableLoad .. | .tableClear .. => True | _ => P := by
  cases c <;> intro hr h <;> first | trivial | exact h rfl

theorem Instr.only_pool : Instr.resets c = false → (Field.among (Instr.fields c) .pool = false → P) →
    match c with | .quotaSet .. => True | _ => P := by
  cases c <;> intro hr h <;> first | trivial | exact h rfl

theorem Instr.only_steps : Instr.resets c = false → (Field.among (Instr.fields c) .steps = false → P) →
    match c with | .partCreate .. | .partDestroy .. | .commandCommit .. => True | _ => P := by
  cases c <;> intro hr h <;> first | trivial | exact h rfl

theorem Instr.only_trees : Instr.resets c = false → (Field.among (Instr.fields c) .trees = false → P) →
    match c with | .commandCommit .. => True | _ => P := by
  cases c <;> intro hr h <;> first | trivial | exact h rfl

theorem Instr.only_mitusEn : Instr.resets c = false → (Field.among (Instr.fields c) .mitusEn = false → P) →
    match c with | .memMapCtrlWrite .. | .registerWrite .. => True | _ => P := by
  cases c <;> intro hr h <;> first | trivial | exact h rfl

theorem Instr.only_nearGib : Instr.resets c = false → (Field.among (Instr.fields c) .nearGib = false → P) →
    match c with | .memMapCtrlWrite .. | .registerWrite .. => True | _ => P := by
  cases c <;> intro hr h <;> first | trivial | exact h rfl

theorem Instr.no_hbmRate : Instr.resets c = false → Field.among (Instr.fields c) .hbmRate = false := by
  cases c <;> intro hr <;> first | rfl | cases hr
theorem Instr.no_repaired : Instr.resets c = false → Field.among (Instr.fields c) .repaired = false := by
  cases c <;> intro hr <;> first | rfl | cases hr
theorem Instr.only_frameOut : Instr.resets c = false → (Field.among (Instr.fields c) .frameOut = false → P) →
    match c with | .linkDataFrame .. | .linkControlFrame .. | .linkNak .. | .linkControlTimer .. | .linkRetrainDone .. => True | _ => P := by
  cases c <;> intro hr h <;> first | trivial | exact h rfl

theorem Instr.only_partId : Instr.resets c = false → (Field.among (Instr.fields c) .partId = false → P) →
    match c with | .partIdWrite .. | .registerWrite .. => True | _ => P := by
  cases c <;> intro hr h <;> first | trivial | exact h rfl

theorem Instr.only_groups : Instr.resets c = false → (Field.among (Instr.fields c) .groups = false → P) →
    match c with | .partDestroy .. | .groupSet .. | .groupClear .. => True | _ => P := by
  cases c <;> intro hr h <;> first | trivial | exact h rfl

theorem Instr.only_fprintWait : Instr.resets c = false → (Field.among (Instr.fields c) .fprintWait = false → P) →
    match c with | .collectiveAllReduce .. | .collectiveReduceScatter .. | .collectiveAllGather .. | .collectiveBroadcast .. | .partDestroy .. | .groupClear .. | .commandStart .. | .fprint .. => True | _ => P := by
  cases c <;> intro hr h <;> first | trivial | exact h rfl

theorem Instr.only_models : Instr.resets c = false → (Field.among (Instr.fields c) .models = false → P) →
    match c with | .partDestroy .. | .modelUnload .. | .commandCommit .. => True | _ => P := by
  cases c <;> intro hr h <;> first | trivial | exact h rfl

theorem Instr.only_alloys : Instr.resets c = false → (Field.among (Instr.fields c) .alloys = false → P) →
    match c with | .partCreate .. | .partDestroy .. | .alloyBind .. | .alloyUnbind .. => True | _ => P := by
  cases c <;> intro hr h <;> first | trivial | exact h rfl

theorem Instr.only_flash : Instr.resets c = false → (Field.among (Instr.fields c) .flash = false → P) →
    match c with | .discardToken .. | .registerWrite .. | .repairRecordAdd .. | .mailboxCommandDone .. => True | _ => P := by
  cases c <;> intro hr h <;> first | trivial | exact h rfl

theorem Instr.only_sec : Instr.resets c = false → (Field.among (Instr.fields c) .sec = false → P) →
    match c with | .fwWrite .. | .fwActivate .. | .fwConfirm .. | .fwStatus .. | .debugUnlock .. | .spdmKeyExchange .. | .spdmFinish .. | .spdmKeyUpdate .. | .spdmHeartbeat .. | .spdmEndSession .. | .ideKmRequest .. | .registerWrite .. | .mailboxCommandDone .. | .ideStreamInsecure .. | .jtagInstruction .. => True | _ => P := by
  cases c <;> intro hr h <;> first | trivial | exact h rfl

theorem Instr.only_spdmOut : Instr.resets c = false → (Field.among (Instr.fields c) .spdmOut = false → P) →
    match c with | .spdmGetVersion .. | .spdmGetCapabilities .. | .spdmNegotiateAlgorithms .. | .spdmGetDigests .. | .spdmGetCertificate .. | .spdmChallenge .. | .spdmGetMeasurements .. | .spdmKeyExchange .. | .spdmFinish .. | .spdmKeyUpdate .. | .spdmHeartbeat .. | .spdmEndSession .. => True | _ => P := by
  cases c <;> intro hr h <;> first | trivial | exact h rfl

theorem Instr.only_keyOut : Instr.resets c = false → (Field.among (Instr.fields c) .keyOut = false → P) →
    match c with | .hello .. => True | _ => P := by
  cases c <;> intro hr h <;> first | trivial | exact h rfl

theorem Instr.only_power : Instr.resets c = false → (Field.among (Instr.fields c) .power = false → P) →
    match c with | .powerSetArithPoint .. | .powerSetGroupsOff .. | .powerSetGroupsOn .. | .powerSetGroupsCycle .. | .registerWrite .. | .clampUpdate .. | .ioutCalibration .. | .telemetryRefresh .. | .railPoll .. | .pmbAlert .. | .apSettleDone .. | .groupsCycleOnTimer .. | .quireGroupReady .. => True | _ => P := by
  cases c <;> intro hr h <;> first | trivial | exact h rfl

theorem Instr.only_ceLog2 : Instr.resets c = false → (Field.among (Instr.fields c) .ceLog2 = false → P) →
    match c with | .registerWrite .. => True | _ => P := by
  cases c <;> intro hr h <;> first | trivial | exact h rfl

theorem Instr.only_colo : Instr.resets c = false → (Field.among (Instr.fields c) .colo = false → P) →
    match c with | .partDestroy .. | .colophon .. | .colophonReqGo .. | .registerWrite .. | .colophonCaptureDone .. | .colophonFatalTimeout .. => True | _ => P := by
  cases c <;> intro hr h <;> first | trivial | exact h rfl

theorem Instr.only_hbm : Instr.resets c = false → (Field.among (Instr.fields c) .hbm = false → P) →
    match c with | .farAccessRequest .. | .atomicRequest .. | .patrolScrub .. | .stackTempReport .. => True | _ => P := by
  cases c <;> intro hr h <;> first | trivial | exact h rfl

theorem Instr.only_dies : Instr.resets c = false → (Field.among (Instr.fields c) .dies = false → P) →
    match c with | .quireProbe .. | .probeAnswer .. | .fenceAcksComplete .. | .heartbeatMiss .. | .selfTestDone .. | .laneRemap .. | .errorReport .. | .spineFlitCrcError .. | .pllLossOfLock .. | .himonFailure .. => True | _ => P := by
  cases c <;> intro hr h <;> first | trivial | exact h rfl

theorem Instr.only_spine : Instr.resets c = false → (Field.among (Instr.fields c) .spine = false → P) →
    match c with | .heartbeatMiss .. | .selfTestDone .. | .laneRemap .. | .spineFlitCrcError .. | .pllLossOfLock .. | .himonFailure .. => True | _ => P := by
  cases c <;> intro hr h <;> first | trivial | exact h rfl

theorem Instr.no_pending : Field.among (Instr.fields c) .pending = false := by
  cases c <;> rfl
theorem Instr.no_serial : Field.among (Instr.fields c) .serial = false := by
  cases c <;> rfl
end

/-- Settles O8: which commands may change each field is read off the table of fields. -/
theorem onlyTheseChange : Obligations.OnlyTheseChange := by
  unfold Obligations.OnlyTheseChange
  intro c s t e
  have h := exec_but c (covers_among _) s t e
  exact ⟨State.pending_kept h (Instr.no_pending c), State.serial_kept h (Instr.no_serial c), fun hr =>
    ⟨Instr.only_boot c hr (State.boot_kept h),
      State.resetCause_kept h (Instr.no_resetCause c hr),
      State.warmResets_kept h (Instr.no_warmResets c hr),
      Instr.only_fatal c hr (State.fatal_kept h),
      Instr.only_half c hr (State.half_kept h),
      Instr.only_admin c hr (State.admin_kept h),
      Instr.only_nextCmd c hr (State.nextCmd_kept h),
      Instr.only_tables c hr (State.tables_kept h),
      Instr.only_pool c hr (State.pool_kept h),
      Instr.only_steps c hr (State.steps_kept h),
      Instr.only_trees c hr (State.trees_kept h),
      Instr.only_mitusEn c hr (State.mitusEn_kept h),
      Instr.only_nearGib c hr (State.nearGib_kept h),
      State.hbmRate_kept h (Instr.no_hbmRate c hr),
      State.repaired_kept h (Instr.no_repaired c hr),
      Instr.only_frameOut c hr (State.frameOut_kept h),
      Instr.only_partId c hr (State.partId_kept h),
      Instr.only_groups c hr (State.groups_kept h),
      Instr.only_fprintWait c hr (State.fprintWait_kept h),
      Instr.only_models c hr (State.models_kept h),
      Instr.only_alloys c hr (State.alloys_kept h),
      Instr.only_flash c hr (State.flash_kept h),
      Instr.only_sec c hr (State.sec_kept h),
      Instr.only_spdmOut c hr (State.spdmOut_kept h),
      Instr.only_keyOut c hr (State.keyOut_kept h),
      Instr.only_power c hr (State.power_kept h),
      Instr.only_ceLog2 c hr (State.ceLog2_kept h),
      Instr.only_colo c hr (State.colo_kept h),
      Instr.only_hbm c hr (State.stacks_kept h),
      Instr.only_dies c hr (State.units_kept h),
      Instr.only_spine c hr (State.fences_kept h)⟩⟩

end Sys2Proof.Machine
end

section
/-! PROOF. The end of a command: its one record, its fence, and what it leaves (R38, R53, R62, R502). -/

namespace Sys2Proof.Machine

/-! ### Reading what was written -/

theorem Mem.readRange_writeRange (m : Mem) (a : Nat) (bs : Bytes) (i n : Nat) (h : i + n ≤ bs.length) :
    Mem.readRange (Mem.writeRange m a bs) (a + i) n = (bs.drop i).take n := by
  refine List.ext_getElem (by simp [Mem.readRange]; omega) fun j h1 h2 => ?_
  have hj : j < n := by simpa [Mem.readRange] using h1
  have e := Mem.read_writeRange_in m a bs (i + j) (by omega)
  simp only [Mem.readRange, List.getElem_map, List.getElem_range, List.getElem_take, List.getElem_drop]
  rw [Mem.read_filter _ _ _ fun b => by simp only [Bool.and_eq_true, decide_eq_true_eq]; omega, Nat.add_assoc, e]
  exact (List.getElem_eq_getD 0).symm

/-- A number written as little-endian bytes is read back. -/
theorem Mem.nat_writeRange (m : Mem) (a : Nat) {bs : Bytes} {i n v : Nat} (h : i + n ≤ bs.length) (hv : (bs.drop i).take n = leBytes n v) (hn : v < 256 ^ n) :
    Mem.nat (Mem.writeRange m a bs) (a + i) n = v := by
  rw [Mem.nat, Mem.readRange_writeRange m a bs i n h, hv, leNat_leBytes, Nat.mod_eq_of_lt hn]

theorem dTag_lt (d : Bytes) : dTag d < 256 ^ 4 := by
  have h := leNat_lt ((d.drop 4).take 4)
  refine Nat.lt_of_lt_of_le h (Nat.pow_le_pow_right (by decide) ?_)
  simp

theorem satBits_lt (w v : Nat) : satBits w v < 2 ^ w := by
  have := Nat.two_pow_pos w
  unfold satBits
  omega

section
variable (tag status detail : Nat) (counter : Word) (aclk skipped promoted degraded reruns die : Nat) (phase : Bool)

theorem length_recordBytes : (recordBytes tag status detail counter aclk skipped promoted degraded reruns die phase).length = 32 := by
  simp [recordBytes]

theorem recordBytes_tag : ((recordBytes tag status detail counter aclk skipped promoted degraded reruns die phase).drop 0).take 4 = leBytes 4 tag := by
  simp [recordBytes]
theorem recordBytes_status : ((recordBytes tag status detail counter aclk skipped promoted degraded reruns die phase).drop 4).take 2 = leBytes 2 status := by
  simp [recordBytes]
theorem recordBytes_detail :
    ((recordBytes tag status detail counter aclk skipped promoted degraded reruns die phase).drop 6).take 2 = leBytes 2 (satBits 16 detail) := by
  simp [recordBytes, List.drop_append, List.drop_eq_nil_of_le]
end

/-! ### The steps of a command's end -/

theorem State.fireCq_host (s : State) (owner cq : Nat) : (s.fireCq owner cq).host = s.host ∧ (s.fireCq owner cq).stalled = s.stalled ∧ (s.fireCq owner cq).fences = s.fences := by
  have h := State.fireCq_but (covers_among _) s owner cq
  exact ⟨congrArg (·.state.host) h, congrArg (·.state.stalled) h, congrArg (·.state.fences) h⟩

theorem State.hostWrite_stalled (s : State) (fn a : Nat) (bs : Bytes) :
    (s.hostWrite fn a bs).stalled = if (s.dmaStop fn).isNone then s.stalled else s.stalled ++ [{ fn := fn, addr := a, bytes := bs }] := rfl

/-- A record is written by DMA at the ring's next slot; nothing else of host memory changes. -/
theorem State.pushRecord_host {s : State} {owner cq : Nat} {r : CompRing} (hr : s.comp? owner cq = some r) (notify : Bool) (rec : Bool → Bytes) (reserved : Bool) :
    (s.pushRecord owner cq notify rec reserved).host = (s.hostWrite (s.functionOf owner) (r.base + 32 * r.next) (rec r.phase)).host
    ∧ (s.pushRecord owner cq notify rec reserved).stalled = (s.hostWrite (s.functionOf owner) (r.base + 32 * r.next) (rec r.phase)).stalled := by
  unfold State.pushRecord
  rw [hr]
  exact ⟨(State.fireCq_host _ _ _).1, (State.fireCq_host _ _ _).2.1⟩

theorem State.pushRecord_fences (s : State) (owner cq : Nat) (notify : Bool) (rec : Bool → Bytes) (reserved : Bool) :
    (s.pushRecord owner cq notify rec reserved).fences = s.fences := 
  congrArg (·.state.fences) (State.pushRecord_but (covers_among _) s owner cq notify rec reserved)

/-- What the end of a command does before its record: its fence, the accounts, and its ring's last tag and halt. -/
def State.endBefore (s : State) (id : Nat) (c : Cmd) (status : Nat) : State :=
  let now := s.counter c.home
  let s1 : State := { s with cmds := NMap.erase s.cmds id }
  let s2 := if c.commitAt.isSome then s1 else s1.recordFence c.owner c.desc status
  let s3 := s2.account c.owner c.ring c.home (acctRecord status c.aclk c.waitQ c.waitS (if c.phase = .admitted then 0 else now - c.startAt))
  { s3 with subs := NMap.modify s3.subs (ringKey c.owner c.ring) (fun r =>
      { r with halted := r.halted || halts status, lastTag := dTag c.desc, lastCounter := now }) }

theorem State.writeEnd_eq (s : State) (id : Nat) (c : Cmd) (status detail : Nat) :
    s.writeEnd id c status detail = (s.endBefore id c status).pushRecord c.owner c.cq (dNotify c.desc)
      (recordBytes (dTag c.desc) status detail (c.commitAt.getD (s.counter c.home)) c.aclk c.skipped c.promoted c.degraded c.reruns c.home) true := rfl

theorem State.endBefore_but {X : Field → Bool} (h : Covers X [.cmds, .progress, .fences, .subs, .parts]) (s : State) (id : Nat) (c : Cmd) (status : Nat) :
    (s.endBefore id c status).but X = s.but X := by
  have h1 : State.but X { s with cmds := NMap.erase s.cmds id } = s.but X := State.but_cmds (h.mono (by decide)) s _
  unfold State.endBefore
  dsimp only
  rw [State.but_subs (h.mono (by decide)), State.account_but (h.mono (by decide))]
  split
  · exact h1
  · rw [State.recordFence_but (h.mono (by decide)), h1]

theorem State.account_functionOf (s : State) (owner ring home : Nat) (f : Acct → Acct) (part : Nat) :
    (s.account owner ring home f).functionOf part = s.functionOf part := by
  exact congrFun (State.functionOf_modify s owner (fun p => { p with acct := { f p.acct with lastCounter := s.counter home } }) fun _ => rfl) part

theorem State.recordFence_parts (s : State) (owner : Nat) (desc : Bytes) (status : Nat) : (s.recordFence owner desc status).parts = s.parts :=
  congrArg (·.state.parts) (State.recordFence_but (covers_among _) s owner desc status)

theorem State.endBefore_functionOf (s : State) (id : Nat) (c : Cmd) (status part : Nat) : (s.endBefore id c status).functionOf part = s.functionOf part := by
  unfold State.endBefore
  dsimp only
  refine (State.account_functionOf _ c.owner c.ring c.home _ part).trans ?_
  split
  · rfl
  · unfold State.functionOf
    rw [State.recordFence_parts]

theorem State.finish_eq {s : State} {id : Nat} {c : Cmd} (hc : s.cmd? id = some c) (st dt : Nat) : s.finish id st dt = s.writeEnd id c st dt := by
  simp only [State.finish, hc]

/-- The bytes of the record that ends a command. -/
theorem State.finish_host {s : State} {id : Nat} {c : Cmd} {r : CompRing} (hc : s.cmd? id = some c) (hr : s.comp? c.owner c.cq = some r) (st dt : Nat) :
    ∃ bs : Bytes, bs = recordBytes (dTag c.desc) st dt (c.commitAt.getD (s.counter c.home)) c.aclk c.skipped c.promoted c.degraded c.reruns c.home r.phase
    ∧ (s.finish id st dt).host = (if (s.dmaStop (s.functionOf c.owner)).isNone then Mem.writeRange s.host (r.base + 32 * r.next) bs else s.host)
    ∧ (s.finish id st dt).stalled = (if (s.dmaStop (s.functionOf c.owner)).isNone then s.stalled
        else s.stalled ++ [{ fn := s.functionOf c.owner, addr := r.base + 32 * r.next, bytes := bs }]) := by
  have hb := State.endBefore_but (covers_among _) s id c st
  have hcomps : (s.endBefore id c st).comps = s.comps := congrArg (·.state.comps) hb
  have hhost : (s.endBefore id c st).host = s.host := congrArg (·.state.host) hb
  have hstalled : (s.endBefore id c st).stalled = s.stalled := congrArg (·.state.stalled) hb
  have hsec : (s.endBefore id c st).sec = s.sec := congrArg (·.state.sec) hb
  have hr' : (s.endBefore id c st).comp? c.owner c.cq = some r := by rw [← hr]; unfold State.comp?; rw [hcomps]
  have hstop : (s.endBefore id c st).dmaStop = s.dmaStop := by funext fn; unfold State.dmaStop; rw [hsec]
  refine ⟨_, rfl, ?_, ?_⟩
  · rw [State.finish_eq hc, State.writeEnd_eq, (State.pushRecord_host hr' _ _ _).1, State.hostWrite_host, State.endBefore_functionOf, hstop, hhost]
  · rw [State.finish_eq hc, State.writeEnd_eq, (State.pushRecord_host hr' _ _ _).2, State.hostWrite_stalled, State.endBefore_functionOf, hstop, hstalled]

/-- Settles O12: the record is the one run of bytes that `pushRecord` writes by DMA, or holds back. -/
theorem endWritesOneRecord : Obligations.EndWritesOneRecord := by
  unfold Obligations.EndWritesOneRecord
  refine ⟨fun s id st dt c r hc hr hst hstop => ?_, fun s id st dt c r hc hr hstop => ?_⟩
  · obtain ⟨bs, hbs, hhost, hstalled⟩ := State.finish_host hc hr st dt
    rw [hstop, Option.isNone_none, if_pos rfl] at hhost hstalled
    have hlen : bs.length = 32 := hbs ▸ length_recordBytes ..
    rw [hhost]
    refine ⟨State.cmd?_finish .., ?_, ?_, ?_, fun a ha => Mem.read_writeRange_out _ _ _ _ (by omega), hstalled⟩
    · exact Mem.nat_writeRange _ _ (i := 0) (by omega) (hbs ▸ recordBytes_tag ..) (dTag_lt _)
    · exact Mem.nat_writeRange _ _ (by omega) (hbs ▸ recordBytes_status ..) hst
    · exact Mem.nat_writeRange _ _ (by omega) (hbs ▸ recordBytes_detail ..) (satBits_lt 16 dt)
  · obtain ⟨bs, hbs, hhost, hstalled⟩ := State.finish_host hc hr st dt
    rw [if_neg (by simpa using hstop)] at hhost hstalled
    exact ⟨State.cmd?_finish .., hhost, _, hstalled, rfl, rfl, hbs ▸ length_recordBytes ..⟩
end Sys2Proof.Machine
end

section
/-! PROOF. Fences: what a record does to its command's fence, and the ordering commands (R53, R54). -/

namespace Sys2Proof.Machine

/-! ### The fence of a record (R53) -/

theorem fenceKey_inj {part f g : Nat} : fenceKey part f = fenceKey part g ↔ f = g := by
  unfold fenceKey
  omega

theorem State.fence_of_fences {s t : State} (h : t.fences = s.fences) (part f : Nat) : t.fence part f = s.fence part f := by
  unfold State.fence
  rw [h]

@[simp] theorem State.fence_setFence_same (s : State) (part f : Nat) (x : Fence) : (s.setFence part f x).fence part f = x :=
  NMap.getD_set_same ..

theorem State.fence_setFence_ne (s : State) (part : Nat) {f g : Nat} (h : g ≠ f) (x : Fence) : (s.setFence part f x).fence part g = s.fence part g :=
  NMap.getD_set_ne _ _ _ (fun e => h (fenceKey_inj.1 e))

/-- A FENCE_ID of 0 or above 4,095 names no fence. -/
theorem State.recordFence_unnamed {s : State} {desc : Bytes} (h : dFence desc = 0 ∨ 4095 < dFence desc) (owner status : Nat) :
    s.recordFence owner desc status = s := by
  unfold State.recordFence
  rw [if_pos (h.imp_right Or.inl)]

/-- What a record makes of its command's fence. -/
def Fence.recorded (x : Fence) (desc : Bytes) (status : Nat) : Fence :=
  if committed status || dFenceOnError desc then { x with count := x.count + 1 } else { x with poison := true }

theorem State.recordFence_named {s : State} {owner : Nat} {desc : Bytes} (ho : owner ≠ packageOwner) (h1 : 1 ≤ dFence desc) (h2 : dFence desc ≤ 4095) (status : Nat) :
    s.recordFence owner desc status = s.setFence owner (dFence desc) ((s.fence owner (dFence desc)).recorded desc status) := by
  have hn : ¬(dFence desc = 0 ∨ 4095 < dFence desc ∨ owner = packageOwner) := by omega
  unfold State.recordFence Fence.recorded
  dsimp only
  rw [if_neg hn]
  split <;> rfl

/-- A record changes no fence but its command's. -/
theorem State.fence_recordFence_ne (s : State) (owner : Nat) (desc : Bytes) (status : Nat) {f : Nat} (hf : f ≠ dFence desc) :
    (s.recordFence owner desc status).fence owner f = s.fence owner f := by
  simp only [State.recordFence]
  repeat' split
  · rfl
  · exact State.fence_setFence_ne _ _ hf _
  · exact State.fence_setFence_ne _ _ hf _

theorem State.recordFence_fences_of_fences {s t : State} (h : t.fences = s.fences) (owner : Nat) (desc : Bytes) (status : Nat) :
    (t.recordFence owner desc status).fences = (s.recordFence owner desc status).fences := by
  simp only [State.recordFence, State.setFence, State.fence, h]
  repeat' split
  all_goals first | rfl | exact h

theorem State.writeEnd_fences (s : State) (id : Nat) (c : Cmd) (st dt : Nat) :
    (s.writeEnd id c st dt).fences = if c.commitAt.isSome then s.fences else (s.recordFence c.owner c.desc st).fences := by
  rw [State.writeEnd_eq, State.pushRecord_fences]
  cases hs : c.commitAt.isSome
  · simp only [State.endBefore, hs, Bool.false_eq_true, if_false]
    exact State.recordFence_fences_of_fences (s := s) (t := { s with cmds := NMap.erase s.cmds id }) rfl c.owner c.desc st
  · simp only [State.endBefore, hs, if_true]
    rfl

theorem State.finish_fences {s : State} {id : Nat} {c : Cmd} (hc : s.cmd? id = some c) (st dt : Nat) :
    (s.finish id st dt).fences = if c.commitAt.isSome then s.fences else (s.recordFence c.owner c.desc st).fences := by
  rw [State.finish_eq hc, State.writeEnd_fences]

/-- The end of a run in the middle keeps what names the command's fence and record. -/
theorem Cmd.cutShort_eq (c : Cmd) (fresh : Nat) : (c.cutShort fresh).commitAt = c.commitAt ∧ (c.cutShort fresh).owner = c.owner ∧ (c.cutShort fresh).desc = c.desc := by
  unfold Cmd.cutShort
  split <;> exact ⟨rfl, rfl, rfl⟩

/-- What a failing command gives back before its record is written changes none of the fields of a record that a failure does not report in. -/
theorem State.release_but {X : Field → Bool} (h : Covers X ([.fresh, .plans, .tempers, .contents, .seqs, .frames, .poison, .stores, .subs, .comps, .engines, .linkOut] ++ hostFields ++ reportFields))
    (s : State) (id : Nat) (c : Cmd) (st dt : Nat) :
    ((((s.takeFresh.reportPoison c.owner st dt).farewell c st dt).undo c).discardTiles id).but X = s.but X := by
  rw [State.discardTiles_but (h.mono (by decide)), State.undo_but (h.mono (by decide)), State.farewell_but (h.mono (by decide)),
    State.reportPoison_but (h.mono (by decide)), State.takeFresh_but (h.mono (by decide))]

theorem State.failCmd_fences {s : State} {id : Nat} {c : Cmd} (hc : s.cmd? id = some c) (st dt : Nat) :
    (s.failCmd id st dt).fences = if c.commitAt.isSome then s.fences else (s.recordFence c.owner c.desc st).fences := by
  obtain ⟨hat, howner, hdesc⟩ := c.cutShort_eq s.fresh
  simp only [State.failCmd, hc]
  rw [State.writeEnd_fences, hat, howner, hdesc]
  have hu : ((((s.takeFresh.reportPoison c.owner st dt).farewell c st dt).undo c).discardTiles id).fences = s.fences :=
    congrArg (·.state.fences) (State.release_but (covers_among _) s id c st dt)
  split
  · exact hu
  · exact State.recordFence_fences_of_fences hu _ _ _

/-- A list of checks of which one fails has a first failure. -/
theorem firstSome_isSome {α : Type} {l : List (Option α)} {x : Option α} (hx : x ∈ l) (h : x.isSome = true) : (firstSome l).isSome = true := by
  induction l with
  | nil => cases hx
  | cons y l ih =>
    cases y with
    | some v => rfl
    | none =>
      rcases List.mem_cons.1 hx with rfl | hx
      · cases h
      · exact ih hx

/-- A descriptor of the package admin ring that names a fence is refused. -/
theorem State.refuses_fence (s : State) (ring : Nat) (d : Bytes) (hd : dFence d ≠ 0) : (s.refuses packageOwner ring d).isSome = true := by
  refine firstSome_isSome (x := s.headerFail packageOwner ring d) (by simp) ?_
  refine firstSome_isSome (x := failIf (decide (4095 < dFence d) || (decide (packageOwner = packageOwner) && decide (dFence d ≠ 0))) E_BAD_DESCRIPTOR 0x0006) (by simp) ?_
  simp [failIf, hd]

theorem Fence.recorded_eq (x : Fence) (desc : Bytes) (status : Nat) :
    x.recorded desc status = if status < 0x0010 ∨ dFenceOnError desc = true then { x with count := x.count + 1 } else { x with poison := true } := by
  simp only [Fence.recorded, committed, Bool.or_eq_true, decide_eq_true_eq]

theorem State.fence_recordFence {s : State} {owner : Nat} {desc : Bytes} (ho : owner ≠ packageOwner) (h1 : 1 ≤ dFence desc) (h2 : dFence desc ≤ 4095) (status : Nat) :
    (s.recordFence owner desc status).fence owner (dFence desc) = (s.fence owner (dFence desc)).recorded desc status := by
  rw [State.recordFence_named ho h1 h2, State.fence_setFence_same]

/-! ### SIGNAL, BARRIER and WAIT (Table 2-7) -/

/-- What the change of a fence makes of a command: a WAIT on the fence whose outcome is known stands ready. -/
def Cmd.judged (part f : Nat) (x : Fence) (c : Cmd) : Cmd :=
  if c.owner = part ∧ c.opcode = 0x0C ∧ c.phase = .started ∧ fld c.desc 16 2 = f then
    match waitJudge x c.desc with
    | some (st, dt) => { c with phase := .ready, status := st, detail := dt }
    | none => c
  else c

theorem judgeWaits_eq (m : NMap Cmd) (part f : Nat) (x : Fence) : judgeWaits m part f x = m.map (fun p => (p.1, p.2.judged part f x)) := by
  refine List.map_congr_left fun p _ => ?_
  unfold Cmd.judged
  split
  · cases waitJudge x p.2.desc <;> rfl
  · rfl

theorem Cmd.judged_ne {c : Cmd} (hc : c.opcode ≠ 0x0C) (part f : Nat) (x : Fence) : c.judged part f x = c := by
  rw [Cmd.judged, if_neg (by rintro ⟨-, ho, -⟩; exact hc ho)]

theorem get?_judgeWaits (m : NMap Cmd) (part f : Nat) (x : Fence) (id : Nat) :
    NMap.get? (judgeWaits m part f x) id = (NMap.get? m id).map (Cmd.judged part f x) := by
  rw [judgeWaits_eq, NMap.get?_map_snd]

theorem State.cmd?_setFence_ne {s : State} {id : Nat} {c : Cmd} (h : s.cmd? id = some c) (hc : c.opcode ≠ 0x0C) (part f : Nat) (x : Fence) :
    (s.setFence part f x).cmd? id = some c := by
  unfold State.cmd? at h ⊢
  exact (get?_judgeWaits s.cmds part f x id).trans (by rw [h, Option.map_some, Cmd.judged_ne hc])

theorem waitJudge_poisoned {x : Fence} (h : x.poison = true) (desc : Bytes) : waitJudge x desc = some (E_FENCE_FAILED, fld desc 16 2) := by
  simp [waitJudge, h]
theorem waitJudge_holds {x : Fence} (h : x.poison = false) {desc : Bytes}
    (hv : (fld desc 18 1 = 0 ∧ fld desc 24 8 ≤ x.count.toNat) ∨ (fld desc 18 1 ≠ 0 ∧ x.count.toNat = fld desc 24 8)) : waitJudge x desc = some (OK, 0) := by
  unfold waitJudge
  rcases hv with ⟨h0, hv⟩ | ⟨h0, hv⟩ <;> simp [h, h0, hv]

theorem waitJudge_open {x : Fence} (h : x.poison = false) {desc : Bytes}
    (hv : (fld desc 18 1 = 0 ∧ x.count.toNat < fld desc 24 8) ∨ (fld desc 18 1 ≠ 0 ∧ x.count.toNat ≠ fld desc 24 8)) : waitJudge x desc = none := by
  unfold waitJudge
  rcases hv with ⟨h0, hv⟩ | ⟨h0, hv⟩
  · simp [h, h0, Nat.not_le.2 hv]
  · simp [h, h0, hv]

/-- A WAIT that has not ended is judged by its fence. -/
theorem execWait_judged {s : State} {id : Nat} {c : Cmd} (hs : s.serving = true) (hc : s.cmd? id = some c) (hop : c.opcode = 0x0C)
    (hp : c.phase = .started ∨ c.phase = .admitted) {st dt : Nat} (hj : waitJudge (s.fence c.owner (c.f 16 2)) c.desc = some (st, dt)) :
    execWait id s = .next (s.finish id st dt) := by
  rcases hp with hp | hp <;> simp [execWait, hs, hc, hop, hp, hj]

theorem execWait_open {s : State} {id : Nat} {c : Cmd} (hs : s.serving = true) (hc : s.cmd? id = some c) (hop : c.opcode = 0x0C)
    (hp : c.phase = .started ∨ c.phase = .admitted) (hj : waitJudge (s.fence c.owner (c.f 16 2)) c.desc = none) :
    execWait id s = .next (s.startCmd id) := by
  rcases hp with hp | hp <;> simp [execWait, hs, hc, hop, hp, hj, State.startCmd]

theorem signal_runs {s : State} {id op : Nat} {c : Cmd} (hs : s.serving = true) (hc : s.cmd? id = some c) (hop : c.opcode = 0x0B) (hu : c.uncommitted = true)
    (hf : c.f 18 1 = op) (f : Fence → Word → Fence) :
    signal op f id s = (s.setFence c.owner (c.f 16 2) (f (s.fence c.owner (c.f 16 2)) (BitVec.ofNat 64 (c.f 24 8)))).finish id OK 0 := by
  simp [signal, hs, hc, hop, hu, hf]

theorem execBarrier_eq {s : State} {id : Nat} {c : Cmd} (hs : s.serving = true) (hc : s.cmd? id = some c) (hop : c.opcode = 0x0A) :
    execBarrier id s = .next (if ∀ x ∈ s.ringCmds c.owner c.ring, c.order ≤ x.2.order then s.finish id OK 0 else s) := by
  simp only [execBarrier, hc, hs, hop, decide_true, Bool.true_and, List.all_eq_true, decide_eq_true_eq]
  split <;> rfl

/-- Settles O14, by the effect of each ordering command and what a record makes of its command's fence. -/
theorem signalBarrierAndWaitComplete : Obligations.SignalBarrierAndWaitComplete := by
  unfold Obligations.SignalBarrierAndWaitComplete
  refine ⟨⟨fun s id c hs hc hop hu => ⟨fun hf => ?_, fun hf => ?_, fun hf => ?_⟩, fun s id c x hc hop hat ho h1 h2 => ⟨State.cmd?_finish .., ?_, fun f hf hd => ?_⟩⟩,
    fun s id c hs hc hop => ⟨fun hall => ?_, fun x hx hlt => ?_⟩, fun s id c hs hc hop => ⟨fun hp => ?_, fun hp => ⟨fun hx => ?_, fun hx => ⟨fun hv => ?_, fun hv => ?_⟩⟩⟩,
    fun s id c t hs hc hop hp h0 => ⟨fun ht => ?_, fun ht => ?_⟩, fun s id st dt => State.cmd?_finish ..⟩
  · exact congrArg Host.Outcome.next (signal_runs hs hc hop hu hf _)
  · exact congrArg Host.Outcome.next (signal_runs hs hc hop hu hf _)
  · exact congrArg Host.Outcome.next (signal_runs hs hc hop hu hf _)
  · have hc' := State.cmd?_setFence_ne hc (by rw [hop]; decide) c.owner (c.f 16 2) x
    have hfin := State.finish_fences hc' OK 0
    rw [hat, Option.isSome_none, if_neg Bool.false_ne_true] at hfin
    rw [State.fence_of_fences hfin]
    split
    · next hd => rw [← hd, State.fence_recordFence ho (by omega) (by omega), State.fence_setFence_same]; rfl
    · next hd => rw [State.fence_recordFence_ne _ _ _ _ (Ne.symm hd), State.fence_setFence_same]
  · have hc' := State.cmd?_setFence_ne hc (by rw [hop]; decide) c.owner (c.f 16 2) x
    have hfin := State.finish_fences hc' OK 0
    rw [hat, Option.isSome_none, if_neg Bool.false_ne_true] at hfin
    rw [State.fence_of_fences hfin, State.fence_recordFence_ne _ _ _ _ hd, State.fence_setFence_ne _ _ hf]
  · exact (execBarrier_eq hs hc hop).trans (by rw [if_pos hall])
  · exact (execBarrier_eq hs hc hop).trans (by rw [if_neg fun hall => absurd (hall x hx) (by omega)])
  · show execWait id s = _
    simp [execWait, hs, hc, hop, hp]
  · exact execWait_judged hs hc hop hp (waitJudge_poisoned hx _)
  · exact execWait_judged hs hc hop hp (waitJudge_holds hx hv)
  · exact execWait_open hs hc hop hp (waitJudge_open hx hv)
  · have hs' : (s.reach c.home t).serving = true := hs
    show execWaitTimeout id t s = _
    simp only [execWaitTimeout, hc]
    rw [if_pos ⟨hs', hop, hp, h0, ht⟩]
  · show execWaitTimeout id t s = _
    simp only [execWaitTimeout, hc]
    rw [if_neg fun hh => absurd hh.2.2.2.2 (Nat.not_le.2 ht)]

end Sys2Proof.Machine
end

section
/-! PROOF. Doorbells, interrupts, translations, fetch and admission (R29, R42 to R52, R64). -/

namespace Sys2Proof.Machine

/-! ### Doorbells (R42, R51, R52, R64) -/

/-- The words of a doorbell write: with bit 31 clear or set, its low bits are those written. -/
theorem doorbellWord_clear (v : Nat) : (v % 2 ^ 31).testBit 31 = false ∧ v % 2 ^ 31 % 65536 = v % 65536 ∧ v % 2 ^ 31 % 2 ^ 18 = v % 2 ^ 18 :=
  ⟨Nat.testBit_lt_two_pow (Nat.mod_lt _ (by decide)), by omega, by omega⟩
theorem doorbellWord_set (v : Nat) :
    (v % 2 ^ 31 + 2 ^ 31).testBit 31 = true ∧ (v % 2 ^ 31 + 2 ^ 31) % 65536 = v % 65536 ∧ (v % 2 ^ 31 + 2 ^ 31) % 2 ^ 18 = v % 2 ^ 18 := by
  refine ⟨?_, by omega, by omega⟩
  rw [Nat.add_comm, Nat.testBit_two_pow_add_eq, Nat.testBit_lt_two_pow (Nat.mod_lt _ (by decide))]
  rfl

theorem tailDoorbell_taken {s : State} {fn off v owner ring : Nat} {r : SubRing} {cells : List Host.Cell} (hs : s.serving = true)
    (hd : doorbellAt (s.hostStores cells) fn off = some (owner, ring, false)) (hr : s.sub? owner ring = some r) (hv : v % 65536 < 2 ^ r.log2) :
    tailDoorbell fn off 32 v cells s = (s.hostStores cells).setSub owner ring { r with tail := v % 65536, halted := if v.testBit 31 then false else r.halted } := by
  have hs' : (s.hostStores cells).serving = true := hs
  have hr' : (s.hostStores cells).sub? owner ring = some r := hr
  simp only [tailDoorbell, hs', hd, hr', Bool.not_true, Bool.false_eq_true, if_false]
  rw [if_pos ⟨trivial, hv⟩]

theorem tailDoorbell_narrow {s : State} (hs : s.serving = true) (fn off v : Nat) {width : Nat} (hw : width ≠ 32) (cells : List Host.Cell) :
    tailDoorbell fn off width v cells s = (s.hostStores cells).protocolHs off := by
  have hs' : (s.hostStores cells).serving = true := hs
  simp only [tailDoorbell, hs', hw, Bool.not_true, Bool.false_eq_true, if_false, false_and]
  repeat' split
  all_goals rfl

theorem headDoorbell_taken {s : State} {fn off v owner cq : Nat} {r : CompRing} (hs : s.serving = true) (hd : doorbellAt s fn off = some (owner, cq, true))
    (hr : s.comp? owner cq = some r) (hv : v % 2 ^ 18 < r.size) (ha : (v % 2 ^ 18 + r.size - r.head) % r.size ≤ r.recs.length) :
    headDoorbell fn off 32 v s =
      (let t := s.setComp owner cq { r with head := v % 2 ^ 18, recs := r.recs.drop ((v % 2 ^ 18 + r.size - r.head) % r.size), armed := r.armed || v.testBit 31 }
       if v.testBit 31 then t.fireCq owner cq else t) := by
  simp only [headDoorbell, hs, hd, hr, Bool.not_true, Bool.false_eq_true, if_false]
  rw [if_pos ⟨trivial, hv, ha⟩]

theorem headDoorbell_narrow {s : State} (hs : s.serving = true) (fn off v : Nat) {width : Nat} (hw : width ≠ 32) :
    headDoorbell fn off width v s = s.protocolHs off := by
  simp only [headDoorbell, hs, hw, Bool.not_true, Bool.false_eq_true, if_false, false_and]
  repeat' split
  all_goals rfl

/-- A report changes no ring. -/
theorem State.protocolHs_rings (s : State) (info : Nat) : (s.protocolHs info).subs = s.subs ∧ (s.protocolHs info).comps = s.comps := by
  have h := State.protocolHs_but (covers_among _) s info
  exact ⟨congrArg (·.state.subs) h, congrArg (·.state.comps) h⟩

/-- Settles O15: a doorbell word of 32 bits is taken, and any other is reported. -/
theorem doorbellsTakeEffect : Obligations.DoorbellsTakeEffect := by
  unfold Obligations.DoorbellsTakeEffect
  refine ⟨⟨fun s fn off v owner ring r cells hs hd hr hv => ?_, fun s fn off v owner cq r hs hd hr hv ha => ?_⟩, fun s fn off width v cells hs hw => ?_⟩
  · obtain ⟨hc31, hc16, -⟩ := doorbellWord_clear v
    obtain ⟨hs31, hs16, -⟩ := doorbellWord_set v
    have hc := tailDoorbell_taken (v := v % 2 ^ 31) hs hd hr (by rw [hc16]; exact hv)
    have hset := tailDoorbell_taken (v := v % 2 ^ 31 + 2 ^ 31) hs hd hr (by rw [hs16]; exact hv)
    rw [hc31, hc16] at hc
    rw [hs31, hs16] at hset
    exact ⟨congrArg Host.Outcome.next hc, congrArg Host.Outcome.next hset⟩
  · obtain ⟨hc31, -, hc18⟩ := doorbellWord_clear v
    obtain ⟨hs31, -, hs18⟩ := doorbellWord_set v
    have hc := headDoorbell_taken (v := v % 2 ^ 31) hs hd hr (by rw [hc18]; exact hv) (by rw [hc18]; exact ha)
    have hset := headDoorbell_taken (v := v % 2 ^ 31 + 2 ^ 31) hs hd hr (by rw [hs18]; exact hv) (by rw [hs18]; exact ha)
    rw [hc31, hc18, Bool.or_false] at hc
    rw [hs31, hs18, Bool.or_true] at hset
    exact ⟨congrArg Host.Outcome.next hc, _, congrArg Host.Outcome.next hset, rfl⟩
  · have hs' : (s.hostStores cells).serving = true := hs
    exact ⟨⟨_, congrArg Host.Outcome.next (tailDoorbell_narrow hs fn off (v % 2 ^ 31) hw cells), (State.protocolHs_rings ..).1, (State.protocolHs_rings ..).2, rfl⟩,
      ⟨_, congrArg Host.Outcome.next (headDoorbell_narrow hs fn off (v % 2 ^ 31) hw), (State.protocolHs_rings ..).1, (State.protocolHs_rings ..).2, rfl⟩⟩

/-! ### Interrupts and translations (R29, R64) -/

theorem CompRing.due_of_age {r : CompRing} {x : Bool × Word} {xs : List (Bool × Word)} {now : Word} (hr : r.recs = x :: xs) (h0 : r.modTime ≠ 0)
    (h : r.modTime * 100 ≤ (now - x.2).toNat) : r.due now = true := by
  simp only [CompRing.due, hr, h0, ne_eq, not_false_eq_true, decide_true, Bool.true_and, h, Bool.or_true]

/-- Settles O16: what was held for an unmasked vector is flushed, a ring whose oldest record has waited is due, and an invalidation filters the ATC. -/
theorem interruptsAndTranslations : Obligations.InterruptsAndTranslations := by
  unfold Obligations.InterruptsAndTranslations
  refine ⟨fun s fn v => ⟨_, rfl, ?_⟩, fun s owner cq t r x xs hr harm hrec h0 hage => ?_, fun s fn page size => ⟨_, rfl, rfl, fun e => ?_⟩⟩
  · set m := NMap.getD s.msix fn {} with hm
    set m1 : Msix := { m with unmasked := if m.unmasked.contains v then m.unmasked else m.unmasked ++ [v] } with hm1
    have hv : v ∈ m1.unmasked := by
      simp only [hm1]
      split
      · next h => simpa using h
      · simp
    show v ∈ (NMap.getD (State.flushMsix { s with msix := NMap.set s.msix fn m1 } fn).msix fn {}).unmasked ∧
      (m.funcMasked = false → v ∈ m.pendingBits → (fn, v) ∈ (State.flushMsix { s with msix := NMap.set s.msix fn m1 } fn).msixOut)
    simp only [State.flushMsix, NMap.getD_set_same]
    split
    · next hmask => exact ⟨by simpa using hv, fun h => absurd (hmask.symm.trans h) (by simp)⟩
    · refine ⟨by simpa using hv, fun _ hp => ?_⟩
      simp only [List.mem_append, List.mem_map, List.mem_filter]
      exact .inr ⟨v, ⟨hp, by simpa using hv⟩, rfl⟩
  · show execModTimeExpiry owner cq t s = _
    have hr' : (s.reach r.home t).comp? owner cq = some r := hr
    have hdue := CompRing.due_of_age hrec h0 hage
    simp only [execModTimeExpiry, hr, State.fireCq, hr', harm, hdue, Bool.and_self, if_true]
    rfl
  · simp only [List.mem_filter, Bool.not_eq_true', Bool.and_eq_false_iff, beq_eq_false_iff_ne, decide_eq_false_iff_not]
    tauto

/-! ### Fetch (R44) -/

theorem fetchUpTo_fetched (s : State) (n : Nat) (r : SubRing) :
    r.fetched.length ≤ (fetchUpTo s n r).fetched.length ∧ (fetchUpTo s n r).fetched.length ≤ r.fetched.length + n := by
  induction n generalizing r with
  | zero => exact ⟨le_rfl, le_rfl⟩
  | succ n ih =>
    unfold fetchUpTo
    split
    · omega
    · obtain ⟨h1, h2⟩ := ih (fetchOne s r)
      have h3 : (fetchOne s r).fetched.length = r.fetched.length + 1 := by simp [fetchOne]
      omega

/-- A ring whose head has not reached its tail gives at least one descriptor. -/
theorem fetchUpTo_fetched_lt (s : State) (n : Nat) {r : SubRing} (h : r.head ≠ r.tail) : r.fetched.length < (fetchUpTo s (n + 1) r).fetched.length := by
  have h1 := (fetchUpTo_fetched s n (fetchOne s r)).1
  have h3 : (fetchOne s r).fetched.length = r.fetched.length + 1 := by simp [fetchOne]
  rw [fetchUpTo, if_neg h]
  omega

theorem fetchUpTo_headWb (s : State) (n : Nat) (r : SubRing) : (fetchUpTo s n r).headWb = r.headWb := by
  induction n generalizing r with
  | zero => rfl
  | succ n ih =>
    unfold fetchUpTo
    split
    · rfl
    · exact ih (fetchOne s r)

theorem State.sub?_lt {s : State} {owner ring : Nat} {r : SubRing} (h : s.sub? owner ring = some r) : ring < 1024 := by
  by_contra hn
  rw [State.sub?, if_neg hn] at h
  cases h

/-- A fetch moves the ring's head, and writes it to HEAD_WB by DMA. -/
theorem State.fetchRing_eq {s : State} {owner ring n : Nat} {r : SubRing} (hr : s.sub? owner ring = some r) (hs : r.stopped = false) (hh : r.head ≠ r.tail)
    (hd : s.dmaStop (s.functionOf owner) = none) :
    (s.fetchRing owner ring n).subs = (s.setSub owner ring (fetchUpTo s n r)).subs
    ∧ (r.headWb ≠ 0 → (s.fetchRing owner ring n).host = Mem.writeRange s.host r.headWb (leBytes 8 (fetchUpTo s n r).head))
    ∧ (fetchUpTo s n r).headWb = r.headWb := by
  have hwb := fetchUpTo_headWb s n r
  have hrun : (r.stopped || decide (r.head = r.tail) || (s.dmaStop (s.functionOf owner)).isSome) = false := by simp [hs, hh, hd]
  simp only [State.fetchRing, hr, hrun, Bool.false_eq_true, if_false, hwb]
  split
  · next h0 => exact ⟨rfl, fun h => absurd h0 h, trivial⟩
  · refine ⟨rfl, fun _ => ?_, trivial⟩
    have hd' : (fetchDma (s.functionOf owner) ((fetchUpTo s n r).order - r.order) r (s.setSub owner ring (fetchUpTo s n r))).dmaStop (s.functionOf owner) = none := hd
    rw [State.hostWrite_host, hd']
    rfl

theorem State.fetchRing_stopped {s : State} {owner : Nat} (h : s.dmaStop (s.functionOf owner) ≠ none) (ring n : Nat) : s.fetchRing owner ring n = s := by
  unfold State.fetchRing
  split
  · rfl
  · rw [if_pos (by simp [Option.isSome_iff_ne_none, h])]

/-! ### Admission (R46, R48, R50) -/

theorem State.cmd?_failCmd (s : State) (id st dt : Nat) : (s.failCmd id st dt).cmd? id = none := by
  unfold State.failCmd
  split
  · assumption
  · exact State.cmd?_writeEnd ..

/-- Command `id` is admitted with its ring, order and descriptor. -/
def State.Admits (s : State) (id owner ring order : Nat) (desc : Bytes) : Prop :=
  ∃ c, s.cmd? id = some c ∧ c.owner = owner ∧ c.ring = ring ∧ c.order = order ∧ c.desc = desc

section
variable {s : State} {id owner ring order : Nat} {desc : Bytes}

theorem State.Admits.setCmd {c : Cmd} (ho : c.owner = owner) (hr : c.ring = ring) (hn : c.order = order) (hd : c.desc = desc) :
    (s.setCmd id c).Admits id owner ring order desc := ⟨c, State.cmd?_setCmd_same .., ho, hr, hn, hd⟩

/-- A step of the admission keeps what names the command. -/
theorem State.Admits.withCmd (h : s.Admits id owner ring order desc) (f : State → Nat → Cmd → State)
    (hf : ∀ c, s.cmd? id = some c → c.owner = owner → c.ring = ring → c.order = order → c.desc = desc → (f s id c).Admits id owner ring order desc) :
    (s.withCmd id f).Admits id owner ring order desc := by
  obtain ⟨c, hc, ho, hr, hn, hd⟩ := h
  simp only [State.withCmd, hc]
  exact hf c hc ho hr hn hd
end

theorem State.setFormats_admits {s : State} {id : Nat} {c : Cmd} (hc : s.cmd? id = some c) : (s.setFormats id c).Admits id c.owner c.ring c.order c.desc := by
  simp only [State.setFormats]
  split
  · exact ⟨c, hc, rfl, rfl, rfl, rfl⟩
  · split
    · exact State.Admits.setCmd rfl rfl rfl rfl
    · exact State.Admits.setCmd rfl rfl rfl rfl

theorem State.admitOwn_admits {s : State} {id : Nat} {c : Cmd} (hc : s.cmd? id = some c) : (s.admitOwn id c).Admits id c.owner c.ring c.order c.desc := by
  have hsame : s.Admits id c.owner c.ring c.order c.desc := ⟨c, hc, rfl, rfl, rfl, rfl⟩
  have hstart : (s.startCmd id).Admits id c.owner c.ring c.order c.desc := by
    simp only [State.startCmd, hc]
    split
    · exact State.Admits.setCmd rfl rfl rfl rfl
    · exact hsame
  unfold State.admitOwn
  repeat' split
  all_goals first | exact hsame | exact hstart | exact State.Admits.setCmd rfl rfl rfl rfl

/-- The head of a ring that passes every check is admitted. -/
theorem State.admitHead_admits (s : State) (owner ring : Nat) (r : SubRing) (x : Fetched) :
    (s.admitHead owner ring r x).Admits s.nextCmd owner ring x.order x.desc := by
  have h0 : (s.admitCmd owner ring r x).Admits s.nextCmd owner ring x.order x.desc := ⟨_, NMap.get?_set_same .., rfl, rfl, rfl, rfl⟩
  unfold State.admitHead
  dsimp only
  refine State.Admits.withCmd (State.Admits.withCmd (State.Admits.withCmd (State.Admits.withCmd h0 _ ?_) _ ?_) _ ?_) _ ?_
  · rintro c - rfl rfl hn hd
    exact State.Admits.setCmd rfl rfl hn hd
  · rintro c hc rfl rfl hn hd
    rw [← hn, ← hd]
    exact State.setFormats_admits hc
  · rintro c hc rfl rfl hn hd
    rw [← hn, ← hd]
    exact State.admitOwn_admits hc
  · rintro c hc ho hr hn hd
    refine ⟨c, ?_, ho, hr, hn, hd⟩
    rw [← hc]
    exact congrArg (fun m => NMap.get? m s.nextCmd) (congrArg (·.state.cmds) (State.announce_but (covers_among _) _ _ _))

end Sys2Proof.Machine
end

section
/-! PROOF. The decision point: commits, failures, and the messages between the dies (R59, R61, R379, R502). -/

namespace Sys2Proof.Machine

/-! ### Failure -/

theorem State.failCmd_versions (s : State) (id st dt : Nat) : VersionsKept s (s.failCmd id st dt) :=
  State.versions_kept (State.failCmd_but (covers_among _) s id st dt) rfl

theorem State.failAt_versions (s : State) (id : Nat) (c : Cmd) : VersionsKept s (s.failAt id c) :=
  State.versions_kept (State.failAt_but (covers_among _) s id c) rfl

theorem State.cmd?_failAt (s : State) (id : Nat) (c : Cmd) : (s.failAt id c).cmd? id = none := State.cmd?_failCmd ..

/-! ### Messages on the spine -/

theorem streamKey_control {src dst : Nat} : streamKey src dst 0 = 4 * (src * 8 + dst) := by
  unfold streamKey
  omega

theorem streamKey_inj {src d e : Nat} : streamKey src d 0 = streamKey src e 0 ↔ d = e := by
  unfold streamKey
  omega

/-- A control message takes the next number of its stream. -/
theorem State.sendSpine_sent (s : State) (src dst : Nat) (p : Bytes) : SentOnSpine s (s.sendSpine src dst 0 p) src dst 0 p := by
  show NMap.get? (State.launch _ _).streams _ = _
  rw [State.launch_streams]
  exact NMap.get?_set_same ..

theorem State.sendSpine_streams_ne (s : State) {src dst : Nat} {k : Nat} (hk : k ≠ streamKey src dst 0) (p : Bytes) :
    NMap.get? (s.sendSpine src dst 0 p).streams k = NMap.get? s.streams k := by
  show NMap.get? (State.launch _ _).streams _ = _
  rw [State.launch_streams]
  exact NMap.get?_set_ne _ _ hk

/-- Whether a message is sent turns only on its own stream. -/
theorem sentOnSpine_congr {s s' t t' : State} {src dst : Nat} {p : Bytes} (hs : NMap.get? s.streams (streamKey src dst 0) = NMap.get? s'.streams (streamKey src dst 0))
    (ht : NMap.get? t.streams (streamKey src dst 0) = NMap.get? t'.streams (streamKey src dst 0)) (h : SentOnSpine s' t' src dst 0 p) : SentOnSpine s t src dst 0 p := by
  unfold SentOnSpine SentMsg NMap.getD at *
  rw [ht, h, hs]

/-- The same message to each of a list of dies. -/
def State.tellDies (s : State) (src : Nat) (dies : List Nat) (p : Bytes) : State := dies.foldl (fun (a : State) d => a.sendSpine src d 0 p) s

theorem State.tellDies_but {X : Field → Bool} (h : Covers X sendFields) (s : State) (src : Nat) (dies : List Nat) (p : Bytes) :
    (s.tellDies src dies p).but X = s.but X :=
  foldl_but _ _ _ fun a d => State.sendSpine_but h a _ _ _ _

theorem State.tellDies_streams_ne (s : State) {src : Nat} {dies : List Nat} {k : Nat} (hk : ∀ d ∈ dies, k ≠ streamKey src d 0) (p : Bytes) :
    NMap.get? (s.tellDies src dies p).streams k = NMap.get? s.streams k := by
  induction dies generalizing s with
  | nil => rfl
  | cons d dies ih =>
    obtain ⟨hd, hk⟩ := List.forall_mem_cons.1 hk
    exact (ih _ hk).trans (State.sendSpine_streams_ne s hd p)

/-- Each die of a list without repetition is sent the message once. -/
theorem State.tellDies_sent (s : State) (src : Nat) {dies : List Nat} (hn : dies.Nodup) (p : Bytes) :
    ∀ e ∈ dies, SentOnSpine s (s.tellDies src dies p) src e 0 p := by
  induction dies generalizing s with
  | nil => exact fun e he => nomatch he
  | cons d dies ih =>
    obtain ⟨hd, hn⟩ := List.nodup_cons.1 hn
    refine List.forall_mem_cons.2 ⟨?_, fun e he => ?_⟩
    · refine sentOnSpine_congr rfl (State.tellDies_streams_ne (s.sendSpine src d 0 p) (fun e he hk => hd ?_) p) (State.sendSpine_sent s src d p)
      exact streamKey_inj.1 hk ▸ he
    · have hne : e ≠ d := fun h => hd (h ▸ he)
      exact sentOnSpine_congr (State.sendSpine_streams_ne s (fun hk => hne (streamKey_inj.1 hk)) p).symm rfl (ih _ hn e he)

/-! ### Objects at the commit -/

theorem State.commitObjects_one {s : State} {c : Cmd} {w : Written} {o : Obj} (hw : s.commits c = [w]) (ho : NMap.get? s.objects w.key = some o) :
    s.commitObjects c = s.setObj w.key (if c.flips then (o.flip w.ingots).bump else o) := by
  simp only [State.commitObjects, hw, List.foldl_cons, List.foldl_nil, ho]

theorem State.commitDie_one {s : State} {c : Cmd} {w : Written} {o : Obj} (hw : c.written = [w]) (ho : NMap.get? s.objects w.key = some o) (d : Nat) :
    s.commitDie c d = s.setObj w.key (o.flip (o.homedOn w.ingots d)) := by
  simp only [State.commitDie, hw, List.foldl_cons, List.foldl_nil, ho]

/-! ### A commit on other dies -/

theorem State.commitDies_nodup (s : State) (c : Cmd) : (s.commitDies c).Nodup := List.nodup_range.filter _

/-- A command that commits on its home die and waits for others. -/
def Cmd.awaits (c : Cmd) (dies : List Nat) (at_ : Word) : Cmd := { c with phase := .committing, waitDies := dies, ackDies := dies, commitAt := some at_ }

/-- What a commit that other dies take part in does on the home die, its fence left aside. -/
def State.commitHome (s : State) (c : Cmd) : State := ((s.commitDie c c.home).commitCounts c).commitRest c

theorem State.commitHome_but {X : Field → Bool}
    (hX : Covers X (cacheFields ++ lineFields ++ [.tempers, .objects, .seqs, .frames, .steps, .trees, .poison, .stores, .linkOut, .models, .engines])) (s : State) (c : Cmd) :
    (s.commitHome c).but X = s.but X := by
  rw [State.commitHome, State.commitRest_but hX, State.commitCounts_but (hX.mono (by decide)), State.commitDie_but (hX.mono (by decide))]

/-- The state in which the other dies of a commit are told. -/
def State.commitAway (s : State) (id : Nat) (c : Cmd) : State :=
  ((s.commitHome c).recordFence c.owner c.desc c.status).setCmd id (c.awaits (s.commitDies c) (s.counter c.home))

theorem State.commitAway_but {X : Field → Bool} (hX : Covers X (cacheFields ++ lineFields ++
      [.fences, .cmds, .progress, .tempers, .objects, .seqs, .frames, .steps, .trees, .poison, .stores, .linkOut, .models, .engines])) (s : State) (id : Nat) (c : Cmd) :
    (s.commitAway id c).but X = s.but X := by
  rw [State.commitAway, State.setCmd_but (hX.mono (by decide)), State.recordFence_but (hX.mono (by decide)), State.commitHome_but (hX.mono (by decide))]

section
variable {s : State} {id : Nat} {c : Cmd} (hs : s.serving = true) (hc : s.cmd? id = some c) (hp : c.phase = .ready) (hop : c.opcode ≠ 0x0C)
include hs hc hp hop

theorem execCommandCommit_failed (hst : committed c.status = false) : execCommandCommit id s = .next (s.failAt id c) := by
  simp [execCommandCommit, hc, hs, hp, hop, hst]

theorem execCommandCommit_stopped (hst : committed c.status = true) {x : Nat} (hx : s.ideStop c = some x) :
    execCommandCommit id s = .next (s.failCmd id E_IDE_STREAM x) := by
  simp [execCommandCommit, hc, hs, hp, hop, hst, hx]

theorem execCommandCommit_home (hst : committed c.status = true) (hx : s.ideStop c = none) (hd : s.commitDies c = []) :
    execCommandCommit id s = .next (((s.commitObjects c).commitRest c).finish id c.status c.detail) := by
  simp [execCommandCommit, hc, hs, hp, hop, hst, hx, hd]

theorem execCommandCommit_away (hst : committed c.status = true) (hx : s.ideStop c = none) (hd : s.commitDies c ≠ []) :
    execCommandCommit id s = .next ((s.commitAway id c).tellDies c.home (s.commitDies c) (leBytes 1 0x01 ++ leBytes 4 id)) := by
  simp [execCommandCommit, hc, hs, hp, hop, hst, hx, hd]
  rfl
end

/-- Each other die is told of the commit, and no ring changes for it. -/
theorem State.commitAway_tells (s : State) (id : Nat) (c : Cmd) (p : Bytes) :
    ((s.commitAway id c).tellDies c.home (s.commitDies c) p).cmd? id = some (c.awaits (s.commitDies c) (s.counter c.home))
    ∧ ((s.commitAway id c).tellDies c.home (s.commitDies c) p).comps = s.comps
    ∧ ∀ e ∈ s.commitDies c, SentOnSpine s ((s.commitAway id c).tellDies c.home (s.commitDies c) p) c.home e 0 p := by
  have ht := fun {X} (h : Covers X sendFields) => State.tellDies_but h (s.commitAway id c) c.home (s.commitDies c) p
  have ha := State.commitAway_but (covers_among _) s id c
  refine ⟨?_, (congrArg (·.state.comps) (ht (covers_among _))).trans (congrArg (·.state.comps) ha), fun e he => ?_⟩
  · have hcmds := congrArg (·.state.cmds) (ht (covers_among _))
    exact (congrArg (fun m => NMap.get? m id) hcmds).trans (State.cmd?_setCmd_same ..)
  · refine sentOnSpine_congr ?_ rfl (State.tellDies_sent _ c.home (s.commitDies_nodup c) p e he)
    rw [streamKey_control]
    exact (State.control_kept ha rfl _).symm

/-! ### Settled -/

section
variable {s : State} {id die : Nat} {c : Cmd} (hs : s.serving = true) (hc : s.cmd? id = some c) (hp : c.phase = .committing)
include hs hc hp

theorem execCommitMessage_waited (hd : die ∈ c.waitDies) :
    execCommitMessage die id s = .next (((s.commitDie c die).setCmd id { c with waitDies := c.waitDies.filter (· != die) }).sendSpine die c.home 0
      (leBytes 1 0x02 ++ leBytes 4 id)) := by
  simp [execCommitMessage, hc, hs, hp, hd]

theorem execCommitAck_more (ha : die ∈ c.ackDies) (hw : die ∉ c.waitDies) (hl : c.ackDies.filter (· != die) ≠ []) :
    execCommitAck die id s = .next (s.setCmd id { c with ackDies := c.ackDies.filter (· != die) }) := by
  simp only [execCommitAck, hc]
  rw [if_pos (by simp [hs, hp, ha, hw]), if_neg (by simpa using hl)]

theorem execCommitAck_last (ha : die ∈ c.ackDies) (hw : die ∉ c.waitDies) (hl : c.ackDies.filter (· != die) = []) :
    execCommitAck die id s = .next ((s.setCmd id { c with ackDies := c.ackDies.filter (· != die) }).finish id c.status c.detail) := by
  simp only [execCommitAck, hc]
  rw [if_pos (by simp [hs, hp, ha, hw]), if_pos (by simpa using hl)]
end

/-- A die's part of a commit is answered on the spine, and changes its objects alone beside. -/
theorem State.answerCommit (s : State) (id die : Nat) (c d : Cmd) (p : Bytes) :
    (((s.commitDie c die).setCmd id d).sendSpine die c.home 0 p).cmd? id = some d
    ∧ (((s.commitDie c die).setCmd id d).sendSpine die c.home 0 p).comps = s.comps
    ∧ (((s.commitDie c die).setCmd id d).sendSpine die c.home 0 p).objects = (s.commitDie c die).objects
    ∧ SentOnSpine s (((s.commitDie c die).setCmd id d).sendSpine die c.home 0 p) die c.home 0 p := by
  have hd := State.commitDie_but (covers_among _) s c die
  have ht := State.sendSpine_but (covers_among _) ((s.commitDie c die).setCmd id d) die c.home 0 p
  refine ⟨?_, (congrArg (·.state.comps) ht).trans (congrArg (·.state.comps) hd), congrArg (·.state.objects) ht, ?_⟩
  · have hcmds : (((s.commitDie c die).setCmd id d).sendSpine die c.home 0 p).cmds = ((s.commitDie c die).setCmd id d).cmds := congrArg (·.state.cmds) ht
    exact (congrArg (fun m => NMap.get? m id) hcmds).trans (State.cmd?_setCmd_same ..)
  · exact sentOnSpine_congr (congrArg (fun m => NMap.get? m _) (congrArg (·.state.streams) hd)).symm rfl (State.sendSpine_sent _ die c.home p)

/-- Settles O49: the cases of the decision point, a commit's objects, and the answers of the dies that take part in it. -/
theorem commandsCommit : Obligations.CommandsCommit := by
  unfold Obligations.CommandsCommit
  refine ⟨fun s id c hs hc hp hop => ⟨fun hst => ?_, fun x hst hx => ?_, fun hst hx hd => ?_, fun hst hx hd => ?_⟩, fun s c w o ho => ⟨fun hw => ?_, fun d hw => ?_⟩,
    fun s id die c hs hc hp => ⟨fun hd => ?_, fun ha hw => ⟨fun hl => ?_, fun hl => ?_⟩⟩⟩
  · exact ⟨execCommandCommit_failed hs hc hp hop hst, State.failAt_versions s id c, State.cmd?_failAt ..⟩
  · exact ⟨execCommandCommit_stopped hs hc hp hop hst hx, State.failCmd_versions s id _ _⟩
  · exact ⟨_, execCommandCommit_home hs hc hp hop hst hx hd, rfl, State.cmd?_finish ..⟩
  · obtain ⟨hcmd, hcomps, hsent⟩ := State.commitAway_tells s id c (leBytes 1 0x01 ++ leBytes 4 id)
    exact ⟨_, _, execCommandCommit_away hs hc hp hop hst hx hd, hcmd, rfl, rfl, rfl, rfl, hcomps, hsent⟩
  · rw [State.commitObjects_one hw ho]
    exact ⟨NMap.get?_set_same .., fun k hk => NMap.get?_set_ne _ _ hk⟩
  · rw [State.commitDie_one hw ho]
    exact NMap.get?_set_same ..
  · obtain ⟨hcmd, hcomps, hobj, hsent⟩ := State.answerCommit s id die c { c with waitDies := c.waitDies.filter (· != die) } (leBytes 1 0x02 ++ leBytes 4 id)
    exact ⟨_, execCommitMessage_waited hs hc hp hd, hcmd, hcomps, hobj, hsent⟩
  · exact ⟨_, execCommitAck_more hs hc hp ha hw hl, State.cmd?_setCmd_same .., rfl⟩
  · exact ⟨_, execCommitAck_last hs hc hp ha hw hl, State.cmd?_finish ..⟩

end Sys2Proof.Machine
end

section
/-! PROOF. What a record does to its command's fence; fetch and admission (R44 to R53). -/

namespace Sys2Proof.Machine

/-! ### The fence of a commit on other dies (R53, R59) -/

theorem State.commitAway_fences (s : State) (id : Nat) (c : Cmd) : (s.commitAway id c).fences = (s.recordFence c.owner c.desc c.status).fences :=
  State.recordFence_fences_of_fences (congrArg (·.state.fences) (State.commitHome_but (covers_among _) s c)) _ _ _

/-- Settles O13: `finish` and `failCmd` change fences as `recordFence` does, unless the command has committed on other dies, where the commit has. -/
theorem recordChangesItsFence : Obligations.RecordChangesItsFence := by
  unfold Obligations.RecordChangesItsFence
  refine ⟨fun s id st dt c hc hat ho h1 h2 => ?_, fun s id st dt c hc hat ho h1 h2 hst => ?_, fun s id st dt c hc hf => ?_,
    fun s ring d hd => State.refuses_fence s ring d hd, fun s id st dt c hc hat => ?_, fun s id c hc hs hp hop hst hx hd ho h1 h2 => ?_⟩
  · have hfin := State.finish_fences hc st dt
    rw [hat, Option.isSome_none, if_neg Bool.false_ne_true] at hfin
    rw [State.fence_of_fences hfin, State.fence_recordFence ho h1 h2, Fence.recorded_eq]
  · have hfail := State.failCmd_fences hc st dt
    rw [hat, Option.isSome_none, if_neg Bool.false_ne_true] at hfail
    rw [State.fence_of_fences hfail, State.fence_recordFence ho h1 h2, Fence.recorded_eq]
    simp only [Nat.not_lt.2 hst, false_or]
  · rw [State.finish_fences hc, State.failCmd_fences hc, State.recordFence_unnamed hf]
    exact ⟨ite_self _, ite_self _⟩
  · rw [State.finish_fences hc, if_pos hat]
  · refine ⟨_, execCommandCommit_away hs hc hp hop hst hx hd, ?_⟩
    have ht := State.tellDies_but (covers_among _) (s.commitAway id c) c.home (s.commitDies c) (leBytes 1 0x01 ++ leBytes 4 id)
    have hfences : ((s.commitAway id c).tellDies c.home (s.commitDies c) (leBytes 1 0x01 ++ leBytes 4 id)).fences = (s.recordFence c.owner c.desc c.status).fences :=
      Eq.trans (congrArg (·.state.fences) ht) (State.commitAway_fences s id c)
    rw [State.fence_of_fences hfences, State.fence_recordFence ho h1 h2, Fence.recorded, hst, Bool.true_or, if_pos rfl]

/-! ### Fetch and admission (R44 to R50) -/

/-- A step of the admission changes no other id. -/
theorem State.withCmd_nextCmd (s : State) (id : Nat) (f : State → Nat → Cmd → State) (hf : ∀ c, (f s id c).nextCmd = s.nextCmd) : (s.withCmd id f).nextCmd = s.nextCmd := by
  unfold State.withCmd
  split
  · exact hf _
  · rfl

theorem State.admitHead_nextCmd (s : State) (owner ring : Nat) (r : SubRing) (x : Fetched) : (s.admitHead owner ring r x).nextCmd = s.nextCmd + 1 := by
  unfold State.admitHead
  dsimp only
  refine (State.withCmd_nextCmd _ _ _ fun c => ?_).trans <| (State.withCmd_nextCmd _ _ _ fun c => ?_).trans <|
    (State.withCmd_nextCmd _ _ _ fun c => ?_).trans <| (State.withCmd_nextCmd _ _ _ fun c => ?_).trans ?_
  · exact congrArg (·.state.nextCmd) (State.announce_but (covers_among _) _ _ _)
  · exact congrArg (·.state.nextCmd) (State.admitOwn_but (covers_among _) _ _ _)
  · exact congrArg (·.state.nextCmd) (State.setFormats_but (covers_among _) _ _ _)
  · rfl
  · rfl

section
variable {s : State} {owner ring : Nat} {r : SubRing} {x : Fetched} {xs : List Fetched}
  (hr : s.sub? owner ring = some r) (hf : r.fetched = x :: xs) (hs : s.ringServed owner = true) (hstall : s.stalls owner ring r x = false)
include hr hf hs hstall

theorem execCommandAdmit_refused {st dt : Nat} (h : s.refuses owner ring x.desc = some (st, dt)) :
    execCommandAdmit owner ring s = .next (s.failFetched owner ring r x st dt) := by
  simp [execCommandAdmit, hr, hf, hs, hstall, h]

theorem execCommandAdmit_admitted (h : s.refuses owner ring x.desc = none)
    (hheld : s.held { owner := owner, ring := ring, order := x.order, desc := x.desc, home := r.home } = false)
    (hfail : s.admitFail s.nextCmd { owner := owner, ring := ring, order := x.order, desc := x.desc, home := r.home } = none) :
    execCommandAdmit owner ring s = .next (s.admitHead owner ring r x) := by
  simp only [execCommandAdmit, hr, hf, hs, hstall, h, hheld, hfail, Bool.not_true, Bool.or_self, Bool.false_eq_true, if_false]
end

theorem Mem.nat_writeRange_leBytes (m : Mem) (a : Nat) {n v : Nat} (hv : v < 256 ^ n) : Mem.nat (Mem.writeRange m a (leBytes n v)) a n = v :=
  Mem.nat_writeRange m a (i := 0) (by simp) (by simp [List.take_of_length_le]) hv

/-- Settles O17: a fetch is `fetchUpTo`, and an admission is refused or passes each step with what names the command. -/
theorem fetchAndAdmitInOrder : Obligations.FetchAndAdmitInOrder := by
  unfold Obligations.FetchAndAdmitInOrder
  refine ⟨⟨fun s owner ring r hs hr hstop hh hd => ?_, fun s owner ring hd => ?_⟩, fun s owner ring r x xs hr hf hs hstall => ⟨fun st dt hre => ?_, fun hre hheld hfail => ?_⟩⟩
  · obtain ⟨hsubs, hhost, hwb⟩ := State.fetchRing_eq (n := 32) hr hstop hh hd
    refine ⟨_, _, if_pos hs, ?_, rfl, ⟨fetchUpTo_fetched_lt s 31 hh, (fetchUpTo_fetched s 32 r).2⟩, fun h0 hlt => ?_⟩
    · have hring := State.sub?_lt hr
      simp only [State.sub?, hring, if_true, hsubs]
      exact NMap.get?_set_same ..
    · rw [hhost h0]
      exact Mem.nat_writeRange_leBytes _ _ (Nat.lt_of_lt_of_le hlt (by decide))
  · show execDescriptorFetch owner ring s = _
    unfold execDescriptorFetch
    rw [State.fetchRing_stopped hd, ite_self]
  · exact ⟨execCommandAdmit_refused hr hf hs hstall hre, State.cmd?_failCmd ..⟩
  · obtain ⟨c, hc, ho, hring, hn, hdesc⟩ := State.admitHead_admits s owner ring r x
    exact ⟨_, c, execCommandAdmit_admitted hr hf hs hstall hre hheld hfail, hc, ho, hring, hn, hdesc, State.admitHead_nextCmd ..⟩

end Sys2Proof.Machine
end

section
/-! PROOF. Resets and start-up (R34, R486, R487, R507, R508, R525 to R528, R577). -/

namespace Sys2Proof.Machine

/-! ### Power and the boot chain -/

theorem State.powerUp_waiting {s : State} (h : s.pins.pwrGood = false) : s.powerUp = { s with boot := .waitPower, pins := { s.pins with pwrReq := true } } := by
  unfold State.powerUp
  exact if_neg (by simpa using h)

/-- The self-repair of a cold start leaves the flash and the counters. -/
theorem State.selfRepair_keeps (s : State) :
    s.selfRepair.flash = s.flash ∧ s.selfRepair.counters = s.counters := by
  have h := State.selfRepair_but (covers_among _) s
  exact ⟨congrArg (·.state.flash) h, congrArg (·.state.counters) h⟩

theorem State.bootChain_recovery {s : State} (h : s.flash.judge.choose = none) :
    s.bootChain.boot = .recovery ∧ s.bootChain.sec.recovery = true := by
  obtain ⟨hf, -⟩ := s.selfRepair_keeps
  unfold State.bootChain
  dsimp only
  rw [hf, h]
  exact ⟨rfl, rfl⟩

theorem State.report_keeps (s : State) (r : Report) :
    (s.report r).boot = s.boot ∧ (s.report r).sec = s.sec := by
  have h := State.report_but (covers_among _) s r
  exact ⟨congrArg (·.state.boot) h, congrArg (·.state.sec) h⟩

theorem State.bootChain_starts {s : State} {b : Bool} (h : s.flash.judge.choose = some b) :
    s.bootChain.boot = .cold ∧ s.bootChain.sec.running = some b ∧ s.bootChain.sec.handOff = some (s.counter 0) := by
  obtain ⟨hf, hc⟩ := s.selfRepair_keeps
  have hcounter : s.selfRepair.counter 0 = s.counter 0 := by unfold State.counter; rw [hc]
  unfold State.bootChain
  dsimp only
  rw [hf, h]
  dsimp only
  split
  · exact ⟨rfl, rfl, congrArg some hcounter⟩
  · obtain ⟨hboot, hsec⟩ := State.report_keeps _ _
    rw [hboot, hsec]
    exact ⟨rfl, rfl, congrArg some hcounter⟩

/-! ### Himon's ready report -/

theorem sameStacks_refresh {s t : State} {b : Bool} (h : SameStacks s t) (hs : ∀ x ∈ s.hbm, x.selfRefresh = b) : ∀ x ∈ t.hbm, x.selfRefresh = b := by
  intro x hx
  have hm : { x with poison := [] } ∈ s.hbm.map (fun x => { x with poison := [] }) := h ▸ List.mem_map_of_mem hx
  obtain ⟨y, hy, e⟩ := List.mem_map.1 hm
  exact (congrArg Stack.selfRefresh e).symm.trans (hs y hy)

/-- What Himon's ready report sets before the caches are written back and the links train. -/
def State.opened (s : State) (f : Flash) : State :=
  { s with flash := f, boot := .ready, sec := { s.sec with handOff := none }, hbm := s.hbm.map (fun (h : Stack) => { h with selfRefresh := false }) }

theorem State.opened_refresh (s : State) (f : Flash) : ∀ x ∈ (s.opened f).hbm, x.selfRefresh = false := by
  intro x hx
  obtain ⟨y, -, rfl⟩ := List.mem_map.1 hx
  rfl

theorem Flash.record_copyA {g : Flash} (hok : g.copyA.ok = true) (h : ¬g.copyA.seqNo < g.copyB.seqNo) : g.record = g.copyA := by
  simp [Flash.record, Flash.usesB, hok, h]
theorem Flash.record_copyB {g : Flash} (hok : g.copyB.ok = true) (h : g.copyA.ok = true → g.copyA.seqNo < g.copyB.seqNo) : g.record = g.copyB := by
  cases ha : g.copyA.ok
  · simp [Flash.record, Flash.usesB, hok, ha]
  · simp [Flash.record, Flash.usesB, hok, ha, h ha]

/-- The record that `putSlot` writes. -/
def Flash.recordOf (f : Flash) (b : Bool) (c : SlotCtl) : BootRecord :=
  { seqNo := f.record.seqNo + 1, ok := true, a := if b then f.record.a else c, b := if b then c else f.record.b }

theorem Flash.copies_putSlot (f : Flash) (b : Bool) (x : HimonSlot) :
    (f.putSlot b x).copyA = (if f.usesB then f.recordOf b { state := x.state, tried := x.tried, fails := x.fails } else f.copyA)
    ∧ (f.putSlot b x).copyB = (if f.usesB then f.copyB else f.recordOf b { state := x.state, tried := x.tried, fails := x.fails }) := by
  unfold Flash.putSlot
  cases b <;> cases f.usesB <;> exact ⟨rfl, rfl⟩

/-- A slot's record that is written becomes the record in use, while its sequence number can grow. -/
theorem Flash.record_putSlot {f : Flash} (h : f.record.seqNo ≠ BitVec.allOnes 32) (b : Bool) (x : HimonSlot) :
    (f.putSlot b x).record = f.recordOf b { state := x.state, tried := x.tried, fails := x.fails } := by
  have hlt : f.record.seqNo < f.record.seqNo + 1 := by
    have h' : f.record.seqNo.toNat ≠ 2 ^ 32 - 1 := fun e => h (BitVec.eq_of_toNat_eq (by rw [BitVec.toNat_allOnes, e]))
    rw [BitVec.lt_def, BitVec.toNat_add]
    have := f.record.seqNo.isLt
    have h1 : (1 : BitVec 32).toNat = 1 := rfl
    omega
  obtain ⟨hA, hB⟩ := f.copies_putSlot b x
  cases hu : f.usesB
  · rw [hu, if_neg Bool.false_ne_true] at hA hB
    refine (Flash.record_copyB (by rw [hB]; rfl) fun ha => ?_).trans hB
    have hr : f.record = f.copyA := by rw [hA] at ha; simp [Flash.record, hu, ha]
    rw [hA, hB, ← hr]
    exact hlt
  · rw [hu, if_pos rfl] at hA hB
    refine (Flash.record_copyA (by rw [hA]; rfl) ?_).trans hA
    have hr : f.record = f.copyB := by simp [Flash.record, hu]
    rw [hA, hB, ← hr]
    exact BitVec.not_lt.2 (BitVec.le_of_lt hlt)

theorem Flash.fails_putSlot {f : Flash} (h : f.record.seqNo ≠ BitVec.allOnes 32) (b : Bool) (x : HimonSlot) : ((f.putSlot b x).slot b).fails = x.fails := by
  simp only [Flash.slot, Flash.record_putSlot h]
  cases b <;> rfl

/-- Himon's ready report opens service with the stacks out of self-refresh, whatever of the caches it writes back. -/
theorem execHimonReady_opens {s : State} {warm : Bool} (hwarm : warm = (decide (s.boot = .warm) && decide (s.power.pk = 0) && !s.pins.perst))
    (h : (s.boot = .cold ∧ s.fatal = false) ∨ warm = true) :
    ∃ t, execHimonReady s = .next t ∧ t.boot = .ready ∧ (∀ x ∈ t.hbm, x.selfRefresh = false)
      ∧ t.flash = match (if s.boot = .cold then s.sec.running else none) with
        | some b => s.flash.putSlot b { s.flash.slot b with fails := 0 }
        | none => s.flash := by
  subst hwarm
  have hopen : ∀ f, ∀ u : State, u.but (Field.among (cacheFields ++ [.links])) = (s.opened f).but (Field.among (cacheFields ++ [.links])) →
      u.boot = .ready ∧ (∀ x ∈ u.hbm, x.selfRefresh = false) ∧ u.flash = f := fun f u hu =>
    ⟨congrArg (·.state.boot) hu, sameStacks_refresh (State.stacks_kept hu rfl) (s.opened_refresh f), congrArg (·.state.flash) hu⟩
  refine ⟨_, if_pos (by simpa using h), hopen _ _ ?_⟩
  refine (State.trainLinks_but ((covers_among _).mono (by decide)) _).trans ?_
  split
  · exact State.writeBackAll_but ((covers_among _).mono (by decide)) _
  · rfl

/-! ### The warm resets -/

theorem State.warmReset_refresh (s : State) (link : Bool) : ∀ x ∈ (s.warmReset link).hbm, x.selfRefresh = true := by
  intro x hx
  obtain ⟨y, -, rfl⟩ := List.mem_map.1 hx
  rfl

/-- A warm reset keeps the counters, the error records, the flash and the lands, and counts once. -/
theorem State.warmWith_keeps (s : State) (cause : Nat) (link : Bool) :
    (s.warmWith cause link).warmResets = s.warmResets + 1 ∧ (s.warmWith cause link).counters = s.counters ∧ (s.warmWith cause link).errs = s.errs
    ∧ (s.warmWith cause link).flash = s.flash ∧ (s.warmWith cause link).pins = s.pins := by
  have h := State.warmReset_but (covers_among _) s link
  exact ⟨congrArg (·.state.warmResets + 1) h, congrArg (·.state.counters) h, congrArg (·.state.errs) h, congrArg (·.state.flash) h,
    congrArg (·.state.pins) h⟩

section
variable {s : State} (hf : s.fatal = false)
include hf

theorem execPfFlr_warm (hb : s.boot = .ready) (hp : s.power.pk ≤ 2) : execPfFlr s = .next (s.warmWith 0x10 s.linkUp) := by
  simp only [execPfFlr, hf, hb, hp, Bool.false_eq_true, if_false, true_and, if_true]

theorem execPerstNAssert_warm (hb : s.boot = .ready) (hp : s.power.pk ≤ 2) (hperst : s.pins.perst = false) :
    execPerstNAssert s = .next (State.warmWith { s with pins := { s.pins with perst := true } } 0x11 false) := by
  simp only [execPerstNAssert, hf, hb, hp, hperst, Bool.false_eq_true, if_false, true_and, if_true]

theorem execPerstNRelease_serving (hp : s.power.pk ≤ 2) : execPerstNRelease s = .next { s with pins := { s.pins with perst := false } } := by
  have h3 : s.power.pk ≠ 3 := by omega
  have h4 : s.power.pk ≠ 4 := by omega
  simp only [execPerstNRelease, hf, h3, h4, Bool.false_eq_true, if_false, false_and]

theorem execPerstNRelease_pk3 (hp : s.power.pk = 3) :
    execPerstNRelease s = .next { s with pins := { s.pins with perst := false }, resetCause := 0x12, power := { s.power with pk := 0 } } := by
  simp only [execPerstNRelease, hf, hp, Bool.false_eq_true, if_false, if_true]

theorem execPerstNRelease_pk4 (hp : s.power.pk = 4) (hb : s.boot ≠ .tripped) :
    execPerstNRelease s = .next (State.coldReset { s with pins := { s.pins with perst := false } } 5 .waitPower { s.pins with perst := false }).powerUp := by
  have h3 : ¬((4 : Nat) = 3) := by decide
  simp only [execPerstNRelease, hf, hp, hb, h3, Bool.false_eq_true, if_false, ne_eq, not_false_eq_true, and_self, if_true]
end

/-- Powering up asks for power and keeps the cause of the reset. -/
theorem State.powerUp_keeps (s : State) : s.powerUp.resetCause = s.resetCause ∧ s.powerUp.pins.perst = s.pins.perst ∧ s.powerUp.pins.pwrReq = true := by
  unfold State.powerUp
  dsimp only
  split
  · have h := State.bootChain_but (covers_among _) { s with boot := .waitPower, pins := { s.pins with pwrReq := true } }
    exact ⟨congrArg (·.state.resetCause) h, congrArg (·.lands.perst) h, congrArg (·.lands.pwrReq) h⟩
  · exact ⟨rfl, rfl, rfl⟩

section
variable {s : State} (haux : s.pins.aux = false)
include haux

theorem execV1p8AuxApplied_held (hrst : s.pins.pkgRst = true) :
    execV1p8AuxApplied s = .next (s.coldReset s.resetCause .held { s.pins with aux := true }) := by
  have h : (s.coldReset s.resetCause .held { s.pins with aux := true }).pins.pkgRst = true := hrst
  simp only [execV1p8AuxApplied, haux, h, Bool.false_eq_true, if_false, if_true]

theorem execV1p8AuxApplied_powers (hrst : s.pins.pkgRst = false) :
    execV1p8AuxApplied s = .next (s.coldReset s.resetCause .held { s.pins with aux := true }).powerUp := by
  have h : (s.coldReset s.resetCause .held { s.pins with aux := true }).pins.pkgRst = false := hrst
  simp only [execV1p8AuxApplied, haux, h, Bool.false_eq_true, if_false]
end

/-- Settles O34: each reset and each step of start-up by its own arm. -/
theorem resetsAndStartUp : Obligations.ResetsAndStartUp := by
  unfold Obligations.ResetsAndStartUp
  refine ⟨fun s => ⟨?_, fun haux hpin => ?_, fun haux => ?_, fun haux hrst hreq hgood hfatal hboot => ?_, fun t h hboot hfatal hhand hlate hgood => ?_⟩,
    fun s => ⟨fun haux hrst hboot hgood => ?_, fun hboot => ?_, fun hboot hpk hperst => ?_, fun hboot hfatal => ?_⟩,
    fun s hboot hfatal hpk => ⟨?_, fun hperst => ?_, ?_, fun u hf hp => ?_, fun u hf hp hb => ?_⟩⟩
  · exact ⟨_, rfl, rfl, rfl, rfl, rfl, rfl, rfl, rfl, rfl, rfl⟩
  · cases hrst : s.pins.pkgRst
    · have hup : (s.coldReset s.resetCause .held { s.pins with aux := true }).pins.pwrGood = false := hpin.resolve_left (by simp [hrst])
      refine ⟨_, execV1p8AuxApplied_powers haux hrst, ?_⟩
      rw [State.powerUp_waiting hup]
      exact ⟨rfl, rfl, rfl, rfl, rfl, rfl, rfl⟩
    · exact ⟨_, execV1p8AuxApplied_held haux hrst, rfl, rfl, rfl, rfl, rfl, rfl, rfl⟩
  · refine ⟨_, if_neg (by simp [haux]), rfl, rfl, rfl, rfl, rfl, rfl, rfl, rfl, rfl⟩
  · exact ⟨_, if_pos (by simp [haux, hrst, hreq, hgood, hfatal, hboot]), rfl, rfl, rfl, rfl, rfl, rfl⟩
  · have hlate' : (s.reach 0 t).boot = .cold ∧ (!(s.reach 0 t).fatal) = true ∧ 500000000 ≤ ((s.reach 0 t).counter 0 - h).toNat :=
      ⟨hboot, by rw [Bool.not_eq_true']; exact hfatal, hlate⟩
    have hhand' : (s.reach 0 t).sec.handOff = some h := hhand
    have hup : ((s.reach 0 t).coldReset 2 .waitPower { (s.reach 0 t).pins with svcAttn := false }).pins.pwrGood = false := hgood
    refine ⟨_, (by simp only [exec, execHimonWatchdogExpiry, hhand']; exact if_pos hlate'), ?_⟩
    rw [State.powerUp_waiting hup]
    exact ⟨rfl, rfl, rfl, rfl⟩
  · have hup : (State.pins { s with pins := { s.pins with pkgRst := false } }).pwrGood = false := hgood
    refine ⟨_, congrArg Host.Outcome.next (if_pos ⟨haux, hrst, hboot⟩), ?_⟩
    rw [State.powerUp_waiting hup]
    exact ⟨rfl, rfl, rfl⟩
  · refine ⟨_, congrArg Host.Outcome.next (if_pos hboot), ?_, fun hn => ?_, fun b hb => ?_⟩
    · exact congrArg (·.lands.pwrGood) (State.bootChain_but (covers_among _) { s with pins := { s.pins with pwrGood := true } })
    · obtain ⟨h1, h2⟩ := State.bootChain_recovery (s := { s with pins := { s.pins with pwrGood := true } }) hn
      exact ⟨h1, h2⟩
    · obtain ⟨h1, h2, h3⟩ := State.bootChain_starts (s := { s with pins := { s.pins with pwrGood := true } }) hb
      exact ⟨h1, h2, h3⟩
  · obtain ⟨t, e, hb, hr, -⟩ := execHimonReady_opens (s := s) rfl (.inr (by simp [hboot, hpk, hperst]))
    exact ⟨t, e, hb, hr⟩
  · obtain ⟨t, e, hb, hr, hflash⟩ := execHimonReady_opens (s := s) rfl (.inl ⟨hboot, hfatal⟩)
    refine ⟨t, e, hb, hr, fun b hrun hseq => ?_⟩
    rw [hflash, if_pos hboot, hrun]
    exact Flash.fails_putSlot hseq b _
  · obtain ⟨hcount, hcounters, herrs, hflash, -⟩ := s.warmWith_keeps 0x10 s.linkUp
    exact ⟨_, execPfFlr_warm hfatal hboot hpk, rfl, rfl, hcount, hcounters, herrs, hflash, s.warmReset_refresh s.linkUp, rfl⟩
  · obtain ⟨hcount, hcounters, herrs, hflash, hpins⟩ := State.warmWith_keeps { s with pins := { s.pins with perst := true } } 0x11 false
    exact ⟨_, execPerstNAssert_warm hfatal hboot hpk hperst, rfl, rfl, hcount, hcounters, herrs, hflash, by rw [hpins]⟩
  · exact ⟨_, execPerstNRelease_serving hfatal hpk, rfl, hboot, rfl⟩
  · exact ⟨_, execPerstNRelease_pk3 hf hp, rfl, rfl, rfl⟩
  · obtain ⟨hcause, hperst, hreq⟩ := State.powerUp_keeps (State.coldReset { u with pins := { u.pins with perst := false } } 5 .waitPower { u.pins with perst := false })
    exact ⟨_, execPerstNRelease_pk4 hf hp hb, hcause, hperst, hreq⟩

end Sys2Proof.Machine
end

section
/-! PROOF. How commands start, how the dies learn of them, and how they give way (R60, R378, R445, R448, R449, R586). -/

namespace Sys2Proof.Machine

/-! ### The start -/

section
variable {s : State} {id : Nat} {c : Cmd} (hc : s.cmd? id = some c)
include hc

theorem State.setRun_eq (f : Run → Run) : s.setRun id f = s.setCmd id { c with run := f c.run } := by
  simp only [State.setRun, hc]

theorem State.cmd?_setRun (f : Run → Run) : (s.setRun id f).cmd? id = some { c with run := f c.run } := by
  rw [State.setRun_eq hc, State.cmd?_setCmd_same]

/-- The views that a command takes of the objects it names. -/
theorem State.capture_eq : ∃ vs, s.capture id = s.setCmd id { c with views := vs } := by
  simp only [State.capture, hc]
  exact ⟨_, rfl⟩

theorem State.startCmd_eq (hp : c.phase = .admitted) :
    s.startCmd id = s.setCmd id { c with phase := .started, startAt := s.counter c.home, waitS := c.waitS + (s.counter c.home - c.waitFrom) } := by
  simp only [State.startCmd, hc, hp, if_true]

/-- A command that may start is started. -/
theorem State.ensureStart_starts (hp : c.phase = .admitted) (hm : s.mayStart id c = true) :
    ∃ d, (s.ensureStart id).cmd? id = some d ∧ d.phase = .started ∧ d.desc = c.desc ∧ d.startAt = s.counter c.home := by
  obtain ⟨vs, hv⟩ := State.capture_eq hc
  have hc1 : (s.capture id).cmd? id = some { c with views := vs } := by rw [hv, State.cmd?_setCmd_same]
  have hst := State.startCmd_eq hc1 hp
  have hc2 := (congrArg (·.cmd? id) hst).trans (State.cmd?_setCmd_same ..)
  have hcount : (s.capture id).counter c.home = s.counter c.home := by rw [hv]; rfl
  simp only [State.ensureStart, hc]
  rw [if_pos (by simp [hp, hm])]
  split
  · exact ⟨_, State.cmd?_setRun hc2 _, rfl, rfl, hcount⟩
  · exact ⟨_, hc2, rfl, rfl, hcount⟩

theorem State.unitStart_ahead (h : s.unitAhead id c = true) : s.unitStart id = s := by
  simp only [State.unitStart, hc, h, if_true]

theorem State.unitStart_turn (h : s.unitAhead id c = false) : s.unitStart id = s.ensureStart id := by
  simp only [State.unitStart, hc, h, Bool.false_eq_true, if_false]

/-- An engine that takes up a command starts it. -/
theorem State.takeTurn_eq (d : Nat) : ∃ e : Engine, e.current = some id ∧ s.takeTurn d id = (s.ensureStart id).setEngine d e := by
  simp only [State.takeTurn, hc]
  split
  · exact ⟨_, rfl, rfl⟩
  · exact ⟨_, rfl, rfl⟩
end

theorem State.eligible_parts {s : State} {id : Nat} {c : Cmd} (h : s.eligible id c = true) : c.phase = .admitted ∧ s.mayStart id c = true ∧ s.groupSetAhead id c = false := by
  simp only [State.eligible, Bool.and_eq_true, decide_eq_true_eq, Bool.not_eq_true'] at h
  exact ⟨h.1.1.1, h.1.1.2, h.2⟩

/-- The opcodes of the commands that a unit takes in turn, and of MOVE, are none of those with a start of their own. -/
theorem ownStart_of_unit {c : Cmd} (h : unitOf c ≠ 0 ∨ c.opcode = 0x06) : planeCmd c = false ∧ c.opcode ≠ 0x02 ∧ ¬(c.opcode = 0x08 ∨ c.opcode = 0x09) := by
  have hop : ∀ k, k ∈ [0x01, 0x02, 0x08, 0x09] → c.opcode ≠ k := by
    intro k hk e
    rcases h with h | h
    · rw [unitOf, e] at h
      simp only [List.mem_cons, List.not_mem_nil, or_false] at hk
      rcases hk with rfl | rfl | rfl | rfl <;> exact h rfl
    · rw [h] at e
      subst e
      exact absurd hk (by decide)
  refine ⟨?_, hop _ (by decide), fun e => e.elim (hop _ (by decide)) (hop _ (by decide))⟩
  simp [planeCmd, hop 0x01 (by decide), hop 0x02 (by decide)]

section
variable {s : State} {id : Nat} {c : Cmd} (hs : s.serving = true) (hc : s.cmd? id = some c)
include hs hc

theorem execCommandStart_unit (hu : unitOf c ≠ 0 ∨ c.opcode = 0x06) (h7 : c.opcode ≠ 0x07) :
    execCommandStart id s = .next (if s.eligible id c then s.unitStart id else s) := by
  obtain ⟨hplane, h2, h89⟩ := ownStart_of_unit hu
  simp only [execCommandStart, hc, hs, hplane, h2, h89, h7, hu, Bool.true_and, decide_eq_true_eq, Bool.false_eq_true, if_false, true_and]
  by_cases hp : c.phase = .admitted
  · rw [if_pos hp]
    split <;> rfl
  · have he : s.eligible id c = false := by simp [State.eligible, hp]
    rw [if_neg hp, he]
    rfl

theorem execCommandStart_sketches (hp : c.phase = .admitted) (hop : c.opcode = 0x02) (hpl : planeCmd c = false) :
    execCommandStart id s = .next (s.ensureStart id) := by
  simp [execCommandStart, hc, hs, hp, hop, hpl]

theorem execCommandStart_codec (hp : c.phase = .admitted) (hop : c.opcode = 0x08 ∨ c.opcode = 0x09) :
    execCommandStart id s = .next ((s.enginesFor id c).foldl (fun (a : State) d => if a.engineTurn d id then a.takeTurn d id else a) s) := by
  have hpl : planeCmd c = false := by rcases hop with hop | hop <;> simp [planeCmd, hop]
  have h2 : c.opcode ≠ 0x02 := by rcases hop with hop | hop <;> rw [hop] <;> decide
  simp only [execCommandStart, hc, hs, hp, hpl, h2, hop, decide_true, Bool.and_self, Bool.false_eq_true, if_false, if_true]

theorem execCommandStart_collective (hp : c.phase = .admitted) (hop : c.opcode = 0x07) (hg : s.groupSetAhead id c = false) :
    execCommandStart id s = .next (s.collStart id) := by
  simp [execCommandStart, hc, hs, hp, hop, hg, planeCmd]
end

/-- A codec or detection command that one engine has turned to is started there. -/
theorem State.codecStart {s : State} {id e : Nat} {c : Cmd} (hc : s.cmd? id = some c) (hp : c.phase = .admitted) (hm : s.mayStart id c = true)
    (he : s.enginesFor id c = [e]) :
    ∃ t d, (s.enginesFor id c).foldl (fun (a : State) d => if a.engineTurn d id then a.takeTurn d id else a) s = t
      ∧ t.cmd? id = some d ∧ d.phase = .started ∧ d.desc = c.desc ∧ d.startAt = s.counter c.home
      ∧ (s.shapeOk → (t.engineAt e).current = some id) := by
  have hmem : e ∈ s.enginesFor id c := he ▸ List.mem_singleton_self e
  obtain ⟨hrange, hturn⟩ := List.mem_filter.1 hmem
  obtain ⟨-, hturn⟩ := Bool.and_eq_true_iff.1 hturn
  obtain ⟨x, hx, ht⟩ := State.takeTurn_eq hc e
  obtain ⟨d, hd, hph, hdesc, hat⟩ := State.ensureStart_starts hc hp hm
  refine ⟨_, d, rfl, ?_⟩
  rw [he, List.foldl_cons, List.foldl_nil, if_pos hturn, ht]
  refine ⟨hd, hph, hdesc, hat, fun hshape => ?_⟩
  obtain ⟨-, -, -, -, -, hlen, -⟩ := hshape
  have hengines : (s.ensureStart id).engines = s.engines := congrArg (·.state.engines) (State.ensureStart_but (covers_among _) s id)
  have hlt : e < (s.ensureStart id).engines.length := by rw [hengines, hlen]; exact List.mem_range.1 hrange
  rw [State.engineAt_setEngine_same _ e x hlt, hx]

/-! ### The dies learn of it -/

section
variable {s : State} {id die : Nat} {c : Cmd} {p : Part} (hs : s.serving = true) (hc : s.cmd? id = some c)
include hs hc

/-- What a command is once a die has learnt of it: a die that comes late to a tile grid takes its segment of it. -/
def Cmd.seenOn (c : Cmd) (die : Nat) : Cmd :=
  { c with seenDies := c.seenDies ++ [die],
           run := if c.run.segs.isEmpty then c.run else { c.run with segs := c.run.segs.set die ((segments c.quires c.run.total).getD die {}) } }

theorem execAdmittedDescriptorReceive_new (hp : NMap.get? s.parts c.owner = some p) (hon : p.onDie die = true) (hne : die ≠ c.home) (hseen : die ∉ c.seenDies) :
    execAdmittedDescriptorReceive die id s = .next (s.setCmd id (c.seenOn die)) := by
  simp only [execAdmittedDescriptorReceive, hc, hp, hon, hs]
  exact if_pos (by simp [hne, hseen])

/-- What a die writes down when it tells the others how much of its segment is left. -/
def Run.told (r : Run) (die : Nat) (x : Seg) (now : Word) : Run := { r with segs := r.segs.set die { x with sentAt := some now, sentZero := decide (x.left = 0) } }

/-- A die tells the others how much of its segment is left, when the count is due. -/
theorem execSegmentCountSend_due (hp : NMap.get? s.parts c.owner = some p) (hon : p.onDie die = true) (hph : c.phase = .started)
    (hsegs : c.run.segs.isEmpty = false) (hheard : c.heard die = true) {t : Word} (hdue : (c.run.segs.getD die {}).countDue ((s.reach die t).counter die) = true) :
    execSegmentCountSend die id t s =
      .next (((s.reach die t).setRun id (fun r => r.told die (c.run.segs.getD die {}) ((s.reach die t).counter die))).tellDies die (p.dieList.filter (· != die))
        (leBytes 4 id ++ leBytes 4 (c.run.segs.getD die {}).left)) := by
  have hc1 : (s.reach die t).cmd? id = some c := hc
  have hp1 : NMap.get? (s.reach die t).parts c.owner = some p := hp
  have hs1 : (s.reach die t).serving = true := hs
  simp only [execSegmentCountSend, hc1, hp1, hs1, hph, hsegs, hon, hheard, hdue]
  rfl

theorem execSegmentCountSend_quiet (hp : NMap.get? s.parts c.owner = some p) {t : Word}
    (h : (c.heard die && (c.run.segs.getD die {}).countDue ((s.reach die t).counter die)) = false) : execSegmentCountSend die id t s = .next (s.reach die t) := by
  have hc1 : (s.reach die t).cmd? id = some c := hc
  have hp1 : NMap.get? (s.reach die t).parts c.owner = some p := hp
  simp only [execSegmentCountSend, hc1, hp1, Bool.and_assoc, h, Bool.and_false, Bool.false_eq_true, if_false]
end

/-- What a die writes down of the count that another has sent. -/
def Run.heardOf (r : Run) (dst src n : Nat) : Run := { r with segs := r.segs.modify dst (fun x => { x with counts := x.counts.set src n }) }

theorem Run.heardOf_count (r : Run) {dst src n : Nat} (hd : dst < r.segs.length) (hs : src < (r.segs.getD dst {}).counts.length) :
    ((r.heardOf dst src n).segs.getD dst {}).counts.getD src 0 = n := by
  rw [List.getD_eq_getElem _ _ hd] at hs
  have hlen : dst < (r.heardOf dst src n).segs.length := by simpa [Run.heardOf] using hd
  rw [List.getD_eq_getElem _ _ hlen]
  simp only [Run.heardOf, List.getElem_modify_eq]
  rw [List.getD_eq_getElem _ _ (by simpa using hs), List.getElem_set_self]

theorem execSegmentCountReceive_counts {s : State} {id dst src : Nat} {c : Cmd} (hs : s.serving = true) (hc : s.cmd? id = some c) (hp : c.phase = .started)
    (hne : src ≠ dst) (hd : dst < c.run.segs.length) (n : Nat) : execSegmentCountReceive dst src id n s = .next (s.setRun id (fun r => r.heardOf dst src n)) := by
  have hsegs : c.run.segs.isEmpty = false := by
    rw [List.isEmpty_eq_false_iff]
    exact List.ne_nil_of_length_pos (Nat.zero_lt_of_lt hd)
  simp only [execSegmentCountReceive, hc, hs, hp, hsegs, hne, ne_eq, not_false_eq_true, decide_true, Bool.not_false, Bool.and_self, if_true]
  rfl

theorem Part.dieList_nodup (p : Part) : p.dieList.Nodup := List.nodup_range.filter _

/-! ### Giving way -/

theorem State.killCmd_victim {s : State} {v : Nat} {w : Cmd} (h : s.cmd? v = some w) :
    ∃ d, (s.killCmd v true).cmd? v = some d ∧ d.phase = .admitted ∧ d.victimKills = w.victimKills + 1 ∧ d.reruns = w.reruns + 1 ∧ d.written = [] ∧ d.desc = w.desc := by
  simp only [State.killCmd, h]
  exact ⟨_, State.cmd?_setCmd_same .., rfl, rfl, rfl, rfl, rfl⟩

theorem State.preempt_kills (s : State) {v : Nat} {w : Cmd} (h : w.coll = none) : s.preempt (v, w) = s.killCmd v true := by
  simp only [State.preempt, h]

/-- Settles O48: the starts of each kind, the messages between the dies of a partition, and the kill of a victim. -/
theorem commandsStartAndGiveWay : Obligations.CommandsStartAndGiveWay := by
  unfold Obligations.CommandsStartAndGiveWay
  refine ⟨fun s id c hs hc h => ?_, fun s id c hs hc hu h7 hw => ?_, fun s id c hs hc hop hp hg => execCommandStart_collective hs hc hp hop hg,
    fun s id die c p hs hc hpart hon hne hseen => ?_, fun s id die t c p hs hc hpart hon hp hsegs => ⟨fun hheard hdue => ?_, fun hn => ?_⟩,
    fun s id dst src n c hs hc hp hne hdst hsrc => ?_, fun s id v t c w hs hc hp hm hpl hset hage hv hw hcv hne => ?_⟩
  · rcases h with ⟨hu, h7, hel, hah⟩ | ⟨hop, hpl, hp, hm⟩ | ⟨⟨hop, e, he⟩, hp, hm⟩
    · obtain ⟨hp, hm, -⟩ := State.eligible_parts hel
      obtain ⟨d, hd, hph, hdesc, hat⟩ := State.ensureStart_starts hc hp hm
      obtain ⟨-, -, h89⟩ := ownStart_of_unit hu
      refine ⟨_, d, execCommandStart_unit hs hc hu h7, ?_, hph, hdesc, hat, fun _ e _ hop => absurd hop h89⟩
      rw [if_pos hel, State.unitStart_turn hc hah]
      exact hd
    · obtain ⟨d, hd, hph, hdesc, hat⟩ := State.ensureStart_starts hc hp hm
      exact ⟨_, d, execCommandStart_sketches hs hc hp hop hpl, hd, hph, hdesc, hat, fun _ e _ h89 => absurd h89 (by rw [hop]; decide)⟩
    · obtain ⟨t, d, ht, hd, hph, hdesc, hat, heng⟩ := State.codecStart hc hp hm he
      refine ⟨t, d, (execCommandStart_codec hs hc hp hop).trans (congrArg _ ht), hd, hph, hdesc, hat, fun hshape e' he' _ => ?_⟩
      obtain rfl : e = e' := List.singleton_inj.1 (he.symm.trans he')
      exact heng hshape
  · refine (execCommandStart_unit hs hc (.inl hu) h7).trans ?_
    rcases hw with hah | hel
    · rw [State.unitStart_ahead hc hah, ite_self]
    · rw [hel, if_neg Bool.false_ne_true]
  · refine ⟨_, c.seenOn die, execAdmittedDescriptorReceive_new hs hc hpart hon hne hseen, State.cmd?_setCmd_same .., rfl, rfl, fun h => ?_, fun h => ?_⟩
    · exact if_pos (by rw [h]; rfl)
    · exact if_neg (by simpa using h)
  · have hc1 : (s.reach die t).cmd? id = some c := hc
    have ht := State.tellDies_but (covers_among _) ((s.reach die t).setRun id (fun r => r.told die (c.run.segs.getD die {}) ((s.reach die t).counter die))) die
      (p.dieList.filter (· != die)) (leBytes 4 id ++ leBytes 4 (c.run.segs.getD die {}).left)
    refine ⟨_, execSegmentCountSend_due hs hc hpart hon hp hsegs hheard hdue, fun d hd hne => ?_, fun hlt => ⟨_, (State.cmd?_kept ht rfl id).trans (State.cmd?_setRun hc1 _), ?_⟩⟩
    · have hmem : d ∈ p.dieList.filter (· != die) := List.mem_filter.2 ⟨hd, by simpa using hne⟩
      refine sentOnSpine_congr ?_ rfl (State.tellDies_sent _ die (p.dieList_nodup.filter _) _ d hmem)
      rw [State.setRun_eq hc1]
      rfl
    · simp only [Run.told, getD_set_same _ _ _ _ hlt]
      exact ⟨trivial, trivial, rfl⟩
  · refine execSegmentCountSend_quiet hs hc hpart ?_
    rcases hn with hn | hn <;> rw [hn]
    · exact Bool.false_and _
    · exact Bool.and_false _
  · exact ⟨_, _, execSegmentCountReceive_counts hs hc hp hne hdst n, State.cmd?_setRun hc _, Run.heardOf_count _ hdst hsrc⟩
  · have hc1 : (s.reach c.home t).cmd? id = some c := hc
    have hs1 : (s.reach c.home t).serving = true := hs
    have hcv1 : ((s.reach c.home t).setCmd id { c with preemptAt := (s.reach c.home t).counter c.home }).cmd? v = some w :=
      (State.cmd?_setCmd_ne _ _ hne).trans hcv
    obtain ⟨d, hd, hph, hkill, hrerun, hwr, hdesc⟩ := State.killCmd_victim hcv1
    refine ⟨((s.reach c.home t).setCmd id { c with preemptAt := (s.reach c.home t).counter c.home }).preempt (v, w), d, ?_, ?_, hph, hkill, hrerun, hwr, hdesc⟩
    · show execPreemptDelayExpiry id t s = _
      simp only [execPreemptDelayExpiry, hc]
      have hset' : (s.reach c.home t).setting c.owner 0x0012 0 ≤ c.priority := hset
      have hage' : (s.reach c.home t).setting c.owner 0x0013 0 * 100
          ≤ ((s.reach c.home t).counter c.home - (if c.waitFrom < c.preemptAt then c.preemptAt else c.waitFrom)).toNat := hage
      rw [if_pos (by simp only [hs1, hp, hm, hpl, hset', hage', decide_true, Bool.true_or, Bool.and_self]), hv]
    · rw [State.preempt_kills _ hw]
      exact hd

end Sys2Proof.Machine
end

section
/-! PROOF. Groups, ABORT, and the reset of a function (R33, R400, R453). -/

namespace Sys2Proof.Machine

/-! ### Maps cut and mapped by their keys -/

theorem NMap.get?_filter {α : Type} (m : NMap α) (p : Nat → Bool) (k : Nat) : NMap.get? (m.filter (fun x => p x.1)) k = if p k then NMap.get? m k else none := by
  induction m with
  | nil => exact (ite_self _).symm
  | cons x m ih =>
    rw [NMap.get?_cons]
    cases hp : p x.1
    · have hf : (x :: m).filter (fun x => p x.1) = m.filter (fun x => p x.1) := List.filter_cons_of_neg (by simp [hp])
      rw [hf, ih]
      by_cases hx : x.1 = k
      · simp [← hx, hp]
      · rw [if_neg hx]
    · have hf : (x :: m).filter (fun x => p x.1) = x :: m.filter (fun x => p x.1) := List.filter_cons_of_pos hp
      rw [hf, NMap.get?_cons, ih]
      by_cases hx : x.1 = k
      · simp [← hx, hp]
      · rw [if_neg hx, if_neg hx]

theorem NMap.get?_eraseRange_in {α : Type} (m : NMap α) {lo hi k : Nat} (h1 : lo ≤ k) (h2 : k < hi) : NMap.get? (NMap.eraseRange m lo hi) k = none := by
  refine (NMap.get?_filter m (fun k => !(decide (lo ≤ k) && decide (k < hi))) k).trans (if_neg ?_)
  simp [h1, h2]

/-! ### Groups (R400) -/

section
variable {s : State} {id : Nat} {c : Cmd} (h : Live s id 0x4E c) (hheld : s.groupHeld id (c.f 16 2) = false)
include h hheld

theorem execGroupSet_live (hop : c.f 18 1 = 0) (hok : s.groupFail c.owner (c.f 16 2) (c.f 20 1) (readMembers s (c.f 24 8) (c.f 19 1)) = none) :
    execGroupSet id s = .next ((s.asDma (s.functionOf c.owner) false (c.f 24 8) (4 * c.f 19 1)).settle id
      (.ok ({ s.asDma (s.functionOf c.owner) false (c.f 24 8) (4 * c.f 19 1) with
        groups := NMap.set s.groups (c.f 16 2) { part := c.owner, rank := c.f 20 1, gen := c.f 22 2, members := readMembers s (c.f 24 8) (c.f 19 1) } }, OK, 0))) := by
  have hok' : (s.asDma (s.functionOf c.owner) false (c.f 24 8) (4 * c.f 19 1)).groupFail c.owner (c.f 16 2) (c.f 20 1) (readMembers s (c.f 24 8) (c.f 19 1)) = none := hok
  unfold execGroupSet
  rw [control_live h (by simp [hop])]
  simp only [hheld, hok', Bool.false_eq_true, if_false]
  rfl

theorem execGroupClear_live (hop : c.f 18 1 = 1) {g : Group} (hg : NMap.get? s.groups (c.f 16 2) = some g) (hpart : g.part = c.owner) :
    execGroupClear id s = .next (s.settle id
      (.ok ({ s with groups := NMap.erase s.groups (c.f 16 2), fprintWait := s.fprintWait.filter (fun m => m.group != c.f 16 2) }, OK, 0))) := by
  unfold execGroupClear
  rw [control_live h (by simp [hop])]
  simp only [hheld, hg, hpart, Bool.false_eq_true, if_false, ne_eq, not_true_eq_false]
end

theorem State.settle_ok_groups (s u : State) (id st dt : Nat) :
    (s.settle id (.ok (u, st, dt))).groups = u.groups ∧ (s.settle id (.ok (u, st, dt))).fprintWait = u.fprintWait := by
  have h : ((u.startCmd id).finish id st dt).but (Field.among recordFields) = u.but (Field.among recordFields) :=
    (State.finish_but (covers_among _) _ _ _ _).trans (State.startCmd_but ((covers_among _).mono (by decide)) _ _)
  exact ⟨congrArg (·.state.groups) h, congrArg (·.state.fprintWait) h⟩

theorem State.cmd?_settle_ok (s u : State) (id st dt : Nat) : (s.settle id (.ok (u, st, dt))).cmd? id = none := State.cmd?_finish ..

/-! ### ABORT (R453) -/

theorem State.fetchRest_cmds (s : State) (owner ring : Nat) : (s.fetchRest owner ring).cmds = s.cmds :=
  congrArg (·.state.cmds) (State.fetchRest_but (covers_among _) s owner ring)

section
variable {s : State} {id : Nat} {c : Cmd} {r : SubRing} (h : Live s id 0x0D c) (ht : c.target = none) (hr : s.sub? c.owner (c.f 16 2) = some r)
include h ht hr

theorem execAbort_admitted {tgt : Nat} {x : Cmd} (ha : (s.fetchRest c.owner (c.f 16 2)).abortTarget c.owner (c.f 16 2) (c.f 20 4) = some (.inl tgt))
    (hx : s.cmd? tgt = some x) (hu : x.uncommitted = true) (hd : ∀ k, x.coll = some k → k.sentDone = false) :
    execAbort id s = .next (((s.fetchRest c.owner (c.f 16 2)).failCmd tgt E_ABORTED 0).finish id OK 0) := by
  have hx' : (s.fetchRest c.owner (c.f 16 2)).cmd? tgt = some x := (congrArg (fun m => NMap.get? m tgt) (State.fetchRest_cmds ..)).trans hx
  unfold execAbort
  rw [control_live h rfl]
  cases hk : x.coll with
  | none => simp only [ht, hr, ha, hx', hu, hk, Bool.not_true, Bool.or_self, Bool.false_eq_true, if_false]
  | some k => simp only [ht, hr, ha, hx', hu, hk, hd k hk, Bool.not_true, Bool.or_self, Bool.false_eq_true, if_false]

theorem execAbort_fetched {y : Fetched} {r1 : SubRing} (ha : (s.fetchRest c.owner (c.f 16 2)).abortTarget c.owner (c.f 16 2) (c.f 20 4) = some (.inr y))
    (hr1 : (s.fetchRest c.owner (c.f 16 2)).sub? c.owner (c.f 16 2) = some r1)
    (hslot : (s.fetchRest c.owner (c.f 16 2)).slotFree c.owner ((s.fetchRest c.owner (c.f 16 2)).cqOf c.owner r1 y.desc) = true) :
    execAbort id s = .next (((s.fetchRest c.owner (c.f 16 2)).failFetched c.owner (c.f 16 2) r1 y E_ABORTED 0).finish id OK 0) := by
  unfold execAbort
  rw [control_live h rfl]
  simp only [ht, hr, ha, hr1, hslot, if_true]

theorem execAbort_none (ha : (s.fetchRest c.owner (c.f 16 2)).abortTarget c.owner (c.f 16 2) (c.f 20 4) = none) :
    execAbort id s = .next (((s.fetchRest c.owner (c.f 16 2)).startCmd id).failCmd id E_ALREADY_COMPLETE 0) := by
  unfold execAbort
  rw [control_live h rfl]
  simp only [ht, hr, ha]
  rfl
end

/-! ### What the end of a command leaves of the others and of its rings -/

theorem State.writeEnd_cmd?_eq_none {s : State} {j : Nat} (h : s.cmd? j = none) (id : Nat) (c : Cmd) (st dt : Nat) : (s.writeEnd id c st dt).cmd? j = none := by
  have h1 : State.cmd? { s with cmds := NMap.erase s.cmds id } j = none := by
    by_cases hj : j = id
    · subst hj
      exact NMap.get?_erase_same ..
    · exact (NMap.get?_erase_ne _ hj).trans h
  rw [State.writeEnd_eq, State.cmd?, State.pushRecord_cmds]
  unfold State.endBefore
  dsimp only
  split
  · exact h1
  · exact State.recordFence_cmd?_eq_none h1 _ _ _

theorem State.finish_cmd?_eq_none {s : State} {j : Nat} (h : s.cmd? j = none) (id st dt : Nat) : (s.finish id st dt).cmd? j = none := by
  unfold State.finish
  split
  · exact h
  · exact State.writeEnd_cmd?_eq_none h _ _ _ _

/-- The bases of the rings. -/
def State.bases (s : State) : Lookup (Option Nat) × Lookup (Option Nat) :=
  (fun k => (NMap.get? s.subs k).map SubRing.base, fun k => (NMap.get? s.comps k).map CompRing.base)

theorem NMap.get?_modify_map {α β : Type} (m : NMap α) (k j : Nat) (f : α → α) (g : α → β) (hg : ∀ x, g (f x) = g x) :
    (NMap.get? (NMap.modify m k f) j).map g = (NMap.get? m j).map g := by
  rw [NMap.get?_modify]
  split
  · rw [Option.map_map]
    exact congrArg (fun h => (NMap.get? m j).map h) (funext hg)
  · rfl

theorem State.bases_subs (s : State) (k : Nat) (f : SubRing → SubRing) (hf : ∀ r, (f r).base = r.base) :
    State.bases { s with subs := NMap.modify s.subs k f } = s.bases :=
  Prod.ext (funext fun j => NMap.get?_modify_map s.subs k j f SubRing.base hf) rfl

theorem State.bases_comps (s : State) (k : Nat) (f : CompRing → CompRing) (hf : ∀ r, (f r).base = r.base) :
    State.bases { s with comps := NMap.modify s.comps k f } = s.bases :=
  Prod.ext rfl (funext fun j => NMap.get?_modify_map s.comps k j f CompRing.base hf)

theorem State.bases_setComp {s : State} {owner cq : Nat} {r r1 : CompRing} (hr : s.comp? owner cq = some r) (hb : r1.base = r.base) :
    (s.setComp owner cq r1).bases = s.bases := by
  refine Prod.ext rfl (funext fun j => ?_)
  show (NMap.get? (NMap.set s.comps (ringKey owner cq) r1) j).map CompRing.base = (NMap.get? s.comps j).map CompRing.base
  by_cases hj : j = ringKey owner cq
  · have hr' : NMap.get? s.comps (ringKey owner cq) = some r := by
      unfold State.comp? at hr
      split at hr
      · exact hr
      · cases hr
    rw [hj, NMap.get?_set_same, hr', Option.map_some, Option.map_some, hb]
  · rw [NMap.get?_set_ne _ _ hj]

theorem State.bases_of_but {X : Field → Bool} {s t : State} (h : t.but X = s.but X) (h1 : X .subs = false) (h2 : X .comps = false) : t.bases = s.bases := by
  have hs : t.subs = s.subs := (congrArg State.subs (State.eq_take h)).trans (cond_eq_right h1 _ _)
  have hc : t.comps = s.comps := (congrArg State.comps (State.eq_take h)).trans (cond_eq_right h2 _ _)
  unfold State.bases
  rw [hs, hc]

theorem State.fireCq_bases (s : State) (owner cq : Nat) : (s.fireCq owner cq).bases = s.bases := by
  unfold State.fireCq
  split
  · rfl
  · next r hr =>
    split
    · exact (State.bases_of_but (State.sendMsix_but (covers_among _) _ _ _) rfl rfl).trans (State.bases_setComp hr rfl)
    · rfl

theorem State.pushRecord_bases (s : State) (owner cq : Nat) (notify : Bool) (rec : Bool → Bytes) (reserved : Bool) :
    (s.pushRecord owner cq notify rec reserved).bases = s.bases := by
  unfold State.pushRecord
  split
  · rfl
  · next r hr =>
    have hr' : (s.hostWrite (s.functionOf owner) (r.base + 32 * r.next) (rec r.phase)).comp? owner cq = some r := hr
    exact (State.fireCq_bases _ _ _).trans (State.bases_setComp hr' rfl)

theorem State.account_bases (s : State) (owner ring home : Nat) (f : Acct → Acct) : (s.account owner ring home f).bases = s.bases :=
  State.bases_subs s (ringKey owner ring) (fun r => { r with acct := { f r.acct with lastCounter := s.counter home } }) fun _ => rfl

theorem State.endBefore_bases (s : State) (id : Nat) (c : Cmd) (status : Nat) : (s.endBefore id c status).bases = s.bases := by
  have h1 : State.bases (if c.commitAt.isSome then { s with cmds := NMap.erase s.cmds id } else State.recordFence { s with cmds := NMap.erase s.cmds id } c.owner c.desc status) = s.bases := by
    split
    · rfl
    · exact State.bases_of_but (State.recordFence_but (covers_among _) { s with cmds := NMap.erase s.cmds id } _ _ _) rfl rfl
  refine (State.bases_subs (State.account _ c.owner c.ring c.home _) (ringKey c.owner c.ring) (fun r =>
    { r with halted := r.halted || halts status, lastTag := dTag c.desc, lastCounter := s.counter c.home }) fun _ => rfl).trans ?_
  exact (State.account_bases _ _ _ _ _).trans h1

theorem State.writeEnd_bases (s : State) (id : Nat) (c : Cmd) (st dt : Nat) : (s.writeEnd id c st dt).bases = s.bases := by
  rw [State.writeEnd_eq, State.pushRecord_bases, State.endBefore_bases]

theorem State.finish_bases (s : State) (id st dt : Nat) : (s.finish id st dt).bases = s.bases := by
  unfold State.finish
  split
  · rfl
  · exact State.writeEnd_bases _ _ _ _ _

theorem State.undo_bases (s : State) (c : Cmd) : (s.undo c).bases = s.bases := by
  rw [State.undo_eq]
  refine Eq.trans ?_ (State.bases_of_but (State.giveBack_but (covers_among _) s c) rfl rfl)
  unfold State.unmark
  repeat' split
  · rfl
  · exact State.bases_subs _ _ _ fun _ => rfl
  · exact State.bases_comps _ _ _ fun _ => rfl
  · rfl
  · rfl
  · rfl

/-! ### Commands dropped and completed -/

/-- What dropping a command does before it is gone. -/
def State.droppedBy (s : State) (id : Nat) (c : Cmd) : State := ((s.farewell c E_ABORTED 0).undo c).discardTiles id

theorem State.droppedBy_bases (s : State) (id : Nat) (c : Cmd) : (s.droppedBy id c).bases = s.bases :=
  (State.bases_of_but (State.discardTiles_but (covers_among _) _ _) rfl rfl).trans
    ((State.undo_bases _ _).trans (State.bases_of_but (State.farewell_but (covers_among _) s c _ _) rfl rfl))

theorem State.droppedBy_cmds (s : State) (id : Nat) (c : Cmd) : (s.droppedBy id c).cmds = s.cmds := by
  have h := (State.discardTiles_but ((covers_among _).mono (by decide)) ((s.farewell c E_ABORTED 0).undo c) id).trans
    ((State.undo_but ((covers_among _).mono (by decide)) (s.farewell c E_ABORTED 0) c).trans
      (State.farewell_but (X := Field.among ([.stores, .plans, .tempers, .contents, .seqs, .frames, .poison, .subs, .comps, .engines, .linkOut] ++ hostFields))
        ((covers_among _).mono (by decide)) s c E_ABORTED 0))
  exact congrArg (·.state.cmds) h

theorem State.dropCmd_some {s : State} {id : Nat} {c : Cmd} (h : s.cmd? id = some c) :
    s.dropCmd id =
      { s.droppedBy id c with
        cmds := NMap.erase s.cmds id,
        comps := NMap.modify (s.droppedBy id c).comps (ringKey c.owner c.cq) (fun r => { r with reserved := r.reserved - 1 }) } := by
  rw [← State.droppedBy_cmds s id c]
  simp only [State.dropCmd, h]
  rfl

theorem State.dropCmd_bases (s : State) (id : Nat) : (s.dropCmd id).bases = s.bases := by
  cases h : s.cmd? id with
  | none => simp only [State.dropCmd, h]
  | some c =>
    rw [State.dropCmd_some h]
    refine Eq.trans ?_ (State.droppedBy_bases s id c)
    refine Prod.ext rfl (funext fun j => ?_)
    exact NMap.get?_modify_map (s.droppedBy id c).comps (ringKey c.owner c.cq) j (fun r => { r with reserved := r.reserved - 1 }) CompRing.base fun _ => rfl

theorem State.cmd?_dropCmd (s : State) (id : Nat) : (s.dropCmd id).cmd? id = none := by
  cases h : s.cmd? id with
  | none => simp only [State.dropCmd, h]
  | some c =>
    rw [State.dropCmd_some h]
    exact NMap.get?_erase_same ..

theorem State.dropCmd_cmd?_eq_none {s : State} {j : Nat} (h : s.cmd? j = none) (id : Nat) : (s.dropCmd id).cmd? j = none := by
  cases hc : s.cmd? id with
  | none => simpa only [State.dropCmd, hc] using h
  | some c =>
    rw [State.dropCmd_some hc]
    by_cases hj : j = id
    · subst hj
      exact NMap.get?_erase_same ..
    · exact (NMap.get?_erase_ne _ hj).trans h

theorem State.commitDies_but {X : Field → Bool} (hX : Covers X [.objects, .contents]) (s : State) (c : Cmd) (dies : List Nat) :
    (dies.foldl (fun (a : State) d => a.commitDie c d) s).but X = s.but X :=
  foldl_but _ _ _ fun a d => State.commitDie_but hX a c d

theorem State.completeCommit_bases (s : State) (id : Nat) (c : Cmd) : (s.completeCommit true id c).bases = s.bases :=
  (State.finish_bases _ _ _ _).trans (State.bases_of_but (State.commitDies_but (covers_among _) s c c.waitDies) rfl rfl)

theorem State.completeCommit_cmd?_eq_none {s : State} {j : Nat} (h : s.cmd? j = none) (id : Nat) (c : Cmd) : (s.completeCommit true id c).cmd? j = none :=
  State.finish_cmd?_eq_none ((State.cmd?_kept (State.commitDies_but (covers_among _) s c c.waitDies) rfl j).trans h) _ _ _

/-! ### The reset of a function (R33) -/

/-- What a function's reset, or the end of its partition, makes of one of its commands. -/
def State.endOwned (s : State) (x : Nat × Cmd) : State := if x.2.uncommitted then s.dropCmd x.1 else s.completeCommit true x.1 x.2

theorem State.endOwned_bases (s : State) (x : Nat × Cmd) : (s.endOwned x).bases = s.bases := by
  unfold State.endOwned
  split
  · exact State.dropCmd_bases _ _
  · exact State.completeCommit_bases _ _ _

theorem State.endOwned_cmd?_eq_none {s : State} {j : Nat} (h : s.cmd? j = none) (x : Nat × Cmd) : (s.endOwned x).cmd? j = none := by
  unfold State.endOwned
  split
  · exact State.dropCmd_cmd?_eq_none h _
  · exact State.completeCommit_cmd?_eq_none h _ _

theorem foldl_endOwned_bases (l : List (Nat × Cmd)) (s : State) : (l.foldl State.endOwned s).bases = s.bases := by
  induction l generalizing s with
  | nil => rfl
  | cons x l ih => exact (ih _).trans (State.endOwned_bases s x)

theorem foldl_endOwned_eq_none (l : List (Nat × Cmd)) {s : State} {j : Nat} (h : s.cmd? j = none) : (l.foldl State.endOwned s).cmd? j = none := by
  induction l generalizing s with
  | nil => exact h
  | cons x l ih => exact ih (State.endOwned_cmd?_eq_none h x)

/-- No uncommitted command outlives the end of its owner's commands. -/
theorem foldl_endOwned_drops {l : List (Nat × Cmd)} (s : State) {x : Nat × Cmd} (hx : x ∈ l) (hu : x.2.uncommitted = true) : (l.foldl State.endOwned s).cmd? x.1 = none := by
  induction l generalizing s with
  | nil => cases hx
  | cons y l ih =>
    rcases List.mem_cons.1 hx with rfl | hx
    · refine foldl_endOwned_eq_none l ?_
      rw [State.endOwned, if_pos hu]
      exact State.cmd?_dropCmd _ _
    · exact ih _ hx

/-- The ring with number 0 of an owner is kept and changed, and its others are dropped. -/
theorem get?_keepAdmin {α : Type} (m : NMap α) (p : Nat) (f : α → α) {r : Nat} (hr : r < 1024) :
    NMap.get? (NMap.modify (m.filter (fun x => !(x.1 / 1024 == p && x.1 % 1024 != 0))) (ringKey p 0) f) (ringKey p r) =
      if r = 0 then (NMap.get? m (ringKey p 0)).map f else none := by
  have hdiv : ringKey p r / 1024 = p := by unfold ringKey; omega
  have hmod : ringKey p r % 1024 = r := by unfold ringKey; omega
  have hf := NMap.get?_filter m (fun k => !(k / 1024 == p && k % 1024 != 0)) (ringKey p r)
  rw [hdiv, hmod] at hf
  rw [NMap.get?_modify, hf]
  by_cases h0 : r = 0
  · simp [h0]
  · have hne : ringKey p r ≠ ringKey p 0 := by unfold ringKey; omega
    rw [if_neg hne, if_neg h0]
    simp [h0]

section
variable (s : State) (p : Nat) {r : Nat} (hr : r < 1024)
include hr

theorem State.resetRings_sub? : (s.resetRings p).sub? p r = if r = 0 then (s.sub? p 0).map SubRing.emptied else none := by
  unfold State.sub?
  rw [if_pos hr, if_pos (by decide : (0 : Nat) < 1024)]
  exact get?_keepAdmin s.subs p SubRing.emptied hr

theorem State.resetRings_comp? : (s.resetRings p).comp? p r = if r = 0 then (s.comp? p 0).map CompRing.emptied else none := by
  unfold State.comp?
  rw [if_pos hr, if_pos (by decide : (0 : Nat) < 1024)]
  exact get?_keepAdmin s.comps p CompRing.emptied hr
end

theorem State.resetRings_fence (s : State) (p : Nat) {f : Nat} (hf : f < 4096) : (s.resetRings p).fence p f = {} := by
  have h : NMap.get? (NMap.eraseRange s.fences (fenceKey p 0) (fenceKey (p + 1) 0)) (fenceKey p f) = none :=
    NMap.get?_eraseRange_in _ (by unfold fenceKey; omega) (by unfold fenceKey; omega)
  show NMap.getD (NMap.eraseRange s.fences (fenceKey p 0) (fenceKey (p + 1) 0)) (fenceKey p f) {} = {}
  rw [NMap.getD, h]
  rfl

/-- A ring that is there keeps its base through the end of its owner's commands. -/
theorem State.sub?_of_bases {s t : State} (h : t.bases = s.bases) {owner ring : Nat} {r : SubRing} (hr : s.sub? owner ring = some r) :
    ∃ r1, t.sub? owner ring = some r1 ∧ r1.base = r.base := by
  have hlt := State.sub?_lt hr
  have hk := congrFun (congrArg Prod.fst h) (ringKey owner ring)
  unfold State.sub? at hr ⊢
  rw [if_pos hlt] at hr ⊢
  simpa only [State.bases, hr, Option.map_some, Option.map_eq_some_iff] using hk

theorem State.comp?_of_bases {s t : State} (h : t.bases = s.bases) {owner ring : Nat} {r : CompRing} (hr : s.comp? owner ring = some r) :
    ∃ r1, t.comp? owner ring = some r1 ∧ r1.base = r.base := by
  have hk := congrFun (congrArg Prod.snd h) (ringKey owner ring)
  unfold State.comp? at hr ⊢
  split at hr
  · rw [if_pos ‹_›]
    simpa only [State.bases, hr, Option.map_some, Option.map_eq_some_iff] using hk
  · cases hr

/-- What a function's reset leaves of its partition: the ends of its commands, then of its rings and streams. -/
theorem execVfFlr_owned {s : State} {vf p : Nat} {q : Part} (hv : vf ≠ 0) (hp : s.parts.find? (fun x => x.2.function == vf) = some (p, q)) :
    execVfFlr vf s = .next { (((s.ownerCmds p).foldl State.endOwned s).resetRings p).closeStreams p with
      msix := NMap.erase ((s.ownerCmds p).foldl State.endOwned s).msix vf } := by
  have hfind : s.parts.find? (fun x => x.2.function == vf && decide (vf ≠ 0)) = some (p, q) := by simpa [hv] using hp
  simp only [execVfFlr, hfind]
  rfl

/-- Settles O30: the group's entry, the target of ABORT in each of its three states, and the function's reset. -/
theorem groupsAbortAndFunctionReset : Obligations.GroupsAbortAndFunctionReset := by
  unfold Obligations.GroupsAbortAndFunctionReset
  refine ⟨⟨fun s id c h hop hheld hok => ?_, fun s id c g h hop hheld hg hpart => ?_⟩, fun s s1 id c r h ht hr hs1 => ?_, fun s vf p q hv hp => ?_⟩
  · refine ⟨_, _, execGroupSet_live h hheld hop hok, State.cmd?_settle_ok .., ?_, rfl⟩
    rw [(State.settle_ok_groups ..).1]
    exact NMap.get?_set_same ..
  · refine ⟨_, execGroupClear_live h hheld hop hg hpart, State.cmd?_settle_ok .., ?_, ?_⟩
    · rw [(State.settle_ok_groups ..).1]
      exact NMap.get?_erase_same ..
    · rw [(State.settle_ok_groups ..).2]
      intro m hm
      simpa using (List.mem_filter.1 hm).2
  · subst hs1
    exact ⟨fun tgt x ha hx hu hd => execAbort_admitted h ht hr ha hx hu hd, fun y r1 ha hr1 hslot => execAbort_fetched h ht hr ha hr1 hslot,
      fun ha => execAbort_none h ht hr ha⟩
  · have hbases := foldl_endOwned_bases (s.ownerCmds p) s
    refine ⟨_, execVfFlr_owned hv hp, fun x hx ho hu => ?_, fun r h0 hr => ⟨?_, ?_⟩, fun f hf => State.resetRings_fence _ p hf, NMap.get?_erase_same .., fun r hr => ?_, fun r hr => ?_⟩
    · exact foldl_endOwned_drops s (List.mem_filter.2 ⟨hx, by simpa using ho⟩) hu
    · exact (State.resetRings_sub? _ p hr).trans (if_neg (Nat.ne_of_gt h0))
    · exact (State.resetRings_comp? _ p hr).trans (if_neg (Nat.ne_of_gt h0))
    · obtain ⟨r0, hr0, hb⟩ := State.sub?_of_bases hbases hr
      exact ⟨r0.emptied, (State.resetRings_sub? _ p (by decide)).trans (by rw [if_pos rfl, hr0]; rfl), hb, rfl, rfl, rfl, rfl⟩
    · obtain ⟨r0, hr0, hb⟩ := State.comp?_of_bases hbases hr
      exact ⟨r0.emptied, (State.resetRings_comp? _ p (by decide)).trans (by rw [if_pos rfl, hr0]; rfl), hb, rfl, rfl, rfl, rfl, rfl⟩

end Sys2Proof.Machine
end

open Sys2Proof Sys2Proof.Machine
section
/-! PROOF. Two statements that fail: PART_DESTROY beside a ninth frame map, and a sketch build that pushes a dirty ingot out of a full T2 cache. -/
namespace Sys2Proof.Machine

/-- The PART_DESTROY of partition 0. -/
def strayDestroy : Cmd := { owner := packageOwner, desc := leBytes 1 0x41 ++ List.replicate 127 0 }

/-- A serving package that is not of its shape: behind the frame maps of its eight dies there stands a ninth, with a frame of partition 0. -/
def strayFrame : State :=
  { boot := .ready, cmds := [(0, strayDestroy)], parts := [(0, { function := 0, groups := 0 })], frames := List.replicate 8 [] ++ [[(0, { part := 0 })]] }

theorem strayFrame_live : Live strayFrame 0 0x41 strayDestroy := by
  refine ⟨rfl, rfl, ?_, rfl, rfl⟩
  decide

/-- The frame maps after a command. -/
def framesAfter (o : Host.Outcome State Fault Refusal) : List (NMap Frame) := match o with | .next t => t.frames | _ => []

theorem strayFrame_stays : [(0, ({ part := 0 } : Frame))] ∈ framesAfter (exec (.partDestroy 0) strayFrame) := by
  decide

/-- Refutes O28: PART_DESTROY frees the frames of eight dies, and the statement speaks of every frame map of any state; in a state with a ninth frame map a frame
of the partition stays. -/
theorem not_partitionsAndRings : ¬ Obligations.PartitionsAndRings := by
  unfold Obligations.PartitionsAndRings
  rintro ⟨⟨-, hdestroy, -⟩, -⟩
  obtain ⟨t, ht, -, -, -, -, -, -, -, -, -, -, -, -, -, hframes⟩ := (hdestroy strayFrame 0 strayDestroy strayFrame_live rfl (by decide)).2 (by decide)
  have hstay := strayFrame_stays
  rw [ht] at hstay
  exact hframes _ hstay _ (List.mem_singleton_self _) (by decide)

/-- An ATTEND that builds sketches into object 1 and has started; its plan has no head, so it writes the header alone. -/
def sketchBuild : Cmd :=
  { desc := leBytes 1 0x02 ++ List.replicate 31 0 ++ leBytes 4 1 ++ List.replicate 30 0 ++ leBytes 1 1 ++ List.replicate 61 0, phase := .started }

/-- The sketch object, whose home is T3. -/
def sketchObject : Obj := { kind := 1, tier := 3, bytes := 65536, dies := [0], hostBase := 0x100000 }

/-- Another T3 object: its one ingot was written by a command that has committed, and stands dirty in the T2 cache. -/
def dirtyObject : Obj := { fmt := 1, tier := 3, rows := 128, cols := 128, batch := 1, dies := [0], hostBase := 0x200000, mem0 := [(0, 7)], dirty := [0] }

/-- A partition with room for 64 KiB in its T2 cache, which holds the dirty ingot. -/
def fullCache : State :=
  { boot := .ready, cmds := [(1, sketchBuild)], parts := [(0, { sets := [(0x0002 * 256, 65536)] })], objects := [(1, sketchObject), (2, dirtyObject)],
    t2cache := [(2, 0, 0)] }

theorem fullCache_live : Live fullCache 1 0x02 sketchBuild := by
  refine ⟨rfl, rfl, ?_, rfl, rfl⟩
  decide

/-- Host memory after a command. -/
def hostAfter (o : Host.Outcome State Fault Refusal) : Mem := match o with | .next t => t.host | _ => []

/-- The chunk of the header takes the cache's whole room; the dirty ingot goes back to its slot in host memory (R358). -/
theorem fullCache_evicts : Mem.read (hostAfter (exec (.attendBuildSketches 1) fullCache)) 0x200000 = 7 := by
  decide +kernel

/-- Refutes O50: of a build of sketches the statement says that host memory is as it was, without the exception it makes for the other commands (R358); a sketch
object with its home in T3 takes room in the T2 cache, and the ingot that gives way is written back. -/
theorem not_tensorAndAttentionRun : ¬ Obligations.TensorAndAttentionRun := by
  unfold Obligations.TensorAndAttentionRun
  rintro ⟨-, hattend⟩
  obtain ⟨-, hbuild, -⟩ := hattend fullCache 1 sketchBuild fullCache_live rfl
  obtain ⟨t, -, ht, -, hhost, -⟩ := hbuild (by decide) (by decide) (by decide)
  have hread := fullCache_evicts
  rw [ht] at hread
  have hzero : Mem.read t.host 0x200000 = 0 := by rw [hhost]; rfl
  exact absurd (hzero.symm.trans hread) (by decide)

end Sys2Proof.Machine
end

section
/-! PROOF. ROUTE of every mode runs to its decision point (R59, R220, R240). -/

namespace Sys2Proof.Machine

section
variable {X : Field → Bool} {s t : State} (h : t.but X = s.but X)
include h

theorem State.host_kept (hk : X .host = false) : t.host = s.host := (congrArg State.host (State.eq_take h)).trans (cond_eq_right hk _ _)
theorem State.comps_kept (hk : X .comps = false) : t.comps = s.comps := (congrArg State.comps (State.eq_take h)).trans (cond_eq_right hk _ _)
theorem State.linkOut_kept (hk : X .linkOut = false) : t.linkOut = s.linkOut := (congrArg State.linkOut (State.eq_take h)).trans (cond_eq_right hk _ _)
theorem State.objects_kept (hk : (X .objects || X .contents) = false) : t.objects = s.objects :=
  (congrArg State.objects (State.eq_take h)).trans (cond_eq_right hk _ _)
theorem State.cmds_kept (hk : (X .cmds || X .progress) = false) : t.cmds = s.cmds :=
  (congrArg State.cmds (State.eq_take h)).trans (cond_eq_right hk _ _)
end

/-! ### What a running command may do to host memory: write a dirty ingot back (R358) -/

/-- The object's write-backs leave the byte at `a` alone. -/
def Obj.spares (o : Obj) (a : Nat) : Prop := ∀ n ∈ o.dirty, a < o.hostSlot (slotIn o.vmap n) n ∨ o.hostSlot (slotIn o.vmap n) n + o.slot ≤ a

/-- What a write-back goes by. -/
def Obj.home (o : Obj) : Nat × Nat × Nat × List Nat × List Nat := (o.hostBase, o.count, o.slot, o.vmap, o.dirty)

theorem Obj.spares_of_home {o p : Obj} (h : p.home = o.home) {a : Nat} (ho : o.spares a) : p.spares a := by
  simp only [Obj.home, Prod.mk.injEq] at h
  obtain ⟨hbase, hcount, hslot, hmap, hdirty⟩ := h
  unfold Obj.spares Obj.hostSlot
  rw [hbase, hcount, hslot, hmap, hdirty]
  exact ho

/-- No write-back of the state touches the byte at `a`. -/
def State.spares (s : State) (a : Nat) : Prop := ∀ x ∈ s.objects, x.2.spares a

/-- What a command takes from its descriptor. -/
def Cmd.asks (c : Cmd) : Bytes × Nat × Nat := (c.desc, c.owner, c.cq)

/-- A step of a running command: host memory changes in the slots of dirty ingots alone, and every command stays under its id. -/
def Quiet (s t : State) : Prop :=
  (∀ a, s.spares a → t.spares a ∧ Mem.read t.host a = Mem.read s.host a) ∧ ∀ id c, s.cmd? id = some c → ∃ d, t.cmd? id = some d ∧ d.asks = c.asks

theorem Quiet.refl (s : State) : Quiet s s := ⟨fun _ h => ⟨h, rfl⟩, fun _ c h => ⟨c, h, rfl⟩⟩

theorem Quiet.trans {s t u : State} (h : Quiet s t) (g : Quiet t u) : Quiet s u := by
  refine ⟨fun a hs => ?_, fun id c hc => ?_⟩
  · obtain ⟨ht, hr⟩ := h.1 a hs
    obtain ⟨hu, hq⟩ := g.1 a ht
    exact ⟨hu, hq.trans hr⟩
  · obtain ⟨d, hd, hdc⟩ := h.2 id c hc
    obtain ⟨e, he, hed⟩ := g.2 id d hd
    exact ⟨e, he, hed.trans hdc⟩

theorem Quiet.foldl {α : Type} (f : State → α → State) (hf : ∀ a x, Quiet a (f a x)) (l : List α) (s : State) : Quiet s (l.foldl f s) := by
  induction l generalizing s with
  | nil => exact Quiet.refl s
  | cons x l ih => exact (hf s x).trans (ih _)

theorem Quiet.then_foldl {α : Type} {s u : State} (h : Quiet s u) (f : State → α → State) (hf : ∀ a x, Quiet a (f a x)) (l : List α) : Quiet s (l.foldl f u) :=
  h.trans (Quiet.foldl f hf l u)

theorem Quiet.hostKept {s t : State} (h : Quiet s t) : HostKept s t := fun a ha => (h.1 a ha).2

/-- The fields that a quiet step is about. -/
def quietFields : List Field := [.host, .objects, .contents, .cmds, .progress]

/-- A step that leaves the objects, the commands and host memory as they are is quiet. -/
theorem Quiet.of_but {L : List Field} {s t : State} (h : t.but (Field.among L) = s.but (Field.among L)) (hL : ∀ f ∈ quietFields, Field.among L f = false) :
    Quiet s t := by
  have hhost := State.host_kept h (hL .host (by decide))
  have hobj := State.objects_kept h (by rw [hL .objects (by decide), hL .contents (by decide)]; rfl)
  have hcmds := State.cmds_kept h (by rw [hL .cmds (by decide), hL .progress (by decide)]; rfl)
  refine ⟨fun a hs => ⟨?_, by rw [hhost]⟩, fun id c hc => ⟨c, ?_, rfl⟩⟩
  · rw [State.spares, hobj]; exact hs
  · rw [State.cmd?, hcmds]; exact hc

theorem Quiet.setCmd {s : State} {id : Nat} {c d : Cmd} (hc : s.cmd? id = some c) (hd : d.asks = c.asks) : Quiet s (s.setCmd id d) := by
  refine ⟨fun a hs => ⟨hs, rfl⟩, fun j e he => ?_⟩
  by_cases hj : j = id
  · subst hj
    exact ⟨d, State.cmd?_setCmd_same .., hd.trans (congrArg Cmd.asks (Option.some.inj (hc.symm.trans he)))⟩
  · exact ⟨e, (State.cmd?_setCmd_ne s d hj).trans he, rfl⟩

theorem NMap.mem_of_get? {α : Type} {m : NMap α} {k : Nat} {v : α} (h : NMap.get? m k = some v) : ∃ x ∈ m, x.2 = v := by
  simp only [NMap.get?, Option.map_eq_some_iff] at h
  obtain ⟨x, hx, hv⟩ := h
  exact ⟨x, List.mem_of_find?_eq_some hx, hv⟩

theorem Quiet.setObj {s : State} {key : Nat} {o p : Obj} (ho : NMap.get? s.objects key = some o) (hp : ∀ a, o.spares a → p.spares a) :
    Quiet s (s.setObj key p) := by
  refine ⟨fun a hs => ⟨fun x hx => ?_, rfl⟩, fun _ c hc => ⟨c, hc, rfl⟩⟩
  obtain ⟨y, hy, hyo⟩ := NMap.mem_of_get? ho
  rcases NMap.mem_of_mem_set hx with e | e
  · rw [e]
    exact hp a (hyo ▸ hs y hy)
  · exact hs x e

theorem Quiet.setObj_home {s : State} {key : Nat} {o p : Obj} (ho : NMap.get? s.objects key = some o) (hp : p.home = o.home) : Quiet s (s.setObj key p) :=
  Quiet.setObj ho fun _ => Obj.spares_of_home hp

theorem Quiet.setRun (s : State) (id : Nat) (f : Run → Run) : Quiet s (s.setRun id f) := by
  unfold State.setRun
  split
  · next c hc => exact Quiet.setCmd hc rfl
  · exact Quiet.refl s

/-! ### What the writes of an object leave as it is -/

theorem Obj.putSlot_home (o : Obj) (v n : Nat) (b : Bytes) : (o.putSlot v n b).home = o.home := by
  simp only [Obj.putSlot]
  split <;> rfl

theorem Obj.putExt_home (o : Obj) (v n : Nat) (b : Bytes) : (o.putExt v n b).home = o.home := by
  simp only [Obj.putExt]
  split <;> rfl

theorem Obj.putBytes_home (o : Obj) (v off : Nat) (b : Bytes) : (o.putBytes v off b).home = o.home := by
  simp only [Obj.putBytes]
  split <;> rfl

theorem Obj.putRefExt_home (o : Obj) (v off : Nat) (b : Option Bytes) : (o.putRefExt v off b).home = o.home := by
  simp only [Obj.putRefExt]
  split
  · rfl
  · split <;> rfl

theorem foldl_home {α : Type} (f : Obj → α → Obj) (hf : ∀ o x, (f o x).home = o.home) (l : List α) (o : Obj) : (l.foldl f o).home = o.home := by
  induction l generalizing o with
  | nil => rfl
  | cons x l ih => exact (ih _).trans (hf o x)

theorem Obj.copySlot_home (o : Obj) (src dst n : Nat) : (o.copySlot src dst n).home = o.home := by
  have hput : ∀ p : List Poison, Obj.home { o.putSlot dst n (o.readSlot src n) with poison := p } = o.home := fun _ => Obj.putSlot_home o dst n _
  simp only [Obj.copySlot]
  split
  · exact hput _
  · exact (foldl_home _ (fun _ _ => Obj.putRefExt_home ..) _ _).trans ((foldl_home _ (fun _ _ => Obj.putRefExt_home ..) _ _).trans (hput _))

theorem Cmd.note_asks (c : Cmd) (key n : Nat) : (c.note key n).asks = c.asks := by
  unfold Cmd.note
  split
  · rfl
  · split <;> rfl

/-! ### The T2 cache of the T3 tier -/

theorem Quiet.request (s : State) (q part n : Nat) : Quiet s (s.request q part n) :=
  Quiet.of_but (State.request_but (covers_among _) s q part n) (by decide)

theorem Quiet.bulkDma (s : State) (part : Nat) (write : Bool) (a n : Nat) : Quiet s (s.bulkDma part write a n) :=
  Quiet.of_but (State.bulkDma_but (covers_among _) s part write a n) (by decide)

/-- A write of bulk data changes no byte outside its range. -/
theorem State.read_bulkWrite (s : State) (part b : Nat) (bs : Bytes) {a : Nat} (ha : a < b ∨ b + bs.length ≤ a) :
    Mem.read (s.bulkWrite part b bs).host a = Mem.read s.host a := by
  have hq : ∀ (u : State) (q p n : Nat), (u.request q p n).host = u.host := fun u q p n =>
    State.host_kept (State.request_but (covers_among _) u q p n) rfl
  rw [State.bulkWrite, hq]
  simp only [State.hostWrite]
  split
  · exact Mem.read_writeRange_out _ _ _ _ ha
  · rfl

theorem Obj.readSlot_length (o : Obj) (v n : Nat) : (o.readSlot v n).length = o.slot := by
  simp [Obj.readSlot, Mem.readRange]

/-- A write-back writes the slot of a dirty ingot, and the ingot is dirty no more. -/
theorem Quiet.writeBack (s : State) (key n : Nat) : Quiet s (s.writeBack key n) := by
  unfold State.writeBack
  split
  case h_2 => exact Quiet.refl s
  case h_1 o ho =>
    split
    case isFalse => exact Quiet.refl s
    case isTrue hdirty =>
      have hn : n ∈ o.dirty := List.contains_iff_mem.1 hdirty
      have hq := Quiet.request s (stackQueue (o.stackOf n ((o.diesOf n).headD 0))) (key / 2 ^ 32) o.slot
      refine hq.trans ?_
      generalize hu : s.request (stackQueue (o.stackOf n ((o.diesOf n).headD 0))) (key / 2 ^ 32) o.slot = u
      have huo : u.objects = s.objects := by
        rw [← hu]
        exact State.objects_kept (State.request_but (covers_among _) s _ _ _) rfl
      have hw := State.bulkWrite_but (covers_among (hostFields ++ meterFields)) u (key / 2 ^ 32) (o.hostSlot (slotIn o.vmap n) n) (o.readSlot (slotIn o.vmap n) n)
      have hwo := State.objects_kept hw rfl
      have hwc := State.cmds_kept hw rfl
      obtain ⟨y, hy, hyo⟩ := NMap.mem_of_get? ho
      refine ⟨fun a hs => ⟨fun x hx => ?_, ?_⟩, fun j c hc => ⟨c, ?_, rfl⟩⟩
      · have hobj : o.spares a := hyo ▸ hs y (huo ▸ hy)
        rcases NMap.mem_of_mem_set hx with e | e
        · rw [e]
          exact fun m hm => hobj m (List.mem_of_mem_filter hm)
        · exact hs x (hwo ▸ e)
      · have hobj : o.spares a := hyo ▸ hs y (huo ▸ hy)
        exact State.read_bulkWrite u _ _ _ (by rw [Obj.readSlot_length]; exact hobj n hn)
      · simp only [State.cmd?, State.setObj]
        rw [hwc]
        exact hc

theorem Quiet.evict (s : State) (e : Nat × Nat × Nat) : Quiet s (s.evict e) := by
  have h1 : ∀ u : State, Quiet u { u with t2cache := u.t2cache.filter (· != e) } := fun u =>
    Quiet.of_but (State.but_t2cache (covers_among [.t2cache]) u _) (by decide)
  simp only [State.evict]
  refine Quiet.trans ?_ (h1 _)
  split
  · split
    · exact Quiet.writeBack s _ _
    · exact Quiet.refl s
  · exact Quiet.refl s

theorem Quiet.shrinkCache (s : State) (part d : Nat) : Quiet s (s.shrinkCache part d) := by
  refine Quiet.foldl _ (fun a e => ?_) _ s
  split
  · exact Quiet.refl a
  · exact Quiet.evict a e

theorem Quiet.cacheT3 (s : State) (key v n len : Nat) (runs : List (Nat × Nat)) : Quiet s (s.cacheT3 key v n len runs) := by
  have h1 : ∀ (u : State) (l : List (Nat × Nat × Nat)), Quiet u { u with t2cache := l } := fun u l =>
    Quiet.of_but (State.but_t2cache (covers_among [.t2cache]) u l) (by decide)
  simp only [State.cacheT3]
  split
  · refine Quiet.trans ?_ ((h1 _ _).trans (Quiet.shrinkCache _ _ _))
    split
    · exact Quiet.request s _ _ _
    · refine (Quiet.request s _ _ _).trans (Quiet.foldl _ (fun a r => ?_) _ _)
      exact (Quiet.bulkDma a _ _ _ _).trans (Quiet.request _ _ _ _)
  · exact Quiet.refl s

theorem Quiet.touchSlot (s : State) (part : Nat) (o : Obj) (v n off len : Nat) (write : Bool) : Quiet s (s.touchSlot part o v n off len write) :=
  Quiet.of_but (State.touchSlot_but (covers_among _) s part o v n off len write) (by decide)

theorem Quiet.dropCopies (s : State) (key v n : Nat) : Quiet s (s.dropCopies key v n) :=
  Quiet.of_but (State.dropCopies_but (covers_among _) s key v n) (by decide)

theorem Quiet.moved (s : State) (key v n off len : Nat) : Quiet s (s.moved key v n off len) := by
  simp only [State.moved]
  split
  · refine (Quiet.dropCopies s key v n).trans ?_
    split
    · exact Quiet.cacheT3 _ _ _ _ _ _
    · exact Quiet.touchSlot _ _ _ _ _ _ _ _
  · exact Quiet.refl s

theorem Quiet.readMoved (s : State) (key v n : Nat) : Quiet s (s.readMoved key v n) := by
  simp only [State.readMoved]
  split
  · split
    · exact Quiet.refl s
    · split
      · exact Quiet.cacheT3 _ _ _ _ _ _
      · exact Quiet.foldl _ (fun a r => Quiet.touchSlot a _ _ _ _ _ _ _) _ s
  · exact Quiet.refl s

/-! ### What a command reads and writes -/

theorem Quiet.farLines (s : State) (part die home n : Nat) (write : Bool) : Quiet s (s.farLines part die home n write) :=
  Quiet.of_but (State.farLines_but (covers_among _) s part die home n write) (by decide)

theorem Quiet.fetchOne (s : State) (c : Cmd) (die : Nat) (r : Nat × Nat) : Quiet s (s.fetchOne c die r) := by
  simp only [State.fetchOne]
  split
  · exact (Quiet.readMoved s _ _ _).trans (Quiet.farLines _ _ _ _ _ _)
  · exact Quiet.refl s

theorem Quiet.putIngot (s : State) (id key n : Nat) (slot : Bytes) (ext : Option Bytes) : Quiet s (s.putIngot id key n slot ext) := by
  simp only [State.putIngot]
  split
  · next o c ho hc =>
    refine ((Quiet.setObj_home ho ?_).trans (Quiet.setCmd hc (Cmd.note_asks c key n))).trans (Quiet.moved _ _ _ _ _ _)
    split
    · exact (Obj.putExt_home _ _ _ _).trans (Obj.putSlot_home o _ _ _)
    · exact Obj.putSlot_home o _ _ _
  · exact Quiet.refl s

theorem Quiet.putChunk (s : State) (id key n off : Nat) (b : Bytes) : Quiet s (s.putChunk id key n off b) := by
  simp only [State.putChunk]
  split
  · next o c ho hc =>
    refine ((Quiet.setObj_home ho ?_).trans (Quiet.setCmd hc (Cmd.note_asks c key n))).trans (Quiet.moved _ _ _ _ _ _)
    rw [Obj.putBytes_home]
    split
    · rfl
    · exact Obj.copySlot_home o _ _ _
  · exact Quiet.refl s

theorem Quiet.putObjBytes (s : State) (id key fuel off : Nat) (b : Bytes) : Quiet s (s.putObjBytes id key fuel off b) := by
  induction fuel generalizing s off b with
  | zero => exact Quiet.refl s
  | succ fuel ih =>
    unfold State.putObjBytes
    split
    · exact Quiet.refl s
    · exact (Quiet.putChunk s _ _ _ _ _).trans (ih _ _ _)

theorem Quiet.putList (s : State) (id owner handle : Nat) (b : Bytes) : Quiet s (s.putList id owner handle b) := by
  simp only [State.putList]
  split
  · exact Quiet.refl s
  · split
    · exact Quiet.putObjBytes s _ _ _ _ _
    · exact Quiet.refl s

theorem Quiet.moveRows (s : State) (id key handle : Nat) (x : Operand) (width i : Nat) (src : Nat → Option (Nat × Nat)) :
    Quiet s (s.moveRows id key handle x width i src) := by
  simp only [State.moveRows]
  split
  · refine Quiet.foldl _ (fun a j => ?_) _ s
    exact ((Quiet.foldl _ (fun b q => Quiet.fetchOne b _ _ _) _ a).trans (Quiet.putIngot _ _ _ _ _ _)).trans (Quiet.setRun _ _ _)
  · exact Quiet.refl s

theorem Quiet.exchangeCounts (s : State) (owner : Nat) (counts : Nat → List Nat) : Quiet s (s.exchangeCounts owner counts) :=
  Quiet.of_but (State.exchangeCounts_but (covers_among _) s owner counts) (by decide)

theorem Quiet.noteFails (s : State) (id : Nat) (fs : List (Nat × Nat)) : Quiet s (s.noteFails id fs) := Quiet.setRun s id _

/-! ### The decision point -/

section
variable {s : State} {id : Nat} {c : Cmd} (hc : s.cmd? id = some c)
include hc

theorem State.toReady_eq (f : Cmd → Cmd) :
    s.toReady id f = s.takeFresh.setCmd id { f c with phase := .ready, aclk := if c.opcode = 0x06 ∨ c.opcode = 0x07 then 0 else Config.aclkCycles s.fresh / 256 } := by
  simp only [State.toReady, hc]

theorem Quiet.toReady (f : Cmd → Cmd) (hf : (f c).asks = c.asks) : Quiet s (s.toReady id f) := by
  rw [State.toReady_eq hc]
  exact (Quiet.of_but (t := s.takeFresh) (State.but_fresh (covers_among [.fresh]) s _) (by decide)).trans (Quiet.setCmd hc hf)

/-- ROUTE's end: the first of the noted failures in the order of R240, or OK. -/
theorem State.endRoute_ends (detail : Nat) :
    ∃ d, (s.endRoute id detail).cmd? id = some d ∧ d.phase = .ready ∧ d.asks = c.asks ∧ (pickFail routeOrder d.run.fails = none → d.status = OK)
      ∧ ∀ st dt, pickFail routeOrder d.run.fails = some (st, dt) → d.status = st ∧ d.detail = dt := by
  simp only [State.endRoute, hc]
  split
  case h_1 st dt hp =>
    rw [State.toReady_eq hc]
    refine ⟨_, State.cmd?_setCmd_same .., rfl, rfl, fun h => ?_, fun st' dt' h => ?_⟩
    · exact absurd (hp.symm.trans h) (by simp)
    · cases hp.symm.trans h
      exact ⟨rfl, rfl⟩
  case h_2 hp =>
    rw [State.toReady_eq hc]
    refine ⟨_, State.cmd?_setCmd_same .., rfl, rfl, fun _ => rfl, fun st' dt' h => ?_⟩
    exact absurd (hp.symm.trans h) (by simp)

theorem Quiet.endRoute (detail : Nat) : Quiet s (s.endRoute id detail) := by
  simp only [State.endRoute, hc]
  split
  · exact Quiet.toReady hc _ rfl
  · exact Quiet.toReady hc _ rfl
end

/-! ### ROUTE -/

/-- What the bodies of ROUTE may change. -/
def routeFields : List Field := putFields ++ lineFields ++ sendFields ++ meterFields ++ [.fresh]

/-- The end of a ROUTE after a quiet body. -/
def RouteEnds (s t : State) (id : Nat) (c : Cmd) : Prop :=
  ∃ d, Stands s t id c d ∧ HostKept s t ∧ (pickFail routeOrder d.run.fails = none → d.status = OK)
    ∧ (∀ st dt, pickFail routeOrder d.run.fails = some (st, dt) → d.status = st ∧ d.detail = dt) ∧ VersionsKept s t

theorem routeEnds_of_quiet {s u : State} {id : Nat} {c : Cmd} (hc : s.cmd? id = some c) (hq : Quiet s u)
    (hb : u.but (Field.among routeFields) = s.but (Field.among routeFields)) (detail : Nat) : RouteEnds s (u.endRoute id detail) id c := by
  obtain ⟨d0, hd0, ho⟩ := hq.2 id c hc
  obtain ⟨d, hd, hphase, hd1, hok, hfail⟩ := State.endRoute_ends hd0 detail
  have hall := (State.endRoute_but ((covers_among routeFields).mono (by decide)) u id detail).trans hb
  have hcomps : (u.endRoute id detail).comps = s.comps := State.comps_kept hall rfl
  have horder := hd1.trans ho
  simp only [Cmd.asks, Prod.mk.injEq] at horder
  obtain ⟨hdesc, howner, hcq⟩ := horder
  exact ⟨d, ⟨hd, hphase, hdesc, howner, hcq, hcomps⟩, (hq.trans (Quiet.endRoute hd0 detail)).hostKept, hok, hfail, State.versions_kept hall rfl⟩

/-- A started command's turn changes nothing. -/
theorem State.unitStart_started {s : State} {id : Nat} {c : Cmd} (hc : s.cmd? id = some c) (hp : c.phase = .started) : s.unitStart id = s := by
  simp only [State.unitStart, State.ensureStart, hc]
  split
  · rfl
  · rw [if_neg (by simp [hp])]

theorem route_started {s : State} {id mode : Nat} {c : Cmd} (h : Live s id 0x0E c) (hp : c.phase = .started) (hm : coMode ((s.planOf c).sec 6) = mode)
    (body : Cmd → Bytes → (Nat → Nat) → State → State) : route mode body id s = body c ((s.planOf c).sec 6) (c.dieOfPos (c.f 36 4)) s := by
  have hc : s.cmd? id = some c := h.2.1
  rw [route, control_live h rfl, if_neg (by simp [hm]), State.unitStart_started hc hp]
  simp only [hc, hp, if_true]

theorem operandOf_isSome {s : State} {c : Cmd} {off : Nat} (h : (s.obj? c.owner (c.f off 4)).isSome = true) (role rows cols batch : Nat) (bcast : Bool) (mx : Int)
    (strict : Bool) (sparse : Option Bool) : ∃ x, operandOf s c role off rows cols batch bcast mx strict sparse = some x := by
  obtain ⟨p, hp⟩ := Option.isSome_iff_exists.1 h
  exact ⟨_, by rw [operandOf, hp]; rfl⟩

theorem covers_route_put : Covers (Field.among routeFields) putFields := (covers_among _).mono (by decide)
theorem covers_route_move : Covers (Field.among routeFields) (putFields ++ lineFields) := (covers_among _).mono (by decide)
theorem covers_route_send : Covers (Field.among routeFields) (sendFields ++ meterFields) := (covers_among _).mono (by decide)
theorem covers_route_note : Covers (Field.among routeFields) [.cmds, .progress] := (covers_among _).mono (by decide)

section
variable {s : State} {id : Nat} {c : Cmd} (h : Live s id 0x0E c) (hp : c.phase = .started)
include h hp

theorem lengthBucket_ends (hm : coMode ((s.planOf c).sec 6) = 1) : ∃ t, exec (.routeLengthBucket id) s = .next t ∧ RouteEnds s t id c := by
  refine ⟨_, congrArg Host.Outcome.next (route_started h hp hm _), ?_⟩
  refine routeEnds_of_quiet h.2.1 ?_ ?_ _
  · exact ((Quiet.exchangeCounts s _ _).trans (Quiet.noteFails _ _ _)).trans ((Quiet.putList _ _ _ _ _).trans (Quiet.putList _ _ _ _ _))
  · refine (State.putList_but covers_route_put _ _ _ _ _).trans ((State.putList_but covers_route_put _ _ _ _ _).trans ?_)
    exact (State.noteFails_but covers_route_note _ _ _).trans (State.exchangeCounts_but covers_route_send _ _ _)

theorem expertDispatch_ends (hm : coMode ((s.planOf c).sec 6) = 2) : ∃ t, exec (.routeExpertDispatch id) s = .next t ∧ RouteEnds s t id c := by
  refine ⟨_, congrArg Host.Outcome.next (route_started h hp hm _), ?_⟩
  refine routeEnds_of_quiet h.2.1 ?_ ?_ _
  · refine Quiet.trans ?_ ((Quiet.putList _ _ _ _ _).trans (Quiet.putList _ _ _ _ _))
    split
    · refine Quiet.then_foldl ?_ _ (fun a i => Quiet.moveRows a _ _ _ _ _ _ _) _
      exact (Quiet.exchangeCounts s _ _).trans (Quiet.noteFails _ _ _)
    · exact (Quiet.exchangeCounts s _ _).trans (Quiet.noteFails _ _ _)
  · refine (State.putList_but covers_route_put _ _ _ _ _).trans ((State.putList_but covers_route_put _ _ _ _ _).trans ?_)
    have hnote := fun owner counts fs =>
      (State.noteFails_but covers_route_note (s.exchangeCounts owner counts) id fs).trans (State.exchangeCounts_but covers_route_send s owner counts)
    split
    · exact (foldl_but _ _ _ fun a i => State.moveRows_but covers_route_move a _ _ _ _ _ _ _).trans (hnote _ _ _)
    · exact hnote _ _ _

theorem lengthPack_ends (hm : coMode ((s.planOf c).sec 6) = 3) (hx : (s.obj? c.owner (c.f 20 4)).isSome = true) (ho : (s.obj? c.owner (c.f 24 4)).isSome = true) :
    ∃ t, exec (.routeLengthPack id) s = .next t ∧ RouteEnds s t id c := by
  obtain ⟨⟨k, o⟩, hko⟩ := Option.isSome_iff_exists.1 ho
  obtain ⟨x, hx⟩ := operandOf_isSome hx 1 (2 ^ 40) (2 ^ 40) (2 ^ 40) false 0 false none
  refine ⟨_, congrArg Host.Outcome.next (route_started h hp hm _), ?_⟩
  simp only [hko, hx]
  refine routeEnds_of_quiet h.2.1 ?_ ?_ _
  · refine Quiet.trans ?_ (Quiet.putList _ _ _ _ _)
    split
    · refine Quiet.then_foldl ?_ _ (fun a i => Quiet.moveRows a _ _ _ _ _ _ _) _
      exact (Quiet.exchangeCounts s _ _).trans (Quiet.noteFails _ _ _)
    · exact (Quiet.exchangeCounts s _ _).trans (Quiet.noteFails _ _ _)
  · refine (State.putList_but covers_route_put _ _ _ _ _).trans ?_
    have hnote := fun owner counts fs =>
      (State.noteFails_but covers_route_note (s.exchangeCounts owner counts) id fs).trans (State.exchangeCounts_but covers_route_send s owner counts)
    split
    · exact (foldl_but _ _ _ fun a i => State.moveRows_but covers_route_move a _ _ _ _ _ _ _).trans (hnote _ _ _)
    · exact hnote _ _ _

theorem expertCombine_ends (hm : coMode ((s.planOf c).sec 6) = 4) (hl : (s.obj? c.owner (c.f 16 4)).isSome = true) (hx : (s.obj? c.owner (c.f 20 4)).isSome = true)
    (ho : (s.obj? c.owner (c.f 24 4)).isSome = true) : ∃ t, exec (.routeExpertCombine id) s = .next t ∧ RouteEnds s t id c := by
  obtain ⟨⟨lk, lo⟩, hlk⟩ := Option.isSome_iff_exists.1 hl
  obtain ⟨⟨k, o⟩, hko⟩ := Option.isSome_iff_exists.1 ho
  obtain ⟨x, hx⟩ := operandOf_isSome hx 1 (2 ^ 40) (2 ^ 40) (2 ^ 40) false 0 false none
  refine ⟨_, congrArg Host.Outcome.next (route_started h hp hm _), ?_⟩
  simp only [hlk, hko, hx]
  refine routeEnds_of_quiet h.2.1 ?_ ?_ _
  · split
    · exact Quiet.noteFails _ _ _
    · refine Quiet.then_foldl (Quiet.noteFails _ _ _) _ (fun a i => Quiet.foldl _ (fun b j => ?_) _ a) _
      exact (Quiet.putIngot b _ _ _ _ _).trans (Quiet.noteFails _ _ _)
  · split
    · exact State.noteFails_but covers_route_note _ _ _
    · refine (foldl_but _ _ _ fun a i => foldl_but _ _ _ fun b j => ?_).trans (State.noteFails_but covers_route_note _ _ _)
      exact (State.noteFails_but covers_route_note _ _ _).trans (State.putIngot_but covers_route_put _ _ _ _ _ _)
end

/-- Settles O52: every mode's body is a chain of quiet steps, and its end judges the failures they noted. -/
theorem routesRun : Obligations.RoutesRun := by
  unfold Obligations.RoutesRun
  intro s id c h hp h3 h4 q hq hm
  have hends : ∃ t, exec q.1 s = .next t ∧ RouteEnds s t id c := by
    simp only [List.mem_cons, List.not_mem_nil, or_false] at hq
    rcases hq with rfl | rfl | rfl | rfl
    · exact lengthBucket_ends h hp hm
    · exact expertDispatch_ends h hp hm
    · exact lengthPack_ends h hp hm (h3 hm).1 (h3 hm).2
    · exact expertCombine_ends h hp hm (h4 hm).1 (h4 hm).2.1 (h4 hm).2.2
  obtain ⟨t, ht, d, hd⟩ := hends
  exact ⟨t, d, ht, hd⟩

end Sys2Proof.Machine
end

section
/-! PROOF. Collectives start, and what their messages do at a running member (R60, R400, R408 to R410, R416). -/

namespace Sys2Proof.Machine

/-! ### What has been handed to the links stays there -/

/-- Every message that waits on a link in the first state waits on it in the second. -/
def Sends (s t : State) : Prop := ∀ x ∈ s.linkOut, x ∈ t.linkOut

theorem Sends.refl (s : State) : Sends s s := fun _ h => h

theorem Sends.trans {s t u : State} (h : Sends s t) (g : Sends t u) : Sends s u := fun x hx => g x (h x hx)

theorem Sends.foldl {α : Type} (f : State → α → State) (hf : ∀ a x, Sends a (f a x)) (l : List α) (s : State) : Sends s (l.foldl f s) := by
  induction l generalizing s with
  | nil => exact Sends.refl s
  | cons x l ih => exact (hf s x).trans (ih _)

theorem Sends.then_foldl {α : Type} {s u : State} (h : Sends s u) (f : State → α → State) (hf : ∀ a x, Sends a (f a x)) (l : List α) : Sends s (l.foldl f u) :=
  h.trans (Sends.foldl f hf l u)

/-- What one step of a fold hands to a link is there at its end. -/
theorem Sends.mem_foldl {α : Type} (f : State → α → State) (hf : ∀ a x, Sends a (f a x)) {l : List α} {x : α} (hx : x ∈ l) {y : Nat × Msg}
    (hy : ∀ a, y ∈ (f a x).linkOut) (s : State) : y ∈ (l.foldl f s).linkOut := by
  induction l generalizing s with
  | nil => exact absurd hx List.not_mem_nil
  | cons z l ih =>
    rcases List.mem_cons.1 hx with e | e
    · subst e
      exact Sends.foldl f hf l _ y (hy s)
    · exact ih e _

/-- A step that does not touch the links hands them nothing and takes nothing from them. -/
theorem Sends.of_but {L : List Field} {s t : State} (h : t.but (Field.among L) = s.but (Field.among L)) (hL : Field.among L .linkOut = false) : Sends s t := by
  have hl : t.linkOut = s.linkOut := State.linkOut_kept h hL
  intro x hx
  rw [hl]
  exact hx

theorem Sends.sendLink (s : State) (l : Nat) (m : Msg) : Sends s (s.sendLink l m) := fun _ hx => List.mem_append_left _ hx

theorem State.mem_sendLink (s : State) (l : Nat) (m : Msg) : (l, m) ∈ (s.sendLink l m).linkOut := List.mem_append_right _ (List.mem_singleton_self _)

theorem Sends.request (s : State) (q part n : Nat) : Sends s (s.request q part n) := Sends.of_but (State.request_but (covers_among _) s q part n) rfl

theorem Sends.sendLinkFor (s : State) (part l : Nat) (m : Msg) : Sends s (s.sendLinkFor part l m) := by
  simp only [State.sendLinkFor]
  split
  · split
    · exact Sends.sendLink s l m
    · exact (Sends.request s _ _ _).trans (Sends.sendLink _ l m)
  · exact Sends.sendLink s l m

theorem State.mem_sendLinkFor (s : State) (part l : Nat) (m : Msg) : (l, m) ∈ (s.sendLinkFor part l m).linkOut := by
  simp only [State.sendLinkFor]
  split
  · split
    · exact State.mem_sendLink s l m
    · exact State.mem_sendLink _ l m
  · exact State.mem_sendLink s l m

/-- A message of a member to a rank of its group. -/
def toRank (m : Msg) (c : Cmd) (k : Coll) (g : Group) (q : Nat) : Msg :=
  { m with group := c.f 16 2, opSeq := clSeq c, attempt := k.attempt, srcRank := g.rank, dstRank := q, length := m.payload.length }

theorem Sends.sendRank (s : State) (c : Cmd) (k : Coll) (g : Group) (q : Nat) (m : Msg) : Sends s (s.sendRank c k g q m) := by
  simp only [State.sendRank]
  split
  · exact Sends.sendLinkFor s _ _ _
  · exact Sends.refl s

theorem State.mem_sendRank (s : State) (c : Cmd) (k : Coll) {g : Group} {q : Nat} {e : Nat × Nat} (he : g.members[q]? = some e) (m : Msg) :
    (e.2, toRank m c k g q) ∈ (s.sendRank c k g q m).linkOut := by
  simp only [State.sendRank, he]
  exact State.mem_sendLinkFor s _ _ _

theorem Sends.setColl (s : State) (id : Nat) (f : Coll → Coll) : Sends s (s.setColl id f) := Sends.of_but (State.setColl_but (covers_among _) s id f) rfl

theorem Sends.setCmd (s : State) (id : Nat) (c : Cmd) : Sends s (s.setCmd id c) := fun _ h => h

theorem Sends.sendAborts (s : State) (c : Cmd) (k : Coll) (g : Group) : Sends s (s.sendAborts c k g) := by
  simp only [State.sendAborts]
  split
  · exact Sends.foldl _ (fun a q => Sends.sendRank a c k g q _) _ s
  · exact Sends.refl s

theorem Sends.sendSource (s : State) (c : Cmd) (k : Coll) (g : Group) (q : Nat) : Sends s (s.sendSource c k g q) := by
  simp only [State.sendSource]
  split
  · exact Sends.foldl _ (fun a sg => Sends.sendRank a c k g q _) _ s
  · exact Sends.refl s

/-! ### Failing, killing and starting again -/

theorem Sends.farewell (s : State) (c : Cmd) (status detail : Nat) : Sends s (s.farewell c status detail) := by
  have hhost : ∀ (u : State) (fn a : Nat) (bs : Bytes), Sends u (u.hostWrite fn a bs) := fun u fn a bs =>
    Sends.of_but (State.hostWrite_but (covers_among _) u fn a bs) rfl
  unfold State.farewell
  extract_lets aux s1 s2
  have h1 : Sends s s1 := by
    unfold s1
    split
    · split
      · split
        · refine Sends.foldl _ (fun a m => ?_) _ s
          split
          · exact Sends.refl a
          · exact Sends.sendLink a _ _
        · exact Sends.refl s
      · exact Sends.refl s
    · exact Sends.refl s
  have h2 : Sends s1 s2 := by
    unfold s2
    split
    · split
      · exact Sends.refl s1
      · exact Sends.sendLink s1 _ _
    · exact Sends.refl s1
  refine (h1.trans h2).trans ?_
  split
  · next k _ =>
    extract_lets s3 up
    have h3 : Sends s2 s3 := by
      unfold s3
      split
      · exact Sends.refl s2
      · exact hhost s2 _ _ _
    have h4 : Sends s3 up := by
      unfold up
      split
      · exact Sends.sendLink s3 _ _
      · exact Sends.refl s3
    refine (h3.trans h4).trans ?_
    split
    · exact Sends.refl up
    · exact Sends.sendLink up _ _
  · exact Sends.refl s2

theorem Sends.failCmd (s : State) (id status detail : Nat) : Sends s (s.failCmd id status detail) := by
  simp only [State.failCmd]
  split
  · exact Sends.refl s
  · next c _ =>
    have hfresh : Sends s s.takeFresh := Sends.of_but (State.takeFresh_but (covers_among _) s) rfl
    have hreport : Sends s.takeFresh (s.takeFresh.reportPoison c.owner status detail) := Sends.of_but (State.reportPoison_but (covers_among _) _ _ _ _) rfl
    refine ((hfresh.trans hreport).trans (Sends.farewell _ c status detail)).trans ?_
    generalize State.farewell _ c status detail = u
    have hundo : Sends u (u.undo c) := Sends.of_but (State.undo_but (covers_among _) u c) rfl
    have htiles : Sends (u.undo c) ((u.undo c).discardTiles id) := Sends.of_but (State.discardTiles_but (covers_among _) _ id) rfl
    exact (hundo.trans htiles).trans (Sends.of_but (State.writeEnd_but (covers_among _) _ _ _ _ _) rfl)

theorem Sends.killCmd (s : State) (id : Nat) (preempt : Bool) : Sends s (s.killCmd id preempt) :=
  Sends.of_but (State.killCmd_but (covers_among _) s id preempt) rfl

theorem Sends.ensureStart (s : State) (id : Nat) : Sends s (s.ensureStart id) := Sends.of_but (State.ensureStart_but (covers_among _) s id) rfl

theorem Sends.collKill (s : State) (id next : Nat) (preempt : Bool) : Sends s (s.collKill id next preempt) := by
  simp only [State.collKill]
  split
  · exact Sends.refl s
  · split
    · exact Sends.failCmd s id _ _
    · refine (Sends.killCmd s id preempt).trans ?_
      split
      · exact Sends.setCmd _ _ _
      · exact Sends.refl _

theorem Sends.collPreempt (s : State) (id : Nat) : Sends s (s.collPreempt id) := by
  simp only [State.collPreempt]
  split
  · exact Sends.refl s
  · split
    · exact (Sends.sendAborts s _ _ _).trans (Sends.collKill _ _ _ _)
    · exact Sends.killCmd s id true

theorem Sends.collHeard (s : State) (id : Nat) : Sends s (s.collHeard id) := by
  simp only [State.collHeard]
  split
  · exact Sends.refl s
  · split
    · split
      · exact (Sends.setColl s id _).trans (Sends.collPreempt _ id)
      · exact Sends.setColl s id _
    · exact Sends.refl s

/-! ### Segments, grants and the end -/

theorem Sends.fireSegment (s : State) (id sg : Nat) : Sends s (s.fireSegment id sg) := by
  simp only [State.fireSegment]
  split
  case h_1 => exact Sends.refl s
  case h_2 c _ =>
    split
    case h_2 => exact Sends.refl s
    case h_1 k g _ _ =>
      split
      case h_1 => exact Sends.refl s
      case h_2 => exact Sends.failCmd s id _ _
      case h_3 =>
        split
        · exact Sends.failCmd s id _ _
        · exact (Sends.sendAborts s _ _ _).trans (Sends.setColl _ _ _)
      case h_4 codes _ =>
        have hsend : ∀ u : State, Sends u (if clOp c = 0 then
            g.others.foldl (fun (a : State) q => a.sendRank c k g q { type := 0x05, segment := sg, payload := codeBytes (clElem c) codes }) u else u) := fun u => by
          split
          · exact Sends.foldl _ (fun a q => Sends.sendRank a c k g q _) _ u
          · exact Sends.refl u
        refine Sends.trans (Sends.trans ?_ (Sends.setColl _ _ _)) (hsend _)
        refine Sends.trans ?_ (Sends.of_but (State.spreadResult_but (covers_among _) _ c sg _ _) rfl)
        exact Sends.of_but (State.dropStaging_but (covers_among _) s _) rfl

theorem Sends.grantSome (s : State) (id fuel : Nat) : Sends s (s.grantSome id fuel) := by
  induction fuel generalizing s with
  | zero => exact Sends.refl s
  | succ fuel ih =>
    unfold State.grantSome
    split
    · exact Sends.refl s
    · split
      · next c _ _ _ k g _ _ =>
        dsimp only
        split
        · exact Sends.refl s
        · refine Sends.trans (Sends.trans ?_ (Sends.fireSegment _ id _)) (ih _)
          exact Sends.then_foldl (Sends.setColl s id _) _ (fun a i => Sends.of_but (State.addLocal_but (covers_among _) a _ _ _ _ _) rfl) _
      · exact Sends.refl s

theorem Sends.advance (s : State) (id : Nat) : Sends s (s.advance id) := by
  simp only [State.advance]
  split
  case h_1 => exact Sends.refl s
  case h_2 c _ =>
    split
    case h_2 => exact Sends.refl s
    case h_1 k g _ _ =>
      split
      case isTrue => exact Sends.refl s
      case isFalse =>
        have hgrant := Sends.grantSome s id (segCount (chunkLen (clCount c) g.members.length g.rank) + 1)
        split
        · exact hgrant
        · split
          · split
            · exact Sends.then_foldl hgrant _ (fun a q => Sends.sendRank a _ _ _ _ _) _
            · exact hgrant
          · exact hgrant

theorem Sends.collFinish (s : State) (id : Nat) : Sends s (s.collFinish id) := by
  simp only [State.collFinish]
  split
  case h_1 => exact Sends.refl s
  case h_2 c _ =>
    split
    case h_2 => exact Sends.refl s
    case h_1 k g _ _ =>
      split
      case isTrue => exact Sends.refl s
      case isFalse =>
        have hdone : Sends s (if (!k.sentDone && collDone c k g) = true then
            (g.others.foldl (fun (a : State) q => a.sendRank c k g q { type := 0x06 }) s).setColl id (fun x => { x with sentDone := true, grace := none })
          else s) := by
          split
          · exact (Sends.foldl _ (fun a q => Sends.sendRank a c k g q _) _ s).trans (Sends.setColl _ _ _)
          · exact Sends.refl s
        split
        · refine hdone.trans (Sends.trans (Sends.of_but (State.writeDst_but (covers_among _) _ id c k) rfl) ?_)
          exact Sends.of_but (State.toReady_but (covers_among _) _ id _) rfl
        · exact hdone

theorem Sends.beginAttempt (s : State) (id : Nat) : Sends s (s.beginAttempt id) := by
  simp only [State.beginAttempt]
  split
  · exact Sends.refl s
  · split
    · exact Sends.failCmd s id _ _
    · split
      · exact Sends.refl s
      · split
        · refine Sends.trans (Sends.trans ?_ (Sends.setCmd _ _ _)) (Sends.failCmd _ id _ _)
          exact Sends.foldl _ (fun a q => Sends.sendRank a _ _ _ _ _) _ s
        · refine Sends.trans (Sends.trans ?_ (Sends.advance _ id)) (Sends.collFinish _ id)
          refine Sends.trans (Sends.trans ?_ (Sends.setCmd _ _ _)) (Sends.of_but (State.ownPart_but (covers_among _) _ id _ _) rfl)
          exact Sends.foldl _ (fun a q => Sends.sendRank a _ _ _ _ _) _ s

theorem Sends.collRestart (s : State) (id next : Nat) : Sends s (s.collRestart id next) :=
  ((Sends.collKill s id next false).trans (Sends.ensureStart _ id)).trans (Sends.beginAttempt _ id)

theorem Sends.mendColl (s : State) (id : Nat) : Sends s (s.mendColl id) := by
  simp only [State.mendColl]
  split
  · split
    · split
      · exact Sends.collRestart s id _
      · exact Sends.refl s
    · exact Sends.refl s
  · exact Sends.refl s

theorem Sends.catchUp (fuel : Nat) (s : State) (id top : Nat) : Sends s (State.catchUp fuel s id top) := by
  induction fuel generalizing s with
  | zero => exact Sends.refl s
  | succ fuel ih =>
    unfold State.catchUp
    split
    · split
      · split
        · exact (Sends.collRestart s id _).trans (ih _)
        · exact Sends.refl s
      · exact Sends.refl s
    · exact Sends.refl s

/-- What follows from an accepted fingerprint. -/
theorem Sends.settleFprint (s : State) (id n : Nat) :
    Sends s ((((((List.range n).foldl (fun (a : State) sg => a.fireSegment id sg) s).advance id).collFinish id).mendColl id).collHeard id) :=
  ((((Sends.foldl _ (fun a sg => Sends.fireSegment a id sg) _ s).trans (Sends.advance _ id)).trans (Sends.collFinish _ id)).trans (Sends.mendColl _ id)).trans
    (Sends.collHeard _ id)

theorem Sends.takeFprint (s : State) (id : Nat) (m : Msg) : Sends s (s.takeFprint id m) := by
  simp only [State.takeFprint]
  split
  case h_1 => exact Sends.refl s
  case h_2 c0 _ =>
    split
    case h_1 => exact Sends.refl s
    case h_2 g _ =>
      split
      case isTrue => exact Sends.refl s
      case isFalse =>
        split
        case isTrue => exact Sends.failCmd s id _ _
        case isFalse =>
          refine (Sends.catchUp (m.attempt - (c0.coll.getD {}).attempt) s id m.attempt).trans ?_
          generalize State.catchUp _ s id m.attempt = s0
          split
          case h_1 => exact Sends.refl s0
          case h_2 c _ =>
            split
            case h_1 => exact Sends.refl s0
            case h_2 k _ =>
              split
              case isTrue => exact fun _ h => h
              case isFalse =>
                split
                case isTrue => exact Sends.refl s0
                case isFalse =>
                  refine Sends.trans (Sends.trans ?_ (Sends.sendSource _ c k g _)) (Sends.settleFprint _ id _)
                  split
                  · exact (Sends.setColl s0 id _).trans (Sends.sendRank _ c k g _ _)
                  · exact Sends.setColl s0 id _

theorem Sends.advanceAll (s : State) : Sends s s.advanceAll := by
  unfold State.advanceAll
  refine Sends.foldl _ (fun a c => ?_) _ s
  exact ((Sends.advance a c.1).trans (Sends.collFinish _ c.1)).trans (Sends.mendColl _ c.1)

/-! ### The start of a collective (R400, R408) -/

/-- A member that opens its attempt sends its fingerprint to every other member. -/
theorem State.beginAttempt_sends {s : State} {id : Nat} {c : Cmd} {g : Group} (hc : s.cmd? id = some c) (hg : NMap.get? s.groups (c.f 16 2) = some g)
    (hp : c.phase = .started) (hn : c.coll = none) {r : Nat} (hr : r ∈ g.others) {e : Nat × Nat} (he : g.members[r]? = some e) :
    ∃ m, (e.2, m) ∈ (s.beginAttempt id).linkOut ∧ m.type = 0x02 ∧ m.dstRank = r ∧ m.srcRank = g.rank ∧ m.opSeq = clSeq c ∧ m.aux = fprintOf (fprintInput c g 0) := by
  simp only [State.beginAttempt, hc, hg, hn, Option.getD_none, hp]
  rw [if_neg (by simp)]
  refine ⟨toRank { type := 0x02, aux := fprintOf (fprintInput c g 0), payload := fprintInput c g 0 ++ leBytes 1 (clSources c) } c {} g r, ?_,
    rfl, rfl, rfl, rfl, rfl⟩
  have hfold := Sends.mem_foldl (fun (a : State) q => a.sendRank c ({} : Coll) g q
    { type := 0x02, aux := fprintOf (fprintInput c g 0), payload := fprintInput c g 0 ++ leBytes 1 (clSources c) }) (fun a q => Sends.sendRank a c _ g q _) hr
    (fun a => State.mem_sendRank a c _ he _) s
  split
  · exact Sends.failCmd _ id _ _ _ (Sends.setCmd _ _ _ _ hfold)
  · refine Sends.collFinish _ id _ (Sends.advance _ id _ ?_)
    exact Sends.of_but (State.ownPart_but (covers_among _) _ id _ _) rfl _ (Sends.setCmd _ _ _ _ hfold)

/-- A COLLECTIVE whose turn has come starts without a word on its attempt. -/
theorem State.ensureStart_collective {s : State} {id : Nat} {c : Cmd} (hc : s.cmd? id = some c) (hp : c.phase = .admitted) (hm : s.mayStart id c = true)
    (hop : c.opcode = 0x07) : ∃ d, (s.ensureStart id).cmd? id = some d ∧ d.phase = .started ∧ d.desc = c.desc ∧ d.coll = c.coll := by
  obtain ⟨vs, hv⟩ := State.capture_eq hc
  have hc1 : (s.capture id).cmd? id = some { c with views := vs } := by rw [hv, State.cmd?_setCmd_same]
  have hc2 := (congrArg (·.cmd? id) (State.startCmd_eq hc1 hp)).trans (State.cmd?_setCmd_same ..)
  simp only [State.ensureStart, hc]
  rw [if_pos (by simp [hp, hm]), if_neg (by simp [hop])]
  exact ⟨_, hc2, rfl, rfl, rfl⟩

theorem State.collStart_sends {s : State} {id : Nat} {c : Cmd} {g : Group} (hc : s.cmd? id = some c) (hop : c.opcode = 0x07) (hn : c.coll = none)
    (hg : NMap.get? s.groups (c.f 16 2) = some g) (he : s.eligible id c = true) (ha : s.unitAhead id c = false) {r : Nat} (hr : r ∈ g.others) {e : Nat × Nat}
    (hm : g.members[r]? = some e) :
    ∃ m, (e.2, m) ∈ (s.collStart id).linkOut ∧ m.type = 0x02 ∧ m.dstRank = r ∧ m.srcRank = g.rank ∧ m.opSeq = clSeq c ∧ m.aux = fprintOf (fprintInput c g 0) := by
  obtain ⟨hp, hmay, -⟩ := State.eligible_parts he
  obtain ⟨d, hd, hphase, hdesc, hcoll⟩ := State.ensureStart_collective hc hp hmay hop
  have hstart : (s.unitStart id).groups = s.groups := State.groups_kept (State.unitStart_but (covers_among _) s id) rfl
  have hg' : NMap.get? (s.unitStart id).groups (d.f 16 2) = some g := by
    rw [hstart, show d.f 16 2 = c.f 16 2 from congrArg (fun b => fld b 16 2) hdesc]
    exact hg
  rw [← State.unitStart_turn hc ha] at hd
  obtain ⟨m, hmem, htype, hdst, hsrc, hseq, haux⟩ := State.beginAttempt_sends hd hg' hphase (hcoll.trans hn) hr hm
  refine ⟨m, ?_, htype, hdst, hsrc, hseq.trans (congrArg (fun b => fld b 24 4) hdesc), haux.trans ?_⟩
  · simp only [State.collStart, hc, hn, Option.getD_none]
    rw [if_neg (by simp)]
    have hopen : (e.2, m) ∈ ((s.unitStart id).collOpen id).linkOut := Sends.mendColl _ id _ hmem
    split
    · split
      · exact Sends.trans (Sends.foldl _ (fun a w => Sends.takeFprint a id w) _ _) (Sends.advanceAll _) _ hopen
      · exact hopen
    · exact hopen
  · simp only [fprintInput, clOp, clElem, clCount, clSeq, clRoot, Cmd.f, hdesc]

/-! ### Messages at a running member -/

section
variable {s : State} {link id : Nat} {m : Msg} {c : Cmd} {k : Coll} {g : Group} (h : MemberRuns s link m id c k g)
include h

theorem collMsg_member {type : Nat} (ht : m.type = type) (f : Nat → Cmd → Coll → Group → State → State) :
    collMsg type link m f s = f id c k g (s.deliver link m) := by
  obtain ⟨⟨hlink, hflows⟩, hg, hdst, hfor, hc, hcoll, hp, hat⟩ := h
  have hfl : ((s.deliver link m).linkAt link).flows = true := hflows
  have hgr : (s.deliver link m).groupOf m = some g := hg
  have hco : (s.deliver link m).collFor m = some (id, c) := hfor
  simp only [collMsg, hfl, hgr, hco, hlink, ht, hdst, hcoll, hat, decide_true, Bool.and_self, Bool.not_true, Bool.false_eq_true, if_false, ne_eq, not_true,
    Option.getD_some, lt_irrefl]

theorem MemberRuns.group_found : c.f 16 2 = m.group := by
  obtain ⟨-, -, -, hfor, -⟩ := h
  have hfind := List.find?_some hfor
  simp only [Bool.and_eq_true, decide_eq_true_eq] at hfind
  exact hfind.1.2

theorem execFprint_member (ht : m.type = 0x02) : exec (.fprint link m) s = .next (((s.deliver link m).takeFprint id m).advanceAll) := by
  obtain ⟨⟨hlink, hflows⟩, hg, hdst, hfor, hc, hcoll, hp, hat⟩ := h
  have hfl : ((s.deliver link m).linkAt link).flows = true := hflows
  have hgr : (s.deliver link m).groupOf m = some g := hg
  have hco : (s.deliver link m).fprintFor m = some (id, c) := by
    have hf : (s.deliver link m).collFor m = some (id, c) := hfor
    simp only [State.fprintFor, hf]
  show execFprint link m s = _
  simp only [execFprint, hfl, hgr, hco, hlink, ht, hdst, hp, decide_true, Bool.and_self, Bool.not_true, Bool.false_eq_true, if_false, ne_eq, not_true,
    reduceCtorEq]

/-- A fingerprint of another input fails the member (R408). -/
theorem takeFprint_mismatch (hm : m.aux ≠ fprintOf (fprintInput c g k.attempt)) :
    (s.deliver link m).takeFprint id m
      = (s.deliver link m).failCmd id E_COLL_MISMATCH (m.srcRank * 256 + fprintDiff (fprintInput c g k.attempt) (m.payload.take 24)) := by
  have hgroup := MemberRuns.group_found h
  obtain ⟨-, hg, -, -, hc, hcoll, hp, hat⟩ := h
  have hc' : (s.deliver link m).cmd? id = some c := hc
  have hg' : NMap.get? (s.deliver link m).groups (c.f 16 2) = some g := by rw [hgroup]; exact hg
  simp only [State.takeFprint, hc', hg', hcoll, hp, hat, Option.getD_some, lt_irrefl, ne_eq, not_true, or_self, if_false]
  rw [if_pos hm]

omit h in

theorem State.segCodes_setColl (s : State) (id : Nat) (f : Coll → Coll) : (s.setColl id f).segCodes = s.segCodes := by
  unfold State.setColl
  split
  · rfl
  · rfl

/-- An equal fingerprint of a new rank has the source of an ALL_GATHER sent to it (R408). -/
theorem takeFprint_gathers (hnew : k.fprints.any (fun p => p.1 == m.srcRank) = false) (hm : m.aux = fprintOf (fprintInput c g k.attempt)) (hop : clOp c = 2)
    {e : Nat × Nat} (he : g.members[m.srcRank]? = some e) {sg : Nat} (hsg : sg < segCount (clCount c)) :
    ∃ x, (e.2, x) ∈ ((s.deliver link m).takeFprint id m).linkOut ∧ x.type = 0x05 ∧ x.segment = sg ∧ x.dstRank = m.srcRank
      ∧ x.payload = codeBytes (clElem c) (s.segCodes c g.members.length g.rank 0 sg) := by
  have hgroup := MemberRuns.group_found h
  obtain ⟨-, hg, -, -, hc, hcoll, hp, hat⟩ := h
  have hc' : (s.deliver link m).cmd? id = some c := hc
  have hg' : NMap.get? (s.deliver link m).groups (c.f 16 2) = some g := by rw [hgroup]; exact hg
  have hred : clReduces c = false := by simp [clReduces, hop]
  refine ⟨toRank { type := 0x05, segment := sg, payload := codeBytes (clElem c) (s.segCodes c g.members.length g.rank 0 sg) } c k g m.srcRank, ?_,
    rfl, rfl, rfl, rfl⟩
  simp only [State.takeFprint, hc', hg', hcoll, hp, hat, hm, hnew, hred, Option.getD_some, lt_irrefl, ne_eq, not_true, or_self, if_false, Nat.sub_self,
    State.catchUp, reduceCtorEq, Bool.false_eq_true, false_and]
  refine Sends.settleFprint _ id _ _ ?_
  simp only [State.sendSource, hop, true_or, if_true]
  refine Sends.mem_foldl _ (fun a j => ?_) (List.mem_range.2 hsg) (fun a => ?_) _
  · exact Sends.sendRank a c k g _ _
  · rw [State.segCodes_setColl]
    exact State.mem_sendRank a c k he _

/-- A grant has every newly granted segment of every source sent to its rank (R409). -/
theorem execGrant_sends (ht : m.type = 0x03) (hred : clReduces c = true) (hq : m.srcRank ≠ g.rank) (hknown : k.fprints.any (fun p => p.1 == m.srcRank) = true)
    (htop : k.grantOf m.srcRank < min m.aux (segCount (chunkLen (clCount c) g.members.length m.srcRank))) {e : Nat × Nat}
    (he : g.members[m.srcRank]? = some e) :
    ∃ t, exec (.grant link m) s = .next t
      ∧ ∀ sg, k.grantOf m.srcRank ≤ sg → sg < min m.aux (segCount (chunkLen (clCount c) g.members.length m.srcRank)) → ∀ i < clSources c,
        ∃ x, (e.2, x) ∈ t.linkOut ∧ x.type = 0x04 ∧ x.segment = sg ∧ x.source = i ∧ x.dstRank = m.srcRank
          ∧ x.payload = codeBytes (clElem c) (s.segCodes c g.members.length m.srcRank i sg) := by
  refine ⟨_, congrArg Host.Outcome.next (collMsg_member h ht _), fun sg hlo hhi i hi => ?_⟩
  obtain ⟨-, -, -, -, -, -, hp, hat⟩ := h
  refine ⟨toRank { type := 0x04, segment := sg, source := i, payload := codeBytes (clElem c) (s.segCodes c g.members.length m.srcRank i sg) } c k g m.srcRank,
    ?_, rfl, rfl, rfl, rfl, rfl⟩
  dsimp only
  rw [if_neg (by simp only [hp, hat, hred, hknown, hq, Nat.not_le.2 htop]; simp)]
  refine Sends.trans (Sends.setColl _ id _) ((Sends.collFinish _ id).trans (Sends.collHeard _ id)) _ ?_
  have hj : sg - k.grantOf m.srcRank ∈ List.range (min m.aux (segCount (chunkLen (clCount c) g.members.length m.srcRank)) - k.grantOf m.srcRank) :=
    List.mem_range.2 (by omega)
  refine Sends.mem_foldl _ (fun a j => Sends.foldl _ (fun b i => Sends.sendRank b c k g _ _) _ a) hj (fun a => ?_) _
  refine Sends.mem_foldl _ (fun b i => Sends.sendRank b c k g _ _) (List.mem_range.2 hi) (fun b => ?_) _
  rw [show k.grantOf m.srcRank + (sg - k.grantOf m.srcRank) = sg by omega]
  exact State.mem_sendRank b c k he _

/-- A contribution that is due and new is added, or fails the member when a code is not finite (R409). -/
theorem execContrib_member (ht : m.type = 0x04) (hred : clReduces c = true) (hseg : m.segment < k.grantOf g.rank)
    (hknown : k.fprints.any (fun p => p.1 == m.srcRank && decide (m.source < p.2)) = true) (hnew : k.seen.contains (m.srcRank, m.segment, m.source) = false)
    (hlen : (codesOf (clElem c) m.payload).length = segLen (chunkLen (clCount c) g.members.length g.rank) m.segment) :
    exec (.contrib link m) s = .next (
      if ((codesOf (clElem c) m.payload).map (elemInt (clElem c))).all Option.isSome = true then
        ((((((s.deliver link m).farAdds c.owner link (m.segment % 8) (5 * (codesOf (clElem c) m.payload).length)).addContrib id m.srcRank m.segment m.source
          (((codesOf (clElem c) m.payload).map (elemInt (clElem c))).map (·.getD 0))).fireSegment id m.segment).advanceAll).collHeard id)
      else (s.deliver link m).failCmd id E_NONFINITE 1) := by
  refine congrArg Host.Outcome.next ((collMsg_member h ht _).trans ?_)
  obtain ⟨-, -, -, -, -, -, hp, hat⟩ := h
  dsimp only
  rw [if_neg (by simp only [hp, hat, hred, hknown, hnew, hlen, Nat.not_le.2 hseg]; simp)]
  split
  · next hbad => rw [if_neg (by simpa using hbad)]
  · next hgood => rw [if_pos (by simpa only [Bool.not_eq_true', Bool.not_eq_false] using hgood)]

/-- A result that is due is stored (R410). -/
theorem execResult_member (ht : m.type = 0x05) (hq : m.srcRank ≠ g.rank) (hn : m.srcRank < g.members.length)
    (hdue : clOp c = 0 ∨ clOp c = 2 ∨ (clOp c = 3 ∧ m.srcRank = clRoot c))
    (hlen : (codesOf (clElem c) m.payload).length = segLen (clRun c g.members.length m.srcRank).2 m.segment)
    (hfin : (codesOf (clElem c) m.payload).all (fun v => (elemInt (clElem c) v).isSome) = true) :
    exec (.result link m) s = .next ((((s.deliver link m).setColl id (fun x =>
      putOut x (clDest c g.members.length m.srcRank m.segment) (codesOf (clElem c) m.payload))).collFinish id).collHeard id) := by
  refine congrArg Host.Outcome.next ((collMsg_member h ht _).trans ?_)
  obtain ⟨-, -, -, -, -, -, hp, hat⟩ := h
  have hd : (clOp c == 0 || clOp c == 2 || (clOp c == 3 && m.srcRank == clRoot c)) = true := by
    simpa [or_assoc] using hdue
  dsimp only
  rw [if_neg (by simp only [hp, hat, hd, hlen, hq, Nat.not_le.2 hn]; simp), if_neg (by simp only [hfin]; simp)]

/-- A DONE that is new is noted (R416). -/
theorem execDone_member (ht : m.type = 0x06) (hnew : k.dones.contains m.srcRank = false) :
    exec (.done link m) s = .next ((((s.deliver link m).setColl id (fun x => { x with dones := x.dones ++ [m.srcRank] })).collFinish id).collHeard id) := by
  refine congrArg Host.Outcome.next ((collMsg_member h ht _).trans ?_)
  obtain ⟨-, -, -, -, -, -, hp, hat⟩ := h
  rw [if_neg (by simp only [hp, hat, hnew]; simp)]
end

/-- A fingerprint with no running member to take it waits (R408). -/
theorem execFprint_waits {s : State} {link : Nat} {m : Msg} {g : Group} (hl : LinkServes s link) (ht : m.type = 0x02) (hg : NMap.get? s.groups m.group = some g)
    (hdst : m.dstRank = g.rank) (hfor : s.fprintFor m = none ∨ ∃ x, s.fprintFor m = some x ∧ x.2.phase = .admitted) :
    ∃ t, exec (.fprint link m) s = .next t ∧ t.fprintWait = s.fprintWait ++ [m] := by
  obtain ⟨hlink, hflows⟩ := hl
  have hfl : ((s.deliver link m).linkAt link).flows = true := hflows
  have hgr : (s.deliver link m).groupOf m = some g := hg
  have hexec : exec (.fprint link m) s = .next { s.deliver link m with fprintWait := (s.deliver link m).fprintWait ++ [m] } := by
    show execFprint link m s = _
    simp only [execFprint, hfl, hgr, hlink, ht, hdst, decide_true, Bool.and_self, Bool.not_true, Bool.false_eq_true, if_false, ne_eq, not_true]
    rcases hfor with hf | ⟨⟨j, d⟩, hf, hp⟩
    · have hf' : (s.deliver link m).fprintFor m = none := hf
      simp only [hf']
    · have hf' : (s.deliver link m).fprintFor m = some (j, d) := hf
      have hp' : d.phase = .admitted := hp
      simp only [hf', hp', if_true]
  exact ⟨_, hexec, rfl⟩

/-- What a COLLECTIVE does whose turn has come. -/
theorem collective_live {s : State} {id op : Nat} {c : Cmd} (h : Live s id 0x07 c) (hop : clOp c = op) (he : s.eligible id c = true) :
    collective op id s = s.collStart id := by
  obtain ⟨-, -, hahead⟩ := State.eligible_parts he
  rw [collective, control_live h (sel := fun c => clOp c == op) (by simp [hop])]
  simp only [hahead, Bool.false_eq_true, if_false]

/-- Settles O44: the start's fingerprints and a message's answers are handed to the links, and no later step takes a message back. -/
theorem collectiveMessagesAct : Obligations.CollectiveMessagesAct := by
  unfold Obligations.CollectiveMessagesAct
  refine ⟨fun s id c g h hn hg he ha _ q hq hop => ?_, fun s link m g hl ht hg hd hf => execFprint_waits hl ht hg hd hf, fun s link id m c k g h =>
    ⟨fun ht => ⟨fun hm => ?_, fun hnew hm hop e he => ?_⟩,
      fun ht hred hq hk htop e he => execGrant_sends h ht hred hq hk htop he,
      fun ht hred hseg hk hnew hlen => execContrib_member h ht hred hseg hk hnew hlen,
      fun ht hq hn hdue hlen hfin => execResult_member h ht hq hn hdue hlen hfin,
      fun ht hnew => execDone_member h ht hnew⟩⟩
  · have hexec : exec q.1 s = .next (s.collStart id) := by
      simp only [List.mem_cons, List.not_mem_nil, or_false] at hq
      rcases hq with rfl | rfl | rfl | rfl
      · exact congrArg Host.Outcome.next (collective_live h hop he)
      · exact congrArg Host.Outcome.next (collective_live h hop he)
      · exact congrArg Host.Outcome.next (collective_live h hop he)
      · exact congrArg Host.Outcome.next (collective_live h hop he)
    exact ⟨_, hexec, fun r hr e hm => State.collStart_sends h.2.1 h.2.2.1 hn hg he ha hr hm⟩
  · rw [execFprint_member h ht, takeFprint_mismatch h hm]
  · refine ⟨_, execFprint_member h ht, fun sg hsg => ?_⟩
    obtain ⟨x, hx, hx'⟩ := takeFprint_gathers h hnew hm hop he hsg
    exact ⟨x, Sends.advanceAll _ _ hx, hx'⟩

end Sys2Proof.Machine
end

section
/-! PROOF. R71, R78, R95: a magnitude code is a whole number of grid steps, magnitudes rise with their codes, and rounding takes the nearer of the two codes
about a value, the even one half way. -/

namespace Sys2Proof.Machine

theorem ratAbs_eq_abs (q : Rat) : ratAbs q = |q| := by
  unfold ratAbs
  split
  · exact (abs_of_neg ‹_›).symm
  · exact (abs_of_nonneg (not_lt.1 ‹_›)).symm

theorem pow2_eq_zpow (e : Int) : pow2 e = (2 : Rat) ^ e := by
  unfold pow2
  split
  · next h =>
    obtain ⟨n, rfl⟩ := Int.eq_ofNat_of_zero_le h
    simp
  · next h =>
    obtain ⟨n, hn⟩ := Int.eq_ofNat_of_zero_le (show 0 ≤ -e by omega)
    rw [show e = -(n : Int) by omega]
    simp

theorem pow2_pos (e : Int) : 0 < pow2 e := by
  rw [pow2_eq_zpow]
  positivity

/-- A positive rational lies in the binade of its numerator's over its denominator's, or in the one below. -/
theorem log2_quotient_bounds {q : Rat} (hq : 0 < q) :
    (2 : Rat) ^ ((Nat.log2 q.num.natAbs : Int) - Nat.log2 q.den - 1) ≤ q ∧ q < (2 : Rat) ^ ((Nat.log2 q.num.natAbs : Int) - Nat.log2 q.den + 1) := by
  have hnum : q.num.natAbs ≠ 0 := by simpa using hq.ne'
  have hden : (0 : Rat) < q.den := by exact_mod_cast q.den_pos
  have hval : q = (q.num.natAbs : Rat) / q.den := by
    conv_lhs => rw [← Rat.num_div_den q]
    rw [Nat.cast_natAbs, abs_of_pos (Rat.num_pos.2 hq)]
  have num_ge : (2 : Rat) ^ (Nat.log2 q.num.natAbs : Int) ≤ q.num.natAbs := by exact_mod_cast Nat.log2_self_le hnum
  have num_lt : (q.num.natAbs : Rat) < 2 ^ ((Nat.log2 q.num.natAbs : Int) + 1) := by exact_mod_cast Nat.lt_log2_self
  have den_ge : (2 : Rat) ^ (Nat.log2 q.den : Int) ≤ q.den := by exact_mod_cast Nat.log2_self_le q.den_nz
  have den_lt : (q.den : Rat) < 2 ^ ((Nat.log2 q.den : Int) + 1) := by exact_mod_cast Nat.lt_log2_self
  generalize Nat.log2 q.num.natAbs = a at *
  generalize Nat.log2 q.den = b at *
  constructor
  · calc (2 : Rat) ^ ((a : Int) - b - 1) = 2 ^ (a : Int) / 2 ^ ((b : Int) + 1) := by rw [← zpow_sub₀ two_ne_zero]; congr 1; omega
      _ ≤ q.num.natAbs / q.den := by gcongr
      _ = q := hval.symm
  · calc q = q.num.natAbs / q.den := hval
      _ < 2 ^ ((a : Int) + 1) / 2 ^ (b : Int) := by gcongr
      _ = 2 ^ ((a : Int) - b + 1) := by rw [← zpow_sub₀ two_ne_zero]; congr 1; omega

theorem floorLog2_bounds {q : Rat} (hq : 0 < q) : pow2 (floorLog2 q) ≤ q ∧ q < pow2 (floorLog2 q + 1) := by
  obtain ⟨lo, hi⟩ := log2_quotient_bounds hq
  simp only [floorLog2, pow2_eq_zpow]
  generalize (Nat.log2 q.num.natAbs : Int) - Nat.log2 q.den = e at *
  split
  · next h =>
    rw [if_neg (not_le.2 hi)]
    exact ⟨h, hi⟩
  · next h => exact ⟨lo, by rw [sub_add_cancel]; exact not_le.1 h⟩

section
variable {f : Layout} {e : Int} {r : Nat}

/-- The code of `r` grid steps stands for `r` grid steps: below one binade on the lowest grid only, and up to the first step of the binade above. -/
theorem Layout.magnitude_codeAt (he : 1 - f.bias - f.mb ≤ e) (hr : r ≤ 2 * 2 ^ f.mb) (hn : e = 1 - f.bias - f.mb ∨ 2 ^ f.mb ≤ r) :
    f.magnitude (f.codeAt e r) = r * pow2 e := by
  obtain ⟨g, hg⟩ := Int.eq_ofNat_of_zero_le (show 0 ≤ e + f.mb + f.bias - 1 by omega)
  have hpos := Nat.two_pow_pos f.mb
  have hcode : f.codeAt e r = g * 2 ^ f.mb + r := by rw [Layout.codeAt, hg]; rfl
  have digits : ∀ k m, m < 2 ^ f.mb → (k * 2 ^ f.mb + m) / 2 ^ f.mb = k ∧ (k * 2 ^ f.mb + m) % 2 ^ f.mb = m := fun k m hm =>
    ⟨by rw [Nat.mul_comm, Nat.mul_add_div hpos, Nat.div_eq_of_lt hm, Nat.add_zero], by rw [Nat.mul_comm, Nat.mul_add_mod, Nat.mod_eq_of_lt hm]⟩
  rw [hcode]
  rcases lt_or_ge r (2 ^ f.mb) with low | low
  · have hg0 : g = 0 := by omega
    obtain ⟨hd, hm⟩ := digits g r low
    simp only [Layout.magnitude, hd, hm, if_pos hg0]
    rw [show e = 1 - f.bias - f.mb by omega]
  · rcases lt_or_ge r (2 * 2 ^ f.mb) with high | high
    · obtain ⟨hd, hm⟩ := digits (g + 1) (r - 2 ^ f.mb) (by omega)
      have hs : g * 2 ^ f.mb + r = (g + 1) * 2 ^ f.mb + (r - 2 ^ f.mb) := by rw [Nat.succ_mul]; omega
      simp only [Layout.magnitude, hs, hd, hm, Nat.succ_ne_zero, if_false]
      rw [Nat.add_sub_cancel' low, show ((g + 1 : Nat) : Int) - f.bias - f.mb = e by omega]
    · obtain ⟨hd, hm⟩ := digits (g + 2) 0 hpos
      have hr2 : r = 2 * 2 ^ f.mb := by omega
      have hs : g * 2 ^ f.mb + r = (g + 2) * 2 ^ f.mb + 0 := by rw [hr2, Nat.add_mul]; omega
      simp only [Layout.magnitude, hs, hd, hm, Nat.succ_ne_zero, if_false]
      rw [show ((g + 2 : Nat) : Int) - f.bias - f.mb = e + 1 by omega, hr2, pow2_eq_zpow, pow2_eq_zpow, zpow_add_one₀ two_ne_zero]
      push_cast
      ring

theorem Layout.codeAt_succ (f : Layout) (e : Int) (r : Nat) : f.codeAt e (r + 1) = f.codeAt e r + 1 := rfl

end

/-- Every code is a number of steps of the grid of its binade, short of the binade above. -/
theorem Layout.exists_codeAt (f : Layout) (n : Nat) :
    ∃ e r, 1 - f.bias - f.mb ≤ e ∧ r < 2 * 2 ^ f.mb ∧ (e = 1 - f.bias - f.mb ∨ 2 ^ f.mb ≤ r) ∧ n = f.codeAt e r := by
  have hpos := Nat.two_pow_pos f.mb
  have hlt := Nat.mod_lt n hpos
  have hdm := Nat.div_add_mod n (2 ^ f.mb)
  rw [Nat.mul_comm] at hdm
  unfold Layout.codeAt
  cases hk : n / 2 ^ f.mb with
  | zero =>
    refine ⟨1 - f.bias - f.mb, n % 2 ^ f.mb, le_refl _, by omega, Or.inl rfl, ?_⟩
    rw [show (1 - f.bias - f.mb + f.mb + f.bias - 1).toNat = 0 by omega]
    rw [hk] at hdm
    exact hdm.symm
  | succ k =>
    refine ⟨k + 1 - f.bias - f.mb, 2 ^ f.mb + n % 2 ^ f.mb, by omega, by omega, Or.inr (by omega), ?_⟩
    rw [show ((k : Int) + 1 - f.bias - f.mb + f.mb + f.bias - 1).toNat = k by omega]
    rw [hk, Nat.succ_mul] at hdm
    omega

/-- A greater code has the greater magnitude (R71). -/
theorem Layout.magnitude_strictMono (f : Layout) : StrictMono f.magnitude := by
  refine strictMono_nat_of_lt_succ fun n => ?_
  obtain ⟨e, r, he, hr, hn, rfl⟩ := f.exists_codeAt n
  rw [← Layout.codeAt_succ, Layout.magnitude_codeAt he hr.le hn, Layout.magnitude_codeAt he hr (hn.imp_right Nat.le_succ_of_le)]
  exact mul_lt_mul_of_pos_right (by exact_mod_cast Nat.lt_succ_self r) (pow2_pos e)

/-! ### The two codes about a value -/

/-- The whole part of a non-negative rational, and which side of it the nearest integer takes. -/
theorem nearestEven_cases {q : Rat} (hq : 0 ≤ q) :
    ((q.floor.toNat : Rat) ≤ q ∧ q < q.floor.toNat + 1)
    ∧ (q - q.floor.toNat < q.floor.toNat + 1 - q ∧ nearestEven q = q.floor.toNat
      ∨ (q.floor.toNat + 1 - q < q - q.floor.toNat ∧ nearestEven q = q.floor.toNat + 1)
      ∨ (q - q.floor.toNat = q.floor.toNat + 1 - q ∧ (nearestEven q = q.floor.toNat ∨ nearestEven q = q.floor.toNat + 1) ∧ nearestEven q % 2 = 0)) := by
  have hfloor : (q.floor.toNat : Rat) = (⌊q⌋ : Int) := by
    exact_mod_cast congrArg (Int.cast (R := Rat)) (Int.toNat_of_nonneg (Int.floor_nonneg.2 hq))
  refine ⟨by rw [hfloor]; exact ⟨Int.floor_le q, Int.lt_floor_add_one q⟩, ?_⟩
  unfold nearestEven
  generalize q.floor.toNat = n
  rcases lt_trichotomy (q - n) (1 / 2) with h | h | h
  · exact Or.inl ⟨by linarith, if_pos h⟩
  · refine Or.inr (Or.inr ⟨by linarith, ?_⟩)
    simp only [h, lt_irrefl, if_false]
    split
    · exact ⟨Or.inl rfl, ‹_›⟩
    · exact ⟨Or.inr rfl, by omega⟩
  · refine Or.inr (Or.inl ⟨by linarith, ?_⟩)
    simp only [not_lt.2 h.le, h, if_false, if_true]

/-- A positive value counted in its own grid steps: fewer than two binades' codes, and a full binade's but on the lowest grid. -/
theorem Layout.stepExp_bounds (f : Layout) {q : Rat} (hq : 0 < q) :
    1 - f.bias - f.mb ≤ f.stepExp q ∧ q / pow2 (f.stepExp q) < (2 * 2 ^ f.mb : Nat)
    ∧ (f.stepExp q = 1 - f.bias - f.mb ∨ ((2 ^ f.mb : Nat) : Rat) ≤ q / pow2 (f.stepExp q)) := by
  obtain ⟨lo, hi⟩ := floorLog2_bounds hq
  have scale : ∀ k : Int, pow2 (k + f.mb) = ((2 ^ f.mb : Nat) : Rat) * pow2 k := fun k => by
    rw [pow2_eq_zpow, pow2_eq_zpow, zpow_add₀ two_ne_zero, mul_comm]
    simp
  have hmax : f.stepExp q = max (floorLog2 q) (1 - f.bias) - f.mb := rfl
  refine ⟨by omega, ?_, ?_⟩
  · rw [div_lt_iff₀ (pow2_pos _)]
    calc q < pow2 (floorLog2 q + 1) := hi
      _ ≤ pow2 (f.stepExp q + 1 + f.mb) := by rw [pow2_eq_zpow, pow2_eq_zpow]; exact zpow_le_zpow_right₀ one_le_two (by omega)
      _ = (2 * 2 ^ f.mb : Nat) * pow2 (f.stepExp q) := by
        rw [scale, pow2_eq_zpow, pow2_eq_zpow, zpow_add_one₀ two_ne_zero]
        push_cast
        ring
  · refine or_iff_not_imp_left.2 fun hne => ?_
    rw [le_div_iff₀ (pow2_pos _), ← scale, show f.stepExp q + f.mb = floorLog2 q by omega]
    exact lo

/-- The value `q` lies between two codes that follow each other, and rounding takes the nearer, or the even one of them half way (R78). -/
def Layout.RoundsAbout (f : Layout) (q : Rat) (b : Nat) : Prop :=
  (f.magnitude b ≤ q ∧ q < f.magnitude (b + 1))
  ∧ (q - f.magnitude b < f.magnitude (b + 1) - q ∧ f.nearest q = b
    ∨ (f.magnitude (b + 1) - q < q - f.magnitude b ∧ f.nearest q = b + 1)
    ∨ (q - f.magnitude b = f.magnitude (b + 1) - q ∧ (f.nearest q = b ∨ f.nearest q = b + 1) ∧ f.nearest q % 2 = 0))

/-- Codes of a layout with a mantissa have the parity of their count of grid steps. -/
theorem Layout.codeAt_mod_two {f : Layout} (hmb : f.mb ≠ 0) (e : Int) (r : Nat) : f.codeAt e r % 2 = r % 2 := by
  obtain ⟨k, hk⟩ := Nat.exists_eq_succ_of_ne_zero hmb
  rw [Layout.codeAt, hk, Nat.pow_succ, ← Nat.mul_assoc]
  omega

theorem Layout.magnitude_zero (f : Layout) : f.magnitude 0 = 0 := by simp [Layout.magnitude]

theorem Layout.roundsAbout_zero (f : Layout) : f.RoundsAbout 0 0 := by
  have h1 : 0 < f.magnitude 1 := f.magnitude_zero ▸ f.magnitude_strictMono Nat.zero_lt_one
  unfold Layout.RoundsAbout
  rw [f.magnitude_zero]
  exact ⟨⟨le_refl _, h1⟩, Or.inl ⟨by linarith, if_pos (le_refl _)⟩⟩

/-- Rounding to a layout is rounding to the nearest grid step, ties to even, carried over to codes (R78). -/
theorem Layout.roundsAbout_of_pos {f : Layout} (hmb : f.mb ≠ 0) {q : Rat} (hq : 0 < q) :
    f.RoundsAbout q (f.codeAt (f.stepExp q) (q / pow2 (f.stepExp q)).floor.toNat) := by
  obtain ⟨he, hx, hn⟩ := f.stepExp_bounds hq
  have hnear : f.nearest q = f.codeAt (f.stepExp q) (nearestEven (q / pow2 (f.stepExp q))) := if_neg (not_le.2 hq)
  have hp := pow2_pos (f.stepExp q)
  have hqx : q = q / pow2 (f.stepExp q) * pow2 (f.stepExp q) := (div_mul_cancel₀ q hp.ne').symm
  have hx0 : 0 ≤ q / pow2 (f.stepExp q) := (div_pos hq hp).le
  generalize q / pow2 (f.stepExp q) = x at *
  generalize f.stepExp q = e at *
  obtain ⟨⟨hle, hlt⟩, hcases⟩ := nearestEven_cases hx0
  generalize x.floor.toNat = n at *
  have hn2 : n < 2 * 2 ^ f.mb := by exact_mod_cast hle.trans_lt hx
  have hn1 : e = 1 - f.bias - f.mb ∨ 2 ^ f.mb ≤ n := hn.imp_right fun h => Nat.lt_succ_iff.1 (by exact_mod_cast h.trans_lt hlt)
  have mag : f.magnitude (f.codeAt e n) = n * pow2 e := Layout.magnitude_codeAt he hn2.le hn1
  have mag_succ : f.magnitude (f.codeAt e n + 1) = (n + 1) * pow2 e := by
    rw [← Layout.codeAt_succ, Layout.magnitude_codeAt he hn2 (hn1.imp_right Nat.le_succ_of_le)]
    push_cast
    rfl
  have gap_below : q - n * pow2 e = (x - n) * pow2 e := by rw [hqx]; ring
  have gap_above : (n + 1) * pow2 e - q = (n + 1 - x) * pow2 e := by rw [hqx]; ring
  unfold Layout.RoundsAbout
  rw [hnear, mag, mag_succ, gap_below, gap_above]
  refine ⟨⟨?_, ?_⟩, ?_⟩
  · rw [hqx]; exact mul_le_mul_of_nonneg_right hle hp.le
  · rw [hqx]; exact mul_lt_mul_of_pos_right hlt hp
  · rw [mul_lt_mul_iff_left₀ hp, mul_lt_mul_iff_left₀ hp, mul_left_inj' hp.ne', Layout.codeAt_mod_two hmb]
    rcases hcases with ⟨h, hr⟩ | ⟨h, hr⟩ | ⟨h, hr, heven⟩
    · exact Or.inl ⟨h, by rw [hr]⟩
    · exact Or.inr (Or.inl ⟨h, by rw [hr, Layout.codeAt_succ]⟩)
    · exact Or.inr (Or.inr ⟨h, hr.imp (fun h => by rw [h]) (fun h => by rw [h, Layout.codeAt_succ]), heven⟩)

theorem Layout.exists_roundsAbout {f : Layout} (hmb : f.mb ≠ 0) {q : Rat} (hq : 0 ≤ q) : ∃ b, f.RoundsAbout q b := by
  rcases hq.eq_or_lt with rfl | hq
  · exact ⟨0, f.roundsAbout_zero⟩
  · exact ⟨_, Layout.roundsAbout_of_pos hmb hq⟩

section
variable {f : Layout} {q : Rat} {b : Nat} (h : f.RoundsAbout q b)
include h

theorem Layout.RoundsAbout.lower_gap : |f.magnitude b - q| = q - f.magnitude b := by
  obtain ⟨⟨hle, -⟩, -⟩ := h
  rw [abs_of_nonpos (sub_nonpos.2 hle), neg_sub]

theorem Layout.RoundsAbout.upper_gap : |f.magnitude (b + 1) - q| = f.magnitude (b + 1) - q := by
  obtain ⟨⟨-, hlt⟩, -⟩ := h
  exact abs_of_pos (sub_pos.2 hlt)

/-- The code chosen is one of the two about the value, and no farther from it than either. -/
theorem Layout.RoundsAbout.nearest_le_both :
    |f.magnitude (f.nearest q) - q| ≤ |f.magnitude b - q| ∧ |f.magnitude (f.nearest q) - q| ≤ |f.magnitude (b + 1) - q| := by
  rw [h.lower_gap, h.upper_gap]
  have lower := h.lower_gap
  have upper := h.upper_gap
  obtain ⟨-, ⟨hd, hr⟩ | ⟨hd, hr⟩ | ⟨hd, hr | hr, -⟩⟩ := h
  · rw [hr, lower]; exact ⟨le_refl _, hd.le⟩
  · rw [hr, upper]; exact ⟨hd.le, le_refl _⟩
  · rw [hr, lower]; exact ⟨le_refl _, hd.le⟩
  · rw [hr, upper]; exact ⟨hd.ge, le_refl _⟩

/-- Any third code is farther from the value than one of the two about it, magnitudes rising with their codes. -/
theorem Layout.RoundsAbout.farther_of_ne {m : Nat} (hb : m ≠ b) (hb1 : m ≠ b + 1) :
    |f.magnitude b - q| < |f.magnitude m - q| ∨ |f.magnitude (b + 1) - q| < |f.magnitude m - q| := by
  rw [h.lower_gap, h.upper_gap]
  rcases lt_or_gt_of_ne hb with hm | hm
  · have below : f.magnitude m < f.magnitude b := f.magnitude_strictMono hm
    exact Or.inl (lt_of_lt_of_le (by linarith) (neg_le_abs _))
  · have above : f.magnitude (b + 1) < f.magnitude m := f.magnitude_strictMono (lt_of_le_of_ne hm hb1.symm)
    exact Or.inr (lt_of_lt_of_le (by linarith) (le_abs_self _))

/-- No code is nearer than the one chosen. -/
theorem Layout.RoundsAbout.nearest_le (m : Nat) : |f.magnitude (f.nearest q) - q| ≤ |f.magnitude m - q| := by
  obtain ⟨hle, hle1⟩ := h.nearest_le_both
  rcases eq_or_ne m b with rfl | hb
  · exact hle
  rcases eq_or_ne m (b + 1) with rfl | hb1
  · exact hle1
  exact (h.farther_of_ne hb hb1).elim (fun hlt => hle.trans hlt.le) (fun hlt => hle1.trans hlt.le)

/-- Where another code is as near, the two are those about the value, which is half way, and the one chosen is even. -/
theorem Layout.RoundsAbout.even_of_tie {m : Nat} (hne : m ≠ f.nearest q) (htie : |f.magnitude m - q| = |f.magnitude (f.nearest q) - q|) :
    f.nearest q % 2 = 0 := by
  have about : m = b ∨ m = b + 1 := by
    obtain ⟨hle, hle1⟩ := h.nearest_le_both
    by_contra hm
    obtain ⟨hb, hb1⟩ := not_or.1 hm
    exact (h.farther_of_ne hb hb1).elim (fun hlt => (hle.trans_lt hlt).ne' htie) (fun hlt => (hle1.trans_lt hlt).ne' htie)
  have lower := h.lower_gap
  have upper := h.upper_gap
  obtain ⟨-, ⟨hd, hr⟩ | ⟨hd, hr⟩ | ⟨-, -, heven⟩⟩ := h
  · obtain rfl := about.resolve_left (hr ▸ hne)
    rw [hr, lower, upper] at htie
    exact absurd htie hd.ne'
  · obtain rfl := about.resolve_right (hr ▸ hne)
    rw [hr, lower, upper] at htie
    exact absurd htie hd.ne'
  · exact heven

end

/-- A code is its own rounding: its distance from itself is 0, and no other code has its magnitude. -/
theorem Layout.nearest_magnitude {f : Layout} (hmb : f.mb ≠ 0) (n : Nat) : f.nearest (f.magnitude n) = n := by
  have hq : 0 ≤ f.magnitude n := f.magnitude_zero ▸ f.magnitude_strictMono.monotone (Nat.zero_le n)
  obtain ⟨b, h⟩ := Layout.exists_roundsAbout hmb hq
  have hzero : |f.magnitude (f.nearest (f.magnitude n)) - f.magnitude n| ≤ 0 := by simpa using h.nearest_le n
  exact f.magnitude_strictMono.injective (sub_eq_zero.1 (abs_nonpos_iff.1 hzero))

theorem mb_ne_zero_of_format {f : Layout} (hf : f ∈ [e2m1, e2m3, e3m2, e4m3, e5m2, bf16, fp16, fp32]) : f.mb ≠ 0 := by
  revert f
  decide

/-- Settles O59: the two codes about a value are its own whole grid steps and the next, and every other code is farther from it. -/
theorem roundingIsNearestEven : Obligations.RoundingIsNearestEven := by
  intro f hf
  have hmb := mb_ne_zero_of_format hf
  refine ⟨Layout.nearest_magnitude hmb, fun q m hq => ?_, fun q m hq hne htie => ?_⟩
  · obtain ⟨b, h⟩ := Layout.exists_roundsAbout hmb hq
    simpa only [ratAbs_eq_abs] using h.nearest_le m
  · obtain ⟨b, h⟩ := Layout.exists_roundsAbout hmb hq
    simp only [ratAbs_eq_abs] at htie
    exact h.even_of_tie hne htie

end Sys2Proof.Machine
end

section
/-! PROOF. Table 15-5 and R72: a field of a structure is what was written there, and a run of bytes is one number whose digits in base 2^w are the codes packed in it. -/

namespace Sys2Proof

theorem leNat_append (x y : Bytes) : leNat (x ++ y) = leNat x + 256 ^ x.length * leNat y := by
  induction x with
  | nil => simp [leNat]
  | cons a x ih =>
    simp only [List.cons_append, leNat, ih, List.length_cons]
    ring

theorem leNat_take_lt (b : Bytes) (n : Nat) : leNat (b.take n) < 256 ^ n :=
  (leNat_lt _).trans_le (Nat.pow_le_pow_right (by decide) (List.length_take_le n b))

/-- A number is cut where its bytes are. -/
theorem leNat_eq_take_add_drop (b : Bytes) (n : Nat) : leNat b = leNat (b.take n) + 256 ^ n * leNat (b.drop n) := by
  rcases le_total n b.length with h | h
  · conv_lhs => rw [← List.take_append_drop n b, leNat_append, List.length_take_of_le h]
  · rw [List.take_of_length_le h, List.drop_eq_nil_of_le h]
    rfl

theorem leNat_drop (b : Bytes) (n : Nat) : leNat (b.drop n) = leNat b / 256 ^ n := by
  rw [leNat_eq_take_add_drop b n, Nat.add_mul_div_left _ _ (by positivity), Nat.div_eq_of_lt (leNat_take_lt b n), Nat.zero_add]

theorem leNat_take (b : Bytes) (n : Nat) : leNat (b.take n) = leNat b % 256 ^ n := by
  rw [leNat_eq_take_add_drop b n, Nat.add_mul_mod_self_left, Nat.mod_eq_of_lt (leNat_take_lt b n)]

end Sys2Proof

namespace Sys2Proof.Machine

/-- A field is a run of digits in base 256 of the structure's number. -/
theorem fld_eq (b : Bytes) (off n : Nat) : fld b off n = leNat b / 256 ^ off % 256 ^ n := by
  rw [fld, leNat_take, leNat_drop]

/-! ### Packed codes (R72) -/

/-- A code is a run of bits of the number that the bytes spell, where the bytes read for it reach its last bit. -/
theorem codeAt_eq (b : Bytes) (base pos : Nat) {w : Nat} (h : w * pos % 8 + w ≤ 8 * (if w = 6 then 2 else (w + 7) / 8)) :
    codeAt b base w pos = leNat b / 256 ^ base / 2 ^ (w * pos) % 2 ^ w := by
  unfold codeAt
  simp only [fld_eq]
  generalize (if w = 6 then 2 else (w + 7) / 8) = n at *
  have hbits : ∀ k, 256 ^ k = 2 ^ (8 * k) := fun k => by rw [Nat.pow_mul]
  have hplace : 256 ^ (base + w * pos / 8) * 2 ^ (w * pos % 8) = 256 ^ base * 2 ^ (w * pos) := by
    rw [Nat.pow_add, Nat.mul_assoc, hbits (w * pos / 8), ← Nat.pow_add, Nat.div_add_mod]
  have hwidth : 256 ^ n = 2 ^ (w * pos % 8) * 2 ^ (8 * n - w * pos % 8) := by
    rw [hbits, ← Nat.pow_add, Nat.add_sub_cancel' (by omega)]
  rw [hwidth, Nat.mod_mul_right_div_self, Nat.mod_mod_of_dvd _ (Nat.pow_dvd_pow 2 (by omega)), Nat.div_div_eq_div_mul, hplace,
    Nat.div_div_eq_div_mul]

/-- Every code of a width of Table 3-1 lies within the bytes read for it: a 6-bit code in two, any other in the fewest that hold it. -/
theorem code_within {w : Nat} (hw : w ∈ [4, 6, 8, 16, 32]) (pos : Nat) : w * pos % 8 + w ≤ 8 * (if w = 6 then 2 else (w + 7) / 8) := by
  simp only [List.mem_cons, List.not_mem_nil, or_false] at hw
  rcases hw with rfl | rfl | rfl | rfl | rfl <;> simp <;> omega

theorem even_width {w : Nat} (hw : w ∈ [4, 6, 8, 16, 32]) : ∃ k, k ≠ 0 ∧ w = 2 * k := by
  refine ⟨w / 2, ?_⟩
  revert w
  decide

/-- Four codes of `2 * k` bits fill `k` bytes. -/
theorem packCodes_four (k a b c d : Nat) (rest : List Nat) :
    packCodes (2 * k) (a :: b :: c :: d :: rest) = leBytes k (Nat.ofDigits (2 ^ (2 * k)) [a, b, c, d]) ++ packCodes (2 * k) rest := by
  have hbytes : 4 * (2 * k) / 8 = k := by omega
  have hnumber : a + 2 ^ (2 * k) * b + 2 ^ (2 * (2 * k)) * c + 2 ^ (3 * (2 * k)) * d = Nat.ofDigits (2 ^ (2 * k)) [a, b, c, d] := by
    simp only [Nat.ofDigits_cons, Nat.ofDigits_nil]
    ring
  rw [packCodes, hbytes, hnumber]

theorem length_packCodes (k : Nat) : ∀ cs : List Nat, 4 ∣ cs.length → (packCodes (2 * k) cs).length * 8 = 2 * k * cs.length
  | [], _ => rfl
  | [_], h | [_, _], h | [_, _, _], h => by simp at h
  | a :: b :: c :: d :: rest, h => by
    have ih := length_packCodes k rest (by simpa using h)
    simp only [packCodes_four, List.length_append, length_leBytes, List.length_cons, Nat.add_mul, ih]
    ring

/-- Packed codes are the digits, in base 2^w, of the number that their bytes spell. -/
theorem leNat_packCodes {k : Nat} (hk : k ≠ 0) : ∀ cs : List Nat, 4 ∣ cs.length → (∀ x ∈ cs, x < 2 ^ (2 * k)) →
    leNat (packCodes (2 * k) cs) = Nat.ofDigits (2 ^ (2 * k)) cs
  | [], _, _ => rfl
  | [_], h, _ | [_, _], h, _ | [_, _, _], h, _ => by simp at h
  | a :: b :: c :: d :: rest, h, hcs => by
    have ih := leNat_packCodes hk rest (by simpa using h) fun x hx => hcs x (by simp [hx])
    have hbase : 256 ^ k = (2 ^ (2 * k)) ^ [a, b, c, d].length := by
      rw [← Nat.pow_mul, show 2 * k * [a, b, c, d].length = 8 * k by simp only [List.length_cons, List.length_nil]; ring, Nat.pow_mul]
    have hgroup : Nat.ofDigits (2 ^ (2 * k)) [a, b, c, d] < 256 ^ k := by
      rw [hbase]
      exact Nat.ofDigits_lt_base_pow_length (Nat.one_lt_two_pow (by omega)) fun x hx => hcs x (List.mem_append_left rest hx)
    rw [packCodes_four, leNat_append, leNat_leBytes, Nat.mod_eq_of_lt hgroup, length_leBytes, ih, hbase, ← Nat.ofDigits_append]
    rfl

/-- A digit is read at its place, whatever stands above the digits. -/
theorem digit_ofDigits (B high : Nat) : ∀ (cs : List Nat) (i : Nat), (∀ x ∈ cs, x < B) → i < cs.length →
    cs[i]? = some ((Nat.ofDigits B cs + B ^ cs.length * high) / B ^ i % B)
  | c :: cs, i, hcs, hi => by
    have hc : c < B := hcs c List.mem_cons_self
    have hsplit : Nat.ofDigits B (c :: cs) + B ^ (c :: cs).length * high = c + B * (Nat.ofDigits B cs + B ^ cs.length * high) := by
      rw [Nat.ofDigits_cons, List.length_cons, Nat.pow_succ]
      ring
    rw [hsplit]
    cases i with
    | zero => simp [Nat.mod_eq_of_lt hc]
    | succ i =>
      have ih := digit_ofDigits B high cs i (fun x hx => hcs x (List.mem_cons_of_mem _ hx)) (Nat.lt_of_succ_lt_succ hi)
      rw [List.getElem?_cons_succ, ih, Nat.pow_succ', ← Nat.div_div_eq_div_mul, Nat.add_mul_div_left _ _ (Nat.zero_lt_of_lt hc),
        Nat.div_eq_of_lt hc, Nat.zero_add]

/-- Of packed codes each is read back at its place, whatever bytes stand before and after. -/
theorem codeAt_packCodes {w : Nat} (hw : w ∈ [4, 6, 8, 16, 32]) {cs : List Nat} (front rest : Bytes) (h4 : 4 ∣ cs.length) (hcs : ∀ x ∈ cs, x < 2 ^ w)
    {i : Nat} (hi : i < cs.length) : cs[i]? = some (codeAt (front ++ packCodes w cs ++ rest) front.length w i) := by
  obtain ⟨k, hk, rfl⟩ := even_width hw
  have hlen : 256 ^ (packCodes (2 * k) cs).length = (2 ^ (2 * k)) ^ cs.length := by
    rw [← Nat.pow_mul, ← length_packCodes k cs h4, Nat.mul_comm _ 8, Nat.pow_mul]
  rw [codeAt_eq _ _ _ (code_within hw i), List.append_assoc, leNat_append, leNat_append, Nat.add_mul_div_left _ _ (by positivity),
    Nat.div_eq_of_lt (leNat_lt front), Nat.zero_add, leNat_packCodes hk cs h4 hcs, hlen, Nat.pow_mul 2 (2 * k) i]
  exact digit_ofDigits _ _ cs i hcs hi

/-! ### The header (Table 15-5) -/

theorem fld_append_right {x : Bytes} {off : Nat} (y : Bytes) (n : Nat) (h : x.length ≤ off) : fld (x ++ y) off n = fld y (off - x.length) n := by
  rw [fld, fld, List.drop_append, List.drop_eq_nil_of_le h, List.nil_append]

theorem fld_leBytes_append (n v : Nat) (y : Bytes) : fld (leBytes n v ++ y) 0 n = v % 256 ^ n := by
  rw [fld, List.drop_zero, List.take_left' (length_leBytes n v), leNat_leBytes]

/-- The flag byte of a header: SPARSE, SPARSE_AXIS, ZERO_INGOT and EXTENDED in its four low bits. -/
def Header.flags (h : Header) : Nat := b2n h.sparse + 2 * h.axis + 4 * b2n h.zero + 8 * b2n h.extended

theorem bits_of_flags : ∀ sparse axis zero extended : Bool, let v := b2n sparse + 2 * b2n axis + 4 * b2n zero + 8 * b2n extended
    v < 256 ^ 1 ∧ bitOf v 0 = sparse ∧ bitOf v 1 = axis ∧ bitOf v 2 = zero ∧ bitOf v 3 = extended := by
  decide

theorem Header.flags_bits {h : Header} (ha : h.axis ≤ 1) :
    h.flags < 256 ^ 1 ∧ bitOf h.flags 0 = h.sparse ∧ b2n (bitOf h.flags 1) = h.axis ∧ bitOf h.flags 2 = h.zero ∧ bitOf h.flags 3 = h.extended := by
  obtain ⟨a, haxis⟩ : ∃ a, b2n a = h.axis := by
    rcases Nat.le_one_iff_eq_zero_or_eq_one.1 ha with h0 | h1
    · exact ⟨false, h0.symm⟩
    · exact ⟨true, h1.symm⟩
  obtain ⟨hlt, hsparse, hax, hzero, hext⟩ := bits_of_flags h.sparse a h.zero h.extended
  simp only [Header.flags, ← haxis]
  exact ⟨hlt, hsparse, congrArg b2n hax, hzero, hext⟩

theorem Header.length_bytes (h : Header) : h.bytes.length = 64 := by
  simp [Header.bytes]

/-- Each field of Table 15-5 lies in its own bytes. -/
theorem Header.fld_bytes (h : Header) (rest : Bytes) :
    fld (h.bytes ++ rest) 0 1 = h.fmt % 256 ^ 1 ∧ fld (h.bytes ++ rest) 1 1 = h.flags % 256 ^ 1 ∧ fld (h.bytes ++ rest) 4 4 = h.object % 256 ^ 4
    ∧ fld (h.bytes ++ rest) 8 4 = h.index % 256 ^ 4 ∧ fld (h.bytes ++ rest) 12 4 = h.commit % 256 ^ 4 ∧ fld (h.bytes ++ rest) 40 2 = h.promoted % 256 ^ 2
    ∧ fld (h.bytes ++ rest) 42 2 = h.degraded % 256 ^ 2 ∧ fld (h.bytes ++ rest) 48 16 = h.rows % 256 ^ 16 := by
  refine ⟨?_, ?_, ?_, ?_, ?_, ?_, ?_, ?_⟩ <;>
    simp (disch := simp) only [Header.bytes, List.append_assoc, fld_append_right, length_leBytes, List.length_replicate, Nat.reduceSub, fld_leBytes_append, Header.flags]

/-- The 64 bytes of a header spell it, whatever follows. -/
theorem headerOf_bytes {h : Header} (hfmt : h.fmt < 256 ^ 1) (haxis : h.axis ≤ 1) (hobject : h.object < 256 ^ 4) (hindex : h.index < 256 ^ 4)
    (hcommit : h.commit < 256 ^ 4) (hpromoted : h.promoted < 256 ^ 2) (hdegraded : h.degraded < 256 ^ 2) (hrows : h.rows < 256 ^ 16) (rest : Bytes) :
    headerOf (h.bytes ++ rest) = h := by
  obtain ⟨hflags, hsparse, hax, hzero, hext⟩ := Header.flags_bits haxis
  obtain ⟨ffmt, fflags, fobject, findex, fcommit, fpromoted, fdegraded, frows⟩ := h.fld_bytes rest
  rw [headerOf, ffmt, fflags, fobject, findex, fcommit, fpromoted, fdegraded, frows, Nat.mod_eq_of_lt hfmt, Nat.mod_eq_of_lt hflags, hsparse, hax, hzero, hext,
    Nat.mod_eq_of_lt hobject, Nat.mod_eq_of_lt hindex, Nat.mod_eq_of_lt hcommit, Nat.mod_eq_of_lt hpromoted, Nat.mod_eq_of_lt hdegraded, Nat.mod_eq_of_lt hrows]

/-- Settles O58: a header's fields stand apart from each other, and packed codes are the digits of one number. -/
theorem ingotsRoundTrip : Obligations.IngotsRoundTrip := by
  refine ⟨fun h hfmt haxis hobject hindex hcommit hpromoted hdegraded hrows =>
    ⟨h.length_bytes, headerOf_bytes hfmt haxis hobject hindex hcommit hpromoted hdegraded hrows⟩, fun w hw cs front rest h4 hcs => ⟨?_, fun i hi => codeAt_packCodes hw front rest h4 hcs hi⟩⟩
  obtain ⟨k, -, rfl⟩ := even_width hw
  exact length_packCodes k cs h4

end Sys2Proof.Machine
end

section
/-! PROOF. Planes claim groups, and the events of running work: ingots arrive or fail, deadlines and waits pass, tiles leave their planes (R130, R138, R139, R158, R365 to R369, R378, R446). -/

namespace Sys2Proof.Machine

/-! ### Which group a die's segment gives (R158) -/

/-- A die never steals from its own segment. -/
theorem stealFrom_ne (counts : List Nat) (own : Nat) : ∀ v, stealFrom counts own = some v → v ≠ own := by
  unfold stealFrom
  refine List.foldlRecOn (List.range 8) _ (motive := fun best => ∀ v, best = some v → v ≠ own) (fun _ h => nomatch h) fun best hbest d _ => ?_
  split
  · exact hbest
  · next hd =>
    have hne : d ≠ own := fun e => hd (.inl e)
    split
    · rintro v ⟨⟩
      exact hne
    · split
      · rintro v ⟨⟩
        exact hne
      · exact hbest

theorem claimGroup_own {segs : List Seg} {die : Nat} (h : (segs.getD die {}).head < (segs.getD die {}).tail) :
    claimGroup segs die = some ((segs.getD die {}).head, segs.set die { segs.getD die {} with head := (segs.getD die {}).head + 1 }) := by
  unfold claimGroup
  exact if_pos h

theorem claimGroup_steal {segs : List Seg} {die v : Nat} (h : (segs.getD die {}).tail ≤ (segs.getD die {}).head)
    (hv : stealFrom (segs.getD die {}).counts die = some v) (hl : (segs.getD v {}).head < (segs.getD v {}).tail) :
    claimGroup segs die = some ((segs.getD v {}).tail - 1, segs.set v { segs.getD v {} with tail := (segs.getD v {}).tail - 1 }) := by
  unfold claimGroup
  dsimp only
  rw [if_neg (Nat.not_lt.2 h), hv]
  exact if_pos hl

/-! ### The claim (R158, R378, R446) -/

/-- Whether a free plane takes another command instead of command `id`: one that it prefers and that gives it a unit (R446). -/
def State.outbid (s : State) (id die quire plane : Nat) (c : Cmd) : Bool :=
  s.cmds.any (fun x => x.1 != id && planeCmd x.2 && x.2.heard die && s.onQuire x.2 die quire && s.prefers die plane x (id, c)
    && ((s.openWork x.1).claim x.1 die quire plane).isSome)

theorem Cmd.heard_iff {c : Cmd} {die : Nat} : c.heard die = true ↔ die = c.home ∨ die ∈ c.seenDies := by
  simp [Cmd.heard]

/-- A free plane of a serving quire, on a die that has the descriptor of an uncommitted command of the partition. -/
structure MayClaim (s : State) (id die quire plane : Nat) (c : Cmd) : Prop where
  serving : s.serving = true
  cmd : s.cmd? id = some c
  planes : planeCmd c = true
  uncommitted : c.uncommitted = true
  heard : die = c.home ∨ die ∈ c.seenDies
  free : s.planeFree die quire plane = true
  plane_lt : plane < 3
  onQuire : s.onQuire c die quire = true
  group : s.groupServes (12 * die + quire / 8) = true
  quire : s.quireServes die quire = true
  die : (s.dieAt die).fenced = false

section
variable {s u : State} {id die quire plane : Nat} {c : Cmd} (h : MayClaim s id die quire plane c)
  (hu : (s.openWork id).claim id die quire plane = some u)
include h hu

theorem execUnitClaim_eq :
    execUnitClaim id die quire plane s = .next (if (s.openWork id).outbid id die quire plane c then s else u) := by
  simp only [execUnitClaim, h.cmd, h.serving, h.planes, h.uncommitted, Cmd.heard_iff.2 h.heard, h.free, h.plane_lt, h.onQuire, h.group, h.quire, h.die, hu]
  rfl

theorem execUnitClaim_claims (hx : ∀ x ∈ (s.openWork id).cmds, x.1 ≠ id → planeCmd x.2 = true → x.2.heard die = true →
      (s.openWork id).onQuire x.2 die quire = true → (s.openWork id).prefers die plane x (id, c) = false) :
    execUnitClaim id die quire plane s = .next u := by
  have hno : (s.openWork id).outbid id die quire plane c = false := by
    refine List.any_eq_false.2 fun x hmem => ?_
    simp only [Bool.and_eq_true, bne_iff_ne]
    rintro ⟨⟨⟨⟨⟨hne, hpl⟩, hh⟩, hon⟩, hpref⟩, -⟩
    exact Bool.false_ne_true ((hx x hmem hne hpl hh hon).symm.trans hpref)
  rw [execUnitClaim_eq h hu, hno, if_neg Bool.false_ne_true]

theorem execUnitClaim_outbid {x : Nat × Cmd} (hmem : x ∈ (s.openWork id).cmds) (hne : x.1 ≠ id) (hpl : planeCmd x.2 = true) (hh : x.2.heard die = true)
    (hon : (s.openWork id).onQuire x.2 die quire = true) (hpref : (s.openWork id).prefers die plane x (id, c) = true)
    (hgive : (((s.openWork id).openWork x.1).claim x.1 die quire plane).isSome = true) : execUnitClaim id die quire plane s = .next s := by
  have hyes : (s.openWork id).outbid id die quire plane c = true := by
    refine List.any_eq_true.2 ⟨x, hmem, ?_⟩
    simp only [Bool.and_eq_true, bne_iff_ne]
    exact ⟨⟨⟨⟨⟨hne, hpl⟩, hh⟩, hon⟩, hpref⟩, hgive⟩
  rw [execUnitClaim_eq h hu, if_pos hyes]
end

/-! ### Ingots arrive, their fetches fail, and the planes wait for them (R138, R365, R367, R369) -/

theorem mem_foldl_dedup {α : Type} [BEq α] [LawfulBEq α] {a : α} (xs acc : List α) (h : a ∈ acc ∨ a ∈ xs) :
    a ∈ xs.foldl (fun acc p => if acc.contains p then acc else p :: acc) acc := by
  induction xs generalizing acc with
  | nil => simpa using h
  | cons x xs ih =>
    refine ih _ ?_
    rcases h with h | h
    · left
      dsimp only
      split
      · exact h
      · exact List.mem_cons_of_mem _ h
    · rcases List.mem_cons.1 h with rfl | h
      · left
        dsimp only
        split
        · next hin => exact List.contains_iff_mem.1 hin
        · exact List.mem_cons_self
      · exact .inr h

theorem mem_dedup {α : Type} [BEq α] [LawfulBEq α] {a : α} {xs : List α} (h : a ∈ xs) : a ∈ dedup xs :=
  List.mem_reverse.2 (mem_foldl_dedup xs [] (.inr h))

/-- The ingot of a use is fetched, and its copy staged in the store of every unit that uses it. -/
def State.fetched (s : State) (c : Cmd) (role n : Nat) : State :=
  match (s.fetchUse c role n).2 with
  | some t => (s.users c role n).foldl (fun (a : State) (h : Held) => a.stageAt h.die h.quire t) (s.fetchUse c role n).1
  | none => (s.fetchUse c role n).1

/-- Where an ingot arrives: at each store of a unit that uses it, once. -/
def State.arrivals (s : State) (c : Cmd) (role n : Nat) : List (Nat × Nat × Nat) :=
  (dedup ((s.users c role n).map (fun (h : Held) => (storePlace h.die h.quire, 0)))).map (fun p => (p.1, role, n))

/-- A run that notes arrivals, each once. -/
def Run.arrive (r : Run) (new : List (Nat × Nat × Nat)) : Run := { r with arrived := r.arrived ++ new.filter (fun a => !(r.arrived.contains a)) }

theorem State.mem_arrivals {s : State} {c : Cmd} {role n : Nat} {h : Held} (hh : h ∈ s.users c role n) :
    (storePlace h.die h.quire, role, n) ∈ s.arrivals c role n :=
  List.mem_map.2 ⟨(storePlace h.die h.quire, 0), mem_dedup (List.mem_map.2 ⟨h, hh, rfl⟩), rfl⟩

theorem Run.mem_arrive_old {r : Run} {a : Nat × Nat × Nat} (h : a ∈ r.arrived) (new : List (Nat × Nat × Nat)) : a ∈ (r.arrive new).arrived :=
  List.mem_append_left _ h

theorem Run.mem_arrive_new (r : Run) {a : Nat × Nat × Nat} {new : List (Nat × Nat × Nat)} (h : a ∈ new) : a ∈ (r.arrive new).arrived := by
  by_cases hold : a ∈ r.arrived
  · exact Run.mem_arrive_old hold new
  · exact List.mem_append_right _ (List.mem_filter.2 ⟨h, by simpa using hold⟩)

theorem State.fetched_but {X : Field → Bool} (hX : Covers X (cacheFields ++ lineFields ++ [.stores])) (s : State) (c : Cmd) (role n : Nat) :
    (s.fetched c role n).but X = s.but X := by
  have hfetch := State.fetchUse_but hX s c role n
  unfold State.fetched
  split
  · exact (foldl_but _ _ _ fun a h => State.stageAt_but (hX.mono (by decide)) a _ _ _).trans hfetch
  · exact hfetch

theorem Quiet.stageAt (s : State) (d q : Nat) (t : T0Copy) : Quiet s (s.stageAt d q t) :=
  Quiet.of_but (State.stageAt_but (covers_among _) s d q t) (by decide)

theorem Quiet.readLeaf (s : State) (part die : Nat) (e : LeafEntry) (off n : Nat) : Quiet s (s.readLeaf part die e off n) :=
  Quiet.of_but (State.readLeaf_but (covers_among _) s part die e off n) (by decide)

theorem Quiet.fetchUse (s : State) (c : Cmd) (role n : Nat) : Quiet s (s.fetchUse c role n).1 := by
  unfold State.fetchUse
  split
  · exact Quiet.fetchOne s _ _ _
  · split
    · dsimp only
      split
      · exact Quiet.readLeaf s _ _ _ _ _
      · exact Quiet.readLeaf s _ _ _ _ _
    · exact Quiet.refl s

theorem Quiet.fetched (s : State) (c : Cmd) (role n : Nat) : Quiet s (s.fetched c role n) := by
  unfold State.fetched
  split
  · exact (Quiet.fetchUse s c role n).then_foldl _ (fun a h => Quiet.stageAt a _ _ _) _
  · exact Quiet.fetchUse s c role n

/-- A use that is judged late falls back if its class lets it; else its plane waits from now on (R190, R367). -/
def State.judged (s : State) (id : Nat) (c : Cmd) (tile op n : Nat) (now : Word) : State :=
  match s.fallBack c tile op n with
  | some z => s.setRun id (fun r => { r with zeroUses := r.zeroUses ++ [z] })
  | none => s.setRun id (fun r => { r with waits := r.waits ++ [((tile, op, n), now)] })

theorem State.judged_cmd {s : State} {id : Nat} {c : Cmd} (hc : s.cmd? id = some c) (tile op n : Nat) (now : Word) :
    ∃ d, (s.judged id c tile op n now).cmd? id = some d
      ∧ (∀ z, s.fallBack c tile op n = some z → d.run.zeroUses = c.run.zeroUses ++ [z] ∧ d.run.waits = c.run.waits)
      ∧ (s.fallBack c tile op n = none → d.run.waits = c.run.waits ++ [((tile, op, n), now)] ∧ d.run.zeroUses = c.run.zeroUses) := by
  unfold State.judged
  split
  · next z hz =>
    refine ⟨_, State.cmd?_setRun hc _, fun z' hz' => ?_, fun hn => absurd (hz.symm.trans hn) (by simp)⟩
    cases hz.symm.trans hz'
    exact ⟨rfl, rfl⟩
  · next hz => exact ⟨_, State.cmd?_setRun hc _, fun z hz' => absurd (hz.symm.trans hz') (by simp), fun _ => ⟨rfl, rfl⟩⟩

section
variable {s : State} {id : Nat} {c : Cmd} (h : Live s id c.opcode c) (hp : c.phase = .started)
include h hp

theorem execIngotArrival_arrives (hpl : planeCmd c = true) {op n : Nat} (hu : s.users c op n ≠ []) (hf : c.run.failedFetch.contains (op, n) = false) :
    execIngotArrival id op n s = .next ((s.fetched c op n).setRun id (fun r => r.arrive (s.arrivals c op n))) := by
  obtain ⟨hs, hc, -⟩ := h
  have hempty : (s.users c op n).isEmpty = false := List.isEmpty_eq_false_iff.2 hu
  simp only [execIngotArrival, hc, hs, hpl, hp, hempty, hf]
  rfl


theorem execT3FetchError_plane (hpl : planeCmd c = true) {op n : Nat} {x : Held} (hx : (s.users c op n).head? = some x) (ht : s.fromT3 c op n = true)
    (ha : c.run.arrived.any (fun a => a.2 == (op, n)) = false) :
    execT3FetchError id op n s = .next (if s.classOf c (x.items.headD 0) op = 0 then s.failRun id c (E_TIER_DEADLINE, 2)
      else s.setRun id (fun r => { r with failedFetch := r.failedFetch ++ [(op, n)] })) := by
  obtain ⟨hs, hc, -, hu, -⟩ := h
  obtain ⟨xs, hxs⟩ := List.head?_eq_some_iff.1 hx
  simp only [execT3FetchError, hc, hs, hu, hp, hpl, hxs, ht, ha]
  exact (apply_ite Host.Outcome.next _ _ _).symm

theorem execT3FetchError_whole (hpl : planeCmd c = false) {op k n : Nat} {o : Obj} (ho : s.obj? c.owner op = some (k, o)) (hk : (s.named c).contains k = true)
    (ht : o.tier = 3) (hn : n < o.count) : execT3FetchError id op n s = .next (s.failCmd id E_TIER_DEADLINE 2) := by
  obtain ⟨hs, hc, -, hu, -⟩ := h
  simp only [execT3FetchError, hc, hs, hu, hp, hpl, ho, hk, ht, hn]
  rfl


theorem execUseDeadlineExpiry_judges (hpl : planeCmd c = true) {tile op n : Nat} {t : Word} {x : Held} (hx : c.run.holder tile = some x)
    (huse : ((s.reach x.die t).itemUses c tile).contains (op, n) = true) (hready : (s.reach x.die t).useReady c x tile op n = false)
    (hage : (s.reach x.die t).reachedAt id c tile op n + 10 * (s.reach x.die t).fetchSlack c op ≤ ((s.reach x.die t).counter x.die - x.at_).toNat)
    (hw : c.run.waits.any (fun w => w.1 == (tile, op, n)) = false) :
    execUseDeadlineExpiry id tile op n t s = .next ((s.reach x.die t).judged id c tile op n ((s.reach x.die t).counter x.die)) := by
  obtain ⟨hs, hc, -⟩ := h
  have hs1 : (s.reach x.die t).serving = true := hs
  simp only [execUseDeadlineExpiry, hc, hx, hs1, hpl, hp, huse, hready, hage, hw]
  refine (if_pos rfl).trans ?_
  unfold State.judged
  cases (s.reach x.die t).fallBack c tile op n <;> rfl

theorem execStallLimitExpiry_plane (hpl : planeCmd c = true) {tile op n : Nat} {t : Word} {x : Held} {w : (Nat × Nat × Nat) × Word}
    (hx : c.run.holder tile = some x) (hw : c.run.waits.find? (fun w => w.1 == (tile, op, n)) = some w) (hin : (s.reach x.die t).inT0 c x op n = false)
    (hlim : (s.reach x.die t).stallLimit c op ≠ 0)
    (hlate : 100000 * (s.reach x.die t).stallLimit c op < ((s.reach x.die t).counter x.die - w.2).toNat) :
    execStallLimitExpiry id tile op n t s = .next ((s.reach x.die t).failRun id c (E_TIER_DEADLINE, 1)) := by
  obtain ⟨hs, hc, -⟩ := h
  have hs1 : (s.reach x.die t).serving = true := hs
  simp only [execStallLimitExpiry, hc, hpl, hx, hw, hs1, hp, hin, decide_eq_true hlim, hlate]
  rfl

theorem execStallLimitExpiry_whole (hpl : planeCmd c = false) {op k : Nat} {o : Obj} (ho : s.obj? c.owner op = some (k, o)) (hk : (s.named c).contains k = true)
    {t : Word} (hlim : o.stallLimit ≠ 0) (hlate : 100000 * o.stallLimit < ((s.reach c.home t).counter c.home - c.startAt).toNat) (tile n : Nat) :
    execStallLimitExpiry id tile op n t s = .next ((s.reach c.home t).failCmd id E_TIER_DEADLINE 1) := by
  obtain ⟨hs, hc, -⟩ := h
  have hs1 : (s.reach c.home t).serving = true := hs
  have ho1 : (s.reach c.home t).obj? c.owner op = some (k, o) := ho
  have hk1 : ((s.reach c.home t).named c).contains k = true := hk
  simp only [execStallLimitExpiry, hc, hpl, ho1, hk1, hs1, hp, decide_eq_true hlim, hlate]
  rfl
end

/-! ### Finished tiles stay finished -/

/-- Command `id` is admitted and has finished the tile or query block. -/
def State.finished (s : State) (id tile : Nat) : Prop := ∃ c, s.cmd? id = some c ∧ tile ∈ c.run.done

/-- A step in which no command loses a finished tile or query block. -/
def KeepsDone (s t : State) : Prop := ∀ id tile, s.finished id tile → t.finished id tile

theorem KeepsDone.refl (s : State) : KeepsDone s s := fun _ _ h => h

theorem KeepsDone.trans {s t u : State} (h : KeepsDone s t) (g : KeepsDone t u) : KeepsDone s u := fun id tile hs => g id tile (h id tile hs)

theorem KeepsDone.ite {p : Prop} [Decidable p] {s t u : State} (ht : KeepsDone s t) (hu : KeepsDone s u) : KeepsDone s (if p then t else u) := by
  split
  · exact ht
  · exact hu

theorem KeepsDone.foldl {α : Type} (f : State → α → State) (hf : ∀ a x, KeepsDone a (f a x)) (l : List α) (s : State) : KeepsDone s (l.foldl f s) := by
  induction l generalizing s with
  | nil => exact KeepsDone.refl s
  | cons x l ih => exact (hf s x).trans (ih _)

/-- A step that leaves the commands as they are. -/
theorem KeepsDone.of_but {L : List Field} {s t : State} (h : t.but (Field.among L) = s.but (Field.among L))
    (hL : (Field.among L .cmds || Field.among L .progress) = false) : KeepsDone s t :=
  fun id _ ⟨c, hc, hdone⟩ => ⟨c, (State.cmd?_kept h hL id).trans hc, hdone⟩

theorem KeepsDone.setCmd {s : State} {id : Nat} {c d : Cmd} (hc : s.cmd? id = some c) (hd : ∀ tile ∈ c.run.done, tile ∈ d.run.done) :
    KeepsDone s (s.setCmd id d) := by
  rintro j tile ⟨e, he, hdone⟩
  by_cases hj : j = id
  · subst hj
    obtain rfl : c = e := Option.some.inj (hc.symm.trans he)
    exact ⟨d, State.cmd?_setCmd_same .., hd tile hdone⟩
  · exact ⟨e, (State.cmd?_setCmd_ne s d hj).trans he, hdone⟩

theorem KeepsDone.setRun (s : State) (id : Nat) {f : Run → Run} (hf : ∀ r, ∀ tile ∈ r.done, tile ∈ (f r).done) : KeepsDone s (s.setRun id f) := by
  unfold State.setRun
  split
  · next hc => exact KeepsDone.setCmd hc (hf _)
  · exact KeepsDone.refl s

theorem KeepsDone.toReady (s : State) (id : Nat) {f : Cmd → Cmd} (hf : ∀ c, (f c).run = c.run) : KeepsDone s (s.toReady id f) := by
  unfold State.toReady
  split
  · next c hc =>
    have hfresh : KeepsDone s s.takeFresh := KeepsDone.of_but (State.takeFresh_but (covers_among [.fresh]) s) rfl
    exact hfresh.trans (KeepsDone.setCmd hc fun tile ht => (congrArg Run.done (hf c)) ▸ ht)
  · exact KeepsDone.refl s

/-! ### What a running command writes -/

theorem Cmd.note_run (c : Cmd) (key n : Nat) : (c.note key n).run = c.run := by
  unfold Cmd.note
  split
  · rfl
  · split <;> rfl

theorem KeepsDone.putSlot {s : State} {id key : Nat} {c : Cmd} (hc : s.cmd? id = some c) (o : Obj) (k v n off len : Nat) :
    KeepsDone s (((s.setObj key o).setCmd id (c.note key k)).moved key v n off len) := by
  have hobj : KeepsDone s (s.setObj key o) := KeepsDone.of_but (State.setObj_but (covers_among _) s key o) rfl
  have hnote : KeepsDone (s.setObj key o) ((s.setObj key o).setCmd id (c.note key k)) :=
    KeepsDone.setCmd hc fun tile ht => (congrArg Run.done (Cmd.note_run c key k)) ▸ ht
  exact (hobj.trans hnote).trans (KeepsDone.of_but (State.moved_but (covers_among _) _ key v n off len) rfl)

theorem KeepsDone.putIngot (s : State) (id key n : Nat) (slot : Bytes) (ext : Option Bytes) : KeepsDone s (s.putIngot id key n slot ext) := by
  simp only [State.putIngot]
  split
  · next hc => exact KeepsDone.putSlot hc _ _ _ _ _ _
  · exact KeepsDone.refl s

theorem KeepsDone.putChunk (s : State) (id key n off : Nat) (b : Bytes) : KeepsDone s (s.putChunk id key n off b) := by
  simp only [State.putChunk]
  split
  · next hc => exact KeepsDone.putSlot hc _ _ _ _ _ _
  · exact KeepsDone.refl s

theorem KeepsDone.putObjBytes (s : State) (id key fuel off : Nat) (b : Bytes) : KeepsDone s (s.putObjBytes id key fuel off b) := by
  induction fuel generalizing s off b with
  | zero => exact KeepsDone.refl s
  | succ fuel ih =>
    unfold State.putObjBytes
    split
    · exact KeepsDone.refl s
    · exact (KeepsDone.putChunk s _ _ _ _ _).trans (ih _ _ _)

theorem KeepsDone.putObj (s : State) (id key off : Nat) (b : Bytes) : KeepsDone s (s.putObj id key off b) := KeepsDone.putObjBytes s id key _ off b

theorem KeepsDone.putRef (s : State) (id key off : Nat) (b : Bytes) (ext : Option Bytes) : KeepsDone s (s.putRef id key off b ext) := by
  simp only [State.putRef]
  split
  · exact (KeepsDone.putObj s _ _ _ _).trans (KeepsDone.of_but (State.setObj_but (covers_among _) _ _ _) rfl)
  · exact KeepsDone.putObj s _ _ _ _

theorem KeepsDone.updateCarry (s : State) (id : Nat) : KeepsDone s (s.updateCarry id) := by
  unfold State.updateCarry
  dsimp only
  split
  · exact KeepsDone.refl s
  · split
    · split
      · exact KeepsDone.refl s
      · refine KeepsDone.trans (KeepsDone.foldl _ (fun a r => ?_) _ s) (KeepsDone.putObj _ _ _ _ _)
        split
        · refine KeepsDone.trans ?_ (KeepsDone.putObj _ _ _ _ _)
          split
          · split
            · exact KeepsDone.foldl _ (fun b k => KeepsDone.putRef b _ _ _ _ _) _ a
            · exact (KeepsDone.foldl _ (fun b k => KeepsDone.putRef b _ _ _ _ _) _ a).trans (KeepsDone.foldl _ (fun b k => KeepsDone.putRef b _ _ _ _ _) _ _)
          · exact KeepsDone.foldl _ (fun b k => KeepsDone.putRef b _ _ _ _ _) _ a
        · split
          · exact KeepsDone.putObj _ _ _ _ _
          · split
            · exact KeepsDone.refl a
            · exact KeepsDone.putObj _ _ _ _ _
    · exact KeepsDone.refl s

theorem KeepsDone.endTensor (s : State) (id : Nat) : KeepsDone s (s.endTensor id) := by
  simp only [State.endTensor]
  split
  · exact KeepsDone.refl s
  · split
    · exact KeepsDone.refl s
    · split
      · exact KeepsDone.toReady s id fun _ => rfl
      · exact (KeepsDone.updateCarry s id).trans (KeepsDone.toReady _ id fun _ => rfl)

theorem KeepsDone.closeTensor (s : State) (id : Nat) : KeepsDone s (s.closeTensor id) := by
  unfold State.closeTensor
  split
  · split
    · split
      · exact KeepsDone.endTensor s id
      · exact KeepsDone.refl s
    · exact KeepsDone.refl s
  · exact KeepsDone.refl s

theorem KeepsDone.fetchAll (s : State) (c : Cmd) (die : Nat) (reads : List (Nat × Nat)) : KeepsDone s (s.fetchAll c die reads) :=
  KeepsDone.of_but (State.fetchAll_but (covers_among _) s c die reads) rfl

theorem KeepsDone.serve (s : State) (c : Cmd) (die : Nat) : KeepsDone s (s.serve c die) :=
  KeepsDone.of_but (State.serve_but (covers_among _) s c die) rfl

theorem KeepsDone.readBlockLeaves (s : State) (x : ACtx) (die qb : Nat) (b : QBlk) (sel : List Nat) : KeepsDone s (s.readBlockLeaves x die qb b sel) :=
  KeepsDone.of_but (State.readBlockLeaves_but (covers_among _) s x die qb b sel) rfl

theorem KeepsDone.writeAttend (s : State) (id : Nat) (x : ACtx) (all : List ((Nat × Nat) × List Fp)) : KeepsDone s (s.writeAttend id x all) := by
  refine KeepsDone.foldl _ (fun a k => ?_) _ s
  exact (KeepsDone.ite (KeepsDone.refl a) (KeepsDone.putIngot a _ _ _ _ _)).trans (KeepsDone.setRun _ _ fun _ _ h => h)

theorem KeepsDone.endAttend (s : State) (id : Nat) : KeepsDone s (s.endAttend id) := by
  unfold State.endAttend
  split
  · exact KeepsDone.refl s
  · next c _ =>
    split
    · extract_lets bs lost _ x res rows skipped reads s0 s0' s1
      have hread : KeepsDone s s0 := KeepsDone.foldl _ (fun a t => KeepsDone.fetchAll a c _ _) bs s
      have hserve : KeepsDone s0 s0' := KeepsDone.foldl _ (fun a t => (KeepsDone.serve a c _).trans (KeepsDone.readBlockLeaves _ x _ _ _ _)) _ s0
      have hend : KeepsDone s0' s1 := by
        refine KeepsDone.trans ?_ (KeepsDone.writeAttend _ id x rows)
        exact KeepsDone.setRun s0' id fun _ _ h => h
      have hbody : KeepsDone s s1 := (hread.trans hserve).trans hend
      clear_value s1
      split
      · exact hbody
      · split
        · exact hbody.trans (KeepsDone.toReady s1 id fun _ => rfl)
        · exact hbody.trans (KeepsDone.toReady s1 id fun _ => rfl)
    · exact KeepsDone.refl s

theorem KeepsDone.closeWork (s : State) (id : Nat) : KeepsDone s (s.closeWork id) := by
  unfold State.closeWork
  split
  · split
    · exact KeepsDone.closeTensor s id
    · split
      · exact KeepsDone.endAttend s id
      · exact KeepsDone.refl s
  · exact KeepsDone.refl s

/-! ### What a finished tile leaves (R130, R139) -/

/-- The fields that a unit's use of its copies and its turn in SERVED change. -/
def turnFields : List Field := [.stores, .fresh, .subs, .cmds, .progress]

section
variable {s t : State} (h : t.but (Field.among turnFields) = s.but (Field.among turnFields))
include h

theorem State.obj?_kept (part key : Nat) : t.obj? part key = s.obj? part key := by
  rw [State.eq_take h]
  rfl

theorem State.actx_kept (c : Cmd) : t.actx c = s.actx c := by
  rw [State.eq_take h]
  rfl
end

theorem State.tctx_isSome {s : State} {c : Cmd} :
    (s.tctx c).isSome = true ↔ (s.obj? c.owner (c.f 16 4)).isSome = true ∧ (s.obj? c.owner (c.f 24 4)).isSome = true := by
  unfold State.tctx operandOf
  cases s.obj? c.owner (c.f 16 4) <;> cases s.obj? c.owner (c.f 24 4) <;> simp

theorem ACtx.blocks_congr {x y : ACtx} (ha : y.a = x.a) (hq : y.q = x.q) (he : y.entries = x.entries) (hv : y.views = x.views) (ho : y.out = x.out)
    (hpos : y.c.f 48 4 = x.c.f 48 4) : y.blocks = x.blocks := by
  simp only [ACtx.blocks, ha, hq, he, hv, ho, hpos]

/-- The query blocks of an ATTEND do not depend on how far its run has come. -/
theorem State.actx_withRun {s : State} {c : Cmd} {x : ACtx} (hx : s.actx c = some x) (r : Run) :
    ∃ y, s.actx { c with run := r } = some y ∧ y.blocks = x.blocks := by
  simp only [State.actx] at hx ⊢
  split at hx
  · next q k o hq ho =>
    cases hx
    split
    · next q' k' o' hq' ho' =>
      obtain rfl : q = q' := Option.some.inj (hq.symm.trans hq')
      obtain ⟨rfl, rfl⟩ : k = k' ∧ o = o' := Prod.mk.inj (Option.some.inj (ho.symm.trans ho'))
      exact ⟨_, rfl, ACtx.blocks_congr rfl rfl rfl rfl rfl rfl⟩
    · next hno => exact absurd ho (hno q k o hq)
  · exact absurd hx (by simp)

theorem Quiet.fetchAll (s : State) (c : Cmd) (die : Nat) (reads : List (Nat × Nat)) : Quiet s (s.fetchAll c die reads) :=
  Quiet.foldl _ (fun a r => Quiet.fetchOne a c die r) reads s

theorem Quiet.finishes {s t : State} {id : Nat} {c : Cmd} (h : Quiet s t) (hc : s.cmd? id = some c) {tile : Nat} {f : Run → Run} (hf : ∀ r, tile ∈ (f r).done) :
    (t.setRun id f).finished id tile := by
  obtain ⟨d, hd, -⟩ := h.2 id c hc
  exact ⟨_, State.cmd?_setRun hd f, hf _⟩

section
variable {s : State} {id : Nat} {c : Cmd} (hc : s.cmd? id = some c) (die tile : Nat)
include hc

theorem State.doneTile_finishes (hx : (s.tctx c).isSome = true) : (s.doneTile id die tile).finished id tile := by
  obtain ⟨x, hx⟩ := Option.isSome_iff_exists.1 hx
  simp only [State.doneTile, hc, hx]
  refine Quiet.finishes ?_ hc fun r => List.mem_append_right _ (List.mem_singleton_self tile)
  split
  · exact ((Quiet.fetchAll s c die _).trans (Quiet.putIngot _ _ _ _ _ _)).trans (Quiet.farLines _ _ _ _ _ _)
  · exact Quiet.fetchAll s c die _

theorem State.doneBlock_finishes {x : ACtx} (hx : s.actx c = some x) (hb : tile < x.blocks.length) : (s.doneBlock id die tile).finished id tile := by
  simp only [State.doneBlock, hc, hx, List.getElem?_eq_getElem hb]
  exact Quiet.finishes (Quiet.fetchAll s c die _) hc fun r => List.mem_append_right _ (List.mem_singleton_self tile)
end

/-! ### A residue mismatch (R130, R145, R146) -/

/-- Where some failure's status is in the order, one is carried. -/
theorem pickFail_isSome {order : List Nat} {fails : List (Nat × Nat)} {f : Nat × Nat} (hf : f ∈ fails) (ho : f.1 ∈ order) : (pickFail order fails).isSome = true := by
  have hfind : (order.find? (fun st => fails.any (fun g => g.1 == st))).isSome = true :=
    List.find?_isSome.2 ⟨f.1, ho, List.any_eq_true.2 ⟨f, hf, beq_self_eq_true f.1⟩⟩
  obtain ⟨st, hst⟩ := Option.isSome_iff_exists.1 hfind
  have hany := List.find?_some hst
  obtain ⟨g, hg, hgst⟩ := List.any_eq_true.1 hany
  have hmem : g.2 ∈ (fails.filter (fun f => f.1 == st)).map (·.2) := List.mem_map_of_mem (List.mem_filter.2 ⟨hg, hgst⟩)
  simp only [pickFail, hst]
  split
  · rfl
  · next hnil => exact absurd (hnil ▸ hmem) List.not_mem_nil

/-- A command that fails in its run ends, when its failure is one of the order of R146. -/
theorem State.cmd?_failRun (s : State) (id : Nat) (c : Cmd) {f : Nat × Nat} (hf : f.1 ∈ runOrder) : (s.failRun id c f).cmd? id = none := by
  obtain ⟨g, hg⟩ := Option.isSome_iff_exists.1 (pickFail_isSome (List.mem_append_right c.run.fails (List.mem_singleton_self f)) hf)
  simp only [State.failRun, hg]
  exact State.cmd?_failCmd ..

theorem residue_mem_runOrder : E_RESIDUE ∈ runOrder := by decide

theorem State.killCmd_reruns {s : State} {id : Nat} {c : Cmd} (hc : s.cmd? id = some c) (preempt : Bool) :
    ∃ d, (s.killCmd id preempt).cmd? id = some d ∧ d.phase = .admitted ∧ d.residueRerun = c.residueRerun ∧ d.reruns = c.reruns + 1 ∧ d.written = [] := by
  simp only [State.killCmd, hc]
  exact ⟨_, State.cmd?_setCmd_same .., rfl, rfl, rfl, rfl⟩

section
variable (s : State) (id : Nat) {c : Cmd} (die phys : Nat) (own : List (Nat × Nat))

theorem State.residueMiss_reruns (hr : c.residueRerun = false) : ∃ d, (s.residueMiss id c die phys own).cmd? id = some d ∧ d.phase = .admitted
    ∧ d.residueRerun = true ∧ d.reruns = c.reruns + 1 ∧ d.written = [] := by
  simp only [State.residueMiss, hr, Bool.false_eq_true, if_false]
  exact State.killCmd_reruns (State.cmd?_setCmd_same ..) false

theorem State.residueMiss_ends (hr : c.residueRerun = true) : (s.residueMiss id c die phys own).cmd? id = none := by
  simp only [State.residueMiss, hr, if_true]
  exact State.cmd?_failRun _ id _ residue_mem_runOrder
end

/-! ### A tile leaves its plane (R138, R139) -/

/-- Whether a unit stands on a plane of physical quire `quire % 256` of die `quire / 256` and holds the tile or query block. -/
def State.holdsTile (s : State) (tile quire : Nat) : Held → Bool := fun h =>
  h.die == quire / 256 && h.plane != 255 && h.items.contains tile && (s.dieAt (quire / 256)).logical.getD h.quire none == some (quire % 256)

/-- The state in which a tile has left the plane that held it: its copies are the latest used, its die's turn counts in SERVED, and what its copies failed with is noted. -/
def State.released (s : State) (id : Nat) (c : Cmd) (tile quire i : Nat) (h : Held) : State :=
  ((s.useCopies c h tile).serve c (quire / 256)).setRun id (fun r => { r.release i tile h with fails := r.fails ++ s.storeFails c h tile })

/-- A finished output tile stands in its ingot, its quire's store and its accumulators; a finished query block in the run alone. -/
def State.settleItem (s u : State) (id : Nat) (c : Cmd) (tile quire : Nat) (h : Held) : State :=
  if c.opcode = 0x01 then
    ((u.doneTile id (quire / 256) tile).stageOutput id (quire / 256) h.quire tile).fillTile (quire / 256) (quire % 256) id tile (s.tileAccs c (quire / 256) tile)
  else u.doneBlock id (quire / 256) tile

theorem State.released_but (s : State) (id : Nat) (c : Cmd) (tile quire i : Nat) (h : Held) :
    (s.released id c tile quire i h).but (Field.among turnFields) = s.but (Field.among turnFields) :=
  have hX : Covers (Field.among turnFields) turnFields := covers_among _
  (State.setRun_but (hX.mono (by decide)) _ _ _).trans
    ((State.serve_but (hX.mono (by decide)) _ c _).trans (State.useCopies_but (hX.mono (by decide)) s c h tile))

theorem State.released_cmd {s : State} {id : Nat} {c : Cmd} (hc : s.cmd? id = some c) (tile quire i : Nat) (h : Held) :
    ∃ r, (s.released id c tile quire i h).cmd? id = some { c with run := r } := by
  have hturn : ((s.useCopies c h tile).serve c (quire / 256)).cmd? id = some c := by
    rw [State.cmd?_kept (State.serve_but (covers_among _) _ c _) rfl, State.cmd?_kept (State.useCopies_but (covers_among _) s c h tile) rfl, hc]
  exact ⟨_, State.cmd?_setRun hturn _⟩

theorem State.settleItem_finishes {s u : State} {id : Nat} {c : Cmd} {r : Run} (hu : u.but (Field.among turnFields) = s.but (Field.among turnFields))
    (hc : u.cmd? id = some { c with run := r }) {tile : Nat} (ht : c.opcode = 0x01 → (s.tctx c).isSome = true)
    (ha : c.opcode ≠ 0x01 → ∃ x, s.actx c = some x ∧ tile < x.blocks.length) (quire : Nat) (h : Held) :
    (s.settleItem u id c tile quire h).finished id tile := by
  unfold State.settleItem
  split
  · next hop =>
    have hx : (u.tctx { c with run := r }).isSome = true := by
      have hobj := State.tctx_isSome.1 (ht hop)
      refine State.tctx_isSome.2 ?_
      simp only [State.obj?_kept hu]
      exact hobj
    have hdone := State.doneTile_finishes hc (quire / 256) tile hx
    have hstage : KeepsDone (u.doneTile id (quire / 256) tile) ((u.doneTile id (quire / 256) tile).stageOutput id (quire / 256) h.quire tile) :=
      KeepsDone.of_but (State.stageOutput_but (covers_among _) _ _ _ _ _) rfl
    exact KeepsDone.of_but (State.fillTile_but (covers_among _) _ _ _ _ _ _) rfl _ _ (hstage _ _ hdone)
  · next hop =>
    obtain ⟨x, hx, hb⟩ := ha hop
    obtain ⟨y, hy, hblocks⟩ := State.actx_withRun hx r
    exact State.doneBlock_finishes hc (quire / 256) tile ((State.actx_kept hu _).trans hy) (hblocks ▸ hb)

section
variable {s : State} {id : Nat} {c : Cmd} (h : Live s id c.opcode c) (hp : c.phase = .started) {tile quire : Nat} {x : Held}
  (hx : c.run.held.find? (s.holdsTile tile quire) = some x) (hr : ∀ u ∈ s.itemUses c tile, s.useReady c x tile u.1 u.2 = true)
include h hp hx hr

theorem execTileComplete_eq (ok : Bool) : ∃ i, execTileComplete id tile quire ok s = .next (if ok = true
    then (s.settleItem (s.released id c tile quire i x) id c tile quire x).closeWork id
    else s.residueMiss id c (quire / 256) (quire % 256) (s.storeFails c x tile ++ s.itemFails c (quire / 256) tile)) := by
  obtain ⟨hs, hc, -⟩ := h
  obtain ⟨i, hi⟩ : ∃ i, c.run.held.findIdx? (s.holdsTile tile quire) = some i := by
    refine Option.isSome_iff_exists.1 ?_
    rw [List.findIdx?_isSome]
    exact List.any_eq_true.2 ⟨x, List.mem_of_find?_eq_some hx, List.find?_some hx⟩
  have hall : (s.itemUses c tile).all (fun u => s.useReady c x tile u.1 u.2) = true := List.all_eq_true.2 hr
  refine ⟨i, ?_⟩
  unfold State.holdsTile at hx hi
  simp only [execTileComplete, hc, hi, hx, hs, hp, hall]
  cases ok <;> rfl
end

/-! ### Settled -/

theorem planeCmd_opcode {c : Cmd} (h : planeCmd c = true) (hop : c.opcode ≠ 0x01) : c.opcode = 0x02 := by
  simp only [planeCmd, Bool.or_eq_true, Bool.and_eq_true, beq_iff_eq] at h
  exact (h.resolve_left hop).1

/-- A fetch changes no command, so what is then noted in the run is all that changes of this one. -/
theorem State.setRun_fetched {s : State} {id : Nat} {c : Cmd} (hc : s.cmd? id = some c) (op n : Nat) (f : Run → Run) :
    ((s.fetched c op n).setRun id f).cmd? id = some { c with run := f c.run } ∧ HostKept s ((s.fetched c op n).setRun id f)
      ∧ VersionsKept s ((s.fetched c op n).setRun id f) := by
  have hcmd : (s.fetched c op n).cmd? id = some c := (State.cmd?_kept (State.fetched_but (covers_among _) s c op n) rfl id).trans hc
  have hX := covers_among (cacheFields ++ lineFields ++ [.stores, .cmds, .progress])
  have hbut := (State.setRun_but (hX.mono (by decide)) (s.fetched c op n) id f).trans (State.fetched_but (hX.mono (by decide)) s c op n)
  exact ⟨State.cmd?_setRun hcmd f, ((Quiet.fetched s c op n).trans (Quiet.setRun _ id f)).hostKept, State.versions_kept hbut rfl⟩

/-- Settles O51: a claim by the group that is next and by what the plane prefers, and each event of running work by its own arm. -/
theorem planesClaimWork : Obligations.PlanesClaimWork := by
  unfold Obligations.PlanesClaimWork
  refine ⟨⟨fun s u id die quire plane c hs hc hpl hu hh hfree hlt hon hg hq hd hcl => ?_, fun segs die _ => ⟨claimGroup_own, fun hle v hv hl => ?_⟩⟩,
    fun s id c h hp hpl => ⟨fun op n hu hf => ?_, fun op n x hx ht ha => ?_, fun tile op n t x hx huse hready hage hw => ?_,
      fun tile op n t x w hx hw hin hlim hlate => execStallLimitExpiry_plane h hp hpl hx hw hin hlim hlate, fun tile quire x hx hr => ?_⟩,
    fun s id c op k o h hp hpl ho hk => ⟨fun n ht hn => execT3FetchError_whole h hp hpl ho hk ht hn,
      fun tile n t hlim hlate => execStallLimitExpiry_whole h hp hpl ho hk hlim hlate tile n⟩⟩
  · have hmay : MayClaim s id die quire plane c := ⟨hs, hc, hpl, hu, hh, hfree, hlt, hon, hg, hq, hd⟩
    exact ⟨execUnitClaim_claims hmay hcl, fun x hmem hne hxp hxh hxon hpref hgive => execUnitClaim_outbid hmay hcl hmem hne hxp hxh hxon hpref hgive⟩
  · exact ⟨stealFrom_ne _ _ v hv, claimGroup_steal hle hv hl⟩
  · obtain ⟨hcmd, hhost, hver⟩ := State.setRun_fetched h.2.1 op n (fun r => r.arrive (s.arrivals c op n))
    exact ⟨_, _, execIngotArrival_arrives h hp hpl hu hf, hcmd, fun y hy => Run.mem_arrive_new _ (State.mem_arrivals hy),
      fun a ha => Run.mem_arrive_old ha _, rfl, hhost, hver⟩
  · have hexec := execT3FetchError_plane h hp hpl hx ht ha
    refine ⟨fun h0 => hexec.trans (congrArg _ (if_pos h0)), fun h0 => ⟨_, _, hexec.trans (congrArg _ (if_neg h0)), ?_, State.cmd?_setRun h.2.1 _, rfl⟩⟩
    rw [State.setRun_eq h.2.1]
    rfl
  · have hc : (s.reach x.die t).cmd? id = some c := h.2.1
    obtain ⟨d, hd, hfall, hwait⟩ := State.judged_cmd hc tile op n ((s.reach x.die t).counter x.die)
    exact ⟨_, d, execUseDeadlineExpiry_judges h hp hpl hx huse hready hage hw, hd, hfall, hwait⟩
  · refine ⟨fun ht ha => ?_, fun hrerun => ?_, fun hrerun => ?_⟩
    · obtain ⟨i, hi⟩ := execTileComplete_eq h hp hx hr true
      obtain ⟨r, hrun⟩ := State.released_cmd h.2.1 tile quire i x
      have hdone := State.settleItem_finishes (State.released_but s id c tile quire i x) hrun ht (fun hop => ha (planeCmd_opcode hpl hop)) quire x
      obtain ⟨d, hd, htile⟩ := KeepsDone.closeWork _ id id tile hdone
      exact ⟨_, d, hi, hd, htile⟩
    · obtain ⟨i, hi⟩ := execTileComplete_eq h hp hx hr false
      obtain ⟨d, hd⟩ := State.residueMiss_reruns s id (quire / 256) (quire % 256) (s.storeFails c x tile ++ s.itemFails c (quire / 256) tile) hrerun
      exact ⟨_, d, hi, hd⟩
    · obtain ⟨i, hi⟩ := execTileComplete_eq h hp hx hr false
      exact ⟨_, hi, State.residueMiss_ends s id (quire / 256) (quire % 256) _ hrerun⟩

end Sys2Proof.Machine
end

section
/-! PROOF. What metering and the shared caches leave of partitions and dies: the partitions but for their regulators' buckets, and the staging of the dies (R327, R329, R455, R456). -/

namespace Sys2Proof.Machine

/-- What metering and the shared caches leave of a state: its partitions without their buckets, and the staging of its dies. -/
def State.unmetered (s : State) : List (Nat × Part) × List (NMap Nat) :=
  (s.parts.map (fun x => (x.1, x.2.unmetered)), s.dies.map DieState.staging)

theorem sameParts_of_unmetered {s t : State} (h : t.unmetered = s.unmetered) : SameParts s t := congrArg Prod.fst h

/-- Dies that agree in their units and in their staging agree in all that outlasts their caches. -/
theorem sameDies_of_unmetered {s t : State} (hu : SameUnits s t) (h : t.unmetered = s.unmetered) : SameDies s t := by
  have hstaging : t.dies.map DieState.staging = s.dies.map DieState.staging := congrArg Prod.snd h
  have hwhole : ∀ l : List DieState, l.map DieState.lasting =
      List.zipWith (fun (x : DieState) g => { x with staging := g }) (l.map (fun x => { x.lasting with staging := [] })) (l.map DieState.staging) := fun l => by
    rw [List.zipWith_map, List.zipWith_self]
    rfl
  rw [SameDies, hwhole, hwhole, hu, hstaging]

/-! ### What leaves partitions and staging as they are -/

/-- The fields that hold partitions or staging. -/
def meteredFields : List Field := [.parts, .dies, .stores]

theorem State.unmetered_of_but {L : List Field} {s t : State} (h : t.but (Field.among L) = s.but (Field.among L))
    (hL : ∀ f ∈ meteredFields, Field.among L f = false) : t.unmetered = s.unmetered := by
  have hparts : t.parts = s.parts := (congrArg State.parts (State.eq_take h)).trans (cond_eq_right (hL .parts (by decide)) _ _)
  have hdies : t.dies = s.dies :=
    (congrArg State.dies (State.eq_take h)).trans (cond_eq_right (by rw [hL .dies (by decide), hL .stores (by decide)]; rfl) _ _)
  rw [State.unmetered, hparts, hdies, State.unmetered]

@[simp] theorem State.unmetered_ite (p : Prop) [Decidable p] (s t : State) : (if p then s else t).unmetered = if p then s.unmetered else t.unmetered :=
  apply_ite _ _ _ _

theorem foldl_unmetered {α : Type} (f : State → α → State) (l : List α) (s : State) (hf : ∀ (a : State) (x : α), (f a x).unmetered = a.unmetered) :
    (l.foldl f s).unmetered = s.unmetered := by
  induction l generalizing s with
  | nil => rfl
  | cons x l ih => exact (ih _).trans (hf _ _)

/-- The partitions change their buckets alone. -/
theorem State.parts_unmetered (s : State) (m : NMap Part) (hm : m.map (fun x => (x.1, x.2.unmetered)) = s.parts.map (fun x => (x.1, x.2.unmetered))) :
    State.unmetered { s with parts := m } = s.unmetered :=
  congrArg (·, s.dies.map DieState.staging) hm

theorem State.setDie_unmetered (s : State) (d : Nat) (x : DieState) (hx : x.staging = (s.dieAt d).staging) : (s.setDie d x).unmetered = s.unmetered :=
  congrArg (s.parts.map (fun x => (x.1, x.2.unmetered)), ·) (map_set_of_getD DieState.staging _ _ _ ({} : DieState) hx)

theorem State.mapDies_unmetered (s : State) (f : DieState → DieState) (hf : ∀ x, (f x).staging = x.staging) :
    State.unmetered { s with dies := s.dies.map f } = s.unmetered := by
  refine congrArg (s.parts.map (fun x => (x.1, x.2.unmetered)), ·) ?_
  rw [List.map_map]
  exact List.map_congr_left fun x _ => hf x

/-! ### Metered requests (R455, R456) -/

theorem State.meter_unmetered (s : State) (part res inst n : Nat) : (s.meter part res inst n).unmetered = s.unmetered := by
  refine State.parts_unmetered s _ ?_
  rw [NMap.modify, List.map_map]
  refine List.map_congr_left fun p _ => ?_
  simp only [Function.comp_apply]
  split
  · split <;> rfl
  · rfl

theorem State.visit_unmetered (s : State) (q part : Nat) (x : ResQueue) : (s.visit q part x).unmetered = s.unmetered :=
  foldl_unmetered _ _ _ fun a n => State.meter_unmetered a _ _ _ n

theorem State.serveQueue_unmetered : ∀ (fuel q : Nat) (s : State), (State.serveQueue fuel q s).unmetered = s.unmetered
  | 0, _, _ => rfl
  | fuel + 1, q, s => by
    unfold State.serveQueue
    split
    · rfl
    · split
      · exact (State.serveQueue_unmetered fuel q _).trans (State.visit_unmetered s q _ _)
      · rfl

theorem State.drain_unmetered (s : State) (q : Nat) : (s.drain q).unmetered = s.unmetered := by
  unfold State.drain
  split
  · exact State.serveQueue_unmetered _ q s
  · rfl

@[simp] theorem State.request_unmetered (s : State) (q part n : Nat) : (s.request q part n).unmetered = s.unmetered := by
  unfold State.request
  split
  · rfl
  · exact State.drain_unmetered _ q

@[simp] theorem State.bulkDma_unmetered (s : State) (part : Nat) (write : Bool) (a n : Nat) : (s.bulkDma part write a n).unmetered = s.unmetered :=
  State.request_unmetered _ _ _ _

@[simp] theorem State.bulkWrite_unmetered (s : State) (part a : Nat) (bs : Bytes) : (s.bulkWrite part a bs).unmetered = s.unmetered :=
  State.request_unmetered _ _ _ _

@[simp] theorem State.sendSpineFor_unmetered (s : State) (part src dst ch : Nat) (p : Bytes) : (s.sendSpineFor part src dst ch p).unmetered = s.unmetered :=
  (State.unmetered_of_but (State.sendSpine_but (covers_among _) _ src dst ch p) (by decide)).trans (State.request_unmetered s _ _ _)

@[simp] theorem State.farLines_unmetered (s : State) (part die home n : Nat) (write : Bool) : (s.farLines part die home n write).unmetered = s.unmetered := by
  have hsend : ∀ (u : State) (src dst ch size n : Nat), (u.sendSized src dst ch size n).unmetered = u.unmetered := fun u src dst ch size n =>
    State.unmetered_of_but (State.sendSized_but (covers_among _) u src dst ch size n) (by decide)
  unfold State.farLines
  split
  · rfl
  · simp only [hsend, State.request_unmetered]

@[simp] theorem State.sendLinkFor_unmetered (s : State) (part l : Nat) (m : Msg) : (s.sendLinkFor part l m).unmetered = s.unmetered := by
  unfold State.sendLinkFor
  repeat' split
  · rfl
  · exact State.request_unmetered s _ _ _
  · rfl

/-! ### Caches, stores and frames (R327, R329) -/

theorem DieState.touch_staging (x : DieState) (line : Nat) (write pin : Bool) : (x.touch line write pin).staging = x.staging := by
  unfold DieState.touch
  dsimp only
  repeat' split
  all_goals rfl

@[simp] theorem State.touchLine_unmetered (s : State) (part line : Nat) (write pin : Bool) : (s.touchLine part line write pin).unmetered = s.unmetered := by
  have hdie := State.setDie_unmetered s (homeOf (line * 128)) _ (DieState.touch_staging (s.dieAt (homeOf (line * 128))) line write pin)
  unfold State.touchLine
  refine (foldl_unmetered _ _ _ fun a e => State.request_unmetered a _ _ _).trans ?_
  simp only [State.unmetered_ite, State.request_unmetered, hdie, ite_self]

@[simp] theorem State.touchFrame_unmetered (s : State) (d n off len : Nat) (write : Bool) : (s.touchFrame d n off len write).unmetered = s.unmetered := by
  unfold State.touchFrame
  split
  · exact foldl_unmetered _ _ _ fun a i => State.touchLine_unmetered a _ _ _ _
  · rfl

@[simp] theorem State.touchSlot_unmetered (s : State) (part : Nat) (o : Obj) (v n off len : Nat) (write : Bool) :
    (s.touchSlot part o v n off len write).unmetered = s.unmetered := by
  unfold State.touchSlot
  split
  · rfl
  · refine foldl_unmetered _ _ _ fun a d => foldl_unmetered _ _ _ fun b i => ?_
    split
    · exact State.touchLine_unmetered b _ _ _ _
    · rfl

theorem State.dropKey_unmetered (s : State) (key : Nat) : (s.dropKey key).unmetered = s.unmetered := State.mapDies_unmetered s _ fun _ => rfl

theorem State.stageAt_unmetered (s : State) (d q : Nat) (c : T0Copy) : (s.stageAt d q c).unmetered = s.unmetered := State.setDie_unmetered s d _ rfl

theorem State.freeFrame_unmetered (s : State) (d n : Nat) : (s.freeFrame d n).unmetered = s.unmetered := by
  unfold State.freeFrame
  split
  · exact State.dropKey_unmetered _ _
  · rfl

theorem State.lineWrite_unmetered (s : State) (x : Nat) (b : Bytes) : (s.lineWrite x b).unmetered = s.unmetered := by
  unfold State.lineWrite
  split
  · exact State.mapDies_unmetered _ _ fun _ => rfl
  · split
    · exact State.dropKey_unmetered _ _
    · rfl

theorem State.reply_unmetered (s : State) (x die kind unit : Nat) (b : Bytes) : (s.reply x die kind unit b).unmetered = s.unmetered := by
  unfold State.reply
  split
  · rfl
  · exact State.sendSpineFor_unmetered _ _ _ _ _ _

/-! ### The T2 cache of the T3 tier (R358) -/

theorem State.writeBack_unmetered (s : State) (key n : Nat) : (s.writeBack key n).unmetered = s.unmetered := by
  unfold State.writeBack
  split
  · split
    · exact (State.bulkWrite_unmetered _ _ _ _).trans (State.request_unmetered s _ _ _)
    · rfl
  · rfl

theorem State.evict_unmetered (s : State) (e : Nat × Nat × Nat) : (s.evict e).unmetered = s.unmetered := by
  unfold State.evict
  split
  · next o _ =>
    change (if slotIn o.vmap e.2.2 = e.2.1 then s.writeBack e.1 e.2.2 else s).unmetered = s.unmetered
    rw [State.unmetered_ite, State.writeBack_unmetered, ite_self]
  · rfl

theorem State.shrinkCache_unmetered (s : State) (part d : Nat) : (s.shrinkCache part d).unmetered = s.unmetered := by
  refine foldl_unmetered _ _ _ fun a e => ?_
  rw [State.unmetered_ite, State.evict_unmetered, ite_self]

@[simp] theorem State.cacheT3_unmetered (s : State) (key v n len : Nat) (runs : List (Nat × Nat)) : (s.cacheT3 key v n len runs).unmetered = s.unmetered := by
  have hruns : ∀ (u : State) (w q : Nat) (at_ : Nat → Nat),
      (runs.foldl (fun (a : State) r => (a.bulkDma w false (at_ r.1) r.2).request q w r.2) u).unmetered = u.unmetered := fun u w q at_ =>
    foldl_unmetered _ _ _ fun a r => (State.request_unmetered _ _ _ _).trans (State.bulkDma_unmetered a _ _ _ _)
  unfold State.cacheT3
  split
  · next o _ =>
    refine (State.shrinkCache_unmetered _ _ _).trans ?_
    change State.unmetered (if _ then _ else _) = _
    rw [State.unmetered_ite, hruns _ _ _ (o.hostSlot v n + ·), State.request_unmetered, ite_self]
  · rfl

@[simp] theorem State.readMoved_unmetered (s : State) (key v n : Nat) : (s.readMoved key v n).unmetered = s.unmetered := by
  unfold State.readMoved
  split
  · simp only [State.unmetered_ite, State.cacheT3_unmetered]
    rw [foldl_unmetered _ _ _ fun a r => State.touchSlot_unmetered a _ _ _ _ _ _ _]
    simp only [ite_self]
  · rfl

/-! ### Work at the units (R60, R158, R365) -/

@[simp] theorem State.setRun_unmetered (s : State) (id : Nat) (f : Run → Run) : (s.setRun id f).unmetered = s.unmetered :=
  State.unmetered_of_but (State.setRun_but (covers_among _) s id f) (by decide)

theorem State.fetchOne_unmetered (s : State) (c : Cmd) (die : Nat) (r : Nat × Nat) : (s.fetchOne c die r).unmetered = s.unmetered := by
  unfold State.fetchOne
  split
  · exact (State.farLines_unmetered _ _ _ _ _ _).trans (State.readMoved_unmetered s _ _ _)
  · rfl

theorem State.scanFetch_unmetered (s : State) (id : Nat) (c : Cmd) (x : TCtx) (aux : Bool) (groups : Nat) :
    (s.scanFetch id c x aux groups).unmetered = s.unmetered := by
  refine foldl_unmetered _ _ _ fun a r => ?_
  split
  · exact (State.setRun_unmetered _ _ _).trans (foldl_unmetered _ _ _ fun b y => State.fetchOne_unmetered b _ _ y)
  · rfl

theorem State.runDelta_unmetered (s : State) (id : Nat) : (s.runDelta id).unmetered = s.unmetered := by
  unfold State.runDelta
  split
  · split
    · rfl
    · split
      · simp only [State.unmetered_ite, State.setRun_unmetered, State.scanFetch_unmetered, ite_self]
      · rfl
  · rfl

theorem State.runNorm_unmetered (s : State) (id : Nat) : (s.runNorm id).unmetered = s.unmetered := by
  unfold State.runNorm
  split
  · split
    · rfl
    · split
      · simp only [State.unmetered_ite, State.setRun_unmetered, State.scanFetch_unmetered, ite_self]
      · rfl
  · rfl

theorem State.openWork_unmetered (s : State) (id : Nat) : (s.openWork id).unmetered = s.unmetered := by
  have hstart : (s.ensureStart id).unmetered = s.unmetered := State.unmetered_of_but (State.ensureStart_but (covers_among _) s id) (by decide)
  have hattend : (State.openAttend (s.ensureStart id) id).unmetered = s.unmetered :=
    (State.unmetered_of_but (State.openAttend_but (covers_among _) _ id) (by decide)).trans hstart
  have htensor : ∀ u : State, (u.openTensor id).unmetered = u.unmetered := fun u =>
    State.unmetered_of_but (State.openTensor_but (covers_among _) u id) (by decide)
  unfold State.openWork
  dsimp only
  split
  · split
    · rfl
    · split
      · exact hattend
      · split
        · simp only [htensor, State.unmetered_ite, State.runNorm_unmetered, State.runDelta_unmetered, hstart, ite_self]
        · exact hstart
  · rfl

theorem State.openUnit_unmetered (s : State) (c : Cmd) (id die quire plane : Nat) (items : List Nat) :
    (s.openUnit c id die quire plane items).unmetered = s.unmetered := by
  unfold State.openUnit
  split
  · exact State.setDie_unmetered s _ _ rfl
  · rfl

theorem State.claim_unmetered {s t : State} {id die quire plane : Nat} (e : s.claim id die quire plane = some t) : t.unmetered = s.unmetered := by
  unfold State.claim at e
  dsimp only at e
  repeat' split at e
  all_goals cases e
  all_goals exact (State.openUnit_unmetered _ _ _ _ _ _ _).trans (State.setRun_unmetered s _ _)

theorem State.fetchUse_unmetered (s : State) (c : Cmd) (role n : Nat) : (s.fetchUse c role n).1.unmetered = s.unmetered := by
  have hleaf : ∀ (part die : Nat) (e : LeafEntry) (off n : Nat), (s.readLeaf part die e off n).unmetered = s.unmetered := fun part die e off n => by
    simp only [State.readLeaf, State.unmetered_ite, State.bulkDma_unmetered, State.farLines_unmetered, State.touchFrame_unmetered, ite_self]
  unfold State.fetchUse
  split
  · exact State.fetchOne_unmetered s _ _ _
  · split
    · dsimp only
      split
      · exact hleaf _ _ _ _ _
      · exact hleaf _ _ _ _ _
    · rfl

/-! ### Sequences (R290, R293) -/

theorem State.unref_unmetered (s : State) (e : LeafEntry) : (s.unref e).unmetered = s.unmetered := by
  unfold State.unref
  repeat' split
  · rfl
  · exact State.freeFrame_unmetered s _ _
  · rfl
  · rfl

theorem State.releaseSeq_unmetered (s : State) (idx : Nat) : (s.releaseSeq idx).unmetered = s.unmetered := by
  have hentries : ∀ (pages : NMap Nat) (ws : List Nat), (s.touchEntries idx pages ws false).unmetered = s.unmetered := fun pages ws => by
    refine foldl_unmetered _ _ _ fun a w => ?_
    split
    · exact State.touchFrame_unmetered a _ _ _ _ _
    · rfl
  calc (s.releaseSeq idx).unmetered
      = (((s.seqAt idx).leaves.foldl (fun (a : State) (e : Nat × LeafEntry) => a.unref e.2) _)).unmetered :=
        foldl_unmetered _ _ _ fun a p => State.freeFrame_unmetered a _ _
    _ = (s.touchEntries idx (s.seqAt idx).pages ((s.seqAt idx).leaves.map (·.1)) false).unmetered :=
        foldl_unmetered _ _ _ fun a e => State.unref_unmetered a e.2
    _ = s.unmetered := hentries _ _

/-! ### Loads downstream (R429, R430) -/

theorem State.setLoad_unmetered (s : State) (id : Nat) (f : Load → Load) : (s.setLoad id f).unmetered = s.unmetered :=
  State.unmetered_of_but (State.setLoad_but (covers_among _) s id f) (by decide)

theorem State.sendDown_unmetered (s : State) (c : Cmd) (m : Msg) : (s.sendDown c m).unmetered = s.unmetered := by
  rw [State.sendDown, State.unmetered_ite, State.sendLinkFor_unmetered, ite_self]

theorem State.forwardShard_unmetered (s : State) (id : Nat) (c : Cmd) (i : Nat) (b : Bytes) : (s.forwardShard id c i b).unmetered = s.unmetered := by
  unfold State.forwardShard
  dsimp only
  exact (State.setLoad_unmetered _ _ _).trans (foldl_unmetered _ _ _ fun a _ => State.sendDown_unmetered a c _)

theorem State.feedDown_unmetered (s : State) (id : Nat) : (s.feedDown id).unmetered = s.unmetered := by
  unfold State.feedDown
  split
  · rfl
  · next c _ =>
    split
    · rfl
    · split
      · rfl
      · refine (foldl_unmetered _ _ _ fun a e => ?_).trans ?_
        · exact State.forwardShard_unmetered a id c _ _
        split
        · rfl
        · rw [State.setLoad_unmetered]
          exact foldl_unmetered _ _ _ fun a j => State.sendDown_unmetered a c _

theorem State.resendShard_unmetered (s : State) (id : Nat) (c : Cmd) (i : Nat) (b : Bytes) : (s.resendShard id c i b).unmetered = s.unmetered :=
  State.forwardShard_unmetered _ id c i b

end Sys2Proof.Machine
end

section
/-! PROOF. The events that change of partitions and dies no more than metering and the caches do (R158, R290, R332, R358, R365, R401, R430, R456). -/

namespace Sys2Proof.Machine

/-! ### Commands that change the metering and the caches alone -/

/-- An outcome that is a next state keeps the partitions but for their buckets, and the staging of the dies. -/
def SameUnmetered (s : State) (o : Host.Outcome State Fault Refusal) : Prop := ∀ t, o = .next t → t.unmetered = s.unmetered

@[simp] theorem sameUnmetered_next (s t : State) : SameUnmetered s (.next t) ↔ t.unmetered = s.unmetered := by
  simp [SameUnmetered]

theorem sameUnmetered_fault (s : State) (f : Fault) : SameUnmetered s (.fault f) := fun _ e => nomatch e

theorem execUnitClaim_unmetered (cmd die quire plane : Nat) (s : State) : SameUnmetered s (execUnitClaim cmd die quire plane s) := by
  have hopen := State.openWork_unmetered s cmd
  unfold execUnitClaim
  split
  · split
    · dsimp only
      split
      · exact (sameUnmetered_next _ _).2 hopen
      · next e =>
        refine (sameUnmetered_next _ _).2 ?_
        rw [State.unmetered_ite, State.claim_unmetered e, hopen, ite_self]
    · exact (sameUnmetered_next _ _).2 rfl
  · exact (sameUnmetered_next _ _).2 rfl

theorem execIngotArrival_unmetered (cmd operand ingot : Nat) (s : State) : SameUnmetered s (execIngotArrival cmd operand ingot s) := by
  unfold execIngotArrival
  split
  · next c _ =>
    dsimp only
    split
    · refine (sameUnmetered_next _ _).2 ((State.setRun_unmetered _ _ _).trans ?_)
      have hfetch := State.fetchUse_unmetered s c operand ingot
      split
      · exact (foldl_unmetered _ _ _ fun a (h : Held) => State.stageAt_unmetered a h.die h.quire _).trans hfetch
      · exact hfetch
    · exact (sameUnmetered_next _ _).2 rfl
  · exact (sameUnmetered_next _ _).2 rfl

theorem execSeqReleaseComplete_unmetered (index : Nat) (s : State) : SameUnmetered s (execSeqReleaseComplete index s) := by
  unfold execSeqReleaseComplete
  split
  · exact (sameUnmetered_next _ _).2 (State.releaseSeq_unmetered s index)
  · exact (sameUnmetered_next _ _).2 rfl

theorem Part.refill_unmetered (p : Part) (x : Nat × Nat) : (p.refill x).unmetered = p.unmetered := by
  unfold Part.refill
  dsimp only
  split <;> rfl

theorem execRegulatorRefill_unmetered (die : Nat) (t : Word) (s : State) : SameUnmetered s (execRegulatorRefill die t s) := by
  have hrefill : ∀ (l : List (Nat × Nat)) (p : Part), (l.foldl Part.refill p).unmetered = p.unmetered := fun l => by
    induction l with
    | nil => exact fun _ => rfl
    | cons x l ih => exact fun p => (ih _).trans (Part.refill_unmetered p x)
  unfold execRegulatorRefill
  dsimp only
  split
  · refine (sameUnmetered_next _ _).2 ((foldl_unmetered _ _ _ fun a (q : Nat × ResQueue) => State.drain_unmetered a q.1).trans ?_)
    refine State.parts_unmetered (s.reach die t) _ ?_
    rw [List.map_map]
    exact List.map_congr_left fun p _ => Prod.ext rfl (hrefill _ p.2)
  · exact (sameUnmetered_next _ _).2 rfl

theorem State.reportDrop_unmetered (s : State) (d kind unit reporter : Nat) : (s.reportDrop d kind unit reporter).unmetered = s.unmetered :=
  State.unmetered_of_but (State.reportDrop_but (covers_among _) s d kind unit reporter) (by decide)

/-- A request that arrives and is looked up in the shared cache. -/
theorem State.arrives_touchLine_unmetered {s u : State} {die x : Nat} {stamp : Stamp} (e : s.arrives die x stamp = some u) (part line : Nat) (write pin : Bool) :
    (u.touchLine part line write pin).unmetered = s.unmetered :=
  (State.touchLine_unmetered u _ _ _ _).trans (State.unmetered_of_but (State.arrives_but (covers_among _) s die x stamp e) (by decide))

theorem execFarAccessRequest_unmetered (die kind unit : Nat) (gen : Stamp) (addr : Nat) (isWrite : Bool) (data : Bytes) (s : State) :
    SameUnmetered s (execFarAccessRequest die kind unit gen addr isWrite data s) := by
  unfold execFarAccessRequest
  split
  · exact (sameUnmetered_next _ _).2 (State.reportDrop_unmetered s _ _ _ _)
  · split
    · exact sameUnmetered_fault _ _
    · split
      · exact (sameUnmetered_next _ _).2 rfl
      · next s0 e =>
        dsimp only
        split
        · exact (sameUnmetered_next _ _).2 ((State.lineWrite_unmetered _ _ _).trans (State.arrives_touchLine_unmetered e _ _ _ _))
        · exact (sameUnmetered_next _ _).2 ((State.reply_unmetered _ _ _ _ _ _).trans (State.arrives_touchLine_unmetered e _ _ _ _))

theorem execAtomicRequest_unmetered (die kind unit : Nat) (gen : Stamp) (addr : Nat) (req : AtomicReq) (width operand comparand : Nat) (s : State) :
    SameUnmetered s (execAtomicRequest die kind unit gen addr req width operand comparand s) := by
  unfold execAtomicRequest
  split
  · exact (sameUnmetered_next _ _).2 (State.reportDrop_unmetered s _ _ _ _)
  · split
    · exact sameUnmetered_fault _ _
    · split
      · exact (sameUnmetered_next _ _).2 rfl
      · next x _ _ s0 e =>
        have htouch := State.arrives_touchLine_unmetered (Option.ite_none_right_eq_some.1 e).2 (s.lineOwner x) (x / 128) true false
        dsimp only
        split
        · refine (sameUnmetered_next _ _).2 ((State.reply_unmetered _ _ _ _ _ _).trans ?_)
          rw [State.unmetered_ite, State.lineWrite_unmetered, htouch, ite_self]
        · refine (sameUnmetered_next _ _).2 ?_
          rw [State.unmetered_ite, State.lineWrite_unmetered, htouch, ite_self]

theorem execMessageForward_unmetered (link : Nat) (m : Msg) (s : State) : SameUnmetered s (execMessageForward link m s) := by
  have hdrop : ∀ u : State, (u.dropMsg link m.type).unmetered = u.unmetered := fun u =>
    State.unmetered_of_but (State.dropMsg_but (covers_among _) u link m.type) (by decide)
  unfold execMessageForward
  dsimp only
  split
  · exact (sameUnmetered_next _ _).2 rfl
  · split
    · exact (sameUnmetered_next _ _).2 (hdrop _)
    · split
      · exact (sameUnmetered_next _ _).2 rfl
      · split
        · exact (sameUnmetered_next _ _).2 (State.sendLinkFor_unmetered _ _ _ _)
        · exact (sameUnmetered_next _ _).2 (hdrop _)

theorem execRelayReady_unmetered (link : Nat) (m : Msg) (s : State) : SameUnmetered s (execRelayReady link m s) := by
  unfold execRelayReady
  dsimp only
  split
  · exact (sameUnmetered_next _ _).2 rfl
  · split
    · exact (sameUnmetered_next _ _).2 ((State.feedDown_unmetered _ _).trans (State.setLoad_unmetered _ _ _))
    · exact (sameUnmetered_next _ _).2 rfl

theorem relayMsg_unmetered (type : Nat) (up : Bool) (link : Nat) (m : Msg) (f : Nat → Cmd → Load → State → State) (s : State)
    (hf : ∀ i c k u, (f i c k u).unmetered = u.unmetered) : (relayMsg type up link m f s).unmetered = s.unmetered := by
  unfold relayMsg
  dsimp only
  split
  · rfl
  · split
    · split
      · exact (hf _ _ _ _).trans (State.setLoad_unmetered _ _ _)
      · rfl
    · rfl

theorem execRelayNak_unmetered (link : Nat) (m : Msg) (s : State) : SameUnmetered s (execRelayNak link m s) := by
  refine (sameUnmetered_next _ _).2 (relayMsg_unmetered _ _ _ _ _ _ fun i c k u => ?_)
  split
  · rw [State.unmetered_ite, State.resendShard_unmetered, ite_self]
  · rfl

theorem execT3WriteBack_unmetered (part handle ingot : Nat) (s : State) : SameUnmetered s (execT3WriteBack part handle ingot s) := by
  unfold execT3WriteBack
  dsimp only
  split
  · split
    · split
      · exact (sameUnmetered_next _ _).2 (State.evict_unmetered s _)
      · split
        · exact (sameUnmetered_next _ _).2 (State.writeBack_unmetered s _ _)
        · exact (sameUnmetered_next _ _).2 rfl
    · exact (sameUnmetered_next _ _).2 rfl
  · exact (sameUnmetered_next _ _).2 rfl

/-- The commands that change of a partition its buckets alone, and of a die what its caches, stores and tiles hold. -/
def Instr.metersOnly : Instr → Bool
  | .unitClaim .. | .ingotArrival .. | .seqReleaseComplete .. | .regulatorRefill .. | .farAccessRequest .. | .atomicRequest .. | .messageForward ..
  | .relayReady .. | .relayNak .. | .t3WriteBack .. => true
  | _ => false

theorem exec_unmetered (c : Instr) (hc : Instr.metersOnly c = true) (s : State) : SameUnmetered s (exec c s) := by
  cases c with
  | unitClaim cmd die quire plane => exact execUnitClaim_unmetered cmd die quire plane s
  | ingotArrival cmd operand ingot => exact execIngotArrival_unmetered cmd operand ingot s
  | seqReleaseComplete index => exact execSeqReleaseComplete_unmetered index s
  | regulatorRefill die t => exact execRegulatorRefill_unmetered die t s
  | farAccessRequest die kind unit gen addr isWrite data => exact execFarAccessRequest_unmetered die kind unit gen addr isWrite data s
  | atomicRequest die kind unit gen addr req width operand comparand =>
    exact execAtomicRequest_unmetered die kind unit gen addr req width operand comparand s
  | messageForward link m => exact execMessageForward_unmetered link m s
  | relayReady link m => exact execRelayReady_unmetered link m s
  | relayNak link m => exact execRelayNak_unmetered link m s
  | t3WriteBack part handle ingot => exact execT3WriteBack_unmetered part handle ingot s
  | _ => exact absurd hc Bool.false_ne_true

end Sys2Proof.Machine
end

section
/-! PROOF. The frames of the events inside the part (R158, R332, R374, R385, R393, R519). -/

namespace Sys2Proof.Machine

/-! ### Frames of single events, with what is kept of the fields that change -/

section
variable {q : Instr} {s t : State} (e : exec q s = .next t)
include e

/-- A command leaves the state as it is but for the fields it may change. -/
theorem take_of_fields : t = s.take (Field.among (Instr.fields q)) t := State.eq_take (exec_but q (covers_among _) s t e)

theorem fences_of_fields (hq : Field.among (Instr.fields q) .spine = false) (a b : Nat) :
    (t.spineAt a b).fenced = (s.spineAt a b).fenced ∧ (t.spineAt a b).gen = (s.spineAt a b).gen :=
  State.fences_kept (exec_but q (covers_among _) s t e) hq a b
end

theorem sameParts_of_metersOnly {q : Instr} {s t : State} (e : exec q s = .next t) (hm : Instr.metersOnly q = true) : SameParts s t :=
  sameParts_of_unmetered (exec_unmetered q hm s t e)

theorem sameDies_of_metersOnly {q : Instr} {s t : State} (e : exec q s = .next t) (hm : Instr.metersOnly q = true)
    (hq : Field.among (Instr.fields q) .dies = false) : SameDies s t :=
  sameDies_of_unmetered (State.units_kept (exec_but q (covers_among _) s t e) hq) (exec_unmetered q hm s t e)

/-- Commands that change fields of a list alone, of partitions the buckets, of dies what the caches hold, and no fence of the spine. -/
theorem lineFrame_of_all (L : List Field) {l : List Instr} (hl : l.all (fun q => (Instr.fields q).all L.contains) = true) (hm : l.all Instr.metersOnly = true)
    (hd : l.all (fun q => !Field.among (Instr.fields q) .dies && !Field.among (Instr.fields q) .spine) = true) {s t : State} :
    ∀ q ∈ l, exec q s = .next t → t = s.take (Field.among L) t ∧ SameParts s t ∧ SameDies s t
      ∧ ∀ a b, (t.spineAt a b).fenced = (s.spineAt a b).fenced ∧ (t.spineAt a b).gen = (s.spineAt a b).gen := by
  intro q hq e
  have hmeters := List.all_eq_true.1 hm q hq
  have hkeeps := List.all_eq_true.1 hd q hq
  rw [Bool.and_eq_true, Bool.not_eq_true', Bool.not_eq_true'] at hkeeps
  obtain ⟨hdies, hspine⟩ := hkeeps
  exact ⟨take_of_all L hl q hq e, sameParts_of_metersOnly e hmeters, sameDies_of_metersOnly e hmeters hdies, fences_of_fields e hspine⟩

/-! ### A deferred notification drops no report (R540) -/

theorem State.notifyErr_dropped (s : State) (d slot : Nat) : (s.notifyErr d slot).dropped = s.dropped := by
  have hsend : ∀ (u : State) (fn vec : Nat), (u.sendMsix fn vec).dropped = u.dropped := fun u fn vec => by
    unfold State.sendMsix
    dsimp only
    split <;> rfl
  unfold State.notifyErr
  split
  · rfl
  · simp only [State.refreshAttn, apply_ite State.dropped, ite_self]
    split <;> simp only [apply_ite State.dropped, hsend, ite_self, State.setErrs_dropped]

theorem execErrorDeferredNotify_dropped {s t : State} {die slot : Nat} {t0 : Word} (e : exec (.errorDeferredNotify die slot t0) s = .next t) :
    t.dropped = s.dropped := by
  change execErrorDeferredNotify die slot t0 s = .next t at e
  unfold execErrorDeferredNotify at e
  dsimp only at e
  split at e
  · split at e
    · cases e
      exact State.notifyErr_dropped _ _ _
    · cases e
      rfl
  · cases e
    rfl

/-- What a notification may change. -/
def notifyFields : List Field := [.attn, .msix, .msixOut, .windows, .pldmOut, .errs]

theorem errorDeferredNotify_take {s t : State} {die slot : Nat} {t0 : Word} (e : exec (.errorDeferredNotify die slot t0) s = .next t) :
    t = s.take (Field.among (.counters :: notifyFields)) t :=
  calc t = { s.take (Field.among (.counters :: notifyFields)) t with dropped := t.dropped } := take_of_fields e
    _ = { s.take (Field.among (.counters :: notifyFields)) t with dropped := s.dropped } := by rw [execErrorDeferredNotify_dropped e]

/-- What an access of another die's unit may change. -/
def farFields : List Field := reportFields ++ sendFields ++ meterFields ++ [.contents, .frames, .hbm, .poison, .stores, .unitOut]

/-- Settles O10: the fields that each event may change are among those named, and what is kept of them. -/
theorem deviceEventFrames : Obligations.DeviceEventFrames := by
  unfold Obligations.DeviceEventFrames
  exact ⟨fun _ _ _ _ e => take_of_fields e,
    fun _ _ _ _ e => take_of_fields e,
    fun _ _ _ _ _ _ _ _ => lineFrame_of_all (putFields ++ lineFields) rfl rfl rfl,
    fun _ _ _ _ _ _ _ e => take_of_fields e,
    fun _ _ _ _ e => ⟨take_of_fields e, fences_of_fields e rfl⟩,
    fun _ _ _ _ _ _ _ => take_of_all [.cmds, .progress] rfl,
    fun _ _ _ e => ⟨take_of_fields e, sameParts_of_metersOnly e rfl, sameDies_of_metersOnly e rfl rfl,
      State.stacks_kept (exec_but _ (covers_among _) _ _ e) rfl⟩,
    fun _ _ _ _ e => take_of_fields e,
    fun _ _ _ _ _ e => take_of_fields e,
    fun _ _ _ _ e => take_of_fields e,
    fun _ _ _ _ e => ⟨take_of_fields e, sameParts_of_metersOnly e rfl⟩,
    fun _ _ _ _ _ e => ⟨take_of_fields e, fences_of_fields e rfl⟩,
    fun _ _ _ _ _ _ _ _ _ _ _ _ _ => lineFrame_of_all farFields rfl rfl rfl,
    fun _ _ _ _ _ e => take_of_fields e,
    fun _ _ _ e => ⟨take_of_fields e, fences_of_fields e rfl⟩,
    fun _ _ _ _ e => take_of_fields e,
    fun _ _ _ _ _ e => take_of_fields e,
    fun _ _ _ _ _ e => ⟨take_of_fields e, fences_of_fields e rfl⟩,
    fun _ _ _ _ _ e => ⟨take_of_fields e, fences_of_fields e rfl⟩,
    fun _ _ _ _ _ e => ⟨take_of_fields e, fences_of_fields e rfl⟩,
    fun _ _ _ _ e => ⟨take_of_fields e, fences_of_fields e rfl⟩,
    fun _ _ _ _ _ _ _ => take_of_all [.links, .frameOut] rfl,
    fun _ _ _ _ e => take_of_fields e,
    fun _ _ _ e => take_of_fields e,
    fun _ _ _ _ _ e => take_of_fields e,
    fun _ _ _ _ e => take_of_fields e,
    fun _ _ _ _ e => ⟨take_of_fields e, sameParts_of_metersOnly e rfl⟩,
    fun _ _ _ _ _ e => take_of_fields e,
    fun _ _ _ _ e => take_of_fields e,
    fun _ _ _ _ e => ⟨take_of_fields e, sameParts_of_metersOnly e rfl⟩,
    fun _ _ _ _ e => take_of_fields e,
    fun _ _ _ _ e => ⟨take_of_fields e, sameParts_of_metersOnly e rfl⟩,
    fun _ _ _ e => take_of_fields e,
    fun _ _ _ _ _ e => errorDeferredNotify_take e,
    fun _ _ _ _ _ e => ⟨take_of_fields e, sameParts_of_metersOnly e rfl⟩,
    fun _ _ _ _ _ e => take_of_fields e,
    fun _ _ _ _ _ e => take_of_fields e,
    fun _ _ _ _ _ e => take_of_fields e,
    fun _ _ _ _ _ _ _ _ _ => take_of_all [.counters, .power] rfl,
    fun _ _ _ _ _ e => take_of_fields e,
    fun _ _ _ e => take_of_fields e,
    fun _ _ _ e => take_of_fields e,
    fun _ _ _ e => take_of_fields e,
    fun _ _ e => take_of_fields e,
    fun _ _ _ e => take_of_fields e⟩

end Sys2Proof.Machine
end

section
/-! PROOF. CODEC_FRAME and DETECT_POST run, and an engine at a boundary takes its next item (R266, R460, R464, R467, R476). -/

namespace Sys2Proof.Machine

/-! ### Folds -/

/-- What a fold that keeps one of its items ends with is one of the list, or what it began with. -/
theorem mem_or_start_of_foldl {α : Type} {f : Option α → α → Option α} (hf : ∀ a x y, f a x = some y → y = x ∨ a = some y) {l : List α} {a : Option α}
    {y : α} (h : l.foldl f a = some y) : y ∈ l ∨ a = some y := by
  induction l generalizing a with
  | nil => exact .inr h
  | cons x l ih =>
    rcases ih h with hl | hx
    · exact .inl (List.mem_cons_of_mem _ hl)
    · exact (hf a x y hx).imp_left fun e => List.mem_cons.2 (.inl e)

theorem foldl_eq_start {α β : Type} {f : β → α → β} {b : β} {l : List α} (h : ∀ x ∈ l, f b x = b) : l.foldl f b = b := by
  induction l with
  | nil => rfl
  | cons x l ih =>
    rw [List.foldl_cons, h x List.mem_cons_self]
    exact ih fun y hy => h y (List.mem_cons_of_mem _ hy)

/-! ### Decision points -/

/-- The status carried of a list of failures is one of the order. -/
theorem mem_of_pickFail {order : List Nat} {fails : List (Nat × Nat)} {st dt : Nat} (h : pickFail order fails = some (st, dt)) : st ∈ order := by
  unfold pickFail at h
  split at h
  · next x hfind =>
    split at h
    · cases h
      exact List.mem_of_find?_eq_some hfind
    · cases h
  · cases h

/-- Command `id` stands at its decision point with OK or with a status of the order. -/
def Decided (t : State) (id : Nat) (order : List Nat) : Prop := ∃ d, t.cmd? id = some d ∧ d.phase = .ready ∧ (d.status = OK ∨ d.status ∈ order)

theorem Decided.toReady {s : State} {id : Nat} {c : Cmd} (hc : s.cmd? id = some c) {order : List Nat} {f : Cmd → Cmd}
    (hf : (f c).status = OK ∨ (f c).status ∈ order) : Decided (s.toReady id f) id order := by
  rw [State.toReady_eq hc]
  exact ⟨_, State.cmd?_setCmd_same .., rfl, hf⟩

theorem Decided.modCmd {s : State} {id : Nat} {order : List Nat} (h : Decided s id order) {f : Cmd → Cmd} (hp : ∀ c, (f c).phase = c.phase)
    (hs : ∀ c, (f c).status = c.status) : Decided (s.modCmd id f) id order := by
  obtain ⟨d, hd, hph, hst⟩ := h
  simp only [State.modCmd, hd]
  exact ⟨f d, State.cmd?_setCmd_same .., (hp d).trans hph, by rwa [hs d]⟩

theorem Quiet.modCmd (s : State) (id : Nat) {f : Cmd → Cmd} (hf : ∀ c, (f c).asks = c.asks) : Quiet s (s.modCmd id f) := by
  unfold State.modCmd
  split
  · next c hc => exact Quiet.setCmd hc (hf c)
  · exact Quiet.refl s

theorem Quiet.putObj (s : State) (id key off : Nat) (b : Bytes) : Quiet s (s.putObj id key off b) := Quiet.putObjBytes s id key _ off b

theorem Quiet.setEngine (s : State) (d : Nat) (e : Engine) : Quiet s (s.setEngine d e) :=
  Quiet.of_but (State.setEngine_but (covers_among [.engines]) s d e) (by decide)

/-- What a frame or a detection may change on its way to its decision point. -/
def engineRunFields : List Field := putFields ++ lineFields ++ [.fresh, .engines]

/-- Command `id` has come to its decision point with OK or with a status of the order, and has shown nothing yet. -/
def RunEnds (s t : State) (id : Nat) (c : Cmd) (order : List Nat) : Prop :=
  ∃ d, Stands s t id c d ∧ (d.status = OK ∨ d.status ∈ order) ∧ VersionsKept s t ∧ HostKept s t

/-- A run by quiet steps that ends at its decision point. -/
theorem Decided.ends {s t : State} {id : Nat} {c : Cmd} {order : List Nat} (h : Decided t id order) (hc : s.cmd? id = some c) (hq : Quiet s t)
    (hb : t.but (Field.among engineRunFields) = s.but (Field.among engineRunFields)) : RunEnds s t id c order := by
  obtain ⟨d, hd, hph, hst⟩ := h
  obtain ⟨e, he, hasks⟩ := hq.2 id c hc
  obtain rfl : e = d := Option.some.inj (he.symm.trans hd)
  simp only [Cmd.asks, Prod.mk.injEq] at hasks
  obtain ⟨hdesc, howner, hcq⟩ := hasks
  exact ⟨e, ⟨hd, hph, hdesc, howner, hcq, State.comps_kept hb rfl⟩, hst, State.versions_kept hb rfl, hq.hostKept⟩

/-- A body of quiet steps, and the decision point after it. -/
theorem Quiet.ends_ready {s u : State} {id : Nat} {c : Cmd} {order : List Nat} {f : Cmd → Cmd} (hq : Quiet s u)
    (hb : u.but (Field.among engineRunFields) = s.but (Field.among engineRunFields)) (hc : s.cmd? id = some c) (hf : ∀ d, (f d).asks = d.asks)
    (hs : ∀ d, (f d).status = OK ∨ (f d).status ∈ order) : RunEnds s (u.toReady id f) id c order := by
  obtain ⟨d, hd, -⟩ := hq.2 id c hc
  refine (Decided.toReady hd (hs d)).ends hc (hq.trans (Quiet.toReady hd f (hf d))) ?_
  exact (State.toReady_but ((covers_among engineRunFields).mono (by decide)) u id f).trans hb

/-! ### The engines and their streams -/

theorem State.stream?_setStream (s : State) {c : Cmd} (x : CodecStream) (hd : c.f 17 1 < s.engines.length) : (s.setStream c x).stream? c = some x := by
  simp only [State.stream?, State.setStream]
  rw [State.engineAt_setEngine_same _ _ _ hd]
  exact NMap.get?_set_same ..

theorem State.engines_finish (s : State) (id st dt : Nat) : (s.finish id st dt).engines = s.engines :=
  congrArg (·.state.engines) (State.finish_but (covers_among _) s id st dt)

theorem State.stream?_finish (s : State) (id st dt : Nat) (c : Cmd) : (s.finish id st dt).stream? c = s.stream? c := by
  unfold State.stream? State.engineAt
  rw [State.engines_finish]

/-- An engine that keeps its streams keeps the stream that a command names. -/
theorem State.stream?_setEngine (s : State) (c : Cmd) {d : Nat} {e : Engine} (he : e.streams = (s.engineAt d).streams) :
    (s.setEngine d e).stream? c = s.stream? c := by
  have hstreams : ((s.setEngine d e).engineAt (c.f 17 1)).streams = (s.engineAt (c.f 17 1)).streams := by
    by_cases hd : c.f 17 1 = d
    · subst hd
      by_cases hlen : c.f 17 1 < s.engines.length
      · rw [State.engineAt_setEngine_same _ _ _ hlen, he]
      · rw [State.setEngine, List.set_eq_of_length_le (Nat.not_lt.1 hlen)]
    · rw [State.engineAt_setEngine_ne _ _ hd]
  unfold State.stream?
  rw [hstreams]

theorem State.codecState_setEngine (s : State) (id : Nat) (c : Cmd) {d : Nat} {e : Engine} (he : e.streams = (s.engineAt d).streams) :
    (s.setEngine d e).codecState id c = s.codecState id c := by
  simp only [State.codecState, State.codecBound, State.codecRefs, State.stream?_setEngine s c he]
  rfl

theorem State.ensureStart_started {s : State} {id : Nat} {c : Cmd} (hc : s.cmd? id = some c) (hp : c.phase = .started) : s.ensureStart id = s := by
  simp only [State.ensureStart, hc]
  rw [if_neg (by simp [hp])]

/-- The turn of a started command is noted at its engine, whose streams stay. -/
theorem State.takeTurn_started {s : State} {id : Nat} {c : Cmd} (hc : s.cmd? id = some c) (hp : c.phase = .started) (d : Nat) :
    ∃ e : Engine, e.streams = (s.engineAt d).streams ∧ s.takeTurn d id = s.setEngine d e := by
  simp only [State.takeTurn, hc, State.ensureStart_started hc hp]
  split
  · exact ⟨{ s.engineAt d with current := some id, lastLive := c.owner }, rfl, rfl⟩
  · exact ⟨{ s.engineAt d with current := some id, lastPart := c.owner }, rfl, rfl⟩

/-! ### OPEN, KEY_REQ and CLOSE -/

/-- A stream command of an idle stream that may act on it acts and completes. -/
theorem streamOp_idle {s : State} {id op : Nat} {c : Cmd} (h : Live s id 0x08 c) (hop : cdOp c = op) (hidle : s.streamBusy id c = false)
    (hbound : s.codecBound c = none) (f : Cmd → State → State) : streamOp op f id s = (f c s).finish id OK 0 := by
  rw [streamOp, control_live h (by simp [hop])]
  simp only [hidle, hbound, Bool.false_eq_true, if_false]

theorem execCodecOpen_opened {s : State} {id : Nat} {c : Cmd} (h : Live s id 0x08 c) (hop : cdOp c = 0) (ht : c.target.isSome = true) :
    exec (.codecOpen id) s = .next (s.finish id OK 0) := by
  refine congrArg Host.Outcome.next ((control_live h (by simp [hop]) _).trans ?_)
  exact if_pos ht

/-- A KEY_REQ asks its stream for a key picture (R467). -/
theorem execCodecKeyReq_idle {s : State} {id : Nat} {c : Cmd} {x : CodecStream} (h : Live s id 0x08 c) (hop : cdOp c = 4) (hidle : s.streamBusy id c = false)
    (hbound : s.codecBound c = none) (hx : s.stream? c = some x) (hd : c.f 17 1 < s.engines.length) :
    ∃ t, exec (.codecKeyReq id) s = .next t ∧ t.cmd? id = none ∧ t.stream? c = some { x with state := { x.state with keyRequest := true } } := by
  refine ⟨_, congrArg Host.Outcome.next (streamOp_idle h hop hidle hbound _), State.cmd?_finish .., ?_⟩
  rw [State.stream?_finish, hx]
  exact State.stream?_setStream s _ hd

/-- A CLOSE frees its stream's slot (R464). -/
theorem execCodecClose_idle {s : State} {id : Nat} {c : Cmd} (h : Live s id 0x08 c) (hop : cdOp c = 3) (hidle : s.streamBusy id c = false)
    (hbound : s.codecBound c = none) (hd : c.f 17 1 < s.engines.length) :
    ∃ t, exec (.codecClose id) s = .next t ∧ t.cmd? id = none ∧ t.stream? c = none := by
  refine ⟨_, congrArg Host.Outcome.next (streamOp_idle h hop hidle hbound _), State.cmd?_finish .., ?_⟩
  rw [State.stream?_finish]
  simp only [State.stream?]
  rw [State.engineAt_setEngine_same _ _ _ hd]
  exact NMap.get?_erase_same ..

/-! ### ENCODE and DECODE -/

/-- A frame's run: quiet steps to its decision point. -/
def FrameRuns (s t : State) (id : Nat) : Prop := Quiet s t ∧ Decided t id codecOrder

section
variable {s : State} {id : Nat} {c : Cmd} (hc : s.cmd? id = some c) (hout : (s.obj? c.owner (c.f 44 4)).isSome = true)
include hc hout

/-- A frame ends with the first of its failures in the order of R481, or with its result in OBJ_OUT and OK. -/
theorem State.endFrame_runs (fails : List (Nat × Nat)) (out rec : Bytes) (result : List Nat) : FrameRuns s (s.endFrame id c fails out rec result) id := by
  obtain ⟨⟨k, o⟩, hk⟩ := Option.isSome_iff_exists.1 hout
  have hbusy : ∀ u : State, Quiet s u → Decided u id codecOrder →
      FrameRuns s (u.modCmd id fun x => { x with aclk := cxCycles (s.codecSec c) (c.f 40 4) / 256 }) id :=
    fun u hq hd => ⟨hq.trans (Quiet.modCmd u id fun _ => rfl), hd.modCmd (fun _ => rfl) fun _ => rfl⟩
  unfold State.endFrame
  extract_lets all busy
  split
  · next st dt hfail =>
    have hq : Quiet s (s.toReady id fun x => { x with status := st, detail := dt }) := Quiet.toReady hc _ rfl
    have hd : Decided (s.toReady id fun x => { x with status := st, detail := dt }) id codecOrder := Decided.toReady hc (.inr (mem_of_pickFail hfail))
    dsimp only
    split
    · exact hbusy _ hq hd
    · exact ⟨hq, hd⟩
  · rw [hk]
    have hput := Quiet.putObj s id k (c.f 48 8) out
    obtain ⟨d, hd, -⟩ := hput.2 id c hc
    exact hbusy _ (hput.trans (Quiet.toReady hd _ rfl)) (Decided.toReady hd (.inl rfl))

theorem State.encodeBody_runs (x : CodecStream) (k : Nat) (o : Obj) : FrameRuns s (s.encodeBody id c x k o) id := State.endFrame_runs hc hout _ _ _ _

theorem State.decodeBody_runs (x : CodecStream) (k : Nat) (o : Obj) : FrameRuns s (s.decodeBody id c x k o) id := by
  unfold State.decodeBody
  extract_lets sec v unit poison bufs bad
  split
  · exact State.endFrame_runs hc hout _ _ _ _
  · split
    · exact State.endFrame_runs hc hout _ _ _ _
    · exact State.endFrame_runs hc hout _ _ _ _
end

/-- A started frame whose engine gives it its turn runs its body, once its turn is noted. -/
theorem codecFrame_turn {s : State} {id op k : Nat} {c : Cmd} {x : CodecStream} {o : Obj} (h : Live s id 0x08 c) (hop : cdOp c = op) (hp : c.phase = .started)
    (hturn : s.engineTurn (c.f 17 1) id = true) (hstate : s.codecState id c = none) (hx : s.stream? c = some x) (hin : s.obj? c.owner (c.f 24 4) = some (k, o))
    (body : State → Nat → Cmd → CodecStream → Nat → Obj → State) : ∃ e, codecFrame op body id s = body (s.setEngine (c.f 17 1) e) id c x k o := by
  have ⟨_, hc, _, _, _⟩ := h
  obtain ⟨e, he, ht⟩ := State.takeTurn_started hc hp (c.f 17 1)
  have hc1 : (s.setEngine (c.f 17 1) e).cmd? id = some c := hc
  have hin1 : (s.setEngine (c.f 17 1) e).obj? c.owner (c.f 24 4) = some (k, o) := hin
  refine ⟨e, ?_⟩
  rw [codecFrame, control_live h (by simp [hop]), if_pos ⟨.inr hp, hturn⟩]
  simp only [ht, hc1, State.codecState_setEngine s id c he, hstate, State.stream?_setEngine s c he, hx, hin1]

/-- A frame whose body runs to its decision point and changes no more than a run may. -/
theorem codecFrame_ends {s : State} {id op k : Nat} {c : Cmd} {x : CodecStream} {o : Obj} (h : Live s id 0x08 c) (hop : cdOp c = op) (hp : c.phase = .started)
    (hturn : s.engineTurn (c.f 17 1) id = true) (hstate : s.codecState id c = none) (hx : s.stream? c = some x) (hin : s.obj? c.owner (c.f 24 4) = some (k, o))
    (hout : (s.obj? c.owner (c.f 44 4)).isSome = true) {body : State → Nat → Cmd → CodecStream → Nat → Obj → State}
    (hruns : ∀ u : State, u.cmd? id = some c → (u.obj? c.owner (c.f 44 4)).isSome = true → FrameRuns u (body u id c x k o) id)
    (hbut : ∀ u : State, (body u id c x k o).but (Field.among engineRunFields) = u.but (Field.among engineRunFields)) :
    RunEnds s (codecFrame op body id s) id c codecOrder := by
  have ⟨_, hc, _, _, _⟩ := h
  obtain ⟨e, he⟩ := codecFrame_turn h hop hp hturn hstate hx hin body
  obtain ⟨hq, hd⟩ := hruns (s.setEngine (c.f 17 1) e) hc hout
  rw [he]
  refine hd.ends hc ((Quiet.setEngine s _ e).trans hq) ((hbut _).trans ?_)
  exact State.setEngine_but ((covers_among engineRunFields).mono (by decide)) s _ e

/-! ### A boundary (R476) -/

/-- The item that an engine chooses is an admitted command. -/
theorem State.nextItem_cmd {s : State} {d id : Nat} (h : s.nextItem d = some id) : ∃ c, s.cmd? id = some c := by
  obtain ⟨x, hx, rfl⟩ := Option.map_eq_some_iff.1 h
  have hmem : x ∈ s.cmds.filter (s.waitsAt d) := by
    refine (mem_or_start_of_foldl (fun a y z hz => ?_) hx).resolve_right (by simp)
    split at hz
    · exact .inl (Option.some.inj hz).symm
    · split at hz
      · exact .inl (Option.some.inj hz).symm
      · exact .inr hz
  refine Option.ne_none_iff_exists'.1 fun hnone => ?_
  exact (NMap.get?_eq_none_iff s.cmds x.1).1 hnone x (List.mem_of_mem_filter hmem) rfl

theorem State.current_takeTurn {s : State} {die id : Nat} {c : Cmd} (hc : s.cmd? id = some c) (hd : die < s.engines.length) :
    ((s.takeTurn die id).engineAt die).current = some id := by
  obtain ⟨e, he, ht⟩ := State.takeTurn_eq hc die
  have hengines : (s.ensureStart id).engines = s.engines := congrArg (·.state.engines) (State.ensureStart_but (covers_among _) s id)
  rw [ht, State.engineAt_setEngine_same _ _ _ (hengines ▸ hd), he]

section
variable {s : State} {die : Nat} (hs : s.serving = true) (hw : s.engineWorking die = none) (hd : die < s.engines.length)
include hs hw hd

/-- An idle engine works on the item that it chooses. -/
theorem execCodecFrameBoundary_takes {id : Nat} (hn : s.nextItem die = some id) :
    ∃ t, exec (.codecFrameBoundary die) s = .next t ∧ (t.engineAt die).current = some id := by
  obtain ⟨c, hc⟩ := State.nextItem_cmd hn
  refine ⟨s.takeTurn die id, ?_, State.current_takeTurn hc hd⟩
  show execCodecFrameBoundary die s = _
  simp only [execCodecFrameBoundary, hs, hw, hn, Option.isNone_none, Bool.and_self, if_true]

/-- An idle engine for which nothing waits stays idle. -/
theorem execCodecFrameBoundary_rests (hn : s.nextItem die = none) :
    ∃ t, exec (.codecFrameBoundary die) s = .next t ∧ (t.engineAt die).current = none := by
  refine ⟨s.setEngine die { s.engineAt die with current := none }, ?_, by rw [State.engineAt_setEngine_same _ _ _ hd]⟩
  show execCodecFrameBoundary die s = _
  simp only [execCodecFrameBoundary, hs, hw, hn, Option.isNone_none, Bool.and_self, if_true]
end

/-! ### DETECT_POST -/

theorem Cmd.unhandled_none {s : State} {d : Nat} {c : Cmd} (hop : c.opcode = 0x09) (h : s.hasItem d c = false) :
    (c.dieImages d).find? (fun i => !(c.run.done.contains i)) = none := by
  simpa [State.hasItem, hop, List.find?_eq_none] using h

theorem State.serveDie_idle {s : State} {id d : Nat} {c : Cmd} (hc : s.cmd? id = some c) (hop : c.opcode = 0x09) (h : s.hasItem d c = false) (fuel : Nat) :
    State.serveDie id d fuel s = s := by
  cases fuel with
  | zero => rfl
  | succ fuel =>
    unfold State.serveDie
    simp only [hc, Cmd.unhandled_none hop h, ite_self]

/-- No engine has an image left to handle. -/
theorem State.serveImages_idle {s : State} {id : Nat} {c : Cmd} (hc : s.cmd? id = some c) (hop : c.opcode = 0x09) (h : ∀ d < 8, s.hasItem d c = false) :
    s.serveImages id = s := by
  refine foldl_eq_start fun d hd => ?_
  simp only [hc]
  exact State.serveDie_idle hc hop (h d (List.mem_range.1 hd)) _

/-- The ingots that a command reads on its dies are fetched quietly. -/
theorem Quiet.fetches (s : State) (c : Cmd) (reads : List (Nat × Nat × Nat)) : Quiet s (reads.foldl (fun (a : State) q => a.fetchOne c q.1 q.2) s) :=
  Quiet.foldl _ (fun a q => Quiet.fetchOne a c q.1 q.2) reads s

theorem State.fetches_but (s : State) (c : Cmd) (reads : List (Nat × Nat × Nat)) :
    (reads.foldl (fun (a : State) q => a.fetchOne c q.1 q.2) s).but (Field.among engineRunFields) = s.but (Field.among engineRunFields) :=
  foldl_but _ _ _ fun a q => State.fetchOne_but ((covers_among engineRunFields).mono (by decide)) a c q.1 q.2

/-- A detection whose images are handled reads its inputs, and writes its regions or carries its failure (R266). -/
theorem execDetectPost_ends {s : State} {id : Nat} {c : Cmd} (h : Live s id 0x09 c) (hp : c.phase = .started) (hdone : ∀ d < 8, s.hasItem d c = false)
    (hobj : ∀ off ∈ [16, 20, 24, 28], (s.obj? c.owner (c.f off 4)).isSome = true) :
    ∃ t, exec (.detectPost id) s = .next t ∧ RunEnds s t id c runOrder := by
  have ⟨_, hc, hop, _, _⟩ := h
  obtain ⟨⟨sk, sc⟩, hsc⟩ := Option.isSome_iff_exists.1 (hobj 16 (by simp))
  obtain ⟨⟨dk, de⟩, hde⟩ := Option.isSome_iff_exists.1 (hobj 20 (by simp))
  obtain ⟨⟨ak, an⟩, han⟩ := Option.isSome_iff_exists.1 (hobj 24 (by simp))
  obtain ⟨⟨ok, out⟩, hok⟩ := Option.isSome_iff_exists.1 (hobj 28 (by simp))
  have hleft : (List.range 8).any (fun d => s.hasItem d c) = false := by
    simpa only [List.any_eq_false, Bool.not_eq_true, List.mem_range] using hdone
  refine ⟨_, congrArg Host.Outcome.next (control_live h rfl _), ?_⟩
  simp only [State.serveImages_idle hc hop hdone, hc, hp, hleft, hsc, hde, han, hok, ne_eq, not_true, Bool.false_eq_true, or_self, if_false]
  split
  · next st dt hfail => exact (Quiet.fetches s c _).ends_ready (State.fetches_but s c _) hc (fun _ => rfl) fun _ => .inr (mem_of_pickFail hfail)
  · refine Quiet.ends_ready ?_ ?_ hc (fun _ => rfl) fun _ => .inl rfl
    · exact (Quiet.fetches s c _).then_foldl _ (fun a r => Quiet.putObj a id ok _ _) _
    · refine (foldl_but _ _ _ fun a r => ?_).trans (State.fetches_but s c _)
      exact State.putObj_but ((covers_among engineRunFields).mono (by decide)) a id ok _ _

/-- Settles O55: a stream command of an idle stream completes, a frame's body and a detection's reads and writes are quiet steps to the decision point, and an
idle engine takes up what it chooses. -/
theorem codecAndDetectionRun : Obligations.CodecAndDetectionRun := by
  unfold Obligations.CodecAndDetectionRun
  refine ⟨fun s id c h => ⟨fun hop ht => ⟨execCodecOpen_opened h hop ht, State.engines_finish ..⟩, fun x hop hidle hbound hx hd => ?_,
      fun hop hidle hbound hd => execCodecClose_idle h hop hidle hbound hd, fun x k o _ hp hturn hstate hx hin hout q hq hop => ?_⟩,
    fun s die hs hw hd => ⟨fun id hn => execCodecFrameBoundary_takes hs hw hd hn, fun hn => execCodecFrameBoundary_rests hs hw hd hn⟩,
    fun s id c h hp hdone hobj => ?_⟩
  · obtain ⟨t, ht, hgone, hstream⟩ := execCodecKeyReq_idle h hop hidle hbound hx hd
    exact ⟨t, _, ht, hgone, hstream, rfl⟩
  · simp only [List.mem_cons, List.not_mem_nil, or_false] at hq
    rcases hq with rfl | rfl
    · obtain ⟨d, hd⟩ := codecFrame_ends h hop hp hturn hstate hx hin hout (fun _ hc hout => State.encodeBody_runs hc hout x k o)
        fun u => State.encodeBody_but ((covers_among _).mono (by decide)) u id c x k o
      exact ⟨_, d, rfl, hd⟩
    · obtain ⟨d, hd⟩ := codecFrame_ends h hop hp hturn hstate hx hin hout (fun _ hc hout => State.decodeBody_runs hc hout x k o)
        fun u => State.decodeBody_but ((covers_among _).mono (by decide)) u id c x k o
      exact ⟨_, d, rfl, hd⟩
  · obtain ⟨t, ht, d, hd⟩ := execDetectPost_ends h hp hdone hobj
    exact ⟨t, d, ht, hd⟩

end Sys2Proof.Machine
end

section
/-! PROOF. SEQ_STEP, SEQ_FORK, SEQ_FREE and SEQ_RESTORE run to their decision points; their commits release steps and retire sequences (R284, R286, R288 to R290, R295, R296, R311, R312). -/

namespace Sys2Proof.Machine

section
variable {X : Field → Bool} {s t : State} (h : t.but X = s.but X)
include h

theorem State.seqs_kept (hk : X .seqs = false) : t.seqs = s.seqs := (congrArg State.seqs (State.eq_take h)).trans (cond_eq_right hk _ _)
theorem State.frames_kept (hk : X .frames = false) : t.frames = s.frames := (congrArg State.frames (State.eq_take h)).trans (cond_eq_right hk _ _)
end

/-! ### The turn and the decision point -/

/-- A started command of the Bindery runs its body where it stands. -/
theorem bindery_started {s : State} {id op : Nat} {c : Cmd} (h : Live s id op c) (hp : c.phase = .started) {sel : Cmd → Bool} (hsel : sel c = true)
    (body : Nat → Cmd → State → State) : bindery op sel body id s = body id c s := by
  have hc : s.cmd? id = some c := h.2.1
  rw [bindery, control_live h hsel, State.unitStart_started hc hp]
  simp only [hc, hp, if_true]

theorem State.cmd?_toReady {s : State} {id : Nat} {c : Cmd} (hc : s.cmd? id = some c) (f : Cmd → Cmd) :
    ∃ cycles, (s.toReady id f).cmd? id = some { f c with phase := .ready, aclk := cycles } := by
  rw [State.toReady_eq hc]
  exact ⟨_, State.cmd?_setCmd_same ..⟩

/-- The open steps, the sequences and the frames are as they were. -/
def SameBindery (s t : State) : Prop := t.steps = s.steps ∧ t.seqs = s.seqs ∧ t.frames = s.frames

theorem SameBindery.toReady (s : State) (id : Nat) (f : Cmd → Cmd) : SameBindery s (s.toReady id f) := by
  have h := State.toReady_but (covers_among [.fresh, .cmds, .progress]) s id f
  exact ⟨State.steps_kept h rfl, State.seqs_kept h rfl, State.frames_kept h rfl⟩

/-- Command `id` has come to its decision point with a verdict of a kind, and nothing of the Bindery has changed for it. -/
def Judged (s t : State) (id : Nat) (verdict : Nat → Nat → Prop) : Prop :=
  ∃ d, t.cmd? id = some d ∧ d.phase = .ready ∧ verdict d.status d.detail ∧ SameBindery s t

theorem Judged.toReady {s : State} {id : Nat} {c : Cmd} (hc : s.cmd? id = some c) {verdict : Nat → Nat → Prop} {f : Cmd → Cmd}
    (hf : verdict (f c).status (f c).detail) : Judged s (s.toReady id f) id verdict := by
  obtain ⟨cycles, hd⟩ := State.cmd?_toReady hc f
  exact ⟨_, hd, rfl, hf, SameBindery.toReady s id f⟩

/-! ### APPEND, CLOSE and CANCEL (R286, R288, R289) -/

section
variable {s : State} {id : Nat} {c : Cmd} (h : Live s id 0x03 c) (hp : c.phase = .started) (hstate : s.stepState c = none)
include h hp hstate

/-- An APPEND ends with OK, with an entry whose rows its operands do not hold, or with a failure of its reads. -/
theorem execSeqStepAppend_judged {x : Step} (hop : c.f 16 1 = 1) (hx : s.step? c.owner (c.f 20 4) = some x) :
    ∃ t, exec (.seqStepAppend id) s = .next t ∧ Judged s t id fun st _ => st = OK ∨ st = E_STEP_LIST ∨ st ∈ stepOrder := by
  refine ⟨_, congrArg Host.Outcome.next (bindery_started h hp (by simp [hop]) _), ?_⟩
  simp only [State.runAppend, hstate, hx]
  split
  · exact Judged.toReady h.2.1 (.inr (.inl rfl))
  · split
    · next hfail => exact Judged.toReady h.2.1 (.inr (.inr (mem_of_pickFail hfail)))
    · exact Judged.toReady h.2.1 (.inl rfl)

/-- An APPEND of a step with nothing to append ends OK. -/
theorem execSeqStepAppend_nothing {x : Step} (hop : c.f 16 1 = 1) (hx : s.step? c.owner (c.f 20 4) = some x) (hlive : x.live = [])
    (hnone : ∀ e ∈ x.entries, e.status ≠ OK ∨ e.tokens = 0) : ∃ t, exec (.seqStepAppend id) s = .next t ∧ Judged s t id fun st _ => st = OK := by
  have hrows : ∀ n, x.entries.findIdx? (fun e => decide (e.status = OK) && decide (e.tokens ≠ 0) && decide (n < e.row + e.tokens)) = none := fun n => by
    rw [List.findIdx?_eq_none_iff]
    intro e he
    rcases hnone e he with hst | htok
    · simp [hst]
    · simp [htok]
  have hfails : pickFail stepOrder [] = none := rfl
  refine ⟨_, congrArg Host.Outcome.next (bindery_started h hp (by simp [hop]) _), ?_⟩
  simp only [State.runAppend, hstate, hx, hrows, hlive, List.map_nil, List.flatten_nil, List.flatMap_nil, List.append_nil, hfails]
  exact Judged.toReady h.2.1 rfl

/-- A CANCEL ends OK; its effect comes with its commit. -/
theorem execSeqStepCancel_judged (hop : c.f 16 1 = 3) : ∃ t, exec (.seqStepCancel id) s = .next t ∧ Judged s t id fun st _ => st = OK := by
  refine ⟨_, congrArg Host.Outcome.next (bindery_started h hp (by simp [hop]) _), ?_⟩
  simp only [hstate]
  exact Judged.toReady h.2.1 rfl

/-- A CLOSE of a step that lacks no APPEND ends OK and counts the entries that are not. -/
theorem execSeqStepClose_ends {x : Step} (hop : c.f 16 1 = 2) (hx : s.step? c.owner (c.f 20 4) = some x) (hall : x.missing = false) :
    ∃ t d, exec (.seqStepClose id) s = .next t ∧ t.cmd? id = some d ∧ d.phase = .ready ∧ d.status = OK ∧ d.detail = min (notOk x.entries) 0xFFFF
      ∧ t.steps = s.steps ∧ t.seqs = s.seqs := by
  obtain ⟨e, he, -⟩ := (Quiet.putList s id c.owner (c.f 28 4) (s.closeResults c.owner x.entries)).2 id c h.2.1
  obtain ⟨cycles, hd⟩ := State.cmd?_toReady he fun y => { y with status := OK, detail := min (notOk x.entries) 0xFFFF }
  have hrun : s.runClose id c = (s.putList id c.owner (c.f 28 4) (s.closeResults c.owner x.entries)).toReady id
      (fun y => { y with status := OK, detail := min (notOk x.entries) 0xFFFF }) := by
    simp only [State.runClose, hstate, hx, hall, Bool.false_eq_true, if_false]
  have hkept := State.runClose_but (covers_among (putFields ++ [.fresh])) s id c
  refine ⟨s.runClose id c, _, congrArg Host.Outcome.next (bindery_started h hp (by simp [hop]) _), hrun ▸ hd, rfl, rfl, rfl, ?_, ?_⟩
  · exact State.steps_kept hkept rfl
  · exact State.seqs_kept hkept rfl
end

/-! ### The commits of CLOSE, CANCEL and SEQ_FREE -/

theorem State.step?_commitClose (s : State) (c : Cmd) : (s.commitClose c).step? c.owner (c.f 20 4) = none := by
  unfold State.commitClose
  split
  · assumption
  · next x hx =>
    have hsteps := State.steps_kept (foldl_but (fun (a : State) e => a.closeEntry e) x.entries { s with steps := NMap.erase s.steps (stepKey c.owner (c.f 20 4)) }
      fun a e => State.closeEntry_but (covers_among (meterFields ++ [.seqs, .frames, .poison, .stores])) a e) rfl
    rw [State.step?, hsteps]
    exact NMap.get?_erase_same ..

theorem State.step?_cancelStep (s : State) (part handle : Nat) : (s.cancelStep part handle).step? part handle = none := by
  unfold State.cancelStep
  split
  · assumption
  · next x hx =>
    have hsteps := State.steps_kept (foldl_but (fun (a : State) e => a.cancelEntry x e) x.entries { s with steps := NMap.erase s.steps (stepKey part handle) }
      fun a e => State.cancelEntry_but (covers_among (meterFields ++ [.seqs, .frames, .poison, .stores])) a x e) rfl
    rw [State.step?, hsteps]
    exact NMap.get?_erase_same ..

/-- The commit of a CLOSE or a CANCEL releases the step. -/
theorem State.step?_commitBindery (s : State) {c : Cmd} (hop : c.opcode = 0x03) (hend : c.f 16 1 = 2 ∨ c.f 16 1 = 3) :
    (s.commitBindery c).step? c.owner (c.f 20 4) = none := by
  rcases hend with hclose | hcancel
  · simp only [State.commitBindery, hop, hclose]
    exact State.step?_commitClose s c
  · simp only [State.commitBindery, hop, hcancel]
    exact State.step?_cancelStep s _ _

@[simp] theorem State.seqAt_setSeq_same (s : State) (idx : Nat) (q : Seq) : (s.setSeq idx q).seqAt idx = q := NMap.getD_set_same ..

/-- The commit of a SEQ_FREE retires the sequence. -/
theorem State.seqAt_commitBindery_free (s : State) {c : Cmd} (hop : c.opcode = 0x05) : ((s.commitBindery c).seqAt (seqIndex (c.f 16 4))).state = .retired := by
  simp only [State.commitBindery, hop, State.commitFree, State.seqAt_setSeq_same]

/-- A retired index is released: FREE, with the next generation and no leaf. -/
theorem execSeqReleaseComplete_retired {s : State} {idx : Nat} (hs : s.serving = true) (hr : (s.seqAt idx).state = .retired) :
    ∃ t, exec (.seqReleaseComplete idx) s = .next t ∧ t.seqAt idx = freeSeq (s.seqAt idx) := by
  refine ⟨s.releaseSeq idx, ?_, State.seqAt_setSeq_same ..⟩
  show execSeqReleaseComplete idx s = _
  simp only [execSeqReleaseComplete, hs, hr, decide_true, Bool.and_self, if_true]

/-! ### SEQ_FREE, SEQ_FORK and SEQ_RESTORE (R295, R296, R311, R312) -/

theorem execSeqFree_judged {s : State} {id : Nat} {c : Cmd} (h : Live s id 0x05 c) (hp : c.phase = .started) (hfree : s.freeFail c = none) :
    ∃ t, exec (.seqFree id) s = .next t ∧ Judged s t id fun st _ => st = OK := by
  refine ⟨_, congrArg Host.Outcome.next (bindery_started h hp rfl _), ?_⟩
  simp only [hfree]
  exact Judged.toReady h.2.1 rfl

/-- Where the free list and the overdraft cover what is drawn, nothing is demoted. -/
theorem State.draw_free_but {X : Field → Bool} (hX : Covers X [.frames]) {s : State} {part d n : Nat} {x : State × List Nat}
    (h : s.draw part d n none = some x) : x.1.but X = s.but X := by
  simp only [State.draw] at h
  split at h
  · exact (congrArg (fun y : State × List Nat => y.1.but X) (Option.some.inj h).symm).trans (State.takeFrames_but hX s part d n false)
  · cases h

/-- What a command that draws frames and copies leaves into them changes on its way. -/
def copyFields : List Field := lineFields ++ meterFields ++ dmaFields ++ [.frames, .stores]

/-- Command `id` has come to its decision point with OK and holds what command `e` names; no sequence has changed for it. -/
def HeldOk (s t : State) (id : Nat) (e : Cmd) : Prop :=
  ∃ d, t.cmd? id = some d ∧ d.phase = .ready ∧ d.status = OK ∧ d.frames = e.frames ∧ d.child = e.child ∧ t.seqs = s.seqs

theorem HeldOk.of_copies {s u : State} (h : u.but (Field.among copyFields) = s.but (Field.among copyFields)) (id : Nat) (e : Cmd) (n : Nat) :
    HeldOk s ((u.setCmd id e).toReady id fun x => { x with status := OK, detail := n }) id e := by
  obtain ⟨cycles, hd⟩ := State.cmd?_toReady (State.cmd?_setCmd_same u id e) fun x => { x with status := OK, detail := n }
  obtain ⟨-, hseqs, -⟩ := SameBindery.toReady (u.setCmd id e) id fun x => { x with status := OK, detail := n }
  have hdrawn : u.seqs = s.seqs := State.seqs_kept h rfl
  exact ⟨_, hd, rfl, rfl, rfl, rfl, hseqs.trans hdrawn⟩

theorem covers_copy : Covers (Field.among copyFields) (lineFields ++ meterFields ++ dmaFields ++ [.frames, .stores]) := covers_among _

theorem covers_copy_frames : Covers (Field.among copyFields) [.frames] := covers_copy.mono (by decide)

theorem covers_copy_write : Covers (Field.among copyFields) (meterFields ++ [.frames, .stores]) := covers_copy.mono (by decide)

section
variable {s : State} {id : Nat} {c : Cmd} {q : Seq} (hframes : c.frames = []) (hq : s.seqAt (seqIndex (c.f 16 4)) = q)
include hframes hq

/-- An UNPARK that gets a frame for each demoted leaf copies them and holds the frames. -/
theorem State.runUnpark_holds {u : State} {fs : List Nat}
    (hdraw : s.draw c.owner (seqDie (seqIndex (c.f 16 4))) (q.leaves.filter (fun e => e.2.t3)).length none = some (u, fs)) :
    HeldOk s (s.runUnpark id c) id { c with frames := fs.map (fun f => (seqDie (seqIndex (c.f 16 4)), f)) } := by
  simp only [State.runUnpark, hq, hframes, List.isEmpty_nil, Bool.not_true, Bool.false_eq_true, if_false, hdraw]
  refine HeldOk.of_copies ?_ id _ 0
  refine (foldl_but _ _ _ fun a p => ?_).trans ((State.leafDma_but (covers_copy.mono (by decide)) u _ _).trans (State.draw_free_but covers_copy_frames hdraw))
  rw [State.markLeaf_but covers_copy_frames, State.writeLeaf_but covers_copy_write, State.writeLeaf_but covers_copy_write]

/-- An IMAGE restore whose image passes the checks and is not poisoned, and which gets its frames, copies what it does not share and holds the frames. -/
theorem State.runImage_holds {u : State} {fs v : List Nat} {o : Obj} {len : Nat} (hlen : imLength (o.readBytes v 0 64) = len)
    (hobj : s.imageObj c = some (o, v)) (hfail : s.imageFail c = none)
    (hlist : o.poisonBytes v 0 (64 + 8 * (len / q.tpl)) (seqDie (seqIndex (c.f 16 4))) = none)
    (hleaves : ∀ w ∈ allWins q len, o.poisonBytes v (imBase len q.tpl + w * 151552) 151552 (seqDie (seqIndex (c.f 16 4))) = none)
    (hdraw : s.draw c.owner (seqDie (seqIndex (c.f 16 4))) (((allWins q len).filter (fun w => !((s.imageShares c o v).any (fun x => x.1 == w)))).length
      + (needPages {} (allWins q len)).length) none = some (u, fs)) :
    ∃ shares, HeldOk s (s.runImage id c) id { c with frames := fs.map (fun f => (seqDie (seqIndex (c.f 16 4)), f)), leaves := shares } := by
  have hcopies : ((allWins q len).filter (fun w => !((s.imageShares c o v).any (fun x => x.1 == w)))).findSome?
      (fun w => o.poisonBytes v (imBase len q.tpl + w * 151552) 151552 (seqDie (seqIndex (c.f 16 4)))) = none :=
    List.findSome?_eq_none_iff.2 fun w hw => hleaves w (List.mem_of_mem_filter hw)
  simp only [State.runImage, hq, hlen, hobj, hfail, hframes, List.isEmpty_nil, if_true, hlist, hcopies, firstSome, hdraw, Option.map_some]
  refine ⟨_, HeldOk.of_copies ?_ id _ _⟩
  refine (foldl_but _ _ _ fun a p => ?_).trans ((foldl_but _ _ _ fun a x => ?_).trans ((State.markPages_but covers_copy_frames u _ _).trans
    (State.draw_free_but covers_copy_frames hdraw)))
  · rw [State.writeLeaf_but covers_copy_write, State.writeLeaf_but covers_copy_write]
  · exact State.addRef_but covers_copy_frames a _
end

/-- A fork whose checks pass and which gets its frames copies the boundary leaves, shares the others, and holds the frames and the child. -/
theorem State.runFork_holds {s u : State} {id : Nat} {c : Cmd} {q : Seq} {below : NMap LeafEntry} {copied fs : List Nat}
    (hq : s.seqAt (seqIndex (c.f 16 4)) = q) (hleaves : forkLeaves q (c.f 24 4) = (below, copied)) (hchild : c.child = none) (hfail : s.forkFail id c = none)
    (hcount : below.any (fun e => !(copied.contains e.1) && decide (65535 ≤ s.refsOf e.2)) = false)
    (hrows : ∀ w ∈ copied, ∀ e, NMap.get? q.leaves w = some e → s.rowsPoison e q.kvHeads q.kvFmt 0 (c.f 24 4 - (c.f 24 4 - 1) / q.tpl * q.tpl) = none)
    (hdraw : s.draw c.owner (seqDie (c.f 20 4)) (copied.length + (needPages {} (below.map (·.1))).length) none = some (u, fs)) :
    ∃ shared child, HeldOk s (s.runFork id c) id { c with frames := fs.map (fun f => (seqDie (c.f 20 4), f)), leaves := shared, child := some child } := by
  have hshared : (below.filter (fun e => !(copied.contains e.1))).any (fun e => decide (65535 ≤ s.refsOf e.2)) = false := by
    rw [List.any_filter]
    exact hcount
  have hpoison : copied.findSome? (fun w => (NMap.get? q.leaves w).bind (fun e =>
      s.rowsPoison e q.kvHeads q.kvFmt 0 (c.f 24 4 - (c.f 24 4 - 1) / q.tpl * q.tpl))) = none :=
    List.findSome?_eq_none_iff.2 fun w hw => Option.bind_eq_none_iff.2 fun e he => hrows w hw e he
  simp only [State.runFork, hq, hleaves, hchild, Option.isSome_none, Bool.false_eq_true, if_false, hfail, hshared, hdraw, hpoison]
  have hpages := fun fs => (State.markPages_but covers_copy_frames u (seqDie (c.f 20 4)) fs).trans (State.draw_free_but covers_copy_frames hdraw)
  refine ⟨_, _, HeldOk.of_copies ?_ id _ 0⟩
  split
  · exact (State.forkLeaves_but covers_copy _ _ _ _ _ _ _).trans (hpages _)
  · refine (foldl_but _ _ _ fun a l => State.writeSketches_but covers_copy_write a _ _ _ _ _).trans ?_
    exact (State.forkLeaves_but covers_copy _ _ _ _ _ _ _).trans (hpages _)

/-- An IMAGE restore whose image fails a check ends with that check's detail. -/
theorem State.runImage_judged {s : State} {id k : Nat} {c : Cmd} (hc : s.cmd? id = some c) (hfail : s.imageFail c = some k) :
    Judged s (s.runImage id c) id fun st dt => st = E_RESTORE_IMAGE ∧ dt = k := by
  simp only [State.runImage, hfail]
  exact Judged.toReady hc ⟨rfl, rfl⟩

/-- Where the turn to reserve is the command's, a fork runs its body (R308). -/
theorem execSeqFork_started {s : State} {id : Nat} {c : Cmd} (h : Live s id 0x04 c) (hp : c.phase = .started) (hturn : s.reserveTurn id c.owner = true) :
    exec (.seqFork id) s = .next (s.runFork id c) := by
  show execSeqFork id s = _
  simp only [execSeqFork, h.2.1, hturn, if_true]
  exact congrArg Host.Outcome.next (bindery_started h hp rfl _)

/-- A restore runs the body of its kind. -/
theorem execSeqRestoreUnpark_started {s : State} {id : Nat} {c : Cmd} (h : Live s id 0x0F c) (hp : c.phase = .started) (hop : c.f 20 1 = 0) :
    exec (.seqRestoreUnpark id) s = .next (s.runUnpark id c) := congrArg Host.Outcome.next (bindery_started h hp (by simp [hop]) _)

theorem execSeqRestoreImage_started {s : State} {id : Nat} {c : Cmd} (h : Live s id 0x0F c) (hp : c.phase = .started) (hop : c.f 20 1 = 1) :
    exec (.seqRestoreImage id) s = .next (s.runImage id c) := congrArg Host.Outcome.next (bindery_started h hp (by simp [hop]) _)

/-! ### OPEN (R284) -/

/-- A fold that lengthens its list by one at every item. -/
theorem length_foldl {α β γ : Type} {f : β → α → β} {g : β → List γ} (hf : ∀ b x, (g (f b x)).length = (g b).length + 1) (l : List α) (b : β) :
    (g (l.foldl f b)).length = (g b).length + l.length := by
  induction l generalizing b with
  | nil => rfl
  | cons x l ih => rw [List.foldl_cons, ih, hf, List.length_cons, Nat.add_right_comm, Nat.add_assoc]

theorem State.reserveSome_length (s : State) (part kvFmt : Nat) (lay : Nat × Nat) (joins : Bool) (es : List StepEntry) :
    (s.reserveSome part kvFmt lay joins es).2.length = es.length := by
  refine (length_foldl (g := Prod.snd) (fun a e => ?_) es (s, [])).trans (Nat.zero_add _)
  split
  · exact List.length_append
  · exact List.length_append

theorem State.checkEntries_length (s : State) (id part kvFmt : Nat) (es : List StepEntry) : (s.checkEntries id part kvFmt es).length = es.length :=
  (length_foldl (g := Prod.fst) (fun _ _ => List.length_append) es ([], 0)).trans (Nat.zero_add _)

/-- Command `id` holds the entries of an OPEN that has run, and asks for what it asked. -/
def State.holdsDraft (s : State) (id : Nat) (c : Cmd) (x : Step) : Prop := ∃ d, s.cmd? id = some d ∧ d.asks = c.asks ∧ d.stepDraft = some x

theorem Cmd.note_stepDraft (c : Cmd) (key n : Nat) : (c.note key n).stepDraft = c.stepDraft := by
  unfold Cmd.note
  split
  · rfl
  · split <;> rfl

section
variable {id : Nat} {c : Cmd} {x : Step}

theorem State.holdsDraft.putChunk {s : State} (h : s.holdsDraft id c x) (key n off : Nat) (b : Bytes) : (s.putChunk id key n off b).holdsDraft id c x := by
  obtain ⟨d, hd, hasks, hdraft⟩ := h
  simp only [State.putChunk, hd]
  split
  · next o e ho he =>
    obtain rfl : d = e := Option.some.inj he
    refine ⟨d.note key n, ?_, (Cmd.note_asks d key n).trans hasks, (Cmd.note_stepDraft d key n).trans hdraft⟩
    rw [State.cmd?_kept (State.moved_but (covers_among _) _ _ _ _ _ _) rfl]
    exact State.cmd?_setCmd_same ..
  · exact ⟨d, hd, hasks, hdraft⟩

theorem State.holdsDraft.putObjBytes {s : State} (h : s.holdsDraft id c x) (key fuel off : Nat) (b : Bytes) :
    (s.putObjBytes id key fuel off b).holdsDraft id c x := by
  induction fuel generalizing s off b with
  | zero => exact h
  | succ fuel ih =>
    unfold State.putObjBytes
    split
    · exact h
    · exact ih (h.putChunk _ _ _ _) _ _

theorem State.holdsDraft.putList {s : State} (h : s.holdsDraft id c x) (owner handle : Nat) (b : Bytes) : (s.putList id owner handle b).holdsDraft id c x := by
  unfold State.putList
  split
  · exact h
  · split
    · exact h.putObjBytes _ _ _ _
    · exact h

theorem State.holdsDraft.stepCollation {s : State} (h : s.holdsDraft id c x) (es : List StepEntry) : (s.stepCollation id c es).holdsDraft id c x := by
  unfold State.stepCollation
  dsimp only
  split
  · exact (h.putList _ _ _).putList _ _ _
  · split
    · exact h.putList _ _ _
    · exact h
end

/-- An OPEN whose list is legal and readable, whose handle is free and whose entries the quota takes in runs and holds an entry for every entry of its list. -/
theorem State.runOpen_holds {s : State} {id : Nat} {c : Cmd} {p : Part} (hpart : NMap.get? s.parts c.owner = some p) (hstate : s.stepState c = none)
    (hlist : s.listPoison c 24 32 (c.f 32 4) (fun _ => p.firstDie) = []) (hlegal : s.stepListFail c (s.stepEntries c) = none) (hdraft : c.stepDraft = none)
    (hroom : (s.steps.filter (fun t => t.1 / 2 ^ 32 == c.owner)).length
      + (s.cmds.filter (fun x => x.1 != id && x.2.owner == c.owner && x.2.stepDraft.isSome)).length < 256)
    (honce : ∀ x ∈ s.cmds, x.1 ≠ id → x.2.owner = c.owner → x.2.stepDraft.isSome = true → x.2.f 20 4 ≠ c.f 20 4)
    (hquota : s.t2Use c.owner p.firstDie + 32 * (s.stepEntries c).length ≤ s.setting c.owner 0x0002 p.firstDie) :
    ∃ (u : State) (x : Step) (n : Nat), s.runOpen id c = u.toReady id (fun y => { y with status := OK, detail := n }) ∧ u.holdsDraft id c x
      ∧ x.entries.length = (s.stepEntries c).length := by
  have htwice : (s.cmds.filter (fun x => x.1 != id && x.2.owner == c.owner && x.2.stepDraft.isSome)).any (fun x => x.2.f 20 4 == c.f 20 4) = false := by
    simp only [List.any_eq_false, List.mem_filter, Bool.and_eq_true, bne_iff_ne, beq_iff_eq]
    rintro x ⟨hx, ⟨hid, howner⟩, hsome⟩
    exact honce x hx hid howner hsome
  simp only [State.runOpen, hpart, hdraft, Option.isSome_none, Bool.false_eq_true, if_false, htwice, hstate, Option.isNone_none, Bool.true_and,
    decide_eq_true_eq, Nat.not_le.2 hroom, hlegal, Nat.not_lt.2 hquota, false_and, hlist]
  refine ⟨_, _, _, rfl, (State.holdsDraft.putList ⟨_, State.cmd?_setCmd_same .., rfl, rfl⟩ _ _ _).stepCollation _, ?_⟩
  exact (State.reserveSome_length ..).trans ((State.reserveSome_length ..).trans (State.checkEntries_length ..))

/-- An OPEN of a legal list comes to its decision point with OK and the entries it holds; the open steps are as they were. -/
theorem State.holdsDraft.opens {s u : State} {id n : Nat} {c : Cmd} {x : Step} (h : u.holdsDraft id c x)
    (hrun : s.runOpen id c = u.toReady id fun y => { y with status := OK, detail := n }) :
    ∃ d, Stands s (s.runOpen id c) id c d ∧ d.status = OK ∧ d.stepDraft = some x ∧ (s.runOpen id c).steps = s.steps := by
  obtain ⟨e, he, hasks, hdraft⟩ := h
  obtain ⟨cycles, hd⟩ := State.cmd?_toReady he fun y => { y with status := OK, detail := n }
  rw [← hrun] at hd
  have hkept := State.runOpen_but (covers_among (putFields ++ lineFields ++ [.fresh, .seqs, .frames, .poison])) s id c
  simp only [Cmd.asks, Prod.mk.injEq] at hasks
  obtain ⟨hdesc, howner, hcq⟩ := hasks
  exact ⟨_, ⟨hd, rfl, hdesc, howner, hcq, State.comps_kept hkept rfl⟩, rfl, hdraft, State.steps_kept hkept rfl⟩

/-- Where the turn to reserve is the command's, an OPEN runs its body (R308). -/
theorem execSeqStepOpen_started {s : State} {id : Nat} {c : Cmd} (h : Live s id 0x03 c) (hp : c.phase = .started) (hop : c.f 16 1 = 0)
    (hturn : s.reserveTurn id c.owner = true) : exec (.seqStepOpen id) s = .next (s.runOpen id c) := by
  show execSeqStepOpen id s = _
  simp only [execSeqStepOpen, h.2.1, hturn, if_true]
  exact congrArg Host.Outcome.next (bindery_started h hp (by simp [hop]) _)

/-- Settles O53: each body runs to the decision point, where its command holds what it drew and the open steps or the sequences are as they were; the commits and the
release are read off the one map that they write last. -/
theorem stepsAndSequencesRun : Obligations.StepsAndSequencesRun := by
  unfold Obligations.StepsAndSequencesRun
  refine ⟨⟨fun s id c p h hp hpart hstate => ⟨fun hop hturn hlist hlegal hdraft hroom honce hquota => ?_, fun x hop hx hlive hnone => ?_, fun x hop hx => ?_,
      fun x hop hx hall => execSeqStepClose_ends h hp hstate hop hx hall, fun hop => ?_⟩, fun s c hop hend => State.step?_commitBindery s hop hend⟩,
    fun s id c hp hframes => ⟨fun u fs h hturn hchild hfail hcount hrows hdraw => ?_, fun u fs h hop hdraw => ?_,
      fun o v h hop hobj => ⟨fun k hfail => ?_, fun u fs hfail hlist hleaves hdraw => ?_⟩, fun h hfree => ?_⟩,
    fun s c hop => State.seqAt_commitBindery_free s hop, fun s idx hs hr => ?_⟩
  · obtain ⟨u, x, n, hrun, hheld, hlen⟩ := State.runOpen_holds hpart hstate hlist hlegal hdraft hroom honce hquota
    obtain ⟨d, hstands, hok, hx, hsteps⟩ := hheld.opens hrun
    exact ⟨_, d, x, execSeqStepOpen_started h hp hop hturn, hstands, hok, hx, hlen, hsteps⟩
  · obtain ⟨t, ht, d, hd, hready, hok, hsteps, -, hfr⟩ := execSeqStepAppend_nothing h hp hstate hop hx hlive hnone
    exact ⟨t, d, ht, hd, hready, hok, hsteps, hfr⟩
  · obtain ⟨t, ht, d, hd, hready, hst, hsteps, -, hfr⟩ := execSeqStepAppend_judged h hp hstate hop hx
    exact ⟨t, d, ht, hd, hready, hst, hsteps, hfr⟩
  · obtain ⟨t, ht, d, hd, hready, hok, hsteps, hseqs, -⟩ := execSeqStepCancel_judged h hp hstate hop
    exact ⟨t, d, ht, hd, hready, hok, hsteps, hseqs⟩
  · obtain ⟨_, _, d, hd, hready, hok, hheld, hk, hseqs⟩ := State.runFork_holds rfl rfl hchild hfail hcount hrows hdraw
    exact ⟨_, d, execSeqFork_started h hp hturn, hd, hready, hok, hheld, by rw [hk]; rfl, hseqs⟩
  · obtain ⟨d, hd, hready, hok, hheld, -, hseqs⟩ := State.runUnpark_holds hframes rfl hdraw
    exact ⟨_, d, execSeqRestoreUnpark_started h hp hop, hd, hready, hok, hheld, hseqs⟩
  · obtain ⟨d, hd, hready, ⟨hst, hdt⟩, -, -, hfr⟩ := State.runImage_judged h.2.1 hfail
    exact ⟨_, d, execSeqRestoreImage_started h hp hop, hd, hready, hst, hdt, hfr⟩
  · obtain ⟨_, d, hd, hready, hok, hheld, -, hseqs⟩ := State.runImage_holds hframes rfl rfl hobj hfail hlist hleaves hdraw
    exact ⟨_, d, execSeqRestoreImage_started h hp hop, hd, hready, hok, hheld, hseqs⟩
  · obtain ⟨t, ht, d, hd, hready, hok, -, hseqs, -⟩ := execSeqFree_judged h hp hfree
    exact ⟨t, d, ht, hd, hready, hok, hseqs⟩
  · obtain ⟨t, ht, hfreed⟩ := execSeqReleaseComplete_retired hs hr
    exact ⟨t, ht, congrArg Seq.state hfreed, congrArg Seq.gen hfreed, congrArg Seq.leaves hfreed⟩
end Sys2Proof.Machine
end

section
/-! PROOF. Memory stays canonical at every step (R324): the arms of `exec` and the tick of an empty queue, each by its own lemma. -/

namespace Sys2Proof.Machine

/-- A command keeps memory canonical. -/
theorem exec_memOk (q : Instr) {s : State} (h : s.memOk) : OutcomeOk (exec q s) := by
  cases q with
  | tensorOp cmd => exact execTensorOp_memOk cmd s h
  | attend cmd => exact execAttend_memOk cmd s h
  | attendBuildSketches cmd => exact execAttendBuildSketches_memOk cmd s h
  | seqStepOpen cmd => exact execSeqStepOpen_memOk cmd s h
  | seqStepAppend cmd => exact execSeqStepAppend_memOk cmd s h
  | seqStepClose cmd => exact execSeqStepClose_memOk cmd s h
  | seqStepCancel cmd => exact execSeqStepCancel_memOk cmd s h
  | seqFork cmd => exact execSeqFork_memOk cmd s h
  | seqFree cmd => exact execSeqFree_memOk cmd s h
  | moveCopy cmd => exact execMoveCopy_memOk cmd s h
  | moveImport cmd => exact execMoveImport_memOk cmd s h
  | moveExport cmd => exact execMoveExport_memOk cmd s h
  | moveSeqExport cmd => exact execMoveSeqExport_memOk cmd s h
  | movePeerSend cmd => exact execMovePeerSend_memOk cmd s h
  | movePeerRecv cmd => exact execMovePeerRecv_memOk cmd s h
  | moveRetier cmd => exact execMoveRetier_memOk cmd s h
  | collectiveAllReduce cmd => exact execCollectiveAllReduce_memOk cmd s h
  | collectiveReduceScatter cmd => exact execCollectiveReduceScatter_memOk cmd s h
  | collectiveAllGather cmd => exact execCollectiveAllGather_memOk cmd s h
  | collectiveBroadcast cmd => exact execCollectiveBroadcast_memOk cmd s h
  | codecOpen cmd => exact execCodecOpen_memOk cmd s h
  | codecEncode cmd => exact execCodecEncode_memOk cmd s h
  | codecDecode cmd => exact execCodecDecode_memOk cmd s h
  | codecClose cmd => exact execCodecClose_memOk cmd s h
  | codecKeyReq cmd => exact execCodecKeyReq_memOk cmd s h
  | detectPost cmd => exact execDetectPost_memOk cmd s h
  | barrier cmd => exact execBarrier_memOk cmd s h
  | signalAdd cmd => exact execSignalAdd_memOk cmd s h
  | signalSet cmd => exact execSignalSet_memOk cmd s h
  | signalPoison cmd => exact execSignalPoison_memOk cmd s h
  | wait cmd => exact execWait_memOk cmd s h
  | abort cmd => exact execAbort_memOk cmd s h
  | routeLengthBucket cmd => exact execRouteLengthBucket_memOk cmd s h
  | routeExpertDispatch cmd => exact execRouteExpertDispatch_memOk cmd s h
  | routeLengthPack cmd => exact execRouteLengthPack_memOk cmd s h
  | routeExpertCombine cmd => exact execRouteExpertCombine_memOk cmd s h
  | seqRestoreUnpark cmd => exact execSeqRestoreUnpark_memOk cmd s h
  | seqRestoreImage cmd => exact execSeqRestoreImage_memOk cmd s h
  | partCreate cmd => exact execPartCreate_memOk cmd s h
  | partDestroy cmd => exact execPartDestroy_memOk cmd s h
  | ringCreate cmd => exact execRingCreate_memOk cmd s h
  | ringDestroy cmd => exact execRingDestroy_memOk cmd s h
  | planInstall cmd => exact execPlanInstall_memOk cmd s h
  | planRetire cmd => exact execPlanRetire_memOk cmd s h
  | tableLoad cmd => exact execTableLoad_memOk cmd s h
  | tableClear cmd => exact execTableClear_memOk cmd s h
  | objectRegister cmd => exact execObjectRegister_memOk cmd s h
  | objectRelease cmd => exact execObjectRelease_memOk cmd s h
  | modelLoad cmd => exact execModelLoad_memOk cmd s h
  | modelUnload cmd => exact execModelUnload_memOk cmd s h
  | alloyBind cmd => exact execAlloyBind_memOk cmd s h
  | alloyUnbind cmd => exact execAlloyUnbind_memOk cmd s h
  | powerSetPackageState cmd => exact execPowerSetPackageState_memOk cmd s h
  | powerSetArithPoint cmd => exact execPowerSetArithPoint_memOk cmd s h
  | powerSetGroupsOff cmd => exact execPowerSetGroupsOff_memOk cmd s h
  | powerSetGroupsOn cmd => exact execPowerSetGroupsOn_memOk cmd s h
  | powerSetGroupsCycle cmd => exact execPowerSetGroupsCycle_memOk cmd s h
  | colophon cmd => exact execColophon_memOk cmd s h
  | attest cmd => exact execAttest_memOk cmd s h
  | groupSet cmd => exact execGroupSet_memOk cmd s h
  | groupClear cmd => exact execGroupClear_memOk cmd s h
  | unitReturn cmd => exact execUnitReturn_memOk cmd s h
  | quotaSet cmd => exact execQuotaSet_memOk cmd s h
  | keyImportContent cmd => exact execKeyImportContent_memOk cmd s h
  | keySetPublisher cmd => exact execKeySetPublisher_memOk cmd s h
  | keyClearContent cmd => exact execKeyClearContent_memOk cmd s h
  | keyClearPublisher cmd => exact execKeyClearPublisher_memOk cmd s h
  | memMarginReadScan cmd => exact execMemMarginReadScan_memOk cmd s h
  | memMarginTiming cmd => exact execMemMarginTiming_memOk cmd s h
  | memMarginVoltage cmd => exact execMemMarginVoltage_memOk cmd s h
  | memMarginTimingVoltage cmd => exact execMemMarginTimingVoltage_memOk cmd s h
  | fwWrite stores => exact execFwWrite_memOk stores s h
  | fwActivate stores => exact execFwActivate_memOk stores s h
  | fwConfirm stores => exact execFwConfirm_memOk stores s h
  | fwStatus stores => exact execFwStatus_memOk stores s h
  | debugUnlock stores => exact execDebugUnlock_memOk stores s h
  | spdmGetVersion transport session req => exact execSpdmGetVersion_memOk transport session req s h
  | spdmGetCapabilities transport session req => exact execSpdmGetCapabilities_memOk transport session req s h
  | spdmNegotiateAlgorithms transport session req => exact execSpdmNegotiateAlgorithms_memOk transport session req s h
  | spdmGetDigests transport session req => exact execSpdmGetDigests_memOk transport session req s h
  | spdmGetCertificate transport session req => exact execSpdmGetCertificate_memOk transport session req s h
  | spdmChallenge transport session req => exact execSpdmChallenge_memOk transport session req s h
  | spdmGetMeasurements transport session req => exact execSpdmGetMeasurements_memOk transport session req s h
  | spdmKeyExchange transport session req => exact execSpdmKeyExchange_memOk transport session req s h
  | spdmFinish transport session req => exact execSpdmFinish_memOk transport session req s h
  | spdmKeyUpdate transport session req => exact execSpdmKeyUpdate_memOk transport session req s h
  | spdmHeartbeat transport session req => exact execSpdmHeartbeat_memOk transport session req s h
  | spdmEndSession transport session req => exact execSpdmEndSession_memOk transport session req s h
  | ideKmRequest session stream activate => exact execIdeKmRequest_memOk session stream activate s h
  | submissionTailDoorbell fn off width value stores => exact execSubmissionTailDoorbell_memOk fn off width value stores s h
  | resume fn off width value stores => exact execResume_memOk fn off width value stores s h
  | completionHeadDoorbell fn off width value => exact execCompletionHeadDoorbell_memOk fn off width value s h
  | arm fn off width value => exact execArm_memOk fn off width value s h
  | memMapCtrlWrite value => exact execMemMapCtrlWrite_memOk value s h
  | xlinkVcWeightWrite link value => exact execXlinkVcWeightWrite_memOk link value s h
  | xlinkSecWrite link value => exact execXlinkSecWrite_memOk link value s h
  | xlinkTestWrite link value => exact execXlinkTestWrite_memOk link value s h
  | partIdWrite value => exact execPartIdWrite_memOk value s h
  | errClearAll die => exact execErrClearAll_memOk die s h
  | errClearPendingOnly die slot => exact execErrClearPendingOnly_memOk die slot s h
  | errClearSlot die slot => exact execErrClearSlot_memOk die slot s h
  | errSummaryPendingClear mask => exact execErrSummaryPendingClear_memOk mask s h
  | discardToken => exact execDiscardToken_memOk s h
  | colophonReqGo value => exact execColophonReqGo_memOk value s h
  | packageAdminEnable value => exact execPackageAdminEnable_memOk value s h
  | packageAdminDisable value => exact execPackageAdminDisable_memOk value s h
  | snapCapture pf part kind index => exact execSnapCapture_memOk pf part kind index s h
  | snapCaptureClear pf part kind index => exact execSnapCaptureClear_memOk pf part kind index s h
  | vfErrPendingClear pf part mask => exact execVfErrPendingClear_memOk pf part mask s h
  | registerWrite fn off width value => exact execRegisterWrite_memOk fn off width value s h
  | bar0BadAccess fn off width isWrite value => exact execBar0BadAccess_memOk fn off width isWrite value s h
  | descriptorFetch owner ring => exact execDescriptorFetch_memOk owner ring s h
  | commandAdmit owner ring => exact execCommandAdmit_memOk owner ring s h
  | commandStart cmd => exact execCommandStart_memOk cmd s h
  | unitClaim cmd die quire plane => exact execUnitClaim_memOk cmd die quire plane s h
  | blockSelectionDone cmd qb => exact execBlockSelectionDone_memOk cmd qb s h
  | deltaScanDone cmd => exact execDeltaScanDone_memOk cmd s h
  | normScanDone cmd => exact execNormScanDone_memOk cmd s h
  | ingotArrival cmd operand ingot => exact execIngotArrival_memOk cmd operand ingot s h
  | t3FetchError cmd operand ingot => exact execT3FetchError_memOk cmd operand ingot s h
  | useDeadlineExpiry cmd tile operand ingot t => exact execUseDeadlineExpiry_memOk cmd tile operand ingot t s h
  | stallLimitExpiry cmd tile operand ingot t => exact execStallLimitExpiry_memOk cmd tile operand ingot t s h
  | tileComplete cmd tile quire residueOk => exact execTileComplete_memOk cmd tile quire residueOk s h
  | commandCommit cmd => exact execCommandCommit_memOk cmd s h
  | commitMessage die cmd => exact execCommitMessage_memOk die cmd s h
  | commitAck die cmd => exact execCommitAck_memOk die cmd s h
  | admittedDescriptorReceive die cmd => exact execAdmittedDescriptorReceive_memOk die cmd s h
  | seqReleaseComplete index => exact execSeqReleaseComplete_memOk index s h
  | preemptDelayExpiry cmd t => exact execPreemptDelayExpiry_memOk cmd t s h
  | preemptGraceExpiry cmd t => exact execPreemptGraceExpiry_memOk cmd t s h
  | waitTimeout cmd t => exact execWaitTimeout_memOk cmd t s h
  | modTimeExpiry owner cq t => exact execModTimeExpiry_memOk owner cq t s h
  | servedHalving die t => exact execServedHalving_memOk die t s h
  | regulatorRefill die t => exact execRegulatorRefill_memOk die t s h
  | segmentCountSend die cmd t => exact execSegmentCountSend_memOk die cmd t s h
  | segmentCountReceive dst src cmd count => exact execSegmentCountReceive_memOk dst src cmd count s h
  | farAccessRequest die kind unit gen addr isWrite data => exact execFarAccessRequest_memOk die kind unit gen addr isWrite data s h
  | atomicRequest die kind unit gen addr req width operand comparand => exact execAtomicRequest_memOk die kind unit gen addr req width operand comparand s h
  | lineAdd die line addends => exact execLineAdd_memOk die line addends s h
  | spineMessageReceive m => exact execSpineMessageReceive_memOk m s h
  | quireProbe die t => exact execQuireProbe_memOk die t s h
  | probeAnswer die phys gen => exact execProbeAnswer_memOk die phys gen s h
  | spineHeartbeatSend die far t => exact execSpineHeartbeatSend_memOk die far t s h
  | spineHeartbeatReceive die far gen => exact execSpineHeartbeatReceive_memOk die far gen s h
  | heartbeatMiss die kind unit t => exact execHeartbeatMiss_memOk die kind unit t s h
  | fenceAcksComplete die kind unit => exact execFenceAcksComplete_memOk die kind unit s h
  | selfTestDone cmd verdict => exact execSelfTestDone_memOk cmd verdict s h
  | laneRemap a b dir lane => exact execLaneRemap_memOk a b dir lane s h
  | spineRetrainDone a b => exact execSpineRetrainDone_memOk a b s h
  | linkDataFrame link vc seqNo crcOk payload => exact execLinkDataFrame_memOk link vc seqNo crcOk payload s h
  | linkControlFrame link seqNo crcOk credits ack => exact execLinkControlFrame_memOk link seqNo crcOk credits ack s h
  | linkNak link seqNo credits ack => exact execLinkNak_memOk link seqNo credits ack s h
  | linkControlTimer link t => exact execLinkControlTimer_memOk link t s h
  | linkRetrainDone link => exact execLinkRetrainDone_memOk link s h
  | linkRetrainTimeout link t => exact execLinkRetrainTimeout_memOk link t s h
  | linkTrainingRetry link ok t => exact execLinkTrainingRetry_memOk link ok t s h
  | linkSessionLimit link => exact execLinkSessionLimit_memOk link s h
  | hello link m => exact execHello_memOk link m s h
  | fprint link m => exact execFprint_memOk link m s h
  | grant link m => exact execGrant_memOk link m s h
  | contrib link m => exact execContrib_memOk link m s h
  | result link m => exact execResult_memOk link m s h
  | done link m => exact execDone_memOk link m s h
  | collAbort link m => exact execCollAbort_memOk link m s h
  | collAbortFinal link m => exact execCollAbortFinal_memOk link m s h
  | collTimeout cmd t => exact execCollTimeout_memOk cmd t s h
  | messageForward link m => exact execMessageForward_memOk link m s h
  | messageDrop link vc m => exact execMessageDrop_memOk link vc m s h
  | peerReady link m => exact execPeerReady_memOk link m s h
  | peerData link m => exact execPeerData_memOk link m s h
  | peerDone link m => exact execPeerDone_memOk link m s h
  | peerAbort link m => exact execPeerAbort_memOk link m s h
  | peerTimeout cmd t => exact execPeerTimeout_memOk cmd t s h
  | relayReady link m => exact execRelayReady_memOk link m s h
  | relayManifest link m => exact execRelayManifest_memOk link m s h
  | relayShard link m => exact execRelayShard_memOk link m s h
  | relayAck link m => exact execRelayAck_memOk link m s h
  | relayNak link m => exact execRelayNak_memOk link m s h
  | relayAbort link m => exact execRelayAbort_memOk link m s h
  | shardVerified cmd shard => exact execShardVerified_memOk cmd shard s h
  | shardMissingTimeout cmd shard t => exact execShardMissingTimeout_memOk cmd shard t s h
  | relayManifestTimeout cmd t => exact execRelayManifestTimeout_memOk cmd t s h
  | downstreamTimeout cmd t => exact execDownstreamTimeout_memOk cmd t s h
  | codecFrameBoundary die => exact execCodecFrameBoundary_memOk die s h
  | errorReport rep => exact execErrorReport_memOk rep s h
  | errorDeferredNotify die slot t => exact execErrorDeferredNotify_memOk die slot t s h
  | patrolScrub stack line outcome holds => exact execPatrolScrub_memOk stack line outcome holds s h
  | repairRecordAdd typ die macroId address => exact execRepairRecordAdd_memOk typ die macroId address s h
  | t3WriteBack part handle ingot => exact execT3WriteBack_memOk part handle ingot s h
  | clampUpdate die reading t => exact execClampUpdate_memOk die reading t s h
  | stackTempReport stack temp t => exact execStackTempReport_memOk stack temp t s h
  | protectiveTrip isStack unit temp => exact execProtectiveTrip_memOk isStack unit temp s h
  | ioutCalibration die iout sensed t => exact execIoutCalibration_memOk die iout sensed t s h
  | telemetryRefresh reading t => exact execTelemetryRefresh_memOk reading t s h
  | railPoll mw t => exact execRailPoll_memOk mw t s h
  | pmbAlert kind die rail => exact execPmbAlert_memOk kind die rail s h
  | apSettleDone die => exact execApSettleDone_memOk die s h
  | groupsCycleOnTimer t => exact execGroupsCycleOnTimer_memOk t s h
  | quireGroupReady group t => exact execQuireGroupReady_memOk group t s h
  | colophonCaptureDone => exact execColophonCaptureDone_memOk s h
  | colophonFatalTimeout t => exact execColophonFatalTimeout_memOk t s h
  | snapCaptureDone pf part => exact execSnapCaptureDone_memOk pf part s h
  | mailboxCommandDone dmaOk => exact execMailboxCommandDone_memOk dmaOk s h
  | ideStreamInsecure stream => exact execIdeStreamInsecure_memOk stream s h
  | v1p8AuxApplied => exact execV1p8AuxApplied_memOk s h
  | v1p8AuxRemoved => exact execV1p8AuxRemoved_memOk s h
  | pkgRstNAssert => exact execPkgRstNAssert_memOk s h
  | himonReady => exact execHimonReady_memOk s h
  | himonWatchdogExpiry t => exact execHimonWatchdogExpiry_memOk t s h
  | pwrGoodLoss => exact execPwrGoodLoss_memOk s h
  | perstNAssert => exact execPerstNAssert_memOk s h
  | perstNRelease => exact execPerstNRelease_memOk s h
  | pfFlr => exact execPfFlr_memOk s h
  | vfFlr vf => exact execVfFlr_memOk vf s h
  | pkgRstNRelease => exact execPkgRstNRelease_memOk s h
  | pwrGoodAssert => exact execPwrGoodAssert_memOk s h
  | spineFlitCrcError a b dir lane t => exact execSpineFlitCrcError_memOk a b dir lane t s h
  | uncorrectableCodeword link => exact execUncorrectableCodeword_memOk link s h
  | linkKeyExchange link peerEnabled chainOk peerSvn peerUnlocked => exact execLinkKeyExchange_memOk link peerEnabled chainOk peerSvn peerUnlocked s h
  | pllLossOfLock die => exact execPllLossOfLock_memOk die s h
  | himonFailure die => exact execHimonFailure_memOk die s h
  | msixUnmask fn vec => exact execMsixUnmask_memOk fn vec s h
  | atsInvalidationRequest fn page size => exact execAtsInvalidationRequest_memOk fn page size s h
  | jtagInstruction boundary => exact execJtagInstruction_memOk boundary s h

theorem step_memOk {s : State} (h : s.memOk) : OutcomeOk (step s) := by
  unfold step
  split
  · exact OutcomeOk.next (State.idle_memOk s h)
  · next c rest _ => exact exec_memOk c (s := { s with pending := rest }) h

/-- Settles O5: a step is the command at the front of the queue or a tick, and both keep memory canonical. -/
theorem stepKeepsMemoryCanonical : Obligations.StepKeepsMemoryCanonical := by
  unfold Obligations.StepKeepsMemoryCanonical
  exact fun _ t hs ht => (step_memOk hs).out t ht

end Sys2Proof.Machine
end

section
/-! PROOF. Where the machine stops: an access outside the populated windows, and nowhere else (R324, R387). -/

namespace Sys2Proof.Machine

/-- An outcome that is a next state. -/
def Runs (o : Host.Outcome State Fault Refusal) : Prop := ∃ t, o = .next t

theorem runs_next (t : State) : Runs (.next t) := ⟨t, rfl⟩

/-- The commands that access a device address. -/
def Instr.addresses : Instr → Bool
  | .farAccessRequest .. | .atomicRequest .. => true
  | _ => false

/-- A command that accesses no device address has a next state in every branch of its meaning. -/
theorem exec_runs {q : Instr} (hq : Instr.addresses q = false) (s : State) : Runs (exec q s) := by
  cases q
  case farAccessRequest | atomicRequest => cases hq
  all_goals dsimp only [exec,
    execBarrier, execWait, execSpdmKeyExchange, execIdeKmRequest, execMemMapCtrlWrite, execXlinkVcWeightWrite, execXlinkSecWrite, execXlinkTestWrite,
    execPartIdWrite, execErrClearAll, execErrClearPendingOnly, execErrClearSlot, execErrSummaryPendingClear, execDiscardToken, execColophonReqGo,
    execVfErrPendingClear, execRegisterWrite, execBar0BadAccess, execDescriptorFetch, execCommandAdmit, execCommandStart, execUnitClaim,
    execIngotArrival, execT3FetchError, execUseDeadlineExpiry, execStallLimitExpiry, execTileComplete, execCommandCommit, execCommitMessage,
    execCommitAck, execAdmittedDescriptorReceive, execSeqReleaseComplete, execPreemptDelayExpiry, execPreemptGraceExpiry, execWaitTimeout,
    execModTimeExpiry, execServedHalving, execRegulatorRefill, execSegmentCountSend, execSegmentCountReceive, execLineAdd, execSpineMessageReceive,
    execQuireProbe, execProbeAnswer, execSpineHeartbeatSend, execSpineHeartbeatReceive, execHeartbeatMiss, execFenceAcksComplete, execLaneRemap,
    execSpineRetrainDone, execLinkDataFrame, execLinkControlFrame, execLinkNak, execLinkControlTimer, execLinkRetrainDone, execLinkRetrainTimeout,
    execLinkTrainingRetry, execLinkSessionLimit, execHello, execFprint, execCollTimeout, execMessageForward, execMessageDrop, execPeerReady,
    execPeerData, execPeerDone, execPeerAbort, execPeerTimeout, execRelayReady, execRelayAbort, execShardVerified, execShardMissingTimeout,
    execRelayManifestTimeout, execDownstreamTimeout, execErrorDeferredNotify, execPatrolScrub, execRepairRecordAdd, execT3WriteBack, execClampUpdate,
    execStackTempReport, execProtectiveTrip, execIoutCalibration, execTelemetryRefresh, execRailPoll, execPmbAlert, execApSettleDone,
    execGroupsCycleOnTimer, execQuireGroupReady, execColophonCaptureDone, execColophonFatalTimeout, execSnapCaptureDone, execMailboxCommandDone,
    execIdeStreamInsecure, execV1p8AuxApplied, execPkgRstNAssert, execHimonReady, execHimonWatchdogExpiry, execPwrGoodLoss, execPerstNAssert,
    execPerstNRelease, execPfFlr, execVfFlr, execPkgRstNRelease, execPwrGoodAssert, execSpineFlitCrcError, execUncorrectableCodeword,
    execLinkKeyExchange, execMsixUnmask, execJtagInstruction]
  all_goals repeat' split
  all_goals exact runs_next _

section
variable {s : State} {die kind unit addr : Nat} {gen : Stamp}

/-- A far access that is dropped, or whose address is populated, has a next state. -/
theorem execFarAccessRequest_runs (h : s.drops die kind unit gen.gen = true ∨ s.native die addr ≠ none) (w : Bool) (b : Bytes) :
    Runs (execFarAccessRequest die kind unit gen addr w b s) := by
  unfold execFarAccessRequest
  split
  · exact runs_next _
  · next hdrop =>
    split
    · next hnone => exact absurd hnone (h.resolve_left hdrop)
    · split
      · exact runs_next _
      · dsimp only
        split <;> exact runs_next _

theorem execAtomicRequest_runs (h : s.drops die kind unit gen.gen = true ∨ s.native die addr ≠ none) (op : AtomicReq) (width x y : Nat) :
    Runs (execAtomicRequest die kind unit gen addr op width x y s) := by
  unfold execAtomicRequest
  split
  · exact runs_next _
  · next hdrop =>
    split
    · next hnone => exact absurd hnone (h.resolve_left hdrop)
    · split
      · exact runs_next _
      · dsimp only
        split <;> exact runs_next _

section
variable (hdrop : s.drops die kind unit gen.gen = false) (hnone : s.native die addr = none)
include hdrop hnone

theorem execFarAccessRequest_stops (w : Bool) (b : Bytes) : execFarAccessRequest die kind unit gen addr w b s = .fault .unpopulatedAddress := by
  simp only [execFarAccessRequest, hdrop, hnone, Bool.false_eq_true, if_false]

theorem execAtomicRequest_stops (op : AtomicReq) (width x y : Nat) : execAtomicRequest die kind unit gen addr op width x y s = .fault .unpopulatedAddress := by
  simp only [execAtomicRequest, hdrop, hnone, Bool.false_eq_true, if_false]
end

theorem dropped_or_populated (h : ¬(s.drops die kind unit gen.gen = false ∧ s.native die addr = none)) :
    s.drops die kind unit gen.gen = true ∨ s.native die addr ≠ none := by
  rw [← Bool.not_eq_false]
  exact Decidable.not_and_iff_or_not.1 h
end

/-- The machine stops at an access of an unpopulated address that no port drops. -/
def Instr.stopsIn (s : State) : Instr → Prop
  | .farAccessRequest die kind unit gen addr .. => s.drops die kind unit gen.gen = false ∧ s.native die addr = none
  | .atomicRequest die kind unit gen addr .. => s.drops die kind unit gen.gen = false ∧ s.native die addr = none
  | _ => False

/-- What a command does in any state: it runs, or the machine stops with the one fault there is. -/
theorem exec_runs_or_stops (q : Instr) (s : State) : Runs (exec q s) ∨ (Instr.stopsIn s q ∧ exec q s = .fault .unpopulatedAddress) := by
  by_cases hq : Instr.addresses q = false
  · exact .inl (exec_runs hq s)
  · by_cases hs : Instr.stopsIn s q
    · refine .inr ⟨hs, ?_⟩
      cases q
      case farAccessRequest => exact execFarAccessRequest_stops hs.1 hs.2 _ _
      case atomicRequest => exact execAtomicRequest_stops hs.1 hs.2 _ _ _ _
      all_goals exact absurd rfl hq
    · left
      cases q
      case farAccessRequest => exact execFarAccessRequest_runs (dropped_or_populated hs) _ _
      case atomicRequest => exact execAtomicRequest_runs (dropped_or_populated hs) _ _ _ _
      all_goals exact absurd rfl hq

/-- Settles O7: a command runs, or it accesses an unpopulated address that no port drops. -/
theorem onlyUnpopulatedAddressesStop : Obligations.OnlyUnpopulatedAddressesStop := by
  unfold Obligations.OnlyUnpopulatedAddressesStop
  refine ⟨fun q s r e => ?_, fun q s f e => ?_, fun s die kind unit addr gen w b hdrop hnone => execFarAccessRequest_stops hdrop hnone w b,
    fun s die kind unit addr gen op width x y hdrop hnone => execAtomicRequest_stops hdrop hnone op width x y⟩
  · rcases exec_runs_or_stops q s with ⟨t, ht⟩ | ⟨-, ht⟩
    · cases ht.symm.trans e
    · cases ht.symm.trans e
  · rcases exec_runs_or_stops q s with ⟨t, ht⟩ | ⟨hs, -⟩
    · cases ht.symm.trans e
    · cases q
      case farAccessRequest => exact .inl ⟨_, _, _, _, _, _, _, rfl, hs⟩
      case atomicRequest => exact .inr ⟨_, _, _, _, _, _, _, _, _, rfl, hs⟩
      all_goals exact hs.elim

end Sys2Proof.Machine
end

section
/-! PROOF. The Mitus map: where the near and the far window land, and which window a device address lies in (R324 to R326). -/

namespace Sys2Proof.Machine

/-! ### The near window -/

section
variable {n a : Nat} (hn : n ≤ 64) (ha : a < 3 * n * 2 ^ 30)
include hn ha

theorem mitusNear_stack (d : Nat) : mitusNear d a / 2 ^ 36 = 3 * d + a / 256 % 3 := by
  dsimp only [mitusNear]
  omega

theorem mitusNear_byte (d : Nat) : mitusNear d a % 2 ^ 36 = a / 256 / 3 * 256 + a % 256 := by
  dsimp only [mitusNear]
  omega

theorem mitusNear_injective {b : Nat} (hb : b < 3 * n * 2 ^ 30) {d : Nat} (h : mitusNear d a = mitusNear d b) : a = b := by
  have hstack : 3 * d + a / 256 % 3 = 3 * d + b / 256 % 3 := by rw [← mitusNear_stack hn ha, h, mitusNear_stack hn hb]
  have hbyte : a / 256 / 3 * 256 + a % 256 = b / 256 / 3 * 256 + b % 256 := by rw [← mitusNear_byte hn ha d, h, mitusNear_byte hn hb]
  omega
end

/-! ### The far window -/

section
variable {n a : Nat} (hn : n ≤ 64) (ha : a < 24 * (64 - n) * 2 ^ 30)
include hn ha

theorem mitusFar_stack : mitusFar n a / 2 ^ 36 = a / 4096 % 24 := by
  dsimp only [mitusFar]
  omega

theorem mitusFar_byte : mitusFar n a % 2 ^ 36 = n * 2 ^ 30 + a / 4096 / 24 * 4096 + a % 4096 := by
  dsimp only [mitusFar]
  omega

theorem mitusFar_injective {b : Nat} (hb : b < 24 * (64 - n) * 2 ^ 30) (h : mitusFar n a = mitusFar n b) : a = b := by
  have hstack : a / 4096 % 24 = b / 4096 % 24 := by rw [← mitusFar_stack hn ha, h, mitusFar_stack hn hb]
  have hbyte : n * 2 ^ 30 + a / 4096 / 24 * 4096 + a % 4096 = n * 2 ^ 30 + b / 4096 / 24 * 4096 + b % 4096 := by
    rw [← mitusFar_byte hn ha, h, mitusFar_byte hn hb]
  omega
end

/-! ### The windows of Table 14-1 -/

theorem State.near_le (s : State) : s.near ≤ 64 := Nat.min_le_right _ _

theorem State.native_native {a : Nat} (ha : a < 24 * 2 ^ 36) (s : State) (d : Nat) : s.native d a = some a := if_pos ha

theorem State.native_near {s : State} (hen : s.mitusEn = true) {a : Nat} (ha : a < 3 * s.near * 2 ^ 30) (d : Nat) :
    s.native d (0x040000000000 + a) = some (mitusNear d a) := by
  have hnative : ¬ 0x040000000000 + a < 24 * 2 ^ 36 := by omega
  have hwindow : 0x040000000000 + a < 0x040000000000 + 3 * s.near * 2 ^ 30 := by omega
  simp only [State.native, if_neg hnative, hen, hwindow, Nat.le_add_right, decide_true, Bool.and_self, if_true, Nat.add_sub_cancel_left]

theorem State.native_far {s : State} (hen : s.mitusEn = true) {a : Nat} (ha : a < 24 * (64 - s.near) * 2 ^ 30) (d : Nat) :
    s.native d (0x080000000000 + a) = some (mitusFar s.near a) := by
  have hnear := s.near_le
  have hnative : ¬ 0x080000000000 + a < 24 * 2 ^ 36 := by omega
  have hnot : ¬ 0x080000000000 + a < 0x040000000000 + 3 * s.near * 2 ^ 30 := by omega
  have hwindow : 0x080000000000 + a < 0x080000000000 + 24 * (64 - s.near) * 2 ^ 30 := by omega
  simp only [State.native, if_neg hnative, hen, hnot, hwindow, Nat.le_add_right, decide_false, decide_true, Bool.and_false, Bool.and_self, Bool.false_eq_true,
    if_false, if_true, Nat.add_sub_cancel_left]

theorem State.native_off {s : State} (hen : s.mitusEn = false) {a : Nat} (ha : 24 * 2 ^ 36 ≤ a) (d : Nat) : s.native d a = none := by
  simp only [State.native, if_neg (Nat.not_lt.2 ha), hen, Bool.false_and, Bool.false_eq_true, if_false]

/-- Settles O60, window by window. -/
theorem mitusMapIsOneToOne : Obligations.MitusMapIsOneToOne := by
  unfold Obligations.MitusMapIsOneToOne
  refine ⟨fun d n a hd hn ha => ?_, fun d n a b hn ha hb => mitusNear_injective hn ha hb, fun n a hn ha => ?_, fun n a b hn ha hb => mitusFar_injective hn ha hb,
    fun s d a ha => State.native_native (by omega) s d, fun s d a hen ha => State.native_near hen ha d, fun s d a hen ha => State.native_far hen ha d,
    fun s d a hen ha => State.native_off hen (by omega) d⟩
  · have hstack := mitusNear_stack hn ha d
    have hbyte := mitusNear_byte hn ha d
    unfold homeOf
    omega
  · have hstack := mitusFar_stack hn ha
    have hbyte := mitusFar_byte hn ha
    omega

end Sys2Proof.Machine
end

section
/-! PROOF. Writes of the registers: the memory map, the links, PART_ID, the debug token, and the accesses that are ignored (R325, R395, R503, R505, R548, R549, R553). -/

namespace Sys2Proof.Machine

/-! ### The memory map (R325) and the debug token (R505) -/

section
variable {s : State} (hbar : s.barAll = true)
include hbar

theorem execMemMapCtrlWrite_taken (hparts : s.parts = []) (v : Nat) :
    execMemMapCtrlWrite v s = .next { s with mitusEn := v.testBit 31, nearGib := v % 128 } := by
  simp [execMemMapCtrlWrite, hbar, hparts]

/-- While a partition exists, a write of the memory map is a report and nothing else. -/
theorem execMemMapCtrlWrite_ignored (hparts : s.parts ≠ []) (v : Nat) :
    execMemMapCtrlWrite v s = .next (s.report { origin := originId 0 0x06 0x04, cls := 0x0B, reporter := originId 0 0x06 0x04 }) := by
  simp [execMemMapCtrlWrite, hbar, hparts]

theorem execDiscardToken_taken : execDiscardToken s = .next { s with flash := { s.flash with token := none, tokenOk := false } } := if_pos hbar
end

/-! ### PART_ID (R553) -/

theorem foldl_sendHello (ls : List Nat) (s : State) :
    ls.foldl (fun (a : State) l => a.sendHello l) s
      = { s with linkOut := s.linkOut ++ ls.map (fun l => (l, { type := 0x01, length := 3, payload := leBytes 2 s.partId ++ leBytes 1 l : Msg })) } := by
  induction ls generalizing s with
  | nil => simp
  | cons l ls ih => rw [List.foldl_cons, ih]; simp [State.sendHello, State.sendLink]

theorem execPartIdWrite_taken {s : State} (hbar : s.barAll = true) (hgroups : s.groups = []) (hloads : ∀ c ∈ s.cmds, c.2.opcode ≠ 0x49) (v : Nat) :
    execPartIdWrite v s = .next (((List.range 8).filter (fun l => (s.linkAt l).up)).foldl (fun (a : State) l => a.sendHello l) { s with partId := v % 65536 }) := by
  have hnone : (s.cmds.any fun c => decide (c.2.opcode = 0x49) && decide (c.2.f 16 1 = 0) && (decide (c.2.f 17 1 = 1) || decide (c.2.f 19 1 ≠ 0xFF))) = false := by
    rw [List.any_eq_false]
    intro c hc
    simp [hloads c hc]
  simp only [execPartIdWrite, hbar, hgroups, hnone, Bool.not_true, Bool.false_eq_true, if_false, List.isEmpty_nil, Bool.or_self]
  rfl

/-! ### The link registers (R395, R503, R548) -/

theorem State.linkAt_of_links {s t : State} (h : t.links = s.links) (l : Nat) : t.linkAt l = s.linkAt l := congrArg (fun ls => ls.getD l {}) h

theorem State.links_of_but_fails {s t : State} (h : State.but (Field.among failFields) s = State.but (Field.among failFields) t) : s.links = t.links :=
  congrArg (fun v : StateView => v.state.links) h

/-- A link that is marked down has lost all it carried. -/
theorem State.markDown_linkAt_same {s : State} {l : Nat} (hl : l < s.links.length) :
    (s.markDown l).linkAt l = { (s.linkAt l).fresh with down := true, retrainAt := s.counter l } := by
  refine (State.linkAt_of_links (s := s.setLink l { (s.linkAt l).fresh with down := true, retrainAt := s.counter l }) ?_ l).trans (State.linkAt_setLink_same s l _ hl)
  apply State.links_of_but_fails
  have hX := covers_among failFields
  exact (State.but_linkOut (hX.mono (by decide)) _ _).trans
    ((foldl_but _ _ _ fun a (c : Nat × Cmd) => State.failCmd_but hX a c.1 _ _).trans (State.report_but (hX.mono (by decide)) _ _))

theorem State.markDown_links_length (s : State) (l : Nat) : (s.markDown l).links.length = s.links.length :=
  congrArg Shape.links (State.markDown_shape s l)

section
variable {s : State} {link : Nat} (hbar : s.barAll = true) (hl : link < 8)
include hbar hl

theorem execXlinkVcWeightWrite_taken (v : Nat) :
    execXlinkVcWeightWrite link v s
      = .next (s.setLink link { s.linkAt link with nextWeights := [v % 256, v / 256 % 256, v / 65536 % 256, v / 16777216 % 256] }) := by
  simp [execXlinkVcWeightWrite, hbar, hl, List.range_succ]

theorem execXlinkSecWrite_taken (v : Nat) :
    execXlinkSecWrite link v s = .next (s.setLink link { (s.linkAt link).endSession with secEnable := v.testBit 31, minPeerSvn := v % 256 }) := by
  simp [execXlinkSecWrite, hbar, hl]

variable (hlinks : s.links.length = 8)
include hlinks

/-- A mode that XLINK_TEST sets takes the link down. -/
theorem execXlinkTestWrite_opens {v : Nat} (hmode : bitsOf v 30 28 ≠ 0) (hidle : (s.linkAt link).testMode = 0) :
    ∃ t, execXlinkTestWrite link v s = .next t ∧ (t.linkAt link).down = true ∧ (t.linkAt link).testMode = bitsOf v 30 28
      ∧ (v.testBit 31 = true → (t.linkAt link).testErrors = 0) := by
  have hdown : ((s.markDown link).linkAt link).down = true := by rw [State.markDown_linkAt_same (by omega)]
  have hlen : link < (s.markDown link).takeFresh.links.length := by
    have := s.markDown_links_length link
    rw [State.takeFresh_links]
    omega
  simp only [execXlinkTestWrite, hbar, hl, hmode, hidle, decide_true, Bool.and_self, if_true, ne_eq, not_false_eq_true, false_and, and_self, if_false]
  refine ⟨_, rfl, ?_⟩
  rw [State.linkAt_setLink_same _ _ _ hlen]
  exact ⟨hdown, rfl, fun hrun => if_pos hrun⟩

/-- MODE 0 after a mode lets the link retrain. -/
theorem execXlinkTestWrite_closes {v : Nat} (hmode : bitsOf v 30 28 = 0) (htest : (s.linkAt link).testMode ≠ 0) :
    ∃ t, execXlinkTestWrite link v s = .next t ∧ (t.linkAt link).retraining = true ∧ (t.linkAt link).testMode = 0 := by
  simp only [execXlinkTestWrite, hbar, hl, hmode, htest, decide_true, Bool.and_self, if_true, ne_eq, not_true_eq_false, not_false_eq_true, and_self,
    and_false, if_false]
  refine ⟨_, rfl, ?_⟩
  unfold State.startRetrain
  rw [State.linkAt_setLink_same _ _ _ (by simpa using hlinks ▸ hl), State.linkAt_setLink_same _ _ _ (by simpa using hlinks ▸ hl)]
  exact ⟨rfl, rfl⟩
end

/-! ### Accesses of BAR0 (R549) -/

section
variable {s : State} {off width : Nat}

theorem execRegisterWrite_bad (hbad : goodAccess off width = false) (hbar : s.barErr = true) (fn v : Nat) :
    execRegisterWrite fn off width v s = .next (s.protocolHs off) := by
  simp [execRegisterWrite, hbad, hbar]

theorem execBar0BadAccess_bad (hbad : goodAccess off width = false) (hbar : s.barErr = true) (fn : Nat) (w : Bool) (v : Nat) :
    execBar0BadAccess fn off width w v s = .next (s.protocolHs off) := by
  simp [execBar0BadAccess, hbad, hbar]

theorem execRegisterWrite_halves (hoff : off % 8 = 0) (fn v : Nat) (s : State) :
    execRegisterWrite fn off 64 v s = .next ((s.write32 fn off (v % 2 ^ 32)).write32 fn (off + 4) (v / 2 ^ 32 % 2 ^ 32)) := by
  simp [execRegisterWrite, goodAccess, hoff]

/-- The package registers are written in normal service. -/
theorem State.write32_package (hbar : s.barAll = true) (h1 : 0x1000 ≤ off) (h2 : off < 0x2000) (v : Nat) : s.write32 0 off v = s.packageWrite off v := by
  simp only [State.write32, h1, h2, hbar, Bool.true_or, and_self, if_true]

theorem execRegisterWrite_word (hoff : off % 4 = 0) (fn v : Nat) (s : State) : execRegisterWrite fn off 32 v s = .next (s.write32 fn off (v % 2 ^ 32)) := by
  simp [execRegisterWrite, goodAccess, hoff]

/-- The register of the correctable errors' threshold takes its five bits. -/
theorem execRegisterWrite_ceLog2 (hbar : s.barAll = true) (v : Nat) : execRegisterWrite 0 0x1074 32 v s = .next { s with ceLog2 := v % 32 } := by
  rw [execRegisterWrite_word (by decide), State.write32_package hbar (by decide) (by decide)]
  have hv : v % 2 ^ 32 % 32 = v % 32 := by omega
  exact congrArg (fun n => Host.Outcome.next { s with ceLog2 := n }) hv
end

/-- Settles O21, register by register. -/
theorem registerAccessesTakeEffect : Obligations.RegisterAccessesTakeEffect := by
  unfold Obligations.RegisterAccessesTakeEffect
  refine ⟨⟨fun s v hbar hparts => execMemMapCtrlWrite_taken hbar hparts v, fun s v hbar hparts => ?_, fun s link v hbar hl hs => ⟨?_, ?_⟩,
      fun s v hbar hgroups hloads => ?_, fun s hbar => ⟨_, execDiscardToken_taken hbar, rfl, rfl, rfl⟩⟩,
    fun s link v hbar hl hs hmode hidle => execXlinkTestWrite_opens hbar hl hs.2.2.1 hmode hidle,
    fun s link v hbar hl hs hmode htest => execXlinkTestWrite_closes hbar hl hs.2.2.1 hmode htest,
    fun s fn off width v w hbad hbar => ⟨_, execBar0BadAccess_bad hbad hbar fn w v, rfl, execRegisterWrite_bad hbad hbar fn v⟩,
    fun s fn off v hoff => execRegisterWrite_halves hoff fn v s, fun s v hbar => execRegisterWrite_ceLog2 hbar v⟩
  · have h := State.report_but (covers_among _) s { origin := originId 0 0x06 0x04, cls := 0x0B, reporter := originId 0 0x06 0x04 }
    exact ⟨_, execMemMapCtrlWrite_ignored hbar hparts v, State.mitusEn_kept h rfl, State.nearGib_kept h rfl⟩
  · obtain ⟨-, -, hlinks, -⟩ := hs
    exact ⟨_, execXlinkVcWeightWrite_taken hbar hl v, State.linkAt_setLink_same _ _ _ (by omega), fun l hne => State.linkAt_setLink_ne _ _ hne⟩
  · obtain ⟨-, -, hlinks, -⟩ := hs
    refine ⟨_, execXlinkSecWrite_taken hbar hl v, ?_⟩
    rw [State.linkAt_setLink_same _ _ _ (by omega)]
    exact ⟨rfl, rfl, rfl, fun l hne => State.linkAt_setLink_ne _ _ hne⟩
  · refine ⟨_, execPartIdWrite_taken hbar hgroups hloads v, ?_⟩
    rw [foldl_sendHello]
    exact ⟨rfl, rfl⟩

end Sys2Proof.Machine
end

section
/-! PROOF. POWER_SET and MEM_MARGIN: each action in its turn, and what the end of a command leaves of power, dies and stacks (R344, R345, R509, R510, R513, R515, R516, R518). -/

namespace Sys2Proof.Machine

/-! ### What the end of a command leaves -/

theorem State.finish_power (s : State) (id st dt : Nat) : (s.finish id st dt).power = s.power :=
  State.power_kept (State.finish_but (covers_among _) s id st dt) rfl

theorem State.finish_hbm (s : State) (id st dt : Nat) : (s.finish id st dt).hbm = s.hbm :=
  congrArg (·.state.hbm) (State.finish_but (covers_among _) s id st dt)

theorem State.finish_dies (s : State) (id st dt : Nat) : (s.finish id st dt).dies = s.dies :=
  congrArg (·.state.dies) (State.finish_but (covers_among _) s id st dt)

theorem State.diePower_of_power {s t : State} (h : t.power = s.power) (d : Nat) : t.diePower d = s.diePower d :=
  congrArg (fun p : Power => p.dies.getD d {}) h

/-! ### Commands that a reset leaves ended -/

theorem State.completeCommit_ended {s : State} {j : Nat} (h : s.cmd? j = none) (link : Bool) (id : Nat) (c : Cmd) : (s.completeCommit link id c).cmd? j = none := by
  have hdies : (c.waitDies.foldl (fun (a : State) d => a.commitDie c d) s).cmd? j = none :=
    (State.cmd?_kept (State.commitDies_but (covers_among _) s c c.waitDies) rfl j).trans h
  unfold State.completeCommit
  dsimp only
  split
  · exact State.finish_cmd?_eq_none hdies _ _ _
  · by_cases hj : j = id
    · subst hj
      exact NMap.get?_erase_same ..
    · exact (NMap.get?_erase_ne _ hj).trans hdies

theorem foldl_cmd?_eq_none {α : Type} {f : State → α → State} {j : Nat} (hf : ∀ a x, a.cmd? j = none → (f a x).cmd? j = none) (l : List α) {s : State}
    (h : s.cmd? j = none) : (l.foldl f s).cmd? j = none := by
  induction l generalizing s with
  | nil => exact h
  | cons x l ih => exact ih (hf s x h)

/-- What a warm reset changes after its commands have ended. -/
def warmResetFields : List Field :=
  warmFields ++ hostFields ++ meterFields ++ [.boot, .contents, .tempers, .seqs, .frames, .steps, .subs, .comps, .fences, .colo]

/-- A warm reset admits no command. -/
theorem State.warmReset_cmd?_eq_none {s : State} {j : Nat} (h : s.cmd? j = none) (link : Bool) : (s.warmReset link).cmd? j = none := by
  have hX := covers_among warmResetFields
  unfold State.warmReset
  extract_lets s1 owed s2 pre cancelled s3 s4 s5 s6 s7
  have h1 : s1.cmd? j = none := foldl_cmd?_eq_none (fun a x ha => State.dropCmd_cmd?_eq_none ha x.1) _ h
  have h2 : s2.cmd? j = none := foldl_cmd?_eq_none (fun a x ha => State.completeCommit_ended ha link x.1 x.2) _ h1
  have h3 : s3.but (Field.among warmResetFields) = s2.but (Field.among warmResetFields) := by
    simp only [s3]
    split
    · exact State.writeBackAll_but (hX.mono (by decide)) s2
    · rfl
  have h4 : s4.but (Field.among warmResetFields) = s3.but (Field.among warmResetFields) := State.settleBindery_but (hX.mono (by decide)) s3
  have h5 : s5.but (Field.among warmResetFields) = s4.but (Field.among warmResetFields) :=
    foldl_but _ _ _ fun a (p : Nat × Part) => State.resetRings_but (hX.mono (by decide)) a p.1
  exact (State.cmd?_kept (h5.trans (h4.trans h3)) rfl j).trans h2

theorem State.enterPk_cmd?_eq_none {s : State} {j : Nat} (h : s.cmd? j = none) (n : Nat) : (s.enterPk n).cmd? j = none := by
  unfold State.enterPk
  split
  · exact h
  · exact h
  · exact h
  · exact (State.warmReset_cmd?_eq_none h _ : NMap.get? (s.warmReset s.linkUp).cmds j = none)
  · exact h

/-! ### The package state (R509, R510) -/

theorem State.enterPk_pk (s : State) {n : Nat} (hn : n ≤ 4) : (s.enterPk n).power.pk = n := by
  interval_cases n <;> rfl

theorem mem_map_refresh {l : List Stack} {b : Bool} : ∀ x ∈ l.map (fun h : Stack => { h with selfRefresh := b }), x.selfRefresh = b := by
  intro x hx
  obtain ⟨y, -, rfl⟩ := List.mem_map.1 hx
  rfl

/-- PK2 and PK3 put the stacks into self-refresh. -/
theorem State.enterPk_sleeps (s : State) {n : Nat} (hn : n = 2 ∨ n = 3) : ∀ x ∈ (s.enterPk n).hbm, x.selfRefresh = true := by
  rcases hn with rfl | rfl
  · exact mem_map_refresh
  · exact State.warmReset_refresh s s.linkUp

theorem pkAllowed_le {now next : Nat} (h : pkAllowed now next = true) : next ≤ 4 := by
  unfold pkAllowed at h
  split at h
  · simp only [Bool.and_eq_true, decide_eq_true_eq] at h
    omega
  · simp only [List.contains_eq_mem, List.mem_cons, List.not_mem_nil, or_false, decide_eq_true_eq] at h
    omega
  · simp only [List.contains_eq_mem, List.mem_cons, List.not_mem_nil, or_false, decide_eq_true_eq] at h
    omega
  · cases h

/-! ### A change of point (R513) -/

/-- The dies of a list begin their change of point. -/
def State.changePoints (s : State) (ds : List Nat) (ap : Nat) : State :=
  ds.foldl (fun (a : State) d => a.setDiePower d ((a.diePower d).change ap (a.setPoint d ap))) s

theorem State.changePoints_diePower {s : State} {ds : List Nat} (hn : ds.Nodup) (hl : ∀ d ∈ ds, d < s.power.dies.length) (ap d : Nat) :
    (s.changePoints ds ap).diePower d = if d ∈ ds then (s.diePower d).change ap (s.setPoint d ap) else s.diePower d := by
  induction ds generalizing s with
  | nil => rfl
  | cons e ds ih =>
    obtain ⟨he, hn⟩ := List.nodup_cons.1 hn
    have hlen : ∀ d ∈ ds, d < (s.setDiePower e ((s.diePower e).change ap (s.setPoint e ap))).power.dies.length := fun d hd =>
      (hl d (List.mem_cons_of_mem e hd)).trans_eq (List.length_set ..).symm
    refine (ih hn hlen).trans ?_
    by_cases hd : d = e
    · subst hd
      rw [if_neg he, if_pos List.mem_cons_self, State.diePower_setDiePower_same _ _ _ (hl d List.mem_cons_self)]
    · rw [State.diePower_setDiePower_ne _ _ hd]
      simp only [List.mem_cons, hd, false_or]
      rfl

/-- The dies that a mask names. -/
def diesIn (mask : Nat) : List Nat := (List.range 8).filter (fun d => bitOf mask d)

theorem mem_diesIn {mask d : Nat} : d ∈ diesIn mask ↔ d < 8 ∧ mask.testBit d = true := by
  simp [diesIn, bitOf]

theorem State.changePoints_masked {s : State} (hs : s.power.dies.length = 8) (mask ap : Nat) {d : Nat} (hd : d < 8) :
    (s.changePoints (diesIn mask) ap).diePower d = if mask.testBit d then (s.diePower d).change ap (s.setPoint d ap) else s.diePower d := by
  have hlen : ∀ e ∈ diesIn mask, e < s.power.dies.length := fun e he => by
    have := mem_diesIn.1 he
    omega
  have hnodup : (diesIn mask).Nodup := List.nodup_range.filter _
  rw [State.changePoints_diePower hnodup hlen]
  exact if_congr (by rw [mem_diesIn]; exact and_iff_right hd) rfl rfl

/-- A die that slows down is at its point at once; one that speeds up waits for its regulator. -/
theorem DiePower.change_apNext (x : DiePower) (ap mv : Nat) : (x.change ap mv).apNext = if x.ap ≤ ap then none else some ap := by
  unfold DiePower.change
  split <;> rfl

/-! ### Groups that go off (R516) -/

theorem getElem?_map_zipIdx {α β : Type} (f : α × Nat → β) (l : List α) (i : Nat) : (l.zipIdx.map f)[i]? = (l[i]?).map (fun x => f (x, i)) := by
  rw [List.getElem?_map, List.getElem?_zipIdx, Option.map_map]
  simp [Function.comp_def]

/-- The stores of a group that goes off are empty. -/
theorem State.gateGroups_stores {s : State} (hs : s.dies.length = 8) (G : BitVec 96) {g : Nat} (hg : g < 96) (hbit : G.getLsbD g = true) {l : Nat}
    (hl : l / 8 = g % 12) : ((s.gateGroups G).dieAt (g / 12)).stores.getD l [] = [] := by
  have hnamed : G.getLsbD (12 * (g / 12) + l / 8) = true := by rw [hl, Nat.div_add_mod, hbit]
  have hdie : g / 12 < s.dies.length := by omega
  unfold State.dieAt State.gateGroups
  dsimp only
  rw [List.getD_eq_getElem?_getD, List.getD_eq_getElem?_getD, getElem?_map_zipIdx, List.getElem?_eq_getElem hdie, Option.map_some, Option.getD_some,
    getElem?_map_zipIdx]
  simp only [hnamed, if_true]
  cases (s.dies[g / 12]).stores[l]? <;> rfl

/-! ### POWER_SET in its turn -/

section
variable {s : State} {id : Nat} {c : Cmd} (h : Live s id 0x4B c) (hturn : s.powerTurn id = true)
include h hturn

section
variable (hact : c.f 16 1 = 0)
include hact

theorem execPowerSetPackageState_refused (hpk : pkAllowed s.power.pk (c.f 17 1) = false) :
    execPowerSetPackageState id s = .next ((s.startCmd id).failCmd id E_POWER_STATE 1) := by
  unfold execPowerSetPackageState
  rw [control_live h (decide_eq_true hact)]
  simp only [hturn, hpk, Bool.not_true, Bool.not_false, Bool.false_eq_true, if_false, if_true]
  rfl

theorem execPowerSetPackageState_returns (hn : c.f 17 1 = 0) (hpk : pkAllowed s.power.pk 0 = true) :
    execPowerSetPackageState id s = .next ((s.enterPk 0).finish id OK 0) := by
  unfold execPowerSetPackageState
  rw [control_live h (decide_eq_true hact)]
  simp only [hturn, hn, hpk, Bool.not_true, Bool.false_eq_true, if_false, if_true]

/-- A move out of PK0 waits for every other command, and one that puts the stacks to sleep for every MEM_MARGIN. -/
theorem execPowerSetPackageState_moves (hn : c.f 17 1 ≠ 0) (hpk : pkAllowed s.power.pk (c.f 17 1) = true) (halone : s.power.pk = 0 → ∀ x ∈ s.cmds, x.1 = id)
    (hmargin : 2 ≤ c.f 17 1 → ∀ x ∈ s.cmds, x.2.opcode ≠ 0x52) : execPowerSetPackageState id s = .next ((s.finish id OK 0).enterPk (c.f 17 1)) := by
  have h1 : ¬(s.power.pk = 0 ∧ (s.cmds.any fun x => x.1 != id) = true) := by
    rintro ⟨h0, hany⟩
    obtain ⟨x, hx, hne⟩ := List.any_eq_true.1 hany
    exact absurd (halone h0 x hx) (by simpa using hne)
  have h2 : ¬(2 ≤ c.f 17 1 ∧ (s.cmds.any fun x => x.2.opcode == 0x52) = true) := by
    rintro ⟨h0, hany⟩
    obtain ⟨x, hx, he⟩ := List.any_eq_true.1 hany
    exact absurd (beq_iff_eq.1 he) (hmargin h0 x hx)
  unfold execPowerSetPackageState
  rw [control_live h (decide_eq_true hact)]
  simp only [hturn, hn, hpk, h1, h2, Bool.not_true, Bool.false_eq_true, if_false]
end

/-! ### Arithmetic points (R513, R518) -/

section
variable (hact : c.f 16 1 = 1)
include hact

theorem execPowerSetArithPoint_refused {n : Nat} (hfail : apFail s (c.f 18 1) (c.f 17 1) = some n) :
    execPowerSetArithPoint id s = .next ((s.startCmd id).failCmd id E_POWER_STATE n) := by
  unfold execPowerSetArithPoint
  rw [control_live h (decide_eq_true hact)]
  simp only [hturn, hfail, Bool.not_true, Bool.false_eq_true, if_false]
  rfl

theorem execPowerSetArithPoint_starts (hfail : apFail s (c.f 18 1) (c.f 17 1) = none) :
    execPowerSetArithPoint id s = .next (if (diesIn (c.f 18 1)).all (fun d => ((s.changePoints (diesIn (c.f 18 1)) (c.f 17 1)).diePower d).apNext.isNone)
      then (s.changePoints (diesIn (c.f 18 1)) (c.f 17 1)).finish id OK 0
      else (s.changePoints (diesIn (c.f 18 1)) (c.f 17 1)).setCmd id { c with phase := .committing }) := by
  unfold execPowerSetArithPoint
  rw [control_live h (decide_eq_true hact)]
  simp only [hturn, hfail, Bool.not_true, Bool.false_eq_true, if_false]
  rfl

/-- A point that passes its checks: every named die begins its change, and the record waits for those that speed up. -/
theorem execPowerSetArithPoint_effect (hs : s.power.dies.length = 8) (hfail : apFail s (c.f 18 1) (c.f 17 1) = none) :
    ∃ t, execPowerSetArithPoint id s = .next t
      ∧ (∀ d < 8, t.diePower d = if (c.f 18 1).testBit d then (s.diePower d).change (c.f 17 1) (s.setPoint d (c.f 17 1)) else s.diePower d)
      ∧ ((∀ d < 8, (c.f 18 1).testBit d = true → (s.diePower d).ap ≤ c.f 17 1) → t.cmd? id = none)
      ∧ ((∃ d < 8, (c.f 18 1).testBit d = true ∧ c.f 17 1 < (s.diePower d).ap) → t.cmd? id = some { c with phase := .committing }) := by
  have hdie := fun d (hd : d < 8) => State.changePoints_masked hs (c.f 18 1) (c.f 17 1) hd
  have hnext : ∀ d < 8, (c.f 18 1).testBit d = true →
      ((s.changePoints (diesIn (c.f 18 1)) (c.f 17 1)).diePower d).apNext = if (s.diePower d).ap ≤ c.f 17 1 then none else some (c.f 17 1) := fun d hd hbit => by
    rw [hdie d hd, if_pos hbit, DiePower.change_apNext]
  refine ⟨_, execPowerSetArithPoint_starts h hturn hact hfail, ?_⟩
  split
  · next hall =>
    refine ⟨fun d hd => (State.diePower_of_power (State.finish_power ..) d).trans (hdie d hd), fun _ => State.cmd?_finish .., ?_⟩
    rintro ⟨d, hd, hbit, hlt⟩
    have hnone := List.all_eq_true.1 hall d (mem_diesIn.2 ⟨hd, hbit⟩)
    rw [hnext d hd hbit, if_neg (Nat.not_le.2 hlt)] at hnone
    cases hnone
  · next hall =>
    refine ⟨fun d hd => hdie d hd, fun hslow => absurd (List.all_eq_true.2 fun d hd => ?_) hall, fun _ => State.cmd?_setCmd_same ..⟩
    obtain ⟨hd, hbit⟩ := mem_diesIn.1 hd
    rw [hnext d hd hbit, if_pos (hslow d hd hbit)]
    rfl
end

/-! ### Quire groups (R515, R516) -/

section
variable (hfenced : groupsFenced s (groupBits c.desc) = true)
include hfenced

theorem execPowerSetGroupsOff_refused (hact : c.f 16 1 = 2) : execPowerSetGroupsOff id s = .next ((s.startCmd id).failCmd id E_POWER_STATE 2) := by
  unfold execPowerSetGroupsOff
  rw [control_live h (decide_eq_true hact)]
  simp only [hturn, hfenced, Bool.not_true, Bool.false_eq_true, if_false, if_true]
  rfl

theorem execPowerSetGroupsOn_refused (hact : c.f 16 1 = 3) : execPowerSetGroupsOn id s = .next ((s.startCmd id).failCmd id E_POWER_STATE 2) := by
  unfold execPowerSetGroupsOn
  rw [control_live h (decide_eq_true hact)]
  simp only [hturn, hfenced, Bool.not_true, Bool.false_eq_true, if_false, if_true]
  rfl

theorem execPowerSetGroupsCycle_refused (hact : c.f 16 1 = 4) : execPowerSetGroupsCycle id s = .next ((s.startCmd id).failCmd id E_POWER_STATE 2) := by
  unfold execPowerSetGroupsCycle
  rw [control_live h (decide_eq_true hact)]
  simp only [hturn, hfenced, Bool.not_true, Bool.false_eq_true, if_false, if_true]
  rfl
end

section
variable (hfenced : groupsFenced s (groupBits c.desc) = false)
include hfenced

theorem execPowerSetGroupsOff_live (hact : c.f 16 1 = 2) (hbusy : s.groupsBusy (groupBits c.desc) = false) :
    execPowerSetGroupsOff id s = .next ((s.gateGroups (groupBits c.desc)).finish id OK 0) := by
  unfold execPowerSetGroupsOff
  rw [control_live h (decide_eq_true hact)]
  simp only [hturn, hfenced, hbusy, Bool.not_true, Bool.false_eq_true, if_false]

theorem execPowerSetGroupsOn_live (hact : c.f 16 1 = 3) : execPowerSetGroupsOn id s = .next ((s.groupsOn (groupBits c.desc)).finish id OK 0) := by
  unfold execPowerSetGroupsOn
  rw [control_live h (decide_eq_true hact)]
  simp only [hturn, hfenced, Bool.not_true, Bool.false_eq_true, if_false]

theorem execPowerSetGroupsCycle_live (hact : c.f 16 1 = 4) (hbusy : s.groupsBusy (groupBits c.desc) = false) :
    execPowerSetGroupsCycle id s = .next (State.setCmd { s.gateGroups (groupBits c.desc) with
      power := { (s.gateGroups (groupBits c.desc)).power with cycle := some ((groupBits c.desc).toNat, s.counter 0 + 10000) } } id { c with phase := .committing }) := by
  unfold execPowerSetGroupsCycle
  rw [control_live h (decide_eq_true hact)]
  simp only [hturn, hfenced, hbusy, Bool.not_true, Bool.false_eq_true, if_false]
end
end

/-! ### MEM_MARGIN (R343 to R347) -/

section
variable {s : State} {id : Nat} {c : Cmd} (hfirst : ∀ x ∈ s.cmds, x.1 < id → x.2.opcode = 0x52 → x.2.f 16 1 ≠ c.f 16 1)
include hfirst

theorem memMargin_turn : (s.cmds.any fun x => decide (x.1 < id) && x.2.opcode == 0x52 && x.2.f 16 1 == c.f 16 1) = false := by
  rw [List.any_eq_false]
  rintro x hx hany
  simp only [Bool.and_eq_true, decide_eq_true_eq, beq_iff_eq] at hany
  obtain ⟨⟨hlt, hop⟩, hstack⟩ := hany
  exact hfirst x hx hlt hop hstack

variable (h : Live s id 0x52 c) {kind : Nat} (hkind : c.f 17 1 = kind)
include h hkind

theorem memMargin_awake (hawake : (s.stackAt (c.f 16 1)).selfRefresh = false) :
    memMargin kind id s
      = (((s.hostWrite (s.functionOf c.owner) (c.f 24 8) (marginResult s c)).takeFresh).setCmd id { c with home := c.f 16 1 / 3 }).finish id OK (marginFails s c) := by
  unfold memMargin
  rw [control_live h (decide_eq_true hkind)]
  simp only [memMargin_turn hfirst, hawake, Bool.false_eq_true, if_false]

theorem memMargin_asleep (hasleep : (s.stackAt (c.f 16 1)).selfRefresh = true) : memMargin kind id s = (s.startCmd id).failCmd id E_MARGIN_STATE 1 := by
  unfold memMargin
  rw [control_live h (decide_eq_true hkind)]
  simp only [memMargin_turn hfirst, hasleep, Bool.false_eq_true, if_false, if_true]
  rfl
end

/-- The four MEM_MARGIN commands are one, by its KIND. -/
theorem exec_memMargin {id : Nat} {q : Instr × Nat}
    (hq : q ∈ [(Instr.memMarginReadScan id, 0), (Instr.memMarginTiming id, 1), (Instr.memMarginVoltage id, 2), (Instr.memMarginTimingVoltage id, 3)]) (s : State) :
    exec q.1 s = .next (memMargin q.2 id s) := by
  simp only [List.mem_cons, List.not_mem_nil, or_false] at hq
  rcases hq with rfl | rfl | rfl | rfl
  · rfl
  · rfl
  · rfl
  · rfl

/-- Settles O32, action by action. -/
theorem powerSetAndMarginComplete : Obligations.PowerSetAndMarginComplete := by
  unfold Obligations.PowerSetAndMarginComplete
  refine ⟨fun s id c h hturn => ⟨execPowerSetPackageState_refused h hturn, fun hact hn hpk halone hmargin => ?_, fun hact hn hpk => ?_,
      fun hact hs => ⟨fun n hfail => execPowerSetArithPoint_refused h hturn hact hfail, fun hfail => ?_⟩,
      fun hf => ⟨execPowerSetGroupsOff_refused h hturn hf, execPowerSetGroupsOn_refused h hturn hf, execPowerSetGroupsCycle_refused h hturn hf⟩,
      fun hact hf hbusy => ?_, fun hact hf => ?_, fun hact hf hbusy => ?_⟩,
    fun s id c h hfirst q hq hkind => ⟨fun hawake => ?_, fun hasleep => ?_⟩⟩
  · refine ⟨_, execPowerSetPackageState_moves h hturn hact hn hpk halone hmargin, State.enterPk_cmd?_eq_none (State.cmd?_finish ..) _,
      State.enterPk_pk _ (pkAllowed_le hpk), State.enterPk_sleeps _, fun h4 => ?_⟩
    rw [h4]
    rfl
  · refine ⟨_, execPowerSetPackageState_returns h hturn hact hn hpk, State.cmd?_finish .., by rw [State.finish_power]; rfl, ?_⟩
    rw [State.finish_hbm]
    exact mem_map_refresh
  · obtain ⟨-, -, -, -, -, -, hpower, -⟩ := hs
    exact execPowerSetArithPoint_effect h hturn hact hpower hfail
  · refine ⟨_, execPowerSetGroupsOff_live h hturn hf hact hbusy, State.cmd?_finish .., by rw [State.finish_power]; rfl, fun hs g hg hbit l hl => ?_⟩
    obtain ⟨-, hdies, -⟩ := hs
    unfold State.dieAt
    rw [State.finish_dies]
    exact State.gateGroups_stores hdies _ hg hbit hl
  · exact ⟨_, execPowerSetGroupsOn_live h hturn hf hact, State.cmd?_finish .., by rw [State.finish_power]; rfl⟩
  · exact ⟨_, _, execPowerSetGroupsCycle_live h hturn hf hact hbusy, State.cmd?_setCmd_same .., rfl, rfl, rfl⟩
  · rw [exec_memMargin hq, memMargin_awake hfirst h hkind hawake]
  · rw [exec_memMargin hq, memMargin_asleep hfirst h hkind hasleep]

end Sys2Proof.Machine
end

section
/-! PROOF. What the power timers end, and what the sensors bring (R341, R508, R513, R515, R516, R519, R521, R522). -/

namespace Sys2Proof.Machine

/-! ### Commands that an event completes -/

/-- Of the commands that a pass completes, one whose completion does not hang on the others is gone at the end; `P` is what the pass keeps. -/
theorem foldl_completes {f : State → Nat × Cmd → State} {P : State → Prop} (hP : ∀ a x, P a → P (f a x))
    (hnone : ∀ a x j, a.cmd? j = none → (f a x).cmd? j = none) {y : Nat × Cmd} (hy : ∀ a, P a → (f a y).cmd? y.1 = none) {l : List (Nat × Cmd)} (hl : y ∈ l)
    {s : State} (hs : P s) : (l.foldl f s).cmd? y.1 = none := by
  induction l generalizing s with
  | nil => cases hl
  | cons x l ih =>
    rcases List.mem_cons.1 hl with rfl | hl
    · exact foldl_cmd?_eq_none (fun a x => hnone a x y.1) l (hy s hs)
    · exact ih hl (hP s x hs)

theorem foldl_power {α : Type} {f : State → α → State} (hf : ∀ a x, (f a x).power = a.power) (l : List α) (s : State) : (l.foldl f s).power = s.power := by
  induction l generalizing s with
  | nil => rfl
  | cons x l ih => exact (ih _).trans (hf s x)

/-- What an event makes of a POWER_SET of an arithmetic point that waits. -/
def State.settlePoint (s : State) (x : Nat × Cmd) : State :=
  if (List.range 8).all (fun d => !(bitOf (x.2.f 18 1) d) || (s.diePower d).apNext.isNone) then s.finish x.1 OK 0 else s

theorem State.settlePoint_power (s : State) (x : Nat × Cmd) : (s.settlePoint x).power = s.power := by
  unfold State.settlePoint
  split
  · exact State.finish_power ..
  · rfl

theorem State.settlePoint_cmd?_eq_none {s : State} {j : Nat} (h : s.cmd? j = none) (x : Nat × Cmd) : (s.settlePoint x).cmd? j = none := by
  unfold State.settlePoint
  split
  · exact State.finish_cmd?_eq_none h _ _ _
  · exact h

/-- A POWER_SET all of whose dies have settled gets its record. -/
theorem State.settlePoint_settled {s : State} {x : Nat × Cmd} (h : ∀ d < 8, (x.2.f 18 1).testBit d = true → (s.diePower d).apNext = none) :
    (s.settlePoint x).cmd? x.1 = none := by
  have hall : (List.range 8).all (fun d => !(bitOf (x.2.f 18 1) d) || (s.diePower d).apNext.isNone) = true := by
    refine List.all_eq_true.2 fun d hd => ?_
    rw [Bool.or_eq_true, Bool.not_eq_true']
    refine (Bool.eq_false_or_eq_true (bitOf (x.2.f 18 1) d)).symm.imp_right fun hbit => ?_
    rw [h d (List.mem_range.1 hd) hbit]
    rfl
  unfold State.settlePoint
  rw [if_pos hall]
  exact State.cmd?_finish ..

theorem State.settledPoints_power (s : State) : s.settledPoints.power = s.power := foldl_power State.settlePoint_power _ s

theorem State.settledPoints_completes {s : State} {x : Nat × Cmd} (hx : x ∈ s.cmds) (hop : x.2.opcode = 0x4B) (hact : x.2.f 16 1 = 1)
    (hunc : x.2.uncommitted = false) (h : ∀ d < 8, (x.2.f 18 1).testBit d = true → (s.diePower d).apNext = none) : s.settledPoints.cmd? x.1 = none := by
  refine foldl_completes (f := State.settlePoint) (P := fun a => a.power = s.power) (fun a x ha => (State.settlePoint_power a x).trans ha)
    (fun a x j ha => State.settlePoint_cmd?_eq_none ha x) (fun a ha => State.settlePoint_settled fun d hd hbit => ?_)
    (List.mem_filter.2 ⟨hx, by simp [hop, hact, hunc]⟩) rfl
  rw [State.diePower_of_power ha, h d hd hbit]

/-! ### Power timers (R513, R515, R516) -/

theorem execApSettleDone_settles {s : State} {die ap : Nat} (hd : die < s.power.dies.length) (hap : (s.diePower die).apNext = some ap) :
    ∃ t, execApSettleDone die s = .next t ∧ (t.diePower die).ap = ap ∧ (t.diePower die).apNext = none
      ∧ ∀ x ∈ s.cmds, x.2.opcode = 0x4B → x.2.f 16 1 = 1 → x.2.uncommitted = false →
        (∀ d < 8, (x.2.f 18 1).testBit d = true → d = die ∨ (s.diePower d).apNext = none) → t.cmd? x.1 = none := by
  have hdie := State.diePower_setDiePower_same s die { s.diePower die with ap := ap, apNext := none } hd
  have hkept := State.diePower_of_power (State.settledPoints_power (s.setDiePower die { s.diePower die with ap := ap, apNext := none })) die
  refine ⟨_, by simp only [execApSettleDone, hap]; rfl, by rw [hkept, hdie], by rw [hkept, hdie], fun x hx hop hact hunc hdone => ?_⟩
  refine State.settledPoints_completes hx hop hact hunc fun d hd8 hbit => ?_
  by_cases hne : d = die
  · rw [hne, hdie]
  · rw [State.diePower_setDiePower_ne _ _ hne]
    exact (hdone d hd8 hbit).resolve_left hne

/-- The state in which a cycle's timer has switched its groups on. -/
def State.cycled (s : State) (g : Nat) : State := State.groupsOn { s with power := { s.power with cycle := none } } (BitVec.ofNat 96 g)

theorem execGroupsCycleOnTimer_ends {s : State} {t : Word} {g : Nat} {due : Word} (hcycle : s.power.cycle = some (g, due)) (hdue : due ≤ (s.reach 0 t).counter 0) :
    ∃ u, execGroupsCycleOnTimer t s = .next u ∧ u.power.cycle = none ∧ u.power.gated = s.power.gated &&& ~~~(BitVec.ofNat 96 g)
      ∧ ∀ x ∈ s.cmds, x.2.opcode = 0x4B → x.2.f 16 1 = 4 → x.2.uncommitted = false → u.cmd? x.1 = none := by
  have hcycle' : (s.reach 0 t).power.cycle = some (g, due) := hcycle
  have hpower : ∀ l : List (Nat × Cmd), (l.foldl (fun (a : State) x => a.finish x.1 OK 0) ((s.reach 0 t).cycled g)).power = ((s.reach 0 t).cycled g).power := fun l =>
    foldl_power (fun a x => State.finish_power ..) l _
  refine ⟨_, by simp only [execGroupsCycleOnTimer, hcycle']; exact if_pos hdue, congrArg Power.cycle (hpower _), congrArg Power.gated (hpower _),
    fun x hx hop hact hunc => ?_⟩
  exact foldl_completes (P := fun _ => True) (fun _ _ _ => trivial) (fun a x j ha => State.finish_cmd?_eq_none ha _ _ _) (fun _ _ => State.cmd?_finish ..)
    (List.mem_filter.2 ⟨hx, by simp [hop, hact, hunc]⟩) trivial

theorem execQuireGroupReady_serves (s : State) (group : Nat) (t : Word) :
    ∃ u, execQuireGroupReady group t s = .next u
      ∧ ∀ x, x ∈ u.power.turningOn ↔ x ∈ s.power.turningOn ∧ ¬(x.1 = group ∧ x.2 ≤ (s.reach (group / 12) t).counter (group / 12)) := by
  refine ⟨_, rfl, fun x => List.mem_filter.trans (and_congr_right fun _ => ?_)⟩
  simp only [Bool.not_eq_true', Bool.and_eq_false_iff, beq_eq_false_iff_ne, decide_eq_false_iff_not, not_and_or, ne_eq]

/-! ### The stacks' temperature and the protective trip (R341, R521) -/

/-- What a temperature makes of a stack. -/
def Stack.heated (x : Stack) (temp : Int) : Stack :=
  { x with temp := temp, doubleRefresh := decide (85 < temp), clamped := if 95 < temp then true else if temp < 90 then false else x.clamped }

/-- A stack that takes a temperature, with the report of a clamp that engages. -/
def State.heatStack (s : State) (stack : Nat) (temp : Int) : State :=
  let s2 := s.setStack stack ((s.stackAt stack).heated temp)
  if ((s.stackAt stack).heated temp).clamped && !(s.stackAt stack).clamped then s2.reportCs (stack / 3) 0x09 else s2

theorem execStackTempReport_eq {s : State} (hb : s.boot = .ready) (stack : Nat) (temp : Int) (t : Word) :
    execStackTempReport stack temp t s
      = .next (if 100 < temp then ((s.reach (stack / 3) t).heatStack stack temp).trip else (s.reach (stack / 3) t).heatStack stack temp) := by
  have hb' : ¬(s.reach (stack / 3) t).boot ≠ .ready := not_not.2 hb
  unfold execStackTempReport
  dsimp only
  rw [if_neg hb']
  split
  · rfl
  · rfl

theorem State.heatStack_keeps (s : State) (stack : Nat) (temp : Int) :
    (s.heatStack stack temp).boot = s.boot ∧ (s.heatStack stack temp).hbm = (s.setStack stack ((s.stackAt stack).heated temp)).hbm := by
  unfold State.heatStack
  dsimp only
  split
  · have h := State.reportCs_but (covers_among _) (s.setStack stack ((s.stackAt stack).heated temp)) (stack / 3) 0x09
    exact ⟨congrArg (·.state.boot) h, congrArg (·.state.hbm) h⟩
  · exact ⟨rfl, rfl⟩

theorem State.stackAt_of_hbm {s t : State} (h : t.hbm = s.hbm) (i : Nat) : t.stackAt i = s.stackAt i := congrArg (fun l => l.getD i {}) h

theorem State.heatStack_stackAt {s : State} {stack : Nat} (hl : stack < s.hbm.length) (temp : Int) :
    (s.heatStack stack temp).stackAt stack = (s.stackAt stack).heated temp :=
  (State.stackAt_of_hbm (s.heatStack_keeps stack temp).2 stack).trans (State.stackAt_setStack_same _ _ _ hl)

theorem execProtectiveTrip_trips {s : State} (hreq : s.pins.pwrReq = true) {isStack : Bool} {temp : Int} (htemp : if isStack then 100 < temp else 115 ≤ temp)
    (unit : Nat) : execProtectiveTrip isStack unit temp s = .next s.trip := by
  have hhot : (if isStack then decide (100 < temp) else decide (115 ≤ temp)) = true := by
    cases isStack with
    | false => exact decide_eq_true htemp
    | true => exact decide_eq_true htemp
  simp only [execProtectiveTrip, hreq, hhot, Bool.and_self, if_true]

/-! ### Regulators, telemetry and the clamp (R508, R519, R522) -/

/-- A report of the control sequencer changes the service pin alone of the lands, and no power record. -/
theorem State.reportCs_keeps (s : State) (d cls : Nat) :
    (s.reportCs d cls).power = s.power ∧ (s.reportCs d cls).pins.pmbAlert = s.pins.pmbAlert := by
  have h := State.reportCs_but (covers_among _) s d cls
  exact ⟨State.power_kept h rfl, congrArg (·.lands.pmbAlert) h⟩

theorem execPmbAlert_faults (s : State) (kind die rail : Nat) :
    ∃ u, execPmbAlert kind die rail s = .next u ∧ u.power.regFault = true ∧ (kind = 0 → u.pins.pmbAlert = true) := by
  unfold execPmbAlert
  extract_lets _ s1 x _ s2
  obtain ⟨hpower, hpins⟩ := s2.reportCs_keeps (if kind = 0 then 0 else die) 0x0A
  refine ⟨_, rfl, ?_, fun h0 => ?_⟩
  · rw [hpower]
    simp only [s2]
    repeat' split
    · rfl
    · rfl
    · rfl
  · rw [hpins]
    simp only [s2, if_pos h0]

/-- The reading as the clamp takes it: sensing corrected by its calibration, and no alert while PWR_GOOD is low. -/
def DiePower.corrected (x : DiePower) (good : Bool) (r : ClampReading) : ClampReading :=
  { r with sampleDa := ((r.sampleDa : Int) + x.cal).toNat, mean1msDa := ((r.mean1msDa : Int) + x.cal).toNat, alert := r.alert && good }

theorem execClampUpdate_moves {s : State} (hb : s.boot = .ready) {die : Nat} (hd : die < s.power.dies.length) (r : ClampReading) (t : Word) :
    ∃ u, execClampUpdate die r t s = .next u ∧ u.diePower die = (s.diePower die).clamp ((s.diePower die).corrected s.pins.pwrGood r)
      ∧ ((u.diePower die).level ≠ 0 → u.power.clampSeen = s.power.clampSeen ||| BitVec.ofNat 8 (2 ^ die)) := by
  have hb' : ¬(s.reach die t).boot ≠ .ready := not_not.2 hb
  unfold execClampUpdate
  extract_lets s1 x r' y s2 p _ s3
  have hdie : s3.diePower die = y := State.diePower_setDiePower_same s1 die y hd
  have hseen : y.level ≠ 0 → s3.power.clampSeen = s.power.clampSeen ||| BitVec.ofNat 8 (2 ^ die) := fun hy => if_neg hy
  rw [if_neg hb']
  split
  · have hpower := (s3.reportCs_keeps die 0x09).1
    refine ⟨_, rfl, (State.diePower_of_power hpower die).trans hdie, fun hlevel => ?_⟩
    rw [State.diePower_of_power hpower, hdie] at hlevel
    rw [hpower]
    exact hseen hlevel
  · exact ⟨_, rfl, hdie, fun hlevel => hseen (hdie ▸ hlevel)⟩

/-- Settles O33, event by event. -/
theorem powerAndSensorEvents : Obligations.PowerAndSensorEvents := by
  unfold Obligations.PowerAndSensorEvents
  refine ⟨⟨fun s die ap hd hs hap => ?_, fun s t g due hcycle hdue => execGroupsCycleOnTimer_ends hcycle hdue,
      fun s group t => execQuireGroupReady_serves s group t⟩,
    fun s stack temp t hb hs hstack htemp => ?_, fun s stack temp t hb htemp => ?_, fun s isStack unit temp hreq htemp => execProtectiveTrip_trips hreq htemp unit,
    fun s die iout sensed t hd hs => ?_, fun s reading t hb hf hpk => ?_, fun s mw t => ⟨_, rfl, rfl⟩, fun s kind die rail => execPmbAlert_faults s kind die rail,
    fun s die r t hb hd hs => ?_⟩
  · obtain ⟨-, -, -, -, -, -, hpower, -⟩ := hs
    exact execApSettleDone_settles (by omega) hap
  · obtain ⟨-, -, -, hhbm, -⟩ := hs
    have hat := State.heatStack_stackAt (s := s.reach (stack / 3) t) (stack := stack) (by rw [State.reach_hbm]; omega) temp
    have hboot := ((s.reach (stack / 3) t).heatStack_keeps stack temp).1
    refine ⟨_, execStackTempReport_eq hb stack temp t, ?_⟩
    rw [if_neg (not_lt.2 htemp), hat, hboot]
    refine ⟨rfl, rfl, fun h => if_pos h, fun h => ?_, fun h1 h2 => ?_, rfl, hb⟩
    · exact (if_neg (by omega)).trans (if_pos h)
    · exact (if_neg (by omega)).trans (if_neg (by omega))
  · refine ⟨_, execStackTempReport_eq hb stack temp t, ?_⟩
    rw [if_pos htemp]
    exact ⟨rfl, rfl, rfl⟩
  · obtain ⟨-, -, -, -, -, -, hpower, -⟩ := hs
    exact ⟨_, rfl, State.diePower_setDiePower_same _ _ _ (by rw [State.reach_power]; omega)⟩
  · have hserve : (s.reach 0 t).boot = .ready ∧ (!(s.reach 0 t).fatal) = true ∧ (s.reach 0 t).power.pk ≤ 2 := ⟨hb, by rw [State.reach_fatal, hf]; rfl, hpk⟩
    exact ⟨_, if_pos hserve, rfl, rfl, rfl⟩
  · obtain ⟨-, -, -, -, -, -, hpower, -⟩ := hs
    exact execClampUpdate_moves hb (by omega) r t

end Sys2Proof.Machine
end

section
/-! PROOF. The memory that an address names: objects, frames or stacks, and what a write there changes (R273, R324, R338, R353). -/

namespace Sys2Proof.Machine

theorem Mem.readRange_written (m : Mem) (a : Nat) (bs : Bytes) : Mem.readRange (Mem.writeRange m a bs) a bs.length = bs := by
  have h := Mem.readRange_writeRange m a bs 0 bs.length (by omega)
  rw [Nat.add_zero, List.drop_zero, List.take_length] at h
  exact h

theorem Mem.length_readRange (m : Mem) (a n : Nat) : (Mem.readRange m a n).length = n := by
  simp [Mem.readRange]

/-! ### What memory consists of -/

/-- What the bytes of device memory lie in. -/
def State.memory (s : State) := (s.objects, s.frames, s.hbm)

section
variable {s t : State} (h : t.memory = s.memory)
include h

theorem State.objects_of_memory : t.objects = s.objects := congrArg Prod.fst h
theorem State.frames_of_memory : t.frames = s.frames := congrArg (fun m => m.2.1) h
theorem State.hbm_of_memory : t.hbm = s.hbm := congrArg (fun m => m.2.2) h
theorem State.backing_of_memory (x : Nat) : t.backing x = s.backing x := by
  unfold State.backing
  rw [State.objects_of_memory h]
theorem State.framesOf_of_memory (d : Nat) : t.framesOf d = s.framesOf d := congrArg (fun l => l.getD d []) (State.frames_of_memory h)
theorem State.frameOf?_of_memory (x : Nat) : t.frameOf? x = s.frameOf? x := by
  unfold State.frameOf?
  rw [State.framesOf_of_memory h]
theorem State.stackAt_of_memory (i : Nat) : t.stackAt i = s.stackAt i := State.stackAt_of_hbm (State.hbm_of_memory h) i
theorem State.lineRead_of_memory (x n : Nat) : t.lineRead x n = s.lineRead x n := by
  unfold State.lineRead
  rw [State.backing_of_memory h, State.frameOf?_of_memory h, State.objects_of_memory h, State.stackAt_of_memory h]
end

/-- Which bytes differ turns on memory alone. -/
theorem onlyBytesAt_congr {s s' t t' : State} (hs : s'.memory = s.memory) (ht : t'.memory = t.memory) {x n : Nat} (h : OnlyBytesAt s t x n) :
    OnlyBytesAt s' t' x n := by
  unfold OnlyBytesAt at *
  simpa only [State.backing_of_memory hs, State.frameOf?_of_memory hs, State.objects_of_memory hs, State.frames_of_memory hs, State.hbm_of_memory hs,
    State.framesOf_of_memory hs, State.stackAt_of_memory hs, State.objects_of_memory ht, State.frames_of_memory ht, State.hbm_of_memory ht,
    State.framesOf_of_memory ht, State.stackAt_of_memory ht] using h

theorem State.frameOf?_eq_some {s : State} {x : Nat} {p : Nat × Nat × Nat} {f : Frame} (h : s.frameOf? x = some (p, f)) :
    p = frameAt x ∧ NMap.get? (s.framesOf (frameAt x).1) (frameAt x).2.1 = some f := by
  obtain ⟨g, hg, e⟩ := Option.map_eq_some_iff.1 h
  cases e
  exact ⟨rfl, hg⟩

/-- An address that an object backs names an object that is registered. -/
theorem State.backing_registered {s : State} {x k v off : Nat} (h : s.backing x = some (k, v, off)) : ∃ o, NMap.get? s.objects k = some o := by
  obtain ⟨e, he, hmap⟩ := List.exists_of_findSome?_eq_some h
  obtain ⟨y, -, hy⟩ := Option.map_eq_some_iff.1 hmap
  obtain ⟨rfl, -⟩ := Prod.mk.inj hy
  refine Option.ne_none_iff_exists'.1 fun hnone => ?_
  exact (NMap.get?_eq_none_iff _ _).1 hnone e he rfl

theorem onlyBytesAt_refl (s : State) (x n : Nat) : OnlyBytesAt s s x n := by
  refine ⟨fun _ _ => ⟨rfl, rfl, fun _ _ => rfl, fun _ _ => rfl⟩, fun d k off f _ hf => ⟨rfl, rfl, fun _ _ _ => rfl, f, ?_, rfl, fun _ _ => rfl, fun _ _ => rfl⟩,
    fun k v off _ => ⟨rfl, rfl, fun _ _ => rfl, fun o ho => ⟨o, ho, rfl, fun _ => rfl, fun _ => rfl, fun _ _ => rfl⟩⟩⟩
  obtain ⟨hp, hg⟩ := State.frameOf?_eq_some hf
  rw [← hp] at hg
  exact hg

/-! ### Writing an object -/

section
variable (o : Obj) (v off : Nat) (b : Bytes)

theorem Obj.putBytes_mem : (o.putBytes v off b).mem v = Mem.writeRange (o.mem v) off b := by
  unfold Obj.putBytes Obj.mem
  by_cases hv : v = 0
  · simp only [hv, if_true]
  · simp only [hv, if_false]

theorem Obj.putBytes_other : (v = 0 → (o.putBytes v off b).mem1 = o.mem1) ∧ (v ≠ 0 → (o.putBytes v off b).mem0 = o.mem0) := by
  unfold Obj.putBytes
  exact ⟨fun hv => by rw [if_pos hv], fun hv => by rw [if_neg hv]⟩

theorem Obj.putBytes_eq :
    o.putBytes v off b = { o with mem0 := (o.putBytes v off b).mem0, mem1 := (o.putBytes v off b).mem1, poison := (o.putBytes v off b).poison } := by
  unfold Obj.putBytes
  dsimp only
  split
  · rfl
  · rfl

/-- What is written into an object changes none of its pages. -/
theorem Obj.putBytes_byteOf (x : Nat) : (o.putBytes v off b).byteOf x = o.byteOf x := by
  rw [Obj.putBytes_eq]
  rfl
end

theorem State.backing_modify (s : State) (k : Nat) {f : Obj → Obj} (hf : ∀ o x, (f o).byteOf x = o.byteOf x) (x : Nat) :
    State.backing { s with objects := NMap.modify s.objects k f } x = s.backing x := by
  unfold State.backing NMap.modify
  rw [List.findSome?_map]
  refine congrArg (fun g => s.objects.findSome? g) (funext fun e => ?_)
  simp only [Function.comp_apply]
  split
  · rw [hf]
  · rfl

/-! ### Writing a frame -/

section
variable (f : Frame) (off : Nat) (b : Bytes)

theorem Frame.write_eq : f.write off b = { f with body := (f.write off b).body, margin := (f.write off b).margin, poison := (f.write off b).poison } := by
  unfold Frame.write
  dsimp only
  split
  · rfl
  · rfl

theorem Frame.write_body : (f.write off b).body = if off < 131072 then Mem.writeRange f.body off b else f.body := by
  unfold Frame.write
  dsimp only
  split
  · rfl
  · rfl

theorem Frame.write_margin : (f.write off b).margin = if off < 131072 then f.margin else Mem.writeRange f.margin (off - 131072) b := by
  unfold Frame.write
  dsimp only
  split
  · rfl
  · rfl

theorem Frame.write_body_out {a : Nat} (ha : a < off ∨ off + b.length ≤ a) : Mem.read (f.write off b).body a = Mem.read f.body a := by
  rw [Frame.write_body]
  split
  · exact Mem.read_writeRange_out _ _ _ _ ha
  · rfl

theorem Frame.write_margin_out {a : Nat} (ha : a + 131072 < off ∨ off + b.length ≤ a + 131072) : Mem.read (f.write off b).margin a = Mem.read f.margin a := by
  rw [Frame.write_margin]
  split
  · rfl
  · exact Mem.read_writeRange_out _ _ _ _ (by omega)

/-- The bytes of a frame, its body and then its margin. -/
def Frame.bytes (f : Frame) (off n : Nat) : Bytes := if off < 131072 then Mem.readRange f.body off n else Mem.readRange f.margin (off - 131072) n

theorem Frame.bytes_write : (f.write off b).bytes off b.length = b := by
  unfold Frame.bytes
  rw [Frame.write_body, Frame.write_margin]
  split
  · exact Mem.readRange_written ..
  · exact Mem.readRange_written ..
end

/-! ### Reading and writing at a native address -/

section
variable {s : State} {x : Nat}

theorem State.lineRead_object {k v off : Nat} {o : Obj} (h : s.backing x = some (k, v, off)) (ho : NMap.get? s.objects k = some o) (n : Nat) :
    s.lineRead x n = Mem.readRange (o.mem v) off n := by
  simp only [State.lineRead, h, ho]

theorem State.lineRead_frame {d k off : Nat} {f : Frame} (h : s.backing x = none) (hf : s.frameOf? x = some ((d, k, off), f)) (n : Nat) :
    s.lineRead x n = f.bytes off n := by
  simp only [State.lineRead, h, hf, Frame.bytes]

theorem State.lineRead_stack (h : s.backing x = none) (hf : s.frameOf? x = none) (n : Nat) :
    s.lineRead x n = Mem.readRange (s.stackAt (x / 2 ^ 36)).lines (x % 2 ^ 36) n := by
  simp only [State.lineRead, h, hf]

theorem State.length_lineRead_le (s : State) (x n : Nat) : (s.lineRead x n).length ≤ n := by
  cases h : s.backing x with
  | some p =>
    obtain ⟨k, v, off⟩ := p
    obtain ⟨o, ho⟩ := State.backing_registered h
    rw [State.lineRead_object h ho, Mem.length_readRange]
  | none =>
    cases hf : s.frameOf? x with
    | some q =>
      obtain ⟨⟨d, k, off⟩, f⟩ := q
      rw [State.lineRead_frame h hf, Frame.bytes]
      split
      · rw [Mem.length_readRange]
      · rw [Mem.length_readRange]
    | none => rw [State.lineRead_stack h hf, Mem.length_readRange]

theorem State.lineWrite_object {k v off : Nat} (h : s.backing x = some (k, v, off)) (b : Bytes) :
    (s.lineWrite x b).memory = State.memory { s with objects := NMap.modify s.objects k (fun o => o.putBytes v off b) } := by
  simp only [State.lineWrite, h]
  rfl

theorem State.lineWrite_frame {d k off : Nat} {f : Frame} (h : s.backing x = none) (hf : s.frameOf? x = some ((d, k, off), f)) (b : Bytes) :
    (s.lineWrite x b).memory = (s.setFrames d (NMap.set (s.framesOf d) k (f.write off b))).memory := by
  simp only [State.lineWrite, h, hf]
  rfl

theorem State.lineWrite_stack (h : s.backing x = none) (hf : s.frameOf? x = none) (b : Bytes) :
    s.lineWrite x b = s.setStack (x / 2 ^ 36) ((s.stackAt (x / 2 ^ 36)).write (x % 2 ^ 36) b) := by
  simp only [State.lineWrite, h, hf]

/-- A write of an object's bytes: no other byte, and what was written is read back. -/
theorem State.lineWrite_object_bytes {k v off : Nat} (h : s.backing x = some (k, v, off)) (b : Bytes) :
    OnlyBytesAt s (s.lineWrite x b) x b.length ∧ (s.lineWrite x b).lineRead x b.length = b := by
  have hmem := State.lineWrite_object h b
  obtain ⟨o, ho⟩ := State.backing_registered h
  have hobj : ∀ j, NMap.get? (NMap.modify s.objects k fun o => o.putBytes v off b) j
      = if j = k then (NMap.get? s.objects j).map (·.putBytes v off b) else NMap.get? s.objects j :=
    fun j => NMap.get?_modify _ _ _ _
  refine ⟨onlyBytesAt_congr rfl hmem ⟨fun hb _ => ?_, fun d j y f hb _ => ?_, fun j w y hb => ?_⟩, ?_⟩
  · cases h.symm.trans hb
  · cases h.symm.trans hb
  · cases h.symm.trans hb
    refine ⟨rfl, rfl, fun j hj => (hobj j).trans (if_neg hj), fun p hp => ⟨p.putBytes v off b, (hobj k).trans ?_, p.putBytes_eq v off b, (p.putBytes_other v off b).1,
      (p.putBytes_other v off b).2, fun a ha => ?_⟩⟩
    · rw [if_pos rfl, hp, Option.map_some]
    · rw [p.putBytes_mem]
      exact Mem.read_writeRange_out _ _ _ _ ha
  · rw [State.lineRead_of_memory hmem, State.lineRead_object (o := o.putBytes v off b) ((State.backing_modify s k (fun o => o.putBytes_byteOf v off b) x).trans h)
      ((hobj k).trans (by rw [if_pos rfl, ho, Option.map_some])), o.putBytes_mem]
    exact Mem.readRange_written ..

/-- A write of a frame's bytes. -/
theorem State.lineWrite_frame_bytes {d k off : Nat} {f : Frame} (h : s.backing x = none) (hf : s.frameOf? x = some ((d, k, off), f)) (hd : d < s.frames.length)
    (b : Bytes) : OnlyBytesAt s (s.lineWrite x b) x b.length ∧ (s.lineWrite x b).lineRead x b.length = b := by
  have hmem := State.lineWrite_frame h hf b
  have hframe : NMap.get? ((s.setFrames d (NMap.set (s.framesOf d) k (f.write off b))).framesOf d) k = some (f.write off b) := by
    rw [State.framesOf_setFrames_same _ _ _ hd]
    exact NMap.get?_set_same ..
  have hplace : (d, k, off) = frameAt x := (State.frameOf?_eq_some hf).1
  refine ⟨onlyBytesAt_congr rfl hmem ⟨fun _ hn => ?_, fun d' k' off' f' _ hf' => ?_, fun j w y hb => ?_⟩, ?_⟩
  · cases hf.symm.trans hn
  · cases hf.symm.trans hf'
    refine ⟨rfl, rfl, fun e j hne => ?_, f.write off b, hframe, f.write_eq off b, fun a ha => f.write_body_out off b ha, fun a ha => f.write_margin_out off b ha⟩
    by_cases he : e = d
    · subst he
      rw [State.framesOf_setFrames_same _ _ _ hd]
      exact NMap.get?_set_ne _ _ (hne.resolve_left fun hn => hn rfl)
    · rw [State.framesOf_setFrames_ne _ _ he]
  · cases h.symm.trans hb
  · have hback : (s.setFrames d (NMap.set (s.framesOf d) k (f.write off b))).backing x = none := h
    have hat : (s.setFrames d (NMap.set (s.framesOf d) k (f.write off b))).frameOf? x = some ((d, k, off), f.write off b) := by
      unfold State.frameOf?
      rw [← hplace, hframe, Option.map_some]
    rw [State.lineRead_of_memory hmem, State.lineRead_frame hback hat]
    exact f.bytes_write off b

/-- A write of a stack's own bytes. -/
theorem State.lineWrite_stack_bytes (h : s.backing x = none) (hf : s.frameOf? x = none) (hx : x / 2 ^ 36 < s.hbm.length) (b : Bytes) :
    OnlyBytesAt s (s.lineWrite x b) x b.length ∧ (s.lineWrite x b).lineRead x b.length = b := by
  have hat := State.stackAt_setStack_same s (x / 2 ^ 36) ((s.stackAt (x / 2 ^ 36)).write (x % 2 ^ 36) b) hx
  have hback : (s.setStack (x / 2 ^ 36) ((s.stackAt (x / 2 ^ 36)).write (x % 2 ^ 36) b)).backing x = none := h
  have hframe : (s.setStack (x / 2 ^ 36) ((s.stackAt (x / 2 ^ 36)).write (x % 2 ^ 36) b)).frameOf? x = none := hf
  rw [State.lineWrite_stack h hf]
  refine ⟨⟨fun _ _ => ⟨rfl, rfl, fun i hi => State.stackAt_setStack_ne _ _ hi, fun a ha => ?_⟩, fun d k off f _ hs => ?_, fun k v off hb => ?_⟩, ?_⟩
  · rw [hat]
    exact Mem.read_writeRange_out _ _ _ _ ha
  · cases hf.symm.trans hs
  · cases h.symm.trans hb
  · rw [State.lineRead_stack hback hframe, hat]
    exact Mem.readRange_written ..
end

/-- A write at a populated address changes its own bytes alone, and they are read back. -/
theorem State.lineWrite_bytes {s : State} (hs : s.shapeOk) {x : Nat} (hx : x / 2 ^ 36 < 24) (b : Bytes) :
    OnlyBytesAt s (s.lineWrite x b) x b.length ∧ (s.lineWrite x b).lineRead x b.length = b := by
  obtain ⟨-, -, -, hhbm, hframes, -⟩ := hs
  cases h : s.backing x with
  | some p =>
    obtain ⟨k, v, off⟩ := p
    exact State.lineWrite_object_bytes h b
  | none =>
    cases hf : s.frameOf? x with
    | some q =>
      obtain ⟨⟨d, k, off⟩, f⟩ := q
      have hd : d = x / 2 ^ 36 / 3 := congrArg Prod.fst (State.frameOf?_eq_some hf).1
      exact State.lineWrite_frame_bytes h hf (by omega) b
    | none => exact State.lineWrite_stack_bytes h hf (by omega) b

end Sys2Proof.Machine
end

section
/-! PROOF. Far accesses and atomics: how a request arrives, what it does at its line, and how it is answered (R330, R332, R377, R387). -/

namespace Sys2Proof.Machine

/-! ### Requests arrive in the order of their stream (R377) -/

theorem State.takeNumber_inTurn {s : State} {src dst ch : Nat} {n : BitVec 32} (h : InTurn s src dst ch n) :
    ∃ u, s.takeNumber src dst ch n = some u ∧ NumberTaken s u src dst ch ∧ (src = dst → u.streams = s.streams) := by
  by_cases he : src = dst
  · exact ⟨s, if_pos he, ⟨fun hne => absurd he hne, fun _ _ => rfl⟩, fun _ => rfl⟩
  · unfold State.takeNumber
    dsimp only
    rw [if_neg he, if_pos (h he)]
    refine ⟨_, rfl, ⟨fun _ => ?_, fun k hk => NMap.get?_set_ne _ _ (hk.resolve_left he)⟩, fun hh => absurd hh he⟩
    dsimp only
    rw [NMap.getD_set_same, h he]

theorem State.arrives_inTurn {s : State} {die x : Nat} {stamp : Stamp} (hf : (s.dieAt (homeOf x)).fenced = false) (h : InTurn s die (homeOf x) 2 stamp.seqNo) :
    ∃ u, s.arrives die x stamp = some u ∧ NumberTaken s u die (homeOf x) 2 ∧ (die = homeOf x → u.streams = s.streams) := by
  unfold State.arrives
  rw [hf, if_neg Bool.false_ne_true]
  exact State.takeNumber_inTurn h

/-- A request that has arrived and touched its line has left the shape of the package. -/
theorem State.touched_shapeOk {s u : State} (hs : s.shapeOk) {die x : Nat} {stamp : Stamp} (hu : s.arrives die x stamp = some u) (part : Nat) (write : Bool) :
    (u.touchLine part (x / 128) write false).shapeOk := by
  rw [State.shapeOk_iff] at hs ⊢
  rw [State.touchLine_shape, State.arrives_shape hu, hs]

/-- At a fenced die, or out of its turn, a request does not arrive. -/
theorem State.arrives_none {s : State} {die x : Nat} {stamp : Stamp}
    (h : (s.dieAt (homeOf x)).fenced = true ∨ (die ≠ homeOf x ∧ stamp.seqNo ≠ (NMap.getD s.streams (streamKey die (homeOf x) 2) {}).expect)) :
    s.arrives die x stamp = none := by
  unfold State.arrives State.takeNumber
  rcases h with h | ⟨hne, hseq⟩
  · exact if_pos h
  · simp only [hne, hseq, if_false, ite_self]

/-! ### Answers (R330, R332) -/

/-- What a request at its line changes beside the line: the state that has arrived, with the line in the shared cache. -/
structure AtLine (s u : State) (die x : Nat) : Prop where
  memory : u.memory = s.memory
  taken : NumberTaken s u die (homeOf x) 2
  home : die = homeOf x → u.streams = s.streams
  unitOut : u.unitOut = s.unitOut

/-- The fields that an access changes. -/
def accessFields : List Field := sendFields ++ meterFields ++ [.contents, .frames, .hbm, .poison, .stores, .unitOut]

theorem State.touchLine_keeps (s : State) (part line : Nat) (write pin : Bool) :
    (s.touchLine part line write pin).memory = s.memory ∧ (s.touchLine part line write pin).streams = s.streams
      ∧ (s.touchLine part line write pin).unitOut = s.unitOut := by
  have h := State.touchLine_but (covers_among _) s part line write pin
  exact ⟨congrArg (fun v : StateView => v.state.memory) h, congrArg (fun v : StateView => v.state.streams) h, congrArg (fun v : StateView => v.state.unitOut) h⟩

theorem State.arrives_atLine {s u : State} {die x : Nat} {stamp : Stamp} (hu : s.arrives die x stamp = some u) (htaken : NumberTaken s u die (homeOf x) 2)
    (hhome : die = homeOf x → u.streams = s.streams) (part : Nat) (write : Bool) :
    AtLine s (u.touchLine part (x / 128) write false) die x
      ∧ (u.touchLine part (x / 128) write false).but (Field.among accessFields) = s.but (Field.among accessFields) := by
  have hX := covers_among accessFields
  obtain ⟨hmem, hstreams, hout⟩ := u.touchLine_keeps part (x / 128) write false
  have harr := State.arrives_but (covers_among _) s die x stamp hu
  refine ⟨⟨hmem.trans (congrArg (fun v : StateView => v.state.memory) harr), ?_, fun h => hstreams.trans (hhome h),
      hout.trans (congrArg (fun v : StateView => v.state.unitOut) harr)⟩,
    (State.touchLine_but (hX.mono (by decide)) u _ _ _ _).trans (State.arrives_but (hX.mono (by decide)) s die x stamp hu)⟩
  unfold NumberTaken at *
  rw [hstreams]
  exact htaken

theorem State.lineWrite_keeps (s : State) (x : Nat) (b : Bytes) : (s.lineWrite x b).streams = s.streams ∧ (s.lineWrite x b).unitOut = s.unitOut := by
  have h := State.lineWrite_but (covers_among _) s x b
  exact ⟨congrArg (·.state.streams) h, congrArg (·.state.unitOut) h⟩

theorem State.sendMsg_sent (s : State) (m : SpineMsg) : SentMsg s (s.sendMsg m) m := by
  show NMap.get? (State.launch _ _).streams _ = _
  rw [State.launch_streams]
  exact NMap.get?_set_same ..

/-- Whether a message is sent turns on the numbers of its stream alone. -/
theorem sentMsg_congr {s u t : State} {m : SpineMsg}
    (h : NMap.get? u.streams (streamKey m.src m.dst m.channel) = NMap.get? s.streams (streamKey m.src m.dst m.channel)) (hs : SentMsg u t m) : SentMsg s t m := by
  unfold SentMsg NMap.getD at *
  rw [hs, h]

theorem State.reply_home {s : State} {x die : Nat} (h : homeOf x = die) (kind unit : Nat) (b : Bytes) :
    s.reply x die kind unit b = { s with unitOut := s.unitOut ++ [(die, kind, unit, b)] } := if_pos h

theorem State.reply_away {s : State} {x die : Nat} (h : homeOf x ≠ die) (kind unit : Nat) (b : Bytes) :
    SentOnSpine s (s.reply x die kind unit b) (homeOf x) die 1 b ∧ (s.reply x die kind unit b).memory = s.memory
      ∧ (s.reply x die kind unit b).unitOut = s.unitOut := by
  have he : s.reply x die kind unit b = (s.request (spineQueue (homeOf x) die 1) (s.lineOwner x) b.length).sendSpine (homeOf x) die 1 b := if_neg h
  have hreq := State.request_but (covers_among _) s (spineQueue (homeOf x) die 1) (s.lineOwner x) b.length
  have hsend := State.sendSpineFor_but (covers_among _) s (s.lineOwner x) (homeOf x) die 1 b
  rw [he]
  refine ⟨sentMsg_congr ?_ (State.sendMsg_sent _ _), congrArg (fun v : StateView => v.state.memory) hsend, congrArg (fun v : StateView => v.state.unitOut) hsend⟩
  rw [show (s.request (spineQueue (homeOf x) die 1) (s.lineOwner x) b.length).streams = s.streams from congrArg (fun v : StateView => v.state.streams) hreq]

/-- The stream of answers is not the stream of requests. -/
theorem streamKey_answer_ne (a b c d : Nat) : streamKey a b 1 ≠ streamKey c d 2 := by
  unfold streamKey
  omega

section
variable {s u v : State} {die x : Nat} (hu : AtLine s u die x) (hstreams : v.streams = u.streams) (hout : v.unitOut = u.unitOut)
include hu hstreams

/-- An answer to another die takes the next number of its own stream, whatever number the request has taken. -/
theorem AtLine.reply_sent (h : homeOf x ≠ die) (kind unit : Nat) (b : Bytes) : SentOnSpine s (v.reply x die kind unit b) (homeOf x) die 1 b := by
  refine sentMsg_congr (u := v) ?_ (State.reply_away h kind unit b).1
  rw [hstreams]
  exact hu.taken.2 _ (.inr (streamKey_answer_ne _ _ _ _))

theorem AtLine.numberTaken : NumberTaken s v die (homeOf x) 2 := by
  have h := hu.taken
  unfold NumberTaken at *
  rw [hstreams]
  exact h
end

/-- An access that keeps to its fields changes lines, and beside them what it is metered, cached and answered by. -/
theorem onlyLines_of_access {q : Instr} {s t : State} (e : exec q s = .next t) (hm : Instr.metersOnly q = true) (hd : Field.among (Instr.fields q) .dies = false)
    (hb : t.but (Field.among accessFields) = s.but (Field.among accessFields)) : OnlyLines s t :=
  ⟨State.eq_take hb, sameDies_of_metersOnly e hm hd, sameParts_of_metersOnly e hm⟩

/-! ### Far accesses (R330) -/

section
variable {s : State} {die kind unit addr x : Nat} {gen : Stamp} (hdrop : s.drops die kind unit gen.gen = false) (hx : s.native die addr = some x)
include hdrop hx

theorem execFarAccessRequest_held (h : s.arrives die x gen = none) (w : Bool) (b : Bytes) : execFarAccessRequest die kind unit gen addr w b s = .next s := by
  simp only [execFarAccessRequest, hdrop, hx, h, Bool.false_eq_true, if_false]

section
variable {u : State} (hu : s.arrives die x gen = some u)
include hu

theorem execFarAccessRequest_writes (b : Bytes) :
    execFarAccessRequest die kind unit gen addr true b s = .next ((u.touchLine (s.lineOwner x) (x / 128) true false).lineWrite x (b.take (128 - x % 128))) := by
  simp only [execFarAccessRequest, hdrop, hx, hu, Bool.false_eq_true, if_false, if_true]

theorem execFarAccessRequest_reads (b : Bytes) :
    execFarAccessRequest die kind unit gen addr false b s = .next ((u.touchLine (s.lineOwner x) (x / 128) false false).reply x die kind unit
      (s.lineRead (x / 128 * 128) 128 ++ [if (s.linePoison x).isSome then 1 else 0])) := by
  have htag : leBytes 1 (b2n (s.linePoison x).isSome) = [if (s.linePoison x).isSome then 1 else 0] := by
    cases (s.linePoison x).isSome
    · rfl
    · rfl
  simp only [execFarAccessRequest, hdrop, hx, hu, htag, Bool.false_eq_true, if_false]
end

variable (hf : (s.dieAt (homeOf x)).fenced = false) (hturn : InTurn s die (homeOf x) 2 gen.seqNo)
include hf hturn

/-- A write in its turn stores its bytes within the line. -/
theorem farWrite_stores (hs : s.shapeOk) (hpop : x / 2 ^ 36 < 24) (b : Bytes) :
    ∃ t, exec (.farAccessRequest die kind unit gen addr true b) s = .next t ∧ OnlyLines s t ∧ OnlyBytesAt s t x (b.take (128 - x % 128)).length
      ∧ t.lineRead x (b.take (128 - x % 128)).length = b.take (128 - x % 128) ∧ NumberTaken s t die (homeOf x) 2 ∧ t.unitOut = s.unitOut := by
  obtain ⟨u, hu, htaken, hhome⟩ := State.arrives_inTurn hf hturn
  obtain ⟨hat, hbut⟩ := State.arrives_atLine hu htaken hhome (s.lineOwner x) true
  have hshape := State.touched_shapeOk hs hu (s.lineOwner x) true
  obtain ⟨hbytes, hread⟩ := State.lineWrite_bytes hshape hpop (b.take (128 - x % 128))
  obtain ⟨hstreams, hout⟩ := State.lineWrite_keeps (u.touchLine (s.lineOwner x) (x / 128) true false) x (b.take (128 - x % 128))
  have he : exec (.farAccessRequest die kind unit gen addr true b) s = .next _ := execFarAccessRequest_writes hdrop hx hu b
  exact ⟨_, he, onlyLines_of_access he rfl rfl ((State.lineWrite_but ((covers_among _).mono (by decide)) _ _ _).trans hbut),
    onlyBytesAt_congr hat.memory.symm rfl hbytes, hread, hat.numberTaken hstreams, hout.trans hat.unitOut⟩

/-- What a read of a line returns. -/
theorem farRead_answers (b : Bytes) :
    ∃ t, exec (.farAccessRequest die kind unit gen addr false b) s = .next t ∧ OnlyLines s t ∧ t.memory = s.memory
      ∧ (homeOf x = die → t.streams = s.streams
        ∧ t.unitOut = s.unitOut ++ [(die, kind, unit, s.lineRead (x / 128 * 128) 128 ++ [if (s.linePoison x).isSome then 1 else 0])])
      ∧ (homeOf x ≠ die → t.unitOut = s.unitOut
        ∧ SentOnSpine s t (homeOf x) die 1 (s.lineRead (x / 128 * 128) 128 ++ [if (s.linePoison x).isSome then 1 else 0])) := by
  obtain ⟨u, hu, htaken, hhome⟩ := State.arrives_inTurn hf hturn
  obtain ⟨hat, hbut⟩ := State.arrives_atLine hu htaken hhome (s.lineOwner x) false
  have he : exec (.farAccessRequest die kind unit gen addr false b) s = .next _ := execFarAccessRequest_reads hdrop hx hu b
  refine ⟨_, he, onlyLines_of_access he rfl rfl ((State.reply_but ((covers_among _).mono (by decide)) _ _ _ _ _ _).trans hbut), ?_, fun h => ?_, fun h => ?_⟩
  · by_cases h : homeOf x = die
    · rw [State.reply_home h]
      exact hat.memory
    · exact (State.reply_away h kind unit _).2.1.trans hat.memory
  · rw [State.reply_home h]
    exact ⟨hat.home h.symm, congrArg (· ++ _) hat.unitOut⟩
  · exact ⟨(State.reply_away h kind unit _).2.2.trans hat.unitOut, hat.reply_sent rfl h kind unit _⟩
end

/-! ### Atomics (R332, Table 14-4) -/

theorem sum_lanes_lt {f : Nat → Nat} (hf : ∀ i, f i < 2 ^ 128) (k : Nat) : ((List.range k).map (fun i => f i * 2 ^ (128 * i))).sum < 2 ^ (128 * k) := by
  induction k with
  | zero => simp
  | succ k ih =>
    have hlane : (f k + 1) * 2 ^ (128 * k) ≤ 2 ^ 128 * 2 ^ (128 * k) := Nat.mul_le_mul_right _ (hf k)
    rw [List.range_succ, List.map_append, List.sum_append, List.map_singleton, List.sum_singleton, Nat.mul_succ, Nat.add_comm (128 * k), pow_add]
    rw [Nat.add_mul, Nat.one_mul] at hlane
    omega

/-- The result of an atomic has its width. -/
theorem atomicNew_lt {op : AtomicOp} {w old : Nat} (hold : old < 2 ^ w) (hline : op = .lineAdd → w = 1024) (y z : Nat) : atomicNew op w old y z < 2 ^ w := by
  have hy : y % 2 ^ w < 2 ^ w := Nat.mod_lt _ (Nat.two_pow_pos w)
  cases op with
  | add => exact Nat.mod_lt _ (Nat.two_pow_pos w)
  | maxU => exact max_lt hold hy
  | minU => exact lt_of_le_of_lt (min_le_left _ _) hold
  | maxS =>
    simp only [atomicNew]
    split
    · exact hy
    · exact hold
  | minS =>
    simp only [atomicNew]
    split
    · exact hy
    · exact hold
  | and => exact Nat.and_lt_two_pow _ hy
  | or => exact Nat.or_lt_two_pow hold hy
  | xor => exact Nat.xor_lt_two_pow hold hy
  | swap => exact hy
  | cas =>
    simp only [atomicNew]
    split
    · exact hy
    · exact hold
  | lineAdd =>
    have hw : w = 128 * 8 := hline rfl
    rw [hw]
    exact sum_lanes_lt (fun i => Nat.mod_lt _ (by decide)) 8

/-- The operations and widths of Table 14-4. -/
def atomicForm (op : AtomicOp) (w : Nat) : Prop := (w = 64 ∧ op ≠ .lineAdd) ∨ (w = 128 ∧ op = .add) ∨ (w = 1024 ∧ op = .lineAdd)

theorem atomicOk_of_form {op : AtomicOp} {w x : Nat} (h : atomicForm op w) (hx : x % (w / 8) = 0) : atomicOk op w x = true := by
  rcases h with ⟨rfl, hop⟩ | ⟨rfl, rfl⟩ | ⟨rfl, rfl⟩
  · simp [atomicOk, hop, hx]
  · simp [atomicOk, hx]
  · simp [atomicOk, hx]

theorem two_pow_of_form {op : AtomicOp} {w : Nat} (h : atomicForm op w) : 2 ^ w = 256 ^ (w / 8) := by
  have hw : 8 * (w / 8) = w := by
    unfold atomicForm at h
    omega
  calc 2 ^ w = 2 ^ (8 * (w / 8)) := by rw [hw]
    _ = 256 ^ (w / 8) := pow_mul 2 8 (w / 8)

theorem lineAdd_width {op : AtomicOp} {w : Nat} (h : atomicForm op w) : op = .lineAdd → w = 1024 := by
  rintro rfl
  rcases h with ⟨-, hop⟩ | ⟨-, hop⟩ | ⟨hw, -⟩
  · exact absurd rfl hop
  · cases hop
  · exact hw

/-- The bytes an atomic replaces, in a state `u` in which the request has arrived: a poisoned line keeps its own. -/
def State.combined (s u : State) (x : Nat) (op : AtomicOp) (w y z : Nat) : State :=
  if (s.linePoison x).isSome then u else u.lineWrite x (leBytes (w / 8) (atomicNew op w (leNat (s.lineRead x (w / 8))) y z))

theorem State.combined_keeps (s u : State) (x : Nat) (op : AtomicOp) (w y z : Nat) :
    (s.combined u x op w y z).streams = u.streams ∧ (s.combined u x op w y z).unitOut = u.unitOut
      ∧ (s.combined u x op w y z).but (Field.among accessFields) = u.but (Field.among accessFields) := by
  unfold State.combined
  split
  · exact ⟨rfl, rfl, rfl⟩
  · obtain ⟨hstreams, hout⟩ := State.lineWrite_keeps u x (leBytes (w / 8) (atomicNew op w (leNat (s.lineRead x (w / 8))) y z))
    exact ⟨hstreams, hout, State.lineWrite_but ((covers_among _).mono (by decide)) _ _ _⟩

/-- An atomic replaces its bytes by the operation's result, and no other byte. -/
theorem State.combined_bytes {s u : State} (hu : u.memory = s.memory) (hs : u.shapeOk) {x : Nat} (hpop : x / 2 ^ 36 < 24) {op : AtomicOp} {w : Nat}
    (h : atomicForm op w) (y z : Nat) :
    OnlyBytesAt s (s.combined u x op w y z) x (w / 8)
      ∧ leNat ((s.combined u x op w y z).lineRead x (w / 8))
        = if (s.linePoison x).isSome then leNat (s.lineRead x (w / 8)) else atomicNew op w (leNat (s.lineRead x (w / 8))) y z := by
  have hold : leNat (s.lineRead x (w / 8)) < 2 ^ w := by
    rw [two_pow_of_form h]
    exact (leNat_lt _).trans_le (Nat.pow_le_pow_right (by decide) (s.length_lineRead_le x (w / 8)))
  have hnew := atomicNew_lt hold (lineAdd_width h) y z
  unfold State.combined
  split
  · exact ⟨onlyBytesAt_congr rfl hu (onlyBytesAt_refl s x _), by rw [State.lineRead_of_memory hu]⟩
  · obtain ⟨hbytes, hread⟩ := State.lineWrite_bytes hs hpop (leBytes (w / 8) (atomicNew op w (leNat (s.lineRead x (w / 8))) y z))
    rw [length_leBytes] at hbytes hread
    exact ⟨onlyBytesAt_congr hu.symm rfl hbytes, by rw [hread, leNat_leBytes, ← two_pow_of_form h, Nat.mod_eq_of_lt hnew]⟩

section
variable {s : State} {die kind unit addr x : Nat} {gen : Stamp} (hdrop : s.drops die kind unit gen.gen = false) (hx : s.native die addr = some x)
include hdrop hx

theorem execAtomicRequest_ignored {op : AtomicOp} {w : Nat} (h : atomicOk op w x = false) (old : Bool) (y z : Nat) :
    execAtomicRequest die kind unit gen addr ⟨op, old⟩ w y z s = .next s := by
  simp only [execAtomicRequest, hdrop, hx, h, Bool.false_eq_true, if_false]

theorem execAtomicRequest_combines {op : AtomicOp} {w : Nat} (hok : atomicOk op w x = true) {u : State} (hu : s.arrives die x gen = some u) (old : Bool) (y z : Nat) :
    execAtomicRequest die kind unit gen addr ⟨op, old⟩ w y z s
      = .next (if old then (s.combined (u.touchLine (s.lineOwner x) (x / 128) true false) x op w y z).reply x die kind unit (s.lineRead x (w / 8))
        else s.combined (u.touchLine (s.lineOwner x) (x / 128) true false) x op w y z) := by
  simp only [execAtomicRequest, hdrop, hx, hok, hu, Bool.false_eq_true, if_false, if_true]
  split
  · rfl
  · rfl

/-- An atomic of Table 14-4 in its turn. -/
theorem atomic_combines (hf : (s.dieAt (homeOf x)).fenced = false) (hturn : InTurn s die (homeOf x) 2 gen.seqNo) (hs : s.shapeOk) (hpop : x / 2 ^ 36 < 24)
    {op : AtomicOp} {w : Nat} (h : atomicForm op w) (halign : x % (w / 8) = 0) (old : Bool) (y z : Nat) :
    ∃ t, exec (.atomicRequest die kind unit gen addr ⟨op, old⟩ w y z) s = .next t ∧ OnlyLines s t ∧ OnlyBytesAt s t x (w / 8)
      ∧ leNat (t.lineRead x (w / 8)) = (if (s.linePoison x).isSome then leNat (s.lineRead x (w / 8)) else atomicNew op w (leNat (s.lineRead x (w / 8))) y z)
      ∧ (old = true → homeOf x ≠ die → SentOnSpine s t (homeOf x) die 1 (s.lineRead x (w / 8)) ∧ t.unitOut = s.unitOut)
      ∧ (old = true → homeOf x = die → t.unitOut = s.unitOut ++ [(die, kind, unit, s.lineRead x (w / 8))] ∧ t.streams = s.streams)
      ∧ (old = false → NumberTaken s t die (homeOf x) 2 ∧ t.unitOut = s.unitOut) := by
  obtain ⟨u, hu, htaken, hhome⟩ := State.arrives_inTurn hf hturn
  obtain ⟨hat, hbut⟩ := State.arrives_atLine hu htaken hhome (s.lineOwner x) true
  have hshape := State.touched_shapeOk hs hu (s.lineOwner x) true
  have he : exec (.atomicRequest die kind unit gen addr ⟨op, old⟩ w y z) s = .next _ :=
    execAtomicRequest_combines hdrop hx (atomicOk_of_form h halign) hu old y z
  generalize hv : s.combined (u.touchLine (s.lineOwner x) (x / 128) true false) x op w y z = v at he
  obtain ⟨hbytes, hread⟩ := State.combined_bytes hat.memory hshape hpop h y z
  obtain ⟨hstreams, hout, hvbut⟩ := State.combined_keeps s (u.touchLine (s.lineOwner x) (x / 128) true false) x op w y z
  rw [hv] at hbytes hread hstreams hout hvbut
  cases old with
  | false => exact ⟨v, he, onlyLines_of_access he rfl rfl (hvbut.trans hbut), hbytes, hread, fun h => (nomatch h), fun h => (nomatch h),
      fun _ => ⟨hat.numberTaken hstreams, hout.trans hat.unitOut⟩⟩
  | true =>
    have hfields : (v.reply x die kind unit (s.lineRead x (w / 8))).but (Field.among accessFields) = s.but (Field.among accessFields) :=
      (State.reply_but ((covers_among _).mono (by decide)) _ _ _ _ _ _).trans (hvbut.trans hbut)
    have hmem : (v.reply x die kind unit (s.lineRead x (w / 8))).memory = v.memory := by
      by_cases hd : homeOf x = die
      · rw [State.reply_home hd]
        rfl
      · exact (State.reply_away hd kind unit _).2.1
    refine ⟨_, he, onlyLines_of_access he rfl rfl hfields, onlyBytesAt_congr rfl hmem hbytes, ?_,
      fun _ hd => ⟨hat.reply_sent hstreams hd kind unit _, ?_⟩, fun _ hd => ?_, fun h => (nomatch h)⟩
    · exact (congrArg leNat (State.lineRead_of_memory hmem x _)).trans hread
    · exact (State.reply_away hd kind unit _).2.2.trans (hout.trans hat.unitOut)
    · rw [if_pos rfl, State.reply_home hd]
      exact ⟨congrArg (· ++ _) (hout.trans hat.unitOut), hstreams.trans (hat.home hd.symm)⟩
end

/-- Settles O37: a request that arrives acts at its line; one out of turn, dropped or of another form does not. -/
theorem memoryAccessesReachTheirLine : Obligations.MemoryAccessesReachTheirLine := by
  unfold Obligations.MemoryAccessesReachTheirLine
  refine ⟨⟨fun s die kind unit addr x gen b w hs hdrop hx hpop hf hturn hw => ?_, fun s die kind unit addr x gen w b hdrop hx h => ?_,
      fun s die kind unit addr gen w b hdrop => ?_⟩,
    fun s die kind unit addr x gen op w y z old hs hdrop hx hpop hf hturn => ⟨fun h halign => atomic_combines hdrop hx hf hturn hs hpop h halign old y z,
      fun h => execAtomicRequest_ignored hdrop hx h old y z⟩⟩
  · subst hw
    obtain ⟨t, he, honly, hmem, hhome, haway⟩ := farRead_answers hdrop hx hf hturn b
    refine ⟨farWrite_stores hdrop hx hf hturn hs hpop b, fun h => ?_, fun h => ?_⟩
    · exact ⟨t, he, honly, State.hbm_of_memory hmem, State.objects_of_memory hmem, State.frames_of_memory hmem, hhome h⟩
    · exact ⟨t, he, honly, State.hbm_of_memory hmem, State.objects_of_memory hmem, State.frames_of_memory hmem, haway h⟩
  · exact execFarAccessRequest_held hdrop hx (State.arrives_none h) w b
  · have h := State.reportDrop_but (covers_among _) s die kind unit (originId die 0x06 0x04)
    exact ⟨_, if_pos hdrop, congrArg (·.state.hbm) h, congrArg (·.state.objects) h, congrArg (·.state.frames) h, congrArg (·.state.host) h,
      congrArg (·.state.streams) h, congrArg (·.state.spineOut) h, congrArg (·.state.unitOut) h⟩

end Sys2Proof.Machine
end

section
/-! PROOF. A statement that fails: the scrub finds a page of a command's tables uncorrectable, the partition's quarantine fails the command, and the page that it gives back takes the stack's poison with it. -/
namespace Sys2Proof.Machine

/-- A SEQ_FORK of partition 0 that has run and holds a page of its child's tables in frame 0 of die 0. -/
def pageFork : Cmd := { desc := leBytes 1 0x04 ++ List.replicate 127 0, phase := .ready, frames := [(0, 0)] }

/-- A package in normal service whose scrub stands at the first line of that page. -/
def pageScrub : State :=
  { boot := .ready, cmds := [(0, pageFork)], parts := [(0, {})], frames := [(0, { part := 0, page := true })] :: List.replicate 7 [],
    hbm := { scrubLine := frameBase 0 / 128 } :: List.replicate 23 {} }

theorem pageScrub_shapeOk : pageScrub.shapeOk := by
  rw [State.shapeOk_iff]
  rfl

/-- The poisoned lines of a stack after a command. -/
def poisonAfter (stack : Nat) (o : Host.Outcome State Fault Refusal) : List (Nat × Nat) := match o with | .next t => (t.stackAt stack).poison | _ => []

/-- The quarantine (R544) ends the fork, the fork gives its page back, and the frame leaves with the poison that it carried itself, which is none. -/
theorem pageScrub_forgets : poisonAfter 0 (exec (.patrolScrub 0 (frameBase 0 / 128) 2 .unused) pageScrub) = [] := by
  decide +kernel

/-- Refutes O38: the statement says of every uncorrectable line that it is poisoned in its stack (R338); a line in a table page is not once the quarantine has
failed the command that holds the page, for the frame that goes back to the pool puts the poison of the frame in the place of the stack's, and a page keeps none. -/
theorem not_linesAndRepairs : ¬ Obligations.LinesAndRepairs := by
  unfold Obligations.LinesAndRepairs
  rintro ⟨-, -, -, huncorrectable, -⟩
  obtain ⟨t, ht, hpoison, -⟩ := huncorrectable pageScrub 0 (frameBase 0 / 128) (originId 0 0x06 0) .unused {} 0 (.patrolScrub 0 (frameBase 0 / 128) 2 .unused)
    pageScrub_shapeOk (by decide) rfl (.inl ⟨rfl, rfl, rfl⟩)
  have hnone : (t.stackAt 0).poison = [] := by rw [← pageScrub_forgets, ht]; rfl
  rw [hnone] at hpoison
  cases hpoison

end Sys2Proof.Machine
end

section
/-! PROOF. MOVE of byte objects and sequences runs to its decision point; its commit writes the exports and gives RETIER's object its new home (R356, R358, R372). -/

namespace Sys2Proof.Machine

/-! ### Running and ending (R372) -/

/-- A started MOVE runs the body of its OP where it stands. -/
theorem move_started {s : State} {id op : Nat} {c : Cmd} (h : Live s id 0x06 c) (hp : c.phase = .started) (hop : c.f 16 1 = op)
    (body : Nat → Cmd → State → State) : move op body id s = body id c s :=
  bindery_started h hp (by simp [hop]) body

/-- Command `id` stands at its decision point with OK and the image that it holds for its commit. -/
def ReadyOk (t : State) (id : Nat) (image : Bytes) : Prop := ∃ d, t.cmd? id = some d ∧ d.phase = .ready ∧ d.status = OK ∧ d.image = image

/-- The end of a body that met no failure. -/
theorem ReadyOk.endMove {s : State} {id : Nat} {c : Cmd} (hc : s.cmd? id = some c) : ReadyOk (s.endMove id none) id c.image := by
  obtain ⟨cycles, hd⟩ := State.cmd?_toReady hc fun x => { x with status := OK, detail := 0 }
  exact ⟨_, hd, rfl, rfl, rfl⟩

/-- The end of a body that holds an image. -/
theorem ReadyOk.endHeld (s : State) (id : Nat) (c : Cmd) : ReadyOk ((s.setCmd id c).endMove id none) id c.image :=
  ReadyOk.endMove (State.cmd?_setCmd_same ..)

/-- What the end of a body may change. -/
def endFields : List Field := [.fresh, .cmds, .progress]

theorem State.endHeld_but (s : State) (id : Nat) (c : Cmd) :
    ((s.setCmd id c).endMove id none).but (Field.among endFields) = s.but (Field.among endFields) :=
  (State.endMove_but (covers_among _) _ id none).trans (State.setCmd_but ((covers_among _).mono (by decide)) s id c)

/-- A body that writes a byte object by quiet steps ends with OK, and no object has changed its version (R59, R356). -/
theorem Quiet.endMove {s u : State} {id : Nat} {c : Cmd} (hc : s.cmd? id = some c) (hq : Quiet s u)
    (hb : u.but (Field.among (.fresh :: putFields)) = s.but (Field.among (.fresh :: putFields))) :
    ∃ d, (u.endMove id none).cmd? id = some d ∧ d.phase = .ready ∧ d.status = OK ∧ VersionsKept s (u.endMove id none) := by
  obtain ⟨e, he, -⟩ := hq.2 id c hc
  obtain ⟨d, hd, hphase, hok, -⟩ := ReadyOk.endMove he
  exact ⟨d, hd, hphase, hok, State.versions_kept ((State.endMove_but ((covers_among _).mono (by decide)) u id none).trans hb) rfl⟩

/-! ### What a MOVE reads of host memory -/

theorem State.hostRead_bulkDma (s : State) (part : Nat) (write : Bool) (a n b m : Nat) : (s.bulkDma part write a n).hostRead b m = s.hostRead b m :=
  congrArg (Mem.readRange · b m) (State.host_kept (State.bulkDma_but (covers_among _) s part write a n) rfl)

/-- The leaves that the restore image of a sequence holds. -/
def Seq.imaged (q : Seq) : NMap LeafEntry := (allWins q q.c).filterMap (fun w => (NMap.get? q.leaves w).map (fun e => (w, e)))

/-- What a SEQ_EXPORT reads: the host's hashes when they are given, and the demoted leaves. -/
def State.exportReads (s : State) (c : Cmd) (q : Seq) : State :=
  (if c.f 72 8 = 0 then s else s.bulkDma c.owner false (c.f 72 8) (8 * (q.c / q.tpl))).leafDma c.owner q.imaged

theorem State.host_exportReads (s : State) (c : Cmd) (q : Seq) : (s.exportReads c q).host = s.host := by
  refine (State.host_kept (State.leafDma_but (covers_among _) _ _ _) rfl).trans ?_
  split
  · rfl
  · exact State.host_kept (State.bulkDma_but (covers_among _) s _ _ _ _) rfl

/-! ### COPY, IMPORT and EXPORT of byte objects -/

section
variable {s : State} {id : Nat} {c : Cmd} (h : Live s id 0x06 c) (hp : c.phase = .started)
include h hp

/-- A COPY of bytes that carry no poison writes them to the destination. -/
theorem execMoveCopy_bytes {sk dk : Nat} {a b : Obj} (hop : c.f 16 1 = 0) (ha : s.obj? c.owner (c.f 20 4) = some (sk, a))
    (hb : s.obj? c.owner (c.f 24 4) = some (dk, b)) (hkind : a.kind = 1) (hclean : a.poisonBytes (c.viewOf sk a) (c.f 32 8) (c.f 48 8) c.home = none) :
    exec (.moveCopy id) s = .next ((s.putObj id dk (c.f 40 8) (a.readBytes (c.viewOf sk a) (c.f 32 8) (c.f 48 8))).endMove id none) := by
  refine congrArg Host.Outcome.next ((move_started h hp hop _).trans ?_)
  simp only [ha, hb, hkind, hclean, if_true]

/-- An IMPORT into a byte object reads host memory and writes what it read. -/
theorem execMoveImport_bytes {dk : Nat} {b : Obj} (hop : c.f 16 1 = 1) (hb : s.obj? c.owner (c.f 24 4) = some (dk, b)) (hkind : b.kind = 1) :
    exec (.moveImport id) s = .next (((s.bulkDma c.owner false (c.f 56 8) (c.f 48 8 * b.unit)).putObj id dk (c.f 40 8)
      (s.hostRead (c.f 56 8) (c.f 48 8))).endMove id none) := by
  refine congrArg Host.Outcome.next ((move_started h hp hop _).trans ?_)
  simp only [hb, hkind, if_true, State.hostRead_bulkDma]

/-- An EXPORT of bytes that carry no poison holds them for its commit. -/
theorem execMoveExport_bytes {sk : Nat} {a : Obj} (hop : c.f 16 1 = 2) (ha : s.obj? c.owner (c.f 20 4) = some (sk, a)) (hkind : a.kind = 1)
    (hclean : a.poisonBytes (c.viewOf sk a) (c.f 32 8) (c.f 48 8) c.home = none) :
    exec (.moveExport id) s
      = .next ((s.setCmd id { c with image := a.readBytes (c.viewOf sk a) (c.f 32 8) (c.f 48 8) }).endMove id none) := by
  refine congrArg Host.Outcome.next ((move_started h hp hop _).trans ?_)
  simp only [ha, hkind, if_true, hclean]

/-! ### SEQ_EXPORT and RETIER -/

/-- A SEQ_EXPORT of a sequence whose leaves carry no poison holds its restore image (R313). -/
theorem execMoveSeqExport_holds {q : Seq} (hop : c.f 16 1 = 3) (hfail : s.seqExportFail c = none)
    (hq : q = { s.seqAt (seqIndex (c.f 20 4)) with c := NMap.getD c.lens 0 (s.seqAt (seqIndex (c.f 20 4))).c })
    (hclean : ∀ w ∈ allWins q q.c, ∀ e, NMap.get? q.leaves w = some e → s.leafPoison e 0 151552 = none) :
    exec (.moveSeqExport id) s = .next (((s.exportReads c q).setCmd id { c with image := s.seqImage q (c.f 72 8) }).endMove id none) := by
  have hnone : q.imaged.filterMap (fun e => s.leafPoison e.2 0 151552) = [] := by
    rw [List.filterMap_eq_nil_iff]
    intro p hmem
    obtain ⟨w, hw, hwp⟩ := List.mem_filterMap.1 hmem
    obtain ⟨e, he, rfl⟩ := Option.map_eq_some_iff.1 hwp
    exact hclean w hw e he
  subst hq
  refine congrArg Host.Outcome.next ((move_started h hp hop _).trans ?_)
  rw [Seq.imaged] at hnone
  simp only [hfail, hnone, List.head?_nil]
  rfl

/-- A RETIER whose object no other command names, and whose new storage fits beside the old, ends with OK and has moved nothing yet. -/
theorem execMoveRetier_fits {k : Nat} {o : Obj} (hop : c.f 16 1 = 6) (ho : s.obj? c.owner (c.f 20 4) = some (k, o))
    (halone : ∀ x ∈ s.cmds, x.1 ≠ id → (s.named x.2).contains k = false) (hmodel : s.isModel c.owner (c.f 20 4) = false)
    (hfits : s.fits c.owner (retiered o c.desc) = true) : exec (.moveRetier id) s = .next (s.endMove id none) := by
  have hfree : s.cmds.any (fun x => x.1 != id && (s.named x.2).contains k) = false := by
    rw [List.any_eq_false]
    intro x hx
    by_cases hid : x.1 = id
    · simp [hid]
    · rw [halone x hx hid, Bool.and_false]
      exact Bool.false_ne_true
  show execMoveRetier id s = _
  simp only [execMoveRetier, h.2.1, ho, hfree, Bool.false_eq_true, if_false]
  refine congrArg Host.Outcome.next ((move_started h hp hop _).trans ?_)
  simp only [hmodel, hfits, Bool.false_eq_true, if_false, if_true]
end

/-! ### The commits -/

/-- Bytes that pass through the memory of an object outside T3 change no object: no cached slot gives way to them. -/
theorem State.objects_moved {s : State} {key : Nat} {o : Obj} (ho : NMap.get? s.objects key = some o) (ht : o.tier ≠ 3) (v n off len : Nat) :
    (s.moved key v n off len).objects = s.objects := by
  have hb := (State.touchSlot_but (covers_among (meterFields ++ [.stores])) (s.dropCopies key v n) (key / 2 ^ 32) o v n off len true).trans
    (State.dropCopies_but ((covers_among _).mono (by decide)) s key v n)
  simp only [State.moved, ho, ht, if_false]
  exact State.objects_kept hb rfl

theorem State.objects_filled {s : State} {key : Nat} {o : Obj} (ho : NMap.get? s.objects key = some o) (ht : o.tier ≠ 3) :
    (s.filled key).objects = s.objects := by
  simp only [State.filled, ho]
  refine List.foldlRecOn (motive := fun a : State => a.objects = s.objects) _ _ rfl fun a ha v _ => ?_
  refine List.foldlRecOn (motive := fun a : State => a.objects = s.objects) _ _ ha fun b hb n _ => ?_
  exact (State.objects_moved (hb ▸ ho) ht v n 0 o.slot).trans hb

/-- The commit of RETIER puts the object with its new home, mapped, into the state that its copies have left, and fills it outside T3. -/
theorem State.commitRetier_eq {s : State} {c : Cmd} {k : Nat} {o new : Obj} (ho : s.obj? c.owner (c.f 20 4) = some (k, o))
    (hnew : { retiered o c.desc with pages := [] } = new) :
    ∃ u : State, s.commitRetier c = if new.tier = 3 then u.setObj k ((u.setObj k new).mapped c.owner new)
      else (u.setObj k ((u.setObj k new).mapped c.owner new)).filled k := by
  subst hnew
  unfold State.commitRetier
  rw [ho]
  exact ⟨_, rfl⟩

/-- At the commit of RETIER the object has its new home, with pages of its own. -/
theorem State.get?_commitRetier {s : State} {c : Cmd} {k : Nat} {o : Obj} (ho : s.obj? c.owner (c.f 20 4) = some (k, o)) :
    ∃ pages dv, NMap.get? (s.commitRetier c).objects k = some { retiered o c.desc with pages := pages, dv := dv } := by
  obtain ⟨u, hu⟩ := State.commitRetier_eq ho rfl
  have hput := NMap.get?_set_same u.objects k ((u.setObj k { retiered o c.desc with pages := [] }).mapped c.owner { retiered o c.desc with pages := [] })
  refine ⟨_, _, Eq.trans ?_ hput⟩
  rw [hu]
  split
  · rfl
  · next htier => exact congrArg (NMap.get? · k) (State.objects_filled hput htier)

section
variable (s : State) {c : Cmd} (hop : c.opcode = 0x06)
include hop

theorem State.commitMove_writes (hout : c.f 16 1 = 2 ∨ c.f 16 1 = 3) : s.commitMove c = s.bulkWrite c.owner (c.f 56 8) c.image := by
  simp only [State.commitMove, hop, ne_eq, not_true_eq_false, if_false, hout, if_true]

theorem State.commitMove_retier (hretier : c.f 16 1 = 6) : s.commitMove c = s.commitRetier c := by
  simp [State.commitMove, hop, hretier]
end

/-- Settles O54: the bodies are quiet writes or held images, and the commits are one write of host memory or the object's new home. -/
theorem movesRun : Obligations.MovesRun := by
  unfold Obligations.MovesRun
  refine ⟨fun s id c h hp => ⟨?copies, ?imports, ?exports, ?seqExports, ?retiers⟩, fun s c hop hout hopen => ?written, fun s c k o hop hretier ho => ?rehomed⟩
  case copies =>
    intro sk a dk b hop ha hb hkind hclean
    obtain ⟨d, hd⟩ := Quiet.endMove h.2.1 (Quiet.putObj s id dk (c.f 40 8) (a.readBytes (c.viewOf sk a) (c.f 32 8) (c.f 48 8)))
      (State.putObj_but ((covers_among _).mono (by decide)) s _ _ _ _)
    exact ⟨_, d, execMoveCopy_bytes h hp hop ha hb hkind hclean, rfl, hd⟩
  case imports =>
    intro dk b hop hb hkind
    obtain ⟨d, hd⟩ := Quiet.endMove h.2.1 ((Quiet.bulkDma s c.owner false (c.f 56 8) (c.f 48 8 * b.unit)).trans
      (Quiet.putObj _ id dk (c.f 40 8) (s.hostRead (c.f 56 8) (c.f 48 8))))
      ((State.putObj_but ((covers_among _).mono (by decide)) _ _ _ _ _).trans (State.bulkDma_but ((covers_among _).mono (by decide)) s _ _ _ _))
    exact ⟨_, d, execMoveImport_bytes h hp hop hb hkind, rfl, hd⟩
  case exports =>
    intro sk a hop ha hkind hclean
    obtain ⟨d, hd, hphase, hok, himage⟩ := ReadyOk.endHeld s id { c with image := a.readBytes (c.viewOf sk a) (c.f 32 8) (c.f 48 8) }
    have hkept := State.endHeld_but s id { c with image := a.readBytes (c.viewOf sk a) (c.f 32 8) (c.f 48 8) }
    exact ⟨_, d, execMoveExport_bytes h hp hop ha hkind hclean, hd, hphase, hok, himage, State.host_kept hkept rfl, State.objects_kept hkept rfl⟩
  case seqExports =>
    intro q hop hfail hq hclean
    obtain ⟨d, hd, hphase, hok, himage⟩ := ReadyOk.endHeld (s.exportReads c q) id { c with image := s.seqImage q (c.f 72 8) }
    exact ⟨_, d, execMoveSeqExport_holds h hp hop hfail hq hclean, hd, hphase, hok, himage,
      (State.host_kept (State.endHeld_but _ id _) rfl).trans (State.host_exportReads s c q)⟩
  case retiers =>
    intro k o hop ho halone hmodel hfits
    obtain ⟨d, hd, hphase, hok, -⟩ := ReadyOk.endMove h.2.1
    exact ⟨_, d, execMoveRetier_fits h hp hop ho halone hmodel hfits, hd, hphase, hok,
      State.objects_kept (State.endMove_but (covers_among endFields) s id none) rfl⟩
  case written =>
    rw [State.commitMove_writes s hop hout]
    exact ⟨State.bulkWrite_host hopen _ _, State.bulkWrite_objects ..⟩
  case rehomed =>
    rw [State.commitMove_retier s hop hretier]
    obtain ⟨pages, dv, hnew⟩ := State.get?_commitRetier ho
    exact ⟨_, hnew, rfl⟩

end Sys2Proof.Machine
end

section
/-! PROOF. The links of the spine: what is kept of a link whatever it carries, and what becomes of a message that is launched on it (R374, R375, R377, R382). -/

namespace Sys2Proof.Machine

/-! ### A link read after it is written -/

theorem linkKey_comm (a b : Nat) : linkKey a b = linkKey b a := by
  unfold linkKey
  split_ifs <;> omega

theorem linkKey_inj {a b i j : Nat} (hab : a < b) (hb : b < 8) (hij : i < j) (hj : j < 8) : linkKey i j = linkKey a b ↔ i = a ∧ j = b := by
  unfold linkKey
  rw [if_pos hab, if_pos hij]
  omega

theorem State.spineAt_comm (s : State) (a b : Nat) : s.spineAt a b = s.spineAt b a := congrArg (NMap.getD s.spine · {}) (linkKey_comm a b)

theorem State.setSpine_comm (s : State) (a b : Nat) (x : SpineLink) : s.setSpine a b x = s.setSpine b a x := by
  unfold State.setSpine
  rw [linkKey_comm]

theorem State.spineAt_of_spine {s t : State} (h : t.spine = s.spine) (a b : Nat) : t.spineAt a b = s.spineAt a b := 
  congrArg (fun m : NMap SpineLink => NMap.getD m (linkKey a b) {}) h

theorem State.spineAt_of_key (s : State) {a b i j : Nat} (h : linkKey i j = linkKey a b) : s.spineAt i j = s.spineAt a b := congrArg (NMap.getD s.spine · {}) h

@[simp] theorem State.spineAt_setSpine_same (s : State) (a b : Nat) (x : SpineLink) : (s.setSpine a b x).spineAt a b = x := NMap.getD_set_same ..

theorem State.spineAt_setSpine_ne (s : State) {a b i j : Nat} (h : linkKey i j ≠ linkKey a b) (x : SpineLink) : (s.setSpine a b x).spineAt i j = s.spineAt i j :=
  NMap.getD_set_ne _ _ _ h

theorem State.spineAt_setSpine_key (s : State) {a b i j : Nat} (h : linkKey i j = linkKey a b) (x : SpineLink) : (s.setSpine a b x).spineAt i j = x :=
  (State.spineAt_of_key _ h).trans (State.spineAt_setSpine_same ..)

/-! ### What of the links their traffic leaves -/

/-- A direction of a link without its traffic: its channels. -/
def SpineDir.unladen (x : SpineDir) : SpineDir := { queues := x.queues.map fun _ => [], credits := [] }

/-- A link without its traffic. -/
def SpineLink.unladen (x : SpineLink) : SpineLink := { x with dirs := x.dirs.map SpineDir.unladen }

/-- The links of the spine without their traffic. -/
def State.wires (s : State) : Lookup (Lookup SpineLink) := fun a b => (s.spineAt a b).unladen

theorem SpineLink.unladen_dirs (x : SpineLink) {l : List SpineDir} (h : l.map SpineDir.unladen = x.dirs.map SpineDir.unladen) :
    SpineLink.unladen { x with dirs := l } = x.unladen := by
  simp only [SpineLink.unladen, h]

theorem State.setSpine_wires {s : State} {a b : Nat} {x : SpineLink} (h : x.unladen = (s.spineAt a b).unladen) : (s.setSpine a b x).wires = s.wires := by
  funext i j
  unfold State.wires
  by_cases hk : linkKey i j = linkKey a b
  · rw [State.spineAt_setSpine_key s hk, h, State.spineAt_of_key s hk]
  · rw [State.spineAt_setSpine_ne s hk]

theorem State.modDir_wires (s : State) (a b : Nat) {f : SpineDir → SpineDir} (hf : ∀ x, (f x).unladen = x.unladen) : (s.modDir a b f).wires = s.wires :=
  State.setSpine_wires (SpineLink.unladen_dirs _ (map_modify_of_eq _ _ _ _ hf))

/-- A direction of which messages are taken back keeps its channels. -/
theorem SpineDir.unladen_of_map {x y : SpineDir} {f : List SpineMsg → List SpineMsg} (h : y.queues = x.queues.map f) : y.unladen = x.unladen := by
  simp only [SpineDir.unladen, h, List.map_map]
  rfl

theorem SpineDir.unladen_modify (x : SpineDir) (ch : Nat) (f : List SpineMsg → List SpineMsg) :
    SpineDir.unladen { x with queues := x.queues.modify ch f } = x.unladen := by
  simp only [SpineDir.unladen, map_modify_of_eq (fun _ => ([] : List SpineMsg)) f x.queues ch fun _ => rfl]

theorem SpineDir.transmit_unladen (x : SpineDir) (ch : Nat) (m : SpineMsg) : (x.transmit ch m).unladen = x.unladen := SpineDir.unladen_modify x ch List.tail

theorem SpineDir.pump_unladen (n : Nat) (x : SpineDir) : (SpineDir.pump n x).1.unladen = x.unladen := by
  induction n generalizing x with
  | zero => rfl
  | succ n ih =>
    unfold SpineDir.pump
    repeat' split
    · rfl
    · exact (ih _).trans (SpineDir.transmit_unladen ..)
    · rfl

theorem State.pumpSpine_wires (s : State) (a b : Nat) : (s.pumpSpine a b).wires = s.wires :=
  State.setSpine_wires (SpineLink.unladen_dirs _ (map_set_of_getD _ _ _ _ {} (SpineDir.pump_unladen ..)))

theorem State.launch_wires (s : State) (m : SpineMsg) : (s.launch m).wires = s.wires :=
  (State.pumpSpine_wires ..).trans (State.modDir_wires s _ _ fun x => SpineDir.unladen_modify x m.channel _)

theorem foldl_wires {α : Type} {f : State → α → State} (hf : ∀ a x, (f a x).wires = a.wires) (l : List α) (s : State) : (l.foldl f s).wires = s.wires := by
  induction l generalizing s with
  | nil => rfl
  | cons x l ih => exact (ih _).trans (hf _ _)

/-- Directions that lose traffic, whatever it is, keep their channels. -/
theorem State.mapDirs_wires (s : State) {f : SpineDir → SpineDir} (hf : ∀ x, (f x).unladen = x.unladen) :
    State.wires { s with spine := s.spine.map fun l => (l.1, { l.2 with dirs := l.2.dirs.map f }) } = s.wires := by
  funext i j
  unfold State.wires State.spineAt NMap.getD
  dsimp only
  rw [NMap.get?_map_snd s.spine fun l => { l with dirs := l.dirs.map f }]
  cases NMap.get? s.spine (linkKey i j) with
  | none => rfl
  | some l => exact SpineLink.unladen_dirs l (by rw [List.map_map]; exact List.map_congr_left fun x _ => hf x)

theorem State.resend_wires (s : State) (a b : Nat) : (s.resend a b).wires = s.wires :=
  (foldl_wires State.launch_wires _ _).trans (State.mapDirs_wires s fun _ => SpineDir.unladen_of_map rfl)

theorem State.rerouted_wires (s old : State) : (s.rerouted old).wires = s.wires := by
  refine foldl_wires (fun a p => ?_) _ _
  split
  · rfl
  · exact State.resend_wires ..

/-! ### The path of a message (R381, R382) -/

section
variable {s t : State} (hdies : t.dies = s.dies)
include hdies

theorem State.detour_of_fences (h : ∀ a b, (t.spineAt a b).fenced = (s.spineAt a b).fenced) (a b : Nat) : t.detour a b = s.detour a b := by
  simp only [State.detour, State.dieAt, hdies, h]

theorem State.hop_of_wires (h : t.wires = s.wires) (a b : Nat) : t.hop a b = s.hop a b := by
  have hlink : ∀ i j, (t.spineAt i j).unladen = (s.spineAt i j).unladen := fun i j => congrFun (congrFun h i) j
  have hdirect : (t.spineAt a b).direct = (s.spineAt a b).direct := (congrArg SpineLink.direct (hlink a b) :)
  rw [State.hop, State.hop, hdirect, State.detour_of_fences hdies fun i j => (congrArg SpineLink.fenced (hlink i j) :)]
end

theorem State.detour_comm (s : State) (a b : Nat) : s.detour a b = s.detour b a := by
  refine congrArg (List.find? · (List.range 8)) (funext fun c => ?_)
  rw [State.spineAt_comm s a c, State.spineAt_comm s c b, Bool.and_comm (c != a)]
  simp only [Bool.and_assoc, Bool.and_comm (!(s.spineAt c a).fenced)]

/-- A detour runs through a third die. -/
theorem State.detour_ne {s : State} {a b c : Nat} (h : s.detour a b = some c) : c ≠ b := by
  have hc := List.find?_some h
  simp only [Bool.and_eq_true, bne_iff_ne] at hc
  obtain ⟨⟨⟨⟨-, hb⟩, -⟩, -⟩, -⟩ := hc
  exact hb

theorem State.hop_direct {s : State} {a b : Nat} (h : (s.spineAt a b).direct = true) : s.hop a b = b := if_pos h

/-! ### A message that is launched goes out or waits (R375) -/

theorem getElem?_modify_some {α : Type} {l : List α} {j : Nat} {x : α} (h : l[j]? = some x) (i : Nat) (f : α → α) :
    (l.modify i f)[j]? = some (if i = j then f x else x) := by
  rw [List.getElem?_modify, h]
  rfl

/-- A message waits in a channel of a direction. -/
def SpineDir.waits (x : SpineDir) (m : SpineMsg) : Prop := ∃ (ch : Nat) (q : List SpineMsg), x.queues[ch]? = some q ∧ m ∈ q

theorem SpineDir.waits_append {x : SpineDir} {m : SpineMsg} (h : x.waits m) (ch : Nat) (l : List SpineMsg) :
    SpineDir.waits { x with queues := x.queues.modify ch (· ++ l) } m := by
  obtain ⟨i, q, hq, hm⟩ := h
  refine ⟨i, _, getElem?_modify_some hq ch _, ?_⟩
  split
  · exact List.mem_append_left l hm
  · exact hm

/-- Of what waits, the front message of a channel alone is transmitted. -/
theorem SpineDir.waits_transmit {x : SpineDir} {m m0 : SpineMsg} {ch : Nat} (hfront : (x.queues.getD ch []).head? = some m0) (h : x.waits m) :
    m = m0 ∨ (x.transmit ch m0).waits m := by
  obtain ⟨i, q, hq, hm⟩ := h
  have hi : (x.transmit ch m0).queues[i]? = some (if ch = i then q.tail else q) := getElem?_modify_some hq ch List.tail
  by_cases he : ch = i
  · subst he
    rw [List.getD_eq_getElem?_getD, hq, Option.getD_some] at hfront
    rw [List.eq_cons_of_mem_head? hfront, List.mem_cons] at hm
    exact hm.imp_right fun hm => ⟨ch, _, hi, by rwa [if_pos rfl]⟩
  · exact .inr ⟨i, _, hi, by rwa [if_neg he]⟩

theorem SpineDir.pump_sends_or_keeps {m : SpineMsg} (n : Nat) {x : SpineDir} (h : x.waits m) :
    m ∈ (SpineDir.pump n x).2 ∨ (SpineDir.pump n x).1.waits m := by
  induction n generalizing x with
  | zero => exact .inr h
  | succ n ih =>
    unfold SpineDir.pump
    split
    · exact .inr h
    · split
      · next hfront =>
        rcases SpineDir.waits_transmit hfront h with rfl | hw
        · exact .inl List.mem_cons_self
        · exact (ih hw).imp_left (List.mem_cons_of_mem _)
      · exact .inr h

/-- A message has gone out, or waits at the transmitter from die `a` to its neighbour `b`. -/
def State.launched (s : State) (a b : Nat) (m : SpineMsg) : Prop := m ∈ s.spineOut ∨ ∃ x, (s.spineAt a b).dirs[endOf a b]? = some x ∧ x.waits m

section
variable {s : State} {a b : Nat} {m : SpineMsg}

theorem State.launched_modDir (h : s.launched a b m) (i j : Nat) {f : SpineDir → SpineDir} (hf : ∀ x, x.waits m → (f x).waits m) :
    (s.modDir i j f).launched a b m := by
  refine h.imp id fun ⟨x, hx, hm⟩ => ?_
  by_cases hk : linkKey a b = linkKey i j
  · rw [State.modDir, State.spineAt_setSpine_key s hk, ← State.spineAt_of_key s hk]
    refine ⟨_, getElem?_modify_some hx _ f, ?_⟩
    split
    · exact hf x hm
    · exact hm
  · exact ⟨x, (congrArg (·.dirs[endOf a b]?) (State.spineAt_setSpine_ne s hk _)).trans hx, hm⟩

theorem State.launched_pumpSpine (h : s.launched a b m) (i j : Nat) : (s.pumpSpine i j).launched a b m := by
  rcases h with h | ⟨x, hx, hm⟩
  · exact .inl (List.mem_append_left _ h)
  by_cases hk : linkKey a b = linkKey i j
  · have hlink : ((s.pumpSpine i j).spineAt a b).dirs = _ := congrArg SpineLink.dirs (State.spineAt_setSpine_key s hk _)
    rw [State.spineAt_of_key s hk] at hx
    obtain ⟨hlt, -⟩ := List.getElem?_eq_some_iff.1 hx
    by_cases he : endOf i j = endOf a b
    · have hdir : (s.spineAt i j).dirs.getD (endOf i j) {} = x := by rw [List.getD_eq_getElem?_getD, he, hx, Option.getD_some]
      refine (SpineDir.pump_sends_or_keeps (x.queues.map List.length).sum hm).imp (fun hout => ?_) fun hw => ⟨_, ?_, hw⟩
      · exact List.mem_append_right _ (by rw [hdir]; exact hout)
      · rw [hlink, he, List.getElem?_set_self hlt, ← he, hdir]
    · exact .inr ⟨x, by rw [hlink, List.getElem?_set_ne he, hx], hm⟩
  · exact .inr ⟨x, (congrArg (·.dirs[endOf a b]?) (State.spineAt_setSpine_ne s hk _)).trans hx, hm⟩

theorem State.launched_launch (h : s.launched a b m) (m' : SpineMsg) : (s.launch m').launched a b m :=
  State.launched_pumpSpine (State.launched_modDir h _ _ fun _ hx => SpineDir.waits_append hx _ _) _ _

theorem State.launched_foldl (l : List SpineMsg) (h : s.launched a b m) : (l.foldl State.launch s).launched a b m := by
  induction l generalizing s with
  | nil => exact h
  | cons x l ih => exact ih (State.launched_launch h x)

/-- The link between a message's dies carries it directly and has its channel. -/
def State.carries (s : State) (m : SpineMsg) : Prop :=
  s.hop m.src m.dst = m.dst ∧ ∃ x, (s.wires m.src m.dst).dirs[endOf m.src m.dst]? = some x ∧ m.channel < x.queues.length

theorem State.carries_of_wires {t : State} (hdies : t.dies = s.dies) (hwires : t.wires = s.wires) (h : s.carries m) : t.carries m := by
  unfold State.carries at *
  rw [State.hop_of_wires hdies hwires, hwires]
  exact h

theorem State.launch_launched (h : s.carries m) : (s.launch m).launched m.src m.dst m := by
  obtain ⟨hhop, y, hy, hch⟩ := h
  unfold State.launch
  rw [hhop]
  refine State.launched_pumpSpine (.inr ?_) _ _
  obtain ⟨x, hx, rfl⟩ := Option.map_eq_some_iff.1 ((List.getElem?_map ..).symm.trans hy)
  have hqueue : m.channel < x.queues.length := by simpa [SpineDir.unladen] using hch
  refine ⟨_, (congrArg (·.dirs[endOf m.src m.dst]?) (State.spineAt_setSpine_same ..)).trans (getElem?_modify_some hx _ _), ?_⟩
  rw [if_pos rfl]
  refine ⟨m.channel, _, getElem?_modify_some (List.getElem?_eq_getElem hqueue) _ _, ?_⟩
  rw [if_pos rfl]
  exact List.mem_concat_self

theorem State.foldl_launched {l : List SpineMsg} (h : s.carries m) (hm : m ∈ l) : (l.foldl State.launch s).launched m.src m.dst m := by
  induction l generalizing s with
  | nil => cases hm
  | cons x l ih =>
    rcases List.mem_cons.1 hm with rfl | hm
    · exact State.launched_foldl l (State.launch_launched h)
    · exact ih (State.carries_of_wires (State.launch_dies ..) (State.launch_wires ..) h) hm

/-- What is unacknowledged of the streams between two dies is launched again (R377). -/
theorem State.resend_launched (h : s.carries m) {ch x y : Nat} (hch : ch < 4) (hxy : x = a ∧ y = b ∨ x = b ∧ y = a)
    (hm : m ∈ (NMap.getD s.streams (streamKey x y ch) {}).unacked) : (s.resend a b).launched m.src m.dst m := by
  refine State.foldl_launched (State.carries_of_wires (s := s) rfl (State.mapDirs_wires s fun _ => SpineDir.unladen_of_map rfl) h) ?_
  have hflat : m ∈ (List.range 4).flatMap fun ch => (NMap.getD s.streams (streamKey x y ch) {}).unacked :=
    List.mem_flatMap.2 ⟨ch, List.mem_range.2 hch, hm⟩
  rcases hxy with ⟨rfl, rfl⟩ | ⟨rfl, rfl⟩
  · exact List.mem_append_left _ hflat
  · exact List.mem_append_right _ hflat
end

end Sys2Proof.Machine
end

section
/-! PROOF. Spine streams: how messages arrive, flits are replayed, lanes are spared, and streams return to a link that is whole again (R374, R377, R381, R384). -/

namespace Sys2Proof.Machine

/-! ### Messages arrive (R377, R382) -/

theorem State.landed_streams (s : State) (m : SpineMsg) : (s.landed m).streams = s.streams :=
  congrArg (fun v : StateView => v.state.streams) (State.landed_but (covers_among _) s m)

theorem State.forward_streams (s : State) (m : SpineMsg) : (s.forward m).streams = s.streams :=
  congrArg (fun v : StateView => v.state.streams) (State.forward_but (covers_among _) s m)

/-- The number expected is taken: it is acknowledged, and the next is expected. -/
theorem State.takeNumber_expected {s : State} {src dst ch : Nat} {n : BitVec 32} {x : Stream} (hne : src ≠ dst)
    (hx : x = NMap.getD s.streams (streamKey src dst ch) {}) (hn : n = x.expect) :
    s.takeNumber src dst ch n = some { s with streams := NMap.set s.streams (streamKey src dst ch) { x with
      expect := n + 1, nextSend := if x.nextSend = n then n + 1 else x.nextSend, unacked := x.unacked.filter (fun y => y.seqNo != n) } } := by
  subst hx
  exact (if_neg hne).trans (if_pos hn)

theorem State.takeNumber_unexpected {s : State} {src dst ch : Nat} {n : BitVec 32} (hne : src ≠ dst)
    (hn : n ≠ (NMap.getD s.streams (streamKey src dst ch) {}).expect) : s.takeNumber src dst ch n = none :=
  (if_neg hne).trans (if_neg hn)

section
variable {s : State} {m : SpineMsg} (hdrop : s.drops m.src m.kind m.unit m.gen = false) (hpath : s.path m.src m.dst = true)
include hdrop hpath

theorem execSpineMessageReceive_lastLeg (hleg : s.onFirstLeg m = false) :
    execSpineMessageReceive m s = .next (((s.takeNumber m.src m.dst m.channel m.seqNo).getD s).landed m) := by
  simp [execSpineMessageReceive, hdrop, hpath, hleg]

theorem execSpineMessageReceive_firstLeg (hleg : s.onFirstLeg m = true) : execSpineMessageReceive m s = .next (s.forward m) := by
  simp [execSpineMessageReceive, hdrop, hpath, hleg]
end

/-! ### What reports and fences leave of the links -/

theorem State.spineAt_report (s : State) (r : Report) (a b : Nat) : (s.report r).spineAt a b = s.spineAt a b :=
  State.spineAt_of_spine (congrArg (fun v : StateView => v.state.spine) (State.report_but (covers_among _) s r)) a b

theorem State.report_spineOut (s : State) (r : Report) : (s.report r).spineOut = s.spineOut :=
  congrArg (fun v : StateView => v.state.spineOut) (State.report_but (covers_among _) s r)

/-- The fence of a link outlasts what it brings with it: the paths that are lost, and the streams that move (R382, R383, R385). -/
theorem State.fenceLink_fenced {s : State} {a b : Nat} (h : (s.spineAt a b).fenced = false) :
    ((s.fenceLink a b).spineAt a b).fenced = true ∧ ((s.fenceLink a b).spineAt a b).gen = (s.spineAt a b).gen + 1 := by
  have hX := covers_among (failFields ++ wireFields ++ [.fatal, .dies, .links])
  unfold State.fenceLink
  dsimp only
  rw [h, if_neg Bool.false_ne_true]
  obtain ⟨hfenced, hgen⟩ := State.fences_kept ((State.rerouted_but (hX.mono (by decide)) _ s).trans
    ((State.settlePaths_but (hX.mono (by decide)) 8 _).trans (State.report_but (hX.mono (by decide)) _ _))) rfl a b
  rw [hfenced, hgen, State.spineAt_setSpine_same]
  exact ⟨rfl, rfl⟩

/-! ### Flit errors (R374, R381, R384) -/

/-- A flit error counts for its lane and for the row of replays; the oldest flits are replayed, until the row is too long. -/
theorem execSpineFlitCrcError_counted {s : State} {a b : Nat} (dir lane : Nat) (t : Word) (hf : (s.spineAt a b).fenced = false) :
    ∃ v : State, (v.spineAt a b).fenced = false ∧ (v.spineAt a b).gen = (s.spineAt a b).gen
      ∧ (v.spineAt a b).replays = (s.spineAt a b).replays.set dir ((s.spineAt a b).replays.getD dir 0 + 1) ∧ v.spineOut = s.spineOut
      ∧ execSpineFlitCrcError a b dir lane t s = if 9 ≤ (s.spineAt a b).replays.getD dir 0 + 1 then .next (v.fenceLink a b)
          else .next { v with spineOut := v.spineOut ++ ((s.spineAt a b).dirs.getD dir {}).replay.take 1 } := by
  refine ⟨_, ?fenced, ?gen, ?replays, ?sent, (if_neg (c := (s.spineAt a b).fenced = true) (by rw [hf]; decide)).trans rfl⟩
  case fenced =>
    rw [State.spineAt_report, State.spineAt_setSpine_same]
    exact hf
  case gen =>
    rw [State.spineAt_report, State.spineAt_setSpine_same]
    rfl
  case replays =>
    rw [State.spineAt_report, State.spineAt_setSpine_same]
    rfl
  case sent => exact State.report_spineOut ..

/-! ### Lanes (R381) -/

/-- A link that retrains keeps its new lanes while its streams move to a detour and the change is recorded. -/
theorem State.remapped_unladen (s : State) (a b : Nat) (x : SpineLink) (r : Report) :
    ((((s.setSpine a b x).rerouted s).report r).spineAt a b).unladen = x.unladen := by
  rw [State.spineAt_report]
  exact (congrFun (congrFun (State.rerouted_wires (s.setSpine a b x) s) a) b).trans (congrArg SpineLink.unladen (State.spineAt_setSpine_same ..))

section
variable {s : State} {a b dir lane : Nat} (hf : (s.spineAt a b).fenced = false) (herrs : 16 ≤ (NMap.getD ((s.spineAt a b).laneErrs.getD dir []) lane []).length)
include hf herrs

theorem execLaneRemap_spare (hspare : (s.spineAt a b).spares.getD dir 0 < 16) :
    ∃ t l, execLaneRemap a b dir lane s = .next t ∧ (t.spineAt a b).unladen = SpineLink.unladen { s.spineAt a b with
      laneErrs := l, retraining := true, spares := (s.spineAt a b).spares.modify dir (· + 1) } := by
  simp only [execLaneRemap, hf, hspare, Nat.not_lt.2 herrs, decide_false, Bool.or_self, Bool.false_eq_true, if_false, if_true]
  exact ⟨_, _, rfl, State.remapped_unladen ..⟩

theorem execLaneRemap_half (hspare : 16 ≤ (s.spineAt a b).spares.getD dir 0) (hwidth : (s.spineAt a b).width.getD dir 512 = 512) :
    ∃ t l, execLaneRemap a b dir lane s = .next t ∧ (t.spineAt a b).unladen = SpineLink.unladen { s.spineAt a b with
      laneErrs := l, retraining := true, width := (s.spineAt a b).width.set dir 256 } := by
  simp only [execLaneRemap, hf, Nat.not_lt.2 hspare, hwidth, Nat.not_lt.2 herrs, decide_false, Bool.or_self, Bool.false_eq_true, if_false, if_true]
  exact ⟨_, _, rfl, State.remapped_unladen ..⟩

theorem execLaneRemap_fence (hspare : 16 ≤ (s.spineAt a b).spares.getD dir 0) (hwidth : (s.spineAt a b).width.getD dir 512 ≠ 512) :
    execLaneRemap a b dir lane s = .next (s.fenceLink a b) := by
  simp only [execLaneRemap, hf, Nat.not_lt.2 hspare, hwidth, Nat.not_lt.2 herrs, decide_false, Bool.or_self, Bool.false_eq_true, if_false]
end

/-! ### Streams return to the direct path (R377, R381) -/

/-- A link whose retraining is done. -/
def State.retrained (s : State) (a b : Nat) : State := s.setSpine a b { s.spineAt a b with retraining := false }

section
variable {s : State} {a b : Nat}

theorem execSpineRetrainDone_retrained (hr : (s.spineAt a b).retraining = true) (hf : (s.spineAt a b).fenced = false) :
    execSpineRetrainDone a b s = .next ((s.retrained a b).rerouted s) := by
  simp [execSpineRetrainDone, hr, hf, State.retrained]

theorem State.retrained_comm (s : State) (a b : Nat) : s.retrained a b = s.retrained b a := by
  unfold State.retrained
  rw [State.setSpine_comm, State.spineAt_comm]

theorem State.retrained_wire (s : State) (a b : Nat) : (s.retrained a b).wires a b = SpineLink.unladen { s.spineAt a b with retraining := false } :=
  congrArg SpineLink.unladen (State.spineAt_setSpine_same ..)

theorem State.retrained_detour (s : State) (a b i j : Nat) : (s.retrained a b).detour i j = s.detour i j := by
  refine State.detour_of_fences (s := s) (t := s.retrained a b) rfl (fun x y => ?_) i j
  by_cases hk : linkKey x y = linkKey a b
  · rw [State.retrained, State.spineAt_setSpine_key s hk, State.spineAt_of_key s hk]
  · rw [State.retrained, State.spineAt_setSpine_ne s hk]

theorem State.retrained_hop_ne {i j : Nat} (hk : linkKey i j ≠ linkKey a b) : (s.retrained a b).hop i j = s.hop i j := by
  unfold State.hop
  rw [State.retrained_detour, State.retrained, State.spineAt_setSpine_ne s hk]

theorem State.retrained_hop (hf : (s.spineAt a b).fenced = false) : (s.retrained a b).hop a b = b := by
  refine State.hop_direct ?_
  rw [State.retrained, State.spineAt_setSpine_same]
  simp [SpineLink.direct, hf]

theorem State.hop_retraining_ne (hr : (s.spineAt a b).retraining = true) (hd : (s.detour a b).isSome = true) : s.hop a b ≠ b := by
  obtain ⟨c, hc⟩ := Option.isSome_iff_exists.1 hd
  have hdirect : (s.spineAt a b).direct = false := by simp [SpineLink.direct, hr]
  rw [State.hop, hdirect, if_neg Bool.false_ne_true, hc, Option.getD_some]
  exact State.detour_ne hc

theorem mem_diePairs {p : Nat × Nat} : p ∈ diePairs ↔ p.1 < p.2 ∧ p.2 < 8 := by
  obtain ⟨i, j⟩ := p
  simp only [diePairs, List.mem_flatMap, List.mem_map, List.mem_filter, List.mem_range, decide_eq_true_eq, Prod.mk.injEq]
  constructor
  · rintro ⟨x, -, y, ⟨hy, hxy⟩, rfl, rfl⟩
    exact ⟨hxy, hy⟩
  · rintro ⟨hij, hj⟩
    exact ⟨i, by omega, j, ⟨hj, hij⟩, rfl, rfl⟩

/-- A fold in which one element alone does anything. -/
theorem foldl_eq_once {α β : Type} {f : β → α → β} {l : List α} (hn : l.Nodup) {x : α} (hx : x ∈ l) (h : ∀ y ∈ l, y ≠ x → ∀ b, f b y = b) (b : β) :
    l.foldl f b = f b x := by
  obtain ⟨l1, l2, rfl⟩ := List.append_of_mem hx
  rw [List.nodup_middle, List.nodup_cons, List.mem_append, not_or] at hn
  obtain ⟨⟨h1, h2⟩, -⟩ := hn
  rw [List.foldl_append, List.foldl_cons, foldl_eq_start fun y hy => h y (List.mem_append_left _ hy) (fun e => h1 (e ▸ hy)) b,
    foldl_eq_start fun y hy => h y (List.mem_append_right _ (List.mem_cons_of_mem _ hy)) (fun e => h2 (e ▸ hy)) _]

/-- The streams of the retrained link alone have a new path. -/
theorem State.retrained_rerouted_lt (hab : a < b) (hb : b < 8) (hr : (s.spineAt a b).retraining = true) (hf : (s.spineAt a b).fenced = false)
    (hd : (s.detour a b).isSome = true) : (s.retrained a b).rerouted s = (s.retrained a b).resend a b := by
  refine (foldl_eq_once (x := (a, b)) (by decide) (mem_diePairs.2 ⟨hab, hb⟩) (fun p hp hne z => if_pos (State.retrained_hop_ne fun hk => hne ?_)) _).trans (if_neg ?_)
  · obtain ⟨hp, hp8⟩ := mem_diePairs.1 hp
    obtain ⟨h1, h2⟩ := (linkKey_inj hab hb hp hp8).1 hk
    exact Prod.ext h1 h2
  · rw [State.retrained_hop hf]
    exact (State.hop_retraining_ne hr hd).symm

theorem State.retrained_rerouted (hne : a ≠ b) (ha : a < 8) (hb : b < 8) (hr : (s.spineAt a b).retraining = true) (hf : (s.spineAt a b).fenced = false)
    (hd : (s.detour a b).isSome = true) :
    ∃ x y, (a = x ∧ b = y ∨ a = y ∧ b = x) ∧ (s.retrained a b).rerouted s = (s.retrained a b).resend x y := by
  rcases Nat.lt_or_gt_of_ne hne with hab | hab
  · exact ⟨a, b, .inl ⟨rfl, rfl⟩, State.retrained_rerouted_lt hab hb hr hf hd⟩
  · rw [State.spineAt_comm] at hr hf
    rw [State.detour_comm] at hd
    rw [State.retrained_comm]
    exact ⟨b, a, .inr ⟨rfl, rfl⟩, State.retrained_rerouted_lt hab ha hr hf hd⟩

theorem endOf_lt (a b : Nat) : endOf a b < 2 := by
  unfold endOf
  split <;> decide

/-- A retrained link carries the messages of its streams again. -/
theorem State.retrained_carries {m : SpineMsg} (hf : (s.spineAt a b).fenced = false) (hdirs : (s.spineAt a b).dirs.length = 2)
    (hqueues : ∀ d ∈ (s.spineAt a b).dirs, d.queues.length = 4) (hsrc : m.src = a) (hdst : m.dst = b) (hch : m.channel < 4) : (s.retrained a b).carries m := by
  subst hsrc hdst
  have hend : endOf m.src m.dst < (s.spineAt m.src m.dst).dirs.length := hdirs.symm ▸ endOf_lt ..
  refine ⟨State.retrained_hop hf, _, (congrArg (·.dirs[endOf m.src m.dst]?) (State.retrained_wire s m.src m.dst)).trans
    ((List.getElem?_map ..).trans (congrArg _ (List.getElem?_eq_getElem hend))), ?_⟩
  rw [SpineDir.unladen, List.length_map, hqueues _ (List.getElem_mem hend)]
  exact hch

theorem State.launched_waits {m : SpineMsg} (h : s.launched a b m) : m ∈ s.spineOut ∨ ∃ q ∈ ((s.spineAt a b).dirs.getD (endOf a b) {}).queues, m ∈ q := by
  refine h.imp id fun ⟨x, hx, ch, q, hq, hm⟩ => ⟨q, ?_, hm⟩
  rw [List.getD_eq_getElem?_getD, hx, Option.getD_some]
  exact List.mem_of_getElem? hq
end

/-! ### The statement -/

/-- Settles O39: messages arrive in the order of their stream, a flit error is replayed until its row fences the link, a bad lane takes what is left of the
link, and of the pairs of dies the retrained one alone has a new path, on which its messages are launched again. -/
theorem spineStreamsRun : Obligations.SpineStreamsRun := by
  unfold Obligations.SpineStreamsRun
  refine ⟨fun s m x hdrop hpath hne hleg hx => ⟨fun hn => ?accepted, fun hn => ?refused⟩, fun s m hdrop hpath hleg => ?forwarded,
    fun s a b dir lane t hf hdir hlen => ?errors, fun s a b dir lane hf herrs hspares hwidths => ?lanes, fun s a b hr hf ha hb hne => ?returns⟩
  case accepted =>
    refine ⟨_, execSpineMessageReceive_lastLeg hdrop hpath hleg, ?_⟩
    rw [State.landed_streams, State.takeNumber_expected hne hx hn, Option.getD_some, NMap.getD_set_same, hn]
  case refused =>
    refine ⟨_, execSpineMessageReceive_lastLeg hdrop hpath hleg, ?_⟩
    rw [State.landed_streams, State.takeNumber_unexpected hne (hx ▸ hn), Option.getD_none]
  case forwarded => exact ⟨_, execSpineMessageReceive_firstLeg hdrop hpath hleg, State.forward_streams s m⟩
  case errors =>
    obtain ⟨v, hfenced, hgen, hreplays, hout, he⟩ := execSpineFlitCrcError_counted dir lane t hf
    refine ⟨fun hlt => ⟨_, he.trans (if_neg (by omega)), ?_, hfenced, congrArg (· ++ _) hout⟩, fun hle => ⟨_, he.trans (if_pos (by omega)), ?_⟩⟩
    · exact (congrArg (·.getD dir 0) hreplays).trans (getD_set_same _ _ _ _ (hlen.symm ▸ hdir))
    · obtain ⟨hcut, hnew⟩ := State.fenceLink_fenced hfenced
      exact ⟨hcut, by rw [hnew, hgen]⟩
  case lanes =>
    have hwidth : (s.spineAt a b).width.getD dir 512 = (s.spineAt a b).width.getD dir 0 := by
      rw [List.getD_eq_getElem _ _ hwidths, List.getD_eq_getElem _ _ hwidths]
    by_cases hspare : (s.spineAt a b).spares.getD dir 0 < 16
    · obtain ⟨u, l, he, hlink⟩ := execLaneRemap_spare hf herrs hspare
      refine ⟨_, he, fun _ => ⟨?_, congrArg SpineLink.retraining hlink, (congrArg SpineLink.width hlink :), (congrArg SpineLink.fenced hlink).trans hf⟩,
        fun h => absurd hspare (Nat.not_lt.2 h), fun h => absurd hspare (Nat.not_lt.2 h)⟩
      refine (congrArg (·.spares.getD dir 0) hlink).trans ?_
      simp [SpineLink.unladen, List.getD_eq_getElem?_getD, hspares]
    · rw [Nat.not_lt] at hspare
      by_cases hw : (s.spineAt a b).width.getD dir 0 = 512
      · obtain ⟨u, l, he, hlink⟩ := execLaneRemap_half hf herrs hspare (hwidth.trans hw)
        refine ⟨_, he, fun h => absurd h (Nat.not_lt.2 hspare), fun _ _ => ⟨?_, congrArg SpineLink.retraining hlink, (congrArg SpineLink.fenced hlink).trans hf⟩,
          fun _ h => absurd hw h⟩
        exact (congrArg (·.width.getD dir 0) hlink).trans (getD_set_same _ _ _ _ hwidths)
      · exact ⟨_, execLaneRemap_fence hf herrs hspare (hwidth ▸ hw), fun h => absurd h (Nat.not_lt.2 hspare), fun _ h => absurd h hw,
          fun _ _ => (State.fenceLink_fenced hf).1⟩
  case returns =>
    have hlink := (congrFun (congrFun (State.rerouted_wires (s.retrained a b) s) a) b).trans (State.retrained_wire s a b)
    refine ⟨_, execSpineRetrainDone_retrained hr hf, congrArg SpineLink.retraining hlink, (congrArg SpineLink.fenced hlink).trans hf,
      fun hd hdirs hqueues ch hch m hm hsrc hdst hchan => ?_⟩
    obtain ⟨x, y, hxy, he⟩ := State.retrained_rerouted hne ha hb hr hf hd
    have hlaunched := State.resend_launched (State.retrained_carries hf hdirs hqueues hsrc hdst (hchan.symm ▸ hch)) hch hxy hm
    rw [hsrc, hdst, ← he] at hlaunched
    exact State.launched_waits hlaunched

end Sys2Proof.Machine
end

section
/-! PROOF. The units of the dies: what is read of a quire after it or its die is written, and what every change of caches, stores and records leaves of it (R384, R385). -/

namespace Sys2Proof.Machine

/-! ### The counts of the part -/

section
variable {s : State} (hs : s.shapeOk)
include hs

theorem State.dies_length : s.dies.length = 8 := by
  obtain ⟨-, h, -⟩ := hs
  exact h

theorem State.links_length : s.links.length = 8 := by
  obtain ⟨-, -, h, -⟩ := hs
  exact h

theorem State.quires_length {d : Nat} (hd : d < 8) : (s.dieAt d).quires.length = 100 := by
  obtain ⟨-, hdies, -, -, -, -, -, -, -, -, hall⟩ := hs
  have hlt : d < s.dies.length := hdies.symm ▸ hd
  obtain ⟨hq, -⟩ := hall _ (List.getElem_mem hlt)
  rw [State.dieAt, List.getD_eq_getElem _ _ hlt, hq]

theorem State.dieAt_setDie_ok {d : Nat} (hd : d < 8) (x : DieState) : (s.setDie d x).dieAt d = x :=
  State.dieAt_setDie_same s d x ((State.dies_length hs).symm ▸ hd)

theorem State.quireAt_setQuire_ok {d p : Nat} (hd : d < 8) (hp : p < 100) (q : Quire) : (s.setQuire d p q).quireAt d p = q :=
  (congrArg (·.quires.getD p {}) (State.dieAt_setDie_ok hs hd _)).trans (getD_set_same _ _ _ _ ((State.quires_length hs hd).symm ▸ hp))
end

/-! ### Dies that agree in their units -/

/-- A quire without its accumulator tiles. -/
def Quire.tileless (q : Quire) : Quire := { q with tiles := [] }

/-- What of a die its units are: all that lasts, without its staging. -/
def DieState.units (x : DieState) : DieState := { x.lasting with staging := [] }

section
variable {s t : State} (h : SameUnits s t)
include h

theorem State.dieAt_units (d : Nat) : (t.dieAt d).units = (s.dieAt d).units := by
  have hd : (t.dies.map DieState.units).getD d (DieState.units {}) = (s.dies.map DieState.units).getD d (DieState.units {}) :=
    (congrArg (fun l : List DieState => l.getD d (DieState.units {})) h :)
  rwa [List.getD_map, List.getD_map] at hd

theorem State.die_fenced_of_units (d : Nat) : (t.dieAt d).fenced = (s.dieAt d).fenced := (congrArg DieState.fenced (State.dieAt_units h d) :)

theorem State.quire_of_units (d p : Nat) : (t.quireAt d p).tileless = (s.quireAt d p).tileless := by
  have hq : ((t.dieAt d).quires.map Quire.tileless).getD p (Quire.tileless {}) = ((s.dieAt d).quires.map Quire.tileless).getD p (Quire.tileless {}) :=
    (congrArg (fun x : DieState => x.quires.getD p (Quire.tileless {})) (State.dieAt_units h d) :)
  rwa [List.getD_map, List.getD_map] at hq
end

end Sys2Proof.Machine
end

section
/-! PROOF. Himon's watch: probes and their answers, misses, fences and spares of quires, and the heartbeats of links (R384 to R386). -/

namespace Sys2Proof.Machine

/-! ### Probes and answers of quires (R384) -/

section
variable {s : State} {die p : Nat} {t : Word}

theorem execQuireProbe_opens (hboot : s.boot = .ready) (hf : (s.dieAt die).fenced = false) (htick : ((s.reach die t).counter die).toNat % 10000 = 0) :
    execQuireProbe die t s = .next ((s.reach die t).setDie die { s.dieAt die with
      quires := ((s.dieAt die).quires.zipIdx).map (fun x =>
        if s.probed die x.2 && x.1.answered then { x.1 with answered := false, probedAt := (s.reach die t).counter die } else x.1) }) := by
  refine if_neg ?_
  rintro (h | h | h)
  · exact h hboot
  · exact Bool.false_ne_true (hf.symm.trans h)
  · exact h htick

theorem execProbeAnswer_valid (hp : p < 100) (hf : (s.quireAt die p).fenced = false) :
    execProbeAnswer die p (s.quireAt die p).gen.toNat s = .next (s.setQuire die p { s.quireAt die p with answered := true, misses := 0 }) := by
  simp [execProbeAnswer, hf, hp]

/-- A quire that is probed is whole. -/
theorem State.fenced_of_probed (h : s.probed die p = true) : (s.quireAt die p).fenced = false := by
  simp only [State.probed, Bool.and_eq_true, Bool.not_eq_true'] at h
  obtain ⟨⟨hf, -⟩, -⟩ := h
  exact hf

/-- An interval that ends with no answer is a miss, and the third in a row a fence. -/
theorem execHeartbeatMiss_quire (hprobed : s.probed die p = true) (ha : (s.quireAt die p).answered = false)
    (hdue : 10000 ≤ ((s.reach die t).counter die - (s.quireAt die p).probedAt).toNat) :
    execHeartbeatMiss die 0 p t s = if 3 ≤ (s.quireAt die p).misses + 1 then .next ((s.reach die t).fenceQuire die p)
      else .next ((s.reach die t).setQuire die p { s.quireAt die p with misses := (s.quireAt die p).misses + 1, probedAt := (s.reach die t).counter die }) := by
  refine if_neg (c := ((s.quireAt die p).fenced || (s.quireAt die p).answered || !(s.probed die p)
    || decide (((s.reach die t).counter die - (s.quireAt die p).probedAt).toNat < 10000)) = true) ?_
  simp only [State.fenced_of_probed hprobed, ha, hprobed, Nat.not_lt.2 hdue, Bool.not_true, decide_false, Bool.or_self, Bool.false_eq_true, not_false_eq_true]

/-! ### Fences of quires (R385, R386) -/

/-- A quire as its fence marks it, before the commands that hold units of work on it are killed. -/
def State.markFenced (s : State) (d p : Nat) : State :=
  s.setQuire d p { s.quireAt d p with fenced := true, gen := (s.quireAt d p).gen + 1, misses := 0, acksDue := true }

theorem State.fenceQuire_marked {X : Field → Bool} (hX : Covers X (reportFields ++ [.fresh, .subs, .cmds, .progress, .parts, .stores]))
    (hf : (s.quireAt die p).fenced = false) : (s.fenceQuire die p).but X = (s.markFenced die p).but X := by
  unfold State.fenceQuire
  dsimp only
  rw [hf, if_neg Bool.false_ne_true]
  refine (foldl_but _ _ _ fun a c => ?_).trans (State.report_but (hX.mono (by decide)) _ _)
  refine (State.withCmd_but _ _ _ fun x => ?_).trans (State.killCmd_but (hX.mono (by decide)) a _ _)
  exact State.setCmd_but (hX.mono (by decide)) _ _ _

/-- The fence of a quire outlasts the kills it brings with it. -/
theorem State.fenceQuire_fenced (hs : s.shapeOk) (hdie : die < 8) (hp : p < 100) (hf : (s.quireAt die p).fenced = false) :
    ((s.fenceQuire die p).quireAt die p).fenced = true ∧ ((s.fenceQuire die p).quireAt die p).gen = (s.quireAt die p).gen + 1
      ∧ ((s.fenceQuire die p).quireAt die p).acksDue = true := by
  have hq := State.quire_of_units (State.units_kept (State.fenceQuire_marked (covers_among _) hf) rfl) die p
  rw [State.markFenced, State.quireAt_setQuire_ok hs hdie hp] at hq
  exact ⟨(congrArg Quire.fenced hq :), (congrArg Quire.gen hq :), (congrArg Quire.acksDue hq :)⟩

/-- Which spares are free does not turn on acknowledgements. -/
theorem DieState.spares_acked (x : DieState) (p : Nat) (due : Bool) :
    DieState.spares { x with quires := x.quires.set p { x.quires.getD p {} with acksDue := due } } = x.spares := by
  refine List.filter_congr fun j _ => ?_
  have hkept : ∀ f : Quire → Bool, f { x.quires.getD p {} with acksDue := due } = f (x.quires.getD p {}) →
      f ((x.quires.set p { x.quires.getD p {} with acksDue := due }).getD j {}) = f (x.quires.getD j {}) := fun f hf => by
    have hmap := map_set_of_getD f x.quires p _ {} hf
    exact (List.getD_map ..).symm.trans ((congrArg (·.getD j (f {})) hmap).trans (List.getD_map ..))
  rw [hkept Quire.fenced rfl, hkept Quire.failed rfl]

/-- The die of a fenced quire, once all ports have acknowledged. -/
theorem State.dieAt_reassigned (hs : s.shapeOk) (hdie : die < 8) (p : Nat) (q : Quire) :
    ((s.setQuire die p q).setDie die (((s.setQuire die p q).dieAt die).reassign p)).dieAt die
      = DieState.reassign { s.dieAt die with quires := (s.dieAt die).quires.set p q } p := by
  have hlen : die < (s.setQuire die p q).dies.length := by
    rw [State.setQuire, State.setDie, List.length_set, State.dies_length hs]
    exact hdie
  rw [State.dieAt_setDie_same _ _ _ hlen, State.setQuire, State.dieAt_setDie_ok hs hdie]

theorem execFenceAcksComplete_quire (hdue : (s.quireAt die p).acksDue = true) :
    execFenceAcksComplete die 0 p s = .next ((s.setQuire die p { s.quireAt die p with acksDue := false }).setDie die
      (((s.setQuire die p { s.quireAt die p with acksDue := false }).dieAt die).reassign p)) := by
  simp [execFenceAcksComplete, hdue]

end

/-! ### Heartbeats of links (R384) -/

section
variable {s : State} {die far : Nat} {t : Word} (hf : (s.spineAt die far).fenced = false) (hne : die ≠ far)
include hf hne

theorem execSpineHeartbeatSend_sends (hdie : (s.dieAt die).fenced = false) (hr : (s.spineAt die far).retraining = false)
    (htick : ((s.reach die t).counter die).toNat % 1000 = 0) : execSpineHeartbeatSend die far t s = .next ((s.reach die t).sendMsg
      { src := die, dst := far, channel := 0, kind := 1, unit := far, gen := (s.spineAt die far).gen.toNat, size := 32 }) := by
  have hdirect : (s.spineAt die far).direct = true := by simp [SpineLink.direct, hf, hr]
  refine if_neg ?_
  rintro (h | h | h | h)
  · exact Bool.false_ne_true (hdie.symm.trans h)
  · exact Bool.false_ne_true ((Bool.not_eq_true' _ ▸ h : (s.spineAt die far).direct = false).symm.trans hdirect)
  · exact hne h
  · exact h htick

theorem execSpineHeartbeatReceive_valid : execSpineHeartbeatReceive die far (s.spineAt die far).gen.toNat s = .next (s.setSpine die far { s.spineAt die far with
    heard := (s.spineAt die far).heard.set (endOf die far) true, since := (s.spineAt die far).since.set (endOf die far) (s.counter die),
    misses := (s.spineAt die far).misses.set (endOf die far) 0 }) := by
  simp [execSpineHeartbeatReceive, hf, hne]

theorem execHeartbeatMiss_link (hr : (s.spineAt die far).retraining = false)
    (hdue : 1000 ≤ ((s.reach die t).counter die - (s.spineAt die far).since.getD (endOf die far) 0).toNat)
    (hheard : (s.spineAt die far).heard.getD (endOf die far) true = false) (hthird : 3 ≤ (s.spineAt die far).misses.getD (endOf die far) 0 + 1) :
    execHeartbeatMiss die 1 far t s = .next ((s.reach die t).fenceLink die far) := by
  refine (if_neg (c := (s.spineAt die far).fenced = true ∨ (s.spineAt die far).retraining = true ∨ die = far
    ∨ ((s.reach die t).counter die - (s.spineAt die far).since.getD (endOf die far) 0).toNat < 1000) ?_).trans
    ((if_neg (c := (s.spineAt die far).heard.getD (endOf die far) true = true) ?_).trans (if_pos hthird))
  · rintro (h | h | h | h)
    · exact Bool.false_ne_true (hf.symm.trans h)
    · exact Bool.false_ne_true (hr.symm.trans h)
    · exact hne h
    · exact Nat.not_lt.2 hdue h
  · rw [hheard]
    exact Bool.false_ne_true
end

end Sys2Proof.Machine
end

section
/-! PROOF. UNIT_RETURN and its self-test (R389, R390). -/

namespace Sys2Proof.Machine

theorem State.startCmd_started {s : State} {id : Nat} {c : Cmd} (hc : s.cmd? id = some c) (hp : c.phase = .admitted) :
    ∃ d, (s.startCmd id).cmd? id = some d ∧ d.phase = .started := by
  unfold State.startCmd
  rw [hc]
  dsimp only
  rw [if_pos hp]
  exact ⟨_, State.cmd?_setCmd_same .., rfl⟩

section
variable {s : State} {id : Nat} {c : Cmd} (h : Live s id 0x4F c)
include h

/-! ### The command (R389) -/

section
variable (hp : c.phase = .admitted) (hfirst : ∀ x ∈ s.cmds, x.1 < id → x.2.opcode = 0x4F → x.2.returnUnit ≠ c.returnUnit)
include hp hfirst

/-- With no earlier one for its unit, UNIT_RETURN is judged. -/
theorem execUnitReturn_first : execUnitReturn id s = .next (if !(s.unitFenced (c.f 16 1) (c.f 17 1) (c.f 18 1)) then s.settle id (.error (E_UNIT_STATE, 1))
    else if (s.dieAt (c.f 16 1)).fenced then s.settle id (.error (E_UNIT_STATE, 2))
    else if c.f 17 1 = 0 then (s.startCmd id).setQuire (c.f 16 1) (c.f 18 1) { (s.startCmd id).quireAt (c.f 16 1) (c.f 18 1) with tiles := List.replicate 12 none }
    else s.startCmd id) := by
  refine congrArg Host.Outcome.next ((control_live h (by simp [hp]) _).trans (if_neg ?_))
  simp only [List.any_eq_true, Bool.and_eq_true, decide_eq_true_eq, beq_iff_eq]
  rintro ⟨x, hx, ⟨hlt, hop⟩, hunit⟩
  exact hfirst x hx hlt hop hunit

theorem execUnitReturn_starts (hf : s.unitFenced (c.f 16 1) (c.f 17 1) (c.f 18 1) = true) (hdie : (s.dieAt (c.f 16 1)).fenced = false) :
    ∃ t d, execUnitReturn id s = .next t ∧ t.cmd? id = some d ∧ d.phase = .started := by
  have ⟨_, hc, _⟩ := h
  obtain ⟨d, hd, hphase⟩ := State.startCmd_started hc hp
  refine ⟨_, d, execUnitReturn_first h hp hfirst, ?_, hphase⟩
  rw [hf, hdie]
  simp only [Bool.not_true, Bool.false_eq_true, if_false]
  split
  · exact hd
  · exact hd
end

/-! ### The verdict (R390) -/

section
variable (hp : c.phase = .started)
include hp

theorem execSelfTestDone_fails {v : Nat} (hv : v ≠ 0) : execSelfTestDone id v s = .next (s.failCmd id E_SELF_TEST v) :=
  congrArg Host.Outcome.next ((control_live h (by simp [hp]) _).trans (if_pos hv))

/-- A quire that passes leaves the fence with a new generation. -/
def State.quireReturned (s : State) (d p : Nat) : State :=
  s.setQuire d p { s.quireAt d p with fenced := false, gen := (s.quireAt d p).gen + 1, misses := 0, answered := true }

theorem execSelfTestDone_quire (hkind : c.f 17 1 = 0) : execSelfTestDone id 0 s = .next (((s.quireReturned (c.f 16 1) (c.f 18 1)).setDie (c.f 16 1)
    (((s.quireReturned (c.f 16 1) (c.f 18 1)).dieAt (c.f 16 1)).restore (c.f 18 1))).finish id OK ((s.quireAt (c.f 16 1) (c.f 18 1)).gen + 1).toNat) :=
  congrArg Host.Outcome.next ((control_live h (by simp [hp]) _).trans ((if_neg (fun e => e rfl)).trans (if_pos hkind)))

/-- A link that passes leaves the fence with a new generation, whatever its lanes allow. -/
theorem execSelfTestDone_link (hkind : c.f 17 1 ≠ 0) :
    ∃ x : SpineLink, x.fenced = false ∧ x.gen = (s.spineAt (c.f 16 1) (c.f 18 1)).gen + 1
      ∧ execSelfTestDone id 0 s = .next (((s.takeFresh.setSpine (c.f 16 1) (c.f 18 1) x).rerouted s).finish id OK
          ((s.spineAt (c.f 16 1) (c.f 18 1)).gen + 1).toNat) :=
  ⟨_, rfl, rfl, congrArg Host.Outcome.next ((control_live h (by simp [hp]) _).trans ((if_neg (fun e => e rfl)).trans (if_neg hkind)))⟩
end
end

theorem DieState.restore_quires (x : DieState) (p : Nat) : (x.restore p).quires = x.quires := by
  unfold DieState.restore
  split <;> rfl

/-- The record of a return leaves the quire as the test gave it back. -/
theorem State.quireAt_returned {s : State} (hs : s.shapeOk) {d p : Nat} (hd : d < 8) (hp : p < 100) (id st dt : Nat) :
    ((((s.quireReturned d p).setDie d (((s.quireReturned d p).dieAt d).restore p)).finish id st dt).quireAt d p).fenced = false
      ∧ ((((s.quireReturned d p).setDie d (((s.quireReturned d p).dieAt d).restore p)).finish id st dt).quireAt d p).gen = (s.quireAt d p).gen + 1 := by
  have hq := State.quire_of_units (State.units_kept (State.finish_but (covers_among _)
    ((s.quireReturned d p).setDie d (((s.quireReturned d p).dieAt d).restore p)) id st dt) rfl) d p
  have hlen : d < (s.quireReturned d p).dies.length := by
    rw [State.quireReturned, State.setQuire, State.setDie, List.length_set, State.dies_length hs]
    exact hd
  have hset : ((s.quireReturned d p).setDie d (((s.quireReturned d p).dieAt d).restore p)).quireAt d p
      = { s.quireAt d p with fenced := false, gen := (s.quireAt d p).gen + 1, misses := 0, answered := true } := by
    rw [State.quireAt, State.dieAt_setDie_same _ _ _ hlen, DieState.restore_quires]
    exact State.quireAt_setQuire_ok hs hd hp _
  rw [hset] at hq
  exact ⟨(congrArg Quire.fenced hq :), (congrArg Quire.gen hq :)⟩

/-- The streams that move and the record of a return leave the link as the test gave it back. -/
theorem State.spineAt_returned (s old : State) (a b : Nat) (x : SpineLink) (id st dt : Nat) :
    ((((s.setSpine a b x).rerouted old).finish id st dt).spineAt a b).fenced = x.fenced
      ∧ ((((s.setSpine a b x).rerouted old).finish id st dt).spineAt a b).gen = x.gen := by
  have hX := covers_among (recordFields ++ wireFields)
  have h := State.fences_kept ((State.finish_but (hX.mono (by decide)) ((s.setSpine a b x).rerouted old) id st dt).trans
    (State.rerouted_but (hX.mono (by decide)) _ old)) rfl a b
  rwa [State.spineAt_setSpine_same] at h

end Sys2Proof.Machine
end

section
/-! PROOF. The loss of a die: its fence and the fall of its link outlast all that follows, and die 0 takes the part with it (R383, R534, R542, R545). -/

namespace Sys2Proof.Machine

/-! ### A die other than die 0 -/

/-- A die is cut off: it is fenced, and its link is down. -/
def State.lost (s : State) (d : Nat) : Prop := (s.dieAt d).fenced = true ∧ (s.linkAt d).down = true

theorem State.lost_of_but {X : Field → Bool} {s t : State} (h : t.but X = s.but X) (hdies : X .dies = false) (hlinks : X .links = false) {d : Nat} (hl : s.lost d) :
    t.lost d := by
  have hl' : t.links = s.links := (congrArg State.links (State.eq_take h)).trans (cond_eq_right hlinks _ _)
  unfold State.lost at *
  rwa [State.die_fenced_of_units (State.units_kept h hdies), State.linkAt_of_links hl']

/-- A die as its fence cuts it off, before its objects, partitions and commands follow (R383, R542). -/
def State.cutDie (s : State) (d : Nat) : State :=
  let u := (s.setDie d { s.dieAt d with fenced := true }).report { origin := originId d 0x0C 0, cls := 0x11, reporter := originId 0 0x0C 0 }
  u.setLink d { u.linkAt d with trained := false, down := true }

theorem State.fenceDie_cut {X : Field → Bool} (hX : Covers X failFields) {s : State} {d : Nat} (hd : d ≠ 0) (hf : (s.dieAt d).fenced = false) (origin : Nat) :
    (s.fenceDie d origin).but X = (s.cutDie d).but X := by
  unfold State.fenceDie
  rw [if_neg hd, hf, if_neg Bool.false_ne_true]
  dsimp only
  refine (foldl_but _ _ _ fun a c => State.failRun_but hX a _ _ _).trans ?_
  rw [State.commitWithout_but (hX.mono (by decide)), State.quarantineDie_but hX]
  exact State.objects_contents (hX.mono (by decide)) _ _ fun k => get?_mapObjects_stamp _ _ _ fun o => by split <;> exact ⟨rfl, rfl⟩

section
variable {s : State} {d e : Nat}

theorem State.report_units (s : State) (r : Report) : SameUnits s (s.report r) := State.units_kept (State.report_but (covers_among _) s r) rfl

theorem State.report_links (s : State) (r : Report) : (s.report r).links = s.links :=
  congrArg (fun v : StateView => v.state.links) (State.report_but (covers_among _) s r)

theorem State.cutDie_lost (hdies : d < s.dies.length) (hlinks : d < s.links.length) : (s.cutDie d).lost d := by
  refine ⟨?_, ?_⟩
  · refine (State.die_fenced_of_units (State.report_units (s.setDie d _) _) d).trans ?_
    rw [State.dieAt_setDie_same _ _ _ hdies]
  · refine congrArg Link.down (State.linkAt_setLink_same _ d _ ?_)
    rw [State.report_links]
    exact hlinks

theorem State.lost_cutDie (hl : s.lost d) (hne : d ≠ e) : (s.cutDie e).lost d := by
  obtain ⟨hfenced, hdown⟩ := hl
  refine ⟨?_, ?_⟩
  · refine (State.die_fenced_of_units (State.report_units (s.setDie e _) _) d).trans ?_
    rw [State.dieAt_setDie_ne _ _ hne, hfenced]
  · refine (congrArg Link.down ((State.linkAt_setLink_ne _ _ hne).trans (State.linkAt_of_links (State.report_links ..) d))).trans hdown

/-- A die that is lost stays so when another is fenced. -/
theorem State.lost_fenceDie (hl : s.lost d) (e origin : Nat) : (s.fenceDie e origin).lost d := by
  by_cases he : e = 0
  · rw [State.fenceDie, if_pos he]
    exact State.lost_of_but (State.enterFatal_but (covers_among _) s _) rfl rfl hl
  by_cases hf : (s.dieAt e).fenced = true
  · rwa [State.fenceDie, if_neg he, if_pos hf]
  · have ⟨hlost, _⟩ := hl
    have hne : d ≠ e := fun h => hf (h ▸ hlost)
    exact State.lost_of_but (State.fenceDie_cut (covers_among _) he (Bool.eq_false_iff.2 hf) origin) rfl rfl (State.lost_cutDie hl hne)

theorem State.lost_checkPair (hl : s.lost d) (a b : Nat) : (s.checkPair a b).lost d := by
  unfold State.checkPair
  split
  · exact hl
  · exact State.lost_fenceDie hl _ _

theorem State.lost_settlePaths (hl : s.lost d) (fuel : Nat) : (State.settlePaths fuel s).lost d := by
  induction fuel generalizing s with
  | zero => exact hl
  | succ fuel ih =>
    unfold State.settlePaths
    split
    · exact ih (State.lost_checkPair hl _ _)
    · exact hl

theorem State.loseDie_lost (hd : d ≠ 0) (hf : (s.dieAt d).fenced = false) (hdies : d < s.dies.length) (hlinks : d < s.links.length) (origin : Nat) :
    (s.loseDie d origin).lost d :=
  State.lost_of_but (State.rerouted_but (covers_among _) _ s) rfl rfl (State.lost_settlePaths
    (State.lost_of_but (State.fenceDie_cut (covers_among _) hd hf origin) rfl rfl (State.cutDie_lost hdies hlinks)) 8)
end

/-- A report of what ails a die does not save it. -/
theorem State.reported_loseDie_lost {s : State} (hs : s.shapeOk) {d : Nat} (h0 : 0 < d) (hd : d < 8) (hf : (s.dieAt d).fenced = false) (r : Report) (origin : Nat) :
    ((s.report r).loseDie d origin).lost d := by
  have hshape : (s.report r).shapeOk := by rwa [State.shapeOk_iff, State.report_shape, ← State.shapeOk_iff]
  exact State.loseDie_lost (Nat.ne_of_gt h0) ((State.die_fenced_of_units (State.report_units s r) d).trans hf) ((State.dies_length hshape).symm ▸ hd)
    ((State.links_length hshape).symm ▸ hd) origin

/-! ### Die 0 -/

theorem State.enterFatal_fatal (s : State) (origin : Nat) : (s.enterFatal origin).fatal = true := by
  unfold State.enterFatal
  split
  · assumption
  · exact State.fatal_kept (State.report_but (covers_among _) { s with fatal := true } _) rfl

/-- A fatal part fences no die more. -/
theorem State.settlePaths_fatal {s : State} (h : s.fatal = true) (fuel : Nat) : State.settlePaths fuel s = s := by
  cases fuel with
  | zero => rfl
  | succ fuel =>
    unfold State.settlePaths
    split
    · next p hp =>
      have hfound := List.find?_some hp
      rw [h] at hfound
      cases hfound
    · rfl

theorem State.loseDie_zero_fatal (s : State) (origin : Nat) : (s.loseDie 0 origin).fatal = true := by
  have hf : (s.fenceDie 0 origin).fatal = true := State.enterFatal_fatal s _
  unfold State.loseDie
  rw [State.settlePaths_fatal hf]
  exact (State.fatal_kept (State.rerouted_but (covers_among _) _ s) rfl).trans hf

/-! ### The statement -/

/-- Settles O40: each event is its one change of a unit, and what a fence, a return or the loss of a die brings with it leaves that change as it is. -/
theorem unitsAreWatchedLostAndReturned : Obligations.UnitsAreWatchedLostAndReturned := by
  unfold Obligations.UnitsAreWatchedLostAndReturned
  refine ⟨⟨fun s die p t hs hboot hdie hf hp htick => ?probe, fun s die p hs hdie hp hf => ?answer, fun s die p t hs hdie hp hprobed ha hdue => ?miss,
      fun s die p hs hdie hp hdue => ?acks, fun s die far t hdie hf hne => ⟨fun hr htick => ?send, ?receive, fun hr hdue hheard hthird => ?linkMiss⟩⟩,
    fun s id c h hp hfirst => ⟨execUnitReturn_starts h hp hfirst, fun hf => ?notFenced, fun hf hdie => ?dieFenced⟩,
    fun s id v c h hp => ⟨execSelfTestDone_fails h hp, fun hkind hs hdie hunit => ?quire, fun hkind => ?link⟩,
    fun s die hs h0 hdie hf => ⟨⟨_, rfl, State.reported_loseDie_lost hs h0 hdie hf _ _⟩, _, rfl, State.reported_loseDie_lost hs h0 hdie hf _ _⟩,
    fun s => ⟨⟨_, rfl, State.loseDie_zero_fatal ..⟩, _, rfl, State.loseDie_zero_fatal ..⟩⟩
  case probe =>
    have hlt : p < (s.dieAt die).quires.length := (State.quires_length hs hdie).symm ▸ hp
    refine ⟨_, execQuireProbe_opens hboot hf htick, ?_⟩
    refine (congrArg (·.quires.getD p {}) (State.dieAt_setDie_same _ die _ ((State.dies_length hs).symm ▸ hdie))).trans ?_
    rw [List.getD_eq_getElem?_getD, getElem?_map_zipIdx, State.quireAt, List.getD_eq_getElem?_getD, List.getElem?_eq_getElem hlt]
    exact if_congr (Bool.and_eq_true ..).to_iff rfl rfl
  case answer => exact ⟨_, execProbeAnswer_valid hp hf, State.quireAt_setQuire_ok hs hdie hp _⟩
  case miss =>
    have hshape : (s.reach die t).shapeOk := by rwa [State.shapeOk_iff, State.reach_shape, ← State.shapeOk_iff]
    have he := execHeartbeatMiss_quire hprobed ha hdue
    by_cases hthird : 3 ≤ (s.quireAt die p).misses + 1
    · exact ⟨_, he.trans (if_pos hthird), fun h => absurd hthird (Nat.not_le.2 h),
        fun _ => State.fenceQuire_fenced hshape hdie hp (State.fenced_of_probed hprobed)⟩
    · exact ⟨_, he.trans (if_neg hthird), fun _ => State.quireAt_setQuire_ok hshape hdie hp _, fun h => absurd h hthird⟩
  case acks =>
    have hd := State.dieAt_reassigned hs hdie p { s.quireAt die p with acksDue := false }
    refine ⟨_, execFenceAcksComplete_quire hdue, (congrArg (fun x : DieState => (x.quires.getD p {}).acksDue) hd).trans ?_, (congrArg DieState.logical hd).trans ?_⟩
    · exact congrArg Quire.acksDue (getD_set_same _ _ _ _ ((State.quires_length hs hdie).symm ▸ hp))
    · exact congrArg (fun l : List Nat => (s.dieAt die).logical.map fun x => if x = some p then l.head? else x) (DieState.spares_acked (s.dieAt die) p false)
  case send =>
    exact ⟨_, execSpineHeartbeatSend_sends hf hne hdie hr htick, sentMsg_congr (u := s.reach die t) rfl (State.sendMsg_sent ..)⟩
  case receive => exact ⟨_, execSpineHeartbeatReceive_valid hf hne, State.spineAt_setSpine_same ..⟩
  case linkMiss =>
    obtain ⟨hfenced, -⟩ := State.fenceLink_fenced (s := s.reach die t) hf
    exact ⟨_, execHeartbeatMiss_link hf hne hr hdue hheard hthird, hfenced⟩
  case notFenced => exact (execUnitReturn_first h hp hfirst).trans (congrArg Host.Outcome.next (if_pos (by rw [hf]; rfl)))
  case dieFenced => exact (execUnitReturn_first h hp hfirst).trans (congrArg Host.Outcome.next ((if_neg (by rw [hf]; decide)).trans (if_pos hdie)))
  case quire => exact ⟨_, execSelfTestDone_quire h hp hkind, State.cmd?_finish .., State.quireAt_returned hs hdie hunit ..⟩
  case link =>
    obtain ⟨x, hfenced, hgen, he⟩ := execSelfTestDone_link h hp hkind
    obtain ⟨hf, hg⟩ := State.spineAt_returned s.takeFresh s (c.f 16 1) (c.f 18 1) x id OK ((s.spineAt (c.f 16 1) (c.f 18 1)).gen + 1).toNat
    exact ⟨_, he, State.cmd?_finish .., hf.trans hfenced, hg.trans hgen⟩

end Sys2Proof.Machine
end
